-- ==== Sys2Proof/Word.lean ====
section
/-! DEFINITION. The word types of the model and their plainest arithmetic. -/

namespace Sys2Proof

/-- One byte of a message, an image or a check value. -/
abbrev Byte := BitVec 8

/-- One circulating record, one block payload, one 64-bit entry (R300, R392). -/
abbrev Word64 := BitVec 64

/-- One 48-bit reference payload (R306). -/
abbrev Ref48 := BitVec 48

/-- Sensor channels CH000 to CH255. -/
abbrev Ch := Fin 256

/-- Lanes L00 to L39. -/
abbrev Lane := Fin 40

/-- Worker ports, counted from 0: port Pp is p - 1. -/
abbrev Port := Fin 32

/-- Uplinks, counted from 0: uplink u is u - 1. -/
abbrev Uplink := Fin 12

/-- Environmental channels E00 to E15. -/
abbrev EnvCh := Fin 16

end Sys2Proof
end

