-- ==== Sys2Proof/Syntax.lean ====
section
/-! DEFINITION. The commands of the block: one constructor of Instr for every row of spec/opcode_table.json, and the
operands they carry. The table gives its rows no fields: the operands are what the rule of the row says comes
from outside (assumption 1). -/

namespace Sys2Proof

/-- Where a dictionary request comes from (R398): a CAN bus with a source node, the in-band path, or, at a worker, the
ORIGIN of a proxied message's envelope (R405, R413). -/
inductive Origin where
  | canA (node : BitVec 7)
  | canB (node : BitVec 7)
  | inband
  | proxiedCan
  | proxiedUnit
deriving DecidableEq, Repr, Inhabited

/-- The part of a message header that every request shares (R400), with its origin. `pair` says that the request was
addressed to the pair address (R419). -/
structure Hdr where
  origin  : Origin
  pair    : Bool
  path    : Nat
  tag     : BitVec 8
  session : Nat
deriving DecidableEq, Repr, Inhabited

/-- A crossing frame: the payloads of blocks B0 to B7 (R300). -/
structure CFrame where
  b0 : Word64
  b1 : Word64
  b2 : Word64
  b3 : Word64
  b4 : Word64
  b5 : Word64
  b6 : Word64
  b7 : Word64
deriving DecidableEq, Repr, Inhabited

/-- A frame as it stands on a lane's balls (R269): the eight sync headers, that of B0 in [15:14], and the scrambled payloads. -/
structure LineFrame where
  sync   : BitVec 16
  blocks : CFrame
deriving DecidableEq, Repr, Inhabited

/-- One step of a DFE's adaptation, as its slicers see it (R274): the sign of the error and of the six bits decided before. -/
structure Lms where
  lane     : Lane
  errNeg   : Bool
  decided  : BitVec 6
deriving DecidableEq, Repr, Inhabited

/-- A point inside a crossing: core cycle and phase (R100). -/
structure Point where
  cycle : BitVec 5
  phase : BitVec 6
deriving DecidableEq, Repr, Inhabited

/-- What fuse load finds (R432, R434, R471, R344): the word that has no majority after three attempts, the flash found
(its capacity in Mbit), whether the identity certificate's digest and signatures check, and the fixed engines whose
known answer fails (bit l of `laneFails` is lane l; `tmrFails` is laid out as 6440.02). -/
structure FuseReport where
  noMajority   : Option Nat
  flash        : Option Nat
  certDigestOk : Bool
  certSub      : Fin 10
  laneFails    : BitVec 40
  tmrFails     : BitVec 32
deriving DecidableEq, Repr, Inhabited

/-- A port of a folio's TOPOLOGY section (R226, R211). `port` is 1 to 32, `width` 1, 2 or 4; `delay` is the declared
one-way delay in whole crossings, rounded up; `home` is an uplink number, 0 where none; `tile` is the expected serial. -/
structure PortPlan where
  port  : Nat
  width : Nat
  lane  : Nat
  delay : Nat
  home  : Nat
  tile  : Nat
deriving DecidableEq, Repr, Inhabited

/-- A retirement plan of a folio (R226, R384): the key (slices retired, lanes, ports), the plan's number and REDUCED
flag, and what it has in place of sections 0x0003 to 0x0006: the injected mask and the regular list, as RS entries; L, Q and P, as RS
entries, with RETAIN_LIMIT; the lane tables, with the ports as they are then carried; the merge order and A_p. -/
structure RetPlan where
  slices  : Nat
  lanes   : List Nat
  ports   : List Nat
  number  : Nat
  reduced : Bool
  mask    : Nat
  list    : List (Nat × Nat)
  stack   : List (Nat × Nat)
  retain  : Option Nat
  portPlans : List PortPlan
  merge   : List (Nat × List Nat)
  allowance : List (Nat × Nat)
  tables  : List (Nat × List Nat)
deriving DecidableEq, Repr, Inhabited

/-- The decoded content of a folio body (R224 to R227). The spec names the content of each section and gives no byte
layout for most, so the sections arrive decoded (assumption 9); the values of sections 0x0003, 0x0004, 0x0007, 0x0009 and 0x000E stand
in `entries`. `scrub` are the SCRUB_PLAN's rows as (bank, port cycle, address step). `badSection` is the refusal of check 6 of R228
where the sections themselves are ill-formed. -/
structure Folio where
  role      : Nat
  topology  : Nat
  serial    : Nat
  version   : Nat
  orbitLen  : Nat
  fxMin     : Nat
  fxMax     : Nat
  digest    : List Byte
  ports     : List PortPlan
  uplinks   : List (Nat × Nat)
  entries   : List (Nat × Nat)
  retain    : Nat
  tables    : List (Nat × List Nat)
  merge     : List (Nat × List Nat)
  allowance : List (Nat × Nat)
  span      : Nat
  maxCirc   : Nat
  scrub     : List (Nat × Nat × Nat)
  plans     : List RetPlan
  proven    : List (Nat × Nat × Nat)
  slices    : List (Nat × List Byte)
  badSection : Bool
deriving DecidableEq, Repr, Inhabited

/-- What the outside algorithms say of a signed image (R464 checks 5 and 7 to 9, for which the spec names the standards
SHA-384, ECDSA and HSS and does not give them): `keyHash` is the SHA-384 of the image's key pair, `imageDigest` its
PAYLOAD_DIGEST as computed, and the two signature results; `folio` is the decoded body. -/
structure Verdict where
  keyHash   : List Byte
  imageDigest : List Byte
  ecdsaOk   : Bool
  hssOk     : Bool
  folio     : Folio
deriving DecidableEq, Repr, Inhabited

/-- What a slice delivers at the end of its period (R127, R150): for an input from outside the array (an environmental channel, a
monitored rail) its code; for a shaper's output or a hold, whose value the array computes (R532), the codes by which the conversion
deviates from it through noise and within the tolerances of R71 and R76. -/
structure Conv where
  code       : BitVec 12
  dev        : Int
  metastable : Bool
deriving DecidableEq, Repr, Inhabited

/-- What a calibration run estimates (R145): offset in codes/16, gain as Q16.16, 14 bit weights. -/
structure CalResult where
  offset  : Int
  gain    : Nat
  weights : List Nat
deriving DecidableEq, Repr, Inhabited

/-- The memory that a scrubbed word belongs to (R190, R374, R376, R377): a stack's entry by its address, a word of its crossing directory
by its index, a queue's word by its place from the oldest, a lane receive store, a compression engine's hash table or history (by the byte's
distance from its end), a place of the event history ring, a regular result by its list entry, eight bytes of the staging store, a
configuration set, a copy of a triple-modular word, or any other. -/
inductive Memory where
  | stack (r : Fin 16) (addr : BitVec 11)
  | directory (r : Fin 16) (index : BitVec 11)
  | queue (q : BitVec 8) (place : BitVec 10)
  | laneStore (l : Lane)
  | compression (u : Fin 12)
  | history (u : Fin 12)
  | eventRing (place : BitVec 10)
  | regularResult (entry : BitVec 10)
  | staging
  | configSet
  | tripleCopy
  | other
deriving DecidableEq, Repr, Inhabited

/-- What the scrub, or a read of the crossing, finds at one word of a memory bank (R375 to R377). The spec numbers no banks, so the bank's
number comes with the finding. -/
structure ScrubFind where
  bank          : BitVec 12
  word          : BitVec 16
  memory        : Memory
  uncorrectable : Bool
  byRead        : Bool
deriving DecidableEq, Repr, Inhabited

/-- What the analogue and clock circuits report at a crossing boundary: the measured crossing frequency in mHz
(2800.04), channels with the DC leakage of their sensors in nA (R70), the charges that reach inputs in the crossing that begins, in
0.01 fC with their sign (R532), the crossing markers that arrive at receive halves in it (R114), the schedule tables whose position
disagrees (R238), whether a voter of triple-modular state finds no majority (R357 code 1), the copies that dissent, by the site that owns
the word (R374, R378), the DFE adaptation steps of the crossing, each 256 bits long (R274), and the decodings of compression engines that
come out wrong in the crossing that ends, as (uplink less 1, number of the encoding in the crossing, error or 0 for a mismatch) (R330). -/
structure CrossInput where
  fx       : Nat
  leakage  : List (Ch × Int)
  pulses   : List (Ch × Point × Int)
  markers  : List (Lane × Point)
  badTables : List Nat
  voterFail : Bool
  dissents : List (BitVec 16 × Fin 3)
  lms      : List Lms
  upsets   : List (Fin 12 × Nat × Fin 5)
deriving DecidableEq, Repr, Inhabited

/-- The commands: one constructor per row of spec/opcode_table.json. -/
inductive Instr where
  -- power, resets and boot
  | powerOnReset (roleSel twinId : Bool)
  | pinReset
  | rstNRise (roleSel twinId : Bool)
  | fuseLoad (r : FuseReport)
  | bootFolioReadDone (image : List Byte)
  | folioProcessed (v : Verdict)
  | bookplateRead (image : Option (List Byte))
  | bookplateRetry
  | bookplateReread (reads : List (Option Word64))
  | probeBookplateRead (e : EnvCh) (image : Option (List Byte))
  | probeBookplateReread (e : EnvCh) (reads : List (Option Word64))
  | flashFolioWrite (h : Hdr) (image : List Byte) (v : Verdict)
  | preferredSlotWrite (h : Hdr) (slot : BitVec 8)
  | deviceRestart (h : Hdr) (key : BitVec 32)
  | commRestart (h : Hdr) (key : BitVec 32)
  | subsystemReset (h : Hdr) (sub : BitVec 8) (value : BitVec 8)
  | subsystemResetEnd (block : Fin 9)
  -- time
  | crossingBoundary (i : CrossInput)
  | orbitBoundary (i : CrossInput)
  | corePllLock
  | corePllUnlock
  | timingWord (dom : Fin 2) (x : LineFrame) (margin : Nat)
  | domainLost (dom : Fin 2)
  | resyncNeededTick
  | domainSwitchRequest (h : Hdr) (dom : BitVec 8)
  | domainSwitchExecute
  | alignDelayWrite (h : Hdr) (side : Fin 2) (d : BitVec 32)
  | roundTripCampaignEnd (p : Port)
  | resync (count : BitVec 17)
  | resyncTakeEffect
  | mergeResync
  | timetableEntryWrite (h : Hdr) (entry : BitVec 8) (second : Bool) (value : Word64)
  | none (entry : BitVec 8)
  | calFire (entry : BitVec 8)
  | swap (entry : BitVec 8)
  | regularStart (entry : BitVec 8)
  | measure (entry : BitVec 8)
  | timeMark (entry : BitVec 8)
  | todMark (entry : BitVec 8)
  | domainSwitch (entry : BitVec 8)
  -- edges
  | ltLeadingEdge (c : Ch) (at_ : Point) (level : Int)
  | ltRiseMerged (c : Ch) (at_ : Point) (level : Int)
  | ltTrailingEdge (c : Ch) (at_ : Point) (level : Int)
  | deadTimeEnd (c : Ch)
  | entrySaturated (c : Ch)
  | htLeadingEdge (c : Ch) (at_ : Point) (level : Int)
  | htOrphan (c : Ch)
  | holdClose (c : Ch) (bank : Fin 2)
  | channelSettled (c : Ch)
  | binCalIterationEnd (counts : List Nat)
  | binCalRestart (h : Hdr) (value : BitVec 8)
  | programmeEnable (h : Hdr) (prog : Fin 16) (config : BitVec 32)
  | armEdge (falling : Bool) (at_ : Point)
  | shotEnd
  | campaignAbort (h : Hdr) (value : BitVec 8)
  -- converters
  | slotPeriodStart (half : Bool) (codes : List Conv)
  | calRunEnd (r : CalResult)
  -- classification and accepts
  | classifyEntry (c : Ch)
  | channelTimeout (c : Ch)
  | autoAcceptDue
  | selfTriggerDropped
  -- stacks and queues
  | stackWrite (r : Fin 16)
  | windowRead
  | recordRelease
  | scrubCycle (found : List ScrubFind)
  | queueRecordWrite (q : BitVec 8) (record : Word64)
  | queueStaleClose (q : BitVec 8)
  | queueHoldDrain (q : BitVec 8)
  -- sets
  | swapOrbitWrite (h : Hdr) (orbit : Word64)
  | swapDisarm (h : Hdr)
  | setSwap
  | shadowHoldEnd
  | rsEntryWrite (h : Hdr) (index : BitVec 16) (sub : BitVec 8) (value : List Byte)
  | overContractAged (p : Port)
  -- lanes
  | trainingAttempt (l : Lane)
  | trainingFrame (l : Lane) (x : LineFrame) (margin : Int)
  | signalLost (l : Lane) (cause : BitVec 2)
  | frameLate (l : Lane) (margin : Int)
  | framePresented (l : Lane) (x : LineFrame) (margin : Nat)
  | frameAct
  | laneConfigWrite (h : Hdr) (l : Lane) (value : BitVec 32)
  | prbsOff (h : Hdr) (l : Lane)
  | prbsGenerate (h : Hdr) (l : Lane)
  | prbsCheck (h : Hdr) (l : Lane)
  | prbsBoth (h : Hdr) (l : Lane)
  | prbsCheckerLocked (l : Lane)
  -- downward commands
  | nop
  | accept (kind : BitVec 2) (orbit : BitVec 2) (slot : BitVec 14)
  | calFireCommand (mask : BitVec 16) (at_ : Point) (count : BitVec 12)
  | measureCommand (prog : BitVec 4) (scope : BitVec 2) (count : BitVec 12)
  | swapCommand (orbit : BitVec 44)
  | claimSet (unitB : Bool) (value : BitVec 8)
  | claimRelease (unitB : Bool)
  | claimRestore (unitB : Bool)
  | dictFast (path : BitVec 6) (index : BitVec 16) (sub : BitVec 8) (value : BitVec 8)
  -- the twin pair
  | crosslinkFrame (l38 l39 : Option LineFrame)
  | selftestEnd (otherFail : BitVec 8)
  | mismatchDecision
  | crosslinkLost
  | crosslinkRestored
  | unitRelease
  | pairingBoundary
  | pairingTimeout
  | resyncFollowStart
  | resyncFollowEnd
  | resyncSynchronised
  | baseClaimWrite (h : Hdr) (value : BitVec 8)
  -- retirement
  | planBoundary
  | planWrite (h : Hdr) (value : Word64)
  | retirementListWrite (ok : Bool)
  | listWriteRetry (ok : Bool)
  | restoreSite (h : Hdr) (site : BitVec 16)
  | retireSite (h : Hdr) (site : BitVec 16)
  | clearFaultLog (h : Hdr) (value : BitVec 8)
  -- the object dictionary
  | read (h : Hdr) (index : BitVec 16) (sub : BitVec 8)
  | write (h : Hdr) (index : BitVec 16) (sub : BitVec 8) (body : List Byte)
  | download (h : Hdr) (index : BitVec 16) (sub : BitVec 8) (length : BitVec 32)
  | segment (o : Origin) (tag seq : BitVec 8) (data : List Byte)
  | segmentAck (o : Origin) (tag next : BitVec 8)
  | abort (h : Hdr) (code : BitVec 32)
  | catalogue (h : Hdr) (index : BitVec 16) (sub : BitVec 8)
  | login (h : Hdr) (level : BitVec 8) (credential : List Byte) (v : Verdict)
  | logout (h : Hdr)
  | event (p : Port) (message : Word64)
  | transferTimeout (o : Origin) (tag : BitVec 8)
  | sessionTimeout (session : BitVec 7)
  | loginLockoutEnd
  | identifyFrame (busB : Bool) (src : BitVec 7) (identity : Word64) (node : BitVec 8)
  | canNodeIdConflict (busB : Bool)
  | heartbeat
  | canBusOff (busB : Bool)
  | canBusRecovered (busB : Bool)
  | canSyncAcquired (busB : Bool)
  | inbandMessage (envelope : Word64) (message : List Byte)
  | serviceRecord (p : Option Port) (record : Word64)
  | proxyTimeout (p : Port) (tag : BitVec 8)
  | pairWriteApply
  | keep (h : Hdr) (key : BitVec 32)
  | keepComplete (ok : Bool)
  | forget (h : Hdr) (key : BitVec 32)
  | latchClear (h : Hdr) (word : Fin 8) (bits : BitVec 32)
  | historyClear (h : Hdr) (value : BitVec 8)
  | registerWrite (h : Hdr) (index : BitVec 16) (sub : BitVec 8) (value : List Byte)
  -- check-value units
  | cvuStart (h : Hdr) (u : Fin 16)
  | cvuStop (h : Hdr) (u : Fin 16)
  | cvuData (h : Hdr) (u : Fin 16) (data : List Byte)
  | cvuRunningValueWrite (h : Hdr) (u : Fin 16) (value : Word64)
  -- release
  | readyTimeout
  | bootReady
  | bootReadyRepeat
  | releaseDecision
  | releaseOrbitWrite (h : Hdr) (orbit : Word64)
  | bootReleased
  -- security
  | rollbackCommit (h : Hdr) (key : BitVec 32) (burns : List Bool)
  | ownerFirstKey (h : Hdr) (hash : List Byte) (burns : List Bool)
  | ownerKeyBurn (h : Hdr) (image : List Byte) (v : Verdict) (burns : List Bool)
  | ownerKeyRevoke (h : Hdr) (image : List Byte) (v : Verdict) (burns : List Bool)
  | vendorKeyRevoke (h : Hdr) (image : List Byte) (v : Verdict) (burns : List Bool)
  | unlockTokenWrite (h : Hdr) (image : List Byte)
  | attestNonceWrite (h : Hdr) (nonce : List Byte)
  | attestReportReady (burns : List Bool)
  -- environment, thermal and supply
  | tempMeasurement (readings : List Int)
  | sensorsDegradedTick
  | supplyWarningBegin (rail : Fin 5) (millivolts : Nat)
  | supplyWarningEnd
  | supplyFreezeEnd
  | envWireExcursion (e : EnvCh)
  | envFaultEnter (e : EnvCh)
  | envFaultClear (e : EnvCh)
  | envoutPeriod (o : Fin 4)
  -- JTAG
  | idcode
  | samplePreload (load : Option (List Bool))
  | extest
  | clamp
  | highz
  | bypass (code : BitVec 8)
  | tapReset
  -- the rest of the table
  | clockRecoveryLocked (l : Lane) (ctle : BitVec 4) (taps : List Int)
  | canErrorPassive (busB : Bool) (entered : Bool) (counters : BitVec 16)
  | canFrameIgnored (busB : Bool)
  | opcodeNotListed (h : Hdr) (op : BitVec 8) (index : BitVec 16) (sub : BitVec 8)
  | commonModeInsideWindow (e : EnvCh)
  | bootRecordSealed (ok : Bool)
deriving DecidableEq, Repr

end Sys2Proof
end

