-- ==== Sys2Proof/Config.lean ====
section
/-! DEFINITION. What the spec leaves to the implementation, and the free values. None of these has a body that a proof
could read. -/

namespace Sys2Proof.Config

/-- A value the spec leaves open. The step applies it to `Block.free`, which each use advances, so that nothing is known
of two uses together (assumption 2). -/
opaque freeWord : Nat → Word64

/-- By how many codes a leakage beyond 200 nA moves a pedestal (R70), for the low or the high gain: the spec gives no slope. -/
opaque leakShift : Bool → Int → Int

/-- A channel's untrimmed error of the LT threshold in 0.01 fC, held to ±0.8 fC where it is used (R78). -/
opaque ltOffset : Nat → Int

/-- A channel's untrimmed error of the HT threshold in 0.01 fC, held to ±3.2 fC where it is used (R78). -/
opaque htOffset : Nat → Int

/-- The hash of four bytes by which the compression engine keeps the latest position of a group of four (R329): the spec
names no function. -/
opaque hash4 : Byte → Byte → Byte → Byte → Nat

/-- What an entry reads as whose count has passed its width, by entry, count and crossing: the spec states no value. -/
opaque countWord : Nat → Nat → Nat → Word64

/-- SHA-384 of a byte string, by place (R461): the spec names the standard and does not give it. -/
opaque sha384 : List Byte → Nat → Byte

/-- The 156 bytes of the device's own ECDSA and HSS public keys (R470): they follow from a secret that nothing reads. -/
opaque deviceKey : Nat → Byte

/-- The bytes of the two signatures that the device makes over a header with an epoch's leaf (R461, R476), by place. -/
opaque signature : List Byte → Nat → Byte

/-- The bytes of the identity certificate that the spec does not state (R471). -/
opaque certificate : Nat → Byte

/-- The JEDEC manufacturer identity of IDCODE (R522): the spec gives no number. -/
opaque manufacturer : BitVec 11

/-- The length of the boundary-scan register (R522): the spec gives none. -/
opaque boundaryLength : Nat

end Sys2Proof.Config
end

