-- ==== Sys2Proof/Machine/State.lean ====
section
/-! DEFINITION. The state of the block as plain data: everything the spec gives the machine, and the queue of waiting
commands. Dictionary values and counters stand in one sparse table keyed by index * 256 + sub-index (R390); state that
is not an entry stands in the structures below, one per chapter. -/

namespace Sys2Proof.Machine

/-- A sparse table in one canonical form: keys strictly rising, no entry equal to the value an unlisted key reads as. -/
abbrev Tab (α : Type) := List (Nat × α)

/-! ### Fuses and flash (chapters 17 and 18) -/

/-- The fuse words (R432, R463, R466, R476). Trims and coefficients are the fuse values of R73, R110, R145, R276 and
2841.03. Slots are listed vendor 0 and 1, then owner 0 to 3. -/
structure Fuses where
  role          : BitVec 2 := 0
  profileM      : Bool := false
  options       : BitVec 32 := 0
  dieRevision   : BitVec 16 := 0
  identity      : Word64 := 0
  keyHashes     : List (List Byte) := []
  burned        : BitVec 6 := 0b000011
  revoked       : BitVec 6 := 0
  floor         : Nat := 0
  epochs        : Nat := 0
  binTrims      : List Nat := List.replicate 64 0
  slices        : List CalResult := []
  ctle          : Nat := 0
  dfe           : List Int := List.replicate 6 0
  tFix          : Nat := 0
  tapCoef       : List Int := List.replicate 64 0
deriving DecidableEq, Repr, Inhabited

/-- The boot flash (R434 to R436, R422, R386): its capacity, the two keep copies, the retirement list, the boot record
and the two folio slots. -/
structure Flash where
  capacity  : Nat := 0
  present   : Bool := false
  error     : Bool := false
  keep0     : Option (Tab Nat) := none
  keep1     : Option (Tab Nat) := none
  latest    : Nat := 1
  list      : List Word64 := []
  preferred : Nat := 0
  serial0   : Nat := 0
  serial1   : Nat := 0
  slot0     : List Byte := []
  slot1     : List Byte := []
deriving DecidableEq, Repr, Inhabited

/-! ### Power, boot and release (chapters 1 and 17) -/

/-- Where the device stands in its start-up (R449, R3, R450). -/
inductive Phase where
  | powerReset | pinReset | fuseLoad | running | stopped | shutdown
deriving DecidableEq, Repr, Inhabited

/-- What the device's folio slice or boot image is doing in the staging store (2020.03). -/
inductive Staging where
  | idle | receiving | verifying | waiting
deriving DecidableEq, Repr, Inhabited

/-- Boot state that is no entry (R14, R437 to R448). `triedSlots` and `refusals` are the slots whose image has been refused, with the
codes; `fromFlash` says that the image being verified was read at boot. `ready` lists the ports whose BOOT_READY has been merged,
`decided` is n_R, `written` says that the ports have been sent it, `joining` the ports that join later with their orbits, `aligned` the
downlink sides whose D has been applied since the reset (R443 bit 7). `bootWriteSlot` is the image and SERIAL being written to flash,
`bootWriteBy` the requester, the slot and whether the response has been given up. `restartDue` is a restart that acts at the end of the crossing (1 communication, 2 device,
3 thermal shutdown, 4 thermal recovery), `resetDue` the subsystem resets that do (R423), `releasedAt` the crossing of the release,
`discards` the replies that each running subsystem reset has discarded (R453), `countFrom` the crossing from which READY_TIMEOUT counts
for the workers: the pairing boundary, or unit release in solo topology (R446). -/
structure Boot where
  phase      : Phase := .powerReset
  roleC      : Bool := false
  unitB      : Bool := false
  cause      : Nat := 1
  triedSlots : List Nat := []
  refusals   : List Nat := []
  noFolio    : Bool := false
  fromFlash  : Bool := false
  resetting  : Tab Nat := []
  readySince : Option Nat := none
  lastReady  : Option Nat := none
  unitReleased : Bool := false
  decided    : Option Nat := none
  released   : Bool := false
  releasedAt : Nat := 0
  written    : Bool := false
  ready      : List Nat := []
  sliceRefused : List Nat := []
  joining    : List (Nat × Nat) := []
  channelsAt : Nat := 0
  bootWriteSlot : Option (List Byte × Nat) := none
  bootWriteBy   : Option (Hdr × Nat × Bool) := none
  times      : List Nat := []
  aligned    : List Nat := []
  restartDue : Nat := 0
  resetDue   : List Nat := []
  discards   : Tab Nat := []
  countFrom  : Option Nat := none
deriving DecidableEq, Repr, Inhabited

/-! ### Configuration sets (chapter 8) -/

/-- SHADOW_STATE of a set (2013.01). -/
inductive SetState where
  | empty | verified | edited
deriving DecidableEq, Repr, Inhabited

/-- A configuration set (R230): the folio it was unpacked from and the values of its RS entries that differ from their
defaults. -/
structure CfgSet where
  state   : SetState := .empty
  edits   : Nat := 0
  entries : Tab Nat := []
  folio   : Folio := default
  digest  : List Byte := []
deriving DecidableEq, Repr, Inhabited

/-- The two sets, the armed swap, the shadow hold and the staging store (R230 to R236). `act` is none before a boot
folio has been unpacked. `armed` is the orbit of the armed swap, `swaps` how many sets have become active before this one, `by_` who has downloaded the image
that is being verified and whether the response has been given up (R398), `parkAt` the crossing at which halves that no link uses any more go Off or Dormant (R292). `planCuts` is the
retirement plan in force and `planList` the regular list that goes with the mask in force, as RS entries (R152, R384). -/
structure Sets where
  act       : Option CfgSet := none
  shd       : CfgSet := {}
  armed     : Option Nat := none
  heldFrom  : Option Nat := none
  staging   : Staging := .idle
  image     : List Byte := []
  waiting   : Option CfgSet := none
  by_       : Option (Hdr × Bool) := none
  depths    : Nat × Nat × Nat := (0, 4, 2)
  planCuts  : Option RetPlan := none
  planList  : List (Nat × Nat) := []
  swaps     : Nat := 0
  parkAt    : Option Nat := none
  badTables : List Nat := []
  lastBad   : Nat := 0
deriving DecidableEq, Repr, Inhabited

/-! ### Time (chapter 2) -/

/-- Time of day (R43): TAI seconds, nanoseconds and 2^-32 ns. -/
structure Tod where
  sec  : Nat := 0
  nano : Nat := 0
  frac : Nat := 0
deriving DecidableEq, Repr, Inhabited

/-- One orbit that has begun: its number, the crossing number of its slot 0, its length and which set governs it, as
`Sets.swaps` counts them (R39, R65). -/
structure OrbitRec where
  orbit : Nat
  start : Nat
  len   : Nat
  set   : Nat
deriving DecidableEq, Repr, Inhabited

/-- State of a timing domain or tracker (R49). -/
inductive DomState where
  | lost | acquiring | qualified
deriving DecidableEq, Repr, Inhabited

/-- A tracker (R46 to R52): words of the current orbit by slot, runs of complete and incomplete orbits, the last
complete announcement with the crossing at which its orbit begins and that orbit's length, the residual, the domain delay, the arrivals
of the last 1024 crossing markers as (slot that the marker begins, LSB_phi), newest first, and the echoes of R123. `head` is the
internal crossing of the slot that the latest header named, `assessed` says that the present orbit of words has been judged. -/
structure Tracker where
  state     : DomState := .lost
  words     : Tab Ref48 := []
  bad       : Bool := false
  good      : Nat := 0
  incomplete : Nat := 0
  qualRun   : Nat := 0
  lastOrbit : Option Nat := none
  annOrbit  : Option Nat := none
  annTod    : Option Tod := none
  annAt     : Nat := 0
  annLen    : Nat := 0
  residual  : Int := 0
  delay     : Int := 0
  head      : Int := 0
  assessed  : Bool := true
  arrivals  : List (Nat × Int) := []
  echoes    : List Int := []
deriving DecidableEq, Repr, Inhabited

/-- A round-trip campaign of one port (R122): the crossing it began in, valid shots, the sum of their intervals, the orbits it has
run, and whether it is the port's first since the link came up (R445). -/
structure PortCampaign where
  from_  : Nat := 0
  shots  : Nat := 0
  sum    : Int := 0
  orbits : Nat := 0
  first  : Bool := false
deriving DecidableEq, Repr, Inhabited

/-- A pending orbit resync (R41): crossing E, the orbit number taken there, none where it advances by one, and the header crossing of
the command. -/
structure Resync where
  at_   : Nat
  orbit : Option Nat
  head  : Nat
deriving DecidableEq, Repr, Inhabited

/-- A switch that is planned (R50 to R54): to domain 0 or 1, or to holdover (2), at the crossing `from_`, or, where it is for an orbit
boundary, at the first slot 0 from that crossing on. -/
structure Switch where
  target : Nat
  from_  : Nat
  orbit  : Bool
deriving DecidableEq, Repr, Inhabited

/-- Timekeeping (R34 to R65). `now` is the 64-bit crossing count of 1000.07; `todPrev` is the time of day announced for the last slot 0
while the increment has still to be set (R44), `incSet` says that it has been; `slew` what is left of an offset in LSB_phi / 4096;
`mark` is the orbit number of the last resync mark kept with its header crossing, `markOut` the number of a resync mark still to be
placed in a downlink frame (R58); `fired` the one-shot entries used up since the set became active, `acted` the entries that have
acted in this crossing. -/
structure Time where
  locked    : Bool := false
  everLocked : Bool := false
  now       : Nat := 0
  slot      : Nat := 0
  orbit     : Nat := 0
  log       : List OrbitRec := []
  tod       : Tod := {}
  inc       : Int := 0x00A0000000
  base      : Int := 0x00A0000000
  todSet    : Bool := false
  incSet    : Bool := false
  todPrev   : Option Tod := none
  todCopy   : Option Tod := none
  domA      : Tracker := {}
  domB      : Tracker := {}
  selected  : Option (Fin 2) := none
  holdover  : Bool := false
  switchTo  : Option Switch := none
  acquired  : Bool := false
  selAt     : Nat := 0
  acted     : List Nat := []
  slew      : Int := 0
  slewStep  : Int := 0
  resync    : Option Resync := none
  mark      : Option (Nat × Nat) := none
  markOut   : Option Nat := none
  markMissed : Bool := false
  lastE     : Option Nat := none
  mergeE    : Option Nat := none
  alignDue  : Tab Nat := []
  campaigns : Tab PortCampaign := []
  fired     : List Nat := []
  calDone   : List (Nat × Nat × Point) := []
  fx        : Nat := 0
  fxOut     : Bool := false
deriving DecidableEq, Repr, Inhabited

/-! ### Channels, edges and converters (chapters 3 to 6) -/

/-- A hold bank (R74): free; taken by the LT edge at the absolute instant `lead`, to close at the instant `due`, in LSB_phi; or closed
and pending conversion, with the codes that the high-gain and the low-gain hold stand at. -/
inductive Bank where
  | free
  | taken (lead due : Nat)
  | pending (hg lg : Nat)
deriving DecidableEq, Repr, Inhabited

/-- The amplitude of an entry (R158): not yet settled; both codes with their supply flag; abandoned; never held. -/
inductive Amp where
  | waiting
  | codes (hg lg : BitVec 12)
  | abandoned
  | noHold
deriving DecidableEq, Repr, Inhabited

/-- A stamp-queue entry (R104 to R108). `leadSlot` and `leadPt` are the leading stamp, `leadAt` its crossing number, `htExtra` says that
further HT edges were ignored, `fallAt` is the stamp of a trailing edge inside the dead time. -/
structure Entry where
  leadSlot : Nat
  leadPt   : Point
  leadAt   : Nat
  htDelta  : Option Int := none
  htExtra  : Bool := false
  merged   : Bool := false
  bank     : Option (Fin 2) := none
  closed   : Option Nat := none
  tot      : Nat := 0
  fallAt   : Option Nat := none
  amp      : Amp := .waiting
  settled  : Nat := 0
  trigMask : Bool := false
deriving DecidableEq, Repr, Inhabited

/-- One sensor channel (R73 to R85, R103 to R108, R162, R163, R532). `lastLead`, `lastTrail` and `lastHt` are the last edges that its
TDCs stamped, in absolute LSB_phi; `high` says that the LT output is high. `settle` is the crossing at which settling ends, `retiredAt`
that from which a retired channel is masked. `excess` is the sensor's leakage beyond 200 nA, with its sign; `pulses` are the charges of
the last 32 crossings as (instant, 0.01 fC, injected by a command). -/
structure Chan where
  bank0    : Bank := .free
  bank1    : Bank := .free
  entries  : List Entry := []
  htPend   : List Nat := []
  lastLead : Option Nat := none
  lastTrail : Option Nat := none
  high     : Bool := false
  excess   : Int := 0
  pulses   : List (Nat × Int × Bool) := []
  settle   : Option Nat := none
  retiredAt : Option Nat := none
  lastHt   : Option Nat := none
  ltCount  : Nat := 0
  noisyRun : Nat := 0
  noisyUp  : Bool := false
  busyOrbit : Nat := 0
  timer    : Nat := 0
  silent   : Bool := false
  bHG      : Int := 0
  nHG      : Nat := 0
  bLG      : Int := 0
  nLG      : Nat := 0
deriving DecidableEq, Repr, Inhabited

/-- An LT leading edge as the primitive counts it (R173): channel, instant, crossing, and the HT edge assigned to its entry as
(HT_DELTA, crossing). -/
structure Lead where
  ch    : Nat
  lead  : Nat
  cross : Nat
  ht    : Option (Int × Nat) := none
deriving DecidableEq, Repr, Inhabited

/-- A hold pair that waits for conversion, or has been assigned (R131 to R136). Periods are numbered two to a crossing.
`cap` is a baseline capture with its flags. -/
structure Pair where
  ch     : Nat
  bank   : Nat
  elig   : Nat
  cap    : Bool := false
  pileup : Bool := false
  supply : Bool := false
  kept   : Bool := true
deriving DecidableEq, Repr, Inhabited

/-- What a slice converts in a period: one hold of a pair; a regular entry, of a shaper with the code that its output stood at; the
reference, where it is the carrel slice; nothing (R133, R137, R145). -/
inductive Job where
  | hold (p : Pair) (low : Bool)
  | regular (entry word : Nat) (settling pileup fault supply : Bool) (range level : Nat)
  | reference
  | idle
deriving DecidableEq, Repr, Inhabited

/-- A converter slice (R127, R145 to R151). `condemned` says that its retirement is due, `accepted` that it has had an
accepted run since the coefficients last returned to their fuse values. -/
structure Slice where
  rank     : Option Nat := none
  coef     : CalResult := ⟨0, 0, []⟩
  fails    : Nat := 0
  metaRun  : Nat := 0
  retired  : Bool := false
  condemned : Bool := false
  accepted : Bool := false
deriving DecidableEq, Repr, Inhabited

/-- The converter array (R127 to R155). `runDone` are the periods of the run that have begun, `newCoef` the coefficients of an accepted
run until the exchange, `jobs` the conversions of the current period by rank, `bound` the injected assignments of the next one with the
slice each is bound to, `due` says that a rotation is due, `joining` lists restored slices that have no run yet, `samples` the baseline
samples delivered in this crossing as (channel, low gain, code), `abandoned` the pairs abandoned in this orbit. -/
structure Adc where
  slices   : Tab Slice := []
  carrel   : Option Nat := none
  runDone  : Nat := 0
  newCoef  : Option CalResult := none
  initial  : Bool := true
  period   : Nat := 0
  pairs    : List Pair := []
  bound    : List (Nat × Nat × Pair × Bool) := []
  jobs     : List (Nat × Nat × Job) := []
  regPos   : Nat := 0
  regRetry : List Nat := []
  restart  : Option (Nat × Nat) := none
  results  : Tab Nat := []
  maskCut  : Option Nat := none
  frozen   : Bool := false
  due      : Bool := false
  joining  : List Nat := []
  samples  : List (Nat × Bool × Nat) := []
  abandoned : Nat := 0
deriving DecidableEq, Repr, Inhabited

/-- The tile bookplate, or a probe's (R90 to R94, R487, R488). `retried` is the number of failed reads after which the read
has started again. -/
structure Plate where
  state   : Nat := 0
  serial  : Word64 := 0
  image   : List Byte := []
  last    : Word64 := 0
  tries   : Nat := 0
  retried : Nat := 0
  answered : Bool := false
  check   : Nat := 0
  reading : Bool := true
  taken   : Bool := false
  mask    : Nat := 0
deriving DecidableEq, Repr, Inhabited

/-- Bin calibration (R110 to R112): the 64 trims, the counts of the last iteration, iterations since CONVERGING, and, for the crossing
`movedAt`, the trims before the first steps of its boundary with the sums of the steps asked for (R498). `owed` is what compensation has
still to move each tap by, in 2^-16 steps (R497). -/
structure BinCal where
  trims  : List Nat := List.replicate 64 0
  counts : List Nat := []
  since  : Nat := 0
  high   : Bool := false
  base   : List Nat := []
  moved  : List Int := []
  movedAt : Nat := 0
  owed   : List Int := List.replicate 64 0
deriving DecidableEq, Repr, Inhabited

/-- The accumulators of one stop of a campaign (R119). -/
structure StopAcc where
  n : Nat := 0
  s1 : Int := 0
  s2 : Int := 0
  lo : Int := 0
  hi : Int := 0
  order : Nat := 0
  coin : Nat := 0
  noStop : Nat := 0
deriving DecidableEq, Repr, Inhabited

/-- The interval unit's user context (R114 to R119): edges seen as (selector, crossing, stamp), the open window as
(programme, first crossing), the running campaign, whether the arm of the open window began it, the arms of the crossing `armsAt`, the
programmes whose campaign has ended without CONTINUOUS, the arms that downlink commands name for a later crossing as (crossing,
programme, scope), and the last stamped edges of the ARM ball, rising and falling. -/
structure Interval where
  edges    : List (Nat × Nat × Nat) := []
  window   : Option (Nat × Nat) := none
  campaign : Option Nat := none
  fresh    : Bool := false
  lastRise : Option Nat := none
  lastFall : Option Nat := none
  shots    : Nat := 0
  acc      : Tab StopAcc := []
  armsAt   : Nat := 0
  armed    : List Nat := []
  ended    : List Nat := []
  pending  : List (Nat × Nat × Nat) := []
deriving DecidableEq, Repr, Inhabited

/-- A record that classification has formed and that has not yet been written (R158): region, record, the crossing of its
LT edge, the crossing C. -/
structure Formed where
  region : Nat
  record : Word64
  cross  : Nat
  at_    : Nat
deriving DecidableEq, Repr, Inhabited

/-! ### Accepts, stacks and queues (chapters 6 and 7) -/

/-- A self trigger that waits (R178, R180). -/
structure SelfTrig where
  cross : Nat
  sum   : Nat
  made  : Nat
deriving DecidableEq, Repr, Inhabited

/-- An accept that has been forwarded or acted on and whose bookmark is due (R253). `due`, and `fwd` in which it was forwarded, are own
crossings. -/
structure Mark where
  due    : Nat
  fwd    : Nat
  kind   : Nat
  cross  : Nat
  orbit  : Nat
  slot   : Nat
  seq    : Nat
  sum    : Nat
  abandoned : Bool
  noWindow  : Bool
deriving DecidableEq, Repr, Inhabited

/-- Accept forwarding and self triggers (R176 to R180, R253). `recent` are the accepts of the last 2048 crossings as
(crossing named, crossing of forwarding); `external` the accept received in the present crossing as (kind, crossing named);
`holdoff` the last crossing for which no further self trigger is made; `swapFwd` the orbits of armed swaps still to be
forwarded; `command` another command that is forwarded next and `resyncFwd` a resync; `payload` the downward command of
the frame assembled in the present crossing. -/
structure Accepts where
  recent   : List (Nat × Nat) := []
  waiting  : List SelfTrig := []
  external : Option (Nat × Nat) := none
  forcedDue : Bool := false
  lastFwd  : Nat := 0
  holdoff  : Nat := 0
  seq      : Nat := 0
  marks    : List Mark := []
  swapFwd  : List Nat := []
  command  : Option Ref48 := none
  payload  : Ref48 := 0
  fwdNow   : Option Mark := none
  sums     : List (Nat × Nat) := []
deriving DecidableEq, Repr, Inhabited

/-- One resident stack entry (R187 to R192). -/
structure StackEntry where
  addr    : Nat
  record  : Word64
  cross   : Nat
  written : Nat
  freed   : Bool := false
  claimed : Bool := false
  poisoned : Bool := false
deriving DecidableEq, Repr, Inhabited

/-- One stack (R188, R190): its entries from the release pointer on, the pointers, the crossing directory by crossing
mod 2048 as (WRITTEN, SPAN_LOST, FULL_LOST). `rewind` says that the pointers return to 0 when its last
scan ends (R202). -/
structure Stack where
  entries : List StackEntry := []
  wp      : Nat := 0
  rp      : Nat := 0
  dir     : Tab (Nat × Nat × Nat) := []
  rewind  : Bool := false
deriving DecidableEq, Repr, Inhabited

/-- A registered accept (R185, R186, R192): the crossing it names, its kind, the Q and P of its set, its read crossing and
the crossing of its registration. `mark` is the bookmark of a direct-attached F-role (R253). -/
structure RegAccept where
  cross : Nat
  kind  : Nat
  q     : Nat
  p     : Nat
  read  : Nat
  got   : Nat
  late  : Bool
  mark  : Option Word64 := none
deriving DecidableEq, Repr, Inhabited

/-- One stack's part of a scan (R196, R198): the addresses still to scan, the records passed that have not yet entered OUT,
the withdrawals that follow them. -/
structure ScanPart where
  stack  : Nat
  todo   : List Nat
  passed : List Word64
  wds    : List Word64
deriving DecidableEq, Repr, Inhabited

/-- A scan whose read crossing has come (R196, R198): its accept, the crossing it began in, its parts still to be placed,
M-compact records that wait for their group, whether its header is written with its COUNT still open, the words placed
so far, whether the fragment holds M-compact groups (R249). `abandoned` is a fragment of R202. -/
structure Scan where
  acc     : RegAccept
  start   : Nat
  parts   : List ScanPart
  compact : List Nat := []
  header  : Option Word64 := none
  open_   : Bool := false
  placed  : Nat := 0
  groups  : Bool := false
  abandoned : Bool := false
deriving DecidableEq, Repr, Inhabited

/-- A record in a queue, with what the merge keeps beside it: its own crossing (R254), that of its arrival in RQ, whether it is
in-contract (R217), the fragment header it belongs to (R243), whether it is a group word (R244) or a BULK word (R414), whether it is a
withdrawal that the C-role has made for a port's words (R206, R242 row 7). -/
structure QRec where
  word  : Word64
  cross : Nat := 0
  arrived : Nat := 0
  inC   : Bool := true
  hdr   : Option Word64 := none
  group : Bool := false
  throttled : Bool := false
  own   : Bool := false
deriving DecidableEq, Repr, Inhabited

/-- An entry of a queue's refusal table (R206): the count, 65535 where unknown, whether a throttle was in force (R221), and, in RQ, the
fragment header of the first record refused (R243). -/
structure Refused where
  count : Nat := 0
  throttled : Bool := false
  hdr   : Option Word64 := none
deriving DecidableEq, Repr, Inhabited

/-- A closed word of a queue (R203): its frame code, its valid records, the crossing it closed in; `poisoned` under
R377. -/
structure QWord where
  code   : BitVec 8
  recs   : List QRec
  closed : Nat
  poisoned : Bool := false
deriving DecidableEq, Repr, Inhabited

/-- A queue (R203 to R206): closed words oldest first, the open word with the crossing of its first record, the 64-entry
hold, the refusal table by crossing, and the re-arm of the level notice. -/
structure Queue where
  words   : List QWord := []
  open_   : List QRec := []
  openAt  : Nat := 0
  hold    : List QRec := []
  refused : Tab Refused := []
  noticed : Bool := false
deriving DecidableEq, Repr, Inhabited

/-- Stacks, accepts registered and the scans in order of read crossing (chapter 7), with the records formed and not yet
written, and the entries each stack has scanned in the crossing `budgetAt` (R187). -/
structure Stacks where
  list    : Tab Stack := []
  accs    : List RegAccept := []
  scans   : List Scan := []
  formed  : List Formed := []
  budgetAt : Nat := 0
  budget  : List Nat := []
deriving DecidableEq, Repr, Inhabited

/-! ### Merge and compression (chapters 9 and 12) -/

/-- A worker's service stream being assembled, or a BULK stream (R413, R414). -/
structure Assembly where
  data   : List Byte := []
  active : Bool := false
  total  : Nat := 0
  env    : Word64 := 0
deriving DecidableEq, Repr, Inhabited

/-- An outstanding proxy request (R416 to R418): the tag sent, the requester, the entry. `answered` says that a first reply has
come, `left` how many bytes of an upload have still to pass, `release` that it is the write of 1014.03, `value` the D of an alignment
write. -/
structure Proxy where
  tag    : Nat
  hdr    : Hdr
  index  : Nat
  sub    : Nat
  release : Bool := false
  answered : Bool := false
  left   : Nat := 0
  value  : Nat := 0
deriving DecidableEq, Repr, Inhabited

/-- A worker port at a C-role (R217, R241 to R252, R416, R446). `state` is 5201.01: 0 Active, 1 ABSENT, 2 RETIRED, 3 not
in the topology. `wds` are the withdrawals made for its words that wait for row 7, `align` the D that the C-role has written to the worker
last; `tripped` says that the port's first round-trip campaign has begun (R445), `everActive` that the port has been Active. -/
structure PortSt where
  state    : Nat := 3
  excluded : Bool := false
  lastHdr  : Option Word64 := none
  due      : Nat := 0
  counts   : List (Nat × Nat) := []
  wds      : List QRec := []
  occ      : Nat := 63
  proxies  : List Proxy := []
  asm      : Assembly := {}
  bulk     : Assembly := {}
  claim    : Nat := 0
  wasActive : Bool := false
  shadowSerial : Option Nat := none
  align    : Nat := 0
  tripped  : Bool := false
  everActive : Bool := false
deriving DecidableEq, Repr, Inhabited

/-- An uplink (R242, R255, R256, R320 to R332, R496): accession number and orbit sums, the running CRC-24 with its value before the last
word, the compression history newest first with the hash table of R329, and the throttle credit in 1/1600 record. -/
structure UplinkSt where
  accession : Nat := 0
  wds       : Nat := 0
  crc       : BitVec 24 := 0xB704CE
  crcPrev   : BitVec 24 := 0xB704CE
  history   : List Byte := []
  hash      : Tab Nat := []
  pos       : Nat := 0
  restart   : Bool := true
  clearNext : Bool := false
  failRun   : Nat := 0
  credit    : Nat := 8000
  block     : Option (BitVec 8 × List Word64) := none
  occ       : Ref48 := 0
deriving DecidableEq, Repr, Inhabited

/-- The merge (chapter 9). `svcDue` are own service records and the crossing both units merge them in (R356); `cut` says that the
crossing is the resync crossing E on the data grid (R260); `upsets` are the decodings of compression engines that come out wrong in the
crossing, as (uplink, number of the encoding within the crossing, decoder error, 0 for a mismatch) (R330). -/
structure Merge where
  ports   : Tab PortSt := []
  uplinks : Tab UplinkSt := []
  time    : List (Nat × Word64) := []
  tod     : List (Nat × List Word64) := []
  svcDue  : List (Nat × Word64 × Bool) := []
  svcOwn  : List Word64 := []
  bulk    : List QWord := []
  occLog  : List (Nat × List (Nat × Nat)) := []
  cut     : Bool := false
  upsets  : List (Nat × Nat × Nat) := []
deriving DecidableEq, Repr, Inhabited

/-! ### Lanes and frames (chapters 10 and 11) -/

/-- State of a lane half (R265), in the coding of 59ll.02. -/
inductive Half where
  | off | training | active | dormant | retired
deriving DecidableEq, Repr, Inhabited

/-- A lane (R265 to R296): both halves, the bring-up step and attempts, the handshake runs of R286, the depth and margin,
frames presented and waiting for their side's turn or for the next REGION_CRC, the last frame sent, PRBS. DFE taps are in mV / 4.
`top` is the highest step of the attempt before a return to step 1, `best` the best margin of its step 5. `width` is the code of the width
heard last, 4 before any; it stands, with the handshake, at the lowest lane of a port. `wait` are frames that have been checked and wait
for their presentation crossing, with their margin (R288). `scr` and `descr` are the last 58 bits sent and received, `line` what the transmit half has put on its balls in the
present crossing (R269). `invertCrc` says that the next REGION_CRC goes out inverted (R377); `result` are earlier frames with their
crossings whose regions this crossing has settled, and whether each was kept. `gen` are the last 31 bits of the PRBS generator, `chk` those
of the checker, `chkRun` its run of error-free bits (R296). -/
structure LaneSt where
  tx       : Half := .off
  rx       : Half := .off
  step     : Nat := 0
  step1    : Bool := false
  attempts : Nat := 0
  silentRun : Nat := 0
  absent   : Bool := false
  ctle     : Nat := 0
  dfe      : List Int := []
  inverted : Bool := false
  rank     : Nat := 0
  reversed : Bool := false
  placed   : Option Nat := none
  margin   : Nat := 0
  goodWords : Nat := 0
  goodPlace : Nat := 0
  readyRun : Nat := 0
  ack      : Bool := false
  ackSeen  : Bool := false
  sentBoth : Nat := 0
  width    : Nat := 4
  peerUnit : Bool := false
  peerLink : Nat := 0
  retries  : Nat := 0
  failStep : Nat := 0
  top      : Nat := 0
  best     : Option Int := none
  syncBad  : List Bool := []
  wait     : List (Nat × CFrame × Nat) := []
  store    : List (Nat × CFrame) := []
  last     : Option (Nat × CFrame) := none
  lastTx   : Option CFrame := none
  scr      : BitVec 58 := 0
  descr    : BitVec 58 := 0
  line     : Option LineFrame := none
  prbs     : Nat := 0
  prbsLock : Bool := false
  gen      : Nat := 2 ^ 31 - 1
  chk      : Nat := 0
  chkRun   : Nat := 0
  invertCrc : Bool := false
  result   : List (Nat × CFrame × Bool) := []
deriving DecidableEq, Repr, Inhabited

/-- Frames at an F-role, and the cycle marks of a crossing (R314 to R316). `side` is the side obeyed for the latest header
crossing for which a side was obeyed; `nowSide` that of the latest decision. -/
structure Frames where
  lanes   : Tab LaneSt := []
  fr      : Nat := 0
  frSet   : Bool := false
  side    : Option (Fin 2) := none
  nowSide : Option (Fin 2) := none
  nowClaim : Nat := 0
  claimA  : Nat := 0
  claimB  : Nat := 0
  acted   : Option Nat := none
  outCredit : Nat := 1600
  primLog : List (Nat × Ref48) := []
deriving DecidableEq, Repr, Inhabited

/-- A programmable check-value unit (R345): whether RUNNING, its owner session, R and the bytes since START. -/
structure Cvu where
  running : Bool := false
  owner   : Option (Origin × Nat) := none
  value   : Word64 := 0
  bytes   : Nat := 0
deriving DecidableEq, Repr, Inhabited

/-! ### The twin pair (chapter 14) -/

/-- Twin states, in the coding of W0 STATE (R355). -/
inductive TwinState where
  | pairing | active | standby | held | released | resync
deriving DecidableEq, Repr, Inhabited

/-- Phase of a resynchronisation (R366 to R368). -/
inductive ResyncPhase where
  | waiting | follow | own | compare
deriving DecidableEq, Repr, Inhabited

/-- The twin logic (R350 to R371). `words` are the twin words that the next cross-link frame carries, `colsSent` the colophons of the
comparison span that each uplink has sent, `lastCmp` the crossing whose digest was compared last; `result` is the own self-test's (2
passed, 3 failed), `testFail` the lowest check that has failed in it, `verdicts` the mismatches still to be decided, as (crossing of the
results, own, partner's); `faultLog` the advances of INPUT_FAULTS as (crossing, 0 own or 1 partner, count), `pLog` the claims of the
partner's last frames by their crossings, `pairedAt` the pairing boundary until a partner's frame of it has been presented (R351), `asm`
the message that the partner's mirrored service records are building, `heard` those of this crossing. -/
structure Twin where
  entered  : Bool := false
  state    : TwinState := .pairing
  claim    : Nat := 0
  claimDue : Option Nat := none
  cause    : Nat := 0
  sources  : List Nat := []
  monitors : List Nat := []
  warnRun  : Nat := 0
  pClaim   : Nat := 0
  pZeroRun : Nat := 0
  w0       : Word64 := 0
  w1       : Word64 := 0
  w2       : Word64 := 0
  w0At     : Nat := 0
  w2At     : Nat := 0
  partnerSeen : Bool := false
  pairAt   : Option Nat := none
  lost     : Bool := false
  missing  : Nat := 0
  goodRun  : Nat := 0
  gotFrame : Bool := false
  digests  : List (Nat × Ref48) := []
  faults   : Nat := 0
  faultLog : List (Nat × Nat × Nat) := []
  test     : Option Nat := none
  testFail : Nat := 0
  result   : Nat := 0
  verdicts : List (Nat × Nat × Nat) := []
  pLog     : List (Nat × Nat) := []
  pairedAt : Option Nat := none
  phase    : ResyncPhase := .waiting
  b0       : Option Nat := none
  z        : Option Nat := none
  spanFrom : Option Nat := none
  spanTo   : Option Nat := none
  fails    : Nat := 0
  wasHeld  : Bool := false
  remain   : Bool := false
  outbox   : List Word64 := []
  schedule : List (Nat × Word64 × Bool) := []
  words    : List Word64 := []
  colsSent : Tab Nat := []
  lastCmp  : Nat := 0
  failCheck : Nat := 0
  voterRun : Nat := 0
  asm : Assembly := {}
  heard : List Word64 := []
deriving DecidableEq, Repr, Inhabited

/-! ### Upsets and retirement (chapter 15) -/

/-- One site (R378, R379): the crossings of its last transients, the run of failed retries, and where it stands
(0 healthy, 1 permanent, 2 retired: 6C20.03). -/
structure Site where
  times : List Nat := []
  fails : Nat := 0
  state : Nat := 0
deriving DecidableEq, Repr, Inhabited

/-- A poisoned word (R357 code 2, R377, R378): its bank, its address, the crossing it was found in, the length of a scrub pass of its
memory, and whether the memory is one of R357 code 2. -/
structure Poison where
  bank : Nat
  word : Nat
  at_  : Nat
  pass : Nat
  unit : Bool
deriving DecidableEq, Repr, Inhabited

/-- Faults and retirement (R379 to R387). `list` is the retirement list in use, `unsaved` the entries whose flash write
is due or has failed, `boundary` the pending plan boundary as an orbit number, `pendLanes` and `pendPorts` what is retired
there, `dueLanes` lanes that retire at the next crossing boundary, `tell` the worker ports still to be told of the plan, `dissents` the copies of
triple-modular words that have dissented at the last boundary, as (site, copy, refreshes in a row), `excluded` those that no longer
vote (R380), `scrub` the steps that the scrub addresses have taken (R376). -/
structure Faults where
  sites    : Tab Site := []
  list     : List Word64 := []
  unsaved  : List Word64 := []
  workers  : Tab (List Word64) := []
  log      : List Word64 := []
  boundary : Option Nat := none
  pendLanes : List Nat := []
  pendPorts : List Nat := []
  dueLanes : List Nat := []
  tell     : List Nat := []
  plan     : Nat := 0
  reduced  : Bool := false
  poisoned : List Poison := []
  dissents : List (Nat × Nat × Nat) := []
  excluded : List (Nat × Nat) := []
  scrub    : Nat := 0
deriving DecidableEq, Repr, Inhabited

/-! ### The object dictionary (chapter 16) -/

/-- A reply or request the device has formed (R400, R401). -/
structure Reply where
  origin  : Origin
  op      : Nat
  path    : Nat
  tag     : Nat
  session : Nat
  index   : Nat
  sub     : Nat
  arg     : Nat
  body    : List Byte
deriving DecidableEq, Repr, Inhabited

/-- An open session (R405). `used` is the crossing of the last request that named it. -/
structure Session where
  number : Nat
  origin : Origin
  level  : Nat
  used   : Nat := 0
deriving DecidableEq, Repr, Inhabited

/-- A segmented transfer (R402): `up` when the device sends. `data` is what has been received, or what is still to be
sent from SEQ `base` on; `next` the SEQ expected or to be sent; `unacked` segments since the last acknowledgement. -/
structure Transfer where
  hdr     : Hdr
  index   : Nat
  sub     : Nat
  up      : Bool
  total   : Nat
  data    : List Byte
  size    : Nat
  base    : Nat
  next    : Nat
  unacked : Nat
deriving DecidableEq, Repr, Inhabited

/-- An accepted write of an RW entry that waits for the next crossing boundary (R396): `silent` where its response has been
given up (R398). -/
structure PendWrite where
  key    : Nat
  value  : Nat
  hdr    : Hdr
  silent : Bool := false
deriving DecidableEq, Repr, Inhabited

/-- A pending write to the pair address (R420). -/
structure PairWrite where
  apply : Nat
  hdr   : Hdr
  index : Nat
  sub   : Nat
  body  : List Byte
deriving DecidableEq, Repr, Inhabited

/-- A CAN controller (R408, R519): in the coding of 1051.01, whether it listens only, and the rates in force. -/
structure CanCtl where
  state  : Nat := 0
  listen : Bool := true
  arb    : Nat := 2
  data   : Nat := 1
deriving DecidableEq, Repr, Inhabited

/-- A CAN frame sent by the device on its own account: bus (0 = CANA, 1 = CANB), identifier, payload. -/
structure CanOut where
  bus : Nat
  id  : BitVec 29
  payload : List Byte
deriving DecidableEq, Repr, Inhabited

/-- The dictionary engine (R396 to R423). `regs` holds every entry that is RW or RO and is not read from other state, as
the value an unlisted entry does not have; `replies` are the replies formed in the current crossing; `swaps` are the writes of 2012.00 of
the crossing, which are taken at its end (R233); `mute` holds while a write whose response has left already takes effect (R420); `landings`
are the transactions whose last segment has been executed and which have still to be answered (R401); `fails` are the crossings of the
last consecutive failed logins (R406). `keeping` is the keep that runs: its requester, its phase (0 requested, 1 captured, 2 captured
with its response gone, 3 requested with its response gone) and the values captured. -/
structure Dict where
  regs     : Tab Nat := []
  sessions : List Session := []
  fails    : List Nat := []
  lockout  : Bool := false
  challenge : List Byte := []
  transfers : List Transfer := []
  pend     : List PendWrite := []
  pairs    : List PairWrite := []
  canA     : CanCtl := {}
  canB     : CanCtl := {}
  replies  : List Reply := []
  sent     : List Reply := []
  canOut   : List CanOut := []
  proxyTag : Nat := 0
  bulkIn   : Assembly := {}
  keeping  : Option (Hdr × Nat × Tab Nat) := none
  mute     : Bool := false
  swaps    : List PendWrite := []
  landings : List Hdr := []
deriving DecidableEq, Repr, Inhabited

/-- Events (R425 to R429): the history ring oldest first as (message, orbit, slot), the three path queues as (port of a relayed message,
else 0; message), the ports and sources with a message lost per path as port * 256 + source, what has been raised in this orbit under a
once-per-orbit limit, and the ALERT_N pin. -/
structure Events where
  ring   : List (Word64 × Nat × Nat) := []
  pathA  : List (Nat × Word64) := []
  pathB  : List (Nat × Word64) := []
  pathI  : List (Nat × Word64) := []
  lostA  : List Nat := []
  lostB  : List Nat := []
  lostI  : List Nat := []
  once   : List (Nat × Nat) := []
  alert  : Bool := false
deriving DecidableEq, Repr, Inhabited

/-! ### Security, environment, supply and JTAG (chapters 18 to 20) -/

/-- Security state (R464 to R477). -/
structure Security where
  token   : Option (Origin × List Byte) := none
  nonce   : List Byte := []
  payload : List Byte := []
  epoch   : Option Nat := none
  leaf    : Nat := 0
  certBad : Bool := false
deriving DecidableEq, Repr, Inhabited

/-- An environmental channel (R480 to R489). Samples are x in units of 2^-18, `mean` is in units of 2^-22, `y` in
2^-16. -/
structure EnvSt where
  range    : Nat := 0
  invalid  : Nat := 0
  samples  : List Int := []
  mean     : Int := 0
  y        : Int := 0
  valid    : Bool := false
  settling : Bool := false
  tempInvalid : Bool := false
  beyond   : Bool := false
  supply   : Bool := false
  outside  : Bool := false
  fault    : Bool := false
  plate    : Plate := {}
deriving DecidableEq, Repr, Inhabited

/-- An ENVOUT output (R490, R491): whether it runs, and what it shows: high time in 1/1024 period, or frequency in
mHz. -/
structure OutSt where
  state : Nat := 0
  high  : Nat := 0
  freq  : Nat := 0
deriving DecidableEq, Repr, Inhabited

/-- Environment, thermal and supply (chapter 19). Temperatures are in 1/16 degC, the allowance in 1/1600. `measured` are the readings of
measurements that apply at the next crossing boundary (R492), `clearAt` the crossing at whose boundary the last supply warning ended. -/
structure Env where
  chans    : Tab EnvSt := []
  outs     : Tab OutSt := []
  readings : List Int := []
  voted    : List Nat := []
  inRun    : Tab Nat := []
  tDie     : Int := 0
  tPeak    : Int := 0
  warning  : Bool := false
  throttle : Bool := false
  allow    : Nat := 1600
  measured : List (List Int) := []
  below    : List Nat := []
  warn     : Bool := false
  warnEndDue : Bool := false
  freeze   : Bool := false
  freezeDue : Bool := false
  clearAt  : Nat := 0
  affected : List Nat := []
  lowest   : Tab Nat := []
deriving DecidableEq, Repr, Inhabited

/-- What drives the logic balls (R522). -/
inductive JtagMode where
  | normal | extest | clamp | highz
deriving DecidableEq, Repr, Inhabited

/-- The JTAG port (R522): the instruction register, the boundary register, the register between TDI and TDO (0 bypass,
1 identification, 2 boundary) and what drives the balls. -/
structure Jtag where
  ir       : BitVec 8 := 0x01
  boundary : List Bool := []
  select   : Nat := 1
  mode     : JtagMode := .normal
deriving DecidableEq, Repr, Inhabited

/-- The hardware: everything the spec gives the machine but the queue of waiting commands. `chMask` is the mask in force (R81, R82), `chSince` the
crossing from which every timeout counter has run at the latest (R162), `free` the model's own: a
counter that each free value advances (assumption 2). -/
structure Block where
  fuses  : Fuses := {}
  flash  : Flash := {}
  boot   : Boot := {}
  sets   : Sets := {}
  time   : Time := {}
  chans  : Tab Chan := []
  chMask : Nat := 0
  chSince : Nat := 0
  leads  : List Lead := []
  plate  : Plate := {}
  bin    : BinCal := {}
  iu     : Interval := {}
  adc    : Adc := {}
  acc    : Accepts := {}
  stk    : Stacks := {}
  queues : Tab Queue := []
  mrg    : Merge := {}
  frm    : Frames := {}
  cvus   : Tab Cvu := []
  twin   : Twin := {}
  flt    : Faults := {}
  dict   : Dict := {}
  ev     : Events := {}
  sec    : Security := {}
  env    : Env := {}
  jtag   : Jtag := {}
  free   : Nat := 0
deriving DecidableEq, Repr, Inhabited

/-- The state: the hardware and the commands that wait, first in, first out. -/
structure State where
  blk     : Block
  pending : List Instr
deriving DecidableEq, Repr

/-- Reasons to stop with a fault. -/
inductive Fault where
  /-- Raised by a meaning whose command is ill-formed (WellFormed.lean): no pin, bus or lane could deliver it. Safe: the
  model stops where the hardware sees nothing at all. -/
  | illFormed (mnemonic : String)
deriving DecidableEq, Repr

/-- Reasons to refuse. -/
inductive Refusal where
  /-- Raised by exec's arm for a command that has no meaning yet. Safe. -/
  | notModelled (mnemonic : String)
deriving DecidableEq, Repr

/-- The machine when power is first applied, before the power-on reset has ended (R449, R452): every table empty, so that
every entry reads its default, and no command waiting. -/
def State.reset : State := { blk := {}, pending := [] }

end Sys2Proof.Machine
end

