-- ==== Sys2Proof/Machine/DictTable.lean ====
section
/-! DEFINITION. The table of dictionary entries (R390 to R394, R421, R430 and the entry tables of every chapter): one row
for each row of a chapter's table, with its address range, type, size, access, level, default, persistence and the role
that powers it. -/

namespace Sys2Proof.Machine

/-- Types of R392. -/
inductive DType where
  | bool | u8 | u16 | u32 | u64 | i8 | i16 | i32 | i64 | q16 | octets | text | domain
deriving DecidableEq, Repr

/-- Access codes of R393. -/
inductive Access where
  | ro | rw | wo | rs | co
deriving DecidableEq, Repr

/-- Which role powers the entry's block (R17). -/
inductive RoleOf where
  | both | fOnly | cOnly
deriving DecidableEq, Repr

/-- A row of an entry table: first and last index, first and last sub-index, type, size or capacity in bytes, access,
level, default, persistence, role. -/
structure Desc where
  idxLo : Nat
  idxHi : Nat
  subLo : Nat
  subHi : Nat
  type  : DType
  size  : Nat
  access : Access
  level : Nat
  dflt  : Nat
  keep  : Bool
  role  : RoleOf
deriving DecidableEq, Repr

/-- The type codes of R392. -/
def typeCode : DType → Nat
  | .bool => 0x01 | .u8 => 0x02 | .u16 => 0x03 | .u32 => 0x04 | .u64 => 0x05
  | .i8 => 0x06 | .i16 => 0x07 | .i32 => 0x08 | .i64 => 0x09
  | .q16 => 0x0A | .octets => 0x0B | .text => 0x0C | .domain => 0x0D

/-- The access codes of R393. -/
def accessCode : Access → Nat
  | .ro => 0 | .rw => 1 | .wo => 2 | .rs => 3 | .co => 4

/-- Entries of the dictionary from 0x1000 (R391), part 0. -/
def rowsIdentity0 : List Desc := [
  ⟨0x1000, 0x1000, 0x01, 0x01, .text, 15, .co, 1, 0x0, false, .both⟩,  -- VENDOR_NAME
  ⟨0x1000, 0x1000, 0x02, 0x02, .text, 9, .co, 1, 0x0, false, .both⟩,  -- PART_NUMBER
  ⟨0x1000, 0x1000, 0x03, 0x03, .u16, 2, .co, 1, 0x0, false, .both⟩,  -- DIE_REVISION
  ⟨0x1000, 0x1000, 0x04, 0x04, .u64, 8, .co, 1, 0x0, false, .both⟩,  -- DEVICE_IDENTITY
  ⟨0x1000, 0x1000, 0x05, 0x05, .u8, 1, .ro, 1, 0x0, false, .both⟩,  -- PROFILE_M_STATE (0 = off, 1 = by dictionary, 2 = by fuse)
  ⟨0x1000, 0x1000, 0x06, 0x06, .bool, 1, .rs, 3, 0x0, false, .both⟩,  -- PROFILE_M_SELECT (R13)
  ⟨0x1000, 0x1000, 0x07, 0x07, .u64, 8, .ro, 1, 0x0, false, .both⟩,  -- CROSSING_COUNT, 64-bit, cleared only by power-on (R379)
  ⟨0x1001, 0x1001, 0x01, 0x01, .u8, 1, .rw, 3, 0x7F, true, .both⟩,  -- NODE_ID (1 to 127)
  ⟨0x1001, 0x1001, 0x02, 0x02, .u8, 1, .rw, 3, 0x7F, true, .both⟩,  -- PAIR_NODE_ID (C-role; 127 = none)
  ⟨0x1010, 0x1010, 0x01, 0x01, .u32, 4, .wo, 2, 0x0, false, .both⟩,  -- KEEP, key 0x4B454550
  ⟨0x1010, 0x1010, 0x02, 0x02, .u32, 4, .wo, 3, 0x0, false, .both⟩,  -- FORGET, key 0x44464C54
  ⟨0x1010, 0x1010, 0x03, 0x03, .u8, 1, .ro, 1, 0x0, false, .both⟩,  -- KEEP_STATE (0 = idle, 1 = writing, 2 = done, 3 = failed)
  ⟨0x1010, 0x1010, 0x04, 0x04, .u32, 4, .ro, 1, 0x0, true, .both⟩,  -- KEEP_COUNT
  ⟨0x1011, 0x1011, 0x01, 0x01, .u32, 4, .wo, 3, 0x0, false, .both⟩,  -- DEVICE_RESTART, key 0x424F4F54
  ⟨0x1011, 0x1011, 0x02, 0x02, .u32, 4, .wo, 2, 0x0, false, .both⟩,  -- COMM_RESTART, key 0x434F4D4D
  ⟨0x1012, 0x1012, 0x01, 0x09, .bool, 1, .wo, 3, 0x0, false, .both⟩,  -- SUBSYSTEM_RESET, blocks of R423
  ⟨0x1013, 0x1013, 0x00, 0x00, .u8, 1, .ro, 1, 0x1, false, .both⟩,  -- LAST_RESET_CAUSE, coded in the chapter Power-up, resets and configuration sets
  ⟨0x1014, 0x1014, 0x01, 0x01, .u8, 1, .ro, 1, 0x0, false, .both⟩,  -- BOOT_STATE (0 = FUSE_LOAD, 1 = CONFIGURING, 2 = WAITING, 3 = READY, 4 = RELEASED, 5 = STOPPED, 6 = NO_FOLIO)
  ⟨0x1014, 0x1014, 0x02, 0x02, .u16, 2, .ro, 1, 0x1FF, false, .both⟩,  -- READY_PENDING, bits of R443
  ⟨0x1014, 0x1014, 0x03, 0x03, .u64, 8, .rw, 3, 0x0, false, .both⟩,  -- RELEASE_ORBIT n_R (0 = none)
  ⟨0x1014, 0x1014, 0x04, 0x04, .u32, 4, .rs, 3, 0x7D0, false, .both⟩,  -- READY_TIMEOUT (ms, 10 to 60 000)
  ⟨0x1014, 0x1014, 0x05, 0x05, .u8, 1, .rs, 3, 0x0, false, .both⟩,  -- TILE_POLICY (0 = report, 1 = withhold ready)
  ⟨0x1014, 0x1014, 0x06, 0x06, .domain, 28, .ro, 1, 0x0, false, .both⟩,  -- BOOT_TIMES, 7 × U32 in µs: fuse load, flash read, verify, unpack, first lock, ready or unit release, release
  ⟨0x1014, 0x1014, 0x07, 0x07, .u32, 4, .ro, 1, 0x0, false, .both⟩,  -- PORTS_EXCLUDED, bit p − 1 = port Pp (C-role)
  ⟨0x1014, 0x1014, 0x08, 0x08, .u32, 4, .ro, 1, 0x0, false, .both⟩,  -- REPLIES_DISCARDED
  ⟨0x1014, 0x1014, 0x09, 0x09, .u16, 2, .ro, 1, 0x0, false, .both⟩,  -- BLOCKS_RESETTING, bit SS − 1 = block of `1012.SS`
  ⟨0x1014, 0x1014, 0x0A, 0x0A, .u32, 4, .ro, 1, 0x0, false, .both⟩,  -- ACTIONS_REFUSED
  ⟨0x1015, 0x1015, 0x01, 0x01, .u8, 1, .ro, 1, 0x0, false, .both⟩,  -- FLASH_STATE (0 = none, 1 = present, 2 = error)
  ⟨0x1015, 0x1015, 0x02, 0x02, .u16, 2, .ro, 1, 0x0, false, .both⟩,  -- FLASH_CAPACITY (Mbit)
  ⟨0x1015, 0x1015, 0x03, 0x03, .u8, 1, .rw, 3, 0x0, true, .both⟩,  -- PREFERRED_SLOT (written to the boot record at once)
  ⟨0x1015, 0x1015, 0x04, 0x04, .u64, 8, .ro, 1, 0x0, false, .both⟩,  -- SLOT_SERIALS ([63:32] slot 1, [31:0] slot 0; 0 = empty)
  ⟨0x1015, 0x1015, 0x05, 0x05, .domain, 8391936, .wo, 3, 0x0, false, .both⟩,  -- FLASH_FOLIO_WRITE, signed image
  ⟨0x1015, 0x1015, 0x06, 0x06, .u8, 1, .ro, 1, 0xFF, false, .both⟩,  -- SLOT_USED (0, 1; 0xFF = none)
  ⟨0x1016, 0x1016, 0x01, 0x01, .u32, 4, .ro, 1, 0x0, false, .both⟩,  -- FUSE_OPTIONS
  ⟨0x1020, 0x1020, 0x01, 0x01, .u8, 1, .ro, 1, 0x0, false, .both⟩,  -- ROLE_STRAP (0 = F-role, 1 = C-role)
  ⟨0x1020, 0x1020, 0x02, 0x02, .u8, 1, .ro, 1, 0x0, false, .both⟩,  -- ROLE_FUSE (value of the fuse field)
  ⟨0x1020, 0x1020, 0x03, 0x03, .u8, 1, .ro, 1, 0x0, false, .both⟩,  -- ROLE_ACTIVE (0 = F-role, 1 = C-role, 0xFF = stopped)
  ⟨0x1020, 0x1020, 0x04, 0x04, .u8, 1, .ro, 1, 0x0, false, .both⟩,  -- TWIN_ID_STRAP (0 = unit A, 1 = unit B)
  ⟨0x1020, 0x1020, 0x05, 0x05, .u8, 1, .ro, 1, 0x0, false, .both⟩,  -- TOPOLOGY_MODE (0 = twin, 1 = solo, 2 = direct-attached)
  ⟨0x1030, 0x1030, 0x01, 0x01, .u8, 1, .ro, 1, 0x0, false, .both⟩]  -- SESSIONS_OPEN

/-- Entries of the dictionary from 0x1030 (R391), part 1. -/
def rowsIdentity1 : List Desc := [
  ⟨0x1030, 0x1030, 0x02, 0x02, .u32, 4, .wo, 3, 0x0, true, .both⟩,  -- PASSCODE_2 (0 = none)
  ⟨0x1030, 0x1030, 0x03, 0x03, .u32, 4, .wo, 3, 0x0, true, .both⟩,  -- PASSCODE_3 (0 = none)
  ⟨0x1030, 0x1030, 0x04, 0x04, .u16, 2, .rw, 3, 0x3C, true, .both⟩,  -- SESSION_TIMEOUT (s, 5 to 3600)
  ⟨0x1030, 0x1030, 0x05, 0x05, .u32, 4, .ro, 1, 0x0, false, .both⟩,  -- LOGIN_FAILURES
  ⟨0x1030, 0x1030, 0x06, 0x06, .u16, 2, .ro, 1, 0x0, false, .both⟩,  -- OWN_SESSION ([15:8] number, [7:0] level)
  ⟨0x1030, 0x1030, 0x07, 0x07, .octets, 16, .ro, 1, 0x0, false, .both⟩,  -- CHALLENGE (16 bytes)
  ⟨0x1040, 0x1040, 0x01, 0x01, .bool, 1, .rw, 3, 0x1, true, .both⟩,  -- INBAND_ENABLE
  ⟨0x1040, 0x1040, 0x02, 0x02, .u16, 2, .rw, 3, 0x64, true, .both⟩,  -- PROXY_TIMEOUT (ms, 1 to 10 000)
  ⟨0x1040, 0x1040, 0x03, 0x03, .u32, 4, .ro, 1, 0x0, false, .both⟩,  -- PROXY_ABORTS
  ⟨0x1040, 0x1040, 0x04, 0x04, .u32, 4, .ro, 1, 0x0, false, .both⟩,  -- LATE_REPLIES_DISCARDED
  ⟨0x1040, 0x1040, 0x05, 0x05, .u32, 4, .ro, 1, 0x0, false, .both⟩,  -- INBAND_MESSAGES_DISCARDED
  ⟨0x1050, 0x1050, 0x01, 0x01, .u8, 1, .rw, 3, 0x3, true, .both⟩,  -- CAN_ENABLE ([0] `CANA`, [1] `CANB`)
  ⟨0x1050, 0x1050, 0x02, 0x02, .u8, 1, .rw, 3, 0x2, true, .both⟩,  -- CAN_ARB_RATE (0 = 125, 1 = 250, 2 = 500, 3 = 1000 kbit/s)
  ⟨0x1050, 0x1050, 0x03, 0x03, .u8, 1, .rw, 3, 0x1, true, .both⟩,  -- CAN_DATA_RATE (0 = 1, 1 = 2, 2 = 5 Mbit/s)
  ⟨0x1050, 0x1050, 0x04, 0x04, .u8, 1, .rw, 2, 0x3, true, .both⟩,  -- CAN_EVENT_BUS (0 = none, 1 = `CANA`, 2 = `CANB`, 3 = both)
  ⟨0x1050, 0x1050, 0x05, 0x05, .u16, 2, .rw, 2, 0x3E8, true, .both⟩,  -- CAN_HEARTBEAT (ms; 0 = off, else 100 to 60 000)
  ⟨0x1050, 0x1050, 0x06, 0x06, .bool, 1, .rw, 2, 0x0, true, .both⟩,  -- CAN_WORKER_EVENTS (C-role)
  ⟨0x1051, 0x1051, 0x01, 0x01, .u8, 1, .ro, 1, 0x0, false, .both⟩,  -- CAN_STATE, `CANA` and `CANB` (0 = off, 1 = error active, 2 = error passive, 3 = bus-off)
  ⟨0x1051, 0x1051, 0x02, 0x02, .u8, 1, .ro, 1, 0x0, false, .both⟩,  -- CAN_STATE, `CANA` and `CANB` (0 = off, 1 = error active, 2 = error passive, 3 = bus-off)
  ⟨0x1051, 0x1051, 0x03, 0x03, .u32, 4, .ro, 1, 0x0, false, .both⟩,  -- CAN_BUS_OFF_COUNT, `CANA` and `CANB`
  ⟨0x1051, 0x1051, 0x04, 0x04, .u32, 4, .ro, 1, 0x0, false, .both⟩,  -- CAN_BUS_OFF_COUNT, `CANA` and `CANB`
  ⟨0x1051, 0x1051, 0x05, 0x05, .u32, 4, .ro, 1, 0x0, false, .both⟩,  -- CAN_FRAMES_IGNORED, `CANA` and `CANB`
  ⟨0x1051, 0x1051, 0x06, 0x06, .u32, 4, .ro, 1, 0x0, false, .both⟩]  -- CAN_FRAMES_IGNORED, `CANA` and `CANB`

/-- The rows of 0x1000 to 0x1FFF. -/
def rowsIdentity : List Desc := rowsIdentity0 ++ rowsIdentity1

/-- Entries of the dictionary from 0x2000 (R391), part 0. -/
def rowsSchedule0 : List Desc := [
  ⟨0x2000, 0x2000, 0x01, 0x01, .u8, 1, .ro, 1, 0x0, false, .both⟩,  -- ENGINE_STATE (0 = no active set, 1 = running, 2 = recovering under R238)
  ⟨0x2000, 0x2000, 0x02, 0x02, .u32, 4, .ro, 1, 0x0, false, .both⟩,  -- WATCHDOG_ERRORS
  ⟨0x2010, 0x2010, 0x00, 0x00, .u32, 4, .ro, 1, 0x0, false, .both⟩,  -- ACTIVE_SET, SERIAL (0 = none)
  ⟨0x2011, 0x2011, 0x00, 0x00, .u32, 4, .ro, 1, 0x0, false, .both⟩,  -- SHADOW_SET, SERIAL (0 = EMPTY)
  ⟨0x2012, 0x2012, 0x00, 0x00, .u64, 8, .rw, 2, 0x0, false, .both⟩,  -- SWAP_ORBIT (0 = none armed; a write arms or disarms)
  ⟨0x2013, 0x2013, 0x01, 0x01, .u8, 1, .ro, 1, 0x0, false, .both⟩,  -- SHADOW_STATE (0 = EMPTY, 1 = VERIFIED, 2 = EDITED)
  ⟨0x2013, 0x2013, 0x02, 0x02, .u16, 2, .ro, 1, 0x0, false, .both⟩,  -- ACTIVE_EDITS
  ⟨0x2013, 0x2013, 0x03, 0x03, .u16, 2, .ro, 1, 0x0, false, .both⟩,  -- SHADOW_EDITS
  ⟨0x2013, 0x2013, 0x04, 0x04, .u32, 4, .ro, 1, 0x0, false, .both⟩,  -- SWAPS
  ⟨0x2013, 0x2013, 0x05, 0x05, .u32, 4, .ro, 1, 0x0, false, .both⟩,  -- SWAP_REQUESTS_MERGED
  ⟨0x2013, 0x2013, 0x06, 0x06, .bool, 1, .rw, 3, 0x0, false, .both⟩,  -- READ_SHADOW
  ⟨0x2013, 0x2013, 0x07, 0x07, .bool, 1, .ro, 1, 0x0, false, .both⟩,  -- SHADOW_HELD (R236)
  ⟨0x2020, 0x2020, 0x01, 0x01, .domain, 8391936, .wo, 3, 0x0, false, .both⟩,  -- FOLIO_DOWNLOAD, signed image
  ⟨0x2020, 0x2020, 0x02, 0x02, .u8, 1, .ro, 1, 0x0, false, .both⟩,  -- FOLIO_REFUSE_CODE, last refusal
  ⟨0x2020, 0x2020, 0x03, 0x03, .u8, 1, .ro, 1, 0x0, false, .both⟩,  -- DOWNLOAD_STATE (0 = idle, 1 = receiving, 2 = verifying, 3 = unpacking, 4 = waiting for the shadow under R236)
  ⟨0x2020, 0x2020, 0x04, 0x04, .u32, 4, .ro, 1, 0x0, false, .both⟩,  -- ACTIVE_VERSION
  ⟨0x2020, 0x2020, 0x05, 0x05, .octets, 48, .ro, 1, 0x0, false, .both⟩,  -- ACTIVE_CONTRACT_DIGEST (48 bytes)
  ⟨0x2020, 0x2020, 0x06, 0x06, .octets, 48, .ro, 1, 0x0, false, .both⟩,  -- SHADOW_CONTRACT_DIGEST (48 bytes)
  ⟨0x2020, 0x2020, 0x07, 0x07, .u64, 8, .ro, 1, 0x0, false, .both⟩,  -- ACTIVE_FX_RANGE ([63:32] FX_MIN, [31:0] FX_MAX, kHz)
  ⟨0x2030, 0x2030, 0x01, 0x01, .u16, 2, .ro, 1, 0x0, false, .both⟩,  -- CONTRACT_SPAN S_C (crossings)
  ⟨0x2030, 0x2030, 0x02, 0x02, .u16, 2, .rs, 3, 0x100, false, .both⟩,  -- AGE_LIMIT (crossings, 16 to 2048)
  ⟨0x2030, 0x2030, 0x03, 0x03, .u16, 2, .ro, 1, 0x0, false, .both⟩,  -- MAX_CIRC_LATENCY (crossings)
  ⟨0x2030, 0x2030, 0x04, 0x04, .u16, 2, .ro, 1, 0x0, false, .both⟩,  -- RETIREMENT_PLAN ([15] REDUCED, [14:0] plan; 0 = base)
  ⟨0x2101, 0x2120, 0x01, 0x01, .u16, 2, .ro, 1, 0x0, false, .cOnly⟩,  -- PORT_ALLOWANCE A_p, P01 to P32 (records)
  ⟨0x2101, 0x2120, 0x02, 0x02, .u64, 8, .ro, 1, 0x0, false, .cOnly⟩,  -- IN_CONTRACT_RECORDS
  ⟨0x2101, 0x2120, 0x03, 0x03, .u64, 8, .ro, 1, 0x0, false, .cOnly⟩,  -- OVER_CONTRACT_RECORDS
  ⟨0x2101, 0x2120, 0x04, 0x04, .u64, 8, .ro, 1, 0x0, false, .cOnly⟩,  -- OVER_CARRIED
  ⟨0x2101, 0x2120, 0x05, 0x05, .u32, 4, .ro, 1, 0x0, false, .cOnly⟩,  -- OVER_WITHDRAWN
  ⟨0x2140, 0x2140, 0x01, 0x08, .u32, 4, .ro, 1, 0x0, false, .both⟩,  -- WITHDRAWALS, reason codes 0x1 to 0x8
  ⟨0x2151, 0x215C, 0x01, 0x01, .u64, 8, .ro, 1, 0x0, false, .cOnly⟩,  -- UPLINK_RAW_RECORDS, uplinks 1 to 12
  ⟨0x2151, 0x215C, 0x02, 0x02, .u64, 8, .ro, 1, 0x0, false, .cOnly⟩,  -- UPLINK_OVER_CARRIED
  ⟨0x2151, 0x215C, 0x03, 0x03, .u64, 8, .ro, 1, 0x0, false, .cOnly⟩,  -- UPLINK_SAVED_SLOTS, room freed by compression (records)
  ⟨0x2151, 0x215C, 0x04, 0x04, .u64, 8, .ro, 1, 0x0, false, .cOnly⟩,  -- UPLINK_THROTTLED_SLOTS
  ⟨0x2800, 0x2800, 0x01, 0x01, .u16, 2, .ro, 1, 0x0, false, .both⟩,  -- SLOT
  ⟨0x2800, 0x2800, 0x02, 0x02, .u64, 8, .ro, 1, 0x0, false, .both⟩,  -- ORBIT_NUMBER (48 bits)
  ⟨0x2800, 0x2800, 0x03, 0x03, .u16, 2, .rs, 3, 0xB40, false, .both⟩,  -- ORBIT_LENGTH N_O
  ⟨0x2800, 0x2800, 0x04, 0x04, .u64, 8, .ro, 1, 0x0, false, .both⟩,  -- CROSSING_FREQ_MEASURED (mHz)
  ⟨0x2802, 0x2802, 0x01, 0x01, .u64, 8, .ro, 1, 0x0, false, .both⟩,  -- TOD_SECONDS
  ⟨0x2802, 0x2802, 0x02, 0x02, .u32, 4, .ro, 1, 0x0, false, .both⟩,  -- TOD_NANOSECONDS
  ⟨0x2802, 0x2802, 0x03, 0x03, .u32, 4, .ro, 1, 0x0, false, .both⟩]  -- TOD_FRACTION

/-- Entries of the dictionary from 0x2802 (R391), part 1. -/
def rowsSchedule1 : List Desc := [
  ⟨0x2802, 0x2802, 0x04, 0x04, .u64, 8, .rw, 3, 0xA0000000, false, .both⟩,  -- TOD_INCREMENT ([39:32] ns, [31:0] fraction)
  ⟨0x2802, 0x2802, 0x05, 0x05, .bool, 1, .rw, 3, 0x1, true, .both⟩,  -- TOD_SERVO_ENABLE
  ⟨0x2802, 0x2802, 0x06, 0x06, .u32, 4, .rw, 3, 0x3E8, true, .both⟩,  -- TOD_STEP_LIMIT (ns)
  ⟨0x2802, 0x2802, 0x07, 0x07, .i32, 4, .ro, 1, 0x0, false, .both⟩,  -- TOD_ERROR (ps)
  ⟨0x2806, 0x2806, 0x00, 0x00, .u16, 2, .rs, 3, 0x40, false, .both⟩,  -- RESYNC_LEAD K_R (crossings)
  ⟨0x2810, 0x2810, 0x01, 0x01, .bool, 1, .ro, 1, 0x0, false, .both⟩,  -- CORE_PLL_LOCKED
  ⟨0x2810, 0x2810, 0x02, 0x02, .u8, 1, .rw, 3, 0x1, true, .both⟩,  -- CORE_PLL_BANDWIDTH (0 = 100 kHz, 1 = 400 kHz, 2 = 1 MHz, 3 = 2 MHz)
  ⟨0x2820, 0x2820, 0x01, 0x01, .u8, 1, .ro, 1, 0xFF, false, .both⟩,  -- DOMAIN_SELECTED (0 = A, 1 = B, 0xFF = holdover)
  ⟨0x2820, 0x2820, 0x02, 0x02, .u8, 1, .rw, 2, 0x0, true, .both⟩,  -- DOMAIN_PREFERRED
  ⟨0x2820, 0x2820, 0x03, 0x03, .bool, 1, .rw, 2, 0x0, true, .both⟩,  -- DOMAIN_REVERTIVE
  ⟨0x2820, 0x2820, 0x04, 0x04, .u8, 1, .wo, 2, 0x0, false, .both⟩,  -- DOMAIN_SWITCH_REQUEST
  ⟨0x2821, 0x2821, 0x01, 0x01, .u8, 1, .ro, 1, 0x0, false, .both⟩,  -- TRACKER_A_STATE (0 = LOST, 1 = ACQUIRING, 2 = QUALIFIED)
  ⟨0x2821, 0x2821, 0x02, 0x02, .i32, 4, .rw, 3, 0x0, true, .both⟩,  -- TRACKER_A_DELAY, used when ECHO is not valid (LSB_φ)
  ⟨0x2821, 0x2821, 0x03, 0x03, .i32, 4, .ro, 1, 0x0, false, .both⟩,  -- TRACKER_A_RESIDUAL Δ (LSB_φ)
  ⟨0x2821, 0x2821, 0x04, 0x04, .i32, 4, .rw, 3, 0x0, true, .both⟩,  -- TRACKER_A_ASYMMETRY (LSB_φ)
  ⟨0x2821, 0x2821, 0x05, 0x05, .u32, 4, .ro, 1, 0x0, false, .both⟩,  -- TRACKER_A_MISMATCHES
  ⟨0x2821, 0x2821, 0x06, 0x06, .u32, 4, .ro, 1, 0x0, false, .both⟩,  -- TRACKER_A_USER_WORDS
  ⟨0x2822, 0x2822, 0x01, 0x01, .u8, 1, .ro, 1, 0x0, false, .both⟩,  -- TRACKER_B_STATE (0 = LOST, 1 = ACQUIRING, 2 = QUALIFIED)
  ⟨0x2822, 0x2822, 0x02, 0x02, .i32, 4, .rw, 3, 0x0, true, .both⟩,  -- TRACKER_B_DELAY, used when ECHO is not valid (LSB_φ)
  ⟨0x2822, 0x2822, 0x03, 0x03, .i32, 4, .ro, 1, 0x0, false, .both⟩,  -- TRACKER_B_RESIDUAL Δ (LSB_φ)
  ⟨0x2822, 0x2822, 0x04, 0x04, .i32, 4, .rw, 3, 0x0, true, .both⟩,  -- TRACKER_B_ASYMMETRY (LSB_φ)
  ⟨0x2822, 0x2822, 0x05, 0x05, .u32, 4, .ro, 1, 0x0, false, .both⟩,  -- TRACKER_B_MISMATCHES
  ⟨0x2822, 0x2822, 0x06, 0x06, .u32, 4, .ro, 1, 0x0, false, .both⟩,  -- TRACKER_B_USER_WORDS
  ⟨0x2840, 0x2840, 0x01, 0x01, .u32, 4, .rw, 3, 0x0, false, .both⟩,  -- ALIGN_DELAY_A, D (LSB_φ)
  ⟨0x2840, 0x2840, 0x02, 0x02, .u32, 4, .rw, 3, 0x0, false, .both⟩,  -- ALIGN_DELAY_B, D (LSB_φ)
  ⟨0x2841, 0x2841, 0x01, 0x01, .bool, 1, .rw, 3, 0x1, true, .both⟩,  -- ROUND_TRIP_AUTO (C-role)
  ⟨0x2841, 0x2841, 0x02, 0x02, .u16, 2, .rw, 3, 0x400, true, .both⟩,  -- ROUND_TRIP_PERIOD (orbits)
  ⟨0x2841, 0x2841, 0x03, 0x03, .u32, 4, .ro, 1, 0x0, false, .both⟩,  -- T_FIX, fuse-calibrated (LSB_φ)
  ⟨0x2842, 0x2842, 0x01, 0x20, .u32, 4, .ro, 1, 0x0, false, .both⟩,  -- PORT_ROUND_TRIP, P01 to P32 (LSB_φ)
  ⟨0x2843, 0x2843, 0x01, 0x20, .i16, 2, .rw, 3, 0x0, true, .both⟩,  -- PORT_ASYMMETRY, P01 to P32 (LSB_φ)
  ⟨0x2900, 0x2900, 0x01, 0x01, .u32, 4, .ro, 1, 0x0, false, .both⟩,  -- TIMETABLE_CONFLICTS
  ⟨0x2900, 0x2900, 0x02, 0x02, .u32, 4, .ro, 1, 0x0, false, .both⟩,  -- TIMETABLE_MISSED
  ⟨0x2A00, 0x2AFF, 0x01, 0x01, .u64, 8, .rs, 3, 0x0, false, .both⟩,  -- TIMETABLE_ENTRY 0 to 255, word 0
  ⟨0x2A00, 0x2AFF, 0x02, 0x02, .u64, 8, .rs, 3, 0x1000000000000, false, .both⟩]  -- TIMETABLE_ENTRY 0 to 255, word 1

/-- The rows of 0x2000 to 0x2FFF. -/
def rowsSchedule : List Desc := rowsSchedule0 ++ rowsSchedule1

/-- Entries of the dictionary from 0x3000 (R391), part 0. -/
def rowsChannel0 : List Desc := [
  ⟨0x3000, 0x3000, 0x01, 0x01, .u8, 1, .rs, 3, 0x1, false, .fOnly⟩,  -- PEAKING_TIME (0 = 8, 1 = 16, 2 = 24, 3 = 32 ns)
  ⟨0x3000, 0x3000, 0x02, 0x02, .u16, 2, .rs, 3, 0x28, false, .fOnly⟩,  -- LT_DAC
  ⟨0x3000, 0x3000, 0x03, 0x03, .u16, 2, .rs, 3, 0x32, false, .fOnly⟩,  -- HT_DAC
  ⟨0x3000, 0x3000, 0x04, 0x04, .u8, 1, .rs, 3, 0x0, false, .fOnly⟩,  -- POLARITY (0 = negative, 1 = positive)
  ⟨0x3000, 0x3000, 0x05, 0x05, .bool, 1, .rs, 3, 0x1, false, .fOnly⟩,  -- TRIM_USE_BOOKPLATE
  ⟨0x3000, 0x3000, 0x07, 0x07, .u16, 2, .rw, 2, 0x5A0, true, .fOnly⟩,  -- NOISY_LIMIT (LT edges per orbit; 0 = off)
  ⟨0x3000, 0x3000, 0x08, 0x08, .bool, 1, .rw, 2, 0x0, true, .fOnly⟩,  -- NOISY_AUTO_MASK
  ⟨0x3000, 0x3000, 0x0A, 0x0A, .u16, 2, .rw, 2, 0x64, true, .fOnly⟩,  -- LEAKAGE_LIMIT (nA)
  ⟨0x3010, 0x3010, 0x01, 0x08, .u32, 4, .rw, 2, 0x0, true, .fOnly⟩,  -- OPERATOR_MASK, words 1 to 8
  ⟨0x3011, 0x3011, 0x01, 0x08, .u32, 4, .ro, 1, 0x0, false, .fOnly⟩,  -- EFFECTIVE_MASK, words 1 to 8
  ⟨0x3012, 0x3012, 0x01, 0x08, .u32, 4, .ro, 1, 0x0, false, .fOnly⟩,  -- BOOKPLATE_MASK, words 1 to 8
  ⟨0x3020, 0x3020, 0x01, 0x01, .u8, 1, .ro, 1, 0x0, false, .fOnly⟩,  -- BOOKPLATE_STATE (0 = NOT_READ, 1 = VALID, 2 = INVALID, 3 = ABSENT, 4 = CHANGED, 5 = LOST)
  ⟨0x3020, 0x3020, 0x02, 0x02, .u64, 8, .ro, 1, 0x0, false, .fOnly⟩,  -- BOOKPLATE_SERIAL, from the boot read
  ⟨0x3020, 0x3020, 0x03, 0x03, .u16, 2, .ro, 1, 0x0, false, .fOnly⟩,  -- BOOKPLATE_SENSOR_TYPE
  ⟨0x3020, 0x3020, 0x04, 0x04, .u32, 4, .ro, 1, 0x0, false, .fOnly⟩,  -- BOOKPLATE_READ_ERRORS
  ⟨0x3020, 0x3020, 0x05, 0x05, .domain, 1828, .ro, 1, 0x0, false, .fOnly⟩,  -- BOOKPLATE_IMAGE, 1828 bytes
  ⟨0x3020, 0x3020, 0x06, 0x06, .u64, 8, .ro, 1, 0x0, false, .fOnly⟩,  -- BOOKPLATE_LAST_SERIAL, from the latest re-read
  ⟨0x3100, 0x31FF, 0x01, 0x01, .u32, 4, .rs, 3, 0x0, false, .fOnly⟩,  -- CH_CONFIG
  ⟨0x3100, 0x31FF, 0x02, 0x02, .u16, 2, .rs, 3, 0x2020, false, .fOnly⟩,  -- CH_PEDESTAL_TRIM
  ⟨0x3100, 0x31FF, 0x03, 0x03, .u32, 4, .ro, 1, 0x0, false, .fOnly⟩,  -- CH_LT_COUNT, last complete orbit
  ⟨0x3100, 0x31FF, 0x04, 0x04, .u32, 4, .ro, 1, 0x0, false, .fOnly⟩,  -- CH_HOLD_BUSY_COUNT
  ⟨0x3100, 0x31FF, 0x05, 0x05, .i16, 2, .ro, 1, 0x0, false, .fOnly⟩,  -- CH_LEAKAGE (nA, signed)
  ⟨0x3100, 0x31FF, 0x06, 0x06, .u16, 2, .ro, 1, 0x0, false, .fOnly⟩]  -- CH_EFFECTIVE_TRIMS ([13:8] LT, [5:0] HT, each signed)

/-- The rows of 0x3000 to 0x3FFF. -/
def rowsChannel : List Desc := rowsChannel0

/-- Entries of the dictionary from 0x4000 (R391), part 0. -/
def rowsTiming0 : List Desc := [
  ⟨0x4000, 0x4000, 0x01, 0x01, .u8, 1, .co, 1, 0x8, false, .both⟩,  -- TDC_DEAD_TIME (core cycles)
  ⟨0x4000, 0x4000, 0x02, 0x02, .u32, 4, .ro, 1, 0x0, false, .both⟩,  -- HT_ORPHAN_COUNT
  ⟨0x4000, 0x4000, 0x03, 0x03, .u32, 4, .ro, 1, 0x0, false, .both⟩,  -- HT_EXTRA_COUNT
  ⟨0x4000, 0x4000, 0x04, 0x04, .u32, 4, .ro, 1, 0x0, false, .both⟩,  -- MERGED_COUNT
  ⟨0x4001, 0x4001, 0x01, 0x01, .u8, 1, .ro, 1, 0x0, false, .both⟩,  -- BIN_CAL_STATE (0 = FUSE, 1 = CONVERGING, 2 = CONVERGED, 3 = FAILED)
  ⟨0x4001, 0x4001, 0x02, 0x02, .bool, 1, .rw, 3, 0x1, true, .both⟩,  -- BIN_CAL_ENABLE
  ⟨0x4001, 0x4001, 0x03, 0x03, .u16, 2, .ro, 1, 0x0, false, .both⟩,  -- BIN_CAL_MAX_DNL, last iteration (LSB_φ / 1000)
  ⟨0x4001, 0x4001, 0x04, 0x04, .u32, 4, .ro, 1, 0x0, false, .both⟩,  -- BIN_CAL_ITERATIONS
  ⟨0x4001, 0x4001, 0x05, 0x05, .domain, 320, .ro, 1, 0x0, false, .both⟩,  -- BIN_TABLE: 64 trims, then 64 counts of the last iteration
  ⟨0x4001, 0x4001, 0x06, 0x06, .bool, 1, .wo, 3, 0x0, false, .both⟩,  -- BIN_CAL_RESTART
  ⟨0x4001, 0x4001, 0x07, 0x07, .bool, 1, .ro, 1, 0x0, false, .both⟩,  -- LINEARITY_IN_SPEC (R101)
  ⟨0x4010, 0x4010, 0x01, 0x01, .u8, 1, .rw, 2, 0x0, true, .both⟩,  -- ARM_PROGRAMME
  ⟨0x4010, 0x4010, 0x02, 0x02, .u8, 1, .rw, 2, 0x0, true, .both⟩,  -- ARM_EDGE (0 = rising, 1 = falling)
  ⟨0x4010, 0x4010, 0x03, 0x03, .u8, 1, .ro, 1, 0x0, false, .both⟩,  -- USER_STATE (0 = idle, 1 = window open, 2 = campaign between shots)
  ⟨0x4010, 0x4010, 0x04, 0x04, .u8, 1, .ro, 1, 0xFF, false, .both⟩,  -- ACTIVE_PROGRAMME (0xFF = none)
  ⟨0x4010, 0x4010, 0x05, 0x05, .u32, 4, .ro, 1, 0x0, false, .both⟩,  -- ARM_OVERLAPS
  ⟨0x4010, 0x4010, 0x06, 0x06, .u32, 4, .ro, 1, 0x0, false, .both⟩,  -- ARM_CONFLICTS
  ⟨0x4010, 0x4010, 0x07, 0x07, .u32, 4, .ro, 1, 0x0, false, .both⟩,  -- VOID_SHOTS
  ⟨0x4010, 0x4010, 0x08, 0x08, .bool, 1, .wo, 2, 0x0, false, .both⟩,  -- CAMPAIGN_ABORT
  ⟨0x4100, 0x410F, 0x01, 0x01, .u32, 4, .rw, 3, 0x0, true, .both⟩,  -- PROG_CONFIG, programmes 0 to 15
  ⟨0x4100, 0x410F, 0x02, 0x02, .u16, 2, .rw, 3, 0x0, true, .both⟩,  -- START_SOURCE
  ⟨0x4100, 0x410F, 0x03, 0x22, .u16, 2, .rw, 3, 0x0, true, .both⟩,  -- STOP_SOURCE 0 to 31
  ⟨0x4200, 0x421F, 0x01, 0x01, .i32, 4, .ro, 1, 0x0, false, .both⟩,  -- MEAN, stop 0 to 31 (LSB_φ / 256)
  ⟨0x4200, 0x421F, 0x02, 0x02, .u32, 4, .ro, 1, 0x0, false, .both⟩,  -- STD_DEV (LSB_φ / 256)
  ⟨0x4200, 0x421F, 0x03, 0x03, .i32, 4, .ro, 1, 0x0, false, .both⟩,  -- MIN (LSB_φ)
  ⟨0x4200, 0x421F, 0x04, 0x04, .i32, 4, .ro, 1, 0x0, false, .both⟩,  -- MAX (LSB_φ)
  ⟨0x4200, 0x421F, 0x05, 0x05, .u32, 4, .ro, 1, 0x0, false, .both⟩,  -- VALID_COUNT
  ⟨0x4200, 0x421F, 0x06, 0x06, .u32, 4, .ro, 1, 0x0, false, .both⟩,  -- ORDER_COUNT
  ⟨0x4200, 0x421F, 0x07, 0x07, .u32, 4, .ro, 1, 0x0, false, .both⟩,  -- COINCIDENT_COUNT
  ⟨0x4200, 0x421F, 0x08, 0x08, .u32, 4, .ro, 1, 0x0, false, .both⟩,  -- NO_STOP_COUNT
  ⟨0x4200, 0x421F, 0x09, 0x09, .i32, 4, .ro, 1, 0x0, false, .both⟩,  -- LAST_INTERVAL (LSB_φ)
  ⟨0x4200, 0x421F, 0x0A, 0x0A, .u8, 1, .ro, 1, 0x0, false, .both⟩,  -- LAST_FLAGS ([0] ORDER, [1] COINCIDENT, [2] NO_STOP, [3] NO_START)
  ⟨0x4300, 0x4300, 0x01, 0x01, .u8, 1, .rw, 3, 0x4, true, .cOnly⟩,  -- SERVICE_K (N = 2^K, 4 to 20)
  ⟨0x4300, 0x4300, 0x02, 0x02, .u8, 1, .ro, 1, 0x0, false, .cOnly⟩,  -- SERVICE_STATE (0 = idle, 1 = round-trip campaign)
  ⟨0x4301, 0x4301, 0x01, 0x01, .i32, 4, .ro, 1, 0x0, false, .cOnly⟩,  -- ECHO_MEAN, domains A and B (LSB_φ / 256)
  ⟨0x4301, 0x4301, 0x02, 0x02, .i32, 4, .ro, 1, 0x0, false, .cOnly⟩,  -- ECHO_MEAN, domains A and B (LSB_φ / 256)
  ⟨0x4301, 0x4301, 0x03, 0x03, .u32, 4, .ro, 1, 0x0, false, .cOnly⟩,  -- ECHO_VALID_COUNT, domains A and B
  ⟨0x4301, 0x4301, 0x04, 0x04, .u32, 4, .ro, 1, 0x0, false, .cOnly⟩,  -- ECHO_VALID_COUNT, domains A and B
  ⟨0x4302, 0x4302, 0x01, 0x20, .u16, 2, .ro, 1, 0x0, false, .cOnly⟩,  -- PORT_RT_SHOTS, P01 to P32, last campaign
  ⟨0x4400, 0x4400, 0x01, 0x01, .u32, 4, .rs, 3, 0xFFFFFF, false, .both⟩]  -- INJECTED_MASK (bit r = rank r)

/-- Entries of the dictionary from 0x4400 (R391), part 1. -/
def rowsTiming1 : List Desc := [
  ⟨0x4400, 0x4400, 0x02, 0x02, .u8, 1, .ro, 1, 0x30, false, .both⟩,  -- J, injected slots per crossing
  ⟨0x4400, 0x4400, 0x03, 0x03, .u8, 1, .ro, 1, 0x20, false, .both⟩,  -- CARREL_SLICE (0xFF = none)
  ⟨0x4400, 0x4400, 0x04, 0x04, .u32, 4, .ro, 1, 0x0, false, .both⟩,  -- RUN_PERIODS_DONE
  ⟨0x4400, 0x4400, 0x05, 0x05, .u32, 4, .ro, 1, 0x0, false, .both⟩,  -- ROTATIONS, runs accepted
  ⟨0x4400, 0x4400, 0x06, 0x06, .u32, 4, .ro, 1, 0x0, false, .both⟩,  -- ROTATION_DEFERRALS
  ⟨0x4400, 0x4400, 0x07, 0x07, .u32, 4, .ro, 1, 0x0, false, .both⟩,  -- ABANDONED_PAIRS
  ⟨0x4400, 0x4400, 0x08, 0x08, .u32, 4, .ro, 1, 0x0, false, .both⟩,  -- SKIPPED_CAPTURES
  ⟨0x4400, 0x4400, 0x09, 0x09, .u8, 1, .ro, 1, 0x0, false, .both⟩,  -- CAL_MODE (0 = INITIAL, 1 = ROTATING, 2 = BORROWED)
  ⟨0x4400, 0x4400, 0x0A, 0x0A, .bool, 1, .ro, 1, 0x0, false, .both⟩,  -- CAL_FROZEN
  ⟨0x4400, 0x4400, 0x0B, 0x0B, .u8, 1, .ro, 1, 0x0, false, .both⟩,  -- RETIRED_SLICES, R
  ⟨0x4400, 0x4400, 0x0C, 0x0C, .u16, 2, .ro, 1, 0x0, false, .both⟩,  -- PENDING_PEAK, most pairs pending at once
  ⟨0x4420, 0x4440, 0x01, 0x01, .u8, 1, .ro, 1, 0x0, false, .both⟩,  -- SLICE_STATE, S00 to S32 (0 = WORKING, 1 = CARREL, 2 = CALIBRATING OUT OF SERVICE, 3 = RETIRED)
  ⟨0x4420, 0x4440, 0x02, 0x02, .u8, 1, .ro, 1, 0x0, false, .both⟩,  -- SLICE_RANK (0xFF = none)
  ⟨0x4420, 0x4440, 0x03, 0x03, .i16, 2, .ro, 1, 0x0, false, .both⟩,  -- OFFSET (codes / 16)
  ⟨0x4420, 0x4440, 0x04, 0x04, .q16, 4, .ro, 1, 0x0, false, .both⟩,  -- GAIN
  ⟨0x4420, 0x4440, 0x05, 0x05, .domain, 28, .ro, 1, 0x0, false, .both⟩,  -- BIT_WEIGHTS, 14 × U16
  ⟨0x4420, 0x4440, 0x06, 0x06, .u32, 4, .ro, 1, 0x0, false, .both⟩,  -- RUNS_ACCEPTED
  ⟨0x4420, 0x4440, 0x07, 0x07, .u32, 4, .ro, 1, 0x0, false, .both⟩,  -- RUNS_REJECTED
  ⟨0x4420, 0x4440, 0x08, 0x08, .u8, 1, .ro, 1, 0x0, false, .both⟩,  -- CONSECUTIVE_FAILURES
  ⟨0x4420, 0x4440, 0x09, 0x09, .u32, 4, .ro, 1, 0x0, false, .both⟩,  -- METASTABLE_COUNT
  ⟨0x4500, 0x4500, 0x01, 0x01, .u16, 2, .rs, 3, 0x0, false, .both⟩,  -- REGULAR_LENGTH, L (1 to 1024; 0 = none)
  ⟨0x4500, 0x4500, 0x02, 0x02, .u16, 2, .ro, 1, 0x0, false, .both⟩,  -- REGULAR_POSITION
  ⟨0x4500, 0x4500, 0x03, 0x03, .u32, 4, .ro, 1, 0x0, false, .both⟩,  -- REGULAR_LAPS
  ⟨0x4500, 0x4500, 0x05, 0x05, .u16, 2, .ro, 1, 0x0, false, .both⟩,  -- REGULAR_REVISIT_BOUND (crossings; 0xFFFF = no bound, 0 = no list; R138)
  ⟨0x4600, 0x46FF, 0x01, 0x04, .u32, 4, .rs, 3, 0x0, false, .both⟩,  -- REG_ENTRY 0 to 1023
  ⟨0x4720, 0x4723, 0x00, 0xFF, .u32, 4, .ro, 1, 0x0, false, .both⟩,  -- REG_RESULT 0 to 1023
  ⟨0x4800, 0x4800, 0x01, 0x01, .u16, 2, .rs, 3, 0x0, false, .fOnly⟩,  -- TOT_MIN (units of 16 LSB_φ)
  ⟨0x4800, 0x4800, 0x02, 0x02, .u16, 2, .rs, 3, 0x1FF, false, .fOnly⟩,  -- TOT_MAX (units of 16 LSB_φ)
  ⟨0x4800, 0x4800, 0x03, 0x03, .u8, 1, .rs, 3, 0xD, false, .fOnly⟩,  -- SLEW_MAX (1 to 13)
  ⟨0x4800, 0x4800, 0x04, 0x04, .u32, 4, .rs, 3, 0x100000, false, .fOnly⟩,  -- TIMEOUT_T (crossings; 0 = off)
  ⟨0x4800, 0x4800, 0x05, 0x05, .u8, 1, .rs, 3, 0x2, false, .fOnly⟩,  -- CLS_ACTIONS
  ⟨0x4800, 0x4800, 0x06, 0x06, .u8, 1, .rs, 3, 0x4, false, .fOnly⟩,  -- ZS_SHIFT, k
  ⟨0x4800, 0x4800, 0x07, 0x07, .u8, 1, .rs, 3, 0x0, false, .fOnly⟩,  -- PRIM_MODE
  ⟨0x4800, 0x4800, 0x08, 0x08, .bool, 1, .rs, 3, 0x0, false, .fOnly⟩,  -- M_COMPACT
  ⟨0x4800, 0x4800, 0x09, 0x09, .u8, 1, .rw, 2, 0x20, true, .fOnly⟩,  -- BASELINE_DRIFT_LIMIT (codes)
  ⟨0x4810, 0x4810, 0x01, 0x01, .u32, 4, .ro, 1, 0x0, false, .fOnly⟩,  -- RUNT_DISCARDS
  ⟨0x4810, 0x4810, 0x02, 0x02, .u32, 4, .ro, 1, 0x0, false, .fOnly⟩,  -- WIDTH_DISCARDS
  ⟨0x4810, 0x4810, 0x03, 0x03, .u32, 4, .ro, 1, 0x0, false, .fOnly⟩,  -- SLEW_DISCARDS
  ⟨0x4810, 0x4810, 0x04, 0x04, .u32, 4, .ro, 1, 0x0, false, .fOnly⟩,  -- ZS_SUPPRESSED
  ⟨0x4810, 0x4810, 0x05, 0x05, .u32, 4, .ro, 1, 0x0, false, .fOnly⟩]  -- STAMP_ONLY_NO_HOLD

/-- Entries of the dictionary from 0x4810 (R391), part 2. -/
def rowsTiming2 : List Desc := [
  ⟨0x4810, 0x4810, 0x06, 0x06, .u32, 4, .ro, 1, 0x0, false, .fOnly⟩,  -- STAMP_ONLY_CONVERTER_BUSY
  ⟨0x4810, 0x4810, 0x07, 0x07, .u64, 8, .ro, 1, 0x0, false, .fOnly⟩,  -- RECORDS_FORMED
  ⟨0x4812, 0x4812, 0x01, 0x08, .u32, 4, .ro, 1, 0x0, false, .fOnly⟩,  -- SILENT_MAP, words 1 to 8, as `3010`
  ⟨0x4830, 0x4830, 0x01, 0x01, .bool, 1, .rs, 3, 0x0, false, .cOnly⟩,  -- AUTO_ENABLE (C-role)
  ⟨0x4830, 0x4830, 0x02, 0x02, .u32, 4, .rs, 3, 0x10000, false, .both⟩,  -- T_AUTO (crossings, 16 to 2^24)
  ⟨0x4830, 0x4830, 0x03, 0x03, .u16, 2, .rs, 3, 0x20, false, .both⟩,  -- FORCED_OFFSET (crossings)
  ⟨0x4830, 0x4830, 0x04, 0x04, .bool, 1, .rs, 3, 0x0, false, .both⟩,  -- SELF_ENABLE
  ⟨0x4830, 0x4830, 0x05, 0x05, .u16, 2, .rs, 3, 0x8, false, .both⟩,  -- SELF_THRESHOLD (summed counts, 1 to 1536)
  ⟨0x4830, 0x4830, 0x06, 0x06, .u32, 4, .rs, 3, 0xFFFFFFFF, false, .cOnly⟩,  -- SELF_WORKER_MASK, bit p − 1 = port Pp (C-role)
  ⟨0x4830, 0x4830, 0x07, 0x07, .u16, 2, .rs, 3, 0x10, false, .both⟩,  -- SELF_HOLDOFF (crossings, 1 to 1024)
  ⟨0x4830, 0x4830, 0x08, 0x08, .u32, 4, .ro, 1, 0x0, false, .both⟩,  -- ACCEPTS_EXTERNAL
  ⟨0x4830, 0x4830, 0x09, 0x09, .u32, 4, .ro, 1, 0x0, false, .both⟩,  -- ACCEPTS_FORCED
  ⟨0x4830, 0x4830, 0x0A, 0x0A, .u32, 4, .ro, 1, 0x0, false, .both⟩,  -- ACCEPTS_SELF
  ⟨0x4830, 0x4830, 0x0B, 0x0B, .u32, 4, .ro, 1, 0x0, false, .both⟩,  -- ACCEPTS_DUPLICATE
  ⟨0x4830, 0x4830, 0x0C, 0x0C, .u32, 4, .ro, 1, 0x0, false, .both⟩,  -- ACCEPTS_STALE
  ⟨0x4830, 0x4830, 0x0D, 0x0D, .u32, 4, .ro, 1, 0x0, false, .both⟩,  -- SELF_DROPPED
  ⟨0x4900, 0x49FF, 0x01, 0x01, .u32, 4, .rs, 3, 0x80000000, false, .fOnly⟩,  -- CLS_CONFIG, CH000 to CH255
  ⟨0x4900, 0x49FF, 0x02, 0x02, .u16, 2, .ro, 1, 0xFFFF, false, .fOnly⟩,  -- BASELINE_HG (codes / 16; 0xFFFF = not READY)
  ⟨0x4900, 0x49FF, 0x03, 0x03, .u16, 2, .ro, 1, 0xFFFF, false, .fOnly⟩,  -- BASELINE_LG (codes / 16; 0xFFFF = not READY)
  ⟨0x4900, 0x49FF, 0x04, 0x04, .u32, 4, .ro, 1, 0x0, false, .fOnly⟩,  -- RECORDS_KEPT
  ⟨0x4900, 0x49FF, 0x05, 0x05, .u32, 4, .ro, 1, 0x0, false, .fOnly⟩,  -- RECORDS_DISCARDED
  ⟨0x4A00, 0x4A00, 0x01, 0x01, .u8, 1, .rs, 3, 0x0, false, .fOnly⟩,  -- STACK_MODE (0 = triggered, 1 = streaming)
  ⟨0x4A00, 0x4A00, 0x02, 0x02, .u16, 2, .rs, 3, 0x80, false, .fOnly⟩,  -- LATENCY L (crossings, 8 to 1024)
  ⟨0x4A00, 0x4A00, 0x03, 0x03, .u8, 1, .rs, 3, 0x2, false, .fOnly⟩,  -- WINDOW_Q (crossings, 0 to 15)
  ⟨0x4A00, 0x4A00, 0x04, 0x04, .u8, 1, .rs, 3, 0x2, false, .fOnly⟩,  -- WINDOW_P (crossings, 0 to 15)
  ⟨0x4A00, 0x4A00, 0x05, 0x05, .u16, 2, .ro, 1, 0x84, false, .fOnly⟩,  -- HOLD_SPAN H (crossings)
  ⟨0x4A00, 0x4A00, 0x06, 0x06, .u16, 2, .ro, 1, 0x0, false, .fOnly⟩,  -- RETAIN_LIMIT of the active set (crossings)
  ⟨0x4A00, 0x4A00, 0x07, 0x07, .bool, 1, .rs, 3, 0x1, false, .fOnly⟩,  -- FLUSH_AT_WINDOW
  ⟨0x4A10, 0x4A1F, 0x01, 0x01, .u16, 2, .ro, 1, 0x0, false, .fOnly⟩,  -- OCCUPANCY, STK0 to STK15 (entries)
  ⟨0x4A10, 0x4A1F, 0x02, 0x02, .u16, 2, .ro, 1, 0x0, false, .fOnly⟩,  -- PEAK_OCCUPANCY (entries)
  ⟨0x4A10, 0x4A1F, 0x03, 0x03, .u64, 8, .ro, 1, 0x0, false, .fOnly⟩,  -- RECORDS_WRITTEN
  ⟨0x4A10, 0x4A1F, 0x04, 0x04, .u64, 8, .ro, 1, 0x0, false, .fOnly⟩,  -- RECORDS_SENT
  ⟨0x4A10, 0x4A1F, 0x05, 0x05, .u64, 8, .ro, 1, 0x0, false, .fOnly⟩,  -- RELEASED_UNCLAIMED
  ⟨0x4A10, 0x4A1F, 0x06, 0x06, .u32, 4, .ro, 1, 0x0, false, .fOnly⟩,  -- EVICTED
  ⟨0x4A10, 0x4A1F, 0x07, 0x07, .u32, 4, .ro, 1, 0x0, false, .fOnly⟩,  -- REFUSED
  ⟨0x4A10, 0x4A1F, 0x08, 0x08, .u32, 4, .ro, 1, 0x0, false, .fOnly⟩,  -- ECC_CORRECTED
  ⟨0x4A10, 0x4A1F, 0x09, 0x09, .u32, 4, .ro, 1, 0x0, false, .fOnly⟩,  -- ECC_POISONED
  ⟨0x4A10, 0x4A1F, 0x0A, 0x0A, .u16, 2, .ro, 1, 0x0, false, .fOnly⟩,  -- WRITE_POINTER ([11:0])
  ⟨0x4A10, 0x4A1F, 0x0B, 0x0B, .u16, 2, .ro, 1, 0x0, false, .fOnly⟩,  -- RELEASE_POINTER ([11:0])
  ⟨0x4A20, 0x4A20, 0x01, 0x01, .u32, 4, .ro, 1, 0x0, false, .fOnly⟩]  -- ACCEPTS_REGISTERED

/-- Entries of the dictionary from 0x4A20 (R391), part 3. -/
def rowsTiming3 : List Desc := [
  ⟨0x4A20, 0x4A20, 0x02, 0x02, .u32, 4, .ro, 1, 0x0, false, .fOnly⟩,  -- ACCEPTS_LATE
  ⟨0x4A20, 0x4A20, 0x03, 0x03, .u16, 2, .ro, 1, 0x0, false, .fOnly⟩,  -- SCAN_BACKLOG_PEAK (crossings)
  ⟨0x4A20, 0x4A20, 0x04, 0x04, .u32, 4, .ro, 1, 0x0, false, .fOnly⟩,  -- WITHDRAWALS_STACK_SPAN
  ⟨0x4A20, 0x4A20, 0x05, 0x05, .u32, 4, .ro, 1, 0x0, false, .fOnly⟩]  -- WITHDRAWALS_STACK_FULL

/-- The rows of 0x4000 to 0x4FFF. -/
def rowsTiming : List Desc := rowsTiming0 ++ rowsTiming1 ++ rowsTiming2 ++ rowsTiming3

/-- Entries of the dictionary from 0x5000 (R391), part 0. -/
def rowsMerge0 : List Desc := [
  ⟨0x5000, 0x5000, 0x01, 0x01, .u64, 8, .ro, 1, 0x0, false, .cOnly⟩,  -- RUN_HEADERS
  ⟨0x5000, 0x5000, 0x02, 0x02, .u32, 4, .ro, 1, 0x0, false, .cOnly⟩,  -- ORPHAN_RUNS
  ⟨0x5000, 0x5000, 0x03, 0x03, .u64, 8, .ro, 1, 0x0, false, .cOnly⟩,  -- PADDING_DROPPED, filler places not merged
  ⟨0x5000, 0x5000, 0x04, 0x04, .u32, 4, .ro, 1, 0x0, false, .cOnly⟩,  -- TIME_MARKS
  ⟨0x5000, 0x5000, 0x05, 0x05, .u32, 4, .ro, 1, 0x0, false, .cOnly⟩,  -- RESERVED_WORDS_DISCARDED (R248, R259)
  ⟨0x5000, 0x5000, 0x06, 0x06, .u16, 2, .ro, 1, 0x0, false, .cOnly⟩,  -- ACCEPT_SEQ, last number used
  ⟨0x5101, 0x510C, 0x01, 0x01, .u32, 4, .ro, 1, 0x0, false, .cOnly⟩,  -- ACCESSION, next number, uplinks 1 to 12
  ⟨0x5101, 0x510C, 0x02, 0x02, .u32, 4, .ro, 1, 0x0, false, .cOnly⟩,  -- LAST_COLOPHON_RECORDS
  ⟨0x5101, 0x510C, 0x03, 0x03, .u16, 2, .ro, 1, 0x0, false, .cOnly⟩,  -- LAST_COLOPHON_WITHDRAWALS
  ⟨0x5101, 0x510C, 0x04, 0x04, .u32, 4, .ro, 1, 0x0, false, .cOnly⟩,  -- LAST_COLOPHON_CHECK ([23:0])
  ⟨0x5101, 0x510C, 0x05, 0x05, .u64, 8, .ro, 1, 0x0, false, .cOnly⟩,  -- LAST_COLOPHON_ORBIT
  ⟨0x5101, 0x510C, 0x06, 0x06, .u32, 4, .ro, 1, 0x0, false, .cOnly⟩,  -- BOOKMARKS
  ⟨0x5201, 0x5220, 0x01, 0x01, .u8, 1, .ro, 1, 0x3, false, .cOnly⟩,  -- PORT_STATE, P01 to P32 (0 = Active, 1 = ABSENT, 2 = RETIRED, 3 = not in topology)
  ⟨0x5201, 0x5220, 0x02, 0x02, .u8, 1, .ro, 1, 0x0, false, .cOnly⟩,  -- HOME_UPLINK (0 = none)
  ⟨0x5201, 0x5220, 0x03, 0x03, .u8, 1, .ro, 1, 0x0, false, .cOnly⟩,  -- POSITION, 0 to 7 (0xFF = none)
  ⟨0x5201, 0x5220, 0x04, 0x04, .u8, 1, .ro, 1, 0x3F, false, .cOnly⟩,  -- LAST_OCCUPANCY
  ⟨0x5201, 0x5220, 0x05, 0x05, .u32, 4, .ro, 1, 0x0, false, .cOnly⟩,  -- FRAMES_CHECK_FAILED
  ⟨0x5201, 0x5220, 0x06, 0x06, .u32, 4, .ro, 1, 0x0, false, .cOnly⟩,  -- PRIMITIVES_UNRESOLVED
  ⟨0x5201, 0x5220, 0x07, 0x07, .u32, 4, .ro, 1, 0x0, false, .cOnly⟩,  -- FRAGMENTS_MERGED
  ⟨0x5201, 0x5220, 0x08, 0x08, .u32, 4, .ro, 1, 0x0, false, .cOnly⟩,  -- SERVICE_RECORDS
  ⟨0x5300, 0x5300, 0x01, 0x01, .u32, 4, .ro, 1, 0x0, false, .fOnly⟩,  -- FRAGMENTS_SENT
  ⟨0x5300, 0x5300, 0x02, 0x02, .u32, 4, .ro, 1, 0x0, false, .fOnly⟩,  -- STREAM_HEADERS
  ⟨0x5300, 0x5300, 0x03, 0x03, .u32, 4, .ro, 1, 0x0, false, .fOnly⟩,  -- COUNT_UNKNOWN_HEADERS
  ⟨0x5400, 0x5400, 0x01, 0x01, .u32, 4, .rs, 3, 0xC3000008, false, .fOnly⟩,  -- QUEUE_CONFIG
  ⟨0x5400, 0x5400, 0x02, 0x02, .u16, 2, .co, 1, 0x400, false, .fOnly⟩,  -- CAPACITY (words)
  ⟨0x5400, 0x5400, 0x03, 0x03, .u16, 2, .ro, 1, 0x0, false, .fOnly⟩,  -- LEVEL (words)
  ⟨0x5400, 0x5400, 0x04, 0x04, .u16, 2, .ro, 1, 0x0, false, .fOnly⟩,  -- LEVEL_PEAK (words)
  ⟨0x5400, 0x5400, 0x05, 0x05, .u64, 8, .ro, 1, 0x0, false, .fOnly⟩,  -- WORDS_CLOSED_FULL
  ⟨0x5400, 0x5400, 0x06, 0x06, .u64, 8, .ro, 1, 0x0, false, .fOnly⟩,  -- WORDS_CLOSED_PADDED
  ⟨0x5400, 0x5400, 0x07, 0x07, .u32, 4, .ro, 1, 0x0, false, .fOnly⟩,  -- STALE_CLOSES
  ⟨0x5400, 0x5400, 0x08, 0x08, .u32, 4, .ro, 1, 0x0, false, .fOnly⟩,  -- REFUSED_RECORDS
  ⟨0x5401, 0x5402, 0x01, 0x01, .u32, 4, .rs, 3, 0xC0300008, false, .fOnly⟩,  -- QUEUE_CONFIG
  ⟨0x5401, 0x5402, 0x02, 0x02, .u16, 2, .co, 1, 0x40, false, .fOnly⟩,  -- CAPACITY (words)
  ⟨0x5401, 0x5402, 0x03, 0x03, .u16, 2, .ro, 1, 0x0, false, .fOnly⟩,  -- LEVEL (words)
  ⟨0x5401, 0x5402, 0x04, 0x04, .u16, 2, .ro, 1, 0x0, false, .fOnly⟩,  -- LEVEL_PEAK (words)
  ⟨0x5401, 0x5402, 0x05, 0x05, .u64, 8, .ro, 1, 0x0, false, .fOnly⟩,  -- WORDS_CLOSED_FULL
  ⟨0x5401, 0x5402, 0x06, 0x06, .u64, 8, .ro, 1, 0x0, false, .fOnly⟩,  -- WORDS_CLOSED_PADDED
  ⟨0x5401, 0x5402, 0x07, 0x07, .u32, 4, .ro, 1, 0x0, false, .fOnly⟩,  -- STALE_CLOSES
  ⟨0x5401, 0x5402, 0x08, 0x08, .u32, 4, .ro, 1, 0x0, false, .fOnly⟩,  -- REFUSED_RECORDS
  ⟨0x5420, 0x5420, 0x01, 0x01, .u32, 4, .rs, 3, 0xC0300008, false, .cOnly⟩]  -- QUEUE_CONFIG

/-- Entries of the dictionary from 0x5420 (R391), part 1. -/
def rowsMerge1 : List Desc := [
  ⟨0x5420, 0x5420, 0x02, 0x02, .u16, 2, .co, 1, 0x40, false, .cOnly⟩,  -- CAPACITY (words)
  ⟨0x5420, 0x5420, 0x03, 0x03, .u16, 2, .ro, 1, 0x0, false, .cOnly⟩,  -- LEVEL (words)
  ⟨0x5420, 0x5420, 0x04, 0x04, .u16, 2, .ro, 1, 0x0, false, .cOnly⟩,  -- LEVEL_PEAK (words)
  ⟨0x5420, 0x5420, 0x05, 0x05, .u64, 8, .ro, 1, 0x0, false, .cOnly⟩,  -- WORDS_CLOSED_FULL
  ⟨0x5420, 0x5420, 0x06, 0x06, .u64, 8, .ro, 1, 0x0, false, .cOnly⟩,  -- WORDS_CLOSED_PADDED
  ⟨0x5420, 0x5420, 0x07, 0x07, .u32, 4, .ro, 1, 0x0, false, .cOnly⟩,  -- STALE_CLOSES
  ⟨0x5420, 0x5420, 0x08, 0x08, .u32, 4, .ro, 1, 0x0, false, .cOnly⟩,  -- REFUSED_RECORDS
  ⟨0x5421, 0x542C, 0x01, 0x01, .u32, 4, .rs, 3, 0xC3000008, false, .cOnly⟩,  -- QUEUE_CONFIG
  ⟨0x5421, 0x542C, 0x02, 0x02, .u16, 2, .co, 1, 0x400, false, .cOnly⟩,  -- CAPACITY (words)
  ⟨0x5421, 0x542C, 0x03, 0x03, .u16, 2, .ro, 1, 0x0, false, .cOnly⟩,  -- LEVEL (words)
  ⟨0x5421, 0x542C, 0x04, 0x04, .u16, 2, .ro, 1, 0x0, false, .cOnly⟩,  -- LEVEL_PEAK (words)
  ⟨0x5421, 0x542C, 0x05, 0x05, .u64, 8, .ro, 1, 0x0, false, .cOnly⟩,  -- WORDS_CLOSED_FULL
  ⟨0x5421, 0x542C, 0x06, 0x06, .u64, 8, .ro, 1, 0x0, false, .cOnly⟩,  -- WORDS_CLOSED_PADDED
  ⟨0x5421, 0x542C, 0x07, 0x07, .u32, 4, .ro, 1, 0x0, false, .cOnly⟩,  -- STALE_CLOSES
  ⟨0x5421, 0x542C, 0x08, 0x08, .u32, 4, .ro, 1, 0x0, false, .cOnly⟩,  -- REFUSED_RECORDS
  ⟨0x5441, 0x5460, 0x01, 0x01, .u32, 4, .rs, 3, 0xC0C00008, false, .cOnly⟩,  -- QUEUE_CONFIG
  ⟨0x5441, 0x5460, 0x02, 0x02, .u16, 2, .co, 1, 0x100, false, .cOnly⟩,  -- CAPACITY (words)
  ⟨0x5441, 0x5460, 0x03, 0x03, .u16, 2, .ro, 1, 0x0, false, .cOnly⟩,  -- LEVEL (words)
  ⟨0x5441, 0x5460, 0x04, 0x04, .u16, 2, .ro, 1, 0x0, false, .cOnly⟩,  -- LEVEL_PEAK (words)
  ⟨0x5441, 0x5460, 0x05, 0x05, .u64, 8, .ro, 1, 0x0, false, .cOnly⟩,  -- WORDS_CLOSED_FULL
  ⟨0x5441, 0x5460, 0x06, 0x06, .u64, 8, .ro, 1, 0x0, false, .cOnly⟩,  -- WORDS_CLOSED_PADDED
  ⟨0x5441, 0x5460, 0x07, 0x07, .u32, 4, .ro, 1, 0x0, false, .cOnly⟩,  -- STALE_CLOSES
  ⟨0x5441, 0x5460, 0x08, 0x08, .u32, 4, .ro, 1, 0x0, false, .cOnly⟩,  -- REFUSED_RECORDS
  ⟨0x5481, 0x54A0, 0x01, 0x01, .u32, 4, .rs, 3, 0xC0300008, false, .cOnly⟩,  -- QUEUE_CONFIG
  ⟨0x5481, 0x54A0, 0x02, 0x02, .u16, 2, .co, 1, 0x40, false, .cOnly⟩,  -- CAPACITY (words)
  ⟨0x5481, 0x54A0, 0x03, 0x03, .u16, 2, .ro, 1, 0x0, false, .cOnly⟩,  -- LEVEL (words)
  ⟨0x5481, 0x54A0, 0x04, 0x04, .u16, 2, .ro, 1, 0x0, false, .cOnly⟩,  -- LEVEL_PEAK (words)
  ⟨0x5481, 0x54A0, 0x05, 0x05, .u64, 8, .ro, 1, 0x0, false, .cOnly⟩,  -- WORDS_CLOSED_FULL
  ⟨0x5481, 0x54A0, 0x06, 0x06, .u64, 8, .ro, 1, 0x0, false, .cOnly⟩,  -- WORDS_CLOSED_PADDED
  ⟨0x5481, 0x54A0, 0x07, 0x07, .u32, 4, .ro, 1, 0x0, false, .cOnly⟩,  -- STALE_CLOSES
  ⟨0x5481, 0x54A0, 0x08, 0x08, .u32, 4, .ro, 1, 0x0, false, .cOnly⟩,  -- REFUSED_RECORDS
  ⟨0x5800, 0x5800, 0x01, 0x01, .u16, 2, .co, 1, 0xA, false, .both⟩,  -- ATTEMPT_PERIOD (ms)
  ⟨0x5800, 0x5800, 0x02, 0x02, .u16, 2, .co, 1, 0x40, false, .both⟩,  -- ATTEMPTS_BEFORE_ABSENT
  ⟨0x5800, 0x5800, 0x03, 0x03, .u16, 2, .co, 1, 0x3E8, false, .both⟩,  -- ABSENT_PERIOD (ms)
  ⟨0x5800, 0x5800, 0x04, 0x04, .u8, 1, .rw, 3, 0x1, true, .both⟩,  -- DFE_STEP μ (0 = 0.25, 1 = 0.5, 2 = 1, 3 = 2 mV)
  ⟨0x5800, 0x5800, 0x05, 0x05, .bool, 1, .ro, 1, 0x0, false, .both⟩,  -- DFE_FROZEN
  ⟨0x5800, 0x5800, 0x06, 0x06, .u16, 2, .co, 1, 0xFA0, false, .both⟩,  -- T_RX (ps)
  ⟨0x5802, 0x5802, 0x01, 0x01, .u8, 1, .rs, 3, 0x0, false, .cOnly⟩,  -- DEPTH_PORTS F_W (crossings, 0 to 125)
  ⟨0x5802, 0x5802, 0x02, 0x02, .u8, 1, .rs, 3, 0x4, false, .cOnly⟩,  -- DEPTH_BACKEND F_B (crossings, 0 to 125)
  ⟨0x5802, 0x5802, 0x03, 0x03, .u8, 1, .rs, 3, 0x2, false, .cOnly⟩]  -- DEPTH_CROSSLINK F_K (crossings, 0 to 125)

/-- Entries of the dictionary from 0x5900 (R391), part 2. -/
def rowsMerge2 : List Desc := [
  ⟨0x5900, 0x5927, 0x01, 0x01, .u32, 4, .rw, 3, 0x3C0CC40, true, .both⟩,  -- LANE_CONFIG
  ⟨0x5900, 0x5927, 0x02, 0x02, .u16, 2, .ro, 1, 0x0, false, .both⟩,  -- LANE_STATE ([15:8] transmit, [7:0] receive; 0 Off, 1 Training, 2 Active, 3 Dormant, 4 Retired)
  ⟨0x5900, 0x5927, 0x03, 0x03, .u8, 1, .ro, 1, 0x0, false, .both⟩,  -- TRAIN_STEP, receive half (1 to 7)
  ⟨0x5900, 0x5927, 0x04, 0x04, .u32, 4, .ro, 1, 0x0, false, .both⟩,  -- ATTEMPTS, since the last Active
  ⟨0x5900, 0x5927, 0x05, 0x05, .bool, 1, .ro, 1, 0x0, false, .both⟩,  -- LINK_ABSENT
  ⟨0x5900, 0x5927, 0x06, 0x06, .u8, 1, .ro, 1, 0x0, false, .both⟩,  -- CTLE_IN_USE (dB)
  ⟨0x5900, 0x5927, 0x07, 0x07, .domain, 6, .ro, 1, 0x0, false, .both⟩,  -- DFE_TAPS, 6 × I8 (mV)
  ⟨0x5900, 0x5927, 0x08, 0x08, .bool, 1, .ro, 1, 0x0, false, .both⟩,  -- RX_INVERTED
  ⟨0x5900, 0x5927, 0x09, 0x09, .u8, 1, .ro, 1, 0x0, false, .both⟩,  -- RANK ([7] reversal corrected, [1:0] rank)
  ⟨0x5900, 0x5927, 0x0A, 0x0A, .u32, 4, .ro, 1, 0x0, false, .both⟩,  -- PLACEMENT ([31:16] F, [15:0] margin in LSB_φ)
  ⟨0x5900, 0x5927, 0x0B, 0x0B, .u32, 4, .ro, 1, 0x0, false, .both⟩,  -- SYNC_ERRORS
  ⟨0x5900, 0x5927, 0x0C, 0x0C, .u32, 4, .ro, 1, 0x0, false, .both⟩,  -- LINK_DROPS
  ⟨0x5900, 0x5927, 0x0D, 0x0D, .u32, 4, .ro, 1, 0x0, false, .both⟩,  -- FRAMES_LATE
  ⟨0x5900, 0x5927, 0x0E, 0x0E, .u8, 1, .ro, 1, 0x0, false, .both⟩,  -- FAILED_RETRIES, consecutive
  ⟨0x5A00, 0x5A27, 0x01, 0x01, .u8, 1, .rw, 3, 0x0, false, .both⟩,  -- PRBS_MODE (0 = off, 1 = generate, 2 = check, 3 = both)
  ⟨0x5A00, 0x5A27, 0x02, 0x02, .u64, 8, .ro, 1, 0x0, false, .both⟩,  -- PRBS_BITS
  ⟨0x5A00, 0x5A27, 0x03, 0x03, .u64, 8, .ro, 1, 0x0, false, .both⟩,  -- PRBS_ERRORS
  ⟨0x5A00, 0x5A27, 0x04, 0x04, .bool, 1, .ro, 1, 0x0, false, .both⟩,  -- PRBS_LOCKED
  ⟨0x5A00, 0x5A27, 0x05, 0x05, .i8, 1, .rw, 3, 0x0, false, .both⟩,  -- EYE_PHASE (UI / 64, −32 to +31)
  ⟨0x5A00, 0x5A27, 0x06, 0x06, .i8, 1, .rw, 3, 0x0, false, .both⟩,  -- EYE_VOLT (mV, −127 to +127)
  ⟨0x5B00, 0x5B00, 0x01, 0x01, .u8, 1, .ro, 1, 0x0, false, .both⟩,  -- ACT_DEPTH F_R (crossings)
  ⟨0x5B00, 0x5B00, 0x02, 0x02, .u8, 1, .ro, 1, 0xFF, false, .both⟩,  -- OBEYED_SIDE (0 = A, 1 = B, 0xFF = none)
  ⟨0x5B00, 0x5B00, 0x03, 0x03, .u8, 1, .ro, 1, 0x0, false, .both⟩,  -- LAST_CLAIM_A
  ⟨0x5B00, 0x5B00, 0x04, 0x04, .u8, 1, .ro, 1, 0x0, false, .both⟩,  -- LAST_CLAIM_B
  ⟨0x5B00, 0x5B00, 0x05, 0x05, .u32, 4, .ro, 1, 0x0, false, .both⟩,  -- SIDE_CHANGES
  ⟨0x5B00, 0x5B00, 0x06, 0x06, .u32, 4, .ro, 1, 0x0, false, .both⟩,  -- NO_CLAIM_CROSSINGS
  ⟨0x5B00, 0x5B00, 0x07, 0x07, .u32, 4, .ro, 1, 0x0, false, .both⟩,  -- TWIN_RECOVERED
  ⟨0x5B00, 0x5B00, 0x08, 0x08, .u32, 4, .ro, 1, 0x0, false, .both⟩,  -- REF_UNRESOLVED
  ⟨0x5B00, 0x5B00, 0x09, 0x09, .u32, 4, .ro, 1, 0x0, false, .both⟩,  -- COMMANDS_INVALID
  ⟨0x5B00, 0x5B00, 0x0A, 0x0A, .u32, 4, .ro, 1, 0x0, false, .both⟩,  -- COMMANDS_LATE
  ⟨0x5B00, 0x5B00, 0x0B, 0x0B, .u32, 4, .ro, 1, 0x0, false, .both⟩,  -- CLAIM_RESERVED_SEEN
  ⟨0x5C00, 0x5C27, 0x01, 0x01, .u32, 4, .ro, 1, 0x0, false, .both⟩,  -- REF_A_FAILS
  ⟨0x5C00, 0x5C27, 0x02, 0x02, .u32, 4, .ro, 1, 0x0, false, .both⟩,  -- REF_B_FAILS
  ⟨0x5C00, 0x5C27, 0x03, 0x03, .u32, 4, .ro, 1, 0x0, false, .both⟩,  -- REF_DISAGREE
  ⟨0x5C00, 0x5C27, 0x04, 0x04, .u32, 4, .ro, 1, 0x0, false, .both⟩,  -- REGION_CHECK_FAILS
  ⟨0x5C00, 0x5C27, 0x05, 0x05, .u32, 4, .ro, 1, 0x0, false, .both⟩,  -- FRAMES_INVALID (code or header crossing)
  ⟨0x5C00, 0x5C27, 0x06, 0x06, .u8, 1, .ro, 1, 0x0, false, .both⟩]  -- PEER_LANE, lane number folded (R303)

/-- The rows of 0x5000 to 0x5FFF. -/
def rowsMerge : List Desc := rowsMerge0 ++ rowsMerge1 ++ rowsMerge2

/-- Entries of the dictionary from 0x6001 (R391), part 0. -/
def rowsCheck0 : List Desc := [
  ⟨0x6001, 0x600C, 0x01, 0x01, .u32, 4, .rs, 3, 0x0, false, .cOnly⟩,  -- COMP_CONFIG
  ⟨0x6001, 0x600C, 0x02, 0x02, .u64, 8, .ro, 1, 0x0, false, .cOnly⟩,  -- BLOCKS_COMPRESSED
  ⟨0x6001, 0x600C, 0x03, 0x03, .u64, 8, .ro, 1, 0x0, false, .cOnly⟩,  -- BLOCKS_STORED
  ⟨0x6001, 0x600C, 0x04, 0x04, .u32, 4, .ro, 1, 0x0, false, .cOnly⟩,  -- VERIFY_FAILURES
  ⟨0x6001, 0x600C, 0x05, 0x05, .u64, 8, .ro, 1, 0x0, false, .cOnly⟩,  -- RAW_BYTES, 8 for each record of every block, compressed or stored
  ⟨0x6001, 0x600C, 0x06, 0x06, .u64, 8, .ro, 1, 0x0, false, .cOnly⟩,  -- SENT_BYTES: tokens including END for a compressed block; 8 for each valid record of a stored block
  ⟨0x6001, 0x600C, 0x07, 0x07, .u32, 4, .ro, 1, 0x0, false, .cOnly⟩,  -- RESTARTS
  ⟨0x6001, 0x600C, 0x08, 0x08, .bool, 1, .ro, 1, 0x0, true, .cOnly⟩,  -- STORED_ONLY (R331)
  ⟨0x6040, 0x6040, 0x01, 0x01, .u8, 1, .ro, 1, 0x0, false, .both⟩,  -- LAST_DECODE_ERROR (0 = none, 1 to 4 of R328)
  ⟨0x6040, 0x6040, 0x02, 0x02, .u32, 4, .ro, 1, 0x0, false, .both⟩,  -- ERROR_OFFSET, payload byte
  ⟨0x6040, 0x6040, 0x03, 0x03, .u32, 4, .ro, 1, 0x0, false, .both⟩,  -- DECODED_LENGTH, last folio
  ⟨0x6400, 0x640F, 0x01, 0x01, .u32, 4, .rw, 2, 0x31F, true, .both⟩,  -- CVU_CONFIG
  ⟨0x6400, 0x640F, 0x02, 0x02, .u64, 8, .rw, 2, 0x1EDC6F41, true, .both⟩,  -- POLY
  ⟨0x6400, 0x640F, 0x03, 0x03, .u64, 8, .rw, 2, 0xFFFFFFFF, true, .both⟩,  -- INIT
  ⟨0x6400, 0x640F, 0x04, 0x04, .u64, 8, .rw, 2, 0xFFFFFFFF, true, .both⟩,  -- XOROUT
  ⟨0x6400, 0x640F, 0x05, 0x05, .u64, 8, .rw, 2, 0x0, true, .both⟩,  -- FOLD
  ⟨0x6400, 0x640F, 0x06, 0x06, .u8, 1, .wo, 2, 0x0, false, .both⟩,  -- CONTROL (1 = START, 2 = STOP)
  ⟨0x6400, 0x640F, 0x07, 0x07, .domain, 4096, .wo, 2, 0x0, false, .both⟩,  -- DATA, 1 to 4096 bytes
  ⟨0x6400, 0x640F, 0x08, 0x08, .u64, 8, .rw, 2, 0x0, false, .both⟩,  -- RUNNING_VALUE, R
  ⟨0x6400, 0x640F, 0x09, 0x09, .u64, 8, .ro, 1, 0x0, false, .both⟩,  -- RESULT
  ⟨0x6400, 0x640F, 0x0A, 0x0A, .u8, 1, .ro, 1, 0x0, false, .both⟩,  -- STATE ([7] RUNNING, [6:0] owner session)
  ⟨0x6400, 0x640F, 0x0B, 0x0B, .u64, 8, .ro, 1, 0x0, false, .both⟩,  -- BYTES, data bytes since START or restore
  ⟨0x6440, 0x6440, 0x01, 0x01, .u64, 8, .ro, 1, 0x0, false, .both⟩,  -- SELFTEST_LANES, bit l = a lane engine of `Ll` failed
  ⟨0x6440, 0x6440, 0x02, 0x02, .u32, 4, .ro, 1, 0x0, false, .both⟩,  -- SELFTEST_TMR ([2:0] folio copies, [5:3] bookplate copies, [17:6] colophon engines 1 to 12 with any copy failed)
  ⟨0x6800, 0x6800, 0x01, 0x01, .u8, 1, .ro, 1, 0x0, false, .cOnly⟩,  -- TWIN_STATE (coding of W0 STATE)
  ⟨0x6800, 0x6800, 0x02, 0x02, .u8, 1, .rw, 3, 0x0, true, .cOnly⟩,  -- BASE_CLAIM
  ⟨0x6800, 0x6800, 0x03, 0x03, .u8, 1, .ro, 1, 0x0, false, .cOnly⟩,  -- CURRENT_CLAIM
  ⟨0x6800, 0x6800, 0x04, 0x04, .u8, 1, .ro, 1, 0x0, false, .cOnly⟩,  -- PARTNER_CLAIM, last presented
  ⟨0x6800, 0x6800, 0x05, 0x05, .u8, 1, .ro, 1, 0x0, false, .cOnly⟩,  -- PARTNER_STATE
  ⟨0x6800, 0x6800, 0x06, 0x06, .u8, 1, .ro, 1, 0x0, false, .cOnly⟩,  -- RELEASE_CAUSE (R357; 0 = none)
  ⟨0x6800, 0x6800, 0x07, 0x07, .u8, 1, .ro, 1, 0x6, false, .cOnly⟩,  -- MIRROR_DELAY M (crossings)
  ⟨0x6800, 0x6800, 0x08, 0x08, .bool, 1, .ro, 1, 0x0, false, .cOnly⟩,  -- CROSSLINK_LOST
  ⟨0x6810, 0x6810, 0x01, 0x01, .u8, 1, .rs, 3, 0x0, false, .cOnly⟩,  -- RETURN_POLICY (0 = RECLAIM, 1 = REMAIN)
  ⟨0x6820, 0x6820, 0x01, 0x01, .u64, 8, .ro, 1, 0x0, false, .cOnly⟩,  -- DIGESTS_MATCHED
  ⟨0x6820, 0x6820, 0x02, 0x02, .u32, 4, .ro, 1, 0x0, false, .cOnly⟩,  -- DIGEST_MISMATCHES
  ⟨0x6820, 0x6820, 0x03, 0x03, .u32, 4, .ro, 1, 0x0, false, .cOnly⟩,  -- SELFTESTS_RUN
  ⟨0x6820, 0x6820, 0x04, 0x04, .u32, 4, .ro, 1, 0x0, false, .cOnly⟩,  -- SELFTESTS_FAILED
  ⟨0x6820, 0x6820, 0x05, 0x05, .u32, 4, .ro, 1, 0x0, false, .cOnly⟩,  -- TAKEOVERS
  ⟨0x6820, 0x6820, 0x06, 0x06, .u32, 4, .ro, 1, 0x0, false, .cOnly⟩,  -- RESYNCS_COMPLETED
  ⟨0x6820, 0x6820, 0x07, 0x07, .u32, 4, .ro, 1, 0x0, false, .cOnly⟩]  -- RESYNCS_FAILED

/-- Entries of the dictionary from 0x6820 (R391), part 1. -/
def rowsCheck1 : List Desc := [
  ⟨0x6820, 0x6820, 0x08, 0x08, .u32, 4, .ro, 1, 0x0, false, .cOnly⟩,  -- CROSSLINK_MISSING
  ⟨0x6830, 0x6830, 0x01, 0x01, .u64, 8, .ro, 1, 0x0, false, .cOnly⟩,  -- MISMATCH_CROSSING ([61:14] orbit, [13:0] slot)
  ⟨0x6830, 0x6830, 0x02, 0x02, .u64, 8, .ro, 1, 0x0, false, .cOnly⟩,  -- MISMATCH_OWN_DIGEST
  ⟨0x6830, 0x6830, 0x03, 0x03, .u64, 8, .ro, 1, 0x0, false, .cOnly⟩,  -- MISMATCH_PARTNER_DIGEST
  ⟨0x6C00, 0x6C00, 0x01, 0x01, .u16, 2, .ro, 1, 0x0, true, .both⟩,  -- RETIRED_COUNT
  ⟨0x6C00, 0x6C00, 0x02, 0x02, .domain, 2048, .ro, 1, 0x0, true, .both⟩,  -- RETIREMENT_LIST, 8 bytes per entry
  ⟨0x6C00, 0x6C00, 0x03, 0x03, .u64, 8, .ro, 1, 0x0, false, .both⟩,  -- SCRUB_PASSES
  ⟨0x6C00, 0x6C00, 0x04, 0x04, .u64, 8, .rw, 3, 0x0, false, .both⟩,  -- PLAN_IN_FORCE and pending boundary ([63:48] plan, [47:0] orbit)
  ⟨0x6C01, 0x6C01, 0x01, 0x01, .u64, 8, .ro, 1, 0x0, false, .both⟩,  -- TRANSIENTS
  ⟨0x6C01, 0x6C01, 0x02, 0x02, .u32, 4, .ro, 1, 0x0, false, .both⟩,  -- PERMANENT_FAULTS
  ⟨0x6C01, 0x6C01, 0x03, 0x03, .u64, 8, .ro, 1, 0x0, false, .both⟩,  -- ECC_CORRECTED
  ⟨0x6C01, 0x6C01, 0x04, 0x04, .u32, 4, .ro, 1, 0x0, false, .both⟩,  -- ECC_UNCORRECTABLE
  ⟨0x6C01, 0x6C01, 0x05, 0x05, .u64, 8, .ro, 1, 0x0, false, .both⟩,  -- VOTER_REFRESHES
  ⟨0x6C01, 0x6C01, 0x06, 0x06, .u16, 2, .ro, 1, 0x0, false, .both⟩,  -- LAST_POISONED_BANK
  ⟨0x6C10, 0x6C10, 0x01, 0x01, .u16, 2, .wo, 3, 0x0, false, .both⟩,  -- RESTORE_SITE
  ⟨0x6C10, 0x6C10, 0x02, 0x02, .u16, 2, .wo, 3, 0x0, false, .both⟩,  -- RETIRE_SITE
  ⟨0x6C10, 0x6C10, 0x03, 0x03, .bool, 1, .wo, 3, 0x0, false, .both⟩,  -- CLEAR_FAULT_LOG
  ⟨0x6C20, 0x6C20, 0x01, 0x01, .u16, 2, .rw, 2, 0x0, false, .both⟩,  -- SITE_SELECT
  ⟨0x6C20, 0x6C20, 0x02, 0x02, .u8, 1, .ro, 1, 0x0, false, .both⟩,  -- SITE_TRANSIENTS in the last 2^24 crossings
  ⟨0x6C20, 0x6C20, 0x03, 0x03, .u8, 1, .ro, 1, 0x0, false, .both⟩,  -- SITE_STATE (0 = healthy, 1 = permanent, not retired, 2 = retired)
  ⟨0x6C30, 0x6C30, 0x01, 0x20, .domain, 512, .ro, 1, 0x0, true, .both⟩,  -- WORKER_LIST, P01 to P32 (C-role)
  ⟨0x6C40, 0x6C40, 0x01, 0x01, .domain, 2048, .ro, 1, 0x0, false, .both⟩]  -- FAULT_LOG, kinds 0x6 and 0x7

/-- The rows of 0x6000 to 0x6FFF. -/
def rowsCheck : List Desc := rowsCheck0 ++ rowsCheck1

/-- Entries of the dictionary from 0x7000 (R391), part 0. -/
def rowsSystem0 : List Desc := [
  ⟨0x7000, 0x700F, 0x01, 0x01, .u32, 4, .rw, 3, 0xE040000, true, .both⟩,  -- ENV_CONFIG
  ⟨0x7000, 0x700F, 0x02, 0x02, .u8, 1, .ro, 1, 0x0, false, .both⟩,  -- RANGE_IN_FORCE
  ⟨0x7000, 0x700F, 0x03, 0x03, .q16, 4, .ro, 1, 0x0, false, .both⟩,  -- RESULT y
  ⟨0x7000, 0x700F, 0x04, 0x04, .u8, 1, .ro, 1, 0x0, false, .both⟩,  -- STATUS ([0] VALID, [1] SETTLING, [2] FAULT, [3] TEMP_INVALID, [4] OVERRANGE, [5] SUPPLY, [6] from bookplate)
  ⟨0x7000, 0x700F, 0x05, 0x05, .q16, 4, .ro, 1, 0x0, false, .both⟩,  -- FILTERED_X x̄
  ⟨0x7000, 0x700F, 0x06, 0x06, .u32, 4, .ro, 1, 0x0, false, .both⟩,  -- VALID_SAMPLES
  ⟨0x7000, 0x700F, 0x07, 0x07, .u32, 4, .ro, 1, 0x0, false, .both⟩,  -- FAULT_SAMPLES
  ⟨0x7000, 0x700F, 0x08, 0x08, .u64, 8, .ro, 1, 0x0, false, .both⟩,  -- PROBE_SERIAL, boot read
  ⟨0x7000, 0x700F, 0x09, 0x09, .u8, 1, .ro, 1, 0x0, false, .both⟩,  -- PROBE_STATE (coded as `3020.01`)
  ⟨0x7100, 0x710F, 0x01, 0x04, .q16, 4, .rw, 3, 0x0, true, .both⟩,  -- COEFFICIENT a_ij
  ⟨0x7100, 0x710F, 0x05, 0x05, .q16, 4, .rw, 3, 0x10000, true, .both⟩,  -- COEFFICIENT a_ij
  ⟨0x7100, 0x710F, 0x06, 0x18, .q16, 4, .rw, 3, 0x0, true, .both⟩,  -- COEFFICIENT a_ij
  ⟨0x7210, 0x7213, 0x01, 0x01, .u32, 4, .rw, 3, 0x0, true, .both⟩,  -- OUT_CONFIG, `ENVOUT0` to `ENVOUT3`
  ⟨0x7210, 0x7213, 0x02, 0x02, .q16, 4, .rw, 3, 0x0, true, .both⟩,  -- LO
  ⟨0x7210, 0x7213, 0x03, 0x03, .q16, 4, .rw, 3, 0x10000, true, .both⟩,  -- HI
  ⟨0x7210, 0x7213, 0x04, 0x04, .u32, 4, .rw, 3, 0x3E8, true, .both⟩,  -- PWM_PERIOD (µs, 100 to 100 000)
  ⟨0x7210, 0x7213, 0x05, 0x05, .u32, 4, .rw, 3, 0x3E8, true, .both⟩,  -- FREQ_LO (Hz, 10 to 99 999)
  ⟨0x7210, 0x7213, 0x06, 0x06, .u32, 4, .rw, 3, 0x2710, true, .both⟩,  -- FREQ_HI (Hz, 11 to 100 000)
  ⟨0x7210, 0x7213, 0x07, 0x07, .u8, 1, .ro, 1, 0x0, false, .both⟩,  -- OUT_STATE (0 = held low, disabled; 1 = running; 2 = fault pattern)
  ⟨0x7400, 0x7400, 0x01, 0x01, .q16, 4, .ro, 1, 0x0, false, .both⟩,  -- T_DIE (°C)
  ⟨0x7400, 0x7400, 0x02, 0x02, .q16, 4, .ro, 1, 0x0, false, .both⟩,  -- T_DIE_PEAK (°C)
  ⟨0x7401, 0x7401, 0x01, 0x09, .q16, 4, .ro, 1, 0x0, false, .both⟩,  -- SENSOR_T, TS0 to TS8 (°C)
  ⟨0x7401, 0x7401, 0x0A, 0x0A, .u16, 2, .ro, 1, 0x0, false, .both⟩,  -- VOTED_OUT, bit k = TSk
  ⟨0x7402, 0x7402, 0x01, 0x01, .i16, 2, .rw, 3, 0x69, true, .both⟩,  -- WARNING_LEVEL (°C)
  ⟨0x7402, 0x7402, 0x02, 0x02, .i16, 2, .rw, 3, 0x6E, true, .both⟩,  -- THROTTLE_LEVEL (°C)
  ⟨0x7402, 0x7402, 0x03, 0x03, .i16, 2, .rw, 3, 0x7D, true, .both⟩,  -- SHUTDOWN_LEVEL (°C)
  ⟨0x7402, 0x7402, 0x04, 0x04, .u8, 1, .rw, 3, 0x5, true, .both⟩,  -- HYSTERESIS H (°C, 1 to 10)
  ⟨0x7402, 0x7402, 0x05, 0x05, .u8, 1, .rw, 3, 0xA, true, .both⟩,  -- THROTTLE_SLOPE s (% per °C, 0 to 100)
  ⟨0x7403, 0x7403, 0x01, 0x01, .u8, 1, .ro, 1, 0x0, false, .both⟩,  -- THERMAL_STATE ([0] warning, [1] throttle, [2] shutdown)
  ⟨0x7403, 0x7403, 0x02, 0x02, .u8, 1, .ro, 1, 0x64, false, .both⟩,  -- ALLOWANCE a (%)
  ⟨0x7403, 0x7403, 0x03, 0x03, .u16, 2, .ro, 1, 0x3E8, false, .both⟩,  -- MEASURE_PERIOD (µs)
  ⟨0x7403, 0x7403, 0x04, 0x04, .u64, 8, .ro, 1, 0x0, false, .both⟩,  -- THROTTLED_CROSSINGS
  ⟨0x7480, 0x7480, 0x01, 0x01, .u8, 1, .ro, 1, 0x0, false, .both⟩,  -- SUPPLY_STATE ([0] warning, [1] freeze)
  ⟨0x7480, 0x7480, 0x02, 0x02, .u64, 8, .ro, 1, 0x0, false, .both⟩,  -- AFFECTED_CROSSINGS
  ⟨0x7481, 0x7481, 0x01, 0x01, .u16, 2, .rw, 3, 0x357, true, .both⟩,  -- WARNING_LEVEL, rails of R499 in order (mV)
  ⟨0x7481, 0x7481, 0x02, 0x02, .u16, 2, .co, 1, 0x32A, false, .both⟩,  -- RESET_LEVEL (mV)
  ⟨0x7481, 0x7481, 0x03, 0x03, .u16, 2, .co, 1, 0x12, false, .both⟩,  -- HYSTERESIS (mV)
  ⟨0x7481, 0x7485, 0x04, 0x04, .u32, 4, .ro, 1, 0x0, false, .both⟩,  -- WARNINGS
  ⟨0x7481, 0x7485, 0x05, 0x05, .u16, 2, .ro, 1, 0x0, false, .both⟩,  -- LOWEST_READING (mV)
  ⟨0x7482, 0x7482, 0x01, 0x01, .u16, 2, .rw, 3, 0x474, true, .both⟩]  -- WARNING_LEVEL, rails of R499 in order (mV)

/-- Entries of the dictionary from 0x7482 (R391), part 1. -/
def rowsSystem1 : List Desc := [
  ⟨0x7482, 0x7482, 0x02, 0x02, .u16, 2, .co, 1, 0x438, false, .both⟩,  -- RESET_LEVEL (mV)
  ⟨0x7482, 0x7482, 0x03, 0x03, .u16, 2, .co, 1, 0x18, false, .both⟩,  -- HYSTERESIS (mV)
  ⟨0x7483, 0x7483, 0x01, 0x01, .u16, 2, .rw, 3, 0x6AE, true, .both⟩,  -- WARNING_LEVEL, rails of R499 in order (mV)
  ⟨0x7483, 0x7483, 0x02, 0x02, .u16, 2, .co, 1, 0x654, false, .both⟩,  -- RESET_LEVEL (mV)
  ⟨0x7483, 0x7483, 0x03, 0x03, .u16, 2, .co, 1, 0x24, false, .both⟩,  -- HYSTERESIS (mV)
  ⟨0x7484, 0x7484, 0x01, 0x01, .u16, 2, .rw, 3, 0x357, true, .both⟩,  -- WARNING_LEVEL, rails of R499 in order (mV)
  ⟨0x7484, 0x7484, 0x02, 0x02, .u16, 2, .co, 1, 0x32A, false, .both⟩,  -- RESET_LEVEL (mV)
  ⟨0x7484, 0x7484, 0x03, 0x03, .u16, 2, .co, 1, 0x12, false, .both⟩,  -- HYSTERESIS (mV)
  ⟨0x7485, 0x7485, 0x01, 0x01, .u16, 2, .rw, 3, 0x474, true, .both⟩,  -- WARNING_LEVEL, rails of R499 in order (mV)
  ⟨0x7485, 0x7485, 0x02, 0x02, .u16, 2, .co, 1, 0x438, false, .both⟩,  -- RESET_LEVEL (mV)
  ⟨0x7485, 0x7485, 0x03, 0x03, .u16, 2, .co, 1, 0x18, false, .both⟩,  -- HYSTERESIS (mV)
  ⟨0x7800, 0x7800, 0x01, 0x01, .domain, 1024, .ro, 1, 0x0, false, .both⟩,  -- EVENT_HISTORY, 64 × 16 bytes
  ⟨0x7800, 0x7800, 0x02, 0x02, .u8, 1, .ro, 1, 0x0, false, .both⟩,  -- HISTORY_ENTRIES (0 to 64)
  ⟨0x7800, 0x7800, 0x03, 0x03, .bool, 1, .wo, 3, 0x0, false, .both⟩,  -- HISTORY_CLEAR
  ⟨0x7800, 0x7800, 0x04, 0x04, .bool, 1, .ro, 1, 0x0, false, .both⟩,  -- ALERT_ACTIVE
  ⟨0x7800, 0x7800, 0x05, 0x05, .u8, 1, .rw, 2, 0x2, true, .both⟩,  -- ALERT_LEVEL (0 to 3)
  ⟨0x7800, 0x7800, 0x06, 0x06, .u32, 4, .ro, 1, 0x0, false, .both⟩,  -- MESSAGES_DROPPED
  ⟨0x7801, 0x7801, 0x01, 0x08, .u32, 4, .rw, 2, 0x0, false, .both⟩,  -- LATCH, words 1 to 8; a 1 written clears
  ⟨0x7802, 0x7802, 0x01, 0x08, .u32, 4, .rw, 2, 0x0, true, .both⟩,  -- MASK, words 1 to 8; 1 = masked
  ⟨0x7900, 0x79FF, 0x01, 0x01, .u8, 1, .rw, 2, 0x0, true, .both⟩,  -- SEVERITY
  ⟨0x7900, 0x79FF, 0x02, 0x02, .bool, 1, .rw, 2, 0x1, true, .both⟩,  -- ALERT_EN
  ⟨0x7900, 0x79FF, 0x03, 0x03, .u32, 4, .ro, 1, 0x0, false, .both⟩,  -- RAISE_COUNT
  ⟨0x7900, 0x79FF, 0x04, 0x04, .u64, 8, .ro, 1, 0x0, false, .both⟩,  -- LAST_MESSAGE
  ⟨0x7C00, 0x7C00, 0x01, 0x01, .u8, 1, .ro, 1, 0x0, false, .both⟩,  -- LAST_VERIFY_RESULT (0 = passed, sub-cause of R464)
  ⟨0x7C00, 0x7C00, 0x02, 0x02, .u16, 2, .ro, 1, 0x0, false, .both⟩,  -- LAST_VERIFY_TYPE
  ⟨0x7C00, 0x7C00, 0x03, 0x03, .u32, 4, .ro, 1, 0x0, false, .both⟩,  -- LAST_VERIFY_TIME (µs)
  ⟨0x7C00, 0x7C00, 0x04, 0x04, .u32, 4, .ro, 1, 0x0, false, .both⟩,  -- IMAGES_VERIFIED
  ⟨0x7C00, 0x7C00, 0x05, 0x05, .u32, 4, .ro, 1, 0x0, false, .both⟩,  -- IMAGES_REFUSED
  ⟨0x7C10, 0x7C10, 0x01, 0x01, .u16, 2, .ro, 1, 0x0, false, .both⟩,  -- ROLLBACK_FLOOR F
  ⟨0x7C10, 0x7C10, 0x02, 0x02, .u32, 4, .wo, 3, 0x0, false, .both⟩,  -- ROLLBACK_COMMIT, key 0x524F4C4C
  ⟨0x7C20, 0x7C20, 0x01, 0x01, .u8, 1, .ro, 1, 0x0, false, .both⟩,  -- VENDOR_SLOTS ([1:0] burned, [3:2] revoked)
  ⟨0x7C20, 0x7C20, 0x02, 0x02, .u8, 1, .ro, 1, 0x0, false, .both⟩,  -- OWNER_SLOTS ([3:0] burned, [7:4] revoked)
  ⟨0x7C20, 0x7C20, 0x03, 0x03, .domain, 288, .ro, 1, 0x0, false, .both⟩,  -- KEY_HASHES, vendor 0 and 1, then owner 0 to 3, 48 bytes each
  ⟨0x7C20, 0x7C20, 0x04, 0x04, .domain, 3380, .wo, 3, 0x0, false, .both⟩,  -- OWNER_KEY_UPDATE, signed image
  ⟨0x7C20, 0x7C20, 0x05, 0x05, .octets, 48, .wo, 3, 0x0, false, .both⟩,  -- OWNER_FIRST_KEY (48 bytes)
  ⟨0x7C30, 0x7C30, 0x01, 0x01, .domain, 3360, .wo, 1, 0x0, false, .both⟩,  -- UNLOCK_TOKEN, signed image
  ⟨0x7C40, 0x7C40, 0x01, 0x01, .domain, 3512, .ro, 1, 0x0, false, .both⟩,  -- IDENTITY_CERTIFICATE
  ⟨0x7C40, 0x7C40, 0x02, 0x02, .u8, 1, .ro, 1, 0x0, false, .both⟩,  -- IDENTITY_STATE (0 = valid, 1 = invalid)
  ⟨0x7C50, 0x7C50, 0x01, 0x01, .octets, 32, .wo, 2, 0x0, false, .both⟩,  -- ATTEST_NONCE (32 bytes)
  ⟨0x7C50, 0x7C50, 0x02, 0x02, .domain, 3960, .ro, 1, 0x0, false, .both⟩]  -- ATTEST_REPORT, signed image

/-- Entries of the dictionary from 0x7C50 (R391), part 2. -/
def rowsSystem2 : List Desc := [
  ⟨0x7C50, 0x7C50, 0x03, 0x03, .u8, 1, .ro, 1, 0x0, false, .both⟩,  -- ATTEST_STATE (0 = idle, 1 = signing, 2 = ready, 3 = refused)
  ⟨0x7C50, 0x7C50, 0x04, 0x04, .u16, 2, .ro, 1, 0x0, false, .both⟩,  -- EPOCHS_BURNED (0 to 1024)
  ⟨0x7C50, 0x7C50, 0x05, 0x05, .u16, 2, .ro, 1, 0x0, false, .both⟩,  -- LEAVES_LEFT, in the open epoch
  ⟨0x7C50, 0x7C50, 0x06, 0x06, .u32, 4, .ro, 1, 0x0, false, .both⟩]  -- REPORTS_SIGNED

/-- The rows of 0x7000 to 0x7FFF. -/
def rowsSystem : List Desc := rowsSystem0 ++ rowsSystem1 ++ rowsSystem2

/-- The rows an index can stand in: the tables are split by the ranges of R391. -/
def rowsOf (idx : Nat) : List Desc :=
  if idx < 0x2000 then rowsIdentity
  else if idx < 0x3000 then rowsSchedule
  else if idx < 0x4000 then rowsChannel
  else if idx < 0x5000 then rowsTiming
  else if idx < 0x6000 then rowsMerge
  else if idx < 0x7000 then rowsCheck
  else rowsSystem

/-- The row that describes IIII.SS, none where no chapter lists it (R390). -/
def descOf (idx sub : Nat) : Option Desc :=
  (rowsOf idx).find? fun d =>
    decide (d.idxLo ≤ idx) && decide (idx ≤ d.idxHi) && decide (d.subLo ≤ sub) && decide (sub ≤ d.subHi)

end Sys2Proof.Machine
end

