-- ==== Sys2Proof/WellFormed.lean ====
section
/-! DEFINITION. The checks on a command's operands that their types do not make: the lengths of the lists that the hardware
fixes. -/

namespace Sys2Proof

/-- A command that the circuits of the device can deliver: one code for each of the 33 slices (R127), 14 bit weights of a run
(R145), a count for each of the 64 bins (R110), six DFE taps (R281), readings of the nine sensors (R493). -/
def wellFormed : Instr → Bool
  | .slotPeriodStart _ codes => decide (codes.length = 33)
  | .calRunEnd r => decide (r.weights.length = 14)
  | .binCalIterationEnd counts => decide (counts.length = 64)
  | .clockRecoveryLocked _ _ taps => decide (taps.length = 6)
  | .tempMeasurement readings => decide (readings.length = 9)
  | _ => true

end Sys2Proof
end

