-- ==== Sys2Proof/Machine/Ops.lean ====
section
/-! DEFINITION. The named operations that every family shares: sparse tables, bit fields, dictionary values, sets, time
and names of crossings, free values. -/

namespace Sys2Proof.Machine

/-! ### Numbers and fields -/

/-- Bits [hi:lo] of a number. -/
def bits (w hi lo : Nat) : Nat := (w >>> lo) % 2 ^ (hi + 1 - lo)

/-- Bit i of a number, as 0 or 1. -/
def bitN (w i : Nat) : Nat := (w >>> i) % 2

/-- 1 when a flag holds. -/
def flag (c : Bool) : Nat := if c then 1 else 0

/-- Fields packed from the top down, each with its width; a value is cut to its width. -/
def pack : List (Nat × Nat) → Nat
  | [] => 0
  | (w, v) :: t => (v % 2 ^ w) * 2 ^ (t.map Prod.fst).sum + pack t

/-- Two's complement of an integer in n bits. -/
def twos (n : Nat) (i : Int) : Nat := (i % (2 ^ n : Nat)).toNat

/-- The integer that n bits spell in two's complement. -/
def signedOf (n v : Nat) : Int := if v % 2 ^ n < 2 ^ (n - 1) then (v % 2 ^ n : Nat) else (v % 2 ^ n : Nat) - (2 ^ n : Nat)

/-- A value held between two bounds. -/
def clampI (lo hi v : Int) : Int := max lo (min hi v)

/-- A count held at the largest value of n bits. -/
def satN (n v : Nat) : Nat := min v (2 ^ n - 1)

/-- Division by a power of two or other positive number, rounded to nearest, halves away from zero. -/
def roundDiv (a : Int) (d : Nat) : Int :=
  if 0 ≤ a then (2 * a + d) / (2 * d) else -((2 * (-a) + d) / (2 * d))

/-- A number as n bytes, least significant first (R392). -/
def bytesLE : Nat → Nat → List Byte
  | 0, _ => []
  | n + 1, v => BitVec.ofNat 8 v :: bytesLE n (v / 256)

/-- A number as n bytes, most significant first. -/
def bytesBE (n v : Nat) : List Byte := (bytesLE n v).reverse

/-- The number that bytes spell, least significant first. -/
def natLE : List Byte → Nat
  | [] => 0
  | x :: t => x.toNat + 256 * natLE t

/-- The number that bytes spell, most significant first. -/
def natBE (l : List Byte) : Nat := natLE l.reverse

/-- n bytes from an offset, zeros past the end. -/
def octets (l : List Byte) (off n : Nat) : List Byte :=
  let got := (l.drop off).take n
  got ++ List.replicate (n - got.length) 0

/-- How many bits are set in the low n bits. -/
def popcount : Nat → Nat → Nat
  | 0, _ => 0
  | n + 1, v => v % 2 + popcount n (v / 2)

/-- The numbers below n whose bit is set, rising. -/
def bitsSet (n v : Nat) : List Nat := (List.range n).filter fun i => v.testBit i

/-- A number with the bits of a list set. -/
def orBits (l : List Nat) : Nat := l.foldl (fun a i => a ||| 2 ^ i) 0

/-- Element n of a list of numbers, 0 past the end. -/
def nth (l : List Nat) (n : Nat) : Nat := l.getD n 0

/-- A list with element n replaced. -/
def putAt {α : Type} (l : List α) (n : Nat) (v : α) : List α := l.set n v

/-! ### Sparse tables -/

/-- The entry at a key. -/
def tabFind {α : Type} : Tab α → Nat → Option α
  | [], _ => none
  | (k, v) :: t, n => if k = n then some v else tabFind t n

/-- The value at a key, d where the table has none. -/
def tabGet {α : Type} (d : α) (t : Tab α) (n : Nat) : α := (tabFind t n).getD d

/-- Write a key, keeping the keys rising. -/
def tabSet {α : Type} : Tab α → Nat → α → Tab α
  | [], n, v => [(n, v)]
  | (k, w) :: t, n, v =>
    if n < k then (n, v) :: (k, w) :: t
    else if n = k then (n, v) :: t
    else (k, w) :: tabSet t n v

/-- Change the value at a key. -/
def tabMod {α : Type} (d : α) (t : Tab α) (n : Nat) (f : α → α) : Tab α := tabSet t n (f (tabGet d t n))

/-- Remove a key. -/
def tabDel {α : Type} (t : Tab α) (n : Nat) : Tab α := t.filter fun p => p.1 != n

/-- Keys strictly rising: the canonical form of every sparse table. -/
def tabWf {α : Type} : Tab α → Bool
  | [] => true
  | [_] => true
  | p :: q :: t => decide (p.1 < q.1) && tabWf (q :: t)

/-! ### Running a meaning -/

/-- A meaning that always completes: the hardware moves, the queue stays. -/
def State.run (s : State) (f : Block → Block) : Host.Outcome State Fault Refusal :=
  .next { s with blk := f s.blk }

/-- A meaning of a command that must be well formed (WellFormed.lean). -/
def State.runIf (s : State) (ok : Bool) (mnemonic : String) (f : Block → Block) : Host.Outcome State Fault Refusal :=
  if ok then s.run f else .fault (.illFormed mnemonic)

/-- A time in ms has passed since a crossing, at the measured crossing frequency in mHz. -/
def Block.elapsed (b : Block) (since ms : Nat) : Bool := decide (ms * b.time.fx ≤ (b.time.now - since) * 1000000)

/-- Apply a change to each element of a list in turn. -/
def forEach {α : Type} (l : List α) (b : Block) (f : α → Block → Block) : Block := l.foldl (fun b a => f a b) b

/-- Apply a change where a condition holds. -/
def Block.when (b : Block) (c : Bool) (f : Block → Block) : Block := if c then f b else b

/-! ### Parts of the block -/

def Block.onBoot (b : Block) (f : Boot → Boot) : Block := { b with boot := f b.boot }
def Block.onFlash (b : Block) (f : Flash → Flash) : Block := { b with flash := f b.flash }
def Block.onFuses (b : Block) (f : Fuses → Fuses) : Block := { b with fuses := f b.fuses }
def Block.onSets (b : Block) (f : Sets → Sets) : Block := { b with sets := f b.sets }
def Block.onTime (b : Block) (f : Time → Time) : Block := { b with time := f b.time }
def Block.onAdc (b : Block) (f : Adc → Adc) : Block := { b with adc := f b.adc }
def Block.onIu (b : Block) (f : Interval → Interval) : Block := { b with iu := f b.iu }
def Block.onAcc (b : Block) (f : Accepts → Accepts) : Block := { b with acc := f b.acc }
def Block.onStk (b : Block) (f : Stacks → Stacks) : Block := { b with stk := f b.stk }
def Block.onMrg (b : Block) (f : Merge → Merge) : Block := { b with mrg := f b.mrg }
def Block.onFrm (b : Block) (f : Frames → Frames) : Block := { b with frm := f b.frm }
def Block.onTwin (b : Block) (f : Twin → Twin) : Block := { b with twin := f b.twin }
def Block.onFlt (b : Block) (f : Faults → Faults) : Block := { b with flt := f b.flt }
def Block.onDict (b : Block) (f : Dict → Dict) : Block := { b with dict := f b.dict }
def Block.onEv (b : Block) (f : Events → Events) : Block := { b with ev := f b.ev }
def Block.onSec (b : Block) (f : Security → Security) : Block := { b with sec := f b.sec }
def Block.onEnv (b : Block) (f : Env → Env) : Block := { b with env := f b.env }
def Block.onJtag (b : Block) (f : Jtag → Jtag) : Block := { b with jtag := f b.jtag }

/-- A channel, and a change of it. -/
def Block.chan (b : Block) (c : Nat) : Chan := tabGet {} b.chans c
def Block.onChan (b : Block) (c : Nat) (f : Chan → Chan) : Block := { b with chans := tabMod {} b.chans c f }

/-- A lane, and a change of it. -/
def Block.lane (b : Block) (l : Nat) : LaneSt := tabGet {} b.frm.lanes l
def Block.onLane (b : Block) (l : Nat) (f : LaneSt → LaneSt) : Block :=
  b.onFrm fun t => { t with lanes := tabMod {} t.lanes l f }

/-- A worker port by its number p = 1 to 32, and a change of it. -/
def Block.port (b : Block) (p : Nat) : PortSt := tabGet {} b.mrg.ports p
def Block.onPort (b : Block) (p : Nat) (f : PortSt → PortSt) : Block :=
  b.onMrg fun m => { m with ports := tabMod {} m.ports p f }

/-- An uplink by its number u = 1 to 12, and a change of it. -/
def Block.uplink (b : Block) (u : Nat) : UplinkSt := tabGet {} b.mrg.uplinks u
def Block.onUplink (b : Block) (u : Nat) (f : UplinkSt → UplinkSt) : Block :=
  b.onMrg fun m => { m with uplinks := tabMod {} m.uplinks u f }

/-! ### Free values -/

/-- The next free value. -/
def Block.freeVal (b : Block) : Word64 := Config.freeWord b.free

/-- Move on to the next free value. -/
def Block.freeNext (b : Block) : Block := { b with free := b.free + 1 }

/-! ### Roles and topologies (R1, R16, R23) -/

/-- Concentrator role. -/
def Block.cRole (b : Block) : Bool := b.boot.roleC

/-- Topology of the active set: 0 twin, 1 solo, 2 direct-attached. Without an active set, twin. -/
def Block.topology (b : Block) : Nat := match b.sets.act with | some a => a.folio.topology | none => 0

/-- Whether the core runs: fuse load has ended and the device has neither stopped nor shut down. -/
def Block.running (b : Block) : Bool := decide (b.boot.phase = .running)

/-! ### Dictionary values -/

/-- Sources whose default severity is Warning, Error and Critical; every other is Info (the event tables). -/
def warningEvents : List Nat :=
  [4, 11, 16, 19, 20, 23, 25, 35, 37, 38, 39, 41, 50, 54, 57, 58, 64, 67] ++
  [81, 83, 88, 89, 91, 94, 96, 97, 99, 100, 113, 114, 115, 122, 128, 133, 135, 136] ++
  [138, 139, 160, 168, 169, 170, 171, 172, 177, 179, 199, 200, 209, 213, 216, 217, 220, 222] ++
  [227, 229, 232, 235, 243, 244, 245, 246, 249, 251, 253]

/-- Sources of default severity Error. -/
def errorEvents : List Nat :=
  [5, 6, 7, 13, 21, 22, 24, 26, 32, 33, 34, 49, 51, 56, 65, 70, 90, 119] ++
  [120, 121, 127, 131, 132, 140, 142, 144, 145, 146, 162, 176, 178, 182, 185, 193, 194, 196] ++
  [197, 198, 210, 215, 218, 221, 225, 228, 233, 234, 240, 241, 242, 247, 250]

/-- Sources of default severity Critical. -/
def criticalEvents : List Nat :=
  [1, 2, 248]

/-- Default of 79ss.01. -/
def severityDefault (n : Nat) : Nat :=
  if n ∈ criticalEvents then 3 else if n ∈ errorEvents then 2 else if n ∈ warningEvents then 1 else 0

/-- Profile M is in force in a set (R13). -/
def Block.profileM (b : Block) (c : CfgSet) : Bool := b.fuses.profileM || tabGet 0 c.entries 0x100006 != 0

/-- Capacity in words of queue q (R203); 0 where no role has it. -/
def queueCapacity (q : Nat) : Nat :=
  if q = 0 then 1024
  else if q = 1 ∨ q = 2 ∨ q = 0x20 then 64
  else if 0x21 ≤ q ∧ q ≤ 0x2C then 1024
  else if 0x41 ≤ q ∧ q ≤ 0x60 then 256
  else if 0x81 ≤ q ∧ q ≤ 0xA0 then 64
  else 0

/-- Queue q exists in the role (R203). -/
def queueIn (cRole : Bool) (q : Nat) : Bool := queueCapacity q != 0 && (cRole == decide (0x20 ≤ q))

/-- Defaults that the tables give by role, unit, profile, workers or source instead of as one number. -/
def Block.defaultOf (b : Block) (c : CfgSet) (key : Nat) : Nat :=
  if key = 0x280003 then (if b.profileM c then 2880 else c.folio.orbitLen)
  else if key = 0x440001 then (if b.cRole then 0 else 0x00FFFFFF)
  else if key = 0x480008 then flag (b.profileM c)
  else if key = 0x681001 then (if c.folio.ports.length ≤ 8 then 0 else 1)
  else if key = 0x680002 then (if b.boot.unitB then 199 else 200)
  else if 0x790000 ≤ key ∧ key < 0x7A0000 ∧ key % 256 = 1 then severityDefault (key / 256 % 256)
  else if 0x540000 ≤ key ∧ key < 0x54A100 ∧ key % 256 = 1 then
    pack [(1, 1), (1, 1), (14, queueCapacity (key / 256 % 256) * 3 / 4), (6, 0), (10, 8)]
  else if 0x540000 ≤ key ∧ key < 0x54A100 ∧ key % 256 = 2 then queueCapacity (key / 256 % 256)
  else match descOf (key / 256) (key % 256) with
    | some d => d.dflt
    | none => 0

/-- The value of an RS entry in a set: what folio and edits gave it, else its default (R230, R395). -/
def Block.rsIn (b : Block) (c : CfgSet) (key : Nat) : Nat :=
  match tabFind c.entries key with
  | some v => v
  | none => b.defaultOf c key

/-- A set with some RS entries replaced. -/
def CfgSet.replaced (c : CfgSet) (l : List (Nat × Nat)) : CfgSet :=
  { c with entries := l.foldl (fun t p => tabSet t p.1 p.2) c.entries }

/-- A set under the parts of retirement plans that are in force (R226, R384). -/
def Sets.planned (s : Sets) (c : CfgSet) : CfgSet :=
  let c := c.replaced s.planList
  match s.planCuts with
  | none => c
  | some p => { c.replaced p.stack with folio := { c.folio with retain := p.retain.getD c.folio.retain } }

/-- The active set, under the plan in force; one with every default where there is none. -/
def Block.active (b : Block) : CfgSet := b.sets.planned (b.sets.act.getD {})

/-- A_p of the ports, as the plan in force or the active set gives it (R226). -/
def Block.allowances (b : Block) : List (Nat × Nat) :=
  match b.sets.planCuts with
  | some p => if p.allowance.isEmpty then b.active.folio.allowance else p.allowance
  | none => b.active.folio.allowance

/-- The active set's value of an RS entry. -/
def Block.rs (b : Block) (key : Nat) : Nat := b.rsIn b.active key

/-- The value of an RW or RO entry: what was written, else its default. -/
def Block.reg (b : Block) (key : Nat) : Nat :=
  match tabFind b.dict.regs key with
  | some v => v
  | none => b.defaultOf b.active key

/-- Put a value into an entry. -/
def Block.setReg (b : Block) (key v : Nat) : Block := b.onDict fun d => { d with regs := tabSet d.regs key v }

/-- Add to a counter. The spec bounds no counter but the saturating ones; a count past its entry's width reads as a free
value (assumption 3). -/
def Block.bump (b : Block) (key n : Nat) : Block := if n = 0 then b else b.setReg key (b.reg key + n)

/-- Add to a counter that saturates at n bits. -/
def Block.bumpSat (b : Block) (key bitsN n : Nat) : Block := b.setReg key (satN bitsN (b.reg key + n))

/-- Hold the highest value an entry has had. -/
def Block.peak (b : Block) (key v : Nat) : Block := if b.reg key < v then b.setReg key v else b

/-! ### Names of crossings (R38, R39, R254) -/

/-- Orbit length of the active set. -/
def Block.nO (b : Block) : Nat := b.rs 0x280003

/-- Orbit number [9:0], then slot: 24 bits. -/
def orbitSlot24 (orbit slot : Nat) : Nat := (orbit % 1024) * 16384 + slot % 16384

/-- The name of the present crossing in 24 bits. -/
def Block.here (b : Block) : Nat := orbitSlot24 b.time.orbit b.time.slot

/-- The orbit in which a crossing lay. -/
def Block.orbitAt (b : Block) (x : Nat) : Option OrbitRec :=
  b.time.log.find? fun r => decide (r.start ≤ x) && decide (x < r.start + r.len)

/-- Slot of a crossing of an orbit in the log. -/
def Block.slotOf (b : Block) (x : Nat) : Nat := match b.orbitAt x with | some r => x - r.start | none => x % 16384

/-- Orbit number of a crossing of an orbit in the log. -/
def Block.orbitOf (b : Block) (x : Nat) : Nat := match b.orbitAt x with | some r => r.orbit | none => b.time.orbit

/-- The 24-bit name of a crossing. -/
def Block.nameOf (b : Block) (x : Nat) : Nat := orbitSlot24 (b.orbitOf x) (b.slotOf x)

/-- The crossing at which an orbit begins: a logged one, the youngest of its number, else counted on from the present orbit at its
length. -/
def Block.orbitStart (b : Block) (n : Nat) : Nat :=
  match b.time.log.reverse.find? fun r => r.orbit == n with
  | some r => r.start
  | none => b.time.now - b.time.slot + (n - b.time.orbit) * b.nO

/-- The crossing that two orbit bits and a slot name: the youngest logged orbit that has begun, or the next one, whose
low bits agree, nearest to the present (R176, R308). -/
def Block.crossingNamed (b : Block) (orbit2 slot : Nat) : Nat :=
  let o := b.time.orbit
  let back := (o + 4 - orbit2 % 4) % 4
  let n := if back = 3 then o + 1 else o - back
  b.orbitStart n + slot

end Sys2Proof.Machine
end

