-- ==== Sys2Proof/Machine/Flags.lean ====
section
/-! DEFINITION. Event sources and their flags: latches, counts, messages, the history ring, the three message paths and
ALERT_N (R424 to R430, R533). -/

namespace Sys2Proof.Machine

/-! ### DETAIL (R533) -/

/-- A field of DETAIL: an identifier that keeps its low bits, a count that saturates, or a signed magnitude. -/
inductive Fld where
  | id (w v : Nat)
  | cnt (w v : Nat)
  | int (w : Nat) (v : Int)

/-- Width of a field. -/
def Fld.width : Fld → Nat
  | .id w _ => w
  | .cnt w _ => w
  | .int w _ => w

/-- A field held to n bits. -/
def Fld.value : Fld → Nat → Nat
  | .id _ v, n => v % 2 ^ n
  | .cnt _ v, n => satN n v
  | .int _ v, n => if n = 0 then 0 else twos n (clampI (-(2 ^ (n - 1) : Nat)) ((2 ^ (n - 1) : Nat) - 1) v)

/-- Fields from bit 47 down; the field that does not fit takes the bits that remain. -/
def detailFrom : Nat → List Fld → Nat
  | _, [] => 0
  | left, x :: t =>
    let n := min left x.width
    x.value n * 2 ^ (left - n) + detailFrom (left - n) t

/-- DETAIL of a message. -/
def detail (l : List Fld) : Nat := detailFrom 48 l

/-! ### Raising a source (R425) -/

/-- Word k of the latch of source n, as a key of `regs`, and its bit. -/
def latchKey (n : Nat) : Nat := 0x780101 + n / 32

/-- The key of entry 79ss.e of source n. -/
def sourceKey (n e : Nat) : Nat := 0x790000 + n * 256 + e

/-- The latch of source n is set. -/
def Block.latched (b : Block) (n : Nat) : Bool := (b.reg (latchKey n)).testBit (n % 32)

/-- A set latch of source n asserts ALERT_N: enabled and severe enough, or Critical (R427). -/
def Block.alerts (b : Block) (n : Nat) : Bool :=
  b.latched n &&
    (b.reg (sourceKey n 1) == 3 || (b.reg (sourceKey n 2) == 1 && decide (b.reg 0x780005 ≤ b.reg (sourceKey n 1))))

/-- The message of source n (R426). -/
def Block.message (b : Block) (n det : Nat) : Word64 :=
  BitVec.ofNat 64 (pack [(8, n), (2, b.reg (sourceKey n 1)), (1, 0), (1, flag (b.alerts n)), (4, 0), (48, det)])

/-- LOST set in a message (R428). -/
def withLost (m : Word64) (lost : Bool) : Word64 := if lost then m ||| 0x0020000000000000 else m

/-- Source number of a message. -/
def sourceOf (m : Word64) : Nat := m.toNat / 2 ^ 56

/-- A message, with the port it is relayed from or 0, put into a path queue of 32: the queue, the sources that have lost one, whether it
was dropped. -/
def enqueue (q : List (Nat × Word64)) (lost : List Nat) (port : Nat) (m : Word64) : List (Nat × Word64) × List Nat × Bool :=
  let src := port * 256 + sourceOf m
  if q.length < 32 then (q ++ [(port, withLost m (lost.contains src))], lost.filter (· != src), false)
  else (q, if lost.contains src then lost else lost ++ [src], true)

/-- A message into one path: 0 CANA, 1 CANB, 2 in-band. True where it was dropped. -/
def Block.sendOn (b : Block) (path port : Nat) (m : Word64) : Block × Bool :=
  let e := b.ev
  if path = 0 then
    let r := enqueue e.pathA e.lostA port m
    (b.onEv fun e => { e with pathA := r.1, lostA := r.2.1 }, r.2.2)
  else if path = 1 then
    let r := enqueue e.pathB e.lostB port m
    (b.onEv fun e => { e with pathB := r.1, lostB := r.2.1 }, r.2.2)
  else
    let r := enqueue e.pathI e.lostI port m
    (b.onEv fun e => { e with pathI := r.1, lostI := r.2.1 }, r.2.2)

/-- The buses that CAN_EVENT_BUS names. -/
def Block.eventBuses (b : Block) : List Nat := (List.range 2).filter fun k => (b.reg 0x105004).testBit k

/-- The paths by which a message leaves: the buses CAN_EVENT_BUS names, and in-band (R428). -/
def Block.eventPaths (b : Block) : List Nat := b.eventBuses ++ [2]

/-- Enter a message in the ring of 64 (R429). -/
def Block.record (b : Block) (m : Word64) : Block :=
  b.onEv fun e =>
    let r := e.ring ++ [(m, b.time.orbit, b.time.slot)]
    { e with ring := if 64 < r.length then r.drop 1 else r }

/-- What every raise does: count, latch, LAST_MESSAGE. -/
def Block.mark (b : Block) (n det : Nat) : Block :=
  let b := b.bumpSat (sourceKey n 3) 32 1
  let b := b.setReg (latchKey n) (b.reg (latchKey n) ||| 2 ^ (n % 32))
  b.setReg (sourceKey n 4) (b.message n det).toNat

/-- Source n is masked. -/
def Block.masked (b : Block) (n : Nat) : Bool := (b.reg (0x780201 + n / 32)).testBit (n % 32)

/-- Send a message on paths, dropping and counting where a queue is full. Answers the paths that dropped it. -/
def Block.send (b : Block) (paths : List Nat) (port : Nat) (m : Word64) : Block × List Nat :=
  paths.foldl
    (fun r p =>
      let s := r.1.sendOn p port m
      if s.2 then (s.1.bump 0x780006 1, r.2 ++ [p]) else (s.1, r.2)) (b, [])

/-- A message that paths have dropped raises EVENT_QUEUE_OVERFLOW, whose own message does not raise it again (assumption 12). -/
def Block.overflowed (b : Block) (paths : List Nat) (n : Nat) : Block :=
  paths.foldl
    (fun b p =>
      let det := detail [.id 8 p, .id 8 n]
      let b := b.mark 0xDE det
      if b.masked 0xDE then b
      else let m := b.message 0xDE det
           ((b.record m).send b.eventPaths 0 m).1) b

/-- Raise a source whose message passes its limit. -/
def Block.raise (b : Block) (n : Nat) (l : List Fld) : Block :=
  let det := detail l
  let b := b.mark n det
  if b.masked n then b
  else
    let m := b.message n det
    let r := (b.record m).send b.eventPaths 0 m
    r.1.overflowed r.2 n

/-- Raise a source that is limited to one message per orbit, or per orbit and instance k (R425). -/
def Block.raiseOnce (b : Block) (n k : Nat) (l : List Fld) : Block :=
  if b.ev.once.contains (n, k) ∨ b.masked n then b.mark n (detail l)
  else (b.onEv fun e => { e with once := e.once ++ [(n, k)] }).raise n l

/-- ALERT_N as it is judged at a crossing boundary (R427): a set latch that asserts it, or the stop of R3, or the shutdown
of R450. -/
def Block.alertNow (b : Block) : Bool :=
  decide (b.boot.phase = .stopped) || decide (b.boot.phase = .shutdown) ||
    (List.range 8).any fun k =>
      b.reg (0x780101 + k) != 0 && (List.range 32).any fun i => b.alerts (32 * k + i)

/-- Judge ALERT_N. -/
def Block.judgeAlert (b : Block) : Block := b.onEv fun e => { e with alert := b.alertNow }

/-- Orbit and slot of the present crossing, as a field of DETAIL. -/
def Block.hereFld (b : Block) : Fld := .id 24 b.here

/-- The name of a crossing, as a field of DETAIL. -/
def Block.nameFld (b : Block) (x : Nat) : Fld := .id 24 (b.nameOf x)

end Sys2Proof.Machine
end

