-- ==== Sys2Proof/Machine/Operands.lean ====
section
/-! DEFINITION. The forms of operands: records (R169 to R172, R248 to R259), service records and envelopes (R413, R414),
check values over bytes. -/

namespace Sys2Proof.Machine

/-! ### Check values -/

/-- One bit into an unreflected check register of w bits. -/
def crcBit (w poly r bit : Nat) : Nat :=
  let t := ((r >>> (w - 1)) + bit) % 2
  let s := (r * 2) % 2 ^ w
  if t = 1 then s ^^^ poly else s

/-- The n low bits of a value into the register, the highest first. -/
def crcMsb (w poly : Nat) : Nat → Nat → Nat → Nat
  | 0, _, r => r
  | n + 1, v, r => crcMsb w poly n v (crcBit w poly r ((v >>> n) % 2))

/-- One bit into a reflected check register; `poly` is the reflected polynomial. -/
def crcBitR (poly r bit : Nat) : Nat :=
  let t := (r + bit) % 2
  let s := r / 2
  if t = 1 then s ^^^ poly else s

/-- The n low bits of a value into a reflected register, the lowest first. -/
def crcLsb (poly : Nat) : Nat → Nat → Nat → Nat
  | 0, _, r => r
  | n + 1, v, r => crcLsb poly n (v / 2) (crcBitR poly r (v % 2))

/-- The orbit check of R256 after a word: CRC-24 of RFC 4880, most significant byte first. -/
def crc24Word (c : BitVec 24) (w : Word64) : BitVec 24 := BitVec.ofNat 24 (crcMsb 24 0x864CFB 64 w.toNat c.toNat)

/-- CRC-32C of bytes from a register value: reflected, no final XOR. -/
def crc32cBytes (l : List Byte) (r : Nat) : Nat := l.foldl (fun r x => crcLsb 0x82F63B78 8 x.toNat r) r

/-! ### Records -/

/-- A record of 64 bits from its fields. -/
def rec64 (l : List (Nat × Nat)) : Word64 := BitVec.ofNat 64 (pack l)

/-- CLASS of a record (R169, R170, R248, R259). -/
def classOf (w : Word64) : Nat := bits w.toNat 63 62

/-- CLASS and TYPE of a control record. -/
def typeOf (w : Word64) : Nat := bits w.toNat 63 56

/-- The filler record (R259). -/
def filler : Word64 := 0xFFFFFFFFFFFFFFFF

/-- The stamp of a leading edge: SLOT, CYCLE, PHASE (R100). -/
def stamp (slot : Nat) (p : Point) : Nat := pack [(14, slot), (5, p.cycle.toNat), (6, p.phase.toNat)]

/-- A hit record (R169). -/
def hitRecord (ch gain amp st tot slew : Nat) (runt clip supply : Bool) : Word64 :=
  rec64 [(2, 0), (8, ch), (1, gain), (12, amp), (25, st), (9, tot), (4, slew), (1, flag runt), (1, flag clip), (1, flag supply)]

/-- A stamp-only record (R170). -/
def stampRecord (ch reason st tot slew : Nat) (runt supply : Bool) : Word64 :=
  rec64 [(2, 1), (8, ch), (2, reason), (11, 0), (25, st), (9, tot), (4, slew), (1, flag runt), (1, 0), (1, flag supply)]

/-- An M-compact record of 40 bits from a hit record and its crossing's offset from X (R171). -/
def mCompact (hit : Word64) (offset : Int) : Nat :=
  let w := hit.toNat
  pack [(8, bits w 61 54), (1, bitN w 53), (12, bits w 52 41), (5, twos 5 offset), (5, bits w 26 22), (6, bits w 21 16),
    (3, bits w 2 0)]

/-- The null M-compact record (R172). -/
def mNull : Nat := 0x0000040000

/-- The five words of a group of up to eight M-compact records (R172). -/
def groupWords (l : List Nat) : List Word64 :=
  let eight := (l ++ List.replicate (8 - l.length) mNull).take 8
  let g := pack (eight.map fun v => (40, v))
  (List.range 5).map fun w => BitVec.ofNat 64 (g >>> (256 - 64 * w))

/-- Groups of eight, the last completed with null records. -/
def groupsOf : Nat → List Nat → List (List Word64)
  | 0, _ => []
  | _ + 1, [] => []
  | n + 1, l => groupWords (l.take 8) :: groupsOf n (l.drop 8)

/-- A fragment header (R249). -/
def fragmentHeader (port cont abandoned kind late mc orbit slot orphan count groups : Nat) : Word64 :=
  rec64 [(8, 0x81), (6, port), (1, cont), (1, abandoned), (2, kind), (1, late), (1, mc), (4, orbit), (14, slot), (1, orphan),
    (1, 0), (12, count), (4, 0), (8, groups)]

/-- The run header that names a port and the header of the fragment its first word belongs to (R243). -/
def runHeader (port : Nat) (hdr : Option Word64) (groups : Nat) : Word64 :=
  match hdr with
  | some h => rec64 [(8, 0x81), (6, port), (1, 1), (41, bits h.toNat 48 8), (8, groups)]
  | none => fragmentHeader port 1 0 0 0 0 0 0 1 0 groups

/-- An absent-worker header (R251). -/
def absentHeader (port kind state orbit slot : Nat) : Word64 :=
  rec64 [(8, 0x82), (6, port), (2, 0), (2, kind), (2, state), (4, orbit), (14, slot), (26, 0)]

/-- The bookmark of an accept (R252, R253). -/
def bookmark (kind abandoned noWindow orbit slot sum seq : Nat) : Word64 :=
  rec64 [(8, 0x83), (3, kind), (1, abandoned), (1, noWindow), (1, 0), (10, orbit), (14, slot), (2, 0), (12, sum), (12, seq)]

/-- The bookmark of a time mark. -/
def timeMarkRecord (orbit slot tag : Nat) : Word64 :=
  rec64 [(8, 0x83), (3, 3), (1, 0), (1, 0), (1, 0), (10, orbit), (14, slot), (2, 0), (8, 0), (16, tag)]

/-- Site kinds of R254. -/
def siteStack : Nat := 1
def siteQueue : Nat := 2
def sitePort : Nat := 3
def siteLane : Nat := 4

/-- COUNT of a withdrawal that is unknown. -/
def unknownCount : Nat := 0xFFFF

/-- A withdrawal record (R254). -/
def withdrawalRecord (reason kind site orbit slot atLeast count : Nat) : Word64 :=
  rec64 [(8, 0x84), (4, reason), (4, kind), (8, site), (4, orbit), (14, slot), (1, atLeast), (5, 0), (16, count)]

/-- The counts of consecutive withdrawals that carry n records, each full but the last (R254). -/
def countParts : Nat → Nat → List Nat
  | 0, _ => []
  | f + 1, n => if n ≤ 0xFFFE then [n] else 0xFFFE :: countParts f (n - 0xFFFE)

/-- Withdrawals of a crossing, for a count that may be unknown. -/
def Block.withdrawals (b : Block) (reason kind site x atLeast count : Nat) : List Word64 :=
  if count = 0 then []
  else if count = unknownCount then [withdrawalRecord reason kind site (b.orbitOf x) (b.slotOf x) atLeast count]
  else (countParts (count / 0xFFFE + 1) count).map fun n =>
    withdrawalRecord reason kind site (b.orbitOf x) (b.slotOf x) atLeast n

/-- A colophon (R255). -/
def colophon (orbit records resync withdrawals check : Nat) : Word64 :=
  rec64 [(8, 0x85), (2, orbit), (17, records), (1, resync), (12, satN 12 withdrawals), (24, check)]

/-- The four parts of a time-of-day mark (R257). -/
def todMark (kind orbit slot : Nat) (t : Tod) : List Word64 :=
  [rec64 [(8, 0x86), (2, 0), (2, kind), (4, 0), (48, orbit)],
   rec64 [(8, 0x86), (2, 1), (14, slot), (8, 0), (32, t.sec / 2 ^ 32)],
   rec64 [(8, 0x86), (2, 2), (22, 0), (32, t.sec)],
   rec64 [(8, 0x86), (2, 3), (30, t.nano), (24, t.frac / 256)]]

/-- What four parts of a mark say: kind, orbit, slot, time of day (R257). None where they are not parts 0 to 3. -/
def readTodMark (l : List Word64) : Option (Nat × Nat × Nat × Tod) :=
  match l with
  | [p0, p1, p2, p3] =>
    let w := [p0.toNat, p1.toNat, p2.toNat, p3.toNat]
    if (w.map fun v => bits v 63 56) = [0x86, 0x86, 0x86, 0x86] ∧ (w.map fun v => bits v 55 54) = [0, 1, 2, 3] then
      some (bits p0.toNat 53 52, bits p0.toNat 47 0, bits p1.toNat 53 40,
        { sec := bits p1.toNat 31 0 * 2 ^ 32 + bits p2.toNat 31 0, nano := bits p3.toNat 53 24,
          frac := bits p3.toNat 23 0 * 256 })
    else none
  | _ => none

/-- A service record (R258, R414). -/
def serviceRec (port unit origin first last count : Nat) (data : List Byte) : Word64 :=
  rec64 [(8, 0x87), (6, port), (1, unit), (2, origin), (1, first), (1, last), (3, count), (2, 0), (40, natBE (octets data 0 5))]

/-- A message in consecutive service records of five bytes (R414). -/
def serviceRecords (unit origin : Nat) (message : List Byte) : List Word64 :=
  let n := (message.length + 4) / 5
  (List.range n).map fun i =>
    let part := (message.drop (5 * i)).take 5
    serviceRec 0 unit origin (flag (i == 0)) (flag (i + 1 == n)) part.length part

/-- An envelope word (R413). -/
def envelopeWord (target origin port length : Nat) : Word64 :=
  rec64 [(2, target), (2, origin), (6, port), (14, length), (40, 0)]

/-- A message in BULK words: the envelope, then 8 bytes to a word, the last padded with zeros (R413). -/
def bulkWords (target origin port : Nat) (message : List Byte) : List Word64 :=
  envelopeWord target origin port message.length ::
    (List.range ((message.length + 7) / 8)).map fun i => BitVec.ofNat 64 (natBE (octets message (8 * i) 8))

/-- The bytes of a record, most significant first. -/
def wordBytes (w : Word64) : List Byte := bytesBE 8 w.toNat

/-- A control record (R206): class 0b10, outside a group. -/
def QRec.control (r : QRec) : Bool := classOf r.word == 2 && !r.group

end Sys2Proof.Machine
end

