-- ==== Sys2Proof/Machine/Queues.lean ====
section
/-! DEFINITION. Queues and withdrawals (R203 to R206, R222, R223), with the accounting of the words that enter an UP queue and the
colophons (R255, R256). -/

namespace Sys2Proof.Machine

/-! ### Reading a queue -/

/-- Queue q. -/
def Block.queue (b : Block) (q : Nat) : Queue := tabGet {} b.queues q

/-- A change of queue q. -/
def Block.onQueue (b : Block) (q : Nat) (f : Queue → Queue) : Block := { b with queues := tabMod {} b.queues q f }

/-- Words in use, closed or open (R205). -/
def Queue.level (u : Queue) : Nat := u.words.length + (if u.open_.isEmpty then 0 else 1)

/-- The key of entry 54qq.e. -/
def queueKey (q e : Nat) : Nat := 0x540000 + q * 256 + e

/-- QUEUE_CONFIG of queue q in the active set, reserved bits zero (R12). -/
def Block.queueConfig (b : Block) (q : Nat) : Nat := b.rs (queueKey q 1)

/-- A throttle is in force at the device (R221, R495). -/
def Block.throttled (b : Block) : Bool := b.env.throttle

/-- The reason that a withdrawal for want of room names (R221). -/
def Block.roomReason (b : Block) (throttled : Bool) : Nat := if throttled || b.throttled then 4 else 1

/-! ### Counting withdrawals (R223, R240) -/

/-- Count a withdrawal record of a crossing that the device makes, by its reason, and raise CONTRACT_WITHDRAWAL. -/
def Block.countWithdrawal (b : Block) (x : Nat) (w : Word64) : Block :=
  let v := w.toNat
  (b.bump (0x214000 + bits v 55 52) 1).raiseOnce 0x10 0
    [.id 8 (bits v 55 52), .id 12 (bits v 51 40), b.nameFld x, .cnt 16 (bits v 15 0)]

/-! ### Words entering an UP queue (R255, R256) -/

/-- Number a word and fold it into the orbit check. A colophon closes its orbit: the next number is 0. -/
def Block.account (b : Block) (u : Nat) (r : QRec) : Block :=
  b.onUplink u fun s =>
    if typeOf r.word = 0x85 ∧ !r.group then { s with accession := 0, wds := 0, crc := 0xB704CE, crcPrev := 0xB704CE }
    else { s with
      accession := s.accession + 1
      wds := if typeOf r.word = 0x84 ∧ !r.group then s.wds + 1 else s.wds
      crc := crc24Word s.crc r.word
      crcPrev := s.crc }

/-- An UP queue. -/
def isUp (q : Nat) : Bool := decide (0x21 ≤ q) && decide (q ≤ 0x2C)

/-- An RQ queue. -/
def isRq (q : Nat) : Bool := decide (0x41 ≤ q) && decide (q ≤ 0x60)

/-- A record as it takes its place in a queue: a colophon sums the words of its orbit that precede it in the UP queue (R255). -/
def Block.summed (b : Block) (q : Nat) (r : QRec) : QRec :=
  if isUp q && !r.group && typeOf r.word == 0x85 then
    let s := b.uplink (q - 0x20)
    { r with word := colophon (bits r.word.toNat 55 54) (s.accession % 2 ^ 17) (bits r.word.toNat 36 36) s.wds s.crc.toNat }
  else r

/-- A colophon is reported: the entries 51uu.02 to 05, and MERGE_COLOPHON. It has its place in crossing `cross`, the first of the next
orbit or E. -/
def Block.colophonPlaced (b : Block) (u : Nat) (r : QRec) : Block :=
  let k := 0x510000 + 256 * u
  let v := r.word.toNat
  let b := (((b.setReg (k + 2) (bits v 53 37)).setReg (k + 3) (bits v 35 24)).setReg (k + 4) (bits v 23 0)).setReg (k + 5)
    (b.orbitOf (r.cross - 1))
  b.raise 0x65 [.id 4 u, .cnt 16 (bits v 53 37)]

/-- What taking a place in an UP queue does to its uplink. -/
def Block.numbered (b : Block) (q : Nat) (r : QRec) : Block :=
  if !isUp q then b
  else
    let b := b.account (q - 0x20) r
    if typeOf r.word = 0x85 ∧ !r.group then b.colophonPlaced (q - 0x20) r else b

/-! ### Writing a queue (R203 to R206) -/

/-- Level, its peak and the notice of R205, after a change. -/
def Block.queueNotice (b : Block) (q : Nat) : Block :=
  let u := b.queue q
  let cfg := b.queueConfig q
  let lim := bits cfg 29 16
  let b := b.peak (queueKey q 4) u.level
  if !u.noticed ∧ lim ≤ u.level then
    let b := b.onQueue q fun u => { u with noticed := true }
    if cfg.testBit 31 then b.raise 0x5C [.id 8 q, .cnt 16 u.level] else b
  else if u.noticed ∧ u.level + (queueCapacity q + 15) / 16 < lim then b.onQueue q fun u => { u with noticed := false }
  else b

/-- A record enters the open word at the tail; five close it (R203). `code` is the frame code of the word's content. -/
def Block.qPlace (b : Block) (q : Nat) (r : QRec) : Block :=
  let r := b.summed q r
  let u := b.queue q
  let recs := u.open_ ++ [r]
  let b := b.onQueue q fun u =>
    if recs.length < 5 then { u with open_ := recs, openAt := if u.open_.isEmpty then b.time.now else u.openAt }
    else { u with open_ := [], words := u.words ++ [⟨0, recs, b.time.now, false⟩] }
  let b := if 5 ≤ recs.length then b.bump (queueKey q 5) 1 else b
  (b.numbered q r).queueNotice q

/-- Close the open word early (R204). -/
def Block.qClose (b : Block) (q : Nat) : Block :=
  let u := b.queue q
  if u.open_.isEmpty then b
  else
    (b.onQueue q fun u => { u with open_ := [], words := u.words ++ [⟨0, u.open_, b.time.now, false⟩] }).bump (queueKey q 6) 1

/-- A group of five words is placed whole, in a word of its own with code 1 (R172, R204, R244). -/
def Block.qGroup (b : Block) (q : Nat) (l : List QRec) : Block :=
  let b := b.qClose q
  let b := (b.onQueue q fun u => { u with words := u.words ++ [⟨1, l, b.time.now, false⟩] }).bump (queueKey q 5) 1
  (forEach l b fun r b => b.numbered q r).queueNotice q

/-- Room for a record: control records may use the reserve of 4 words, no other may (R206). -/
def Queue.room (u : Queue) (cap : Nat) (control : Bool) : Bool :=
  let lim := if control then cap else cap - 4
  if u.open_.isEmpty then decide (u.level < lim) else decide (u.level ≤ lim)

/-- Something waits: no record but a control record may enter (R206). -/
def Queue.waits (u : Queue) : Bool := !u.hold.isEmpty || !u.refused.isEmpty

/-- A record is a withdrawal of the same reason, site and crossing, for the same fragment, with room in its COUNT (R223). -/
def joins (last r : QRec) : Bool :=
  typeOf last.word == 0x84 && !last.group && bits last.word.toNat 63 21 == bits r.word.toNat 63 21 && last.hdr == r.hdr &&
    decide (bits last.word.toNat 15 0 + bits r.word.toNat 15 0 ≤ 0xFFFE)

/-- A withdrawal with the count of another added to its own. -/
def QRec.plus (last r : QRec) : QRec := { last with word := last.word + BitVec.ofNat 64 (bits r.word.toNat 15 0) }

/-- The youngest record of a queue that no frame has read and no compression block has taken: of the open word, or of a word closed in
the present crossing. -/
def Block.qYoungest (b : Block) (q : Nat) : Option QRec :=
  let u := b.queue q
  match u.open_.getLast? with
  | some r => some r
  | none =>
    match u.words.getLast? with
    | some w => if w.closed = b.time.now ∧ !(isUp q && (b.uplink (q - 0x20)).block.isSome && u.words.length == 1) then w.recs.getLast? else none
    | none => none

/-- A withdrawal that the device makes joins the one before it where R223 lets it. -/
def Block.qJoins (b : Block) (q : Nat) (r : QRec) : Bool :=
  match b.qYoungest q with
  | some last => joins last r
  | none => false

/-- The last record of a list changed. -/
def mapLast {α : Type} (f : α → α) : List α → List α
  | [] => []
  | [x] => [f x]
  | x :: t => x :: mapLast f t

/-- Add a withdrawal's count to the one before it. In an UP queue the orbit check takes the word as it now stands. -/
def Block.qJoin (b : Block) (q : Nat) (r : QRec) : Block :=
  let last := (b.qYoungest q).getD r
  let b := b.onQueue q fun u =>
    if u.open_.isEmpty then { u with words := mapLast (fun w => { w with recs := mapLast (fun x => x.plus r) w.recs }) u.words }
    else { u with open_ := mapLast (fun x => x.plus r) u.open_ }
  if isUp q then b.onUplink (q - 0x20) fun s => { s with crc := crc24Word s.crcPrev (last.plus r).word } else b

/-- A withdrawal that the device makes where the queue is known to have room. -/
def Block.qWithdraw (b : Block) (q : Nat) (r : QRec) : Block :=
  if b.qJoins q r then b.qJoin q r else (b.countWithdrawal r.cross r.word).qPlace q r

/-- A withdrawal of the device for records that a queue has refused: in RQ one for the port's words, which row 7 merges. -/
def queueWd (q x : Nat) (hdr : Option Word64) (w : Word64) : QRec :=
  if isRq q then { word := w, cross := x, hdr := hdr, own := true } else { word := w, cross := x }

/-- Add to the refusal table; an unknown count makes the entry unknown (R206). The first record refused gives the header. -/
def refuse (t : Tab Refused) (x n : Nat) (throttled : Bool) (hdr : Option Word64) : Tab Refused :=
  let old := tabGet {} t x
  tabSet t x {
    count := if n = unknownCount ∨ old.count = unknownCount then unknownCount else min (old.count + n) 0xFFFFFFFF
    throttled := old.throttled || throttled
    hdr := if old.count = 0 then hdr else old.hdr }

/-- How many records a record stands for when it is withdrawn: a withdrawal, its own count. -/
def recCount (r : QRec) : Nat := if typeOf r.word = 0x84 ∧ !r.group then bits r.word.toNat 15 0 else 1

/-- A refused record is counted and withdrawn at once where the reserve has room, else in the refusal table (R206). -/
def Block.qRefuse (b : Block) (q : Nat) (r : QRec) : Block :=
  let x := r.cross
  let n := recCount r
  let b := (b.bump (queueKey q 8) 1).raiseOnce 0x5E q [.id 8 q, b.nameFld x, .cnt 16 n]
  let u := b.queue q
  if !u.waits ∧ u.room (queueCapacity q) true then
    forEach (b.withdrawals (b.roomReason r.throttled) siteQueue q x 0 n) b fun w b => b.qWithdraw q (queueWd q x r.hdr w)
  else b.onQueue q fun u => { u with refused := refuse u.refused x n (r.throttled || b.throttled) r.hdr }

/-- Held control records enter first, then withdrawals from the refusal table in crossing order, as words free (R206). -/
def Block.qDrain : Nat → Block → Nat → Block
  | 0, b, _ => b
  | n + 1, b, q =>
    let u := b.queue q
    if !u.room (queueCapacity q) true then b
    else match u.hold with
      | r :: t => Block.qDrain n ((b.onQueue q fun u => { u with hold := t }).qPlace q r) q
      | [] =>
        match u.refused with
        | [] => b
        | (x, c) :: t =>
          let b := b.onQueue q fun u => { u with refused := t }
          Block.qDrain n (forEach (b.withdrawals (b.roomReason c.throttled) siteQueue q x 0 c.count) b fun w b =>
            b.qWithdraw q (queueWd q x c.hdr w)) q

/-- How many entries a drain can move. -/
def Queue.waiting (u : Queue) : Nat := u.hold.length + u.refused.length

/-- A record is written to a queue (R203, R206). -/
def Block.qWrite (b : Block) (q : Nat) (r : QRec) : Block :=
  let b := b.qDrain (b.queue q).waiting q
  let u := b.queue q
  if r.control then
    if !u.waits ∧ u.room (queueCapacity q) true then b.qPlace q r
    else if u.hold.length < 64 then b.onQueue q fun u => { u with hold := u.hold ++ [r] }
    else b.qRefuse q r
  else if !u.waits ∧ u.room (queueCapacity q) false then b.qPlace q r
  else b.qRefuse q r

/-- A withdrawal that the device makes is counted and written to a queue, or joined with the one before it (R223). -/
def Block.qMake (b : Block) (q x : Nat) (w : Word64) : Block :=
  let r : QRec := { word := w, cross := x }
  if !(b.queue q).waits && b.qJoins q r then b.qJoin q r else (b.countWithdrawal x w).qWrite q r

/-- Records written in turn, naming a crossing. -/
def Block.qWriteAll (b : Block) (q x : Nat) (l : List Word64) : Block :=
  forEach l b fun w b => b.qWrite q { word := w, cross := x }

/-- A whole group of five words; where it finds no room all five are refused (R206). -/
def Block.qWriteGroup (b : Block) (q : Nat) (l : List QRec) : Block :=
  let b := b.qDrain (b.queue q).waiting q
  let u := b.queue q
  if !u.waits ∧ u.level < queueCapacity q - 4 then b.qGroup q l else forEach l b fun r b => b.qRefuse q r

/-- The oldest closed word that the frame assembled in this crossing may read, taken from the queue (R203). -/
def Block.qRead (b : Block) (q : Nat) : Option QWord × Block :=
  match (b.queue q).words with
  | w :: t => if w.closed < b.time.now then (some w, (b.onQueue q fun u => { u with words := t }).queueNotice q) else (none, b)
  | [] => (none, b)

/-- Every closed word that may be read, taken from the queue in order. -/
def Block.qReadAll (b : Block) (q : Nat) : List QWord × Block :=
  let old := fun (w : QWord) => decide (w.closed < b.time.now)
  let l := (b.queue q).words.takeWhile old
  if l.isEmpty then ([], b) else (l, (b.onQueue q fun u => { u with words := u.words.dropWhile old }).queueNotice q)

/-- The open word is stale: STALE_EN is 1 and T_STALE crossings have passed since its first record (R204). -/
def Block.qStale (b : Block) (q : Nat) : Bool :=
  let u := b.queue q
  let cfg := b.queueConfig q
  !u.open_.isEmpty && cfg.testBit 30 && decide (u.openAt + bits cfg 9 0 ≤ b.time.now)

/-- Close a stale word (R204). -/
def Block.qStaleClose (b : Block) (q : Nat) : Block :=
  let n := (b.queue q).open_.length
  ((b.qClose q).bump (queueKey q 7) 1).raiseOnce 0x5D q [.id 8 q, .cnt 16 n]

/-- The queues of a role. -/
def queuesOf (cRole : Bool) : List Nat := (List.range 0xA1).filter (queueIn cRole)

/-- Service records of the device itself: into SVC at an F-role (R412). -/
def Block.svcWrite (b : Block) (l : List Word64) : Block := b.qWriteAll 1 b.time.now l

/-! ### Meanings -/

/-- QUEUE_RECORD_WRITE (R203, R206): a record from outside, naming the present crossing. -/
def execQueueRecordWrite (q : BitVec 8) (record : Word64) (s : State) : Host.Outcome State Fault Refusal :=
  s.run fun b =>
    b.when (queueIn b.cRole q.toNat) fun b => b.qWrite q.toNat { word := record, cross := b.time.now }

/-- QUEUE_STALE_CLOSE (R204). -/
def execQueueStaleClose (q : BitVec 8) (s : State) : Host.Outcome State Fault Refusal :=
  s.run fun b => b.when (queueIn b.cRole q.toNat && b.qStale q.toNat) fun b => b.qStaleClose q.toNat

/-- QUEUE_HOLD_DRAIN (R206). -/
def execQueueHoldDrain (q : BitVec 8) (s : State) : Host.Outcome State Fault Refusal :=
  s.run fun b => b.when (queueIn b.cRole q.toNat) fun b => b.qDrain (b.queue q.toNat).waiting q.toNat

end Sys2Proof.Machine
end

