-- ==== Sys2Proof/Machine/Serve.lean ====
section
/-! DEFINITION. Serving the object dictionary: who is heard, sessions, access, replies and aborts, and the carriage of the
device's own messages (R390 to R405, R412 to R415). -/

namespace Sys2Proof.Machine

/-! ### Carriage of the device's own messages -/

/-- Words of a BULK message written whole, in words of their own (R412, R414): frame code class 2. -/
def Block.qBulk (b : Block) (q x : Nat) (l : List Word64) : Block :=
  let b := (b.qDrain (b.queue q).waiting q).qClose q
  let u := b.queue q
  let n := (l.length + 4) / 5
  let recs := l.map fun w => ({ word := w, cross := x, group := true } : QRec)
  if !u.waits ∧ u.level + n + 4 ≤ queueCapacity q then
    let words := (List.range n).map fun i => (⟨2, (recs.drop (5 * i)).take 5, b.time.now, false⟩ : QWord)
    ((b.onQueue q fun u => { u with words := u.words ++ words }).bump (queueKey q 5) n).queueNotice q
  else forEach recs b fun r b => b.qRefuse q r

/-- Own service records of a C-role: mirrored in twin topology (R356), else merged in the next crossing. -/
def Block.ownService (b : Block) (l : List Word64) : Block :=
  if b.topology = 0 then b.onTwin fun t => { t with outbox := t.outbox ++ l }
  else b.onMrg fun m => { m with svcOwn := m.svcOwn ++ l }

/-- A message of the device's own, in band, with an ORIGIN (R412). -/
def Block.inbandSend (b : Block) (origin : Nat) (m : List Byte) : Block :=
  if b.cRole then b.ownService (serviceRecords (flag b.boot.unitB) origin m)
  else if m.length ≤ 40 then b.svcWrite (serviceRecords 0 origin m)
  else b.qBulk 1 b.time.now (bulkWords 0 origin 0 m)

/-! ### Messages (R400, R401) -/

/-- The bytes of a message: SEGMENT and SEGMENT_ACK have the short form, with SEQ or NEXT in `index`. -/
def Reply.bytes (r : Reply) : List Byte :=
  if r.op = 0x04 ∨ r.op = 0x06 then bytesLE 1 r.op ++ bytesLE 1 r.tag ++ bytesLE 1 r.index ++ [0] ++ r.body
  else bytesLE 1 r.op ++ bytesLE 1 r.path ++ bytesLE 1 r.tag ++ bytesLE 1 r.session ++ bytesLE 2 r.index ++ bytesLE 1 r.sub ++
    bytesLE 1 r.arg ++ r.body

/-- ORIGIN of an in-band message that answers a request of an origin (R413). -/
def originCode : Origin → Nat
  | .proxiedCan => 1
  | .proxiedUnit => 2
  | _ => 0

/-- A request came over CAN. -/
def onCan : Origin → Bool
  | .canA _ => true
  | .canB _ => true
  | _ => false

/-- A message leaves by the path of its origin. -/
def Block.sendReply (b : Block) (r : Reply) : Block :=
  let muted := b.dict.mute
  let b := if muted then b else b.onDict fun d => { d with replies := d.replies ++ [r] }
  if muted || onCan r.origin then b else b.inbandSend (originCode r.origin) r.bytes

/-- A response to a request: OP with bit 7 set, the header echoed (R401). -/
def mkReply (h : Hdr) (op idx sub arg : Nat) (body : List Byte) : Reply :=
  { origin := h.origin, op := op + 0x80, path := h.path, tag := h.tag.toNat, session := h.session, index := idx, sub := sub,
    arg := arg, body := body }

/-- Send a response. -/
def Block.reply (b : Block) (h : Hdr) (op idx sub arg : Nat) (body : List Byte) : Block :=
  b.sendReply (mkReply h op idx sub arg body)

/-- A transaction whose last segment has been executed is answered, or has been given up. -/
def Block.landingOver (b : Block) (h : Hdr) : Block := b.onDict fun d => { d with landings := d.landings.filter fun k => decide (k ≠ h) }

/-- Answer ABORT with a code of R404, and raise DICT_ABORT. A write whose response has left has none to make. -/
def Block.abort (b : Block) (h : Hdr) (idx sub code : Nat) : Block :=
  if b.dict.mute then b
  else (b.raiseOnce 0xD4 0 [.id 8 code, .id 24 (idx * 256 + sub)]).landingOver h |>.reply h 0x07 idx sub 0 (bytesLE 4 code)

/-- Acknowledge the last segment of a DOWNLOAD (R401). -/
def Block.landed (b : Block) (h : Hdr) (key : Nat) : Block := (b.landingOver h).reply h 0x03 (key / 256) (key % 256) 1 []

/-- Acknowledge a WRITE, or a DOWNLOAD that has written the entry as one. -/
def Block.ack (b : Block) (h : Hdr) (key : Nat) : Block :=
  if b.dict.landings.contains h then b.landed h key else b.reply h 0x02 (key / 256) (key % 256) 0 []

/-- Abort a request on an entry given by its key. -/
def Block.refuseKey (b : Block) (h : Hdr) (key code : Nat) : Block := b.abort h (key / 256) (key % 256) code

/-! ### Who is heard -/

/-- The dictionary is served: the device runs, or has shut down for heat and still answers. -/
def Block.served (b : Block) : Bool := b.running || decide (b.boot.phase = .shutdown)

/-- A controller takes part in bus traffic (R408, R519). -/
def CanCtl.up (c : CanCtl) : Bool := !c.listen && (c.state == 1 || c.state == 2)

/-- A CAN controller of the device. -/
def Block.can (b : Block) (busB : Bool) : CanCtl := if busB then b.dict.canB else b.dict.canA

/-- The request is addressed to this device and arrives on a path that runs (R409, R412, R419). -/
def Block.hears (b : Block) (h : Hdr) : Bool :=
  b.served && (!h.pair || b.cRole) &&
    (match h.origin with
     | .canA _ => (b.can false).up && b.reg 0x100101 != 127 && (!h.pair || b.reg 0x100102 != 127)
     | .canB _ => (b.can true).up && b.reg 0x100101 != 127 && (!h.pair || b.reg 0x100102 != 127)
     | .inband => b.running && b.reg 0x104001 == 1
     | .proxiedCan => b.running && !b.cRole && b.reg 0x104001 == 1
     | .proxiedUnit => b.running && !b.cRole && b.reg 0x104001 == 1)

/-- Writes that wait, with those of a transaction silenced. -/
def hushed (mine : Hdr → Bool) (l : List PendWrite) : List PendWrite := l.map fun p => if mine p.hdr then { p with silent := true } else p

/-- A request that reuses an outstanding TAG of its origin ends the earlier transaction without a response (R398). -/
def Block.freshTag (b : Block) (h : Hdr) : Block :=
  let mine := fun (k : Hdr) => decide (k.origin = h.origin) && k.tag == h.tag
  let b := b.onDict fun d => { d with
    transfers := d.transfers.filter fun t => !mine t.hdr,
    pend := hushed mine d.pend,
    swaps := hushed mine d.swaps,
    landings := d.landings.filter fun k => !mine k,
    keeping := d.keeping.map fun k => (k.1, if mine k.1 then (if k.2.1 = 0 then 3 else if k.2.1 = 1 then 2 else k.2.1) else k.2.1, k.2.2) }
  let b := b.onSets fun s => { s with by_ := s.by_.map fun k => (k.1, k.2 || mine k.1) }
  let b := b.onBoot fun k => { k with bootWriteBy := k.bootWriteBy.map fun w => (w.1, w.2.1, w.2.2 || mine w.1) }
  b.onMrg fun m => { m with ports := m.ports.map fun p =>
    (p.1, { p.2 with proxies := p.2.proxies.filter fun x => !mine x.hdr }) }

/-- A request to the device itself names its session, which goes on (R405). -/
def Block.sessionUsed (b : Block) (h : Hdr) : Block :=
  if h.path ≠ 0 then b
  else b.onDict fun d => { d with sessions := d.sessions.map fun x =>
    if x.number = h.session ∧ x.origin = h.origin then { x with used := b.time.now } else x }

/-- The device as a request that is heard finds it: its TAG is fresh and its session in use. -/
def Block.taken (b : Block) (h : Hdr) : Block := (b.freshTag h).sessionUsed h

/-- A message is executed where it is heard; an in-band message that INBAND_ENABLE discards is counted (R412). -/
def Block.receive (b : Block) (h : Hdr) (f : Block → Block) : Block :=
  if b.hears h then f (b.taken h)
  else if b.running ∧ !onCan h.origin then b.bump 0x104005 1
  else b

/-- A request for the device itself: one whose PATH names a port belongs to the proxy (R416). -/
def Block.request (b : Block) (h : Hdr) (f : Block → Block) : Block := if h.path = 0 then b.receive h f else b

/-! ### Access (R390, R393, R394, R399, R405) -/

/-- The level of a request: 1 with no session, none where the session is not open for this origin (R405). What a concentrator
delivers on its own account (R237, R383, R445, R446) carries no session and acts at the level its entries need (assumption 21). -/
def Block.levelOf (b : Block) (h : Hdr) : Option Nat :=
  if h.session = 0 then some (if h.origin = .proxiedUnit then 3 else 1)
  else (b.dict.sessions.find? fun x => x.number == h.session && decide (x.origin = h.origin)).map Session.level

/-- The subsystem reset block that owns an index, 0 for none (R423). -/
def blockOf (idx : Nat) : Nat :=
  if 0x3000 ≤ idx ∧ idx ≤ 0x31FF then 1
  else if 0x4000 ≤ idx ∧ idx ≤ 0x43FF then 2
  else if 0x4400 ≤ idx ∧ idx ≤ 0x47FF then 3
  else if (0x4800 ≤ idx ∧ idx ≤ 0x4830) ∨ (0x4900 ≤ idx ∧ idx ≤ 0x49FF) then 4
  else if (0x4A00 ≤ idx ∧ idx ≤ 0x4A20) ∨ (0x5400 ≤ idx ∧ idx ≤ 0x54A0) then 5
  else if 0x5000 ≤ idx ∧ idx ≤ 0x53FF then 6
  else if 0x6000 ≤ idx ∧ idx ≤ 0x63FF then 7
  else if 0x6400 ≤ idx ∧ idx ≤ 0x67FF then 8
  else if 0x7000 ≤ idx ∧ idx ≤ 0x73FF then 9
  else 0

/-- The block of an index is under reset (R399). -/
def Block.resetting (b : Block) (idx : Nat) : Bool := (tabFind b.boot.resetting (blockOf idx)).isSome

/-- An entry exists: described by a chapter, and for 54qq a queue of the role (R207, R390). -/
def Block.entryOf (b : Block) (idx sub : Nat) : Option Desc :=
  if 0x5400 ≤ idx ∧ idx ≤ 0x54FF ∧ !queueIn b.cRole (idx - 0x5400) then none else descOf idx sub

/-- The entry's block is powered in the device's role (R17). -/
def Block.inRole (b : Block) (d : Desc) (idx : Nat) : Bool :=
  (match d.role with
   | .both => true
   | .fOnly => !b.cRole
   | .cOnly => b.cRole) && !(b.cRole && decide (0x4423 ≤ idx) && decide (idx ≤ 0x4440))

/-- What a request to an entry meets: an abort code, or the entry's row. The order of the checks is the model's
(assumption 14). -/
def Block.access (b : Block) (h : Hdr) (idx sub : Nat) (write : Bool) : Except Nat Desc :=
  match b.levelOf h with
  | none => .error 0x0E
  | some lvl =>
    match b.entryOf idx sub with
    | none => .error 0x01
    | some d =>
      if d.level = 4 ∧ lvl < 4 then .error 0x01
      else if !b.inRole d idx then .error 0x02
      else if b.resetting idx then .error 0x0A
      else if write then
        if d.access = .ro ∨ d.access = .co then .error 0x03
        else if lvl < d.level then .error 0x05
        else .ok d
      else if d.access = .wo then .error 0x04
      else .ok d

/-- The length of a value fits the entry's type (R392): 0, or the abort code. -/
def lengthCode (d : Desc) (n : Nat) : Nat :=
  match d.type with
  | .text => if d.size < n then 0x1C else 0
  | .domain => if d.size < n then 0x1C else 0
  | _ => if n = d.size then 0 else 0x06

/-- A segmented transfer of the device's own runs on the entry (R399). -/
def Block.transferOn (b : Block) (idx sub : Nat) : Bool :=
  b.dict.transfers.any fun t => t.hdr.path == 0 && t.index == idx && t.sub == sub

/-- A write command on an entry: access is judged, then the length, then the entry's own rule `f`. -/
def Block.writeTo (b : Block) (h : Hdr) (key len : Nat) (f : Block → Block) : Block :=
  b.request h fun b =>
    match b.access h (key / 256) (key % 256) true with
    | .error c => b.refuseKey h key c
    | .ok d =>
      if lengthCode d len ≠ 0 then b.refuseKey h key (lengthCode d len)
      else if b.transferOn (key / 256) (key % 256) then b.refuseKey h key 0x08
      else f b

/-- The value an RW entry will have when the writes accepted so far have taken effect (R396). -/
def Block.nextReg (b : Block) (key : Nat) : Nat :=
  match (b.dict.pend.filter fun p => p.key == key).getLast? with
  | some p => p.value
  | none => b.reg key

/-- A write of an RW entry: it takes effect at the next crossing boundary, and its response leaves after it (R396). -/
def Block.pendWrite (b : Block) (h : Hdr) (key v : Nat) : Block :=
  b.onDict fun d => { d with pend := d.pend ++ [⟨key, v, h, false⟩] }

end Sys2Proof.Machine
end

