-- ==== Sys2Proof/Machine/Diagnosis.lean ====
section
/-! DEFINITION. Self-diagnosis of a twin unit, and the release of its claim (R357, R358). -/

namespace Sys2Proof.Machine

/-- The unit is a C-role of a twin pair. -/
def Block.isTwin (b : Block) : Bool := b.cRole && b.topology == 0

/-- Mirror delay M (R353): 0 in solo topology and at an F-role (R383). -/
def Block.mirrorDelay (b : Block) : Nat := if b.isTwin then b.sets.depths.2.2 + 4 else 0

/-- Release the claim for a cause (R358): frames from the next crossing on carry 0. The state that the unit had is not kept. -/
def Block.releaseClaim (b : Block) (cause : Nat) : Block :=
  (b.onTwin fun t => { t with
    state := .released, claimDue := some 0, cause := cause, phase := .waiting, b0 := none, z := none, remain := false,
    wasHeld := false, verdicts := [] }).raise 0xB0 [.id 8 cause, b.hereFld]

/-- A self-diagnosis source fails. A unit that has not reached unit release only keeps the source. -/
def Block.sourceFail (b : Block) (src : Nat) : Block :=
  if !b.isTwin then b
  else
    let b := if b.twin.sources.contains src then b else b.onTwin fun t => { t with sources := t.sources ++ [src] }
    if b.twin.entered && b.twin.state != .released then b.releaseClaim src else b

/-- A check of the self-test that runs fails (R361). -/
def Block.testFails (b : Block) (check : Nat) : Block :=
  b.onTwin fun t => if t.test.isSome ∧ (t.testFail = 0 ∨ check < t.testFail) then { t with testFail := check } else t

/-- A source clears (R357). The unit enters RESYNC at the crossing after every cause has cleared (R358). -/
def Block.sourceClear (b : Block) (src : Nat) : Block := b.onTwin fun t => { t with sources := t.sources.filter (· != src) }

/-- Enter RESYNC with claim 0 from the next frame (R358, R362, R364, R365); TWIN_RESYNC tells that it has begun. -/
def Block.enterResync (b : Block) : Block :=
  (b.onTwin fun t => { t with
    state := .resync, claimDue := some 0, phase := .waiting, b0 := none, z := none, spanFrom := none, spanTo := none,
    fails := 0, remain := false, wasHeld := t.state == .held || (t.state == .resync && t.wasHeld), verdicts := [] }).raise 0xB4 [.id 8 1]

/-- At a crossing boundary a released unit whose causes have cleared enters RESYNC (R358). -/
def Block.resyncWhenClear (b : Block) : Block :=
  if b.twin.entered && b.twin.state == .released && b.twin.sources.isEmpty then b.enterResync else b

end Sys2Proof.Machine
end

