-- ==== Sys2Proof/Machine/Channels.lean ====
section
/-! DEFINITION. The channel array: masks and power, trims, the bookplate, leakage and noise (chapter 3). -/

namespace Sys2Proof.Machine

/-! ### The set that governs a crossing (R65) -/

/-- The set that governs crossing x: the outgoing one while it is held as the shadow, for a crossing before the swap. -/
def Block.setOf (b : Block) (x : Nat) : CfgSet :=
  match b.orbitAt x with
  | some r => if r.set + 1 = b.sets.swaps then b.sets.shd else b.active
  | none => b.active

/-- The value of an RS entry for crossing x. -/
def Block.rsAt (b : Block) (x key : Nat) : Nat := b.rsIn (b.setOf x) key

/-! ### Masks (R81 to R83) -/

/-- Key of CH_CONFIG of channel c (R96). -/
def chConfigKey (c : Nat) : Nat := 0x310001 + 256 * c

/-- Eight 32-bit words of dictionary entries as one number of 256 bits (R95). -/
def Block.words8 (b : Block) (key : Nat) : Nat :=
  (List.range 8).foldl (fun a k => a + (b.reg (key + k) % 2 ^ 32) <<< (32 * k)) 0

/-- The channels a set masks: DISC_MASK or POWER_DOWN (R97). A channel the set does not list has neither. -/
def setMask (c : CfgSet) : Nat :=
  orBits (c.entries.filterMap fun p =>
    if 0x310001 ≤ p.1 ∧ p.1 < 0x320000 ∧ p.1 % 256 = 1 ∧ (p.2.testBit 30 ∨ p.2.testBit 28) then some (p.1 / 256 - 0x3100)
    else none)

/-- A channel is retired. -/
def Block.chRetired (b : Block) (c : Nat) : Bool :=
  match (b.chan c).retiredAt with
  | some t => decide (t ≤ b.time.now)
  | none => false

/-- A channel settles (R83). -/
def Block.settling (b : Block) (c : Nat) : Bool :=
  match (b.chan c).settle with
  | some t => decide (b.time.now < t)
  | none => false

/-- Channels that settle or are retired. -/
def Block.restMask (b : Block) : Nat :=
  orBits ((b.chans.filter fun p => b.settling p.1 || b.chRetired p.1).map Prod.fst)

/-- Every source of R81. -/
def Block.maskSources (b : Block) : Nat :=
  b.words8 0x301001 ||| (if b.plate.taken then b.plate.mask else 0) ||| setMask b.active ||| b.restMask

/-- The mask takes effect (R82); a channel that becomes unmasked restarts its timeout counter (R162). -/
def Block.remask (b : Block) : Block :=
  let m := b.maskSources
  let fresh := bitsSet 256 (b.chMask &&& (2 ^ 256 - 1 - m % 2 ^ 256))
  forEach fresh { b with chMask := m } fun c b => b.onChan c fun k => { k with timer := b.time.now }

/-- Channel c is masked. -/
def Block.chMasked (b : Block) (c : Nat) : Bool := b.chMask.testBit c

/-- The channel's amplifier is off (R83). -/
def Block.poweredDown (b : Block) (c : Nat) : Bool := (b.rs (chConfigKey c)).testBit 28 || b.chRetired c

/-- A channel is powered again and settles for 2048 crossings from crossing x (R83). -/
def Block.settleFrom (b : Block) (c x : Nat) : Block := b.onChan c fun k => { k with settle := some (x + 2048) }

/-! ### Trims (R80, R90) -/

/-- The bookplate's trims apply in a set. -/
def Block.plateTrims (b : Block) (s : CfgSet) : Bool := b.plate.taken && b.rsIn s 0x300005 == 1

/-- A trim byte of the bookplate. -/
def plateByte (image : List Byte) (off c : Nat) : Nat := ((image.drop (off + c)).headD 0).toNat

/-- A threshold trim before saturation: LT at (0x220, bits 27:22), HT at (0x320, bits 21:16). -/
def Block.trimSum (b : Block) (c : Nat) (ht : Bool) : Int :=
  let w := b.rs (chConfigKey c)
  let own := if ht then signedOf 6 (bits w 21 16) else signedOf 6 (bits w 27 22)
  own + (if b.plateTrims b.active then signedOf 6 (plateByte b.plate.image (if ht then 0x320 else 0x220) c) else 0)

/-- T_LT or T_HT, the effective trim of a threshold (R80). -/
def Block.trim (b : Block) (c : Nat) (ht : Bool) : Int := clampI (-32) 31 (b.trimSum c ht)

/-- A pedestal trim of a set before saturation. -/
def Block.pedSumIn (b : Block) (s : CfgSet) (c : Nat) (low : Bool) : Int :=
  let w := b.rsIn s (chConfigKey c + 1)
  let own : Int := if low then (bits w 5 0 : Nat) else (bits w 13 8 : Nat)
  own + (if b.plateTrims s then (plateByte b.plate.image (if low then 0x520 else 0x420) c % 64 : Nat) - 32 else 0)

/-- A pedestal trim of the active set before saturation. -/
def Block.pedSum (b : Block) (c : Nat) (low : Bool) : Int := b.pedSumIn b.active c low

/-- The effective trims of a channel as 31cc.06 holds them. -/
def Block.effectiveTrims (b : Block) (c : Nat) : Nat :=
  pack [(2, 0), (6, twos 6 (b.trim c false)), (2, 0), (6, twos 6 (b.trim c true))]

/-- Which trim of a channel saturates, first of LT, HT and the pedestals. -/
def Block.trimSaturated (b : Block) (c : Nat) : Option Nat :=
  let t := [b.trimSum c false, b.trimSum c true]
  let p := [b.pedSum c false, b.pedSum c true]
  (List.range 4).find? fun k =>
    if k < 2 then decide (t.getD k 0 < -32) || decide (31 < t.getD k 0)
    else decide (p.getD (k - 2) 0 < 0) || decide (63 < p.getD (k - 2) 0)

/-- The first channel with a saturated trim. -/
def Block.firstSaturated (b : Block) : Option Nat := (List.range 256).find? fun c => (b.trimSaturated c).isSome

/-- A saturated trim is named once (R80). -/
def Block.saturationCheck (b : Block) : Block :=
  match b.firstSaturated with
  | some c => b.raise 0x25 [.id 8 c, .id 2 ((b.trimSaturated c).getD 0)]
  | none => b

/-- The bookplate declares the other polarity (R69). -/
def Block.polarityCheck (b : Block) : Block :=
  let pol := plateByte b.plate.image 0x12 0
  let own := b.rs 0x300004
  b.when (b.plate.taken && pol != own) fun b => b.raise 0x29 [.id 1 own, .id 1 pol]

/-- What a set meets as it becomes active, or a bookplate as it becomes VALID (R69, R80). -/
def Block.plateChecks (b : Block) : Block :=
  b.when (!b.cRole && b.sets.act.isSome) fun b => b.saturationCheck.polarityCheck

/-! ### Thresholds (R78) -/

/-- Q_LT(c) in 0.01 fC. -/
def Block.thresholdLT (b : Block) (c : Nat) : Int :=
  5 * (b.rs 0x300002 : Nat) + 4 * b.trim c false + clampI (-80) 80 (Config.ltOffset c)

/-- Q_HT(c) in 0.01 fC. -/
def Block.thresholdHT (b : Block) (c : Nat) : Int :=
  20 * (b.rs 0x300003 : Nat) + 16 * b.trim c true + clampI (-320) 320 (Config.htOffset c)

/-! ### The slow shaper and the holds (R68, R70, R76, R97, R532; assumption 115) -/

/-- 2^64 / e, and 2^64 x e^4, to the nearest integer. -/
def invE : Nat := 6786177901268885275
def expFour : Nat := 1007158100559408451355

/-- 2^64 x e^(-x / 65536): the series for the part below 1, then one factor 1 / e for every whole. -/
def expNeg (x : Nat) : Nat :=
  let f : Int := (x % 65536 : Nat)
  let series := (List.range 20).foldl (fun (a : Int × Int) k => (a.1 + a.2, -(a.2 * f) / (65536 * (k + 1) : Nat))) (0, 2 ^ 64)
  (List.range (x / 65536)).foldl (fun v _ => v * invE / 2 ^ 64) series.1.toNat

/-- 2^64 x s(u) of R532, with u in 1 / 65536: below 2^-64 from u = 16 on. -/
def shape (u : Nat) : Nat := if 16 * 65536 ≤ u then 0 else u ^ 4 * expNeg (4 * u) * expFour / 2 ^ 128

/-- A peaking time in ns (R68). -/
def Block.tPeakIn (b : Block) (s : CfgSet) : Nat := 8 * (b.rsIn s 0x300001 + 1)

/-- A span of LSB_phi in peaking times, in 1 / 65536. -/
def Block.peaks (b : Block) (s : CfgSet) (d : Nat) : Nat := d * 10 ^ 12 * 65536 / (b.time.fx * 2048 * b.tPeakIn s)

/-- The sign that signal charge has in a set (R69). -/
def Block.signalSign (b : Block) (s : CfgSet) : Int := if b.rsIn s 0x300004 = 1 then 1 else -1

/-- The slow shaper's output at an instant under a set, in 2^-64 x 0.01 fC at peak (R532). -/
def Block.shaped (b : Block) (s : CfgSet) (c t : Nat) : Int :=
  (((b.chan c).pulses.filter fun p => decide (p.1 ≤ t)).map fun p => b.signalSign s * p.2.1 * shape (b.peaks s (t - p.1))).sum

/-- The pedestal of a gain in codes: 64 at the effective trim 32, 2 codes a step, moved by the leakage beyond 200 nA (R70, R97). -/
def Block.pedestal (b : Block) (s : CfgSet) (c : Nat) (low : Bool) : Int :=
  let excess := (b.chan c).excess
  2 * clampI 0 63 (b.pedSumIn s c low) + (if excess = 0 then 0 else Config.leakShift low excess)

/-- The code that a gain of a channel stands at: pedestal and shaped charge at 0.0375 fC or 0.6 fC per code, limited at 4095 (R532). -/
def Block.gainCode (b : Block) (s : CfgSet) (c t : Nat) (low : Bool) : Nat :=
  let q := b.shaped s c t
  (clampI 0 4095 (b.pedestal s c low + (if low then roundDiv q (60 * 2 ^ 64) else roundDiv (4 * q) (15 * 2 ^ 64)))).toNat

/-- A charge reaches a channel's input, unless its amplifier is off. -/
def Block.deposit (b : Block) (c t : Nat) (q : Int) (command : Bool) : Block :=
  if b.poweredDown c then b else b.onChan c fun k => { k with pulses := k.pulses ++ [(t, q, command)] }

/-- The charges of the crossing that begins; those of more than 32 crossings ago are past every hold. -/
def Block.pulsesNow (b : Block) (l : List (Ch × Point × Int)) : Block :=
  let old := (b.chans.filter fun p => p.2.pulses.any fun q => decide (q.1 + 65536 ≤ 2048 * b.time.now)).map Prod.fst
  let b := forEach old b fun c b =>
    b.onChan c fun k => { k with pulses := k.pulses.filter fun q => decide (2048 * b.time.now < q.1 + 65536) }
  forEach l b fun p b => b.deposit p.1.val (2048 * b.time.now + 64 * p.2.1.cycle.toNat + p.2.1.phase.toNat) p.2.2 false

/-! ### The bookplate (R89 to R94) -/

/-- Serials that no tile has. -/
def badSerial (v : Nat) : Bool := v == 0 || v == 2 ^ 64 - 1

/-- Bookplate CRC-32 of bytes (R90). -/
def crc32Bytes (l : List Byte) : Nat := (l.foldl (fun r x => crcLsb 0xEDB88320 8 x.toNat r) 0xFFFFFFFF) ^^^ 0xFFFFFFFF

/-- The checks of a tile image in the order of R98: the failing one, 0 where it is VALID (R92). -/
def tileCheck (im : List Byte) : Nat :=
  if octets im 0 4 ≠ [0x4B, 0x42, 0x50, 0x4C] then 1
  else if natLE (octets im 4 2) ≠ 1 then 2
  else if natLE (octets im 6 2) ≠ 1828 then 3
  else if badSerial (natLE (octets im 8 8)) then 4
  else if natLE (octets im 0x720 4) ≠ crc32Bytes (im.take 0x720) then 5
  else 0

/-- The channels a tile image masks (R91). -/
def plateMask (im : List Byte) : Nat :=
  orBits ((List.range 256).filter fun c =>
    natLE (octets im (0x20 + 2 * c) 2) == 0xFFFF || plateByte im 0x620 c % 2 == 1)

/-- The bookplate forbids injection on a channel (R87, R91). -/
def Block.plateForbids (b : Block) (c : Nat) : Bool := b.plate.taken && (plateByte b.plate.image 0x620 c).testBit 1

/-- A change of the tile's bookplate. -/
def Block.onPlate (b : Block) (f : Plate → Plate) : Block := { b with plate := f b.plate }

/-- A finished read of the tile image (R92): VALID, or tried again up to three times, then ABSENT or INVALID. After INVALID the serial
of 3020.02 stays 0 while 3020.03 and 3020.05 show the image that failed: the spec says neither way (assumption 105). -/
def Block.plateRead (b : Block) (image : Option (List Byte)) : Block :=
  let p := b.plate
  match image with
  | some im =>
    let k := tileCheck im
    if k = 0 then
      let serial : Word64 := BitVec.ofNat 64 (natLE (octets im 8 8))
      (b.onPlate fun p => { p with
        state := 1, serial := serial, image := im.take 1828, tries := p.tries + 1, answered := true, check := 0,
        reading := false, taken := true, mask := plateMask im }).plateChecks
    else if p.tries + 1 < 3 then
      b.onPlate fun p => { p with tries := p.tries + 1, answered := true, check := k, image := im.take 1828 }
    else
      (b.onPlate fun p => { p with
        state := 2, tries := p.tries + 1, answered := true, check := k, reading := false, image := im.take 1828 }).raise 0x21
        [.id 8 k]
  | none =>
    if p.tries + 1 < 3 then b.onPlate fun p => { p with tries := p.tries + 1 }
    else if p.answered then
      (b.onPlate fun p => { p with state := 2, tries := p.tries + 1, reading := false }).raise 0x21 [.id 8 p.check]
    else
      ((b.onPlate fun p => { p with state := 3, tries := p.tries + 1, reading := false }).raise 0x20
        [.cnt 16 3, .id 16 b.freeVal.toNat]).freeNext

/-- Three reads in a row that all answer with one serial. -/
def agreed (reads : List (Option Word64)) : Option Word64 :=
  match reads with
  | [some x, some y, some z] => if x = y ∧ y = z then some x else none
  | _ => none

/-- What a re-read of a serial does to a bookplate: its new state and the event, 0 for none (R93). -/
def rereadState (p : Plate) (reads : List (Option Word64)) : Nat × Nat :=
  let got := reads.filterMap id
  match p.state with
  | 1 =>
    if got.isEmpty then (5, 0x23)
    else if got.head? = some p.serial then (1, 0)
    else match agreed reads with
      | some _ => (4, 0x22)
      | none => (1, 1)
  | 5 =>
    if got.head? = some p.serial then (1, 0x24)
    else match agreed reads with
      | some _ => (4, 0x22)
      | none => (5, 0)
  | 2 | 3 =>
    match agreed reads with
    | some v => if badSerial v.toNat then (p.state, 0) else (4, 0x22)
    | none => (p.state, 0)
  | n => (n, 0)

/-- The outcome of the tile check is told where the serial is not the one that the active folio expects (R444). -/
def Block.tileTold (b : Block) : Block :=
  let e := (b.active.folio.ports.head?.map PortPlan.tile).getD 0
  let serial := if b.plate.taken then b.plate.serial.toNat else 0
  if e = 0 ∨ b.plate.state = 0 ∨ serial = e then b else b.raise 0x07 [.id 48 serial]

/-- A read that has an outcome: the tile check follows where a set is active. -/
def Block.plateReadTold (b : Block) (image : Option (List Byte)) : Block :=
  let b := b.plateRead image
  if b.sets.act.isSome then b.tileTold else b

/-- A re-read of the tile serial (R93). -/
def Block.plateReread (b : Block) (reads : List (Option Word64)) : Block :=
  let p := b.plate
  let r := rereadState p reads
  let new := ((reads.filterMap id).getLast?).getD p.last
  let b := b.onPlate fun p => { p with state := r.1, last := new }
  if r.2 = 0 then b
  else if r.2 = 1 then b.bump 0x302004 1
  else if r.2 = 0x22 then b.raise 0x22 [.id 48 new.toNat]
  else b.raise r.2 [b.hereFld]

/-! ### Noise and leakage (R70, R85) -/

/-- The orbit's LT count of one channel is judged at its end (R85). -/
def Block.noisyOrbit (b : Block) (c : Nat) : Block :=
  let k := b.chan c
  let lim := b.reg 0x300007
  let above := lim != 0 && decide (lim < k.ltCount)
  let due := above && k.noisyRun + 1 == 4 && !k.noisyUp
  let b := b.setReg (0x310003 + 256 * c) k.ltCount
  let b := b.onChan c fun k => { k with
    ltCount := 0, busyOrbit := 0, noisyRun := if above then k.noisyRun + 1 else 0, noisyUp := (above && k.noisyUp) || due }
  if due then
    let b := b.raise 0x27 [.id 8 c, .cnt 32 k.ltCount]
    if b.reg 0x300008 = 1 then
      let key := 0x301001 + c / 32
      b.setReg key (b.reg key ||| 2 ^ (c % 32))
    else b
  else b

/-- Every channel that has counted an edge or stands in a run: judged at the end of a complete orbit; an orbit that a resync has cut
short is neither reported nor judged (R85, R96). -/
def Block.channelsOrbit (b : Block) (whole : Bool) : Block :=
  forEach (b.chans.map Prod.fst) b fun c b =>
    if whole then b.noisyOrbit c else b.onChan c fun k => { k with ltCount := 0, busyOrbit := 0 }

/-- Up to 200 nA of a sensor's leakage are compensated and reported; what is left moves the pedestals (R70). -/
def Block.leakageReport (b : Block) (l : List (Ch × Int)) : Block :=
  forEach l b fun p b =>
    let c := p.1.val
    let own := clampI (-200) 200 p.2
    let b := (b.setReg (0x310005 + 256 * c) (twos 16 own)).onChan c fun k => { k with excess := p.2 - own }
    if b.reg 0x30000A < own.natAbs then b.raiseOnce 0x26 c [.id 8 c, .int 16 own] else b

/-! ### Meanings -/

/-- BOOKPLATE_READ (R92): only in the boot read of an F-role. -/
def execBookplateRead (image : Option (List Byte)) (s : State) : Host.Outcome State Fault Refusal :=
  s.run fun b => b.when (b.running && !b.cRole && b.plate.reading && b.plate.retried == b.plate.tries) fun b => b.plateReadTold image

/-- BOOKPLATE_REREAD (R93). -/
def execBookplateReread (reads : List (Option Word64)) (s : State) : Host.Outcome State Fault Refusal :=
  s.run fun b => b.when (b.running && !b.cRole && !b.plate.reading) fun b => b.plateReread reads

/-- CHANNEL_SETTLED (R83): the 2048 crossings are over. The channel has left the mask at the boundary that ended them, with every other
source that has changed (R82). -/
def execChannelSettled (c : Ch) (s : State) : Host.Outcome State Fault Refusal :=
  s.run fun b =>
    b.when ((b.chan c.val).settle.isSome && !b.settling c.val) fun b => b.onChan c.val fun k => { k with settle := none }

end Sys2Proof.Machine
end

