-- ==== Sys2Proof/Machine/Edges.lean ====
section
/-! DEFINITION. Discriminator edges, stamp-queue entries, hold banks and captures (chapter 4, R73 to R75, R136, R162). -/

namespace Sys2Proof.Machine

/-! ### Points in time -/

/-- An instant of the present crossing, in LSB_phi from the start of crossing 0 (R100). -/
def Block.absAt (b : Block) (p : Point) : Nat := 2048 * b.time.now + 64 * p.cycle.toNat + p.phase.toNat

/-- The point of an instant. -/
def pointOf (t : Nat) : Point := ⟨BitVec.ofNat 5 (t / 64), BitVec.ofNat 6 t⟩

/-- The instant of an entry's leading edge. -/
def Entry.lead (e : Entry) : Nat := 2048 * e.leadAt + 64 * e.leadPt.cycle.toNat + e.leadPt.phase.toNat

/-- The stamp of an entry's leading edge (R100). -/
def Entry.stamp (e : Entry) : Nat := Sys2Proof.Machine.stamp e.leadSlot e.leadPt

/-- 8 core cycles, the dead time of R103, in LSB_phi. -/
def deadTime : Nat := 512

/-- The last instant of the present crossing has passed t. -/
def Block.past (b : Block) (t : Nat) : Bool := decide (t < 2048 * (b.time.now + 1))

/-- The array stamps edges: an F-role whose core PLL has locked (R36). -/
def Block.edgesRun (b : Block) : Bool := b.running && !b.cRole && b.time.everLocked

/-! ### The interval unit's edges (R114) -/

/-- W of a programme in crossings (R125). -/
def Block.windowLen (b : Block) (p : Nat) : Nat := bits (b.reg (0x410001 + 256 * p)) 18 9 + 1

/-- The first crossing of the open window that covers a crossing, else the crossing itself: of two edges of one source in one span
only the first counts (R117). -/
def Block.spanStart (b : Block) (x : Nat) : Nat :=
  match b.iu.window with
  | some (p, a) => if a ≤ x ∧ x < a + b.windowLen p then a else x
  | none => x

/-- An edge of a source selector, kept for a window that opens at this crossing's boundary or is open. -/
def Block.iuEdge (b : Block) (selector t : Nat) : Block :=
  let same := fun (e : Nat × Nat × Nat) => e.1 == selector && b.spanStart e.2.1 == b.spanStart (t / 2048)
  b.onIu fun i =>
    match i.edges.find? same with
    | some e => if e.2.2 ≤ t then i else { i with edges := (i.edges.filter fun q => !same q) ++ [(selector, t / 2048, t)] }
    | none => { i with edges := i.edges ++ [(selector, t / 2048, t)] }

/-- The crossing markers of the crossing that begins: those that arrive in it, and one at its boundary for every lane that sends a
frame (R114, R121; assumption 117). -/
def Block.markerEdges (b : Block) (l : List (Lane × Point)) : Block :=
  let out := (b.frm.lanes.filter fun q => q.2.line.isSome && q.2.prbs % 2 == 0).map Prod.fst
  let b := forEach out b fun n b => b.iuEdge (0x80 + n) (2048 * b.time.now)
  forEach l b fun p b => b.iuEdge (0x40 + p.1.val) (b.absAt p.2)

/-! ### Entries (R104 to R108) -/

/-- The open entry of a channel: the last of its queue, not yet closed. -/
def Chan.openEntry (k : Chan) : Option Entry :=
  match k.entries.getLast? with
  | some e => if e.closed.isNone then some e else none
  | none => none

/-- Replace the last entry. -/
def Chan.setLast (k : Chan) (e : Entry) : Chan := { k with entries := k.entries.dropLast ++ [e] }

/-- A free hold bank, the lower-numbered first (R74). -/
def Chan.freeBank (k : Chan) : Option (Fin 2) :=
  if k.bank0 = .free then some 0 else if k.bank1 = .free then some 1 else none

/-- A bank's state. -/
def Chan.bank (k : Chan) (n : Nat) : Bank := if n = 0 then k.bank0 else k.bank1

/-- Put a bank into a state. -/
def Chan.setBank (k : Chan) (n : Nat) (v : Bank) : Chan := if n = 0 then { k with bank0 := v } else { k with bank1 := v }

/-- TOT of a trailing edge (R108). -/
def totOf (lead trail : Nat) : Nat := min 511 ((trail - lead) / 16)

/-- An entry closed by a trailing edge stamped at t, in the crossing that contains the later of t and the end of the dead
time (R104). -/
def Entry.closeAt (e : Entry) (t : Nat) : Entry :=
  { e with tot := totOf e.lead t, fallAt := some t, closed := some (max t (e.lead + deadTime) / 2048) }

/-- An entry closed by saturation (R104, R108). -/
def Entry.saturate (e : Entry) : Entry :=
  { e with tot := 511, fallAt := none, closed := some ((e.lead + 8192) / 2048) }

/-- Close the open entry and give the trailing edge to the interval unit. -/
def Block.closeEntry (b : Block) (c : Nat) (e : Entry) (t : Nat) : Block :=
  (b.onChan c fun k => k.setLast (e.closeAt t)).iuEdge (0x300 + c) t

/-- Orphans of the HT discriminator (R105). -/
def Block.orphans (b : Block) (c n : Nat) : Block :=
  if n = 0 then b else (b.bump 0x400002 n).raiseOnce 0x34 0 [.id 8 c, b.hereFld]

/-- The newest pending HT edge within 2047 LSB_phi before t. -/
def claimable (pend : List Nat) (t : Nat) : Option Nat := (pend.filter fun h => decide (t ≤ h + 2047)).getLast?

/-- The channel is watched by the timeout classifier (R162). -/
def Block.chWatched (b : Block) (c : Nat) : Bool := (b.rs (0x490001 + 256 * c)).testBit 31 && b.rs 0x480004 != 0

/-- The crossing from which the channel's timeout counter runs. -/
def Block.timerFrom (b : Block) (c : Nat) : Nat := max (b.chan c).timer b.chSince

/-- A bit of the SILENT map. -/
def Block.setSilent (b : Block) (c : Nat) (v : Bool) : Block :=
  let key := 0x481201 + c / 32
  let m := 2 ^ (c % 32)
  let w := b.reg key
  b.setReg key (if v then w ||| m else w - (w &&& m))

/-- A leading edge of a masked channel: only counted (R81, R85). -/
def Block.countLead (b : Block) (c t : Nat) : Block :=
  b.onChan c fun k => { k with ltCount := k.ltCount + 1, lastLead := some t, high := true }

/-- The timeout counter restarts and the channel is not SILENT any more (R162). -/
def Block.heard (b : Block) (c : Nat) : Block :=
  let b := if (b.chan c).silent then b.setSilent c false else b
  b.onChan c fun k => { k with timer := b.time.now, silent := false }

/-- No bank is free: the hit carries no amplitude (R75). The event's count in the orbit is that channel's own, at the raise: R98 says
neither whose nor when (assumption 104). -/
def Block.holdBusy (b : Block) (c : Nat) : Block :=
  let b := b.onChan c fun k => { k with busyOrbit := k.busyOrbit + 1 }
  (b.bump (0x310004 + 256 * c) 1).raiseOnce 0x28 0 [.id 8 c, .cnt 16 (b.chan c).busyOrbit]

/-- An entry that opens at instant t with its bank and the pending HT edge it claims. -/
def Block.newEntry (b : Block) (c t : Nat) (p : Point) : Entry :=
  let k := b.chan c
  let ht := claimable k.htPend t
  { leadSlot := b.time.slot, leadPt := p, leadAt := b.time.now,
    htDelta := ht.map fun h => (h : Int) - t,
    bank := k.freeBank, amp := if k.freeBank.isNone then .noHold else .waiting,
    trigMask := (b.rs (chConfigKey c)).testBit 29 }

/-- What the primitive sees of an entry (R84, R173): nothing under TRIG_MASK. -/
def Entry.leadsOf (e : Entry) (c x : Nat) : List Lead :=
  if e.trigMask then [] else [{ ch := c, lead := e.lead, cross := x, ht := e.htDelta.map fun d => (d, x) }]

/-- How long after its LT leading edge a hit's holds close, in LSB_phi: T_peak + HOLD_TRIM / 2 ns under its set (R73). -/
def Block.holdDelay (b : Block) (s : CfgSet) (c : Nat) : Nat :=
  let half := 2 * b.tPeakIn s + signedOf 4 (bits (b.rsIn s (chConfigKey c)) 15 12)
  (roundDiv (half * (b.time.fx * 2048 : Nat)) (2 * 10 ^ 12)).toNat

/-- An LT leading edge of an unmasked channel (R104, R105). -/
def Block.openAt (b : Block) (c t : Nat) (p : Point) : Block :=
  let k := b.chan c
  let e := b.newEntry c t p
  let lost := k.htPend.length - (if e.htDelta.isSome then 1 else 0)
  let k := match k.freeBank with
    | some n => k.setBank n.val (.taken t (t + b.holdDelay b.active c))
    | none => k
  let b := b.onChan c fun _ => { k with entries := k.entries ++ [e], htPend := [] }
  let b := b.countLead c t
  let b := { b with leads := b.leads ++ e.leadsOf c b.time.now }
  let b := b.iuEdge (0x100 + c) t
  let b := b.orphans c lost
  let b := b.heard c
  if e.bank.isNone then b.holdBusy c else b

/-- An LT rise inside the dead time (R103, R104): the earlier trailing edge is set aside. MERGED_COUNT counts the rises
(assumption 107). -/
def Block.mergeRise (b : Block) (c t : Nat) : Block :=
  match (b.chan c).openEntry with
  | some e =>
    match e.fallAt with
    | some _ =>
      if t < e.lead + deadTime then
        (b.onChan c fun k =>
          { k.setLast { e with merged := true, fallAt := none } with high := true }).bump 0x400004 1
      else b
    | none => b
  | none => b

/-- A TDC ignores an edge at instant t: it has stamped one of the kind less than 8 core cycles before (R103). -/
def blindTo (last : Option Nat) (t : Nat) : Bool :=
  match last with
  | some l => decide (t < l + deadTime)
  | none => false

/-- The stamp of a trailing edge: one that the TDC ignores is taken as stamped at the end of its 8 core cycles (R104). -/
def Chan.fallStamp (k : Chan) (t : Nat) : Nat :=
  match k.lastTrail with
  | some a => max t (a + deadTime)
  | none => t

/-- The trailing-edge TDC of a channel that is unmasked, or whose entry is still open, stamps an edge (R81, R103). -/
def Block.stampTrail (b : Block) (c t : Nat) : Block :=
  let k := b.chan c
  let stamped := !blindTo k.lastTrail t && (!b.chMasked c || k.openEntry.isSome)
  b.onChan c fun k => { k with high := false, lastTrail := if stamped then some t else k.lastTrail }

/-- An LT trailing edge at instant t (R103, R104). -/
def Block.ltTrail (b : Block) (c t : Nat) : Block :=
  let at_ := (b.chan c).fallStamp t
  let b := b.stampTrail c t
  match (b.chan c).openEntry with
  | some e =>
    if e.lead + 8192 ≤ t then b.onChan c fun k => k.setLast e.saturate
    else if e.lead + deadTime ≤ t then b.closeEntry c e at_
    else if e.lead ≤ t then b.onChan c fun k => k.setLast { e with fallAt := some at_ }
    else b
  | none => b

/-- The dead time ends with the output low (R104). -/
def Block.deadEnd (b : Block) (c : Nat) : Block :=
  match (b.chan c).openEntry with
  | some e =>
    match e.fallAt with
    | some f => if b.past (e.lead + deadTime) then b.closeEntry c e f else b
    | none => b
  | none => b

/-- An LT leading edge outside every dead time: counted, and an entry opens where the channel is unmasked. An entry whose
dead time has ended low is closed first; while one is still open the output cannot rise. -/
def Block.ltRise (b : Block) (c t : Nat) (p : Point) : Block :=
  let b := b.deadEnd c
  if (b.chan c).openEntry.isSome then b
  else if b.chMasked c then b.countLead c t
  else b.openAt c t p

/-- An LT leading edge at instant t (R103, R104). A rise within 8 core cycles of the last leading edge is merged. -/
def Block.ltLead (b : Block) (c t : Nat) (p : Point) : Block :=
  match (b.chan c).lastLead with
  | some l => if t < l + deadTime then b.mergeRise c t else b.ltRise c t p
  | none => b.ltRise c t p

/-- 8192 LSB_phi have passed (R104). -/
def Block.saturated (b : Block) (c : Nat) : Block :=
  match (b.chan c).openEntry with
  | some e => if e.fallAt.isNone && b.past (e.lead + 8192) then b.onChan c fun k => k.setLast e.saturate else b
  | none => b

/-- Give an HT edge to the lead of the entry that it was assigned to (R173). -/
def leadHt (l : List Lead) (c at_ : Nat) (d : Int) (x : Nat) : List Lead :=
  l.map fun q => if q.ch = c ∧ q.lead = at_ then { q with ht := some (d, x) } else q

/-- An HT leading edge at instant t (R103, R105). HT_EXTRA_COUNT counts the further edges (assumption 107). -/
def Block.htLead (b : Block) (c t : Nat) : Block :=
  let k := b.chan c
  if blindTo k.lastHt t then b
  else match k.openEntry with
    | some e =>
      let b := b.iuEdge (0x200 + c) t
      if e.htDelta.isNone then
        let d : Int := (t : Int) - e.lead
        let b := b.onChan c fun k => { k.setLast { e with htDelta := some d } with lastHt := some t }
        { b with leads := leadHt b.leads c e.lead d b.time.now }
      else (b.onChan c fun k => { k.setLast { e with htExtra := true } with lastHt := some t }).bump 0x400003 1
    | none =>
      if b.chMasked c then b
      else (b.onChan c fun k => { k with htPend := k.htPend ++ [t], lastHt := some t }).iuEdge (0x200 + c) t

/-- Pending HT edges whose 2048 LSB_phi end in the present crossing or before are orphans (R105). -/
def Block.dropOrphans (b : Block) (c : Nat) : Block :=
  let gone := (b.chan c).htPend.filter fun h => b.past (h + 2048)
  (b.onChan c fun k => { k with htPend := k.htPend.filter fun h => !b.past (h + 2048) }).orphans c gone.length

/-! ### Hold pairs (R73, R131, R136) -/

/-- The slot period that contains an instant: two to a crossing (R127). -/
def periodOf (t : Nat) : Nat := t / 1024

/-- A pair becomes pending (R131). -/
def Block.addPair (b : Block) (p : Pair) : Block :=
  let b := b.onAdc fun a => { a with pairs := a.pairs ++ [p] }
  b.peak 0x44000C b.adc.pairs.length

/-- A bank whose holds close at instant t under a set (R532). -/
def Block.heldBank (b : Block) (s : CfgSet) (c t : Nat) : Bank := .pending (b.gainCode s c t false) (b.gainCode s c t true)

/-- Both holds of a bank close, where their instant has come: with the peaking time, the pedestals and the polarity of the set that
governs the crossing of the hit's LT leading edge (R68, R73). -/
def Block.holdClose (b : Block) (c n : Nat) : Block :=
  match (b.chan c).bank n with
  | .taken lead due =>
    if b.past due then
      let v := b.heldBank (b.setOf (lead / 2048)) c due
      (b.onChan c fun k => k.setBank n v).addPair { ch := c, bank := n, elig := periodOf due + 2 }
    else b
  | _ => b

/-- The pile-up test at instant t: the LT output is high, or a leading edge lies within 4 x T_peak before it (R141). -/
def Block.pileup (b : Block) (c t : Nat) : Bool :=
  let k := b.chan c
  k.high ||
    (match k.lastLead with
     | some l => decide ((t - l) * 1000000000000 ≤ 4 * b.tPeakIn b.active * b.time.fx * 2048)
     | none => false)

/-- A crossing is affected by the supply warning (R501). -/
def Block.affected (b : Block) (x : Nat) : Bool := b.env.affected.contains x

/-- A baseline capture of a channel at the boundary of the present crossing (R136). -/
def Block.capture (b : Block) (c : Nat) : Block :=
  match (b.chan c).freeBank with
  | some n =>
    let t := 2048 * b.time.now
    let p : Pair := { ch := c, bank := n.val, elig := periodOf t + 2, cap := true,
                      pileup := b.pileup c t, supply := b.affected b.time.now }
    let v := b.heldBank b.active c t
    (b.onChan c fun k => k.setBank n.val v).addPair p
  | none => b.bump 0x440008 1

/-- A channel's timeout counter reaches T (R162). -/
def Block.timeout (b : Block) (c : Nat) : Block :=
  let was := (b.chan c).silent
  let b := b.onChan c fun k => { k with silent := true, timer := b.time.now }
  let b := if was then b else (b.setSilent c true).raiseOnce 0x50 0 [.id 8 c, b.hereFld]
  if (b.rs (0x490001 + 256 * c)).testBit 30 then b.capture c else b

/-! ### Calibration injection (R62, R63, R86, R87) -/

/-- The charge that INJ_CHARGE sets, in 0.01 fC (R86). -/
def injCharge (w : Nat) : Nat := if w.testBit 10 then 200 * bits w 9 0 else 10 * bits w 9 0

/-- A channel takes part in a fire (R87). -/
def Block.injects (b : Block) (c mask : Nat) : Bool :=
  mask.testBit (c / 16) && (b.rs (chConfigKey c)).testBit 31 && !b.poweredDown c && !b.settling c && !b.plateForbids c

/-- A channel is injected at instant t, with charge of the signal's sign. A value field of 0 injects nothing. -/
def Block.inject (b : Block) (c t : Nat) (command : Bool) : Block :=
  let q := injCharge (b.rs (chConfigKey c))
  if q = 0 then b else b.deposit c t (b.signalSign b.active * q) command

/-- A fire in the present crossing: its instant is an edge of source 0x004, and every channel that takes part is injected. -/
def Block.fire (b : Block) (mask : Nat) (p : Point) (command : Bool) : Block :=
  let t := b.absAt p
  forEach ((List.range 256).filter fun c => b.injects c mask) (b.iuEdge 4 t) fun c b => b.inject c t command

/-- The fires that commands have named for the present crossing. -/
def Block.firesNow (b : Block) : Block :=
  forEach (b.time.calDone.filter fun f => f.1 == b.time.now) b fun f b => b.fire f.2.1 f.2.2 true

/-- A commanded injection of the present crossing gives way to the timetable's (R63). -/
def Block.supersede (b : Block) (c : Nat) : Block :=
  b.onChan c fun k => { k with pulses := k.pulses.filter fun q => !(q.2.2 && q.1 / 2048 == b.time.now) }

/-- A timetable fire in the present crossing: channels that a command fires in it too are injected once, at the timetable's instant, and
counted. -/
def Block.timetableFire (b : Block) (mask : Nat) (p : Point) : Block :=
  let same := orBits ((b.time.calDone.filter fun f => f.1 == b.time.now).flatMap fun f => bitsSet 16 f.2.1)
  let twice := (List.range 256).filter fun c => b.injects c mask && same.testBit (c / 16)
  let b := forEach twice (b.bump 0x290001 twice.length) fun c b => b.supersede c
  b.fire mask p false

/-! ### Meanings -/

/-- LT_LEADING_EDGE (R78, R104): the fast shaper has reached the threshold. -/
def execLtLeadingEdge (c : Ch) (at_ : Point) (level : Int) (s : State) : Host.Outcome State Fault Refusal :=
  s.run fun b => b.when (b.edgesRun && decide (b.thresholdLT c.val ≤ level)) fun b => b.ltLead c.val (b.absAt at_) at_

/-- LT_RISE_MERGED (R78, R103). -/
def execLtRiseMerged (c : Ch) (at_ : Point) (level : Int) (s : State) : Host.Outcome State Fault Refusal :=
  s.run fun b => b.when (b.edgesRun && decide (b.thresholdLT c.val ≤ level)) fun b => b.mergeRise c.val (b.absAt at_)

/-- LT_TRAILING_EDGE (R78, R104): the fast shaper has come down to the threshold. -/
def execLtTrailingEdge (c : Ch) (at_ : Point) (level : Int) (s : State) : Host.Outcome State Fault Refusal :=
  s.run fun b => b.when (b.edgesRun && decide (level ≤ b.thresholdLT c.val)) fun b => b.ltTrail c.val (b.absAt at_)

/-- DEAD_TIME_END (R104). -/
def execDeadTimeEnd (c : Ch) (s : State) : Host.Outcome State Fault Refusal :=
  s.run fun b => b.when b.edgesRun fun b => b.deadEnd c.val

/-- ENTRY_SATURATED (R104). -/
def execEntrySaturated (c : Ch) (s : State) : Host.Outcome State Fault Refusal :=
  s.run fun b => b.when b.edgesRun fun b => b.saturated c.val

/-- HT_LEADING_EDGE (R78, R105). -/
def execHtLeadingEdge (c : Ch) (at_ : Point) (level : Int) (s : State) : Host.Outcome State Fault Refusal :=
  s.run fun b => b.when (b.edgesRun && decide (b.thresholdHT c.val ≤ level)) fun b => b.htLead c.val (b.absAt at_)

/-- HT_ORPHAN (R105). -/
def execHtOrphan (c : Ch) (s : State) : Host.Outcome State Fault Refusal :=
  s.run fun b => b.when b.edgesRun fun b => b.dropOrphans c.val

/-- HOLD_CLOSE (R73, R131). -/
def execHoldClose (c : Ch) (bank : Fin 2) (s : State) : Host.Outcome State Fault Refusal :=
  s.run fun b => b.when b.edgesRun fun b => b.holdClose c.val bank.val

/-- CHANNEL_TIMEOUT (R162). -/
def execChannelTimeout (c : Ch) (s : State) : Host.Outcome State Fault Refusal :=
  s.run fun b =>
    b.when (b.edgesRun && !b.chMasked c.val && b.chWatched c.val && decide (b.timerFrom c.val + b.rs 0x480004 ≤ b.time.now))
      fun b => b.timeout c.val

end Sys2Proof.Machine
end

