-- ==== Sys2Proof/Machine/Classify.lean ====
section
/-! DEFINITION. Hit classification: the classifiers, zero suppression, the record (R77, R109, R158 to R171), and the trigger
primitive (R173 to R175). -/

namespace Sys2Proof.Machine

/-! ### Slew code (R109, R161) -/

/-- Slew code of a hit from its HT_DELTA. -/
def slewCode : Option Int → Nat
  | none => 0
  | some d => if d < -255 then 15 else if d < 0 then 14 else if d ≤ 1 then 1 else min 13 (Nat.log2 d.toNat + 1)

/-- The slew-rate classifier fails a code (R160). -/
def slewFails (code lim : Nat) : Bool := code == 15 || (decide (1 ≤ code) && decide (code ≤ 13) && decide (lim < code))

/-! ### The classifiers (R77, R160, R164) -/

/-- Amplitude, gain and clip of a pair's codes (R77). -/
def chooseGain (hg lg : BitVec 12) : Nat × Nat × Bool :=
  if 3968 ≤ hg.toNat then (lg.toNat, 1, lg.toNat == 4095) else (hg.toNat, 0, lg.toNat == 4095)

/-- The width classifier fails an entry. -/
def Block.widthFails (b : Block) (e : Entry) : Bool :=
  decide (e.tot < b.rsAt e.leadAt 0x480001) || decide (b.rsAt e.leadAt 0x480002 < e.tot)

/-- A hit is suppressed (R164). -/
def Block.suppressed (b : Block) (c : Nat) (e : Entry) : Bool :=
  match e.amp with
  | .codes hg lg =>
    let a := chooseGain hg lg
    let k := b.chan c
    let off := bits (b.rsAt e.leadAt (0x490001 + 256 * c)) 23 16
    a.2.1 == 0 && off != 0 && decide (16 ≤ k.nHG) && decide ((16 * a.1 : Nat) < k.bHG + (16 * off : Nat))
  | _ => false

/-- The classifier that discards an entry, as its counter in 4810: 1 runt, 2 width, 3 slew, 4 zero suppression (R160). -/
def Block.discardedBy (b : Block) (c : Nat) (e : Entry) : Option Nat :=
  let act := b.rsAt e.leadAt 0x480005
  if (b.rsAt e.leadAt (0x490001 + 256 * c)).testBit 29 then none
  else if e.htDelta.isNone ∧ act.testBit 0 then some 1
  else if b.widthFails e ∧ act.testBit 1 then some 2
  else if slewFails (slewCode e.htDelta) (b.rsAt e.leadAt 0x480003) ∧ act.testBit 2 then some 3
  else if b.suppressed c e then some 4
  else none

/-! ### The record (R166, R167, R169, R170) -/

/-- The supply warning was in force between two crossings (R166). -/
def Block.supplyIn (b : Block) (lo hi : Nat) : Bool := b.env.affected.any fun x => decide (lo ≤ x) && decide (x ≤ hi)

/-- The record that an entry forms. -/
def Block.recordOf (b : Block) (c : Nat) (e : Entry) : Word64 :=
  let runt := e.htDelta.isNone
  let sup := b.supplyIn e.leadAt b.time.now
  match e.amp with
  | .codes hg lg =>
    let a := chooseGain hg lg
    hitRecord c a.2.1 a.1 e.stamp e.tot (slewCode e.htDelta) runt a.2.2 sup
  | .abandoned => stampRecord c 1 e.stamp e.tot (slewCode e.htDelta) runt sup
  | _ => stampRecord c 0 e.stamp e.tot (slewCode e.htDelta) runt sup

/-- The withdrawal of an amplitude: counted, and named as any withdrawal (R167). -/
def Block.ampWithdrawn (b : Block) (c x : Nat) : Block :=
  ((b.bump 0x481006 1).bump 0x214008 1).raiseOnce 0x10 0 [.id 8 8, .id 12 c, b.nameFld x, .cnt 16 1]

/-- An entry that is kept forms its record (R166). -/
def Block.formRecord (b : Block) (c : Nat) (e : Entry) : Block :=
  let w := b.recordOf c e
  let b := b.onStk fun k => { k with formed := k.formed ++ [⟨c / 16, w, e.leadAt, b.time.now⟩] }
  let b := (b.bump 0x481007 1).bump (0x490004 + 256 * c) 1
  match e.amp with
  | .abandoned => b.ampWithdrawn c e.leadAt
  | .codes _ _ => b
  | _ => b.bump 0x481005 1

/-- The oldest entry of a channel may be classified: closed in an earlier crossing, its amplitude settled (R106, R158). -/
def Entry.ready (e : Entry) (now : Nat) : Bool :=
  (match e.closed with
   | some x => decide (x < now)
   | none => false) &&
  (match e.amp with
   | .waiting => false
   | .noHold => true
   | _ => decide (e.settled ≤ now))

/-- Classify an entry (R160, R166, R168). -/
def Block.classify (b : Block) (c : Nat) (e : Entry) : Block :=
  match b.discardedBy c e with
  | some k => (b.bump (0x481000 + k) 1).bump (0x490005 + 256 * c) 1
  | none => b.formRecord c e

/-! ### The trigger primitive (R173 to R175) -/

/-- An edge counts under a value of PRIM_MODE (R173): its HT edge was assigned by the end of X+1. -/
def leadCounts (mode slewMax x : Nat) (q : Lead) : Bool :=
  if mode = 0 then true
  else match q.ht with
    | none => false
    | some (d, at_) => decide (at_ ≤ x + 1) && (mode == 1 || !slewFails (slewCode (some d)) slewMax)

/-- The primitive of crossing X: sixteen counts of three bits, each held at 7. -/
def Block.primitive (b : Block) (x : Nat) : Ref48 :=
  let l := b.leads.filter fun q => q.cross == x && leadCounts (b.rsAt x 0x480007) (b.rsAt x 0x480003) x q
  BitVec.ofNat 48 (((List.range 16).map fun r => min 7 (l.filter fun q => q.ch / 16 == r).length * 2 ^ (3 * r)).sum)

/-- Sum of the sixteen counts of a primitive. -/
def primSum (p : Ref48) : Nat := ((List.range 16).map fun r => bits p.toNat (3 * r + 2) (3 * r)).sum

/-- At crossing X+2 the primitive of X is formed; it is kept until it has been sent (R10). -/
def Block.formPrimitive (b : Block) : Block :=
  if b.cRole ∨ b.time.now < 2 then b
  else
    let x := b.time.now - 2
    let p := b.primitive x
    let b := b.onFrm fun t => { t with primLog := (t.primLog.filter fun q => decide (x < q.1 + 4)) ++ [(x, p)] }
    { b with leads := b.leads.filter fun q => decide (x < q.cross) }

/-- At the resync crossing E the primitives formed from E onwards for earlier crossings are 0 (R175). -/
def Block.clearPrimitives (b : Block) : Block :=
  let e := b.time.now
  let b := b.onFrm fun t => { t with primLog := t.primLog.map fun q => if e ≤ q.1 + 2 then (q.1, 0) else q }
  { b with leads := [] }

/-! ### Meanings -/

/-- CLASSIFY_ENTRY (R158, R160): the oldest entry of the channel, where it is ready. -/
def execClassifyEntry (c : Ch) (s : State) : Host.Outcome State Fault Refusal :=
  s.run fun b =>
    match (b.chan c.val).entries with
    | e :: t =>
      b.when (b.running && !b.cRole && e.ready b.time.now) fun b =>
        (b.onChan c.val fun k => { k with entries := t }).classify c.val e
    | [] => b

end Sys2Proof.Machine
end

