-- ==== Sys2Proof/Machine/TimeOps.lean ====
section
/-! DEFINITION. Timekeeping: time of day and its servo, timing domains, the timetable (chapter 2). -/

namespace Sys2Proof.Machine

/-! ### Time of day (R43 to R45) -/

/-- Time of day in units of 2^-32 ns. -/
def todVal (t : Tod) : Nat := (t.sec * 1000000000 + t.nano) * 2 ^ 32 + t.frac

/-- Time of day from units of 2^-32 ns. -/
def todOf (n : Nat) : Tod :=
  { sec := n / 2 ^ 32 / 1000000000 % 2 ^ 64, nano := n / 2 ^ 32 % 1000000000, frac := n % 2 ^ 32 }

/-- The 32 core cycles of a crossing each add the increment (R43). -/
def Block.todAdvance (b : Block) : Block :=
  b.onTime fun t => { t with tod := todOf ((todVal t.tod : Int) + 32 * t.inc).toNat }

/-- The 1000 ppm of R45 of an increment base. -/
def ppm1000 (base : Int) : Int := base.tdiv 1000

/-- The servo's error in ps, as 2802.07 holds it; beyond I32 the entry reads as a free value. -/
def errorReg (e : Int) : Nat :=
  let ps := (e * 1000).tdiv (2 ^ 32 : Nat)
  if -(2 ^ 31 : Nat) ≤ ps ∧ ps < (2 ^ 31 : Nat) then twos 32 ps else 2 ^ 32

/-- One run of the servo at a slot 0 with announced time of day a and N core cycles in the orbit (R45). -/
def Block.servo (b : Block) (a : Tod) (n : Nat) : Block :=
  let e : Int := (todVal a : Int) - (todVal b.time.tod : Int)
  let b := b.setReg 0x280207 (errorReg e)
  if (b.reg 0x280206 * 2 ^ 32 : Nat) < e.natAbs then
    (b.onTime fun t => { t with todCopy := some a }).raise 0x87 [.int 32 (e.tdiv (2 ^ 32 : Nat))]
  else
    let base := b.time.base + e.tdiv (8 * n : Nat)
    let inc := base + e.tdiv (n : Nat)
    let lim := ppm1000 base
    if lim < ((inc - base).natAbs : Int) then
      (b.onTime fun t => { t with base := base, inc := if 0 ≤ e then base + lim else base - lim }).raise 0x88
        [.int 32 ((e * 1000).tdiv (2 ^ 32 : Nat))]
    else b.onTime fun t => { t with base := base, inc := inc }

/-- The increment comes from the announcements of two consecutive orbits (R44); where one is missing, the next pair gives it. -/
def Block.todIncrement (b : Block) (a : Tod) (lastLen : Nat) : Block :=
  if b.time.incSet then b
  else match b.time.todPrev with
    | some p =>
      if lastLen = 0 then b else
      let inc := ((todVal a : Int) - (todVal p : Int)).tdiv (32 * lastLen : Nat)
      b.onTime fun t => { t with inc := inc, base := inc, incSet := true, todPrev := none }
    | none => b.onTime fun t => { t with todPrev := some a }

/-- The time-of-day work of a slot 0 with the announcement for it (R44, R45): the first announcement is copied, the one for the
following orbit sets the increment, and the servo runs from then on while 2802.05 is 1. A step found in the last orbit is made now. -/
def Block.todSlot0 (b : Block) (a : Option Tod) (lastLen : Nat) : Block :=
  match a with
  | none => b.onTime fun t => { t with todPrev := none }
  | some a =>
    if !b.time.todSet then b.onTime fun t => { t with tod := a, todSet := true, todCopy := none, todPrev := some a }
    else
      let b := match b.time.todCopy with
        | some _ => b.onTime fun t => { t with tod := a, todCopy := none }
        | none => b
      let b := b.todIncrement a lastLen
      if b.reg 0x280205 = 1 ∧ b.nO ≠ 0 then b.servo a (32 * b.nO) else b

/-! ### Timing domains and trackers (R46 to R53) -/

/-- Tracker A or B. -/
def Block.dom (b : Block) (d : Nat) : Tracker := if d = 0 then b.time.domA else b.time.domB

/-- A change of tracker A or B. -/
def Block.onDom (b : Block) (d : Nat) (f : Tracker → Tracker) : Block :=
  b.onTime fun t => if d = 0 then { t with domA := f t.domA } else { t with domB := f t.domB }

/-- Types of the timing words of slots 0 to 7. -/
def wordType (w : Ref48) : Nat := bits w.toNat 47 44

/-- A timing word is of its slot's type (R46). -/
def wordFits (slot : Nat) (w : Ref48) : Bool :=
  if slot < 8 then wordType w == slot + 1 && (slot != 4 || decide (bits w.toNat 29 0 < 1000000000))
  else wordType w == 0 || wordType w == 15

/-- Field of the word of a slot. -/
def Tracker.word (t : Tracker) (slot hi lo : Nat) : Nat := bits (tabGet 0 t.words slot).toNat hi lo

/-- The orbit number, orbit length and time of day that a complete set of words announces. -/
def Tracker.announced (t : Tracker) : Nat × Nat × Tod :=
  (t.word 0 23 0 * 2 ^ 24 + t.word 1 23 0, t.word 1 37 24 + 1,
    { sec := t.word 2 31 0 * 2 ^ 32 + t.word 3 31 0, nano := t.word 4 29 0, frac := t.word 5 31 0 })

/-- The length of orbit n by the local counters: the one logged, the shadow's where a swap is armed for it, else the active set's. -/
def Block.lengthOf (b : Block) (n : Nat) : Nat :=
  match b.time.log.reverse.find? fun r => r.orbit == n with
  | some r => r.len
  | none => if b.sets.armed = some n then b.rsIn b.sets.shd 0x280003 else b.nO

/-- Orbit length for the counters: before there is a set, the longest. -/
def Block.lenO (b : Block) : Nat := if b.nO = 0 then 16384 else b.nO

/-- Slot of a crossing by the local counters, also of one that no logged orbit holds. -/
def Block.slotNear (b : Block) (x : Int) : Nat :=
  match b.orbitAt x.toNat with
  | some r => x.toNat - r.start
  | none => ((x - (b.time.now : Int) + (b.time.slot : Int)) % (b.lenO : Int)).toNat

/-- The crossing nearest to x whose slot by the local counters is the one named. -/
def Block.slotCrossing (b : Block) (x : Int) (slot : Nat) : Int :=
  let n : Int := (b.lenO : Int)
  let k := ((slot : Int) - (b.slotNear x : Int)) % n
  x + (if n < 2 * k then k - n else k)

/-- A word that disagrees with the local counters (R49, R55). -/
def Block.mismatch (b : Block) (d slot : Nat) : Block :=
  (b.bump (0x282105 + 256 * d) 1).raise 0x85 [.id 1 d, .id 14 slot]

/-- The first crossing boundary of an orbit at least n crossings ahead. -/
def Block.boundaryAhead (b : Block) (n : Nat) : Nat :=
  let next := b.time.now + (b.nO - b.time.slot)
  if b.time.now + n ≤ next then next else next + b.lengthOf ((b.time.orbit + 1) % 2 ^ 48)

/-- The first orbit that begins at least n crossings ahead. -/
def Block.orbitIn (b : Block) (n : Nat) : Nat :=
  if b.nO = 0 then b.time.orbit + 1
  else
    let at_ := b.boundaryAhead n
    (b.time.orbit + 1 + (at_ - (b.time.now + (b.nO - b.time.slot))) / b.nO) % 2 ^ 48

/-- The release orbit that a decision in the present crossing takes (R446). -/
def Block.releaseOrbit (b : Block) : Nat := b.orbitIn (2 * b.rs 0x280600 + 64)

/-- A switch to a domain, or to holdover (target 2), at a crossing. -/
def Block.planSwitch (b : Block) (target at_ : Nat) : Block := b.onTime fun t => { t with switchTo := some ⟨target, at_, false⟩ }

/-- A switch to a domain at the next orbit boundary that is at least n crossings ahead. -/
def Block.switchAtOrbit (b : Block) (target n : Nat) : Block :=
  b.onTime fun t => { t with switchTo := some ⟨target, t.now + n, true⟩ }

/-- The switch that is planned takes place in the present crossing. -/
def Block.switchDue (b : Block) : Option Nat :=
  match b.time.switchTo with
  | some w => if w.from_ ≤ b.time.now ∧ (!w.orbit ∨ b.time.slot = 0) then some w.target else none
  | none => none

/-- Enter holdover (R52). -/
def Block.enterHoldover (b : Block) : Block :=
  (b.onTime fun t => { t with selected := none, holdover := true, switchTo := none }).raise 0x83 [b.hereFld]

/-- An offset of r LSB_phi is slewed out (R51). -/
def Block.slewBy (b : Block) (r : Int) : Block :=
  b.onTime fun t => { t with slew := 4096 * r, slewStep := if r.natAbs ≤ 4095 then r else if 0 ≤ r then 4095 else -4095 }

/-- The core PLL takes a domain with an offset of its residual (R51). -/
def Block.takeDomain (b : Block) (d : Fin 2) : Block :=
  let r := (b.dom d).residual
  ((b.onTime fun t => { t with selected := some d, holdover := false, switchTo := none }).slewBy r).raise 0x82
    [.id 1 d, .id 1 0, .int 32 r]

/-- One crossing of the slew: towards zero by the step, never past it (R51). -/
def Block.slewOnce (b : Block) : Block :=
  b.onTime fun t =>
    if t.slew.natAbs ≤ t.slewStep.natAbs then { t with slew := 0, slewStep := 0 }
    else { t with slew := t.slew - t.slewStep }

/-- A request for a switch (R50): refused where the domain is not QUALIFIED. -/
def Block.requestSwitch (b : Block) (d : Nat) : Block :=
  if (b.dom d).state = .qualified then b.switchAtOrbit d 2
  else b.raise 0x82 [.id 1 d, .id 1 1, .int 32 (b.dom d).residual]

/-- A domain qualifies in holdover, or while holdover is planned: it is taken (R52). Where the other has been taken for the same
boundary, the preferred one is. -/
def Block.takeQualified (b : Block) (d : Fin 2) : Block :=
  match b.time.switchTo with
  | some w =>
    if w.target = 2 then b.planSwitch d w.from_
    else if w.target ≠ d.val ∧ w.from_ = b.time.now + 1 ∧ b.reg 0x282002 = d.val then b.planSwitch d w.from_
    else b
  | none => b.when b.time.holdover fun b => b.planSwitch d (b.time.now + 1)

/-- What a domain that has just qualified does (R50, R52): the first is selected, the preferred where both qualify in one
crossing, and holdover ends. -/
def Block.afterQualify (b : Block) (d : Fin 2) : Block :=
  let b := b.raise 0x81 [.id 1 d]
  if b.cRole then
    match b.time.selected with
    | none =>
      if b.time.holdover then b.takeQualified d
      else b.onTime fun t => { t with selected := some d, selAt := t.now }
    | some s =>
      if s ≠ d ∧ b.time.selAt = b.time.now ∧ b.reg 0x282002 = d.val then
        b.onTime fun t => { t with selected := some d }
      else if s ≠ d ∧ (b.dom s.val).state = .lost then b.takeQualified d
      else b
  else b

/-- The selected domain is left at a crossing, unless a loss has planned an earlier one (R50, R52, R53). -/
def Block.leaveDomain (b : Block) (d at_ : Nat) : Block :=
  let sooner : Bool := match b.time.switchTo with
    | some w => !w.orbit && w.target != d && decide (w.from_ ≤ at_)
    | none => false
  if sooner then b else b.planSwitch (if (b.dom (1 - d)).state = .qualified then 1 - d else 2) at_

/-- The crossing at which a loss of the present crossing is left (R50, R53, R363): at the next boundary; in twin topology two crossings
after the loss is declared, M crossings after it where the cross-link carries the declaration. -/
def Block.lossAt (b : Block) : Nat :=
  if b.topology ≠ 0 then b.time.now + 1
  else b.time.now + 2 + (if b.twin.lost then 0 else b.sets.depths.2.2 + 4)

/-- A domain goes LOST (R49, R50, R52 to R54): a C-role that had selected it leaves it; a worker holds over when both of its downlinks
are lost. -/
def Block.domLost (b : Block) (d : Nat) : Block :=
  if (b.dom d).state = .lost then b
  else
    let b := (b.onDom d fun t => { t with state := .lost, words := [], bad := false, good := 0, incomplete := 0, qualRun := 0,
                                          assessed := true }).raise 0x80 [.id 1 d]
    if b.cRole then b.when (b.time.selected.map Fin.val == some d) fun b => b.leaveDomain d b.lossAt
    else if (b.dom (1 - d)).state = .lost ∧ !b.time.holdover then b.enterHoldover
    else b

/-- The orbit number that the words after a header are to announce, by the local counters. -/
def Block.nextOrbitOf (b : Block) (d : Nat) : Nat := (b.orbitOf (b.dom d).head.toNat + 1) % 2 ^ 48

/-- A word of slot 0 or 1 is held against the local counters (R49). The first set gives them their values (R55, assumption 13). -/
def Block.compareWord (b : Block) (d slot : Nat) (w : Ref48) : Block :=
  let o := b.nextOrbitOf d
  let v := w.toNat
  let wrong := if slot = 0 then bits v 23 0 != o / 2 ^ 24
    else slot == 1 && (bits v 23 0 != o % 2 ^ 24 || bits v 37 24 + 1 != b.lengthOf o)
  b.when (b.time.acquired && wrong) fun b => b.mismatch d slot

/-- A first complete set of words gives the counters their values (R55): the slot and orbit of the present crossing follow from the
marker of the last word, which began slot 8. -/
def Block.acquireWords (b : Block) (d : Fin 2) (orbit len : Nat) : Block :=
  let t := b.dom d
  let c := 2048 * (t.head + 1) + t.residual
  let k := roundDiv ((2048 * b.time.now : Nat) - c) 2048
  let slot := (8 + k).toNat
  let n := if slot < len then (orbit + 2 ^ 48 - 1) % 2 ^ 48 else orbit
  let b := b.onTime fun t => { t with
    acquired := true, slot := slot % len, orbit := n, log := [⟨n, t.now - slot % len, len, b.sets.swaps⟩] }
  b.onDom d fun t => { t with head := (b.time.now : Int) - k - 1, residual := c - 2048 * ((b.time.now : Int) - k) }

/-- Judge a finished set of timing words (R49). A set that lacks a word or holds a malformed one is an incomplete orbit; a first good
set gives the counters their first values. -/
def Block.judgeWords (b : Block) (d : Fin 2) : Block :=
  let t := b.dom d
  let (orbit, len, tod) := t.announced
  let complete := !t.bad && (List.range 8).all fun k => (tabFind t.words k).isSome
  let consecutive := match t.lastOrbit with
    | some o => decide (orbit = (o + 1) % 2 ^ 48)
    | none => true
  if !complete then
    let b := b.onDom d fun t => { t with good := 0, incomplete := t.incomplete + 1, assessed := true, qualRun := 0 }
    if 4 ≤ (b.dom d).incomplete ∧ (b.dom d).state = .qualified then b.onDom d fun t => { t with state := .acquiring } else b
  else
    let b := if !b.time.acquired ∧ b.cRole then b.acquireWords d orbit len else b
    let h := (b.dom d).head.toNat
    let len0 := ((b.orbitAt h).map OrbitRec.len).getD b.lenO
    let b := b.onDom d fun t => { t with
      assessed := true, incomplete := 0, lastOrbit := some orbit, annOrbit := some orbit, annTod := some tod, annLen := len,
      annAt := (((h - b.slotOf h + len0 : Nat) : Int) + roundDiv t.residual 2048).toNat }
    let agrees := decide (len = b.lengthOf (b.nextOrbitOf d))
    let b := b.onDom d fun t => { t with good := if !agrees then 0 else if consecutive then t.good + 1 else 1 }
    if 2 ≤ (b.dom d).good ∧ (b.dom d).residual.natAbs ≤ 2 ^ 20 ∧ (b.dom d).state = .acquiring then
      (b.onDom d fun t => { t with state := .qualified, qualRun := 0 }).afterQualify d
    else b

/-! ### The timetable (R59 to R63) -/

/-- Words of an entry in a set. -/
def Block.ttWord0 (b : Block) (c : CfgSet) (e : Nat) : Nat := b.rsIn c (0x2A0001 + 256 * e)
def Block.ttWord1 (b : Block) (c : CfgSet) (e : Nat) : Nat := b.rsIn c (0x2A0002 + 256 * e)

/-- An action the device's role permits (R62): every other is reserved. -/
def Block.actionOk (b : Block) (a : Nat) : Bool :=
  a == 0 || (decide (2 ≤ a) && decide (a ≤ 6)) || (!b.cRole && a == 1) || (b.cRole && a == 7)

/-- An entry of two words is invalid against an orbit length and a regular length (R61). -/
def Block.ttInvalid (b : Block) (w0 w1 nO regLen : Nat) : Bool :=
  let mode := bits w0 62 61
  (mode == 0 && (bits w1 63 48 == 0 || decide (bits w1 63 48 ≤ bits w1 47 32))) ||
  ((mode == 0 || mode == 2) && decide (nO ≤ bits w1 13 0)) ||
  mode == 3 || !b.actionOk (bits w0 60 56) ||
  (bits w0 60 56 == 3 && decide (regLen ≤ bits w0 9 0))

/-- The enabled entries of a set, rising: an entry that the set does not list has EN at its default of 0. -/
def ttEnabled (c : CfgSet) : List Nat :=
  c.entries.filterMap fun p =>
    if 0x2A0001 ≤ p.1 ∧ p.1 < 0x2B0000 ∧ p.1 % 256 = 1 ∧ p.2.testBit 63 then some (p.1 / 256 - 0x2A00) else none

/-- A set holds no enabled invalid entry. -/
def Block.ttSound (b : Block) (c : CfgSet) : Bool :=
  (ttEnabled c).all fun e => !b.ttInvalid (b.ttWord0 c e) (b.ttWord1 c e) (b.rsIn c 0x280003) (b.rsIn c 0x450001)

/-- The target of a time-of-day entry, in ns of TAI (R60). -/
def ttTarget (w1 : Nat) (now : Tod) : Nat :=
  (now.sec / 2 ^ 32 * 2 ^ 32 + bits w1 63 32) * 1000000000 + bits w1 29 0

/-- The time of day has reached a target in ns. -/
def todReached (t : Tod) (target : Nat) : Bool := decide (target ≤ t.sec * 1000000000 + t.nano)

/-- An enabled entry's trigger holds in the present crossing (R61). -/
def Block.ttDue (b : Block) (e : Nat) : Bool :=
  let w0 := b.ttWord0 b.active e
  let w1 := b.ttWord1 b.active e
  let t := b.time
  w0.testBit 63 &&
    (match bits w0 62 61 with
     | 0 => bits w1 63 48 != 0 && t.slot == bits w1 13 0 && t.orbit % bits w1 63 48 == bits w1 47 32
     | 2 => t.orbit == bits w1 61 14 && t.slot == bits w1 13 0 && !t.fired.contains e
     | 1 => todReached t.tod (ttTarget w1 t.tod) && !t.fired.contains e
     | _ => false)

/-- The entry fires: there is an active set, the counters run, acquisition has been released (R36, R447). -/
def Block.ttFires (b : Block) (e : Nat) : Bool :=
  b.sets.act.isSome && b.time.everLocked && b.boot.released && b.ttDue e

/-- Of the entries that fire with this entry's action it is the lowest, and it has not acted yet (R63). -/
def Block.ttActs (b : Block) (e action : Nat) : Bool :=
  let act := fun k => bits (b.ttWord0 b.active k) 60 56
  b.ttFires e && act e == action && !b.time.acted.contains e &&
    (ttEnabled b.active).all fun k => decide (e ≤ k) || !(b.ttFires k && act k == action)

/-- Mark an entry as having acted; a one-shot entry is used up (R61). -/
def Block.ttUsed (b : Block) (e : Nat) : Block :=
  let oneShot := bits (b.ttWord0 b.active e) 62 61 != 0
  b.onTime fun t => { t with acted := t.acted ++ [e], fired := if oneShot then t.fired ++ [e] else t.fired }

/-- Argument of an entry of the active set. -/
def Block.ttArg (b : Block) (e : Nat) : Nat := bits (b.ttWord0 b.active e) 47 0

/-- The conflicts of the present crossing (R63): every firing entry behind a lower one of the same action is counted and
used up. -/
def Block.ttConflicts (b : Block) : Block :=
  let firing := (ttEnabled b.active).filter fun e => b.ttFires e
  let act := fun k => bits (b.ttWord0 b.active k) 60 56
  forEach firing b fun e b =>
    match firing.find? fun k => act k == act e with
    | some k =>
      if k < e then ((b.ttUsed e).bump 0x290001 1).raise 0x8B [.id 8 k, .id 8 e] else b
    | none => b

/-- Time-of-day entries whose crossing lies before the release orbit never fire and are not counted (R447). -/
def Block.ttBeforeRelease (b : Block) : Block :=
  if b.boot.released ∨ b.sets.act.isNone then b
  else
    let due := (ttEnabled b.active).filter fun e => bits (b.ttWord0 b.active e) 62 61 == 1 && b.ttDue e
    b.onTime fun t => { t with fired := t.fired ++ due }

/-- A one-shot entry's target has passed when its set becomes active (R61). -/
def Block.ttPassed (b : Block) (e : Nat) : Bool :=
  let w0 := b.ttWord0 b.active e
  let w1 := b.ttWord1 b.active e
  let t := b.time
  w0.testBit 63 &&
    (match bits w0 62 61 with
     | 2 => decide (bits w1 61 14 < t.orbit) || (bits w1 61 14 == t.orbit && decide (bits w1 13 0 < t.slot))
     | 1 => decide ((ttTarget w1 t.tod * 2 ^ 32 : Nat) ≤ (todVal t.tod : Int) - 32 * t.inc)
     | _ => false)

/-- Count the entries that a set finds already past as it becomes active (R61). -/
def Block.ttActivate (b : Block) : Block :=
  let b := b.onTime fun t => { t with fired := [], acted := [] }
  if !b.boot.released then b
  else
    let late := (ttEnabled b.active).filter fun e => b.ttPassed e
    forEach late (b.onTime fun t => { t with fired := late }) fun e b => (b.bump 0x290002 1).raise 0x8A [.id 8 e]

end Sys2Proof.Machine
end

