-- ==== Sys2Proof/Machine/Faults.lean ====
section
/-! DEFINITION. Sites, transients, permanent faults and retirement (chapter 15). -/

namespace Sys2Proof.Machine

/-- Site identifier (R378). -/
def siteId (kind index : Nat) : Nat := kind % 16 * 4096 + index % 4096

/-- A site. -/
def Block.site (b : Block) (id : Nat) : Site := tabGet {} b.flt.sites id

/-- A change of a site. -/
def Block.onSite (b : Block) (id : Nat) (f : Site → Site) : Block :=
  b.onFlt fun t => { t with sites := tabMod {} t.sites id f }

/-- A site is retired. -/
def Block.siteRetired (b : Block) (kind index : Nat) : Bool := (b.site (siteId kind index)).state == 2

/-- Transients of a site within the last 2^24 crossings (R379). -/
def Block.siteTransients (b : Block) (id : Nat) : List Nat :=
  (b.site id).times.filter fun t => decide (b.time.now < t + 2 ^ 24)

/-! ### Ports and lanes of a topology (R18, R226) -/

/-- The port of the active set that a lane serves, with the lane's rank (R242, R265). -/
def Block.portOfLane (b : Block) (l : Nat) : Option (PortPlan × Nat) :=
  match b.active.folio.ports.find? fun p => decide (p.lane ≤ l) && decide (l < p.lane + p.width) with
  | some p => some (p, l - p.lane)
  | none => none

/-- The plan boundary of a retirement in the present crossing, as an orbit number (R383). -/
def Block.planOrbit (b : Block) : Nat := b.orbitIn (b.rs 0x280600 + b.mirrorDelay)

/-- A change of schedules at both ends of a link waits for the plan boundary (R383). -/
def Block.planDue (b : Block) (lanes ports tell : List Nat) : Block :=
  let orbit := b.flt.boundary.getD b.planOrbit
  b.onFlt fun t => { t with
    boundary := some orbit, pendLanes := t.pendLanes ++ lanes, pendPorts := t.pendPorts ++ ports, tell := t.tell ++ tell }

/-- Both halves of a lane are Retired (R265). -/
def Block.laneRetired (b : Block) (l : Nat) : Block := b.onLane l fun k => { k with tx := .retired, rx := .retired }

/-- What retiring a lane does (R382): a port's lane is Retired at once, its tables change at the plan boundary (R383). -/
def Block.retireLane (b : Block) (l : Nat) : Block :=
  if b.cRole then
    match b.portOfLane l with
    | some (p, _) => (b.laneRetired l).planDue [l] [] [p.port]
    | none => b.onFlt fun t => { t with dueLanes := t.dueLanes ++ [l] }
  else if l = 0 then b.onFlt fun t => { t with dueLanes := t.dueLanes ++ [0, 1, 2, 3] }
  else if l = 4 then b.onFlt fun t => { t with dueLanes := t.dueLanes ++ [4, 5, 6, 7] }
  else (b.onLane l fun k => { k with tx := .retired }).planDue [l] [] []

/-- A change of a converter slice. -/
def Block.onSlice (b : Block) (n : Nat) (f : Slice → Slice) : Block :=
  b.onAdc fun a => { a with slices := tabMod {} a.slices n f }

/-- The effect of a retirement by the kind of its site (R382). -/
def Block.retireEffect (b : Block) (id : Nat) : Block :=
  let n := id % 4096
  match id / 4096 with
  | 1 => b.onChan n fun k => { k with retiredAt := some (b.time.now + 1), settle := none }
  | 2 => b.retireLane n
  | 3 => b.onSlice n fun k => { k with condemned := true }
  | 4 => b.planDue [] [n] [n]
  | 5 => (b.setReg (0x600008 + 256 * n) 1).raise 0x91 [.id 4 n]
  | _ => b

/-- Entry of the retirement list (R386). -/
def listEntry (id cause : Nat) (adopted byCommand : Bool) (orbit : Nat) : Word64 :=
  rec64 [(16, id), (8, cause), (6, 0), (1, flag adopted), (1, flag byCommand), (32, orbit)]

/-- Enter a retirement in the list; its flash write falls due (R386). -/
def Block.listSite (b : Block) (id cause : Nat) (adopted byCommand : Bool) : Block :=
  if 256 ≤ b.flt.list.length then b.raise 0xC6 [.id 16 id]
  else
    let w := listEntry id cause adopted byCommand b.time.orbit
    b.onFlt fun t => { t with list := t.list ++ [w], unsaved := t.unsaved ++ [w] }

/-- A retirement of a lane or port reaches the partner as a mirrored service item even where its source is masked (R383). -/
def Block.tellPartner (b : Block) (id n : Nat) : Block :=
  if b.cRole ∧ b.topology = 0 ∧ (id / 4096 = 2 ∨ id / 4096 = 4) ∧ b.masked 0xC2 then
    b.ownService (serviceRecords (flag b.boot.unitB) 0 (bytesLE 1 0x20 ++ wordBytes (b.message 0xC2 (detail [.id 16 id, .id 48 n]))))
  else b

/-- Message of a retirement: a site whose retirement waits for no plan boundary has no orbit to name, and the field is a
free value. -/
def Block.retiredMessage (b : Block) (id : Nat) : Block :=
  match b.flt.boundary with
  | some n => (b.raise 0xC2 [.id 16 id, .id 48 n]).tellPartner id n
  | none => (b.raise 0xC2 [.id 16 id, .id 48 b.freeVal.toNat]).freeNext

/-- Retire one site (R382). -/
def Block.retireOne (b : Block) (id cause : Nat) (adopted byCommand : Bool) : Block :=
  let b := b.onSite id fun k => { k with state := 2 }
  ((b.retireEffect id).listSite id cause adopted byCommand).retiredMessage id

/-- The port that goes with a lane: the lane is its rank 0, or no plan has a width for the lanes that are left (R382). -/
def Block.portWithLane (b : Block) (l : Nat) : Option Nat :=
  match b.portOfLane l with
  | some (p, r) =>
    let left := ((List.range p.width).map (p.lane + ·)).filter fun k => k != l && !b.siteRetired 2 k
    let fits := b.active.folio.plans.any fun q => q.portPlans.any fun x =>
      x.port == p.port && ((List.range x.width).map (x.lane + ·)).all left.contains
    if r = 0 ∨ !fits then some p.port else none
  | none => none

/-- Retire a site, and the port that goes with a lane of a C-role (R382, R386 cause 5). -/
def Block.retire (b : Block) (id cause : Nat) (adopted byCommand : Bool) : Block :=
  let port := if b.cRole ∧ id / 4096 = 2 then b.portWithLane (id % 4096) else none
  let b := b.retireOne id cause adopted byCommand
  match port with
  | some p => if b.siteRetired 4 p then b else b.retireOne (siteId 4 p) 5 adopted byCommand
  | none => b

/-- A permanent fault (R381): kinds 6 and 7 are entered in the log, kind 8 is never permanent, the others retire. -/
def Block.permanent (b : Block) (id cause : Nat) : Block :=
  let kind := id / 4096
  if (b.site id).state ≠ 0 ∨ kind = 8 then b
  else
    let b := (b.onSite id fun k => { k with state := 1 }).bump 0x6C0102 1
    let b := b.raise 0xC1 [.id 16 id, .id 8 cause]
    if kind = 6 ∨ kind = 7 then b.onFlt fun t => { t with log := t.log ++ [listEntry id cause false false b.time.orbit] }
    else b.retire id cause false false

/-- One transient of a site (R378, R379). -/
def Block.transient (b : Block) (id : Nat) : Block :=
  let times := (b.siteTransients id ++ [b.time.now])
  let keep := times.drop (times.length - 16)
  let b := (b.onSite id fun k => { k with times := keep }).bump 0x6C0101 1
  let b := b.raiseOnce 0xC0 0 [.id 16 id, .cnt 16 keep.length]
  if 16 ≤ keep.length then b.permanent id 2 else b

/-- A retry of a site fails: three in a row make it a permanent fault (R379). -/
def Block.retryFailed (b : Block) (id : Nat) : Block :=
  let b := b.onSite id fun k => { k with fails := k.fails + 1 }
  if 3 ≤ (b.site id).fails then b.permanent id 1 else b

/-- A retry succeeds (R379). -/
def Block.retryOk (b : Block) (id : Nat) : Block :=
  if (b.site id).fails = 0 then b else b.onSite id fun k => { k with fails := 0 }

/-! ### Flash copy of the list (R386) -/

/-- The flash write of new entries completes, or fails and is retried. -/
def Block.listWritten (b : Block) (ok : Bool) : Block :=
  match b.flt.unsaved with
  | [] => b
  | w :: _ =>
    if ok then (b.onFlash fun f => { f with list := b.flt.list }).onFlt fun t => { t with unsaved := [] }
    else b.raise 0xC5 [.id 16 (bits w.toNat 63 48)]

/-- The device has a flash to write (R434). -/
def Block.hasFlash (b : Block) : Bool := b.flash.present && !b.flash.error

/-! ### Restoring and retiring by command (R387) -/

/-- What restoring a site does. -/
def Block.restoreEffect (b : Block) (id : Nat) : Block :=
  let n := id % 4096
  match id / 4096 with
  | 1 => (b.onChan n fun k => { k with retiredAt := none }).settleFrom n (b.time.now + 1)
  | 2 =>
    let b := b.onLane n fun k => { k with tx := if k.tx = .retired then .off else k.tx, rx := if k.rx = .retired then .off else k.rx }
    if (b.portOfLane n).isSome then b.planDue [] [] ((b.portOfLane n).map fun p => p.1.port).toList else b
  | 3 =>
    if (tabGet {} b.adc.slices n).retired then b.onAdc fun a => { a with joining := a.joining ++ [n] }
    else b.onSlice n fun k => { k with condemned := false }
  | 4 => b.planDue [] [] [n]
  | 5 => (b.setReg (0x600008 + 256 * n) 0).onUplink n fun k => { k with failRun := 0 }
  | _ => b

/-- Restore one site: its entry leaves the list and the flash at once, its history is cleared. -/
def Block.restoreOne (b : Block) (id : Nat) : Block :=
  let out := fun (l : List Word64) => l.filter fun w => bits w.toNat 63 48 != id
  let b := b.onFlt fun t => { t with
    list := out t.list, unsaved := out t.unsaved, sites := tabDel t.sites id,
    pendLanes := t.pendLanes.filter fun l => siteId 2 l != id, pendPorts := t.pendPorts.filter fun p => siteId 4 p != id }
  let b := b.onFlash fun f => { f with list := out f.list }
  (b.restoreEffect id).raise 0xC3 [.id 16 id]

/-- The sites retired now. -/
def Block.retiredSites (b : Block) : List Nat := (b.flt.sites.filter fun p => p.2.state == 2).map Prod.fst

/-- A write to 6C10.01. -/
def Block.restoreWrite (b : Block) (h : Hdr) (id : Nat) : Block :=
  if id = 0xFFFF then (forEach b.retiredSites b fun i b => b.restoreOne i).ack h 0x6C1001
  else if b.retiredSites.contains id then (b.restoreOne id).ack h 0x6C1001
  else b.refuseKey h 0x6C1001 0x07

/-- A site that the device has (R378). -/
def Block.siteExists (b : Block) (id : Nat) : Bool :=
  let n := id % 4096
  match id / 4096 with
  | 1 => !b.cRole && decide (n < 256)
  | 2 => decide (n < if b.cRole then 40 else 8)
  | 3 => decide (n < if b.cRole then 3 else 33)
  | 4 => b.cRole && decide (1 ≤ n) && decide (n ≤ 32)
  | 5 => b.cRole && decide (1 ≤ n) && decide (n ≤ 12)
  | _ => false

/-- A write to 6C10.02: a site that is retired already stays so. -/
def Block.retireWrite (b : Block) (h : Hdr) (id : Nat) : Block :=
  if !b.siteExists id then b.refuseKey h 0x6C1002 0x07
  else if (b.site id).state = 2 then b.ack h 0x6C1002
  else (b.retire id 4 false true).ack h 0x6C1002

/-- A write to 6C10.03. -/
def Block.clearLog (b : Block) (h : Hdr) (v : Nat) : Block :=
  if 1 < v then b.refuseKey h 0x6C1003 0x07
  else (if v = 1 then b.onFlt fun t => { t with log := [] } else b).ack h 0x6C1003

/-! ### Meanings -/

/-- RETIREMENT_LIST_WRITE (R386). -/
def execRetirementListWrite (ok : Bool) (s : State) : Host.Outcome State Fault Refusal :=
  s.run fun b => b.when b.hasFlash fun b => b.listWritten ok

/-- LIST_WRITE_RETRY (R386): the retry of a write that failed. -/
def execListWriteRetry (ok : Bool) (s : State) : Host.Outcome State Fault Refusal :=
  s.run fun b => b.when b.hasFlash fun b => b.listWritten ok

end Sys2Proof.Machine
end

