-- ==== Sys2Proof/Machine/Stacks.lean ====
section
/-! DEFINITION. The stacks: writing, holding, evicting, reading a window, streaming, orbit resync (R184 to R202, R249,
R250). -/

namespace Sys2Proof.Machine

/-! ### Sets, windows and hold spans (R185, R191, R200) -/

/-- Stack r. -/
def Block.stack (b : Block) (r : Nat) : Stack := tabGet {} b.stk.list r

/-- A change of stack r. -/
def Block.onStack (b : Block) (r : Nat) (f : Stack → Stack) : Block :=
  b.onStk fun t => { t with list := tabMod {} t.list r f }

/-- Key of entry 4A1s.e. -/
def stackKey (r e : Nat) : Nat := 0x4A1000 + 256 * r + e

/-- The set of a crossing that may still lie ahead: the shadow from the boundary of an armed swap on. -/
def Block.setAhead (b : Block) (x : Nat) : CfgSet :=
  match b.sets.armed with
  | some n => if b.orbitStart n ≤ x then b.sets.shd else b.setOf x
  | none => b.setOf x

/-- Streaming mode governs crossing x (R184, R201). -/
def Block.streaming (b : Block) (x : Nat) : Bool := b.rsAt x 0x4A0001 == 1

/-- H of a set (R191). -/
def Block.spanOf (b : Block) (c : CfgSet) : Nat := b.rsIn c 0x4A0002 + b.rsIn c 0x4A0003 + b.rsIn c 0x4A0004

/-- H for the records of crossing x: within 15 crossings of a swap the larger of both sets' (R200). -/
def Block.holdSpan (b : Block) (x : Nat) : Nat :=
  max (b.spanOf (b.setAhead x)) (max (b.spanOf (b.setAhead (x - 15))) (b.spanOf (b.setAhead (x + 15))))

/-! ### The crossing directory (R190) -/

/-- Word of crossing x: WRITTEN, SPAN_LOST, FULL_LOST. -/
def Stack.dirAt (k : Stack) (x : Nat) : Nat × Nat × Nat := tabGet (0, 0, 0) k.dir (x % 2048)

/-- A count of 7 bits steps. -/
def step7 (n : Nat) : Nat := min 127 (n + 1)

/-- Step WRITTEN (0), SPAN_LOST (1) or FULL_LOST (2) of crossing x. -/
def Stack.dirStep (k : Stack) (x i : Nat) : Stack :=
  let d := k.dirAt x
  let d := if i = 0 then (step7 d.1, d.2.1, d.2.2) else if i = 1 then (d.1, step7 d.2.1, d.2.2) else (d.1, d.2.1, step7 d.2.2)
  { k with dir := tabSet k.dir (x % 2048) d }

/-- The directory word of the crossing that begins is cleared in every stack. -/
def Block.clearDirectory (b : Block) : Block :=
  b.onStk fun t => { t with list := t.list.map fun p => (p.1, { p.2 with dir := tabDel p.2.dir (b.time.now % 2048) }) }

/-! ### Pins (R192) -/

/-- An entry written in a crossing lies in the scan range of an accept. -/
def inScanRange (a : RegAccept) (written : Nat) : Bool :=
  decide (a.cross + 2 ≤ written + a.q) && decide (written ≤ a.cross + a.p + 6)

/-- A scan still has an address of a stack to read. -/
def Scan.reads (s : Scan) (r addr : Nat) : Bool := s.parts.any fun p => p.stack == r && p.todo.contains addr

/-- An entry is pinned: a registered accept's scan has not passed it. -/
def Block.pinned (b : Block) (r : Nat) (e : StackEntry) : Bool :=
  b.stk.accs.any (fun a => inScanRange a e.written) || b.stk.scans.any fun s => s.reads r e.addr

/-! ### Occupancy and release (R188, R191) -/

/-- WP − RP, mod 4096. -/
def Stack.occupancy (k : Stack) : Nat := (k.wp + 4096 - k.rp % 4096) % 4096

/-- RP passes the free entries at the head of the stack. -/
def Stack.advance (k : Stack) : Stack :=
  let free := (k.entries.takeWhile fun e => e.freed).length
  { k with entries := k.entries.drop free, rp := (k.rp + free) % 4096 }

/-- The pointers return to 0 once the last scan has ended over an empty stack (R202). -/
def Block.rewind (b : Block) (r : Nat) : Block :=
  let k := b.stack r
  if k.rewind && !(b.stk.scans.any fun s => s.parts.any fun p => p.stack == r && !p.todo.isEmpty) then
    b.onStack r fun k => if k.entries.isEmpty then { k with wp := 0, rp := 0, rewind := false } else { k with rewind := false }
  else b

/-- The entries of a stack whose crossing's hold span has ended with crossing `last` or before, and that are not pinned, are free
(R191). -/
def Block.releaseStack (b : Block) (last r : Nat) : Block :=
  let k := b.stack r
  let due := k.entries.filter fun e => !e.freed && decide (e.cross + b.holdSpan e.cross ≤ last) && !b.pinned r e
  let addrs := due.map StackEntry.addr
  let b := b.bump (stackKey r 5) (due.filter fun e => !e.claimed).length
  b.onStack r fun k =>
    ({ k with entries := k.entries.map fun e => if addrs.contains e.addr then { e with freed := true } else e } : Stack).advance

/-- Every stack releases at the end of crossing `last`. -/
def Block.release (b : Block) (last : Nat) : Block := forEach (b.stk.list.map Prod.fst) b fun r b => b.releaseStack last r

/-! ### Writing (R187, R188, R193) -/

/-- The entry at RP is evicted (R193). -/
def Block.evict (b : Block) (r : Nat) : Block :=
  match (b.stack r).entries with
  | e :: t =>
    let b := b.onStack r fun k => (({ k with entries := t, rp := (k.rp + 1) % 4096 } : Stack).dirStep e.cross 1).advance
    (b.bump (stackKey r 6) 1).raiseOnce 0x59 0 [.id 4 r, b.nameFld e.cross, .cnt 16 1]
  | [] => b

/-- The record takes the entry at WP. -/
def Block.place (b : Block) (r x : Nat) (w : Word64) : Block :=
  let b := b.onStack r fun k =>
    ({ k with entries := k.entries ++ [{ addr := k.wp % 2048, record := w, cross := x, written := b.time.now }],
              wp := (k.wp + 1) % 4096 } : Stack).dirStep x 0
  let b := b.bump (stackKey r 3) 1
  b.peak (stackKey r 2) (b.stack r).occupancy

/-- A record is written into its stack. -/
def Block.writeStack (b : Block) (r x : Nat) (w : Word64) : Block :=
  let k := b.stack r
  if k.occupancy < 2048 then b.place r x w
  else match k.entries with
    | [] => b.place r x w
    | e :: _ =>
      if b.pinned r e then
        ((b.onStack r fun k => k.dirStep x 2).bump (stackKey r 7) 1).raiseOnce 0x5A 0 [.id 4 r, b.nameFld x, .cnt 16 1]
      else (b.evict r).place r x w

/-- CHANNEL of a hit or stamp-only record. -/
def channelOf (w : Word64) : Nat := bits w.toNat 61 54

/-- Formed records in the order of R188: by classification crossing, then by channel. -/
def formedBefore (x y : Formed) : Bool :=
  decide (x.at_ < y.at_) || (x.at_ == y.at_ && decide (channelOf x.record ≤ channelOf y.record))

/-- Insert in that order. -/
def insertFormed (f : Formed) : List Formed → List Formed
  | [] => [f]
  | x :: t => if formedBefore x f then x :: insertFormed f t else f :: x :: t

/-- Sort in that order. -/
def sortFormed (l : List Formed) : List Formed := l.foldl (fun a f => insertFormed f a) []

/-- Formed records for a stack: of its region, of an earlier crossing, in triggered mode (R158, R184). -/
def Block.forStack (b : Block) (r : Nat) (f : Formed) : Bool :=
  f.region == r && decide (f.at_ < b.time.now) && !b.streaming f.cross

/-- All records due to a stack are written. -/
def Block.stackWrite (b : Block) (r : Nat) : Block :=
  let due := sortFormed (b.stk.formed.filter fun f => b.forStack r f)
  let b := b.onStk fun t => { t with formed := t.formed.filter fun f => !b.forStack r f }
  forEach due b fun f b => b.writeStack r f.cross f.record

/-- In streaming mode the records of an earlier crossing go to OUT behind one STREAM header (R184, R250). -/
def Block.streamOut (b : Block) : Block :=
  let due := sortFormed (b.stk.formed.filter fun f => decide (f.at_ < b.time.now) && b.streaming f.cross)
  match due with
  | [] => b
  | f :: _ =>
    let b := b.onStk fun t => { t with formed := t.formed.filter fun f => !(decide (f.at_ < b.time.now) && b.streaming f.cross) }
    let n := due.length
    let h := fragmentHeader 0 0 0 3 0 0 (b.orbitOf f.at_) (b.slotOf f.at_) 0 (if n ≤ 4094 then n else 0xFFF) 0
    let b := ((b.qWrite 0 { word := h, cross := f.at_ }).bump 0x530001 1).bump 0x530002 1
    let b := if 4094 < n then (b.bump 0x530003 1).raise 0x66 [b.nameFld f.at_] else b
    forEach due b fun f b => b.qWrite 0 { word := f.record, cross := f.cross, throttled := b.throttled }

/-! ### Withdrawals of a window (R196, R199, R201) -/

/-- A stack's withdrawal of a crossing (R254): a saturated directory count is a lower bound. -/
def Block.stackWithdrawal (b : Block) (reason r x count : Nat) : Word64 :=
  withdrawalRecord reason siteStack r (b.orbitOf x) (b.slotOf x) (flag (count == 127 && reason != 5)) count

/-- The crossings of a window, rising. -/
def RegAccept.window (a : RegAccept) : List Nat := (List.range (a.q + a.p + 1)).filterMap fun k =>
  if a.q ≤ a.cross + k then some (a.cross + k - a.q) else none

/-- A crossing of the window that a late accept finds released (R199). -/
def Block.gone (b : Block) (a : RegAccept) (x : Nat) : Bool := a.late && decide (x + b.holdSpan x ≤ a.got)

/-- The counts that a crossing's withdrawals carry: STACK_SPAN, STACK_FULL. -/
def Block.lostCounts (b : Block) (a : RegAccept) (r x : Nat) : Nat × Nat :=
  let d := (b.stack r).dirAt x
  if b.streaming x then (0, 0) else if b.gone a x then (d.1, d.2.2) else (d.2.1, d.2.2)

/-- A released crossing that the directory no longer covers (R199). -/
def Block.beyond (b : Block) (a : RegAccept) (x : Nat) : Bool :=
  b.gone a x && !b.streaming x && decide (2048 ≤ a.got + 1 - x)

/-- The withdrawals of a stack for a window, each with the crossing it names. -/
def Block.windowWithdrawals (b : Block) (a : RegAccept) (r : Nat) : List (Nat × Word64) :=
  let old := a.window.filter fun x => b.beyond a x
  let lost := if old.isEmpty then [] else
    match a.window with
    | x :: _ => [(x, b.stackWithdrawal 2 r x unknownCount)]
    | [] => []
  lost ++ (a.window.filter fun x => !b.beyond a x).flatMap fun x =>
    let n := b.lostCounts a r x
    (if n.1 = 0 then [] else [(x, b.stackWithdrawal 2 r x n.1)]) ++ (if n.2 = 0 then [] else [(x, b.stackWithdrawal 3 r x n.2)])

/-! ### Scans (R196 to R198) -/

/-- The part of stack r in the scan of an accept. -/
def Block.scanPart (b : Block) (a : RegAccept) (r : Nat) : ScanPart :=
  { stack := r, todo := ((b.stack r).entries.filter fun e => !e.freed && inScanRange a e.written).map StackEntry.addr,
    passed := [], wds := (b.windowWithdrawals a r).map Prod.snd }

/-- The scan of an accept whose read crossing has come. -/
def Block.newScan (b : Block) (a : RegAccept) : Scan :=
  { acc := a, start := b.time.now, parts := (List.range 16).map fun r => b.scanPart a r }

/-- Insert an accept by its read crossing, behind those of the same. -/
def insertAcc (a : RegAccept) : List RegAccept → List RegAccept
  | [] => [a]
  | x :: t => if x.read ≤ a.read then x :: insertAcc a t else a :: x :: t

/-- The scans of every accept that is due in the present crossing join those in progress (R198). -/
def Block.openScans (b : Block) : Block :=
  let due := (b.stk.accs.filter fun a => decide (a.read ≤ b.time.now)).foldl (fun l a => insertAcc a l) []
  let scans := due.map fun a => b.newScan a
  b.onStk fun t => { t with accs := t.accs.filter fun a => !decide (a.read ≤ b.time.now), scans := t.scans ++ scans }

/-- Entries that stack r has scanned in the present crossing (R187). -/
def Block.scanned (b : Block) (r : Nat) : Nat := if b.stk.budgetAt = b.time.now then nth b.stk.budget r else 0

/-- Count scanned entries. -/
def Block.spend (b : Block) (r n : Nat) : Block :=
  b.onStk fun t =>
    let l := if t.budgetAt = b.time.now then t.budget else List.replicate 16 0
    { t with budgetAt := b.time.now, budget := l.set r (nth l r + n) }

/-- Consecutive CHECK withdrawals of one stack for one crossing are one (R223). -/
def joinCheck (l : List Word64) (w : Word64) : List Word64 :=
  match l.getLast? with
  | some v => if bits v.toNat 63 16 = bits w.toNat 63 16 ∧ bits v.toNat 15 0 < 0xFFFE then l.dropLast ++ [v + 1] else l ++ [w]
  | none => [w]

/-- A record of an accept's window that its scan sends: not poisoned, and not gone before the accept came. -/
def Block.sends (b : Block) (a : RegAccept) (e : StackEntry) : Bool :=
  !e.poisoned && a.window.contains e.cross && !b.gone a e.cross

/-- A resident entry of a stack. -/
def Block.entryAt (b : Block) (r addr : Nat) : Option StackEntry := (b.stack r).entries.find? fun e => e.addr == addr && !e.freed

/-- Entries of a stack at an address changed. -/
def Block.onEntry (b : Block) (r addr : Nat) (f : StackEntry → StackEntry) : Block :=
  b.onStack r fun k => { k with entries := k.entries.map fun e => if e.addr = addr then f e else e }

/-- An entry written before the last resync crossing E is released when the completing scan has passed it and no later scan reads it
(R202). -/
def Block.passedOld (b : Block) (r addr : Nat) (e : StackEntry) : Block :=
  if b.time.lastE.any (fun x => decide (e.written < x)) && !(b.stk.scans.drop 1).any (fun s => s.reads r addr) then
    let b := if e.claimed then b else b.bump (stackKey r 5) 1
    (b.onEntry r addr fun e => { e with freed := true }).onStack r Stack.advance
  else b

/-- The scan passes one entry: a record of the window, a poisoned entry's withdrawal, or nothing (R196). -/
def Block.passEntry (b : Block) (a : RegAccept) (r addr : Nat) (out : List Word64) : Block × List Word64 :=
  match b.entryAt r addr with
  | none => (b, out)
  | some e =>
    if e.poisoned then (b.passedOld r addr e, joinCheck out (b.stackWithdrawal 5 r a.cross 1))
    else if b.sends a e then
      (((b.onEntry r addr fun x => { x with claimed := true }).bump (stackKey r 4) 1).passedOld r addr { e with claimed := true },
        out ++ [e.record])
    else (b.passedOld r addr e, out)

/-- The entries of one part that this crossing still has room for. -/
def Block.stepPart (b : Block) (a : RegAccept) (p : ScanPart) : Block × ScanPart :=
  let n := min p.todo.length (124 - b.scanned p.stack)
  let r := (p.todo.take n).foldl (fun (q : Block × List Word64) addr => q.1.passEntry a p.stack addr q.2) (b, p.passed)
  (r.1.spend p.stack n, { p with todo := p.todo.drop n, passed := r.2 })

/-- A part holds a hit record that its scan has passed or will send. -/
def Block.partHits (b : Block) (a : RegAccept) (p : ScanPart) : Bool :=
  (p.passed.any fun w => classOf w == 0) ||
    p.todo.any fun addr => (b.entryAt p.stack addr).any fun e => b.sends a e && classOf e.record == 0

/-- Every part of a scan. -/
def Block.stepParts (b : Block) (a : RegAccept) : List ScanPart → Block × List ScanPart
  | [] => (b, [])
  | p :: t =>
    let r := b.stepPart a p
    let rest := r.1.stepParts a t
    (rest.1, r.2 :: rest.2)

/-- The words of the leading parts that are complete, and of the part that is not; the parts left. -/
def takeParts : List ScanPart → List Word64 × List ScanPart
  | [] => ([], [])
  | p :: t =>
    if p.todo.isEmpty then
      let r := takeParts t
      (p.passed ++ p.wds ++ r.1, r.2)
    else (p.passed, { p with passed := [] } :: t)

/-- What a scan places in OUT: a record, or a whole group (R172). -/
inductive Placed where
  | one (w : Word64)
  | group (l : List Nat)

/-- The crossing of a record's stamp within a window. -/
def Block.windowCross (b : Block) (a : RegAccept) (w : Word64) : Nat :=
  (a.window.find? fun x => b.slotOf x == bits w.toNat 40 27).getD a.cross

/-- Hit records become M-compact records, eight to a group (R171, R172). Answers what is placed and what waits. -/
def Block.compactWords (b : Block) (a : RegAccept) : List Word64 → List Nat → List Placed × List Nat
  | [], acc => ([], acc)
  | w :: t, acc =>
    if classOf w = 0 then
      let acc := acc ++ [mCompact w ((b.windowCross a w : Int) - a.cross)]
      if acc.length = 8 then
        let r := b.compactWords a t []
        (.group acc :: r.1, r.2)
      else b.compactWords a t acc
    else
      let r := b.compactWords a t acc
      (.one w :: r.1, r.2)

/-- Words of what is placed. -/
def placedCount (l : List Placed) : Nat :=
  (l.map fun p => match p with
    | .one _ => 1
    | .group _ => 5).sum

/-- M-compact form governs an accept's fragment (R171). -/
def Block.compactFor (b : Block) (a : RegAccept) : Bool :=
  b.profileM (b.setOf a.cross) && b.rsAt a.cross 0x480008 == 1

/-- The header of an accept's fragment (R249). -/
def Block.scanHeader (b : Block) (s : Scan) (count : Nat) : Word64 :=
  fragmentHeader 0 0 (flag s.abandoned) s.acc.kind (flag s.acc.late) (flag s.groups) (b.orbitOf s.acc.cross)
    (b.slotOf s.acc.cross) 0 count 0

/-- COUNT of a fragment: unknown above 4094 (R250). -/
def countField (n : Nat) : Nat := if n ≤ 4094 then n else 0xFFF

/-- The header's word has not closed yet: it stands in OUT's open word or waits in its hold. -/
def Block.headerOpen (b : Block) (h : Word64) : Bool :=
  let u := b.queue 0
  (u.open_ ++ u.hold).any fun r => r.word == h

/-- The header's word is open, or has closed in the present crossing. -/
def Block.headerHere (b : Block) (h : Word64) : Bool :=
  b.headerOpen h || (b.queue 0).words.any fun w => w.closed == b.time.now && w.recs.any fun r => r.word == h

/-- Set COUNT in a header that no frame has read. -/
def Block.patchHeader (b : Block) (h new : Word64) : Block :=
  let f := fun (r : QRec) => if r.word == h then { r with word := new } else r
  b.onQueue 0 fun u => { u with
    open_ := u.open_.map f, hold := u.hold.map f,
    words := u.words.map fun w => if w.closed = b.time.now then { w with recs := w.recs.map f } else w }

/-- A fragment whose COUNT stays unknown (R250). -/
def Block.countUnknown (b : Block) (a : RegAccept) : Block := (b.bump 0x530003 1).raise 0x66 [b.nameFld a.cross]

/-- A withdrawal that a stack makes is counted (R207, R223). -/
def Block.countStackWd (b : Block) (x : Nat) (w : Word64) : Block :=
  let b := b.countWithdrawal x w
  if bits w.toNat 55 52 = 2 then b.bump 0x4A2004 1 else if bits w.toNat 55 52 = 3 then b.bump 0x4A2005 1 else b

/-- The crossing that a withdrawal of a window names. -/
def Block.wdCross (b : Block) (a : RegAccept) (w : Word64) : Nat :=
  (a.window.find? fun x => b.slotOf x == bits w.toNat 35 22).getD a.cross

/-- Place one word or group in OUT. -/
def Block.placeOut (b : Block) (a : RegAccept) (p : Placed) : Block :=
  match p with
  | .one w =>
    if classOf w = 2 then
      let x := b.wdCross a w
      (b.countStackWd x w).qWrite 0 { word := w, cross := x }
    else b.qWrite 0 { word := w, cross := b.windowCross a w, throttled := b.throttled }
  | .group l => b.qWriteGroup 0 ((groupWords l).map fun w => { word := w, cross := a.cross, group := true, throttled := b.throttled })

/-- The bookmark of a direct-attached F-role's accept is written into OUT (R253). -/
def Block.placeMark (b : Block) (a : RegAccept) : Block :=
  match a.mark with
  | some m => b.qWrite 0 { word := m, cross := a.cross }
  | none => b

/-- The header, with its bookmark before it at a direct-attached F-role (R196, R253). -/
def Block.placeHeader (b : Block) (s : Scan) (h : Word64) : Block :=
  ((b.placeMark s.acc).qWrite 0 { word := h, cross := s.acc.cross }).bump 0x530001 1

/-- The bookmarks of scans that wait behind another one are written all the same, at T (R253). -/
def Block.waitingMarks (b : Block) : Block :=
  let l := b.stk.scans.filter fun s => s.header.isNone && s.acc.mark.isSome
  let b := forEach l b fun s b => b.placeMark s.acc
  if l.isEmpty then b
  else b.onStk fun t => { t with scans := t.scans.map fun s =>
    if s.header.isNone then { s with acc := { s.acc with mark := none } } else s }

/-- How COUNT stands after a step: settled in the header where the scan ends by the crossing in which the header's word closes, else
unknown (R250). -/
def Block.settleCount (b : Block) (s : Scan) (done : Bool) : Block × Bool :=
  match s.header with
  | none => (b, false)
  | some h =>
    if !s.open_ then (b, false)
    else if done then
      if b.headerHere h ∧ s.placed ≤ 4094 then (b.patchHeader h (b.scanHeader s s.placed), false) else (b.countUnknown s.acc, false)
    else if b.headerOpen h then (b, true)
    else (b.countUnknown s.acc, false)

/-- Words of a step, with the group that waits completed at the end of the window. -/
def Block.stepWords (b : Block) (s : Scan) (words : List Word64) (done : Bool) : List Placed × List Nat :=
  if b.compactFor s.acc then
    let r := b.compactWords s.acc words s.compact
    if done && !r.2.isEmpty then (r.1 ++ [.group r.2], []) else r
  else (words.map .one, [])

/-- The longest backlog (R198), noticed when a scan has first exceeded its crossing. -/
def Block.backlogNotice (b : Block) (s : Scan) (parts : List ScanPart) : Block :=
  match parts with
  | p :: _ =>
    if s.start = b.time.now ∨ s.header.isNone then b.raise 0x5B [.id 4 p.stack, .cnt 16 ((p.todo.length + 123) / 124)] else b
  | [] => b

/-- One crossing of the first scan: entries, header, words. Answers the scan as it stands, none where it has ended. -/
def Block.stepScan (b : Block) (s : Scan) : Block × Option Scan :=
  let r := b.stepParts s.acc s.parts
  let b := r.1
  let t := takeParts r.2
  let done := t.2.isEmpty
  let out := b.stepWords s t.1 done
  let n := s.placed + placedCount out.1
  let b := if done then b.peak 0x4A2003 (b.time.now - s.start) else b.backlogNotice s t.2
  let fresh := s.header.isNone
  let s := if fresh then { s with groups := b.compactFor s.acc && r.2.any fun p => b.partHits s.acc p } else s
  let h := s.header.getD (b.scanHeader s (if done then countField n else 0xFFF))
  let b := if fresh then b.placeHeader s h else b
  let b := if fresh && done && decide (4094 < n) then b.countUnknown s.acc else b
  let b := forEach out.1 b fun p b => b.placeOut s.acc p
  let s := { s with parts := t.2, compact := out.2, header := some h, open_ := s.open_ || (fresh && !done), placed := n }
  let c := b.settleCount s done
  let b := c.1
  let s := { s with open_ := c.2 }
  if done then
    ((if b.rsAt s.acc.cross 0x4A0007 = 1 then b.qClose 0 else b), none)
  else (b, some s)

/-- Scans in order, the next beginning when the one before it has ended (R198). -/
def Block.stepScans : Nat → Block → Block
  | 0, b => b
  | n + 1, b =>
    match b.stk.scans with
    | [] => b
    | s :: t =>
      let r := b.stepScan s
      match r.2 with
      | some s' => r.1.onStk fun k => { k with scans := s' :: t }
      | none => Block.stepScans n (r.1.onStk fun k => { k with scans := t })

/-- Stacks whose pointers return to 0 now that their scans have ended. -/
def Block.rewinds (b : Block) : Block := forEach (List.range 16) b fun r b => b.rewind r

/-- The scans of the present crossing (R196, R198). -/
def Block.windowRead (b : Block) : Block :=
  let b := b.openScans
  (Block.stepScans b.stk.scans.length b).waitingMarks.rewinds

/-! ### Orbit resync (R202) -/

/-- The fragment of an accept abandoned at E: one STACK_SPAN for each window crossing with WRITTEN. -/
def Block.abandonedScan (b : Block) (a : RegAccept) : Scan :=
  { acc := { a with late := false, mark := a.mark.map fun m => m ||| 0x0010000000000000 }, start := b.time.now, abandoned := true,
    parts := (List.range 16).map fun r =>
      { stack := r, todo := [], passed := [],
        wds := (a.window.filter fun x => !b.streaming x).filterMap fun x =>
          let n := ((b.stack r).dirAt x).1
          if n = 0 then none else some (b.stackWithdrawal 2 r x n) } }

/-- What orbit resync does to one stack: all but what a scan still reads is released. -/
def Block.resyncStack (b : Block) (r : Nat) : Block :=
  let b := b.onStack r fun k =>
    ({ k with entries := k.entries.map fun e => if b.stk.scans.any (fun s => s.reads r e.addr) then e else { e with freed := true },
              dir := [], rewind := true } : Stack).advance
  b.rewind r

/-- Zero a range of counters. -/
def Block.clearRegs (b : Block) (lo hi : Nat) : Block :=
  b.onDict fun d => { d with regs := d.regs.filter fun p => !(decide (lo ≤ p.1) && decide (p.1 < hi)) }

/-- The stacks, accepts and queues at the resync crossing E (R202). -/
def Block.resyncStacks (b : Block) : Block :=
  let gone := b.stk.accs.foldl (fun l a => insertAcc a l) []
  let scans := gone.map fun a => b.abandonedScan a
  let b := b.onStk fun t => { t with accs := [], scans := t.scans ++ scans }
  let b := forEach (List.range 16) b fun r b => b.resyncStack r
  let b := b.clearRegs 0x4A1000 0x4A2100
  let b := (Block.stepScans b.stk.scans.length b).waitingMarks.rewinds
  forEach (queuesOf b.cRole) b fun q b => (b.qClose q).clearRegs (queueKey q 4) (queueKey q 9)

/-! ### Poisoning (R189, R377) -/

/-- The entry of a stack with an uncorrectable error is marked poisoned, where it is resident. -/
def Block.poisonEntry (b : Block) (r addr : Nat) : Block :=
  (b.onEntry r addr fun e => { e with poisoned := true }).bump (stackKey r 9) 1

/-- A word of a stack's crossing directory with an uncorrectable error is rewritten with zero. -/
def Block.poisonDirectory (b : Block) (r index : Nat) : Block :=
  (b.onStack r fun k => { k with dir := tabDel k.dir index }).bump (stackKey r 9) 1

/-! ### Meanings -/

/-- STACK_WRITE (R187, R188). -/
def execStackWrite (r : Fin 16) (s : State) : Host.Outcome State Fault Refusal :=
  s.run fun b => b.when (b.running && !b.cRole) fun b => b.stackWrite r.val

/-- WINDOW_READ (R196). -/
def execWindowRead (s : State) : Host.Outcome State Fault Refusal :=
  s.run fun b => b.when (b.running && !b.cRole) fun b => b.windowRead

/-- RECORD_RELEASE (R191): the end of the present crossing. -/
def execRecordRelease (s : State) : Host.Outcome State Fault Refusal :=
  s.run fun b => b.when (b.running && !b.cRole) fun b => b.release b.time.now

end Sys2Proof.Machine
end

