-- ==== Sys2Proof/Machine/Accepts.lean ====
section
/-! DEFINITION. Accepts: naming, forwarding, auto mode, self triggers, registration (R176 to R181, R186, R199, R253). -/

namespace Sys2Proof.Machine

/-! ### Depths and the data grid (R288, R290) -/

/-- F_W, F_B and F_K in force. -/
def Block.fW (b : Block) : Nat := b.sets.depths.1
def Block.fB (b : Block) : Nat := b.sets.depths.2.1
def Block.fK (b : Block) : Nat := b.sets.depths.2.2

/-- The data-grid crossing of the present own crossing. -/
def Block.dataNow (b : Block) : Nat := b.time.now - b.fW

/-- A direct-attached F-role. -/
def Block.direct (b : Block) : Bool := !b.cRole && b.topology == 2

/-! ### Downward commands as payloads (R307) -/

/-- A downward payload of a type, from its remaining bits. -/
def command (type rest : Nat) : Ref48 := BitVec.ofNat 48 (type * 2 ^ 44 + rest % 2 ^ 44)

/-- ACCEPT. -/
def acceptPayload (kind orbit slot : Nat) : Ref48 := command 1 (pack [(2, kind), (2, orbit), (14, slot), (26, 0)])

/-- The lane whose frames carry the commands obeyed. -/
def Block.commandLane (b : Block) : Nat :=
  if b.cRole then
    match b.active.folio.uplinks with
    | u :: _ => u.2
    | [] => 32
  else if b.frm.nowSide = some 1 then 4 else 0

/-- A refused downward command (R309). -/
def Block.commandInvalid (b : Block) (type : Nat) : Block :=
  (b.bump 0x5B0009 1).raise 0xAB [.id 8 type, .id 6 b.commandLane, b.hereFld]

/-- A late counted command (R308). -/
def Block.commandLate (b : Block) (type target : Nat) : Block :=
  (b.bump 0x5B000A 1).raise 0xAC [.id 8 type, b.nameFld target]

/-! ### Naming (R176) -/

/-- The crossing that an accept names: the most recent one with the slot and orbit bits that is not in the future. -/
def Block.acceptCross (b : Block) (orbit2 slot : Nat) : Option Nat :=
  let l := b.time.log.filter fun r =>
    r.orbit % 4 == orbit2 && decide (slot < r.len) && decide (r.start + slot ≤ b.time.now)
  l.foldl (fun a r =>
    match a with
    | some x => some (max x (r.start + slot))
    | none => some (r.start + slot)) none

/-! ### The table of R178 -/

/-- An accept of crossing x, to be forwarded in crossing f, is neither a duplicate nor stale; the other outcomes are counted. -/
def Block.admits (b : Block) (x kind f : Nat) : Bool × Block :=
  if b.acc.recent.any fun r => r.1 == x && decide (f < r.2 + 2048) then
    (false, (b.bump 0x48300B 1).raiseOnce 0x53 0 [b.nameFld x, .id 8 kind])
  else match b.time.lastE with
    | some e => if x < e then (false, b.bump 0x48300C 1) else (true, b)
    | none => (true, b)

/-- Keep an accept among those of the last 2048 crossings, take its number, restart the count of R179. -/
def Block.noteAccept (b : Block) (x kind f : Nat) : Block :=
  let b := b.bump (0x483008 + kind) 1
  b.onAcc fun a => { a with
    recent := (a.recent.filter fun r => decide (f < r.2 + 2048)) ++ [(x, f)],
    lastFwd := f, forcedDue := false, seq := (a.seq + 1) % 4096 }

/-- T of an accept (R185, R200). -/
def Block.readCrossing (b : Block) (x : Nat) : Nat := x + b.rsAt x 0x4A0004 + b.rsAt x 0x4A0002

/-- When an accept forwarded in the present crossing has its bookmark written, in own crossings (R253, R290). -/
def Block.markDue (b : Block) (x : Nat) : Nat :=
  if b.streaming x then b.time.now else max (b.readCrossing x + 4 + b.fW) b.time.now

/-- The C-role forwards an accept in the downlink frame of the present crossing. -/
def Block.forward (b : Block) (x kind sum : Nat) : Block :=
  let m : Mark := { due := b.markDue x, fwd := b.time.now, kind := kind, cross := x, orbit := b.orbitOf x, slot := b.slotOf x, seq := b.acc.seq,
                    sum := sum, abandoned := false, noWindow := b.streaming x }
  let b := (b.setReg 0x500006 b.acc.seq).noteAccept x kind b.time.now
  let b := if kind = 1 then b.raise 0x52 [b.nameFld x] else b
  b.onAcc fun a => { a with payload := acceptPayload kind m.orbit m.slot, marks := a.marks ++ [m], fwdNow := some m }

/-- The oldest waiting self triggers are tried in turn until one is forwarded. -/
def Block.forwardSelf (b : Block) : List SelfTrig → Block
  | [] => b.onAcc fun a => { a with waiting := [] }
  | s :: t =>
    let r := b.admits s.cross 2 b.time.now
    if r.1 then
      let late := b.time.now - 1 - s.made
      let b := if late = 0 then r.2 else r.2.raise 0x54 [r.2.nameFld s.cross, .cnt 16 late, .id 1 0]
      (b.onAcc fun a => { a with waiting := t }).forward s.cross 2 s.sum
    else r.2.forwardSelf t

/-- Self triggers that have not yet waited their 16 crossings at crossing y. -/
def Block.waitingAt (b : Block) (y : Nat) : List SelfTrig := b.acc.waiting.filter fun s => decide (y < s.made + 16)

/-- In the follow phase of a twin resynchronisation no accept of the unit's own making is forwarded (R366). -/
def Block.follows (b : Block) : Bool := decide (b.twin.state = .resync) && decide (b.twin.phase = .follow)

/-- The forced accept that is due takes the frame where nothing else does (R178, R179). -/
def Block.chooseForced (b : Block) : Block :=
  if b.acc.fwdNow.isNone && b.acc.forcedDue && b.rs 0x483001 == 1 then
    let x := b.time.now - b.rs 0x483003
    let r := b.admits x 1 b.time.now
    if r.1 then r.2.forward x 1 0 else r.2
  else b

/-- Self triggers and forced accepts, where neither a command of the back-end nor a swap takes the frame (R178, R179, R310). -/
def Block.chooseOwn (b : Block) (external : Bool) : Block :=
  let y := b.time.now - 1
  let live := b.waitingAt y
  if !b.boot.released || b.follows then b
  else if !external && !live.isEmpty then
    let dead := b.acc.waiting.filter fun s => !decide (y < s.made + 16)
    ((b.forwardSelf live).onAcc fun a => { a with waiting := dead ++ a.waiting }).chooseForced
  else b.chooseForced

/-- A self trigger takes the frame only where the back-end's and the swap's commands leave it. -/
def Block.chooseAfter (b : Block) (external : Bool) : Block :=
  match b.acc.swapFwd with
  | n :: t => b.onAcc fun a => { a with payload := command 5 n, swapFwd := t }
  | [] => b.chooseOwn external

/-- The resync crossing E has come, and its effects are due (R41). -/
def Block.resyncDue (b : Block) : Bool :=
  match b.time.resync with
  | some r => decide (r.at_ ≤ b.time.now)
  | none => false

/-- The command of the downlink frame of the present crossing, from what was received in the one before (R178, R310). -/
def Block.chooseCommand (b : Block) : Block :=
  let a := b.acc
  let b := b.onAcc fun a => { a with external := none, command := none, payload := 0, fwdNow := none }
  match a.command with
  | some p => b.onAcc fun a => { a with payload := p }
  | none =>
    match a.external with
    | some (kind, x) =>
      if b.follows then b.chooseAfter true
      else
        let r := b.admits x kind b.time.now
        if r.1 then r.2.forward x kind 0 else r.2.chooseAfter true
    | none => b.chooseAfter false

/-! ### Registration at an F-role (R186, R199, R201) -/

/-- Register an accept of crossing x; in streaming mode no window is read, and a direct-attached F-role's bookmark says so. -/
def Block.register (b : Block) (x kind : Nat) (mark : Option Word64) : Block :=
  if b.streaming x then
    match mark with
    | some m => b.qWrite 0 { word := m ||| 0x0008000000000000, cross := x }
    | none => b
  else
    let t := b.readCrossing x
    let late := decide (t ≤ b.time.now)
    let a : RegAccept := { cross := x, kind := kind, q := b.rsAt x 0x4A0003, p := b.rsAt x 0x4A0004,
                           read := if late then b.time.now + 1 else t, got := b.time.now, late := late, mark := mark }
    let b := (b.bump 0x4A2001 1).onStk fun k => { k with accs := k.accs ++ [a] }
    if late then (b.bump 0x4A2002 1).raise 0x58 [b.nameFld x, .cnt 16 (b.time.now - t)] else b

/-- A direct-attached F-role carries out R178 for its own accepts. -/
def Block.directAccept (b : Block) (x kind sum : Nat) : Block :=
  let r := b.admits x kind b.time.now
  if r.1 then
    let b := r.2
    let m := bookmark kind 0 0 (b.orbitOf x) (b.slotOf x) sum b.acc.seq
    (b.noteAccept x kind b.time.now).register x kind (some m)
  else r.2

/-- A self trigger of a direct-attached F-role acts where the back-end sent no accept in the crossing (R180). -/
def Block.directSelf (b : Block) : Block :=
  if !b.direct then b
  else
    let live := (b.waitingAt (b.time.now - 1)).filter fun s => decide (s.made < b.time.now)
    let b' := b.onAcc fun a => { a with external := none }
    match b.acc.external, live with
    | none, s :: _ => (b'.onAcc fun a => { a with waiting := a.waiting.filter (· != s) }).directAccept s.cross 2 s.sum
    | _, _ => b'

/-! ### Self triggers (R180) -/

/-- The sum of the region counts of crossing x makes a self trigger. -/
def Block.selfTest (b : Block) (x sum : Nat) : Block :=
  if b.rsAt x 0x483004 = 1 ∧ b.rsAt x 0x483005 ≤ sum ∧ (b.acc.holdoff = 0 ∨ b.acc.holdoff < x) then
    b.onAcc fun a => { a with waiting := a.waiting ++ [⟨x, sum, b.time.now⟩], holdoff := x + b.rsAt x 0x483007 }
  else b

/-- The primitive of X = now − 2 at an F-role, and the self test of a direct-attached one; at E the primitive is 0 (R175). -/
def Block.primitiveStep (b : Block) : Block :=
  let b := b.formPrimitive
  if b.direct ∧ 2 ≤ b.time.now ∧ !b.resyncDue then
    match b.frm.primLog.find? fun q => q.1 + 2 == b.time.now with
    | some q => b.selfTest q.1 (primSum q.2)
    | none => b
  else b

/-! ### Acting on an accept (R177) -/

/-- An accept is acted on: the C-role keeps it for the next frame and before its release only counts it (R447), an F-role registers
it. -/
def Block.actAccept (b : Block) (kind orbit slot : Nat) : Block :=
  if kind = 3 ∨ ((b.cRole ∨ b.topology = 2) ∧ kind ≠ 0) then b.commandInvalid 1
  else match b.acceptCross orbit slot with
    | none => b
    | some x =>
      if b.cRole && !b.boot.released then b.bump 0x48300C 1
      else if b.cRole then b.onAcc fun a => { a with external := some (kind, x) }
      else if b.direct then
        (b.onAcc fun a => { a with external := some (kind, x) }).directAccept x kind 0
      else b.register x kind none

/-! ### Meanings -/

/-- ACCEPT (R177). -/
def execAccept (kind orbit : BitVec 2) (slot : BitVec 14) (s : State) : Host.Outcome State Fault Refusal :=
  s.run fun b => b.when (b.running && b.sets.act.isSome) fun b => b.actAccept kind.toNat orbit.toNat slot.toNat

/-- AUTO_ACCEPT_DUE (R179). -/
def execAutoAcceptDue (s : State) : Host.Outcome State Fault Refusal :=
  s.run fun b =>
    b.when (b.running && b.cRole && b.rs 0x483001 == 1 && decide (b.acc.lastFwd + b.rs 0x483002 ≤ b.time.now)) fun b =>
      b.onAcc fun a => { a with forcedDue := true }

/-- SELF_TRIGGER_DROPPED (R178): the oldest self trigger that has waited 16 crossings. -/
def execSelfTriggerDropped (s : State) : Host.Outcome State Fault Refusal :=
  s.run fun b =>
    match b.acc.waiting with
    | q :: t =>
      b.when (b.running && decide (q.made + 16 ≤ b.time.now)) fun b =>
        ((b.onAcc fun a => { a with waiting := t }).bump 0x48300D 1).raise 0x54
          [b.nameFld q.cross, .cnt 16 (b.time.now - q.made), .id 1 1]
    | [] => b

end Sys2Proof.Machine
end

