-- ==== Sys2Proof/Machine/Coding.lean ====
section
/-! DEFINITION. What stands on a lane's balls: 64b/66b blocks, the self-synchronous scrambler, polarity, PRBS31 (R269, R271, R296). -/

namespace Sys2Proof.Machine

/-! ### The scrambler x^58 + x^39 + 1 (R269) -/

/-- The last 58 bits of a stream, the youngest highest, after 64 more have gone by. -/
def streamNext (s : BitVec 58) (line : Word64) : BitVec 58 := BitVec.ofNat 58 ((line.toNat <<< 58 ||| s.toNat) >>> 64)

/-- The first 39 bits of a scrambled word: they rest on bits of earlier words alone. -/
def scrambleLow (s : BitVec 58) (w : Word64) : Nat := (w.toNat ^^^ (s.toNat >>> 19) ^^^ s.toNat) % 2 ^ 39

/-- A payload as it goes out, behind the last 58 bits sent: each bit is added to those 39 and 58 places before it. -/
def scramble (s : BitVec 58) (w : Word64) : Word64 :=
  let low := scrambleLow s w
  let v := low <<< 58 ||| s.toNat
  BitVec.ofNat 64 (low ||| (((w.toNat >>> 39) ^^^ (v >>> 58) ^^^ (v >>> 39)) % 2 ^ 25) <<< 39)

/-- A payload as it was before scrambling, from the bits received. -/
def descramble (s : BitVec 58) (line : Word64) : Word64 :=
  let v := line.toNat <<< 58 ||| s.toNat
  BitVec.ofNat 64 ((v >>> 58) ^^^ (v >>> 19) ^^^ v)

/-- The payloads of a frame in the order of its blocks. -/
def blocksOf (f : CFrame) : List Word64 := [f.b0, f.b1, f.b2, f.b3, f.b4, f.b5, f.b6, f.b7]

/-- A frame of eight payloads. -/
def frameOf (l : List Word64) : CFrame :=
  { b0 := l.getD 0 0, b1 := l.getD 1 0, b2 := l.getD 2 0, b3 := l.getD 3 0, b4 := l.getD 4 0, b5 := l.getD 5 0, b6 := l.getD 6 0,
    b7 := l.getD 7 0 }

/-- Payloads scrambled in turn, and the bits that the next one follows. -/
def scrambleAll : BitVec 58 → List Word64 → List Word64 × BitVec 58
  | s, [] => ([], s)
  | s, w :: t =>
    let x := scramble s w
    let r := scrambleAll (streamNext s x) t
    (x :: r.1, r.2)

/-- Payloads descrambled in turn. -/
def descrambleAll : BitVec 58 → List Word64 → List Word64 × BitVec 58
  | s, [] => ([], s)
  | s, x :: t =>
    let r := descrambleAll (streamNext s x) t
    (descramble s x :: r.1, r.2)

/-! ### Sync headers and polarity (R269, R271, R281) -/

/-- The eight sync headers of a frame, B0's highest: 0b10, then seven of 0b01. -/
def syncNormal : BitVec 16 := 0x9555

/-- The pattern of a frame's headers: normal (false), inverted (true), or none of both. -/
def syncPattern (h : BitVec 16) : Option Bool := if h = syncNormal then some false else if h = ~~~syncNormal then some true else none

/-- Every bit of every payload inverted. -/
def invertFrame (f : CFrame) : CFrame := frameOf ((blocksOf f).map fun w => ~~~w)

/-- A frame on the line, behind the last 58 bits sent; inverted under TX_INVERT. -/
def lineOf (s : BitVec 58) (invert : Bool) (f : CFrame) : LineFrame × BitVec 58 :=
  let r := scrambleAll s (blocksOf f)
  let x : LineFrame := ⟨syncNormal, frameOf r.1⟩
  (if invert then ⟨~~~x.sync, invertFrame x.blocks⟩ else x, r.2)

/-- The payloads of a frame from the line, behind the last 58 bits received: polarity is corrected behind the descrambler, which an
inverted stream leaves inverted. -/
def frameFrom (s : BitVec 58) (inverted : Bool) (x : LineFrame) : CFrame × BitVec 58 :=
  let r := descrambleAll s (blocksOf x.blocks)
  (if inverted then invertFrame (frameOf r.1) else frameOf r.1, r.2)

/-! ### PRBS31 (R296) -/

/-- 24 bits of x^31 + x^28 + 1 from the last 31, and the last 31 after them. -/
def prbsStep (p : Nat) : Nat × Nat :=
  let out := (p ^^^ (p >>> 3)) % 2 ^ 24
  (out, (out <<< 31 ||| p) >>> 24)

/-- 24 n bits of the sequence, the first lowest, and the last 31. -/
def prbsBits : Nat → Nat → Nat × Nat
  | 0, p => (0, p)
  | n + 1, p =>
    let a := prbsStep p
    let r := prbsBits n a.2
    (a.1 ||| r.1 <<< 24, r.2)

/-- The 528 bits of a crossing. -/
def prbsFrame (p : Nat) : Nat × Nat := prbsBits 22 p

/-- The 528 bits of a frame on the line, the first sent lowest: each header before its payload. -/
def lineBits (x : LineFrame) : Nat :=
  ((List.range 8).zip (blocksOf x.blocks)).foldr (fun p a => bits x.sync.toNat (15 - 2 * p.1) (14 - 2 * p.1) ||| p.2.toNat <<< 2 ||| a <<< 66) 0

/-- 528 bits as they stand on the line. -/
def lineOfBits (v : Nat) : LineFrame :=
  let part := fun (k : Nat) => v >>> (66 * k)
  { sync := BitVec.ofNat 16 (pack ((List.range 8).map fun k => (2, part k))),
    blocks := frameOf ((List.range 8).map fun k => BitVec.ofNat 64 (part k >>> 2)) }

/-- How many of the highest bits of 528 are clear. -/
def clearAbove : Nat → Nat → Nat
  | 0, _ => 0
  | n + 1, v => if v.testBit n then 0 else 1 + clearAbove n v

/-- A checker that is not locked: every bit is held against those 28 and 31 places before it; the error-free bits run. -/
def prbsSeek (last run v : Nat) : Nat × Nat :=
  let x := v <<< 31 ||| last
  let e := ((x >>> 31) ^^^ (x >>> 3) ^^^ x) % 2 ^ 528
  (x >>> 528, if e = 0 then run + 528 else clearAbove 528 e)

/-! ### Receive halves: attempts and taps (R274, R275, R281) -/

/-- A receive half starts an attempt at step 1. -/
def startStep (k : LaneSt) : LaneSt :=
  { k with step := 1, step1 := false, goodWords := 0, goodPlace := 0, readyRun := 0, ack := false, ackSeen := false, sentBoth := 0,
           failStep := 0, top := 0, best := none, syncBad := [] }

/-- A freeze ends the attempt of a half that trains, uncounted; the half stands at the start of a new one (R275). -/
def haltHalf (k : LaneSt) : LaneSt := if k.rx = .training then startStep k else k

/-- Returns to step 1 within an attempt (R285). -/
def fallBack (k : LaneSt) : LaneSt := { k with step := 1, top := max k.top k.step, goodWords := 0, goodPlace := 0, syncBad := [] }

/-- A tap held in its range, in mV / 4. -/
def clampTap (t : Int) : Int := clampI (-508) 508 t

/-- One step of sign-sign LMS (R274) by `step` mV / 4: bit k - 1 of `decided` is d_(n-k). -/
def lmsStep (step : Nat) (errNeg : Bool) (decided : BitVec 6) (taps : List Int) : List Int :=
  (taps.zip (List.range 6)).map fun p =>
    clampTap (p.1 + (if errNeg = decided.toNat.testBit p.2 then -(step : Int) else (step : Int)))

end Sys2Proof.Machine
end

