-- ==== Sys2Proof/Machine/Interval.lean ====
section
/-! DEFINITION. Bin calibration and the user context of the interval unit (R110 to R120). -/

namespace Sys2Proof.Machine

/-! ### Bin calibration (R110 to R113) -/

/-- Deviation of a bin's count from 4096. -/
def binDev (c : Nat) : Nat := ((c : Int) - 4096).natAbs

/-- The largest deviation and the first bin that has it. -/
def worstBin (counts : List Nat) : Nat × Nat :=
  (counts.zipIdx).foldl (fun a p => if a.1 < binDev p.1 then (binDev p.1, p.2) else a) (0, 0)

/-- A deviation as DNL in LSB_phi / 1000, rounded to nearest. -/
def dnlMilli (d : Nat) : Nat := (2 * d * 1000 + 4096) / 8192

/-- The step of a tap after an iteration: towards the mean width where |DNL| exceeds 0.03. A larger trim makes its bin
wider (assumption 15). -/
def trimStep (count : Nat) : Int :=
  if 100 * binDev count ≤ 3 * 4096 then 0 else if 4096 < count then -1 else 1

/-- Taps whose trim has just reached an end of its range, with the value. -/
def atLimit (before after : List Nat) : List (Nat × Nat) :=
  ((before.zip after).zipIdx).filterMap fun p =>
    if p.1.1 ≠ p.1.2 ∧ (p.1.2 = 0 ∨ p.1.2 = 127) then some (p.2, p.1.2) else none

/-- A change of the bin calibration. -/
def Block.onBin (b : Block) (f : BinCal → BinCal) : Block := { b with bin := f b.bin }

/-- BIN_CAL_STATE and LINEARITY_IN_SPEC. -/
def keyBinState : Nat := 0x400101
def keyLinear : Nat := 0x400107

/-- A trim after a step, inside its range. -/
def trimBy (trim : Nat) (step : Int) : Nat := (clampI 0 127 ((trim : Int) + step)).toNat

/-- The trims with which the present boundary began, and the steps that it has already asked of each tap. -/
def Block.trimBase (b : Block) : List Nat × List Int :=
  if b.bin.movedAt = b.time.now ∧ !b.bin.base.isEmpty then (b.bin.base, b.bin.moved) else (b.bin.trims, List.replicate 64 0)

/-- Every tap moves by its step, all at one boundary; an iteration and a compensation at the same boundary move it by the sum of their
steps, held to one step in total. A trim that reaches an end of its range is named (R110, R111, R498). -/
def Block.moveTrims (b : Block) (steps : List Int) : Block :=
  let p := b.trimBase
  let sum := (p.2.zip steps).map fun q => q.1 + q.2
  let new := (p.1.zip sum).map fun q => trimBy q.1 (clampI (-1) 1 q.2)
  let lim := atLimit b.bin.trims new
  let b := b.onBin fun k => { k with trims := new, base := p.1, moved := sum, movedAt := b.time.now }
  forEach lim b fun p b => b.raise 0x33 [.id 8 p.1, .id 7 p.2]

/-- The steps of a compensation for a change of temperature in 1/16 degC (R497). `tapCoef` is in 2^-16 steps per unit; what a step does not
make up is owed. -/
def Block.compensate (b : Block) (change : Int) : Block :=
  let owed := (b.bin.owed.zip b.fuses.tapCoef).map fun q => q.1 + q.2 * change
  let steps := owed.map fun v => clampI (-1) 1 (roundDiv v 65536)
  (b.onBin fun k => { k with owed := (owed.zip steps).map fun q => q.1 - 65536 * q.2 }).moveTrims steps

/-- An iteration in CONVERGED is judged (R111). -/
def Block.binLinear (b : Block) (worst : Nat × Nat) : Block :=
  if 3 * 4096 < 10 * worst.1 then
    (b.onBin fun k => { k with high := true }).raise 0x32 [.id 8 worst.2, .cnt 16 (dnlMilli worst.1), .id 1 0]
  else if b.bin.high then
    (b.onBin fun k => { k with high := false }).raise 0x32 [.id 8 worst.2, .cnt 16 (dnlMilli worst.1), .id 1 1]
  else b

/-- The state of calibration after an iteration outside CONVERGED (R111). -/
def Block.binConverge (b : Block) (worst : Nat × Nat) : Block :=
  let n := b.bin.since + 1
  let st := b.reg keyBinState
  let b := b.onBin fun k => { k with since := n }
  if worst.1 ≤ 1024 then ((b.setReg keyBinState 2).onBin fun k => { k with high := false }).raise 0x30 [.cnt 16 n]
  else if st = 1 ∧ 16 ≤ n then (b.setReg keyBinState 3).raise 0x31 [.cnt 16 (dnlMilli worst.1)]
  else b

/-- An iteration ends (R110, R111, R101). With BIN_CAL_ENABLE 0, trims and state stay, and an iteration in CONVERGED is judged all the
same (R112). -/
def Block.binIteration (b : Block) (counts : List Nat) : Block :=
  let worst := worstBin counts
  let on := b.reg 0x400102 == 1
  let b := ((b.bump 0x400104 1).setReg 0x400103 (dnlMilli worst.1)).onBin fun k => { k with counts := counts }
  let b := b.when on fun b => b.moveTrims (counts.map trimStep)
  let b := if b.reg keyBinState = 2 then b.binLinear worst else b.when on fun b => b.binConverge worst
  b.setReg keyLinear (flag (b.reg keyBinState == 2 && decide (10 * worst.1 ≤ 3 * 4096)))

/-- Trims back to their fuse values, the state CONVERGING once the core PLL has locked (R111, R112). BIN_TABLE then shows no counts: the
spec does not say what becomes of those of the last iteration (assumption 108). -/
def Block.binRestart (b : Block) : Block :=
  let b := b.onBin fun _ => { trims := b.fuses.binTrims }
  if b.time.everLocked then (b.setReg keyBinState 1).setReg keyLinear 0 else b

/-! ### Programmes (R114, R115, R125) -/

/-- A selector that the role has; 0x000 is no source. -/
def selectorOk (cRole : Bool) (s : Nat) : Bool :=
  decide (1 ≤ s ∧ s ≤ 3) || decide (0x40 ≤ s ∧ s ≤ 0x67) || decide (0x80 ≤ s ∧ s ≤ 0xA7) ||
    (!cRole && (s == 4 || decide (0x100 ≤ s ∧ s ≤ 0x3FF)))

/-- Key of entry e of programme p. -/
def progKey (p e : Nat) : Nat := 0x410000 + 256 * p + e

/-- The stop selectors of a programme whose PROG_CONFIG is cfg. -/
def Block.stopsOf (b : Block) (p cfg : Nat) : List Nat :=
  (List.range (bits cfg 28 24 + 1)).map fun k => b.nextReg (progKey p (3 + k))

/-- A programme is valid (R115). -/
def Block.progValid (b : Block) (p cfg : Nat) : Bool :=
  let start := b.nextReg (progKey p 2)
  selectorOk b.cRole start && decide (4 ≤ bits cfg 23 19) && decide (bits cfg 23 19 ≤ 20) &&
    (b.stopsOf p cfg).all fun s => selectorOk b.cRole s && s != start

/-- PROG_CONFIG with its reserved bits zero. -/
def progConfig (v : Nat) : Nat := v / 512 * 512 % 2 ^ 32

/-- A write of PROG_CONFIG (R115). Setting EN starts a programme anew. -/
def Block.progWrite (b : Block) (h : Hdr) (p v : Nat) : Block :=
  let key := progKey p 1
  let cfg := progConfig v
  if b.iu.campaign = some p then b.refuseKey h key 0x08
  else if cfg.testBit 31 && !b.progValid p cfg then (b.raise 0x38 [.id 8 p, .id 2 0]).refuseKey h key 0x07
  else (b.onIu fun i => { i with ended := i.ended.filter (· != p) }).pendWrite h key cfg

/-! ### Arms (R116, R118) -/

/-- Arming sources in the order of R118: 0 the timetable, 1 the downlink, 2 the ARM ball. In messages they are numbered
from 1 (assumption 16). -/
def Block.armInvalid (b : Block) (p src : Nat) : Block := b.raise 0x38 [.id 8 p, .id 2 (src + 1)]

/-- An arm that is refused while a window is open or another programme's campaign runs (R118). -/
def Block.armOverlap (b : Block) (p : Nat) : Block :=
  (b.bump 0x401005 1).raise 0x36 [.id 8 p, .id 8 (match b.iu.window with
    | some w => w.1
    | none => b.iu.campaign.getD 0xFF)]

/-- Open a shot's window in the present crossing; a campaign begins where none runs (R116, R119). -/
def Block.openWindow (b : Block) (p src : Nat) : Block :=
  b.onIu fun i =>
    let new := i.campaign != some p
    let i := if new then { i with campaign := some p, shots := 0, acc := [] } else i
    { i with window := some (p, b.time.now), fresh := new, armsAt := b.time.now, armed := i.armed ++ [src] }

/-- Several arms in one crossing: the first in the order of R118 is taken, the others are counted. Where the arm that gives way had
begun a campaign, that campaign has not begun. -/
def Block.armConflict (b : Block) (p src : Nat) : Block :=
  let srcs := b.iu.armed ++ [src]
  let b := (b.bump 0x401006 1).raise 0x3B [.id 3 (orBits srcs)]
  let better := b.iu.armed.all fun k => decide (src < k)
  let free := match b.iu.window with
    | some w => b.iu.fresh || w.1 == p
    | none => true
  if better && free then (b.onIu fun i => { i with campaign := if i.fresh then none else i.campaign }).openWindow p src
  else b.onIu fun i => { i with armed := srcs }

/-! ### Shots (R117, R119) -/

/-- A difference of two instants as R102 takes it. -/
def wrapInterval (nO : Nat) (d : Int) : Int :=
  if nO = 0 then d else (d + 1024 * nO) % (2048 * nO : Nat) - 1024 * nO

/-- Integer square root, rounded down. -/
def isqrt (n : Nat) : Nat :=
  (List.range 64).reverse.foldl (fun r k => if (r + 2 ^ k) * (r + 2 ^ k) ≤ n then r + 2 ^ k else r) 0

/-- MEAN and STD_DEV in LSB_phi / 256, rounded to nearest (R119). -/
def statMean (a : StopAcc) : Int := if a.n = 0 then 0 else roundDiv (256 * a.s1) a.n
def statDev (a : StopAcc) : Nat :=
  if a.n = 0 then 0 else (isqrt (512 * 512 * ((a.n : Int) * a.s2 - a.s1 * a.s1)).toNat / a.n + 1) / 2

/-- The first edge of a source in a window of crossings; the opening of the window is a source of its own. -/
def Interval.firstEdge (i : Interval) (a w selector : Nat) : Option Nat :=
  if selector = 3 then some (2048 * a)
  else (i.edges.filter fun e => e.1 == selector && decide (a ≤ e.2.1) && decide (e.2.1 < a + w)).foldl
    (fun m e => match m with
      | some t => some (min t e.2.2)
      | none => some e.2.2) none

/-- Accumulate one interval (R119). -/
def StopAcc.add (a : StopAcc) (x : Int) (exclude : Bool) : StopAcc :=
  let a := { a with order := a.order + flag (decide (x < 0)), coin := a.coin + flag (x == 0) }
  if exclude && decide (x < 0) then a
  else { a with n := a.n + 1, s1 := a.s1 + x, s2 := a.s2 + x * x,
                lo := if a.n = 0 then x else min a.lo x, hi := if a.n = 0 then x else max a.hi x }

/-- Key of entry e of stop s. -/
def stopKey (s e : Nat) : Nat := 0x420000 + 256 * s + e

/-- One stop of a shot (R117): its interval and flags. -/
def Block.shotStop (b : Block) (start : Option Nat) (exclude : Bool) (a w s selector : Nat) : Block :=
  match start, b.iu.firstEdge a w selector with
  | some t0, some t =>
    let x := wrapInterval b.nO ((t : Int) - t0)
    let b := b.setReg (stopKey s 9) (twos 32 x)
    let b := b.setReg (stopKey s 10) (flag (decide (x < 0)) + 2 * flag (x == 0))
    b.onIu fun i => { i with acc := tabMod {} i.acc s fun k => k.add x exclude }
  | some _, none =>
    (b.setReg (stopKey s 10) 4).onIu fun i => { i with acc := tabMod {} i.acc s fun k => { k with noStop := k.noStop + 1 } }
  | none, some _ => b.setReg (stopKey s 10) 8
  | none, none => b.setReg (stopKey s 10) 12

/-- Latch the statistics of one stop (R119). -/
def Block.latchStop (b : Block) (s : Nat) : Block :=
  let a := tabGet {} b.iu.acc s
  let put := fun (b : Block) (e v : Nat) => b.setReg (stopKey s e) v
  let b := put b 1 (twos 32 (statMean a))
  let b := put b 2 (statDev a)
  let b := put b 3 (twos 32 a.lo)
  let b := put b 4 (twos 32 a.hi)
  let b := put b 5 a.n
  let b := put b 6 a.order
  let b := put b 7 a.coin
  put b 8 a.noStop

/-- A campaign has its N shots (R119). -/
def Block.campaignEnd (b : Block) (p cfg : Nat) : Block :=
  let n := b.iu.shots
  let b := forEach (List.range (bits cfg 28 24 + 1)) b fun s b => b.latchStop s
  (b.onIu fun i => { i with campaign := none, shots := 0, acc := [],
                            ended := if cfg.testBit 30 then i.ended else i.ended ++ [p] }).raise 0x35 [.id 8 p, .cnt 16 n]

/-- The shot whose window has ended (R117). -/
def Block.shotEnd (b : Block) (p a : Nat) : Block :=
  let cfg := b.reg (progKey p 1)
  let w := b.windowLen p
  let start := b.iu.firstEdge a w (b.reg (progKey p 2))
  let stops := (List.range (bits cfg 28 24 + 1)).map fun k => (k, b.reg (progKey p (3 + k)))
  let b := forEach stops b fun q b => b.shotStop start (cfg.testBit 29) a w q.1 q.2
  let b := b.onIu fun i => { i with window := none, edges := i.edges.filter fun e => decide (b.time.now ≤ e.2.1) }
  if start.isNone then (b.bump 0x401007 1).raiseOnce 0x37 0 [.id 8 p, b.hereFld]
  else
    let b := b.onIu fun i => { i with shots := i.shots + 1 }
    if 2 ^ bits cfg 23 19 ≤ b.iu.shots then b.campaignEnd p cfg else b

/-- The shot whose window has ended ends. -/
def Block.shotDone (b : Block) : Block :=
  match b.iu.window with
  | some (p, a) => if a + b.windowLen p ≤ b.time.now then b.shotEnd p a else b
  | none => b

/-- An arm of programme p in the present crossing (R116, R118, R119). A shot whose window ends at this crossing's boundary has ended. A
programme without CONTINUOUS whose campaign has ended is armed again once its PROG_CONFIG has been written; until then the arm is refused
as that of a programme whose EN is 0: the spec does not say what becomes of it (assumption 106). -/
def Block.arm (b : Block) (p src : Nat) : Block :=
  let b := b.shotDone
  if !(b.reg (progKey p 1)).testBit 31 || b.iu.ended.contains p then b.armInvalid p src
  else
    let b := if b.iu.armsAt = b.time.now then b else b.onIu fun i => { i with armsAt := b.time.now, armed := [] }
    if !b.iu.armed.isEmpty then b.armConflict p src
    else if b.iu.window.isSome then b.armOverlap p
    else if (match b.iu.campaign with | some q => q != p | none => false) then b.armOverlap p
    else b.openWindow p src

/-- The TDC of the ARM ball stamps an edge, unless it has stamped one of the kind less than 8 core cycles before (R103;
assumption 116). -/
def Block.stampArm (b : Block) (falling : Bool) (t : Nat) : Block :=
  if blindTo (if falling then b.iu.lastFall else b.iu.lastRise) t then b
  else (b.iuEdge (if falling then 2 else 1) t).onIu fun i =>
    if falling then { i with lastFall := some t } else { i with lastRise := some t }

/-- An edge on ARM: of the polarity that 4010.02 names it arms (R116). -/
def Block.armEdge (b : Block) (falling : Bool) (t : Nat) : Block :=
  let b := b.stampArm falling t
  if b.reg 0x401002 = flag falling then b.arm (b.reg 0x401001 % 16) 2 else b

/-- End the running campaign without latching (R118). -/
def Block.campaignAbort (b : Block) : Block :=
  b.onIu fun i => { i with campaign := none, window := none, shots := 0, acc := [] }

/-- Edges of earlier crossings leave unless a window is open (R117). -/
def Block.trimEdges (b : Block) : Block :=
  if b.iu.window.isSome then b
  else b.onIu fun i => { i with edges := i.edges.filter fun e => decide (b.time.now ≤ e.2.1) }

/-! ### Meanings -/

/-- BIN_CAL_ITERATION_END (R110): iterations run from the first core PLL lock, in an F-role and a C-role alike. -/
def execBinCalIterationEnd (counts : List Nat) (s : State) : Host.Outcome State Fault Refusal :=
  s.runIf (wellFormed (.binCalIterationEnd counts)) "BIN_CAL_ITERATION_END" fun b =>
    b.when (b.running && b.time.everLocked) fun b => b.binIteration counts

/-- ARM_EDGE (R116). -/
def execArmEdge (falling : Bool) (at_ : Point) (s : State) : Host.Outcome State Fault Refusal :=
  s.run fun b => b.when (b.running && b.time.everLocked) fun b => b.armEdge falling (b.absAt at_)

/-- SHOT_END (R117): at the boundary of A + W. -/
def execShotEnd (s : State) : Host.Outcome State Fault Refusal :=
  s.run fun b => b.shotDone

end Sys2Proof.Machine
end

