-- ==== Sys2Proof/Machine/Environment.lean ====
section
/-! DEFINITION. Environmental channels and probes, ENVOUT, die temperature and levels, supply monitoring (chapter 19). -/

namespace Sys2Proof.Machine

/-! ### Environmental channels (R480 to R486) -/

/-- An environmental channel, and a change of one. -/
def Block.envCh (b : Block) (e : Nat) : EnvSt := tabGet {} b.env.chans e
def Block.onEnvCh (b : Block) (e : Nat) (f : EnvSt → EnvSt) : Block :=
  b.onEnv fun v => { v with chans := tabMod {} v.chans e f }

/-- Key of entry 70ee.s. -/
def envKey (e s : Nat) : Nat := 0x700000 + 256 * e + s

/-- ENV_CONFIG. -/
def Block.envConfig (b : Block) (e : Nat) : Nat := b.reg (envKey e 1)

/-- The channel is enabled (R480). -/
def Block.envOn (b : Block) (e : Nat) : Bool := (b.envConfig e).testBit 31

/-- Filter length L (R483); the reserved codes are refused when written. -/
def envLength (cfg : Nat) : Nat := 2 ^ min 4 (bits cfg 21 19)

/-- Coefficients come from the probe's bookplate (R486). -/
def Block.envFromPlate (b : Block) (e : Nat) : Bool := (b.envConfig e).testBit 18 && (b.envCh e).plate.taken

/-- Coefficient a_ij as Q16.16 (R484, R486, R487). -/
def Block.envCoef (b : Block) (e i j : Nat) : Int :=
  if b.envFromPlate e then signedOf 32 (natLE (octets (b.envCh e).plate.image (0x20 + 4 * (4 * i + j)) 4))
  else signedOf 32 (b.reg (0x710000 + 256 * e + 1 + 4 * i + j))

/-- The sum of R484 in units of 2^-195, from x in 2^-22 and t in 2^-23. -/
def Block.envSum (b : Block) (e : Nat) (x t : Int) : Int :=
  ((List.range 6).flatMap fun i => (List.range 4).map fun j =>
    b.envCoef e i j * x ^ i * t ^ j * (2 ^ (22 * (5 - i) + 23 * (3 - j)) : Nat)).sum

/-- The normalised sample in units of 2^-18 (R481). -/
def envX (code range : Nat) : Int := ((code : Int) - 2048) * (2 ^ (7 - min 7 range) : Nat)

/-- Mean of samples in units of 2^-22 (R483). -/
def envMean (l : List Int) : Int := if l.isEmpty then 0 else l.sum * (16 / l.length : Nat)

/-- The mean over a number of samples that does not divide 16 is rounded down in units of 2^-22. -/
def envMeanOf (l : List Int) : Int :=
  if l.isEmpty then 0 else if 16 % l.length = 0 then envMean l else (16 * l.sum) / (l.length : Int)

/-- TEMP_SOURCE of a channel. -/
def envSource (cfg : Nat) : Nat := bits cfg 17 13

/-- The second variable in units of 2^-23, none where the source channel has no valid result or is in FAULT (R485). -/
def Block.envT (b : Block) (e : Nat) : Option Int :=
  let k := envSource (b.envConfig e)
  if k = 0 then some 0
  else if k = 1 then some (clampI (-(2 ^ 23 : Nat)) ((2 ^ 23 : Nat) - 1) (b.env.tDie * 4096))
  else
    let c := b.envCh (k - 2)
    if c.valid && !c.fault then some (clampI (-(2 ^ 23 : Nat)) ((2 ^ 23 : Nat) - 1) c.y) else none

/-- Invalidate the next n samples: the larger remaining count holds (R143). -/
def Block.envInvalidate (b : Block) (e n : Nat) : Block := b.onEnvCh e fun c => { c with invalid := max c.invalid n }

/-- An entry that reads a value from the next crossing boundary on (R484). -/
def Block.laterReg (b : Block) (key v : Nat) : Block :=
  b.onDict fun d => { d with pend := d.pend ++ [⟨key, v, default, true⟩] }

/-- The result of a channel from its mean (R484, R485). -/
def Block.envResult (b : Block) (e : Nat) : Block :=
  let t := b.envT e
  let b := match t with
    | some _ => b.onEnvCh e fun c => { c with tempInvalid := false }
    | none => (b.onEnvCh e fun c => { c with tempInvalid := true }).raiseOnce 0xF5 e
        [.id 8 e, .id 8 (envSource (b.envConfig e) - 2)]
  let y := roundDiv (b.envSum e (b.envCh e).mean (t.getD 0)) (2 ^ 179)
  let sat := decide (y < -(2 ^ 31 : Nat)) || decide ((2 ^ 31 : Nat) - 1 < y)
  let y := clampI (-(2 ^ 31 : Nat)) ((2 ^ 31 : Nat) - 1) y
  (b.onEnvCh e fun c => { c with y := y, valid := true, beyond := c.beyond || sat }).laterReg (envKey e 3) (twos 32 y)

/-- Auto-ranging after a valid sample (R482). -/
def Block.envRange (b : Block) (e code range : Nat) : Block :=
  let d := ((code : Int) - 2048).natAbs
  let next := if 1920 ≤ d ∧ 0 < range then range - 1 else if d < 896 ∧ range < 7 then range + 1 else range
  if next = range then b else (b.onEnvCh e fun c => { c with range := next }).envInvalidate e 3

/-- An environmental conversion completes, with the flags of its sampling instant (R482 to R484). -/
def Block.envSample (b : Block) (e code : Nat) (settling fault supply : Bool) (range : Nat) : Block :=
  if !b.envOn e then b
  else
    let b := if fault then b.bump (envKey e 7) 1 else b
    let b := b.onEnvCh e fun c => { c with settling := settling }
    if settling || fault then b
    else
      let cfg := b.envConfig e
      let over_ := range == 0 && (code == 0 || code == 4095)
      let b := b.onEnvCh e fun c =>
        let l := c.samples ++ [envX code range]
        let keep := l.drop (l.length - envLength cfg)
        { c with samples := keep, mean := envMeanOf keep, supply := supply, beyond := over_ }
      let b := (b.bump (envKey e 6) 1).envResult e
      let b := if over_ then b.raiseOnce 0xF4 e [.id 8 e, b.hereFld] else b
      if cfg.testBit 25 && !supply then b.envRange e code range else b

/-- The excitation in force for a value of ENV_CONFIG: mode and value, of the bookplate where that is used (R486). -/
def Block.envExc (b : Block) (e cfg : Nat) : Nat :=
  let p := (b.envCh e).plate
  if cfg.testBit 18 && p.taken then natLE (octets p.image 0x12 1) * 16 + natLE (octets p.image 0x13 1) else bits cfg 30 26

/-- ENV_CONFIG takes a new value at a crossing boundary (R143, R480, R482, R483). -/
def Block.envConfigSet (b : Block) (e old new : Nat) : Block :=
  let started := !old.testBit 31 && new.testBit 31
  let b := if b.envExc e old ≠ b.envExc e new then b.envInvalidate e 3 else b
  let b := if bits old 21 19 ≠ bits new 21 19 then
    (b.onEnvCh e fun c => { c with samples := [] }).envInvalidate e (envLength new) else b
  let r := bits new 24 22
  let move := started || !new.testBit 25 || decide (bits old 24 22 ≠ r)
  if move && (b.envCh e).range != r then (b.onEnvCh e fun c => { c with range := r }).envInvalidate e 3 else b

/-- STATUS of a channel (R504). -/
def Block.envStatus (b : Block) (e : Nat) : Nat :=
  let c := b.envCh e
  pack [(1, 0), (1, flag (b.envFromPlate e)), (1, flag c.supply), (1, flag c.beyond), (1, flag c.tempInvalid),
    (1, flag c.fault), (1, flag c.settling), (1, flag c.valid)]

/-! ### Broken wires (R489) -/

/-- The channels that take channel e as their temperature source. -/
def Block.envUsers (b : Block) (e : Nat) : List Nat := (List.range 16).filter fun k => envSource (b.envConfig k) == e + 2

/-- A channel enters FAULT. -/
def Block.envFaultIn (b : Block) (e : Nat) : Block :=
  let b := (b.onEnvCh e fun c => { c with fault := true }).raise 0xF0 [.id 8 e, .id 1 1]
  forEach (b.envUsers e) b fun k b => b.onEnvCh k fun c => { c with tempInvalid := true }

/-- A channel leaves FAULT: its next 3 samples settle. -/
def Block.envFaultOut (b : Block) (e : Nat) : Block :=
  ((b.onEnvCh e fun c => { c with fault := false }).envInvalidate e 3).raise 0xF0 [.id 8 e, .id 1 0]

/-! ### Probe bookplates (R487, R488) -/

/-- The checks of a probe image in the order of those of a tile. -/
def probeCheck (im : List Byte) : Nat :=
  if octets im 0 4 ≠ [0x4B, 0x42, 0x50, 0x45] then 1
  else if natLE (octets im 4 2) ≠ 1 then 2
  else if natLE (octets im 6 2) ≠ 132 then 3
  else if badSerial (natLE (octets im 8 8)) then 4
  else if natLE (octets im 0x80 4) ≠ crc32Bytes (im.take 0x80) then 5
  else 0

/-- A change of a probe's bookplate. -/
def Block.onProbe (b : Block) (e : Nat) (f : Plate → Plate) : Block := b.onEnvCh e fun c => { c with plate := f c.plate }

/-- The bookplate becomes VALID: coefficients and excitation are taken from it (R486, R488). -/
def Block.probeValid (b : Block) (e : Nat) (im : List Byte) : Block :=
  let cfg := b.envConfig e
  let old := b.envExc e cfg
  let b := b.onProbe e fun p => { p with
    state := 1, serial := BitVec.ofNat 64 (natLE (octets im 8 8)), image := im.take 132, tries := p.tries + 1,
    answered := true, check := 0, reading := false, taken := true }
  if b.envExc e cfg ≠ old then b.envInvalidate e 3 else b

/-- The third read has failed. -/
def Block.probeFailed (b : Block) (e : Nat) (answered : Bool) (check : Nat) : Block :=
  let b := b.onProbe e fun p => { p with state := if answered then 2 else 3, tries := p.tries + 1, reading := false, check := check }
  if answered then b.raise 0xF1 [.id 8 e, .id 8 check]
  else if (b.envConfig e).testBit 18 then (b.raise 0xF1 [.id 8 e, .id 8 b.freeVal.toNat]).freeNext
  else b

/-- A finished read of a probe image. -/
def Block.probeRead (b : Block) (e : Nat) (image : Option (List Byte)) : Block :=
  let p := (b.envCh e).plate
  match image with
  | some im =>
    let k := probeCheck im
    if k = 0 then b.probeValid e im
    else if p.tries + 1 < 3 then b.onProbe e fun p => { p with tries := p.tries + 1, answered := true, check := k }
    else b.probeFailed e true k
  | none =>
    if p.tries + 1 < 3 then b.onProbe e fun p => { p with tries := p.tries + 1 } else b.probeFailed e p.answered p.check

/-- A re-read of a probe's serial (R488, R93). -/
def Block.probeReread (b : Block) (e : Nat) (reads : List (Option Word64)) : Block :=
  let p := (b.envCh e).plate
  let r := rereadState p reads
  let new := ((reads.filterMap id).getLast?).getD p.last
  let b := b.onProbe e fun p => { p with state := r.1, last := new }
  if r.2 = 0x22 then b.raise 0xF2 [.id 8 e, .id 40 new.toNat]
  else if r.2 = 0x23 then b.raise 0xF3 [.id 8 e, .id 1 1]
  else if r.2 = 0x24 then b.raise 0xF3 [.id 8 e, .id 1 0]
  else b

/-- Every failed read that is to be repeated starts again (R92, R488). -/
def Block.retryReads (b : Block) : Block :=
  let again := fun (p : Plate) => if p.reading then { p with retried := p.tries } else p
  (b.onPlate again).onEnv fun v => { v with chans := v.chans.map fun c => (c.1, { c.2 with plate := again c.2.plate }) }

/-! ### ENVOUT (R490, R491) -/

/-- Key of entry 721o.s. -/
def outKey (o s : Nat) : Nat := 0x721000 + 256 * o + s

/-- Numerator and denominator of v. -/
def Block.outV (b : Block) (o e : Nat) : Int × Int :=
  let lo := signedOf 32 (b.reg (outKey o 2))
  let hi := signedOf 32 (b.reg (outKey o 3))
  (clampI 0 (hi - lo) ((b.envCh e).y - lo), hi - lo)

/-- The fault pattern is due (R491). -/
def Block.outFault (b : Block) (e : Nat) : Bool :=
  let c := b.envCh e
  !b.envOn e || c.fault || c.tempInvalid || !c.valid || !b.running

/-- A reset or shutdown puts the fault pattern on the outputs that run, at once (R491). -/
def Block.outsLow (b : Block) : Block :=
  b.onEnv fun v => { v with outs := v.outs.map fun p => (p.1, if p.2.state = 1 then { state := 2 } else p.2) }

/-- An output period starts: the new value, or the pattern. High time is in 1/1024 period and frequency in mHz, both to
nearest. -/
def Block.outPeriod (b : Block) (o : Nat) : Block :=
  let cfg := b.reg (outKey o 1)
  let e := bits cfg 27 24
  let put := fun (v : OutSt) => b.onEnv fun x => { x with outs := tabSet x.outs o v }
  if !cfg.testBit 31 then put {}
  else if b.outFault e then put { state := 2 }
  else
    let (n, d) := b.outV o e
    if d ≤ 0 then put { state := 2 }
    else if cfg.testBit 30 then
      let lo : Int := b.reg (outKey o 5)
      let hi : Int := b.reg (outKey o 6)
      put { state := 1, freq := (roundDiv (1000 * (lo * d + (hi - lo) * n)) d.toNat).toNat }
    else put { state := 1, high := (roundDiv (1024 * (d + 8 * n)) (10 * d.toNat)).toNat }

/-! ### Die temperature (R492 to R496) -/

/-- Sensors next to a sensor in the 3 x 3 grid. -/
def neighbours (k : Nat) : List Nat :=
  (List.range 9).filter fun j =>
    (j / 3 == k / 3 && (j + 1 == k || k + 1 == j)) || (j % 3 == k % 3 && (j + 3 == k || k + 3 == j))

/-- Insert into a rising list. -/
def insertInt (v : Int) : List Int → List Int
  | [] => [v]
  | x :: t => if v ≤ x then v :: x :: t else x :: insertInt v t

/-- Twice the median of a list. -/
def median2 (l : List Int) : Int :=
  let s := l.foldl (fun a v => insertInt v a) []
  let n := s.length
  if n % 2 = 1 then 2 * s.getD (n / 2) 0 else s.getD (n / 2 - 1) 0 + s.getD (n / 2) 0

/-- Twice the median of a sensor's neighbours that were not voted out before; of all where none is left (R493). -/
def neighbourMedian (readings : List Int) (voted : List Nat) (k : Nat) : Int :=
  let near := neighbours k
  let good := near.filter fun j => !voted.contains j
  median2 ((if good.isEmpty then near else good).map fun j => readings.getD j 0)

/-- The vote of one measurement (R493): which sensors are out, and how long each of them has agreed again. -/
def voteSensor (readings : List Int) (old : List Nat) (runs : Tab Nat) (k : Nat) : Bool × Nat :=
  let m := neighbourMedian readings old k
  let off := decide (192 < (2 * readings.getD k 0 - m).natAbs)
  if off then (true, 0)
  else if old.contains k then
    let n := tabGet 0 runs k + 1
    if 16 ≤ n then (false, 0) else (true, n)
  else (false, 0)

/-- T_die and the sensor that has it (R494). -/
def dieTemp (readings : List Int) (voted : List Nat) : Int × Nat :=
  let live := (List.range 9).filter fun k => !voted.contains k
  (if live.isEmpty then List.range 9 else live).foldl
    (fun a k => if a.2 = 9 ∨ a.1 < readings.getD k 0 then (readings.getD k 0, k) else a) (0, 9)

/-- A level and the hysteresis in 1/16 degC. -/
def Block.level16 (b : Block) (sub : Nat) : Int := 16 * signedOf 16 (b.reg (0x740200 + sub))
def Block.hyst16 (b : Block) : Int := 16 * b.reg 0x740204

/-- A level's state after a measurement (R495). -/
def Block.levelState (b : Block) (was : Bool) (sub : Nat) (t : Int) : Bool :=
  if was then !decide (t < b.level16 sub - b.hyst16) else decide (b.level16 sub ≤ t)

/-- The allowance in 1/1600 (R496). -/
def Block.allowance (b : Block) (t : Int) : Nat :=
  if t < b.level16 2 then 1600 else (clampI 0 1600 (1600 - b.reg 0x740205 * (t - b.level16 2))).toNat

/-- The sensors are voted and reported (R493). -/
def Block.voteSensors (b : Block) (readings : List Int) : Block :=
  let old := b.env.voted
  let res := (List.range 9).map fun k => (k, voteSensor readings old b.env.inRun k)
  let new := (res.filter fun r => r.2.1).map Prod.fst
  let runs : Tab Nat := (res.filter fun r => r.2.1 && r.2.2 != 0).map fun r => (r.1, r.2.2)
  let b := b.onEnv fun v => { v with readings := readings, voted := new, inRun := runs }
  let b := forEach (List.range 9) b fun k b => b.setReg (0x740101 + k) (twos 32 (4096 * readings.getD k 0))
  let b := b.setReg 0x74010A (orBits new)
  forEach (new.filter fun k => !old.contains k) b fun k b =>
    b.raise 0xF9 [.id 4 k, .int 16 (readings.getD k 0), .int 16 ((neighbourMedian readings old k).tdiv 2)]

/-- Warning and throttle levels (R495). -/
def Block.warnLevel (b : Block) (t : Int) : Block :=
  let now := b.levelState b.env.warning 1 t
  if now = b.env.warning then b
  else (b.onEnv fun v => { v with warning := now }).raise 0xF6 [.id 1 (flag now), .int 16 t]

def Block.throttleLevel (b : Block) (t : Int) : Block :=
  let now := b.levelState b.env.throttle 2 t
  let a := if now then b.allowance t else 1600
  let b := b.onEnv fun v => { v with allow := a }
  if now = b.env.throttle then b
  else
    let b := (b.onEnv fun v => { v with throttle := now }).raise 0xF7 [.id 1 (flag now), .int 16 t, .cnt 7 (a / 16)]
    if now then b.sourceFail 5 else b.sourceClear 5

/-- What a measurement brings at its crossing boundary, up to the levels (R492 to R497). The bin table follows TS4, or T_die where TS4 is voted out. -/
def Block.measureTemp (b : Block) (readings : List Int) : Block :=
  let last := b.env.readings
  let b := b.voteSensors readings
  let t := (dieTemp readings b.env.voted).1
  let b := b.onEnv fun v => { v with tDie := t, tPeak := if last.isEmpty then t else max v.tPeak t }
  let b := (b.setReg 0x740001 (twos 32 (4096 * t))).setReg 0x740002 (twos 32 (4096 * b.env.tPeak))
  let b := b.setReg 0x740303 (if b.level16 2 - 160 ≤ t then 100 else 1000)
  let ref := fun (l : List Int) => if b.env.voted.contains 4 then t else l.getD 4 0
  let b := if last.isEmpty then b else b.compensate (ref readings - (if b.env.voted.contains 4 then t else last.getD 4 0))
  (b.warnLevel t).throttleLevel t

/-! ### Supply (R499 to R503) -/

/-- A rail's warning comparator trips (R500). -/
def Block.supplyBegin (b : Block) (rail mv : Nat) : Block :=
  let key := 0x748101 + 256 * rail
  let first := !b.env.warn
  let dips := if first then [] else b.env.lowest
  let low := match tabFind dips rail with
    | some v => min v mv
    | none => mv
  let b := b.onEnv fun v => { v with
    warn := true, warnEndDue := false, lowest := tabSet dips rail low,
    below := if v.below.contains rail then v.below else v.below ++ [rail],
    affected := if v.affected.contains b.time.now then v.affected else v.affected ++ [b.time.now] }
  let b := (b.bump (key + 3) 1).setReg (key + 4) low
  if first then
    let b := b.onEnv fun v => { v with freezeDue := true }
    (b.bump 0x748002 1).raise 0xFB [.id 4 (rail + 1), .id 1 1, .cnt 16 low]
  else b

/-- Every rail is back: the warning ends with the crossing (R500). -/
def Block.supplyEnd (b : Block) : Block := b.onEnv fun v => { v with warnEndDue := true }

/-- The events of the freeze's start or end (R148, R275, R502). -/
def Block.freezeEvents (b : Block) (on : Bool) : Block :=
  ((b.raise 0xFC [.id 1 (flag on)]).raise 0x45 [.id 1 (flag on)]).raise 0x7D [.id 1 (flag on)]

/-- Attempts in progress end uncounted as a freeze begins (R275). -/
def Block.haltTraining (b : Block) : Block := b.onFrm fun t => { t with lanes := t.lanes.map fun p => (p.1, haltHalf p.2) }

/-- The freeze begins (R502). -/
def Block.freezeBegin (b : Block) : Block :=
  (((b.haltTraining).onEnv fun v => { v with freeze := true, freezeDue := false }).onAdc fun a => { a with frozen := true }).freezeEvents true

/-- The freeze ends; the supply part of self-diagnosis clears (R357). -/
def Block.freezeEnd (b : Block) : Block :=
  let b := ((b.onEnv fun v => { v with freeze := false }).onAdc fun a => { a with frozen := false }).freezeEvents false
  let b := b.onTwin fun t => { t with warnRun := 0 }
  if b.twin.monitors.isEmpty then b.sourceClear 4 else b

/-- The supply work of a crossing boundary, once the crossing has been counted (R500 to R502, R357). -/
def Block.supplyBoundary (b : Block) : Block :=
  let b := if b.env.freezeDue && !b.env.freeze then b.freezeBegin else b.onEnv fun v => { v with freezeDue := false }
  let b := if b.env.warn && b.env.warnEndDue then
      let rail := b.env.below.headD 0
      let low := tabGet 0 b.env.lowest rail
      (b.onEnv fun v => { v with warn := false, warnEndDue := false, below := [], clearAt := b.time.now }).raise 0xFB
        [.id 4 (rail + 1), .id 1 0, .cnt 16 low]
    else b
  let b := b.onEnv fun v => { v with
    affected := (v.affected.filter fun x => decide (b.time.now < x + 2048)) ++ (if v.warn then [b.time.now] else []) }
  if b.env.warn then
    let b := (b.bump 0x748002 1).onTwin fun t => { t with warnRun := t.warnRun + 1 }
    if 16 ≤ b.twin.warnRun then b.sourceFail 4 else b
  else b.onTwin fun t => { t with warnRun := 0 }

/-- Codes that a die monitor reads within its rail's operating range (R141, R503, chapter 20). -/
def monitorRange (k : Nat) : Option (Nat × Nat) :=
  match k with
  | 0 | 2 | 3 => some (1746, 1854)
  | 1 | 4 => some (2328, 2472)
  | _ => none

/-- A die monitor's conversion (R503, R357 code 4). -/
def Block.monitorSample (b : Block) (k code : Nat) : Block :=
  match monitorRange k with
  | none => b
  | some (lo, hi) =>
    if code < lo ∨ hi < code then
      let b := b.raiseOnce 0xFD k [.id 4 k, .id 12 code]
      (b.onTwin fun t => { t with monitors := if t.monitors.contains k then t.monitors else t.monitors ++ [k] }).sourceFail 4
    else
      let b := b.onTwin fun t => { t with monitors := t.monitors.filter (· != k) }
      if b.twin.monitors.isEmpty ∧ !b.env.freeze ∧ b.twin.warnRun < 16 then b.sourceClear 4 else b

/-! ### Meanings -/

/-- BOOKPLATE_RETRY (R92, R488): reads that failed start again. -/
def execBookplateRetry (s : State) : Host.Outcome State Fault Refusal :=
  s.run fun b => b.when b.running fun b => b.retryReads

/-- PROBE_BOOKPLATE_READ (R487, R488). -/
def execProbeBookplateRead (e : EnvCh) (image : Option (List Byte)) (s : State) : Host.Outcome State Fault Refusal :=
  s.run fun b =>
    let p := (b.envCh e.val).plate
    b.when (b.running && p.reading && p.retried == p.tries) fun b => b.probeRead e.val image

/-- PROBE_BOOKPLATE_REREAD (R488). -/
def execProbeBookplateReread (e : EnvCh) (reads : List (Option Word64)) (s : State) : Host.Outcome State Fault Refusal :=
  s.run fun b => b.when (b.running && !(b.envCh e.val).plate.reading) fun b => b.probeReread e.val reads

/-- ENV_WIRE_EXCURSION (R489). -/
def execEnvWireExcursion (e : EnvCh) (s : State) : Host.Outcome State Fault Refusal :=
  s.run fun b => b.onEnvCh e.val fun c => { c with outside := true }

/-- COMMON_MODE_INSIDE_WINDOW (R489). -/
def execCommonModeInsideWindow (e : EnvCh) (s : State) : Host.Outcome State Fault Refusal :=
  s.run fun b => b.onEnvCh e.val fun c => { c with outside := false }

/-- ENV_FAULT_ENTER (R489). -/
def execEnvFaultEnter (e : EnvCh) (s : State) : Host.Outcome State Fault Refusal :=
  s.run fun b => b.when (b.running && (b.envCh e.val).outside && !(b.envCh e.val).fault) fun b => b.envFaultIn e.val

/-- ENV_FAULT_CLEAR (R489). -/
def execEnvFaultClear (e : EnvCh) (s : State) : Host.Outcome State Fault Refusal :=
  s.run fun b => b.when (b.running && !(b.envCh e.val).outside && (b.envCh e.val).fault) fun b => b.envFaultOut e.val

/-- ENVOUT_PERIOD (R490, R491). -/
def execEnvoutPeriod (o : Fin 4) (s : State) : Host.Outcome State Fault Refusal := s.run fun b => b.outPeriod o.val

/-- SENSORS_DEGRADED_TICK (R493). -/
def execSensorsDegradedTick (s : State) : Host.Outcome State Fault Refusal :=
  s.run fun b => b.when (decide (4 < b.env.voted.length)) fun b => b.raise 0xFA [.id 4 (9 - b.env.voted.length)]

/-- TEMP_MEASUREMENT (R492): its result applies from the next crossing boundary. -/
def execTempMeasurement (readings : List Int) (s : State) : Host.Outcome State Fault Refusal :=
  s.runIf (wellFormed (.tempMeasurement readings)) "TEMP_MEASUREMENT" fun b =>
    b.when (b.running || decide (b.boot.phase = .shutdown)) fun b => b.onEnv fun v => { v with measured := v.measured ++ [readings] }

/-- SUPPLY_WARNING_BEGIN (R500). -/
def execSupplyWarningBegin (rail : Fin 5) (millivolts : Nat) (s : State) : Host.Outcome State Fault Refusal :=
  s.run fun b => b.when b.running fun b => b.supplyBegin rail.val millivolts

/-- SUPPLY_WARNING_END (R500). -/
def execSupplyWarningEnd (s : State) : Host.Outcome State Fault Refusal :=
  s.run fun b => b.when (b.running && b.env.warn) fun b => b.supplyEnd

/-- SUPPLY_FREEZE_END (R502). -/
def execSupplyFreezeEnd (s : State) : Host.Outcome State Fault Refusal :=
  s.run fun b => b.when (b.running && b.env.freeze && !b.env.warn && b.elapsed b.env.clearAt 1) fun b => b.freezeEnd

end Sys2Proof.Machine
end

