-- ==== Sys2Proof/Machine/Converter.lean ====
section
/-! DEFINITION. The converter array: slots, ranks, the injected and regular sequences, calibration, retired slices
(chapter 5), and the baselines of R163 to R165. -/

namespace Sys2Proof.Machine

/-! ### Slices and ranks (R127 to R130, R151, R152) -/

/-- How many slices the role powers. -/
def sliceCount (cRole : Bool) : Nat := if cRole then 3 else 33

/-- Fuse value of a slice's coefficients. -/
def Block.sliceFuse (b : Block) (s : Nat) : CalResult := b.fuses.slices.getD s ⟨0, 0, []⟩

/-- The array after a power-on or pin reset (R128, R130, R149). -/
def Block.freshSlices (b : Block) : Tab Slice :=
  let n := sliceCount b.cRole
  (List.range n).map fun s => (s, { rank := if s + 1 < n then some s else none, coef := b.sliceFuse s })

/-- A slice. -/
def Block.slice (b : Block) (s : Nat) : Slice := tabGet {} b.adc.slices s

/-- R, the number of retired slices. -/
def Block.retiredSlices (b : Block) : Nat := (b.adc.slices.filter fun p => p.2.retired).length

/-- How many ranks are served with r slices retired (R130, R152). -/
def ranksServed (cRole : Bool) (r : Nat) : Nat := if cRole then max 1 (2 - r) else 32 - r

/-- The ranks served, rising. -/
def Block.ranks (b : Block) : List Nat := List.range (ranksServed b.cRole b.retiredSlices)

/-- The slice that serves a rank. -/
def Block.sliceOf (b : Block) (r : Nat) : Option Nat :=
  (b.adc.slices.find? fun p => !p.2.retired && p.2.rank == some r).map Prod.fst

/-- A mask cut to the ranks that are left; an odd rank out becomes regular (R152). -/
def cutMask (m r : Nat) : Nat :=
  let l := (bitsSet 32 m).filter fun k => decide (k < 32 - r)
  orBits (if l.length % 2 = 1 then l.dropLast else l)

/-- The injected mask in force (R129, R152). -/
def Block.injMask (b : Block) : Nat :=
  if b.cRole then 0
  else
    let r := b.retiredSlices
    if r = 0 then b.rs 0x440001
    else match b.adc.maskCut with
      | some m => m
      | none => cutMask (b.rs 0x440001) r

/-- Injected ranks, rising. -/
def Block.injRanks (b : Block) : List Nat := b.ranks.filter fun r => b.injMask.testBit r

/-- J, injected slots per crossing (R129). -/
def Block.slotsJ (b : Block) : Nat := 2 * b.injRanks.length

/-- The next working slice after one in the circle, skipping retired slices (R146, R152). -/
def Block.nextSlice (b : Block) (s : Nat) : Option Nat :=
  let n := sliceCount b.cRole
  ((List.range (n - 1)).map fun k => (s + 1 + k) % n).find? fun k => !(b.slice k).retired

/-! ### The regular sequence (R137 to R142) -/

/-- Key of REG_ENTRY e. -/
def regEntryKey (e : Nat) : Nat := 0x460001 + 256 * (e / 4) + e % 4

/-- The list starts again at entry 0: one lap more. -/
def Block.lap (b : Block) : Block := (b.bump 0x450003 1).onAdc fun a => { a with regPos := 0 }

/-- What a regular entry samples at the start of the present period (R141 to R144, R489). -/
def Block.regularJob (b : Block) (e w t : Nat) : Block × Job :=
  let src := bits w 28 21
  let sup := b.affected b.time.now
  match bits w 31 29 with
  | 1 | 2 =>
    if b.cRole then (b, .idle)
    else (b, .regular e w (b.poweredDown src || b.settling src) (b.pileup src t) false sup 0
      (b.gainCode b.active src t (bits w 31 29 == 2)))
  | 4 =>
    if src < 16 then
      let c := b.envCh src
      (b.onEnvCh src fun c => { c with invalid := c.invalid - 1 }, .regular e w (decide (0 < c.invalid)) false c.outside sup c.range 0)
    else (b, .idle)
  | 5 => (b, .regular e w false false false sup 0 0)
  | _ => (b, .idle)

/-- The next regular conversion (R137, R139, R150). A repeat that is due goes first also where the list has started again meanwhile, with
the word that the list now holds at its entry: the spec does not say how the two meet (assumption 113). -/
def Block.nextRegular (b : Block) (t : Nat) : Block × Job :=
  match b.adc.regRetry with
  | e :: rest => (b.onAdc fun a => { a with regRetry := rest }).regularJob e (b.rs (regEntryKey e)) t
  | [] =>
    let len := b.rs 0x450001
    let b := match b.adc.restart with
      | some (e, at_) => if at_ ≤ b.time.now then b.onAdc fun a => { a with restart := none, regPos := e } else b
      | none => b
    if len = 0 then (b, .idle)
    else
      let b := if len ≤ b.adc.regPos then b.lap else b
      let e := b.adc.regPos
      let w := b.rs (regEntryKey e)
      if bits w 31 29 = 6 then (b.lap, .idle)
      else (if e + 1 < len then b.onAdc fun a => { a with regPos := e + 1 } else b.lap).regularJob e w t

/-- The result word (R142). -/
def resultWord (settling pileup fault supply : Bool) (range code : Nat) : Nat :=
  pack [(1, flag settling), (1, flag pileup), (1, flag fault), (1, flag supply), (4, range), (12, 0), (12, code)]

/-! ### Completion of conversions (R134, R136, R142, R150, R158) -/

/-- The amplitude of the entry that holds a bank settles, and the bank is free again. -/
def Block.settleAmp (b : Block) (c n : Nat) (v : Amp) : Block :=
  b.onChan c fun k =>
    let k := k.setBank n .free
    { k with entries := k.entries.map fun e =>
        if e.bank.map Fin.val = some n ∧ e.amp = .waiting then { e with amp := v, settled := b.time.now } else e }

/-- The code of a conversion of a level that the array itself knows (R127): limited to 12 bits. -/
def convCode (level : Nat) (v : Conv) : BitVec 12 := BitVec.ofNat 12 (clampI 0 4095 (level + v.dev)).toNat

/-- The code of one hold of a pair. -/
def Block.heldCode (b : Block) (p : Pair) (low : Bool) (v : Conv) : BitVec 12 :=
  match (b.chan p.ch).bank p.bank with
  | .pending hg lg => convCode (if low then lg else hg) v
  | _ => v.code

/-- A hold pair has both codes. -/
def Block.pairDone (b : Block) (p : Pair) (hg lg : BitVec 12) : Block :=
  if p.cap then
    let b := b.onChan p.ch fun k => k.setBank p.bank .free
    if p.pileup || p.supply then b
    else b.onAdc fun a => { a with samples := a.samples ++ [(p.ch, false, hg.toNat), (p.ch, true, lg.toNat)] }
  else if p.kept then b.settleAmp p.ch p.bank (.codes hg lg)
  else b

/-- A pair is abandoned (R134). -/
def Block.pairAbandoned (b : Block) (p : Pair) : Block :=
  let b := (b.bump 0x440007 1).onAdc fun a => { a with abandoned := a.abandoned + 1 }
  let b := b.raiseOnce 0x43 0 [.id 8 p.ch, .cnt 16 b.adc.abandoned]
  if p.cap then b.onChan p.ch fun k => k.setBank p.bank .free else b.settleAmp p.ch p.bank .abandoned

/-- A slice's comparator resolves, or fails to (R150). -/
def Block.sliceConv (b : Block) (s : Nat) (v : Conv) : Block :=
  if v.metastable then
    let b := (b.bump (0x442009 + 256 * s) 1).raise 0x44 [.id 6 s, b.hereFld]
    let b := (b.onSlice s fun k => { k with metaRun := k.metaRun + 1 }).transient (siteId 3 s)
    if 3 ≤ (b.slice s).metaRun then b.permanent (siteId 3 s) 1 else b
  else if (b.slice s).metaRun = 0 then b
  else b.onSlice s fun k => { k with metaRun := 0 }

/-- A regular entry completes. -/
def Block.regularDone (b : Block) (e w : Nat) (settling pileup fault supply : Bool) (range level : Nat) (v : Conv) : Block :=
  if v.metastable then b.onAdc fun a => { a with regRetry := a.regRetry ++ [e] }
  else
    let src := bits w 28 21
    let code := (if bits w 31 29 < 4 then convCode level v else v.code).toNat
    let off := bits w 31 29 == 4 && !b.envOn src
    let b := if off then b else b.onAdc fun a => { a with results := tabSet a.results e (resultWord settling pileup fault supply range code) }
    match bits w 31 29 with
    | 1 => if settling || pileup || supply then b else b.onAdc fun a => { a with samples := a.samples ++ [(src, false, code)] }
    | 2 => if settling || pileup || supply then b else b.onAdc fun a => { a with samples := a.samples ++ [(src, true, code)] }
    | 4 => b.envSample src code settling fault supply range
    | 5 => b.monitorSample src code
    | _ => b

/-- The code that a slice delivers. -/
def convOf (codes : List Conv) (s : Nat) : Conv := codes.getD s ⟨0, 0, false⟩

/-- The low-gain conversion that belongs to a pair. -/
def lowJob (jobs : List (Nat × Nat × Job)) (p : Pair) : Option Nat :=
  jobs.findSome? fun j =>
    match j.2.2 with
    | .hold q true => if q = p then some j.2.1 else none
    | _ => none

/-- One job of the period that has ended. The low-gain half of a pair is done with its high-gain half. -/
def Block.jobDone (b : Block) (jobs : List (Nat × Nat × Job)) (codes : List Conv) (j : Nat × Nat × Job) : Block :=
  let v := convOf codes j.2.1
  match j.2.2 with
  | .idle => b
  | .regular e w settling pileup fault supply range level =>
    (b.sliceConv j.2.1 v).regularDone e w settling pileup fault supply range level v
  | .reference => b.sliceConv j.2.1 v
  | .hold _ true => b.sliceConv j.2.1 v
  | .hold p false =>
    let b := b.sliceConv j.2.1 v
    match lowJob jobs p with
    | none => b
    | some s2 =>
      let v2 := convOf codes s2
      if v.metastable || v2.metastable then
        if p.kept || p.cap then b.onAdc fun a => { a with pairs := a.pairs ++ [p] } else b
      else b.pairDone p (b.heldCode p false v) (b.heldCode p true v2)

/-- The conversions of the period that has ended complete. -/
def Block.completePeriod (b : Block) (codes : List Conv) : Block :=
  let jobs := b.adc.jobs
  forEach jobs (b.onAdc fun a => { a with jobs := [] }) fun j b => b.jobDone jobs codes j

/-! ### Rotation and retirement of slices (R146, R147, R151, R152) -/

/-- An injected assignment of the period that begins now is bound to the slice (R133). -/
def Block.boundTo (b : Block) (s : Nat) : Bool := b.adc.bound.any fun x => x.2.1 == s

/-- Give a slice a rank, or none. -/
def Block.setRank (b : Block) (s : Nat) (r : Option Nat) : Block := b.onSlice s fun k => { k with rank := r }

/-- A slice starts a calibration run. -/
def Block.startRun (b : Block) (s : Option Nat) : Block := b.onAdc fun a => { a with carrel := s, runDone := 0, due := false }

/-- The coefficients of a slice's accepted run come into force at the exchange (R145). -/
def Block.adoptCoef (b : Block) (c : Nat) : Block :=
  match b.adc.newCoef with
  | some r => (b.onSlice c fun k => { k with coef := r }).onAdc fun a => { a with newCoef := none }
  | none => b

/-- The exchange of a rotation (R146). A restored slice takes the place of the outgoing slice for its first run (R387). -/
def Block.exchange (b : Block) (c : Nat) : Block :=
  let b := b.adoptCoef c
  match b.adc.joining with
  | s :: rest =>
    let b := b.onAdc fun a => { a with joining := rest }
    let b := b.onSlice s fun k => { k with retired := false, condemned := false, fails := 0 }
    let b := b.setRank c (some (ranksServed b.cRole b.retiredSlices - 1))
    b.startRun (some s)
  | [] =>
    match b.nextSlice c with
    | none => b.startRun b.adc.carrel
    | some o => if o = c then b.startRun (some c) else ((b.setRank c (b.slice o).rank).setRank o none).startRun (some o)

/-- Whether the slice that would leave is bound, so that the rotation waits (R147). -/
def Block.rotationWaits (b : Block) (c : Nat) : Option Nat :=
  if b.adc.joining.isEmpty then
    match b.nextSlice c with
    | some o => if b.boundTo o then some o else none
    | none => none
  else none

/-- Rotation at a period boundary where it is due. -/
def Block.rotate (b : Block) : Block :=
  if !b.adc.due then b
  else match b.adc.carrel with
    | none => b
    | some c =>
      match b.rotationWaits c with
      | some o => (b.bump 0x440006 1).raiseOnce 0x42 0 [.id 6 o, b.hereFld]
      | none => b.exchange c

/-- The indices of the retired sites of a kind. -/
def Block.retiredOf (b : Block) (kind : Nat) : List Nat :=
  (b.retiredSites.filter fun i => i / 4096 == kind).map fun i => i % 4096

/-- Ports that the key of a plan counts as retired: those retired, and those excluded from the release (R384, R448). -/
def Block.retiredPorts (b : Block) : List Nat :=
  let out := (b.mrg.ports.filter fun p => p.2.excluded).map Prod.fst
  b.retiredOf 4 ++ out.filter fun p => !(b.retiredOf 4).contains p

/-- Two lists hold the same numbers. -/
def sameSet (x y : List Nat) : Bool := x.all y.contains && y.all x.contains

/-- The plan of the active set whose key is the whole set of retired sites (R384). -/
def Block.planFor (b : Block) : Option RetPlan :=
  b.active.folio.plans.find? fun p =>
    p.slices == b.retiredSlices && sameSet p.lanes (b.retiredOf 2) && sameSet p.ports b.retiredPorts

/-- R and the J now in force are told (R157): J, which ranges from 0 to 64, takes 7 bits. -/
def Block.exhausted (b : Block) : Block := b.raise 0x46 [.id 8 b.retiredSlices, .id 7 b.slotsJ]

/-- The mask after a retirement of a slice: the plan's; without a plan the mask in force, cut to the ranks that are left (R152). A C-role
with one slice left has exhausted its plans in any case (R130). -/
def Block.planMask (b : Block) : Block :=
  match b.planFor with
  | some p =>
    let b := (b.onAdc fun a => { a with maskCut := some p.mask }).onSets fun s => { s with planList := p.list }
    b.when (b.cRole && b.retiredSlices == 2) Block.exhausted
  | none => (b.onAdc fun a => { a with maskCut := some (cutMask b.injMask b.retiredSlices) }).exhausted

/-- The slice is marked retired; the top rank goes out of service and its slice, if any, is the next to be calibrated. -/
def Block.dropSlice (b : Block) (s : Nat) : Block :=
  let b := b.onSlice s fun k => { k with rank := none, retired := true, condemned := false }
  let top := ranksServed b.cRole b.retiredSlices
  let b := match b.sliceOf top with
    | some t => (b.setRank t none).startRun (some t)
    | none => b
  (b.raise 0x41 [.id 6 s, .id 8 b.retiredSlices]).planMask

/-- Retire one condemned slice where no injected assignment is bound to it (R151). The carrel slice takes the rank with the coefficients
of its last accepted run. -/
def Block.retireSlice (b : Block) (s : Nat) : Block :=
  if b.boundTo s then b
  else
    match b.adc.carrel with
    | none => b.dropSlice s
    | some c =>
      let b := b.adoptCoef c
      if c = s then (b.startRun none).dropSlice s
      else (((b.setRank c (b.slice s).rank).setRank s none).startRun none).dropSlice s

/-- Every condemned slice. -/
def Block.retireSlices (b : Block) : Block :=
  forEach ((b.adc.slices.filter fun p => p.2.condemned && !p.2.retired).map Prod.fst) b fun s b => b.retireSlice s

/-! ### Assignment (R131, R132, R134) -/

/-- Order of R132. -/
def pairBefore (x y : Pair) : Bool :=
  decide (x.elig < y.elig) ||
    (x.elig == y.elig && (decide (x.ch < y.ch) || (x.ch == y.ch && decide (x.bank ≤ y.bank))))

/-- Insert a pair in the order of R132. -/
def insertPair (p : Pair) : List Pair → List Pair
  | [] => [p]
  | x :: t => if pairBefore p x then p :: x :: t else x :: insertPair p t

/-- Pairs in the order of R132. -/
def sortPairs (l : List Pair) : List Pair := l.foldl (fun a p => insertPair p a) []

/-- The slice that will serve a rank in the next period: with a rotation that waits, as it will be after it (R147). -/
def Block.nextSliceOf (b : Block) (r : Nat) : Option Nat :=
  match b.adc.carrel with
  | some c =>
    if b.adc.due ∧ b.adc.joining.isEmpty then
      match b.nextSlice c with
      | some o => if (b.slice o).rank = some r then some c else b.sliceOf r
      | none => b.sliceOf r
    else b.sliceOf r
  | none => b.sliceOf r

/-- Assign pairs to ranks two by two, the high-gain hold on the lower. -/
def Block.assignPairs (b : Block) : List Pair → List Nat → List (Nat × Nat × Pair × Bool)
  | p :: ps, r1 :: r2 :: rs =>
    match b.nextSliceOf r1, b.nextSliceOf r2 with
    | some s1, some s2 => (r1, s1, p, false) :: (r2, s2, p, true) :: b.assignPairs ps rs
    | _, _ => b.assignPairs ps rs
  | _, _ => []

/-- The assignment of period q + 1 at the start of period q (R132). -/
def Block.assignNext (b : Block) (q : Nat) : Block :=
  let ready := sortPairs (b.adc.pairs.filter fun p => decide (p.elig ≤ q + 1) && decide (q + 1 ≤ p.elig + 3))
  let bound := b.assignPairs ready b.injRanks
  let taken := bound.map fun x => x.2.2.1
  b.onAdc fun a => { a with bound := bound, pairs := a.pairs.filter fun p => !taken.contains p }

/-- Pairs whose fourth eligible period has begun without them are abandoned (R134): at its start, when it can no more be theirs; the spec
does not name the instant (assumption 112). -/
def Block.abandonLate (b : Block) (q : Nat) : Block :=
  let late := b.adc.pairs.filter fun p => decide (p.elig + 3 ≤ q)
  forEach late (b.onAdc fun a => { a with pairs := a.pairs.filter fun p => decide (q < p.elig + 3) }) fun p b => b.pairAbandoned p

/-- The conversions of the period that begins (R133, R137). -/
def Block.startPeriod (b : Block) (q : Nat) : Block :=
  let holds : List (Nat × Nat × Job) := b.adc.bound.map fun x => (x.1, x.2.1, .hold x.2.2.1 x.2.2.2)
  let free := b.ranks.filter fun r => !(b.adc.bound.any fun x => x.1 == r)
  let ref : List (Nat × Nat × Job) := match b.adc.carrel with
    | some c => [(32, c, .reference)]
    | none => []
  let b := b.onAdc fun a => { a with bound := [], jobs := holds ++ ref }
  forEach free b fun r b =>
    match b.sliceOf r with
    | none => b
    | some s =>
      let j := b.nextRegular (1024 * q)
      j.1.onAdc fun a => { a with jobs := a.jobs ++ [(r, s, j.2)] }

/-- The period that begins is one of the run, unless calibration is frozen or the exchange waits (R145, R147, R148). -/
def Block.countRun (b : Block) : Block :=
  b.onAdc fun a => { a with runDone := if a.carrel.isSome && !a.frozen && !a.due then a.runDone + 1 else a.runDone }

/-- A slot period starts (R132). -/
def Block.slotPeriod (b : Block) (q : Nat) (codes : List Conv) : Block :=
  let b := (b.completePeriod codes).onAdc fun a => { a with period := q }
  let b := b.rotate.retireSlices.countRun
  let b := b.startPeriod q
  (b.assignNext q).abandonLate q

/-- The array converts: it is powered in both roles while the core runs. -/
def Block.arrayRuns (b : Block) : Bool := b.running && b.time.everLocked

/-! ### Calibration runs (R145, R148, R149) -/

/-- Periods of a run. -/
def Block.runLength (b : Block) : Nat := if b.adc.initial then 8192 else 65536

/-- The check that a run fails, 0 for none. -/
def calCheck (fuse r : CalResult) : Nat :=
  if 512 < (r.offset - fuse.offset).natAbs then 1
  else if fuse.gain < 50 * ((r.gain : Int) - fuse.gain).natAbs then 2
  else if (fuse.weights.zip r.weights).any fun p => decide (p.1 < 25 * ((p.2 : Int) - p.1).natAbs) then 3
  else 0

/-- A run of the carrel slice completes (R145). The coefficients of an accepted run wait for the exchange. -/
def Block.runEnd (b : Block) (c : Nat) (r : CalResult) : Block :=
  let k := calCheck (b.sliceFuse c) r
  if k = 0 then
    let b := b.onSlice c fun s => { s with accepted := true, fails := 0 }
    let b := ((b.bump (0x442006 + 256 * c) 1).bump 0x440005 1).retryOk (siteId 3 c)
    b.onAdc fun a => { a with due := true, newCoef := some r }
  else
    let b := b.onSlice c fun s => { s with fails := s.fails + 1 }
    let b := (b.bump (0x442007 + 256 * c) 1).raise 0x40 [.id 6 c, .id 8 k]
    let b := (b.onAdc fun a => { a with runDone := 0 }).transient (siteId 3 c)
    if 3 ≤ (b.slice c).fails then b.permanent (siteId 3 c) 1 else b

/-- Every working slice has had an accepted run (R149). -/
def Block.allCalibrated (b : Block) : Bool :=
  !b.adc.slices.isEmpty && b.adc.slices.all fun p => p.2.retired || p.2.accepted

/-! ### Baselines (R163, R165) -/

/-- One sample of a baseline of n earlier samples. -/
def baselineStep (bl : Int) (n x k : Nat) : Int := if n = 0 then 16 * x else bl + roundDiv (16 * x - bl) (2 ^ k)

/-- A baseline sample of a channel (R163), and the drift of its high-gain baseline (R165). -/
def Block.baselineSample (b : Block) (c : Nat) (low : Bool) (x : Nat) : Block :=
  let k := b.rs 0x480006
  let b := b.onChan c fun v =>
    if low then { v with bLG := baselineStep v.bLG v.nLG x k, nLG := min 16 (v.nLG + 1) }
    else { v with bHG := baselineStep v.bHG v.nHG x k, nHG := min 16 (v.nHG + 1) }
  let v := b.chan c
  if !low ∧ v.nHG = 16 ∧ 16 * b.reg 0x480009 < (v.bHG - 1024).natAbs then
    b.raiseOnce 0x51 c [.id 8 c, .cnt 16 v.bHG.toNat]
  else b

/-- The samples delivered in a crossing update the baselines after its classification (R164). -/
def Block.applySamples (b : Block) : Block :=
  forEach b.adc.samples (b.onAdc fun a => { a with samples := [] }) fun s b => b.baselineSample s.1 s.2.1 s.2.2

/-! ### Meanings -/

/-- SLOT_PERIOD_START (R132): period a or b of the present crossing, once. -/
def execSlotPeriodStart (half : Bool) (codes : List Conv) (s : State) : Host.Outcome State Fault Refusal :=
  s.runIf (wellFormed (.slotPeriodStart half codes)) "SLOT_PERIOD_START" fun b =>
    let q := 2 * b.time.now + flag half
    b.when (b.arrayRuns && decide (b.adc.period < q)) fun b => b.slotPeriod q codes

/-- CAL_RUN_END (R145): in the last period of a run, for the boundary at which it ends; not while calibration is frozen. -/
def execCalRunEnd (r : CalResult) (s : State) : Host.Outcome State Fault Refusal :=
  s.runIf (wellFormed (.calRunEnd r)) "CAL_RUN_END" fun b =>
    match b.adc.carrel with
    | some c => b.when (b.arrayRuns && !b.adc.frozen && !b.adc.due && decide (b.runLength ≤ b.adc.runDone)) fun b => b.runEnd c r
    | none => b

end Sys2Proof.Machine
end

