-- ==== Sys2Proof/Machine/Compress.lean ====
section
/-! DEFINITION. The token format: decoder, encoder, regions (R324 to R330), and folio payloads (R335). Histories are lists
of bytes, the newest first. -/

namespace Sys2Proof.Machine

/-! ### Decoding (R326 to R328) -/

/-- Copy n bytes from a distance behind the end of the history, one at a time (R327). -/
def copyMatch : Nat → Nat → List Byte → List Byte
  | 0, _, h => h
  | n + 1, d, h => copyMatch n d (h.getD (d - 1) 0 :: h)

/-- Error codes of R328. -/
def errIllegal : Nat := 1
def errDistance : Nat := 2
def errOverrun : Nat := 3
def errTruncated : Nat := 4

/-- One token: its code byte and what follows. Answers how many bytes the token takes, the length of a literal or match
and the match's distance (0 for a literal). -/
def tokenAt (code : Nat) (rest : List Byte) : Except Nat (Nat × Nat × Nat) :=
  if code < 0x80 then (if rest.length < code then .error errTruncated else .ok (code + 1, code, 0))
  else if code < 0xC0 then
    match rest with
    | b1 :: b2 :: _ =>
      let d := b1.toNat * 16 + b2.toNat / 16
      if b2.toNat % 16 ≠ 0 ∨ d = 0 then .error errIllegal else .ok (3, code % 64 + 4, d)
    | _ => .error errTruncated
  else
    match rest with
    | b1 :: _ => if b1 = 0 then .error errIllegal else .ok (2, code % 64 + 4, b1.toNat)
    | _ => .error errTruncated

/-- Decode tokens up to END. `lim` bounds the output as it stands after a token, from the history and the bytes put out.
Answers the history, the bytes put out and what follows END, or the error and the offset of the token that fails. -/
def decodeTokens (lim : List Byte → Nat → Nat) : Nat → List Byte → List Byte → Nat → Nat →
    Except (Nat × Nat) (List Byte × Nat × List Byte)
  | 0, _, _, _, off => .error (errTruncated, off)
  | _ + 1, [], _, _, off => .error (errTruncated, off)
  | f + 1, c :: rest, hist, out, off =>
    if c = 0 then .ok (hist, out, rest)
    else match tokenAt c.toNat rest with
      | .error e => .error (e, off)
      | .ok (size, n, d) =>
        if hist.length < d then .error (errDistance, off)
        else
          let hist := if d = 0 then (rest.take n).reverse ++ hist else copyMatch n d hist
          if lim hist (out + n) < out + n then .error (errOverrun, off)
          else decodeTokens lim f (rest.drop (size - 1)) hist (out + n) (off + size)

/-- Decode a region of 40 bytes against a history: its output, oldest byte first (R326, R328). -/
def decodeRegion (region hist : List Byte) : Except Nat (List Byte) :=
  match decodeTokens (fun _ _ => 128) 41 region hist 0 0 with
  | .error e => .error e.1
  | .ok (h, out, rest) =>
    if rest.any (· != 0) then .error errIllegal
    else if out = 0 ∨ out % 8 ≠ 0 then .error errTruncated
    else .ok (h.take out).reverse

/-- The bound of a folio's output: 8 MiB, or BODY_LENGTH once its bytes at offset 0x10 have been put out (R335). -/
def folioBound (hist : List Byte) (out : Nat) : Nat :=
  if out < 0x14 then 0x800000 else min 0x800000 (natLE (octets (hist.drop (out - 0x14)).reverse 0x10 4))

/-- Unpack a folio payload: the body, or the error and the offset of its token (R335, R336). -/
def unpackFolio (payload : List Byte) : Except (Nat × Nat) (List Byte) :=
  match decodeTokens folioBound (payload.length + 1) payload [] 0 0 with
  | .error e => .error e
  | .ok (h, out, rest) =>
    let body := h.reverse
    let off := payload.length - rest.length - 1
    if rest.any (· != 0) ∨ 7 < rest.length then .error (errIllegal, off)
    else if out < 0x14 ∨ out < natLE (octets body 0x10 4) then .error (errTruncated, off)
    else .ok body

/-! ### Encoding (R329) -/

/-- How far a candidate at distance d agrees with the input, at most k bytes. -/
def matchLen : Nat → Nat → List Byte → List Byte → Nat
  | 0, _, _, _ => 0
  | _ + 1, _, _, [] => 0
  | k + 1, d, h, x :: t => if h.getD (d - 1) 0 = x then matchLen k d (x :: h) t + 1 else 0

/-- Literal tokens of a run, 127 bytes to a token. -/
def literalTokens : Nat → List Byte → List Byte
  | 0, _ => []
  | _ + 1, [] => []
  | f + 1, l => BitVec.ofNat 8 (min 127 l.length) :: l.take 127 ++ literalTokens f (l.drop 127)

/-- A run of unmatched bytes. -/
def literals (l : List Byte) : List Byte := literalTokens (l.length + 1) l

/-- A match token (R326). -/
def matchToken (n d : Nat) : List Byte :=
  if d < 256 then [BitVec.ofNat 8 (0xC0 + (n - 4)), BitVec.ofNat 8 d]
  else [BitVec.ofNat 8 (0x80 + (n - 4)), BitVec.ofNat 8 (d / 16), BitVec.ofNat 8 (d % 16 * 16)]

/-- A hash of four bytes. -/
abbrev Hash := Byte → Byte → Byte → Byte → Nat

/-- The hash of the position at the head of the input, of 4096 entries; none within three bytes of its end. -/
def hashHead (hash : Hash) (l : List Byte) : Option Nat :=
  match l with
  | a :: b :: c :: d :: _ => some (hash a b c d % 4096)
  | _ => none

/-- Put a position into the hash table. -/
def hashPut (hash : Hash) (tab : Tab Nat) (l : List Byte) (pos : Nat) : Tab Nat :=
  match hashHead hash l with
  | some h => tabSet tab h pos
  | none => tab

/-- The match at the head of the input, as (length, distance): the table's one candidate, within reach and agreeing in its
first four bytes. -/
def candidate (hash : Hash) (tab : Tab Nat) (hist l : List Byte) (pos : Nat) : Option (Nat × Nat) :=
  match hashHead hash l with
  | none => none
  | some h =>
    match tabFind tab h with
    | none => none
    | some p =>
      let d := pos - p
      let n := matchLen 67 d hist l
      if 1 ≤ d ∧ d ≤ 4095 ∧ d ≤ hist.length ∧ 4 ≤ n then some (n, d) else none

/-- Encode an input: `skip` bytes still belong to the match just written, `lit` is the literal run so far. Answers the
tokens without END, and the hash table. -/
def encodeFrom (hash : Hash) : List Byte → Nat → List Byte → List Byte → Tab Nat → Nat → List Byte × Tab Nat
  | [], _, lit, _, tab, _ => (literals lit, tab)
  | x :: t, skip, lit, hist, tab, pos =>
    let tab' := hashPut hash tab (x :: t) pos
    if 0 < skip then encodeFrom hash t (skip - 1) lit (x :: hist) tab' (pos + 1)
    else match candidate hash tab hist (x :: t) pos with
      | some (n, d) =>
        let r := encodeFrom hash t (n - 1) [] (x :: hist) tab' (pos + 1)
        (literals lit ++ matchToken n d ++ r.1, r.2)
      | none => encodeFrom hash t 0 (lit ++ [x]) (x :: hist) tab' (pos + 1)

/-- The tokens of a block, END included, and the hash table after it. -/
def encodeBlock (hash : Hash) (input hist : List Byte) (tab : Tab Nat) (pos : Nat) : List Byte × Tab Nat :=
  let r := encodeFrom hash input 0 [] hist tab pos
  (r.1 ++ [0], r.2)

/-- A block verifies: its tokens decode to its records (R330). 0 for a mismatch, else the decoder's error. -/
def verifyBlock (tokens input hist : List Byte) : Option Nat :=
  match decodeRegion (octets tokens 0 40) hist with
  | .error e => some e
  | .ok l => if l = input then none else some 0

/-- The bytes of a block's records (R321). -/
def recordBytes (l : List Word64) : List Byte := l.flatMap wordBytes

/-- A region of five words from its bytes (R325). -/
def regionWords (l : List Byte) : List Word64 := (List.range 5).map fun w => BitVec.ofNat 64 (natBE (octets l (8 * w) 8))

end Sys2Proof.Machine
end

