-- ==== Sys2Proof/Machine/Cvu.lean ====
section
/-! DEFINITION. Check-value units and the self-test of the fixed engines (chapter 13). -/

namespace Sys2Proof.Machine

/-! ### The model of R340 -/

/-- A value's low n bits in reverse order. -/
def reflect : Nat → Nat → Nat
  | 0, _ => 0
  | n + 1, v => (v % 2) * 2 ^ n + reflect n (v / 2)

/-- One byte into R (R340). -/
def cvuByte (w poly : Nat) (refin : Bool) (r : Nat) (x : Byte) : Nat :=
  crcMsb w poly 8 (if refin then reflect 8 x.toNat else x.toNat) r

/-- Bytes into R. -/
def cvuBytes (w poly : Nat) (refin : Bool) (r : Nat) (l : List Byte) : Nat := l.foldl (fun r x => cvuByte w poly refin r x) r

/-- The result from R (R340). -/
def cvuResult (w : Nat) (refout : Bool) (xorout r : Nat) : Nat :=
  (if refout then reflect w r else r % 2 ^ w) ^^^ xorout

/-! ### A unit's entries (R347, R348) -/

/-- Key of entry 64uu.e. -/
def cvuKey (u e : Nat) : Nat := 0x640000 + 256 * u + e

/-- Unit u, and a change of it. -/
def Block.cvu (b : Block) (u : Nat) : Cvu := tabGet {} b.cvus u
def Block.onCvu (b : Block) (u : Nat) (f : Cvu → Cvu) : Block := { b with cvus := tabMod {} b.cvus u f }

/-- W of a unit. -/
def Block.cvuWidth (b : Block) (u : Nat) : Nat := bits (b.reg (cvuKey u 1)) 5 0 + 1

/-- FOLD_MODE of a unit. -/
def Block.cvuMode (b : Block) (u : Nat) : Nat := bits (b.reg (cvuKey u 1)) 11 10

/-- The field by which START fails, in the order of R349; 0 for none (R347). -/
def Block.cvuFault (b : Block) (u : Nat) : Nat :=
  let m := 2 ^ b.cvuWidth u
  if b.reg (cvuKey u 2) % 2 = 0 ∨ m ≤ b.reg (cvuKey u 2) then 1
  else if m ≤ b.reg (cvuKey u 3) then 2
  else if m ≤ b.reg (cvuKey u 4) then 3
  else if b.cvuMode u = 2 ∧ m ≤ b.reg (cvuKey u 5) then 4
  else if b.cvuMode u = 3 then 5
  else 0

/-- R at START (R341). -/
def Block.cvuInit (b : Block) (u : Nat) : Nat :=
  let cfg := b.reg (cvuKey u 1)
  let init := b.reg (cvuKey u 3)
  let fold := b.reg (cvuKey u 5)
  match b.cvuMode u with
  | 1 => cvuBytes (b.cvuWidth u) (b.reg (cvuKey u 2)) (cfg.testBit 8) init (bytesBE (bits cfg 14 12 + 1) fold)
  | 2 => init ^^^ fold % 2 ^ b.cvuWidth u
  | _ => init

/-- A write of RUNNING_VALUE that has not yet taken effect. -/
def cvuPending (u : Nat) (p : PendWrite) : Bool := p.key == cvuKey u 8

/-- The unit runs for another session than the requester's, or is about to. -/
def Block.cvuForeign (b : Block) (h : Hdr) (u : Nat) : Bool :=
  (b.cvu u).running && !decide ((b.cvu u).owner = some (h.origin, h.session)) ||
    b.dict.pend.any fun p => cvuPending u p && !decide (p.hdr.origin = h.origin ∧ p.hdr.session = h.session)

/-- RESULT of a unit. -/
def Block.cvuRead (b : Block) (u : Nat) : Nat :=
  cvuResult (b.cvuWidth u) ((b.reg (cvuKey u 1)).testBit 9) (b.reg (cvuKey u 4)) (b.cvu u).value.toNat

/-! ### Operations (R345 to R347) -/

/-- START. -/
def Block.cvuStart (b : Block) (h : Hdr) (u : Nat) : Block :=
  if b.cvuFault u ≠ 0 then (b.raise 0xA0 [.id 4 u, .id 8 (b.cvuFault u)]).refuseKey h (cvuKey u 6) 0x07
  else
    (b.onCvu u fun _ => { running := true, owner := some (h.origin, h.session), value := BitVec.ofNat 64 (b.cvuInit u), bytes := 0 }).ack h
      (cvuKey u 6)

/-- STOP. -/
def Block.cvuStop (b : Block) (h : Hdr) (u : Nat) : Block :=
  (b.onCvu u fun k => { k with running := false, owner := none }).ack h (cvuKey u 6)

/-- A write of CONTROL. -/
def Block.cvuControl (b : Block) (h : Hdr) (u v : Nat) : Block :=
  if b.cvuForeign h u then b.refuseKey h (cvuKey u 6) 0x08
  else if v = 1 then b.cvuStart h u
  else if v = 2 then b.cvuStop h u
  else b.refuseKey h (cvuKey u 6) 0x07

/-- DATA enters R; a RUNNING_VALUE that the owner has written replaces R before its first byte (R346), and what it makes of R is what stands
from the boundary on. `done` answers the request that carried it: a WRITE or the last segment of a DOWNLOAD. -/
def Block.cvuData (b : Block) (h : Hdr) (u : Nat) (l : List Byte) (done : Block → Block) : Block :=
  let k := b.cvu u
  if l = [] then b.refuseKey h (cvuKey u 7) 0x06
  else if !k.running ∨ b.cvuForeign h u then b.refuseKey h (cvuKey u 7) 0x08
  else
    let from_ := ((b.dict.pend.filter (cvuPending u)).getLast?.map fun p => p.value).getD k.value.toNat
    let r := cvuBytes (b.cvuWidth u) (b.reg (cvuKey u 2)) ((b.reg (cvuKey u 1)).testBit 8) from_ l
    let b := b.onDict fun d => { d with pend := d.pend.map fun p => if cvuPending u p then { p with value := r } else p }
    done (b.onCvu u fun k => { k with value := BitVec.ofNat 64 r, bytes := k.bytes + l.length })

/-- A write of RUNNING_VALUE: restore in IDLE, replacement by the owner. It enters R at the next crossing boundary (R396). -/
def Block.cvuRestore (b : Block) (h : Hdr) (u v : Nat) : Block :=
  if b.cvuForeign h u then b.refuseKey h (cvuKey u 8) 0x08
  else if 2 ^ b.cvuWidth u ≤ v then (b.raise 0xA0 [.id 4 u, .id 8 6]).refuseKey h (cvuKey u 8) 0x07
  else b.pendWrite h (cvuKey u 8) v

/-- The write of RUNNING_VALUE takes effect. -/
def Block.cvuSetValue (b : Block) (h : Hdr) (u v : Nat) : Block :=
  b.onCvu u fun k =>
    if k.running then { k with value := BitVec.ofNat 64 v }
    else { running := true, owner := some (h.origin, h.session), value := BitVec.ofNat 64 v, bytes := 0 }

/-- CVU_CONFIG, POLY, INIT, XOROUT and FOLD are locked while the unit runs (R346). -/
def Block.cvuLocked (b : Block) (key : Nat) : Bool :=
  decide (0x640000 ≤ key) && decide (key < 0x641000) && decide (1 ≤ key % 256) && decide (key % 256 ≤ 5) &&
    (b.cvu (key / 256 % 256)).running

/-- The units that a session owned are released (R346). -/
def Block.cvuSessionEnd (b : Block) (o : Origin) (session : Nat) : Block :=
  forEach (List.range 16) b fun u b =>
    if (b.cvu u).running && decide ((b.cvu u).owner = some (o, session)) then
      (b.onCvu u fun k => { k with running := false, owner := none }).raise 0xA1 [.id 4 u, .id 7 session]
    else b

/-! ### The fixed engines (R343, R344) -/

/-- One failing copy of a triple-modular engine, as a bit of 6440.02. -/
def Block.engineFail (b : Block) (i : Nat) : Block :=
  if i < 3 then b.raise 0xA2 [.id 8 2, .id 6 0, .id 2 i]
  else if i < 6 then b.raise 0xA2 [.id 8 3, .id 6 0, .id 2 (i - 3)]
  else (b.raise 0xA2 [.id 8 4, .id 6 (i - 5), .id 2 b.freeVal.toNat]).freeNext

/-- The known answers of every fixed engine that the role has (R344): its lanes', and at a C-role the uplinks'. -/
def Block.engineTest (b : Block) (lanes tmr : Nat) : Block :=
  let lanes := lanes % 2 ^ (if b.cRole then 40 else 8)
  let tmr := tmr % 2 ^ (if b.cRole then 18 else 6)
  let b := (b.setReg 0x644001 lanes).setReg 0x644002 tmr
  let b := forEach (bitsSet 40 lanes) b fun l b => (b.raise 0xA2 [.id 8 1, .id 6 l, .id 2 0]).permanent (siteId 2 l) 3
  forEach (bitsSet 18 tmr) b fun i b => b.engineFail i

/-! ### Meanings -/

/-- CVU_START (R345): a write of 1 to CONTROL. -/
def execCvuStart (h : Hdr) (u : Fin 16) (s : State) : Host.Outcome State Fault Refusal :=
  s.run fun b => b.writeTo h (cvuKey u.val 6) 1 fun b => b.cvuControl h u.val 1

/-- CVU_STOP (R345): a write of 2 to CONTROL. -/
def execCvuStop (h : Hdr) (u : Fin 16) (s : State) : Host.Outcome State Fault Refusal :=
  s.run fun b => b.writeTo h (cvuKey u.val 6) 1 fun b => b.cvuControl h u.val 2

/-- CVU_DATA (R345): the last byte of a download to DATA has arrived. -/
def execCvuData (h : Hdr) (u : Fin 16) (data : List Byte) (s : State) : Host.Outcome State Fault Refusal :=
  s.run fun b => b.writeTo h (cvuKey u.val 7) data.length fun b => b.cvuData h u.val data fun b => b.landed h (cvuKey u.val 7)

/-- CVU_RUNNING_VALUE_WRITE (R345, R346). -/
def execCvuRunningValueWrite (h : Hdr) (u : Fin 16) (value : Word64) (s : State) : Host.Outcome State Fault Refusal :=
  s.run fun b => b.writeTo h (cvuKey u.val 8) 8 fun b => b.cvuRestore h u.val value.toNat

end Sys2Proof.Machine
end

