-- ==== Sys2Proof/Machine/Frames.lean ====
section
/-! DEFINITION. Crossing frames: their fields, check values, codes and copies (R300 to R305, R311). -/

namespace Sys2Proof.Machine

/-! ### Fields and check values -/

/-- Fields of B0. -/
def frCode (f : CFrame) : Nat := bits f.b0.toNat 63 56
def frClaim (f : CFrame) : Nat := bits f.b0.toNat 55 48
def frSlot (f : CFrame) : Nat := bits f.b0.toNat 47 34
def frOrbit (f : CFrame) : Nat := bits f.b0.toNat 33 32
def frCrc (f : CFrame) : Nat := bits f.b0.toNat 31 0

/-- The circulating region. -/
def frRegion (f : CFrame) : List Word64 := [f.b2, f.b3, f.b4, f.b5, f.b6]

/-- REF_CRC of a reference payload behind a header of 32 bits on a lane (R303). -/
def refCrc (lane header ref : Nat) : Nat := crcMsb 16 0x1021 88 (pack [(8, lane), (32, header), (48, ref)]) 0xFFFF

/-- The fold word of a frame on a lane (R304). -/
def foldWord (lane : Nat) (f : CFrame) : Nat := pack [(8, (frCode f)), (6, lane), (2, (frOrbit f)), (14, (frSlot f)), (2, 0)]

/-- REGION_CRC over a frame's region (R304). -/
def regionCrc (lane : Nat) (f : CFrame) : Nat :=
  cvuResult 32 true 0xFFFFFFFF (cvuBytes 32 0x1EDC6F41 true (0xFFFFFFFF ^^^ foldWord lane f) (recordBytes (frRegion f)))

/-- Copy A of the reference payload, where it checks (R303). -/
def copyA (lane : Nat) (f : CFrame) : Option Ref48 :=
  let r := bits f.b1.toNat 63 16
  if refCrc lane (bits f.b0.toNat 63 32) r = bits f.b1.toNat 15 0 then some (BitVec.ofNat 48 r) else none

/-- Copy B: the complement of B7, checked as B1. -/
def copyB (lane : Nat) (f : CFrame) : Option Ref48 := copyA lane { f with b1 := ~~~f.b7 }

/-- The first copy that checks. -/
def copyOf (lane : Nat) (f : CFrame) : Option Ref48 := (copyA lane f).orElse fun _ => copyB lane f

/-- A frame on a lane, from its header, the check of the frame before it, its payload and its region (R300). -/
def mkFrame (lane code claim slot orbit prev : Nat) (ref : Ref48) (region : List Word64) : CFrame :=
  let header := pack [(8, code), (8, claim), (14, slot), (2, orbit)]
  let b1 : Word64 := BitVec.ofNat 64 (pack [(48, ref.toNat), (16, refCrc lane header ref.toNat)])
  { b0 := BitVec.ofNat 64 (pack [(32, header), (32, prev)]), b1 := b1,
    b2 := region.getD 0 0, b3 := region.getD 1 0, b4 := region.getD 2 0, b5 := region.getD 3 0, b6 := region.getD 4 0,
    b7 := ~~~b1 }

/-! ### Codes (R301, R302) -/

/-- TRAINING. -/
def codeTraining : Nat := 0x7E

/-- What a receive half carries, as R301 distinguishes links. -/
inductive RxLink where
  | worker | downlink | uplink1 | uplink | timing | cross
deriving DecidableEq, Repr

/-- A code that the table gives the link. -/
def codeOk (k : RxLink) (c : Nat) : Bool :=
  match k with
  | .worker => decide (c ≤ 5) || c == 0x15 || (decide (0x31 ≤ c) && decide (c ≤ 0x35))
  | .downlink => decide (c ≤ 5) || (decide (0x31 ≤ c) && decide (c ≤ 0x35))
  | .uplink1 => decide (c ≤ 5) || (decide (0x31 ≤ c) && decide (c ≤ 0x35))
  | .uplink => decide (c ≤ 5)
  | .timing => c == 0
  | .cross => decide (c ≤ 5)

/-- The words of a region that its code makes valid, with whether they are a group or bulk words (R301). -/
def validWords (f : CFrame) : List Word64 × Bool :=
  if (frCode f) ≤ 5 then ((frRegion f).take (frCode f), false)
  else if (frCode f) = 0x15 then ((frRegion f), true)
  else ((frRegion f).take ((frCode f) % 16), true)

/-- The region carries bulk words. -/
def frBulk (f : CFrame) : Bool := (frCode f) / 16 == 3

/-! ### Receiving (R303, R311, R313) -/

/-- The lane number that a receive half keeps from its partner's training words. -/
def Block.peerLane (b : Block) (l : Nat) : Nat := b.reg (0x5C0006 + 256 * l)

/-- Key of counter e of lane l. -/
def laneCount (l e : Nat) : Nat := 0x5C0000 + 256 * l + e

/-- A frame's header names crossing h. -/
def Block.names (b : Block) (f : CFrame) (h : Nat) : Bool := (frSlot f) == b.slotOf h && (frOrbit f) == b.orbitOf h % 4

/-- Count the copies of a frame that fail, and disagree (R311). -/
def Block.countCopies (b : Block) (l : Nat) (f : CFrame) : Block :=
  let p := b.peerLane l
  let x := copyA p f
  let y := copyB p f
  let b := if x.isNone then b.bump (laneCount l 1) 1 else b
  let b := if y.isNone then b.bump (laneCount l 2) 1 else b
  if x.isSome ∧ y.isSome ∧ x ≠ y then (b.bump (laneCount l 3) 1).raiseOnce 0xA8 0 [.id 6 l, b.hereFld] else b

/-- A frame as it is received for header crossing h: one whose valid copy names another crossing is missing (R311). A code that
the link does not have is counted (R302). -/
def Block.takeFrame (b : Block) (l : Nat) (k : RxLink) (h : Nat) (f : CFrame) : Option CFrame × Block :=
  let b := b.countCopies l f
  if (copyOf (b.peerLane l) f).isSome && !b.names f h then (none, b.bump (laneCount l 5) 1)
  else if codeOk k (frCode f) then (some f, b)
  else (some f, b.bump (laneCount l 5) 1)

/-- The payload of a link from its frames in order (R311): the first copy that checks. A frame with a valid copy of another
value is counted. -/
def Block.resolve (b : Block) (frames : List (Nat × CFrame)) : Option Ref48 × Block :=
  match frames.findSome? fun q => copyOf (b.peerLane q.1) q.2 with
  | none => (none, b)
  | some v =>
    (some v, forEach frames b fun q b =>
      match copyA (b.peerLane q.1) q.2, copyB (b.peerLane q.1) q.2 with
      | some x, some y => if x = y ∧ x ≠ v then (b.bump (laneCount q.1 3) 1).raiseOnce 0xA8 0 [.id 6 q.1, b.hereFld] else b
      | some x, none => if x ≠ v then (b.bump (laneCount q.1 3) 1).raiseOnce 0xA8 0 [.id 6 q.1, b.hereFld] else b
      | none, some y => if y ≠ v then (b.bump (laneCount q.1 3) 1).raiseOnce 0xA8 0 [.id 6 q.1, b.hereFld] else b
      | none, none => b)

/-- A payload that no copy gives (R312). -/
def Block.unresolved (b : Block) (l : Nat) : Block := (b.bump 0x5B0008 1).raiseOnce 0xA9 0 [.id 6 l, b.hereFld]

/-- A region that its check fails, or that has no check to come (R313): the withdrawal that takes its place. It is a transient of the
lane (R378). -/
def Block.regionFailed (b : Block) (l h : Nat) : Word64 × Block :=
  (withdrawalRecord 5 siteLane l (b.orbitOf h) (b.slotOf h) 0 5,
    ((b.bump (laneCount l 4) 1).raiseOnce 0xAA 0 [.id 6 l, b.hereFld]).transient (siteId 2 l))

/-- The region of a frame is kept: the next frame's REGION_CRC checks it and its code is one of its link's (R302, R313). -/
def Block.regionKept (b : Block) (l : Nat) (k : RxLink) (f next : CFrame) : Bool :=
  (frCrc next) == regionCrc (b.peerLane l) f && codeOk k (frCode f)

/-- A received claim: 255 is taken as 0 and counted (R314). -/
def Block.claimOf (b : Block) (f : CFrame) : Nat × Block :=
  if (frClaim f) = 255 then (0, b.bump 0x5B000B 1) else ((frClaim f), b)

end Sys2Proof.Machine
end

