-- ==== Sys2Proof/Machine/Lanes.lean ====
section
/-! DEFINITION. Serial lanes: links, bring-up, placement, drops, Dormant, PRBS (chapter 10). -/

namespace Sys2Proof.Machine

/-! ### Links (R18, R20, R24, R25, R265, R266) -/

/-- Kinds of link. -/
inductive LinkKind where
  | port | group | uplink | timing | cross
deriving DecidableEq, Repr

/-- A link: its LINK_ID (R280), its receive and transmit halves by rank, its bonding width. -/
structure Link where
  kind  : LinkKind
  id    : Nat
  rx    : List Nat
  tx    : List Nat
  width : Nat
deriving DecidableEq, Repr

/-- Bonding width of an F-role's groups: that of the one port of its topology. -/
def groupWidth (ports : List PortPlan) : Nat := (ports.head?.map PortPlan.width).getD 1

/-- The ports of the active set, or of the retirement plan in force (R384). -/
def Block.portsNow (b : Block) : List PortPlan :=
  match b.sets.planCuts with
  | some p => if p.portPlans.isEmpty then b.active.folio.ports else p.portPlans
  | none => b.active.folio.ports

/-- The link of a worker port whose ranks arrive in lane order. -/
def portLink (p : PortPlan) : Link :=
  { kind := .port, id := p.port, rx := (List.range p.width).map (p.lane + ·), tx := [p.lane], width := p.width }

/-- The link of a worker port by the ranks that its receive halves have been found to carry (R29, R284). -/
def Block.portLinkNow (b : Block) (p : PortPlan) : Link :=
  let k := portLink p
  if (b.lane p.lane).reversed then { k with rx := k.rx.reverse } else k

/-- The lane that a link's handshake and the widths it hears are kept with: the lowest of a port. -/
def Link.home (k : Link) : Nat := k.tx.headD 0

/-- The receive half of rank 0. -/
def Link.first (k : Link) : Nat := k.rx.headD 0

/-- The rank-0 receive half of a port is Active. -/
def Block.portHeard (b : Block) (p : PortPlan) : Bool := (b.lane (b.portLinkNow p).first).rx == .active

/-- A port of the topology in force, or one that a retirement plan has cut. -/
def Block.portPlanOf (b : Block) (p : Nat) : Option PortPlan :=
  (b.portsNow.find? fun q => q.port == p).orElse fun _ => b.active.folio.ports.find? fun q => q.port == p

/-- The link of an uplink. -/
def uplinkLink (u : Nat × Nat) : Link := { kind := .uplink, id := 32 + u.1, rx := [u.2], tx := [u.2], width := 1 }

/-- A link of both halves of one lane with no LINK_ID. -/
def laneLink (k : LinkKind) (l : Nat) : Link := { kind := k, id := 0, rx := [l], tx := [l], width := 1 }

/-- A group of an F-role (R18). -/
def groupLink (g w : Nat) : Link := { kind := .group, id := 0, rx := [4 * g], tx := (List.range w).map (4 * g + ·), width := w }

/-- The links of a set with given ports. -/
def Block.linksOf (b : Block) (c : CfgSet) (ports : List PortPlan) : List Link :=
  if b.cRole then
    ports.map b.portLinkNow ++ c.folio.uplinks.map uplinkLink ++
      (if c.folio.topology = 0 then [laneLink .cross 38, laneLink .cross 39] else [])
  else groupLink 0 (groupWidth ports) :: (if c.folio.topology = 0 then [groupLink 1 (groupWidth ports)] else [])

/-- The links that train without any set (R268). -/
def Block.fixedLinks (b : Block) : List Link :=
  if b.cRole then [laneLink .timing 36, laneLink .timing 37]
  else if b.sets.act.isNone then [groupLink 0 1, groupLink 1 1] else []

/-- The links in use: of the active set, and those that train without one. -/
def Block.linksNow (b : Block) : List Link :=
  b.fixedLinks ++ (match b.sets.act with
    | some c => b.linksOf c b.portsNow
    | none => [])

/-- The links of the set whose swap is armed. -/
def Block.linksArmed (b : Block) : List Link := if b.sets.armed.isSome then b.linksOf b.sets.shd b.sets.shd.folio.ports else []

/-- The links that a plan of the active set uses (R292). -/
def Block.linksPlanned (b : Block) : List Link := b.active.folio.plans.flatMap fun p => p.portPlans.map portLink

/-- The link that a lane belongs to. -/
def Block.linkOf (b : Block) (l : Nat) : Option Link :=
  (b.linksNow ++ b.linksArmed).find? fun k => k.rx.contains l || k.tx.contains l

/-- The receive half of a lane is Active. -/
def Block.rxActive (b : Block) (l : Nat) : Bool := (b.lane l).rx == .active

/-- A link runs: its rank-0 receive half and its transmit half are Active. -/
def Block.linkUp (b : Block) (k : Link) : Bool :=
  (k.rx.head?.map b.rxActive).getD false && (k.tx.head?.map fun l => (b.lane l).tx == .active).getD false

/-- The lane code of a half's state, as 59ll.02 has it. -/
def halfCode : Half → Nat
  | .off => 0
  | .training => 1
  | .active => 2
  | .dormant => 3
  | .retired => 4

/-! ### Training (R265, R267, R282) -/

/-- Adaptation is frozen on a receive half (R275). -/
def Block.rxFrozen (b : Block) (l : Nat) : Bool := b.env.freeze || (b.reg (0x590001 + 256 * l)).testBit 2

/-- LANE_TRAINING and LANE_DORMANT of a half that leaves a state for Training. -/
def Block.leftFor (b : Block) (l : Nat) (was : Half) : Block :=
  let b := b.raise 0x7C [.id 6 l, .id 8 (halfCode was)]
  if was = .dormant then b.raise 0x7B [.id 6 l, .id 1 0] else b

/-- The region of the last frame of a half that leaves Active has no check to come (R304, R313). A downlink's is judged as its turn
comes. -/
def Block.lastLost (b : Block) (l : Nat) : Block :=
  let clear := fun (b : Block) => b.onLane l fun k => { k with last := none, wait := [] }
  match (b.lane l).last, b.linkOf l with
  | some (h, f), some k =>
    if (b.lane l).rx ≠ .active ∨ k.kind = .group then clear b
    else
      let b := (b.regionFailed l h).2
      clear (b.when (k.kind == .port || k.kind == .uplink) fun b => b.onLane l fun q => { q with result := q.result ++ [(h, f, false)] })
  | _, _ => clear b

/-- A receive half enters Training; its first attempt starts at once. -/
def Block.trainRx (b : Block) (l : Nat) : Block :=
  let was := (b.lane l).rx
  if was = .retired ∨ was = .training then b
  else
    let b := b.lastLost l
    (b.onLane l fun k => { startStep k with rx := .training, attempts := 1, placed := none }).leftFor l was

/-- A transmit half enters Training, unless it has to wait for the core PLL's first lock (R267). -/
def Block.trainTx (b : Block) (l : Nat) : Block :=
  let was := (b.lane l).tx
  if was = .retired ∨ was = .training ∨ !b.time.everLocked then b
  else
    let b := b.onLane l fun k => { k with tx := .training }
    if (b.lane l).rx = .training then b else b.leftFor l was

/-- Every half of a link that is Off or Dormant starts to train (R265, R293). -/
def Block.wakeLink (b : Block) (k : Link) : Block :=
  let idle := fun (h : Half) => h == .off || h == .dormant
  let b := forEach k.rx b fun l b => if idle (b.lane l).rx then b.trainRx l else b
  forEach k.tx b fun l b => if idle (b.lane l).tx then b.trainTx l else b

/-- The halves that a set in force or an armed one uses train (R265, R268, R293). -/
def Block.wakeLinks (b : Block) : Block := forEach (b.linksNow ++ b.linksArmed) b fun k b => b.wakeLink k

/-- A whole link leaves for Training; the attempt starts at once (R287). -/
def Block.retrain (b : Block) (k : Link) : Block :=
  let b := forEach k.rx b fun l b => b.trainRx l
  forEach k.tx b fun l b => b.trainTx l

/-! ### Off and Dormant (R292) -/

/-- Halves that links use. -/
def rxOf (l : List Link) : List Nat := l.flatMap Link.rx
def txOf (l : List Link) : List Nat := l.flatMap Link.tx

/-- What an unused half of a lane is: Dormant where the shadow set or a plan uses it, or under R24, in C-role; else Off. -/
def Block.idleState (b : Block) (l : Nat) (tx : Bool) : Half :=
  if !b.cRole then .off
  else
    let later := b.linksPlanned ++ (if b.sets.shd.state = .empty then [] else b.linksOf b.sets.shd b.sets.shd.folio.ports)
    let bonded := (b.linksNow.filter fun k => k.kind == .port).flatMap fun k => k.rx.filter fun l => !k.tx.contains l
    if (if tx then txOf later else rxOf later).contains l || (tx && bonded.contains l) then .dormant else .off

/-- Halves that neither the active set nor an armed one uses go Off or Dormant. A lane in a PRBS mode stays. -/
def Block.parkLane (b : Block) (l : Nat) : Block :=
  let k := b.lane l
  let use := b.linksNow ++ b.linksArmed
  if k.prbs ≠ 0 then b
  else
    let rx := if k.rx = .retired ∨ (rxOf use).contains l then k.rx else b.idleState l false
    let tx := if k.tx = .retired ∨ (txOf use).contains l then k.tx else b.idleState l true
    if rx = k.rx ∧ tx = k.tx then b
    else
      let was := decide (k.rx = .dormant) || decide (k.tx = .dormant)
      let now := decide (rx = .dormant) || decide (tx = .dormant)
      let b := b.onLane l fun k => { k with rx := rx, tx := tx, step := if rx = .off then 0 else k.step }
      if now && !was then b.raise 0x7B [.id 6 l, .id 1 1] else if was && !now then b.raise 0x7B [.id 6 l, .id 1 0] else b

/-- Every lane of the role. -/
def Block.parkLanes (b : Block) : Block := forEach (List.range (if b.cRole then 40 else 8)) b fun l b => b.parkLane l

/-! ### Attempts (R282, R283) -/

/-- A half that completed step 1 but failed at step 2, 3 or 4 has a failed retry. -/
def Block.retryHalf (b : Block) (l : Nat) : Block :=
  let k := b.lane l
  if k.rx ≠ .training ∨ !k.step1 ∨ k.step < 2 ∨ 4 < k.step then b
  else
    let b := b.onLane l fun k => { k with retries := k.retries + 1 }
    let b := if 3 ≤ (b.lane l).retries then b.raise 0x7F [.id 6 l, .id 3 k.step] else b
    b.retryFailed (siteId 2 l)

/-- A half that stood at step 5 because of its margins could not be placed (R289). -/
def Block.placeLate (b : Block) (l : Nat) : Block :=
  let q := b.lane l
  match q.best with
  | some m => b.when (q.step == 5 && q.failStep == 5) fun b => b.raise 0x79 [.id 6 l, .int 16 m]
  | none => b

/-- An attempt of a link ends without the link Active. -/
def Block.attemptEnds (b : Block) (k : Link) (rx : List Nat) : Block :=
  let l := rx.headD 0
  let top := (rx.map fun l => max (b.lane l).top (b.lane l).step).foldl max 0
  let b := b.raise 0x72 [.id 6 l, .id 3 top, .cnt 16 (b.lane l).attempts]
  let answered := rx.any fun l => (b.lane l).step1
  let b := forEach rx b fun l b => (b.placeLate l).retryHalf l
  if answered then forEach rx b fun l b => b.onLane l fun q => { q with silentRun := 0 }
  else
    let b := forEach rx b fun l b => b.onLane l fun q => { q with silentRun := q.silentRun + 1 }
    if 64 ≤ (b.lane l).silentRun ∧ !(b.lane l).absent then
      (forEach rx b fun l b => b.onLane l fun q => { q with absent := true }).raise 0x73 [.id 6 l, .id 6 k.id]
    else b

/-- Width codes. -/
def widthCode (w : Nat) : Nat := if w = 1 then 0 else if w = 2 then 1 else 2
def unconfigured : Nat := 3

/-- The width check of a port: 0 it passes, 1 UNCONFIGURED, 2 it differs. Other links have none (R28, R286). -/
def widthCheck (k : Link) (w : Nat) : Nat :=
  if k.kind ≠ .port then 0 else if w = unconfigured then 1 else if w = widthCode k.width then 0 else 2

/-- Receive halves that a link trains by the width it hears: rank 0 alone of an UNCONFIGURED port. -/
def readyHalves (k : Link) (w : Nat) : List Nat := if widthCheck k w = 1 then k.rx.take 1 else k.rx

/-- Receive halves whose attempt a link makes: those in Training, and not frozen (R275). -/
def Block.trialHalves (b : Block) (k : Link) : List Nat :=
  (readyHalves k (b.lane k.home).width).filter fun l => (b.lane l).rx == .training && (b.lane l).prbs == 0 && !b.rxFrozen l

/-- The next attempt of a link, from step 1 (R282). A further transmit half of an Active group that has sent its training words
for an attempt becomes Active (assumption 17). -/
def Block.attempt (b : Block) (k : Link) : Block :=
  let rx := b.trialHalves k
  if rx.isEmpty then
    if k.kind = .group ∧ b.linkUp k then
      forEach (k.tx.drop 1) b fun l b => b.onLane l fun q => if q.tx = .training then { q with tx := .active } else q
    else b
  else
    let b := b.attemptEnds k rx
    forEach (rx.filter fun l => (b.lane l).rx == .training) b fun l b => b.onLane l fun q => { startStep q with attempts := q.attempts + 1 }

/-! ### Steps 2 to 5 (R281, R284, R288, R289) -/

/-- Fields of a training word (R280). -/
def twLane (w : Ref48) : Nat := bits w.toNat 47 42
def twRank (w : Ref48) : Nat := bits w.toNat 41 40
def twWidth (w : Ref48) : Nat := bits w.toNat 39 38
def twUnit (w : Ref48) : Nat := bitN w.toNat 36
def twReady (w : Ref48) : Bool := w.toNat.testBit 28
def twAck (w : Ref48) : Bool := w.toNat.testBit 27
def twLinkId (w : Ref48) : Nat := bits w.toNat 20 15

/-- The training word of a frame: its own LANE is the lane number folded into its check (R303). -/
def trainingWord (f : CFrame) : Option Ref48 :=
  (copyA (bits f.b1.toNat 63 58) f).orElse fun _ => copyB (bits (~~~f.b7).toNat 63 58) f

/-- The partner's lanes that a link may hear, by rank: a worker's group for the unit (R19), or one lane of any number. -/
def Block.partnerLane (b : Block) (k : Link) (rank : Nat) : Option Nat :=
  if k.kind = .port then some (rank + if b.boot.unitB then 4 else 0) else none

/-- LANE and RANK of a word belong to the group. -/
def Block.inGroup (b : Block) (k : Link) (w : Ref48) : Bool :=
  match b.partnerLane k (twRank w) with
  | some l => twLane w == l && decide (twRank w < k.width)
  | none => true

/-- The rank of a receive half in its link. -/
def placeOf (k : Link) (l : Nat) : Nat := (k.rx.findIdx? (· == l)).getD 0

/-- The place of a half of a port counted from its lowest lane. -/
def seatOf (k : Link) (l : Nat) : Nat := l - k.home

/-- The half hears the rank of its place, or the reversed one (R284). -/
def rankFits (k : Link) (l rank : Nat) : Bool := rank == seatOf k l || rank + seatOf k l + 1 == k.width

/-- A LANE and RANK that keep the link at step 4. -/
def Block.orderInvalid (b : Block) (l lane rank : Nat) : Block :=
  let was := (b.lane l).failStep
  let b := b.onLane l fun k => { k with goodWords := 0, failStep := 4 }
  if was = 4 then b else b.raise 0x77 [.id 6 l, .id 6 lane, .id 2 rank]

/-- How many ranks a port hears from a worker of a width: a narrower worker has fewer than the port (R28). -/
def ranksHeard (k : Link) (w : Nat) : Nat := if w < 3 then min (2 ^ w) k.width else k.width

/-- Step 4 is complete for halves, in lane order or reversed; the reversal is told once (R284). -/
def Block.ordered (b : Block) (k : Link) (halves : List Nat) (rev : Bool) : Block :=
  let was := (b.lane k.home).reversed
  let b := forEach halves b fun l b => b.onLane l fun q => { q with step := 5, goodWords := 0, goodPlace := 0 }
  let b := forEach k.rx b fun l b => b.onLane l fun q => { q with reversed := rev }
  if rev && !was then b.raise 0x76 [.id 6 k.id, .id 6 k.home] else b

/-- All receive halves that train and that the worker's lanes reach have had 16 valid words: in lane order, or exactly reversed, step 4
is complete; another order keeps the link there. -/
def Block.orderDone (b : Block) (k : Link) : Block :=
  let halves := k.rx.filter fun l => (b.lane l).rx == .training
  let n := ranksHeard k (b.lane k.home).width
  let good := fun l => (b.lane l).step == 4 && decide (16 ≤ (b.lane l).goodWords)
  let low := halves.filter fun l => decide (seatOf k l < n)
  let high := halves.filter fun l => decide (k.width ≤ seatOf k l + n)
  if !low.isEmpty && low.all fun l => good l && (b.lane l).rank == seatOf k l then b.ordered k low false
  else if !high.isEmpty && high.all fun l => good l && (b.lane l).rank + seatOf k l + 1 == k.width then b.ordered k high true
  else if halves.all good then
    let bad := (halves.find? fun l => (b.lane l).rank != seatOf k l).getD k.home
    (forEach halves b fun l b => b.onLane l fun q => { q with goodWords := 0 }).orderInvalid bad (b.reg (0x5C0006 + 256 * bad)) (b.lane bad).rank
  else b

/-- A valid word in step 4. -/
def Block.orderWord (b : Block) (k : Link) (l : Nat) (w : Ref48) : Block :=
  if b.inGroup k w && rankFits k l (twRank w) then
    let same := (b.lane l).rank == twRank w
    (b.onLane l fun q => { q with rank := twRank w, goodWords := if same then q.goodWords + 1 else 1 }).orderDone k
  else b.orderInvalid l (twLane w) (twRank w)

/-- A word of an UNCONFIGURED worker in step 4: the half that hears it is that of rank 0, on the lowest lane or on the highest. -/
def Block.orderFirst (b : Block) (k : Link) (l : Nat) : Block :=
  (b.onLane l fun q => { q with rank := 0 }).ordered k [l] (decide (seatOf k l ≠ 0 ∧ seatOf k l + 1 = k.width))

/-- T_RX in LSB_phi at the measured frequency (R288): 4.0 ns. -/
def Block.tRx (b : Block) : Nat := (4 * b.time.fx * 2048 + 500000000000) / 1000000000000

/-- G (R288). -/
def marginG : Nat := 256

/-- The header crossing of a frame, from its slot and orbit bits. -/
def Block.headerOf (b : Block) (f : CFrame) : Nat := b.crossingNamed (frOrbit f) (frSlot f)

/-- The depth fixed for a link (R288); none for a downlink. -/
def Block.fixedDepth (b : Block) (k : LinkKind) : Option Nat :=
  match k with
  | .port => some b.fW
  | .uplink => some b.fB
  | .cross => some b.fK
  | _ => none

/-- The alignment delay D of a downlink (R56). -/
def Block.alignD (b : Block) (side : Nat) : Nat := b.reg (0x284001 + side)

/-- First acquisition at an F-role (R55): the slot and orbit bits of the downlink header, advanced by the frame, T_RX and the whole
crossings of D. While no set is active each header is taken so (assumption 18). The whole orbit number comes with the next
announcement (R58). -/
def Block.acquireFrom (b : Block) (f : CFrame) (side : Nat) : Block :=
  if b.cRole ∨ (b.time.acquired ∧ b.sets.act.isSome) then b
  else
    let n := if b.nO = 0 then 16384 else b.nO
    let at_ := frSlot f + 2 + (b.alignD side + b.tRx) / 2048
    let back := (b.time.orbit % 4 + 4 - frOrbit f) % 4
    let orbit := (if back ≤ b.time.orbit then b.time.orbit - back else frOrbit f) + at_ / n
    let slot := at_ % n
    let start := b.time.now - slot
    b.onTime fun t => { t with
      acquired := true, slot := slot, orbit := orbit, markMissed := true,
      log := [⟨orbit + 2 ^ 48 - 1, start - n, n, b.sets.swaps⟩, ⟨orbit, start, n, b.sets.swaps⟩] }

/-- The first placed downlink sets F_R, a deeper one placed later raises it (R316). -/
def Block.raiseFr (b : Block) (f : Nat) : Block :=
  b.onFrm fun t => if t.frSet then { t with fr := max t.fr f } else { t with fr := f, frSet := true }

/-- A half is placed at depth F: step 5 is complete and the handshake follows. -/
def Block.placeHalf (b : Block) (k : Link) (l f : Nat) : Block :=
  let b := b.onLane l fun q => { q with step := 6, placed := some f, goodPlace := 0 }
  if k.kind = .group then b.raiseFr f else b

/-- A frame in step 5 at a fixed depth, with the margin it would have. -/
def Block.placeFixed (b : Block) (k : Link) (l f : Nat) (margin : Int) : Block :=
  let b := b.onLane l fun q => { q with best := some (max margin (q.best.getD margin)) }
  if (marginG : Int) ≤ margin then
    let b := b.onLane l fun q => { q with goodPlace := q.goodPlace + 1, margin := margin.toNat }
    if 16 ≤ (b.lane l).goodPlace then b.placeHalf k l f else b
  else b.onLane l fun q => { q with goodPlace := 0, failStep := 5 }

/-- A frame in step 5 of a downlink: its B7 is checked in the present crossing with a margin to its end; the depth is the least
that gives a margin of at least G. -/
def Block.placeFree (b : Block) (k : Link) (l : Nat) (f : CFrame) (margin : Nat) : Block :=
  let b := b.acquireFrom f (l / 4)
  let base := b.time.now - 2 - b.headerOf f
  let depth := if marginG ≤ margin then base else base + 1
  let m := if marginG ≤ margin then margin else margin + 2048
  let same := (b.lane l).placed = some depth
  let b := b.onLane l fun q => { q with placed := some depth, margin := m, goodPlace := if same then q.goodPlace + 1 else 1 }
  if 16 ≤ (b.lane l).goodPlace then b.placeHalf k l depth else b

/-- A frame in step 5. -/
def Block.placeFrame (b : Block) (k : Link) (l : Nat) (f : CFrame) (margin : Int) : Block :=
  match b.fixedDepth k.kind with
  | some d => b.placeFixed k l d margin
  | none => b.placeFree k l f margin.toNat

/-! ### Step 6 (R28, R286) -/

/-- READY: every receive half has completed step 5, and the width check passes. -/
def Block.readyNow (b : Block) (k : Link) : Bool :=
  let w := (b.lane k.home).width
  widthCheck k w != 2 && (readyHalves k w).all fun l => (b.lane l).rx == .training && (b.lane l).step == 6

/-- Step 6 of a port whose worker reports another width: it is told once in an attempt, and READY is withheld (R28, R286). -/
def Block.shakeWord (b : Block) (k : Link) (w : Ref48) : Block :=
  if widthCheck k (twWidth w) = 2 ∧ (b.lane k.home).failStep ≠ 6 then
    (b.onLane k.home fun q => { q with failStep := 6 }).raise 0x78 [.id 6 k.id, .id 2 (twWidth w)]
  else b

/-- What every valid training word tells: the partner's lane, width, unit and link, its READY and ACK (R280, R286). The words of rank 0
tell the handshake. -/
def Block.noteWord (b : Block) (k : Link) (l : Nat) (w : Ref48) : Block :=
  let b := b.setReg (0x5C0006 + 256 * l) (twLane w)
  let b := b.onLane k.home fun q => { q with width := twWidth w, peerUnit := twUnit w == 1, peerLink := twLinkId w }
  b.when (l == k.first) fun b => b.onLane k.home fun q =>
    let run := if twReady w then q.readyRun + 1 else 0
    { q with readyRun := run, ack := q.ack || decide (2 ≤ run), ackSeen := q.ackSeen || twAck w }

/-- A receive half becomes Active, with its attempts and failed retries behind it (R282). -/
def Block.rxOn (b : Block) (l : Nat) : Block :=
  (b.onLane l fun q => { q with rx := .active, step := 7, attempts := 0, silentRun := 0, absent := false, retries := 0, syncBad := [],
                                last := none, wait := [] }).retryOk (siteId 2 l)

/-- LANE_ACTIVE, and LANE_PRESENT of a link or half that was ABSENT. -/
def Block.activeEvents (b : Block) (l id : Nat) (absent : Bool) : Block :=
  let b := b.raise 0x70 [.id 6 l, .id 6 id]
  if absent then b.raise 0x74 [.id 6 l, .id 6 id] else b

/-- A link becomes Active (R282, R286). A domain begins to acquire; the tracker of a downlink, for which the spec names no states of
R49, counts as QUALIFIED from then on, without an event (assumption 103). -/
def Block.linkActive (b : Block) (k : Link) (rx : List Nat) : Block :=
  let l := rx.headD 0
  let absent := (b.lane l).absent
  let b := forEach rx b fun l b => b.rxOn l
  let b := forEach k.tx b fun l b => b.onLane l fun q => if q.tx = .training then { q with tx := .active } else q
  let b := b.activeEvents l k.id absent
  if k.kind = .port ∧ (b.lane k.home).width = unconfigured then b.onPort k.id fun p => { p with align := 0, tripped := false }
  else if k.kind = .group then b.onDom (l / 4) fun t => { t with state := .qualified }
  else if k.kind = .timing then b.onDom (l - 36) fun t => { t with state := .acquiring }
  else b

/-- A further rank of an Active port whose half has been placed again rejoins at the boundary (R287). -/
def Block.rejoin (b : Block) (k : Link) : Block :=
  b.when (k.kind == .port && b.rxActive k.first && (b.lane k.home).width == widthCode k.width) fun b =>
    forEach ((k.rx.drop 1).filter fun l => (b.lane l).rx == .training && (b.lane l).step == 6) b fun l b =>
      (b.rxOn l).activeEvents l k.id (b.lane l).absent

/-- At a crossing boundary a link that has sent READY and ACK in 2 frames and has seen ACK becomes Active. -/
def Block.activateLinks (b : Block) : Block :=
  forEach (b.linksNow ++ b.linksArmed) b fun k b =>
    let b := b.rejoin k
    let q := b.lane k.home
    let r := b.lane k.first
    b.when (k.kind != .timing && r.rx == .training && r.step == 6 && decide (2 ≤ q.sentBoth) && q.ackSeen) fun b =>
      b.linkActive k (readyHalves k q.width)

/-- The word that a transmit half in Training sends (R280): LOCKED bit k is the receive half of rank k. -/
def Block.myWord (b : Block) (k : Link) (l : Nat) : Ref48 :=
  let q := b.lane k.home
  let r := b.lane k.first
  let width := if !b.cRole ∧ b.sets.act.isNone then unconfigured else widthCode k.width
  let locked := orBits (((List.range k.rx.length).zip k.rx).filterMap fun p =>
    if (b.lane p.2).step = 6 ∨ (b.lane p.2).rx = .active then some p.1 else none)
  BitVec.ofNat 48 (pack [(6, l), (2, (k.tx.findIdx? (· == l)).getD 0), (2, width), (1, flag b.cRole), (1, flag b.boot.unitB),
    (3, if r.rx = .training then min 6 r.step else 0), (4, locked), (1, flag (b.readyNow k)), (1, flag q.ack), (6, r.attempts), (6, k.id), (15, 0)])

/-! ### A training frame (R280, R281) -/

/-- Sync-header patterns of step 2: 64 frames of one pattern. -/
def Block.polarityFrame (b : Block) (l : Nat) (sync : Option Bool) : Block :=
  match sync with
  | none => b.onLane l fun q => { q with goodWords := 0, syncBad := [] }
  | some inv =>
    let same := (b.lane l).syncBad == [inv]
    let b := b.onLane l fun q => { q with goodWords := if same then q.goodWords + 1 else 1, syncBad := [inv] }
    if 64 ≤ (b.lane l).goodWords then
      let b := b.onLane l fun q => { q with step := 3, goodWords := 0, inverted := inv }
      if inv then b.raise 0x75 [.id 6 l] else b
    else b

/-- Block lock of step 3: 64 frames with the normal pattern. Only a bonded link has a step 4. -/
def Block.lockFrame (b : Block) (k : Link) (l : Nat) (sync : Option Bool) : Block :=
  if sync = some (b.lane l).inverted then
    let b := b.onLane l fun q => { q with goodWords := q.goodWords + 1 }
    if 64 ≤ (b.lane l).goodWords then
      b.onLane l fun q => { q with step := if k.kind = .timing then 6 else if 1 < k.rx.length then 4 else 5, goodWords := 0 }
    else b
  else b.onLane l fun q => { q with goodWords := 0 }

/-- A training frame without a valid word. -/
def Block.wordLost (b : Block) (k : Link) (l : Nat) : Block :=
  let b := b.onLane l fun q => { q with goodWords := 0, goodPlace := 0 }
  b.when (l == k.first) fun b => b.onLane k.home fun q => { q with readyRun := 0 }

/-- A training frame at a half in Training, by its step. -/
def Block.trainStep (b : Block) (k : Link) (l : Nat) (f : CFrame) (sync : Option Bool) (margin : Int) : Block :=
  match (b.lane l).step with
  | 2 => b.polarityFrame l sync
  | 3 => b.lockFrame k l sync
  | _ =>
    match trainingWord f with
    | none => b.wordLost k l
    | some w =>
      let b := b.noteWord k l w
      match (b.lane l).step with
      | 4 => if widthCheck k (twWidth w) = 1 then b.orderFirst k l else b.orderWord k l w
      | 5 => b.placeFrame k l f margin
      | 6 => b.shakeWord k w
      | _ => b

/-! ### A further rank alone (R287) -/

/-- The half is that of a further rank of a port whose rank 0 runs: it trains on crossing frames. -/
def Block.trainsAlone (b : Block) (k : Link) (l : Nat) : Bool :=
  k.kind == .port && placeOf k l != 0 && (b.lane l).rx == .training && b.rxActive k.first

/-- Step 4 on crossing frames: 16 whose copies check with the lane number kept for the rank. -/
def Block.orderFrame (b : Block) (l : Nat) (f : CFrame) : Block :=
  let n := b.reg (0x5C0006 + 256 * l)
  if (copyA n f).isSome ∨ (copyB n f).isSome then
    b.onLane l fun q => if 15 ≤ q.goodWords then { q with step := 5, goodWords := 0, goodPlace := 0 } else { q with goodWords := q.goodWords + 1 }
  else b.onLane l fun q => { q with goodWords := 0, failStep := 4 }

/-- A crossing frame at a half that trains alone. -/
def Block.aloneFrame (b : Block) (k : Link) (l : Nat) (f : CFrame) (sync : Option Bool) (margin : Nat) : Block :=
  match (b.lane l).step with
  | 2 => b.polarityFrame l sync
  | 3 => b.lockFrame k l sync
  | 4 => b.orderFrame l f
  | 5 => b.placeFixed k l b.fW margin
  | _ => b

/-! ### Leaving Active (R287, R289) -/

/-- A drop is a transient of its lane (R379), and the trackers that follow the lane lose it (R49, R54). -/
def Block.dropped (b : Block) (k : Link) (l cause : Nat) : Block :=
  let b := ((b.bump (0x59000C + 256 * l) 1).raise 0x71 [.id 6 l, .id 8 cause]).transient (siteId 2 l)
  if k.kind = .timing then b.domLost (l - 36) else if k.kind = .group then b.domLost (l / 4) else b

/-- A receive half leaves Active: a further rank of a port alone, else the whole link. -/
def Block.dropLink (b : Block) (l cause : Nat) : Block :=
  match b.linkOf l with
  | none => b
  | some k =>
    let b := if k.kind = .port ∧ placeOf k l ≠ 0 then b.trainRx l else b.retrain k
    b.dropped k l cause

/-- The sync-header pattern of a frame: 16 invalid of the last 64 drop the half. -/
def Block.syncFrame (b : Block) (l : Nat) (ok : Bool) : Block :=
  let b := if ok then b else b.bump (0x59000B + 256 * l) 1
  let b := b.onLane l fun q => { q with syncBad := ((!ok) :: q.syncBad).take 64 }
  if 16 ≤ ((b.lane l).syncBad.filter fun x => x).length then b.dropLink l 2 else b

/-- The signal is lost, or clock recovery loses lock (R285, R287). -/
def Block.signalLost (b : Block) (l cause : Nat) : Block :=
  match (b.lane l).rx with
  | .training => if 2 ≤ (b.lane l).step then b.onLane l fallBack else b
  | .active => b.dropLink l cause
  | _ => b

/-- A frame is late. -/
def Block.frameLate (b : Block) (l : Nat) (margin : Int) : Block :=
  let b := (b.bump (0x59000D + 256 * l) 1).onLane l fun q => { q with margin := twos 16 margin }
  (b.raise 0x7A [.id 6 l, b.hereFld]).dropLink l 3

/-! ### LANE_CONFIG and PRBS (R271 to R275, R296, R298) -/

/-- LANE_CONFIG of a lane, with reserved bits zero. -/
def laneConfig (v : Nat) : Nat := v % 2 ^ 32 - bits v 30 28 * 2 ^ 28 - v % 4
def Block.laneCfg (b : Block) (l : Nat) : Nat := b.reg (0x590001 + 256 * l)

/-- A LANE_CONFIG within its ranges: MAIN from 32, PRE + MAIN + POST at most 63. -/
def laneConfigOk (v : Nat) : Bool := decide (32 ≤ bits v 23 18) && decide (bits v 27 24 + bits v 23 18 + bits v 17 12 ≤ 63)

/-- A write of LANE_CONFIG. -/
def Block.laneConfigWrite (b : Block) (h : Hdr) (l v : Nat) : Block :=
  if laneConfigOk v then b.pendWrite h (0x590001 + 256 * l) (laneConfig v) else b.refuseKey h (0x590001 + 256 * l) 0x07

/-- Key of entry e of 5All. -/
def prbsKey (l e : Nat) : Nat := 0x5A0000 + 256 * l + e

/-- A write of PRBS_MODE: a Retired half is busy. -/
def Block.prbsWrite (b : Block) (h : Hdr) (l v : Nat) : Block :=
  if (b.lane l).rx = .retired ∨ (b.lane l).tx = .retired then b.refuseKey h (prbsKey l 1) 0x08
  else if 3 < v then b.refuseKey h (prbsKey l 1) 0x07
  else b.pendWrite h (prbsKey l 1) v

/-- A PRBS mode takes effect (R296): its halves train, a lane in use leaves Active as under R287, with the cause of a lost signal
(assumption 19); mode 0 resets the offsets and starts a new attempt. Counts start again with each mode that checks. -/
def Block.prbsApply (b : Block) (l v : Nat) : Block :=
  if (b.lane l).prbs = v then b
  else
    let b := if (b.lane l).rx = Half.active ∨ (b.lane l).tx = Half.active then b.dropLink l 1 else b
    let b := (b.trainRx l).trainTx l
    let b := b.onLane l fun q => { startStep q with prbs := v, prbsLock := false, chk := 0, chkRun := 0 }
    let b := if v = 0 then ((b.setReg (prbsKey l 5) 0).setReg (prbsKey l 6) 0).parkLane l
             else if 2 ≤ v then (b.setReg (prbsKey l 2) 0).setReg (prbsKey l 3) 0 else b
    b.raise 0x7E [.id 6 l, .id 8 v]

/-- 528 bits at a checker (R296): one that is not locked looks for the sequence in them, a locked one counts them and those that differ
from its own. -/
def Block.prbsBits (b : Block) (l : Nat) (x : LineFrame) : Block :=
  let q := b.lane l
  let v := lineBits x
  if q.prbsLock then
    let r := prbsFrame q.chk
    ((b.onLane l fun q => { q with chk := r.2 }).bump (prbsKey l 2) 528).bump (prbsKey l 3) (popcount 528 (v ^^^ r.1))
  else
    let r := prbsSeek q.chk q.chkRun v
    b.onLane l fun q => { q with chk := r.1, chkRun := r.2 }

/-! ### What stands at the balls (R269, R271, R274, R296) -/

/-- The payloads of a frame at a receive half, descrambled. -/
def Block.hear (b : Block) (l : Nat) (x : LineFrame) : CFrame × Block :=
  let r := frameFrom (b.lane l).descr (b.lane l).inverted x
  (r.1, b.onLane l fun k => { k with descr := r.2 })

/-- The sync headers of a frame are those of the half's polarity. -/
def Block.syncGood (b : Block) (l : Nat) (x : LineFrame) : Bool := syncPattern x.sync == some (b.lane l).inverted

/-- A frame on a lane: to its checker in a PRBS mode, else descrambled to what takes it. Halves that are Off, Dormant or Retired ignore
it (R265). -/
def Block.lineIn (b : Block) (l : Nat) (x : LineFrame) (take : CFrame → Block → Block) : Block :=
  let q := b.lane l
  if q.prbs ≠ 0 then (if 2 ≤ q.prbs then b.prbsBits l x else b)
  else if q.rx = .training ∨ q.rx = .active then
    let r := b.hear l x
    take r.1 r.2
  else b

/-- DFE_HOLD takes effect: a half that trains stops where it stands (R275). -/
def Block.holdSet (b : Block) (l old new : Nat) : Block :=
  if !old.testBit 2 && new.testBit 2 then b.onLane l haltHalf else b

/-- The adaptation steps of a crossing (R274). -/
def Block.adapt (b : Block) (steps : List Lms) : Block :=
  forEach steps b fun s b =>
    let l := s.lane.val
    let q := b.lane l
    let on := q.rx == .active || (q.rx == .training && decide (2 ≤ q.step) && decide (q.step ≤ 6))
    b.when (on && !b.rxFrozen l) fun b => b.onLane l fun q => { q with dfe := lmsStep (2 ^ b.reg 0x580004) s.errNeg s.decided q.dfe }

/-- An F-role that has obeyed no side yet follows the first downlink whose receive half completes step 1 (R440). -/
def Block.firstDownlink (b : Block) (l : Nat) : Block :=
  match b.linkOf l with
  | some k =>
    if !b.cRole ∧ k.kind = .group ∧ k.first = l ∧ b.time.selected.isNone ∧ !b.time.holdover then
      b.onTime fun t => { t with selected := some (if l < 4 then 0 else 1), selAt := t.now }
    else b
  | none => b

/-- Clock recovery locks (R267, R273, R281): step 1 is complete. A frozen half keeps its taps and stays at step 1. -/
def Block.clockLocked (b : Block) (l : Nat) (ctle : Nat) (taps : List Int) : Block :=
  let cfg := b.laneCfg l
  let q := b.lane l
  if q.rx ≠ .training ∨ q.step ≠ 1 ∨ b.rxFrozen l then b
  else (b.onLane l fun q => { q with
    step := 2, step1 := true, goodWords := 0, syncBad := [],
    ctle := if cfg.testBit 7 then bits cfg 6 3 else ctle, dfe := taps.map fun t => clampTap (4 * t) }).firstDownlink l

/-! ### Meanings -/

/-- TRAINING_ATTEMPT (R282). -/
def execTrainingAttempt (l : Lane) (s : State) : Host.Outcome State Fault Refusal :=
  s.run fun b =>
    b.when b.running fun b =>
      match b.linkOf l.val with
      | some k => b.attempt k
      | none => b

/-- SIGNAL_LOST (R285, R287). -/
def execSignalLost (l : Lane) (cause : BitVec 2) (s : State) : Host.Outcome State Fault Refusal :=
  s.run fun b => b.when b.running fun b => b.signalLost l.val cause.toNat

/-- FRAME_LATE (R289). -/
def execFrameLate (l : Lane) (margin : Int) (s : State) : Host.Outcome State Fault Refusal :=
  s.run fun b => b.when (b.running && b.rxActive l.val) fun b => b.frameLate l.val margin

/-- LANE_CONFIG_WRITE (R272, R298). -/
def execLaneConfigWrite (h : Hdr) (l : Lane) (value : BitVec 32) (s : State) : Host.Outcome State Fault Refusal :=
  s.run fun b => b.writeTo h (0x590001 + 256 * l.val) 4 fun b => b.laneConfigWrite h l.val value.toNat

/-- PRBS_OFF (R296). -/
def execPrbsOff (h : Hdr) (l : Lane) (s : State) : Host.Outcome State Fault Refusal :=
  s.run fun b => b.writeTo h (prbsKey l.val 1) 1 fun b => b.prbsWrite h l.val 0

/-- PRBS_GENERATE (R296). -/
def execPrbsGenerate (h : Hdr) (l : Lane) (s : State) : Host.Outcome State Fault Refusal :=
  s.run fun b => b.writeTo h (prbsKey l.val 1) 1 fun b => b.prbsWrite h l.val 1

/-- PRBS_CHECK (R296). -/
def execPrbsCheck (h : Hdr) (l : Lane) (s : State) : Host.Outcome State Fault Refusal :=
  s.run fun b => b.writeTo h (prbsKey l.val 1) 1 fun b => b.prbsWrite h l.val 2

/-- PRBS_BOTH (R296). -/
def execPrbsBoth (h : Hdr) (l : Lane) (s : State) : Host.Outcome State Fault Refusal :=
  s.run fun b => b.writeTo h (prbsKey l.val 1) 1 fun b => b.prbsWrite h l.val 3

/-- PRBS_CHECKER_LOCKED (R296): after 1024 error-free bits. -/
def execPrbsCheckerLocked (l : Lane) (s : State) : Host.Outcome State Fault Refusal :=
  s.run fun b =>
    b.when (b.running && decide (2 ≤ (b.lane l.val).prbs) && decide (1024 ≤ (b.lane l.val).chkRun)) fun b =>
      b.onLane l.val fun q => { q with prbsLock := true }

/-- CLOCK_RECOVERY_LOCKED (R281). -/
def execClockRecoveryLocked (l : Lane) (ctle : BitVec 4) (taps : List Int) (s : State) : Host.Outcome State Fault Refusal :=
  s.runIf (wellFormed (.clockRecoveryLocked l ctle taps)) "CLOCK_RECOVERY_LOCKED" fun b =>
    b.when (b.running && (b.lane l.val).prbs == 0) fun b => b.clockLocked l.val ctle.toNat taps

end Sys2Proof.Machine
end

