-- ==== Sys2Proof/Machine/Values.lean ====
section
/-! DEFINITION. The values that entries may take: reserved bits (R12), ranges of the chapters, the judging of RS writes against
the shadow set (R61, R129, R140, R171, R194, R229, R289). -/

namespace Sys2Proof.Machine

/-! ### Reserved bits -/

/-- The bits of a layout that are not reserved; every bit of an entry without one. Word 1 of a timetable entry, whose layout
depends on MODE, is kept whole (assumption 20). -/
def layoutMask (key : Nat) : Nat :=
  let i := key / 256
  let s := key % 256
  if s = 1 then
    if 0x3100 ≤ i ∧ i ≤ 0x31FF then 0xFFFFF7FF
    else if 0x4900 ≤ i ∧ i ≤ 0x49FF then 0xE0FF0000
    else if 0x5400 ≤ i ∧ i ≤ 0x54FF then 0xFFFF03FF
    else if 0x5900 ≤ i ∧ i ≤ 0x5927 then 0x8FFFFFFC
    else if 0x6001 ≤ i ∧ i ≤ 0x600C then 0x80007FFF
    else if 0x6400 ≤ i ∧ i ≤ 0x640F then 0x00007F3F
    else if 0x7000 ≤ i ∧ i ≤ 0x700F then 0xFFFFE000
    else if 0x7210 ≤ i ∧ i ≤ 0x7213 then 0xCF000000
    else if 0x4100 ≤ i ∧ i ≤ 0x410F then 0xFFFFFE00
    else if 0x2A00 ≤ i ∧ i ≤ 0x2AFF then 0xFF00FFFFFFFFFFFF
    else if 0x4600 ≤ i ∧ i ≤ 0x46FF then 0xFFE00000
    else 2 ^ 64 - 1
  else if s = 2 ∧ 0x3100 ≤ i ∧ i ≤ 0x31FF then 0x3F3F
  else if s ≤ 4 ∧ 0x4600 ≤ i ∧ i ≤ 0x46FF then 0xFFE00000
  else if key = 0x480005 then 7
  else 2 ^ 64 - 1

/-- A value with its reserved bits zero. -/
def cleaned (key v : Nat) : Nat := v &&& layoutMask key

/-- Word 1 of a timetable entry with the bits zero that are reserved in the MODE of word 0 (R60). -/
def ttClean (w0 w1 : Nat) : Nat :=
  match bits w0 62 61 with
  | 0 => w1 &&& 0xFFFFFFFF00003FFF
  | 1 => w1 &&& 0xFFFFFFFF3FFFFFFF
  | 2 => w1 &&& 0x3FFFFFFFFFFFFFFF
  | _ => w1

/-- The key of a word 1 of a timetable entry. -/
def ttSecond (key : Nat) : Bool := decide (0x2A0000 ≤ key) && decide (key < 0x2B0000) && key % 256 == 2

/-- Word 1 of every timetable entry of a set cleaned by its MODE, where `which` says so of the entry. -/
def ttTidy (which : Nat → Bool) (c : CfgSet) : CfgSet :=
  { c with entries := c.entries.map fun p =>
      if ttSecond p.1 && which (p.1 / 256) then (p.1, ttClean (tabGet 0 c.entries (p.1 - 1)) p.2) else p }

/-! ### Ranges -/

/-- A value between two bounds. -/
def within (lo hi v : Nat) : Bool := decide (lo ≤ v) && decide (v ≤ hi)

/-- The range of single entries. -/
def plainRange (key v : Nat) : Bool :=
  match key with
  | 0x100101 | 0x100102 => within 1 127 v
  | 0x101404 => within 10 60000 v
  | 0x101405 | 0x282002 | 0x282004 | 0x300004 | 0x401002 | 0x4A0001 | 0x681001 | 0x101503 => within 0 1 v
  | 0x103004 => within 5 3600 v
  | 0x104002 => within 1 10000 v
  | 0x105001 | 0x105002 | 0x105004 | 0x281002 | 0x300001 | 0x580004 | 0x780005 => within 0 3 v
  | 0x105003 | 0x480007 => within 0 2 v
  | 0x105005 => v == 0 || within 100 60000 v
  | 0x203002 => within 16 2048 v
  | 0x280003 => within 256 16384 v
  | 0x280204 => decide (v < 2 ^ 40)
  | 0x280600 => within 16 1024 v
  | 0x284001 | 0x284002 => within 0 1048575 v
  | 0x300002 | 0x300003 => within 0 1023 v
  | 0x401001 => within 0 15 v
  | 0x430001 => within 4 20 v
  | 0x440001 => popcount 32 v % 2 == 0
  | 0x450001 => within 0 1024 v
  | 0x480003 => within 1 13 v
  | 0x480004 => v == 0 || within 16 (2 ^ 24) v
  | 0x480006 => within 0 8 v
  | 0x483002 => within 16 (2 ^ 24) v
  | 0x483005 => within 1 1536 v
  | 0x483007 => within 1 1024 v
  | 0x4A0002 => within 8 1024 v
  | 0x4A0003 | 0x4A0004 => within 0 15 v
  | 0x580201 | 0x580202 | 0x580203 => within 0 125 v
  | 0x680002 => within 1 254 v
  | 0x740204 => within 1 10 v
  | 0x740205 => within 0 100 v
  | 0x748101 | 0x748401 => within 830 880 v
  | 0x748201 | 0x748501 => within 1100 1180 v
  | 0x748301 => within 1640 1780 v
  | _ => true

/-- The range of entries that come in rows. -/
def rowRange (cRole : Bool) (key v : Nat) : Bool :=
  let i := key / 256
  let s := key % 256
  if 0x4600 ≤ i ∧ i ≤ 0x46FF then
    match bits v 31 29 with
    | 1 | 2 => !cRole
    | 4 => decide (bits v 28 21 ≤ 15)
    | 5 => decide (bits v 28 21 ≤ 7)
    | 3 | 7 => false
    | _ => true
  else if 0x5A00 ≤ i ∧ i ≤ 0x5A27 then
    if s = 5 then decide (signedOf 8 v ≤ 31) && decide (-32 ≤ signedOf 8 v)
    else if s = 6 then v != 128
    else within 0 3 v
  else if 0x5400 ≤ i ∧ i ≤ 0x54A0 ∧ s = 1 then within 1 (queueCapacity (i - 0x5400)) (bits v 29 16) && decide (1 ≤ bits v 9 0)
  else if 0x5900 ≤ i ∧ i ≤ 0x5927 then laneConfigOk v
  else if 0x6001 ≤ i ∧ i ≤ 0x600C then bits v 14 0 == 0 || within 64 16384 (bits v 14 0)
  else if 0x7000 ≤ i ∧ i ≤ 0x700F then
    decide (bits v 29 26 ≤ if v.testBit 30 then 8 else 6) && decide (bits v 21 19 ≤ 4) && decide (bits v 17 13 ≤ 17)
  else if 0x7210 ≤ i ∧ i ≤ 0x7213 then
    if s = 4 then within 100 100000 v else if s = 5 then within 10 99999 v else if s = 6 then within 11 100000 v else true
  else if 0x7900 ≤ i ∧ i ≤ 0x79FF ∧ s = 1 then within 0 3 v
  else true

/-- The value fits its type and its own range. -/
def Block.rangeOk (b : Block) (d : Desc) (key v : Nat) : Bool :=
  (d.type != .bool || decide (v ≤ 1)) && plainRange key v && rowRange b.cRole key v && !(b.cRole && key == 0x440001 && v != 0)

/-! ### RW entries judged with others -/

/-- Temperature levels after a write: each at least H above the one below, the shutdown level at most 130 (R495). -/
def levelsOk (w t s h : Int) : Bool := decide (w + h ≤ t) && decide (t + h ≤ s) && decide (s ≤ 130)

/-- The value that an entry will have: the one written, else the one it is to have. -/
def Block.withWrite (b : Block) (key v k : Nat) : Nat := if k = key then v else b.nextReg k

/-- A channel's TEMP_SOURCE names a channel whose own is 0, and not itself (R485). -/
def Block.tempSourceOk (b : Block) (key v : Nat) : Bool :=
  let src := bits v 17 13
  let e := key / 256 % 256
  decide (src < 2) || (src != e + 2 && bits (b.nextReg (0x700001 + 256 * (src - 2))) 17 13 == 0)

/-- Rules of RW entries that involve others (R122, R350, R485, R491, R495). -/
def Block.jointOk (b : Block) (key v : Nat) : Bool :=
  let i := key / 256
  let next := b.withWrite key v
  if key = 0x430001 ∨ key = 0x284102 then decide (2 ^ (next 0x430001 + 1) ≤ next 0x284102) || !b.cRole
  else if key = 0x680002 then v != bits b.twin.w0.toNat 55 48 || b.twin.w0At == 0
  else if 0x740201 ≤ key ∧ key ≤ 0x740204 then
    levelsOk (signedOf 16 (next 0x740201)) (signedOf 16 (next 0x740202)) (signedOf 16 (next 0x740203)) (next 0x740204)
  else if 0x7210 ≤ i ∧ i ≤ 0x7213 then
    decide (signedOf 32 (next (i * 256 + 2)) < signedOf 32 (next (i * 256 + 3))) && decide (next (i * 256 + 5) < next (i * 256 + 6))
  else if 0x7000 ≤ i ∧ i ≤ 0x700F ∧ key % 256 = 1 then b.tempSourceOk key v
  else true

/-! ### RS entries judged against a set (R61, R171, R194, R229, R289) -/

/-- A set with one more value. A word 1 that is written while its entry is disabled is kept whole until word 0 gives its MODE: R61 has
it written first (assumption 20). -/
def putEntry (c : CfgSet) (key v : Nat) : CfgSet :=
  let n := { c with entries := tabSet c.entries key v }
  ttTidy (fun i => i == key / 256 && (key % 256 == 1 || (tabGet 0 n.entries (i * 256 + 1)).testBit 63)) n

/-- The proven range of an entry in a set. -/
def provenOf (c : CfgSet) (key : Nat) : Option (Nat × Nat) := (c.folio.proven.find? fun p => p.1 == key).map Prod.snd

/-- A value outside its proven range. -/
def unproven (c : CfgSet) (key v : Nat) : Bool :=
  match provenOf c key with
  | some (lo, hi) => !within lo hi v
  | none => false

/-- H of an F-role's set exceeds its RETAIN_LIMIT (R194). -/
def Block.spanTooLong (b : Block) (c : CfgSet) : Bool := !b.cRole && decide (c.folio.retain < b.spanOf c)

/-- M_COMPACT is 1 without Profile M in the set (R171). -/
def Block.compactWrong (b : Block) (c : CfgSet) : Bool :=
  !b.cRole && b.rsIn c 0x480008 == 1 && tabFind c.entries 0x480008 == some 1 && !b.profileM c

/-- A write that R171 forbids: of 1 to M_COMPACT where Profile M is not in force in the set, or of 0 to the set's Profile M entry while
its M_COMPACT is 1. -/
def Block.compactWrite (b : Block) (c : CfgSet) (key v : Nat) : Bool :=
  !b.cRole && ((key == 0x480008 && v == 1 && !b.profileM c) || (key == 0x100006 && v == 0 && b.rsIn c 0x480008 == 1))

/-- A depth that differs from the one in force (R289). -/
def Block.depthWrong (b : Block) (key v : Nat) : Bool :=
  (key == 0x580201 && v != b.fW) || (key == 0x580202 && v != b.fB) || (key == 0x580203 && v != b.fK)

/-- A timetable entry touched by a write is enabled and invalid (R61). -/
def Block.ttWrong (b : Block) (c : CfgSet) (key : Nat) : Bool :=
  let i := key / 256
  if 0x2A00 ≤ i ∧ i ≤ 0x2AFF then
    let e := i - 0x2A00
    (b.ttWord0 c e).testBit 63 && b.ttInvalid (b.ttWord0 c e) (b.ttWord1 c e) (b.rsIn c 0x280003) (b.rsIn c 0x450001)
  else if key = 0x280003 ∨ key = 0x450001 then !b.ttSound c
  else false

/-- The abort code that a write of an RS entry meets in a set, 0 for none. -/
def Block.rsCode (b : Block) (c : CfgSet) (d : Desc) (key v : Nat) : Nat :=
  let n := putEntry c key v
  if !b.rangeOk d key v then 0x07
  else if unproven c key v then 0x07
  else if 0x4A0002 ≤ key ∧ key ≤ 0x4A0004 ∧ b.spanTooLong n then 0x09
  else if b.compactWrite c key v then 0x07
  else if b.depthWrong key v then 0x07
  else if b.ttWrong n key then 0x07
  else 0

end Sys2Proof.Machine
end

