-- ==== Sys2Proof/Machine/Security.lean ====
section
/-! DEFINITION. Signed images, keys in fuses, anti-rollback, unlock tokens, attestation (chapter 18). -/

namespace Sys2Proof.Machine

/-! ### The signed image (R461, R462) -/

/-- A little-endian field of n bytes at an offset. -/
def field (image : List Byte) (off n : Nat) : Nat := natLE (octets image off n)

/-- Fields of the header. -/
def imgType (image : List Byte) : Nat := field image 0x6 2
def imgLength (image : List Byte) : Nat := field image 0x8 4
def imgVersion (image : List Byte) : Nat := field image 0xC 4
def imgClass (image : List Byte) : Nat := field image 0x10 1
def imgSlot (image : List Byte) : Nat := field image 0x11 1
def imgTarget (image : List Byte) : Nat := field image 0x14 8
def imgDigest (image : List Byte) : List Byte := octets image 0x20 48

/-- Where the payload stands. -/
def payloadAt : Nat := 0xD00

/-- The payload. -/
def imgPayload (image : List Byte) : List Byte := image.drop payloadAt

/-- Image types. -/
def typeFolio : Nat := 1
def typeCertificate : Nat := 2
def typeToken : Nat := 3
def typeReport : Nat := 4
def typeUpdate : Nat := 5

/-! ### Keys in fuses (R463) -/

/-- Place of a key class's slot in the fuse lists: vendor 0 and 1, then owner 0 to 3. -/
def slotIndex (cls n : Nat) : Option Nat :=
  if cls = 0 ∧ n < 2 then some n else if cls = 1 ∧ n < 4 then some (2 + n) else none

/-- A slot is burned; a slot is revoked. -/
def Block.slotBurned (b : Block) (i : Nat) : Bool := b.fuses.burned.toNat.testBit i
def Block.slotRevoked (b : Block) (i : Nat) : Bool := b.fuses.revoked.toNat.testBit i

/-- Any owner slot is burned. -/
def Block.owned (b : Block) : Bool := b.fuses.burned.toNat / 4 != 0

/-- The key class that an image type takes; an unlock token is also for this device alone (R462). -/
def Block.classOk (b : Block) (image : List Byte) : Bool :=
  let c := imgClass image
  if imgType image = typeFolio then c == flag b.owned
  else if imgType image = typeCertificate then c == 0
  else if imgType image = typeToken then c == 0 && imgTarget image == b.fuses.identity.toNat
  else if imgType image = typeUpdate then c == 1
  else false

/-- The image's key pair is that of its slot, burned and not revoked. -/
def Block.keyOk (b : Block) (image : List Byte) (v : Verdict) : Bool :=
  match slotIndex (imgClass image) (imgSlot image) with
  | some i => b.slotBurned i && !b.slotRevoked i && b.fuses.keyHashes.getD i [] == v.keyHash
  | none => false

/-! ### Verification (R464) -/

/-- Check 1. -/
def formOk (image : List Byte) : Bool :=
  natBE (octets image 0 4) == 0x4B534947 && field image 4 2 == 1 && decide (1 ≤ imgLength image) &&
    decide (imgLength image ≤ 0x800000) && image.length == payloadAt + imgLength image

/-- Check 3. -/
def Block.targetOk (b : Block) (image : List Byte) : Bool :=
  imgTarget image == 0 || imgTarget image == b.fuses.identity.toNat

/-- The public key and the signature name the parameters of R462, by the code numbers of RFC 8554: 6 for LMS_SHA256_M32_H10 and 4 for
LMOTS_SHA256_N32_W8; the signature has one level below the top. -/
def hssForm (image : List Byte) : Bool :=
  let word := fun (at_ : Nat) => natBE (octets image at_ 4)
  word 0xB0 == 2 && word 0xB4 == 6 && word 0xB8 == 4 && word 0x160 == 1 && word 0x168 == 4 && word 0x5CC == 6 && word 0x710 == 6 &&
    word 0x714 == 4 && word 0x74C == 4 && word 0xBB0 == 6

/-- The sub-cause that an image meets among checks 1 to 9, 0 where it passes. -/
def Block.imageCheck (b : Block) (type : Nat) (image : List Byte) (v : Verdict) : Nat :=
  if !formOk image then 1
  else if imgType image ≠ type then 2
  else if !b.targetOk image then 3
  else if !b.classOk image then 4
  else if !b.keyOk image v then 5
  else if type = typeFolio ∧ imgVersion image < b.fuses.floor then 9
  else if imgDigest image ≠ v.imageDigest then 6
  else if !v.ecdsaOk then 7
  else if !v.hssOk ∨ !hssForm image then 8
  else 0

/-- The outcome of a verification, as 7C00 and the events tell it (R464). Its duration is a free value. -/
def Block.verified (b : Block) (type version sub : Nat) : Block :=
  let b := ((b.setReg 0x7C0001 sub).setReg 0x7C0002 type).setReg 0x7C0003 (b.freeVal.toNat % 2 ^ 32)
  let b := b.freeNext
  if sub = 0 then (b.bump 0x7C0004 1).raise 0xE0 [.id 8 type, .id 32 version] else (b.bump 0x7C0005 1).raise 0xE1 [.id 8 type, .id 8 sub]

/-- The outcome of an image. -/
def Block.imageResult (b : Block) (image : List Byte) (sub : Nat) : Block := b.verified (imgType image) (imgVersion image) sub

/-- Verify an image that is no folio. -/
def Block.verifyImage (b : Block) (type : Nat) (image : List Byte) (v : Verdict) : Bool × Block :=
  let sub := b.imageCheck type image v
  (sub == 0, b.imageResult image sub)

/-! ### Burning fuses (R468) -/

/-- Burn one fuse of a field: one that does not read back is tried once more. `reads` are the readings back, in order. -/
def Block.burn (b : Block) (fld fuse : Nat) (reads : List Bool) : Bool × List Bool × Block :=
  match reads with
  | [] => (true, [], b)
  | true :: t => (true, t, b)
  | false :: t =>
    let b := b.raise 0xEA [.id 8 fld, .id 10 fuse]
    match t with
    | false :: u => (false, u, b.raise 0xEA [.id 8 fld, .id 10 fuse])
    | true :: u => (true, u, b)
    | [] => (true, [], b)

/-- Raise the floor by n fuses, each read back; it stops at the first that fails twice. -/
def Block.burnFloor : Nat → List Bool → Block → Bool × Block
  | 0, _, b => (true, b)
  | n + 1, reads, b =>
    let r := b.burn 1 b.fuses.floor reads
    if r.1 then Block.burnFloor n r.2.1 (r.2.2.onFuses fun f => { f with floor := f.floor + 1 }) else (false, r.2.2)

/-! ### Anti-rollback (R466) -/

/-- VERSION of the active set. -/
def Block.activeVersion (b : Block) : Nat := match b.sets.act with | some c => c.folio.version | none => 0

/-- A folio download, its verification or a flash folio write runs, or a verified folio waits (R231, R236, R436). -/
def Block.downloading (b : Block) : Bool := b.sets.staging != .idle || b.transferOn 0x2020 1
def Block.flashWriting (b : Block) : Bool := b.boot.bootWriteSlot.isSome || b.transferOn 0x1015 5

/-- The shadow holds a version below a floor. -/
def Block.shadowBelow (b : Block) (f : Nat) : Bool := b.sets.shd.state != .empty && decide (b.sets.shd.folio.version < f)

/-- A write of the key to 7C10.02. -/
def Block.commitRollback (b : Block) (h : Hdr) (key : Nat) (burns : List Bool) : Block :=
  let f := min b.activeVersion 256
  if key ≠ 0x524F4C4C ∨ b.activeVersion ≤ b.fuses.floor then b.refuseKey h 0x7C1002 0x07
  else if b.env.warn ∨ b.downloading ∨ b.flashWriting ∨ b.shadowBelow f then b.refuseKey h 0x7C1002 0x08
  else
    let r := Block.burnFloor (f - b.fuses.floor) burns b
    if r.1 then (r.2.raise 0xE2 [.id 16 r.2.fuses.floor]).ack h 0x7C1002 else r.2.refuseKey h 0x7C1002 0x1A

/-! ### Owner keys (R469) -/

/-- A key hash into a slot's fuses. -/
def putHash (l : List (List Byte)) (i : Nat) (h : List Byte) : List (List Byte) :=
  (l ++ List.replicate (6 - l.length) []).set i h

/-- Burn slot i with a hash. -/
def Block.burnKey (b : Block) (i : Nat) (hash : List Byte) : Block :=
  b.onFuses fun f => { f with burned := f.burned ||| BitVec.ofNat 6 (2 ^ i), keyHashes := putHash f.keyHashes i hash }

/-- Burn the revoke fuse of slot i. -/
def Block.revokeKey (b : Block) (i : Nat) : Block := b.onFuses fun f => { f with revoked := f.revoked ||| BitVec.ofNat 6 (2 ^ i) }

/-- A change of the keys: BUSY in a supply warning, else the fuse is burned and read back. `done` answers the request. -/
def Block.keyChange (b : Block) (h : Hdr) (key action slot fld : Nat) (burns : List Bool) (f done : Block → Block) : Block :=
  if b.env.warn then b.refuseKey h key 0x08
  else
    let r := b.burn fld slot burns
    if r.1 then done ((f r.2.2).raise 0xE3 [.id 8 action, .id 2 slot]) else r.2.2.refuseKey h key 0x1A

/-- The first key hash, while no owner slot is burned. -/
def Block.firstKey (b : Block) (h : Hdr) (hash : List Byte) (burns : List Bool) : Block :=
  if b.owned then b.refuseKey h 0x7C2005 0x07
  else b.keyChange h 0x7C2005 1 0 3 burns (fun b => b.burnKey 2 hash) fun b => b.ack h 0x7C2005

/-- An update is one of R469's actions that its slot admits. -/
def Block.updateOk (b : Block) (action slot : Nat) (hash : List Byte) : Bool :=
  match action with
  | 1 => decide (slot < 4) && !b.slotBurned (2 + slot)
  | 2 => decide (slot < 4) && (!b.slotBurned (2 + slot) || b.slotRevoked (2 + slot) ||
      (List.range 4).any fun k => k != slot && b.slotBurned (2 + k) && !b.slotRevoked (2 + k))
  | 3 => decide (slot < 2) && hash.all (· == 0)
  | _ => false

/-- An OWNER_KEY_UPDATE image. -/
def Block.ownerUpdate (b : Block) (h : Hdr) (image : List Byte) (v : Verdict) (burns : List Bool) : Block :=
  let r := b.verifyImage typeUpdate image v
  let p := imgPayload image
  let action := field p 0 1
  let slot := field p 1 1
  let hash := octets p 4 48
  if !r.1 ∨ p.length ≠ 52 ∨ !r.2.updateOk action slot hash then r.2.refuseKey h 0x7C2004 0x07
  else
    r.2.keyChange h 0x7C2004 action slot (if action = 1 then 3 else 4) burns
      (fun b => if action = 1 then b.burnKey (2 + slot) hash else if action = 2 then b.revokeKey (2 + slot) else b.revokeKey slot)
      fun b => b.landed h 0x7C2004

/-! ### Identity and unlock (R471, R473) -/

/-- Bytes of an image that stand outside the model, from a place on. -/
def bytesOf (f : Nat → Byte) (at_ n : Nat) : List Byte := (List.range n).map fun i => f (at_ + i)

/-- The certificate's checks at fuse load: its digest, then those of R464, of which `sub` is the sub-cause met, 0 where it passes. -/
def Block.certCheck (b : Block) (digestOk : Bool) (sub : Nat) : Block :=
  let bad := !digestOk || sub != 0
  let b := (b.onSec fun s => { s with certBad := bad }).setReg 0x7C4002 (flag bad)
  if !digestOk then b.raise 0xE4 [.id 8 1]
  else
    let b := b.verified typeCertificate (natLE (bytesOf Config.certificate 0xC 4)) sub
    if sub = 0 then b else b.raise 0xE4 [.id 8 2]

/-- An unlock token is kept for its origin's next LOGIN. -/
def Block.keepToken (b : Block) (h : Hdr) (image : List Byte) : Block :=
  (b.onSec fun s => { s with token := some (h.origin, image) }).landed h 0x7C3001

/-- A level-4 credential: PAYLOAD_DIGEST[3:0] of the token from the same origin, which verifies and names this device's
challenge. The store is cleared with every attempt. -/
def Block.unlockWith (b : Block) (o : Origin) (credential : List Byte) (v : Verdict) : Bool × Block :=
  let cleared := b.onSec fun s => { s with token := none }
  match b.sec.token with
  | some (who, image) =>
    if who ≠ o then (false, cleared.raise 0xE5 [.id 8 1])
    else
      let r := cleared.verifyImage typeToken image v
      let p := imgPayload image
      if !r.1 ∨ p.length ≠ 32 ∨ credential ≠ (imgDigest image).take 4 ∨ field p 16 8 ≠ b.fuses.identity.toNat then
        (false, r.2.raise 0xE5 [.id 8 1])
      else if p.take 16 ≠ b.dict.challenge then (false, r.2.raise 0xE5 [.id 8 2])
      else (true, r.2)
  | none => (false, b.raise 0xE5 [.id 8 1])

/-! ### Attestation (R474 to R477) -/

/-- PROFILE_M_STATE (R13). -/
def Block.profileState (b : Block) : Nat :=
  if b.fuses.profileM then 2 else if b.sets.act.isSome ∧ b.rs 0x100006 ≠ 0 then 1 else 0

/-- ROLE_ACTIVE. -/
def Block.roleActive (b : Block) : Nat := if b.boot.phase = .stopped then 0xFF else flag b.cRole

/-- SHADOW_STATE. -/
def setStateCode : SetState → Nat
  | .empty => 0
  | .verified => 1
  | .edited => 2

/-- Serials of the sets: 0 where there is none. -/
def Block.activeSerial (b : Block) : Nat := match b.sets.act with | some c => c.folio.serial | none => 0
def Block.shadowSerial (b : Block) : Nat := if b.sets.shd.state = .empty then 0 else b.sets.shd.folio.serial
def Block.shadowVersion (b : Block) : Nat := if b.sets.shd.state = .empty then 0 else b.sets.shd.folio.version

/-- 48 bytes of a digest, zero where there is none. -/
def digest48 (l : List Byte) : List Byte := octets l 0 48

/-- VENDOR_SLOTS and OWNER_SLOTS. -/
def Block.vendorSlots (b : Block) : Nat := b.fuses.burned.toNat % 4 + 4 * (b.fuses.revoked.toNat % 4)
def Block.ownerSlots (b : Block) : Nat := b.fuses.burned.toNat / 4 + 16 * (b.fuses.revoked.toNat / 4)

/-- Bookplate serial of a probe, 0 where none. -/
def Block.probeSerial (b : Block) (e : Nat) : Nat := (b.envCh e).plate.serial.toNat

/-- Expected tile serial of a port in the active topology. -/
def Block.portTile (b : Block) (p : Nat) : Nat :=
  if b.cRole then ((b.active.folio.ports.find? fun x => x.port == p).map PortPlan.tile).getD 0 else 0

/-- The payload of a report but for its epoch and leaf, which are set as it is signed. -/
def Block.reportState (b : Block) : List Byte :=
  octets b.sec.nonce 0 32 ++ bytesLE 8 b.fuses.identity.toNat ++ bytesLE 1 b.roleActive ++ bytesLE 1 (flag b.boot.unitB) ++
  bytesLE 1 b.profileState ++ bytesLE 1 (setStateCode b.sets.shd.state) ++ bytesLE 4 0 ++
  bytesLE 8 b.time.orbit ++ bytesLE 2 b.time.slot ++ bytesLE 6 0 ++ bytesLE 8 b.time.tod.sec ++
  bytesLE 4 b.activeSerial ++ bytesLE 4 b.shadowSerial ++ bytesLE 4 b.activeVersion ++ bytesLE 4 b.shadowVersion ++
  bytesLE 2 b.fuses.floor ++ bytesLE 2 b.fuses.epochs ++ bytesLE 1 b.ownerSlots ++ bytesLE 1 b.vendorSlots ++
  bytesLE 1 b.fuses.role.toNat ++ bytesLE 1 (flag b.fuses.profileM) ++
  digest48 b.active.digest ++ digest48 (if b.sets.shd.state = .empty then [] else b.sets.shd.digest) ++
  digest48 b.active.folio.digest ++ bytesLE 8 (if b.cRole then 0 else b.plate.serial.toNat) ++
  ((List.range 16).flatMap fun e => bytesLE 8 (b.probeSerial e)) ++
  ((List.range 32).flatMap fun p => bytesLE 8 (b.portTile (p + 1)))

/-- The payload with its epoch and leaf. -/
def signedState (p : List Byte) (epoch leaf : Nat) : List Byte :=
  p.take 0x2C ++ bytesLE 2 epoch ++ bytesLE 2 leaf ++ p.drop 0x30

/-- ATTEST_STATE. -/
def keyAttest : Nat := 0x7C5003

/-- A nonce asks for a report. -/
def Block.attestRequest (b : Block) (h : Hdr) (nonce : List Byte) : Block :=
  if b.reg keyAttest = 1 then b.refuseKey h 0x7C5001 0x08
  else ((b.onSec fun s => { s with nonce := nonce, payload := [] }).setReg keyAttest 1).ack h 0x7C5001

/-- At the crossing boundary after the request the state is taken. -/
def Block.attestCapture (b : Block) : Block :=
  if b.reg keyAttest = 1 ∧ b.sec.payload = [] then b.onSec fun s => { s with payload := b.reportState } else b

/-- A request that cannot be signed. -/
def Block.attestRefused (b : Block) (cause : Nat) : Block :=
  ((b.onSec fun s => { s with payload := [] }).setReg keyAttest 3).raise 0xEB [.id 8 cause]

/-- A report is signed by a leaf of the open epoch. -/
def Block.attestSign (b : Block) (epoch : Nat) : Block :=
  let leaf := b.sec.leaf
  let b := b.onSec fun s => { s with payload := signedState s.payload epoch leaf, epoch := some epoch, leaf := leaf + 1 }
  ((b.setReg keyAttest 2).bump 0x7C5006 1).raise 0xE6 [.id 10 epoch, .id 10 leaf]

/-- Open the next epoch and sign with its first leaf. -/
def Block.attestNew (b : Block) (burns : List Bool) : Block :=
  if 1024 ≤ b.fuses.epochs then (b.raise 0xE9 []).attestRefused 1
  else if b.env.warn then b.attestRefused 4
  else
    let e := b.fuses.epochs
    let r := b.burn 2 e burns
    if !r.1 then r.2.2.attestRefused 3
    else
      let left := 1023 - e
      let b := (r.2.2.onFuses fun f => { f with epochs := e + 1 }).raise 0xE7 [.id 10 e, .id 11 left]
      let b := if left ≤ 32 then b.raise 0xE8 [.id 11 left] else b
      (b.onSec fun s => { s with leaf := 0 }).attestSign e

/-- The report is ready, or refused (R476, R477). -/
def Block.attestReady (b : Block) (burns : List Bool) : Block :=
  if b.sec.certBad then b.attestRefused 2
  else match b.sec.epoch with
    | some e => if b.sec.leaf < 1024 then b.attestSign e else b.attestNew burns
    | none => b.attestNew burns

/-- n free bytes. -/
def Block.freeBytes (b : Block) (n : Nat) : List Byte :=
  (List.range n).map fun i => BitVec.ofNat 8 (Config.freeWord (b.free + i)).toNat

/-- The device's HSS public key (R461, R462). -/
def deviceHss : List Byte := bytesBE 4 2 ++ bytesBE 4 6 ++ bytesBE 4 4 ++ bytesOf Config.deviceKey 108 48

/-- An LMS signature by leaf q, whose other bytes stand in a signature from a place on (R462). -/
def lmsSignature (sig : Nat → Byte) (at_ q : Nat) : List Byte :=
  bytesBE 4 q ++ bytesBE 4 4 ++ bytesOf sig (at_ + 8) 1120 ++ bytesBE 4 6 ++ bytesOf sig (at_ + 1132) 320

/-- The two signatures of a report: ECDSA, and HSS by the epoch's leaf under the epoch's place in the top tree (R461, R462, R476). -/
def reportSignatures (header : List Byte) (epoch leaf : Nat) : List Byte :=
  let sig := Config.signature (header ++ bytesLE 2 epoch ++ bytesLE 2 leaf)
  bytesOf sig 0 96 ++ bytesBE 4 1 ++ lmsSignature sig 100 epoch ++ bytesBE 4 6 ++ bytesBE 4 4 ++ bytesOf sig 1560 48 ++
    lmsSignature sig 1608 leaf

/-- ATTEST_REPORT as read (R461, R475): a header with the device's public keys, the signatures over it, and the payload. -/
def Block.attestReport (b : Block) : List Byte :=
  if b.reg keyAttest = 2 then
    let header := [0x4B, 0x53, 0x49, 0x47] ++ bytesLE 2 1 ++ bytesLE 2 typeReport ++ bytesLE 4 632 ++ octets b.sec.payload 0x50 4 ++
      bytesLE 1 2 ++ bytesLE 1 0 ++ bytesLE 2 0 ++ bytesLE 8 0 ++ bytesLE 4 0 ++ bytesOf (Config.sha384 b.sec.payload) 0 48 ++
      bytesOf Config.deviceKey 0 96 ++ deviceHss ++ bytesLE 20 0
    header ++ reportSignatures header (field b.sec.payload 0x2C 2) (field b.sec.payload 0x2E 2) ++ bytesLE 12 0 ++ b.sec.payload
  else []

/-- The identity certificate as read (R461, R471). Of one that does not check, nothing is known. -/
def Block.certificate (b : Block) : List Byte :=
  if b.sec.certBad then bytesOf Config.certificate 0 3512
  else
    let payload := bytesLE 8 b.fuses.identity.toNat ++ bytesLE 2 b.fuses.dieRevision.toNat ++ bytesLE 6 0 ++ bytesOf Config.deviceKey 0 96 ++
      deviceHss ++ bytesOf Config.certificate 0xDAC 8 ++ bytesLE 4 0
    [0x4B, 0x53, 0x49, 0x47] ++ bytesLE 2 1 ++ bytesLE 2 typeCertificate ++ bytesLE 4 184 ++ bytesOf Config.certificate 0xC 4 ++ bytesLE 1 0 ++
      bytesOf Config.certificate 0x11 1 ++ bytesLE 2 0 ++ bytesOf Config.certificate 0x14 8 ++ bytesLE 4 0 ++
      bytesOf (Config.sha384 payload) 0 48 ++ bytesOf Config.certificate 0x50 156 ++ bytesLE 20 0 ++ bytesOf Config.certificate 0x100 3060 ++
      bytesLE 12 0 ++ payload

/-! ### Meanings -/

/-- ROLLBACK_COMMIT (R466). -/
def execRollbackCommit (h : Hdr) (key : BitVec 32) (burns : List Bool) (s : State) : Host.Outcome State Fault Refusal :=
  s.run fun b => b.writeTo h 0x7C1002 4 fun b => b.commitRollback h key.toNat burns

/-- OWNER_FIRST_KEY (R469). -/
def execOwnerFirstKey (h : Hdr) (hash : List Byte) (burns : List Bool) (s : State) : Host.Outcome State Fault Refusal :=
  s.run fun b => b.writeTo h 0x7C2005 hash.length fun b => b.firstKey h hash burns

/-- OWNER_KEY_BURN (R469): the image's action 0x01. -/
def execOwnerKeyBurn (h : Hdr) (image : List Byte) (v : Verdict) (burns : List Bool) (s : State) :
    Host.Outcome State Fault Refusal :=
  s.run fun b => b.writeTo h 0x7C2004 image.length fun b => b.ownerUpdate h image v burns

/-- OWNER_KEY_REVOKE (R469): the image's action 0x02. -/
def execOwnerKeyRevoke (h : Hdr) (image : List Byte) (v : Verdict) (burns : List Bool) (s : State) :
    Host.Outcome State Fault Refusal :=
  s.run fun b => b.writeTo h 0x7C2004 image.length fun b => b.ownerUpdate h image v burns

/-- VENDOR_KEY_REVOKE (R469): the image's action 0x03. -/
def execVendorKeyRevoke (h : Hdr) (image : List Byte) (v : Verdict) (burns : List Bool) (s : State) :
    Host.Outcome State Fault Refusal :=
  s.run fun b => b.writeTo h 0x7C2004 image.length fun b => b.ownerUpdate h image v burns

/-- UNLOCK_TOKEN_WRITE (R473). -/
def execUnlockTokenWrite (h : Hdr) (image : List Byte) (s : State) : Host.Outcome State Fault Refusal :=
  s.run fun b => b.writeTo h 0x7C3001 image.length fun b => b.keepToken h image

/-- ATTEST_NONCE_WRITE (R474). -/
def execAttestNonceWrite (h : Hdr) (nonce : List Byte) (s : State) : Host.Outcome State Fault Refusal :=
  s.run fun b => b.writeTo h 0x7C5001 nonce.length fun b => b.attestRequest h nonce

/-- ATTEST_REPORT_READY (R474, R476, R477). -/
def execAttestReportReady (burns : List Bool) (s : State) : Host.Outcome State Fault Refusal :=
  s.run fun b => b.when (b.served && b.reg keyAttest == 1 && b.sec.payload != []) fun b => b.attestReady burns

end Sys2Proof.Machine
end

