-- ==== Sys2Proof/Machine/Folios.lean ====
section
/-! DEFINITION. Folios: the body, its sections and every check of R228 (R214, R224 to R229, R335). -/

namespace Sys2Proof.Machine

/-! ### The body (R224, R225) -/

/-- A manifest entry. -/
structure Section where
  type   : Nat
  target : Nat
  flags  : Nat
  off    : Nat
  len    : Nat
deriving DecidableEq, Repr

/-- The manifest. -/
def sectionsOf (body : List Byte) : List Section :=
  (List.range (field body 0x14 2)).map fun i =>
    let o := 0x60 + 16 * i
    ⟨field body o 2, field body (o + 2) 1, field body (o + 3) 1, field body (o + 4) 4, field body (o + 8) 4⟩

/-- Bytes of a section. -/
def sectionBytes (body : List Byte) (s : Section) : List Byte := octets body s.off s.len

/-- Types that R226 lists. -/
def knownType (t : Nat) : Bool := decide (1 ≤ t) && decide (t ≤ 0x0E)

/-- Types that a folio of a role must have. -/
def requiredTypes (cRole : Bool) : List Nat :=
  [1, 2, 5, 8, 9, 0xA, 0xB, 0xC, 0xE] ++ (if cRole then [6, 7, 0xD] else [3, 4])

/-- Two sections overlap. -/
def overlaps (x y : Section) : Bool :=
  decide (0 < x.len) && decide (0 < y.len) && decide (x.off < y.off + y.len) && decide (y.off < x.off + x.len)

/-- Two sections of one type and target, or sharing a byte. -/
def clashes (x y : Section) : Bool := (x.type == y.type && x.target == y.target) || overlaps x y

/-- Every section clashes with none after it. -/
def clashFree : List Section → Bool
  | [] => true
  | x :: t => !t.any (clashes x) && clashFree t

/-- A section stands between the manifest and the CRC, on a multiple of 8. -/
def inBody (body : List Byte) (n : Nat) (s : Section) : Bool :=
  s.off % 8 == 0 && decide (0x60 + 16 * n ≤ s.off) && decide (s.off + s.len ≤ body.length - 8)

/-- Values of a DICTIONARY section; none where it ends inside a record. -/
def dictRecords : Nat → List Byte → Option (List (Nat × Nat))
  | _, [] => some []
  | 0, _ => none
  | n + 1, l =>
    let len := field l 3 1
    if l.length < 4 + len then none
    else (dictRecords n (l.drop (4 + len))).map fun t =>
      (field l 0 2 * 256 + field l 2 1, natLE ((l.drop 4).take len)) :: t

/-- Check 6 of R228. -/
def sectionsOk (body : List Byte) (f : Folio) : Bool :=
  let l := sectionsOf body
  let has := fun t p => l.any fun s => s.type == t && s.target == p
  decide (1 ≤ l.length) && decide (l.length ≤ 64) &&
    (l.all fun s => (knownType s.type || s.flags.testBit 0) && inBody body l.length s && (s.target == 0 || s.type == 0xD)) &&
    clashFree l && ((requiredTypes (field body 6 1 == 1)).all fun t => t == 0xD || has t 0) &&
    (field body 6 1 != 1 || f.ports.all fun p => has 0xD p.port) && !f.badSection

/-- The folio that a body spells: fields of the header and the sections with a byte layout from the bytes, the others as they
arrive decoded (assumption 9). -/
def folioOf (body : List Byte) (f : Folio) : Folio :=
  let l := sectionsOf body
  let dict := (l.find? fun s => s.type == 2).map fun s => (dictRecords s.len (sectionBytes body s)).getD []
  { f with
    role := field body 6 1, topology := field body 7 1, serial := field body 8 4, version := field body 0xC 4,
    orbitLen := field body 0x16 2, fxMin := field body 0x18 4, fxMax := field body 0x1C 4, digest := octets body 0x20 48,
    entries := f.entries ++ dict.getD [],
    slices := (l.filter fun s => s.type == 0xD).map fun s => (s.target, sectionBytes body s),
    badSection := f.badSection || (dict.isSome && (l.find? fun s => s.type == 2).any fun s => (dictRecords s.len (sectionBytes body s)).isNone) }

/-- Folio CRC-64 of bytes. -/
def crc64 (l : List Byte) : Nat := cvuResult 64 true (2 ^ 64 - 1) (cvuBytes 64 0x42F0E1EBA9EA3693 true (2 ^ 64 - 1) l)

/-! ### The topology (R24, R26, R27, R214) -/

/-- Lanes of a port. -/
def portLanes (p : PortPlan) : List Nat := (List.range p.width).map (p.lane + ·)

/-- A port stands on lanes of its own that R24 permits and is homed on a declared uplink with at most 8 ports. -/
def portOk (f : Folio) (p : PortPlan) : Bool :=
  decide (1 ≤ p.port) && decide (p.port ≤ 32) && (p.width == 1 || p.width == 2 || p.width == 4) && p.lane % p.width == 0 &&
    decide (p.lane + p.width ≤ 36) && (f.ports.filter fun q => q.port == p.port).length == 1 &&
    (f.ports.all fun q => q.port == p.port || (portLanes p).all fun l => !(portLanes q).contains l) &&
    (f.uplinks.all fun u => !(portLanes p).contains u.2) &&
    (f.uplinks.any fun u => u.1 == p.home) && decide ((f.ports.filter fun q => q.home == p.home).length ≤ 8)

/-- An uplink stands on a lane of its own. -/
def uplinkOk (f : Folio) (u : Nat × Nat) : Bool :=
  decide (1 ≤ u.1) && decide (u.1 ≤ 12) && decide (u.2 < 36) && (f.uplinks.filter fun q => q.1 == u.1).length == 1 &&
    (f.uplinks.filter fun q => q.2 == u.2).length == 1

/-- R26. -/
def allocationOk (f : Folio) : Bool :=
  decide (1 ≤ f.ports.length) && decide (f.ports.length ≤ 32) && decide (1 ≤ f.uplinks.length) && decide (f.uplinks.length ≤ 12) &&
    decide ((f.ports.length + 7) / 8 ≤ f.uplinks.length) && decide ((f.ports.map PortPlan.width).sum + f.uplinks.length ≤ 36)

/-- Check 8 of R228: none where it passes, else the port or uplink at fault where one is. -/
def topologyFault (f : Folio) : Option (Option Nat) :=
  if f.role ≠ 1 then Option.none
  else match f.ports.find? fun p => !portOk f p with
    | some p => some (some p.port)
    | none =>
      match f.uplinks.find? fun u => !uplinkOk f u with
      | some u => some (some u.1)
      | none => if allocationOk f then Option.none else some Option.none

/-! ### Entry values (R214, R42, R194) -/

/-- An entry that a folio may give (R395): one that is written, in the device's role. -/
def Block.folioEntry (b : Block) (key : Nat) : Option Desc :=
  match b.entryOf (key / 256) (key % 256) with
  | some d => if b.inRole d (key / 256) ∧ (d.access = .rs ∨ d.access = .rw) then some d else none
  | none => none

/-- Entries of a folio as a set takes them: RS values, reserved bits zero. -/
def rsEntries (f : Folio) : Tab Nat :=
  f.entries.foldl (fun t p =>
    match descOf (p.1 / 256) (p.1 % 256) with
    | some d => if d.access = .rs then tabSet t p.1 (cleaned p.1 p.2) else t
    | none => t) []

/-- A verified set of a folio, with the digest of the image it came from. -/
def setFrom (f : Folio) (digest : List Byte) : CfgSet :=
  ttTidy (fun _ => true) { state := .verified, edits := 0, entries := rsEntries f, folio := f, digest := digest }

/-- The largest declared delay. -/
def maxDelay (f : Folio) : Nat := (f.ports.map PortPlan.delay).foldl max 0

/-- Check 9 of R228. -/
def Block.valuesOk (b : Block) (c : CfgSet) : Bool :=
  let f := c.folio
  (f.entries.all fun p =>
    match b.folioEntry p.1 with
    | some d => b.rangeOk d p.1 p.2 && decide (p.2 < 256 ^ d.size) && !unproven c p.1 p.2
    | none => false) &&
    decide (8 + maxDelay f ≤ b.rsIn c 0x280600) && !b.spanTooLong c && b.ttSound c && !b.compactWrong c

/-! ### The checks in order (R228) -/

/-- An answer of a folio's checks: the set, or the refusal code. -/
abbrev FolioAnswer := Except Nat CfgSet

/-- Checks 6 to 10, on an unpacked body whose version has been checked. -/
def Block.bodyChecks (b : Block) (f : Folio) (body image : List Byte) : FolioAnswer × Block :=
  let c := setFrom f (imgDigest image)
  if !sectionsOk body f then (.error 3, b)
  else if f.role ≠ flag b.cRole then (.error 4, b)
  else match topologyFault f with
    | some (some n) => (.error 5, b.raise 0x15 [.id 6 n])
    | some none => (.error 5, (b.raise 0x15 [.id 6 b.freeVal.toNat]).freeNext)
    | none =>
      if !b.valuesOk c then (.error 6, b)
      else if f.serial = 0 ∨ f.serial = b.activeSerial then (.error 7, b)
      else (.ok c, b)

/-- Checks 3 to 5. -/
def Block.unpackedChecks (b : Block) (body image : List Byte) (v : Verdict) : FolioAnswer × Block :=
  let n := body.length
  if natBE (octets body 0 4) ≠ 0x4B464C4F ∨ field body 4 2 ≠ 1 ∨ field body 0x10 4 ≠ n ∨ 0x800000 < n then (.error 1, b)
  else if crc64 (body.take (n - 8)) ≠ field body (n - 8) 8 then (.error 2, b)
  else if field body 0xC 4 ≠ imgVersion image then (.error 8, b.imageResult image 10)
  else (b.imageResult image 0).bodyChecks (folioOf body v.folio) body image

/-- Every check of a folio image. -/
def Block.folioChecks (b : Block) (image : List Byte) (v : Verdict) : FolioAnswer × Block :=
  let sub := b.imageCheck typeFolio image v
  if sub ≠ 0 then (.error 8, b.imageResult image sub)
  else match unpackFolio (imgPayload image) with
    | .error (e, off) =>
      (.error 9, ((b.setReg 0x604001 e).setReg 0x604002 off).raise 0x92 [.id 8 e, .id 23 off])
    | .ok body => (b.setReg 0x604003 body.length).unpackedChecks body image v

/-- The answer, with a refusal's code kept and told. -/
def Block.folioVerify (b : Block) (image : List Byte) (v : Verdict) : FolioAnswer × Block :=
  let r := b.folioChecks image v
  match r.1 with
  | .ok c => (.ok c, r.2)
  | .error n => (.error n, (r.2.setReg 0x202002 n).raise 0x16 [.id 8 n])

end Sys2Proof.Machine
end

