-- ==== Sys2Proof/Machine/Plans.lean ====
section
/-! DEFINITION. Retirement plans and plan boundaries (R382 to R385), as they come into force at an orbit boundary, a swap and
boot. -/

namespace Sys2Proof.Machine

/-! ### Which plan (R384) -/

/-- Something counts as retired. -/
def Block.anyRetired (b : Block) : Bool :=
  b.retiredSlices != 0 || !(b.retiredOf 2).isEmpty || !b.retiredPorts.isEmpty

/-- The plan number that a concentrator has written for a boundary of an orbit (R383). -/
def Block.writtenPlan (b : Block) (orbit : Nat) : Option Nat :=
  let v := b.reg 0x6C0004
  if v ≠ 0 ∧ v % 2 ^ 48 = orbit then some (v / 2 ^ 48) else none

/-- Number of a plan, 0 for the base set. -/
def planNumber (p : Option RetPlan) : Nat := (p.map RetPlan.number).getD 0

/-- A plan of the active set by its number. -/
def Block.planOf (b : Block) (n : Nat) : Option RetPlan := b.active.folio.plans.find? fun p => p.number == n

/-! ### In force (R384, R385) -/

/-- Put a plan, or the base set, in force. -/
def Block.putPlan (b : Block) (p : Option RetPlan) : Block :=
  let red := (p.map RetPlan.reduced).getD false
  let change := b.flt.plan != planNumber p || b.flt.reduced != red
  let b := b.onSets fun s => { s with planCuts := p, planList := (p.map RetPlan.list).getD [] }
  let b := b.onFlt fun f => { f with plan := planNumber p, reduced := red }
  let b := if b.cRole then b else b.onAdc fun a => { a with maskCut := p.map RetPlan.mask }
  if change then (b.raise 0x19 [.id 15 (planNumber p), .id 1 (flag red)]).wakeLinks else b

/-- Put in force the plan of everything that is retired; where none matches, tables stay and that is told. -/
def Block.putKeyed (b : Block) : Block :=
  if !b.anyRetired then b.putPlan none
  else match b.planFor with
    | some p => b.putPlan (some p)
    | none =>
      ((b.onSets fun s => { s with planCuts := none }).onFlt fun f => { f with plan := 0, reduced := false }).raise 0xC4
          [.id 16 b.freeVal.toNat] |>.freeNext

/-- The lanes of a retired port, in the base topology. -/
def Block.lanesOfPort (b : Block) (p : Nat) : List Nat :=
  ((b.active.folio.ports.filter fun q => q.port == p).map portLanes).flatten

/-- The retirement of a site has been adopted from the partner (R383, R386). -/
def Block.adopted (b : Block) (id : Nat) : Bool := b.flt.list.any fun w => bits w.toNat 63 48 == id && w.toNat.testBit 33

/-- Ports retired at the boundary, and those restored since the last one (R382, R387). -/
def Block.settlePorts (b : Block) (gone : List Nat) : Block :=
  let b := forEach gone b fun p b =>
    (forEach (if b.adopted (siteId 4 p) then [] else b.lanesOfPort p) b fun l b => b.laneRetired l).onPort p fun q => { q with state := 2 }
  let back := (b.mrg.ports.filter fun p => p.2.state == 2 && !b.siteRetired 4 p.1).map Prod.fst
  forEach back b fun p b =>
    (forEach ((b.lanesOfPort p).filter fun l => !b.siteRetired 2 l) b fun l b =>
      b.onLane l fun q => { q with tx := if q.tx = .retired then .off else q.tx, rx := if q.rx = .retired then .off else q.rx }).onPort p fun q => { q with state := 1 }

/-- Halves that no link uses any more are parked once they have carried their last frame for an orbit before the present one (R65, R292):
a C-role's has crossed both data grids, a worker's the frame that follows. -/
def Block.parkLater (b : Block) : Block :=
  b.onSets fun s => { s with parkAt := some (b.time.now + if b.cRole then 8 + b.sets.depths.1 else 4) }

/-- The plan boundary of an orbit (R383, R384). -/
def Block.planBoundaryAt (b : Block) (orbit : Nat) : Block :=
  let gone := b.flt.pendPorts
  let written := if b.cRole then none else b.writtenPlan orbit
  let b := b.onFlt fun f => { f with boundary := none, pendLanes := [], pendPorts := [] }
  let b := b.settlePorts gone
  let b := match written with
    | some n => (b.setReg 0x6C0004 0).putPlan (if n = 0 then none else b.planOf n)
    | none => b.putKeyed
  b.wakeLinks.parkLater

/-- The pending boundary is that of the orbit that begins in the present crossing. -/
def Block.planDueNow (b : Block) : Bool :=
  b.time.slot == 0 && (match b.flt.boundary with | some n => n == b.time.orbit | none => false)

/-! ### A plan written by a concentrator (R383) -/

/-- A write of 6C00.04 takes effect: the plan and its boundary. -/
def Block.planTake (b : Block) (v : Nat) : Block :=
  (b.setReg 0x6C0004 v).onFlt fun f => { f with boundary := some (v % 2 ^ 48) }

/-! ### Meanings -/

/-- PLAN_BOUNDARY (R383). -/
def execPlanBoundary (s : State) : Host.Outcome State Fault Refusal :=
  s.run fun b => b.when (b.running && b.planDueNow) fun b => b.planBoundaryAt b.time.orbit

/-- PLAN_WRITE (R383): at a worker. -/
def execPlanWrite (h : Hdr) (value : Word64) (s : State) : Host.Outcome State Fault Refusal :=
  s.run fun b => b.writeTo h 0x6C0004 8 fun b => b.pendWrite h 0x6C0004 value.toNat

/-- RESTORE_SITE (R387). -/
def execRestoreSite (h : Hdr) (site : BitVec 16) (s : State) : Host.Outcome State Fault Refusal :=
  s.run fun b => b.writeTo h 0x6C1001 2 fun b => b.restoreWrite h site.toNat

/-- RETIRE_SITE (R387). -/
def execRetireSite (h : Hdr) (site : BitVec 16) (s : State) : Host.Outcome State Fault Refusal :=
  s.run fun b => b.writeTo h 0x6C1002 2 fun b => b.retireWrite h site.toNat

/-- CLEAR_FAULT_LOG (R381). -/
def execClearFaultLog (h : Hdr) (value : BitVec 8) (s : State) : Host.Outcome State Fault Refusal :=
  s.run fun b => b.writeTo h 0x6C1003 1 fun b => b.clearLog h value.toNat

end Sys2Proof.Machine
end

