-- ==== Sys2Proof/Machine/Proxy.lean ====
section
/-! DEFINITION. The proxy of a C-role: what it forwards to a worker port, for a requester or on its own account (R416, R417). -/

namespace Sys2Proof.Machine

/-- DQ queue of a port. -/
def dqOf (p : Nat) : Nat := 0x80 + p

/-- ORIGIN of a forwarded message: back-end, CAN, or the C-role itself (R413). -/
def forwardOrigin : Origin → Nat
  | .canA _ => 1
  | .canB _ => 1
  | .proxiedUnit => 2
  | _ => 0

/-- The base claim (R350). -/
def Block.baseClaim (b : Block) : Nat := b.reg 0x680002

/-- The claim number that this unit's frames carry: the base claim in solo topology (R314). -/
def Block.ownClaim (b : Block) : Nat := if b.topology = 1 then b.baseClaim else b.twin.claim

/-- What a proxy request to a port meets: an abort code, 0 where it is forwarded. -/
def Block.proxyCode (b : Block) (o : Origin) (p : Nat) : Nat :=
  match b.portPlanOf p with
  | none => 0x14
  | some q =>
    if (b.port p).state = 2 then 0x12
    else if (b.lane q.lane).absent then 0x11
    else if !b.portHeard q then 0x13
    else if o ≠ .inband ∧ (b.port p).claim ≠ b.ownClaim then 0x16
    else if 4 ≤ (b.port p).proxies.length then 0x17
    else 0

/-- The bytes of a forwarded message: PATH 0 and the tag of the transaction. -/
def proxyBytes (op tag session idx sub arg : Nat) (body : List Byte) : List Byte :=
  bytesLE 1 op ++ bytesLE 1 0 ++ bytesLE 1 tag ++ bytesLE 1 session ++ bytesLE 2 idx ++ bytesLE 1 sub ++ bytesLE 1 arg ++ body

/-- A message enters a port's DQ queue as BULK words. -/
def Block.toWorker (b : Block) (p origin : Nat) (m : List Byte) : Block := b.qBulk (dqOf p) b.time.now (bulkWords 0 origin 0 m)

/-- An abort that the proxy answers, counted in 1040.03. -/
def Block.proxyAbort (b : Block) (h : Hdr) (idx sub code : Nat) : Block := (b.bump 0x104003 1).abort h idx sub code

/-- The tag that a transaction takes: the back-end's own, else the next of the proxy's. -/
def Block.proxyTagFor (b : Block) (h : Hdr) : Nat × Block :=
  if h.origin = .inband then (h.tag.toNat, b)
  else (b.dict.proxyTag, b.onDict fun d => { d with proxyTag := (d.proxyTag + 1) % 256 })

/-- Forward a request to a port and keep its requester. -/
def Block.proxyForward (b : Block) (h : Hdr) (p op idx sub arg : Nat) (body : List Byte) (release : Bool) : Block :=
  let r := b.proxyTagFor h
  let b := r.2.onPort p fun q => { q with proxies := q.proxies ++ [{ tag := r.1, hdr := h, index := idx, sub := sub, release := release }] }
  b.toWorker p (forwardOrigin h.origin) (proxyBytes op r.1 h.session idx sub arg body)

/-- A request with a PATH (R416, R417). -/
def Block.proxyRequest (b : Block) (h : Hdr) (op idx sub arg : Nat) (body : List Byte) : Block :=
  let code := b.proxyCode h.origin h.path
  if code ≠ 0 then b.proxyAbort h idx sub code else b.proxyForward h h.path op idx sub arg body false

/-- The header of a message of the C-role's own to a port. -/
def ownHdr (p : Nat) : Hdr := { origin := .proxiedUnit, pair := false, path := p, tag := 0, session := 0 }

/-- What the C-role delivers on its own account aborts (R417, R446): it is counted and told, and not repeated. -/
def Block.ownAbort (b : Block) (idx sub code : Nat) : Block :=
  (b.bump 0x104003 1).raiseOnce 0xD4 0 [.id 8 code, .id 24 (idx * 256 + sub)]

/-- A write that the C-role delivers on its own account. -/
def Block.ownWrite (b : Block) (p key : Nat) (body : List Byte) (release : Bool) : Block :=
  let code := b.proxyCode .proxiedUnit p
  if code ≠ 0 then b.ownAbort (key / 256) (key % 256) code
  else b.proxyForward (ownHdr p) p 0x02 (key / 256) (key % 256) body.length body release

/-- A download of 2020.01 that the C-role delivers on its own account (R416). -/
def Block.ownSlice (b : Block) (p : Nat) (image : List Byte) : Block :=
  let code := b.proxyCode .proxiedUnit p
  if code ≠ 0 then b.ownAbort 0x2020 1 code
  else
    let tag := BitVec.ofNat 8 b.dict.proxyTag
    let h := { ownHdr p with tag := tag }
    let t : Transfer := { hdr := h, index := 0x2020, sub := 1, up := true, total := image.length, data := image, size := 64, base := 0,
                          next := 0, unacked := 0 }
    (b.onDict fun d => { d with transfers := d.transfers ++ [t] }).proxyForward h p 0x03 0x2020 1 0 (bytesLE 4 image.length) false

/-- The WORKER_SLICE of a port in a set. -/
def sliceFor (c : CfgSet) (p : Nat) : Option (List Byte) := (c.folio.slices.find? fun q => q.1 == p).map Prod.snd

/-- SERIAL of a WORKER_SLICE. -/
def sliceSerial (image : List Byte) : Nat :=
  match unpackFolio (imgPayload image) with
  | .ok body => field body 8 4
  | .error _ => 0

/-- A folio that has entered the shadow, or a boot folio, is sent on slice by slice to every Active worker (R237). -/
def Block.sendSlices (b : Block) (c : CfgSet) : Block :=
  if !b.cRole then b
  else forEach c.folio.ports b fun q b =>
    match sliceFor c q.port with
    | some im => if b.portsNow.any fun x => x.port == q.port && b.linkUp (b.portLinkNow x) then b.ownSlice q.port im else b
    | none => b

end Sys2Proof.Machine
end

