-- ==== Sys2Proof/Machine/Sets.lean ====
section
/-! DEFINITION. Configuration sets: arming, disarming and taking a swap, the shadow's hold, RS writes (R65, R229 to R237). -/

namespace Sys2Proof.Machine

/-! ### The boundary of a swap (R232) -/

/-- Crossings from the present one to the start of an orbit; none where it has begun. -/
def Block.ahead (b : Block) (n : Nat) : Option Nat :=
  if n ≤ b.time.orbit then none else some (b.orbitStart n - b.time.now)

/-- The boundary of an orbit lies at least 2 crossings ahead. -/
def Block.inTime (b : Block) (n : Nat) : Bool := match b.ahead n with | some k => decide (2 ≤ k) | none => false

/-- The measured crossing frequency, in mHz, lies in a folio's range, in kHz. -/
def Block.fxInside (b : Block) (f : Folio) : Bool :=
  decide (f.fxMin * 1000000 ≤ b.time.fx) && decide (b.time.fx ≤ f.fxMax * 1000000)

/-- The first Active worker port whose shadow is not the slice of the C-role's shadow. -/
def Block.wrongShadow (b : Block) : Option Nat :=
  let bad := fun (q : PortPlan) =>
    b.linkUp (b.portLinkNow q) &&
      (match sliceFor b.sets.shd q.port with
       | some im => (b.port q.port).shadowSerial != some (sliceSerial im)
       | none => true)
  if b.cRole then (b.portsNow.find? bad).map PortPlan.port else none

/-- The shadow's depths differ from those in force. -/
def Block.depthsDiffer (b : Block) : Bool :=
  let c := b.sets.shd
  b.cRole && (b.rsIn c 0x580201 != b.fW || b.rsIn c 0x580202 != b.fB || b.rsIn c 0x580203 != b.fK)

/-- The cause that refuses a swap for orbit n, with the port of cause 5; 0 where none does. -/
def Block.swapCause (b : Block) (n : Nat) : Nat × Nat :=
  if !b.inTime n then (1, 0)
  else if b.sets.shd.state = .empty then (2, 0)
  else if b.downloading then (3, 0)
  else if !b.fxInside b.sets.shd.folio then (4, 0)
  else match b.wrongShadow with
    | some p => (5, p)
    | none => if b.depthsDiffer then (6, 0) else (0, 0)

/-! ### Requests (R232, R233) -/

/-- What a request for a swap comes to. -/
inductive SwapAnswer where
  | armed | merged | conflict
  | refused (cause : Nat)
deriving DecidableEq, Repr

/-- A request for a swap at the start of orbit n. The links of the incoming set wake (R293). -/
def Block.armSwap (b : Block) (n : Nat) : SwapAnswer × Block :=
  match b.sets.armed with
  | some m =>
    if m = n then (.merged, b.bump 0x201305 1)
    else (.conflict, b.raise 0x14 [.id 48 m, .id 48 n])
  | none =>
    let c := b.swapCause n
    if c.1 = 0 then (.armed, (b.onSets fun s => { s with armed := some n }).wakeLinks)
    else (.refused c.1, b.raise 0x13 [.id 8 c.1, .id 6 c.2])

/-- A C-role that arms a swap on its own side forwards it (R237, R310). -/
def Block.forwardSwap (b : Block) (n : Nat) : Block :=
  if b.cRole then b.onAcc fun a => { a with swapFwd := a.swapFwd ++ [n] } else b

/-- The abort code of a refused dictionary write. -/
def swapAbort : SwapAnswer → Nat
  | .refused 1 => 0x18
  | .refused _ => 0x08
  | .conflict => 0x08
  | _ => 0

/-- A write of an orbit number to 2012.00. -/
def Block.swapWrite (b : Block) (h : Hdr) (n : Nat) : Block :=
  let r := b.armSwap n
  match r.1 with
  | .armed => (r.2.forwardSwap n).ack h 0x201200
  | .merged => r.2.ack h 0x201200
  | a => r.2.refuseKey h 0x201200 (swapAbort a)

/-- A write of 0 to 2012.00. -/
def Block.disarm (b : Block) (h : Hdr) : Block :=
  match b.sets.armed with
  | none => b.ack h 0x201200
  | some n =>
    if b.inTime n then ((b.onSets fun s => { s with armed := none }).parkLanes).ack h 0x201200
    else (b.raise 0x13 [.id 8 1, .id 6 0]).refuseKey h 0x201200 0x18

/-- A write to 2012.00: an orbit number has 48 bits. It waits for the requests of the timetable and the downlink in its crossing (R233). -/
def Block.swapOrbit (b : Block) (h : Hdr) (v : Nat) : Block :=
  if 2 ^ 48 ≤ v then b.refuseKey h 0x201200 0x07
  else b.onDict fun d => { d with swaps := d.swaps ++ [⟨0x201200, v, h, d.mute⟩] }

/-- The dictionary's requests of a crossing are taken, behind those of the timetable and the downlink (R233). -/
def Block.swapsTaken (b : Block) : Block :=
  forEach b.dict.swaps (b.onDict fun d => { d with swaps := [] }) fun q b =>
    let b := b.onDict fun d => { d with mute := q.silent }
    (if q.value = 0 then b.disarm q.hdr else b.swapWrite q.hdr q.value).onDict fun d => { d with mute := false }

/-- The orbit that a SWAP action names (R62). -/
def Block.swapTarget (b : Block) (arg : Nat) : Nat :=
  if arg ≠ 0 then arg else if b.time.slot + 3 ≤ b.nO then b.time.orbit + 1 else b.time.orbit + 2

/-- The SWAP action of entry e. -/
def Block.swapAction (b : Block) (e : Nat) : Block :=
  let n := b.swapTarget (b.ttArg e)
  let r := b.armSwap n
  match r.1 with
  | .armed => r.2.forwardSwap n
  | .refused 1 => (r.2.bump 0x290002 1).raise 0x8A [.id 8 e]
  | _ => r.2

/-- The least orbit number from the present one on whose low 44 bits match. -/
def Block.orbitMatching (b : Block) (low : Nat) : Nat :=
  let o := b.time.orbit
  let n := o / 2 ^ 44 * 2 ^ 44 + low % 2 ^ 44
  if o ≤ n then n else n + 2 ^ 44

/-- The configuration-swap command of the downward payload (R232, R310): a C-role forwards it only where it arms. -/
def Block.swapCommand (b : Block) (n : Nat) : Block :=
  let r := b.armSwap n
  if r.1 = .armed ∧ b.cRole then r.2.onAcc fun a => { a with command := some (command 5 n) } else r.2

/-! ### The swap (R65, R235, R236) -/

/-- The armed orbit has begun and its sets have not yet been exchanged. -/
def Block.swapDue (b : Block) : Bool := b.time.slot == 0 && b.sets.armed == some b.time.orbit

/-- The log names the set that governs the orbit that begins. -/
def Block.markSwap (b : Block) : Block :=
  b.onTime fun t =>
    { t with log := t.log.map fun r => if r.orbit = t.orbit then { r with set := b.sets.swaps, len := b.nO } else r }

/-- At a swap each worker's shadow becomes the slice of the outgoing set. -/
def Block.swapShadows (b : Block) (old : CfgSet) : Block :=
  forEach b.portsNow b fun q b =>
    match sliceFor old q.port with
    | some im => if b.linkUp (b.portLinkNow q) then b.onPort q.port fun s => { s with shadowSerial := some (sliceSerial im) } else b
    | none => b

/-- Channels whose POWER_DOWN the outgoing set had and the incoming has not are powered (R83). -/
def Block.powerUp (b : Block) (old : CfgSet) : Block :=
  let down := fun (c : CfgSet) => c.entries.filterMap fun p =>
    if 0x310001 ≤ p.1 ∧ p.1 < 0x320000 ∧ p.1 % 256 = 1 ∧ p.2.testBit 28 then some (p.1 / 256 - 0x3100) else none
  forEach (down old) b fun c b => if b.poweredDown c then b else b.settleFrom c b.time.now

/-- The timeout counter of a channel that is watched again starts anew (R162). -/
def Block.rewatch (b : Block) (old : CfgSet) : Block :=
  let was := fun (c : Nat) => (b.rsIn old (0x490001 + 256 * c)).testBit 31 && b.rsIn old 0x480004 != 0
  forEach ((List.range 256).filter fun c => b.chWatched c && !was c) b fun c b => b.onChan c fun k => { k with timer := b.time.now }

/-- The two sets exchange. -/
def Block.exchangeSets (b : Block) : Block :=
  b.onSets fun s => { s with act := some s.shd, shd := s.act.getD {}, armed := none, heldFrom := some b.time.now, swaps := s.swaps + 1 }

/-- A swap takes effect at slot 0 of its orbit. It restarts the regular list at entry 0 also where a REGULAR_START that fired in the
crossing before would be due, for which the spec gives no order (assumption 114). -/
def Block.setSwap (b : Block) : Block :=
  let old := b.active
  let b := ((b.swapShadows old).exchangeSets).markSwap
  let b := b.raise 0x12 [.id 32 b.activeSerial]
  let b := ((b.powerUp old).rewatch old).remask.plateChecks
  let b := (b.onAdc fun a => { a with restart := some (0, b.time.now), maskCut := none }).onSets fun s => { s with planList := [] }
  let b := if b.planDueNow then b else b.putKeyed
  b.wakeLinks.parkLater.ttActivate.ttConflicts.firesNow

/-- The hold of the shadow ends at the first orbit boundary at least 4096 crossings after the swap (R236). -/
def Block.holdOver (b : Block) : Bool :=
  match b.sets.heldFrom with
  | some x => b.time.slot == 0 && decide (x + 4096 ≤ b.time.now)
  | none => false

/-- A verified set replaces the shadow; halves that only a shadow set uses become Dormant or Off, and a C-role sends its slices on (R231,
R237, R292). -/
def Block.toShadow (b : Block) (c : CfgSet) : Block :=
  (((b.onSets fun s => { s with shd := c, waiting := none, staging := .idle, image := [] }).onBoot fun k =>
    { k with sliceRefused := [] }).when b.sets.parkAt.isNone Block.parkLanes).sendSlices c

/-- The hold ends; a download that waited enters the shadow. -/
def Block.holdEnd (b : Block) : Block :=
  let b := b.onSets fun s => { s with heldFrom := none }
  match b.sets.waiting with
  | some c => b.toShadow c
  | none => b

/-! ### RS writes (R229, R230, R234) -/

/-- RS writes find the shadow EMPTY, held, or within the last crossings before a swap. -/
def Block.shadowBusy (b : Block) : Bool :=
  b.sets.shd.state == .empty || b.sets.heldFrom.isSome ||
    (match b.sets.armed with
     | some n => match b.ahead n with
       | some k => decide (k ≤ 2)
       | none => true
     | none => false)

/-- A write of an RS entry, already found to be one. -/
def Block.rsWrite (b : Block) (h : Hdr) (d : Desc) (key v : Nat) : Block :=
  let v := cleaned key v
  if b.shadowBusy then b.refuseKey h key 0x08
  else
    let c := b.sets.shd
    let code := b.rsCode c d key v
    let b := if code = 0x07 ∧ unproven c key v then b.raise 0x17 [.id 24 key] else b
    if code ≠ 0 then b.refuseKey h key code
    else (b.onSets fun s => { s with shd := { putEntry c key v with state := .edited, edits := c.edits + 1 } }).ack h key

/-- A write command on an RS entry; on any other entry it has no place here. -/
def Block.rsRequest (b : Block) (h : Hdr) (key len v : Nat) : Block :=
  b.writeTo h key len fun b =>
    match b.entryOf (key / 256) (key % 256) with
    | some d => if d.access = .rs then b.rsWrite h d key v else b
    | none => b

/-! ### Meanings -/

/-- SWAP_ORBIT_WRITE (R232). -/
def execSwapOrbitWrite (h : Hdr) (orbit : Word64) (s : State) : Host.Outcome State Fault Refusal :=
  s.run fun b => b.writeTo h 0x201200 8 fun b => b.swapOrbit h orbit.toNat

/-- SWAP_DISARM (R232). -/
def execSwapDisarm (h : Hdr) (s : State) : Host.Outcome State Fault Refusal :=
  s.run fun b => b.writeTo h 0x201200 8 fun b => b.swapOrbit h 0

/-- SET_SWAP (R65). -/
def execSetSwap (s : State) : Host.Outcome State Fault Refusal :=
  s.run fun b => b.when (b.running && b.swapDue) fun b => b.setSwap

/-- SHADOW_HOLD_END (R236). -/
def execShadowHoldEnd (s : State) : Host.Outcome State Fault Refusal :=
  s.run fun b => b.when (b.running && b.holdOver) fun b => b.holdEnd

/-- RS_ENTRY_WRITE (R230): of an entry of access RS. -/
def execRsEntryWrite (h : Hdr) (index : BitVec 16) (sub : BitVec 8) (value : List Byte) (s : State) :
    Host.Outcome State Fault Refusal :=
  s.run fun b => b.rsRequest h (index.toNat * 256 + sub.toNat) value.length (natLE value)

/-- TIMETABLE_ENTRY_WRITE (R61): word 0 or word 1 of an entry. -/
def execTimetableEntryWrite (h : Hdr) (entry : BitVec 8) (second : Bool) (value : Word64) (s : State) :
    Host.Outcome State Fault Refusal :=
  s.run fun b => b.rsRequest h (0x2A0001 + 256 * entry.toNat + flag second) 8 value.toNat

/-- SWAP_COMMAND (R307, R232). -/
def execSwapCommand (orbit : BitVec 44) (s : State) : Host.Outcome State Fault Refusal :=
  s.run fun b => b.when (b.running && b.sets.act.isSome) fun b => b.swapCommand (b.orbitMatching orbit.toNat)

/-- SWAP (R62): the SWAP action of a timetable entry. -/
def execSwap (entry : BitVec 8) (s : State) : Host.Outcome State Fault Refusal :=
  s.run fun b =>
    b.when (b.running && b.ttActs entry.toNat 2) fun b => (b.ttUsed entry.toNat).swapAction entry.toNat

end Sys2Proof.Machine
end

