-- ==== Sys2Proof/Machine/Release.lean ====
section
/-! DEFINITION. Readiness, the tile check and BOOT_STATE (R443, R444, R458). -/

namespace Sys2Proof.Machine

/-! ### Conditions (R443) -/

/-- TILE_SERIAL that the active folio expects: that of an F-role's one port. -/
def Block.tileExpected (b : Block) : Nat := (b.active.folio.ports.head?.map PortPlan.tile).getD 0

/-- The tile check (R444): whether it has passed, and the serial of the mismatch where there is one. While the bookplate is
being read there is no outcome. -/
def Block.tileCheckNow (b : Block) : Bool × Option Nat :=
  let e := b.tileExpected
  let p := b.plate
  if e = 0 then (true, none)
  else if p.state = 0 then (false, none)
  else if p.taken ∧ p.serial.toNat = e then (true, none)
  else (b.rs 0x101405 == 0, some (if p.taken then p.serial.toNat else 0))

/-- The side that an F-role obeys, as its group. -/
def Block.obeyedGroup (b : Block) : Nat := (b.frm.side.map Fin.val).getD 0

/-- Every rank of the obeyed group is Active at the port's width. -/
def Block.groupReady (b : Block) : Bool :=
  let k := groupLink b.obeyedGroup (groupWidth b.portsNow)
  b.sets.act.isSome && (k.rx.all b.rxActive) && (k.tx.all fun l => (b.lane l).tx == .active)

/-- D has been applied for every Active downlink side. -/
def Block.alignReady (b : Block) : Bool :=
  (List.range 2).all fun g => !b.rxActive (4 * g) || b.boot.aligned.contains g

/-- A time source: a QUALIFIED domain, or a side obeyed. -/
def Block.timeReady (b : Block) : Bool :=
  if b.cRole then b.time.domA.state == .qualified || b.time.domB.state == .qualified else b.frm.side.isSome

/-- Conditions of R443 by bit, true where one is met or is not asked of the role. -/
def Block.conditions (b : Block) : List Bool :=
  let f := !b.cRole
  [b.sets.act.isSome, b.time.locked, b.timeReady, b.reg keyBinState == 2, b.allCalibrated,
   !f || b.groupReady, !f || b.tileCheckNow.1, !f || b.alignReady, !f || decide (b.boot.channelsAt + 2048 ≤ b.time.now)]

/-- READY_PENDING. -/
def Block.readyPending (b : Block) : Nat :=
  orBits (((List.range 9).zip b.conditions).filterMap fun p => if p.2 then none else some p.1)

/-- Every condition holds. -/
def Block.allReady (b : Block) : Bool := b.conditions.all id

/-- BOOT_STATE. -/
def Block.bootState (b : Block) : Nat :=
  match b.boot.phase with
  | .powerReset => 0
  | .pinReset => 0
  | .fuseLoad => 0
  | .stopped => 5
  | .shutdown => 0
  | .running =>
    if b.boot.noFolio then 6
    else if b.sets.act.isNone then 1
    else if b.boot.released then 4
    else if b.boot.unitReleased || b.boot.readySince.isSome then 3
    else 2

end Sys2Proof.Machine
end

