-- ==== Sys2Proof/Machine/Entries.lean ====
section
/-! DEFINITION. Dictionary entries that are read from the machine's state, and what a write does when it takes effect
(R95, R124, R390 to R396, R421, R430, R458 and the entry tables of every chapter). -/

namespace Sys2Proof.Machine

/-! ### Entries read from state -/

/-- Entries of the device, of start-up and of the sessions. -/
def Block.readDevice (b : Block) (h : Hdr) (key : Nat) : Option Nat :=
  match key with
  | 0x100003 => some b.fuses.dieRevision.toNat
  | 0x100004 => some b.fuses.identity.toNat
  | 0x100005 => some b.profileState
  | 0x100007 => some b.time.now
  | 0x101300 => some b.boot.cause
  | 0x101401 => some b.bootState
  | 0x101402 => some b.readyPending
  | 0x101407 => some (orBits ((b.mrg.ports.filter fun p => p.2.excluded).map fun p => p.1 - 1))
  | 0x101409 => some (orBits (b.boot.resetting.map fun p => p.1 - 1))
  | 0x101501 => some (if b.flash.error then 2 else flag b.flash.present)
  | 0x101502 => some b.flash.capacity
  | 0x101503 => some b.flash.preferred
  | 0x101504 => some (b.flash.serial1 * 2 ^ 32 + b.flash.serial0)
  | 0x101601 => some b.fuses.options.toNat
  | 0x102001 => some (flag b.cRole)
  | 0x102002 => some b.fuses.role.toNat
  | 0x102003 => some b.roleActive
  | 0x102004 => some (flag b.boot.unitB)
  | 0x102005 => some b.topology
  | 0x103001 => some b.dict.sessions.length
  | 0x103006 => some (h.session * 256 + (b.levelOf h).getD 0)
  | 0x105101 => some b.dict.canA.state
  | 0x105102 => some b.dict.canB.state
  | _ => none

/-- DOWNLOAD_STATE. -/
def Block.stagingCode (b : Block) : Nat :=
  match b.sets.staging with
  | .idle => if b.transferOn 0x2020 1 then 1 else 0
  | .receiving => 1
  | .verifying => 2
  | .waiting => if b.sets.heldFrom.isSome then 4 else 3

/-- Entries of the sets, the contract and time. -/
def Block.readSets (b : Block) (key : Nat) : Option Nat :=
  let f := b.active.folio
  match key with
  | 0x200001 => some (if b.sets.act.isNone then 0 else if b.sets.badTables.isEmpty then 1 else 2)
  | 0x201000 => some b.activeSerial
  | 0x201100 => some b.shadowSerial
  | 0x201200 => some (b.sets.armed.getD 0)
  | 0x201301 => some (setStateCode b.sets.shd.state)
  | 0x201302 => some b.active.edits
  | 0x201303 => some b.sets.shd.edits
  | 0x201304 => some b.sets.swaps
  | 0x201307 => some (flag b.sets.heldFrom.isSome)
  | 0x202003 => some b.stagingCode
  | 0x202004 => some b.activeVersion
  | 0x202007 => some (f.fxMin * 2 ^ 32 + f.fxMax)
  | 0x203001 => some f.span
  | 0x203003 => some f.maxCirc
  | 0x203004 => some (pack [(1, flag b.flt.reduced), (15, b.flt.plan)])
  | 0x280001 => some b.time.slot
  | 0x280002 => some b.time.orbit
  | 0x280004 => some b.time.fx
  | 0x280201 => some b.time.tod.sec
  | 0x280202 => some b.time.tod.nano
  | 0x280203 => some b.time.tod.frac
  | 0x280204 => some (twos 40 b.time.inc)
  | 0x281001 => some (flag b.time.locked)
  | 0x282001 => some ((b.time.selected.map Fin.val).getD 0xFF)
  | 0x284103 => some b.fuses.tFix
  | _ => none

/-- State of a tracker as 282d.01 codes it. -/
def domCode : DomState → Nat
  | .lost => 0
  | .acquiring => 1
  | .qualified => 2

/-- Entries of trackers, uplinks, ports, channels and slices, by index and sub-index. -/
def Block.readRows (b : Block) (i s : Nat) : Option Nat :=
  if i = 0x2821 ∨ i = 0x2822 then
    let t := b.dom (i - 0x2821)
    if s = 1 then some (domCode t.state) else if s = 3 then some (twos 32 t.residual)
    else if !b.cRole ∧ (s = 2 ∨ s = 4) then some 0 else none
  else if 0x2101 ≤ i ∧ i ≤ 0x2120 ∧ s = 1 then
    some (((b.allowances.find? fun p => p.1 == i - 0x2100).map Prod.snd).getD 0)
  else if i = 0x3011 then some ((b.chMask >>> (32 * (s - 1))) % 2 ^ 32)
  else if i = 0x3012 then some (if b.plate.taken then (b.plate.mask >>> (32 * (s - 1))) % 2 ^ 32 else 0)
  else if 0x3100 ≤ i ∧ i ≤ 0x31FF ∧ s = 6 then some (b.effectiveTrims (i - 0x3100))
  else if 0x4720 ≤ i ∧ i ≤ 0x4723 then some (tabGet 0 b.adc.results ((i - 0x4720) * 256 + s))
  else if 0x4900 ≤ i ∧ i ≤ 0x49FF ∧ s = 2 then
    let k := b.chan (i - 0x4900)
    if k.nHG = 16 then some k.bHG.toNat else none
  else if 0x4900 ≤ i ∧ i ≤ 0x49FF ∧ s = 3 then
    let k := b.chan (i - 0x4900)
    if k.nLG = 16 then some k.bLG.toNat else none
  else if 0x4A10 ≤ i ∧ i ≤ 0x4A1F then
    let k := b.stack (i - 0x4A10)
    if s = 1 then some k.occupancy else if s = 0xA then some k.wp else if s = 0xB then some k.rp else none
  else if 0x5101 ≤ i ∧ i ≤ 0x510C ∧ s = 1 then some (b.uplink (i - 0x5100)).accession
  else if 0x5400 ≤ i ∧ i ≤ 0x54A0 ∧ s = 3 then some (b.queue (i - 0x5400)).level
  else none

/-- SLICE_STATE and SLICE_RANK. -/
def Block.sliceState (b : Block) (n : Nat) : Nat :=
  let k := b.slice n
  if k.retired then 3 else if k.rank.isSome then 0 else if b.retiredSlices = 0 then 1 else 2

/-- Entries of a converter slice. CONSECUTIVE_FAILURES are the rejected runs in a row; the spec does not say of what
(assumption 110). -/
def Block.readSlice (b : Block) (n s : Nat) : Option Nat :=
  let k := b.slice n
  match s with
  | 1 => some (b.sliceState n)
  | 2 => some (k.rank.getD 0xFF)
  | 3 => some (twos 16 k.coef.offset)
  | 4 => some k.coef.gain
  | 8 => some k.fails
  | _ => none

/-- Length of a lap of the regular list (R138). -/
def Block.lapLength (b : Block) : Nat :=
  let n := b.rs 0x450001
  match (List.range n).find? fun e => bits (b.rs (regEntryKey e)) 31 29 == 6 with
  | some e => e + 1
  | none => n

/-- Regular slots of a crossing: 2 x (32 - R) - J in an F-role (R138, R153); 2 for each rank served in a C-role, for which the spec has no
formula (R129, R130; assumption 109). -/
def Block.regularSlots (b : Block) : Nat := 2 * ranksServed b.cRole b.retiredSlices - b.slotsJ

/-- REGULAR_REVISIT_BOUND (R138, R153). -/
def Block.revisitBound (b : Block) : Nat :=
  if b.rs 0x450001 = 0 then 0
  else if b.regularSlots = 0 then 0xFFFF
  else (b.lapLength + b.regularSlots - 1) / b.regularSlots

/-- CAL_MODE (R149, R152, R156). -/
def Block.calMode (b : Block) : Nat := if b.adc.initial then 0 else if b.retiredSlices = 0 then 1 else 2

/-- The mean of kept echoes, each an interval less its turnaround in 10^-15 LSB_phi, in LSB_phi / 256. -/
def echoMean (l : List Int) : Int := if l.isEmpty then 0 else roundDiv (256 * l.sum) (l.length * 10 ^ 15)

/-- The shot's window covers the present crossing. -/
def Block.windowOpen (b : Block) : Bool :=
  match b.iu.window with
  | some (p, a) => decide (b.time.now < a + b.windowLen p)
  | none => false

/-- A start or stop source of a programme: in C-role one that names a channel reads 0 (R124). -/
def Block.readSource (b : Block) (key : Nat) : Nat :=
  let v := b.reg key
  if b.cRole ∧ 0x100 ≤ v then 0 else v

/-- Entries of edges, converters, classification and stacks. After a retirement CARREL_SLICE is the slice that calibrates out of service;
the spec does not say (assumption 111). -/
def Block.readArrays (b : Block) (key : Nat) : Option Nat :=
  match key with
  | 0x302001 => some b.plate.state
  | 0x302002 => some b.plate.serial.toNat
  | 0x302003 => some (field b.plate.image 0x10 2)
  | 0x302006 => some b.plate.last.toNat
  | 0x401003 => some (if b.windowOpen then 1 else if b.iu.campaign.isSome then 2 else 0)
  | 0x401004 => some (b.iu.campaign.getD 0xFF)
  | 0x430002 => some (flag (!b.time.campaigns.isEmpty))
  | 0x430101 => some (twos 32 (echoMean b.time.domA.echoes))
  | 0x430102 => some (twos 32 (echoMean b.time.domB.echoes))
  | 0x440002 => some b.slotsJ
  | 0x440003 => some (b.adc.carrel.getD 0xFF)
  | 0x440004 => some (b.adc.runDone - 1)
  | 0x440009 => some b.calMode
  | 0x44000A => some (flag b.adc.frozen)
  | 0x44000B => some b.retiredSlices
  | 0x450002 => some b.adc.regPos
  | 0x450005 => some b.revisitBound
  | 0x4A0005 => some (b.spanOf b.active)
  | 0x4A0006 => some b.active.folio.retain
  | 0x580005 => some (flag b.env.freeze)
  | _ => none

/-- The home ports of an uplink in ascending port order: its positions (R247). -/
def Block.homePorts (b : Block) (u : Nat) : List Nat :=
  (List.range 33).filter fun p => decide (1 ≤ p) && b.active.folio.ports.any fun q => q.port == p && q.home == u

/-- PORT_STATE, HOME_UPLINK, POSITION and LAST_OCCUPANCY. -/
def Block.readPort (b : Block) (p s : Nat) : Option Nat :=
  let plan := b.active.folio.ports.find? fun q => q.port == p
  let home := (plan.map PortPlan.home).getD 0
  match s with
  | 1 => some (b.port p).state
  | 2 => some home
  | 3 => some (((b.homePorts home).findIdx? (· == p)).getD 0xFF)
  | 4 => some (b.port p).occ
  | _ => none

/-- Entries of a lane. -/
def Block.readLane (b : Block) (l s : Nat) : Option Nat :=
  let k := b.lane l
  match s with
  | 2 => some (halfCode k.tx * 256 + halfCode k.rx)
  | 3 => some k.step
  | 4 => some k.attempts
  | 5 => some (flag k.absent)
  | 6 => some k.ctle
  | 8 => some (flag k.inverted)
  | 9 => some (flag k.reversed * 128 + k.rank % 4)
  | 0xA => some (k.placed.getD 0 * 65536 + k.margin % 65536)
  | 0xE => some k.retries
  | _ => none

/-- Twin states as W0 codes them (R355). -/
def twinCode : TwinState → Nat
  | .pairing => 0
  | .active => 1
  | .standby => 2
  | .held => 3
  | .released => 4
  | .resync => 5

/-- Entries of frames, check-value units, the twin pair, faults and the environment. -/
def Block.readLinks (b : Block) (key : Nat) : Option Nat :=
  match key with
  | 0x5B0001 => some b.frm.fr
  | 0x5B0002 => some (if b.cRole then 0 else (b.frm.nowSide.map Fin.val).getD 0xFF)
  | 0x5B0003 => some b.frm.claimA
  | 0x5B0004 => some b.frm.claimB
  | 0x680001 => some (twinCode b.twin.state)
  | 0x680003 => some b.ownClaim
  | 0x680004 => some b.twin.pClaim
  | 0x680005 => some (bits b.twin.w0.toNat 63 61)
  | 0x680006 => some b.twin.cause
  | 0x680007 => some (b.sets.depths.2.2 + 4)
  | 0x680008 => some (flag b.twin.lost)
  | 0x6C0001 => some b.flt.list.length
  | 0x6C2002 => some (b.siteTransients (b.reg 0x6C2001)).length
  | 0x6C2003 => some (b.site (b.reg 0x6C2001)).state
  | 0x740301 => some (pack [(1, flag (decide (b.boot.phase = .shutdown))), (1, flag b.env.throttle), (1, flag b.env.warning)])
  | 0x740302 => some (b.env.allow / 16)
  | 0x748001 => some (pack [(1, flag b.env.freeze), (1, flag b.env.warn)])
  | 0x780002 => some b.ev.ring.length
  | 0x780004 => some (flag b.ev.alert)
  | 0x7C1001 => some b.fuses.floor
  | 0x7C2001 => some b.vendorSlots
  | 0x7C2002 => some b.ownerSlots
  | 0x7C5004 => some b.fuses.epochs
  | 0x7C5005 => some (if b.sec.epoch.isSome then 1024 - b.sec.leaf else 0)
  | _ => none

/-- Entries of a check-value unit. -/
def Block.readCvu (b : Block) (u s : Nat) : Option Nat :=
  let k := b.cvu u
  match s with
  | 8 => some k.value.toNat
  | 9 => some (b.cvuRead u)
  | 0xA => some (flag k.running * 128 + (k.owner.map Prod.snd).getD 0)
  | 0xB => some k.bytes
  | _ => none

/-- Entries of an environmental channel and of an output. -/
def Block.readEnv (b : Block) (i s : Nat) : Option Nat :=
  if i ≤ 0x700F then
    let e := i - 0x7000
    let c := b.envCh e
    match s with
    | 2 => some c.range
    | 4 => some (b.envStatus e)
    | 5 => some (twos 32 (c.mean / 64))
    | 8 => some c.plate.serial.toNat
    | 9 => some c.plate.state
    | _ => none
  else if 0x7210 ≤ i ∧ i ≤ 0x7213 ∧ s = 7 then some (tabGet {} b.env.outs (i - 0x7210)).state
  else none

/-- The value of an entry that the state gives, none where it stands in the entry itself. -/
def Block.readState (b : Block) (h : Hdr) (key : Nat) : Option Nat :=
  let i := key / 256
  let s := key % 256
  if i < 0x2000 then b.readDevice h key
  else if 0x4420 ≤ i ∧ i ≤ 0x4440 then b.readSlice (i - 0x4420) s
  else if 0x4100 ≤ i ∧ i ≤ 0x410F ∧ 2 ≤ s then some (b.readSource key)
  else if 0x5201 ≤ i ∧ i ≤ 0x5220 then b.readPort (i - 0x5200) s
  else if 0x5900 ≤ i ∧ i ≤ 0x5927 then b.readLane (i - 0x5900) s
  else if 0x5A00 ≤ i ∧ i ≤ 0x5A27 ∧ s = 4 then some (flag (b.lane (i - 0x5A00)).prbsLock)
  else if 0x6400 ≤ i ∧ i ≤ 0x640F then b.readCvu (i - 0x6400) s
  else if 0x7000 ≤ i ∧ i ≤ 0x73FF then b.readEnv i s
  else ((b.readSets key).orElse fun _ => b.readRows i s).orElse fun _ => (b.readArrays key).orElse fun _ => b.readLinks key

/-! ### Byte strings -/

/-- Characters of a text entry. -/
def textBytes (l : List Nat) : List Byte := l.map fun n => BitVec.ofNat 8 n

/-- "Lunildo Silicon" and "LS-KR6400" in ASCII (R421). -/
def vendorName : List Byte :=
  textBytes [0x4C, 0x75, 0x6E, 0x69, 0x6C, 0x64, 0x6F, 0x20, 0x53, 0x69, 0x6C, 0x69, 0x63, 0x6F, 0x6E]
def partNumber : List Byte := textBytes [0x4C, 0x53, 0x2D, 0x4B, 0x52, 0x36, 0x34, 0x30, 0x30]

/-- The history ring as bytes (R429). -/
def Block.historyBytes (b : Block) : List Byte :=
  b.ev.ring.flatMap fun r => wordBytes r.1 ++ bytesLE 6 r.2.1 ++ bytesLE 2 r.2.2

/-- Words least significant byte first. -/
def wordsLE (l : List Word64) : List Byte := l.flatMap fun w => bytesLE 8 w.toNat

/-- BIN_TABLE: the spec gives the order and no element sizes; trims are bytes, counts four bytes (assumption 22). -/
def Block.binTable (b : Block) : List Byte :=
  (b.bin.trims.flatMap fun t => bytesLE 1 t) ++ (List.range 64).flatMap fun k => bytesLE 4 (nth b.bin.counts k)

/-- An entry of type OCTETS, TEXT or DOMAIN. -/
def Block.readBytes (b : Block) (key : Nat) : List Byte :=
  let i := key / 256
  let s := key % 256
  if key = 0x100001 then vendorName
  else if key = 0x100002 then partNumber
  else if key = 0x101406 then (List.range 7).flatMap fun k => bytesLE 4 (nth b.boot.times k)
  else if key = 0x103007 then octets b.dict.challenge 0 16
  else if key = 0x202005 then digest48 b.active.folio.digest
  else if key = 0x202006 then digest48 (if b.sets.shd.state = .empty then [] else b.sets.shd.folio.digest)
  else if key = 0x302005 then b.plate.image
  else if key = 0x400105 then b.binTable
  else if 0x4420 ≤ i ∧ i ≤ 0x4440 then (b.slice (i - 0x4420)).coef.weights.flatMap fun w => bytesLE 2 w
  else if 0x5900 ≤ i ∧ i ≤ 0x5927 then (List.range 6).flatMap fun k => bytesLE 1 (twos 8 (((b.lane (i - 0x5900)).dfe.getD k 0).tdiv 4))
  else if key = 0x6C0002 then wordsLE b.flt.list
  else if i = 0x6C30 then wordsLE (tabGet [] b.flt.workers s)
  else if key = 0x6C4001 then wordsLE b.flt.log
  else if key = 0x780001 then b.historyBytes
  else if key = 0x7C2003 then (List.range 6).flatMap fun k => digest48 (b.fuses.keyHashes.getD k [])
  else if key = 0x7C4001 then b.certificate
  else if key = 0x7C5002 then b.attestReport
  else []

/-! ### The value that a READ returns (R230, R393, R396) -/

/-- The set that reads of RS entries show. -/
def Block.setShown (b : Block) : CfgSet := if b.reg 0x201306 = 1 then b.sets.shd else b.active

/-- The number in an entry. -/
def Block.readNat (b : Block) (h : Hdr) (d : Desc) (key : Nat) : Nat :=
  if d.access = .rs then
    let v := b.rsIn b.setShown key
    if ttSecond key then ttClean (b.rsIn b.setShown (key - 1)) v else v
  else (b.readState h key).getD (b.reg key)

/-- A count past its entry's width reads as a free value (assumption 3). -/
def Block.fitBytes (b : Block) (key n v : Nat) : List Byte :=
  if v < 256 ^ n then bytesLE n v else bytesLE n (Config.countWord key v b.time.now).toNat

/-- The bytes of an entry. -/
def Block.valueBytes (b : Block) (h : Hdr) (d : Desc) (key : Nat) : List Byte :=
  match d.type with
  | .text => b.readBytes key
  | .domain => b.readBytes key
  | .octets => b.readBytes key
  | _ => b.fitBytes key d.size (b.readNat h d key)

/-! ### A write of an RW entry takes effect (R396) -/

/-- D of a side waits for the orbit boundary (R57). -/
def Block.alignWritten (b : Block) (side v : Nat) : Block := b.onTime fun t => { t with alignDue := tabSet t.alignDue side v }

/-- A controller is enabled, from listening only on, or switched off (R408, R519). -/
def CanCtl.enable (c : CanCtl) (on : Bool) : CanCtl :=
  if !on then { c with state := 0 } else if c.state = 0 then { c with state := 1, listen := true } else c

/-- CAN_ENABLE takes effect. -/
def Block.enableCan (b : Block) (v : Nat) : Block :=
  b.onDict fun d => { d with canA := d.canA.enable (v.testBit 0), canB := d.canB.enable (v.testBit 1) }

/-- A new base claim is the current one of a unit that is ACTIVE or STANDBY, but for a claim given on return (R351). -/
def Block.baseClaimTaken (b : Block) (v : Nat) : Block :=
  b.onTwin fun t => if (t.state = .active ∨ t.state = .standby) ∧ !t.remain then { t with claimDue := some v } else t

/-- What a write does at the crossing boundary. -/
def Block.takeWrite (b : Block) (h : Hdr) (key v : Nat) : Block :=
  let i := key / 256
  let s := key % 256
  let old := b.reg key
  if key = 0x6C0004 then b.planTake v
  else if 0x5900 ≤ i ∧ i ≤ 0x5927 ∧ s = 1 then (b.setReg key v).holdSet (i - 0x5900) old v
  else if key = 0x680002 then (b.setReg key v).baseClaimTaken v
  else if key = 0x105001 then (b.setReg key v).enableCan v
  else if key = 0x101503 then b.onFlash fun f => { f with preferred := v }
  else if key = 0x280204 then b.onTime fun t => { t with inc := (v : Int), base := (v : Int) }
  else if key = 0x284001 then b.alignWritten 0 v
  else if key = 0x284002 then b.alignWritten 1 v
  else if i = 0x7801 then b.setReg key (old - (old &&& v))
  else if 0x6400 ≤ i ∧ i ≤ 0x640F ∧ s = 8 then b.cvuSetValue h (i - 0x6400) v
  else if 0x5A00 ≤ i ∧ i ≤ 0x5A27 ∧ s = 1 then (b.setReg key v).prbsApply (i - 0x5A00) v
  else if 0x7000 ≤ i ∧ i ≤ 0x700F ∧ s = 1 then (b.setReg key v).envConfigSet (i - 0x7000) old v
  else b.setReg key v

/-- Every write accepted before the boundary takes effect in turn, and its response leaves, but for a pair write's, which has
left, and for values that the device itself delays. -/
def Block.takeWrites (b : Block) : Block :=
  forEach b.dict.pend (b.onDict fun d => { d with pend := [] }) fun p b =>
    let b := b.takeWrite p.hdr p.key p.value
    if p.silent then b else b.ack p.hdr p.key

/-! ### Writes of RW entries (R392, R396) -/

/-- The entries that a write may not change while something uses them. -/
def Block.writeBusy (b : Block) (key : Nat) : Bool :=
  b.cvuLocked key || (match b.iu.campaign with
    | some p => key / 256 == 0x4100 + p
    | none => false)

/-- A write of an RW entry with a value of the right length. -/
def Block.rwWrite (b : Block) (h : Hdr) (d : Desc) (key v : Nat) : Block :=
  let v := cleaned key v
  let i := key / 256
  let s := key % 256
  if key = 0x101403 ∧ b.cRole then b.refuseKey h key 0x03
  else if key = 0x101403 ∧ 2 ^ 48 ≤ v then b.refuseKey h key 0x07
  else if key = 0x201200 then b.swapOrbit h v
  else if 0x4100 ≤ i ∧ i ≤ 0x410F ∧ s = 1 then b.progWrite h (i - 0x4100) v
  else if 0x5900 ≤ i ∧ i ≤ 0x5927 ∧ s = 1 then b.laneConfigWrite h (i - 0x5900) v
  else if 0x5A00 ≤ i ∧ i ≤ 0x5A27 ∧ s = 1 then b.prbsWrite h (i - 0x5A00) v
  else if 0x6400 ≤ i ∧ i ≤ 0x640F ∧ s = 8 then b.cvuRestore h (i - 0x6400) v
  else if b.writeBusy key then b.refuseKey h key 0x08
  else if !b.rangeOk d key v ∨ !b.jointOk key v then
    b.refuseKey h key 0x07
  else b.pendWrite h key v

end Sys2Proof.Machine
end

