-- ==== Sys2Proof/Machine/Commands.lean ====
section
/-! DEFINITION. Downward commands and timetable actions as they act (R41, R62, R63, R87, R139, R307 to R310). -/

namespace Sys2Proof.Machine

/-! ### Header crossings and refusals (R288, R308, R453) -/

/-- The header crossing of a downward command acted on in the present crossing: F_R at an F-role, F_B at a C-role. -/
def Block.commandHeader (b : Block) : Nat := b.time.now - 2 - (if b.cRole then b.fB else b.frm.fr)

/-- An action that names a block under reset is refused and counted. -/
def Block.unlessReset (b : Block) (blk : Nat) (f : Block → Block) : Block :=
  if (tabFind b.boot.resetting blk).isSome then b.bump 0x10140A 1 else f b

/-- A counted command names a crossing that is still to come, else it is late. -/
def Block.onCount (b : Block) (type target : Nat) (f : Block → Block) : Block :=
  if target ≤ b.time.now then b.commandLate type target else f b

/-- A C-role forwards a command in the frame of the next crossing. -/
def Block.forwardNext (b : Block) (p : Ref48) : Block :=
  if b.cRole then b.onAcc fun a => { a with command := some p } else b

/-- The count that names a crossing from the header of the next frame. -/
def Block.countFor (b : Block) (target : Nat) : Nat := target - (b.time.now + 1)

/-! ### Resync (R41) -/

/-- Orbits of length n from a slot 0 to the first slot 0 at or after a crossing. -/
def orbitsTo (start n target : Nat) : Nat := if n = 0 then 0 else (target - start + n - 1) / n

/-- E by the internal counters, at which the number advances by one: the first slot 0 at or after a crossing. -/
def Block.ownTarget (b : Block) (least : Nat) : Nat × Option Nat :=
  let next := b.boundaryAhead 1
  let len := b.lengthOf ((b.time.orbit + 1) % 2 ^ 48)
  (next + orbitsTo next len least * len, none)

/-- E at a C-role or a direct-attached F-role, with the orbit number that is announced for it; none where the number advances by
one. The selected domain's slots 0 follow the one that its last announcement describes. -/
def Block.resyncTarget (b : Block) (least : Nat) : Nat × Option Nat :=
  match b.time.selected.map fun d => b.dom d.val with
  | some t =>
    match t.annOrbit with
    | some n =>
      if b.cRole then
        let k := orbitsTo t.annAt t.annLen least
        (t.annAt + k * t.annLen, some ((n + k) % 2 ^ 48))
      else b.ownTarget least
    | none => b.ownTarget least
  | none => b.ownTarget least

/-- The number that a resync mark of a C-role carries. -/
def Block.markNumber (b : Block) (r : Nat × Option Nat) : Nat :=
  let n := (b.time.orbit + 1) % 2 ^ 48
  r.2.getD ((n + orbitsTo (b.boundaryAhead 1) (b.lengthOf n) r.1) % 2 ^ 48)

/-- RESYNC (R41, R308). -/
def Block.actResync (b : Block) (count h : Nat) : Block :=
  let kr := b.rs 0x280600
  if b.cRole then
    let r := b.resyncTarget (max (h + kr) (b.time.now + 2))
    let b := b.onTime fun t => { t with resync := some ⟨r.1, r.2, h⟩, markOut := some (b.markNumber r) }
    b.forwardNext (command 2 (b.countFor r.1 % 2 ^ 17))
  else if b.direct ∧ count = 0 then
    let r := b.ownTarget (max (h + kr) (b.time.now + 1))
    b.onTime fun t => { t with resync := some ⟨r.1, none, h⟩ }
  else b.onCount 2 (h + count) fun b => b.onTime fun t => { t with resync := some ⟨h + count, none, h⟩ }

/-! ### Calibration fires (R62, R63, R87) -/

/-- Commanded fires kept: those to come and those of the present crossing. -/
def Block.keepFires (b : Block) : Block :=
  b.onTime fun t => { t with calDone := t.calDone.filter fun f => decide (t.now ≤ f.1) }

/-- A commanded fire of a crossing to come is entered. -/
def Block.enterFire (b : Block) (x mask : Nat) (p : Point) : Block :=
  b.onTime fun t => { t with calDone := t.calDone ++ [(x, mask, p)] }

/-- CAL_FIRE as a command: at a C-role it is only forwarded. -/
def Block.actCalFire (b : Block) (mask : Nat) (p : Point) (target : Nat) : Block :=
  b.onCount 3 target fun b =>
    if b.cRole then
      b.forwardNext (command 3 (pack [(16, mask), (5, p.cycle.toNat), (5, 0), (6, p.phase.toNat), (12, b.countFor target)]))
    else b.unlessReset 1 fun b => b.enterFire target mask p

/-! ### Arming (R116, R307) -/

/-- MEASURE as a command: it arms at the boundary of its target. A scope of 0b11 names nobody. -/
def Block.actMeasure (b : Block) (prog scope target : Nat) : Block :=
  b.onCount 4 target fun b =>
    let own := if b.cRole then scope == 1 || scope == 2 else scope == 0 || scope == 2
    let b := if b.cRole && (scope == 0 || scope == 2) then
        b.forwardNext (command 4 (pack [(4, prog), (2, scope), (26, 0), (12, b.countFor target)])) else b
    if own then b.unlessReset 2 fun b => b.onIu fun i => { i with pending := i.pending ++ [(target, prog, scope)] } else b

/-- The arms of the present crossing that commands have named. -/
def Block.armPending (b : Block) : Block :=
  let due := b.iu.pending.filter fun a => decide (a.1 ≤ b.time.now)
  forEach due (b.onIu fun i => { i with pending := i.pending.filter fun a => !decide (a.1 ≤ b.time.now) }) fun a b => b.arm a.2.1 1

/-! ### DICT_FAST (R309) -/

/-- The entry that a DICT_FAST write may change. -/
def Block.fastOk (b : Block) (key v : Nat) : Bool :=
  match b.entryOf (key / 256) (key % 256) with
  | none => false
  | some d =>
    b.inRole d (key / 256) && (d.type == .bool || d.type == .u8) && decide (d.level ≤ 2) && decide (d.access = .rw) &&
      b.rangeOk d key v && b.jointOk key v && !b.writeBusy key &&
      !(decide (0x5A0000 ≤ key) && decide (key < 0x5A2800) && key % 256 == 1 &&
        decide ((b.lane (key / 256 - 0x5A00)).rx = .retired ∨ (b.lane (key / 256 - 0x5A00)).tx = .retired))

/-- A DICT_FAST write at the device it names applies in the present crossing. -/
def Block.fastWrite (b : Block) (key v : Nat) : Block :=
  if b.fastOk key v then b.unlessReset (blockOf (key / 256)) fun b => b.takeWrite (ownHdr 0) key (cleaned key v) else b.commandInvalid 7

/-- The F-role's own port, from the training words of the side it obeys. -/
def Block.ownPort (b : Block) : Nat := (b.lane b.commandLane).peerLink

/-- DICT_FAST. -/
def Block.actFast (b : Block) (path idx sub v : Nat) : Block :=
  if b.cRole then
    if path = 0 then b.fastWrite (idx * 256 + sub) v
    else b.forwardNext (command 7 (pack [(6, path), (16, idx), (8, sub), (8, v), (6, 0)]))
  else if path = 63 ∨ path = b.ownPort then b.fastWrite (idx * 256 + sub) v
  else b

/-! ### CLAIM (R371) -/

/-- The event of a CLAIM command. -/
def Block.claimEvent (b : Block) (action v : Nat) (done unverified : Bool) : Block :=
  b.raise 0xB7 [.id 8 action, .id 8 v, .id 1 (flag done), .id 1 (flag unverified)]

/-- Both units report the same UNIT in their cross-link training words (R365). -/
def Block.sameUnit (b : Block) : Bool := [38, 39].any fun l => b.rxActive l && (b.lane l).peerUnit == b.boot.unitB

/-- The state that a claim gives beside the partner's (R351). -/
def Block.stateBeside (b : Block) (own partner : Nat) : TwinState :=
  if partner < own then .active
  else if own < partner then .standby
  else if b.boot.unitB ∧ !b.sameUnit then .standby
  else .active

/-- The partner's claim that the unit knows last: from the pairing boundary on, until a frame of it has come, its BASE_CLAIM (R351). -/
def Block.lastClaim (b : Block) : Nat := if b.twin.pairedAt.isSome then bits b.twin.w0.toNat 55 48 else b.twin.pClaim

/-- The partner's claim as the unit counts it: 0 while the cross-link is lost. -/
def Block.partnerClaim (b : Block) : Nat := if b.twin.lost then 0 else b.lastClaim

/-- Take a claim from the next frame on, ACTIVE or STANDBY. -/
def Block.takeClaim (b : Block) (c : Nat) : Block :=
  b.onTwin fun t => { t with claimDue := some c, state := b.stateBeside c b.partnerClaim, phase := .waiting, remain := false }

/-- SET. -/
def Block.claimSet (b : Block) (v : Nat) : Block :=
  let ok := decide (1 ≤ v) && decide (v ≤ 254) && (b.topology != 0 || v != bits b.twin.w0.toNat 55 48 || b.twin.w0At == 0)
  if !ok then b.claimEvent 1 v false false
  else
    let b := b.setReg 0x680002 v
    let b := if b.topology ≠ 0 then b.onTwin fun t => { t with claimDue := some v }
      else if b.twin.state = .active ∨ b.twin.state = .standby then
        if b.twin.remain ∧ v ≤ 128 then b.onTwin fun t => { t with state := .held, claimDue := some 0, remain := false }
        else b.onTwin fun t => { t with claimDue := some (if t.remain then v - 128 else v) }
      else b
    b.claimEvent 1 v true false

/-- The partner is ACTIVE or STANDBY. -/
def Block.partnerRuns (b : Block) : Bool :=
  let k := bits b.twin.w0.toNat 63 61
  !b.twin.lost && b.twin.w0At != 0 && (k == 1 || k == 2)

/-- RELEASE. -/
def Block.claimRelease (b : Block) (v : Nat) : Block :=
  if b.topology = 0 ∧ (b.twin.state = .active ∨ b.twin.state = .standby) ∧ b.partnerRuns then
    (b.onTwin fun t => { t with state := .held, claimDue := some 0, remain := false }).claimEvent 2 v true false
  else b.claimEvent 2 v false false

/-- RESTORE. -/
def Block.claimRestore (b : Block) (v : Nat) : Block :=
  let t := b.twin
  if b.topology ≠ 0 then b.claimEvent 3 v false false
  else if t.state = .held ∨ (t.state = .standby ∧ t.remain) then (b.takeClaim b.baseClaim).claimEvent 3 v true false
  else if t.state = .released ∧ t.cause = 8 then ((b.sourceClear 8).enterResync).claimEvent 3 v true false
  else if (t.state = .resync ∨ t.state = .released) ∧ t.sources.isEmpty ∧ 64 ≤ t.pZeroRun then
    (b.onTwin fun t => { t with state := .active, claimDue := some b.baseClaim, phase := .waiting, remain := false, wasHeld := false }).claimEvent
      3 v true true
  else b.claimEvent 3 v false false

/-- CLAIM, at the unit it names. -/
def Block.actClaim (b : Block) (action : Nat) (unitB : Bool) (v : Nat) : Block :=
  if !b.cRole ∨ b.boot.unitB ≠ unitB then b
  else match action with
    | 1 => b.claimSet v
    | 2 => b.claimRelease v
    | 3 => b.claimRestore v
    | _ => b.commandInvalid 6

/-! ### Every downward payload (R307) -/

/-- The point in a CAL_FIRE payload. -/
def firePoint (w : Nat) : Point := ⟨BitVec.ofNat 5 (bits w 27 23), BitVec.ofNat 6 (bits w 17 12)⟩

/-- Act on a downward payload of header crossing h. -/
def Block.actCommand (b : Block) (p : Ref48) (h : Nat) : Block :=
  let w := p.toNat
  match bits w 47 44 with
  | 0 => b
  | 1 => b.actAccept (bits w 43 42) (bits w 41 40) (bits w 39 26)
  | 2 => b.actResync (bits w 16 0) h
  | 3 => b.actCalFire (bits w 43 28) (firePoint w) (h + bits w 11 0)
  | 4 => b.actMeasure (bits w 43 40) (bits w 39 38) (h + bits w 11 0)
  | 5 => b.swapCommand (b.orbitMatching (bits w 43 0))
  | 6 => b.actClaim (bits w 43 40) (w.testBit 39) (bits w 7 0)
  | 7 => b.actFast (bits w 43 38) (bits w 37 22) (bits w 21 14) (bits w 13 6)
  | n => b.commandInvalid n

/-- Commands act on a device that runs with an active set. -/
def Block.obeys (b : Block) : Bool := b.running && b.sets.act.isSome

/-! ### Timetable actions (R62) -/

/-- Restart the regular list at an entry in the next crossing; a restart due in this one comes first (R139). -/
def Block.regularStart (b : Block) (e : Nat) : Block :=
  b.onAdc fun a =>
    let a := match a.restart with
      | some (k, x) => if x ≤ b.time.now then { a with regPos := k } else a
      | none => a
    { a with restart := some (e, b.time.now + 1) }

/-- A time-mark bookmark for the present crossing (R253). -/
def Block.timeMark (b : Block) (tag : Nat) : Block :=
  let w := timeMarkRecord b.time.orbit b.time.slot tag
  if b.cRole then (b.onMrg fun m => { m with time := m.time ++ [(b.time.now, w)] }).bump 0x500004 1
  else b.qWrite 0 { word := w, cross := b.time.now }

/-- Four parts enter one word: the open word closes where they do not fit (R257). -/
def Block.fourParts (b : Block) (q x : Nat) (l : List Word64) : Block :=
  let b := if 1 < (b.queue q).open_.length then b.qClose q else b
  b.qWriteAll q x l

/-- A time-of-day mark of the present crossing. -/
def Block.todMarkNow (b : Block) : Block :=
  let l := Sys2Proof.Machine.todMark 1 b.time.orbit b.time.slot b.time.tod
  if b.cRole then b.onMrg fun m => { m with tod := m.tod ++ [(b.time.now, l)] } else b.fourParts 0 b.time.now l

/-- A timetable action of entry e, where the entry acts now with this action. -/
def Block.ttDo (b : Block) (e action : Nat) (f : Block → Block) : Block :=
  b.when (b.running && b.ttActs e action) fun b => f (b.ttUsed e)

/-! ### Meanings -/

/-- NOP (R307). -/
def execNop (s : State) : Host.Outcome State Fault Refusal := s.run fun b => b.when b.obeys fun b => b.actCommand 0 b.commandHeader

/-- RESYNC (R41). -/
def execResync (count : BitVec 17) (s : State) : Host.Outcome State Fault Refusal :=
  s.run fun b => b.when b.obeys fun b => b.actResync count.toNat b.commandHeader

/-- CAL_FIRE_COMMAND (R307). -/
def execCalFireCommand (mask : BitVec 16) (at_ : Point) (count : BitVec 12) (s : State) : Host.Outcome State Fault Refusal :=
  s.run fun b => b.when b.obeys fun b => b.actCalFire mask.toNat at_ (b.commandHeader + count.toNat)

/-- MEASURE_COMMAND (R307). -/
def execMeasureCommand (prog : BitVec 4) (scope : BitVec 2) (count : BitVec 12) (s : State) : Host.Outcome State Fault Refusal :=
  s.run fun b => b.when b.obeys fun b => b.actMeasure prog.toNat scope.toNat (b.commandHeader + count.toNat)

/-- CLAIM_SET (R371). -/
def execClaimSet (unitB : Bool) (value : BitVec 8) (s : State) : Host.Outcome State Fault Refusal :=
  s.run fun b => b.when b.obeys fun b => b.actClaim 1 unitB value.toNat

/-- CLAIM_RELEASE (R371). -/
def execClaimRelease (unitB : Bool) (s : State) : Host.Outcome State Fault Refusal :=
  s.run fun b => b.when b.obeys fun b => b.actClaim 2 unitB 0

/-- CLAIM_RESTORE (R371). -/
def execClaimRestore (unitB : Bool) (s : State) : Host.Outcome State Fault Refusal :=
  s.run fun b => b.when b.obeys fun b => b.actClaim 3 unitB 0

/-- DICT_FAST (R309). -/
def execDictFast (path : BitVec 6) (index : BitVec 16) (sub value : BitVec 8) (s : State) : Host.Outcome State Fault Refusal :=
  s.run fun b => b.when b.obeys fun b => b.actFast path.toNat index.toNat sub.toNat value.toNat

/-- NONE (R62): the entry acts and nothing follows. -/
def execNone (entry : BitVec 8) (s : State) : Host.Outcome State Fault Refusal := s.run fun b => b.ttDo entry.toNat 0 fun b => b

/-- CAL_FIRE (R62). -/
def execCalFire (entry : BitVec 8) (s : State) : Host.Outcome State Fault Refusal :=
  s.run fun b =>
    let a := b.ttArg entry.toNat
    b.ttDo entry.toNat 1 fun b => b.unlessReset 1 fun b =>
      b.timetableFire (bits a 31 16) ⟨BitVec.ofNat 5 (bits a 15 11), BitVec.ofNat 6 (bits a 10 5)⟩

/-- REGULAR_START (R62, R139). -/
def execRegularStart (entry : BitVec 8) (s : State) : Host.Outcome State Fault Refusal :=
  s.run fun b => b.ttDo entry.toNat 3 fun b => b.unlessReset 3 fun b => b.regularStart (bits (b.ttArg entry.toNat) 9 0)

/-- MEASURE (R62, R116). -/
def execMeasure (entry : BitVec 8) (s : State) : Host.Outcome State Fault Refusal :=
  s.run fun b => b.ttDo entry.toNat 4 fun b => b.unlessReset 2 fun b => b.arm (bits (b.ttArg entry.toNat) 3 0) 0

/-- TIME_MARK (R62, R253). -/
def execTimeMark (entry : BitVec 8) (s : State) : Host.Outcome State Fault Refusal :=
  s.run fun b => b.ttDo entry.toNat 5 fun b => b.timeMark (bits (b.ttArg entry.toNat) 15 0)

/-- TOD_MARK (R62, R257). -/
def execTodMark (entry : BitVec 8) (s : State) : Host.Outcome State Fault Refusal :=
  s.run fun b => b.ttDo entry.toNat 6 fun b => b.todMarkNow

/-- DOMAIN_SWITCH (R62, R50). -/
def execDomainSwitch (entry : BitVec 8) (s : State) : Host.Outcome State Fault Refusal :=
  s.run fun b => b.ttDo entry.toNat 7 fun b => b.requestSwitch (bits (b.ttArg entry.toNat) 0 0)

end Sys2Proof.Machine
end

