-- ==== Sys2Proof/Machine/Twin.lean ====
section
/-! DEFINITION. The twin pair: cross-link frames, digests, self-test, pairing, resynchronisation and return (R350 to R371). -/

namespace Sys2Proof.Machine

/-! ### Claims and states (R351, R359) -/

/-- A running unit compares its claim with the partner's: a STANDBY beside a claim of 0 takes over (R359, R364). -/
def Block.judgeClaims (b : Block) : Block :=
  let t := b.twin
  if (t.state = .active ∨ t.state = .standby) ∧ t.claim ≠ 0 then
    let s := b.stateBeside t.claim b.partnerClaim
    let b := b.onTwin fun t => { t with state := s }
    if t.state = .standby ∧ s = .active ∧ b.partnerClaim = 0 then (b.bump 0x682005 1).raise 0xB1 [.id 8 t.claim, b.hereFld] else b
  else b

/-- The unit's claim counts as lower than the partner's: a HELD unit does, and unit B where claims are equal. -/
def Block.claimLower (b : Block) : Bool :=
  b.twin.state == .held || decide (b.twin.claim < b.lastClaim) ||
    (b.twin.claim == b.lastClaim && b.boot.unitB && !b.sameUnit)

/-! ### Input faults (R355, R361) -/

/-- INPUT_FAULTS advances. -/
def Block.inputFault (b : Block) (n : Nat) : Block :=
  if n = 0 ∨ !b.isTwin then b
  else b.onTwin fun t => { t with
    faults := (t.faults + n) % 65536,
    faultLog := (t.faultLog.filter fun e => decide (b.time.now < e.1 + 1100)) ++ [(b.time.now, 0, n)] }

/-- Advance of a unit's count over the 1024 crossings that end at t. -/
def Block.faultsIn (b : Block) (who t : Nat) : Nat :=
  ((b.twin.faultLog.filter fun e => e.2.1 == who && decide (t < e.1 + 1024) && decide (e.1 ≤ t)).map fun e => e.2.2).sum

/-! ### Self-test (R360 to R362) -/

/-- A self-test starts in the present crossing; one after a mismatch is followed by a decision. -/
def Block.startTest (b : Block) (decide_ : Bool) : Block :=
  (b.bump 0x682003 1).onTwin fun t => { t with
    test := some b.time.now, testFail := 0, failCheck := 0, result := 0,
    verdicts := if decide_ then t.verdicts ++ [(b.time.now + 15, 0, 0)] else t.verdicts }

/-- The self-test that started in a crossing follows a mismatch. -/
def Block.testDecides (b : Block) (start : Nat) : Bool := b.twin.verdicts.any fun v => v.1 == start + 15

/-- The inputs check: own faults advanced more than the partner's up to the mismatch. -/
def Block.inputsFail (b : Block) (start : Nat) : Bool :=
  let t := start - 3 - b.fK
  decide (b.faultsIn 1 t < b.faultsIn 0 t)

/-- The failing check, in the order of R361; 0 for none. `other` gives the checks of logic outside this state by bit. -/
def Block.testCheck (b : Block) (start other : Nat) : Nat :=
  let mine := b.twin.testFail
  if other.testBit 0 then 1
  else if mine = 2 ∨ other.testBit 1 then 2
  else if other.testBit 2 then 3
  else if mine = 4 ∨ other.testBit 3 then 4
  else if other.testBit 4 then 5
  else if b.testDecides start && b.inputsFail start then 6
  else 0

/-- The event of a self-test. -/
def Block.testEvent (b : Block) (own partner : Nat) : Block := b.raise 0xB3 [.id 8 own, .id 8 partner, .id 8 b.twin.failCheck]

/-- The self-test ends. A failure releases the unit at once; a released unit whose test passes has that cause cleared. -/
def Block.testEnd (b : Block) (start other : Nat) : Block :=
  let k := b.testCheck start other
  let own := if k = 0 then 2 else 3
  let decides := b.testDecides start
  let b := b.onTwin fun t => { t with
    test := none, failCheck := k, result := own, verdicts := t.verdicts.map fun v => if v.1 = start + 15 then (v.1, own, v.2.2) else v }
  if k ≠ 0 then ((b.bump 0x682004 1).testEvent own 0).sourceFail 7
  else
    let b := b.sourceClear 7
    if decides then b else b.testEvent own 0

/-- Both units decide on a mismatch: the crossing of the results, the own one and the partner's. -/
def Block.decideMismatch (b : Block) (v : Nat × Nat × Nat) : Block :=
  let b := (b.onTwin fun t => { t with verdicts := t.verdicts.filter fun x => x.1 != v.1 }).testEvent v.2.1 v.2.2
  if v.2.1 ≠ 2 ∨ v.2.2 = 3 ∨ (b.sameUnit ∧ b.twin.state ≠ .held) then b
  else if b.claimLower then b.enterResync
  else b

/-! ### Resynchronisation (R366 to R370) -/

/-- What R366 asks before the follow phase, of a partner with a claim. Frames of the partner check only where its slot is the unit's own. -/
def Block.resyncReady (b : Block) : Bool :=
  let w := b.twin.w1.toNat
  b.twin.w0At != 0 && bits w 63 32 == b.activeSerial && bits w 31 0 == b.shadowSerial && b.time.locked && !b.twin.lost &&
    b.lastClaim != 0

/-- In each crossing a waiting unit looks for its B0. -/
def Block.resyncWait (b : Block) : Block :=
  if b.twin.state ≠ .resync ∨ b.twin.phase ≠ .waiting ∨ b.twin.b0.isSome then b
  else if b.resyncReady then b.onTwin fun t => { t with b0 := some (b.boundaryAhead (b.mirrorDelay + 2)) }
  else b.raiseOnce 0xB4 2 [.id 8 2]

/-- RQ and UP queues are emptied. -/
def Block.emptyMerge (b : Block) : Block :=
  let keep := fun (q : Nat) => !(decide (0x21 ≤ q) && decide (q ≤ 0x2C)) && !(decide (0x41 ≤ q) && decide (q ≤ 0x60))
  ({ b with queues := b.queues.filter fun p => keep p.1 } : Block).onMrg fun m =>
    { m with uplinks := m.uplinks.map fun (u : Nat × UplinkSt) => (u.1, { u.2 with block := none }), bulk := [] }

/-- A unit that has not yet released acquisition joins its running partner's: it merges from this orbit on. -/
def Block.joinRelease (b : Block) : Block :=
  if b.boot.released then b
  else (b.setReg 0x101403 b.time.orbit).onBoot fun k => { k with decided := some b.time.orbit, written := true }

/-- B0: the follow phase begins. -/
def Block.followStart (b : Block) : Block :=
  let b := b.emptyMerge.joinRelease
  let z := b.boundaryAhead (max 2048 (b.rs 0x203002 + 1040))
  b.onTwin fun t => { t with phase := .follow, z := some z }

/-- Z: the partner's decision state is taken. -/
def Block.followEnd (b : Block) : Block :=
  let w0 := b.twin.w0.toNat
  let w2 := b.twin.w2.toNat
  let b := b.onAcc fun a => { a with
    lastFwd := b.twin.w0At - bits w0 40 16, holdoff := if bits w2 24 14 = 0 then 0 else b.twin.w2At + bits w2 24 14 - 5 - b.fW,
    seq := (bits w2 60 49 + 1) % 4096, forcedDue := false }
  b.onTwin fun t => { t with phase := .own, spanFrom := none, spanTo := none, colsSent := [] }

/-- A resync fails and starts again; the third failure in a row releases the unit with cause 8. -/
def Block.resyncFail (b : Block) : Block :=
  let b := (b.bump 0x682007 1).raise 0xB4 [.id 8 4]
  let n := b.twin.fails + 1
  if 3 ≤ n then b.sourceFail 8
  else b.onTwin fun t => { t with fails := n, phase := .waiting, b0 := none, z := none, spanFrom := none, spanTo := none }

/-- The claim of R370: the policy, or 0 for HELD. -/
def Block.returnClaim (b : Block) : Nat :=
  if b.twin.wasHeld then 0
  else if b.rs 0x681001 = 0 then b.baseClaim
  else min (b.baseClaim - 128) (b.lastClaim - 1)

/-- A synchronised unit returns. -/
def Block.returnTwin (b : Block) : Block :=
  let c := b.returnClaim
  let policy := b.rs 0x681001
  let b := (b.bump 0x682006 1).raise 0xB4 [.id 8 3]
  let b := b.onTwin fun t => { t with
    claimDue := some c, phase := .waiting, b0 := none, z := none, fails := 0, wasHeld := false, remain := policy == 1 && c != 0,
    state := if c = 0 then .held else if policy = 1 then .standby else b.stateBeside c b.partnerClaim }
  b.raise 0xB5 [.id 8 c, .id 8 policy]

/-- The accepts that the partner forwarded in a crossing are taken: in the follow phase, and behind Z those of the crossings before it
(R366, R367). -/
def Block.adopts (b : Block) (at_ : Nat) : Bool :=
  decide (b.twin.state = .resync) &&
    (decide (b.twin.phase = .follow) || (decide (b.twin.phase = .own) && b.twin.z.any fun z => decide (at_ < z)))

/-- An accept of the partner, forwarded in a crossing, is taken with its kind and number (R366). Behind Z it advances the counts adopted
there (R367). -/
def Block.adoptAccept (b : Block) (w2 at_ : Nat) : Block :=
  let found := b.time.log.find? fun r => r.orbit % 1024 == bits w2 48 39
  match found with
  | none => b
  | some r =>
    let x := r.start + bits w2 38 25
    let kind := bits w2 62 61
    let seq := bits w2 60 49
    let sum := if kind = 2 then ((b.acc.sums.find? fun s => s.1 == x).map Prod.snd).getD 0 else 0
    let m : Mark := { due := b.markDue x, fwd := at_, kind := kind, cross := x, orbit := r.orbit, slot := bits w2 38 25, seq := seq, sum := sum,
                      abandoned := false, noWindow := b.streaming x }
    let last := if b.twin.phase = .own then b.acc.lastFwd else 0
    let b := b.onAcc fun a => { a with
      seq := if b.twin.phase = .own then a.seq else seq, marks := a.marks ++ [m], waiting := a.waiting.filter fun w => w.cross != x }
    ((b.setReg 0x500006 seq).noteAccept x kind at_).onAcc fun a => { a with lastFwd := max last a.lastFwd }

/-! ### Twin words (R355, R356, R363, R365) -/

/-- The earliest pairing boundary, from the crossing in which each has seen the other's READY. -/
def Block.pairBoundary (b : Block) : Nat :=
  let seen := max b.time.now (b.boot.readySince.getD b.time.now + b.mirrorDelay)
  b.boundaryAhead (seen - b.time.now + b.mirrorDelay + 2)

/-- The partner's state and READY at a unit that is PAIRING. -/
def Block.pairWith (b : Block) (w0 : Nat) : Block :=
  let st := bits w0 63 61
  if b.twin.state ≠ .pairing ∨ !b.twin.entered then b
  else if 1 ≤ st ∧ st ≤ 3 then b.enterResync
  else if w0.testBit 58 ∧ b.twin.pairAt.isNone then b.onTwin fun t => { t with pairAt := some b.pairBoundary }
  else b

/-- A loss that the partner declares (R363): the selected domain is left in two crossings. -/
def Block.declared (b : Block) (w0 old : Nat) : Block :=
  forEach (List.range 2) b fun d b =>
    b.when (w0.testBit (56 + d) && !old.testBit (56 + d) && b.time.selected.map Fin.val == some d) fun b => b.leaveDomain d (b.time.now + 2)

/-- The payload bytes of service records of one message. -/
def servicePayload (l : List Word64) : List Byte := l.flatMap fun w => (bytesBE 5 (bits w.toNat 39 0)).take (bits w.toNat 44 42)

/-- An alignment write that both units place in the downlink of its port. -/
def Block.placeAlign (b : Block) (l : List Word64) : Block :=
  match l with
  | w :: _ => b.toWorker (bits w.toNat 55 50) 2 (servicePayload l)
  | [] => b

/-- A mirrored item acts: a service record is due in the merge, an alignment write is placed once its last record is there. `fromB`
says which unit made it, `held` that its claim was not 0. -/
def Block.mirrored (b : Block) (w : Word64) (fromB held : Bool) : Block :=
  if typeOf w ≠ 0x87 then b
  else if bits w.toNat 55 50 = 0 then
    if held then b.onMrg fun m => { m with svcDue := m.svcDue ++ [(b.time.now, w, fromB)] } else b
  else
    let mine := b.twin.schedule.filter fun e => e.2.2 == fromB && bits e.2.1.toNat 55 50 == bits w.toNat 55 50 && e.1 == 0
    if w.toNat.testBit 45 then
      (b.onTwin fun t => { t with schedule := t.schedule.filter fun e => !mine.contains e }).placeAlign (mine.map (fun e => e.2.1) ++ [w])
    else b.onTwin fun t => { t with schedule := t.schedule ++ [(0, w, fromB)] }

/-- The region of a cross-link frame is kept: it describes crossing now - M. -/
def Block.takeTwinWords (b : Block) (l : List Word64) : Block :=
  let old := b.twin.w0.toNat
  let w0 := (l.getD 0 0).toNat
  let w2 := (l.getD 2 0).toNat
  let at_ := b.time.now - b.mirrorDelay
  let first := b.twin.w0At == 0
  let grew := if first then 0 else (bits w0 15 0 + 65536 - bits old 15 0) % 65536
  let b := b.onTwin fun t => { t with
    w0 := l.getD 0 0, w1 := l.getD 1 0, w2 := l.getD 2 0, w0At := at_, w2At := at_, partnerSeen := true,
    verdicts := t.verdicts.map fun v => if v.1 = at_ then (v.1, v.2.1, bits w0 60 59) else v,
    faultLog := if grew = 0 then t.faultLog else t.faultLog ++ [(at_, 1, grew)] }
  let b := b.declared w0 old
  let b := b.pairWith w0
  let b := if b.adopts at_ && w2.testBit 63 then b.adoptAccept w2 at_ else b
  let held := ((b.twin.pLog.find? fun q => q.1 == at_).map fun q => q.2 != 0).getD (bits w0 63 61 == 1 || bits w0 63 61 == 2)
  let b := b.onTwin fun t => { t with heard := t.heard ++ (l.drop 3).filter fun w => typeOf w == 0x87 && bits w.toNat 55 50 == 0 }
  forEach [l.getD 3 filler, l.getD 4 filler] b fun w b => b.mirrored w (!b.boot.unitB) held

/-! ### Digests (R360, R368) -/

/-- Own digest of a crossing. -/
def Block.ownDigest (b : Block) (t : Nat) : Option Ref48 := (b.twin.digests.find? fun d => d.1 == t).map Prod.snd

/-- A mismatch is told, and 6830 keeps it. -/
def Block.noteMismatch (b : Block) (t : Nat) (own got : Ref48) : Block :=
  let b := b.raise 0xB2 [b.nameFld t, .id 24 own.toNat]
  ((b.setReg 0x683001 (b.orbitOf t * 16384 + b.slotOf t)).setReg 0x683002 own.toNat).setReg 0x683003 got.toNat

/-- A comparison outside a resync: a mismatch found while a self-test runs is only counted. -/
def Block.compareRunning (b : Block) (t : Nat) (own got : Ref48) : Block :=
  if own = got then b.bump 0x682001 1
  else
    let b := b.bump 0x682002 1
    if b.twin.test.isSome then b else (b.noteMismatch t own got).startTest true

/-- A comparison in the span of a resync, which a mismatch fails. A digest of the span that was not compared has not matched: the resync
fails there too. -/
def Block.compareSpan (b : Block) (t : Nat) (own got : Ref48) : Block :=
  match b.twin.spanFrom with
  | none => b
  | some lo =>
    if t < lo || b.twin.spanTo.any fun hi => decide (hi < t) then b
    else if own ≠ got then ((b.bump 0x682002 1).noteMismatch t own got).resyncFail
    else
      let next := if b.twin.lastCmp < lo then lo else b.twin.lastCmp + 1
      let b := (b.bump 0x682001 1).onTwin fun k => { k with lastCmp := t }
      if t = next then b else b.resyncFail

/-- The last digest of the span was not compared in its crossing: the resync fails. -/
def Block.spanMissed (b : Block) : Block :=
  match b.twin.spanTo with
  | some t =>
    b.when (decide (b.twin.state = .resync) && decide (t + 3 + b.fK ≤ b.time.now) && b.twin.lastCmp != t) Block.resyncFail
  | none => b

/-- The partner's digest of crossing t has been presented. -/
def Block.compareDigest (b : Block) (t : Nat) (got : Ref48) : Block :=
  match b.ownDigest t with
  | none => b
  | some own =>
    if b.twin.lost ∨ !b.twin.entered then b
    else match b.twin.state with
      | .active => b.compareRunning t own got
      | .standby => b.compareRunning t own got
      | .held => b.compareRunning t own got
      | .resync => b.compareSpan t own got
      | _ => b

/-! ### A cross-link frame (R352) -/

/-- The region of the frame before, where the frame of the next crossing checks it; twin words come with code 0x05. -/
def Block.crossRegion (b : Block) (l : Nat) (f : Option CFrame) : Option (List Word64) × Block :=
  match (b.lane l).last with
  | some (x, g) =>
    if x + 1 = b.time.now ∧ (f.map fun f => b.regionKept l .cross g f).getD false then
      (if frCode g = 5 then some (frRegion g) else none, b)
    else (none, (b.regionFailed l x).2)
  | none => (none, b)

/-- A frame of one cross-link lane at an Active half, with the region that it checks. A TRAINING code drops the half (R302). -/
def Block.crossTake (b : Block) (l : Nat) (f : CFrame) : Option CFrame × Option (List Word64) × Block :=
  let r := b.takeFrame l .cross (b.time.now - 2 - b.fK) f
  let w := r.2.crossRegion l r.1
  let b := w.2.onLane l fun k => { k with last := r.1.map fun g => (b.time.now, g) }
  (r.1, w.1, if frCode f = codeTraining then b.dropLink l 2 else b)

/-- What one cross-link lane brings in a crossing: a frame, or none at an Active half. -/
def Block.crossLane (b : Block) (l : Nat) (x : Option LineFrame) : Option CFrame × Option (List Word64) × Block :=
  match x with
  | none =>
    let w := b.crossRegion l none
    (none, none, w.2.onLane l fun k => { k with last := none })
  | some x =>
    if (b.lane l).prbs ≠ 0 ∨ !b.rxActive l then (none, none, b.lineIn l x fun _ b => b)
    else
      let r := b.hear l x
      let b := r.2.syncFrame l (b.syncGood l x)
      if b.rxActive l then b.crossTake l r.1 else (none, none, b)

/-- The claim of the frame whose copy was taken. -/
def Block.crossClaim (b : Block) (l : List (Nat × CFrame)) : Block :=
  match l.find? fun q => (copyOf (b.peerLane q.1) q.2).isSome with
  | some q =>
    let r := b.claimOf q.2
    let at_ := b.time.now - 2 - b.fK
    r.2.onTwin fun t => { t with
      pClaim := r.1, gotFrame := true, pLog := ((at_, r.1) :: t.pLog).take 8, pairedAt := t.pairedAt.filter fun p => decide (at_ < p) }
  | none => b

/-- Both cross-link lanes present a crossing. -/
def Block.crosslink (b : Block) (l38 l39 : Option LineFrame) : Block :=
  let heard := b.rxActive 38 || b.rxActive 39
  let r38 := b.crossLane 38 l38
  let r39 := r38.2.2.crossLane 39 l39
  let frames := (r38.1.map fun f => (38, f)).toList ++ (r39.1.map fun f => (39, f)).toList
  let ref := r39.2.2.resolve frames
  let b := ref.2.crossClaim frames
  let b := match ref.1 with
    | some d => b.compareDigest (b.time.now - 3 - b.fK) d
    | none => b.when heard fun b => b.unresolved 38
  let b := match r38.2.1.orElse fun _ => r39.2.1 with
    | some l => b.takeTwinWords l
    | none => b
  b.judgeClaims

/-! ### Loss, restoration and pairing (R364, R365) -/

/-- The cross-link is lost. -/
def Block.crosslinkLose (b : Block) : Block :=
  ((b.onTwin fun t => { t with lost := true }).raise 0xB6 [.id 1 1, .id 1 (flag b.sameUnit)]).judgeClaims

/-- The cross-link is back: the unit with the lower claim resynchronises. -/
def Block.crosslinkBack (b : Block) : Block :=
  let b := (b.onTwin fun t => { t with lost := false }).raise 0xB6 [.id 1 0, .id 1 (flag b.sameUnit)]
  let runs := b.twin.state = .active ∨ b.twin.state = .standby ∨ b.twin.state = .held
  if runs ∧ !b.sameUnit ∧ b.claimLower then b.enterResync else b.judgeClaims

/-- Unit release (R443): PAIRING in twin topology, RELEASED at once where a source of R357 stands; the base claim in solo topology. -/
def Block.unitReleased (b : Block) : Block :=
  let b := (b.onBoot fun k => { k with unitReleased := true, readySince := some b.time.now }).raise 0x09 [b.hereFld]
  if b.topology = 0 then
    let b := b.onTwin fun t => { t with entered := true, state := .pairing, claimDue := some 0 }
    match b.twin.sources with
    | s :: _ => b.releaseClaim s
    | [] => b.pairWith b.twin.w0.toNat
  else
    (b.onBoot fun k => { k with countFrom := some b.time.now }).onTwin fun t => { t with
      entered := true, state := .active, claimDue := some b.baseClaim }

/-- What the merge has of the time before the pairing boundary is given up: both units run from empty state (R365). -/
def Block.mergeAfresh (b : Block) : Block :=
  (b.emptyMerge.onMrg fun m => { m with
    uplinks := [], svcOwn := [],
    ports := m.ports.map fun p => (p.1, { p.2 with lastHdr := none, due := 0, counts := [], wds := [] }) }).onAcc fun a => { a with
      recent := [], waiting := [], marks := [], seq := 0, holdoff := 0, forcedDue := false, lastFwd := b.time.now }

/-- The pairing boundary: both units take up their base claims, and run from identical, empty state. -/
def Block.pairNow (b : Block) : Block :=
  let p := bits b.twin.w0.toNat 55 48
  let b := (b.mergeAfresh.onBoot fun k => { k with countFrom := some b.time.now }).onTwin fun t => { t with
    claim := b.baseClaim, claimDue := none, pairedAt := some b.time.now, pairAt := none, digests := [],
    state := b.stateBeside b.baseClaim p }
  if b.sameUnit then b.raise 0xB6 [.id 1 0, .id 1 1] else b

/-- No partner by the ready timeout: the unit takes up its base claim alone. -/
def Block.pairAlone (b : Block) : Block :=
  let b := b.onBoot fun k => { k with countFrom := some b.time.now }
  (b.onTwin fun t => { t with claimDue := some b.baseClaim, state := .active, lost := true, pairAt := none }).raise 0xB6
    [.id 1 1, .id 1 0]


/-! ### The end of a crossing (R364, R371) -/

/-- Missing and good crossings are counted once the partner has been heard, and those in which its claim counts as 0 (R371). -/
def Block.twinCount (b : Block) : Block :=
  let got := b.twin.gotFrame
  if !b.isTwin ∨ !b.twin.entered then b.onTwin fun t => { t with gotFrame := false }
  else
    let b := b.onTwin fun t => { t with
      gotFrame := false, pZeroRun := if !got || t.lost || t.pClaim == 0 then t.pZeroRun + 1 else 0 }
    if !b.twin.partnerSeen then b
    else
      let b := if got then b else b.bump 0x682008 1
      (b.onTwin fun t => { t with
        missing := if got then 0 else t.missing + 1, goodRun := if got then t.goodRun + 1 else 0 }).spanMissed

/-- The claim of the frames of the crossing that begins. -/
def Block.claimNow (b : Block) : Block :=
  match b.twin.claimDue with
  | some c => (b.onTwin fun t => { t with claim := c, claimDue := none }).judgeClaims
  | none => b

/-! ### Meanings -/

/-- CROSSLINK_FRAME (R352). -/
def execCrosslinkFrame (l38 l39 : Option LineFrame) (s : State) : Host.Outcome State Fault Refusal :=
  s.run fun b => b.when (b.running && b.isTwin && !b.twin.gotFrame) fun b => b.crosslink l38 l39

/-- SELFTEST_END (R361). -/
def execSelftestEnd (otherFail : BitVec 8) (s : State) : Host.Outcome State Fault Refusal :=
  s.run fun b =>
    match b.twin.test with
    | some m => b.when (b.running && b.isTwin && decide (m + 15 ≤ b.time.now)) fun b => b.testEnd m otherFail.toNat
    | none => b

/-- MISMATCH_DECISION (R362). -/
def execMismatchDecision (s : State) : Host.Outcome State Fault Refusal :=
  s.run fun b =>
    match b.twin.verdicts with
    | v :: _ => b.when (b.running && b.isTwin && decide (v.1 + b.mirrorDelay ≤ b.time.now)) fun b => b.decideMismatch v
    | [] => b

/-- CROSSLINK_LOST (R364). -/
def execCrosslinkLost (s : State) : Host.Outcome State Fault Refusal :=
  s.run fun b => b.when (b.running && b.isTwin && !b.twin.lost && decide (16 ≤ b.twin.missing)) fun b => b.crosslinkLose

/-- CROSSLINK_RESTORED (R364). -/
def execCrosslinkRestored (s : State) : Host.Outcome State Fault Refusal :=
  s.run fun b => b.when (b.running && b.isTwin && b.twin.lost && decide (16 ≤ b.twin.goodRun)) fun b => b.crosslinkBack

/-- UNIT_RELEASE (R443). -/
def execUnitRelease (s : State) : Host.Outcome State Fault Refusal :=
  s.run fun b => b.when (b.running && b.cRole && !b.boot.unitReleased && b.allReady) fun b => b.unitReleased

/-- PAIRING_BOUNDARY (R365). -/
def execPairingBoundary (s : State) : Host.Outcome State Fault Refusal :=
  s.run fun b =>
    b.when (b.running && b.isTwin && b.twin.entered && b.twin.state == .pairing && b.twin.pairAt == some b.time.now) fun b => b.pairNow

/-- PAIRING_TIMEOUT (R365): the cross-link is not Active and READY_TIMEOUT has run. -/
def execPairingTimeout (s : State) : Host.Outcome State Fault Refusal :=
  s.run fun b =>
    b.when (b.running && b.isTwin && b.twin.entered && b.twin.state == .pairing && !b.rxActive 38 && !b.rxActive 39 &&
        b.elapsed (b.boot.readySince.getD b.time.now) (b.rs 0x101404)) fun b => b.pairAlone

/-- RESYNC_FOLLOW_START (R366): crossing B0. -/
def execResyncFollowStart (s : State) : Host.Outcome State Fault Refusal :=
  s.run fun b =>
    b.when (b.running && b.twin.state == .resync && b.twin.phase == .waiting && b.twin.b0 == some b.time.now) fun b => b.followStart

/-- RESYNC_FOLLOW_END (R367): crossing Z. -/
def execResyncFollowEnd (s : State) : Host.Outcome State Fault Refusal :=
  s.run fun b =>
    b.when (b.running && b.twin.state == .resync && b.twin.phase == .follow && b.twin.z == some b.time.now) fun b => b.followEnd

/-- RESYNC_SYNCHRONISED (R368, R370): the last digest of the span has matched. -/
def execResyncSynchronised (s : State) : Host.Outcome State Fault Refusal :=
  s.run fun b =>
    match b.twin.spanTo with
    | some t => b.when (b.running && b.twin.state == .resync && b.twin.lastCmp == t && b.lastClaim != 0) fun b => b.returnTwin
    | none => b

/-- BASE_CLAIM_WRITE (R350). -/
def execBaseClaimWrite (h : Hdr) (value : BitVec 8) (s : State) : Host.Outcome State Fault Refusal :=
  s.run fun b => b.writeTo h 0x680002 1 fun b =>
    match b.entryOf 0x6800 2 with
    | some d => b.rwWrite h d 0x680002 value.toNat
    | none => b

end Sys2Proof.Machine
end

