-- ==== Sys2Proof/Machine/Resync.lean ====
section
/-! DEFINITION. Orbit resync: what the resync crossing E takes, empties, clears and keeps (R41, R107, R124, R139, R154, R175, R202,
R263, R456). -/

namespace Sys2Proof.Machine

/-! ### Stamp queues and conversions (R107, R154) -/

/-- A pair of an emptied stamp entry is performed for nothing. -/
def Pair.dropped (p : Pair) : Pair := if p.cap then p else { p with kept := false }

/-- A conversion whose pair has lost its entry. -/
def Job.dropped : Job → Job
  | .hold p low => .hold p.dropped low
  | j => j

/-- The banks of a channel that a capture still waits in. -/
def Block.captured (b : Block) (c n : Nat) : Bool :=
  let mine := fun (p : Pair) => p.cap && p.ch == c && p.bank == n
  b.adc.pairs.any mine || b.adc.bound.any (fun x => mine x.2.2.1) ||
    b.adc.jobs.any fun j => match j.2.2 with
      | .hold p _ => mine p
      | _ => false

/-- One channel loses its entries and the banks that they held. -/
def Block.emptyChannel (b : Block) (c : Nat) : Block :=
  b.onChan c fun k => { k with
    entries := [], htPend := [],
    bank0 := if b.captured c 0 then k.bank0 else .free,
    bank1 := if b.captured c 1 then k.bank1 else .free }

/-- Every stamp queue is emptied; pending pairs of the emptied entries are discarded and not counted as abandoned. -/
def Block.emptyStamps (b : Block) : Block :=
  let b := forEach (b.chans.map Prod.fst) b fun c b => b.emptyChannel c
  b.onAdc fun a => { a with
    pairs := a.pairs.filter fun p => p.cap,
    bound := a.bound.map fun x => (x.1, x.2.1, x.2.2.1.dropped, x.2.2.2),
    jobs := a.jobs.map fun j => (j.1, j.2.1, j.2.2.dropped) }

/-! ### The regular list (R139) -/

/-- The regular list restarts at entry 0; a start that is due in the present crossing comes first, one that has fired in it follows in
the next. -/
def Block.restartRegular (b : Block) : Block :=
  b.onAdc fun a =>
    match a.restart with
    | some r => if r.2 ≤ b.time.now then a else { a with regPos := 0 }
    | none => { a with restart := some (0, b.time.now) }

/-! ### Counters (R96, R124, R156, R182, R239, R263) -/

/-- Entries of a row of indices with sub-indices between two bounds read 0 again. -/
def Block.clearSubs (b : Block) (lo hi s t : Nat) : Block :=
  b.onDict fun d => { d with regs := d.regs.filter fun p =>
    !(decide (lo ≤ p.1 / 256) && decide (p.1 / 256 ≤ hi) && decide (s ≤ p.1 % 256) && decide (p.1 % 256 ≤ t)) }

/-- The counters that an orbit resync clears, as (first index, last index, first sub-index, last sub-index); those of stacks and
queues go with R202. -/
def resyncCounters : List (Nat × Nat × Nat × Nat) :=
  [(0x3100, 0x31FF, 3, 4), (0x4000, 0x4000, 2, 4), (0x4010, 0x4010, 5, 7), (0x4200, 0x421F, 5, 8),
   (0x4400, 0x4400, 5, 8), (0x4400, 0x4400, 0x0C, 0x0C), (0x4420, 0x4440, 6, 7), (0x4420, 0x4440, 9, 9), (0x4500, 0x4500, 3, 3),
   (0x4810, 0x4810, 1, 7), (0x4830, 0x4830, 8, 0x0D), (0x4900, 0x49FF, 4, 5),
   (0x2000, 0x2000, 2, 2), (0x2013, 0x2013, 4, 5), (0x2101, 0x2120, 2, 5), (0x2140, 0x2140, 1, 8), (0x2151, 0x215C, 1, 4),
   (0x5000, 0x5000, 1, 5), (0x5101, 0x510C, 6, 6), (0x5201, 0x5220, 5, 8), (0x5300, 0x5300, 1, 3),
   (0x7000, 0x700F, 6, 7), (0x7403, 0x7403, 4, 4), (0x7480, 0x7480, 2, 2), (0x7481, 0x7485, 4, 4)]

/-- Clear a list of counters. -/
def Block.clearCounters (b : Block) (l : List (Nat × Nat × Nat × Nat)) : Block :=
  forEach l b fun q b => b.clearSubs q.1 q.2.1 q.2.2.1 q.2.2.2

/-! ### The orbit number (R41, R58) -/

/-- The number of the mark that came with the resync's command: in the command's own frame, or, for a worker, in the next where the
first was a slot-0 frame. -/
def Block.keptMark (b : Block) (r : Resync) : Option Nat :=
  match b.time.mark with
  | some (h, n) => if h = r.head ∨ (h = r.head + 1 ∧ !b.direct) then some n else none
  | none => none

/-- The orbit number taken at E, and whether a worker that kept no resync mark has to wait for an announcement. -/
def Block.resyncOrbit (b : Block) (r : Resync) : Nat × Bool :=
  let next := (b.time.orbit + 1) % 2 ^ 48
  if b.cRole then (r.orbit.getD next, false)
  else match b.keptMark r with
    | some n => (n, false)
    | none => (next, !b.direct)

/-- The orbits that have begun, with one more: the one before it ends here. -/
def Block.logOrbit (b : Block) (n : Nat) : Block :=
  b.onTime fun t =>
    let old := t.log.map fun r => if r.start ≤ t.now ∧ t.now < r.start + r.len then { r with len := t.now - r.start } else r
    let l := old ++ [⟨n, t.now, b.nO, b.sets.swaps⟩]
    { t with orbit := n, slot := 0, log := l.drop (l.length - 32) }

/-- Slot 0 and the orbit number at E. -/
def Block.takeOrbit (b : Block) (r : Resync) : Block :=
  let n := b.resyncOrbit r
  let b := (b.logOrbit n.1).onTime fun t => { t with resync := none, mark := none, markMissed := n.2, lastE := some t.now,
                                                     mergeE := if b.cRole then some t.now else t.mergeE }
  if n.2 then
    let b := (b.onDom 0 fun k => { k with annOrbit := none }).onDom 1 fun k => { k with annOrbit := none }
    b.mismatch (b.frm.side.map Fin.val |>.getD 0) 0
  else b

/-! ### The armed swap and the twin (R369, R456) -/

/-- An armed swap for an orbit no greater than the one taken is disarmed. -/
def Block.resyncSwap (b : Block) : Block :=
  match b.sets.armed with
  | some n =>
    if n ≤ b.time.orbit then
      ((b.onSets fun s => { s with armed := none }).raise 0x13 [.id 8 1, .id 6 0]).parkLanes
    else b
  | none => b

/-- A twin resynchronisation starts again, with B0 at or after E. -/
def Block.resyncTwin (b : Block) : Block :=
  if b.isTwin ∧ b.twin.state = .resync then
    b.onTwin fun t => { t with phase := .waiting, b0 := none, z := none, spanFrom := none, spanTo := none }
  else b

/-! ### All of it -/

/-- What the resync crossing does to every block. -/
def Block.resyncEffects (b : Block) (r : Resync) : Block :=
  let b := b.takeOrbit r
  let b := (b.resyncSwap.resyncTwin).raise 0x8D [.id 48 b.time.orbit]
  let b := b.emptyStamps.restartRegular.clearPrimitives
  let b := b.campaignAbort.onTime fun t => { t with campaigns := [] }
  let b := b.resyncStacks
  let b := if b.cRole then b.onAcc fun a => { a with seq := 0 } else b
  b.clearCounters resyncCounters

end Sys2Proof.Machine
end

