-- ==== Sys2Proof/Machine/WorkerMessages.lean ====
section
/-! DEFINITION. Messages in band: their assembly from service records and BULK words, what a C-role does with those of its workers,
the proxy's relays, retirements that other devices tell (R383, R386, R412 to R418, R428, R446, R448). -/

namespace Sys2Proof.Machine

/-! ### Messages (R400, R401) -/

/-- A message by its header fields. Of the short forms, `tag` and `index` hold TAG and SEQ or NEXT. -/
structure Msg where
  op      : Nat
  path    : Nat
  tag     : Nat
  session : Nat
  index   : Nat
  sub     : Nat
  arg     : Nat
  body    : List Byte
deriving DecidableEq, Repr

/-- One byte of a message. -/
def byteAt (m : List Byte) (i : Nat) : Nat := (m.getD i 0).toNat

/-- SEGMENT and SEGMENT_ACK have the short form. -/
def shortForm (op : Nat) : Bool := op == 0x04 || op == 0x06

/-- Read a message. -/
def parseMsg (m : List Byte) : Msg :=
  let op := byteAt m 0
  if shortForm op then
    { op := op, path := 0, tag := byteAt m 1, session := 0, index := byteAt m 2, sub := 0, arg := 0, body := m.drop 4 }
  else
    { op := op, path := byteAt m 1, tag := byteAt m 2, session := byteAt m 3, index := natLE (octets m 4 2), sub := byteAt m 6,
      arg := byteAt m 7, body := m.drop 8 }

/-- The event of an EVENT message (R426: most significant byte first). -/
def eventOf (m : List Byte) : Word64 := BitVec.ofNat 64 (natBE (octets (m.drop 1) 0 8))

/-- An EVENT message. -/
def eventMessage (w : Word64) : List Byte := bytesLE 1 0x20 ++ wordBytes w

/-! ### Assembly (R413, R414) -/

/-- A service record joins its message: the message where it is the last one. -/
def Assembly.service (a : Assembly) (w : Word64) : Assembly × Option (List Byte) :=
  let v := w.toNat
  let part := (bytesBE 5 (bits v 39 0)).take (bits v 44 42)
  if !v.testBit 46 && !a.active then (a, none)
  else
    let data := if v.testBit 46 then part else a.data ++ part
    if v.testBit 45 then ({}, some data) else ({ a with data := data, active := true }, none)

/-- A BULK word joins its message: the envelope first, then eight bytes a word. -/
def Assembly.bulk (a : Assembly) (w : Word64) : Assembly × Option (Word64 × List Byte) :=
  if !a.active then
    let n := bits w.toNat 53 40
    if n = 0 then ({}, none) else ({ data := [], active := true, total := n, env := w }, none)
  else
    let data := a.data ++ wordBytes w
    if a.total ≤ data.length then ({}, some (a.env, data.take a.total)) else ({ a with data := data }, none)

/-! ### What a requester is sent -/

/-- An answer of a worker goes to whoever asked over CAN; what the C-role asked for itself ends here, and a back-end reads the merged
stream. -/
def Block.passReply (b : Block) (x : Proxy) (op idx sub arg : Nat) (body : List Byte) : Block :=
  if onCan x.hdr.origin then
    b.sendReply { origin := x.hdr.origin, op := op, path := x.hdr.path, tag := x.hdr.tag.toNat, session := x.hdr.session, index := idx,
                  sub := sub, arg := arg, body := body }
  else b

/-- A proxy request aborts at the C-role (R417, R418), counted in 1040.03. What the C-role asked for itself is only given up. -/
def Block.proxyFail (b : Block) (x : Proxy) (code : Nat) : Block :=
  let b := b.onDict fun d => { d with transfers := d.transfers.filter fun t => !(decide (t.hdr = x.hdr) && t.hdr.path != 0) }
  if x.hdr.origin = .proxiedUnit then b.ownAbort x.index x.sub code else b.proxyAbort x.hdr x.index x.sub code

/-- Forget a transaction. -/
def Block.proxyDrop (b : Block) (p : Nat) (x : Proxy) : Block :=
  b.onPort p fun q => { q with proxies := q.proxies.filter fun y => decide (y ≠ x) }

/-- Change a transaction. -/
def Block.proxySet (b : Block) (p : Nat) (x y : Proxy) : Block :=
  b.onPort p fun q => { q with proxies := q.proxies.map fun z => if z = x then y else z }

/-- Every request outstanding to a port aborts with the code of its new state (R417). -/
def Block.proxyEnd (b : Block) (p code : Nat) : Block :=
  let l := (b.port p).proxies
  forEach l (b.onPort p fun q => { q with proxies := [] }) fun x b => b.proxyFail x code

/-! ### The C-role's own downloads of WORKER_SLICE (R237, R416) -/

/-- A segment of the short form. -/
def segmentBytes (tag seq : Nat) (data : List Byte) : List Byte :=
  bytesLE 1 0x04 ++ bytesLE 1 tag ++ bytesLE 1 seq ++ [0] ++ data

/-- An acknowledgement of the short form. -/
def ackBytes (tag next : Nat) : List Byte := bytesLE 1 0x06 ++ bytesLE 1 tag ++ bytesLE 1 next ++ [0]

/-- Of a transfer the C-role sends to a port: up to 16 segments from the first unacknowledged one. -/
def Block.sendOwn (b : Block) (p tag : Nat) (t : Transfer) : Block :=
  let n := min 16 ((t.data.length + t.size - 1) / t.size)
  let b := forEach (List.range n) b fun k b =>
    b.toWorker p 2 (segmentBytes tag ((t.base + k) % 256) ((t.data.drop (t.size * k)).take t.size))
  b.onDict fun d => { d with transfers := d.transfers.map fun u => if u = t then { t with unacked := n } else u }

/-- The transfer of an own download. -/
def Block.ownTransfer (b : Block) (x : Proxy) : Option Transfer :=
  b.dict.transfers.find? fun t => t.hdr.path != 0 && decide (t.hdr = x.hdr)

/-- A worker acknowledges segments of an own download. -/
def Block.ownAck (b : Block) (p : Nat) (x : Proxy) (next : Nat) : Block :=
  match b.ownTransfer x with
  | none => b
  | some t =>
    let k := (next + 256 - t.base % 256) % 256
    let u := { t with data := t.data.drop (t.size * k), base := t.base + k, unacked := 0 }
    let b := b.onDict fun d => { d with transfers := d.transfers.map fun v => if v = t then u else v }
    if u.data.isEmpty then b else b.sendOwn p x.tag u

/-- A port that trained UNCONFIGURED has taken its slice as its boot folio: its width is known from then on (R286). -/
def Block.configured (b : Block) (p : Nat) : Block :=
  match b.active.folio.ports.find? fun q => q.port == p with
  | some q => if (b.lane q.lane).width = unconfigured then b.onLane q.lane fun k => { k with width := widthCode q.width } else b
  | none => b

/-- The serial of the slice that has landed, and the end of its transfer. -/
def Block.ownLanded (b : Block) (p : Nat) (x : Proxy) : Block :=
  let serial := (sliceFor b.sets.shd p).map sliceSerial
  let b := b.onDict fun d => { d with transfers := d.transfers.filter fun t => !(t.hdr.path != 0 && decide (t.hdr = x.hdr)) }
  (b.configured p).onPort p fun q => { q with shadowSerial := if b.sets.shd.state = .empty then (sliceFor b.active p).map sliceSerial else serial }

/-- A worker refuses its slice. -/
def Block.ownRefused (b : Block) (p : Nat) (x : Proxy) (code : Nat) : Block :=
  let b := b.onDict fun d => { d with transfers := d.transfers.filter fun t => !(t.hdr.path != 0 && decide (t.hdr = x.hdr)) }
  if x.index = 0x2020 then
    (b.onBoot fun k => { k with sliceRefused := k.sliceRefused ++ [p] }).raise 0x0D [.id 6 p, .id 8 code]
  else b

/-! ### Replies of workers (R416 to R418) -/

/-- Which requester an ORIGIN code of a worker's message belongs to. -/
def originFits (o : Nat) (x : Proxy) : Bool :=
  match x.hdr.origin with
  | .inband => o == 0
  | .proxiedUnit => o == 2
  | .proxiedCan => false
  | _ => o == 1

/-- The transaction that a worker's message answers. -/
def Block.proxyOf (b : Block) (p o tag : Nat) : Option Proxy :=
  (b.port p).proxies.find? fun x => originFits o x && x.tag == tag

/-- A worker's segment of an upload. -/
def Block.workerSegment (b : Block) (p : Nat) (x : Proxy) (m : Msg) : Block :=
  let b := b.passReply x 0x04 m.index 0 0 m.body
  if x.left ≤ m.body.length then b.proxyDrop p x else b.proxySet p x { x with left := x.left - m.body.length }

/-- A worker's acknowledgement. -/
def Block.workerAck (b : Block) (p : Nat) (x : Proxy) (m : Msg) : Block :=
  if x.hdr.origin = .proxiedUnit then b.ownAck p x m.index else b.passReply x 0x06 m.index 0 0 []

/-- A worker is ready to receive a download. -/
def Block.workerReadyFor (b : Block) (p : Nat) (x : Proxy) : Block :=
  let b := b.proxySet p x { x with answered := true }
  if x.hdr.origin = .proxiedUnit then
    match b.ownTransfer x with
    | some t => b.sendOwn p x.tag t
    | none => b
  else b

/-- A response of a worker to a request. -/
def Block.workerResponse (b : Block) (p : Nat) (x : Proxy) (m : Msg) : Block :=
  let own := decide (x.hdr.origin = .proxiedUnit)
  let b := b.passReply x m.op m.index m.sub m.arg m.body
  if m.op = 0x85 then b.proxySet p x { x with answered := true, left := natLE (octets m.body 0 4) }
  else if m.op = 0x83 ∧ m.arg = 0 then b.workerReadyFor p x
  else
    let b := b.proxyDrop p x
    if !own then b
    else if m.op = 0x87 then b.ownRefused p x (natLE (octets m.body 0 4))
    else if m.op = 0x83 then b.ownLanded p x
    else if x.index = 0x2840 then b.onPort p fun q => { q with align := x.value }
    else b

/-- A message of a worker that answers a request. One of ORIGIN 1 or 2 that matches nothing is discarded and counted. -/
def Block.workerAnswer (b : Block) (p o : Nat) (m : Msg) : Block :=
  match b.proxyOf p o m.tag with
  | none => if o = 0 ∨ o = 3 then b else b.bump 0x104004 1
  | some x =>
    if m.op = 0x04 then b.workerSegment p x m
    else if m.op = 0x06 then b.workerAck p x m
    else b.workerResponse p x m

/-! ### Events of workers (R386, R428, R446, R448) -/

/-- Identifier of a frame that the device sends on CAN (R409). -/
def canId (function dest src port : Nat) : BitVec 29 := BitVec.ofNat 29 (pack [(3, function), (7, dest), (7, src), (6, port), (6, 0)])

/-- A frame of the device's own on a bus. -/
def Block.canSend (b : Block) (bus : Nat) (id : BitVec 29) (payload : List Byte) : Block :=
  b.onDict fun d => { d with canOut := d.canOut ++ [⟨bus, id, payload⟩] }

/-- A bus runs for messages of the device. -/
def Block.busRuns (b : Block) (bus : Nat) : Bool := (b.can (bus == 1)).up && b.reg 0x100101 != 127

/-- A worker's event goes on over CAN while 1050.06 is set, through the queues of the buses. -/
def Block.relayEvent (b : Block) (p : Nat) (w : Word64) : Block :=
  if b.reg 0x105006 ≠ 1 then b
  else
    let r := b.send b.eventBuses p w
    r.1.overflowed r.2 (sourceOf w)

/-- A worker's retirement, kept with its port: the message names the site, and the rest of the entry is free. -/
def Block.workerRetired (b : Block) (p : Nat) (w : Word64) : Block :=
  let l := tabGet [] b.flt.workers p
  if 64 ≤ l.length then b
  else
    let v := b.freeVal.toNat
    let e := listEntry (bits w.toNat 47 32) (v % 256) (v.testBit 8) (v.testBit 9) b.time.orbit
    (b.onFlt fun t => { t with workers := tabSet t.workers p (l ++ [e]) }).freeNext

/-- A worker's BOOT_READY. An excluded port, or one that has come back, waits for its release. -/
def Block.workerReady (b : Block) (p : Nat) : Block :=
  let b := b.onBoot fun k => if k.ready.contains p then k else { k with ready := k.ready ++ [p] }
  if b.boot.decided.isSome && !(b.boot.joining.any fun j => j.1 == p) && ((b.port p).excluded || !(b.port p).wasActive) then
    let at_ := if (b.port p).excluded then b.planOrbit else b.releaseOrbit
    (b.onBoot fun k => { k with joining := k.joining ++ [(p, at_ % 2 ^ 48)] }).ownWrite p 0x101403 (bytesLE 8 (at_ % 2 ^ 48)) true
  else b

/-- An event of a worker. -/
def Block.workerEvent (b : Block) (p : Nat) (w : Word64) : Block :=
  let b := b.relayEvent p w
  if sourceOf w = 0x08 then b.workerReady p
  else if sourceOf w = 0xC2 then b.workerRetired p w
  else b

/-- A whole message of a worker. -/
def Block.workerMessage (b : Block) (p o : Nat) (m : List Byte) : Block :=
  if byteAt m 0 = 0x20 then b.workerEvent p (eventOf m) else b.workerAnswer p o (parseMsg m)

/-! ### Service records and BULK words of a worker (R258, R414) -/

/-- A service record of a worker: true where the merge takes it. -/
def Block.workerService (b : Block) (p : Nat) (w : Word64) : Bool × Block :=
  let o := bits w.toNat 48 47
  let a := (b.port p).asm.service w
  let b := b.onPort p fun q => { q with asm := a.1 }
  (o == 0 || o == 3, match a.2 with
    | some m => b.workerMessage p o m
    | none => b)

/-- A BULK word of a worker: as it is relayed, none where the proxy keeps it. -/
def Block.workerBulk (b : Block) (p : Nat) (w : Word64) : Option Word64 × Block :=
  let was := (b.port p).bulk
  let env := if was.active then was.env else w
  let o := bits env.toNat 61 60
  let a := was.bulk w
  let b := b.onPort p fun q => { q with bulk := a.1 }
  let out := if was.active then w else w ||| BitVec.ofNat 64 (p * 2 ^ 54)
  (if o = 0 then some out else none, match a.2 with
    | some m => b.workerMessage p o m.2
    | none => b)

/-- The BULK words of a region of a worker: those of ORIGIN 0 are relayed as a word of their own. -/
def Block.workerBulkRegion (b : Block) (p : Nat) (l : List Word64) : Block :=
  let r := l.foldl (fun (q : Block × List Word64) w =>
    let s := q.1.workerBulk p w
    (s.2, q.2 ++ s.1.toList)) (b, [])
  if r.2.isEmpty then r.1
  else r.1.onMrg fun m => { m with
    bulk := m.bulk ++ [⟨2, r.2.map fun w => { word := w, cross := b.time.now, group := true }, b.time.now, false⟩] }

/-- A region of a worker's is lost: what was being received from it ends (R413, R414). -/
def Block.workerLost (b : Block) (p : Nat) : Block :=
  let q := b.port p
  let b := b.onPort p fun q => { q with asm := {}, bulk := {} }
  if q.asm.active || q.bulk.active then b.raise 0xD9 [.id 8 2, b.hereFld] else b

/-! ### A requester's segments to a worker -/

/-- The port and the transaction of a requester's TAG. -/
def Block.proxyByTag (b : Block) (o : Origin) (tag : Nat) : Option (Nat × Proxy) :=
  b.mrg.ports.findSome? fun p =>
    (p.2.proxies.find? fun x => decide (x.hdr.origin = o) && x.hdr.tag.toNat == tag).map fun x => (p.1, x)

/-- A short message of a requester goes on to the worker that it belongs to. -/
def Block.relayShort (b : Block) (o : Origin) (tag : Nat) (make : Nat → List Byte) : Block :=
  match b.proxyByTag o tag with
  | some (p, x) => b.toWorker p (forwardOrigin o) (make x.tag)
  | none => b

/-! ### The partner's retirements (R383) -/

/-- What an adopted retirement changes at the plan boundary: the unit's own lane keeps running until then. -/
def Block.adoptEffect (b : Block) (id : Nat) : Block :=
  let n := id % 4096
  if id / 4096 = 4 then b.planDue [] [n] [n]
  else match b.portOfLane n with
    | some (p, _) => b.planDue [] [] [p.port]
    | none => b

/-- A retirement of a lane or port that the partner tells is adopted, for the plan boundary that it names. -/
def Block.adoptRetirement (b : Block) (w : Word64) : Block :=
  let id := bits w.toNat 47 32
  let at_ := b.time.orbit / 2 ^ 32 * 2 ^ 32 + bits w.toNat 31 0
  if (id / 4096 = 2 ∨ id / 4096 = 4) ∧ (b.site id).state ≠ 2 then
    let b := (b.onSite id fun k => { k with state := 2 }).onFlt fun t => { t with boundary := some at_ }
    ((b.adoptEffect id).listSite id 6 true false).retiredMessage id
  else b

/-- A mirrored service record of the partner is read for what it tells. -/
def Block.partnerService (b : Block) (w : Word64) : Block :=
  let a := b.twin.asm.service w
  let b := b.onTwin fun t => { t with asm := a.1 }
  match a.2 with
  | some m => if byteAt m 0 = 0x20 ∧ sourceOf (eventOf m) = 0xC2 then b.adoptRetirement (eventOf m) else b
  | none => b

end Sys2Proof.Machine
end

