-- ==== Sys2Proof/Machine/Merge.lean ====
section
/-! DEFINITION. The merge of a C-role: contract accounting, runs, rows, withdrawals, colophons, occupancy (R217 to R221, R240 to R263,
R496). -/

namespace Sys2Proof.Machine

/-! ### Queues and schedules -/

/-- RQ queue of a port, and UP queue of an uplink. -/
def rqOf (p : Nat) : Nat := 0x40 + p
def upOf (u : Nat) : Nat := 0x20 + u

/-- A crossing lies in an orbit of the outgoing set. -/
def Block.oldCross (b : Block) (x : Nat) : Bool := (b.orbitAt x).any fun r => r.set + 1 == b.sets.swaps

/-- The folio of the set that governs a crossing (R65, R261). -/
def Block.folioAt (b : Block) (x : Nat) : Folio := if b.oldCross x then b.sets.shd.folio else b.active.folio

/-- Lane tables in force: the plan's, else the set's (R227, R384). -/
def Block.laneTables (b : Block) : List (Nat × List Nat) :=
  match b.sets.planCuts with
  | some p => if p.tables.isEmpty then b.active.folio.tables else p.tables
  | none => b.active.folio.tables

/-- Lane tables for the data of a crossing (R65): those of the outgoing set for a crossing before the swap. -/
def Block.tablesAt (b : Block) (x : Nat) : List (Nat × List Nat) := if b.oldCross x then b.sets.shd.folio.tables else b.laneTables

/-- The queue that a lane's table gives the frame of a slot, for the data of a crossing; 0xFF is filler. -/
def Block.laneQueue (b : Block) (x l slot : Nat) : Nat :=
  match (b.tablesAt x).find? fun t => t.1 == l with
  | some t => if t.2.isEmpty then 0xFF else t.2.getD (slot % t.2.length) 0xFF
  | none => 0xFF

/-- Ports of a set by the crossing it governs: the plan in force is one of the active set. -/
def Block.portsAt (b : Block) (x : Nat) : List PortPlan := if b.oldCross x then b.sets.shd.folio.ports else b.portsNow

/-- Home uplink of a port in a crossing, 0 for none: no plan changes the topology (R226). -/
def Block.homeAt (b : Block) (x p : Nat) : Nat := (((b.folioAt x).ports.find? fun q => q.port == p).map PortPlan.home).getD 0

/-- The home ports of an uplink in a crossing, in ascending port order. -/
def Block.homePortsAt (b : Block) (x u : Nat) : List Nat := (List.range 33).filter fun p => decide (1 ≤ p) && b.homeAt x p == u


/-- Uplinks of the active set. -/
def Block.uplinkList (b : Block) : List Nat := b.active.folio.uplinks.map Prod.fst

/-- The lane of an uplink. -/
def Block.uplinkLane (b : Block) (u : Nat) : Nat := ((b.active.folio.uplinks.find? fun q => q.1 == u).map Prod.snd).getD 0

/-- Merge order of an uplink, in the outgoing set or in the plan or set in force: its table's, then any other port. -/
def Block.mergeOrder (b : Block) (old : Bool) (u : Nat) : List Nat :=
  let plan := match b.sets.planCuts with
    | some p => if p.merge.isEmpty then b.active.folio.merge else p.merge
    | none => b.active.folio.merge
  let l := (((if old then b.sets.shd.folio.merge else plan).find? fun q => q.1 == u).map Prod.snd).getD []
  l ++ ((List.range 33).filter fun p => decide (1 ≤ p) && !l.contains p)

/-- A_p of a port for words of a fragment of crossing x (R261): a plan in force may replace that of the active set (R226). -/
def Block.allowanceAt (b : Block) (x p : Nat) : Nat :=
  (((if b.oldCross x then b.sets.shd.folio.allowance else b.allowances).find? fun q => q.1 == p).map Prod.snd).getD 0

/-- Uplinks that only the outgoing set has, while words of its orbits may still be merged (R261). -/
def Block.oldUplinks (b : Block) : List Nat :=
  if b.sets.heldFrom.isNone then []
  else (b.sets.shd.folio.uplinks.map Prod.fst).filter fun u => !b.uplinkList.contains u

/-! ### Crossings that records name (R254, R261) -/

/-- The youngest crossing, not in the future, of an orbit whose low bits agree, with a slot. -/
def Block.named (b : Block) (modulus low slot : Nat) : Option Nat :=
  (b.time.log.filter fun r => r.orbit % modulus == low && decide (slot < r.len) && decide (r.start + slot ≤ b.time.now)).foldl
    (fun a r => some (max (a.getD 0) (r.start + slot))) none

/-- The crossing that a fragment header names. -/
def Block.headerCross (b : Block) (h : Word64) : Nat := (b.named 16 (bits h.toNat 43 40) (bits h.toNat 39 26)).getD b.dataNow

/-- The youngest crossing of a slot. -/
def Block.stampCross (b : Block) (slot : Nat) : Nat :=
  ((b.time.log.filter fun r => decide (slot < r.len) && decide (r.start + slot ≤ b.time.now)).foldl
    (fun a r => some (max (a.getD 0) (r.start + slot))) none).getD b.dataNow

/-- The crossing of a record's own: that of its stamp, or the one that a control record names; of a group word, its fragment's. -/
def Block.recCross (b : Block) (r : QRec) : Nat :=
  let v := r.word.toNat
  if r.group then (r.hdr.map b.headerCross).getD b.dataNow
  else if classOf r.word < 2 then b.stampCross (bits v 40 27)
  else match typeOf r.word with
    | 0x81 | 0x82 => b.headerCross r.word
    | 0x84 => (b.named 16 (bits v 39 36) (bits v 35 22)).getD b.dataNow
    | 0x83 => (b.named 1024 (bits v 49 40) (bits v 39 26)).getD b.dataNow
    | _ => b.dataNow

/-- The crossing whose set governs a record of a port: that of its fragment, else the present one (R261). -/
def Block.fragCross (b : Block) (hdr : Option Word64) : Nat := (hdr.map b.headerCross).getD b.dataNow

/-- The uplink on which a record of a port is merged. -/
def Block.recHome (b : Block) (p : Nat) (r : QRec) : Nat := b.homeAt (b.fragCross r.hdr) p

/-- A record is merged under the outgoing set. -/
def Block.recOld (b : Block) (r : QRec) : Bool := b.oldCross (b.fragCross r.hdr)

/-! ### Withdrawals for a port's words (R223, R254) -/

/-- A withdrawal for a port's words waits for row 7, with the fragment that they belong to (R243); it joins the one before it where R223
lets it. -/
def Block.portWithdraw (b : Block) (p : Nat) (r : QRec) : Block :=
  if (b.port p).wds.getLast?.any fun last => joins last r then b.onPort p fun q => { q with wds := mapLast (fun x => x.plus r) q.wds }
  else (b.countWithdrawal r.cross r.word).onPort p fun q => { q with wds := q.wds ++ [r] }

/-- Withdrawals of a crossing for a port's words, of a fragment. -/
def Block.portWithdrawals (b : Block) (p reason kind site x count : Nat) (hdr : Option Word64) : Block :=
  forEach (b.withdrawals reason kind site x 0 count) b fun w b => b.portWithdraw p { word := w, cross := x, hdr := hdr, own := true }

/-! ### Words entering RQ (R217, R241, R248, R259) -/

/-- A word that a C-role discards: a reserved control type, or class 0b11. -/
def reservedWord (w : Word64) : Bool := classOf w == 3 || (classOf w == 2 && !(decide (0x81 ≤ typeOf w) && decide (typeOf w ≤ 0x87)))

/-- In-contract records of a port over the last S_C crossings. -/
def Block.inCount (b : Block) (p span : Nat) : Nat :=
  (((b.port p).counts.filter fun c => decide (b.time.now < c.1 + span)).map Prod.snd).sum

/-- Count n records of a port as in-contract where they all fit the allowance of the set that governs crossing x (R217, R261). The
counts of the longer of the two sets' spans are kept. -/
def Block.contract (b : Block) (p x n : Nat) : Bool × Block :=
  if b.inCount p (b.folioAt x).span + n ≤ b.allowanceAt x p then
    (true, (b.bump (0x210002 + 256 * p) n).onPort p fun q => { q with
      counts := (q.counts.filter fun c => decide (b.time.now < c.1 + max b.active.folio.span b.sets.shd.folio.span)) ++ [(b.time.now, n)] })
  else
    (false, (b.bump (0x210003 + 256 * p) n).raiseOnce 0x11 0 [.id 6 p, b.hereFld])

/-- What a fragment still owes after a word: a header says how many follow, unknown as 0xFFF. -/
def dueAfter (due : Nat) (w : Word64) (group : Bool) : Nat :=
  if !group && typeOf w == 0x81 then bits w.toNat 23 12 else if due = 0xFFF then due else due - 1

/-- One record of a port as it enters: none where it is dropped or kept. `tod` is the crossing that a time-of-day mark of its region
describes. -/
def Block.rqRecord (b : Block) (p tod : Nat) (w : Word64) (group inC : Bool) : Option QRec × Block :=
  let b := b.onPort p fun q => { q with
    lastHdr := if !group && typeOf w == 0x81 then some w else q.lastHdr,
    due := if !group && typeOf w == 0x87 then q.due else dueAfter q.due w group }
  let r : QRec := { word := w, arrived := b.time.now, inC := inC, hdr := (b.port p).lastHdr, group := group, throttled := b.throttled }
  (some { r with cross := if !group && typeOf w == 0x86 then tod else b.recCross r }, b)

/-- The crossing whose set judges a record of a port against its allowance (R261): that of the fragment it begins or belongs to. -/
def Block.judgedAt (b : Block) (p : Nat) (w : Word64) : Nat :=
  if typeOf w = 0x87 then b.dataNow else if typeOf w = 0x81 then b.headerCross w else b.fragCross (b.port p).lastHdr

/-- One valid record outside a group. -/
def Block.rqSingle (b : Block) (p tod : Nat) (w : Word64) : Option QRec × Block :=
  if w = filler then (none, b)
  else if reservedWord w then (none, b.bump 0x500005 1)
  else
    let c := b.contract p (b.judgedAt p w) 1
    if typeOf w = 0x87 then
      let s := c.2.workerService p w
      if s.1 then s.2.rqRecord p tod w false c.1 else (none, s.2)
    else c.2.rqRecord p tod w false c.1

/-- The records of a word, in order. -/
def Block.rqRecords (b : Block) (p tod : Nat) : List Word64 → List QRec × Block
  | [] => ([], b)
  | w :: t =>
    let r := b.rqSingle p tod w
    let s := r.2.rqRecords p tod t
    (r.1.toList ++ s.1, s.2)

/-- The crossing that the time-of-day mark of a region describes: its four parts stand together (R257). -/
def Block.todCross (b : Block) (l : List Word64) : Nat :=
  (((readTodMark (l.take 4)).orElse fun _ => readTodMark (l.drop 1)).bind fun m => b.named (2 ^ 48) m.2.1 m.2.2.1).getD b.dataNow

/-- The five words of a group, in-contract together or not at all. -/
def Block.rqGroupWords (b : Block) (p : Nat) (inC : Bool) : List Word64 → List QRec × Block
  | [] => ([], b)
  | w :: t =>
    let r := b.rqRecord p 0 w true inC
    let s := r.2.rqGroupWords p inC t
    (r.1.toList ++ s.1, s.2)

/-- A region of a worker that its check has passed enters RQ; BULK words go to the proxy. -/
def Block.rqRegion (b : Block) (p : Nat) (f : CFrame) : Block :=
  let v := validWords f
  if frBulk f then b.workerBulkRegion p v.1
  else if v.2 then
    let c := b.contract p (b.fragCross (b.port p).lastHdr) 5
    let r := c.2.rqGroupWords p c.1 v.1
    r.2.qWriteGroup (rqOf p) r.1
  else
    let b := if v.1.isEmpty then b else b.bump 0x500003 (5 - v.1.length)
    let r := b.rqRecords p (b.todCross v.1) v.1
    forEach r.1 r.2 fun q b => b.qWrite (rqOf p) q

/-- A region of a worker that its check has failed: one CHECK withdrawal names the lane (R241). -/
def Block.rqFailed (b : Block) (p l h : Nat) : Block :=
  let b := ((b.bump (0x520005 + 256 * p) 1).raiseOnce 0x60 0 [.id 6 p, .id 6 l, b.hereFld]).workerLost p
  b.portWithdrawals p 5 siteLane l h 5 (b.port p).lastHdr

/-- The record slots that a retired lane would have carried (R383): one RETIRED withdrawal names the lane. -/
def Block.rqRetired (b : Block) (p l h : Nat) : Block := b.portWithdrawals p 7 siteLane l h 5 (b.port p).lastHdr

/-! ### Port states (R246, R252, R417) -/

/-- The state that a port of the topology is in. -/
def Block.portStateNow (b : Block) (p : Nat) : Nat :=
  match b.portPlanOf p with
  | none => 3
  | some q =>
    if b.siteRetired 4 p && (b.port p).state == 2 then 2
    else if (b.port p).excluded then 1
    else if b.portHeard q && (b.lane q.lane).width != unconfigured then 0
    else 1

/-- Why a proxy request to a port would abort now, for what is outstanding. -/
def Block.portEndCode (b : Block) (p : Nat) : Nat := b.proxyCode .inband p

/-- A port leaves Active: its run ends, and what its fragment still owed is withdrawn. -/
def Block.portLeaves (b : Block) (p state : Nat) : Block :=
  let q := b.port p
  let b := b.raise 0x61 [.id 6 p, .id 8 state]
  let x := (q.lastHdr.map b.headerCross).getD b.dataNow
  let b := if q.due ≠ 0 then b.portWithdrawals p (if state = 2 then 7 else 6) sitePort p x unknownCount q.lastHdr else b
  (b.workerLost p).onPort p fun q => { q with due := 0, wasActive := false }

/-- A port's state is taken anew. -/
def Block.portUpdate (b : Block) (p : Nat) : Block :=
  let was := (b.port p).state
  let now := b.portStateNow p
  let code := b.portEndCode p
  let b := if code = 0x11 ∨ code = 0x12 ∨ code = 0x13 ∨ code = 0x14 then b.proxyEnd p code else b
  if was = now then b
  else
    let b := b.onPort p fun q => { q with state := now }
    if was = 0 then b.portLeaves p now
    else if now = 0 then
      let again := (b.port p).everActive
      let b := b.onPort p fun q => { q with lastHdr := none, due := 0, everActive := true }
      if again then b.raise 0x62 [.id 6 p] else b
    else b

/-- Every port. -/
def Block.portsUpdate (b : Block) : Block := forEach ((List.range 33).drop 1) b fun p b => b.portUpdate p

/-! ### Runs (R243, R244, R249) -/

/-- What a run places in an UP queue: a record, or a whole group. -/
inductive Put where
  | one (r : QRec)
  | group (l : List QRec)

/-- Words that a placing takes. -/
def Put.words : Put → Nat
  | .one _ => 1
  | .group l => l.length

/-- What a port's records are merged as: groups whole. -/
def itemsOf : List QRec → List Put
  | a :: b :: c :: d :: e :: t => if a.group then .group [a, b, c, d, e] :: itemsOf t else .one a :: itemsOf (b :: c :: d :: e :: t)
  | a :: t => .one a :: itemsOf t
  | [] => []

/-- PORT in a record's [55:50]. -/
def withPort (w : Word64) (p : Nat) : Word64 := BitVec.ofNat 64 (w.toNat - bits w.toNat 55 50 * 2 ^ 50 + p * 2 ^ 50)

/-- Where a run stands: the fragment it is attributed to, whether the last word was a fragment header, and groups counted since. -/
structure RunAt where
  hdr    : Option (Option Word64) := none
  atHdr  : Bool := false
  groups : Nat := 0

/-- The run header in front of an item, and where the run then stands: a header of the port's own begins its fragment. -/
def runItem (p : Nat) (k : RunAt) : Put → Option Word64 × RunAt
  | .one r =>
    if typeOf r.word = 0x87 then (none, { k with atHdr := false, groups := 0 })
    else if typeOf r.word = 0x81 then (none, { hdr := some r.hdr, atHdr := true, groups := 0 })
    else if k.hdr = some r.hdr then (none, { k with atHdr := false, groups := 0 })
    else (some (runHeader p r.hdr 0), { hdr := some r.hdr, atHdr := false, groups := 0 })
  | .group l =>
    let h := (l.head?.map QRec.hdr).getD none
    let n := if k.hdr = some h ∧ (k.atHdr ∨ (0 < k.groups ∧ k.groups < 255)) then k.groups else 0
    if k.hdr = some h ∧ (k.atHdr ∨ (0 < k.groups ∧ k.groups < 255)) then (none, { k with atHdr := false, groups := n + 1 })
    else (some (runHeader p h 0), { hdr := some h, atHdr := false, groups := 1 })

/-- A record as it is merged: headers and service records take their port. -/
def mergedRec (p : Nat) (r : QRec) : QRec :=
  if r.group then r
  else if typeOf r.word = 0x81 ∨ typeOf r.word = 0x87 then { r with word := withPort r.word p } else r

/-- A placing as it is merged. -/
def Put.merged (p : Nat) : Put → Put
  | .one r => .one (mergedRec p r)
  | .group l => .group l

/-- Groups that directly follow. -/
def groupRun : List Put → Nat
  | .group _ :: t => groupRun t + 1
  | _ => 0

/-- GROUPS of every fragment header is the number of groups that directly follow it. -/
def setGroups : List Put → List Put
  | [] => []
  | .one r :: t =>
    let n := min 255 (groupRun t)
    let w := if typeOf r.word = 0x81 ∧ !r.group then r.word - BitVec.ofNat 64 (bits r.word.toNat 7 0) + BitVec.ofNat 64 n else r.word
    .one { r with word := w } :: setGroups t
  | x :: t => x :: setGroups t

/-- Count and tell a run header. -/
def Block.noteRunHeader (b : Block) (p : Nat) (h : Word64) : Block :=
  let b := b.bump 0x500001 1
  if h.toNat.testBit 25 then (b.bump 0x500002 1).raise 0x64 [.id 6 p, b.hereFld] else b

/-- Count what of a port is merged. -/
def Block.noteMerged (b : Block) (p : Nat) : Put → Block
  | .one r =>
    if typeOf r.word = 0x81 then b.bump (0x520007 + 256 * p) 1
    else if typeOf r.word = 0x87 then b.bump (0x520008 + 256 * p) 1
    else b
  | .group _ => b

/-- A run of a port from its items while room lasts; none is no limit. Answers what is placed, the items left, the room left. -/
def runFrom (p : Nat) : RunAt → Option Nat → List Put → List Put × List Put × Option Nat
  | _, room, [] => ([], [], room)
  | k, room, i :: t =>
    let r := runItem p k i
    let cost := i.words + (if r.1.isSome then 1 else 0)
    match room with
    | none =>
      let s := runFrom p r.2 none t
      ((r.1.map fun h => Put.one { word := h }).toList ++ [i.merged p] ++ s.1, s.2)
    | some n =>
      if n < cost then ([], i :: t, some n)
      else
        let s := runFrom p r.2 (some (n - cost)) t
        ((r.1.map fun h => Put.one { word := h }).toList ++ [i.merged p] ++ s.1, s.2)

/-- Records of placings. -/
def putRecs (l : List Put) : List QRec := l.flatMap fun
  | .one r => [r]
  | .group g => g

/-! ### Writing an UP queue -/

/-- Words that enter UPu count as raw records. -/
def Block.upRaw (b : Block) (u n : Nat) : Block := b.bump (0x215101 + 256 * (u - 1)) n

/-- A record of a run as it enters UPu: a run header of the C-role's names the crossing of its fragment. -/
def Block.runRec (b : Block) (r : QRec) : QRec :=
  if !r.group && typeOf r.word == 0x81 && r.word.toNat.testBit 49 then { r with cross := b.headerCross r.word } else r

/-- A placing enters UPu. -/
def Block.upPut (b : Block) (u : Nat) : Put → Block
  | .one r => (b.qWrite (upOf u) (b.runRec r)).upRaw u 1
  | .group l => (b.qWriteGroup (upOf u) l).upRaw u l.length

/-- Words of the C-role's own enter UPu. -/
def Block.upWords (b : Block) (u : Nat) (l : List Word64) : Block :=
  forEach l b fun w b => b.upPut u (.one { word := w, cross := b.recCross { word := w } })

/-- Notes of the placings of a port. -/
def Block.notePuts (b : Block) (p : Nat) (l : List Put) : Block :=
  forEach l b fun i b =>
    match i with
    | .one r => if typeOf r.word = 0x81 ∧ r.word.toNat.testBit 49 then b.noteRunHeader p r.word else b.noteMerged p i
    | .group _ => b

/-! ### Rows 1 to 7 (R242, R251 to R257, R356) -/

/-- COMP_CONFIG of an uplink for a crossing. -/
def Block.compAt (b : Block) (u x : Nat) : Nat := b.rsAt x (0x600001 + 256 * u)

/-- Compression is enabled on an uplink in either of the sets around a data-grid crossing. -/
def Block.compAround (b : Block) (u : Nat) : Bool := (b.compAt u b.dataNow).testBit 31 || (b.compAt u (b.dataNow - 1)).testBit 31

/-- The colophon of the words merged since the last one (row 1); its sums are those of the words that it follows as it takes its place. -/
def Block.mergeColophon (b : Block) (u : Nat) (resync : Bool) : Block :=
  let b := b.upWords u [colophon (b.orbitOf (b.dataNow - 1) % 4) 0 (flag resync) 0 0]
  if b.compAround u then b.qClose (upOf u) else b

/-- An accept's bookmark. -/
def Mark.word (m : Mark) : Word64 := bookmark m.kind (flag m.abandoned) (flag m.noWindow) m.orbit m.slot m.sum m.seq

/-- The absent-worker pair of a port for a crossing and a kind. -/
def Block.absentPair (b : Block) (u p kind x orbit slot : Nat) : Block :=
  let ret := (b.port p).state == 2
  let w := withdrawalRecord (if ret then 7 else 6) sitePort p orbit slot 0 unknownCount
  (b.countWithdrawal x w).upWords u [absentHeader p kind (flag ret) orbit slot, w]

/-- Absent-worker pairs of an uplink for an accepted crossing (row 6). -/
def Block.absentPairs (b : Block) (u : Nat) (m : Mark) : Block :=
  forEach ((b.homePortsAt m.cross u).filter fun p => (b.port p).state != 0) b fun p b =>
    b.absentPair u p m.kind m.cross m.orbit m.slot

/-- Bookmarks and the absent pairs that follow them (rows 4 and 6); the C-role's own service records come between (row 5). -/
def Block.mergeMarks (b : Block) (u : Nat) (marks : List Mark) (own : List Word64) : Block :=
  let b := forEach marks b fun m b => (b.upWords u [m.word]).bump (0x510006 + 256 * u) 1
  let b := b.upWords u own
  forEach (marks.filter fun m => !m.noWindow) b fun m b => b.absentPairs u m

/-! ### Reading RQ -/

/-- Everything in RQ, in order: the merge reads its words as they stand, the open one too. -/
def Block.rqRecs (b : Block) (p : Nat) : List QRec :=
  let u := b.queue (rqOf p)
  u.words.flatMap QWord.recs ++ u.open_

/-- Of the records that a test selects, the first n leave, and the others are marked. Answers how many have still to leave. -/
def takeSel (sel : QRec → Bool) (mark : QRec → QRec) : Nat → List QRec → Nat × List QRec
  | n, [] => (n, [])
  | n, r :: t =>
    if !sel r then
      let s := takeSel sel mark n t
      (s.1, r :: s.2)
    else match n with
      | 0 =>
        let s := takeSel sel mark 0 t
        (s.1, mark r :: s.2)
      | k + 1 => takeSel sel mark k t

/-- The same over words. -/
def takeSelWords (sel : QRec → Bool) (mark : QRec → QRec) : Nat → List QWord → Nat × List QWord
  | n, [] => (n, [])
  | n, w :: t =>
    let s := takeSel sel mark n w.recs
    let r := takeSelWords sel mark s.1 t
    (r.1, { w with recs := s.2 } :: r.2)

/-- The first n records of RQ that a test selects leave it, the others that it selects are marked. -/
def Block.rqUpdate (b : Block) (p : Nat) (sel : QRec → Bool) (n : Nat) (mark : QRec → QRec) : Block :=
  (b.onQueue (rqOf p) fun u =>
    let s := takeSelWords sel mark n u.words
    { u with words := s.2.filter fun w => !w.recs.isEmpty, open_ := (takeSel sel mark s.1 u.open_).2 }).queueNotice (rqOf p)

/-- A record of a port goes up an uplink, under the outgoing set or under the set in force (R261). -/
def Block.goesUp (b : Block) (old : Bool) (u p : Nat) (r : QRec) : Bool := b.recHome p r == u && b.recOld r == old

/-- The withdrawals that the C-role made for a port's words, as runs of their fragments (row 7). -/
def Block.mergeWithdrawals (b : Block) (old : Bool) (u p : Nat) : Block :=
  let mine := b.goesUp old u p
  let l := (b.port p).wds.filter mine ++ (b.rqRecs p).filter fun r => r.own && mine r
  if l.isEmpty then b
  else
    let s := runFrom p {} none (l.map Put.one)
    let b := b.onPort p fun q => { q with wds := q.wds.filter fun r => !mine r }
    let b := (b.rqUpdate p (fun r => r.own && mine r) l.length id).notePuts p s.1
    forEach s.1 b fun i b => b.upPut u i

/-! ### Rows 8 and 9 (R219, R221, R245, R496) -/

/-- Records that the throttle still lets rows 8 and 9 of an uplink write; none where it is not in force. -/
def Block.creditLeft (b : Block) (u : Nat) : Option Nat := if b.throttled then some ((b.uplink u).credit / 1600) else none

/-- Records written in rows 8 and 9 cost credit. -/
def Block.spendCredit (b : Block) (u n : Nat) : Block := b.onUplink u fun s => { s with credit := s.credit - 1600 * n }

/-- The gain of a crossing, and the shortfall that it counts (R496). -/
def Block.gainCredit (b : Block) (u : Nat) : Block :=
  if b.throttled then
    let b := b.onUplink u fun s => { s with credit := min 8000 (s.credit + 5 * b.env.allow) }
    b.bump (0x215104 + 256 * (u - 1)) (5 - (b.uplink u).credit / 1600)
  else b.onUplink u fun s => { s with credit := 8000 }

/-- A worker's service record. -/
def QRec.service (r : QRec) : Bool := typeOf r.word == 0x87 && !r.group

/-- Row 8 for one port: its service records, then its in-contract run. What the throttle leaves no room for waits as over-contract. -/
def Block.mergeIn (b : Block) (old : Bool) (u p : Nat) : Block :=
  let sel := fun (r : QRec) => r.inC && !r.own && b.goesUp old u p r
  let l := (b.rqRecs p).filter sel
  if l.isEmpty then b
  else
    let svc := l.filter QRec.service
    let rest := l.filter fun r => !r.service
    let s := runFrom p {} (b.creditLeft u) (itemsOf svc ++ itemsOf rest)
    let placed := setGroups s.1
    let left := (putRecs s.2.1).length
    let late := fun (r : QRec) => { r with inC := false, throttled := r.throttled || b.throttled }
    let b := b.rqUpdate p (fun r => sel r && r.service) (svc.length - (left - rest.length)) late
    let b := (b.rqUpdate p (fun r => sel r && !r.service) (rest.length - left) late).notePuts p placed
    let b := forEach placed b fun i b => b.upPut u i
    b.spendCredit u (putRecs placed).length

/-- An over-contract record that goes up an uplink. -/
def Block.overWaits (b : Block) (u p : Nat) (r : QRec) : Bool := !r.inC && !r.own && b.recHome p r == u

/-- Over-contract words that wait on an uplink: (crossing of arrival, port), in the order of R218 item 4. -/
def Block.overRuns (b : Block) (u : Nat) : List (Nat × Nat) :=
  let all := ((List.range 33).drop 1).flatMap fun p => ((b.rqRecs p).filter fun r => b.overWaits u p r).map fun r => (r.arrived, p)
  let before := fun (x y : Nat × Nat) => decide (x.1 < y.1) || (x.1 == y.1 && decide (x.2 ≤ y.2))
  (all.foldl (fun l a => if l.contains a then l else l ++ [a]) []).foldl
    (fun l a => l.takeWhile (fun x => before x a) ++ [a] ++ l.dropWhile (fun x => before x a)) []

/-- The padded places of the youngest word of UPu, where that word is the only one; five where there is none (R219, R245). -/
def Block.upRoom (b : Block) (u : Nat) : Nat :=
  let q := b.queue (upOf u)
  if q.waits ∨ !q.open_.isEmpty then 0
  else match q.words with
    | [] => 5
    | [w] => if w.code = 0 then 5 - w.recs.length else 0
    | _ => 0

/-- A record fills a padded place of the youngest word, in place, or begins a word. -/
def Block.upFill (b : Block) (u : Nat) (r : QRec) : Block :=
  let q := upOf u
  let r := b.runRec r
  let b := b.upRaw u 1
  if (b.queue q).words.isEmpty then b.qPlace q r
  else (b.onQueue q fun v => { v with words := v.words.dropLast ++ (v.words.getLast?.map fun w => { w with recs := w.recs ++ [r] }).toList }).account u r

/-- The run that a port's over-contract records of a crossing of arrival make with the room left. -/
def Block.overRun (b : Block) (u x p : Nat) (k : RunAt) (room : Nat) : List Put × List Put × Nat × RunAt :=
  let items := itemsOf ((b.rqRecs p).filter fun r => r.arrived == x && b.overWaits u p r)
  let s := runFrom p k (some room) items
  (s.1, s.2.1, s.2.2.getD 0, items.foldl (fun k i => (runItem p k i).2) k)

/-- Taken records leave RQ. -/
def Block.overTaken (b : Block) (u p x n : Nat) : Block :=
  b.rqUpdate p (fun r => r.arrived == x && b.overWaits u p r) n id

/-- Records of the port itself among placings. -/
def ownWords (l : List Put) : Nat := ((putRecs l).filter fun r => r.group || !(typeOf r.word == 0x81 && r.word.toNat.testBit 49)).length

/-- Row 9: over-contract runs into the room of UPu, none past the first that does not fit. -/
def Block.mergeOver (b : Block) (u : Nat) : Nat → List (Nat × Nat) → RunAt → Nat → Block
  | _, [], _, _ => b
  | room, (x, p) :: t, k, last =>
    let r := b.overRun u x p (if last = p then k else {}) room
    let l := setGroups r.1
    let n := ownWords l
    let b := (b.overTaken u p x n).notePuts p l
    let b := forEach (putRecs l) b fun q b => b.upFill u q
    let b := ((b.bump (0x210004 + 256 * p) n).bump (0x215102 + 256 * (u - 1)) n).spendCredit u (putRecs l).length
    if r.2.1.isEmpty then b.mergeOver u r.2.2.1 t r.2.2.2 p else b

/-- Room for row 9 in a crossing: the next frame's, within what the throttle leaves. -/
def Block.overRoom (b : Block) (u : Nat) : Nat :=
  let next := b.laneQueue (b.dataNow - 6) (b.uplinkLane u) (b.slotOf (b.dataNow + 1)) == upOf u
  let n := if next then b.upRoom u else 0
  match b.creditLeft u with
  | some c => min n c
  | none => n

/-- Relayed BULK words go into UP1 after row 9 (R414). -/
def Block.mergeBulk (b : Block) (u : Nat) : Block :=
  if u ≠ 1 ∨ b.mrg.bulk.isEmpty then b
  else
    let l := b.mrg.bulk
    let n := l.length
    let b := b.onMrg fun m => { m with bulk := [] }
    if (b.queue (upOf u)).level + n + 4 ≤ queueCapacity (upOf u) then
      ((b.onQueue (upOf u) fun q => { q with words := q.words ++ l.map fun w => { w with closed := b.time.now } }).bump
        (queueKey (upOf u) 5) n).queueNotice (upOf u)
    else forEach l b fun w b => forEach w.recs b fun r b => b.qRefuse (upOf u) r

/-! ### One crossing of the merge (R242) -/

/-- A colophon is due: at the resync crossing E of the merge, and in the first crossing of every other orbit after that of the release. -/
def Block.colophonDue (b : Block) : Bool :=
  let d := b.dataNow
  b.mrg.cut || (b.boot.released && b.slotOf d == 0 && decide (b.boot.releasedAt < d) && b.time.lastE != some d)

/-- Bookmarks due now, in the order of forwarding. -/
def Block.marksDue (b : Block) : List Mark := b.acc.marks.filter fun m => decide (m.due ≤ b.time.now)

/-- The C-role's own service records of the present crossing, unit A's first (R356). -/
def Block.ownDue (b : Block) : List Word64 :=
  b.mrg.svcOwn ++ (b.mrg.svcDue.filter fun q => !q.2.2).map (fun q => q.2.1) ++ (b.mrg.svcDue.filter fun q => q.2.2).map fun q => q.2.1

/-- In streaming mode a port that is out is told at the first crossing of every orbit, and when it leaves Active (R252). -/
def Block.streamPairs (b : Block) (u : Nat) (left : List Nat) : Block :=
  let d := b.dataNow
  if !b.streaming d ∨ !b.boot.released then b
  else
    let start := b.slotOf d == 0
    forEach ((b.homePortsAt d u).filter fun p => (b.port p).state != 0 && (start || left.contains p)) b fun p b =>
      b.absentPair u p 3 d (b.orbitOf d) (b.slotOf d)

/-- The rows of an uplink for the ports in merge order: those of the outgoing set come first (R261). -/
def Block.eachPort (b : Block) (u : Nat) (f : Bool → Nat → Block → Block) : Block :=
  forEach [true, false] b fun old b => forEach (b.mergeOrder old u) b fun p b => f old p b

/-- Rows 1 to 6 of one uplink. -/
def Block.mergeControl (b : Block) (u : Nat) (marks : List Mark) (left : List Nat) : Block :=
  let b := if b.colophonDue then b.mergeColophon u b.mrg.cut else b
  let b := forEach b.mrg.tod b fun t b => (b.fourParts (upOf u) t.1 t.2).upRaw u 4
  let b := forEach b.mrg.time b fun t b => b.upWords u [t.2]
  let b := b.mergeMarks u marks (if u = 1 then b.ownDue else [])
  b.streamPairs u left

/-- Rows 1 to 8 of one uplink; the open word closes behind them (R219). An uplink that only the outgoing set has takes no control records
of the unit's own. -/
def Block.mergeRows (b : Block) (u : Nat) (marks : List Mark) (left : List Nat) : Block :=
  let b := b.when (b.uplinkList.contains u) fun b => b.mergeControl u marks left
  let b := (b.eachPort u fun old p b => b.mergeWithdrawals old u p).gainCredit u
  (b.eachPort u fun old p b => b.mergeIn old u p).qClose (upOf u)

/-- What has been merged is forgotten, and the over-contract words that wait note a throttle. -/
def Block.mergeDone (b : Block) : Block :=
  let b := b.onMrg fun m => { m with tod := [], time := [], svcOwn := [], svcDue := [], cut := false, upsets := [] }
  let b := b.onAcc fun a => { a with marks := a.marks.filter fun m => !decide (m.due ≤ b.time.now) }
  let note := fun (r : QRec) => { r with throttled := true }
  if !b.throttled then b
  else forEach ((List.range 33).drop 1) b fun p b => b.onQueue (rqOf p) fun q => { q with
    words := q.words.map fun w => { w with recs := w.recs.map note }, open_ := q.open_.map note, hold := q.hold.map note }

/-! ### Orbit resync of the merge (R260) -/

/-- The crossing's merge is that of E: it begins with a colophon of the orbit cut short, and the bookmarks of accepts of crossings before E
are due in it, abandoned. -/
def Block.resyncMerge (b : Block) (e : Nat) : Block :=
  (b.onMrg fun m => { m with cut := true }).onAcc fun a => { a with
    marks := a.marks.map fun m => if m.fwd < e then { m with abandoned := true, due := b.time.now } else m }

/-! ### Occupancy (R246, R247) -/

/-- Code of a sum of region counts. -/
def occCode (s : Nat) : Nat := if s ≤ 39 then s else 40 + (s - 40) / 4

/-- The code of a port for a crossing whose primitive is, or is not, resolved. -/
def Block.occOf (b : Block) (p : Nat) (prim : Option Ref48) : Nat :=
  match (b.port p).state with
  | 0 => match prim with
    | some v => occCode (primSum v)
    | none => 60
  | 2 => 61
  | 1 => 62
  | _ => 63

/-- The codes of a crossing's ports are kept until they have been sent. -/
def Block.occPut (b : Block) (x p code : Nat) : Block :=
  (b.onPort p fun q => { q with occ := code }).onMrg fun m =>
    let l := ((m.occLog.find? fun q => q.1 == x).map Prod.snd).getD []
    { m with occLog := (m.occLog.filter fun q => q.1 != x && decide (x < q.1 + 16)) ++ [(x, l ++ [(p, code)])] }

/-- The reference payload of an uplink's frame of a crossing. -/
def Block.occRef (b : Block) (u d : Nat) : Ref48 :=
  let x := d - 7
  let l := ((b.mrg.occLog.find? fun q => q.1 == x).map Prod.snd).getD []
  let ports := (b.homePortsAt x u).take 8
  BitVec.ofNat 48 ((List.range 8).map fun k =>
    (match ports[k]? with
     | some p => ((l.find? fun q => q.1 == p).map Prod.snd).getD (b.occOf p none)
     | none => 63) * 2 ^ (6 * k)).sum

/-! ### Meanings -/

/-- OVER_CONTRACT_AGED (R220): over-contract records of a port that have waited AGE_LIMIT crossings are withdrawn. -/
def Block.aged (b : Block) (p : Nat) : Block :=
  let old := fun (r : QRec) => !r.inC && !r.own && (r.group || typeOf r.word != 0x84) && decide (r.arrived + b.rs 0x203002 ≤ b.time.now)
  let l := (b.rqRecs p).filter old
  if l.isEmpty then b
  else forEach l ((b.rqUpdate p old l.length id).bump (0x210005 + 256 * p) l.length) fun q b =>
    b.portWithdrawals p (if q.throttled then 4 else 1) sitePort p q.cross 1 q.hdr

/-- OVER_CONTRACT_AGED (R220). -/
def execOverContractAged (p : Port) (s : State) : Host.Outcome State Fault Refusal :=
  s.run fun b => b.when (b.running && b.cRole) fun b => b.aged (p.val + 1)

/-- MERGE_RESYNC (R260): data-grid crossing E. -/
def execMergeResync (s : State) : Host.Outcome State Fault Refusal :=
  s.run fun b =>
    match b.time.mergeE with
    | some e => b.when (b.running && b.cRole && decide (e + b.fW ≤ b.time.now)) fun b =>
        (b.onTime fun t => { t with mergeE := none }).resyncMerge e
    | none => b

end Sys2Proof.Machine
end

