-- ==== Sys2Proof/Machine/Engine.lean ====
section
/-! DEFINITION. The compression engines at work, and one whole crossing of the merge (R219, R242, R320 to R332, R338). -/

namespace Sys2Proof.Machine

/-! ### Configuration in force (R322, R323, R338) -/

/-- A word of a queue holds a colophon. -/
def QWord.colophon (w : QWord) : Bool := w.recs.any fun r => typeOf r.word == 0x85 && !r.group

/-- COMP_CONFIG of an uplink now: the outgoing set's until the colophon of the swap boundary has gone. -/
def Block.compNow (b : Block) (u : Nat) : Nat :=
  let d := b.dataNow
  if (b.queue (upOf u)).words.any QWord.colophon then b.compAt u (d - b.slotOf d - 1) else b.compAt u d

/-- The history is cleared before the next block: a data-grid crossing whose slot is a non-zero multiple of RESTART_INTERVAL (R323). -/
def Block.compInterval (b : Block) (u cfg : Nat) : Block :=
  let i := bits cfg 14 0
  let s := b.slotOf b.dataNow
  if i ≠ 0 ∧ s ≠ 0 ∧ s % i = 0 then b.onUplink u fun k => { k with clearNext := true } else b

/-- The clearing of a history that is due, before a block. -/
def UplinkSt.cleared (k : UplinkSt) : UplinkSt :=
  if k.clearNext then { k with history := [], hash := [], pos := 0, restart := true, clearNext := false } else k

/-! ### Over-contract records one at a time (R332) -/

/-- What one item takes with it: its run header where it needs one. A group has a header of its own here. -/
def unitsFrom (p : Nat) : RunAt → List Put → List (List Put) × RunAt
  | k, [] => ([], k)
  | k, i :: t =>
    let k := match i with
      | .one _ => k
      | .group _ => { k with atHdr := false, groups := 0 }
    let r := runItem p k i
    let s := unitsFrom p r.2 t
    (setGroups ((r.1.map fun h => Put.one { word := h }).toList ++ [i.merged p]) :: s.1, s.2)

/-- Everything over-contract that waits on an uplink, in the order of R218 item 4, as (crossing of arrival, port, what it takes). -/
def Block.overUnits (b : Block) (u : Nat) : List (Nat × Nat) → Nat → RunAt → List (Nat × Nat × List Put)
  | [], _, _ => []
  | (x, p) :: t, last, k =>
    let items := itemsOf ((b.rqRecs p).filter fun r => r.arrived == x && b.overWaits u p r)
    let s := unitsFrom p (if last = p then k else {}) items
    s.1.map (fun l => (x, p, l)) ++ b.overUnits u t p s.2

/-- Leading units that fit a number of records. -/
def fitUnits (room : Nat) : List (Nat × Nat × List Put) → List (Nat × Nat × List Put)
  | [] => []
  | q :: t => if (putRecs q.2.2).length ≤ room then q :: fitUnits (room - (putRecs q.2.2).length) t else []

/-- Records of units. -/
def unitWords (l : List (Nat × Nat × List Put)) : List Word64 := l.flatMap fun q => (putRecs q.2.2).map QRec.word

/-! ### A block (R321, R329 to R332) -/

/-- The tokens of a block, where they fit in a region; and whether they verify: none, or the error. -/
def UplinkSt.encode (k : UplinkSt) (l : List Word64) : List Byte × Tab Nat :=
  encodeBlock (fun a b c d => Config.hash4 a b c d) (recordBytes l) k.history k.hash k.pos

/-- A block fits a region: its tokens are at most 40 bytes and its records at most 16 (R321, R332). -/
def UplinkSt.fits (k : UplinkSt) (l : List Word64) : Bool := decide ((k.encode l).1.length ≤ 40) && decide (l.length ≤ 16)

/-- Encoding n of the crossing verifies: none, or the error (R330). `bad` are the decodings that come out wrong. -/
def UplinkSt.verify (k : UplinkSt) (bad : List (Nat × Nat)) (n : Nat) (l : List Word64) : Option Nat :=
  match bad.find? fun e => e.1 == n with
  | some e => some e.2
  | none => verifyBlock (k.encode l).1 (recordBytes l) k.history

/-- Units offered one after another while the block with them fits; the error where it does not verify (R330, R332). -/
def UplinkSt.offer (k : UplinkSt) (bad : List (Nat × Nat)) :
    Nat → List Word64 → List (Nat × Nat × List Put) → Except Nat (List (Nat × Nat × List Put))
  | _, _, [] => .ok []
  | n, l, q :: t =>
    let l' := l ++ (putRecs q.2.2).map QRec.word
    if !k.fits l' then .ok []
    else match k.verify bad n l' with
      | some e => .error e
      | none => (k.offer bad (n + 1) l' t).map fun r => q :: r

/-- The history and the hash table after a block. -/
def UplinkSt.append (k : UplinkSt) (l : List Word64) : UplinkSt :=
  let bytes := recordBytes l
  { k with history := (bytes.reverse ++ k.history).take 4095, hash := (k.encode l).2, pos := k.pos + bytes.length, restart := false }

/-- Key of entry 60uu.e. -/
def compKey (u e : Nat) : Nat := 0x600000 + 256 * u + e

/-- Counts of a block. -/
def Block.countBlock (b : Block) (u e raw sent : Nat) (restart : Bool) : Block :=
  (((b.bump (compKey u e) 1).bump (compKey u 5) raw).bump (compKey u 6) sent).bump (compKey u 7) (flag restart)

/-- A block is sent STORED with the head's records. -/
def Block.storeBlock (b : Block) (u : Nat) (l : List Word64) : Block :=
  let k := b.uplink u
  let code := BitVec.ofNat 8 ((if k.restart then 0x28 else 0x20) + l.length)
  let b := b.countBlock u 3 (8 * l.length) (8 * l.length) k.restart
  b.onUplink u fun k => { k.append l with block := some (code, l ++ List.replicate (5 - l.length) filler) }

/-- A block fails its verification (R330, R331): each failure is a transient, whose retry is the STORED block; that fails where the next
block does. -/
def Block.verifyFailed (b : Block) (u err : Nat) : Block :=
  let site := siteId 5 u
  let n := (b.uplink u).failRun
  let b := ((b.bump (compKey u 4) 1).raise 0x90 [.id 4 u, .id 8 err, b.hereFld]).onUplink u fun k => { k with failRun := n + 1 }
  (b.transient site).when (decide (n ≠ 0)) fun b => b.retryFailed site

/-- A block verifies. -/
def Block.verifyPassed (b : Block) (u : Nat) : Block :=
  if (b.uplink u).failRun = 0 then b else (b.onUplink u fun k => { k with failRun := 0 }).retryOk (siteId 5 u)

/-- Units that a verified block has taken leave RQ, are numbered and counted. -/
def Block.takeUnits (b : Block) (u : Nat) (l : List (Nat × Nat × List Put)) : Block :=
  forEach l b fun q b =>
    let recs := putRecs q.2.2
    let n := ownWords q.2.2
    let b := (b.overTaken u q.2.1 q.1 n).notePuts q.2.1 q.2.2
    let b := forEach recs b fun r b => (b.account u r).upRaw u 1
    ((b.bump (0x210004 + 256 * q.2.1) n).bump (0x215002 + 256 * u) n).spendCredit u recs.length

/-- A compressed block: its head, the units in its padded places and those offered. -/
def Block.sendBlock (b : Block) (u : Nat) (head : List Word64) (pad more : List (Nat × Nat × List Put)) : Block :=
  let k := b.uplink u
  let l := head ++ unitWords pad ++ unitWords more
  let t := (k.encode l).1
  let b := ((b.takeUnits u pad).takeUnits u more).verifyPassed u
  let b := b.bump (0x215003 + 256 * u) (unitWords more).length
  let b := b.countBlock u 2 (8 * l.length) t.length k.restart
  let b := b.onQueue (upOf u) fun q => { q with words := match q.words with
    | w :: t => { w with recs := w.recs ++ pad.flatMap fun q => putRecs q.2.2 } :: t
    | [] => [] }
  b.onUplink u fun k => { k.append l with block := some (if k.restart then 0x28 else 0x20, regionWords (octets t 0 40)) }

/-- The block of the frame assembled in the next crossing, with its head word. -/
def Block.buildBlock (b : Block) (u : Nat) (w : QWord) : Block :=
  let b := b.onUplink u UplinkSt.cleared
  let k := b.uplink u
  let head := w.recs.map QRec.word
  let bad := (b.mrg.upsets.filter fun e => e.1 == u).map Prod.snd
  let alone := (b.queue (upOf u)).words.length == 1 && !w.colophon && !(b.queue (upOf u)).waits
  let units := if alone then b.overUnits u (b.overRuns u) 0 {} else []
  let units := match b.creditLeft u with
    | some c => fitUnits c units
    | none => units
  let pad := fitUnits (5 - head.length) units
  let l := head ++ unitWords pad
  let t := (k.encode l).1
  let b :=
    if b.reg (compKey u 8) = 1 then b.storeBlock u head
    else if 40 < t.length then b.storeBlock u head
    else match k.verify bad 0 l, k.offer bad 1 l (units.drop pad.length) with
      | some e, _ => (b.verifyFailed u e).storeBlock u head
      | none, .error e => (b.verifyFailed u e).storeBlock u head
      | none, .ok more => b.sendBlock u head pad more
  if w.colophon then b.onUplink u fun k => { k with clearNext := true } else b

/-- The engine of an uplink in one data-grid crossing (R320). -/
def Block.engine (b : Block) (u cfg : Nat) : Block :=
  let b := (b.compInterval u cfg).onUplink u fun k => { k with block := none }
  let next := b.laneQueue (b.dataNow - 6) (b.uplinkLane u) (b.slotOf (b.dataNow + 1)) == upOf u
  match (b.queue (upOf u)).words with
  | [] => b
  | w :: _ => if next && w.code != 2 then b.buildBlock u w else b

/-- Rows of one uplink, and what fills its next frame. -/
def Block.mergeUplink (b : Block) (u : Nat) (marks : List Mark) (left : List Nat) : Block :=
  let b := b.mergeRows u marks left
  let cfg := b.compNow u
  let b :=
    if cfg.testBit 31 then b.engine u cfg
    else
      let b := b.onUplink u fun k => { k with block := none, clearNext := k.clearNext || b.colophonDue }
      let room := b.overRoom u
      if room = 0 then b else (b.mergeOver u room (b.overRuns u) {} 0).qClose (upOf u)
  b.mergeBulk u

/-- One crossing of the merge, on the data grid: every uplink takes its bookmarks. -/
def Block.merge (b : Block) (left : List Nat) : Block :=
  let marks := if b.boot.released then b.marksDue else []
  (forEach (b.uplinkList ++ b.oldUplinks) b fun u b => b.mergeUplink u marks left).mergeDone

end Sys2Proof.Machine
end

