-- ==== Sys2Proof/Machine/Resets.lean ====
section
/-! DEFINITION. Resets and restarts: what each kind clears and keeps (R405, R423, R449 to R454). -/

namespace Sys2Proof.Machine

/-! ### Sessions and controllers (R405, R408, R423, R519) -/

/-- A session ends: its transfers end without a response, the check-value units it owns are released. Causes: 1 logout, 2 timeout,
3 restart. -/
def Block.endSession (b : Block) (x : Session) (cause : Nat) : Block :=
  let b := b.onDict fun d => { d with
    sessions := d.sessions.filter fun y => decide (y ≠ x),
    transfers := d.transfers.filter fun t => !(decide (t.hdr.origin = x.origin) && t.hdr.session == x.number) }
  (b.cvuSessionEnd x.origin x.number).raise 0xD3 [.id 7 x.number, .id 8 cause]

/-- Every session ends with a restart. -/
def Block.endSessions (b : Block) : Block := forEach b.dict.sessions b fun x b => b.endSession x 3

/-- A controller as it starts: listening only, at the rates of its entries. -/
def Block.freshCan (b : Block) (bus : Nat) : CanCtl :=
  { state := flag ((b.reg 0x105001).testBit bus), listen := true, arb := b.reg 0x105002, data := b.reg 0x105003 }

/-- Both controllers start. -/
def Block.startCan (b : Block) : Block := b.onDict fun d => { d with canA := b.freshCan 0, canB := b.freshCan 1 }

/-- A download that the C-role delivers on its own account is given up. -/
def ownDownload (x : Proxy) : Bool := decide (x.hdr.origin = .proxiedUnit) && x.index == 0x2020

/-- The parsers of in-band messages start again; transfers with workers, which have had a first answer, end. -/
def Block.resetParsers (b : Block) : Block :=
  (b.onDict fun d => { d with bulkIn := {} }).onMrg fun m => { m with ports := m.ports.map fun p =>
    (p.1, { p.2 with asm := {}, bulk := {}, proxies := p.2.proxies.filter fun x => !ownDownload x && !x.answered }) }

/-- A communication restart: it ends every session, transfer and pending pair write, and stops nothing else. -/
def Block.commRestart (b : Block) : Block :=
  ((b.endSessions.onDict fun d => { d with transfers := [], pairs := [] }).resetParsers).startCan

/-! ### What survives (R452) -/

/-- The flash is identified anew at the next fuse load. -/
def Flash.unread (f : Flash) : Flash := { f with capacity := 0, present := false, error := false }

/-- A site keeps its transients; a permanent fault that has not been retired is kept with the fault log. -/
def Site.after (k : Site) (pin : Bool) : Site := { k with fails := 0, state := if k.state = 1 ∧ !pin then 0 else k.state }

/-- The sites that are still worth an entry. -/
def sitesAfter (t : Tab Site) (pin : Bool) : Tab Site := t.map fun p => (p.1, p.2.after pin)

/-- The device after a power-on reset, with the straps sampled. -/
def Block.poweredOn (b : Block) (roleSel twinId : Bool) : Block :=
  { fuses := b.fuses, flash := b.flash.unread, free := b.free,
    boot := { phase := .fuseLoad, roleC := roleSel, unitB := twinId, cause := 1 } }

/-- What a pin reset and a device restart both leave. -/
def Block.restarted (b : Block) (pin : Bool) (boot : Boot) : Block :=
  { fuses := b.fuses, flash := b.flash.unread, jtag := b.jtag, free := b.free, boot := boot, time := { now := b.time.now },
    ev := { ring := b.ev.ring },
    env := { chans := (b.env.chans.filter fun p => p.2.outside).map fun p => (p.1, { outside := true }) },
    flt := { sites := sitesAfter b.flt.sites pin, list := b.flt.list, unsaved := b.flt.unsaved, workers := b.flt.workers,
             log := if pin then b.flt.log else [], excluded := b.flt.excluded } }

/-- The pin reset begins. -/
def Block.pinReset (b : Block) : Block :=
  let b := b.endSessions
  b.restarted true { phase := .pinReset, roleC := b.boot.roleC, unitB := b.boot.unitB, cause := 2 }

/-- A device restart: coefficients, bin trims, CTLE settings and DFE taps are kept. Cause 3, or 4 at thermal recovery. -/
def Block.deviceRestart (b : Block) (cause : Nat) : Block :=
  let b := b.endSessions
  let r := b.restarted false { phase := .fuseLoad, roleC := b.boot.roleC, unitB := b.boot.unitB, cause := cause }
  { r with
    adc := { slices := b.adc.slices.map fun p => (p.1, { p.2 with fails := 0, metaRun := 0 }), carrel := b.adc.carrel,
             initial := b.adc.initial },
    bin := { trims := b.bin.trims },
    frm := { lanes := b.frm.lanes.map fun p => (p.1, { ctle := p.2.ctle, dfe := p.2.dfe }) } }

/-- Both halves of every lane go Off, but for those retired. -/
def Block.lanesOff (b : Block) : Block :=
  let off := fun (h : Half) => if h = .retired then h else Half.off
  b.onFrm fun t => { t with lanes := t.lanes.map fun p => (p.1, { p.2 with tx := off p.2.tx, rx := off p.2.rx, step := 0 }) }

/-- Thermal shutdown: lanes Off, the core on the fallback oscillator (R450). -/
def Block.shutDown (b : Block) : Block :=
  ((b.lanesOff.onBoot fun k => { k with phase := .shutdown }).onTime fun t => { t with locked := false, everLocked := false }).outsLow

/-! ### Subsystem resets (R453, R454) -/

/-- For how many crossings a block resets. -/
def resetLength (blk : Nat) : Nat :=
  if blk = 1 then 2048 else if 2 ≤ blk ∧ blk ≤ 4 then 16 else if blk = 9 then 64 else 1

/-- A block is gated in the role. -/
def gated (cRole : Bool) (blk : Nat) : Bool := if blk = 1 then cRole else if blk = 6 ∨ blk = 7 then !cRole else false

/-- Requests to the block that are queued or executing abort, pair writes that wait for their orbit with them. -/
def Block.resetAborts (b : Block) (blk : Nat) : Block :=
  let pend := b.dict.pend.filter fun p => blockOf (p.key / 256) == blk
  let pairs := b.dict.pairs.filter fun p => blockOf p.index == blk
  let moves := b.dict.transfers.filter fun t => t.hdr.path == 0 && blockOf t.index == blk
  let b := b.onDict fun d => { d with
    pend := d.pend.filter fun p => blockOf (p.key / 256) != blk,
    pairs := d.pairs.filter fun p => blockOf p.index != blk,
    transfers := d.transfers.filter fun t => !(t.hdr.path == 0 && blockOf t.index == blk) }
  let b := forEach pend b fun p b => if p.silent then b else b.refuseKey p.hdr p.key 0x0A
  let b := forEach pairs b fun p b => b.abort p.hdr p.index p.sub 0x0A
  forEach moves b fun t b => b.abort t.hdr t.index t.sub 0x0A

/-- Uploads of the block's that its reset cuts off: replies formed and not yet sent. -/
def Block.resetDiscards (b : Block) (blk : Nat) : Nat :=
  (b.dict.transfers.filter fun t => t.hdr.path == 0 && t.up && blockOf t.index == blk).length

/-- Block 01: its counters, and every channel settles. -/
def Block.resetChannels (b : Block) : Block :=
  let b := b.clearCounters ((resyncCounters.filter fun q => blockOf q.1 == 1) ++ [(0x3020, 0x3020, 4, 4)])
  (forEach (List.range 256) b fun c b => if b.chRetired c then b else b.settleFrom c b.time.now).remask

/-- Block 02: stamp queues, running campaigns, counters. -/
def Block.resetEdges (b : Block) : Block :=
  let b := b.emptyStamps.campaignAbort.onTime fun t => { t with campaigns := [] }
  b.clearCounters (resyncCounters.filter fun q => blockOf q.1 == 2)

/-- Block 03: pending pairs are abandoned, the regular list and the run start again. -/
def Block.resetConverters (b : Block) : Block :=
  let taken := (b.adc.bound.filter fun x => !x.2.2.2).map fun x => x.2.2.1
  let b := forEach (b.adc.pairs ++ taken) b fun p b => if p.kept || p.cap then b.pairAbandoned p else b
  (b.onAdc fun a => { a with
    pairs := [], bound := [], regRetry := [], restart := some (0, b.time.now), newCoef := none }).startRun b.adc.carrel

/-- A channel without its closed entries and its baselines. -/
def Chan.unclassified (k : Chan) : Chan :=
  { k with entries := k.entries.filter fun e => e.closed.isNone, bHG := 0, nHG := 0, bLG := 0, nLG := 0 }

/-- Block 04: closed entries not yet classified, baselines, the accepts' history. -/
def Block.resetClassification (b : Block) : Block :=
  let n := (b.chans.map fun p => (p.2.entries.filter fun e => e.closed.isSome).length).sum
  let b : Block := { b with chans := b.chans.map fun (p : Nat × Chan) => (p.1, p.2.unclassified) }
  let b := b.onAdc fun a => { a with samples := [] }
  (b.bump 0x101408 n).onAcc fun a => { a with recent := [], waiting := [], forcedDue := false, lastFwd := b.time.now }

/-- Block 07: histories. -/
def Block.resetCompression (b : Block) : Block :=
  b.onMrg fun m => { m with uplinks := m.uplinks.map fun p =>
    (p.1, { p.2 with history := [], hash := [], pos := 0, restart := true, clearNext := false }) }

/-- Block 08: every unit IDLE; the fixed engines give the answers that they gave at fuse load. -/
def Block.resetCvus (b : Block) : Block := ({ b with cvus := [] }).engineTest (b.reg 0x644001) (b.reg 0x644002)

/-- Block 09: samples, filters, ranges; the outputs stand low. -/
def Block.resetEnvironment (b : Block) : Block :=
  (b.onEnv fun v => { v with chans := v.chans.map fun p =>
    (p.1, { p.2 with range := bits (b.envConfig p.1) 24 22, samples := [], mean := 0, y := 0, valid := false, settling := false,
                     tempInvalid := false, beyond := false, supply := false }) }).outsLow

/-- What a block clears. -/
def Block.resetEffect (b : Block) (blk : Nat) : Block :=
  match blk with
  | 1 => b.resetChannels
  | 2 => b.resetEdges
  | 3 => b.resetConverters
  | 4 => b.resetClassification
  | 5 => b.resyncStacks
  | 6 => b.resyncMerge b.dataNow
  | 7 => b.resetCompression
  | 8 => b.resetCvus
  | _ => b.resetEnvironment

/-- The reset of a block begins. -/
def Block.beginReset (b : Block) (blk : Nat) : Block :=
  let n := b.resetDiscards blk
  let b := (b.resetAborts blk).bump 0x101408 n
  let b := b.onBoot fun k => { k with resetting := tabSet k.resetting blk (b.time.now + resetLength blk), discards := tabSet k.discards blk n }
  (b.resetEffect blk).raise 0x0E [.id 4 blk, .id 1 1, .cnt 16 n]

/-- The reset of a block ends; before the first lock, when no crossing is counted, at once. -/
def Block.endReset (b : Block) (blk : Nat) : Block :=
  match tabFind b.boot.resetting blk with
  | some x =>
    if x ≤ b.time.now ∨ !b.time.everLocked then
      let n := tabGet 0 b.boot.discards blk
      (b.onBoot fun k => { k with resetting := tabDel k.resetting blk, discards := tabDel k.discards blk }).raise 0x0E
        [.id 4 blk, .id 1 0, .cnt 16 n]
    else b
  | none => b

/-! ### Requests, and what falls due at the end of their crossing (R423) -/

/-- A write to 1012.SS. -/
def Block.subsystemWrite (b : Block) (h : Hdr) (blk v : Nat) : Block :=
  let key := 0x101200 + blk
  if gated b.cRole blk then b.refuseKey h key 0x02
  else if v ≠ 1 then b.refuseKey h key 0x07
  else if (tabFind b.boot.resetting blk).isSome ∨ b.boot.resetDue.contains blk then b.refuseKey h key 0x08
  else (b.ack h key).onBoot fun k => { k with resetDue := k.resetDue ++ [blk] }

/-- A write to 1011.01 or 1011.02. -/
def Block.restartWrite (b : Block) (h : Hdr) (sub v : Nat) : Block :=
  let key := 0x101100 + sub
  if v ≠ (if sub = 1 then 0x424F4F54 else 0x434F4D4D) then b.refuseKey h key 0x07
  else (b.ack h key).onBoot fun k => { k with restartDue := max k.restartDue (if sub = 1 then 2 else 1) }

/-- Subsystem resets and a communication restart that act at the end of the crossing. A device restart is the boundary's own. -/
def Block.resetsDue (b : Block) : Block :=
  let l := b.boot.resetDue
  let c := b.boot.restartDue
  let b := forEach l (b.onBoot fun k => { k with resetDue := [], restartDue := if c = 1 then 0 else c }) fun blk b => b.beginReset blk
  if c = 1 then b.commRestart else b

/-! ### Meanings -/

/-- POWER_ON_RESET (R449): its end, when the straps are sampled (R14). -/
def execPowerOnReset (roleSel twinId : Bool) (s : State) : Host.Outcome State Fault Refusal := s.run fun b => b.poweredOn roleSel twinId

/-- PIN_RESET (R449): the falling edge of RST_N. -/
def execPinReset (s : State) : Host.Outcome State Fault Refusal :=
  s.run fun b => b.when (decide (b.boot.phase ≠ .powerReset)) fun b => b.pinReset

/-- RST_N_RISE (R14, R449): the pin reset ends and the straps are sampled. -/
def execRstNRise (roleSel twinId : Bool) (s : State) : Host.Outcome State Fault Refusal :=
  s.run fun b => b.when (decide (b.boot.phase = .pinReset)) fun b =>
    b.onBoot fun k => { k with phase := .fuseLoad, roleC := roleSel, unitB := twinId }

/-- DEVICE_RESTART (R423). -/
def execDeviceRestart (h : Hdr) (key : BitVec 32) (s : State) : Host.Outcome State Fault Refusal :=
  s.run fun b => b.writeTo h 0x101101 4 fun b => b.restartWrite h 1 key.toNat

/-- COMM_RESTART (R423). -/
def execCommRestart (h : Hdr) (key : BitVec 32) (s : State) : Host.Outcome State Fault Refusal :=
  s.run fun b => b.writeTo h 0x101102 4 fun b => b.restartWrite h 2 key.toNat

/-- SUBSYSTEM_RESET (R423, R453). -/
def execSubsystemReset (h : Hdr) (sub : BitVec 8) (value : BitVec 8) (s : State) : Host.Outcome State Fault Refusal :=
  s.run fun b => b.writeTo h (0x101200 + sub.toNat) 1 fun b => b.subsystemWrite h sub.toNat value.toNat

/-- SUBSYSTEM_RESET_END (R453). -/
def execSubsystemResetEnd (block : Fin 9) (s : State) : Host.Outcome State Fault Refusal :=
  s.run fun b => b.endReset (block.val + 1)

end Sys2Proof.Machine
end

