-- ==== Sys2Proof/Machine/Dictionary.lean ====
section
/-! DEFINITION. Requests of the object dictionary: writes by access code, reads, segmented transfers, the catalogue, sessions, the
pair address, keeps (R230, R390 to R407, R419 to R423, R429). -/

namespace Sys2Proof.Machine

/-! ### Keeps (R422) -/

/-- Persistent entries: what a keep copies. The preferred slot stands in the boot record. -/
def persistent (key : Nat) : Bool :=
  key != 0x101503 && (match descOf (key / 256) (key % 256) with
    | some d => d.keep
    | none => false)

/-- The values of the persistent entries that differ from their defaults. -/
def Block.persistents (b : Block) : Tab Nat := b.dict.regs.filter fun p => persistent p.1

/-- A write to 1010.01. -/
def Block.keepWrite (b : Block) (h : Hdr) (v : Nat) : Block :=
  if v ≠ 0x4B454550 then b.refuseKey h 0x101001 0x07
  else if b.dict.keeping.isSome ∨ b.downloading ∨ b.flashWriting then b.refuseKey h 0x101001 0x08
  else if !b.hasFlash then b.refuseKey h 0x101001 0x19
  else (b.setReg 0x101003 1).onDict fun d => { d with keeping := some (h, 0, []) }

/-- At the crossing boundary after the keep the values are taken. -/
def Block.keepCapture (b : Block) (silent : Bool) : Block :=
  match b.dict.keeping with
  | some (h, 0, _) => b.onDict fun d => { d with keeping := some (h, if silent then 2 else 1, b.persistents) }
  | some (h, 3, _) => b.onDict fun d => { d with keeping := some (h, 2, b.persistents) }
  | _ => b

/-- The copy is sealed in the place that is not the latest. -/
def Flash.keep (f : Flash) (t : Tab Nat) : Flash :=
  if f.latest = 0 then { f with keep1 := some t, latest := 1 } else { f with keep0 := some t, latest := 0 }

/-- The flash has finished with a keep. -/
def Block.keepDone (b : Block) (h : Hdr) (silent : Bool) (t : Tab Nat) (ok : Bool) : Block :=
  let b := b.onDict fun d => { d with keeping := none }
  if ok then
    let b := ((b.onFlash fun f => f.keep t).bump 0x101004 1).setReg 0x101003 2
    let b := b.raise 0xD6 [.cnt 32 (b.reg 0x101004)]
    if silent then b else b.ack h 0x101001
  else
    let b := (b.setReg 0x101003 3).raise 0xD7 [.id 8 b.freeVal.toNat]
    if silent then b.freeNext else b.freeNext.refuseKey h 0x101001 0x1A

/-- A write to 1010.02: both copies are erased. -/
def Block.forgetWrite (b : Block) (h : Hdr) (v : Nat) : Block :=
  if v ≠ 0x44464C54 then b.refuseKey h 0x101002 0x07
  else (b.onFlash fun f => { f with keep0 := none, keep1 := none }).ack h 0x101002

/-! ### Commands of WO entries -/

/-- A flag of a WO entry that acts on 1 alone. -/
def Block.flagWrite (b : Block) (h : Hdr) (key v : Nat) (f : Block → Block) : Block :=
  if 1 < v then b.refuseKey h key 0x07 else (if v = 1 then f b else b).ack h key

/-- A write to 2820.04: a request for a switch (R50). One that is refused aborts. -/
def Block.switchWrite (b : Block) (h : Hdr) (v : Nat) : Block :=
  if 1 < v then b.refuseKey h 0x282004 0x07
  else if (b.dom v).state = .qualified then (b.requestSwitch v).ack h 0x282004
  else (b.requestSwitch v).refuseKey h 0x282004 0x07

/-- The verdict on an image too short to be one. -/
def noVerdict : Verdict := default

/-- A download to 2020.01 has landed: its verification begins (R231). -/
def Block.stage (b : Block) (h : Hdr) (image : List Byte) : Block :=
  b.onSets fun s => { s with staging := .verifying, image := image, by_ := some (h, false) }

/-- A download may start on an entry (R231, R436). -/
def Block.downloadBusy (b : Block) (key : Nat) : Bool :=
  if key = 0x202001 then b.sets.armed.isSome || b.downloading || b.flashWriting || b.dict.keeping.isSome
  else if key = 0x101505 then b.downloading || b.flashWriting || b.dict.keeping.isSome
  else b.transferOn (key / 256) (key % 256)

/-- An image written to 1015.05 is verified and goes to the slot that is not preferred (R436). -/
def Block.folioWrite (b : Block) (h : Hdr) (image : List Byte) (v : Verdict) : Block :=
  if b.downloadBusy 0x101505 then b.refuseKey h 0x101505 0x08
  else if !b.hasFlash then b.refuseKey h 0x101505 0x19
  else
    let r := b.folioVerify image v
    match r.1 with
    | .error _ => r.2.refuseKey h 0x101505 0x1B
    | .ok c => r.2.onBoot fun k => { k with bootWriteSlot := some (image, c.folio.serial), bootWriteBy := some (h, 1 - b.flash.preferred, false) }

/-- A write of a WO entry, by the entry. -/
def Block.woWrite (b : Block) (h : Hdr) (key : Nat) (l : List Byte) : Block :=
  let v := natLE l
  let i := key / 256
  if i = 0x1012 then b.subsystemWrite h (key % 256) v
  else if 0x6400 ≤ i ∧ i ≤ 0x640F then
    if key % 256 = 6 then b.cvuControl h (i - 0x6400) v else b.cvuData h (i - 0x6400) l fun b => b.ack h key
  else match key with
    | 0x101001 => b.keepWrite h v
    | 0x101002 => b.forgetWrite h v
    | 0x101101 => b.restartWrite h 1 v
    | 0x101102 => b.restartWrite h 2 v
    | 0x101505 => b.folioWrite h l noVerdict
    | 0x103002 => (b.setReg key v).ack h key
    | 0x103003 => (b.setReg key v).ack h key
    | 0x202001 => if b.downloadBusy key then b.refuseKey h key 0x08 else b.stage h l
    | 0x282004 => b.switchWrite h v
    | 0x400106 => b.flagWrite h key v fun b => b.binRestart
    | 0x401008 => b.flagWrite h key v fun b => b.campaignAbort
    | 0x6C1001 => b.restoreWrite h v
    | 0x6C1002 => b.retireWrite h v
    | 0x6C1003 => b.clearLog h v
    | 0x780003 => b.flagWrite h key v fun b => b.onEv fun e => { e with ring := [] }
    | 0x7C1002 => b.commitRollback h v []
    | 0x7C2004 => b.ownerUpdate h l noVerdict []
    | 0x7C2005 => b.firstKey h l []
    | 0x7C3001 => b.keepToken h l
    | 0x7C5001 => b.attestRequest h l
    | _ => b.ack h key

/-- A write of an entry, by its access code. -/
def Block.entryWrite (b : Block) (h : Hdr) (d : Desc) (key : Nat) (l : List Byte) : Block :=
  match d.access with
  | .rs => b.rsWrite h d key (natLE l)
  | .rw => b.rwWrite h d key (natLE l)
  | _ => b.woWrite h key l

/-- A write to the device itself: its access is judged, then its length. -/
def Block.writeEntry (b : Block) (h : Hdr) (key : Nat) (l : List Byte) : Block :=
  b.writeTo h key l.length fun b =>
    match b.entryOf (key / 256) (key % 256) with
    | some d => b.entryWrite h d key l
    | none => b

/-- The meaning of a row that writes entries of one access code alone. -/
def Block.writeOf (b : Block) (h : Hdr) (a : Access) (key : Nat) (l : List Byte) : Block :=
  b.writeTo h key l.length fun b =>
    match b.entryOf (key / 256) (key % 256) with
    | some d => if d.access = a then b.entryWrite h d key l else b
    | none => b

/-! ### The pair address (R419, R420) -/

/-- The last reply that a request has brought is an ABORT. -/
def refusedSince (old new : Block) : Bool :=
  match (new.dict.replies.drop old.dict.replies.length).getLast? with
  | some r => r.op == 0x87
  | none => false

/-- A write to the pair address: RS entries are written when it executes, any other waits for orbit APPLY. A write that would abort does
so at once. -/
def Block.pairWrite (b : Block) (h : Hdr) (idx sub : Nat) (body : List Byte) : Block :=
  let key := idx * 256 + sub
  let apply := natLE (body.take 6)
  let l := body.drop 6
  let now := b.writeEntry h key l
  let rs := (b.entryOf idx sub).any fun d => decide (d.access = .rs)
  if body.length < 6 then b.abort h idx sub 0x06
  else if refusedSince b now ∨ rs then now
  else if !b.inTime apply then (b.raise 0xD8 [.id 48 apply, .id 24 key]).abort h idx sub 0x18
  else if 8 ≤ b.dict.pairs.length then b.abort h idx sub 0x08
  else (b.onDict fun d => { d with pairs := d.pairs ++ [⟨apply, h, idx, sub, l⟩] }).ack h key

/-- A write whose response has left acts in full, and at this boundary. -/
def Block.actMuted (b : Block) (h : Hdr) (key : Nat) (l : List Byte) : Block :=
  let old := b.dict.pend.length
  let b := (b.onDict fun d => { d with mute := true }).writeEntry h key l
  let new := b.dict.pend.drop old
  let b := b.onDict fun d => { d with pend := d.pend.take old }
  let b := forEach new b fun p b => b.takeWrite p.hdr p.key p.value
  (b.keepCapture true).onDict fun d => { d with mute := false }

/-- Restarts and resets that fall due, a device restart last. -/
def Block.restartsNow (b : Block) : Block :=
  let b := b.resetsDue
  if b.boot.restartDue = 2 then b.deviceRestart 3 else b

/-- The orbit of pending pair writes begins. -/
def Block.pairApply (b : Block) : Block :=
  let due := b.dict.pairs.filter fun p => decide (p.apply ≤ b.time.orbit)
  if due.isEmpty then b
  else
    let b := b.onDict fun d => { d with pairs := d.pairs.filter fun p => !decide (p.apply ≤ b.time.orbit) }
    (forEach due b fun p b => b.actMuted p.hdr (p.index * 256 + p.sub) p.body).restartsNow

/-! ### Requests with a PATH (R416) -/

/-- A request is the device's own, or the proxy's; an F-role has no ports. -/
def Block.route (b : Block) (h : Hdr) (op idx sub arg : Nat) (body : List Byte) (own : Block → Block) : Block :=
  b.receive h fun b =>
    if h.path = 0 then own b
    else if b.cRole then b.proxyRequest h op idx sub arg body
    else b.abort h idx sub 0x14

/-- A WRITE message. -/
def Block.writeMsg (b : Block) (h : Hdr) (idx sub : Nat) (body : List Byte) : Block :=
  if h.path = 0 ∧ !h.pair then b.writeEntry h (idx * 256 + sub) body
  else b.route h 0x02 idx sub body.length body fun b => b.pairWrite h idx sub body

/-! ### Segmented transfers (R401, R402) -/

/-- Bytes of a segment on an origin's path. -/
def segmentSize (o : Origin) : Nat := if onCan o then 60 else 64

/-- A device message of the short form. -/
def Block.short (b : Block) (o : Origin) (op tag n : Nat) (body : List Byte) : Block :=
  b.sendReply { origin := o, op := op, path := 0, tag := tag, session := 0, index := n, sub := 0, arg := 0, body := body }

/-- Change a transfer. -/
def Block.setTransfer (b : Block) (t u : Transfer) : Block :=
  b.onDict fun d => { d with transfers := d.transfers.map fun x => if x = t then u else x }

/-- End a transfer. -/
def Block.dropTransfer (b : Block) (t : Transfer) : Block :=
  b.onDict fun d => { d with transfers := d.transfers.filter fun x => decide (x ≠ t) }

/-- The transfer of an origin and tag at the device itself. -/
def Block.transferOf (b : Block) (o : Origin) (tag : Nat) (up : Bool) : Option Transfer :=
  b.dict.transfers.find? fun t => t.hdr.path == 0 && decide (t.hdr.origin = o) && t.hdr.tag.toNat == tag && t.up == up

/-- Up to 16 segments of an upload from the first unacknowledged one. -/
def Block.sendUpload (b : Block) (t : Transfer) : Block :=
  let n := min 16 ((t.data.length + t.size - 1) / t.size)
  let b := forEach (List.range n) b fun k b =>
    b.short t.hdr.origin 0x04 t.hdr.tag.toNat ((t.base + k) % 256) ((t.data.drop (t.size * k)).take t.size)
  b.setTransfer t { t with unacked := n }

/-- An upload of a value longer than 56 bytes. -/
def Block.startUpload (b : Block) (h : Hdr) (idx sub : Nat) (v : List Byte) : Block :=
  if b.transferOn idx sub then b.abort h idx sub 0x08
  else
    let t : Transfer := { hdr := h, index := idx, sub := sub, up := true, total := v.length, data := v, size := segmentSize h.origin, base := 0,
                          next := 0, unacked := 0 }
    ((b.reply h 0x05 idx sub 0 (bytesLE 4 v.length)).onDict fun d => { d with transfers := d.transfers ++ [t] }).sendUpload t

/-- A READ of the device's own entry. -/
def Block.readEntry (b : Block) (h : Hdr) (idx sub : Nat) : Block :=
  match b.access h idx sub false with
  | .error c => b.abort h idx sub c
  | .ok d =>
    let v := b.valueBytes h d (idx * 256 + sub)
    if v.length ≤ 56 then b.reply h 0x01 idx sub v.length v else b.startUpload h idx sub v

/-- Entries whose downloads are executed by a command of their own, which brings what outside algorithms say of the image. -/
def judgedEntry (key : Nat) : Bool := key == 0x101505 || key == 0x7C2004

/-- A download has landed, and is executed. -/
def Block.landDownload (b : Block) (t : Transfer) : Block :=
  let key := t.index * 256 + t.sub
  let i := key / 256
  if judgedEntry key then b
  else
    let b := b.dropTransfer t
    if key = 0x202001 then b.stage t.hdr t.data
    else if key = 0x7C3001 then b.keepToken t.hdr t.data
    else if 0x6400 ≤ i ∧ i ≤ 0x640F then b.cvuData t.hdr (i - 0x6400) t.data fun b => b.landed t.hdr key
    else match b.entryOf i t.sub with
      | some d => (b.onDict fun d => { d with landings := d.landings ++ [t.hdr] }).entryWrite t.hdr d key t.data
      | none => b

/-- A DOWNLOAD to the device's own entry. -/
def Block.startDownload (b : Block) (h : Hdr) (idx sub n : Nat) : Block :=
  match b.access h idx sub true with
  | .error c => b.abort h idx sub c
  | .ok d =>
    if lengthCode d n ≠ 0 then b.abort h idx sub (lengthCode d n)
    else if b.downloadBusy (idx * 256 + sub) ∨ b.transferOn idx sub then b.abort h idx sub 0x08
    else
      let t : Transfer := { hdr := h, index := idx, sub := sub, up := false, total := n, data := [], size := 0, base := 0, next := 0,
                            unacked := 0 }
      let b := (b.reply h 0x03 idx sub 0 []).onDict fun d => { d with transfers := d.transfers ++ [t] }
      if n = 0 then b.landDownload t else b

/-- A segment has the length that its place asks for. -/
def Transfer.fits (t : Transfer) (data : List Byte) : Bool :=
  let left := t.total - t.data.length
  let first := t.next == 0 && t.data.isEmpty
  let full := if onCan t.hdr.origin then data.length == 60
              else if first then data.length % 8 == 0 && decide (data.length ≤ 4096) && data != [] else data.length == t.size
  if data.length < left then full else true

/-- The segment that was expected. -/
def Block.takeSegment (b : Block) (t : Transfer) (data : List Byte) : Block :=
  if !t.fits data then (b.dropTransfer t).abort t.hdr t.index t.sub 0x06
  else
    let got := t.data ++ data.take (t.total - t.data.length)
    let done := decide (t.total ≤ got.length)
    let u := { t with data := got, size := if t.next = 0 ∧ t.data.isEmpty then data.length else t.size, next := t.next + 1,
                      unacked := if t.unacked = 15 ∨ done then 0 else t.unacked + 1 }
    let b := b.setTransfer t u
    let b := if t.unacked = 15 ∨ done then b.short t.hdr.origin 0x06 t.hdr.tag.toNat (u.next % 256) [] else b
    if done then b.landDownload u else b

/-- A SEGMENT of the device's own transfer: one past a gap is discarded, and the first missing one is acknowledged. -/
def Block.segmentOwn (b : Block) (t : Transfer) (seq : Nat) (data : List Byte) : Block :=
  let ahead := (seq + 256 - t.next % 256) % 256
  if t.total ≤ t.data.length ∧ t.data ≠ [] then b.short t.hdr.origin 0x06 t.hdr.tag.toNat (t.next % 256) []
  else if ahead = 0 then b.takeSegment t data
  else if ahead < 16 ∨ 240 ≤ ahead then (b.setTransfer t { t with unacked := 0 }).short t.hdr.origin 0x06 t.hdr.tag.toNat (t.next % 256) []
  else (b.dropTransfer t).abort t.hdr t.index t.sub 0x0C

/-- The header of an ABORT that answers a short message. -/
def shortHdr (o : Origin) (tag : BitVec 8) : Hdr := { origin := o, pair := false, path := 0, tag := tag, session := 0 }

/-- A short message is heard as any other, and ends no transaction. -/
def Block.receiveShort (b : Block) (o : Origin) (f : Block → Block) : Block :=
  if b.hears (shortHdr o 0) then f b
  else if b.running ∧ !onCan o then b.bump 0x104005 1
  else b

/-- A SEGMENT message. -/
def Block.segment (b : Block) (o : Origin) (tag : BitVec 8) (seq : Nat) (data : List Byte) : Block :=
  b.receiveShort o fun b =>
    match b.transferOf o tag.toNat false with
    | some t => b.segmentOwn t seq data
    | none =>
      match b.proxyByTag o tag.toNat with
      | some _ => b.relayShort o tag.toNat fun t => segmentBytes t seq data
      | none => b.abort (shortHdr o tag) 0 0 0x0C

/-- A SEGMENT_ACK message: the sender goes on, or resends, from NEXT. -/
def Block.segmentAck (b : Block) (o : Origin) (tag : BitVec 8) (next : Nat) : Block :=
  b.receiveShort o fun b =>
    match b.transferOf o tag.toNat true with
    | some t =>
      let k := (next + 256 - t.base % 256) % 256
      if t.unacked < k then (b.dropTransfer t).abort t.hdr t.index t.sub 0x0C
      else
        let u := { t with data := t.data.drop (t.size * k), base := t.base + k, next := t.base + k }
        if u.data.isEmpty then b.dropTransfer t else (b.setTransfer t u).sendUpload u
    | none =>
      match b.proxyByTag o tag.toNat with
      | some _ => b.relayShort o tag.toNat fun t => ackBytes t next
      | none => b.abort (shortHdr o tag) 0 0 0x0C

/-- An ABORT message ends the transaction of its TAG; one for a worker's goes on to the worker. It is not answered. -/
def Block.abortMsg (b : Block) (h : Hdr) (code : Nat) : Block :=
  if !b.hears h then (if b.running ∧ !onCan h.origin then b.bump 0x104005 1 else b)
  else
    let b := match b.proxyByTag h.origin h.tag.toNat with
      | some (p, x) => b.toWorker p (forwardOrigin h.origin) (proxyBytes 0x07 x.tag h.session x.index x.sub 0 (bytesLE 4 code))
      | none => b
    b.freshTag h

/-! ### The catalogue (R403) -/

/-- Types that a descriptor describes by a capacity and with no number for a default. -/
def wordless (t : DType) : Bool := t == .text || t == .domain || t == .octets

/-- Entries whose tables give the default as "from folio" or "fused". -/
def presentDefault (key : Nat) : Bool :=
  let i := key / 256
  [0x100003, 0x100004, 0x101601, 0x102002, 0x102005, 0x203001, 0x203003, 0x280003, 0x284103, 0x4A0006, 0x580201, 0x7C1001, 0x7C2001,
    0x7C2002, 0x7C5004].contains key ||
  (decide (0x2101 ≤ i ∧ i ≤ 0x2120) && key % 256 == 1) ||
  (decide (0x4420 ≤ i ∧ i ≤ 0x4440) && (key % 256 == 3 || key % 256 == 4)) ||
  (decide (0x5201 ≤ i ∧ i ≤ 0x5220) && (key % 256 == 2 || key % 256 == 3)) ||
  (decide (0x5900 ≤ i ∧ i ≤ 0x5927) && key % 256 == 6) ||
  (decide (0x6001 ≤ i ∧ i ≤ 0x600C) && key % 256 == 1)

/-- The default that a descriptor gives: the present value where it comes from a folio or from fuses (R403). -/
def Block.catalogueDefault (b : Block) (h : Hdr) (d : Desc) (key : Nat) : Nat :=
  if wordless d.type then 0
  else if d.access = .co || presentDefault key then b.readNat h d key
  else b.defaultOf b.active key

/-- The descriptor of an entry. -/
def Block.descriptor (b : Block) (h : Hdr) (d : Desc) (idx sub : Nat) : List Byte :=
  bytesLE 1 (typeCode d.type) ++ bytesLE 1 (accessCode d.access) ++ bytesLE 1 d.level ++
    bytesLE 1 (flag d.keep + 2 * flag (b.inRole d idx)) ++ bytesLE 4 d.size ++ bytesLE 8 (b.catalogueDefault h d (idx * 256 + sub))

/-- A CATALOGUE request: an entry that is gated in the role is described. -/
def Block.catalogueEntry (b : Block) (h : Hdr) (idx sub : Nat) : Block :=
  match b.levelOf h, b.entryOf idx sub with
  | none, _ => b.abort h idx sub 0x0E
  | _, none => b.abort h idx sub 0x01
  | some lvl, some d =>
    if d.level = 4 ∧ lvl < 4 then b.abort h idx sub 0x01
    else if b.resetting idx then b.abort h idx sub 0x0A
    else b.reply h 0x08 idx sub 16 (b.descriptor h d idx sub)

/-! ### Sessions (R405 to R407) -/

/-- A code for an origin in messages: 0 CANA, 1 CANB, 2 in band. -/
def originField : Origin → Nat
  | .canA _ => 0
  | .canB _ => 1
  | _ => 2

/-- Crossings in 60 s at the measured frequency. -/
def Block.minute (b : Block) : Nat := 60 * b.time.fx / 1000

/-- A crossing lies within the last 60 s; before a frequency has been measured every one does. -/
def Block.lately (b : Block) (x : Nat) : Bool := b.time.fx == 0 || decide (b.time.now ≤ x + b.minute)

/-- A failed login: the fifth in a row within 60 s locks every login out. -/
def Block.loginFailed (b : Block) (h : Hdr) (level : Nat) : Block :=
  let l := (b.dict.fails ++ [b.time.now]).drop (b.dict.fails.length - 4)
  let b := ((b.bump 0x103005 1).raise 0xD1 [.id 3 level, .id 8 (originField h.origin)]).onDict fun d => { d with fails := l }
  let lock := decide (5 ≤ l.length) && b.lately (l.headD 0)
  let b := b.when lock fun b => (b.onDict fun d => { d with lockout := true, fails := [] }).raise 0xD2 [.id 8 (originField h.origin)]
  b.abort h 0 0 0x0F

/-- A new challenge. -/
def Block.newChallenge (b : Block) : Block :=
  let c := b.freeBytes 16
  { b.onDict fun d => { d with challenge := c } with free := b.free + 16 }

/-- The credential is accepted. -/
def Block.credentialOk (b : Block) (h : Hdr) (level : Nat) (cred : List Byte) (v : Verdict) : Bool × Block :=
  if level = 4 then
    let r := b.unlockWith h.origin cred v
    (r.1, r.2.newChallenge)
  else
    let code := b.reg (if level = 2 then 0x103002 else 0x103003)
    (code == 0 || (cred.length == 4 && natLE cred == code), b)

/-- A LOGIN at the device itself. -/
def Block.loginHere (b : Block) (h : Hdr) (level : Nat) (cred : List Byte) (v : Verdict) : Block :=
  if b.dict.lockout then b.abort h 0 0 0x10
  else if h.session = 0 ∨ 127 < h.session ∨ (b.dict.sessions.any fun x => x.number == h.session && decide (x.origin = h.origin)) then
    b.abort h 0 0 0x0E
  else if level < 2 ∨ 4 < level then b.abort h 0 0 0x07
  else if 8 ≤ b.dict.sessions.length then b.abort h 0 0 0x08
  else
    let r := b.credentialOk h level cred v
    if !r.1 then r.2.loginFailed h level
    else
      let b := r.2.onDict fun d => { d with sessions := d.sessions ++ [⟨h.session, h.origin, level, b.time.now⟩], fails := [] }
      (b.raise 0xD0 [.id 7 h.session, .id 3 level, .id 8 (originField h.origin)]).reply h 0x10 0 0 0 []

/-- A LOGOUT at the device itself. -/
def Block.logoutHere (b : Block) (h : Hdr) : Block :=
  match b.dict.sessions.find? fun x => x.number == h.session && decide (x.origin = h.origin) with
  | some x => (b.endSession x 1).reply h 0x11 0 0 0 []
  | none => b.abort h 0 0 0x0E

/-! ### Timeouts (R402, R405, R418) -/

/-- The end of a transfer that has waited 1 s. -/
def Block.transferLate (b : Block) (o : Origin) (tag : Nat) : Block :=
  let l := b.dict.transfers.filter fun t => t.hdr.path == 0 && decide (t.hdr.origin = o) && t.hdr.tag.toNat == tag
  forEach l b fun t b => if !t.up ∧ t.total ≤ t.data.length then b else (b.dropTransfer t).abort t.hdr t.index t.sub 0x0B

/-- The end of a session that nothing has named for SESSION_TIMEOUT. -/
def Block.sessionLate (b : Block) (n : Nat) : Block :=
  forEach (b.dict.sessions.filter fun x => x.number == n && b.elapsed x.used (1000 * b.reg 0x103004)) b fun x b => b.endSession x 2

/-- The end of a proxy request that no worker has answered. -/
def Block.proxyLate (b : Block) (p tag : Nat) : Block :=
  forEach ((b.port p).proxies.filter fun x => x.tag == tag && !x.answered) b fun x b =>
    ((b.proxyDrop p x).proxyFail x 0x15).raise 0xD5 [.id 6 p, .id 8 tag]

/-! ### Meanings -/

/-- READ (R401). -/
def execRead (h : Hdr) (index : BitVec 16) (sub : BitVec 8) (s : State) : Host.Outcome State Fault Refusal :=
  s.run fun b => b.route h 0x01 index.toNat sub.toNat 0 [] fun b => b.readEntry h index.toNat sub.toNat

/-- WRITE (R401). -/
def execWrite (h : Hdr) (index : BitVec 16) (sub : BitVec 8) (body : List Byte) (s : State) : Host.Outcome State Fault Refusal :=
  s.run fun b => b.writeMsg h index.toNat sub.toNat body

/-- DOWNLOAD (R401). -/
def execDownload (h : Hdr) (index : BitVec 16) (sub : BitVec 8) (length : BitVec 32) (s : State) : Host.Outcome State Fault Refusal :=
  s.run fun b => b.route h 0x03 index.toNat sub.toNat 0 (bytesLE 4 length.toNat) fun b =>
    b.startDownload h index.toNat sub.toNat length.toNat

/-- SEGMENT (R402). -/
def execSegment (o : Origin) (tag seq : BitVec 8) (data : List Byte) (s : State) : Host.Outcome State Fault Refusal :=
  s.run fun b => b.segment o tag seq.toNat data

/-- SEGMENT_ACK (R402). -/
def execSegmentAck (o : Origin) (tag next : BitVec 8) (s : State) : Host.Outcome State Fault Refusal :=
  s.run fun b => b.segmentAck o tag next.toNat

/-- ABORT (R401). -/
def execAbort (h : Hdr) (code : BitVec 32) (s : State) : Host.Outcome State Fault Refusal := s.run fun b => b.abortMsg h code.toNat

/-- CATALOGUE (R403). -/
def execCatalogue (h : Hdr) (index : BitVec 16) (sub : BitVec 8) (s : State) : Host.Outcome State Fault Refusal :=
  s.run fun b => b.route h 0x08 index.toNat sub.toNat 0 [] fun b => b.catalogueEntry h index.toNat sub.toNat

/-- LOGIN (R405, R406). -/
def execLogin (h : Hdr) (level : BitVec 8) (credential : List Byte) (v : Verdict) (s : State) : Host.Outcome State Fault Refusal :=
  s.run fun b => b.route h 0x10 0 0 level.toNat credential fun b => b.loginHere h level.toNat credential v

/-- LOGOUT (R405). -/
def execLogout (h : Hdr) (s : State) : Host.Outcome State Fault Refusal :=
  s.run fun b => b.route h 0x11 0 0 0 [] fun b => b.logoutHere h

/-- OPCODE_NOT_LISTED (R401). -/
def execOpcodeNotListed (h : Hdr) (op : BitVec 8) (index : BitVec 16) (sub : BitVec 8) (s : State) : Host.Outcome State Fault Refusal :=
  s.run fun b => b.route h op.toNat index.toNat sub.toNat 0 [] fun b => b.abort h index.toNat sub.toNat 0x0D

/-- TRANSFER_TIMEOUT (R402). -/
def execTransferTimeout (o : Origin) (tag : BitVec 8) (s : State) : Host.Outcome State Fault Refusal :=
  s.run fun b => b.when b.served fun b => b.transferLate o tag.toNat

/-- SESSION_TIMEOUT (R405). -/
def execSessionTimeout (session : BitVec 7) (s : State) : Host.Outcome State Fault Refusal :=
  s.run fun b => b.when b.served fun b => b.sessionLate session.toNat

/-- LOGIN_LOCKOUT_END (R406). -/
def execLoginLockoutEnd (s : State) : Host.Outcome State Fault Refusal :=
  s.run fun b => b.when b.dict.lockout fun b => b.onDict fun d => { d with lockout := false, fails := [] }

/-- PROXY_TIMEOUT (R418). -/
def execProxyTimeout (p : Port) (tag : BitVec 8) (s : State) : Host.Outcome State Fault Refusal :=
  s.run fun b => b.when (b.running && b.cRole) fun b => b.proxyLate (p.val + 1) tag.toNat

/-- PAIR_WRITE_APPLY (R420): at the boundary at which the orbit begins. -/
def execPairWriteApply (s : State) : Host.Outcome State Fault Refusal := s.run fun b => b.when b.running fun b => b.pairApply

/-- KEEP (R422). -/
def execKeep (h : Hdr) (key : BitVec 32) (s : State) : Host.Outcome State Fault Refusal :=
  s.run fun b => b.writeTo h 0x101001 4 fun b => b.keepWrite h key.toNat

/-- KEEP_COMPLETE (R422): the copy that has been captured is sealed, or fails. -/
def execKeepComplete (ok : Bool) (s : State) : Host.Outcome State Fault Refusal :=
  s.run fun b =>
    match b.dict.keeping with
    | some (h, n, t) => b.when (n == 1 || n == 2) fun b => b.keepDone h (n == 2) t ok
    | none => b

/-- FORGET (R422). -/
def execForget (h : Hdr) (key : BitVec 32) (s : State) : Host.Outcome State Fault Refusal :=
  s.run fun b => b.writeTo h 0x101002 4 fun b => b.forgetWrite h key.toNat

/-- LATCH_CLEAR (R427). -/
def execLatchClear (h : Hdr) (word : Fin 8) (bits : BitVec 32) (s : State) : Host.Outcome State Fault Refusal :=
  s.run fun b => b.writeOf h .rw (0x780101 + word.val) (bytesLE 4 bits.toNat)

/-- HISTORY_CLEAR (R429). -/
def execHistoryClear (h : Hdr) (value : BitVec 8) (s : State) : Host.Outcome State Fault Refusal :=
  s.run fun b => b.writeOf h .wo 0x780003 (bytesLE 1 value.toNat)

/-- REGISTER_WRITE (R396): of any RW entry. -/
def execRegisterWrite (h : Hdr) (index : BitVec 16) (sub : BitVec 8) (value : List Byte) (s : State) :
    Host.Outcome State Fault Refusal :=
  s.run fun b => b.writeOf h .rw (index.toNat * 256 + sub.toNat) value

/-- PREFERRED_SLOT_WRITE (R458). -/
def execPreferredSlotWrite (h : Hdr) (slot : BitVec 8) (s : State) : Host.Outcome State Fault Refusal :=
  s.run fun b => b.writeOf h .rw 0x101503 (bytesLE 1 slot.toNat)

/-- RELEASE_ORBIT_WRITE (R446, R458). -/
def execReleaseOrbitWrite (h : Hdr) (orbit : Word64) (s : State) : Host.Outcome State Fault Refusal :=
  s.run fun b => b.writeOf h .rw 0x101403 (bytesLE 8 orbit.toNat)

/-- DOMAIN_SWITCH_REQUEST (R50). -/
def execDomainSwitchRequest (h : Hdr) (dom : BitVec 8) (s : State) : Host.Outcome State Fault Refusal :=
  s.run fun b => b.writeOf h .wo 0x282004 (bytesLE 1 dom.toNat)

/-- ALIGN_DELAY_WRITE (R57). -/
def execAlignDelayWrite (h : Hdr) (side : Fin 2) (d : BitVec 32) (s : State) : Host.Outcome State Fault Refusal :=
  s.run fun b => b.writeOf h .rw (0x284001 + side.val) (bytesLE 4 d.toNat)

/-- BIN_CAL_RESTART (R112). -/
def execBinCalRestart (h : Hdr) (value : BitVec 8) (s : State) : Host.Outcome State Fault Refusal :=
  s.run fun b => b.writeOf h .wo 0x400106 (bytesLE 1 value.toNat)

/-- PROGRAMME_ENABLE (R115). -/
def execProgrammeEnable (h : Hdr) (prog : Fin 16) (config : BitVec 32) (s : State) : Host.Outcome State Fault Refusal :=
  s.run fun b => b.writeOf h .rw (progKey prog.val 1) (bytesLE 4 config.toNat)

/-- CAMPAIGN_ABORT (R118). -/
def execCampaignAbort (h : Hdr) (value : BitVec 8) (s : State) : Host.Outcome State Fault Refusal :=
  s.run fun b => b.writeOf h .wo 0x401008 (bytesLE 1 value.toNat)

/-- FLASH_FOLIO_WRITE (R436). -/
def execFlashFolioWrite (h : Hdr) (image : List Byte) (v : Verdict) (s : State) : Host.Outcome State Fault Refusal :=
  s.run fun b => b.writeTo h 0x101505 image.length fun b => b.folioWrite h image v

end Sys2Proof.Machine
end

