-- ==== Sys2Proof/Machine/Buses.lean ====
section
/-! DEFINITION. CAN and in-band carriage: controllers, identify frames, heartbeats, event frames, messages in band, service records
(R408 to R415, R428, R519). -/

namespace Sys2Proof.Machine

/-! ### Messages in band (R401, R412, R413) -/

/-- What outside algorithms say of a token where no command brings it: a free value (assumption 23). -/
def Block.freeVerdict (b : Block) (image : List Byte) : Verdict :=
  if b.freeVal.toNat.testBit 0 then
    { keyHash := ((slotIndex (imgClass image) (imgSlot image)).map fun i => b.fuses.keyHashes.getD i []).getD [],
      imageDigest := imgDigest image, ecdsaOk := true, hssOk := true, folio := default }
  else noVerdict

/-- A LOGIN in band. -/
def Block.loginMsg (b : Block) (h : Hdr) (level : Nat) (cred : List Byte) : Block :=
  let v := b.freeVerdict ((b.sec.token.map Prod.snd).getD [])
  (b.loginHere h level cred v).freeNext

/-- A message of an origin is executed by its opcode. -/
def Block.execMessage (b : Block) (o : Origin) (pair : Bool) (m : List Byte) : Block :=
  let q := parseMsg m
  let h : Hdr := { origin := o, pair := pair, path := q.path, tag := BitVec.ofNat 8 q.tag, session := q.session }
  match q.op with
  | 0x01 => b.route h 0x01 q.index q.sub 0 [] fun b => b.readEntry h q.index q.sub
  | 0x02 => b.writeMsg h q.index q.sub (q.body.take q.arg)
  | 0x03 => b.route h 0x03 q.index q.sub 0 q.body fun b => b.startDownload h q.index q.sub (natLE (q.body.take 4))
  | 0x04 => b.segment o h.tag q.index q.body
  | 0x06 => b.segmentAck o h.tag q.index
  | 0x07 => b.abortMsg h (natLE (q.body.take 4))
  | 0x08 => b.route h 0x08 q.index q.sub 0 [] fun b => b.catalogueEntry h q.index q.sub
  | 0x10 => b.route h 0x10 q.index q.sub q.arg q.body fun b => b.loginMsg h q.arg q.body
  | 0x11 => b.route h 0x11 q.index q.sub 0 [] fun b => b.logoutHere h
  | 0x20 => b
  | n => b.route h n q.index q.sub q.arg q.body fun b => b.abort h q.index q.sub 0x0D

/-- The requester that an envelope's ORIGIN names at a worker; at a C-role every message is the back-end's. -/
def Block.originOf (b : Block) (code : Nat) : Option Origin :=
  if b.cRole then some .inband
  else match code with
    | 0 => some .inband
    | 1 => some .proxiedCan
    | 2 => some .proxiedUnit
    | _ => none

/-- TARGET addresses this device. -/
def Block.targeted (b : Block) (target : Nat) : Bool :=
  !b.cRole || b.topology != 0 || target == 0 || target == 3 || target == 1 + flag b.boot.unitB

/-- A complete message with its envelope. -/
def Block.inbandMessage (b : Block) (env : Word64) (m : List Byte) : Block :=
  let target := bits env.toNat 63 62
  if !b.targeted target then b
  else match b.originOf (bits env.toNat 61 60) with
    | some o => b.execMessage o (b.cRole && b.topology == 0 && target == 3) m
    | none => b

/-- BULK words of the in-band path of the device. -/
def Block.bulkWordsIn (b : Block) (l : List Word64) : Block :=
  forEach l b fun w b =>
    let a := b.dict.bulkIn.bulk w
    let b := b.onDict fun d => { d with bulkIn := a.1 }
    match a.2 with
    | some m => b.inbandMessage m.1 m.2
    | none => b

/-- A region of the in-band path is lost: the message in progress ends (R413). Path 0 is IN1, path 1 DIN. -/
def Block.bulkLost (b : Block) : Block :=
  if !b.dict.bulkIn.active then b
  else (b.onDict fun d => { d with bulkIn := {} }).raise 0xD9 [.id 8 (if b.cRole then 0 else 1), b.hereFld]

/-- One record of DIN or IN1 as the dictionary reads it: a BULK word, or the CHECK withdrawal of a lost region (R313, R414). -/
def Block.inputRecord (b : Block) (r : QRec) : Block :=
  if r.group then b.bulkWordsIn [r.word] else if typeOf r.word = 0x84 then b.bulkLost else b

/-- The dictionary reads the closed words of its input queue: DIN at an F-role, IN1 at a C-role (R203). -/
def Block.inputsRead (b : Block) : Block :=
  let r := b.qReadAll (if b.cRole then 0x20 else 2)
  forEach (r.1.flatMap QWord.recs) r.2 fun q b => b.inputRecord q

/-- A record that carries part of a worker's message: merged, or kept by the proxy. -/
def Block.serviceIn (b : Block) (p : Nat) (w : Word64) : Block :=
  let r := b.rqSingle p b.dataNow w
  forEach r.1.toList r.2 fun q b => b.qWrite (rqOf p) q

/-! ### Event paths (R428) -/

/-- A path of the device's messages runs: a bus, or in band through the group obeyed or through uplink 1. -/
def Block.inbandRuns (b : Block) : Bool :=
  if b.cRole then (b.active.folio.uplinks.any fun u => u.1 == 1 && b.linkUp (uplinkLink u)) && b.sets.act.isSome
  else b.sets.act.isSome && (b.linkUp (groupLink 0 (groupWidth b.portsNow)) || (b.topology == 0 && b.linkUp (groupLink 1 (groupWidth b.portsNow))))

/-- One message of a bus leaves. -/
def Block.drainBus (b : Block) (bus : Nat) : Block :=
  let q := if bus = 0 then b.ev.pathA else b.ev.pathB
  match q with
  | [] => b
  | m :: t =>
    if !b.busRuns bus then b
    else (b.onEv fun e => if bus = 0 then { e with pathA := t } else { e with pathB := t }).canSend bus (canId 4 0 (b.reg 0x100101) m.1)
      (wordBytes m.2)

/-- One message leaves in band. -/
def Block.drainInband (b : Block) : Block :=
  match b.ev.pathI with
  | [] => b
  | m :: t => if !b.inbandRuns then b else (b.onEv fun e => { e with pathI := t }).inbandSend 0 (eventMessage m.2)

/-- One message of each path leaves in a crossing. -/
def Block.drainPaths (b : Block) : Block := ((b.drainBus 0).drainBus 1).drainInband

/-! ### Controllers (R408 to R411, R519) -/

/-- A change of a controller. -/
def Block.onCan (b : Block) (busB : Bool) (f : CanCtl → CanCtl) : Block :=
  b.onDict fun d => if busB then { d with canB := f d.canB } else { d with canA := f d.canA }

/-- A requester is on a bus. -/
def onBus (busB : Bool) : Origin → Bool
  | .canA _ => !busB
  | .canB _ => busB
  | _ => false

/-- A controller goes bus-off: the transfers on its bus end without a response, the sessions stay open. -/
def Block.busOff (b : Block) (busB : Bool) : Block :=
  let b := (b.onCan busB fun c => { c with state := 3 }).bump (0x105103 + flag busB) 1
  (b.onDict fun d => { d with transfers := d.transfers.filter fun t => !onBus busB t.hdr.origin }).raise 0xDA [.id 8 (flag busB)]

/-- A heartbeat on every enabled bus. -/
def Block.heartbeat (b : Block) : Block :=
  let body := bytesLE 1 b.roleActive ++ bytesLE 1 (if b.cRole then twinCode b.twin.state else 0) ++
    bytesLE 1 (if b.cRole then b.ownClaim else 0) ++ bytesLE 1 (flag b.ev.alert + 2 * flag b.sets.act.isSome) ++ bytesLE 4 b.time.orbit
  forEach ((List.range 2).filter b.busRuns) b fun bus b => b.canSend bus (canId 5 0 (b.reg 0x100101) 0) body

/-- An identify frame of DEST 0 that names this device gives it its node. -/
def Block.identify (b : Block) (busB : Bool) (src : Nat) (identity node : Nat) : Block :=
  if identity = b.fuses.identity.toNat ∧ 1 ≤ node ∧ node ≤ 126 then
    (b.setReg 0x100101 node).canSend (flag busB) (canId 6 src node 0) (bytesLE 8 identity ++ bytesLE 1 node)
  else b

/-! ### Meanings -/

/-- EVENT (R428): a worker's message. -/
def execEvent (p : Port) (message : Word64) (s : State) : Host.Outcome State Fault Refusal :=
  s.run fun b => b.when (b.running && b.cRole) fun b => b.workerEvent (p.val + 1) message

/-- IDENTIFY_FRAME (R410). -/
def execIdentifyFrame (busB : Bool) (src : BitVec 7) (identity : Word64) (node : BitVec 8) (s : State) :
    Host.Outcome State Fault Refusal :=
  s.run fun b => b.when (b.served && (b.can busB).up) fun b => b.identify busB src.toNat identity.toNat node.toNat

/-- CAN_NODE_ID_CONFLICT (R410). -/
def execCanNodeIdConflict (busB : Bool) (s : State) : Host.Outcome State Fault Refusal :=
  s.run fun b => b.when (b.served && (b.can busB).state != 0) fun b => b.raise 0xDD [.id 8 (flag busB), .id 7 (b.reg 0x100101)]

/-- HEARTBEAT (R411). -/
def execHeartbeat (s : State) : Host.Outcome State Fault Refusal :=
  s.run fun b => b.when (b.served && b.reg 0x105005 != 0) fun b => b.heartbeat

/-- CAN_BUS_OFF (R408). -/
def execCanBusOff (busB : Bool) (s : State) : Host.Outcome State Fault Refusal :=
  s.run fun b => b.when (b.served && (b.can busB).up) fun b => b.busOff busB

/-- CAN_BUS_RECOVERED (R408). -/
def execCanBusRecovered (busB : Bool) (s : State) : Host.Outcome State Fault Refusal :=
  s.run fun b => b.when (b.served && (b.can busB).state == 3) fun b =>
    (b.onCan busB fun c => { c with state := 1 }).raise 0xDB [.id 8 (flag busB)]

/-- CAN_SYNC_ACQUIRED (R519). -/
def execCanSyncAcquired (busB : Bool) (s : State) : Host.Outcome State Fault Refusal :=
  s.run fun b => b.when (b.served && (b.can busB).state != 0) fun b => b.onCan busB fun c => { c with listen := false }

/-- CAN_ERROR_PASSIVE (R408). -/
def execCanErrorPassive (busB : Bool) (entered : Bool) (counters : BitVec 16) (s : State) : Host.Outcome State Fault Refusal :=
  s.run fun b => b.when (b.served && (b.can busB).up) fun b =>
    let b := b.onCan busB fun c => { c with state := if entered then 2 else 1 }
    if entered then b.raise 0xDC [.id 8 (flag busB), .id 16 counters.toNat] else b

/-- CAN_FRAME_IGNORED (R409). -/
def execCanFrameIgnored (busB : Bool) (s : State) : Host.Outcome State Fault Refusal :=
  s.run fun b => b.when (b.served && (b.can busB).state != 0) fun b => b.bump (0x105105 + flag busB) 1

/-- INBAND_MESSAGE (R413). -/
def execInbandMessage (envelope : Word64) (message : List Byte) (s : State) : Host.Outcome State Fault Refusal :=
  s.run fun b => b.when b.running fun b => b.inbandMessage envelope message

/-- SERVICE_RECORD (R414): one of a worker, or one of the device's own stream. -/
def execServiceRecord (p : Option Port) (record : Word64) (s : State) : Host.Outcome State Fault Refusal :=
  s.run fun b => b.when b.running fun b =>
    match p with
    | some p => if b.cRole then b.serviceIn (p.val + 1) record else b
    | none => if b.cRole then b.ownService [record] else b.svcWrite [record]

end Sys2Proof.Machine
end

