-- ==== Sys2Proof/Machine/Boot.lean ====
section
/-! DEFINITION. Start-up: fuse load, the boot flash, the boot folio, readiness and release (R3, R14, R15, R231, R237, R432 to R448). -/

namespace Sys2Proof.Machine

/-! ### Fuse load (R3, R15, R432 to R434) -/

/-- The role fuse permits the strapped role. -/
def roleOk (fuse : Nat) (cRole : Bool) : Bool := fuse == 0 || (fuse == 1 && !cRole) || (fuse == 2 && cRole)

/-- Both halves of every lane Off, at whatever state they stood. -/
def Block.everyLaneOff (b : Block) : Block :=
  b.onFrm fun t => { t with lanes := t.lanes.map fun p => (p.1, { p.2 with tx := .off, rx := .off, step := 0 }) }

/-- The device stops. -/
def Block.stop (b : Block) : Block := (b.everyLaneOff.onBoot fun k => { k with phase := .stopped, cause := 5 }).judgeAlert

/-- A reset that took coefficients, trims and lane settings back to their fuse values. -/
def Block.fromFuses (b : Block) : Bool := b.boot.cause != 3 && b.boot.cause != 4

/-- Values that return to those of the fuses (R110, R128, R130, R149, R276). -/
def Block.fuseValues (b : Block) : Block :=
  if !b.fromFuses then b
  else
    let b : Block := { b with
      adc := { slices := b.freshSlices, carrel := some (sliceCount b.cRole - 1) }, bin := { trims := b.fuses.binTrims } }
    forEach (List.range (if b.cRole then 40 else 8)) b fun l b =>
      b.onLane l fun q => { q with ctle := b.fuses.ctle, dfe := b.fuses.dfe.map fun t => clampTap (4 * t) }

/-- What identification finds: a flash of 64 to 256 Mbit. -/
def Block.identifyFlash (b : Block) (found : Option Nat) : Block :=
  let ok := (found.map fun c => decide (64 ≤ c) && decide (c ≤ 256)).getD false
  let b := b.onFlash fun f => { f with capacity := found.getD 0, present := ok, error := found.isSome && !ok }
  if ok ∨ !b.cRole then b else (b.raise 0x06 [.id 8 1, .id 25 b.freeVal.toNat]).freeNext

/-- The latest keep copy. -/
def Flash.kept (f : Flash) : Option (Tab Nat) := if f.latest = 0 then f.keep0 else f.keep1

/-- The values kept in flash come into force (R395, R452). -/
def Block.applyKept (b : Block) : Block :=
  match (if b.hasFlash then b.flash.kept else none) with
  | some t => b.onDict fun d => { d with regs := t.foldl (fun r p => tabSet r p.1 p.2) (d.regs.filter fun p => !persistent p.1) }
  | none => b

/-- One site of the retirement list. -/
def Block.bootSite (b : Block) (id : Nat) : Block :=
  let n := id % 4096
  let b := b.onSite id fun k => { k with state := 2 }
  match id / 4096 with
  | 1 => b.onChan n fun k => { k with retiredAt := some b.time.now, settle := none }
  | 2 => b.laneRetired n
  | 3 => if (b.slice n).retired then b else b.retireSlice n
  | 4 => b.onPort n fun q => { q with state := 2 }
  | 5 => b.setReg (0x600008 + 256 * n) 1
  | _ => b

/-- The retirement list is applied before any lane trains (R386, R442). -/
def Block.applyList (b : Block) : Block :=
  let b := if b.hasFlash ∧ b.flt.list.isEmpty then b.onFlt fun t => { t with list := b.flash.list } else b
  forEach b.flt.list b fun w b => b.bootSite (bits w.toNat 63 48)

/-- Both slots are refused. -/
def Block.bootNoFolio (b : Block) (code0 code1 : Nat) : Block :=
  ((b.onBoot fun k => { k with noFolio := true, fromFlash := false }).onSets fun s => { s with staging := .idle, image := [] }).raise 0x05
    [.id 8 code0, .id 8 code1]

/-- A time of 1014.06, which no rule fixes. -/
def Block.bootTime (b : Block) (i : Nat) : Block :=
  (b.onBoot fun k => { k with times := (if k.times.isEmpty then List.replicate 7 0 else k.times).set i (b.freeVal.toNat % 2 ^ 32) }).freeNext

/-- The read of the preferred slot begins; a C-role without a flash has no folio. -/
def Block.readFlash (b : Block) : Block :=
  if !b.cRole then b
  else if b.hasFlash then b.onSets fun s => { s with staging := .receiving }
  else (b.bootNoFolio b.freeVal.toNat (b.freeVal.toNat / 256)).freeNext

/-- A device whose role is permitted runs on from fuse load. -/
def Block.bootRun (b : Block) (r : FuseReport) : Block :=
  let b := b.onBoot fun k => { k with phase := .running, channelsAt := b.time.now }
  let b := ((b.fuseValues.bootTime 0).identifyFlash r.flash).applyKept
  let b := (b.certCheck r.certDigestOk r.certSub.val).newChallenge
  let b := (b.startCan.applyList).remask
  let b := b.engineTest r.laneFails.toNat r.tmrFails.toNat
  b.wakeLinks.readFlash

/-- Fuse load completes. -/
def Block.fuseLoad (b : Block) (r : FuseReport) : Block :=
  match r.noMajority with
  | some word => b.stop.raise 0x02 [.id 16 word]
  | none =>
    let b := b.raise 0x00 [.id 1 (flag b.boot.roleC), .id 8 b.profileState, .id 8 b.boot.cause]
    if roleOk b.fuses.role.toNat b.boot.roleC then b.bootRun r
    else b.stop.raise 0x01 [.id 1 (flag b.boot.roleC), .id 2 b.fuses.role.toNat]

/-! ### A set becomes active at boot (R395, R438, R442) -/

/-- RW values of the boot folio, where no kept value replaces them. -/
def Block.folioValues (b : Block) (c : CfgSet) : Block :=
  let keeps := b.hasFlash && b.flash.kept.isSome
  forEach c.folio.entries b fun p b =>
    match b.folioEntry p.1 with
    | some d => if d.access = .rw ∧ !(keeps && persistent p.1) then b.takeWrite (ownHdr 0) p.1 (cleaned p.1 p.2) else b
    | none => b

/-- The orbit that runs is of the new set's length. -/
def Block.bootOrbit (b : Block) : Block :=
  match b.time.log.getLast? with
  | some r =>
    b.onTime fun t => { t with log := [⟨(r.orbit + 2 ^ 48 - 1) % 2 ^ 48, r.start - b.nO, b.nO, r.set⟩, { r with len := b.nO }] }
  | none => b

/-- An unpacked boot folio becomes the active set: the shadow is EMPTY, the depths are those of the set, the retirement list and the
plan keyed with it come into force, and the links of the set train. -/
def Block.bootActivate (b : Block) (c : CfgSet) : Block :=
  let b := b.onSets fun s => { s with
    act := some c, shd := {}, waiting := none, staging := .idle, image := [], by_ := none,
    depths := if b.cRole then (b.rsIn c 0x580201, b.rsIn c 0x580202, b.rsIn c 0x580203) else s.depths }
  let b := (b.onBoot fun k => { k with noFolio := false, fromFlash := false }).bootOrbit
  let b : Block := { b with chSince := b.time.now }
  let b := (b.folioValues c).settlePorts (b.retiredOf 4)
  let b := (if b.anyRetired then b.putKeyed else b).remask.plateChecks
  let b := if b.cRole then b else b.tileTold
  b.wakeLinks.parkLanes.ttActivate

/-- Activation waits for the next crossing boundary once the core PLL has locked. -/
def Block.bootFolio (b : Block) (source : Nat) (c : CfgSet) : Block :=
  let b := (b.raise 0x03 [.id 2 source, .id 32 c.folio.serial]).bootTime 3
  if b.time.everLocked then b.onSets fun s => { s with waiting := some c, staging := .waiting } else b.bootActivate c

/-- A verified folio takes its place at a crossing boundary: as the active set where there is none, else as the shadow set unless that
is held (R231, R236, R438). -/
def Block.takeWaiting (b : Block) : Block :=
  match b.sets.waiting with
  | some c => if b.sets.act.isNone then b.bootActivate c else if b.sets.heldFrom.isNone then b.toShadow c else b
  | none => b

/-! ### The boot flash (R436, R437, R439) -/

/-- The slot that is being read. -/
def Block.bootSlot (b : Block) : Nat := if b.boot.triedSlots.isEmpty then b.flash.preferred % 2 else 1 - b.boot.triedSlots.headD 0

/-- The image of the slot stands in the staging store. -/
def Block.flashRead (b : Block) (image : List Byte) : Block :=
  ((b.onSets fun s => { s with staging := .verifying, image := image, by_ := none }).onBoot fun k => { k with fromFlash := true }).bootTime 1

/-- A boot image is refused: the other slot follows, or none. -/
def Block.bootRefused (b : Block) (code : Nat) : Block :=
  let slot := b.bootSlot
  let b := b.raise 0x04 [.id 8 slot, .id 8 code]
  let b := b.onBoot fun k => { k with triedSlots := k.triedSlots ++ [slot], refusals := k.refusals ++ [code], fromFlash := false }
  if b.boot.triedSlots.length < 2 then b.onSets fun s => { s with staging := .receiving, image := [] }
  else
    let first := b.boot.refusals.headD 0
    if b.boot.triedSlots.headD 0 = 0 then b.bootNoFolio first code else b.bootNoFolio code first

/-- A boot image is accepted: an F-role takes one only as a direct-attached device (R441). -/
def Block.bootAccepted (b : Block) (c : CfgSet) : Block :=
  if !b.cRole ∧ c.folio.topology ≠ 2 then b.onSets fun s => { s with staging := .idle, image := [] }
  else (b.setReg 0x101506 b.bootSlot).bootFolio b.bootSlot c

/-- Source of a folio that was downloaded: 2 link, 3 dictionary. -/
def folioSource (h : Hdr) : Nat := if h.origin = .proxiedUnit then 2 else 3

/-- A downloaded folio is accepted. -/
def Block.downloadAccepted (b : Block) (h : Hdr) (silent : Bool) (c : CfgSet) : Block :=
  let b := if b.sets.act.isNone then b.bootFolio (folioSource h) c
           else b.onSets fun s => { s with waiting := some c, staging := .waiting, by_ := none }
  if silent then b else b.landed h 0x202001

/-- Verification and unpacking of the staging store complete (R231). -/
def Block.folioProcessed (b : Block) (v : Verdict) : Block :=
  let r := (b.bootTime 2).folioVerify b.sets.image v
  match b.sets.by_, r.1 with
  | none, .ok c => r.2.bootAccepted c
  | none, .error n => r.2.bootRefused n
  | some (h, silent), .ok c => r.2.downloadAccepted h silent c
  | some (h, silent), .error _ =>
    let b := r.2.onSets fun s => { s with staging := .idle, image := [], by_ := none }
    if silent then b else b.refuseKey h 0x202001 0x1B

/-- A slot's image and SERIAL. -/
def Flash.putSlot (f : Flash) (slot : Nat) (image : List Byte) (serial : Nat) : Flash :=
  if slot = 0 then { f with slot0 := image, serial0 := serial, preferred := 0 }
  else { f with slot1 := image, serial1 := serial, preferred := 1 }

/-- The flash write of an image ends (R436). Which of its operations failed, and where, is a free value. -/
def Block.sealed (b : Block) (ok : Bool) (h : Hdr) (slot : Nat) (silent : Bool) (image : List Byte) (serial : Nat) : Block :=
  let b := b.onBoot fun k => { k with bootWriteSlot := none, bootWriteBy := none }
  if ok then
    let b := b.onFlash fun f => f.putSlot slot image serial
    if silent then b else b.landed h 0x101505
  else
    let b := (b.raise 0x06 [.id 8 (3 + b.freeVal.toNat % 3), .id 25 (b.freeVal.toNat / 4)]).freeNext
    if silent then b else b.refuseKey h 0x101505 0x1A

/-! ### Slices to workers at boot (R237, R441) -/

/-- A port that has trained UNCONFIGURED waits for the active set's slice. -/
def Block.wantsSlice (b : Block) (q : PortPlan) : Bool :=
  b.portHeard q && (b.lane q.lane).width == unconfigured && (b.port q.port).shadowSerial.isNone &&
    !(b.port q.port).proxies.any ownDownload && !b.boot.sliceRefused.contains q.port

/-- Slices go to every such port. A port that trains UNCONFIGURED again has lost its sets. -/
def Block.bootSlices (b : Block) : Block :=
  if !b.cRole then b
  else forEach b.active.folio.ports b fun q b =>
    if b.wantsSlice q then
      match sliceFor b.active q.port with
      | some im => b.ownSlice q.port im
      | none => b
    else if !b.portHeard q ∧ (b.lane q.lane).width = unconfigured ∧ (b.port q.port).shadowSerial.isSome then
      b.onPort q.port fun s => { s with shadowSerial := none }
    else b

/-! ### Release (R443 to R448) -/


/-- The release orbit of a device: decided, or written to it. -/
def Block.nR (b : Block) : Nat := b.boot.decided.getD (b.reg 0x101403)

/-- The message of BOOT_READY. -/
def Block.readyMessage (b : Block) : Block := b.inbandSend 0 (eventMessage (b.message 0x08 (detail [b.hereFld])))

/-- An F-role is ready. -/
def Block.becomeReady (b : Block) : Block :=
  let b := (b.onBoot fun k => { k with readySince := some b.time.now, lastReady := some b.time.now }).bootTime 5
  let b := b.raise 0x08 [b.hereFld]
  let b := if b.masked 0x08 then b.readyMessage else b
  if b.direct ∧ b.reg 0x101403 = 0 then b.setReg 0x101403 b.releaseOrbit else b

/-- Ports of the topology that have sent no BOOT_READY, but for those retired. -/
def Block.unready (b : Block) : List Nat :=
  (b.active.folio.ports.map PortPlan.port).filter fun p => !b.boot.ready.contains p && !b.siteRetired 4 p

/-- A C-role decides its release: it excludes the ports that are not ready. -/
def Block.decideRelease (b : Block) : Block :=
  let out := b.unready
  let b := forEach out b fun p b => b.onPort p fun q => { q with excluded := true }
  let b := if out.isEmpty then b else b.raise 0x0B [.id 32 (orBits (out.map (· - 1)))]
  let b := b.onMrg fun m => { m with ports := m.ports.map fun p => (p.1, if p.2.state = 0 then { p.2 with wasActive := true } else p.2) }
  (b.setReg 0x101403 b.releaseOrbit).onBoot fun k => { k with decided := some b.releaseOrbit, written := false }

/-- In the crossing after the decision n_R is written to every ready port. -/
def Block.writeRelease (b : Block) : Block :=
  match b.boot.decided with
  | some n =>
    if !b.cRole ∨ b.boot.written then b
    else forEach (b.boot.ready.filter fun p => !(b.port p).excluded) (b.onBoot fun k => { k with written := true }) fun p b =>
      b.ownWrite p 0x101403 (bytesLE 8 n) true
  | none => b

/-- Acquisition is released. -/
def Block.releaseNow (b : Block) : Block :=
  let b := (b.onBoot fun k => { k with released := true, releasedAt := b.time.now }).bootTime 6
  let b := (b.onAdc fun a => { a with initial := false }).onAcc fun a => { a with lastFwd := b.time.now }
  let b := if b.cRole then
      (if b.mrg.ports.any fun p => p.2.excluded then b.putKeyed else b).onMrg fun m => { m with
        uplinks := m.uplinks.map fun u => (u.1, { u.2 with accession := 0, wds := 0, crc := 0xB704CE }) }
    else b
  b.raise 0x0A [.id 48 b.nR]

/-- Ports that join later, at their orbit. -/
def Block.joinPorts (b : Block) : Block :=
  let due := b.boot.joining.filter fun j => decide (j.2 ≤ b.time.orbit)
  if due.isEmpty then b
  else
    let b := b.onBoot fun k => { k with joining := k.joining.filter fun j => !decide (j.2 ≤ b.time.orbit) }
    forEach due b fun j b =>
      let was := (b.port j.1).excluded
      let b := b.onPort j.1 fun q => { q with excluded := false, wasActive := true }
      let b := if was then b.putKeyed else b
      b.raise 0x0C [.id 6 j.1, .id 2 0, .id 40 j.2]

/-! ### Meanings -/

/-- FUSE_LOAD (R432). -/
def execFuseLoad (r : FuseReport) (s : State) : Host.Outcome State Fault Refusal :=
  s.run fun b => b.when (decide (b.boot.phase = .fuseLoad)) fun b => b.fuseLoad r

/-- BOOT_FOLIO_READ_DONE (R437): at a C-role, or at a direct-attached F-role. -/
def execBootFolioReadDone (image : List Byte) (s : State) : Host.Outcome State Fault Refusal :=
  s.run fun b => b.when (b.running && b.hasFlash && b.sets.act.isNone && !b.boot.noFolio && !b.boot.fromFlash && b.sets.by_.isNone &&
    (b.sets.staging == .receiving || (!b.cRole && b.sets.staging == .idle))) fun b => b.flashRead image

/-- FOLIO_PROCESSED (R231). -/
def execFolioProcessed (v : Verdict) (s : State) : Host.Outcome State Fault Refusal :=
  s.run fun b => b.when (b.running && b.sets.staging == .verifying) fun b => b.folioProcessed v

/-- BOOT_RECORD_SEALED (R436). -/
def execBootRecordSealed (ok : Bool) (s : State) : Host.Outcome State Fault Refusal :=
  s.run fun b =>
    match b.boot.bootWriteSlot, b.boot.bootWriteBy with
    | some w, some k => b.sealed ok k.1 k.2.1 k.2.2 w.1 w.2
    | _, _ => b

/-- BOOT_READY (R443). -/
def execBootReady (s : State) : Host.Outcome State Fault Refusal :=
  s.run fun b => b.when (b.running && !b.cRole && b.boot.readySince.isNone && b.allReady) fun b => b.becomeReady

/-- BOOT_READY_REPEAT (R443). -/
def execBootReadyRepeat (s : State) : Host.Outcome State Fault Refusal :=
  s.run fun b =>
    match b.boot.lastReady with
    | some x => b.when (b.running && !b.cRole && b.reg 0x101403 == 0 && decide (x + 1024 ≤ b.time.now)) fun b =>
        (b.onBoot fun k => { k with lastReady := some b.time.now }).readyMessage
    | none => b

/-- RELEASE_DECISION (R446): every port has sent BOOT_READY. -/
def execReleaseDecision (s : State) : Host.Outcome State Fault Refusal :=
  s.run fun b => b.when (b.running && b.cRole && b.boot.unitReleased && b.boot.decided.isNone && b.unready.isEmpty) fun b => b.decideRelease

/-- READY_TIMEOUT (R446, R448). -/
def execReadyTimeout (s : State) : Host.Outcome State Fault Refusal :=
  s.run fun b => b.when (b.running && b.cRole && b.boot.unitReleased && b.boot.decided.isNone &&
    b.boot.countFrom.any fun x => b.elapsed x (b.rs 0x101404)) fun b => b.decideRelease

/-- BOOT_RELEASED (R446): at orbit n_R. -/
def execBootReleased (s : State) : Host.Outcome State Fault Refusal :=
  s.run fun b => b.when (b.running && b.sets.act.isSome && !b.boot.released && b.nR != 0 && decide (b.nR ≤ b.time.orbit)) fun b => b.releaseNow

end Sys2Proof.Machine
end

