-- ==== Sys2Proof/Machine/Presented.lean ====
section
/-! DEFINITION. Frames as they are presented and acted on: copies, regions, sides, downward marks (R55, R58, R288, R300 to R316). -/

namespace Sys2Proof.Machine

/-! ### Presentation (R288, R302, R311) -/

/-- What a receive half of a link carries. -/
def rxKind (k : Link) : RxLink :=
  match k.kind with
  | .port => .worker
  | .group => .downlink
  | .uplink => if k.id = 33 then .uplink1 else .uplink
  | .timing => .timing
  | .cross => .cross

/-- Depth of a receive half: its link's, or the one it was placed at. -/
def Block.depthOf (b : Block) (k : Link) (l : Nat) : Nat := (b.fixedDepth k.kind).getD ((b.lane l).placed.getD 0)

/-- The header crossing that a receive half presents in the present crossing. -/
def Block.expected (b : Block) (k : Link) (l : Nat) : Nat := b.time.now - 2 - b.depthOf k l

/-- The arrival of the marker that heads a frame, in LSB_phi of the receiver, from the margin of its check (R114, R270, R288). -/
def Block.markerAt (b : Block) (margin : Nat) : Int := (2048 * b.time.now : Nat) - (margin : Int) - (b.tRx : Int)

/-- A missing frame: its region fails its check. -/
def asMissing (f : CFrame) : CFrame := { f with b0 := f.b0 ||| 0xFF00000000000000 }

/-- The region of the last frame of a half is checked by the next one, where there is one (R313). -/
def Block.checkLast (b : Block) (k : RxLink) (l : Nat) (next : Option CFrame) : Block :=
  match (b.lane l).last with
  | none => b
  | some (h, f) =>
    let ok := (next.map fun g => b.regionKept l k f g).getD false
    let b := if ok then b else (b.regionFailed l h).2
    b.onLane l fun q => { q with result := q.result ++ [(h, f, ok)] }

/-- The last frame of a half. -/
def Block.setLast (b : Block) (l h : Nat) (f : CFrame) : Block := b.onLane l fun q => { q with last := some (h, f) }

/-- A frame waits for its turn; one that is missing does not. -/
def Block.storeFrame (b : Block) (l h : Nat) (f : Option CFrame) : Block :=
  b.onLane l fun q => { q with store := (q.store.filter fun p => decide (h < p.1 + 128)) ++ (f.map fun f => (h, f)).toList }

/-- INPUT_FAULTS of the frames that 5Cll.05 counts on worker ports and uplinks (R355). -/
def Block.invalidFault (b : Block) (k : Link) (l was : Nat) : Block :=
  b.when (k.kind == .port || k.kind == .uplink) fun b => b.inputFault (b.reg (laneCount l 5) - was)

/-! ### What markers measure (R49, R55, R57, R122) -/

/-- A tracker's residual: from the internal boundary to the compensated boundary of the downlink. -/
def Block.measureSide (b : Block) (l h margin : Nat) : Block :=
  let side := l / 4
  b.onDom side fun t => { t with residual := b.markerAt margin - (b.alignD side : Int) - (2048 * (h + 1) : Nat) }

/-- A shot of a port's campaign: from the own marker of slot 0 to the port's. -/
def Block.campaignShot (b : Block) (p h margin : Nat) : Block :=
  let d := b.markerAt margin - (2048 * (h + 1) : Nat)
  if b.slotOf (h + 1) ≠ 0 ∨ d < 0 ∨ 1024 * 2048 ≤ d then b
  else b.onTime fun t => { t with
    campaigns := t.campaigns.map fun c => if c.1 = p ∧ c.2.from_ < h + 1 then (p, { c.2 with shots := c.2.shots + 1, sum := c.2.sum + d }) else c }

/-- What the marker of a presented frame measures. -/
def Block.marker (b : Block) (k : Link) (l h margin : Nat) : Block :=
  match k.kind with
  | .group => b.measureSide l h margin
  | .port => if placeOf k l = 0 then b.campaignShot k.id h margin else b
  | _ => b

/-- A header of a downlink that names another crossing (R55, R291). -/
def Block.headerMismatch (b : Block) (k : Link) (l : Nat) (f : CFrame) (missing : Bool) : Block :=
  b.when (missing && k.kind == .group) fun b => b.mismatch (l / 4) (frSlot f)

/-- A frame at an Active half. -/
def Block.presentFrame (b : Block) (k : Link) (l : Nat) (f : CFrame) (margin : Nat) : Block :=
  let b := b.onLane l fun q => { q with margin := margin }
  let b := if b.sets.act.isNone ∧ k.kind = .group then b.acquireFrom f (l / 4) else b
  let h := b.expected k l
  if (b.lane l).last.map Prod.fst = some h then b
  else
    let was := b.reg (laneCount l 5)
    let r := b.takeFrame l (rxKind k) h f
    let b := (r.2.invalidFault k l was).headerMismatch k l f r.1.isNone
    let b := if b.cRole then b.checkLast (rxKind k) l r.1 else b
    let b := (b.setLast l h (r.1.getD (asMissing f))).storeFrame l h r.1
    if frCode f = codeTraining then b.dropLink l 2 else b.marker k l h margin

/-- A frame of a downlink that is placed again by step 5 (R445). -/
def Block.placeAgain (b : Block) (k : Link) (l : Nat) (f : CFrame) (margin : Nat) : Block :=
  (b.placeFree k l f margin).onLane l fun q => if q.step = 6 then { q with step := 7 } else q

/-- A frame that has been checked crossings before its presentation waits, with at most 127 others (R288). -/
def Block.waitFrame (b : Block) (l due : Nat) (f : CFrame) (margin : Nat) : Block :=
  b.onLane l fun q => { q with wait := (q.wait ++ [(due, f, margin)]).take 128 }

/-- A frame of an Active half: now, or at the crossing whose end its margin reaches. -/
def Block.takeOrWait (b : Block) (k : Link) (l : Nat) (f : CFrame) (margin : Nat) : Block :=
  if margin ≤ 2048 then b.presentFrame k l f margin else b.waitFrame l (b.time.now + (margin - 1) / 2048) f margin

/-- A checked frame at a half of a link, by its state. -/
def Block.present (b : Block) (k : Link) (l : Nat) (x : LineFrame) (f : CFrame) (margin : Nat) : Block :=
  if b.trainsAlone k l then b.aloneFrame k l f (syncPattern x.sync) margin
  else if b.rxActive l then
    let b := b.syncFrame l (b.syncGood l x)
    b.when (b.rxActive l) fun b =>
      if k.kind = .group ∧ (b.lane l).step = 5 then b.placeAgain k l f margin else b.takeOrWait k l f margin
  else b

/-- Frames whose presentation crossing has come. -/
def Block.presentWaiting (b : Block) : Block :=
  let due := fun (p : Nat × CFrame × Nat) => decide (p.1 ≤ b.time.now)
  let lanes := (b.frm.lanes.filter fun p => p.2.wait.any due).map Prod.fst
  forEach lanes b fun l b =>
    let now := (b.lane l).wait.filter due
    let b := b.onLane l fun q => { q with wait := q.wait.filter fun p => !due p }
    match b.linkOf l with
    | some k => forEach now b fun p b => b.when (b.rxActive l) fun b => b.presentFrame k l p.2.1 p.2.2
    | none => b

/-! ### Downlink regions (R58, R257, R413) -/

/-- An announcement is kept with its side's tracker: one that disagrees with the counters is counted (R49, R55). -/
def Block.keepAnnouncement (b : Block) (s : Fin 2) (h orbit : Nat) (t : Tod) : Block :=
  let b := b.onDom s fun k => { k with annOrbit := some orbit, annTod := some t }
  if !b.time.markMissed ∧ orbit ≠ (b.orbitOf h + 1) % 2 ^ 48 then b.mismatch s 0 else b

/-- A region of header crossing h that the obeyed side has delivered: bulk words of the dictionary, or a mark. -/
def Block.downRegion (b : Block) (s : Fin 2) (h : Nat) (f : CFrame) : Block :=
  let v := validWords f
  if frBulk f then b.qBulk 2 h v.1
  else match readTodMark (v.1.take 4) with
    | some (0, orbit, _, t) => b.keepAnnouncement s h orbit t
    | some (2, orbit, _, _) => b.onTime fun t => { t with mark := some (h, orbit) }
    | _ => b

/-- A region of the obeyed downlink that is lost: the withdrawal that takes its place in DIN (R313). -/
def Block.regionGone (b : Block) (l h : Nat) : Block :=
  let r := b.regionFailed l h
  r.2.qMake 2 h r.1

/-- The region of the header crossing acted on last, once its side's next frame has come. -/
def Block.lastRegion (b : Block) : Block :=
  match b.frm.acted, b.frm.nowSide with
  | some h, some s =>
    let l := 4 * s.val
    let find := fun x => ((b.lane l).store.find? fun p => p.1 == x).map Prod.snd
    (match find h, find (h + 1) with
     | some f, some g => if b.regionKept l .downlink f g then b.downRegion s h f else b.regionGone l h
     | _, _ => b.regionGone l h)
  | _, _ => b

/-! ### Sides (R54, R312, R314, R315) -/

/-- The side obeyed for a header crossing by the two claims and the side obeyed last (R315). -/
def sideObeyed (cA cB : Nat) (last : Option (Fin 2)) : Option (Fin 2) :=
  if cB < cA then some 0 else if cA < cB then some 1 else if cA = 0 then none else some (last.getD 0)

/-- A side's frame for h, where a copy of it checks. -/
def Block.sideFrame (b : Block) (h s : Nat) : Option CFrame :=
  (((b.lane (4 * s)).store.find? fun p => p.1 == h).map Prod.snd).filter fun f => (copyOf (b.peerLane (4 * s)) f).isSome

/-- c_A or c_B. -/
def Block.sideClaim (b : Block) (h s : Nat) : Nat × Block :=
  match b.sideFrame h s with
  | some f => b.claimOf f
  | none => (0, b)

/-- The clock follows the side obeyed: at the next boundary under R51, at once where no tracker has been followed yet (R54). -/
def Block.followSide (b : Block) (s : Fin 2) : Block :=
  if b.time.selected = some s then b
  else if b.time.selected.isNone ∧ !b.time.holdover then b.onTime fun t => { t with selected := some s, selAt := t.now }
  else b.planSwitch s (b.time.now + 1)

/-- A change of side. -/
def Block.sideChanged (b : Block) (s : Fin 2) (cA cB h : Nat) : Block :=
  (b.bump 0x5B0005 1).raise 0xB8 [.id 1 s, .id 8 cA, .id 8 cB, .id 14 (b.slotOf h)]

/-- No copy of the side obeyed last checks for h (R312): the payload of the other side takes its place in twin topology, where its frame
checks with a claim; else it is unresolved. Without a side obeyed before, side A counts. -/
def Block.sideLost (b : Block) (h cOther : Nat) : Block :=
  let s := (b.frm.side.getD 0).val
  if (b.sideFrame h s).isSome then b
  else if cOther ≠ 0 then (b.bump 0x5B0008 1).bump 0x5B0007 1
  else b.unresolved (4 * s)

/-- No side is obeyed for h. -/
def Block.noSide (b : Block) (h : Nat) : Block :=
  let b := b.onFrm fun f => { f with nowSide := none, nowClaim := 0 }
  (b.bump 0x5B0006 1).raiseOnce 0xB9 0 [b.nameFld h]

/-- Side s is obeyed for h: its payload acts. -/
def Block.obey (b : Block) (s : Fin 2) (cA cB h : Nat) : Block :=
  let was := b.frm.side
  let b := b.onFrm fun f => { f with side := some s, nowSide := some s, nowClaim := if s = 0 then cA else cB }
  let b := if was.isSome ∧ was ≠ some s then b.sideChanged s cA cB h else b
  let b := b.followSide s
  let l := 4 * s.val
  let r := b.resolve ((b.sideFrame h s).map fun f => (l, f)).toList
  match r.1 with
  | some p => r.2.when r.2.obeys fun b => b.actCommand p h
  | none => r.2

/-- An F-role with two sides; a direct-attached one and a solo group have one (R315). -/
def Block.twoSides (b : Block) : Bool := b.topology == 0

/-- An F-role acts on header crossing h (R316). -/
def Block.actOn (b : Block) (h : Nat) : Block :=
  let b := b.lastRegion
  let a := b.sideClaim h 0
  let c := if b.twoSides then a.2.sideClaim h 1 else (0, a.2)
  let b := c.2.onFrm fun f => { f with acted := some h, claimA := a.1, claimB := c.1 }
  let b := b.sideLost h (if b.frm.side = some 1 then a.1 else c.1)
  let b := match sideObeyed a.1 c.1 b.frm.side with
    | some s => b.obey s a.1 c.1 h
    | none => b.noSide h
  forEach [0, 4] b fun l b => b.onLane l fun q => { q with store := q.store.filter fun p => decide (h ≤ p.1) }

/-- The header crossing that an F-role acts on in the present crossing, where it has not been acted on (R316). -/
def Block.actDue (b : Block) : Option Nat :=
  let h := b.time.now - 2 - b.frm.fr
  if !b.cRole ∧ b.frm.frSet ∧ 2 + b.frm.fr ≤ b.time.now ∧ (b.frm.acted.all fun x => decide (x < h)) then some h else none

/-! ### What a C-role's crossing has brought (R22, R241, R246, R287, R311 to R314) -/

/-- A half whose frame of the crossing is missing. -/
def Block.missedFrame (b : Block) (k : Link) (l : Nat) : Block :=
  let h := b.expected k l
  match (b.lane l).last with
  | some (x, f) => if b.rxActive l ∧ x ≠ h then (b.checkLast (rxKind k) l none).setLast l h (asMissing f) else b
  | none => b

/-- The regions that a worker's half has brought enter RQ; a further rank that is not Active makes a withdrawal, and so
does a retired lane until its plan is in force (R287, R383, R384). -/
def Block.portRegions (b : Block) (k : Link) (l : Nat) : Block :=
  let b := b.missedFrame k l
  let got := (b.lane l).result
  let b := b.onLane l fun q => { q with result := [] }
  let b := forEach got b fun r b => if r.2.2 then b.rqRegion k.id r.2.1 else (b.rqFailed k.id l r.1).inputFault 1
  if (b.lane l).rx = .retired then
    b.when (b.flt.pendLanes.contains l || (placeOf k l != 0 && (b.port k.id).state == 0)) fun b => b.rqRetired k.id l (b.expected k l - 1)
  else if placeOf k l = 0 ∨ b.rxActive l ∨ (b.port k.id).state ≠ 0 then b
  else (b.rqFailed k.id l (b.expected k l - 1)).inputFault 1

/-- The frames of a link's halves for header crossing h, by rank. -/
def Block.linkFrames (b : Block) (k : Link) (h : Nat) : List (Nat × CFrame) :=
  k.rx.filterMap fun l => (((b.lane l).store.find? fun p => p.1 == h).map Prod.snd).map fun f => (l, f)

/-- The primitive of a port, and its occupancy code. -/
def Block.portPrimitive (b : Block) (k : Link) (h : Nat) : Option Ref48 × Block :=
  let p := k.id
  if (b.port p).state ≠ 0 then (none, b.occPut (h - 3) p (b.occOf p none))
  else
    let r := b.resolve (b.linkFrames k h)
    let b := r.2.occPut (h - 3) p (r.2.occOf p r.1)
    if r.1.isSome then (r.1, b)
    else
      let b := ((b.bump (0x520006 + 256 * p) 1).raiseOnce 0x63 0 [.id 6 p, .id 14 (b.slotOf h)]).inputFault 1
      (none, b.unresolved (k.rx.headD 0))

/-- Every port's primitive; the sum of those of SELF_WORKER_MASK makes a self trigger (R180). -/
def Block.portPrimitives (b : Block) (h : Nat) : List Link → Nat → Nat × Block
  | [], sum => (sum, b)
  | k :: t, sum =>
    let r := b.portPrimitive k h
    let mine := (r.2.rsAt (h - 3) 0x483006).testBit (k.id - 1)
    r.2.portPrimitives h t (sum + (if mine then (r.1.map primSum).getD 0 else 0))

/-- Worker ports as links, by port number. -/
def Block.portLinks (b : Block) : List Link :=
  let l := b.linksNow.filter fun k => k.kind == .port
  (List.range 33).filterMap fun p => l.find? fun k => k.id == p

/-- Uplinks as links, by uplink number. -/
def Block.uplinkLinks (b : Block) : List Link :=
  let l := b.linksNow.filter fun k => k.kind == .uplink
  (List.range 13).filterMap fun u => l.find? fun k => k.id == 32 + u

/-- A link's rank-0 receive half is Active. -/
def Block.heardLink (b : Block) (k : Link) : Bool := (k.rx.head?.map b.rxActive).getD false

/-- Records that only filler may take the place of are discarded and counted (R22). -/
def Block.strayWords (b : Block) (l : List Word64) : Block := b.bump 0x500005 (l.filter fun w => w != filler).length

/-- The regions of an uplink's receive half: none with CLAIM 0 is taken (R314). A failed one of uplink 1 leaves its withdrawal in IN1
(R313). -/
def Block.uplinkRegions (b : Block) (k : Link) (l : Nat) : Block :=
  let b := b.missedFrame k l
  let got := (b.lane l).result
  let b := b.onLane l fun q => { q with result := [] }
  forEach got b fun r b =>
    let f := r.2.1
    if frClaim f = 0 ∨ frClaim f = 255 then b
    else if r.2.2 then (if k.id = 33 ∧ frBulk f then b.qBulk 0x20 r.1 (validWords f).1 else b.strayWords (validWords f).1)
    else b.when (k.id == 33) fun b => b.qMake 0x20 r.1 (withdrawalRecord 5 siteLane l (b.orbitOf r.1) (b.slotOf r.1) 0 5)

/-- The back-end's command of the crossing, from the first copy that checks in a frame with a claim. -/
def Block.backendCommand (b : Block) : Block :=
  let links := b.uplinkLinks.filter b.heardLink
  let h := b.commandHeader
  let frames := links.flatMap fun k => b.linkFrames k h
  let b := forEach frames b fun q b => if (copyOf (b.peerLane q.1) q.2).isSome then (b.claimOf q.2).2 else b
  let r := b.resolve (frames.filter fun q => frClaim q.2 != 0 && frClaim q.2 != 255)
  match r.1 with
  | some p => r.2.when r.2.obeys fun b => b.actCommand p h
  | none =>
    let any := frames.any fun q => (copyOf (r.2.peerLane q.1) q.2).isSome
    let heard := links.any fun k => k.rx.any fun l => (b.lane l).last.isSome
    if heard && !any then (r.2.unresolved ((links.flatMap Link.rx).headD 32)).inputFault 1 else r.2

/-- The frames of a crossing that has been acted on are forgotten. -/
def Block.forgetFrames (b : Block) : Block :=
  forEach (b.linksNow.flatMap Link.rx) b fun l b => b.onLane l fun q => { q with store := [] }

/-- Everything that the frames presented in the present crossing bring to a C-role. -/
def Block.gather (b : Block) : Block :=
  let ports := b.portLinks
  let b := forEach ports b fun k b => forEach k.rx b fun l b => b.portRegions k l
  let b := forEach b.uplinkLinks b fun k b => forEach k.rx b fun l b => b.uplinkRegions k l
  let h := b.time.now - 2 - b.fW
  let r := b.portPrimitives h ports 0
  let b := if 3 ≤ h then r.2.selfTest (h - 3) r.1 else r.2
  let b := b.when (decide (b.twin.state = .resync)) fun b => b.onAcc fun a => { a with sums := ((h - 3, r.1) :: a.sums).take 256 }
  let out := ports.any fun k => (b.port k.id).state != 0
  (b.inputFault (flag out)).backendCommand.forgetFrames

/-! ### Meanings -/


/-- FRAME_ACT (R316). -/
def execFrameAct (s : State) : Host.Outcome State Fault Refusal :=
  s.run fun b =>
    match b.actDue with
    | some h => b.when (b.running && b.time.everLocked) fun b => b.actOn h
    | none => b

end Sys2Proof.Machine
end

