-- ==== Sys2Proof/Machine/Timing.lean ====
section
/-! DEFINITION. Timekeeping as it runs: the core PLL, domain words and echoes, switches, round-trip campaigns, the work of a slot 0
(R37, R44 to R58, R122, R123, R445). -/

namespace Sys2Proof.Machine

/-! ### The core PLL (R36, R37, R111, R267) -/

/-- The core PLL locks: bin calibration leaves its fuse state and the transmit halves start at the first lock. -/
def Block.coreLock (b : Block) : Block :=
  let first := !b.time.everLocked
  let b := b.onTime fun t => { t with locked := true, everLocked := true }
  let b := if first then (b.when (b.reg keyBinState == 0) fun b => b.setReg keyBinState 1).wakeLinks else b
  b.sourceClear 3

/-- The core PLL unlocks: a twin unit's self-diagnosis fails (R357). -/
def Block.coreUnlock (b : Block) : Block := ((b.onTime fun t => { t with locked := false }).raise 0x8C [b.hereFld]).sourceFail 3

/-! ### Words of a timing domain (R46 to R49, R123) -/

/-- Key of entry e of a tracker. -/
def domKey (d e : Nat) : Nat := 0x282100 + 256 * d + e

/-- A new set of words begins; one that was never judged lacked words. -/
def Block.beginSet (b : Block) (d : Fin 2) : Block :=
  let b := if (b.dom d).assessed then b else b.judgeWords d
  b.onDom d fun t => { t with words := [], bad := false, assessed := false }

/-- A word of slots 0 to 7; one that no copy brings is missing. -/
def Block.setWord (b : Block) (d : Fin 2) (slot : Nat) (word : Option Ref48) : Block :=
  let b := if slot = 0 ∨ (b.dom d).assessed then b.beginSet d else b
  match word with
  | some w =>
    let b := b.onDom d fun t => { t with words := tabSet t.words slot w, bad := t.bad || !wordFits slot w }
    b.when (wordFits slot w) fun b => b.compareWord d slot w
  | none => b.onDom d fun t => { t with bad := true }

/-- A number of echoes or shots N (R57, R122). -/
def Block.serviceShots (b : Block) : Nat := 2 ^ b.reg 0x430001

/-- The own slot-0 start that an ECHO word of a header reports on: that of the orbit before the header's. -/
def Block.echoStart (b : Block) (d : Fin 2) : Option Int :=
  (b.orbitAt (b.dom d).head.toNat).bind fun r => ((b.time.log.filter fun q => decide (q.start < r.start)).getLast?).map fun q => 2048 * (q.start : Int)

/-- The interval of an echo: the first kept arrival of the marker that began slot s from an own slot-0 start on, less that start. -/
def Block.echoInterval (b : Block) (d : Fin 2) (s : Nat) : Option Int :=
  (b.echoStart d).bind fun z => (((b.dom d).arrivals.reverse.find? fun a => a.1 == s && decide (z ≤ a.2))).map fun a => a.2 - z

/-- An ECHO word: a valid one whose marker the record holds is kept, every other is discarded and told (R123). Echoes are kept in 10^-15
LSB_phi. -/
def Block.takeEcho (b : Block) (d : Fin 2) (w : Ref48) : Block :=
  let s := bits w.toNat 42 29
  match (b.echoInterval d s).filter fun _ => w.toNat.testBit 43 with
  | some i =>
    let e := i * (10 ^ 15 : Nat) - (bits w.toNat 28 0 * 2048 * b.time.fx : Nat)
    (b.onDom d fun t => { t with echoes := (e :: t.echoes).take b.serviceShots }).bump (0x430103 + d.val) 1
  | none => b.raise 0x3A [.id 1 d, .id 14 s]

/-- The marker of a domain's frame: its arrival is kept, and the residual is the time from the internal boundary of its slot to the
arrival less D_dom (R48, R49). A domain that is LOST while its lane is Active acquires again. -/
def Block.domainMarker (b : Block) (d : Fin 2) (slot : Nat) (arrival : Int) : Block :=
  let c := arrival - (b.dom d).delay
  let h := b.slotCrossing (roundDiv c 2048 - 1) slot
  b.onDom d fun t => { t with
    state := if t.state = .lost then .acquiring else t.state,
    head := h, residual := c - 2048 * (h + 1), arrivals := (((slot + 1) % b.lenO, arrival) :: t.arrivals).take 1024 }

/-- A timing word at an Active domain. -/
def Block.domainWord (b : Block) (d : Fin 2) (slot : Nat) (word : Option Ref48) : Block :=
  if slot < 8 then
    let b := b.setWord d slot word
    if slot = 7 then
      let b := match word with
        | some w => if wordType w = 8 then b.takeEcho d w else b
        | none => b
      b.judgeWords d
    else b
  else
    let b := if (b.dom d).assessed then b else b.judgeWords d
    match word with
    | some w => if wordType w = 15 then b.bump (domKey d 6) 1 else b
    | none => b

/-! ### Frames of a timing lane (R281, R287, R302, R311, R312) -/

/-- The link of a domain. -/
def domLink (d : Fin 2) : Link := laneLink .timing (36 + d.val)

/-- The region of the frame before: it is ignored, and counted where its check fails (R313). -/
def Block.domRegion (b : Block) (l : Nat) (f : CFrame) : Block :=
  match (b.lane l).last with
  | some (h, g) => if b.regionKept l .timing g f then b else (b.regionFailed l h).2
  | none => b

/-- A crossing frame at an Active timing lane: its copies, its code, its marker and its word. -/
def Block.domFrame (b : Block) (d : Fin 2) (f : CFrame) (margin : Nat) : Block :=
  let l := 36 + d.val
  let b := ((b.countCopies l f).when (!codeOk .timing (frCode f)) fun b => b.bump (laneCount l 5) 1).domRegion l f
  let b := b.setLast l b.time.now f
  if frCode f = codeTraining then b.dropLink l 2
  else
    let r := b.resolve [(l, f)]
    let b := if r.1.isSome then r.2 else r.2.unresolved l
    let slot := if r.1.isSome then frSlot f else b.slotNear ((b.dom d).head + 1)
    (b.domainMarker d slot (b.markerAt margin)).domainWord d slot r.1

/-- Step 3 of a timing lane is complete: it is Active at the first crossing frame whose CRC-32C, in the next frame, and whose copy check. -/
def Block.domTry (b : Block) (d : Fin 2) (f : CFrame) (margin : Nat) : Block :=
  let l := 36 + d.val
  let good := match (b.lane l).last with
    | some (_, g) => (copyOf (b.peerLane l) g).isSome && frCrc f == regionCrc (b.peerLane l) g
    | none => false
  if good then (b.linkActive (domLink d) [l]).domFrame d f margin
  else b.onLane l fun q => { q with last := if frCode f = codeTraining then none else some (b.time.now, f) }

/-- The lane number that a source's training words give. -/
def Block.domPeer (b : Block) (l : Nat) (f : CFrame) : Block :=
  if frCode f = codeTraining then
    match trainingWord f with
    | some w => b.setReg (0x5C0006 + 256 * l) (twLane w)
    | none => b
  else b

/-- A frame on a timing lane. -/
def Block.timingFrame (b : Block) (d : Fin 2) (x : LineFrame) (margin : Nat) : Block :=
  let l := 36 + d.val
  b.lineIn l x fun f b =>
    if (b.lane l).rx = .active then
      let b := b.syncFrame l (b.syncGood l x)
      b.when (b.rxActive l) fun b => b.domFrame d f margin
    else match (b.lane l).step with
      | 2 => b.polarityFrame l (syncPattern x.sync)
      | 3 => b.lockFrame (domLink d) l (syncPattern x.sync)
      | 6 => (b.domPeer l f).domTry d f margin
      | _ => b

/-- D_dom of a slot 0: from the mean of the echoes, else what was written (R47, R123). -/
def Block.domDelay (b : Block) (d : Nat) : Int :=
  let l := (b.dom d).echoes
  let n := l.length
  if n = 0 then signedOf 32 (b.reg (domKey d 2))
  else roundDiv (l.sum - (n * b.fuses.tFix * 10 ^ 15 : Nat)) (2 * n * 10 ^ 15) + signedOf 32 (b.reg (domKey d 4))

/-! ### Switches and holdover (R50 to R53) -/

/-- The switch that is due: to a domain that is QUALIFIED, or to holdover where neither the target nor the selected domain runs. -/
def Block.switchNow (b : Block) (target : Nat) : Block :=
  if 2 ≤ target then
    match b.time.selected with
    | some s => if (b.dom (1 - s.val)).state = .qualified then b.takeDomain (1 - s) else b.enterHoldover
    | none => b.enterHoldover
  else if (b.dom target).state = .qualified ∨ !b.cRole then b.takeDomain (if target = 0 then 0 else 1)
  else match b.time.selected with
    | some s => if (b.dom s.val).state = .lost then b.enterHoldover else b.onTime fun t => { t with switchTo := none }
    | none => b.onTime fun t => { t with switchTo := none }

/-- Trackers that run and whose residual is out of bound. -/
def Block.unqualifiable (b : Block) : List Nat :=
  (List.range 2).filter fun d => (b.dom d).state == .acquiring && decide (2 ^ 20 < (b.dom d).residual.natAbs)

/-- The least residual among trackers. -/
def Block.bestResidual (b : Block) (l : List Nat) : Int :=
  (l.map fun d => (b.dom d).residual).foldl (fun a r => if a = 0 ∨ r.natAbs < a.natAbs then r else a) 0

/-- Orbits for which domains have been QUALIFIED. -/
def Block.qualifiedOrbits (b : Block) : Block :=
  let count := fun (t : Tracker) => { t with qualRun := if t.state = .qualified then t.qualRun + 1 else 0 }
  (b.onDom 0 count).onDom 1 count

/-- A revertive switch, planned in any crossing in which its conditions hold (R50). -/
def Block.reversion (b : Block) : Block :=
  let p := b.reg 0x282002
  let other : Bool := match b.time.selected with
    | some s => s.val != p
    | none => false
  b.when (b.cRole && b.reg 0x282003 == 1 && decide (p < 2) && decide (16 ≤ (b.dom p).qualRun) && other && b.time.switchTo.isNone) fun b =>
    b.switchAtOrbit p 1

/-! ### Round-trip campaigns (R57, R122, R445) -/

/-- An alignment write: mirrored in twin topology, by the proxy alone in solo topology (R356). -/
def Block.writeAlign (b : Block) (p d : Nat) : Block :=
  let sub := 1 + flag b.boot.unitB
  let body := bytesLE 4 d
  let mark := fun (b : Block) => b.onPort p fun q => { q with
    proxies := q.proxies.map fun x => if x.index = 0x2840 ∧ x.value = 0 ∧ x.hdr.origin = .proxiedUnit then { x with value := d } else x }
  if !b.isTwin then mark (b.ownWrite p (0x284000 + sub) body false)
  else
    let r := b.proxyTagFor (ownHdr p)
    let b := r.2.onPort p fun q => { q with proxies := q.proxies ++ [{ tag := r.1, hdr := ownHdr p, index := 0x2840, sub := sub }] }
    let m := proxyBytes 0x02 r.1 0 0x2840 sub body.length body
    let recs := (serviceRecords (flag b.boot.unitB) 2 m).map fun w => withPort w p
    mark (b.onTwin fun t => { t with outbox := t.outbox ++ recs })

/-- D_new from n shots (R57). -/
def Block.newAlign (b : Block) (p n : Nat) (sum : Int) : Int :=
  roundDiv (sum + (n * (b.port p).align : Nat) - (n * b.fuses.tFix : Nat)) (2 * n) + signedOf 16 (b.reg (0x284300 + p))

/-- A port's campaign has its shots: the round trip is kept, a D that has changed is written, and so is the first one. -/
def Block.tripDone (b : Block) (p : Nat) (c : PortCampaign) : Block :=
  let d := b.newAlign p c.shots c.sum
  let b := b.setReg (0x284200 + p) (roundDiv c.sum c.shots).toNat
  if d < 0 ∨ 1048575 < d then b.raise 0x8E [.id 6 p, .int 32 d]
  else if d.toNat ≠ (b.port p).align ∨ c.first then b.writeAlign p d.toNat
  else b

/-- A port's campaign ends. -/
def Block.tripEnd (b : Block) (p : Nat) (c : PortCampaign) : Block :=
  let b := (b.onTime fun t => { t with campaigns := tabDel t.campaigns p }).setReg (0x430200 + p) c.shots
  if b.serviceShots ≤ c.shots then b.tripDone p c else b.raise 0x39 [.id 6 p, .cnt 16 c.shots]

/-- A campaign has N shots, or has run for 2N orbits. -/
def Block.tripOver (b : Block) (c : PortCampaign) : Bool := decide (b.serviceShots ≤ c.shots) || decide (2 * b.serviceShots ≤ c.orbits)

/-- A periodic campaign begins at this slot 0. -/
def Block.tripDue (b : Block) : Bool :=
  b.reg 0x284101 == 1 && b.reg 0x284102 != 0 && b.time.orbit % b.reg 0x284102 == 0

/-- A campaign of a port begins. -/
def Block.beginTrip (b : Block) (p : Nat) (first : Bool) : Block :=
  b.onTime fun t => { t with campaigns := tabSet t.campaigns p { from_ := t.now, first := first } }

/-- Campaigns at a slot 0: those that run count it, those due begin, at every worker port; a port's first begins once its link has
become Active (R445). -/
def Block.trips (b : Block) : Block :=
  if !b.cRole then b
  else
    let b := b.onTime fun t => { t with campaigns := t.campaigns.map fun c => (c.1, { c.2 with orbits := c.2.orbits + 1 }) }
    let due := b.tripDue
    forEach b.portLinks b fun k b =>
      if b.heardLink k && !(b.port k.id).tripped then (b.onPort k.id fun q => { q with tripped := true }).beginTrip k.id true
      else if (tabFind b.time.campaigns k.id).isSome then b
      else b.when due fun b => b.beginTrip k.id false

/-! ### Alignment at a worker (R56, R57, R445) -/

/-- A change of D: a single step before release, after which the downlink is placed again; slewed out afterwards. -/
def Block.applyAlign (b : Block) (side d : Nat) : Block :=
  let old := b.alignD side
  let b := (b.setReg (0x284001 + side) d).raise 0x89 [.id 1 side, .id 20 d]
  let b := b.onBoot fun k => { k with aligned := if k.aligned.contains side then k.aligned else k.aligned ++ [side] }
  if b.boot.released then
    if b.time.selected.map Fin.val = some side then b.slewBy ((old : Int) - (d : Int)) else b
  else
    let b := b.onLane (4 * side) fun q => if q.rx = .active then { q with step := 5, placed := none, goodPlace := 0, last := none } else q
    b.onTime fun t => { t with acquired := false }

/-- The changes of D that an orbit boundary applies at an F-role. -/
def Block.applyAligns (b : Block) : Block :=
  let due := b.time.alignDue
  forEach due (b.onTime fun t => { t with alignDue := [] }) fun c b => b.applyAlign c.1 c.2

/-! ### Time of day at a slot 0 (R44, R45, R58) -/

/-- A worker that has lost a resync mark, or has just acquired, takes the orbit number announced for this slot 0. -/
def Block.takeAnnounced (b : Block) : Block :=
  match b.time.selected with
  | none => b
  | some s =>
    match b.time.markMissed, (b.dom s.val).annOrbit with
    | true, some n =>
      b.onTime fun t => { t with
        orbit := n, markMissed := false,
        log := t.log.dropLast ++ (t.log.getLast?.map fun r => { r with orbit := n }).toList }
    | _, _ => b

/-- The announcement for this slot 0 of the selected source, where it is QUALIFIED. -/
def Block.announcement (b : Block) : Option Tod :=
  match b.time.selected with
  | none => none
  | some s =>
    let t := b.dom s.val
    if t.state = .qualified ∧ t.annOrbit = some b.time.orbit then t.annTod else none

/-- The time-of-day work of a slot 0, after an orbit of a length. -/
def Block.todOrbit (b : Block) (lastLen : Nat) : Block :=
  let b := if b.cRole then b else b.takeAnnounced
  b.todSlot0 b.announcement lastLen

/-- D_dom is computed anew at every slot 0. -/
def Block.domDelays (b : Block) : Block :=
  if !b.cRole then b
  else
    let a := b.domDelay 0
    let c := b.domDelay 1
    (b.onDom 0 fun t => { t with delay := a }).onDom 1 fun t => { t with delay := c }

/-! ### Meanings -/

/-- CORE_PLL_LOCK (R37). -/
def execCorePllLock (s : State) : Host.Outcome State Fault Refusal :=
  s.run fun b => b.when (b.running && !b.time.locked) fun b => b.coreLock

/-- CORE_PLL_UNLOCK (R37). -/
def execCorePllUnlock (s : State) : Host.Outcome State Fault Refusal :=
  s.run fun b => b.when (b.running && b.time.locked) fun b => b.coreUnlock

/-- TIMING_WORD (R46): a frame on L36 or L37, checked with a margin to the end of the present crossing. -/
def execTimingWord (dom : Fin 2) (x : LineFrame) (margin : Nat) (s : State) : Host.Outcome State Fault Refusal :=
  s.run fun b => b.when (b.running && b.cRole) fun b => b.timingFrame dom x margin

/-- TRAINING_FRAME (R280, R281): a frame on a half that trains. At an Active half that has had a crossing frame a TRAINING code says that
the partner has left Active (R302); before the first crossing frame it is one of the partner's handshake (assumption 24). -/
def execTrainingFrame (l : Lane) (x : LineFrame) (margin : Int) (s : State) : Host.Outcome State Fault Refusal :=
  s.run fun b =>
    b.when b.running fun b =>
      match b.linkOf l.val with
      | some k =>
        if k.kind = .timing then b.timingFrame (if l.val = 36 then 0 else 1) x margin.toNat
        else b.lineIn l.val x fun f b =>
          if (b.lane l.val).rx = .training then b.when (frCode f == codeTraining) fun b => b.trainStep k l.val f (syncPattern x.sync) margin
          else b.when ((b.lane l.val).last.isSome && k.kind != .cross) fun b => b.present k l.val x f margin.toNat
      | none => b.lineIn l.val x fun _ b => b

/-- FRAME_PRESENTED (R288): a frame is checked, with its margin to the end of its presentation crossing. Those of the cross-link come in
pairs, by CROSSLINK_FRAME. -/
def execFramePresented (l : Lane) (x : LineFrame) (margin : Nat) (s : State) : Host.Outcome State Fault Refusal :=
  s.run fun b =>
    b.when b.running fun b =>
      match b.linkOf l.val with
      | some k =>
        if k.kind = .timing then b.timingFrame (if l.val = 36 then 0 else 1) x margin
        else b.when b.time.everLocked fun b => b.lineIn l.val x fun f b => if k.kind = .cross then b else b.present k l.val x f margin
      | none => b.lineIn l.val x fun _ b => b

/-- DOMAIN_LOST (R49). -/
def execDomainLost (dom : Fin 2) (s : State) : Host.Outcome State Fault Refusal :=
  s.run fun b => b.when b.running fun b => b.domLost dom.val

/-- RESYNC_NEEDED_TICK (R52). -/
def execResyncNeededTick (s : State) : Host.Outcome State Fault Refusal :=
  s.run fun b =>
    let l := b.unqualifiable
    b.when (b.running && b.time.holdover && !l.isEmpty) fun b => b.raise 0x84 [.int 32 (b.bestResidual l)]

/-- DOMAIN_SWITCH_EXECUTE (R51). -/
def execDomainSwitchExecute (s : State) : Host.Outcome State Fault Refusal :=
  s.run fun b =>
    match b.switchDue with
    | some target => b.when b.running fun b => b.switchNow target
    | none => b

/-- ROUND_TRIP_CAMPAIGN_END (R57, R122). -/
def execRoundTripCampaignEnd (p : Port) (s : State) : Host.Outcome State Fault Refusal :=
  s.run fun b =>
    match tabFind b.time.campaigns (p.val + 1) with
    | some c => b.when (b.running && b.cRole && b.tripOver c) fun b => b.tripEnd (p.val + 1) c
    | none => b

end Sys2Proof.Machine
end

