-- ==== Sys2Proof/Machine/Upkeep.lean ====
section
/-! DEFINITION. Scrubbing and poisoned words, temperature measurements, the JTAG port (R376, R377, R450, R492, R522). -/

namespace Sys2Proof.Machine

/-! ### Scrubbing (R189, R376 to R379) -/

/-- Crossings that a scrub pass of a memory takes (R376); a memory that the table does not name, one step for each of its words, which
the spec does not count: 512. -/
def scrubPass : Memory → Nat
  | .stack _ _ => 512
  | .directory _ _ => 512
  | .queue q _ => queueCapacity q.toNat
  | .laneStore _ => 128
  | .compression _ => 4096
  | .configSet => 16384
  | _ => 512

/-- A memory of R357 code 2. -/
def unitMemory : Memory → Bool
  | .queue q _ => decide (0x21 ≤ q.toNat) && decide (q.toNat ≤ 0x60)
  | .laneStore _ => true
  | .compression _ => true
  | .configSet => true
  | _ => false

/-- A word of RQ is replaced by one CHECK withdrawal, as R241 makes it (R377). -/
def Block.poisonRq (b : Block) (p : Nat) (w : QWord) : Block :=
  let l := ((b.portPlanOf p).map PortPlan.lane).getD 0
  (b.portWithdrawals p 5 siteLane l (w.closed - 3 - b.fW) 5 (w.recs.head?.bind QRec.hdr)).inputFault 1

/-- A closed word of a queue, by its place from the oldest. A word that is not transmitted is rewritten with zeros. -/
def Block.poisonQueue (b : Block) (q place : Nat) : Block :=
  match (b.queue q).words[place]? with
  | none => b
  | some w =>
    if isRq q then ((b.onQueue q fun u => { u with words := u.words.eraseIdx place }).queueNotice q).poisonRq (q - 0x40) w
    else
      let recs := if q = 2 ∨ q = 0x20 then w.recs.map fun r => { r with word := 0 } else w.recs
      b.onQueue q fun u => { u with words := u.words.set place { w with recs := recs, poisoned := true } }

/-- A frame that waits in a lane's store is rewritten with zeros. -/
def Block.poisonStore (b : Block) (l word : Nat) : Block :=
  let zero := fun (p : Nat × CFrame) => if p.1 % 128 = word % 128 then (p.1, (default : CFrame)) else p
  let idle := fun (p : Nat × CFrame × Nat) => if p.1 % 128 = word % 128 then (p.1, (default : CFrame), p.2.2) else p
  b.onLane l fun q => { q with store := q.store.map zero, last := q.last.map zero, wait := q.wait.map idle }

/-- Eight bytes at a place rewritten with zeros. -/
def zeroWord (l : List Byte) (at_ : Nat) : List Byte :=
  l.take at_ ++ ((l.drop at_).take 8).map (fun _ => (0 : Byte)) ++ l.drop (at_ + 8)

/-- A poisoned word is handled by its memory (R377). -/
def Block.poisonWord (b : Block) (f : ScrubFind) : Block :=
  match f.memory with
  | .stack r addr => b.poisonEntry r.val addr.toNat
  | .directory r index => b.poisonDirectory r.val index.toNat
  | .queue q place => b.poisonQueue q.toNat place.toNat
  | .laneStore l => b.poisonStore l.val f.word.toNat
  | .compression u => b.onUplink (u.val + 1) fun k => { k with hash := tabDel k.hash (f.word.toNat % 4096) }
  | .history u => b.onUplink (u.val + 1) fun k => { k with history := k.history.set f.word.toNat 0 }
  | .eventRing i => b.onEv fun e => { e with ring := e.ring.set i.toNat (0, 0, 0) }
  | .regularResult i => b.onAdc fun a => { a with results := tabDel a.results i.toNat }
  | .staging => b.onSets fun s => { s with image := zeroWord s.image (8 * f.word.toNat) }
  | .tripleCopy => b.bump 0x6C0105 1
  | .configSet => b.bump 0x6C0105 1
  | .other => b

/-- The retry of a memory bank is the rewrite: it fails where the same word is poisoned again within one pass (R378). -/
def Block.poisonRetry (b : Block) (f : ScrubFind) : Block :=
  let site := siteId 6 f.bank.toNat
  match b.flt.poisoned.find? fun p => p.bank == f.bank.toNat && p.word == f.word.toNat with
  | some p => if b.time.now ≤ p.at_ + p.pass then b.retryFailed site else b
  | none => b

/-- An uncorrectable error. Where it stands in a word that is read for a frame of the crossing, that frame already carries CLAIM 0 (R358). -/
def Block.uncorrectable (b : Block) (f : ScrubFind) : Block :=
  let b := (b.bump 0x6C0104 1).setReg 0x6C0106 f.bank.toNat
  let b := b.raiseOnce 0xC7 0 [.id 16 f.bank.toNat, .id 16 f.word.toNat]
  let b := (b.poisonRetry f).transient (siteId 6 f.bank.toNat)
  let p : Poison := { bank := f.bank.toNat, word := f.word.toNat, at_ := b.time.now, pass := scrubPass f.memory, unit := unitMemory f.memory }
  let b := b.onFlt fun t => { t with poisoned := (t.poisoned.filter fun q => q.bank != p.bank || q.word != p.word) ++ [p] }
  let b := b.poisonWord f
  if !p.unit then b
  else
    let b := (b.testFails 4).sourceFail 2
    b.when (f.byRead && b.isTwin && b.twin.entered) fun b => b.onTwin fun t => { t with claim := 0 }

/-- A single-bit error that has been corrected: counted, with those of a stack's memory also in 4A1s.08 (R189, R375). -/
def Block.corrected (b : Block) (f : ScrubFind) : Block :=
  let b := b.bump 0x6C0103 1
  match f.memory with
  | .stack r _ => b.bump (stackKey r.val 8) 1
  | .directory r _ => b.bump (stackKey r.val 8) 1
  | _ => b

/-- The address step that the SCRUB_PLAN gives a bank; 1 where it says nothing else (R226, R376). -/
def Block.scrubBy (b : Block) (bank : Nat) : Nat := ((b.active.folio.scrub.find? fun r => r.1 == bank).map fun r => r.2.2).getD 1

/-- The word that the scrub reads in a bank of n words in the present crossing (R376). -/
def Block.scrubAddr (b : Block) (bank n : Nat) : Nat := b.flt.scrub * b.scrubBy bank % max 1 n

/-- A finding is the scrub's own, or a read's: the scrub finds what it reads. Entry a of a stack is word a / 4 of its bank (R187). -/
def Block.scrubbed (b : Block) (f : ScrubFind) : Bool :=
  f.byRead || match f.memory with
    | .stack _ addr => addr.toNat / 4 == b.scrubAddr f.bank.toNat 512
    | .directory _ index => index.toNat / 4 == b.scrubAddr f.bank.toNat 512
    | .tripleCopy => true
    | .other => true
    | m => f.word.toNat == b.scrubAddr f.bank.toNat (scrubPass m)

/-- One finding of the crossing. -/
def Block.scrubFind (b : Block) (f : ScrubFind) : Block :=
  if !b.scrubbed f then b else if f.uncorrectable then b.uncorrectable f else b.corrected f

/-- Poisoned words whose memory has had a complete pass with none: a bank's run of failures ends, and source 2 clears (R357, R379). -/
def Block.scrubAged (b : Block) : Block :=
  let old := b.flt.poisoned.filter fun p => decide (p.at_ + p.pass < b.time.now)
  if old.isEmpty then b
  else
    let b := b.onFlt fun t => { t with poisoned := t.poisoned.filter fun p => !decide (p.at_ + p.pass < b.time.now) }
    let b := forEach (old.filter fun p => !(b.flt.poisoned.any fun q => q.bank == p.bank)) b fun p b => b.retryOk (siteId 6 p.bank)
    if (old.any Poison.unit) && !(b.flt.poisoned.any Poison.unit) then b.sourceClear 2 else b

/-- What the reserved cycle of one crossing has found. -/
def Block.scrub (b : Block) (found : List ScrubFind) : Block := (forEach found b fun f b => b.scrubFind f).scrubAged

/-! ### Thermal shutdown (R450, R492, R495) -/

/-- The shutdown level and the recovery from it; both act at the crossing boundary of the measurement. -/
def Block.shutdownLevel (b : Block) (sensor : Nat) : Block :=
  let t := b.env.tDie
  if b.boot.phase = .shutdown then
    if t < b.level16 3 - b.hyst16 then b.onBoot fun k => { k with restartDue := 4 } else b
  else if b.level16 3 ≤ t ∧ b.boot.restartDue ≠ 3 then
    (b.raise 0xF8 [.int 16 t, .id 4 sensor]).onBoot fun k => { k with restartDue := 3 }
  else b

/-- A measurement's result at its crossing boundary. -/
def Block.tempMeasured (b : Block) (readings : List Int) : Block :=
  let b := b.measureTemp readings
  b.shutdownLevel (dieTemp readings b.env.voted).2

/-- The measurements of the crossing before apply, and a crossing under throttle is counted (R492, R496). -/
def Block.measuresNow (b : Block) : Block :=
  let b := forEach b.env.measured (b.onEnv fun v => { v with measured := [] }) fun r b => b.tempMeasured r
  b.when b.env.throttle fun b => b.bump 0x740304 1

/-! ### JTAG (R522) -/

/-- Codes that R522 names; every other selects BYPASS. -/
def jtagNamed (code : Nat) : Bool := decide (1 ≤ code) && decide (code ≤ 5)

/-- The identification register. -/
def Block.idWord (b : Block) : BitVec 32 :=
  BitVec.ofNat 32 (pack [(4, b.fuses.dieRevision.toNat), (16, 0x6400), (11, Config.manufacturer.toNat), (1, 1)])

/-- An instruction of the TAP: what it selects between TDI and TDO, and what drives the balls. -/
def Block.jtagInstr (b : Block) (code : BitVec 8) (select : Nat) (mode : JtagMode) : Block :=
  b.onJtag fun j => { j with ir := code, select := select, mode := mode }

/-- The levels of the balls, as free values. -/
def Block.ballLevels (b : Block) : List Bool := (List.range Config.boundaryLength).map fun k => (Config.freeWord (b.free + k)).toNat.testBit 0

/-- The boundary register samples the balls, or takes what is shifted in. -/
def Block.sampleBalls (b : Block) (load : Option (List Bool)) : Block :=
  match load with
  | some l => b.onJtag fun j => { j with boundary := l }
  | none => ({ b with free := b.free + Config.boundaryLength } : Block).onJtag fun j => { j with boundary := b.ballLevels }

/-- The TAP is powered. -/
def Block.tapRuns (b : Block) : Bool := decide (b.boot.phase ≠ .powerReset)

/-! ### Meanings -/

/-- SCRUB_CYCLE (R376). -/
def execScrubCycle (found : List ScrubFind) (s : State) : Host.Outcome State Fault Refusal :=
  s.run fun b => b.when (b.running && b.time.everLocked) fun b => b.scrub found


/-- IDCODE (R522). -/
def execIdcode (s : State) : Host.Outcome State Fault Refusal := s.run fun b => b.when b.tapRuns fun b => b.jtagInstr 0x01 1 .normal

/-- SAMPLE_PRELOAD (R522). -/
def execSamplePreload (load : Option (List Bool)) (s : State) : Host.Outcome State Fault Refusal :=
  s.run fun b => b.when b.tapRuns fun b => (b.jtagInstr 0x02 2 .normal).sampleBalls load

/-- EXTEST (R522). -/
def execExtest (s : State) : Host.Outcome State Fault Refusal := s.run fun b => b.when b.tapRuns fun b => b.jtagInstr 0x03 2 .extest

/-- CLAMP (R522). -/
def execClamp (s : State) : Host.Outcome State Fault Refusal := s.run fun b => b.when b.tapRuns fun b => b.jtagInstr 0x04 0 .clamp

/-- HIGHZ (R522). -/
def execHighz (s : State) : Host.Outcome State Fault Refusal := s.run fun b => b.when b.tapRuns fun b => b.jtagInstr 0x05 0 .highz

/-- BYPASS (R522), and every code that the table does not name. -/
def execBypass (code : BitVec 8) (s : State) : Host.Outcome State Fault Refusal :=
  s.run fun b => b.when (b.tapRuns && !jtagNamed code.toNat) fun b => b.jtagInstr code 0 .normal

/-- TAP_RESET (R522). -/
def execTapReset (s : State) : Host.Outcome State Fault Refusal := s.run fun b => b.jtagInstr 0x01 1 .normal

end Sys2Proof.Machine
end

