-- ==== Sys2Proof/Machine/Transmit.lean ====
section
/-! DEFINITION. The frames that a crossing assembles: what each transmit half carries, the digest, the twin words (R18, R47, R58, R227,
R280, R300 to R306, R314, R352 to R356, R368). -/

namespace Sys2Proof.Machine

/-! ### One frame (R300, R304, R377) -/

/-- The check of the region of a frame as the next frame of its half carries it: inverted for a poisoned word. -/
def sentCrc (l : Nat) (f : CFrame) (inverted : Bool) : Nat := if inverted then regionCrc l f ^^^ 0xFFFFFFFF else regionCrc l f

/-- REGION_CRC of the next frame of a half; of a half that has sent none, a free value. -/
def Block.prevCrc (b : Block) (l : Nat) : Nat × Block :=
  let q := b.lane l
  match q.lastTx with
  | some f => (sentCrc l f q.invertCrc, b)
  | none => (b.freeVal.toNat % 2 ^ 32, b.freeNext)

/-- TX_INVERT of a lane (R271). -/
def Block.txInvert (b : Block) (l : Nat) : Bool := (b.laneCfg l).testBit 31

/-- A lane sends a frame whose header names crossing x: it is scrambled onto the balls. -/
def Block.sendFrame (b : Block) (l code claim x : Nat) (ref : Ref48) (region : List Word64) (poisoned : Bool) : Block :=
  let p := b.prevCrc l
  let f := mkFrame l code claim (b.slotOf x) (b.orbitOf x % 4) p.1 ref region
  let o := lineOf (b.lane l).scr (b.txInvert l) f
  p.2.onLane l fun q => { q with lastTx := some f, invertCrc := poisoned, line := some o.1, scr := o.2 }

/-- The transmit halves of lanes in a mode that generates send 528 bits of PRBS31 (R296); no other has sent anything yet. -/
def Block.prbsFrames (b : Block) : Block :=
  b.onFrm fun t => { t with lanes := t.lanes.map fun p =>
    (p.1,
      if p.2.prbs % 2 = 1 ∧ p.2.tx ≠ .retired then
        let r := prbsFrame p.2.gen
        let x := lineOfBits (if b.txInvert p.1 then r.1 ^^^ (2 ^ 528 - 1) else r.1)
        { p.2 with line := some x, gen := r.2 }
      else { p.2 with line := none }) }

/-- What a region carries: a frame code, five words, and whether a word of it is poisoned. -/
structure Region where
  code     : Nat
  words    : List Word64
  poisoned : Bool

/-- Filler. -/
def fillerRegion : Region := ⟨0, List.replicate 5 filler, false⟩

/-- The region of a queue word (R203, R301). -/
def regionOf (w : QWord) : Region :=
  let l := w.recs.map QRec.word
  if w.code = 1 then ⟨0x15, l, w.poisoned⟩
  else if w.code = 2 then ⟨0x30 + l.length, l ++ List.replicate (5 - l.length) 0, w.poisoned⟩
  else ⟨l.length, l ++ List.replicate (5 - l.length) filler, w.poisoned⟩

/-- The next closed word of a queue as a region, filler where it has none or the table says so (R227). -/
def Block.takeRegion (b : Block) (q : Nat) : Region × Block :=
  if q = 0xFF then (fillerRegion, b)
  else
    let r := b.qRead q
    (match r.1 with
     | some w => regionOf w
     | none => fillerRegion, r.2)

/-- A half is in a state and in no PRBS mode. -/
def Block.txIs (b : Block) (l : Nat) (h : Half) : Bool := decide ((b.lane l).tx = h) && (b.lane l).prbs == 0

/-! ### Training (R280, R286) -/

/-- A training frame; READY and ACK that it carries are counted. -/
def Block.sendTraining (b : Block) (k : Link) (l : Nat) : Block :=
  let both := b.readyNow k && (b.lane k.home).ack
  let b := b.sendFrame l codeTraining 0 b.time.now (b.myWord k l) (List.replicate 5 0) false
  b.when (both && k.home == l) fun b => b.onLane l fun q => { q with sentBoth := q.sentBoth + 1 }

/-- Every transmit half that trains. -/
def Block.trainingFrames (b : Block) : Block :=
  forEach (b.linksNow ++ b.linksArmed) b fun k b =>
    forEach k.tx b fun l b => b.when (b.txIs l .training) fun b => b.sendTraining k l

/-! ### A worker's frames (R18, R306, R314, R496) -/

/-- Queue of a rank in the present crossing: of the lane tables of either group's lane; without a set, SVC at rank 0. -/
def Block.rankQueue (b : Block) (r : Nat) : Nat :=
  if b.sets.act.isNone then (if r = 0 then 1 else 0xFF)
  else
    let x := b.time.now - 3
    if (b.tablesAt x).any fun t => t.1 == r then b.laneQueue x r b.time.slot else b.laneQueue x (4 + r) b.time.slot

/-- The throttle's credit at a slot of OUT: whether the slot may carry a word (R496). -/
def Block.outSlot (b : Block) : Bool × Block :=
  if !b.throttled then (true, b.onFrm fun f => { f with outCredit := 1600 })
  else
    let c := min 1600 (b.frm.outCredit + b.env.allow)
    (decide (1600 ≤ c), b.onFrm fun f => { f with outCredit := c })

/-- The region of a rank. A word of OUT costs its credit. -/
def Block.rankRegion (b : Block) (r : Nat) : Region × Block :=
  let q := b.rankQueue r
  if q ≠ 0 then b.takeRegion q
  else
    let s := b.outSlot
    if s.1 then
      let t := s.2.takeRegion 0
      (t.1, t.2.when (b.throttled && t.1.code != 0) fun b => b.onFrm fun f => { f with outCredit := f.outCredit - 1600 })
    else (fillerRegion, s.2)

/-- The primitive that the present crossing's frames carry (R10, R173, R447). -/
def Block.primitiveOut (b : Block) : Ref48 :=
  if !b.boot.released then 0
  else ((b.frm.primLog.find? fun q => q.1 + 3 == b.time.now).map Prod.snd).getD 0

/-- The same content on both groups, rank by rank, where a half of the rank sends. -/
def Block.workerFrames (b : Block) : Block :=
  let ref := b.primitiveOut
  let claim := b.frm.nowClaim
  let x := b.time.now - 3
  let links := if b.sets.act.isNone then b.fixedLinks else b.linksOf (b.setOf x) (b.portsAt x)
  let groups := (links.filter fun k => k.kind == .group).map Link.tx
  forEach (List.range 4) b fun r b =>
    let lanes := (groups.filterMap fun t => t[r]?).filter fun l => b.txIs l .active
    if lanes.isEmpty then b
    else
      let g := b.rankRegion r
      forEach lanes g.2 fun l b => b.sendFrame l g.1.code claim b.time.now ref g.1.words g.1.poisoned

/-! ### Downlinks of a C-role (R58, R227, R257, R306) -/

/-- Crossings of the present orbit that are still to come, the present one among them. -/
def Block.leftOfOrbit (b : Block) : Nat := b.nO - b.time.slot

/-- The announcement of the next slot 0. -/
def Block.announceMark (b : Block) : List Word64 :=
  let at_ := todOf ((todVal b.time.tod : Int) + 32 * b.time.inc * (b.leftOfOrbit : Nat)).toNat
  Machine.todMark 0 ((b.time.orbit + 1) % 2 ^ 48) 0 at_

/-- The resync mark that the present crossing's downlinks carry: that of a command that is forwarded, or was in a slot-0 frame. -/
def Block.markNow (b : Block) : Option Nat :=
  let waits : Bool := match b.acc.command with
    | some p => bits p.toNat 47 44 == 2
    | none => false
  if waits || b.time.slot == 0 then none else b.time.markOut

/-- The region of a port's downlink. -/
def Block.downlinkRegion (b : Block) (l : Nat) : Region × Block :=
  if b.time.slot = 0 then (⟨4, b.announceMark ++ [filler], false⟩, b)
  else match b.markNow with
    | some n => (⟨4, Machine.todMark 2 n 0 {} ++ [filler], false⟩, b)
    | none => b.takeRegion (b.laneQueue b.time.now l b.time.slot)

/-- Downlinks of every port whose transmit half is Active. -/
def Block.downlinkFrames (b : Block) : Block :=
  let b := forEach b.portLinks b fun k b =>
    let l := k.tx.headD 0
    b.when (b.txIs l .active) fun b =>
      let g := b.downlinkRegion l
      g.2.sendFrame l g.1.code b.ownClaim b.time.now b.acc.payload g.1.words g.1.poisoned
  if b.markNow.isSome then b.onTime fun t => { t with markOut := none } else b

/-! ### Uplinks (R203, R227, R290, R320, R368) -/

/-- A colophon of the comparison phase goes out on an uplink. -/
def Block.colophonSent (b : Block) (u : Nat) (w : QWord) : Block :=
  let mine := w.recs.any fun r => typeOf r.word == 0x85 && !r.group && (match b.twin.z with | some z => decide (z ≤ r.cross) | none => false)
  b.when (mine && decide (b.twin.state = .resync) && decide (b.twin.phase = .own)) fun b =>
    b.onTwin fun t => { t with colsSent := tabMod 0 t.colsSent u (· + 1) }

/-- The oldest word of UPu leaves. -/
def Block.dropHead (b : Block) (u : Nat) : Block :=
  match (b.queue (upOf u)).words with
  | w :: t => ((b.onQueue (upOf u) fun q => { q with words := t }).queueNotice (upOf u)).colophonSent u w
  | [] => b

/-- The region of an uplink: the block that was built, or the oldest closed word. -/
def Block.uplinkRegion (b : Block) (u l : Nat) : Region × Block :=
  match (b.uplink u).block with
  | some (code, words) =>
    let p := ((b.queue (upOf u)).words.head?.map QWord.poisoned).getD false
    (⟨code.toNat, words, p⟩, (b.dropHead u).onUplink u fun k => { k with block := none })
  | none =>
    let q := b.laneQueue (b.dataNow - 7) l (b.slotOf b.dataNow)
    let head := (b.queue q).words.head?
    let raw := ((head.map QWord.code).getD 0) == 2
    if q = upOf u ∧ (b.compNow u).testBit 31 ∧ !raw then (fillerRegion, b)
    else
      let r := b.takeRegion q
      (r.1, match head with
        | some w => if q = upOf u ∧ w.closed < b.time.now then r.2.colophonSent u w else r.2
        | none => r.2)

/-- The uplinks whose frames the present crossing assembles: those of the set that governs the data (R65). -/
def Block.uplinksOut (b : Block) : List Link :=
  let l := (b.setOf (b.dataNow - 7)).folio.uplinks
  (List.range 13).filterMap fun u => (l.find? fun q => q.1 == u).map uplinkLink

/-- Uplink frames on the data grid. -/
def Block.uplinkFrames (b : Block) : Block :=
  forEach b.uplinksOut b fun k b =>
    let l := k.tx.headD 32
    let u := k.id - 32
    b.when (b.txIs l .active) fun b =>
      let g := b.uplinkRegion u l
      let ref := b.occRef u b.dataNow
      (g.2.onUplink u fun s => { s with occ := ref }).sendFrame l g.1.code b.ownClaim b.dataNow ref g.1.words g.1.poisoned

/-! ### Return frames and the cross-link (R47, R352) -/

/-- Own digest of a crossing, 0 where none was formed. -/
def Block.digestOf (b : Block) (x : Nat) : Ref48 := (b.ownDigest x).getD 0

/-- Return frames carry zero; cross-link frames the digest and the twin words of the crossing before. -/
def Block.sideFrames (b : Block) : Block :=
  let b := forEach [36, 37] b fun l b =>
    b.when (b.txIs l .active) fun b => b.sendFrame l 0 b.ownClaim b.time.now 0 fillerRegion.words false
  forEach [38, 39] b fun l b =>
    b.when (b.txIs l .active) fun b =>
      let words := if b.twin.words.isEmpty then List.replicate 5 filler else b.twin.words
      b.sendFrame l 5 b.ownClaim b.time.now (b.digestOf (b.time.now - 1)) words false

/-! ### The digest (R354) -/

/-- A 48-bit value rotated left. -/
def rotl48 (v : Ref48) (n : Nat) : Ref48 := v.rotateLeft n

/-- What a half's frame of the present crossing puts into the digest. -/
def Block.digestPart (b : Block) (l : Nat) (crc : Bool) : Ref48 :=
  let q := b.lane l
  match q.lastTx with
  | some f =>
    let ref : Ref48 := BitVec.ofNat 48 (bits f.b1.toNat 63 16)
    rotl48 (if crc then ref ^^^ BitVec.ofNat 48 (sentCrc l f q.invertCrc * 2 ^ 16) else ref) l
  | none => 0

/-- The digest of the present crossing. -/
def Block.digestNow (b : Block) : Ref48 :=
  let up := (b.uplinksOut.filter b.linkUp).flatMap Link.tx
  let down := (b.portLinks.filter fun k => (b.port k.id).state == 0 && b.linkUp k).flatMap Link.tx
  (up.map fun l => b.digestPart l true).foldl (· ^^^ ·) ((down.map fun l => b.digestPart l false).foldl (· ^^^ ·) 0)

/-- The digests of the last 256 crossings are kept. -/
def Block.keepDigest (b : Block) : Block :=
  b.when b.isTwin fun b =>
    let d := b.digestNow
    b.onTwin fun t => { t with digests := ((b.time.now, d) :: t.digests).take 256 }

/-! ### The comparison span (R368) -/

/-- The frames of the present crossing have carried a colophon on every uplink. -/
def Block.allSent (b : Block) (n : Nat) : Bool :=
  !b.uplinkLinks.isEmpty && b.uplinkLinks.all fun k => decide (n ≤ tabGet 0 b.twin.colsSent (k.id - 32))

/-- The span begins behind the first colophon and ends with the second. -/
def Block.spanNow (b : Block) : Block :=
  let first := b.twin.spanFrom.isNone && b.allSent 1
  let last := b.twin.spanTo.isNone && b.allSent 2
  b.onTwin fun t => { t with
    spanFrom := if first then some (b.time.now + 1) else t.spanFrom, spanTo := if last then some b.time.now else t.spanTo }

/-! ### Twin words (R355, R356) -/

/-- SELFTEST of W0: running, or the result while it stands. -/
def Block.testField (b : Block) : Nat := if b.twin.test.isSome then 1 else b.twin.result

/-- W0. -/
def Block.word0 (b : Block) : Word64 :=
  let t := b.twin
  let lost := flag (b.time.domA.state == .lost) + 2 * flag (b.time.domB.state == .lost)
  rec64 [(3, twinCode t.state), (2, b.testField), (1, flag (t.entered && t.state == .pairing)), (2, lost), (8, b.baseClaim), (4, t.cause),
    (3, 0), (25, satN 25 (b.time.now - b.acc.lastFwd)), (16, t.faults)]

/-- W1. -/
def Block.word1 (b : Block) : Word64 := rec64 [(32, b.activeSerial), (32, b.shadowSerial)]

/-- Holdoff crossings that remain for the crossing tested next. -/
def Block.holdLeft (b : Block) : Nat := b.acc.holdoff - (b.time.now - 5 - b.fW)

/-- W2. -/
def Block.word2 (b : Block) : Word64 :=
  let m := b.acc.fwdNow
  let last := (b.acc.seq + 4095) % 4096
  rec64 [(1, flag m.isSome), (2, (m.map Mark.kind).getD 0), (12, (m.map Mark.seq).getD last), (10, (m.map Mark.orbit).getD 0),
    (14, (m.map Mark.slot).getD 0), (11, b.holdLeft), (14, 0)]

/-- Two mirrored items go out: each acts here as well, M crossings on; a service record only where the claim is not 0. -/
def Block.mirrorOut (b : Block) : List Word64 × Block :=
  let l := b.twin.outbox.take 2
  let acts := l.filter fun w => bits w.toNat 55 50 != 0 || b.ownClaim != 0
  (l ++ List.replicate (2 - l.length) filler,
    b.onTwin fun t => { t with
      outbox := t.outbox.drop 2, schedule := t.schedule ++ acts.map fun w => (b.time.now + b.mirrorDelay, w, b.boot.unitB) })

/-- The twin words of the present crossing. -/
def Block.twinWords (b : Block) : Block :=
  b.when b.isTwin fun b =>
    let r := b.mirrorOut
    r.2.onTwin fun t => { t with words := [b.word0, b.word1, b.word2] ++ r.1 }

/-! ### All frames of a crossing -/

/-- Every transmit half sends its frame. -/
def Block.sendFrames (b : Block) : Block :=
  let b := b.prbsFrames
  let b := if b.cRole then (b.downlinkFrames.uplinkFrames).sideFrames else b.workerFrames
  b.trainingFrames.keepDigest

end Sys2Proof.Machine
end

