-- ==== Sys2Proof/Machine/Boundary.lean ====
section
/-! DEFINITION. Crossing and orbit boundaries: what ends with a crossing, what the counters do, what begins with the next one, and the
resync crossing E (R35 to R41). -/

namespace Sys2Proof.Machine

/-! ### The crossing that ends -/

/-- The mirrored items of the unit's own that fall due in the present crossing (R356). -/
def Block.twinItems (b : Block) : Block :=
  let due := fun (e : Nat × Word64 × Bool) => e.1 != 0 && decide (e.1 ≤ b.time.now)
  let l := b.twin.schedule.filter due
  forEach l (b.onTwin fun t => { t with schedule := t.schedule.filter fun e => !due e }) fun e b => b.mirrored e.2.1 e.2.2 true

/-- What the partner's service records of the present crossing tell (R383). -/
def Block.partnerTold (b : Block) : Block :=
  forEach b.twin.heard (b.onTwin fun t => { t with heard := [] }) fun w b => b.partnerService w

/-- Ports that are Active. -/
def Block.portsActive (b : Block) : List Nat := (b.mrg.ports.filter fun p => p.2.state == 0).map Prod.fst

/-- A C-role ends a crossing: what has been presented is taken, the merge runs, the twin words are formed. -/
def Block.finishC (b : Block) : Block :=
  let b := (b.gather.twinItems).partnerTold
  let was := b.portsActive
  let b := b.portsUpdate
  let b := b.merge (was.filter fun p => (b.port p).state != 0)
  (b.twinCount).twinWords

/-- Replies formed in a crossing have left at its end, and so have the device's frames on CAN. -/
def Block.repliesOut (b : Block) : Block := b.onDict fun d => { d with sent := d.replies, replies := [], canOut := [] }

/-- Everything that ends with the present crossing. -/
def Block.finishCrossing (b : Block) : Block :=
  let b := b.sendFrames
  let b := b.when (decide (b.twin.state = .resync) && decide (b.twin.phase = .own)) Block.spanNow
  let b := if b.cRole then b.finishC else b.directSelf
  b.swapsTaken.repliesOut

/-! ### The counters (R38 to R41, R43, R51) -/

/-- Length of the orbit that runs; before there is a set, and before acquisition, the longest. -/
def Block.orbitLen (b : Block) : Nat :=
  match b.time.log.getLast? with
  | some r => if r.len = 0 then 16384 else r.len
  | none => if b.nO = 0 then 16384 else b.nO

/-- The slot counter stands at its last value. -/
def Block.lastSlot (b : Block) : Bool := decide (b.orbitLen ≤ b.time.slot + 1)

/-- The next crossing is a resync crossing E: the counters do not wrap there of themselves. -/
def Block.resyncNext (b : Block) : Bool :=
  match b.time.resync with
  | some r => r.at_ == b.time.now + 1
  | none => false

/-- The log with the orbit that runs. -/
def Block.logNow (b : Block) : List OrbitRec :=
  if b.time.log.isEmpty then [⟨b.time.orbit, b.time.now - b.time.slot, b.orbitLen, b.sets.swaps⟩] else b.time.log

/-- A new orbit begins with the next crossing. -/
def Block.nextOrbit (b : Block) : Block :=
  let n := (b.time.orbit + 1) % 2 ^ 48
  let l := b.logNow ++ [⟨n, b.time.now + 1, if b.nO = 0 then b.orbitLen else b.nO, b.sets.swaps⟩]
  b.onTime fun t => { t with now := t.now + 1, slot := 0, orbit := n, log := l.drop (l.length - 32) }

/-- The counters advance by one crossing, with the 32 core cycles of the time of day and one step of the slew. -/
def Block.advance (b : Block) (wrap : Bool) : Block :=
  let l := b.logNow
  let b := if wrap then b.nextOrbit else b.onTime fun t => { t with now := t.now + 1, slot := t.slot + 1, log := l }
  (b.todAdvance.slewOnce).onTime fun t => { t with acted := [] }

/-! ### The crossing that begins: once per orbit -/

/-- A released unit tests itself at each orbit boundary (R357). -/
def Block.orbitTest (b : Block) : Block :=
  b.when (b.isTwin && decide (b.twin.state = .released) && b.twin.test.isNone) fun b => b.startTest false

/-- The work of a slot 0, after an orbit of a number and length (R40, R44, R45, R47, R50, R56, R85, R122). -/
def Block.openOrbit (b : Block) (last lastLen : Nat) (whole : Bool) : Block :=
  let b := b.onEv fun e => { e with once := [] }
  let b := b.when (last == 2 ^ 48 - 1 && b.time.orbit == 0) fun b => b.raise 0x86 []
  let b := b.todOrbit lastLen
  let b := ((b.domDelays.qualifiedOrbits).trips).applyAligns
  let b := (b.channelsOrbit whole).onAdc fun a => { a with abandoned := 0 }
  b.orbitTest

/-! ### The crossing that begins: clock, writes and restarts -/

/-- The measured crossing frequency, in mHz; CONTRACT_CLOCK_RANGE as it leaves the active set's range (R216). -/
def Block.clockNow (b : Block) (fx : Nat) : Block :=
  let b := b.onTime fun t => { t with fx := fx }
  let out := b.sets.act.isSome && fx != 0 && !b.fxInside b.active.folio
  let b := b.when (out && !b.time.fxOut) fun b => b.raise 0x1A [.cnt 32 (fx / 1000000)]
  b.onTime fun t => { t with fxOut := out }


/-- A thermal shutdown, or the restart at recovery from it (R450). -/
def Block.thermalNow (b : Block) : Block :=
  if b.boot.restartDue = 3 then (b.onBoot fun k => { k with restartDue := 0 }).shutDown
  else if b.boot.restartDue = 4 then b.deviceRestart 4
  else b

/-- Resets that act at the end of a crossing come first, then writes take effect and values are kept and captured, and a device restart
comes last (R396, R422, R423, R453, R475). -/
def Block.writesNow (b : Block) : Block :=
  (((b.resetsDue.takeWrites.keepCapture false).attestCapture).restartsNow).thermalNow

/-! ### The crossing that begins: watches (R63, R238, R357, R380) -/

/-- Refreshes in a row that a copy has had. -/
def Block.refreshes (b : Block) (site copy : Nat) : Nat :=
  ((b.flt.dissents.find? fun d => d.1 == site && d.2.1 == copy).map fun d => d.2.2).getD 0

/-- A copy dissents: it is refreshed. For a channel that is a transient, and where it dissented at the last boundary a retry that has failed
(R378); after three refreshes in a row the copy is excluded, and its site is a permanent fault (R380). -/
def Block.dissent (b : Block) (was : Block) (site copy : Nat) : Block :=
  let n := was.refreshes site copy
  let b := b.bump 0x6C0105 1
  let b := if site / 4096 ≠ 1 then b else (b.transient site).when (decide (n ≠ 0)) fun b => b.retryFailed site
  if n < 3 then b.onFlt fun f => { f with dissents := f.dissents ++ [(site, copy, n + 1)] }
  else
    let b := (b.onFlt fun f => { f with excluded := f.excluded ++ [(site, copy)] }).raise 0xC8 [.id 16 site, .id 2 copy]
    b.permanent site 1

/-- The copies that dissent at a boundary (R374). -/
def Block.dissentsNow (b : Block) (l : List (BitVec 16 × Fin 3)) : Block :=
  let was := b
  let l := (l.map fun d => (d.1.toNat, d.2.val)).filter fun d => !b.flt.excluded.contains d
  let calm := (b.flt.dissents.filter fun d => d.1 / 4096 == 1 && !l.any fun x => x.1 == d.1).map Prod.fst
  let b := forEach calm (b.onFlt fun f => { f with dissents := [] }) fun s b => b.retryOk s
  forEach l b fun d b => b.dissent was d.1 d.2

/-- Triple-modular voters as they have reported (R357): a copy that disagrees again after its refresh fails them, and so does one of the
two that are left where the third is excluded (R380). -/
def Block.votersNow (b : Block) (noMajority : Bool) (l : List (BitVec 16 × Fin 3)) : Block :=
  let again := l.any fun d => decide (1 ≤ b.refreshes d.1.toNat d.2.val)
  let two := l.any fun d => b.flt.excluded.any fun x => x.1 == d.1.toNat && x.2 != d.2.val
  let fail := noMajority || again || two
  let b := b.dissentsNow l
  let b := b.onTwin fun t => { t with voterRun := if fail || !l.isEmpty then 0 else t.voterRun + 1 }
  if fail then b.sourceFail 1 else if b.twin.voterRun = 16 then b.sourceClear 1 else b

/-- A schedule table whose position disagrees with its slot: it is fetched again, which fails where it disagreed at the last boundary. -/
def Block.watchTable (b : Block) (was : List Nat) (t : Nat) : Block :=
  let b := (b.bump 0x200002 1).raise 0x18 [.id 12 t, b.hereFld]
  let b := b.transient (siteId 7 t)
  if was.contains t then b.retryFailed (siteId 7 t) else b

/-- The schedule watchdog (R238). -/
def Block.watchdog (b : Block) (bad : List Nat) : Block :=
  let was := b.sets.badTables
  let b := b.onSets fun s => { s with badTables := bad, lastBad := if bad.isEmpty then s.lastBad else b.time.now }
  let b := forEach (was.filter fun t => !bad.contains t) b fun t b => b.retryOk (siteId 7 t)
  let b := forEach bad b fun t b => b.watchTable was t
  if bad.isEmpty then
    if b.sets.lastBad ≠ 0 ∧ b.sets.lastBad + 1024 = b.time.now then b.sourceClear 6 else b
  else (b.testFails 2).sourceFail 6

/-- The conflicts of the timetable; while a swap or resync is due in the crossing they are counted with it (R63, R447). -/
def Block.timetableNow (b : Block) : Block :=
  if b.resyncDue || b.swapDue then b else b.ttBeforeRelease.ttConflicts.firesNow

/-- A C-role chooses the command of the crossing's downlink frames. At E that follows the effects of the resync. -/
def Block.commandNow (b : Block) : Block :=
  if !b.cRole then b
  else if b.resyncDue then b.onAcc fun a => { a with payload := 0, fwdNow := none }
  else b.chooseCommand

/-- In streaming mode an F-role's records of the crossing before go into OUT (R184). -/
def Block.streamNow (b : Block) : Block := b.when (!b.cRole) Block.streamOut

/-- The scrub addresses advance behind the reserved cycle; where the largest memory is through at step 1, a pass is counted (R376). -/
def Block.scrubStep (b : Block) : Block :=
  let b := b.onFlt fun t => { t with scrub := t.scrub + 1 }
  if b.flt.scrub % 16384 = 0 then b.bump 0x6C0003 1 else b

/-! ### The crossing that begins: lanes, plans and the rest -/

/-- Lanes of uplinks, timing and cross-link links, and of an F-role's group, retire at the boundary (R382). -/
def Block.lanesDue (b : Block) : Block :=
  forEach b.flt.dueLanes (b.onFlt fun f => { f with dueLanes := [] }) fun l b => b.laneRetired l

/-- Halves that no link uses any more go Off or Dormant (R292). -/
def Block.parkNow (b : Block) : Block :=
  match b.sets.parkAt with
  | some x => if x ≤ b.time.now then (b.onSets fun s => { s with parkAt := none }).parkLanes else b
  | none => b

/-- A C-role tells the workers that a retirement affects of the plan and its boundary (R383). -/
def Block.tellPlans (b : Block) : Block :=
  match b.flt.boundary with
  | some n =>
    if b.flt.tell.isEmpty ∨ !b.cRole then b
    else
      let ports := b.flt.tell.eraseDups
      let value := planNumber b.planFor * 2 ^ 48 + n % 2 ^ 48
      let b := b.onFlt fun f => { f with tell := [] }
      if b.anyRetired && b.planFor.isNone then b
      else forEach ports b fun p b => b.ownWrite p 0x6C0004 (bytesLE 8 value) false
  | none => b

/-- What a crossing begins with in a device that has its crossings. -/
def Block.openRunning (b : Block) (i : CrossInput) : Block :=
  let b := ((b.takeWaiting.bootSlices).writeRelease).joinPorts
  let b := ((b.claimNow.resyncWait).resyncWhenClear).applySamples.reversion
  let b := (((b.lanesDue.remask).clearDirectory).release (b.time.now - 1)).streamNow.inputsRead
  let b := ((((b.trimEdges.markerEdges i.markers).pulsesNow i.pulses).keepFires).armPending).activateLinks.presentWaiting
  let b := b.parkNow.primitiveStep.commandNow
  let b := ((b.timetableNow).votersNow i.voterFail i.dissents).watchdog i.badTables
  let b := ((b.adapt i.lms).leakageReport i.leakage).supplyBoundary.scrubStep
  (b.tellPlans.judgeAlert).drainPaths

/-- What a crossing begins with, after the counters have advanced. -/
def Block.openCrossing (b : Block) (i : CrossInput) (wrap : Bool) (last lastLen : Nat) : Block :=
  let b := if wrap then b.openOrbit last lastLen true else b
  let b := ((b.clockNow i.fx).measuresNow).writesNow
  if b.running ∧ b.time.everLocked then b.openRunning i else b.when b.served Block.judgeAlert

/-! ### Boundaries -/

/-- A boundary of a device that runs on its fallback oscillator: no crossing is counted (R36). -/
def Block.idleBoundary (b : Block) (i : CrossInput) : Block :=
  let b := ((b.swapsTaken.repliesOut.clockNow i.fx).measuresNow).writesNow
  b.when b.served fun b => (b.takeWaiting.judgeAlert).drainPaths

/-- A crossing boundary. -/
def Block.boundary (b : Block) (i : CrossInput) (wrap : Bool) : Block :=
  let len := b.orbitLen
  let b := b.onMrg fun m => { m with upsets := i.upsets.map fun e => (e.1.val + 1, e.2.1, e.2.2.val) }
  ((b.finishCrossing).advance wrap).openCrossing i wrap b.time.orbit len

/-- The boundary that a command of a crossing names: inside an orbit, or into the next one. At a resync crossing neither wraps. -/
def Block.boundaryCmd (b : Block) (i : CrossInput) (wrap : Bool) : Block :=
  if !(b.running && b.time.everLocked) then b.when (b.served && !wrap) fun b => b.idleBoundary i
  else if b.lastSlot ≠ wrap then b.when (b.resyncNext && !wrap) fun b => b.boundary i false
  else b.boundary i (wrap && !b.resyncNext)

/-! ### The resync crossing (R41, R178, R202, R253, R456) -/

/-- The resync takes effect, and with it what a slot 0 begins; then the crossing's command is chosen (R178). -/
def Block.resyncNow (b : Block) (r : Resync) : Block :=
  let len := b.time.slot
  let b := ((b.resyncEffects r).commandNow).openOrbit b.time.orbit len false
  if b.swapDue then b else b.ttBeforeRelease.ttConflicts.firesNow

/-! ### Meanings -/

/-- CROSSING_BOUNDARY (R35). -/
def execCrossingBoundary (i : CrossInput) (s : State) : Host.Outcome State Fault Refusal := s.run fun b => b.boundaryCmd i false

/-- ORBIT_BOUNDARY (R38). -/
def execOrbitBoundary (i : CrossInput) (s : State) : Host.Outcome State Fault Refusal := s.run fun b => b.boundaryCmd i true

/-- RESYNC_TAKE_EFFECT (R41): crossing E. -/
def execResyncTakeEffect (s : State) : Host.Outcome State Fault Refusal :=
  s.run fun b =>
    match b.time.resync with
    | some r => b.when (b.running && decide (r.at_ ≤ b.time.now)) fun b => b.resyncNow r
    | none => b

end Sys2Proof.Machine
end

