-- ==== Sys2Proof/Machine/Dispatch.lean ====
section
/-! DEFINITION. The dispatch of a command to its meaning: one arm for each row of spec/opcode_table.json. -/

namespace Sys2Proof.Machine

/-- The effect of a command on everything but the queue. -/
def exec (i : Instr) (s : State) : Host.Outcome State Fault Refusal :=
  match i with
  | .powerOnReset roleSel twinId => Sys2Proof.Machine.execPowerOnReset roleSel twinId s
  | .pinReset => Sys2Proof.Machine.execPinReset s
  | .rstNRise roleSel twinId => Sys2Proof.Machine.execRstNRise roleSel twinId s
  | .fuseLoad r => Sys2Proof.Machine.execFuseLoad r s
  | .bootFolioReadDone image => Sys2Proof.Machine.execBootFolioReadDone image s
  | .folioProcessed v => Sys2Proof.Machine.execFolioProcessed v s
  | .bookplateRead image => Sys2Proof.Machine.execBookplateRead image s
  | .bookplateRetry => Sys2Proof.Machine.execBookplateRetry s
  | .bookplateReread reads => Sys2Proof.Machine.execBookplateReread reads s
  | .probeBookplateRead e image => Sys2Proof.Machine.execProbeBookplateRead e image s
  | .probeBookplateReread e reads => Sys2Proof.Machine.execProbeBookplateReread e reads s
  | .flashFolioWrite h image v => Sys2Proof.Machine.execFlashFolioWrite h image v s
  | .preferredSlotWrite h slot => Sys2Proof.Machine.execPreferredSlotWrite h slot s
  | .deviceRestart h key => Sys2Proof.Machine.execDeviceRestart h key s
  | .commRestart h key => Sys2Proof.Machine.execCommRestart h key s
  | .subsystemReset h sub value => Sys2Proof.Machine.execSubsystemReset h sub value s
  | .subsystemResetEnd block => Sys2Proof.Machine.execSubsystemResetEnd block s
  | .crossingBoundary n => Sys2Proof.Machine.execCrossingBoundary n s
  | .orbitBoundary n => Sys2Proof.Machine.execOrbitBoundary n s
  | .corePllLock => Sys2Proof.Machine.execCorePllLock s
  | .corePllUnlock => Sys2Proof.Machine.execCorePllUnlock s
  | .timingWord dom x margin => Sys2Proof.Machine.execTimingWord dom x margin s
  | .domainLost dom => Sys2Proof.Machine.execDomainLost dom s
  | .resyncNeededTick => Sys2Proof.Machine.execResyncNeededTick s
  | .domainSwitchRequest h dom => Sys2Proof.Machine.execDomainSwitchRequest h dom s
  | .domainSwitchExecute => Sys2Proof.Machine.execDomainSwitchExecute s
  | .alignDelayWrite h side d => Sys2Proof.Machine.execAlignDelayWrite h side d s
  | .roundTripCampaignEnd p => Sys2Proof.Machine.execRoundTripCampaignEnd p s
  | .resync count => Sys2Proof.Machine.execResync count s
  | .resyncTakeEffect => Sys2Proof.Machine.execResyncTakeEffect s
  | .mergeResync => Sys2Proof.Machine.execMergeResync s
  | .timetableEntryWrite h entry second value => Sys2Proof.Machine.execTimetableEntryWrite h entry second value s
  | .none entry => Sys2Proof.Machine.execNone entry s
  | .calFire entry => Sys2Proof.Machine.execCalFire entry s
  | .swap entry => Sys2Proof.Machine.execSwap entry s
  | .regularStart entry => Sys2Proof.Machine.execRegularStart entry s
  | .measure entry => Sys2Proof.Machine.execMeasure entry s
  | .timeMark entry => Sys2Proof.Machine.execTimeMark entry s
  | .todMark entry => Sys2Proof.Machine.execTodMark entry s
  | .domainSwitch entry => Sys2Proof.Machine.execDomainSwitch entry s
  | .ltLeadingEdge c at_ level => Sys2Proof.Machine.execLtLeadingEdge c at_ level s
  | .ltRiseMerged c at_ level => Sys2Proof.Machine.execLtRiseMerged c at_ level s
  | .ltTrailingEdge c at_ level => Sys2Proof.Machine.execLtTrailingEdge c at_ level s
  | .deadTimeEnd c => Sys2Proof.Machine.execDeadTimeEnd c s
  | .entrySaturated c => Sys2Proof.Machine.execEntrySaturated c s
  | .htLeadingEdge c at_ level => Sys2Proof.Machine.execHtLeadingEdge c at_ level s
  | .htOrphan c => Sys2Proof.Machine.execHtOrphan c s
  | .holdClose c bank => Sys2Proof.Machine.execHoldClose c bank s
  | .channelSettled c => Sys2Proof.Machine.execChannelSettled c s
  | .binCalIterationEnd counts => Sys2Proof.Machine.execBinCalIterationEnd counts s
  | .binCalRestart h value => Sys2Proof.Machine.execBinCalRestart h value s
  | .programmeEnable h prog config => Sys2Proof.Machine.execProgrammeEnable h prog config s
  | .armEdge falling at_ => Sys2Proof.Machine.execArmEdge falling at_ s
  | .shotEnd => Sys2Proof.Machine.execShotEnd s
  | .campaignAbort h value => Sys2Proof.Machine.execCampaignAbort h value s
  | .slotPeriodStart half codes => Sys2Proof.Machine.execSlotPeriodStart half codes s
  | .calRunEnd r => Sys2Proof.Machine.execCalRunEnd r s
  | .classifyEntry c => Sys2Proof.Machine.execClassifyEntry c s
  | .channelTimeout c => Sys2Proof.Machine.execChannelTimeout c s
  | .autoAcceptDue => Sys2Proof.Machine.execAutoAcceptDue s
  | .selfTriggerDropped => Sys2Proof.Machine.execSelfTriggerDropped s
  | .stackWrite r => Sys2Proof.Machine.execStackWrite r s
  | .windowRead => Sys2Proof.Machine.execWindowRead s
  | .recordRelease => Sys2Proof.Machine.execRecordRelease s
  | .scrubCycle found => Sys2Proof.Machine.execScrubCycle found s
  | .queueRecordWrite q record => Sys2Proof.Machine.execQueueRecordWrite q record s
  | .queueStaleClose q => Sys2Proof.Machine.execQueueStaleClose q s
  | .queueHoldDrain q => Sys2Proof.Machine.execQueueHoldDrain q s
  | .swapOrbitWrite h orbit => Sys2Proof.Machine.execSwapOrbitWrite h orbit s
  | .swapDisarm h => Sys2Proof.Machine.execSwapDisarm h s
  | .setSwap => Sys2Proof.Machine.execSetSwap s
  | .shadowHoldEnd => Sys2Proof.Machine.execShadowHoldEnd s
  | .rsEntryWrite h index sub value => Sys2Proof.Machine.execRsEntryWrite h index sub value s
  | .overContractAged p => Sys2Proof.Machine.execOverContractAged p s
  | .trainingAttempt l => Sys2Proof.Machine.execTrainingAttempt l s
  | .trainingFrame l x margin => Sys2Proof.Machine.execTrainingFrame l x margin s
  | .signalLost l cause => Sys2Proof.Machine.execSignalLost l cause s
  | .frameLate l margin => Sys2Proof.Machine.execFrameLate l margin s
  | .framePresented l x margin => Sys2Proof.Machine.execFramePresented l x margin s
  | .frameAct => Sys2Proof.Machine.execFrameAct s
  | .laneConfigWrite h l value => Sys2Proof.Machine.execLaneConfigWrite h l value s
  | .prbsOff h l => Sys2Proof.Machine.execPrbsOff h l s
  | .prbsGenerate h l => Sys2Proof.Machine.execPrbsGenerate h l s
  | .prbsCheck h l => Sys2Proof.Machine.execPrbsCheck h l s
  | .prbsBoth h l => Sys2Proof.Machine.execPrbsBoth h l s
  | .prbsCheckerLocked l => Sys2Proof.Machine.execPrbsCheckerLocked l s
  | .nop => Sys2Proof.Machine.execNop s
  | .accept kind orbit slot => Sys2Proof.Machine.execAccept kind orbit slot s
  | .calFireCommand mask at_ count => Sys2Proof.Machine.execCalFireCommand mask at_ count s
  | .measureCommand prog scope count => Sys2Proof.Machine.execMeasureCommand prog scope count s
  | .swapCommand orbit => Sys2Proof.Machine.execSwapCommand orbit s
  | .claimSet unitB value => Sys2Proof.Machine.execClaimSet unitB value s
  | .claimRelease unitB => Sys2Proof.Machine.execClaimRelease unitB s
  | .claimRestore unitB => Sys2Proof.Machine.execClaimRestore unitB s
  | .dictFast path index sub value => Sys2Proof.Machine.execDictFast path index sub value s
  | .crosslinkFrame l38 l39 => Sys2Proof.Machine.execCrosslinkFrame l38 l39 s
  | .selftestEnd otherFail => Sys2Proof.Machine.execSelftestEnd otherFail s
  | .mismatchDecision => Sys2Proof.Machine.execMismatchDecision s
  | .crosslinkLost => Sys2Proof.Machine.execCrosslinkLost s
  | .crosslinkRestored => Sys2Proof.Machine.execCrosslinkRestored s
  | .unitRelease => Sys2Proof.Machine.execUnitRelease s
  | .pairingBoundary => Sys2Proof.Machine.execPairingBoundary s
  | .pairingTimeout => Sys2Proof.Machine.execPairingTimeout s
  | .resyncFollowStart => Sys2Proof.Machine.execResyncFollowStart s
  | .resyncFollowEnd => Sys2Proof.Machine.execResyncFollowEnd s
  | .resyncSynchronised => Sys2Proof.Machine.execResyncSynchronised s
  | .baseClaimWrite h value => Sys2Proof.Machine.execBaseClaimWrite h value s
  | .planBoundary => Sys2Proof.Machine.execPlanBoundary s
  | .planWrite h value => Sys2Proof.Machine.execPlanWrite h value s
  | .retirementListWrite ok => Sys2Proof.Machine.execRetirementListWrite ok s
  | .listWriteRetry ok => Sys2Proof.Machine.execListWriteRetry ok s
  | .restoreSite h site => Sys2Proof.Machine.execRestoreSite h site s
  | .retireSite h site => Sys2Proof.Machine.execRetireSite h site s
  | .clearFaultLog h value => Sys2Proof.Machine.execClearFaultLog h value s
  | .read h index sub => Sys2Proof.Machine.execRead h index sub s
  | .write h index sub body => Sys2Proof.Machine.execWrite h index sub body s
  | .download h index sub length => Sys2Proof.Machine.execDownload h index sub length s
  | .segment o tag seq data => Sys2Proof.Machine.execSegment o tag seq data s
  | .segmentAck o tag next => Sys2Proof.Machine.execSegmentAck o tag next s
  | .abort h code => Sys2Proof.Machine.execAbort h code s
  | .catalogue h index sub => Sys2Proof.Machine.execCatalogue h index sub s
  | .login h level credential v => Sys2Proof.Machine.execLogin h level credential v s
  | .logout h => Sys2Proof.Machine.execLogout h s
  | .event p message => Sys2Proof.Machine.execEvent p message s
  | .transferTimeout o tag => Sys2Proof.Machine.execTransferTimeout o tag s
  | .sessionTimeout session => Sys2Proof.Machine.execSessionTimeout session s
  | .loginLockoutEnd => Sys2Proof.Machine.execLoginLockoutEnd s
  | .identifyFrame busB src identity node => Sys2Proof.Machine.execIdentifyFrame busB src identity node s
  | .canNodeIdConflict busB => Sys2Proof.Machine.execCanNodeIdConflict busB s
  | .heartbeat => Sys2Proof.Machine.execHeartbeat s
  | .canBusOff busB => Sys2Proof.Machine.execCanBusOff busB s
  | .canBusRecovered busB => Sys2Proof.Machine.execCanBusRecovered busB s
  | .canSyncAcquired busB => Sys2Proof.Machine.execCanSyncAcquired busB s
  | .inbandMessage envelope message => Sys2Proof.Machine.execInbandMessage envelope message s
  | .serviceRecord p record => Sys2Proof.Machine.execServiceRecord p record s
  | .proxyTimeout p tag => Sys2Proof.Machine.execProxyTimeout p tag s
  | .pairWriteApply => Sys2Proof.Machine.execPairWriteApply s
  | .keep h key => Sys2Proof.Machine.execKeep h key s
  | .keepComplete ok => Sys2Proof.Machine.execKeepComplete ok s
  | .forget h key => Sys2Proof.Machine.execForget h key s
  | .latchClear h word bits => Sys2Proof.Machine.execLatchClear h word bits s
  | .historyClear h value => Sys2Proof.Machine.execHistoryClear h value s
  | .registerWrite h index sub value => Sys2Proof.Machine.execRegisterWrite h index sub value s
  | .cvuStart h u => Sys2Proof.Machine.execCvuStart h u s
  | .cvuStop h u => Sys2Proof.Machine.execCvuStop h u s
  | .cvuData h u data => Sys2Proof.Machine.execCvuData h u data s
  | .cvuRunningValueWrite h u value => Sys2Proof.Machine.execCvuRunningValueWrite h u value s
  | .readyTimeout => Sys2Proof.Machine.execReadyTimeout s
  | .bootReady => Sys2Proof.Machine.execBootReady s
  | .bootReadyRepeat => Sys2Proof.Machine.execBootReadyRepeat s
  | .releaseDecision => Sys2Proof.Machine.execReleaseDecision s
  | .releaseOrbitWrite h orbit => Sys2Proof.Machine.execReleaseOrbitWrite h orbit s
  | .bootReleased => Sys2Proof.Machine.execBootReleased s
  | .rollbackCommit h key burns => Sys2Proof.Machine.execRollbackCommit h key burns s
  | .ownerFirstKey h hash burns => Sys2Proof.Machine.execOwnerFirstKey h hash burns s
  | .ownerKeyBurn h image v burns => Sys2Proof.Machine.execOwnerKeyBurn h image v burns s
  | .ownerKeyRevoke h image v burns => Sys2Proof.Machine.execOwnerKeyRevoke h image v burns s
  | .vendorKeyRevoke h image v burns => Sys2Proof.Machine.execVendorKeyRevoke h image v burns s
  | .unlockTokenWrite h image => Sys2Proof.Machine.execUnlockTokenWrite h image s
  | .attestNonceWrite h nonce => Sys2Proof.Machine.execAttestNonceWrite h nonce s
  | .attestReportReady burns => Sys2Proof.Machine.execAttestReportReady burns s
  | .tempMeasurement readings => Sys2Proof.Machine.execTempMeasurement readings s
  | .sensorsDegradedTick => Sys2Proof.Machine.execSensorsDegradedTick s
  | .supplyWarningBegin rail millivolts => Sys2Proof.Machine.execSupplyWarningBegin rail millivolts s
  | .supplyWarningEnd => Sys2Proof.Machine.execSupplyWarningEnd s
  | .supplyFreezeEnd => Sys2Proof.Machine.execSupplyFreezeEnd s
  | .envWireExcursion e => Sys2Proof.Machine.execEnvWireExcursion e s
  | .envFaultEnter e => Sys2Proof.Machine.execEnvFaultEnter e s
  | .envFaultClear e => Sys2Proof.Machine.execEnvFaultClear e s
  | .envoutPeriod o => Sys2Proof.Machine.execEnvoutPeriod o s
  | .idcode => Sys2Proof.Machine.execIdcode s
  | .samplePreload load => Sys2Proof.Machine.execSamplePreload load s
  | .extest => Sys2Proof.Machine.execExtest s
  | .clamp => Sys2Proof.Machine.execClamp s
  | .highz => Sys2Proof.Machine.execHighz s
  | .bypass code => Sys2Proof.Machine.execBypass code s
  | .tapReset => Sys2Proof.Machine.execTapReset s
  | .clockRecoveryLocked l ctle taps => Sys2Proof.Machine.execClockRecoveryLocked l ctle taps s
  | .canErrorPassive busB entered counters => Sys2Proof.Machine.execCanErrorPassive busB entered counters s
  | .canFrameIgnored busB => Sys2Proof.Machine.execCanFrameIgnored busB s
  | .opcodeNotListed h op index sub => Sys2Proof.Machine.execOpcodeNotListed h op index sub s
  | .commonModeInsideWindow e => Sys2Proof.Machine.execCommonModeInsideWindow e s
  | .bootRecordSealed ok => Sys2Proof.Machine.execBootRecordSealed ok s

end Sys2Proof.Machine
end

