-- ==== Sys2Proof/Safety.lean ====
section
/-! DEFINITION. What a safe run is, and what a command leaves as it was. -/

namespace Sys2Proof

/-- A state whose next step completes. -/
def Safe (s : Machine.State) : Prop := ∃ t, Machine.step s = .next t

/-- A run of n steps that completes. -/
def SafeRun (n : Nat) (s : Machine.State) : Prop := ∃ t, core.run n s = .next t

end Sys2Proof

namespace Sys2Proof.Machine

/-- The parts of the block, one for each field of `Block`; three of them stand as
two parts each: the entries of the dictionary engine (`regs`) and its rest, the straps as sampled (`role`) and the rest of the boot state,
the crossing count (`now`) and the rest of timekeeping. -/
inductive Part where
  | fuses | flash | role | boot | sets | now | time | chans | chMask | chSince | leads | plate | bin | iu | adc | acc | stk | queues | mrg | frm
  | cvus | twin | flt | regs | dict | ev | sec | env | jtag | free
deriving DecidableEq, Repr

/-- Two blocks agree in a part. -/
def Part.same : Part → Block → Block → Prop
  | .fuses, a, b => b.fuses = a.fuses
  | .flash, a, b => b.flash = a.flash
  | .role, a, b => b.boot.roleC = a.boot.roleC ∧ b.boot.unitB = a.boot.unitB
  | .boot, a, b => { b.boot with roleC := false, unitB := false } = { a.boot with roleC := false, unitB := false }
  | .sets, a, b => b.sets = a.sets
  | .now, a, b => b.time.now = a.time.now
  | .time, a, b => { b.time with now := 0 } = { a.time with now := 0 }
  | .chans, a, b => b.chans = a.chans
  | .chMask, a, b => b.chMask = a.chMask
  | .chSince, a, b => b.chSince = a.chSince
  | .leads, a, b => b.leads = a.leads
  | .plate, a, b => b.plate = a.plate
  | .bin, a, b => b.bin = a.bin
  | .iu, a, b => b.iu = a.iu
  | .adc, a, b => b.adc = a.adc
  | .acc, a, b => b.acc = a.acc
  | .stk, a, b => b.stk = a.stk
  | .queues, a, b => b.queues = a.queues
  | .mrg, a, b => b.mrg = a.mrg
  | .frm, a, b => b.frm = a.frm
  | .cvus, a, b => b.cvus = a.cvus
  | .twin, a, b => b.twin = a.twin
  | .flt, a, b => b.flt = a.flt
  | .regs, a, b => b.dict.regs = a.dict.regs
  | .dict, a, b => { b.dict with regs := [] } = { a.dict with regs := [] }
  | .ev, a, b => b.ev = a.ev
  | .sec, a, b => b.sec = a.sec
  | .env, a, b => b.env = a.env
  | .jtag, a, b => b.jtag = a.jtag
  | .free, a, b => b.free = a.free

/-- Nothing but the parts listed differs between two blocks. -/
structure Keeps (l : List Part) (a b : Block) : Prop where
  same : ∀ p, p ∉ l → p.same a b

/-- The parts of one list stand in another. -/
def partsIn (l m : List Part) : Bool := l.all m.contains

/-- The parts of the block that a command can change. -/
def footprint : Instr → List Part
  | .autoAcceptDue =>
    [.acc]
  | .entrySaturated .. | .channelSettled .. =>
    [.chans]
  | .loginLockoutEnd | .heartbeat | .canSyncAcquired .. =>
    [.dict]
  | .tempMeasurement .. | .supplyWarningEnd | .envWireExcursion .. | .envoutPeriod .. | .commonModeInsideWindow .. =>
    [.env]
  | .prbsCheckerLocked .. =>
    [.frm]
  | .idcode | .extest | .clamp | .highz | .bypass .. | .tapReset =>
    [.jtag]
  | .canFrameIgnored .. =>
    [.regs]
  | .none .. =>
    [.time]
  | .resyncFollowEnd =>
    [.acc, .twin]
  | .ltTrailingEdge .. | .deadTimeEnd .. =>
    [.chans, .iu]
  | .ltRiseMerged .. =>
    [.chans, .regs]
  | .samplePreload .. =>
    [.jtag, .free]
  | .bookplateRetry =>
    [.plate, .env]
  | .identifyFrame .. =>
    [.regs, .dict]
  | .resyncNeededTick | .canNodeIdConflict .. | .sensorsDegradedTick =>
    [.regs, .ev]
  | .rstNRise .. =>
    [.role, .boot]
  | .recordRelease =>
    [.stk, .regs]
  | .clockRecoveryLocked .. =>
    [.time, .frm]
  | .selfTriggerDropped =>
    [.acc, .regs, .ev]
  | .binCalIterationEnd .. =>
    [.bin, .regs, .ev]
  | .subsystemResetEnd .. =>
    [.boot, .regs, .ev]
  | .bootFolioReadDone .. =>
    [.boot, .sets, .free]
  | .holdClose .. =>
    [.chans, .adc, .regs]
  | .htOrphan .. =>
    [.chans, .regs, .ev]
  | .armEdge .. | .shotEnd =>
    [.iu, .regs, .ev]
  | .bookplateReread .. =>
    [.plate, .regs, .ev]
  | .queueStaleClose .. =>
    [.queues, .regs, .ev]
  | .canBusOff .. | .canBusRecovered .. | .canErrorPassive .. =>
    [.regs, .dict, .ev]
  | .probeBookplateReread .. | .supplyWarningBegin .. | .envFaultEnter .. | .envFaultClear .. =>
    [.regs, .ev, .env]
  | .stackWrite .. =>
    [.stk, .regs, .ev]
  | .mergeResync =>
    [.time, .acc, .mrg]
  | .regularStart .. =>
    [.time, .adc, .regs]
  | .domainLost .. | .domainSwitchExecute | .domainSwitch .. =>
    [.time, .regs, .ev]
  | .claimSet .. | .claimRelease .. | .claimRestore .. | .selftestEnd .. | .mismatchDecision | .crosslinkLost
  | .crosslinkRestored | .resyncSynchronised =>
    [.twin, .regs, .ev]
  | .readyTimeout | .releaseDecision =>
    [.boot, .mrg, .regs, .ev]
  | .unitRelease | .pairingTimeout =>
    [.boot, .twin, .regs, .ev]
  | .channelTimeout .. =>
    [.chans, .adc, .regs, .ev]
  | .htLeadingEdge .. =>
    [.chans, .leads, .iu, .regs]
  | .classifyEntry .. =>
    [.chans, .stk, .regs, .ev]
  | .sessionTimeout .. =>
    [.cvus, .regs, .dict, .ev]
  | .retirementListWrite .. | .listWriteRetry .. =>
    [.flash, .flt, .regs, .ev]
  | .attestReportReady .. =>
    [.fuses, .regs, .ev, .sec]
  | .measureCommand .. =>
    [.iu, .acc, .regs, .ev]
  | .bookplateRead .. =>
    [.plate, .regs, .ev, .free]
  | .queueRecordWrite .. | .queueHoldDrain .. | .overContractAged .. =>
    [.queues, .mrg, .regs, .ev]
  | .probeBookplateRead .. =>
    [.regs, .ev, .env, .free]
  | .resync .. | .calFireCommand .. =>
    [.time, .acc, .regs, .ev]
  | .calFire .. =>
    [.time, .chans, .iu, .regs]
  | .measure .. =>
    [.time, .iu, .regs, .ev]
  | .corePllUnlock =>
    [.time, .twin, .regs, .ev]
  | .supplyFreezeEnd =>
    [.adc, .twin, .regs, .ev, .env]
  | .resyncFollowStart =>
    [.boot, .queues, .mrg, .twin, .regs]
  | .ltLeadingEdge .. =>
    [.chans, .leads, .iu, .regs, .ev]
  | .windowRead =>
    [.stk, .queues, .mrg, .regs, .ev]
  | .timeMark .. | .todMark .. =>
    [.time, .queues, .mrg, .regs, .ev]
  | .accept .. =>
    [.acc, .stk, .queues, .mrg, .regs, .ev]
  | .bootReadyRepeat =>
    [.boot, .queues, .mrg, .twin, .regs, .ev]
  | .segmentAck .. | .transferTimeout .. | .proxyTimeout .. =>
    [.queues, .mrg, .twin, .regs, .dict, .ev]
  | .pairingBoundary =>
    [.boot, .acc, .queues, .mrg, .twin, .regs, .ev]
  | .bootReady =>
    [.boot, .queues, .mrg, .twin, .regs, .ev, .free]
  | .abort .. =>
    [.boot, .sets, .queues, .mrg, .regs, .dict, .ev]
  | .roundTripCampaignEnd .. =>
    [.time, .queues, .mrg, .twin, .regs, .dict, .ev]
  | .event .. =>
    [.boot, .queues, .mrg, .flt, .regs, .dict, .ev, .free]
  | .shadowHoldEnd =>
    [.boot, .sets, .queues, .mrg, .frm, .regs, .dict, .ev]
  | .preferredSlotWrite .. | .deviceRestart .. | .commRestart .. | .subsystemReset .. | .alignDelayWrite ..
  | .timetableEntryWrite .. | .swapOrbitWrite .. | .swapDisarm .. | .rsEntryWrite .. | .laneConfigWrite ..
  | .prbsOff .. | .prbsGenerate .. | .prbsCheck .. | .prbsBoth .. | .baseClaimWrite .. | .planWrite .. | .read ..
  | .catalogue .. | .keep .. | .latchClear .. | .historyClear .. | .cvuRunningValueWrite .. | .releaseOrbitWrite ..
  | .opcodeNotListed .. =>
    [.boot, .sets, .queues, .mrg, .twin, .regs, .dict, .ev]
  | .keepComplete .. =>
    [.flash, .queues, .mrg, .twin, .regs, .dict, .ev, .free]
  | .binCalRestart .. =>
    [.boot, .sets, .bin, .queues, .mrg, .twin, .regs, .dict, .ev]
  | .programmeEnable .. | .campaignAbort .. | .registerWrite .. =>
    [.boot, .sets, .iu, .queues, .mrg, .twin, .regs, .dict, .ev]
  | .logout .. | .cvuStart .. | .cvuStop .. | .cvuData .. =>
    [.boot, .sets, .queues, .mrg, .cvus, .twin, .regs, .dict, .ev]
  | .clearFaultLog .. =>
    [.boot, .sets, .queues, .mrg, .twin, .flt, .regs, .dict, .ev]
  | .flashFolioWrite .. =>
    [.boot, .sets, .queues, .mrg, .twin, .regs, .dict, .ev, .free]
  | .unlockTokenWrite .. | .attestNonceWrite .. =>
    [.boot, .sets, .queues, .mrg, .twin, .regs, .dict, .ev, .sec]
  | .domainSwitchRequest .. =>
    [.boot, .sets, .time, .queues, .mrg, .twin, .regs, .dict, .ev]
  | .calRunEnd .. | .trainingAttempt .. =>
    [.chans, .adc, .mrg, .frm, .twin, .flt, .regs, .ev, .free]
  | .bootRecordSealed .. =>
    [.flash, .boot, .queues, .mrg, .twin, .regs, .dict, .ev, .free]
  | .forget .. =>
    [.flash, .boot, .sets, .queues, .mrg, .twin, .regs, .dict, .ev]
  | .rollbackCommit .. | .ownerFirstKey .. =>
    [.fuses, .boot, .sets, .queues, .mrg, .twin, .regs, .dict, .ev]
  | .serviceRecord .. =>
    [.boot, .queues, .mrg, .frm, .twin, .flt, .regs, .dict, .ev, .free]
  | .login .. =>
    [.boot, .sets, .queues, .mrg, .twin, .regs, .dict, .ev, .sec, .free]
  | .ownerKeyBurn .. | .ownerKeyRevoke .. | .vendorKeyRevoke .. =>
    [.fuses, .boot, .sets, .queues, .mrg, .twin, .regs, .dict, .ev, .free]
  | .planBoundary =>
    [.sets, .chans, .adc, .mrg, .frm, .twin, .flt, .regs, .ev, .free]
  | .corePllLock | .timingWord .. | .trainingFrame .. | .signalLost .. | .frameLate .. | .framePresented .. =>
    [.time, .chans, .adc, .mrg, .frm, .twin, .flt, .regs, .ev, .free]
  | .swapCommand .. =>
    [.sets, .chans, .adc, .acc, .mrg, .frm, .twin, .flt, .regs, .ev, .free]
  | .bootReleased =>
    [.boot, .sets, .chans, .adc, .acc, .mrg, .frm, .twin, .flt, .regs, .ev, .free]
  | .slotPeriodStart .. =>
    [.sets, .chans, .adc, .mrg, .frm, .twin, .flt, .regs, .dict, .ev, .env, .free]
  | .scrubCycle .. =>
    [.sets, .chans, .adc, .stk, .queues, .mrg, .frm, .twin, .flt, .regs, .ev, .free]
  | .swap .. =>
    [.sets, .time, .chans, .adc, .acc, .mrg, .frm, .twin, .flt, .regs, .ev, .free]
  | .crosslinkFrame .. =>
    [.time, .chans, .adc, .acc, .queues, .mrg, .frm, .twin, .flt, .regs, .ev, .free]
  | .retireSite .. =>
    [.boot, .sets, .chans, .adc, .queues, .mrg, .frm, .twin, .flt, .regs, .dict, .ev, .free]
  | .restoreSite .. =>
    [.flash, .boot, .sets, .chans, .adc, .queues, .mrg, .frm, .twin, .flt, .regs, .dict, .ev]
  | .setSwap =>
    [.sets, .time, .chans, .chMask, .iu, .adc, .mrg, .frm, .twin, .flt, .regs, .ev, .free]
  | .resyncTakeEffect =>
    [.boot, .sets, .time, .chans, .leads, .iu, .adc, .acc, .stk, .queues, .mrg, .frm, .twin, .regs, .ev]
  | .dictFast .. =>
    [.flash, .time, .chans, .adc, .acc, .mrg, .frm, .cvus, .twin, .flt, .regs, .dict, .ev, .env, .free]
  | .fuseLoad .. =>
    [.flash, .boot, .sets, .chans, .chMask, .bin, .adc, .mrg, .frm, .twin, .flt, .regs, .dict, .ev, .sec, .free]
  | .folioProcessed .. =>
    [.flash, .boot, .sets, .time, .chans, .chMask, .chSince, .adc, .queues, .mrg, .frm, .cvus, .twin, .flt, .regs,
    .dict, .ev, .env, .free]
  | .frameAct | .nop =>
    [.flash, .sets, .time, .chans, .iu, .adc, .acc, .stk, .queues, .mrg, .frm, .cvus, .twin, .flt, .regs, .dict, .ev,
    .env, .free]
  | .write .. | .download .. | .segment .. | .inbandMessage .. =>
    [.fuses, .flash, .boot, .sets, .time, .chans, .bin, .iu, .adc, .queues, .mrg, .frm, .cvus, .twin, .flt, .regs,
    .dict, .ev, .sec, .free]
  | .pinReset =>
    [.flash, .boot, .sets, .time, .chans, .chMask, .chSince, .leads, .plate, .bin, .iu, .adc, .acc, .stk, .queues,
    .mrg, .frm, .cvus, .twin, .flt, .regs, .dict, .ev, .sec, .env]
  | .pairWriteApply =>
    [.fuses, .flash, .boot, .sets, .time, .chans, .chMask, .chSince, .leads, .plate, .bin, .iu, .adc, .acc, .stk,
    .queues, .mrg, .frm, .cvus, .twin, .flt, .regs, .dict, .ev, .sec, .env, .free]
  | .powerOnReset .. =>
    [.flash, .role, .boot, .sets, .now, .time, .chans, .chMask, .chSince, .leads, .plate, .bin, .iu, .adc, .acc, .stk,
    .queues, .mrg, .frm, .cvus, .twin, .flt, .regs, .dict, .ev, .sec, .env, .jtag]
  | .crossingBoundary .. | .orbitBoundary .. =>
    [.fuses, .flash, .boot, .sets, .now, .time, .chans, .chMask, .chSince, .leads, .plate, .bin, .iu, .adc, .acc, .stk,
    .queues, .mrg, .frm, .cvus, .twin, .flt, .regs, .dict, .ev, .sec, .env, .free]

/-- A command completes: it leaves the queue as it was and changes no part of the block outside its footprint, and the block it leaves
meets P. -/
def Does (i : Instr) (s : State) (P : Block → Prop) : Prop :=
  ∃ t, exec i s = .next t ∧ t.pending = s.pending ∧ Keeps (footprint i) s.blk t.blk ∧ P t.blk

/-- A write to the device itself that is heard, that its entry's row and level allow, of the length the entry asks, and with no segmented
transfer on the entry: it reaches the entry's own rule. -/
def Block.writable (b : Block) (h : Hdr) (key len : Nat) : Bool :=
  let c := b.taken h
  h.path == 0 && b.hears h && !c.transferOn (key / 256) (key % 256) &&
    (match c.access h (key / 256) (key % 256) true with
     | .ok d => lengthCode d len == 0
     | .error _ => false)

/-- What an entry's row says of its access. -/
def Block.accessIs (b : Block) (a : Access) (key : Nat) : Bool := (b.entryOf (key / 256) (key % 256)).any fun d => decide (d.access = a)

/-- A command has answered with one response, unless it acts for a pair write, whose response has left (R420). -/
def Answers (a b : Block) (r : Reply) : Prop := b.dict.replies = a.dict.replies ++ (if a.dict.mute then [] else [r])

/-- A command has answered a WRITE of its own message with its acknowledgement (R401). -/
def Acks (a b : Block) (h : Hdr) (key : Nat) : Prop := Answers a b (mkReply h 0x02 (key / 256) (key % 256) 0 [])

/-- A command has answered with ABORT and a code of R404. -/
def Refuses (a b : Block) (h : Hdr) (key code : Nat) : Prop :=
  Answers a b (mkReply h 0x07 (key / 256) (key % 256) 0 (bytesLE 4 code))

/-- A source has been raised once between two blocks, and nothing else has: its occurrences have gone up by one, its latch is set, no entry
outside the event tables has changed, and its message stands in the history ring unless it is masked (R425 to R429). -/
structure Raised (a b : Block) (n : Nat) : Prop where
  count : b.reg (sourceKey n 3) = satN 32 (a.reg (sourceKey n 3) + 1)
  latch : b.latched n = true
  other : ∀ k, k < 0x780000 → b.reg k = a.reg k
  mask  : a.masked n = true → b.ev = a.ev
  ring  : a.masked n = false → ∃ m : Word64, sourceOf m = n ∧ (m, a.time.orbit, a.time.slot) ∈ b.ev.ring

/-- Every channel but one is as it was. -/
def ChansKept (a b : Block) (c : Nat) : Prop := ∀ d, d ≠ c → b.chan d = a.chan d

/-- A channel has become k, and every other is as it was. -/
structure ChanIs (a b : Block) (c : Nat) (k : Chan) : Prop where
  here   : b.chan c = k
  others : ChansKept a b c

/-- A command has put a write among those that wait for the next crossing boundary, and has done nothing else: it has not answered yet, and
the entry reads as before (R396). -/
structure Waits (a b : Block) (h : Hdr) (key v : Nat) : Prop where
  pend  : b.dict.pend = a.dict.pend ++ [⟨key, v, h, false⟩]
  quiet : b.dict.replies = a.dict.replies
  same  : Keeps [.dict] a b

/-- An RW entry takes a value: it is in range by itself and beside the others, and no use locks the entry (R392, R396). -/
def Block.takesValue (b : Block) (key v : Nat) : Bool :=
  (b.entryOf (key / 256) (key % 256)).any fun d => decide (d.access = .rw) && b.rangeOk d key v && b.jointOk key v && !b.writeBusy key

/-- The RW entries that have no row of their own in the table of commands, or whose rule is that of every other. -/
def plainEntry (key : Nat) : Bool :=
  key != 0x101403 && key != 0x201200 && !(decide (0x410000 ≤ key) && decide (key < 0x411000) && key % 256 == 1) &&
    !(decide (0x590000 ≤ key) && decide (key < 0x592800) && key % 256 == 1) &&
    !(decide (0x5A0000 ≤ key) && decide (key < 0x5A2800) && key % 256 == 1) &&
    !(decide (0x640000 ≤ key) && decide (key < 0x641000) && key % 256 == 8)

/-- A write of the entry changes the entry alone: it has no effect on anything else as it is taken (R396). -/
def valueEntry (key : Nat) : Bool :=
  key != 0x6C0004 && key != 0x680002 && key != 0x105001 && key != 0x101503 && key != 0x280204 && key != 0x284001 && key != 0x284002 && key / 256 != 0x7801 &&
    !(decide (0x590000 ≤ key) && decide (key < 0x592800) && key % 256 == 1) &&
    !(decide (0x5A0000 ≤ key) && decide (key < 0x5A2800) && key % 256 == 1) &&
    !(decide (0x640000 ≤ key) && decide (key < 0x641000) && key % 256 == 8) &&
    !(decide (0x700000 ≤ key) && decide (key < 0x701000) && key % 256 == 1)

/-- Fuses that have only been burned since (R463, R466, R468, R476): none returns, and what they hold of the device's making stays. -/
structure BurnedFrom (a b : Fuses) : Prop where
  floor    : a.floor ≤ b.floor
  epochs   : a.epochs ≤ b.epochs
  burned   : a.burned ||| b.burned = b.burned
  revoked  : a.revoked ||| b.revoked = b.revoked
  rest     : b = { a with floor := b.floor, epochs := b.epochs, burned := b.burned, revoked := b.revoked, keyHashes := b.keyHashes }

/-- The TAP stands as one of the instructions of R522 leaves it: the register between TDI and TDO and what drives the balls go with the
code in the instruction register. -/
def Jtag.legal (j : Jtag) : Bool :=
  match j.ir.toNat with
  | 1 => j.select == 1 && j.mode == .normal
  | 2 => j.select == 2 && j.mode == .normal
  | 3 => j.select == 2 && j.mode == .extest
  | 4 => j.select == 0 && j.mode == .clamp
  | 5 => j.select == 0 && j.mode == .highz
  | _ => j.select == 0 && j.mode == .normal

/-- What holds of every state a run meets: the fuse counts stand within their rows of fuses (R466: 256 of the floor, R476: 1024 epochs),
the TAP stands legal, and every command that waits is well formed. -/
def Inv (s : State) : Prop :=
  s.blk.fuses.floor ≤ 256 ∧ s.blk.fuses.epochs ≤ 1024 ∧ s.blk.jtag.legal = true ∧ s.pending.all wellFormed = true

end Sys2Proof.Machine
end

