-- ==== Sys2Proof/Certificates/Slice0/Obligations.lean ====
section
/-! DEFINITION. The statements for the provers. -/

open Sys2Proof Sys2Proof.Machine

/-! ### The machine as a whole -/

/-- A step takes the command at the front of the queue and is exec of it on the state with the queue's rest; on an empty queue the block
idles (assumption 4). -/
def Obligations.StepRunsTheFrontCommand : Prop :=
  (∀ (b : Block) (c : Instr) (rest : List Instr), step { blk := b, pending := c :: rest } = exec c { blk := b, pending := rest }) ∧
  (∀ b : Block, step { blk := b, pending := [] } = .next { blk := b, pending := [] })

/-- Every well-formed command completes in every state and leaves the queue as it was; nothing is refused, and a fault names an ill-formed
command. The five rows whose operand the hardware gives a fixed length stop with the fault of an ill-formed command where the length is
another: 33 codes of a slot period (R127), 14 weights of a run (R145), 64 counts (R110), 6 taps (R281), 9 readings (R493). -/
def Obligations.WellFormedCommandsComplete : Prop :=
  (∀ (i : Instr) (s : State),
    (wellFormed i = true → ∃ t, exec i s = .next t ∧ t.pending = s.pending) ∧
    (wellFormed i = false → ∃ m, exec i s = .fault (.illFormed m)) ∧
    (∀ r, exec i s ≠ .refused r)) ∧
  ((∀ half codes s, codes.length ≠ 33 → exec (.slotPeriodStart half codes) s = .fault (.illFormed "SLOT_PERIOD_START")) ∧
  (∀ r s, r.weights.length ≠ 14 → exec (.calRunEnd r) s = .fault (.illFormed "CAL_RUN_END")) ∧
  (∀ counts s, counts.length ≠ 64 → exec (.binCalIterationEnd counts) s = .fault (.illFormed "BIN_CAL_ITERATION_END")) ∧
  (∀ l ctle taps s, taps.length ≠ 6 → exec (.clockRecoveryLocked l ctle taps) s = .fault (.illFormed "CLOCK_RECOVERY_LOCKED")) ∧
  (∀ readings s, readings.length ≠ 9 → exec (.tempMeasurement readings) s = .fault (.illFormed "TEMP_MEASUREMENT")))

/-- The frame of every command: where it answers a next state, no part of the block outside its footprint has changed, and the queue
stands as it was. -/
def Obligations.EveryCommandKeepsItsFrame : Prop :=
  ∀ (i : Instr) (s t : State), exec i s = .next t → Keeps (footprint i) s.blk t.blk ∧ t.pending = s.pending

/-- Fuses are only ever burned (R463, R466, R468, R476): whatever a command does, no count of burned fuses falls, no burned or revoked
slot returns, and what the fuses hold of the device's making stays. -/
def Obligations.FusesAreOnlyBurned : Prop :=
  ∀ (i : Instr) (s t : State), exec i s = .next t → BurnedFrom s.blk.fuses t.blk.fuses

/-- The invariant holds at reset. -/
def Obligations.InvariantHoldsAtReset : Prop := Inv State.reset

/-- Every step keeps the invariant: the counts of burned fuses stand within their rows (R466, R476), the TAP stands as one of the
instructions of R522 leaves it, and every command that waits is well formed. -/
def Obligations.EveryStepKeepsTheInvariant : Prop := ∀ s t : State, Inv s → step s = .next t → Inv t

/-- A queue of well-formed commands runs to its end: as many steps as commands wait empty it, and none of them stops. -/
def Obligations.WellFormedQueueRunsToItsEnd : Prop :=
  ∀ s : State, s.pending.all wellFormed = true → ∃ t, core.run s.pending.length s = .next t ∧ t.pending = []

/-- ROLE_SEL low selects F-role and high C-role. Both straps are sampled at the end of a power-on reset and at the rising edge of RST_N; no other
command changes the role or the unit of the device, a device restart among them (R14). -/
def Obligations.StrapsAreSampledAtResetAlone : Prop :=
  (∀ (roleSel twinId : Bool) (s : State), Does (.powerOnReset roleSel twinId) s fun b =>
    b.boot.roleC = roleSel ∧ b.boot.unitB = twinId) ∧
  (∀ (roleSel twinId : Bool) (s : State), s.blk.boot.phase = .pinReset → Does (.rstNRise roleSel twinId) s fun b =>
    b.boot.roleC = roleSel ∧ b.boot.unitB = twinId) ∧
  (∀ (i : Instr) (s t : State), exec i s = .next t →
    (∀ r u, i ≠ .powerOnReset r u) → (∀ r u, i ≠ .rstNRise r u) →
    t.blk.boot.roleC = s.blk.boot.roleC ∧ t.blk.boot.unitB = s.blk.boot.unitB)

/-! ### Power, resets and boot -/

/-- POWER_ON_RESET leaves the device at the start of fuse load with the straps sampled, the fuses and the flash's contents as they were,
and every other part at its reset value (R14, R449, R452). PIN_RESET keeps the fuses, the JTAG port, the crossing count and the fault
log, and RST_N_RISE samples the straps and begins fuse load. -/
def Obligations.ResetsLeaveTheirState : Prop :=
  (∀ (r u : Bool) (s : State), Does (.powerOnReset r u) s fun b =>
    b = { fuses := s.blk.fuses, flash := s.blk.flash.unread, free := s.blk.free,
          boot := { phase := .fuseLoad, roleC := r, unitB := u, cause := 1 } }) ∧
  (∀ s : State, s.blk.boot.phase ≠ .powerReset → Does .pinReset s fun b =>
    b.boot = { phase := .pinReset, roleC := s.blk.boot.roleC, unitB := s.blk.boot.unitB, cause := 2 } ∧
    b.time = { now := s.blk.time.now } ∧ b.dict = {} ∧ b.sets = {} ∧ b.chans = [] ∧ b.queues = [] ∧ b.frm = {} ∧
    b.flash = s.blk.flash.unread ∧ b.flt.log = s.blk.flt.log ∧ b.flt.list = s.blk.flt.list) ∧
  (∀ (r u : Bool) (s : State), s.blk.boot.phase = .pinReset → Does (.rstNRise r u) s fun b =>
    b.boot = { s.blk.boot with phase := .fuseLoad, roleC := r, unitB := u })

/-- The role fuse permits the roles of R15's table. A device whose strapped role it does not permit stops at the end of fuse load: every lane
Off, the mismatch as the last reset cause, ROLE_MISMATCH raised and ALERT_N asserted; and no command but a pin reset or a power-on reset takes
it further (R3). One whose fuses have a word with no majority stops in the same way with BOOT_FUSE_ERROR (R432); else the core runs. -/
def Obligations.FuseLoadRunsOrStops : Prop :=
  (∀ (r : FuseReport) (s : State), s.blk.boot.phase = .fuseLoad →
    let permitted := match s.blk.fuses.role.toNat with
      | 0 => true
      | 1 => !s.blk.boot.roleC
      | 2 => s.blk.boot.roleC
      | _ => false
    let stops := fun (b : Block) => b.boot.phase = .stopped ∧ b.boot.cause = 5 ∧ b.ev.alert = true ∧
      ∀ l, (b.lane l).tx = .off ∧ (b.lane l).rx = .off
    (r.noMajority.isSome = true → Does (.fuseLoad r) s fun b => stops b ∧ b.latched 0x02 = true) ∧
    (r.noMajority = none → permitted = false → Does (.fuseLoad r) s fun b => stops b ∧ b.latched 0x01 = true) ∧
    (r.noMajority = none → permitted = true → Does (.fuseLoad r) s fun b =>
      b.boot.phase = .running ∧ b.boot.roleC = s.blk.boot.roleC)) ∧
  (∀ (i : Instr) (s t : State), s.blk.boot.phase = .stopped → exec i s = .next t → i ≠ .pinReset → (∀ r u, i ≠ .powerOnReset r u) →
    t.blk.boot.phase = .stopped)

/-- A boot image that has been read stands in the staging store to be verified (R437); a downloaded folio that passes every check waits to
become the shadow set, and one that fails is refused and leaves the store idle (R231); an image for a slot is taken while its folio is
sound, and sealing it makes its slot the preferred one (R436). -/
def Obligations.FoliosComeInByTheStagingStore : Prop :=
  (∀ (image : List Byte) (s : State),
    s.blk.running = true → s.blk.hasFlash = true → s.blk.sets.act = none → s.blk.boot.noFolio = false → s.blk.boot.fromFlash = false →
    s.blk.sets.by_ = none → (s.blk.sets.staging = .receiving ∨ (s.blk.boot.roleC = false ∧ s.blk.sets.staging = .idle)) →
    Does (.bootFolioReadDone image) s fun b => b.sets.staging = .verifying ∧ b.sets.image = image ∧ b.boot.fromFlash = true) ∧
  (∀ (v : Verdict) (h : Hdr) (s : State),
    s.blk.running = true → s.blk.sets.staging = .verifying → s.blk.sets.by_ = some (h, false) → s.blk.dict.mute = false →
    (∀ c, ((s.blk.bootTime 2).folioVerify s.blk.sets.image v).1 = .ok c → s.blk.sets.act.isSome = true →
      Does (.folioProcessed v) s fun b => b.sets.waiting = some c ∧ b.sets.staging = .waiting ∧ b.sets.by_ = none ∧
        Answers s.blk b (mkReply h 0x03 0x2020 1 1 [])) ∧
    (∀ n, ((s.blk.bootTime 2).folioVerify s.blk.sets.image v).1 = .error n →
      Does (.folioProcessed v) s fun b => b.sets.staging = .idle ∧ b.sets.image = [] ∧ b.sets.by_ = none ∧ b.sets.act = s.blk.sets.act ∧
        b.reg 0x202002 = n ∧ b.latched 0x16 = true ∧ Refuses s.blk b h 0x202001 0x1B)) ∧
  (∀ (h : Hdr) (image : List Byte) (v : Verdict) (c : CfgSet) (s : State),
    s.blk.writable h 0x101505 image.length = true → (s.blk.taken h).downloadBusy 0x101505 = false → s.blk.hasFlash = true →
    ((s.blk.taken h).folioVerify image v).1 = .ok c →
    Does (.flashFolioWrite h image v) s fun b =>
      b.boot.bootWriteSlot = some (image, c.folio.serial) ∧ b.boot.bootWriteBy = some (h, 1 - s.blk.flash.preferred, false)) ∧
  (∀ (image : List Byte) (serial : Nat) (h : Hdr) (slot : Nat) (silent : Bool) (s : State),
    s.blk.boot.bootWriteSlot = some (image, serial) → s.blk.boot.bootWriteBy = some (h, slot, silent) →
    Does (.bootRecordSealed true) s fun b => b.flash = s.blk.flash.putSlot slot image serial ∧ b.boot.bootWriteSlot = none ∧
      (silent = false → Answers s.blk b (mkReply h 0x03 0x1015 5 1 [])))

/-- The restart keys of R423 are answered and act at the end of the crossing; a write of 1 to 1012.SS is answered and the block's reset
falls due, and the reset ends once its crossings have passed (R453). -/
def Obligations.RestartsFallDueAtTheCrossingsEnd : Prop :=
  (∀ (h : Hdr) (s : State), s.blk.writable h 0x101101 4 = true →
    Does (.deviceRestart h 0x424F4F54) s fun b => b.boot.restartDue = max s.blk.boot.restartDue 2 ∧
      Answers (s.blk.taken h) b (mkReply h 0x02 0x1011 1 0 [])) ∧
  (∀ (h : Hdr) (s : State), s.blk.writable h 0x101102 4 = true →
    Does (.commRestart h 0x434F4D4D) s fun b => b.boot.restartDue = max s.blk.boot.restartDue 1 ∧
      Answers (s.blk.taken h) b (mkReply h 0x02 0x1011 2 0 [])) ∧
  (∀ (h : Hdr) (sub : BitVec 8) (s : State), s.blk.writable h (0x101200 + sub.toNat) 1 = true →
    gated s.blk.boot.roleC sub.toNat = false → tabFind s.blk.boot.resetting sub.toNat = none →
    sub.toNat ∉ s.blk.boot.resetDue →
    Does (.subsystemReset h sub 1) s fun b => b.boot.resetDue = s.blk.boot.resetDue ++ [sub.toNat] ∧
      Answers (s.blk.taken h) b (mkReply h 0x02 0x1012 sub.toNat 0 [])) ∧
  (∀ (k : Fin 9) (x : Nat) (s : State), tabFind s.blk.boot.resetting (k.val + 1) = some x →
    (x ≤ s.blk.time.now ∨ s.blk.time.everLocked = false) →
    Does (.subsystemResetEnd k) s fun b => b.boot.resetting = tabDel s.blk.boot.resetting (k.val + 1) ∧ b.latched 0x0E = true) ∧
  (∀ (k : Fin 9) (x : Nat) (s : State), tabFind s.blk.boot.resetting (k.val + 1) = some x → s.blk.time.now < x →
    s.blk.time.everLocked = true → exec (.subsystemResetEnd k) s = .next s)

/-! ### Clock, timing domains and counters -/

/-- CORE_PLL_LOCK locks a device that runs unlocked, and the lock is remembered (R37); CORE_PLL_UNLOCK ends it and raises CORE_PLL_UNLOCK
(0x8C). -/
def Obligations.CorePllLocksAndUnlocks : Prop :=
  (∀ s : State, s.blk.running = true → s.blk.time.locked = false →
    Does .corePllLock s fun b => b.time = { s.blk.time with locked := true, everLocked := true }) ∧
  (∀ s : State, s.blk.running = true → s.blk.time.locked = true →
    Does .corePllUnlock s fun b => b.time = { s.blk.time with locked := false } ∧ b.latched 0x8C = true)

/-- A frame at an Active timing lane, with a copy that checks, goes to its own tracker and leaves the other as it was (R46, R48): its marker
is kept, the residual is the time from the internal boundary of its slot to the arrival less D_dom, and a LOST tracker acquires again;
the word of one of slots 1 to 6 is kept in the set of the orbit, and spoils the set where its type is wrong; a word of a later slot is
counted where its type is that of a refusal (R49). A round-trip campaign that has its shots, or has run for twice as many orbits, ends:
with too few shots it is reported (0x39); else the round trip is kept, and an alignment that stands is not written again (R57, R122). -/
def Obligations.TimingIsTracked : Prop :=
  (∀ (d : Fin 2) (x : LineFrame) (margin : Nat) (w : Ref48) (s : State), s.blk.running = true → s.blk.cRole = true →
    let l := 36 + d.val
    let f := (s.blk.hear l x).1
    (s.blk.lane l).prbs = 0 → (s.blk.lane l).rx = .active → ((s.blk.hear l x).2.syncFrame l (s.blk.syncGood l x)).rxActive l = true →
    frCode f ≠ codeTraining → copyOf (s.blk.peerLane l) f = some w →
    let t := s.blk.dom d
    let c := s.blk.markerAt margin - t.delay
    let h := s.blk.slotCrossing (roundDiv c 2048 - 1) (frSlot f)
    let t := { t with
      state := if t.state = .lost then .acquiring else t.state, head := h, residual := c - 2048 * (h + 1),
      arrivals := (((frSlot f + 1) % s.blk.lenO, s.blk.markerAt margin) :: t.arrivals).take 1024 }
    (1 ≤ frSlot f → frSlot f ≤ 6 → t.assessed = false → Does (.timingWord d x margin) s fun b =>
      b.dom d = { t with words := tabSet t.words (frSlot f) w, bad := t.bad || !wordFits (frSlot f) w } ∧
      b.dom (1 - d.val) = s.blk.dom (1 - d.val)) ∧
    (8 ≤ frSlot f → t.assessed = true → Does (.timingWord d x margin) s fun b =>
      b.dom d = t ∧ b.dom (1 - d.val) = s.blk.dom (1 - d.val) ∧
      b.reg (domKey d 6) = s.blk.reg (domKey d 6) + (if wordType w = 15 then 1 else 0))) ∧
  (∀ (p : Port) (c : PortCampaign) (s : State), s.blk.running = true → s.blk.cRole = true →
    tabFind s.blk.time.campaigns (p.val + 1) = some c →
    (c.shots < s.blk.serviceShots → 2 * s.blk.serviceShots ≤ c.orbits → Does (.roundTripCampaignEnd p) s fun b =>
      b.time = { s.blk.time with campaigns := tabDel s.blk.time.campaigns (p.val + 1) } ∧ b.reg (0x430200 + (p.val + 1)) = c.shots ∧
      b.latched 0x39 = true) ∧
    (s.blk.serviceShots ≤ c.shots → s.blk.newAlign (p.val + 1) c.shots c.sum = ((s.blk.port (p.val + 1)).align : Int) →
      (s.blk.port (p.val + 1)).align ≤ 1048575 → c.first = false → Does (.roundTripCampaignEnd p) s fun b =>
        b.time = { s.blk.time with campaigns := tabDel s.blk.time.campaigns (p.val + 1) } ∧
        b.reg (0x284200 + (p.val + 1)) = (roundDiv c.sum c.shots).toNat))

/-- A domain that is lost drops its words and raises DOMAIN_LOST (0x80), and a domain that is LOST already stays so (R49). A C-role leaves a
domain that it has selected, unless a switch away from it stands planned for no later: for the other domain where that is QUALIFIED, else
for holdover, at the next boundary; in twin topology two crossings later, M + 2 where the cross-link carries the declaration (R50, R52, R53).
A worker that loses the second of its downlinks enters holdover (R54). A request for a switch is granted for a QUALIFIED domain, to take
place at the next orbit boundary from two crossings ahead, and refused and reported (0x82) for another (R50). A switch that is due takes
its domain and slews the residual out, or enters holdover where neither domain runs; one that is not due waits (R51, R52). -/
def Obligations.DomainsAreLeftAndSwitched : Prop :=
  (∀ (d : Fin 2) (s : State), s.blk.running = true → let m := 1 - d.val
    ((s.blk.dom d).state = .lost → exec (.domainLost d) s = .next s) ∧
    ((s.blk.dom d).state ≠ .lost → (s.blk.cRole = true ∨ (s.blk.dom m).state ≠ .lost ∨ s.blk.time.holdover = true) →
      Does (.domainLost d) s fun b =>
        Raised { s.blk with time := b.time } b 0x80 ∧ b.dom m = s.blk.dom m ∧ b.time.selected = s.blk.time.selected ∧
        b.dom d = { s.blk.dom d with
          state := .lost, words := [], bad := false, good := 0, incomplete := 0, qualRun := 0, assessed := true } ∧
        (let at_ := if s.blk.topology ≠ 0 then s.blk.time.now + 1
                    else s.blk.time.now + 2 + (if s.blk.twin.lost then 0 else s.blk.mirrorDelay)
         s.blk.cRole = true → s.blk.time.selected = some d →
          ((∀ w, s.blk.time.switchTo = some w → w.orbit = true ∨ w.target = d.val ∨ at_ < w.from_) →
            b.time.switchTo = some ⟨if (s.blk.dom m).state = .qualified then m else 2, at_, false⟩) ∧
          (∀ w, s.blk.time.switchTo = some w → w.orbit = false → w.target ≠ d.val → w.from_ ≤ at_ →
            b.time.switchTo = s.blk.time.switchTo)) ∧
        ((s.blk.cRole = false ∨ s.blk.time.selected ≠ some d) → b.time.switchTo = s.blk.time.switchTo)) ∧
    ((s.blk.dom d).state ≠ .lost → s.blk.cRole = false → (s.blk.dom m).state = .lost → s.blk.time.holdover = false →
      Does (.domainLost d) s fun b => b.latched 0x80 = true ∧ b.latched 0x83 = true ∧ b.dom m = s.blk.dom m ∧
        (b.dom d).state = .lost ∧ b.time.holdover = true ∧ b.time.selected = none ∧ b.time.switchTo = none)) ∧
  (∀ (h : Hdr) (dom : BitVec 8) (s : State), s.blk.writable h 0x282004 1 = true → let f := s.blk.taken h
    (dom.toNat < 2 → (s.blk.dom dom.toNat).state = .qualified → Does (.domainSwitchRequest h dom) s fun b =>
      b.time = { s.blk.time with switchTo := some ⟨dom.toNat, s.blk.time.now + 2, true⟩ } ∧ Acks f b h 0x282004) ∧
    (dom.toNat < 2 → (s.blk.dom dom.toNat).state ≠ .qualified → Does (.domainSwitchRequest h dom) s fun b =>
      b.time = s.blk.time ∧ b.latched 0x82 = true ∧ Refuses f b h 0x282004 0x07) ∧
    (2 ≤ dom.toNat → Does (.domainSwitchRequest h dom) s fun b => b.time = s.blk.time ∧ Refuses f b h 0x282004 0x07)) ∧
  (∀ (w : Switch) (s : State), s.blk.running = true → s.blk.time.switchTo = some w →
    let due := w.from_ ≤ s.blk.time.now ∧ (w.orbit = true → s.blk.time.slot = 0)
    (∀ d : Fin 2, due → w.target = d.val → (s.blk.dom d).state = .qualified → Does .domainSwitchExecute s fun b =>
      let r := (s.blk.dom d).residual
      Raised { s.blk with time := b.time } b 0x82 ∧
      b.time = { s.blk.time with
        selected := some d, holdover := false, switchTo := none, slew := 4096 * r,
        slewStep := if r.natAbs ≤ 4095 then r else if 0 ≤ r then 4095 else -4095 }) ∧
    (due → w.target = 2 → (∀ d : Fin 2, s.blk.time.selected = some d → (s.blk.dom (1 - d.val)).state ≠ .qualified) →
      Does .domainSwitchExecute s fun b => Raised { s.blk with time := b.time } b 0x83 ∧
        b.time = { s.blk.time with selected := none, holdover := true, switchTo := none }) ∧
    (¬ due → exec .domainSwitchExecute s = .next s))

/-- Three commands raise a source and do nothing else (R52, R410, R493): RESYNC_NEEDED_TICK, CAN_NODE_ID_CONFLICT and
SENSORS_DEGRADED_TICK. -/
def Obligations.TicksRaiseTheirSource : Prop :=
  (∀ s : State, s.blk.running = true → s.blk.time.holdover = true → s.blk.unqualifiable ≠ [] →
    Does .resyncNeededTick s fun b => Raised s.blk b 0x84) ∧
  (∀ (busB : Bool) (s : State), s.blk.served = true → (s.blk.can busB).state ≠ 0 →
    Does (.canNodeIdConflict busB) s fun b => Raised s.blk b 0xDD) ∧
  (∀ s : State, 4 < s.blk.env.voted.length → Does .sensorsDegradedTick s fun b => Raised s.blk b 0xFA)

/-- RESYNC names its crossing (R41, R308). An F-role takes header crossing plus COUNT where that lies ahead, and a command that comes too late
is counted and reported (0xAC); a direct-attached F-role with COUNT 0 takes the first slot 0 of its own counters K_R crossings from the
header at least. A C-role takes the selected domain's first slot 0 from there, with the number announced for it, or its own counters'
where nothing has been announced, and passes the command on with its own count and the orbit number in the mark. -/
def Obligations.ResyncNamesItsCrossing : Prop :=
  ∀ (count : BitVec 17) (s : State), s.blk.obeys = true →
    let h := s.blk.commandHeader
    (s.blk.cRole = false → (s.blk.direct = true → count.toNat ≠ 0) → s.blk.time.now < h + count.toNat →
      Does (.resync count) s fun b =>
        b.time = { s.blk.time with resync := some ⟨h + count.toNat, none, h⟩ } ∧ b.acc = s.blk.acc) ∧
    (s.blk.cRole = false → (s.blk.direct = true → count.toNat ≠ 0) → h + count.toNat ≤ s.blk.time.now →
      Does (.resync count) s fun b => b.time = s.blk.time ∧ b.acc = s.blk.acc ∧ b.latched 0xAC = true ∧
        b.reg 0x5B000A = s.blk.reg 0x5B000A + 1) ∧
    (s.blk.cRole = false → s.blk.direct = true → count.toNat = 0 → Does (.resync count) s fun b =>
      let e := (s.blk.ownTarget (max (h + s.blk.rs 0x280600) (s.blk.time.now + 1))).1
      b.time = { s.blk.time with resync := some ⟨e, none, h⟩ }) ∧
    (s.blk.cRole = true → Does (.resync count) s fun b =>
      let least := max (h + s.blk.rs 0x280600) (s.blk.time.now + 2)
      let r := match s.blk.time.selected with
        | some d => match (s.blk.dom d).annOrbit with
          | some n =>
            let k := orbitsTo (s.blk.dom d).annAt (s.blk.dom d).annLen least
            ((s.blk.dom d).annAt + k * (s.blk.dom d).annLen, some ((n + k) % 2 ^ 48))
          | none => s.blk.ownTarget least
        | none => s.blk.ownTarget least
      b.time = { s.blk.time with resync := some ⟨r.1, r.2, h⟩, markOut := some (s.blk.markNumber r) } ∧
      b.acc = { s.blk.acc with command := some (command 2 ((r.1 - (s.blk.time.now + 1)) % 2 ^ 17)) })

/-- At the resync crossing E the slot is 0 and the resync is over; a C-role takes the number announced for E, or the next, and its accepts
count from sequence number 0 again, one that it forwards at E being the first (R41, R178, R202); the crossing count goes on. The merge of a C-role carries E out once F_W crossings have
passed, and once only: it is the one that begins with the colophon of the orbit cut short, and every bookmark of an accept forwarded before E
is abandoned and due in it (R260). -/
def Obligations.ResyncTakesEffect : Prop :=
  (∀ (r : Resync) (s : State), s.blk.running = true → s.blk.time.resync = some r → r.at_ ≤ s.blk.time.now →
    Does .resyncTakeEffect s fun b =>
      b.time.slot = 0 ∧ b.time.resync = none ∧ b.time.lastE = some s.blk.time.now ∧ b.time.now = s.blk.time.now ∧
      (s.blk.cRole = true → b.time.orbit = r.orbit.getD ((s.blk.time.orbit + 1) % 2 ^ 48) ∧
        (s.blk.acc.external = none → s.blk.acc.waiting = [] → s.blk.acc.forcedDue = false → b.acc.seq = 0))) ∧
  (∀ (e : Nat) (s : State), s.blk.running = true → s.blk.cRole = true → s.blk.time.mergeE = some e →
    (e + s.blk.fW ≤ s.blk.time.now → Does .mergeResync s fun b =>
      b.time = { s.blk.time with mergeE := none } ∧ b.mrg = { s.blk.mrg with cut := true } ∧
      b.acc = { s.blk.acc with marks := s.blk.acc.marks.map fun m =>
        if m.fwd < e then { m with abandoned := true, due := s.blk.time.now } else m }) ∧
    (s.blk.time.now < e + s.blk.fW → exec .mergeResync s = .next s))

/-- Boundaries count crossings (R35, R36, R38). A device that runs and has locked counts one crossing at a boundary inside an orbit while the
slot counter stands below its last value, and one at an orbit boundary at the last slot; the boundary that does not fit changes
nothing. Before the first lock no crossing is counted. -/
def Obligations.BoundariesCountCrossings : Prop :=
  ∀ (i : CrossInput) (s : State),
    (s.blk.running = true → s.blk.time.everLocked = true → s.blk.lastSlot = false →
      (Does (.crossingBoundary i) s fun b => b.time.now = s.blk.time.now + 1) ∧ exec (.orbitBoundary i) s = .next s) ∧
    (s.blk.running = true → s.blk.time.everLocked = true → s.blk.lastSlot = true →
      (Does (.orbitBoundary i) s fun b => b.time.now = s.blk.time.now + 1) ∧
      (s.blk.resyncNext = false → exec (.crossingBoundary i) s = .next s)) ∧
    (s.blk.served = true → (s.blk.running && s.blk.time.everLocked) = false →
      (Does (.crossingBoundary i) s fun b => b.time.now = s.blk.time.now) ∧ exec (.orbitBoundary i) s = .next s)

/-! ### Writes of RW entries (R392, R396) -/

/-- A write of an RW entry that its entry takes waits for the crossing boundary, and a value that is out of range is refused with VALUE_RANGE,
one on an entry in use with BUSY (R396, R404): REGISTER_WRITE on every entry without a rule of its own, and the rows that name one
entry. -/
def Obligations.AcceptedWritesWait : Prop :=
  ∀ (h : Hdr) (s : State),
    (∀ (index : BitVec 16) (sub : BitVec 8) (value : List Byte), let key := index.toNat * 256 + sub.toNat
      s.blk.writable h key value.length = true → plainEntry key = true → s.blk.accessIs .rw key = true →
      let v := cleaned key (natLE value)
      ((s.blk.taken h).takesValue key v = true → Does (.registerWrite h index sub value) s fun b => Waits (s.blk.taken h) b h key v) ∧
      ((s.blk.taken h).takesValue key v = false → Does (.registerWrite h index sub value) s fun b =>
        b.dict.pend = (s.blk.taken h).dict.pend ∧
        Refuses (s.blk.taken h) b h key (if (s.blk.taken h).writeBusy key then 0x08 else 0x07))) ∧
    (∀ slot : BitVec 8, s.blk.writable h 0x101503 1 = true → slot.toNat ≤ 1 →
      Does (.preferredSlotWrite h slot) s fun b => Waits (s.blk.taken h) b h 0x101503 slot.toNat) ∧
    (∀ (side : Fin 2) (d : BitVec 32), s.blk.writable h (0x284001 + side.val) 4 = true → d.toNat ≤ 1048575 →
      Does (.alignDelayWrite h side d) s fun b => Waits (s.blk.taken h) b h (0x284001 + side.val) d.toNat) ∧
    (∀ (word : Fin 8) (bits : BitVec 32), s.blk.writable h (0x780101 + word.val) 4 = true →
      Does (.latchClear h word bits) s fun b => Waits (s.blk.taken h) b h (0x780101 + word.val) bits.toNat) ∧
    (∀ value : Word64, s.blk.writable h 0x6C0004 8 = true →
      Does (.planWrite h value) s fun b => Waits (s.blk.taken h) b h 0x6C0004 value.toNat) ∧
    (∀ value : BitVec 8, s.blk.writable h 0x680002 1 = true → 1 ≤ value.toNat → value.toNat ≤ 254 →
      ((s.blk.twin.w0At ≠ 0 → value.toNat ≠ bits s.blk.twin.w0.toNat 55 48) →
        Does (.baseClaimWrite h value) s fun b => Waits (s.blk.taken h) b h 0x680002 value.toNat) ∧
      (s.blk.twin.w0At ≠ 0 → value.toNat = bits s.blk.twin.w0.toNat 55 48 →
        Does (.baseClaimWrite h value) s fun b => Refuses (s.blk.taken h) b h 0x680002 0x07))

/-- Writes of lane, PRBS, programme and check-value entries wait as any other where their own rules let them (R115, R289, R296, R346): a
LANE_CONFIG within its ranges, a PRBS mode of a lane with no Retired half, a programme that is valid where it is enabled and whose
campaign does not run, a running value that fits its unit and that nobody else owns. A write of the release orbit waits at an F-role
(R446, R458); a number past 48 bits is refused with VALUE_RANGE, and a C-role, which sets the orbit itself, refuses every write with
READ_ONLY. -/
def Obligations.RuledWritesWait : Prop :=
  (∀ (h : Hdr) (s : State),
    (∀ (l : Lane) (value : BitVec 32), s.blk.writable h (0x590001 + 256 * l.val) 4 = true →
      (laneConfigOk value.toNat = true → Does (.laneConfigWrite h l value) s fun b =>
        Waits (s.blk.taken h) b h (0x590001 + 256 * l.val) (laneConfig value.toNat)) ∧
      (laneConfigOk value.toNat = false → Does (.laneConfigWrite h l value) s fun b =>
        Refuses (s.blk.taken h) b h (0x590001 + 256 * l.val) 0x07)) ∧
    (∀ l : Lane, s.blk.writable h (prbsKey l.val 1) 1 = true →
      ((s.blk.lane l.val).rx ≠ .retired → (s.blk.lane l.val).tx ≠ .retired →
        (Does (.prbsOff h l) s fun b => Waits (s.blk.taken h) b h (prbsKey l.val 1) 0) ∧
        (Does (.prbsGenerate h l) s fun b => Waits (s.blk.taken h) b h (prbsKey l.val 1) 1) ∧
        (Does (.prbsCheck h l) s fun b => Waits (s.blk.taken h) b h (prbsKey l.val 1) 2) ∧
        (Does (.prbsBoth h l) s fun b => Waits (s.blk.taken h) b h (prbsKey l.val 1) 3)) ∧
      ((s.blk.lane l.val).rx = .retired → Does (.prbsBoth h l) s fun b => Refuses (s.blk.taken h) b h (prbsKey l.val 1) 0x08)) ∧
    (∀ (p : Fin 16) (config : BitVec 32), s.blk.writable h (progKey p.val 1) 4 = true → let v := cleaned (progKey p.val 1) config.toNat
      (s.blk.iu.campaign ≠ some p.val → ((progConfig v).testBit 31 = true → (s.blk.taken h).progValid p.val (progConfig v) = true) →
        Does (.programmeEnable h p config) s fun b =>
          b.dict.pend = (s.blk.taken h).dict.pend ++ [⟨progKey p.val 1, progConfig v, h, false⟩] ∧
          b.dict.replies = s.blk.dict.replies ∧ p.val ∉ b.iu.ended) ∧
      (s.blk.iu.campaign = some p.val → Does (.programmeEnable h p config) s fun b =>
        b.iu = s.blk.iu ∧ Refuses (s.blk.taken h) b h (progKey p.val 1) 0x08)) ∧
    (∀ (u : Fin 16) (value : Word64), s.blk.writable h (cvuKey u.val 8) 8 = true → s.blk.cvuForeign h u.val = false →
      value.toNat < 2 ^ s.blk.cvuWidth u.val →
        Does (.cvuRunningValueWrite h u value) s fun b => Waits (s.blk.taken h) b h (cvuKey u.val 8) value.toNat)) ∧
  (∀ (h : Hdr) (orbit : Word64) (s : State), s.blk.writable h 0x101403 8 = true →
    (s.blk.cRole = false → orbit.toNat < 2 ^ 48 →
      Does (.releaseOrbitWrite h orbit) s fun b => Waits (s.blk.taken h) b h 0x101403 orbit.toNat) ∧
    (s.blk.cRole = false → 2 ^ 48 ≤ orbit.toNat →
      Does (.releaseOrbitWrite h orbit) s fun b => Refuses (s.blk.taken h) b h 0x101403 0x07) ∧
    (s.blk.cRole = true → Does (.releaseOrbitWrite h orbit) s fun b => Refuses (s.blk.taken h) b h 0x101403 0x03))

/-- The rows that name one entry, or the RW entries, are writes of that entry: each does to the device what WRITE does with the entry's index,
its sub-index and the value's bytes, least significant first (R392, R401). -/
def Obligations.RowsAreWritesOfTheirEntries : Prop :=
  ∀ (h : Hdr) (s : State), h.path = 0 → h.pair = false →
    (∀ (index : BitVec 16) (sub : BitVec 8) (value : List Byte), s.blk.accessIs .rw (index.toNat * 256 + sub.toNat) = true →
      exec (.registerWrite h index sub value) s = exec (.write h index sub value) s) ∧
    (∀ key : BitVec 32, exec (.deviceRestart h key) s = exec (.write h 0x1011 0x01 (bytesLE 4 key.toNat)) s) ∧
    (∀ key : BitVec 32, exec (.commRestart h key) s = exec (.write h 0x1011 0x02 (bytesLE 4 key.toNat)) s) ∧
    (∀ key : BitVec 32, exec (.keep h key) s = exec (.write h 0x1010 0x01 (bytesLE 4 key.toNat)) s) ∧
    (∀ key : BitVec 32, exec (.forget h key) s = exec (.write h 0x1010 0x02 (bytesLE 4 key.toNat)) s) ∧
    (∀ sub value : BitVec 8, exec (.subsystemReset h sub value) s = exec (.write h 0x1012 sub (bytesLE 1 value.toNat)) s) ∧
    (∀ slot : BitVec 8, exec (.preferredSlotWrite h slot) s = exec (.write h 0x1015 0x03 (bytesLE 1 slot.toNat)) s) ∧
    (∀ orbit : Word64, exec (.releaseOrbitWrite h orbit) s = exec (.write h 0x1014 0x03 (bytesLE 8 orbit.toNat)) s) ∧
    (∀ dom : BitVec 8, exec (.domainSwitchRequest h dom) s = exec (.write h 0x2820 0x04 (bytesLE 1 dom.toNat)) s) ∧
    (∀ (side : Fin 2) (d : BitVec 32),
      exec (.alignDelayWrite h side d) s = exec (.write h 0x2840 (BitVec.ofNat 8 (1 + side.val)) (bytesLE 4 d.toNat)) s) ∧
    (∀ value : BitVec 8, exec (.binCalRestart h value) s = exec (.write h 0x4001 0x06 (bytesLE 1 value.toNat)) s) ∧
    (∀ value : BitVec 8, exec (.campaignAbort h value) s = exec (.write h 0x4010 0x08 (bytesLE 1 value.toNat)) s) ∧
    (∀ (p : Fin 16) (config : BitVec 32),
      exec (.programmeEnable h p config) s = exec (.write h (BitVec.ofNat 16 (0x4100 + p.val)) 0x01 (bytesLE 4 config.toNat)) s) ∧
    (∀ (word : Fin 8) (bits : BitVec 32),
      exec (.latchClear h word bits) s = exec (.write h 0x7801 (BitVec.ofNat 8 (1 + word.val)) (bytesLE 4 bits.toNat)) s) ∧
    (∀ value : BitVec 8, exec (.historyClear h value) s = exec (.write h 0x7800 0x03 (bytesLE 1 value.toNat)) s) ∧
    (∀ site : BitVec 16, exec (.restoreSite h site) s = exec (.write h 0x6C10 0x01 (bytesLE 2 site.toNat)) s) ∧
    (∀ site : BitVec 16, exec (.retireSite h site) s = exec (.write h 0x6C10 0x02 (bytesLE 2 site.toNat)) s) ∧
    (∀ value : BitVec 8, exec (.clearFaultLog h value) s = exec (.write h 0x6C10 0x03 (bytesLE 1 value.toNat)) s)

/-! ### Configuration sets (R229 to R237) -/

/-- A write of an orbit number to 2012.00 waits for the end of its crossing, behind the requests of the timetable and the downlink, and a
number past 48 bits is refused with VALUE_RANGE (R232, R233); SWAP_DISARM is the write of 0 and waits with it. A swap command arms the
swap where no cause of R232 stands against it, and a C-role passes it on; one that is refused raises SET_SWAP_REFUSED (0x13); one for the
orbit that is armed already is merged, and one for another is refused with SET_SWAP_CONFLICT (0x14), neither changing the sets (R310). A SWAP
action of the timetable arms in the same way (R62). -/
def Obligations.SwapsAreArmedAndDisarmed : Prop :=
  (∀ (h : Hdr) (s : State), s.blk.writable h 0x201200 8 = true → let f := s.blk.taken h
    let waits := fun (b : Block) (v : Nat) => Keeps [.dict] f b ∧ b.dict.replies = f.dict.replies ∧
      b.dict.swaps = f.dict.swaps ++ [⟨0x201200, v, h, f.dict.mute⟩]
    (∀ orbit : Word64, orbit.toNat < 2 ^ 48 → Does (.swapOrbitWrite h orbit) s fun b => waits b orbit.toNat) ∧
    (∀ orbit : Word64, 2 ^ 48 ≤ orbit.toNat → Does (.swapOrbitWrite h orbit) s fun b =>
      b.sets = f.sets ∧ b.dict.swaps = f.dict.swaps ∧ Refuses f b h 0x201200 0x07) ∧
    (Does (.swapDisarm h) s fun b => waits b 0)) ∧
  (∀ (orbit : BitVec 44) (s : State), s.blk.obeys = true → let n := s.blk.orbitMatching orbit.toNat
    (s.blk.sets.armed = none → (s.blk.swapCause n).1 = 0 → Does (.swapCommand orbit) s fun b =>
      b.sets = { s.blk.sets with armed := some n } ∧
      b.acc = (if s.blk.cRole then { s.blk.acc with command := some (command 5 n) } else s.blk.acc)) ∧
    (s.blk.sets.armed = none → (s.blk.swapCause n).1 ≠ 0 → Does (.swapCommand orbit) s fun b =>
      b.sets = s.blk.sets ∧ b.acc = s.blk.acc ∧ Raised s.blk b 0x13) ∧
    (s.blk.sets.armed = some n → Does (.swapCommand orbit) s fun b =>
      b.sets = s.blk.sets ∧ b.acc = s.blk.acc ∧ b.reg 0x201305 = s.blk.reg 0x201305 + 1) ∧
    (∀ m, s.blk.sets.armed = some m → m ≠ n → Does (.swapCommand orbit) s fun b =>
      b.sets = s.blk.sets ∧ b.acc = s.blk.acc ∧ Raised s.blk b 0x14)) ∧
  (∀ (entry : BitVec 8) (s : State), s.blk.running = true → s.blk.ttActs entry.toNat 2 = true → s.blk.sets.armed = none →
    let n := s.blk.swapTarget (s.blk.ttArg entry.toNat)
    ((s.blk.swapCause n).1 = 0 → Does (.swap entry) s fun b =>
      b.sets = { s.blk.sets with armed := some n } ∧ entry.toNat ∈ b.time.acted ∧
      b.acc = (if s.blk.cRole then { s.blk.acc with swapFwd := s.blk.acc.swapFwd ++ [n] } else s.blk.acc)) ∧
    ((s.blk.swapCause n).1 ≠ 0 → Does (.swap entry) s fun b =>
      b.sets = s.blk.sets ∧ b.acc = s.blk.acc ∧ entry.toNat ∈ b.time.acted ∧ b.latched 0x13 = true))

/-- A swap exchanges the two sets at slot 0 of its orbit, and holds the shadow from then on; the regular list starts again (R65, R139,
R235, R236). The hold ends at the first orbit boundary at least 4096 crossings after the swap, and a download that has waited becomes the
shadow (R236). -/
def Obligations.SwapsExchangeTheSets : Prop :=
  (∀ s : State, s.blk.running = true → s.blk.swapDue = true → Does .setSwap s fun b =>
    b.sets.act = some s.blk.sets.shd ∧ b.sets.shd = s.blk.sets.act.getD {} ∧ b.sets.armed = none ∧
    b.sets.heldFrom = some s.blk.time.now ∧ b.sets.swaps = s.blk.sets.swaps + 1 ∧ b.sets.waiting = s.blk.sets.waiting ∧
    b.sets.staging = s.blk.sets.staging ∧ b.sets.image = s.blk.sets.image ∧ b.adc.restart = some (0, s.blk.time.now)) ∧
  (∀ (x : Nat) (s : State), s.blk.running = true → s.blk.sets.heldFrom = some x → s.blk.time.slot = 0 →
    (x + 4096 ≤ s.blk.time.now → s.blk.sets.waiting = none → Does .shadowHoldEnd s fun b => b.sets = { s.blk.sets with heldFrom := none }) ∧
    (∀ c, x + 4096 ≤ s.blk.time.now → s.blk.sets.waiting = some c → Does .shadowHoldEnd s fun b =>
      b.sets = { s.blk.sets with heldFrom := none, shd := c, waiting := none, staging := .idle, image := [] }) ∧
    (s.blk.time.now < x + 4096 → exec .shadowHoldEnd s = .next s))

/-- A write of an RS entry edits the shadow set and no other, and is answered at once (R230); one while the shadow is EMPTY, held or about to
be swapped is refused with BUSY (R234, R236), and one that the set cannot take with its code. The same holds of a timetable entry. -/
def Obligations.RsWritesEditTheShadow : Prop :=
  (∀ (h : Hdr) (index : BitVec 16) (sub : BitVec 8) (value : List Byte) (d : Desc) (s : State),
    let key := index.toNat * 256 + sub.toNat
    let v := cleaned key (natLE value)
    let f := s.blk.taken h
    s.blk.writable h key value.length = true → s.blk.entryOf (key / 256) (key % 256) = some d → d.access = .rs →
    (s.blk.shadowBusy = true → Does (.rsEntryWrite h index sub value) s fun b => b.sets = f.sets ∧ Refuses f b h key 0x08) ∧
    (s.blk.shadowBusy = false → f.rsCode s.blk.sets.shd d key v ≠ 0 → Does (.rsEntryWrite h index sub value) s fun b =>
      b.sets = f.sets ∧ Refuses f b h key (f.rsCode s.blk.sets.shd d key v)) ∧
    (s.blk.shadowBusy = false → f.rsCode s.blk.sets.shd d key v = 0 → Does (.rsEntryWrite h index sub value) s fun b =>
      b.sets = { f.sets with shd :=
        { putEntry f.sets.shd key v with state := .edited, edits := f.sets.shd.edits + 1 } } ∧ Acks f b h key)) ∧
  (∀ (h : Hdr) (entry : BitVec 8) (second : Bool) (value : Word64) (d : Desc) (s : State),
    let key := 0x2A0001 + 256 * entry.toNat + flag second
    let v := cleaned key value.toNat
    let f := s.blk.taken h
    s.blk.writable h key 8 = true → s.blk.entryOf (key / 256) (key % 256) = some d → d.access = .rs →
    (s.blk.shadowBusy = true → Does (.timetableEntryWrite h entry second value) s fun b => b.sets = f.sets ∧ Refuses f b h key 0x08) ∧
    (s.blk.shadowBusy = false → f.rsCode s.blk.sets.shd d key v = 0 → Does (.timetableEntryWrite h entry second value) s fun b =>
      b.sets = { f.sets with shd :=
        { putEntry f.sets.shd key v with state := .edited, edits := f.sets.shd.edits + 1 } } ∧ Acks f b h key))

/-! ### Discriminator edges, entries, hold banks (R73 to R75, R81 to R83, R103 to R108, R131, R136, R162) -/

/-- An LT leading edge that reaches its threshold opens an entry on an unmasked channel that has none open, outside every dead time (R74,
R78, R103 to R105): the entry stamps the edge, takes the lower free hold bank until its holds are due, claims the newest pending HT edge
of the 2047 LSB_phi before, and leaves the trigger its lead; with no bank free the hit carries no amplitude and is counted (R75). On a
masked channel the edge is only counted (R81, R85); an edge below its threshold is none (R78). An open entry closes by a trailing edge
after its dead time, by the dead time's end with the output low, or by saturation at 8192 LSB_phi, whichever comes first; a trailing edge
inside the dead time waits for its end, one less than 8 core cycles after the last stamped one counts at their end, and a rise inside the
dead time is merged: the trailing edge is set aside and counted (R103, R104, R108). -/
def Obligations.EntriesOpenAndClose : Prop :=
  (∀ (c : Ch) (p : Point) (level : Int) (s : State), s.blk.edgesRun = true → s.blk.thresholdLT c.val ≤ level →
    (s.blk.chan c.val).openEntry = none →
    let k := s.blk.chan c.val
    let t := s.blk.absAt p
    let e : Entry := { leadSlot := s.blk.time.slot, leadPt := p, leadAt := s.blk.time.now,
                       htDelta := (claimable k.htPend t).map fun h => (h : Int) - t, bank := k.freeBank,
                       amp := if k.freeBank.isNone then .noHold else .waiting, trigMask := (s.blk.rs (chConfigKey c.val)).testBit 29 }
    (∀ l, k.lastLead = some l → l + 512 ≤ t) →
    (s.blk.chMasked c.val = false → Does (.ltLeadingEdge c p level) s fun b =>
      ChanIs s.blk b c.val { (match k.freeBank with
          | some n => k.setBank n.val (.taken t (t + s.blk.holdDelay s.blk.active c.val))
          | none => k) with
        entries := k.entries ++ [e], htPend := [], ltCount := k.ltCount + 1, lastLead := some t, high := true,
        timer := s.blk.time.now, silent := false, busyOrbit := k.busyOrbit + (if k.freeBank = none then 1 else 0) } ∧
      b.leads = s.blk.leads ++ e.leadsOf c.val s.blk.time.now ∧
      b.reg (0x310004 + 256 * c.val) = s.blk.reg (0x310004 + 256 * c.val) + (if k.freeBank = none then 1 else 0)) ∧
    (s.blk.chMasked c.val = true → Does (.ltLeadingEdge c p level) s fun b =>
      ChanIs s.blk b c.val { k with ltCount := k.ltCount + 1, lastLead := some t, high := true } ∧ b.leads = s.blk.leads)) ∧
  (∀ (c : Ch) (p : Point) (level : Int) (s : State), s.blk.edgesRun = true →
    (level < s.blk.thresholdLT c.val → exec (.ltLeadingEdge c p level) s = .next s ∧ exec (.ltRiseMerged c p level) s = .next s) ∧
    (s.blk.thresholdLT c.val < level → exec (.ltTrailingEdge c p level) s = .next s)) ∧
  (∀ (c : Ch) (p : Point) (level : Int) (s : State), s.blk.edgesRun = true → level ≤ s.blk.thresholdLT c.val →
    (s.blk.chan c.val).openEntry = none → let k := s.blk.chan c.val
    let t := s.blk.absAt p
    Does (.ltTrailingEdge c p level) s fun b => ChanIs s.blk b c.val { k with
      high := false, lastTrail := if !blindTo k.lastTrail t && !s.blk.chMasked c.val then some t else k.lastTrail }) ∧
  (∀ (c : Ch) (e : Entry) (s : State), s.blk.edgesRun = true → (s.blk.chan c.val).openEntry = some e →
    let k := s.blk.chan c.val
    (∀ (p : Point) (level : Int), level ≤ s.blk.thresholdLT c.val →
      let t := s.blk.absAt p
      let f := match k.lastTrail with
        | some a => max t (a + 512)
        | none => t
      let k := { k with high := false, lastTrail := if blindTo k.lastTrail t then k.lastTrail else some t }
      (e.lead ≤ t → t < e.lead + 512 → Does (.ltTrailingEdge c p level) s fun b =>
        ChanIs s.blk b c.val (k.setLast { e with fallAt := some f })) ∧
      (e.lead + 512 ≤ t → t < e.lead + 8192 → Does (.ltTrailingEdge c p level) s fun b =>
        ChanIs s.blk b c.val (k.setLast { e with
          tot := totOf e.lead f, fallAt := some f, closed := some (max f (e.lead + 512) / 2048) }) ∧
        b.iu = (s.blk.iuEdge (0x300 + c.val) f).iu) ∧
      (e.lead + 8192 ≤ t → Does (.ltTrailingEdge c p level) s fun b =>
        ChanIs s.blk b c.val (k.setLast { e with tot := 511, fallAt := none, closed := some ((e.lead + 8192) / 2048) }))) ∧
    (∀ f, e.fallAt = some f → e.lead + 512 < 2048 * (s.blk.time.now + 1) → Does (.deadTimeEnd c) s fun b =>
      ChanIs s.blk b c.val (k.setLast { e with tot := totOf e.lead f, closed := some (max f (e.lead + 512) / 2048) }) ∧
      b.iu = (s.blk.iuEdge (0x300 + c.val) f).iu) ∧
    (∀ (p : Point) (level : Int) (f : Nat), s.blk.thresholdLT c.val ≤ level → e.fallAt = some f → s.blk.absAt p < e.lead + 512 →
      Does (.ltRiseMerged c p level) s fun b =>
        ChanIs s.blk b c.val { k.setLast { e with merged := true, fallAt := none } with high := true } ∧
        b.reg 0x400004 = s.blk.reg 0x400004 + 1) ∧
    (e.fallAt = none → e.lead + 8192 < 2048 * (s.blk.time.now + 1) → Does (.entrySaturated c) s fun b =>
      ChanIs s.blk b c.val (k.setLast { e with tot := 511, fallAt := none, closed := some ((e.lead + 8192) / 2048) })))

/-- An HT leading edge that reaches its threshold outside its dead time goes to the open entry that has none yet, marks and counts a repeat
where it has one, and waits to be claimed where no entry is open on an unmasked channel; one that has waited 2048 LSB_phi is an orphan,
counted and told (R78, R103, R105). An HT edge inside the dead time, or below its threshold, does nothing. A taken bank whose instant has
come holds the codes its two gains stand at under the set of the hit's leading edge (R532), and waits as a pair for the slot period two
after that instant's (R68, R73, R131). The settling of a channel ends after its 2048 crossings (R83). A watched channel whose timeout
counter has reached T is SILENT, and where its capture is enabled the lower free bank takes a baseline capture (R136, R162). -/
def Obligations.ChannelsAreServed : Prop :=
  (∀ (c : Ch) (s : State), s.blk.edgesRun = true → let k := s.blk.chan c.val
    (∀ (p : Point) (level : Int), let t := s.blk.absAt p
      (level < s.blk.thresholdHT c.val → exec (.htLeadingEdge c p level) s = .next s) ∧
      (∀ h, k.lastHt = some h → t < h + 512 → exec (.htLeadingEdge c p level) s = .next s) ∧
      (s.blk.thresholdHT c.val ≤ level → (∀ h, k.lastHt = some h → h + 512 ≤ t) →
        (∀ e, k.openEntry = some e → e.htDelta = none → Does (.htLeadingEdge c p level) s fun b =>
          ChanIs s.blk b c.val { k.setLast { e with htDelta := some ((t : Int) - e.lead) } with lastHt := some t }) ∧
        (∀ e, k.openEntry = some e → e.htDelta ≠ none → Does (.htLeadingEdge c p level) s fun b =>
          ChanIs s.blk b c.val { k.setLast { e with htExtra := true } with lastHt := some t } ∧
          b.reg 0x400003 = s.blk.reg 0x400003 + 1) ∧
        (k.openEntry = none → s.blk.chMasked c.val = false → Does (.htLeadingEdge c p level) s fun b =>
          ChanIs s.blk b c.val { k with htPend := k.htPend ++ [t], lastHt := some t }))) ∧
    (let gone := k.htPend.filter fun h => decide (h + 2048 < 2048 * (s.blk.time.now + 1))
     gone ≠ [] → Does (.htOrphan c) s fun b =>
      ChanIs s.blk b c.val { k with htPend := k.htPend.filter fun h => !decide (h + 2048 < 2048 * (s.blk.time.now + 1)) } ∧
      b.reg 0x400002 = s.blk.reg 0x400002 + gone.length ∧ b.latched 0x34 = true)) ∧
  (∀ (c : Ch) (s : State), let k := s.blk.chan c.val
    (∀ n : Fin 2, s.blk.edgesRun = true →
      (∀ lead due, k.bank n.val = .taken lead due → due < 2048 * (s.blk.time.now + 1) → Does (.holdClose c n) s fun b =>
        let set := s.blk.setOf (lead / 2048)
        ChanIs s.blk b c.val
          (k.setBank n.val (.pending (s.blk.gainCode set c.val due false) (s.blk.gainCode set c.val due true))) ∧
        b.adc = { s.blk.adc with pairs := s.blk.adc.pairs ++ [{ ch := c.val, bank := n.val, elig := due / 1024 + 2 }] }) ∧
      (∀ lead due, k.bank n.val = .taken lead due → 2048 * (s.blk.time.now + 1) ≤ due → exec (.holdClose c n) s = .next s) ∧
      ((∀ lead due, k.bank n.val ≠ .taken lead due) → exec (.holdClose c n) s = .next s)) ∧
    (∀ t, k.settle = some t → t ≤ s.blk.time.now → Does (.channelSettled c) s fun b =>
      ChanIs s.blk b c.val { k with settle := none }) ∧
    (∀ t, k.settle = some t → s.blk.time.now < t → exec (.channelSettled c) s = .next s) ∧
    (s.blk.edgesRun = true → s.blk.chMasked c.val = false → s.blk.chWatched c.val = true →
      s.blk.timerFrom c.val + s.blk.rs 0x480004 ≤ s.blk.time.now →
      ((s.blk.rs (0x490001 + 256 * c.val)).testBit 30 = false → Does (.channelTimeout c) s fun b =>
        ChanIs s.blk b c.val { k with silent := true, timer := s.blk.time.now } ∧ b.adc = s.blk.adc ∧
        (k.silent = false → b.latched 0x50 = true)) ∧
      (∀ n, (s.blk.rs (0x490001 + 256 * c.val)).testBit 30 = true → k.freeBank = some n → Does (.channelTimeout c) s fun b =>
        let t := 2048 * s.blk.time.now
        ChanIs s.blk b c.val ({ k with silent := true, timer := s.blk.time.now }.setBank n.val
          (.pending (s.blk.gainCode s.blk.active c.val t false) (s.blk.gainCode s.blk.active c.val t true))) ∧
        b.adc.pairs = s.blk.adc.pairs ++ [⟨c.val, n.val, 2 * s.blk.time.now + 2, true,
          s.blk.pileup c.val t, s.blk.affected s.blk.time.now, true⟩])))

/-- The oldest entry of a channel is classified once it has closed and its amplitude has settled (R158): the first classifier that fails it
discards it and is counted (R160), else its record is formed and counted (R166). One that is not ready stays. -/
def Obligations.EntriesAreClassified : Prop :=
  ∀ (c : Ch) (e : Entry) (rest : List Entry) (s : State), s.blk.running = true → s.blk.cRole = false →
    (s.blk.chan c.val).entries = e :: rest → let k := s.blk.chan c.val
    (e.ready s.blk.time.now = false → exec (.classifyEntry c) s = .next s) ∧
    (∀ n, e.ready s.blk.time.now = true → s.blk.discardedBy c.val e = some n → Does (.classifyEntry c) s fun b =>
      ChanIs s.blk b c.val { k with entries := rest } ∧ b.stk = s.blk.stk ∧ b.reg (0x481000 + n) = s.blk.reg (0x481000 + n) + 1 ∧
      b.reg (0x490005 + 256 * c.val) = s.blk.reg (0x490005 + 256 * c.val) + 1) ∧
    (e.ready s.blk.time.now = true → s.blk.discardedBy c.val e = none → Does (.classifyEntry c) s fun b =>
      ChanIs s.blk b c.val { k with entries := rest } ∧
      b.stk = { s.blk.stk with formed :=
        s.blk.stk.formed ++ [⟨c.val / 16, s.blk.recordOf c.val e, e.leadAt, s.blk.time.now⟩] } ∧
      b.reg 0x481007 = s.blk.reg 0x481007 + 1 ∧ b.reg (0x490004 + 256 * c.val) = s.blk.reg (0x490004 + 256 * c.val) + 1)

/-! ### Bin calibration and the interval unit (R110 to R119) -/

/-- An iteration of bin calibration counts itself, keeps its counts and its largest DNL (R101, R110). With the calibration disabled the trims
and the state stay (R112); enabled, every tap moves by its step inside its range, by one step at most with a compensation of the same
boundary (R110, R498), and a state that is not CONVERGED becomes CONVERGED where no bin deviates by more than 0.25 LSB_phi, or FAILED after
sixteen iterations of CONVERGING. In CONVERGED, enabled or not, a DNL above 0.3 LSB_phi is told (R111). -/
def Obligations.BinCalibrationIterates : Prop :=
  ∀ (counts : List Nat) (s : State), counts.length = 64 → s.blk.running = true → s.blk.time.everLocked = true →
    let worst := (worstBin counts).1
    let from_ := s.blk.trimBase
    (Does (.binCalIterationEnd counts) s fun b =>
      b.bin.counts = counts ∧ b.reg 0x400104 = s.blk.reg 0x400104 + 1 ∧ b.reg 0x400103 = dnlMilli worst ∧
      b.bin.trims = (if s.blk.reg 0x400102 = 1 then
        (from_.1.zip ((from_.2.zip (counts.map trimStep)).map fun q => q.1 + q.2)).map fun q => trimBy q.1 (clampI (-1) 1 q.2)
        else s.blk.bin.trims) ∧
      (s.blk.reg 0x400102 ≠ 1 → b.reg 0x400101 = s.blk.reg 0x400101) ∧
      (s.blk.reg 0x400102 = 1 → s.blk.reg 0x400101 ≠ 2 → worst ≤ 1024 →
        b.reg 0x400101 = 2 ∧ b.latched 0x30 = true ∧ b.reg 0x400107 = 1) ∧
      (s.blk.reg 0x400102 = 1 → s.blk.reg 0x400101 = 1 → 1024 < worst → 15 ≤ s.blk.bin.since →
        b.reg 0x400101 = 3 ∧ b.latched 0x31 = true ∧ b.reg 0x400107 = 0) ∧
      (s.blk.reg 0x400101 = 2 → 3 * 4096 < 10 * worst →
        b.reg 0x400101 = 2 ∧ b.bin.high = true ∧ b.latched 0x32 = true ∧ b.reg 0x400107 = 0))

/-- An edge on ARM is a source of the interval unit, unless it comes less than 8 core cycles after the last stamped one (R103, R114), and one
of the polarity of 4010.02 arms the programme of 4010.01: an enabled programme whose campaign has not ended opens a shot's window in the
present crossing, where no window is open and no other campaign runs and nothing else has armed in the crossing (R116, R119); while a
window is open the arm is counted and told, and that of a disabled programme is refused and told (R118). A shot ends W crossings after its
arm (R117). With no start edge in the window it is void, counted and told; else it is counted, and the shot that makes N ends the campaign,
which is told, and which does not run again unless the programme repeats (R119). -/
def Obligations.WindowsOpenAndShotsEnd : Prop :=
  (∀ (falling : Bool) (p : Point) (s : State), s.blk.running = true → s.blk.time.everLocked = true →
    let t := s.blk.absAt p
    let n := s.blk.reg 0x401001 % 16
    let iu := if blindTo (if falling then s.blk.iu.lastFall else s.blk.iu.lastRise) t then s.blk.iu
      else if falling then { (s.blk.iuEdge 2 t).iu with lastFall := some t }
      else { (s.blk.iuEdge 1 t).iu with lastRise := some t }
    let open_ := ∀ q a, s.blk.iu.window = some (q, a) → s.blk.time.now < a + s.blk.windowLen q
    (s.blk.reg 0x401002 ≠ flag falling → Does (.armEdge falling p) s fun b => b.iu = iu) ∧
    (s.blk.reg 0x401002 = flag falling → open_ → ((s.blk.reg (progKey n 1)).testBit 31 = false ∨ n ∈ s.blk.iu.ended) →
      Does (.armEdge falling p) s fun b => b.iu = iu ∧ b.latched 0x38 = true) ∧
    (s.blk.reg 0x401002 = flag falling → (s.blk.reg (progKey n 1)).testBit 31 = true → n ∉ s.blk.iu.ended →
      s.blk.iu.armsAt ≠ s.blk.time.now →
      (s.blk.iu.window = none → (s.blk.iu.campaign = none ∨ s.blk.iu.campaign = some n) → Does (.armEdge falling p) s fun b =>
        b.iu = { iu with campaign := some n, shots := if s.blk.iu.campaign = none then 0 else s.blk.iu.shots,
                         acc := if s.blk.iu.campaign = none then [] else s.blk.iu.acc, fresh := s.blk.iu.campaign.isNone,
                         window := some (n, s.blk.time.now), armsAt := s.blk.time.now, armed := [2] }) ∧
      (open_ → s.blk.iu.window.isSome = true → Does (.armEdge falling p) s fun b =>
        b.iu.window = s.blk.iu.window ∧ b.iu.campaign = s.blk.iu.campaign ∧ b.iu.shots = s.blk.iu.shots ∧
        b.reg 0x401005 = s.blk.reg 0x401005 + 1 ∧ b.latched 0x36 = true))) ∧
  (∀ (n a : Nat) (s : State), s.blk.iu.window = some (n, a) →
    let cfg := s.blk.reg (progKey n 1)
    let w := bits cfg 18 9 + 1
    let start := s.blk.iu.firstEdge a w (s.blk.reg (progKey n 2))
    (s.blk.time.now < a + w → exec .shotEnd s = .next s) ∧
    (a + w ≤ s.blk.time.now → start = none → Does .shotEnd s fun b =>
      b.iu.window = none ∧ b.iu.shots = s.blk.iu.shots ∧ b.iu.campaign = s.blk.iu.campaign ∧
      b.reg 0x401007 = s.blk.reg 0x401007 + 1 ∧ b.latched 0x37 = true) ∧
    (a + w ≤ s.blk.time.now → start ≠ none → s.blk.iu.shots + 1 < 2 ^ bits cfg 23 19 → Does .shotEnd s fun b =>
      b.iu.window = none ∧ b.iu.shots = s.blk.iu.shots + 1 ∧ b.iu.campaign = s.blk.iu.campaign) ∧
    (a + w ≤ s.blk.time.now → start ≠ none → 2 ^ bits cfg 23 19 ≤ s.blk.iu.shots + 1 → Does .shotEnd s fun b =>
      b.iu.window = none ∧ b.iu.shots = 0 ∧ b.iu.campaign = none ∧ b.latched 0x35 = true ∧
      b.iu.ended = (if cfg.testBit 30 then s.blk.iu.ended else s.blk.iu.ended ++ [n])))

/-! ### Converters (R127 to R152) -/

/-- A slot period starts once, at its own place: assignments bound for it become its conversions, and no hold pair waits past the start of its
fourth eligible period (R132 to R134; assumption 112). A calibration run that has lasted its periods and passes its checks keeps its
coefficients for the exchange and makes the rotation due; one that fails is counted and starts again (R145, R148). At the exchange the
carrel slice takes the coefficients and the rank of the next slice of the circle, whose run begins (R145, R146). -/
def Obligations.PeriodsAndRuns : Prop :=
  (∀ (half : Bool) (codes : List Conv) (s : State), codes.length = 33 → s.blk.arrayRuns = true →
    let q := 2 * s.blk.time.now + flag half
    (s.blk.adc.period < q → Does (.slotPeriodStart half codes) s fun b =>
      b.adc.period = q ∧ (∀ x ∈ s.blk.adc.bound, (x.1, x.2.1, Job.hold x.2.2.1 x.2.2.2) ∈ b.adc.jobs) ∧
      (∀ p ∈ b.adc.pairs, q < p.elig + 3)) ∧
    (∀ (c o : Nat) (r : CalResult), s.blk.adc.period < q → s.blk.adc.jobs = [] → s.blk.adc.joining = [] →
      (∀ x ∈ s.blk.adc.slices, x.2.condemned = false) → s.blk.adc.due = true → s.blk.adc.carrel = some c →
      s.blk.adc.newCoef = some r → s.blk.nextSlice c = some o → o ≠ c → s.blk.boundTo o = false →
      Does (.slotPeriodStart half codes) s fun b =>
        b.adc.carrel = some o ∧ b.adc.due = false ∧ b.adc.newCoef = none ∧ b.adc.runDone = (if s.blk.adc.frozen then 0 else 1) ∧
        b.slice c = { s.blk.slice c with coef := r, rank := (s.blk.slice o).rank } ∧ b.slice o = { s.blk.slice o with rank := none }) ∧
    (q ≤ s.blk.adc.period → exec (.slotPeriodStart half codes) s = .next s)) ∧
  (∀ (c : Fin 33) (r : CalResult) (s : State), r.weights.length = 14 → s.blk.adc.carrel = some c.val → s.blk.arrayRuns = true →
    s.blk.adc.frozen = false → s.blk.adc.due = false → s.blk.runLength ≤ s.blk.adc.runDone →
    (calCheck (s.blk.sliceFuse c.val) r = 0 → Does (.calRunEnd r) s fun b =>
      b.slice c.val = { s.blk.slice c.val with accepted := true, fails := 0 } ∧ b.adc.due = true ∧ b.adc.newCoef = some r ∧
      b.reg 0x440005 = s.blk.reg 0x440005 + 1 ∧ b.reg (0x442006 + 256 * c.val) = s.blk.reg (0x442006 + 256 * c.val) + 1) ∧
    (calCheck (s.blk.sliceFuse c.val) r ≠ 0 → Does (.calRunEnd r) s fun b =>
      (b.slice c.val).fails = (s.blk.slice c.val).fails + 1 ∧ (b.slice c.val).coef = (s.blk.slice c.val).coef ∧ b.adc.runDone = 0 ∧
      b.adc.due = false ∧ b.reg (0x442007 + 256 * c.val) = s.blk.reg (0x442007 + 256 * c.val) + 1))

/-! ### Stacks and queues (R184 to R206) -/

/-- STACK_WRITE takes every formed record that is due to the stack; one record enters at WP where the stack has room, and the directory
counts it (R187, R188, R190). RECORD_RELEASE frees entries whose hold span has ended and that nothing pins, and RP passes them (R191). With
no accept due and no scan in progress WINDOW_READ reads nothing (R196). -/
def Obligations.StacksTakeAndRelease : Prop :=
  ∀ s : State, s.blk.running = true → s.blk.cRole = false →
    (∀ r : Fin 16, Does (.stackWrite r) s fun b =>
      b.stk.formed = (s.blk.stk.formed.filter fun f => !s.blk.forStack r.val f) ∧ b.stk.accs = s.blk.stk.accs ∧
      b.stk.scans = s.blk.stk.scans ∧ (∀ n, n ≠ r.val → b.stack n = s.blk.stack n)) ∧
    (∀ (r : Fin 16) (f : Formed), s.blk.stk.formed = [f] → s.blk.forStack r.val f = true → (s.blk.stack r.val).occupancy < 2048 →
      let k := s.blk.stack r.val
      Does (.stackWrite r) s fun b =>
        (b.stack r.val).entries = k.entries ++ [{ addr := k.wp % 2048, record := f.record, cross := f.cross, written := s.blk.time.now }] ∧
        (b.stack r.val).wp = (k.wp + 1) % 4096 ∧ (b.stack r.val).rp = k.rp ∧
        b.reg (stackKey r.val 3) = s.blk.reg (stackKey r.val 3) + 1) ∧
    (Does .recordRelease s fun b =>
      ∀ n, let k := s.blk.stack n
        (∃ m, m ≤ k.entries.length ∧ (b.stack n).wp = k.wp ∧ (b.stack n).rp % 4096 = (k.rp + m) % 4096 ∧
          (b.stack n).entries.map StackEntry.addr = (k.entries.drop m).map StackEntry.addr ∧
          ∀ e ∈ k.entries.take m, e.freed = true ∨
            ∃ f ∈ k.entries, f.addr = e.addr ∧ f.cross + s.blk.holdSpan f.cross ≤ s.blk.time.now ∧ s.blk.pinned n f = false) ∧
        ∀ e rest, k.entries = e :: rest → e.cross + s.blk.holdSpan e.cross ≤ s.blk.time.now → s.blk.pinned n e = false →
          (b.stack n).entries.length < k.entries.length) ∧
    (Does .windowRead s fun b => b.stk.accs = s.blk.stk.accs.filter fun a => !decide (a.read ≤ s.blk.time.now)) ∧
    (∀ a : RegAccept, s.blk.stk.accs = [a] → a.read ≤ s.blk.time.now → a.mark = none → s.blk.stk.scans = [] →
      (∀ r, (s.blk.scanPart a r).todo = [] ∧ (s.blk.scanPart a r).wds = []) → s.blk.rsAt a.cross 0x4A0007 ≠ 1 →
      let u := s.blk.queue 0
      let h := fragmentHeader 0 0 0 a.kind (flag a.late) 0 (s.blk.orbitOf a.cross) (s.blk.slotOf a.cross) 0 0 0
      u.waits = false → u.room 1024 true = true → u.open_.length < 4 →
      Does .windowRead s fun b => b.stk.scans = [] ∧ b.reg 0x530001 = s.blk.reg 0x530001 + 1 ∧
        (b.queue 0).open_ = u.open_ ++ [{ word := h, cross := a.cross }])

/-- A record written to a queue with room and nothing waiting enters its open word at the tail, the fifth closes the word and counts it
(R203); in an UP queue a colophon sums the words of its orbit before it (R255). One that is no control record and finds no room, not even in the reserve, is refused and kept in the refusal table with its
crossing (R206). A word that has stood open for T_STALE crossings is closed early and counted (R204); a held control record enters the
queue as soon as it has room (R206). -/
def Obligations.QueuesTakeAndCloseWords : Prop :=
  (∀ (q : BitVec 8) (w : Word64) (s : State), queueIn s.blk.cRole q.toNat = true →
    let u := s.blk.queue q.toNat
    let r : QRec := { word := w, cross := s.blk.time.now }
    let placed := s.blk.summed q.toNat r
    u.waits = false →
    (r.control = false → u.room (queueCapacity q.toNat) true = false → Does (.queueRecordWrite q w) s fun b =>
      b.queue q.toNat = { u with refused := [(s.blk.time.now, ⟨1, s.blk.throttled, none⟩)] } ∧
      (∀ p, p ≠ q.toNat → b.queue p = s.blk.queue p) ∧ b.reg (queueKey q.toNat 8) = s.blk.reg (queueKey q.toNat 8) + 1) ∧
    (u.room (queueCapacity q.toNat) r.control = true → u.open_.length < 4 → Does (.queueRecordWrite q w) s fun b =>
      (b.queue q.toNat).open_ = u.open_ ++ [placed] ∧ (b.queue q.toNat).words = u.words ∧ (∀ p, p ≠ q.toNat → b.queue p = s.blk.queue p)) ∧
    (u.room (queueCapacity q.toNat) r.control = true → 4 ≤ u.open_.length → Does (.queueRecordWrite q w) s fun b =>
      (b.queue q.toNat).open_ = [] ∧
      (b.queue q.toNat).words = u.words ++ [⟨0, u.open_ ++ [placed], s.blk.time.now, false⟩] ∧ (∀ p, p ≠ q.toNat → b.queue p = s.blk.queue p) ∧
      b.reg (queueKey q.toNat 5) = s.blk.reg (queueKey q.toNat 5) + 1)) ∧
  (∀ (q : BitVec 8) (s : State), queueIn s.blk.cRole q.toNat = true → let u := s.blk.queue q.toNat
    (s.blk.qStale q.toNat = true → Does (.queueStaleClose q) s fun b =>
      b.queue q.toNat = { u with open_ := [], words := u.words ++ [⟨0, u.open_, s.blk.time.now, false⟩] } ∧
      (∀ r, r ≠ q.toNat → b.queue r = s.blk.queue r) ∧ b.reg (queueKey q.toNat 7) = s.blk.reg (queueKey q.toNat 7) + 1) ∧
    (s.blk.qStale q.toNat = false → exec (.queueStaleClose q) s = .next s) ∧
    (∀ r, u.hold = [r] → u.refused = [] → u.room (queueCapacity q.toNat) true = true → u.open_.length < 4 →
      Does (.queueHoldDrain q) s fun b => (b.queue q.toNat).hold = [] ∧ (b.queue q.toNat).open_ = u.open_ ++ [s.blk.summed q.toNat r] ∧
        (∀ p, p ≠ q.toNat → b.queue p = s.blk.queue p)) ∧
    (u.hold = [] → u.refused = [] → exec (.queueHoldDrain q) s = .next s))

/-! ### Downward commands and timetable actions (R62, R63, R176 to R179, R307 to R309, R371) -/

/-- NOP changes nothing. CAL_FIRE and MEASURE name a crossing: one that has begun is late, counted and told (R308); at an F-role a fire is
entered for its crossing and an arm waits for it, unless the block is under reset, which is counted (R453); a C-role passes a
fire and an arm of scope 0 or 2 on in its next frame, and arms itself in scope 1 and 2; scope 3 names nobody (R307). -/
def Obligations.CommandsActOrAreLate : Prop :=
  ∀ s : State, s.blk.obeys = true →
    (Does .nop s fun b => b = s.blk) ∧
    (∀ (mask : BitVec 16) (p : Point) (count : BitVec 12), let x := s.blk.commandHeader + count.toNat
      (x ≤ s.blk.time.now → Does (.calFireCommand mask p count) s fun b =>
        b.time = s.blk.time ∧ b.acc = s.blk.acc ∧ b.latched 0xAC = true ∧ b.reg 0x5B000A = s.blk.reg 0x5B000A + 1) ∧
      (s.blk.time.now < x → s.blk.cRole = false → tabFind s.blk.boot.resetting 1 = none → Does (.calFireCommand mask p count) s fun b =>
        b.time = { s.blk.time with calDone := s.blk.time.calDone ++ [(x, mask.toNat, p)] } ∧ b.acc = s.blk.acc) ∧
      (s.blk.time.now < x → s.blk.cRole = false → (tabFind s.blk.boot.resetting 1).isSome = true →
        Does (.calFireCommand mask p count) s fun b => b.time = s.blk.time ∧ b.reg 0x10140A = s.blk.reg 0x10140A + 1) ∧
      (s.blk.time.now < x → s.blk.cRole = true → Does (.calFireCommand mask p count) s fun b =>
        b.time = s.blk.time ∧ b.acc = { s.blk.acc with command := some (command 3
          (pack [(16, mask.toNat), (5, p.cycle.toNat), (5, 0), (6, p.phase.toNat), (12, x - (s.blk.time.now + 1))])) })) ∧
    (∀ (prog : BitVec 4) (scope : BitVec 2) (count : BitVec 12), let x := s.blk.commandHeader + count.toNat
      let armed := { s.blk.iu with pending := s.blk.iu.pending ++ [(x, prog.toNat, scope.toNat)] }
      let passed := { s.blk.acc with command := some (command 4
        (pack [(4, prog.toNat), (2, scope.toNat), (26, 0), (12, x - (s.blk.time.now + 1))])) }
      (x ≤ s.blk.time.now → Does (.measureCommand prog scope count) s fun b =>
        b.iu = s.blk.iu ∧ b.acc = s.blk.acc ∧ b.latched 0xAC = true ∧ b.reg 0x5B000A = s.blk.reg 0x5B000A + 1) ∧
      (s.blk.time.now < x → tabFind s.blk.boot.resetting 2 = none → Does (.measureCommand prog scope count) s fun b =>
        b.iu = (if scope.toNat = 2 ∨ scope.toNat = (if s.blk.cRole then 1 else 0) then armed else s.blk.iu) ∧
        b.acc = (if s.blk.cRole ∧ (scope.toNat = 0 ∨ scope.toNat = 2) then passed else s.blk.acc)))

/-- ACCEPT names the most recent crossing with its slot and orbit bits (R176, R177). An F-role registers it for its read crossing, or,
where that has begun, as late, counted and told (R186, R199), and a direct-attached one keeps it before its self triggers (R180); a
released C-role keeps it for the next frame, one that is not released counts it as stale (R447); a kind that the role does not take is
refused and told (R309), and one that names no crossing changes nothing. A C-role in auto mode owes a forced accept once none has been
forwarded for its period (R179), and a self trigger that has waited 16 crossings is dropped, counted and told (R178). -/
def Obligations.AcceptsAreTaken : Prop :=
  (∀ (kind orbit : BitVec 2) (slot : BitVec 14) (s : State), s.blk.obeys = true →
    let bad := kind.toNat = 3 ∨ ((s.blk.cRole = true ∨ s.blk.topology = 2) ∧ kind.toNat ≠ 0)
    (bad → Does (.accept kind orbit slot) s fun b =>
      b.acc = s.blk.acc ∧ b.stk = s.blk.stk ∧ b.latched 0xAB = true ∧ b.reg 0x5B0009 = s.blk.reg 0x5B0009 + 1) ∧
    (¬ bad → s.blk.acceptCross orbit.toNat slot.toNat = none → exec (.accept kind orbit slot) s = .next s) ∧
    (∀ x, ¬ bad → s.blk.acceptCross orbit.toNat slot.toNat = some x →
      (s.blk.cRole = true → s.blk.boot.released = true → Does (.accept kind orbit slot) s fun b =>
        b.acc = { s.blk.acc with external := some (kind.toNat, x) } ∧ b.stk = s.blk.stk) ∧
      (s.blk.cRole = true → s.blk.boot.released = false → Does (.accept kind orbit slot) s fun b =>
        b.acc = s.blk.acc ∧ b.reg 0x48300C = s.blk.reg 0x48300C + 1) ∧
      (s.blk.cRole = false → s.blk.topology = 2 → Does (.accept kind orbit slot) s fun b =>
        b.acc.external = some (kind.toNat, x)) ∧
      (s.blk.cRole = false → s.blk.topology ≠ 2 → s.blk.streaming x = false →
        let t := s.blk.readCrossing x
        let late := decide (t ≤ s.blk.time.now)
        Does (.accept kind orbit slot) s fun b =>
          b.stk = { s.blk.stk with accs := s.blk.stk.accs ++ [{ cross := x, kind := kind.toNat, q := s.blk.rsAt x 0x4A0003,
                                                                p := s.blk.rsAt x 0x4A0004,
                                                                read := if late then s.blk.time.now + 1 else t,
                                                                got := s.blk.time.now, late := late, mark := none }] } ∧
          b.reg 0x4A2001 = s.blk.reg 0x4A2001 + 1 ∧ b.reg 0x4A2002 = s.blk.reg 0x4A2002 + flag late ∧
          (late = true → b.latched 0x58 = true)))) ∧
  (∀ s : State, s.blk.running = true →
    (s.blk.cRole = true → s.blk.rs 0x483001 = 1 → s.blk.acc.lastFwd + s.blk.rs 0x483002 ≤ s.blk.time.now →
      Does .autoAcceptDue s fun b => b.acc = { s.blk.acc with forcedDue := true }) ∧
    (s.blk.rs 0x483001 ≠ 1 → exec .autoAcceptDue s = .next s) ∧
    (∀ q rest, s.blk.acc.waiting = q :: rest → q.made + 16 ≤ s.blk.time.now → Does .selfTriggerDropped s fun b =>
      b.acc = { s.blk.acc with waiting := rest } ∧ b.reg 0x48300D = s.blk.reg 0x48300D + 1 ∧ b.latched 0x54 = true) ∧
    (∀ q rest, s.blk.acc.waiting = q :: rest → s.blk.time.now < q.made + 16 → exec .selfTriggerDropped s = .next s))

/-- CLAIM acts at the unit it names (R371): SET takes a base claim of 1 to 254, in twin topology one that is not the partner's; a unit that
has remained STANDBY on return takes it 128 lower, or is HELD where that leaves no claim; RELEASE holds a unit that is ACTIVE or STANDBY
beside a partner that runs; RESTORE brings a HELD unit back with its base claim. Each is told, done or not. -/
def Obligations.ClaimsActAtTheirUnit : Prop :=
  ∀ (unitB : Bool) (s : State), s.blk.obeys = true →
    (s.blk.cRole = true → s.blk.boot.unitB = unitB →
      (∀ v : BitVec 8, 1 ≤ v.toNat → v.toNat ≤ 254 → s.blk.topology ≠ 0 → Does (.claimSet unitB v) s fun b =>
        b.reg 0x680002 = v.toNat ∧ b.twin = { s.blk.twin with claimDue := some v.toNat } ∧ b.latched 0xB7 = true) ∧
      (∀ v : BitVec 8, 1 ≤ v.toNat → v.toNat ≤ 254 → s.blk.topology = 0 →
        (s.blk.twin.w0At = 0 ∨ v.toNat ≠ bits s.blk.twin.w0.toNat 55 48) → Does (.claimSet unitB v) s fun b =>
          b.reg 0x680002 = v.toNat ∧ b.latched 0xB7 = true ∧
          b.twin = (if s.blk.twin.state = .active ∨ s.blk.twin.state = .standby then
              if s.blk.twin.remain = true ∧ v.toNat ≤ 128 then { s.blk.twin with state := .held, claimDue := some 0, remain := false }
              else { s.blk.twin with claimDue := some (if s.blk.twin.remain then v.toNat - 128 else v.toNat) }
            else s.blk.twin)) ∧
      (∀ v : BitVec 8, (v.toNat = 0 ∨ v.toNat = 255 ∨
          (s.blk.topology = 0 ∧ s.blk.twin.w0At ≠ 0 ∧ v.toNat = bits s.blk.twin.w0.toNat 55 48)) → Does (.claimSet unitB v) s fun b =>
        b.reg 0x680002 = s.blk.reg 0x680002 ∧ b.twin = s.blk.twin ∧ b.latched 0xB7 = true) ∧
      (s.blk.topology = 0 → (s.blk.twin.state = .active ∨ s.blk.twin.state = .standby) →
        (s.blk.partnerRuns = true → Does (.claimRelease unitB) s fun b =>
          b.twin = { s.blk.twin with state := .held, claimDue := some 0, remain := false } ∧ b.latched 0xB7 = true) ∧
        (s.blk.partnerRuns = false → Does (.claimRelease unitB) s fun b => b.twin = s.blk.twin ∧ b.latched 0xB7 = true)) ∧
      (s.blk.topology = 0 → s.blk.twin.state = .held → Does (.claimRestore unitB) s fun b =>
        b.twin = { s.blk.twin with claimDue := some (s.blk.reg 0x680002),
                                   state := s.blk.stateBeside (s.blk.reg 0x680002) s.blk.partnerClaim,
                                   phase := .waiting, remain := false } ∧ b.latched 0xB7 = true) ∧
      (s.blk.topology ≠ 0 → Does (.claimRestore unitB) s fun b => b.twin = s.blk.twin ∧ b.latched 0xB7 = true)) ∧
    ((s.blk.cRole = false ∨ s.blk.boot.unitB ≠ unitB) → (∀ v, exec (.claimSet unitB v) s = .next s) ∧
      exec (.claimRelease unitB) s = .next s ∧ exec (.claimRestore unitB) s = .next s)

/-- DICT_FAST writes an entry of one byte of the device it names in the present crossing (R309): an entry it may change takes the value, one
whose block is under reset is counted, and any other is refused and told; a C-role passes a write for a worker on in its next frame. -/
def Obligations.FastWritesAct : Prop :=
  ∀ (path : BitVec 6) (idx : BitVec 16) (sub v : BitVec 8) (s : State), s.blk.obeys = true →
    let key := idx.toNat * 256 + sub.toNat
    ((s.blk.cRole = true ∧ path.toNat = 0) ∨ (s.blk.cRole = false ∧ (path.toNat = 63 ∨ path.toNat = s.blk.ownPort)) →
      (s.blk.fastOk key v.toNat = true → tabFind s.blk.boot.resetting (blockOf idx.toNat) = none → valueEntry key = true →
        Does (.dictFast path idx sub v) s fun b =>
          b.reg key = cleaned key v.toNat ∧ (∀ k, k ≠ key → b.reg k = s.blk.reg k) ∧ Keeps [.regs] s.blk b) ∧
      (s.blk.fastOk key v.toNat = true → (tabFind s.blk.boot.resetting (blockOf idx.toNat)).isSome = true →
        Does (.dictFast path idx sub v) s fun b => b.reg 0x10140A = s.blk.reg 0x10140A + 1 ∧ Keeps [.regs] s.blk b) ∧
      (s.blk.fastOk key v.toNat = false → Does (.dictFast path idx sub v) s fun b =>
        b.reg 0x5B0009 = s.blk.reg 0x5B0009 + 1 ∧ b.latched 0xAB = true ∧ Keeps [.regs, .ev] s.blk b)) ∧
    (s.blk.cRole = true → path.toNat ≠ 0 → Does (.dictFast path idx sub v) s fun b =>
      b.acc = { s.blk.acc with command := some (command 7
        (pack [(6, path.toNat), (16, idx.toNat), (8, sub.toNat), (8, v.toNat), (6, 0)])) } ∧ Keeps [.acc] s.blk b) ∧
    (s.blk.cRole = false → path.toNat ≠ 63 → path.toNat ≠ s.blk.ownPort → exec (.dictFast path idx sub v) s = .next s)

/-- An entry of the timetable acts once in its crossing, the lowest of its action, and a one-shot entry is used up (R61 to R63): NONE does
nothing more; CAL_FIRE injects at its point of the crossing every channel of its regions that takes part, with the charge of INJ_CHARGE
and the sign of the signal, in place of what a command fires there in the same crossing, which is counted (R63, R86, R87); REGULAR_START
restarts the regular list in the next crossing (R139); MEASURE arms as an edge on ARM does (R116); TIME_MARK and TOD_MARK put their
records in a C-role's merge and an F-role's OUT queue (R253, R257); DOMAIN_SWITCH asks for a switch at the next orbit boundary from two
crossings ahead (R50). An entry that does not act changes nothing. -/
def Obligations.TimetableActs : Prop :=
  ∀ (entry : BitVec 8) (s : State), s.blk.running = true → let e := entry.toNat
    let oneShot := bits (s.blk.ttWord0 s.blk.active e) 62 61 ≠ 0
    let used := { s.blk.time with acted := s.blk.time.acted ++ [e],
                                  fired := if oneShot then s.blk.time.fired ++ [e] else s.blk.time.fired }
    let arg := s.blk.ttArg e
    (s.blk.ttActs e 0 = true → Does (.none entry) s fun b => b.time = used) ∧
    (s.blk.ttActs e 1 = true → tabFind s.blk.boot.resetting 1 = none → Does (.calFire entry) s fun b =>
      let t := 2048 * s.blk.time.now + 64 * bits arg 15 11 + bits arg 10 5
      let part := fun (c : Nat) => s.blk.injects c (bits arg 31 16)
      let same := fun (c : Nat) => s.blk.time.calDone.any fun f => f.1 == s.blk.time.now && f.2.1.testBit (c / 16)
      let charge := fun (c : Nat) => s.blk.signalSign s.blk.active * (injCharge (s.blk.rs (chConfigKey c)) : Int)
      b.time = used ∧ b.iu = (s.blk.iuEdge 4 t).iu ∧
      b.reg 0x290001 = s.blk.reg 0x290001 + ((List.range 256).filter fun c => part c && same c).length ∧
      ∀ c : Ch, let k := s.blk.chan c.val
        (part c.val = false → b.chan c.val = k) ∧
        (part c.val = true → b.chan c.val = { k with pulses :=
          (if same c.val then k.pulses.filter fun q => !(q.2.2 && q.1 / 2048 == s.blk.time.now) else k.pulses) ++
            (if charge c.val = 0 then [] else [(t, charge c.val, false)]) })) ∧
    (s.blk.ttActs e 3 = true → tabFind s.blk.boot.resetting 3 = none → Does (.regularStart entry) s fun b =>
      b.time = used ∧ b.adc.restart = some (bits arg 9 0, s.blk.time.now + 1)) ∧
    (s.blk.ttActs e 4 = true → tabFind s.blk.boot.resetting 2 = none → (s.blk.reg (progKey (bits arg 3 0) 1)).testBit 31 = true →
      bits arg 3 0 ∉ s.blk.iu.ended → s.blk.iu.window = none →
      (s.blk.iu.campaign = none ∨ s.blk.iu.campaign = some (bits arg 3 0)) → s.blk.iu.armsAt ≠ s.blk.time.now →
      Does (.measure entry) s fun b =>
        b.time = used ∧ b.iu.window = some (bits arg 3 0, s.blk.time.now) ∧ b.iu.campaign = some (bits arg 3 0) ∧ b.iu.armed = [0]) ∧
    (s.blk.ttActs e 5 = true → s.blk.cRole = true → Does (.timeMark entry) s fun b =>
      b.time = used ∧ b.mrg = { s.blk.mrg with time := s.blk.mrg.time ++
        [(s.blk.time.now, timeMarkRecord s.blk.time.orbit s.blk.time.slot (bits arg 15 0))] } ∧
      b.reg 0x500004 = s.blk.reg 0x500004 + 1) ∧
    (s.blk.ttActs e 5 = true → s.blk.cRole = false → let u := s.blk.queue 0
      u.waits = false → u.room 1024 true = true → u.open_.length < 4 → Does (.timeMark entry) s fun b =>
        b.time = used ∧ (b.queue 0).open_ =
          u.open_ ++ [{ word := timeMarkRecord s.blk.time.orbit s.blk.time.slot (bits arg 15 0), cross := s.blk.time.now }]) ∧
    (s.blk.ttActs e 6 = true → s.blk.cRole = true → Does (.todMark entry) s fun b =>
      b.time = used ∧ b.mrg = { s.blk.mrg with tod := s.blk.mrg.tod ++
        [(s.blk.time.now, todMark 1 s.blk.time.orbit s.blk.time.slot s.blk.time.tod)] }) ∧
    (s.blk.ttActs e 6 = true → s.blk.cRole = false → let u := s.blk.queue 0
      u.waits = false → u.room 1024 true = true → u.open_ = [] → Does (.todMark entry) s fun b =>
        b.time = used ∧ (b.queue 0).open_ = (todMark 1 s.blk.time.orbit s.blk.time.slot s.blk.time.tod).map fun w =>
          { word := w, cross := s.blk.time.now }) ∧
    (s.blk.ttActs e 7 = true → (s.blk.dom (bits arg 0 0)).state = .qualified → Does (.domainSwitch entry) s fun b =>
      b.time = { used with switchTo := some ⟨bits arg 0 0, s.blk.time.now + 2, true⟩ }) ∧
    (s.blk.ttActs e 7 = true → (s.blk.dom (bits arg 0 0)).state ≠ .qualified → Does (.domainSwitch entry) s fun b =>
      b.time = used ∧ b.latched 0x82 = true) ∧
    (∀ i ∈ [Instr.none entry, .calFire entry, .regularStart entry, .measure entry, .timeMark entry, .todMark entry, .domainSwitch entry],
      (∀ a, s.blk.ttActs e a = false) → exec i s = .next s)

/-! ### Lanes and frames (R265, R281 to R289, R296, R302, R311 to R316) -/

/-- Clock recovery completes step 1 of a half in Training, unless the supply freeze or the lane's own freeze holds it (R273, R275, R281), and
gives an F-role that has followed no side yet its first (R440); an attempt of a link of one receive half that has not completed step 1
ends, is told, and the next begins at step 1, and a frozen half makes none (R275, R282); step 2 is complete after 64 frames of one
sync-header pattern (R281); a PRBS checker is locked once it has seen 1024 bits without an error (R296). Other lanes stay as they were. An
Active half of a link of one receive half leaves for Training at once, for a lost signal and for a late frame alike, and the drop is
counted and told (R287, R289). Here the half has no region to check and its site stands below the permanent bound (R379). -/
def Obligations.LanesTrainAndDrop : Prop :=
  (∀ (l : Lane) (s : State), s.blk.running = true → let q := s.blk.lane l.val
    (∀ (ctle : BitVec 4) (taps : List Int), taps.length = 6 → q.prbs = 0 →
      let cfg := s.blk.reg (0x590001 + 256 * l.val)
      (q.rx = .training → q.step = 1 → s.blk.env.freeze = false → cfg.testBit 2 = false → Does (.clockRecoveryLocked l ctle taps) s fun b =>
        b.lane l.val = { q with step := 2, step1 := true, goodWords := 0, syncBad := [],
                                ctle := if cfg.testBit 7 then bits cfg 6 3 else ctle.toNat, dfe := taps.map fun t => clampTap (4 * t) } ∧
        (∀ k, s.blk.cRole = false → s.blk.linkOf l.val = some k → k.kind = .group → k.first = l.val → s.blk.time.selected = none →
          s.blk.time.holdover = false → b.time.selected = some (if l.val < 4 then 0 else 1)) ∧
        ∀ m, m ≠ l.val → b.lane m = s.blk.lane m) ∧
      (q.rx ≠ .training ∨ q.step ≠ 1 ∨ s.blk.env.freeze = true ∨ cfg.testBit 2 = true →
        exec (.clockRecoveryLocked l ctle taps) s = .next s)) ∧
    (∀ k, s.blk.linkOf l.val = some k → k.rx = [l.val] → q.rx = .training → q.prbs = 0 →
      (s.blk.rxFrozen l.val = false → q.step1 = false → Does (.trainingAttempt l) s fun b =>
        b.lane l.val = { startStep q with attempts := q.attempts + 1, silentRun := q.silentRun + 1,
                                          absent := q.absent || decide (64 ≤ q.silentRun + 1) } ∧
        b.latched 0x72 = true ∧ ∀ m, m ≠ l.val → b.lane m = s.blk.lane m) ∧
      (s.blk.rxFrozen l.val = true → exec (.trainingAttempt l) s = .next s)) ∧
    (s.blk.linkOf l.val = none → exec (.trainingAttempt l) s = .next s) ∧
    (∀ (k : Link) (x : LineFrame) (margin : Int), s.blk.linkOf l.val = some k → k.kind ≠ .timing → q.prbs = 0 →
      let f := (s.blk.hear l.val x).1
      let q' := (s.blk.hear l.val x).2.lane l.val
      (∀ inv, frCode f = 0x7E → q.rx = .training → q.step = 2 → syncPattern x.sync = some inv →
        let n := if q.syncBad = [inv] then q.goodWords + 1 else 1
        Does (.trainingFrame l x margin) s fun b =>
          b.lane l.val = (if 64 ≤ n then { q' with step := 3, goodWords := 0, inverted := inv, syncBad := [inv] }
                          else { q' with goodWords := n, syncBad := [inv] }) ∧
          ∀ m, m ≠ l.val → b.lane m = s.blk.lane m) ∧
      (frCode f ≠ 0x7E → q.rx = .training → Does (.trainingFrame l x margin) s fun b =>
        b.lane l.val = q' ∧ ∀ m, m ≠ l.val → b.lane m = s.blk.lane m) ∧
      (q.rx ≠ .training → q.rx ≠ .active → exec (.trainingFrame l x margin) s = .next s)) ∧
    (2 ≤ q.prbs → 1024 ≤ q.chkRun → Does (.prbsCheckerLocked l) s fun b =>
      b.lane l.val = { q with prbsLock := true } ∧ ∀ m, m ≠ l.val → b.lane m = s.blk.lane m) ∧
    (q.prbs < 2 ∨ q.chkRun < 1024 → exec (.prbsCheckerLocked l) s = .next s)) ∧
  (∀ (l : Lane) (s : State), s.blk.running = true → let q := s.blk.lane l.val
    (∀ k, s.blk.linkOf l.val = some k → k.rx = [l.val] → q.rx = .active → q.last = none →
      (s.blk.siteTransients (siteId 2 l.val)).length < 15 →
      (∀ cause : BitVec 2, Does (.signalLost l cause) s fun b =>
        (b.lane l.val).rx = .training ∧ (b.lane l.val).step = 1 ∧ (b.lane l.val).attempts = 1 ∧ b.latched 0x71 = true ∧
        b.reg (0x59000C + 256 * l.val) = s.blk.reg (0x59000C + 256 * l.val) + 1) ∧
      (∀ margin : Int, Does (.frameLate l margin) s fun b =>
        (b.lane l.val).rx = .training ∧ (b.lane l.val).step = 1 ∧ b.latched 0x7A = true ∧ b.latched 0x71 = true ∧
        b.reg (0x59000D + 256 * l.val) = s.blk.reg (0x59000D + 256 * l.val) + 1)) ∧
    (∀ margin : Int, q.rx ≠ .active → exec (.frameLate l margin) s = .next s))

/-- When the signal is lost, or clock recovery loses lock, during steps 2 to 6, the half returns to step 1 at once, within the same attempt,
which keeps the highest step it has reached (R285, R299); one that trains at step 1, or is Off or Retired, stays as it is. -/
def Obligations.HalvesReturnToStepOne : Prop :=
  ∀ (l : Lane) (s : State), s.blk.running = true → let q := s.blk.lane l.val
    (∀ cause : BitVec 2, q.rx = .training → 2 ≤ q.step → Does (.signalLost l cause) s fun b =>
      b.lane l.val = { q with step := 1, top := max q.top q.step, goodWords := 0, goodPlace := 0, syncBad := [] } ∧
      ∀ m, m ≠ l.val → b.lane m = s.blk.lane m) ∧
    (∀ cause : BitVec 2, q.rx ≠ .active → (q.rx ≠ .training ∨ q.step < 2) → exec (.signalLost l cause) s = .next s)

/-- A frame at an Active downlink half with good sync headers, whose descrambled copies agree and whose header names the crossing it is
expected for, is kept with its header crossing, and its marker measures the side's residual (R49, R269, R288, R311); one checked whole
crossings before waits for its presentation (R288). What a scrambler sends a descrambler gives back (R269). At a locked PRBS checker the
528 bits of a frame are counted, and those that differ from its own sequence (R296). A half that is Off, Dormant or Retired ignores
it (R265). -/
def Obligations.FramesArePresented : Prop :=
  (∀ (st : BitVec 58) (w : Word64), descramble st (scramble st w) = w) ∧
  ∀ (l : Lane) (x : LineFrame) (k : Link) (margin : Nat) (s : State), s.blk.running = true → s.blk.time.everLocked = true →
    s.blk.linkOf l.val = some k → let q := s.blk.lane l.val
    let f := (s.blk.hear l.val x).1
    let q' := (s.blk.hear l.val x).2.lane l.val
    let h := s.blk.time.now - 2 - q.placed.getD 0
    (k.kind ≠ .timing → 2 ≤ q.prbs → q.prbsLock = true → Does (.framePresented l x margin) s fun b =>
      b.lane l.val = { q with chk := (prbsFrame q.chk).2 } ∧ b.reg (prbsKey l.val 2) = s.blk.reg (prbsKey l.val 2) + 528 ∧
      b.reg (prbsKey l.val 3) = s.blk.reg (prbsKey l.val 3) + popcount 528 (lineBits x ^^^ (prbsFrame q.chk).1) ∧
      ∀ m, m ≠ l.val → b.lane m = s.blk.lane m) ∧
    (k.kind ≠ .timing → q.prbs = 0 → q.rx ≠ .training → q.rx ≠ .active → exec (.framePresented l x margin) s = .next s) ∧
    (∀ r, q.prbs = 0 → s.blk.cRole = false → s.blk.sets.act.isSome = true → k.kind = .group → q.rx = .active → q.step ≠ 5 →
      s.blk.syncGood l.val x = true → ((false :: q.syncBad).take 64).count true < 16 →
      (margin ≤ 2048 → q.last.map Prod.fst ≠ some h →
        copyA (s.blk.peerLane l.val) f = some r → copyB (s.blk.peerLane l.val) f = some r → s.blk.names f h = true →
        codeOk .downlink (frCode f) = true → Does (.framePresented l x margin) s fun b =>
          b.lane l.val = { q' with margin := margin, syncBad := (false :: q.syncBad).take 64, last := some (h, f),
                                   store := (q.store.filter fun p => decide (h < p.1 + 128)) ++ [(h, f)] } ∧
          (∀ m, m ≠ l.val → b.lane m = s.blk.lane m) ∧
          (b.dom (l.val / 4)).residual =
            s.blk.markerAt margin - (s.blk.alignD (l.val / 4) : Int) - (2048 * (h + 1) : Nat)) ∧
      (2048 < margin → Does (.framePresented l x margin) s fun b =>
        b.lane l.val = { q' with syncBad := (false :: q.syncBad).take 64,
                                 wait := (q.wait ++ [(s.blk.time.now + (margin - 1) / 2048, f, margin)]).take 128 } ∧
        (∀ m, m ≠ l.val → b.lane m = s.blk.lane m)))

/-- An F-role acts once on each header crossing, on that of the depth F_R before (R316). It obeys the side of the larger claim, of equal ones
the side it has obeyed last, and none where both are 0 (R315). With no frame of the crossing on either side it obeys none, which is
counted and told (R312, R315); with a frame of side A alone that has a claim it obeys side A, and a NOP payload does nothing more. -/
def Obligations.FramesAreActedOn : Prop :=
  ∀ (h : Nat) (s : State), s.blk.running = true → s.blk.time.everLocked = true →
    (s.blk.actDue = none → exec .frameAct s = .next s) ∧
    (s.blk.actDue = some h → Does .frameAct s fun b =>
      b.frm.acted = some h ∧ h = s.blk.time.now - 2 - s.blk.frm.fr ∧
      (b.frm.claimB < b.frm.claimA → b.frm.nowSide = some 0 ∧ b.frm.nowClaim = b.frm.claimA) ∧
      (b.frm.claimA < b.frm.claimB → b.frm.nowSide = some 1 ∧ b.frm.nowClaim = b.frm.claimB) ∧
      (b.frm.claimA = b.frm.claimB → b.frm.claimA ≠ 0 → b.frm.nowSide = some (s.blk.frm.side.getD 0)) ∧
      (b.frm.claimA = 0 → b.frm.claimB = 0 → b.frm.nowSide = none ∧ b.frm.side = s.blk.frm.side)) ∧
    (s.blk.actDue = some h → s.blk.frm.acted = none → (s.blk.lane 0).store = [] → (s.blk.lane 4).store = [] → Does .frameAct s fun b =>
      b.frm.acted = some h ∧ b.frm.nowSide = none ∧ b.frm.nowClaim = 0 ∧ b.frm.side = s.blk.frm.side ∧ b.latched 0xB9 = true ∧
      b.reg 0x5B0006 = s.blk.reg 0x5B0006 + 1 ∧ b.reg 0x5B0008 = s.blk.reg 0x5B0008 + 1) ∧
    (∀ f p, s.blk.actDue = some h → s.blk.frm.acted = none → (s.blk.lane 0).store = [(h, f)] → (s.blk.lane 4).store = [] →
      copyOf (s.blk.peerLane 0) f = some p → bits p.toNat 47 44 = 0 → 1 ≤ frClaim f → frClaim f ≤ 254 → Does .frameAct s fun b =>
        b.frm.acted = some h ∧ b.frm.nowSide = some 0 ∧ b.frm.side = some 0 ∧ b.frm.nowClaim = frClaim f ∧
        b.frm.claimA = frClaim f ∧ b.frm.claimB = 0)

/-! ### The twin pair (R350 to R371, R443) -/

/-- A cross-link frame whose copies agree gives the partner's claim, once in a crossing (R352); a self-test that passes says so and clears its
cause, one that fails is counted and told (R361); the decision after a mismatch, as soon as the partner's result is there, leaves a unit as it was unless
both tests passed, and then the unit with the lower claim resynchronises (R362). -/
def Obligations.TwinUnitsCompare : Prop :=
  ∀ s : State, s.blk.running = true → s.blk.isTwin = true →
    (∀ x y, s.blk.twin.gotFrame = true → exec (.crosslinkFrame x y) s = .next s) ∧
    (∀ (x : LineFrame) (r : Ref48), let f := (s.blk.hear 38 x).1
      s.blk.twin.gotFrame = false → s.blk.rxActive 38 = true → (s.blk.lane 38).prbs = 0 → s.blk.syncGood 38 x = true →
      ((false :: (s.blk.lane 38).syncBad).take 64).count true < 16 → (s.blk.lane 38).last = none → (s.blk.lane 39).last = none →
      copyA (s.blk.peerLane 38) f = some r → copyB (s.blk.peerLane 38) f = some r → s.blk.names f (s.blk.time.now - 2 - s.blk.fK) = true →
      codeOk .cross (frCode f) = true → frClaim f ≠ 255 → s.blk.ownDigest (s.blk.time.now - 3 - s.blk.fK) = none →
      Does (.crosslinkFrame (some x) none) s fun b =>
        b.twin.gotFrame = true ∧ b.twin.pClaim = frClaim f ∧ (b.lane 38).last = some (s.blk.time.now, f) ∧ (b.lane 39).last = none) ∧
    (∀ m, s.blk.twin.test = some m → m + 15 ≤ s.blk.time.now →
      (s.blk.twin.testFail = 0 → (∀ v ∈ s.blk.twin.verdicts, v.1 ≠ m + 15) → Does (.selftestEnd 0) s fun b =>
        b.twin = { s.blk.twin with test := none, failCheck := 0, result := 2, sources := s.blk.twin.sources.filter (· != 7) } ∧
        b.latched 0xB3 = true) ∧
      (∀ other : BitVec 8, other.toNat.testBit 0 = true → Does (.selftestEnd other) s fun b =>
        b.twin.test = none ∧ b.twin.failCheck = 1 ∧ b.twin.result = 3 ∧ 7 ∈ b.twin.sources ∧ b.latched 0xB3 = true ∧
        b.reg 0x682004 = s.blk.reg 0x682004 + 1 ∧
        (s.blk.twin.entered = true → s.blk.twin.state ≠ .released → b.twin.state = .released ∧ b.twin.claimDue = some 0))) ∧
    (∀ m other, s.blk.twin.test = some m → s.blk.time.now < m + 15 → exec (.selftestEnd other) s = .next s) ∧
    (∀ (at_ own partner : Nat) (rest : List (Nat × Nat × Nat)), s.blk.twin.verdicts = (at_, own, partner) :: rest →
      (s.blk.time.now < at_ + s.blk.mirrorDelay → exec .mismatchDecision s = .next s) ∧
      (at_ + s.blk.mirrorDelay ≤ s.blk.time.now → (own ≠ 2 ∨ partner = 3) → Does .mismatchDecision s fun b =>
        b.twin = { s.blk.twin with verdicts := rest.filter fun v => v.1 != at_ } ∧ b.latched 0xB3 = true) ∧
      (at_ + s.blk.mirrorDelay ≤ s.blk.time.now → own = 2 → partner ≠ 3 → s.blk.sameUnit = false →
        (s.blk.claimLower = true → Does .mismatchDecision s fun b => b.twin.state = .resync ∧ b.twin.claimDue = some 0 ∧
          b.twin.phase = .waiting ∧ b.twin.verdicts = [] ∧ b.latched 0xB3 = true ∧ b.latched 0xB4 = true) ∧
        (s.blk.claimLower = false → Does .mismatchDecision s fun b =>
          b.twin = { s.blk.twin with verdicts := rest.filter fun v => v.1 != at_ } ∧ b.latched 0xB3 = true))) ∧
    (s.blk.twin.verdicts = [] → exec .mismatchDecision s = .next s)

/-- The cross-link is lost after 16 missing crossings and back after 16 good ones, when the unit with the lower claim resynchronises
(R364); a C-role that is ready releases its unit (R443), and twin units take up their base claims at the pairing boundary, or alone at the
ready timeout while the cross-link is not Active; the merge then begins from an empty state (R365). A unit that resynchronises empties its RQ and UP queues at B0 and follows its
partner until Z, where it takes the partner's decision state and runs its own merge again (R366, R367); it returns once the last digest of
its span has matched, with the claim of R370. -/
def Obligations.TwinUnitsPairAndResynchronise : Prop :=
  (∀ s : State, s.blk.running = true →
    (s.blk.isTwin = true → s.blk.twin.lost = false → 16 ≤ s.blk.twin.missing → Does .crosslinkLost s fun b =>
      b.twin.lost = true ∧ b.latched 0xB6 = true) ∧
    (s.blk.twin.missing < 16 → exec .crosslinkLost s = .next s) ∧
    (s.blk.isTwin = true → s.blk.twin.lost = true → 16 ≤ s.blk.twin.goodRun → Does .crosslinkRestored s fun b =>
      b.twin.lost = false ∧ b.latched 0xB6 = true ∧
      ((s.blk.twin.state = .active ∨ s.blk.twin.state = .standby ∨ s.blk.twin.state = .held) → s.blk.sameUnit = false →
        s.blk.claimLower = true → b.twin.state = .resync ∧ b.twin.claimDue = some 0)) ∧
    (s.blk.twin.goodRun < 16 → exec .crosslinkRestored s = .next s) ∧
    (s.blk.cRole = true → s.blk.boot.unitReleased = false → s.blk.allReady = true → Does .unitRelease s fun b =>
      b.latched 0x09 = true ∧ b.twin.entered = true ∧
      (s.blk.topology = 0 → b.boot = { s.blk.boot with unitReleased := true, readySince := some s.blk.time.now } ∧
        (s.blk.twin.sources = [] → (bits s.blk.twin.w0.toNat 63 61 = 0 ∨ 3 < bits s.blk.twin.w0.toNat 63 61) →
          b.twin.state = .pairing ∧ b.twin.claimDue = some 0)) ∧
      (s.blk.topology ≠ 0 →
        b.boot = { s.blk.boot with unitReleased := true, readySince := some s.blk.time.now, countFrom := some s.blk.time.now } ∧
        b.twin.state = .active ∧ b.twin.claimDue = some (s.blk.reg 0x680002))) ∧
    (s.blk.boot.unitReleased = true → exec .unitRelease s = .next s) ∧
    (s.blk.isTwin = true → s.blk.twin.entered = true → s.blk.twin.state = .pairing → s.blk.twin.pairAt = some s.blk.time.now →
      let p := bits s.blk.twin.w0.toNat 55 48
      Does .pairingBoundary s fun b =>
        b.twin = { s.blk.twin with claim := s.blk.reg 0x680002, claimDue := none, pairedAt := some s.blk.time.now, pairAt := none,
                                   digests := [], state := s.blk.stateBeside (s.blk.reg 0x680002) p } ∧
        b.acc.seq = 0 ∧ b.acc.waiting = [] ∧ b.boot = { s.blk.boot with countFrom := some s.blk.time.now } ∧
        ∀ q, (0x21 ≤ q ∧ q ≤ 0x2C) ∨ (0x41 ≤ q ∧ q ≤ 0x60) → b.queue q = {}) ∧
    (s.blk.isTwin = true → s.blk.twin.entered = true → s.blk.twin.state = .pairing → s.blk.rxActive 38 = false → s.blk.rxActive 39 = false →
      s.blk.elapsed (s.blk.boot.readySince.getD s.blk.time.now) (s.blk.rs 0x101404) = true → Does .pairingTimeout s fun b =>
        b.twin = { s.blk.twin with claimDue := some (s.blk.reg 0x680002), state := .active, lost := true, pairAt := none } ∧
        b.latched 0xB6 = true) ∧
    (s.blk.twin.state ≠ .pairing → exec .pairingBoundary s = .next s ∧ exec .pairingTimeout s = .next s)) ∧
  (∀ s : State, s.blk.running = true → s.blk.twin.state = .resync →
    (s.blk.twin.phase = .waiting → s.blk.twin.b0 = some s.blk.time.now → Does .resyncFollowStart s fun b =>
      b.twin = { s.blk.twin with phase := .follow, z := some (s.blk.boundaryAhead (max 2048 (s.blk.rs 0x203002 + 1040))) } ∧
      (∀ q, (0x21 ≤ q ∧ q ≤ 0x2C) ∨ (0x41 ≤ q ∧ q ≤ 0x60) → b.queue q = {}) ∧
      (∀ q, ¬ ((0x21 ≤ q ∧ q ≤ 0x2C) ∨ (0x41 ≤ q ∧ q ≤ 0x60)) → b.queue q = s.blk.queue q)) ∧
    (s.blk.twin.phase = .follow → s.blk.twin.z = some s.blk.time.now → Does .resyncFollowEnd s fun b =>
      b.twin = { s.blk.twin with phase := .own, spanFrom := none, spanTo := none, colsSent := [] } ∧
      b.acc = { s.blk.acc with
        lastFwd := s.blk.twin.w0At - bits s.blk.twin.w0.toNat 40 16,
        holdoff := if bits s.blk.twin.w2.toNat 24 14 = 0 then 0 else s.blk.twin.w2At + bits s.blk.twin.w2.toNat 24 14 - 5 - s.blk.fW,
        seq := (bits s.blk.twin.w2.toNat 60 49 + 1) % 4096, forcedDue := false }) ∧
    (s.blk.twin.phase = .own → exec .resyncFollowStart s = .next s ∧ exec .resyncFollowEnd s = .next s) ∧
    (∀ t, s.blk.twin.spanTo = some t → s.blk.twin.lastCmp = t → s.blk.lastClaim ≠ 0 → Does .resyncSynchronised s fun b =>
      b.twin.claimDue = some s.blk.returnClaim ∧ b.twin.phase = .waiting ∧ b.twin.fails = 0 ∧ b.latched 0xB4 = true ∧ b.latched 0xB5 = true ∧
      b.reg 0x682006 = s.blk.reg 0x682006 + 1 ∧
      b.twin.state = (if s.blk.returnClaim = 0 then .held else if s.blk.rs 0x681001 = 1 then .standby
                      else s.blk.stateBeside s.blk.returnClaim s.blk.partnerClaim)) ∧
    (∀ t, s.blk.twin.spanTo = some t → (s.blk.twin.lastCmp ≠ t ∨ s.blk.lastClaim = 0) → exec .resyncSynchronised s = .next s))

/-! ### Retirement (R381 to R387) -/

/-- At the plan boundary the pending retirements take effect: nothing is pending any more, and with nothing retired and no plan written the
base set is in force (R383, R384). The flash write of new entries of the retirement list copies the list, or fails, is told, and is
tried again (R386). -/
def Obligations.PlansComeIntoForce : Prop :=
  ∀ s : State,
    (s.blk.running = true → s.blk.planDueNow = true → Does .planBoundary s fun b =>
      b.flt.boundary = none ∧ b.flt.pendLanes = [] ∧ b.flt.pendPorts = [] ∧ b.sets.parkAt.isSome = true ∧
      (s.blk.anyRetired = false → s.blk.writtenPlan s.blk.time.orbit = none →
        b.flt.plan = 0 ∧ b.flt.reduced = false ∧ b.sets.planCuts = none) ∧
      (∀ p, s.blk.cRole = false → s.blk.writtenPlan s.blk.time.orbit = some p.number → p.number ≠ 0 →
        s.blk.planOf p.number = some p →
        b.flt.plan = p.number ∧ b.flt.reduced = p.reduced ∧ b.sets.planCuts = some p ∧ b.reg 0x6C0004 = 0)) ∧
    (s.blk.planDueNow = false → exec .planBoundary s = .next s) ∧
    (s.blk.hasFlash = true → s.blk.flt.unsaved ≠ [] →
      (Does (.retirementListWrite true) s fun b => b.flash = { s.blk.flash with list := s.blk.flt.list } ∧ b.flt = { s.blk.flt with unsaved := [] }) ∧
      (Does (.retirementListWrite false) s fun b => b.flash = s.blk.flash ∧ b.flt = s.blk.flt ∧ b.latched 0xC5 = true) ∧
      (Does (.listWriteRetry true) s fun b => b.flash = { s.blk.flash with list := s.blk.flt.list } ∧ b.flt = { s.blk.flt with unsaved := [] }) ∧
      (Does (.listWriteRetry false) s fun b => b.flash = s.blk.flash ∧ b.flt = s.blk.flt ∧ b.latched 0xC5 = true)) ∧
    (∀ ok, s.blk.flt.unsaved = [] → exec (.retirementListWrite ok) s = .next s ∧ exec (.listWriteRetry ok) s = .next s)

/-- A site that is retired is restored by a write to 6C10.01, with every one for FFFF: its entry leaves the list and the flash and its
history is cleared; one that is not retired is refused with VALUE_RANGE. A write to 6C10.02 retires a site that the device has, and
6C10.03 clears the fault log (R381, R387). -/
def Obligations.SitesAreRetiredAndRestored : Prop :=
  ∀ (h : Hdr) (s : State),
    (∀ site : BitVec 16, s.blk.writable h 0x6C1001 2 = true → let f := s.blk.taken h
      (site.toNat ≠ 0xFFFF → site.toNat ∈ s.blk.retiredSites → Does (.restoreSite h site) s fun b =>
        b.flt.list = (s.blk.flt.list.filter fun w => bits w.toNat 63 48 != site.toNat) ∧
        b.flash.list = (s.blk.flash.list.filter fun w => bits w.toNat 63 48 != site.toNat) ∧
        tabFind b.flt.sites site.toNat = none ∧ Acks f b h 0x6C1001) ∧
      (site.toNat ≠ 0xFFFF → site.toNat ∉ s.blk.retiredSites → Does (.restoreSite h site) s fun b =>
        b.flt = s.blk.flt ∧ Refuses f b h 0x6C1001 0x07) ∧
      (site.toNat = 0xFFFF → Does (.restoreSite h site) s fun b =>
        (∀ i ∈ s.blk.retiredSites, tabFind b.flt.sites i = none) ∧ Acks f b h 0x6C1001)) ∧
    (∀ site : BitVec 16, s.blk.writable h 0x6C1002 2 = true → let f := s.blk.taken h
      (s.blk.siteExists site.toNat = false → Does (.retireSite h site) s fun b => b.flt = s.blk.flt ∧ Refuses f b h 0x6C1002 0x07) ∧
      (s.blk.siteExists site.toNat = true → Does (.retireSite h site) s fun b =>
        (b.site site.toNat).state = 2 ∧ Acks f b h 0x6C1002 ∧ ((s.blk.site site.toNat).state = 2 → b.flt = s.blk.flt))) ∧
    (∀ v : BitVec 8, s.blk.writable h 0x6C1003 1 = true → let f := s.blk.taken h
      (v.toNat ≤ 1 → Does (.clearFaultLog h v) s fun b =>
        b.flt = (if v.toNat = 1 then { s.blk.flt with log := [] } else s.blk.flt) ∧ Acks f b h 0x6C1003) ∧
      (1 < v.toNat → Does (.clearFaultLog h v) s fun b => b.flt = s.blk.flt ∧ Refuses f b h 0x6C1003 0x07))

/-! ### The object dictionary (R390 to R407, R412 to R423) -/

/-- A request that the device hears for itself is answered by the entry's row. READ brings the entry's bytes, and a value longer than 56 bytes
as an upload (R401, R402); WRITE is refused by its access, then by its length, then while a transfer runs on the entry (R392, R399), and
one of an RW entry that its entry takes waits for the crossing boundary (R396); CATALOGUE brings the 16-byte descriptor (R403); an opcode that
is not listed is refused with 0x0D (R401). A request with a PATH is refused at an F-role (R416), and at a C-role where the port's state
refuses it (R417). -/
def Obligations.RequestsAreServed : Prop :=
  ∀ (h : Hdr) (index : BitVec 16) (sub : BitVec 8) (s : State), s.blk.hears h = true →
    let f := s.blk.taken h
    let i := index.toNat
    let n := sub.toNat
    let key := i * 256 + n
    (h.path = 0 →
      (∀ d, f.access h i n false = .ok d → let v := f.valueBytes h d key
        (v.length ≤ 56 → Does (.read h index sub) s fun b => Answers f b (mkReply h 0x01 i n v.length v)) ∧
        (56 < v.length → f.transferOn i n = false → f.dict.mute = false → Does (.read h index sub) s fun b =>
          mkReply h 0x05 i n 0 (bytesLE 4 v.length) ∈ b.dict.replies ∧
          ∃ t ∈ b.dict.transfers, t.hdr = h ∧ t.index = i ∧ t.sub = n ∧ t.up = true ∧ t.data = v)) ∧
      (∀ c, f.access h i n false = .error c → Does (.read h index sub) s fun b => Refuses f b h key c) ∧
      (f.levelOf h = none → Does (.catalogue h index sub) s fun b => Refuses f b h key 0x0E) ∧
      (f.levelOf h ≠ none → f.entryOf i n = none → Does (.catalogue h index sub) s fun b => Refuses f b h key 0x01) ∧
      (∀ lvl d, f.levelOf h = some lvl → f.entryOf i n = some d → (d.level = 4 → 4 ≤ lvl) → f.resetting i = false →
        Does (.catalogue h index sub) s fun b => Answers f b (mkReply h 0x08 i n 16 (f.descriptor h d i n))) ∧
      (∀ op : BitVec 8, Does (.opcodeNotListed h op index sub) s fun b => Refuses f b h key 0x0D)) ∧
    (h.path = 0 → h.pair = false → ∀ body : List Byte,
      (∀ c, f.access h i n true = .error c → Does (.write h index sub body) s fun b => Refuses f b h key c) ∧
      (∀ d, f.access h i n true = .ok d →
        (lengthCode d body.length ≠ 0 → Does (.write h index sub body) s fun b => Refuses f b h key (lengthCode d body.length)) ∧
        (lengthCode d body.length = 0 → f.transferOn i n = true → Does (.write h index sub body) s fun b => Refuses f b h key 0x08) ∧
        (lengthCode d body.length = 0 → f.transferOn i n = false → d.access = .rw → plainEntry key = true →
          f.takesValue key (cleaned key (natLE body)) = true →
          Does (.write h index sub body) s fun b => Waits f b h key (cleaned key (natLE body))))) ∧
    (h.path ≠ 0 →
      (s.blk.cRole = false → Does (.read h index sub) s fun b => Refuses f b h key 0x14) ∧
      (s.blk.cRole = true → f.proxyCode h.origin h.path ≠ 0 → Does (.read h index sub) s fun b =>
        Refuses f b h key (f.proxyCode h.origin h.path) ∧ b.reg 0x104003 = s.blk.reg 0x104003 + 1))

/-- A DOWNLOAD that its entry allows opens a transfer and is acknowledged; one on an entry in use is refused with BUSY (R401). Each segment that
is expected joins it, every sixteenth is acknowledged (R402), and the last lets it land: an image for 2020.01 is verified (R231). A segment of a
wrong length ends the transfer with 0x06, one with no transfer is refused with 0x0C. SEGMENT_ACK moves an upload on and ends it with its last
byte; one of segments that were not sent ends it with 0x0C. ABORT ends the transaction of its TAG and is not answered, and a transfer that has
waited 1 s ends with 0x0B. -/
def Obligations.TransfersRun : Prop :=
  (∀ (h : Hdr) (index : BitVec 16) (sub : BitVec 8) (length : BitVec 32) (d : Desc) (s : State),
    h.path = 0 → s.blk.hears h = true → let f := s.blk.taken h
    f.access h index.toNat sub.toNat true = .ok d → lengthCode d length.toNat = 0 → length.toNat ≠ 0 →
    let busy := f.downloadBusy (index.toNat * 256 + sub.toNat) || f.transferOn index.toNat sub.toNat
    (busy = false → Does (.download h index sub length) s fun b =>
      b.dict.transfers = f.dict.transfers ++ [⟨h, index.toNat, sub.toNat, false, length.toNat, [], 0, 0, 0, 0⟩] ∧
      Answers f b (mkReply h 0x03 index.toNat sub.toNat 0 [])) ∧
    (busy = true → Does (.download h index sub length) s fun b =>
      b.dict.transfers = f.dict.transfers ∧ Refuses f b h (index.toNat * 256 + sub.toNat) 0x08)) ∧
  (∀ (o : Origin) (tag seq : BitVec 8) (data : List Byte) (s : State), s.blk.hears (shortHdr o 0) = true →
    (∀ t, s.blk.transferOf o tag.toNat false = some t → t.data.length < t.total → seq.toNat = t.next % 256 →
      (t.fits data = false → Does (.segment o tag seq data) s fun b =>
        b.dict.transfers = s.blk.dict.transfers.filter (fun x => decide (x ≠ t)) ∧
        Answers s.blk b (mkReply t.hdr 0x07 t.index t.sub 0 (bytesLE 4 0x06))) ∧
      (t.fits data = true → t.data.length + data.length < t.total → Does (.segment o tag seq data) s fun b =>
        b.dict.transfers = s.blk.dict.transfers.map (fun x => if x = t then { t with
          data := t.data ++ data, size := if t.next = 0 ∧ t.data.isEmpty then data.length else t.size, next := t.next + 1,
          unacked := if t.unacked = 15 then 0 else t.unacked + 1 } else x) ∧
        (t.unacked ≠ 15 → b.dict.replies = s.blk.dict.replies) ∧
        (t.unacked = 15 → Answers s.blk b ⟨o, 0x06, 0, tag.toNat, 0, (t.next + 1) % 256, 0, 0, []⟩)) ∧
      (t.fits data = true → t.total ≤ t.data.length + data.length → t.index = 0x2020 → t.sub = 1 →
        Does (.segment o tag seq data) s fun b =>
          b.sets.staging = .verifying ∧ b.sets.image = t.data ++ data.take (t.total - t.data.length) ∧ b.sets.by_ = some (t.hdr, false) ∧
          (∀ x ∈ b.dict.transfers, x ∈ s.blk.dict.transfers ∧ x ≠ t))) ∧
    (s.blk.transferOf o tag.toNat false = none → s.blk.proxyByTag o tag.toNat = none → Does (.segment o tag seq data) s fun b =>
      b.dict.transfers = s.blk.dict.transfers ∧ Answers s.blk b (mkReply (shortHdr o tag) 0x07 0 0 0 (bytesLE 4 0x0C)))) ∧
  (∀ (o : Origin) (tag next : BitVec 8) (t : Transfer) (s : State), s.blk.hears (shortHdr o 0) = true →
    s.blk.transferOf o tag.toNat true = some t → let k := (next.toNat + 256 - t.base % 256) % 256
    (t.unacked < k → Does (.segmentAck o tag next) s fun b =>
      b.dict.transfers = s.blk.dict.transfers.filter (fun x => decide (x ≠ t)) ∧
      Answers s.blk b (mkReply t.hdr 0x07 t.index t.sub 0 (bytesLE 4 0x0C))) ∧
    (k ≤ t.unacked → t.data.length ≤ t.size * k → Does (.segmentAck o tag next) s fun b =>
      b.dict.transfers = s.blk.dict.transfers.filter (fun x => decide (x ≠ t)) ∧ b.dict.replies = s.blk.dict.replies) ∧
    (k ≤ t.unacked → t.size * k < t.data.length → Does (.segmentAck o tag next) s fun b =>
      ∃ u ∈ b.dict.transfers, u.hdr = t.hdr ∧ u.data = t.data.drop (t.size * k) ∧ u.base = t.base + k ∧
        u.unacked = min 16 ((u.data.length + t.size - 1) / t.size))) ∧
  (∀ (h : Hdr) (code : BitVec 32) (s : State), s.blk.hears h = true → s.blk.proxyByTag h.origin h.tag.toNat = none →
    Does (.abort h code) s fun b => b = s.blk.freshTag h ∧
      ∀ t ∈ b.dict.transfers, t.hdr.origin = h.origin → t.hdr.tag ≠ h.tag) ∧
  (∀ (o : Origin) (tag : BitVec 8) (s : State), s.blk.served = true →
    let late := s.blk.dict.transfers.filter fun t => t.hdr.path == 0 && decide (t.hdr.origin = o) && t.hdr.tag.toNat == tag.toNat
    (late = [] → exec (.transferTimeout o tag) s = .next s) ∧
    (∀ t, late = [t] → (t.up = true ∨ t.data.length < t.total) → Does (.transferTimeout o tag) s fun b =>
      b.dict.transfers = s.blk.dict.transfers.filter (fun x => decide (x ≠ t)) ∧
      Answers s.blk b (mkReply t.hdr 0x07 t.index t.sub 0 (bytesLE 4 0x0B))))

/-- LOGIN opens a session where no lockout stands, the number and the level are such as R405 gives, fewer than 8 are open and the credential is
right; a wrong one is counted, and the fifth in a row within 60 s locks every login out until the lockout ends (R406). LOGOUT, and SESSION_TIMEOUT
without a request that names it, end a session, and LOGOUT releases its check-value units (R346, R405). A proxy request that no worker has answered is refused with
0x15 (R418). -/
def Obligations.SessionsOpenAndEnd : Prop :=
  (∀ (h : Hdr) (level : BitVec 8) (cred : List Byte) (v : Verdict) (s : State), h.path = 0 → s.blk.hears h = true →
    let f := s.blk.taken h
    let mine := fun (x : Session) => x.number == h.session && decide (x.origin = h.origin)
    let free := 1 ≤ h.session ∧ h.session ≤ 127 ∧ f.dict.sessions.any mine = false ∧ 2 ≤ level.toNat ∧ level.toNat ≤ 4 ∧
      f.dict.sessions.length < 8
    (s.blk.dict.lockout = true → Does (.login h level cred v) s fun b =>
      b.dict.sessions = f.dict.sessions ∧ Refuses f b h 0 0x10) ∧
    (s.blk.dict.lockout = false → (h.session = 0 ∨ 127 < h.session ∨ f.dict.sessions.any mine = true) →
      Does (.login h level cred v) s fun b => b.dict.sessions = f.dict.sessions ∧ Refuses f b h 0 0x0E) ∧
    (s.blk.dict.lockout = false → free → (f.credentialOk h level.toNat cred v).1 = true → Does (.login h level cred v) s fun b =>
      b.dict.sessions = f.dict.sessions ++ [⟨h.session, h.origin, level.toNat, s.blk.time.now⟩] ∧ b.dict.fails = [] ∧
      Answers f b (mkReply h 0x10 0 0 0 [])) ∧
    (s.blk.dict.lockout = false → free → (f.credentialOk h level.toNat cred v).1 = false → Does (.login h level cred v) s fun b =>
      b.dict.sessions = f.dict.sessions ∧ b.reg 0x103005 = s.blk.reg 0x103005 + 1 ∧ Refuses f b h 0 0x0F ∧
      (s.blk.dict.fails.length < 4 → b.dict.lockout = false ∧ b.dict.fails = s.blk.dict.fails ++ [s.blk.time.now]) ∧
      (∀ x l, s.blk.dict.fails = x :: l → l.length = 3 → s.blk.lately x = true → b.dict.lockout = true ∧ b.dict.fails = []))) ∧
  (∀ s : State, (s.blk.dict.lockout = true → Does .loginLockoutEnd s fun b =>
      b.dict = { s.blk.dict with lockout := false, fails := [] }) ∧
    (s.blk.dict.lockout = false → exec .loginLockoutEnd s = .next s)) ∧
  (∀ (h : Hdr) (s : State), h.path = 0 → s.blk.hears h = true → let f := s.blk.taken h
    let open_ := f.dict.sessions.find? fun x => x.number == h.session && decide (x.origin = h.origin)
    (∀ x, open_ = some x → Does (.logout h) s fun b =>
      b.dict.sessions = f.dict.sessions.filter (fun y => decide (y ≠ x)) ∧
      (∀ u : Fin 16, (s.blk.cvu u.val).running = true → (s.blk.cvu u.val).owner = some (h.origin, h.session) →
        b.cvu u.val = { s.blk.cvu u.val with running := false, owner := none }) ∧
      (∀ u : Fin 16, (s.blk.cvu u.val).owner ≠ some (h.origin, h.session) → b.cvu u.val = s.blk.cvu u.val) ∧
      Answers f b (mkReply h 0x11 0 0 0 [])) ∧
    (open_ = none → Does (.logout h) s fun b => b.dict.sessions = f.dict.sessions ∧ b.cvus = s.blk.cvus ∧ Refuses f b h 0 0x0E)) ∧
  (∀ (n : BitVec 7) (s : State), s.blk.served = true → Does (.sessionTimeout n) s fun b =>
    b.dict.sessions = s.blk.dict.sessions.filter fun x =>
      !(x.number == n.toNat && s.blk.elapsed x.used (1000 * s.blk.reg 0x103004))) ∧
  (∀ (p : Port) (tag : BitVec 8) (s : State), s.blk.running = true → s.blk.cRole = true →
    let late := (s.blk.port (p.val + 1)).proxies.filter fun x => x.tag == tag.toNat && !x.answered
    (late = [] → exec (.proxyTimeout p tag) s = .next s) ∧
    (∀ x, late = [x] → x.hdr.origin ≠ .proxiedUnit → Does (.proxyTimeout p tag) s fun b =>
      (b.port (p.val + 1)).proxies = (s.blk.port (p.val + 1)).proxies.filter (fun y => decide (y ≠ x)) ∧
      b.reg 0x104003 = s.blk.reg 0x104003 + 1 ∧ Answers s.blk b (mkReply x.hdr 0x07 x.index x.sub 0 (bytesLE 4 0x15))))

/-- A write to the pair address that would be taken is acknowledged and waits for orbit APPLY (R420), and when its orbit begins none that is due
waits any longer. A keep takes its key while the flash is idle and answers when the copy is sealed in the place that is not the latest,
or has failed (R422); a forget erases both copies. Writes of 1 to 4001.06, 4010.08 and 7800.03 restart the bin calibration, end the campaign
and clear the history (R112, R118, R429), of more than 1 are refused with VALUE_RANGE. -/
def Obligations.KeepsAndPairWrites : Prop :=
  (∀ (h : Hdr) (index : BitVec 16) (sub : BitVec 8) (body : List Byte) (s : State), h.path = 0 → h.pair = true → s.blk.hears h = true →
    let f := s.blk.taken h
    let key := index.toNat * 256 + sub.toNat
    6 ≤ body.length → refusedSince f (f.writeEntry h key (body.drop 6)) = false → f.accessIs .rs key = false →
    f.inTime (natLE (body.take 6)) = true → f.dict.pairs.length < 8 → Does (.write h index sub body) s fun b =>
      b.dict.pairs = f.dict.pairs ++ [⟨natLE (body.take 6), h, index.toNat, sub.toNat, body.drop 6⟩] ∧ Acks f b h key) ∧
  (∀ s : State, s.blk.running = true →
    ((∀ p ∈ s.blk.dict.pairs, s.blk.time.orbit < p.apply) → exec .pairWriteApply s = .next s) ∧
    (Does .pairWriteApply s fun b => ∀ p ∈ b.dict.pairs, p ∈ s.blk.dict.pairs ∧ s.blk.time.orbit < p.apply)) ∧
  (∀ (h : Hdr) (key : BitVec 32) (s : State), s.blk.writable h 0x101001 4 = true → let f := s.blk.taken h
    let busy := f.dict.keeping.isSome || f.downloading || f.flashWriting
    (key.toNat ≠ 0x4B454550 → Does (.keep h key) s fun b => b.dict.keeping = f.dict.keeping ∧ Refuses f b h 0x101001 0x07) ∧
    (key.toNat = 0x4B454550 → busy = true → Does (.keep h key) s fun b =>
      b.dict.keeping = f.dict.keeping ∧ Refuses f b h 0x101001 0x08) ∧
    (key.toNat = 0x4B454550 → busy = false → s.blk.hasFlash = false → Does (.keep h key) s fun b =>
      b.dict.keeping = f.dict.keeping ∧ Refuses f b h 0x101001 0x19) ∧
    (key.toNat = 0x4B454550 → busy = false → s.blk.hasFlash = true → Does (.keep h key) s fun b =>
      b.dict.keeping = some (h, 0, []) ∧ b.reg 0x101003 = 1 ∧ b.dict.replies = f.dict.replies)) ∧
  (∀ (h : Hdr) (n : Nat) (t : Tab Nat) (s : State), s.blk.dict.keeping = some (h, n, t) →
    ((n = 0 ∨ n = 3) → ∀ ok, exec (.keepComplete ok) s = .next s) ∧
    ((n = 1 ∨ n = 2) → Does (.keepComplete true) s fun b =>
      b.flash = s.blk.flash.keep t ∧ b.dict.keeping = none ∧ b.reg 0x101003 = 2 ∧ b.reg 0x101004 = s.blk.reg 0x101004 + 1 ∧
      (n = 1 → s.blk.dict.landings.contains h = false → Acks s.blk b h 0x101001) ∧
      (n = 1 → s.blk.dict.landings.contains h = true → Answers s.blk b (mkReply h 0x03 0x1010 1 1 [])) ∧
      (n = 2 → b.dict.replies = s.blk.dict.replies)) ∧
    ((n = 1 ∨ n = 2) → Does (.keepComplete false) s fun b =>
      b.flash = s.blk.flash ∧ b.dict.keeping = none ∧ b.reg 0x101003 = 3 ∧ b.reg 0x101004 = s.blk.reg 0x101004 ∧
      (n = 1 → Refuses s.blk b h 0x101001 0x1A) ∧ (n = 2 → b.dict.replies = s.blk.dict.replies))) ∧
  (∀ (h : Hdr) (key : BitVec 32) (s : State), s.blk.writable h 0x101002 4 = true → let f := s.blk.taken h
    (key.toNat = 0x44464C54 → Does (.forget h key) s fun b =>
      b.flash = { s.blk.flash with keep0 := none, keep1 := none } ∧ Acks f b h 0x101002) ∧
    (key.toNat ≠ 0x44464C54 → Does (.forget h key) s fun b => b.flash = s.blk.flash ∧ Refuses f b h 0x101002 0x07)) ∧
  (∀ (h : Hdr) (value : BitVec 8) (s : State), let f := s.blk.taken h
    (s.blk.writable h 0x400106 1 = true →
      (value.toNat = 1 → Does (.binCalRestart h value) s fun b =>
        b.bin = { trims := s.blk.fuses.binTrims } ∧ (s.blk.time.everLocked = true → b.reg 0x400101 = 1) ∧ Acks f b h 0x400106) ∧
      (value.toNat = 0 → Does (.binCalRestart h value) s fun b => b.bin = s.blk.bin ∧ Acks f b h 0x400106) ∧
      (1 < value.toNat → Does (.binCalRestart h value) s fun b => b.bin = s.blk.bin ∧ Refuses f b h 0x400106 0x07)) ∧
    (s.blk.writable h 0x401008 1 = true →
      (value.toNat = 1 → Does (.campaignAbort h value) s fun b =>
        b.iu = { s.blk.iu with campaign := none, window := none, shots := 0, acc := [] } ∧ Acks f b h 0x401008) ∧
      (1 < value.toNat → Does (.campaignAbort h value) s fun b => b.iu = s.blk.iu ∧ Refuses f b h 0x401008 0x07)) ∧
    (s.blk.writable h 0x780003 1 = true →
      (value.toNat = 1 → Does (.historyClear h value) s fun b =>
        ((onCan h.origin = true ∨ s.blk.cRole = true) → b.ev.ring = []) ∧ Acks f b h 0x780003) ∧
      (1 < value.toNat → Does (.historyClear h value) s fun b => Refuses f b h 0x780003 0x07)))

/-! ### CAN and messages (R408 to R414, R428, R519) -/

/-- A controller that goes bus-off ends the transfers on its bus, keeps the sessions, and is counted and told; it takes part again when the bus
recovers; error-passive is told as it is entered (R408). Frames that are not for the device are counted (R409); an identify frame with the
device's identity gives it its node and is answered (R410); a heartbeat leaves on every bus that runs (R411); with the synchronisation
acquired a controller listens only no longer (R519). -/
def Obligations.CanControllersRun : Prop :=
  ∀ (busB : Bool) (s : State), s.blk.served = true → let c := s.blk.can busB
    (c.up = true →
      (Does (.canBusOff busB) s fun b =>
        b.can busB = { c with state := 3 } ∧ b.can (!busB) = s.blk.can (!busB) ∧ b.dict.sessions = s.blk.dict.sessions ∧
        b.dict.transfers = s.blk.dict.transfers.filter (fun t => !onBus busB t.hdr.origin) ∧
        b.reg (0x105103 + flag busB) = s.blk.reg (0x105103 + flag busB) + 1 ∧ b.latched 0xDA = true) ∧
      (∀ counters, Does (.canErrorPassive busB true counters) s fun b =>
        b.can busB = { c with state := 2 } ∧ b.can (!busB) = s.blk.can (!busB) ∧ b.latched 0xDC = true) ∧
      (∀ counters, Does (.canErrorPassive busB false counters) s fun b =>
        b.can busB = { c with state := 1 } ∧ b.can (!busB) = s.blk.can (!busB) ∧ b.ev = s.blk.ev) ∧
      (∀ (src : BitVec 7) (identity : Word64) (node : BitVec 8),
        (identity = s.blk.fuses.identity → 1 ≤ node.toNat → node.toNat ≤ 126 → Does (.identifyFrame busB src identity node) s fun b =>
          b.reg 0x100101 = node.toNat ∧ b.dict.canOut = s.blk.dict.canOut ++
            [⟨flag busB, canId 6 src.toNat node.toNat 0, bytesLE 8 identity.toNat ++ bytesLE 1 node.toNat⟩]) ∧
        (identity ≠ s.blk.fuses.identity → exec (.identifyFrame busB src identity node) s = .next s))) ∧
    (c.state = 3 → Does (.canBusRecovered busB) s fun b =>
      b.can busB = { c with state := 1 } ∧ b.can (!busB) = s.blk.can (!busB) ∧ b.latched 0xDB = true) ∧
    (c.state ≠ 3 → exec (.canBusRecovered busB) s = .next s) ∧
    (c.state ≠ 0 →
      (Does (.canFrameIgnored busB) s fun b => b.reg (0x105105 + flag busB) = s.blk.reg (0x105105 + flag busB) + 1) ∧
      (Does (.canSyncAcquired busB) s fun b =>
        b.can busB = { c with listen := false } ∧ b.can (!busB) = s.blk.can (!busB) ∧ b.dict.regs = s.blk.dict.regs)) ∧
    (s.blk.reg 0x105005 ≠ 0 → Does .heartbeat s fun b =>
      b.dict.regs = s.blk.dict.regs ∧ b.dict.canOut = s.blk.dict.canOut ++ ((List.range 2).filter s.blk.busRuns).map fun bus =>
        ⟨bus, canId 5 0 (s.blk.reg 0x100101) 0,
          bytesLE 1 s.blk.roleActive ++ bytesLE 1 (if s.blk.cRole then twinCode s.blk.twin.state else 0) ++
          bytesLE 1 (if s.blk.cRole then s.blk.ownClaim else 0) ++
          bytesLE 1 (flag s.blk.ev.alert + 2 * flag s.blk.sets.act.isSome) ++ bytesLE 4 s.blk.time.orbit⟩) ∧
    (s.blk.reg 0x105005 = 0 → exec .heartbeat s = .next s)

/-- A message in band for this device is executed as the request that its bytes spell (R400, R401, R413): READ, WRITE and ABORT are what the
commands of those names are. One whose TARGET names another device changes nothing. A service record of the device's own waits for its
partner in twin topology, else for the merge, and at an F-role enters SVC (R356, R412). A worker's BOOT_READY makes its port ready (R446), its
SITE_RETIRED is kept with the port (R386), and any other event of a worker changes nothing where events are not relayed (R428). -/
def Obligations.MessagesAreTaken : Prop :=
  (∀ (env : Word64) (o : Origin) (tag sub : BitVec 8) (path session : Nat) (index : BitVec 16) (s : State),
    s.blk.running = true → path < 256 → session < 256 →
    let target := bits env.toNat 63 62
    let h : Hdr := { origin := o, pair := s.blk.cRole && s.blk.topology == 0 && target == 3, path := path, tag := tag, session := session }
    let start := fun (op : Nat) => bytesLE 1 op ++ bytesLE 1 path ++ [tag] ++ bytesLE 1 session ++ bytesLE 2 index.toNat ++ [sub]
    (s.blk.targeted target = true → s.blk.originOf (bits env.toNat 61 60) = some o →
      (Does (.inbandMessage env (start 0x01 ++ [0])) s fun b => exec (.read h index sub) s = .next { s with blk := b }) ∧
      (∀ body : List Byte, body.length < 256 → Does (.inbandMessage env (start 0x02 ++ bytesLE 1 body.length ++ body)) s fun b =>
        exec (.write h index sub body) s = .next { s with blk := b }) ∧
      (∀ code : BitVec 32, Does (.inbandMessage env (start 0x07 ++ [0] ++ bytesLE 4 code.toNat)) s fun b =>
        exec (.abort h code) s = .next { s with blk := b })) ∧
    (s.blk.targeted target = false → ∀ m, exec (.inbandMessage env m) s = .next s)) ∧
  (∀ (record : Word64) (s : State), s.blk.running = true →
    (s.blk.cRole = true → s.blk.topology = 0 → Does (.serviceRecord none record) s fun b =>
      b.twin = { s.blk.twin with outbox := s.blk.twin.outbox ++ [record] } ∧ b.mrg = s.blk.mrg) ∧
    (s.blk.cRole = true → s.blk.topology ≠ 0 → Does (.serviceRecord none record) s fun b =>
      b.mrg = { s.blk.mrg with svcOwn := s.blk.mrg.svcOwn ++ [record] } ∧ b.twin = s.blk.twin) ∧
    (let u := s.blk.queue 1
     let r : QRec := { word := record, cross := s.blk.time.now }
     s.blk.cRole = false → u.waits = false → u.room (queueCapacity 1) r.control = true → u.open_.length < 4 →
      Does (.serviceRecord none record) s fun b =>
        (b.queue 1).open_ = u.open_ ++ [r] ∧ (b.queue 1).words = u.words ∧ (∀ p, p ≠ 1 → b.queue p = s.blk.queue p))) ∧
  (∀ (p : Port) (m : Word64) (s : State), s.blk.running = true → s.blk.cRole = true →
    (sourceOf m = 0x08 → Does (.event p m) s fun b =>
      p.val + 1 ∈ b.boot.ready ∧ (s.blk.boot.decided = none → b.boot.joining = s.blk.boot.joining)) ∧
    (sourceOf m = 0xC2 → (tabGet [] s.blk.flt.workers (p.val + 1)).length < 64 → Does (.event p m) s fun b =>
      ∃ e, bits e.toNat 63 48 = bits m.toNat 47 32 ∧
        tabGet [] b.flt.workers (p.val + 1) = tabGet [] s.blk.flt.workers (p.val + 1) ++ [e]) ∧
    (sourceOf m ≠ 0x08 → sourceOf m ≠ 0xC2 → s.blk.reg 0x105006 ≠ 1 → exec (.event p m) s = .next s))

/-! ### Check-value units and keys (chapters 13 and 18) -/

/-- START loads a unit as R341 says and gives it to the requester's session, and is refused with VALUE_RANGE where a field is wrong (R347); STOP
frees it; a unit that another session runs is refused with BUSY (R346). DATA enters the value byte by byte, from the running value that the owner
has written where one waits for the boundary, and is counted (R340, R345, R346); none is refused with LENGTH, and data for a unit that does not run with BUSY. Other units stay. -/
def Obligations.CvuUnitsRun : Prop :=
  ∀ (h : Hdr) (u : Fin 16) (s : State), let f := s.blk.taken h
    (s.blk.writable h (cvuKey u.val 6) 1 = true →
      (s.blk.cvuForeign h u.val = false → s.blk.cvuFault u.val = 0 → Does (.cvuStart h u) s fun b =>
        b.cvu u.val = { running := true, owner := some (h.origin, h.session), value := BitVec.ofNat 64 (s.blk.cvuInit u.val), bytes := 0 } ∧
        (∀ v, v ≠ u.val → b.cvu v = s.blk.cvu v) ∧ Acks f b h (cvuKey u.val 6)) ∧
      (s.blk.cvuForeign h u.val = false → s.blk.cvuFault u.val ≠ 0 → Does (.cvuStart h u) s fun b =>
        b.cvus = s.blk.cvus ∧ Refuses f b h (cvuKey u.val 6) 0x07) ∧
      (s.blk.cvuForeign h u.val = false → Does (.cvuStop h u) s fun b =>
        b.cvu u.val = { s.blk.cvu u.val with running := false, owner := none } ∧
        (∀ v, v ≠ u.val → b.cvu v = s.blk.cvu v) ∧ Acks f b h (cvuKey u.val 6)) ∧
      (s.blk.cvuForeign h u.val = true →
        (Does (.cvuStart h u) s fun b => b.cvus = s.blk.cvus ∧ Refuses f b h (cvuKey u.val 6) 0x08) ∧
        (Does (.cvuStop h u) s fun b => b.cvus = s.blk.cvus ∧ Refuses f b h (cvuKey u.val 6) 0x08))) ∧
    (∀ data : List Byte, s.blk.writable h (cvuKey u.val 7) data.length = true →
      let from_ := ((f.dict.pend.filter (cvuPending u.val)).getLast?.map fun p => p.value).getD (s.blk.cvu u.val).value.toNat
      (data ≠ [] → (s.blk.cvu u.val).running = true → s.blk.cvuForeign h u.val = false → Does (.cvuData h u data) s fun b =>
        b.cvu u.val = { s.blk.cvu u.val with
          bytes := (s.blk.cvu u.val).bytes + data.length,
          value := BitVec.ofNat 64 (cvuBytes (s.blk.cvuWidth u.val) (s.blk.reg (cvuKey u.val 2)) ((s.blk.reg (cvuKey u.val 1)).testBit 8)
            from_ data) } ∧
        (∀ v, v ≠ u.val → b.cvu v = s.blk.cvu v) ∧
        Answers f b (mkReply h 0x03 (cvuKey u.val 7 / 256) (cvuKey u.val 7 % 256) 1 [])) ∧
      (data = [] → Does (.cvuData h u data) s fun b => b.cvus = s.blk.cvus ∧ Refuses f b h (cvuKey u.val 7) 0x06) ∧
      (data ≠ [] → ((s.blk.cvu u.val).running = false ∨ s.blk.cvuForeign h u.val = true) → Does (.cvuData h u data) s fun b =>
        b.cvus = s.blk.cvus ∧ Refuses f b h (cvuKey u.val 7) 0x08))

/-- A rollback commit with its key raises the floor to the active set's version, 256 at most; it is refused with VALUE_RANGE where the key is wrong
or the floor stands there already, with BUSY where R466 says so, and with 0x1A where a fuse does not read back twice (R466, R468). The first
owner key takes slot 0 while none is burned, and an OWNER_KEY_UPDATE image that verifies burns or revokes the slot it names; one that does
not verify is refused with VALUE_RANGE, and in a supply warning nothing is burned (R469). `[]` are readings back that all succeed. -/
def Obligations.KeysAndFloorAreBurned : Prop :=
  (∀ (h : Hdr) (key : BitVec 32) (s : State), s.blk.writable h 0x7C1002 4 = true → let f := s.blk.taken h
    let v := min s.blk.activeVersion 256
    let busy := s.blk.env.warn || f.downloading || f.flashWriting || s.blk.shadowBelow v
    (∀ burns, (key.toNat ≠ 0x524F4C4C ∨ s.blk.activeVersion ≤ s.blk.fuses.floor) → Does (.rollbackCommit h key burns) s fun b =>
      b.fuses = s.blk.fuses ∧ Refuses f b h 0x7C1002 0x07) ∧
    (∀ burns, key.toNat = 0x524F4C4C → s.blk.fuses.floor < s.blk.activeVersion → busy = true →
      Does (.rollbackCommit h key burns) s fun b => b.fuses = s.blk.fuses ∧ Refuses f b h 0x7C1002 0x08) ∧
    (key.toNat = 0x524F4C4C → s.blk.fuses.floor < s.blk.activeVersion → busy = false → Does (.rollbackCommit h key []) s fun b =>
      b.fuses = { s.blk.fuses with floor := max s.blk.fuses.floor v } ∧ Acks f b h 0x7C1002) ∧
    (key.toNat = 0x524F4C4C → s.blk.fuses.floor < v → busy = false → Does (.rollbackCommit h key [false, false]) s fun b =>
      b.fuses = s.blk.fuses ∧ Refuses f b h 0x7C1002 0x1A)) ∧
  (∀ (h : Hdr) (hash : List Byte) (s : State), s.blk.writable h 0x7C2005 hash.length = true → let f := s.blk.taken h
    (s.blk.owned = true → ∀ burns, Does (.ownerFirstKey h hash burns) s fun b => b.fuses = s.blk.fuses ∧ Refuses f b h 0x7C2005 0x07) ∧
    (s.blk.owned = false → s.blk.env.warn = true → ∀ burns, Does (.ownerFirstKey h hash burns) s fun b =>
      b.fuses = s.blk.fuses ∧ Refuses f b h 0x7C2005 0x08) ∧
    (s.blk.owned = false → s.blk.env.warn = false → Does (.ownerFirstKey h hash []) s fun b =>
      b.fuses = { s.blk.fuses with burned := s.blk.fuses.burned ||| 4, keyHashes := putHash s.blk.fuses.keyHashes 2 hash } ∧
      Acks f b h 0x7C2005)) ∧
  (∀ (h : Hdr) (image : List Byte) (v : Verdict) (s : State), s.blk.writable h 0x7C2004 image.length = true → let f := s.blk.taken h
    let p := imgPayload image
    let slot := field p 1 1
    let hash := octets p 4 48
    let sound := s.blk.imageCheck typeUpdate image v = 0 ∧ p.length = 52 ∧ s.blk.updateOk (field p 0 1) slot hash = true
    let landed := mkReply h 0x03 0x7C20 4 1 []
    (∀ i burns, i = .ownerKeyBurn h image v burns ∨ i = .ownerKeyRevoke h image v burns ∨ i = .vendorKeyRevoke h image v burns →
      (¬ sound → Does i s fun b => b.fuses = s.blk.fuses ∧ Refuses f b h 0x7C2004 0x07) ∧
      (sound → s.blk.env.warn = true → Does i s fun b => b.fuses = s.blk.fuses ∧ Refuses f b h 0x7C2004 0x08)) ∧
    (sound → s.blk.env.warn = false →
      (field p 0 1 = 1 → Does (.ownerKeyBurn h image v []) s fun b => b.fuses = { s.blk.fuses with
          burned := s.blk.fuses.burned ||| BitVec.ofNat 6 (2 ^ (2 + slot)), keyHashes := putHash s.blk.fuses.keyHashes (2 + slot) hash } ∧
        Answers f b landed) ∧
      (field p 0 1 = 2 → Does (.ownerKeyRevoke h image v []) s fun b =>
        b.fuses = { s.blk.fuses with revoked := s.blk.fuses.revoked ||| BitVec.ofNat 6 (2 ^ (2 + slot)) } ∧ Answers f b landed) ∧
      (field p 0 1 = 3 → Does (.vendorKeyRevoke h image v []) s fun b =>
        b.fuses = { s.blk.fuses with revoked := s.blk.fuses.revoked ||| BitVec.ofNat 6 (2 ^ slot) } ∧ Answers f b landed)))

/-- An unlock token is kept for its origin's next LOGIN (R473). A nonce asks for a report once at a time (R474); a report is signed with the next
leaf of the open epoch, a new epoch takes one fuse and its first leaf, and a request is refused where the certificate is bad or no epoch is
left (R476, R477). -/
def Obligations.TokensAndReports : Prop :=
  (∀ (h : Hdr) (image : List Byte) (s : State), s.blk.writable h 0x7C3001 image.length = true → Does (.unlockTokenWrite h image) s fun b =>
    b.sec = { s.blk.sec with token := some (h.origin, image) } ∧ Answers (s.blk.taken h) b (mkReply h 0x03 0x7C30 1 1 [])) ∧
  (∀ (h : Hdr) (nonce : List Byte) (s : State), s.blk.writable h 0x7C5001 nonce.length = true → let f := s.blk.taken h
    (s.blk.reg 0x7C5003 ≠ 1 → Does (.attestNonceWrite h nonce) s fun b =>
      b.sec = { s.blk.sec with nonce := nonce, payload := [] } ∧ b.reg 0x7C5003 = 1 ∧ Acks f b h 0x7C5001) ∧
    (s.blk.reg 0x7C5003 = 1 → Does (.attestNonceWrite h nonce) s fun b => b.sec = s.blk.sec ∧ Refuses f b h 0x7C5001 0x08)) ∧
  (∀ s : State, (s.blk.reg 0x7C5003 ≠ 1 → ∀ burns, exec (.attestReportReady burns) s = .next s) ∧
    (s.blk.served = true → s.blk.reg 0x7C5003 = 1 → s.blk.sec.payload ≠ [] →
      (∀ burns, s.blk.sec.certBad = true → Does (.attestReportReady burns) s fun b =>
        b.sec = { s.blk.sec with payload := [] } ∧ b.fuses = s.blk.fuses ∧ b.reg 0x7C5003 = 3 ∧ b.latched 0xEB = true) ∧
      (∀ burns e, s.blk.sec.certBad = false → s.blk.sec.epoch = some e → s.blk.sec.leaf < 1024 →
        Does (.attestReportReady burns) s fun b =>
          b.sec = { s.blk.sec with payload := signedState s.blk.sec.payload e s.blk.sec.leaf, leaf := s.blk.sec.leaf + 1 } ∧
          b.fuses = s.blk.fuses ∧ b.reg 0x7C5003 = 2 ∧ b.reg 0x7C5006 = s.blk.reg 0x7C5006 + 1 ∧ b.latched 0xE6 = true) ∧
      (s.blk.sec.certBad = false → (s.blk.sec.epoch = none ∨ 1024 ≤ s.blk.sec.leaf) → s.blk.fuses.epochs < 1024 → s.blk.env.warn = false →
        let e := s.blk.fuses.epochs
        Does (.attestReportReady []) s fun b =>
          b.sec = { s.blk.sec with payload := signedState s.blk.sec.payload e 0, epoch := some e, leaf := 1 } ∧
          b.fuses = { s.blk.fuses with epochs := e + 1 } ∧ b.reg 0x7C5003 = 2 ∧ b.latched 0xE7 = true ∧ b.latched 0xE6 = true ∧
          (990 < e → b.latched 0xE8 = true)) ∧
      (∀ burns, s.blk.sec.certBad = false → (s.blk.sec.epoch = none ∨ 1024 ≤ s.blk.sec.leaf) → 1024 ≤ s.blk.fuses.epochs →
        Does (.attestReportReady burns) s fun b =>
          b.sec = { s.blk.sec with payload := [] } ∧ b.fuses = s.blk.fuses ∧ b.reg 0x7C5003 = 3 ∧ b.latched 0xE9 = true ∧
          b.latched 0xEB = true)))

/-! ### Release, bookplates, environment and upkeep (chapters 4, 17 and 19) -/

/-- An F-role whose conditions of R443 hold is ready and says so, and says so again every 1024 crossings until its release orbit is known; a direct-
attached one sets that orbit itself. A C-role that has released its unit decides once every port is ready, or at the ready timeout, when it
excludes the ports that are not (R446, R448). At the release orbit acquisition is released (R446). -/
def Obligations.DevicesAreReleased : Prop :=
  ∀ s : State, s.blk.running = true →
    (s.blk.cRole = false →
      (s.blk.boot.readySince = none → s.blk.allReady = true → Does .bootReady s fun b =>
        b.boot.readySince = some s.blk.time.now ∧ b.boot.lastReady = some s.blk.time.now ∧ b.latched 0x08 = true ∧
        b.reg 0x101403 = (if s.blk.direct = true ∧ s.blk.reg 0x101403 = 0 then s.blk.releaseOrbit else s.blk.reg 0x101403)) ∧
      (s.blk.allReady = false → exec .bootReady s = .next s) ∧
      (∀ x, s.blk.boot.lastReady = some x → s.blk.reg 0x101403 = 0 → x + 1024 ≤ s.blk.time.now → Does .bootReadyRepeat s fun b =>
        b.boot = { s.blk.boot with lastReady := some s.blk.time.now }) ∧
      (s.blk.reg 0x101403 ≠ 0 → exec .bootReadyRepeat s = .next s)) ∧
    (s.blk.cRole = true → s.blk.boot.unitReleased = true → s.blk.boot.decided = none →
      (s.blk.unready = [] → Does .releaseDecision s fun b =>
        b.boot = { s.blk.boot with decided := some s.blk.releaseOrbit, written := false } ∧ b.reg 0x101403 = s.blk.releaseOrbit ∧
        ∀ p, (b.port p).excluded = (s.blk.port p).excluded) ∧
      (s.blk.unready ≠ [] → exec .releaseDecision s = .next s) ∧
      (∀ x, s.blk.boot.countFrom = some x → s.blk.elapsed x (s.blk.rs 0x101404) = true → Does .readyTimeout s fun b =>
        b.boot = { s.blk.boot with decided := some s.blk.releaseOrbit, written := false } ∧ b.reg 0x101403 = s.blk.releaseOrbit ∧
        (∀ p, (b.port p).excluded = (decide (p ∈ s.blk.unready) || (s.blk.port p).excluded)) ∧
        (s.blk.unready ≠ [] → b.latched 0x0B = true))) ∧
    (∀ n, s.blk.boot.decided = some n → exec .releaseDecision s = .next s ∧ exec .readyTimeout s = .next s) ∧
    (s.blk.sets.act.isSome = true → s.blk.boot.released = false → s.blk.nR ≠ 0 → s.blk.nR ≤ s.blk.time.orbit →
      Does .bootReleased s fun b =>
        b.boot.released = true ∧ b.boot.releasedAt = s.blk.time.now ∧ b.latched 0x0A = true ∧
        (s.blk.cRole = false → b.adc = { s.blk.adc with initial := false } ∧ b.acc = { s.blk.acc with lastFwd := s.blk.time.now })) ∧
    ((s.blk.nR = 0 ∨ s.blk.time.orbit < s.blk.nR) → exec .bootReleased s = .next s)

/-- A bookplate that passes its checks is VALID from its first good read; a read that fails is tried twice more, then the plate is INVALID where
it answered and ABSENT where it did not (R92, R487, R488). A re-read that nothing answers shows an unplugged plate, one that answers with the
serial a plate come back, and three that agree on another serial a changed one (R93, R488). A retry starts every failed read again. -/
def Obligations.BookplatesAreRead : Prop :=
  (∀ s : State, s.blk.running = true → s.blk.cRole = false → let p := s.blk.plate
    (p.reading = true → p.retried = p.tries →
      (∀ im, tileCheck im = 0 → Does (.bookplateRead (some im)) s fun b => b.plate = { p with
        state := 1, serial := BitVec.ofNat 64 (natLE (octets im 8 8)), image := im.take 1828, tries := p.tries + 1, answered := true,
        check := 0, reading := false, taken := true, mask := plateMask im }) ∧
      (∀ im, tileCheck im ≠ 0 → p.tries < 2 → Does (.bookplateRead (some im)) s fun b =>
        b.plate = { p with tries := p.tries + 1, answered := true, check := tileCheck im, image := im.take 1828 }) ∧
      (∀ im, tileCheck im ≠ 0 → 2 ≤ p.tries → Does (.bookplateRead (some im)) s fun b =>
        b.plate.state = 2 ∧ b.plate.reading = false ∧ b.latched 0x21 = true) ∧
      (p.tries < 2 → Does (.bookplateRead none) s fun b => b.plate = { p with tries := p.tries + 1 }) ∧
      (2 ≤ p.tries → p.answered = false → Does (.bookplateRead none) s fun b =>
        b.plate = { p with state := 3, tries := p.tries + 1, reading := false } ∧ b.latched 0x20 = true)) ∧
    (p.reading = false → (∀ image, exec (.bookplateRead image) s = .next s) ∧
      (∀ reads : List (Option Word64), p.state = 1 → reads.filterMap id = [] → Does (.bookplateReread reads) s fun b =>
        b.plate = { p with state := 5 } ∧ b.latched 0x23 = true) ∧
      (p.state = 5 → Does (.bookplateReread [some p.serial]) s fun b =>
        b.plate = { p with state := 1, last := p.serial } ∧ b.latched 0x24 = true) ∧
      (∀ x, p.state = 1 → x ≠ p.serial → Does (.bookplateReread [some x, some x, some x]) s fun b =>
        b.plate = { p with state := 4, last := x } ∧ b.latched 0x22 = true))) ∧
  (∀ (e : EnvCh) (s : State), s.blk.running = true → let p := (s.blk.envCh e.val).plate
    let others := fun (b : Block) => ∀ k, k ≠ e.val → b.envCh k = s.blk.envCh k
    (p.reading = true → p.retried = p.tries →
      (∀ im, probeCheck im = 0 → Does (.probeBookplateRead e (some im)) s fun b => others b ∧ (b.envCh e.val).plate = { p with
        state := 1, serial := BitVec.ofNat 64 (natLE (octets im 8 8)), image := im.take 132, tries := p.tries + 1, answered := true,
        check := 0, reading := false, taken := true }) ∧
      (p.tries < 2 → Does (.probeBookplateRead e none) s fun b => others b ∧ (b.envCh e.val).plate = { p with tries := p.tries + 1 }) ∧
      (2 ≤ p.tries → Does (.probeBookplateRead e none) s fun b => others b ∧ (b.envCh e.val).plate =
        { p with state := if p.answered then 2 else 3, tries := p.tries + 1, reading := false })) ∧
    (p.reading = false →
      (∀ reads : List (Option Word64), p.state = 1 → reads.filterMap id = [] → Does (.probeBookplateReread e reads) s fun b =>
        others b ∧ (b.envCh e.val).plate = { p with state := 5 } ∧ b.latched 0xF3 = true) ∧
      (∀ x, p.state = 1 → x ≠ p.serial → Does (.probeBookplateReread e [some x, some x, some x]) s fun b =>
        others b ∧ (b.envCh e.val).plate = { p with state := 4, last := x } ∧ b.latched 0xF2 = true))) ∧
  (∀ s : State, s.blk.running = true → Does .bookplateRetry s fun b =>
    b.plate = (if s.blk.plate.reading then { s.blk.plate with retried := s.blk.plate.tries } else s.blk.plate) ∧
    ∀ e, (b.envCh e).plate.retried = (if (s.blk.envCh e).plate.reading then (s.blk.envCh e).plate.tries else (s.blk.envCh e).plate.retried) ∧
      (b.envCh e).plate.tries = (s.blk.envCh e).plate.tries)

/-- A broken wire puts its channel into FAULT and makes every channel that takes its temperature from it TEMP_INVALID, and FAULT ends with the
excursion and 3 samples to settle (R489). An ENVOUT output that is off shows nothing, one whose channel has no sound result the fault
pattern, and else the duty or the frequency of R490. A rail's warning is counted and told, and begins the freeze; with every rail back it ends with the
crossing, and the freeze ends 1 ms after that (R500 to R502). -/
def Obligations.EnvironmentIsWatched : Prop :=
  (∀ (e : EnvCh) (s : State), let c := s.blk.envCh e.val
    let others := fun (b : Block) => ∀ k, k ≠ e.val → b.envCh k = s.blk.envCh k
    (Does (.envWireExcursion e) s fun b => b.envCh e.val = { c with outside := true } ∧ others b) ∧
    (Does (.commonModeInsideWindow e) s fun b => b.envCh e.val = { c with outside := false } ∧ others b) ∧
    (s.blk.running = true → c.outside = true → c.fault = false → Does (.envFaultEnter e) s fun b =>
      (b.envCh e.val).fault = true ∧ b.latched 0xF0 = true ∧
      ∀ k : EnvCh, envSource (s.blk.envConfig k.val) = e.val + 2 → (b.envCh k.val).tempInvalid = true) ∧
    (c.outside = false → exec (.envFaultEnter e) s = .next s) ∧
    (s.blk.running = true → c.outside = false → c.fault = true → Does (.envFaultClear e) s fun b =>
      b.envCh e.val = { c with fault := false, invalid := max c.invalid 3 } ∧ others b ∧ b.latched 0xF0 = true) ∧
    (c.outside = true → exec (.envFaultClear e) s = .next s)) ∧
  (∀ (o : Fin 4) (s : State), let cfg := s.blk.reg (outKey o.val 1)
    let e := bits cfg 27 24
    let num := (s.blk.outV o.val e).1
    let den := (s.blk.outV o.val e).2
    (cfg.testBit 31 = false → Does (.envoutPeriod o) s fun b => tabGet {} b.env.outs o.val = {}) ∧
    (cfg.testBit 31 = true → s.blk.outFault e = true → Does (.envoutPeriod o) s fun b => tabGet {} b.env.outs o.val = { state := 2 }) ∧
    (cfg.testBit 31 = true → s.blk.outFault e = false → 0 < den → cfg.testBit 30 = false → Does (.envoutPeriod o) s fun b =>
      tabGet {} b.env.outs o.val = { state := 1, high := (roundDiv (1024 * (den + 8 * num)) (10 * den.toNat)).toNat }) ∧
    (cfg.testBit 31 = true → s.blk.outFault e = false → 0 < den → cfg.testBit 30 = true →
      let lo : Int := s.blk.reg (outKey o.val 5)
      let hi : Int := s.blk.reg (outKey o.val 6)
      Does (.envoutPeriod o) s fun b =>
        tabGet {} b.env.outs o.val = { state := 1, freq := (roundDiv (1000 * (lo * den + (hi - lo) * num)) den.toNat).toNat })) ∧
  (∀ s : State, s.blk.running = true →
    (∀ (rail : Fin 5) (mv : Nat), Does (.supplyWarningBegin rail mv) s fun b =>
      let dips := if s.blk.env.warn then s.blk.env.lowest else []
      b.env.warn = true ∧ b.env.warnEndDue = false ∧ rail.val ∈ b.env.below ∧ s.blk.time.now ∈ b.env.affected ∧
      b.reg (0x748104 + 256 * rail.val) = s.blk.reg (0x748104 + 256 * rail.val) + 1 ∧
      b.reg (0x748105 + 256 * rail.val) = (match tabFind dips rail.val with | some v => min v mv | none => mv) ∧
      (s.blk.env.warn = false → b.env.freezeDue = true ∧ b.latched 0xFB = true)) ∧
    (s.blk.env.warn = true → Does .supplyWarningEnd s fun b => b.env = { s.blk.env with warnEndDue := true }) ∧
    (s.blk.env.warn = false → exec .supplyWarningEnd s = .next s) ∧
    (s.blk.env.freeze = true → s.blk.env.warn = false → s.blk.elapsed s.blk.env.clearAt 1 = true → Does .supplyFreezeEnd s fun b =>
      b.env = { s.blk.env with freeze := false } ∧ b.adc = { s.blk.adc with frozen := false } ∧ b.twin.warnRun = 0 ∧
      b.latched 0xFC = true ∧ b.latched 0x45 = true ∧ b.latched 0x7D = true) ∧
    (s.blk.elapsed s.blk.env.clearAt 1 = false → exec .supplyFreezeEnd s = .next s) ∧
    (s.blk.env.freeze = false → exec .supplyFreezeEnd s = .next s))

/-- A measurement waits for the next crossing boundary, where it votes the sensors, takes the die temperature from those that are left and judges
the warning level with its hysteresis; at the shutdown level the device shuts down there (R492 to R495, R450; said of the boundary of a device
that runs on its fallback oscillator and has nothing else to do there). A scrub cycle counts what it corrects and what it cannot and names
the bank, and finds nothing but in the words that it reads or that are read (R376, R377). Over-contract records that have waited AGE_LIMIT
crossings leave RQ and are counted, but for withdrawals (R220). -/
def Obligations.UpkeepIsDone : Prop :=
  (∀ (readings : List Int) (s : State), readings.length = 9 → s.blk.served = true → Does (.tempMeasurement readings) s fun b =>
    b.env = { s.blk.env with measured := s.blk.env.measured ++ [readings] }) ∧
  (∀ (readings : List Int) (i : CrossInput) (s : State), s.blk.running = true → s.blk.time.everLocked = false →
    s.blk.env.measured = [readings] → s.blk.dict.pend = [] → s.blk.dict.swaps = [] → s.blk.boot.restartDue = 0 → s.blk.boot.resetDue = [] →
    s.blk.sets.waiting = none → Does (.crossingBoundary i) s fun b =>
      let t := (dieTemp readings b.env.voted).1
      b.env.measured = [] ∧ b.env.readings = readings ∧
      b.env.voted = (List.range 9).filter (fun k => (voteSensor readings s.blk.env.voted s.blk.env.inRun k).1) ∧
      b.env.tDie = t ∧ b.reg 0x740001 = twos 32 (4096 * t) ∧ b.env.warning = s.blk.levelState s.blk.env.warning 1 t ∧
      (s.blk.level16 3 ≤ t → b.boot.phase = .shutdown ∧ b.time.locked = false ∧ b.latched 0xF8 = true) ∧
      (t < s.blk.level16 3 → b.boot.phase = .running)) ∧
  (∀ (found : List ScrubFind) (s : State), s.blk.running = true → s.blk.time.everLocked = true → s.blk.flt.poisoned = [] →
    ((∀ f ∈ found, f.uncorrectable = false ∧ s.blk.scrubbed f = true) → Does (.scrubCycle found) s fun b =>
      b.reg 0x6C0103 = s.blk.reg 0x6C0103 + found.length ∧ b.reg 0x6C0104 = s.blk.reg 0x6C0104 ∧ b.flt = s.blk.flt) ∧
    (∀ f : ScrubFind, found = [f] → s.blk.scrubbed f = true → f.uncorrectable = true → f.memory = .configSet →
      (s.blk.siteTransients (siteId 6 f.bank.toNat)).length < 15 → Does (.scrubCycle found) s fun b =>
        b.reg 0x6C0103 = s.blk.reg 0x6C0103 ∧ b.reg 0x6C0104 = s.blk.reg 0x6C0104 + 1 ∧ b.reg 0x6C0106 = f.bank.toNat ∧
        b.latched 0xC7 = true ∧
        b.flt.poisoned = [{ bank := f.bank.toNat, word := f.word.toNat, at_ := s.blk.time.now, pass := 16384, unit := true }]) ∧
    ((∀ f ∈ found, s.blk.scrubbed f = false) → exec (.scrubCycle found) s = .next s)) ∧
  (∀ (p : Port) (s : State), s.blk.running = true → s.blk.cRole = true →
    let old := fun (r : QRec) => !r.inC && !r.own && (r.group || typeOf r.word != 0x84) &&
      decide (r.arrived + s.blk.rs 0x203002 ≤ s.blk.time.now)
    let recs := s.blk.rqRecs (p.val + 1)
    (recs.any old = false → exec (.overContractAged p) s = .next s) ∧
    (recs.any old = true → Does (.overContractAged p) s fun b =>
      b.rqRecs (p.val + 1) = recs.filter (fun r => !old r) ∧
      b.reg (0x210005 + 256 * (p.val + 1)) = s.blk.reg (0x210005 + 256 * (p.val + 1)) + (recs.filter old).length ∧
      (b.port (p.val + 1)).wds ≠ []))

/-- Each instruction of the JTAG port selects its register and sets what drives the balls (R522): IDCODE, SAMPLE_PRELOAD with what is shifted in,
EXTEST, CLAMP, HIGHZ, and BYPASS for every other code; Test-Logic-Reset selects IDCODE. The port works in every phase but a power-on reset. -/
def Obligations.JtagSelects : Prop :=
  ∀ s : State, let j := s.blk.jtag
    (s.blk.boot.phase ≠ .powerReset →
      (Does .idcode s fun b => b.jtag = { j with ir := 1, select := 1, mode := .normal }) ∧
      (∀ l, Does (.samplePreload (some l)) s fun b => b.jtag = { j with ir := 2, select := 2, mode := .normal, boundary := l }) ∧
      (Does (.samplePreload none) s fun b => b.jtag = { j with ir := 2, select := 2, mode := .normal, boundary := b.jtag.boundary } ∧
        b.jtag.boundary.length = Config.boundaryLength) ∧
      (Does .extest s fun b => b.jtag = { j with ir := 3, select := 2, mode := .extest }) ∧
      (Does .clamp s fun b => b.jtag = { j with ir := 4, select := 0, mode := .clamp }) ∧
      (Does .highz s fun b => b.jtag = { j with ir := 5, select := 0, mode := .highz }) ∧
      (∀ code : BitVec 8, (code.toNat = 0 ∨ 5 < code.toNat) → Does (.bypass code) s fun b =>
        b.jtag = { j with ir := code, select := 0, mode := .normal })) ∧
    (Does .tapReset s fun b => b.jtag = { j with ir := 1, select := 1, mode := .normal }) ∧
    (s.blk.boot.phase = .powerReset → ∀ i ∈ [Instr.idcode, .extest, .clamp, .highz], exec i s = .next s)
end

