-- ==== Sys2Proof/Laws/Frames.lean ====
section
/-! SUPPORT. How frames are put together: what keeps a part of the block keeps it under every way of running operations in turn. -/

namespace Sys2Proof.Machine

theorem partsIn_trans {k l m : List Part} (h : partsIn k m = true) (h' : partsIn m l = true) : partsIn k l = true := by
  simp only [partsIn, List.all_eq_true, List.contains_iff_mem] at *
  exact fun p hp => h' p (h p hp)

theorem Keeps.refl (l : List Part) (a : Block) : Keeps l a a := by
  constructor; intro p _; cases p <;> first | rfl | exact ⟨rfl, rfl⟩

theorem Keeps.widen {l m : List Part} {a b : Block} (h : Keeps l a b) (hl : partsIn l m = true) : Keeps m a b := by
  constructor; intro p hp
  refine h.same p fun hm => hp ?_
  have := List.all_eq_true.mp hl p hm
  simpa using this

theorem Keeps.trans {l : List Part} {a b c : Block} (h : Keeps l a b) (k : Keeps l b c) : Keeps l a c := by
  constructor; intro p hp
  have h1 := h.same p hp
  have h2 := k.same p hp
  cases p <;> first | exact Eq.trans h2 h1 | exact ⟨Eq.trans h2.1 h1.1, Eq.trans h2.2 h1.2⟩

theorem Keeps.comp {l m : List Part} {a b c : Block} (h : Keeps l a b) (k : Keeps m b c) (hm : partsIn m l = true) :
    Keeps l a c := h.trans (k.widen hm)

theorem Keeps.ite {l : List Part} {a x y : Block} {c : Prop} [Decidable c] (hx : Keeps l a x) (hy : Keeps l a y) :
    Keeps l a (if c then x else y) := by split <;> assumption

theorem Keeps.iteFst {β : Type} {l : List Part} {a : Block} {x y : Block × β} {c : Prop} [Decidable c] (hx : Keeps l a x.1)
    (hy : Keeps l a y.1) : Keeps l a (if c then x else y).1 := by split <;> assumption

theorem Keeps.iteSnd {β : Type} {l : List Part} {a : Block} {x y : β × Block} {c : Prop} [Decidable c] (hx : Keeps l a x.2)
    (hy : Keeps l a y.2) : Keeps l a (if c then x else y).2 := by split <;> assumption

theorem Keeps.when {l : List Part} {a b : Block} {c : Bool} {f : Block → Block} (hb : Keeps l a b)
    (hf : ∀ x, Keeps l a x → Keeps l a (f x)) : Keeps l a (b.when c f) := Keeps.ite (hf b hb) hb

theorem Keeps.foldl {α : Type} {l : List Part} {a b : Block} {k : List α} {f : Block → α → Block} (hb : Keeps l a b)
    (hf : ∀ x i, Keeps l a x → Keeps l a (f x i)) : Keeps l a (k.foldl f b) := by
  induction k generalizing b with
  | nil => exact hb
  | cons i t ih => exact ih (hf b i hb)

theorem Keeps.forEach {α : Type} {l : List Part} {a b : Block} {k : List α} {f : α → Block → Block} (hb : Keeps l a b)
    (hf : ∀ i x, Keeps l a x → Keeps l a (f i x)) : Keeps l a (forEach k b f) := Keeps.foldl hb fun x i hx => hf i x hx

theorem Keeps.foldlFst {α β : Type} {l : List Part} {a : Block} {k : List α} {f : Block × β → α → Block × β} {x : Block × β}
    (hb : Keeps l a x.1) (hf : ∀ x i, Keeps l a x.1 → Keeps l a (f x i).1) : Keeps l a (k.foldl f x).1 := by
  induction k generalizing x with
  | nil => exact hb
  | cons i t ih => exact ih (hf x i hb)

theorem Keeps.foldlSnd {α β : Type} {l : List Part} {a : Block} {k : List α} {f : β × Block → α → β × Block} {x : β × Block}
    (hb : Keeps l a x.2) (hf : ∀ x i, Keeps l a x.2 → Keeps l a (f x i).2) : Keeps l a (k.foldl f x).2 := by
  induction k generalizing x with
  | nil => exact hb
  | cons i t ih => exact ih (hf x i hb)

theorem Keeps.fuses {l : List Part} {a b : Block} {v} (h : Keeps l a b) (hl : partsIn [.fuses] l = true) :
    Keeps l a { b with fuses := v } := by
  refine h.comp (m := [.fuses]) ?_ hl
  constructor; intro p hp; cases p <;> first | rfl | exact ⟨rfl, rfl⟩ | exact absurd (List.mem_singleton.mpr rfl) hp

theorem Keeps.flash {l : List Part} {a b : Block} {v} (h : Keeps l a b) (hl : partsIn [.flash] l = true) :
    Keeps l a { b with flash := v } := by
  refine h.comp (m := [.flash]) ?_ hl
  constructor; intro p hp; cases p <;> first | rfl | exact ⟨rfl, rfl⟩ | exact absurd (List.mem_singleton.mpr rfl) hp

theorem Keeps.boot {l : List Part} {a b : Block} {v} (h : Keeps l a b) (hl : partsIn [.role, .boot] l = true) :
    Keeps l a { b with boot := v } := by
  refine h.comp (m := [.role, .boot]) ?_ hl
  constructor; intro p hp; cases p <;> first | rfl | exact ⟨rfl, rfl⟩ | exact absurd (by decide) hp

theorem Keeps.sets {l : List Part} {a b : Block} {v} (h : Keeps l a b) (hl : partsIn [.sets] l = true) :
    Keeps l a { b with sets := v } := by
  refine h.comp (m := [.sets]) ?_ hl
  constructor; intro p hp; cases p <;> first | rfl | exact ⟨rfl, rfl⟩ | exact absurd (List.mem_singleton.mpr rfl) hp

theorem Keeps.time {l : List Part} {a b : Block} {v} (h : Keeps l a b) (hl : partsIn [.now, .time] l = true) :
    Keeps l a { b with time := v } := by
  refine h.comp (m := [.now, .time]) ?_ hl
  constructor; intro p hp; cases p <;> first | rfl | exact ⟨rfl, rfl⟩ | exact absurd (by decide) hp

theorem Keeps.chans {l : List Part} {a b : Block} {v} (h : Keeps l a b) (hl : partsIn [.chans] l = true) :
    Keeps l a { b with chans := v } := by
  refine h.comp (m := [.chans]) ?_ hl
  constructor; intro p hp; cases p <;> first | rfl | exact ⟨rfl, rfl⟩ | exact absurd (List.mem_singleton.mpr rfl) hp

theorem Keeps.chMask {l : List Part} {a b : Block} {v} (h : Keeps l a b) (hl : partsIn [.chMask] l = true) :
    Keeps l a { b with chMask := v } := by
  refine h.comp (m := [.chMask]) ?_ hl
  constructor; intro p hp; cases p <;> first | rfl | exact ⟨rfl, rfl⟩ | exact absurd (List.mem_singleton.mpr rfl) hp

theorem Keeps.chSince {l : List Part} {a b : Block} {v} (h : Keeps l a b) (hl : partsIn [.chSince] l = true) :
    Keeps l a { b with chSince := v } := by
  refine h.comp (m := [.chSince]) ?_ hl
  constructor; intro p hp; cases p <;> first | rfl | exact ⟨rfl, rfl⟩ | exact absurd (List.mem_singleton.mpr rfl) hp

theorem Keeps.leads {l : List Part} {a b : Block} {v} (h : Keeps l a b) (hl : partsIn [.leads] l = true) :
    Keeps l a { b with leads := v } := by
  refine h.comp (m := [.leads]) ?_ hl
  constructor; intro p hp; cases p <;> first | rfl | exact ⟨rfl, rfl⟩ | exact absurd (List.mem_singleton.mpr rfl) hp

theorem Keeps.plate {l : List Part} {a b : Block} {v} (h : Keeps l a b) (hl : partsIn [.plate] l = true) :
    Keeps l a { b with plate := v } := by
  refine h.comp (m := [.plate]) ?_ hl
  constructor; intro p hp; cases p <;> first | rfl | exact ⟨rfl, rfl⟩ | exact absurd (List.mem_singleton.mpr rfl) hp

theorem Keeps.bin {l : List Part} {a b : Block} {v} (h : Keeps l a b) (hl : partsIn [.bin] l = true) :
    Keeps l a { b with bin := v } := by
  refine h.comp (m := [.bin]) ?_ hl
  constructor; intro p hp; cases p <;> first | rfl | exact ⟨rfl, rfl⟩ | exact absurd (List.mem_singleton.mpr rfl) hp

theorem Keeps.iu {l : List Part} {a b : Block} {v} (h : Keeps l a b) (hl : partsIn [.iu] l = true) :
    Keeps l a { b with iu := v } := by
  refine h.comp (m := [.iu]) ?_ hl
  constructor; intro p hp; cases p <;> first | rfl | exact ⟨rfl, rfl⟩ | exact absurd (List.mem_singleton.mpr rfl) hp

theorem Keeps.adc {l : List Part} {a b : Block} {v} (h : Keeps l a b) (hl : partsIn [.adc] l = true) :
    Keeps l a { b with adc := v } := by
  refine h.comp (m := [.adc]) ?_ hl
  constructor; intro p hp; cases p <;> first | rfl | exact ⟨rfl, rfl⟩ | exact absurd (List.mem_singleton.mpr rfl) hp

theorem Keeps.acc {l : List Part} {a b : Block} {v} (h : Keeps l a b) (hl : partsIn [.acc] l = true) :
    Keeps l a { b with acc := v } := by
  refine h.comp (m := [.acc]) ?_ hl
  constructor; intro p hp; cases p <;> first | rfl | exact ⟨rfl, rfl⟩ | exact absurd (List.mem_singleton.mpr rfl) hp

theorem Keeps.stk {l : List Part} {a b : Block} {v} (h : Keeps l a b) (hl : partsIn [.stk] l = true) :
    Keeps l a { b with stk := v } := by
  refine h.comp (m := [.stk]) ?_ hl
  constructor; intro p hp; cases p <;> first | rfl | exact ⟨rfl, rfl⟩ | exact absurd (List.mem_singleton.mpr rfl) hp

theorem Keeps.queues {l : List Part} {a b : Block} {v} (h : Keeps l a b) (hl : partsIn [.queues] l = true) :
    Keeps l a { b with queues := v } := by
  refine h.comp (m := [.queues]) ?_ hl
  constructor; intro p hp; cases p <;> first | rfl | exact ⟨rfl, rfl⟩ | exact absurd (List.mem_singleton.mpr rfl) hp

theorem Keeps.mrg {l : List Part} {a b : Block} {v} (h : Keeps l a b) (hl : partsIn [.mrg] l = true) :
    Keeps l a { b with mrg := v } := by
  refine h.comp (m := [.mrg]) ?_ hl
  constructor; intro p hp; cases p <;> first | rfl | exact ⟨rfl, rfl⟩ | exact absurd (List.mem_singleton.mpr rfl) hp

theorem Keeps.frm {l : List Part} {a b : Block} {v} (h : Keeps l a b) (hl : partsIn [.frm] l = true) :
    Keeps l a { b with frm := v } := by
  refine h.comp (m := [.frm]) ?_ hl
  constructor; intro p hp; cases p <;> first | rfl | exact ⟨rfl, rfl⟩ | exact absurd (List.mem_singleton.mpr rfl) hp

theorem Keeps.cvus {l : List Part} {a b : Block} {v} (h : Keeps l a b) (hl : partsIn [.cvus] l = true) :
    Keeps l a { b with cvus := v } := by
  refine h.comp (m := [.cvus]) ?_ hl
  constructor; intro p hp; cases p <;> first | rfl | exact ⟨rfl, rfl⟩ | exact absurd (List.mem_singleton.mpr rfl) hp

theorem Keeps.twin {l : List Part} {a b : Block} {v} (h : Keeps l a b) (hl : partsIn [.twin] l = true) :
    Keeps l a { b with twin := v } := by
  refine h.comp (m := [.twin]) ?_ hl
  constructor; intro p hp; cases p <;> first | rfl | exact ⟨rfl, rfl⟩ | exact absurd (List.mem_singleton.mpr rfl) hp

theorem Keeps.flt {l : List Part} {a b : Block} {v} (h : Keeps l a b) (hl : partsIn [.flt] l = true) :
    Keeps l a { b with flt := v } := by
  refine h.comp (m := [.flt]) ?_ hl
  constructor; intro p hp; cases p <;> first | rfl | exact ⟨rfl, rfl⟩ | exact absurd (List.mem_singleton.mpr rfl) hp

theorem Keeps.dict {l : List Part} {a b : Block} {v} (h : Keeps l a b) (hl : partsIn [.regs, .dict] l = true) :
    Keeps l a { b with dict := v } := by
  refine h.comp (m := [.regs, .dict]) ?_ hl
  constructor; intro p hp; cases p <;> first | rfl | exact ⟨rfl, rfl⟩ | exact absurd (by decide) hp

theorem Keeps.onDictRest {l : List Part} {a b : Block} {f : Dict → Dict} (hf : ∀ d, (f d).regs = d.regs) (h : Keeps l a b)
    (hl : partsIn [.dict] l = true) : Keeps l a (b.onDict f) := by
  refine h.comp (m := [.dict]) ?_ hl
  constructor; intro p hp; cases p <;> first | rfl | exact ⟨rfl, rfl⟩ | exact hf _ | exact absurd (by decide) hp

theorem Keeps.onDictRegs {l : List Part} {a b : Block} {f : Dict → Dict}
    (hf : ∀ d, ({ f d with regs := [] } : Dict) = { d with regs := [] }) (h : Keeps l a b)
    (hl : partsIn [.regs] l = true) : Keeps l a (b.onDict f) := by
  refine h.comp (m := [.regs]) ?_ hl
  constructor; intro p hp; cases p <;> first | rfl | exact ⟨rfl, rfl⟩ | exact hf _ | exact absurd (by decide) hp

theorem Keeps.onBootRest {l : List Part} {a b : Block} {f : Boot → Boot} (hf : ∀ d, (f d).roleC = d.roleC ∧ (f d).unitB = d.unitB)
    (h : Keeps l a b) (hl : partsIn [.boot] l = true) : Keeps l a (b.onBoot f) := by
  refine h.comp (m := [.boot]) ?_ hl
  constructor; intro p hp; cases p <;> first | rfl | exact ⟨rfl, rfl⟩ | exact hf _ | exact absurd (by decide) hp

theorem Keeps.onTimeRest {l : List Part} {a b : Block} {f : Time → Time} (hf : ∀ d, (f d).now = d.now)
    (h : Keeps l a b) (hl : partsIn [.time] l = true) : Keeps l a (b.onTime f) := by
  refine h.comp (m := [.time]) ?_ hl
  constructor; intro p hp; cases p <;> first | rfl | exact ⟨rfl, rfl⟩ | exact hf _ | exact absurd (by decide) hp

theorem Keeps.ev {l : List Part} {a b : Block} {v} (h : Keeps l a b) (hl : partsIn [.ev] l = true) :
    Keeps l a { b with ev := v } := by
  refine h.comp (m := [.ev]) ?_ hl
  constructor; intro p hp; cases p <;> first | rfl | exact ⟨rfl, rfl⟩ | exact absurd (List.mem_singleton.mpr rfl) hp

theorem Keeps.sec {l : List Part} {a b : Block} {v} (h : Keeps l a b) (hl : partsIn [.sec] l = true) :
    Keeps l a { b with sec := v } := by
  refine h.comp (m := [.sec]) ?_ hl
  constructor; intro p hp; cases p <;> first | rfl | exact ⟨rfl, rfl⟩ | exact absurd (List.mem_singleton.mpr rfl) hp

theorem Keeps.env {l : List Part} {a b : Block} {v} (h : Keeps l a b) (hl : partsIn [.env] l = true) :
    Keeps l a { b with env := v } := by
  refine h.comp (m := [.env]) ?_ hl
  constructor; intro p hp; cases p <;> first | rfl | exact ⟨rfl, rfl⟩ | exact absurd (List.mem_singleton.mpr rfl) hp

theorem Keeps.jtag {l : List Part} {a b : Block} {v} (h : Keeps l a b) (hl : partsIn [.jtag] l = true) :
    Keeps l a { b with jtag := v } := by
  refine h.comp (m := [.jtag]) ?_ hl
  constructor; intro p hp; cases p <;> first | rfl | exact ⟨rfl, rfl⟩ | exact absurd (List.mem_singleton.mpr rfl) hp

theorem Keeps.free {l : List Part} {a b : Block} {v} (h : Keeps l a b) (hl : partsIn [.free] l = true) :
    Keeps l a { b with free := v } := by
  refine h.comp (m := [.free]) ?_ hl
  constructor; intro p hp; cases p <;> first | rfl | exact ⟨rfl, rfl⟩ | exact absurd (List.mem_singleton.mpr rfl) hp

end Sys2Proof.Machine
end

