-- ==== Sys2Proof/Laws/FramesShared.lean ====
section
/-! SUPPORT. The frame of every operation of the shared operations, queues and dictionary service: which parts of the block it can change. -/

namespace Sys2Proof.Machine

set_option linter.all false

theorem Block.onBoot_keeps {ps : List Part} {a0 : Block} {b : Block} {f : Boot → Boot}
    (h_ : Keeps ps a0 b) (hl : partsIn [.role, .boot] ps = true) :
    Keeps ps a0 (Block.onBoot b f) := by
  unfold Block.onBoot
  try dsimp only
  repeat' (first
    | with_reducible exact h_ | with_reducible apply Block.onBoot_keeps | exact partsIn_trans (m := [.role, .boot]) (by decide) hl
    | dsimp only | with_reducible apply Keeps.boot)

theorem Block.onFlash_keeps {ps : List Part} {a0 : Block} {b : Block} {f : Flash → Flash}
    (h_ : Keeps ps a0 b) (hl : partsIn [.flash] ps = true) :
    Keeps ps a0 (Block.onFlash b f) := by
  unfold Block.onFlash
  try dsimp only
  repeat' (first
    | with_reducible exact h_ | exact partsIn_trans (m := [.flash]) (by decide) hl | dsimp only | with_reducible apply Keeps.flash)

theorem Block.onFuses_keeps {ps : List Part} {a0 : Block} {b : Block} {f : Fuses → Fuses}
    (h_ : Keeps ps a0 b) (hl : partsIn [.fuses] ps = true) :
    Keeps ps a0 (Block.onFuses b f) := by
  unfold Block.onFuses
  try dsimp only
  repeat' (first
    | with_reducible exact h_ | exact partsIn_trans (m := [.fuses]) (by decide) hl | dsimp only | with_reducible apply Keeps.fuses)

theorem Block.onSets_keeps {ps : List Part} {a0 : Block} {b : Block} {f : Sets → Sets}
    (h_ : Keeps ps a0 b) (hl : partsIn [.sets] ps = true) :
    Keeps ps a0 (Block.onSets b f) := by
  unfold Block.onSets
  try dsimp only
  repeat' (first
    | with_reducible exact h_ | exact partsIn_trans (m := [.sets]) (by decide) hl | dsimp only | with_reducible apply Keeps.sets)

theorem Block.onTime_keeps {ps : List Part} {a0 : Block} {b : Block} {f : Time → Time}
    (h_ : Keeps ps a0 b) (hl : partsIn [.now, .time] ps = true) :
    Keeps ps a0 (Block.onTime b f) := by
  unfold Block.onTime
  try dsimp only
  repeat' (first
    | with_reducible exact h_ | with_reducible apply Block.onTime_keeps | exact partsIn_trans (m := [.now, .time]) (by decide) hl
    | dsimp only | with_reducible apply Keeps.time)

theorem Block.onAdc_keeps {ps : List Part} {a0 : Block} {b : Block} {f : Adc → Adc}
    (h_ : Keeps ps a0 b) (hl : partsIn [.adc] ps = true) :
    Keeps ps a0 (Block.onAdc b f) := by
  unfold Block.onAdc
  try dsimp only
  repeat' (first
    | with_reducible exact h_ | exact partsIn_trans (m := [.adc]) (by decide) hl | dsimp only | with_reducible apply Keeps.adc)

theorem Block.onIu_keeps {ps : List Part} {a0 : Block} {b : Block} {f : Interval → Interval}
    (h_ : Keeps ps a0 b) (hl : partsIn [.iu] ps = true) :
    Keeps ps a0 (Block.onIu b f) := by
  unfold Block.onIu
  try dsimp only
  repeat' (first
    | with_reducible exact h_ | exact partsIn_trans (m := [.iu]) (by decide) hl | dsimp only | with_reducible apply Keeps.iu)

theorem Block.onAcc_keeps {ps : List Part} {a0 : Block} {b : Block} {f : Accepts → Accepts}
    (h_ : Keeps ps a0 b) (hl : partsIn [.acc] ps = true) :
    Keeps ps a0 (Block.onAcc b f) := by
  unfold Block.onAcc
  try dsimp only
  repeat' (first
    | with_reducible exact h_ | exact partsIn_trans (m := [.acc]) (by decide) hl | dsimp only | with_reducible apply Keeps.acc)

theorem Block.onStk_keeps {ps : List Part} {a0 : Block} {b : Block} {f : Stacks → Stacks}
    (h_ : Keeps ps a0 b) (hl : partsIn [.stk] ps = true) :
    Keeps ps a0 (Block.onStk b f) := by
  unfold Block.onStk
  try dsimp only
  repeat' (first
    | with_reducible exact h_ | exact partsIn_trans (m := [.stk]) (by decide) hl | dsimp only | with_reducible apply Keeps.stk)

theorem Block.onMrg_keeps {ps : List Part} {a0 : Block} {b : Block} {f : Merge → Merge}
    (h_ : Keeps ps a0 b) (hl : partsIn [.mrg] ps = true) :
    Keeps ps a0 (Block.onMrg b f) := by
  unfold Block.onMrg
  try dsimp only
  repeat' (first
    | with_reducible exact h_ | exact partsIn_trans (m := [.mrg]) (by decide) hl | dsimp only | with_reducible apply Keeps.mrg)

theorem Block.onFrm_keeps {ps : List Part} {a0 : Block} {b : Block} {f : Frames → Frames}
    (h_ : Keeps ps a0 b) (hl : partsIn [.frm] ps = true) :
    Keeps ps a0 (Block.onFrm b f) := by
  unfold Block.onFrm
  try dsimp only
  repeat' (first
    | with_reducible exact h_ | exact partsIn_trans (m := [.frm]) (by decide) hl | dsimp only | with_reducible apply Keeps.frm)

theorem Block.onTwin_keeps {ps : List Part} {a0 : Block} {b : Block} {f : Twin → Twin}
    (h_ : Keeps ps a0 b) (hl : partsIn [.twin] ps = true) :
    Keeps ps a0 (Block.onTwin b f) := by
  unfold Block.onTwin
  try dsimp only
  repeat' (first
    | with_reducible exact h_ | exact partsIn_trans (m := [.twin]) (by decide) hl | dsimp only | with_reducible apply Keeps.twin)

theorem Block.onFlt_keeps {ps : List Part} {a0 : Block} {b : Block} {f : Faults → Faults}
    (h_ : Keeps ps a0 b) (hl : partsIn [.flt] ps = true) :
    Keeps ps a0 (Block.onFlt b f) := by
  unfold Block.onFlt
  try dsimp only
  repeat' (first
    | with_reducible exact h_ | exact partsIn_trans (m := [.flt]) (by decide) hl | dsimp only | with_reducible apply Keeps.flt)

theorem Block.onDict_keeps {ps : List Part} {a0 : Block} {b : Block} {f : Dict → Dict}
    (h_ : Keeps ps a0 b) (hl : partsIn [.regs, .dict] ps = true) :
    Keeps ps a0 (Block.onDict b f) := by
  unfold Block.onDict
  try dsimp only
  repeat' (first
    | with_reducible exact h_ | with_reducible apply Block.onDict_keeps | exact partsIn_trans (m := [.regs, .dict]) (by decide) hl
    | dsimp only | with_reducible apply Keeps.dict)

theorem Block.onEv_keeps {ps : List Part} {a0 : Block} {b : Block} {f : Events → Events}
    (h_ : Keeps ps a0 b) (hl : partsIn [.ev] ps = true) :
    Keeps ps a0 (Block.onEv b f) := by
  unfold Block.onEv
  try dsimp only
  repeat' (first
    | with_reducible exact h_ | exact partsIn_trans (m := [.ev]) (by decide) hl | dsimp only | with_reducible apply Keeps.ev)

theorem Block.onSec_keeps {ps : List Part} {a0 : Block} {b : Block} {f : Security → Security}
    (h_ : Keeps ps a0 b) (hl : partsIn [.sec] ps = true) :
    Keeps ps a0 (Block.onSec b f) := by
  unfold Block.onSec
  try dsimp only
  repeat' (first
    | with_reducible exact h_ | exact partsIn_trans (m := [.sec]) (by decide) hl | dsimp only | with_reducible apply Keeps.sec)

theorem Block.onEnv_keeps {ps : List Part} {a0 : Block} {b : Block} {f : Env → Env}
    (h_ : Keeps ps a0 b) (hl : partsIn [.env] ps = true) :
    Keeps ps a0 (Block.onEnv b f) := by
  unfold Block.onEnv
  try dsimp only
  repeat' (first
    | with_reducible exact h_ | exact partsIn_trans (m := [.env]) (by decide) hl | dsimp only | with_reducible apply Keeps.env)

theorem Block.onJtag_keeps {ps : List Part} {a0 : Block} {b : Block} {f : Jtag → Jtag}
    (h_ : Keeps ps a0 b) (hl : partsIn [.jtag] ps = true) :
    Keeps ps a0 (Block.onJtag b f) := by
  unfold Block.onJtag
  try dsimp only
  repeat' (first
    | with_reducible exact h_ | exact partsIn_trans (m := [.jtag]) (by decide) hl | dsimp only | with_reducible apply Keeps.jtag)

theorem Block.onChan_keeps {ps : List Part} {a0 : Block} {b : Block} {c : Nat} {f : Chan → Chan}
    (h_ : Keeps ps a0 b) (hl : partsIn [.chans] ps = true) :
    Keeps ps a0 (Block.onChan b c f) := by
  unfold Block.onChan
  try dsimp only
  repeat' (first
    | with_reducible exact h_ | exact partsIn_trans (m := [.chans]) (by decide) hl | dsimp only | with_reducible apply Keeps.chans)

theorem Block.onLane_keeps {ps : List Part} {a0 : Block} {b : Block} {l : Nat} {f : LaneSt → LaneSt}
    (h_ : Keeps ps a0 b) (hl : partsIn [.frm] ps = true) :
    Keeps ps a0 (Block.onLane b l f) := by
  unfold Block.onLane
  try dsimp only
  repeat' (first
    | intro _ | with_reducible exact h_ | with_reducible apply Block.onFrm_keeps
    | exact partsIn_trans (m := [.frm]) (by decide) hl | dsimp only)

theorem Block.onPort_keeps {ps : List Part} {a0 : Block} {b : Block} {p : Nat} {f : PortSt → PortSt}
    (h_ : Keeps ps a0 b) (hl : partsIn [.mrg] ps = true) :
    Keeps ps a0 (Block.onPort b p f) := by
  unfold Block.onPort
  try dsimp only
  repeat' (first
    | intro _ | with_reducible exact h_ | with_reducible apply Block.onMrg_keeps
    | exact partsIn_trans (m := [.mrg]) (by decide) hl | dsimp only)

theorem Block.onUplink_keeps {ps : List Part} {a0 : Block} {b : Block} {u : Nat} {f : UplinkSt → UplinkSt}
    (h_ : Keeps ps a0 b) (hl : partsIn [.mrg] ps = true) :
    Keeps ps a0 (Block.onUplink b u f) := by
  unfold Block.onUplink
  try dsimp only
  repeat' (first
    | intro _ | with_reducible exact h_ | with_reducible apply Block.onMrg_keeps
    | exact partsIn_trans (m := [.mrg]) (by decide) hl | dsimp only)

theorem Block.freeNext_keeps {ps : List Part} {a0 : Block} {b : Block}
    (h_ : Keeps ps a0 b) (hl : partsIn [.free] ps = true) :
    Keeps ps a0 (Block.freeNext b) := by
  unfold Block.freeNext
  try dsimp only
  repeat' (first
    | with_reducible exact h_ | exact partsIn_trans (m := [.free]) (by decide) hl | dsimp only | with_reducible apply Keeps.free)

theorem Block.setReg_keeps {ps : List Part} {a0 : Block} {b : Block} {key v : Nat}
    (h_ : Keeps ps a0 b) (hl : partsIn [.regs] ps = true) :
    Keeps ps a0 (Block.setReg b key v) := by
  unfold Block.setReg
  try dsimp only
  repeat' (first
    | intro _ | with_reducible exact h_ | with_reducible apply Keeps.onDictRest (by intro _; first | rfl | (split <;> rfl))
    | with_reducible apply Keeps.onDictRegs (by intro _; first | rfl | (split <;> rfl))
    | exact partsIn_trans (m := [.regs]) (by decide) hl | dsimp only)

theorem Block.bump_keeps {ps : List Part} {a0 : Block} {b : Block} {key n : Nat}
    (h_ : Keeps ps a0 b) (hl : partsIn [.regs] ps = true) :
    Keeps ps a0 (Block.bump b key n) := by
  unfold Block.bump
  try dsimp only
  repeat' (first
    | with_reducible exact h_ | with_reducible apply Keeps.ite | with_reducible apply Block.setReg_keeps
    | exact partsIn_trans (m := [.regs]) (by decide) hl | dsimp only)

theorem Block.bumpSat_keeps {ps : List Part} {a0 : Block} {b : Block} {key bitsN n : Nat}
    (h_ : Keeps ps a0 b) (hl : partsIn [.regs] ps = true) :
    Keeps ps a0 (Block.bumpSat b key bitsN n) := by
  unfold Block.bumpSat
  try dsimp only
  repeat' (first
    | with_reducible exact h_ | with_reducible apply Block.setReg_keeps | exact partsIn_trans (m := [.regs]) (by decide) hl
    | dsimp only)

theorem Block.peak_keeps {ps : List Part} {a0 : Block} {b : Block} {key v : Nat}
    (h_ : Keeps ps a0 b) (hl : partsIn [.regs] ps = true) :
    Keeps ps a0 (Block.peak b key v) := by
  unfold Block.peak
  try dsimp only
  repeat' (first
    | with_reducible exact h_ | with_reducible apply Keeps.ite | with_reducible apply Block.setReg_keeps
    | exact partsIn_trans (m := [.regs]) (by decide) hl | dsimp only)

theorem Block.sendOn_keeps {ps : List Part} {a0 : Block} {b : Block} {path port : Nat} {m : Word64}
    (h_ : Keeps ps a0 b) (hl : partsIn [.ev] ps = true) :
    Keeps ps a0 (Block.sendOn b path port m).1 := by
  unfold Block.sendOn
  try dsimp only
  repeat' (first
    | intro _ | with_reducible exact h_ | with_reducible apply Keeps.ite | with_reducible apply Keeps.iteFst
    | with_reducible apply Keeps.iteSnd | with_reducible apply Block.onEv_keeps | exact partsIn_trans (m := [.ev]) (by decide) hl
    | dsimp only)

theorem Block.record_keeps {ps : List Part} {a0 : Block} {b : Block} {m : Word64}
    (h_ : Keeps ps a0 b) (hl : partsIn [.ev] ps = true) :
    Keeps ps a0 (Block.record b m) := by
  unfold Block.record
  try dsimp only
  repeat' (first
    | intro _ | with_reducible exact h_ | with_reducible apply Keeps.ite | with_reducible apply Block.onEv_keeps
    | exact partsIn_trans (m := [.ev]) (by decide) hl | dsimp only)

theorem Block.mark_keeps {ps : List Part} {a0 : Block} {b : Block} {n det : Nat}
    (h_ : Keeps ps a0 b) (hl : partsIn [.regs] ps = true) :
    Keeps ps a0 (Block.mark b n det) := by
  unfold Block.mark
  try dsimp only
  repeat' (first
    | with_reducible exact h_ | with_reducible apply Block.setReg_keeps | with_reducible apply Block.bumpSat_keeps
    | exact partsIn_trans (m := [.regs]) (by decide) hl | dsimp only)

theorem Block.send_keeps {ps : List Part} {a0 : Block} {b : Block} {paths : List Nat} {port : Nat} {m : Word64}
    (h_ : Keeps ps a0 b) (hl : partsIn [.regs, .ev] ps = true) :
    Keeps ps a0 (Block.send b paths port m).1 := by
  unfold Block.send
  try dsimp only
  repeat' (first
    | intro _ | with_reducible exact h_ | with_reducible apply Keeps.ite | with_reducible apply Keeps.foldl
    | with_reducible apply Keeps.foldlFst | with_reducible apply Keeps.foldlSnd | with_reducible apply Keeps.iteFst
    | with_reducible apply Keeps.iteSnd | with_reducible apply Block.bump_keeps | with_reducible apply Block.sendOn_keeps
    | with_reducible assumption | exact partsIn_trans (m := [.regs, .ev]) (by decide) hl | dsimp only)

theorem Block.overflowed_keeps {ps : List Part} {a0 : Block} {b : Block} {paths : List Nat} {n : Nat}
    (h_ : Keeps ps a0 b) (hl : partsIn [.regs, .ev] ps = true) :
    Keeps ps a0 (Block.overflowed b paths n) := by
  unfold Block.overflowed
  try dsimp only
  repeat' (first
    | intro _ | with_reducible exact h_ | with_reducible apply Keeps.ite | with_reducible apply Keeps.foldl
    | with_reducible apply Keeps.foldlFst | with_reducible apply Keeps.foldlSnd | with_reducible apply Keeps.iteFst
    | with_reducible apply Keeps.iteSnd | with_reducible apply Block.record_keeps | with_reducible apply Block.mark_keeps
    | with_reducible apply Block.send_keeps | with_reducible assumption | exact partsIn_trans (m := [.regs, .ev]) (by decide) hl
    | dsimp only)

theorem Block.raise_keeps {ps : List Part} {a0 : Block} {b : Block} {n : Nat} {l : List Fld}
    (h_ : Keeps ps a0 b) (hl : partsIn [.regs, .ev] ps = true) :
    Keeps ps a0 (Block.raise b n l) := by
  unfold Block.raise
  try dsimp only
  repeat' (first
    | with_reducible exact h_ | with_reducible apply Keeps.ite | with_reducible apply Keeps.iteFst
    | with_reducible apply Keeps.iteSnd | with_reducible apply Block.record_keeps | with_reducible apply Block.mark_keeps
    | with_reducible apply Block.send_keeps | with_reducible apply Block.overflowed_keeps
    | exact partsIn_trans (m := [.regs, .ev]) (by decide) hl | dsimp only)

theorem Block.raiseOnce_keeps {ps : List Part} {a0 : Block} {b : Block} {n k : Nat} {l : List Fld}
    (h_ : Keeps ps a0 b) (hl : partsIn [.regs, .ev] ps = true) :
    Keeps ps a0 (Block.raiseOnce b n k l) := by
  unfold Block.raiseOnce
  try dsimp only
  repeat' (first
    | intro _ | with_reducible exact h_ | with_reducible apply Keeps.ite | with_reducible apply Block.onEv_keeps
    | with_reducible apply Block.mark_keeps | with_reducible apply Block.raise_keeps
    | exact partsIn_trans (m := [.regs, .ev]) (by decide) hl | dsimp only)

theorem Block.judgeAlert_keeps {ps : List Part} {a0 : Block} {b : Block}
    (h_ : Keeps ps a0 b) (hl : partsIn [.ev] ps = true) :
    Keeps ps a0 (Block.judgeAlert b) := by
  unfold Block.judgeAlert
  try dsimp only
  repeat' (first
    | intro _ | with_reducible exact h_ | with_reducible apply Block.onEv_keeps | exact partsIn_trans (m := [.ev]) (by decide) hl
    | dsimp only)

theorem Block.todAdvance_keeps {ps : List Part} {a0 : Block} {b : Block}
    (h_ : Keeps ps a0 b) (hl : partsIn [.time] ps = true) :
    Keeps ps a0 (Block.todAdvance b) := by
  unfold Block.todAdvance
  try dsimp only
  repeat' (first
    | intro _ | with_reducible exact h_ | with_reducible apply Keeps.onTimeRest (by intro _; first | rfl | (split <;> rfl))
    | exact partsIn_trans (m := [.time]) (by decide) hl | dsimp only | with_reducible apply Keeps.time)

theorem Block.servo_keeps {ps : List Part} {a0 : Block} {b : Block} {a : Tod} {n : Nat}
    (h_ : Keeps ps a0 b) (hl : partsIn [.time, .regs, .ev] ps = true) :
    Keeps ps a0 (Block.servo b a n) := by
  unfold Block.servo
  try dsimp only
  repeat' (first
    | intro _ | with_reducible exact h_ | with_reducible apply Keeps.ite
    | with_reducible apply Keeps.onTimeRest (by intro _; first | rfl | (split <;> rfl)) | with_reducible apply Block.setReg_keeps
    | with_reducible apply Block.raise_keeps | exact partsIn_trans (m := [.time, .regs, .ev]) (by decide) hl | dsimp only
    | with_reducible apply Keeps.time)

theorem Block.todIncrement_keeps {ps : List Part} {a0 : Block} {b : Block} {a : Tod} {lastLen : Nat}
    (h_ : Keeps ps a0 b) (hl : partsIn [.time] ps = true) :
    Keeps ps a0 (Block.todIncrement b a lastLen) := by
  unfold Block.todIncrement
  try dsimp only
  repeat' (first
    | intro _ | with_reducible exact h_ | with_reducible apply Keeps.ite
    | with_reducible apply Keeps.onTimeRest (by intro _; first | rfl | (split <;> rfl))
    | exact partsIn_trans (m := [.time]) (by decide) hl | split | dsimp only | with_reducible apply Keeps.time)

theorem Block.todSlot0_keeps {ps : List Part} {a0 : Block} {b : Block} {a : Option Tod} {lastLen : Nat}
    (h_ : Keeps ps a0 b) (hl : partsIn [.time, .regs, .ev] ps = true) :
    Keeps ps a0 (Block.todSlot0 b a lastLen) := by
  unfold Block.todSlot0
  try dsimp only
  repeat' (first
    | intro _ | with_reducible exact h_ | with_reducible apply Keeps.ite
    | with_reducible apply Keeps.onTimeRest (by intro _; first | rfl | (split <;> rfl)) | with_reducible apply Block.servo_keeps
    | with_reducible apply Block.todIncrement_keeps | exact partsIn_trans (m := [.time, .regs, .ev]) (by decide) hl | split
    | dsimp only | with_reducible apply Keeps.time)

theorem Block.onDom_keeps {ps : List Part} {a0 : Block} {b : Block} {d : Nat} {f : Tracker → Tracker}
    (h_ : Keeps ps a0 b) (hl : partsIn [.time] ps = true) :
    Keeps ps a0 (Block.onDom b d f) := by
  unfold Block.onDom
  try dsimp only
  repeat' (first
    | intro _ | with_reducible exact h_ | with_reducible apply Keeps.ite
    | with_reducible apply Keeps.onTimeRest (by intro _; first | rfl | (split <;> rfl))
    | exact partsIn_trans (m := [.time]) (by decide) hl | dsimp only | with_reducible apply Keeps.time)

theorem Block.mismatch_keeps {ps : List Part} {a0 : Block} {b : Block} {d slot : Nat}
    (h_ : Keeps ps a0 b) (hl : partsIn [.regs, .ev] ps = true) :
    Keeps ps a0 (Block.mismatch b d slot) := by
  unfold Block.mismatch
  try dsimp only
  repeat' (first
    | with_reducible exact h_ | with_reducible apply Block.bump_keeps | with_reducible apply Block.raise_keeps
    | exact partsIn_trans (m := [.regs, .ev]) (by decide) hl | dsimp only)

theorem Block.planSwitch_keeps {ps : List Part} {a0 : Block} {b : Block} {target at_ : Nat}
    (h_ : Keeps ps a0 b) (hl : partsIn [.time] ps = true) :
    Keeps ps a0 (Block.planSwitch b target at_) := by
  unfold Block.planSwitch
  try dsimp only
  repeat' (first
    | intro _ | with_reducible exact h_ | with_reducible apply Keeps.onTimeRest (by intro _; first | rfl | (split <;> rfl))
    | exact partsIn_trans (m := [.time]) (by decide) hl | dsimp only | with_reducible apply Keeps.time)

theorem Block.switchAtOrbit_keeps {ps : List Part} {a0 : Block} {b : Block} {target n : Nat}
    (h_ : Keeps ps a0 b) (hl : partsIn [.time] ps = true) :
    Keeps ps a0 (Block.switchAtOrbit b target n) := by
  unfold Block.switchAtOrbit
  try dsimp only
  repeat' (first
    | intro _ | with_reducible exact h_ | with_reducible apply Keeps.onTimeRest (by intro _; first | rfl | (split <;> rfl))
    | exact partsIn_trans (m := [.time]) (by decide) hl | dsimp only | with_reducible apply Keeps.time)

theorem Block.enterHoldover_keeps {ps : List Part} {a0 : Block} {b : Block}
    (h_ : Keeps ps a0 b) (hl : partsIn [.time, .regs, .ev] ps = true) :
    Keeps ps a0 (Block.enterHoldover b) := by
  unfold Block.enterHoldover
  try dsimp only
  repeat' (first
    | intro _ | with_reducible exact h_ | with_reducible apply Keeps.onTimeRest (by intro _; first | rfl | (split <;> rfl))
    | with_reducible apply Block.raise_keeps | exact partsIn_trans (m := [.time, .regs, .ev]) (by decide) hl | dsimp only
    | with_reducible apply Keeps.time)

theorem Block.slewBy_keeps {ps : List Part} {a0 : Block} {b : Block} {r : Int}
    (h_ : Keeps ps a0 b) (hl : partsIn [.time] ps = true) :
    Keeps ps a0 (Block.slewBy b r) := by
  unfold Block.slewBy
  try dsimp only
  repeat' (first
    | intro _ | with_reducible exact h_ | with_reducible apply Keeps.ite
    | with_reducible apply Keeps.onTimeRest (by intro _; first | rfl | (split <;> rfl))
    | exact partsIn_trans (m := [.time]) (by decide) hl | dsimp only | with_reducible apply Keeps.time)

theorem Block.takeDomain_keeps {ps : List Part} {a0 : Block} {b : Block} {d : Fin 2}
    (h_ : Keeps ps a0 b) (hl : partsIn [.time, .regs, .ev] ps = true) :
    Keeps ps a0 (Block.takeDomain b d) := by
  unfold Block.takeDomain
  try dsimp only
  repeat' (first
    | intro _ | with_reducible exact h_ | with_reducible apply Keeps.onTimeRest (by intro _; first | rfl | (split <;> rfl))
    | with_reducible apply Block.raise_keeps | with_reducible apply Block.slewBy_keeps
    | exact partsIn_trans (m := [.time, .regs, .ev]) (by decide) hl | dsimp only | with_reducible apply Keeps.time)

theorem Block.slewOnce_keeps {ps : List Part} {a0 : Block} {b : Block}
    (h_ : Keeps ps a0 b) (hl : partsIn [.time] ps = true) :
    Keeps ps a0 (Block.slewOnce b) := by
  unfold Block.slewOnce
  try dsimp only
  repeat' (first
    | intro _ | with_reducible exact h_ | with_reducible apply Keeps.ite
    | with_reducible apply Keeps.onTimeRest (by intro _; first | rfl | (split <;> rfl))
    | exact partsIn_trans (m := [.time]) (by decide) hl | dsimp only | with_reducible apply Keeps.time)

theorem Block.requestSwitch_keeps {ps : List Part} {a0 : Block} {b : Block} {d : Nat}
    (h_ : Keeps ps a0 b) (hl : partsIn [.time, .regs, .ev] ps = true) :
    Keeps ps a0 (Block.requestSwitch b d) := by
  unfold Block.requestSwitch
  try dsimp only
  repeat' (first
    | with_reducible exact h_ | with_reducible apply Keeps.ite | with_reducible apply Block.raise_keeps
    | with_reducible apply Block.switchAtOrbit_keeps | exact partsIn_trans (m := [.time, .regs, .ev]) (by decide) hl | dsimp only)

theorem Block.takeQualified_keeps {ps : List Part} {a0 : Block} {b : Block} {d : Fin 2}
    (h_ : Keeps ps a0 b) (hl : partsIn [.time] ps = true) :
    Keeps ps a0 (Block.takeQualified b d) := by
  unfold Block.takeQualified
  try dsimp only
  repeat' (first
    | intro _ | with_reducible exact h_ | with_reducible apply Keeps.ite | with_reducible apply Keeps.when
    | with_reducible apply Block.planSwitch_keeps | with_reducible assumption | exact partsIn_trans (m := [.time]) (by decide) hl
    | split | dsimp only)

theorem Block.afterQualify_keeps {ps : List Part} {a0 : Block} {b : Block} {d : Fin 2}
    (h_ : Keeps ps a0 b) (hl : partsIn [.time, .regs, .ev] ps = true) :
    Keeps ps a0 (Block.afterQualify b d) := by
  unfold Block.afterQualify
  try dsimp only
  repeat' (first
    | intro _ | with_reducible exact h_ | with_reducible apply Keeps.ite
    | with_reducible apply Keeps.onTimeRest (by intro _; first | rfl | (split <;> rfl)) | with_reducible apply Block.raise_keeps
    | with_reducible apply Block.takeQualified_keeps | exact partsIn_trans (m := [.time, .regs, .ev]) (by decide) hl | split
    | dsimp only | with_reducible apply Keeps.time)

theorem Block.leaveDomain_keeps {ps : List Part} {a0 : Block} {b : Block} {d at_ : Nat}
    (h_ : Keeps ps a0 b) (hl : partsIn [.time] ps = true) :
    Keeps ps a0 (Block.leaveDomain b d at_) := by
  unfold Block.leaveDomain
  try dsimp only
  repeat' (first
    | with_reducible exact h_ | with_reducible apply Keeps.ite | with_reducible apply Block.planSwitch_keeps
    | exact partsIn_trans (m := [.time]) (by decide) hl | split | dsimp only)

theorem Block.domLost_keeps {ps : List Part} {a0 : Block} {b : Block} {d : Nat}
    (h_ : Keeps ps a0 b) (hl : partsIn [.time, .regs, .ev] ps = true) :
    Keeps ps a0 (Block.domLost b d) := by
  unfold Block.domLost
  try dsimp only
  repeat' (first
    | intro _ | with_reducible exact h_ | with_reducible apply Keeps.ite | with_reducible apply Keeps.when
    | with_reducible apply Block.raise_keeps | with_reducible apply Block.onDom_keeps
    | with_reducible apply Block.enterHoldover_keeps | with_reducible apply Block.leaveDomain_keeps | with_reducible assumption
    | exact partsIn_trans (m := [.time, .regs, .ev]) (by decide) hl | dsimp only)

theorem Block.compareWord_keeps {ps : List Part} {a0 : Block} {b : Block} {d slot : Nat} {w : Ref48}
    (h_ : Keeps ps a0 b) (hl : partsIn [.regs, .ev] ps = true) :
    Keeps ps a0 (Block.compareWord b d slot w) := by
  unfold Block.compareWord
  try dsimp only
  repeat' (first
    | intro _ | with_reducible exact h_ | with_reducible apply Keeps.ite | with_reducible apply Keeps.when
    | with_reducible apply Block.mismatch_keeps | with_reducible assumption
    | exact partsIn_trans (m := [.regs, .ev]) (by decide) hl | split | dsimp only)

theorem Block.acquireWords_keeps {ps : List Part} {a0 : Block} {b : Block} {d : Fin 2} {orbit len : Nat}
    (h_ : Keeps ps a0 b) (hl : partsIn [.time] ps = true) :
    Keeps ps a0 (Block.acquireWords b d orbit len) := by
  unfold Block.acquireWords
  try dsimp only
  repeat' (first
    | intro _ | with_reducible exact h_ | with_reducible apply Keeps.ite
    | with_reducible apply Keeps.onTimeRest (by intro _; first | rfl | (split <;> rfl)) | with_reducible apply Block.onDom_keeps
    | exact partsIn_trans (m := [.time]) (by decide) hl | dsimp only | with_reducible apply Keeps.time)

theorem Block.judgeWords_keeps {ps : List Part} {a0 : Block} {b : Block} {d : Fin 2}
    (h_ : Keeps ps a0 b) (hl : partsIn [.time, .regs, .ev] ps = true) :
    Keeps ps a0 (Block.judgeWords b d) := by
  unfold Block.judgeWords
  try dsimp only
  repeat' (first
    | intro _ | with_reducible exact h_ | with_reducible apply Keeps.ite | with_reducible apply Block.onDom_keeps
    | with_reducible apply Block.afterQualify_keeps | with_reducible apply Block.acquireWords_keeps
    | exact partsIn_trans (m := [.time, .regs, .ev]) (by decide) hl | split | dsimp only)

theorem Block.ttUsed_keeps {ps : List Part} {a0 : Block} {b : Block} {e : Nat}
    (h_ : Keeps ps a0 b) (hl : partsIn [.time] ps = true) :
    Keeps ps a0 (Block.ttUsed b e) := by
  unfold Block.ttUsed
  try dsimp only
  repeat' (first
    | intro _ | with_reducible exact h_ | with_reducible apply Keeps.ite
    | with_reducible apply Keeps.onTimeRest (by intro _; first | rfl | (split <;> rfl))
    | exact partsIn_trans (m := [.time]) (by decide) hl | dsimp only | with_reducible apply Keeps.time)

theorem Block.ttConflicts_keeps {ps : List Part} {a0 : Block} {b : Block}
    (h_ : Keeps ps a0 b) (hl : partsIn [.time, .regs, .ev] ps = true) :
    Keeps ps a0 (Block.ttConflicts b) := by
  unfold Block.ttConflicts
  try dsimp only
  repeat' (first
    | intro _ | with_reducible exact h_ | with_reducible apply Keeps.ite | with_reducible apply Keeps.forEach
    | with_reducible apply Block.bump_keeps | with_reducible apply Block.raise_keeps | with_reducible apply Block.ttUsed_keeps
    | with_reducible assumption | exact partsIn_trans (m := [.time, .regs, .ev]) (by decide) hl | split | dsimp only)

theorem Block.ttBeforeRelease_keeps {ps : List Part} {a0 : Block} {b : Block}
    (h_ : Keeps ps a0 b) (hl : partsIn [.time] ps = true) :
    Keeps ps a0 (Block.ttBeforeRelease b) := by
  unfold Block.ttBeforeRelease
  try dsimp only
  repeat' (first
    | intro _ | with_reducible exact h_ | with_reducible apply Keeps.ite
    | with_reducible apply Keeps.onTimeRest (by intro _; first | rfl | (split <;> rfl))
    | exact partsIn_trans (m := [.time]) (by decide) hl | dsimp only | with_reducible apply Keeps.time)

theorem Block.ttActivate_keeps {ps : List Part} {a0 : Block} {b : Block}
    (h_ : Keeps ps a0 b) (hl : partsIn [.time, .regs, .ev] ps = true) :
    Keeps ps a0 (Block.ttActivate b) := by
  unfold Block.ttActivate
  try dsimp only
  repeat' (first
    | intro _ | with_reducible exact h_ | with_reducible apply Keeps.ite | with_reducible apply Keeps.forEach
    | with_reducible apply Keeps.onTimeRest (by intro _; first | rfl | (split <;> rfl)) | with_reducible apply Block.bump_keeps
    | with_reducible apply Block.raise_keeps | with_reducible assumption
    | exact partsIn_trans (m := [.time, .regs, .ev]) (by decide) hl | dsimp only | with_reducible apply Keeps.time)

theorem Block.onQueue_keeps {ps : List Part} {a0 : Block} {b : Block} {q : Nat} {f : Queue → Queue}
    (h_ : Keeps ps a0 b) (hl : partsIn [.queues] ps = true) :
    Keeps ps a0 (Block.onQueue b q f) := by
  unfold Block.onQueue
  try dsimp only
  repeat' (first
    | with_reducible exact h_ | exact partsIn_trans (m := [.queues]) (by decide) hl | dsimp only
    | with_reducible apply Keeps.queues)

theorem Block.countWithdrawal_keeps {ps : List Part} {a0 : Block} {b : Block} {x : Nat} {w : Word64}
    (h_ : Keeps ps a0 b) (hl : partsIn [.regs, .ev] ps = true) :
    Keeps ps a0 (Block.countWithdrawal b x w) := by
  unfold Block.countWithdrawal
  try dsimp only
  repeat' (first
    | with_reducible exact h_ | with_reducible apply Block.bump_keeps | with_reducible apply Block.raiseOnce_keeps
    | exact partsIn_trans (m := [.regs, .ev]) (by decide) hl | dsimp only)

theorem Block.account_keeps {ps : List Part} {a0 : Block} {b : Block} {u : Nat} {r : QRec}
    (h_ : Keeps ps a0 b) (hl : partsIn [.mrg] ps = true) :
    Keeps ps a0 (Block.account b u r) := by
  unfold Block.account
  try dsimp only
  repeat' (first
    | intro _ | with_reducible exact h_ | with_reducible apply Keeps.ite | with_reducible apply Block.onUplink_keeps
    | exact partsIn_trans (m := [.mrg]) (by decide) hl | dsimp only)

theorem Block.colophonPlaced_keeps {ps : List Part} {a0 : Block} {b : Block} {u : Nat} {r : QRec}
    (h_ : Keeps ps a0 b) (hl : partsIn [.regs, .ev] ps = true) :
    Keeps ps a0 (Block.colophonPlaced b u r) := by
  unfold Block.colophonPlaced
  try dsimp only
  repeat' (first
    | with_reducible exact h_ | with_reducible apply Block.setReg_keeps | with_reducible apply Block.raise_keeps
    | exact partsIn_trans (m := [.regs, .ev]) (by decide) hl | dsimp only)

theorem Block.numbered_keeps {ps : List Part} {a0 : Block} {b : Block} {q : Nat} {r : QRec}
    (h_ : Keeps ps a0 b) (hl : partsIn [.mrg, .regs, .ev] ps = true) :
    Keeps ps a0 (Block.numbered b q r) := by
  unfold Block.numbered
  try dsimp only
  repeat' (first
    | with_reducible exact h_ | with_reducible apply Keeps.ite | with_reducible apply Block.account_keeps
    | with_reducible apply Block.colophonPlaced_keeps | exact partsIn_trans (m := [.mrg, .regs, .ev]) (by decide) hl | dsimp only)

theorem Block.queueNotice_keeps {ps : List Part} {a0 : Block} {b : Block} {q : Nat}
    (h_ : Keeps ps a0 b) (hl : partsIn [.queues, .regs, .ev] ps = true) :
    Keeps ps a0 (Block.queueNotice b q) := by
  unfold Block.queueNotice
  try dsimp only
  repeat' (first
    | intro _ | with_reducible exact h_ | with_reducible apply Keeps.ite | with_reducible apply Block.peak_keeps
    | with_reducible apply Block.raise_keeps | with_reducible apply Block.onQueue_keeps
    | exact partsIn_trans (m := [.queues, .regs, .ev]) (by decide) hl | dsimp only)

theorem Block.qPlace_keeps {ps : List Part} {a0 : Block} {b : Block} {q : Nat} {r : QRec}
    (h_ : Keeps ps a0 b) (hl : partsIn [.queues, .mrg, .regs, .ev] ps = true) :
    Keeps ps a0 (Block.qPlace b q r) := by
  unfold Block.qPlace
  try dsimp only
  repeat' (first
    | intro _ | with_reducible exact h_ | with_reducible apply Keeps.ite | with_reducible apply Block.bump_keeps
    | with_reducible apply Block.onQueue_keeps | with_reducible apply Block.numbered_keeps
    | with_reducible apply Block.queueNotice_keeps | exact partsIn_trans (m := [.queues, .mrg, .regs, .ev]) (by decide) hl
    | dsimp only)

theorem Block.qClose_keeps {ps : List Part} {a0 : Block} {b : Block} {q : Nat}
    (h_ : Keeps ps a0 b) (hl : partsIn [.queues, .regs] ps = true) :
    Keeps ps a0 (Block.qClose b q) := by
  unfold Block.qClose
  try dsimp only
  repeat' (first
    | intro _ | with_reducible exact h_ | with_reducible apply Keeps.ite | with_reducible apply Block.bump_keeps
    | with_reducible apply Block.onQueue_keeps | exact partsIn_trans (m := [.queues, .regs]) (by decide) hl | dsimp only)

theorem Block.qGroup_keeps {ps : List Part} {a0 : Block} {b : Block} {q : Nat} {l : List QRec}
    (h_ : Keeps ps a0 b) (hl : partsIn [.queues, .mrg, .regs, .ev] ps = true) :
    Keeps ps a0 (Block.qGroup b q l) := by
  unfold Block.qGroup
  try dsimp only
  repeat' (first
    | intro _ | with_reducible exact h_ | with_reducible apply Keeps.forEach | with_reducible apply Block.bump_keeps
    | with_reducible apply Block.onQueue_keeps | with_reducible apply Block.numbered_keeps
    | with_reducible apply Block.queueNotice_keeps | with_reducible apply Block.qClose_keeps | with_reducible assumption
    | exact partsIn_trans (m := [.queues, .mrg, .regs, .ev]) (by decide) hl | dsimp only)

theorem Block.qJoin_keeps {ps : List Part} {a0 : Block} {b : Block} {q : Nat} {r : QRec}
    (h_ : Keeps ps a0 b) (hl : partsIn [.queues, .mrg] ps = true) :
    Keeps ps a0 (Block.qJoin b q r) := by
  unfold Block.qJoin
  try dsimp only
  repeat' (first
    | intro _ | with_reducible exact h_ | with_reducible apply Keeps.ite | with_reducible apply Block.onUplink_keeps
    | with_reducible apply Block.onQueue_keeps | exact partsIn_trans (m := [.queues, .mrg]) (by decide) hl | dsimp only)

theorem Block.qWithdraw_keeps {ps : List Part} {a0 : Block} {b : Block} {q : Nat} {r : QRec}
    (h_ : Keeps ps a0 b) (hl : partsIn [.queues, .mrg, .regs, .ev] ps = true) :
    Keeps ps a0 (Block.qWithdraw b q r) := by
  unfold Block.qWithdraw
  try dsimp only
  repeat' (first
    | with_reducible exact h_ | with_reducible apply Keeps.ite | with_reducible apply Block.countWithdrawal_keeps
    | with_reducible apply Block.qPlace_keeps | with_reducible apply Block.qJoin_keeps
    | exact partsIn_trans (m := [.queues, .mrg, .regs, .ev]) (by decide) hl | dsimp only)

theorem Block.qRefuse_keeps {ps : List Part} {a0 : Block} {b : Block} {q : Nat} {r : QRec}
    (h_ : Keeps ps a0 b) (hl : partsIn [.queues, .mrg, .regs, .ev] ps = true) :
    Keeps ps a0 (Block.qRefuse b q r) := by
  unfold Block.qRefuse
  try dsimp only
  repeat' (first
    | intro _ | with_reducible exact h_ | with_reducible apply Keeps.ite | with_reducible apply Keeps.forEach
    | with_reducible apply Block.bump_keeps | with_reducible apply Block.raiseOnce_keeps
    | with_reducible apply Block.onQueue_keeps | with_reducible apply Block.qWithdraw_keeps | with_reducible assumption
    | exact partsIn_trans (m := [.queues, .mrg, .regs, .ev]) (by decide) hl | dsimp only)

theorem Block.qDrain_keeps {ps : List Part} {a0 : Block} {x0 : Nat} {x1 : Block} {x2 : Nat}
    (h_ : Keeps ps a0 x1) (hl : partsIn [.queues, .mrg, .regs, .ev] ps = true) : Keeps ps a0 (Block.qDrain x0 x1 x2) := by
  induction x0 generalizing x1 with
  | zero => exact h_
  | succ n ih =>
    unfold Block.qDrain
    try dsimp only
    repeat' (first
      | with_reducible exact h_
      | with_reducible apply Keeps.ite
      | with_reducible apply ih
      | with_reducible apply Keeps.forEach
      | with_reducible apply Block.qPlace_keeps
      | with_reducible apply Block.onQueue_keeps
      | with_reducible apply Block.qWithdraw_keeps
      | with_reducible assumption
      | exact partsIn_trans (m := [.queues, .mrg, .regs, .ev]) (by decide) hl
      | intro _
      | split
      | dsimp only)

theorem Block.qWrite_keeps {ps : List Part} {a0 : Block} {b : Block} {q : Nat} {r : QRec}
    (h_ : Keeps ps a0 b) (hl : partsIn [.queues, .mrg, .regs, .ev] ps = true) :
    Keeps ps a0 (Block.qWrite b q r) := by
  unfold Block.qWrite
  try dsimp only
  repeat' (first
    | intro _ | with_reducible exact h_ | with_reducible apply Keeps.ite | with_reducible apply Block.onQueue_keeps
    | with_reducible apply Block.qPlace_keeps | with_reducible apply Block.qRefuse_keeps | with_reducible apply Block.qDrain_keeps
    | exact partsIn_trans (m := [.queues, .mrg, .regs, .ev]) (by decide) hl | dsimp only)

theorem Block.qMake_keeps {ps : List Part} {a0 : Block} {b : Block} {q x : Nat} {w : Word64}
    (h_ : Keeps ps a0 b) (hl : partsIn [.queues, .mrg, .regs, .ev] ps = true) :
    Keeps ps a0 (Block.qMake b q x w) := by
  unfold Block.qMake
  try dsimp only
  repeat' (first
    | with_reducible exact h_ | with_reducible apply Keeps.ite | with_reducible apply Block.countWithdrawal_keeps
    | with_reducible apply Block.qJoin_keeps | with_reducible apply Block.qWrite_keeps
    | exact partsIn_trans (m := [.queues, .mrg, .regs, .ev]) (by decide) hl | dsimp only)

theorem Block.qWriteAll_keeps {ps : List Part} {a0 : Block} {b : Block} {q x : Nat} {l : List Word64}
    (h_ : Keeps ps a0 b) (hl : partsIn [.queues, .mrg, .regs, .ev] ps = true) :
    Keeps ps a0 (Block.qWriteAll b q x l) := by
  unfold Block.qWriteAll
  try dsimp only
  repeat' (first
    | intro _ | with_reducible exact h_ | with_reducible apply Keeps.forEach | with_reducible apply Block.qWrite_keeps
    | with_reducible assumption | exact partsIn_trans (m := [.queues, .mrg, .regs, .ev]) (by decide) hl | dsimp only)

theorem Block.qWriteGroup_keeps {ps : List Part} {a0 : Block} {b : Block} {q : Nat} {l : List QRec}
    (h_ : Keeps ps a0 b) (hl : partsIn [.queues, .mrg, .regs, .ev] ps = true) :
    Keeps ps a0 (Block.qWriteGroup b q l) := by
  unfold Block.qWriteGroup
  try dsimp only
  repeat' (first
    | intro _ | with_reducible exact h_ | with_reducible apply Keeps.ite | with_reducible apply Keeps.forEach
    | with_reducible apply Block.qGroup_keeps | with_reducible apply Block.qRefuse_keeps | with_reducible apply Block.qDrain_keeps
    | with_reducible assumption | exact partsIn_trans (m := [.queues, .mrg, .regs, .ev]) (by decide) hl | dsimp only)

theorem Block.qRead_keeps {ps : List Part} {a0 : Block} {b : Block} {q : Nat}
    (h_ : Keeps ps a0 b) (hl : partsIn [.queues, .regs, .ev] ps = true) :
    Keeps ps a0 (Block.qRead b q).2 := by
  unfold Block.qRead
  try dsimp only
  repeat' (first
    | intro _ | with_reducible exact h_ | with_reducible apply Keeps.ite | with_reducible apply Keeps.iteFst
    | with_reducible apply Keeps.iteSnd | with_reducible apply Block.onQueue_keeps | with_reducible apply Block.queueNotice_keeps
    | exact partsIn_trans (m := [.queues, .regs, .ev]) (by decide) hl | split | dsimp only)

theorem Block.qReadAll_keeps {ps : List Part} {a0 : Block} {b : Block} {q : Nat}
    (h_ : Keeps ps a0 b) (hl : partsIn [.queues, .regs, .ev] ps = true) :
    Keeps ps a0 (Block.qReadAll b q).2 := by
  unfold Block.qReadAll
  try dsimp only
  repeat' (first
    | intro _ | with_reducible exact h_ | with_reducible apply Keeps.ite | with_reducible apply Keeps.iteFst
    | with_reducible apply Keeps.iteSnd | with_reducible apply Block.onQueue_keeps | with_reducible apply Block.queueNotice_keeps
    | exact partsIn_trans (m := [.queues, .regs, .ev]) (by decide) hl | split | dsimp only)

theorem Block.qStaleClose_keeps {ps : List Part} {a0 : Block} {b : Block} {q : Nat}
    (h_ : Keeps ps a0 b) (hl : partsIn [.queues, .regs, .ev] ps = true) :
    Keeps ps a0 (Block.qStaleClose b q) := by
  unfold Block.qStaleClose
  try dsimp only
  repeat' (first
    | with_reducible exact h_ | with_reducible apply Block.bump_keeps | with_reducible apply Block.raiseOnce_keeps
    | with_reducible apply Block.qClose_keeps | exact partsIn_trans (m := [.queues, .regs, .ev]) (by decide) hl | dsimp only)

theorem Block.svcWrite_keeps {ps : List Part} {a0 : Block} {b : Block} {l : List Word64}
    (h_ : Keeps ps a0 b) (hl : partsIn [.queues, .mrg, .regs, .ev] ps = true) :
    Keeps ps a0 (Block.svcWrite b l) := by
  unfold Block.svcWrite
  try dsimp only
  repeat' (first
    | with_reducible exact h_ | with_reducible apply Block.qWriteAll_keeps
    | exact partsIn_trans (m := [.queues, .mrg, .regs, .ev]) (by decide) hl | dsimp only)

theorem Block.qBulk_keeps {ps : List Part} {a0 : Block} {b : Block} {q x : Nat} {l : List Word64}
    (h_ : Keeps ps a0 b) (hl : partsIn [.queues, .mrg, .regs, .ev] ps = true) :
    Keeps ps a0 (Block.qBulk b q x l) := by
  unfold Block.qBulk
  try dsimp only
  repeat' (first
    | intro _ | with_reducible exact h_ | with_reducible apply Keeps.ite | with_reducible apply Keeps.forEach
    | with_reducible apply Block.bump_keeps | with_reducible apply Block.onQueue_keeps
    | with_reducible apply Block.queueNotice_keeps | with_reducible apply Block.qClose_keeps
    | with_reducible apply Block.qRefuse_keeps | with_reducible apply Block.qDrain_keeps | with_reducible assumption
    | exact partsIn_trans (m := [.queues, .mrg, .regs, .ev]) (by decide) hl | dsimp only)

theorem Block.ownService_keeps {ps : List Part} {a0 : Block} {b : Block} {l : List Word64}
    (h_ : Keeps ps a0 b) (hl : partsIn [.mrg, .twin] ps = true) :
    Keeps ps a0 (Block.ownService b l) := by
  unfold Block.ownService
  try dsimp only
  repeat' (first
    | intro _ | with_reducible exact h_ | with_reducible apply Keeps.ite | with_reducible apply Block.onMrg_keeps
    | with_reducible apply Block.onTwin_keeps | exact partsIn_trans (m := [.mrg, .twin]) (by decide) hl | dsimp only)

theorem Block.inbandSend_keeps {ps : List Part} {a0 : Block} {b : Block} {origin : Nat} {m : List Byte}
    (h_ : Keeps ps a0 b) (hl : partsIn [.queues, .mrg, .twin, .regs, .ev] ps = true) :
    Keeps ps a0 (Block.inbandSend b origin m) := by
  unfold Block.inbandSend
  try dsimp only
  repeat' (first
    | with_reducible exact h_ | with_reducible apply Keeps.ite | with_reducible apply Block.svcWrite_keeps
    | with_reducible apply Block.qBulk_keeps | with_reducible apply Block.ownService_keeps
    | exact partsIn_trans (m := [.queues, .mrg, .twin, .regs, .ev]) (by decide) hl | dsimp only)

theorem Block.sendReply_keeps {ps : List Part} {a0 : Block} {b : Block} {r : Reply}
    (h_ : Keeps ps a0 b) (hl : partsIn [.queues, .mrg, .twin, .regs, .dict, .ev] ps = true) :
    Keeps ps a0 (Block.sendReply b r) := by
  unfold Block.sendReply
  try dsimp only
  repeat' (first
    | intro _ | with_reducible exact h_ | with_reducible apply Keeps.ite
    | with_reducible apply Keeps.onDictRest (by intro _; first | rfl | (split <;> rfl))
    | with_reducible apply Keeps.onDictRegs (by intro _; first | rfl | (split <;> rfl))
    | with_reducible apply Block.inbandSend_keeps
    | exact partsIn_trans (m := [.queues, .mrg, .twin, .regs, .dict, .ev]) (by decide) hl | dsimp only
    | with_reducible apply Keeps.dict)

theorem Block.reply_keeps {ps : List Part} {a0 : Block} {b : Block} {h : Hdr} {op idx sub arg : Nat} {body : List Byte}
    (h_ : Keeps ps a0 b) (hl : partsIn [.queues, .mrg, .twin, .regs, .dict, .ev] ps = true) :
    Keeps ps a0 (Block.reply b h op idx sub arg body) := by
  unfold Block.reply
  try dsimp only
  repeat' (first
    | with_reducible exact h_ | with_reducible apply Block.sendReply_keeps
    | exact partsIn_trans (m := [.queues, .mrg, .twin, .regs, .dict, .ev]) (by decide) hl | dsimp only)

theorem Block.landingOver_keeps {ps : List Part} {a0 : Block} {b : Block} {h : Hdr}
    (h_ : Keeps ps a0 b) (hl : partsIn [.dict] ps = true) :
    Keeps ps a0 (Block.landingOver b h) := by
  unfold Block.landingOver
  try dsimp only
  repeat' (first
    | intro _ | with_reducible exact h_ | with_reducible apply Keeps.onDictRest (by intro _; first | rfl | (split <;> rfl))
    | with_reducible apply Keeps.onDictRegs (by intro _; first | rfl | (split <;> rfl))
    | exact partsIn_trans (m := [.dict]) (by decide) hl | dsimp only | with_reducible apply Keeps.dict)

theorem Block.abort_keeps {ps : List Part} {a0 : Block} {b : Block} {h : Hdr} {idx sub code : Nat}
    (h_ : Keeps ps a0 b) (hl : partsIn [.queues, .mrg, .twin, .regs, .dict, .ev] ps = true) :
    Keeps ps a0 (Block.abort b h idx sub code) := by
  unfold Block.abort
  try dsimp only
  repeat' (first
    | with_reducible exact h_ | with_reducible apply Keeps.ite | with_reducible apply Block.raiseOnce_keeps
    | with_reducible apply Block.reply_keeps | with_reducible apply Block.landingOver_keeps
    | exact partsIn_trans (m := [.queues, .mrg, .twin, .regs, .dict, .ev]) (by decide) hl | dsimp only)

theorem Block.landed_keeps {ps : List Part} {a0 : Block} {b : Block} {h : Hdr} {key : Nat}
    (h_ : Keeps ps a0 b) (hl : partsIn [.queues, .mrg, .twin, .regs, .dict, .ev] ps = true) :
    Keeps ps a0 (Block.landed b h key) := by
  unfold Block.landed
  try dsimp only
  repeat' (first
    | with_reducible exact h_ | with_reducible apply Block.reply_keeps | with_reducible apply Block.landingOver_keeps
    | exact partsIn_trans (m := [.queues, .mrg, .twin, .regs, .dict, .ev]) (by decide) hl | dsimp only)

theorem Block.ack_keeps {ps : List Part} {a0 : Block} {b : Block} {h : Hdr} {key : Nat}
    (h_ : Keeps ps a0 b) (hl : partsIn [.queues, .mrg, .twin, .regs, .dict, .ev] ps = true) :
    Keeps ps a0 (Block.ack b h key) := by
  unfold Block.ack
  try dsimp only
  repeat' (first
    | with_reducible exact h_ | with_reducible apply Keeps.ite | with_reducible apply Block.reply_keeps
    | with_reducible apply Block.landed_keeps
    | exact partsIn_trans (m := [.queues, .mrg, .twin, .regs, .dict, .ev]) (by decide) hl | dsimp only)

theorem Block.refuseKey_keeps {ps : List Part} {a0 : Block} {b : Block} {h : Hdr} {key code : Nat}
    (h_ : Keeps ps a0 b) (hl : partsIn [.queues, .mrg, .twin, .regs, .dict, .ev] ps = true) :
    Keeps ps a0 (Block.refuseKey b h key code) := by
  unfold Block.refuseKey
  try dsimp only
  repeat' (first
    | with_reducible exact h_ | with_reducible apply Block.abort_keeps
    | exact partsIn_trans (m := [.queues, .mrg, .twin, .regs, .dict, .ev]) (by decide) hl | dsimp only)

theorem Block.freshTag_keeps {ps : List Part} {a0 : Block} {b : Block} {h : Hdr}
    (h_ : Keeps ps a0 b) (hl : partsIn [.boot, .sets, .mrg, .dict] ps = true) :
    Keeps ps a0 (Block.freshTag b h) := by
  unfold Block.freshTag
  try dsimp only
  repeat' (first
    | intro _ | with_reducible exact h_ | with_reducible apply Keeps.ite
    | with_reducible apply Keeps.onDictRest (by intro _; first | rfl | (split <;> rfl))
    | with_reducible apply Keeps.onDictRegs (by intro _; first | rfl | (split <;> rfl))
    | with_reducible apply Keeps.onBootRest (by intro _; first | exact ⟨rfl, rfl⟩ | (split <;> exact ⟨rfl, rfl⟩))
    | with_reducible apply Block.onSets_keeps | with_reducible apply Block.onMrg_keeps
    | exact partsIn_trans (m := [.boot, .sets, .mrg, .dict]) (by decide) hl | split | dsimp only | with_reducible apply Keeps.boot
    | with_reducible apply Keeps.dict)

theorem Block.sessionUsed_keeps {ps : List Part} {a0 : Block} {b : Block} {h : Hdr}
    (h_ : Keeps ps a0 b) (hl : partsIn [.dict] ps = true) :
    Keeps ps a0 (Block.sessionUsed b h) := by
  unfold Block.sessionUsed
  try dsimp only
  repeat' (first
    | intro _ | with_reducible exact h_ | with_reducible apply Keeps.ite
    | with_reducible apply Keeps.onDictRest (by intro _; first | rfl | (split <;> rfl))
    | with_reducible apply Keeps.onDictRegs (by intro _; first | rfl | (split <;> rfl))
    | exact partsIn_trans (m := [.dict]) (by decide) hl | dsimp only | with_reducible apply Keeps.dict)

theorem Block.taken_keeps {ps : List Part} {a0 : Block} {b : Block} {h : Hdr}
    (h_ : Keeps ps a0 b) (hl : partsIn [.boot, .sets, .mrg, .dict] ps = true) :
    Keeps ps a0 (Block.taken b h) := by
  unfold Block.taken
  try dsimp only
  repeat' (first
    | with_reducible exact h_ | with_reducible apply Block.freshTag_keeps | with_reducible apply Block.sessionUsed_keeps
    | exact partsIn_trans (m := [.boot, .sets, .mrg, .dict]) (by decide) hl | dsimp only)

theorem Block.receive_keeps {ps : List Part} {a0 : Block} {b : Block} {h : Hdr} {f : Block → Block}
    (h_ : Keeps ps a0 b) (hl : partsIn [.boot, .sets, .mrg, .regs, .dict] ps = true) (h_f : ∀ y, Keeps ps a0 y → Keeps ps a0 (f y)) :
    Keeps ps a0 (Block.receive b h f) := by
  unfold Block.receive
  try dsimp only
  repeat' (first
    | intro _ | with_reducible exact h_ | with_reducible apply Keeps.ite | with_reducible apply Block.bump_keeps
    | with_reducible apply Block.taken_keeps | with_reducible apply h_f
    | exact partsIn_trans (m := [.boot, .sets, .mrg, .regs, .dict]) (by decide) hl | dsimp only)

theorem Block.request_keeps {ps : List Part} {a0 : Block} {b : Block} {h : Hdr} {f : Block → Block}
    (h_ : Keeps ps a0 b) (hl : partsIn [.boot, .sets, .mrg, .regs, .dict] ps = true) (h_f : ∀ y, Keeps ps a0 y → Keeps ps a0 (f y)) :
    Keeps ps a0 (Block.request b h f) := by
  unfold Block.request
  try dsimp only
  repeat' (first
    | intro _ | with_reducible exact h_ | with_reducible apply Keeps.ite | with_reducible apply Block.receive_keeps
    | with_reducible apply h_f | with_reducible assumption
    | exact partsIn_trans (m := [.boot, .sets, .mrg, .regs, .dict]) (by decide) hl | dsimp only)

theorem Block.writeTo_keeps {ps : List Part} {a0 : Block} {b : Block} {h : Hdr} {key len : Nat} {f : Block → Block}
    (h_ : Keeps ps a0 b) (hl : partsIn [.boot, .sets, .queues, .mrg, .twin, .regs, .dict, .ev] ps = true) (h_f : ∀ y, Keeps ps a0 y → Keeps ps a0 (f y)) :
    Keeps ps a0 (Block.writeTo b h key len f) := by
  unfold Block.writeTo
  try dsimp only
  repeat' (first
    | intro _ | with_reducible exact h_ | with_reducible apply Keeps.ite | with_reducible apply Block.refuseKey_keeps
    | with_reducible apply Block.request_keeps | with_reducible apply h_f | with_reducible assumption
    | exact partsIn_trans (m := [.boot, .sets, .queues, .mrg, .twin, .regs, .dict, .ev]) (by decide) hl | split | dsimp only)

theorem Block.pendWrite_keeps {ps : List Part} {a0 : Block} {b : Block} {h : Hdr} {key v : Nat}
    (h_ : Keeps ps a0 b) (hl : partsIn [.dict] ps = true) :
    Keeps ps a0 (Block.pendWrite b h key v) := by
  unfold Block.pendWrite
  try dsimp only
  repeat' (first
    | intro _ | with_reducible exact h_ | with_reducible apply Keeps.onDictRest (by intro _; first | rfl | (split <;> rfl))
    | with_reducible apply Keeps.onDictRegs (by intro _; first | rfl | (split <;> rfl))
    | exact partsIn_trans (m := [.dict]) (by decide) hl | dsimp only | with_reducible apply Keeps.dict)

end Sys2Proof.Machine
end

