-- ==== Sys2Proof/Laws/FramesTile.lean ====
section
/-! SUPPORT. The frame of every operation of channels, edges, converters, faults and environment: which parts of the block it can change. -/

namespace Sys2Proof.Machine

set_option linter.all false

theorem Block.remask_keeps {ps : List Part} {a0 : Block} {b : Block}
    (h_ : Keeps ps a0 b) (hl : partsIn [.chans, .chMask] ps = true) :
    Keeps ps a0 (Block.remask b) := by
  unfold Block.remask
  try dsimp only
  repeat' (first
    | intro _ | with_reducible exact h_ | with_reducible apply Keeps.forEach | with_reducible apply Block.onChan_keeps
    | with_reducible assumption | exact partsIn_trans (m := [.chans, .chMask]) (by decide) hl | dsimp only
    | with_reducible apply Keeps.chMask)

theorem Block.settleFrom_keeps {ps : List Part} {a0 : Block} {b : Block} {c x : Nat}
    (h_ : Keeps ps a0 b) (hl : partsIn [.chans] ps = true) :
    Keeps ps a0 (Block.settleFrom b c x) := by
  unfold Block.settleFrom
  try dsimp only
  repeat' (first
    | intro _ | with_reducible exact h_ | with_reducible apply Block.onChan_keeps
    | exact partsIn_trans (m := [.chans]) (by decide) hl | dsimp only)

theorem Block.saturationCheck_keeps {ps : List Part} {a0 : Block} {b : Block}
    (h_ : Keeps ps a0 b) (hl : partsIn [.regs, .ev] ps = true) :
    Keeps ps a0 (Block.saturationCheck b) := by
  unfold Block.saturationCheck
  try dsimp only
  repeat' (first
    | with_reducible exact h_ | with_reducible apply Block.raise_keeps | exact partsIn_trans (m := [.regs, .ev]) (by decide) hl
    | split | dsimp only)

theorem Block.polarityCheck_keeps {ps : List Part} {a0 : Block} {b : Block}
    (h_ : Keeps ps a0 b) (hl : partsIn [.regs, .ev] ps = true) :
    Keeps ps a0 (Block.polarityCheck b) := by
  unfold Block.polarityCheck
  try dsimp only
  repeat' (first
    | intro _ | with_reducible exact h_ | with_reducible apply Keeps.when | with_reducible apply Block.raise_keeps
    | with_reducible assumption | exact partsIn_trans (m := [.regs, .ev]) (by decide) hl | dsimp only)

theorem Block.plateChecks_keeps {ps : List Part} {a0 : Block} {b : Block}
    (h_ : Keeps ps a0 b) (hl : partsIn [.regs, .ev] ps = true) :
    Keeps ps a0 (Block.plateChecks b) := by
  unfold Block.plateChecks
  try dsimp only
  repeat' (first
    | intro _ | with_reducible exact h_ | with_reducible apply Keeps.when | with_reducible apply Block.saturationCheck_keeps
    | with_reducible apply Block.polarityCheck_keeps | with_reducible assumption
    | exact partsIn_trans (m := [.regs, .ev]) (by decide) hl | dsimp only)

theorem Block.deposit_keeps {ps : List Part} {a0 : Block} {b : Block} {c t : Nat} {q : Int} {command : Bool}
    (h_ : Keeps ps a0 b) (hl : partsIn [.chans] ps = true) :
    Keeps ps a0 (Block.deposit b c t q command) := by
  unfold Block.deposit
  try dsimp only
  repeat' (first
    | intro _ | with_reducible exact h_ | with_reducible apply Keeps.ite | with_reducible apply Block.onChan_keeps
    | exact partsIn_trans (m := [.chans]) (by decide) hl | dsimp only)

theorem Block.pulsesNow_keeps {ps : List Part} {a0 : Block} {b : Block} {l : List (Ch × Point × Int)}
    (h_ : Keeps ps a0 b) (hl : partsIn [.chans] ps = true) :
    Keeps ps a0 (Block.pulsesNow b l) := by
  unfold Block.pulsesNow
  try dsimp only
  repeat' (first
    | intro _ | with_reducible exact h_ | with_reducible apply Keeps.forEach | with_reducible apply Block.onChan_keeps
    | with_reducible apply Block.deposit_keeps | with_reducible assumption | exact partsIn_trans (m := [.chans]) (by decide) hl
    | dsimp only)

theorem Block.onPlate_keeps {ps : List Part} {a0 : Block} {b : Block} {f : Plate → Plate}
    (h_ : Keeps ps a0 b) (hl : partsIn [.plate] ps = true) :
    Keeps ps a0 (Block.onPlate b f) := by
  unfold Block.onPlate
  try dsimp only
  repeat' (first
    | with_reducible exact h_ | exact partsIn_trans (m := [.plate]) (by decide) hl | dsimp only | with_reducible apply Keeps.plate)

theorem Block.plateRead_keeps {ps : List Part} {a0 : Block} {b : Block} {image : Option (List Byte)}
    (h_ : Keeps ps a0 b) (hl : partsIn [.plate, .regs, .ev, .free] ps = true) :
    Keeps ps a0 (Block.plateRead b image) := by
  unfold Block.plateRead
  try dsimp only
  repeat' (first
    | intro _ | with_reducible exact h_ | with_reducible apply Keeps.ite | with_reducible apply Block.freeNext_keeps
    | with_reducible apply Block.raise_keeps | with_reducible apply Block.plateChecks_keeps
    | with_reducible apply Block.onPlate_keeps | exact partsIn_trans (m := [.plate, .regs, .ev, .free]) (by decide) hl | split
    | dsimp only)

theorem Block.tileTold_keeps {ps : List Part} {a0 : Block} {b : Block}
    (h_ : Keeps ps a0 b) (hl : partsIn [.regs, .ev] ps = true) :
    Keeps ps a0 (Block.tileTold b) := by
  unfold Block.tileTold
  try dsimp only
  repeat' (first
    | with_reducible exact h_ | with_reducible apply Keeps.ite | with_reducible apply Block.raise_keeps
    | exact partsIn_trans (m := [.regs, .ev]) (by decide) hl | dsimp only)

theorem Block.plateReadTold_keeps {ps : List Part} {a0 : Block} {b : Block} {image : Option (List Byte)}
    (h_ : Keeps ps a0 b) (hl : partsIn [.plate, .regs, .ev, .free] ps = true) :
    Keeps ps a0 (Block.plateReadTold b image) := by
  unfold Block.plateReadTold
  try dsimp only
  repeat' (first
    | with_reducible exact h_ | with_reducible apply Keeps.ite | with_reducible apply Block.plateRead_keeps
    | with_reducible apply Block.tileTold_keeps | exact partsIn_trans (m := [.plate, .regs, .ev, .free]) (by decide) hl
    | dsimp only)

theorem Block.plateReread_keeps {ps : List Part} {a0 : Block} {b : Block} {reads : List (Option Word64)}
    (h_ : Keeps ps a0 b) (hl : partsIn [.plate, .regs, .ev] ps = true) :
    Keeps ps a0 (Block.plateReread b reads) := by
  unfold Block.plateReread
  try dsimp only
  repeat' (first
    | intro _ | with_reducible exact h_ | with_reducible apply Keeps.ite | with_reducible apply Block.bump_keeps
    | with_reducible apply Block.raise_keeps | with_reducible apply Block.onPlate_keeps
    | exact partsIn_trans (m := [.plate, .regs, .ev]) (by decide) hl | dsimp only)

theorem Block.noisyOrbit_keeps {ps : List Part} {a0 : Block} {b : Block} {c : Nat}
    (h_ : Keeps ps a0 b) (hl : partsIn [.chans, .regs, .ev] ps = true) :
    Keeps ps a0 (Block.noisyOrbit b c) := by
  unfold Block.noisyOrbit
  try dsimp only
  repeat' (first
    | intro _ | with_reducible exact h_ | with_reducible apply Keeps.ite | with_reducible apply Block.onChan_keeps
    | with_reducible apply Block.setReg_keeps | with_reducible apply Block.raise_keeps
    | exact partsIn_trans (m := [.chans, .regs, .ev]) (by decide) hl | dsimp only)

theorem Block.channelsOrbit_keeps {ps : List Part} {a0 : Block} {b : Block} {whole : Bool}
    (h_ : Keeps ps a0 b) (hl : partsIn [.chans, .regs, .ev] ps = true) :
    Keeps ps a0 (Block.channelsOrbit b whole) := by
  unfold Block.channelsOrbit
  try dsimp only
  repeat' (first
    | intro _ | with_reducible exact h_ | with_reducible apply Keeps.ite | with_reducible apply Keeps.forEach
    | with_reducible apply Block.onChan_keeps | with_reducible apply Block.noisyOrbit_keeps | with_reducible assumption
    | exact partsIn_trans (m := [.chans, .regs, .ev]) (by decide) hl | dsimp only)

theorem Block.leakageReport_keeps {ps : List Part} {a0 : Block} {b : Block} {l : List (Ch × Int)}
    (h_ : Keeps ps a0 b) (hl : partsIn [.chans, .regs, .ev] ps = true) :
    Keeps ps a0 (Block.leakageReport b l) := by
  unfold Block.leakageReport
  try dsimp only
  repeat' (first
    | intro _ | with_reducible exact h_ | with_reducible apply Keeps.ite | with_reducible apply Keeps.forEach
    | with_reducible apply Block.onChan_keeps | with_reducible apply Block.setReg_keeps
    | with_reducible apply Block.raiseOnce_keeps | with_reducible assumption
    | exact partsIn_trans (m := [.chans, .regs, .ev]) (by decide) hl | dsimp only)

theorem Block.iuEdge_keeps {ps : List Part} {a0 : Block} {b : Block} {selector t : Nat}
    (h_ : Keeps ps a0 b) (hl : partsIn [.iu] ps = true) :
    Keeps ps a0 (Block.iuEdge b selector t) := by
  unfold Block.iuEdge
  try dsimp only
  repeat' (first
    | intro _ | with_reducible exact h_ | with_reducible apply Keeps.ite | with_reducible apply Block.onIu_keeps
    | exact partsIn_trans (m := [.iu]) (by decide) hl | split | dsimp only)

theorem Block.markerEdges_keeps {ps : List Part} {a0 : Block} {b : Block} {l : List (Lane × Point)}
    (h_ : Keeps ps a0 b) (hl : partsIn [.iu] ps = true) :
    Keeps ps a0 (Block.markerEdges b l) := by
  unfold Block.markerEdges
  try dsimp only
  repeat' (first
    | intro _ | with_reducible exact h_ | with_reducible apply Keeps.forEach | with_reducible apply Block.iuEdge_keeps
    | with_reducible assumption | exact partsIn_trans (m := [.iu]) (by decide) hl | dsimp only)

theorem Block.closeEntry_keeps {ps : List Part} {a0 : Block} {b : Block} {c : Nat} {e : Entry} {t : Nat}
    (h_ : Keeps ps a0 b) (hl : partsIn [.chans, .iu] ps = true) :
    Keeps ps a0 (Block.closeEntry b c e t) := by
  unfold Block.closeEntry
  try dsimp only
  repeat' (first
    | intro _ | with_reducible exact h_ | with_reducible apply Block.onChan_keeps | with_reducible apply Block.iuEdge_keeps
    | exact partsIn_trans (m := [.chans, .iu]) (by decide) hl | dsimp only)

theorem Block.orphans_keeps {ps : List Part} {a0 : Block} {b : Block} {c n : Nat}
    (h_ : Keeps ps a0 b) (hl : partsIn [.regs, .ev] ps = true) :
    Keeps ps a0 (Block.orphans b c n) := by
  unfold Block.orphans
  try dsimp only
  repeat' (first
    | with_reducible exact h_ | with_reducible apply Keeps.ite | with_reducible apply Block.bump_keeps
    | with_reducible apply Block.raiseOnce_keeps | exact partsIn_trans (m := [.regs, .ev]) (by decide) hl | dsimp only)

theorem Block.setSilent_keeps {ps : List Part} {a0 : Block} {b : Block} {c : Nat} {v : Bool}
    (h_ : Keeps ps a0 b) (hl : partsIn [.regs] ps = true) :
    Keeps ps a0 (Block.setSilent b c v) := by
  unfold Block.setSilent
  try dsimp only
  repeat' (first
    | with_reducible exact h_ | with_reducible apply Keeps.ite | with_reducible apply Block.setReg_keeps
    | exact partsIn_trans (m := [.regs]) (by decide) hl | dsimp only)

theorem Block.countLead_keeps {ps : List Part} {a0 : Block} {b : Block} {c t : Nat}
    (h_ : Keeps ps a0 b) (hl : partsIn [.chans] ps = true) :
    Keeps ps a0 (Block.countLead b c t) := by
  unfold Block.countLead
  try dsimp only
  repeat' (first
    | intro _ | with_reducible exact h_ | with_reducible apply Block.onChan_keeps
    | exact partsIn_trans (m := [.chans]) (by decide) hl | dsimp only)

theorem Block.heard_keeps {ps : List Part} {a0 : Block} {b : Block} {c : Nat}
    (h_ : Keeps ps a0 b) (hl : partsIn [.chans, .regs] ps = true) :
    Keeps ps a0 (Block.heard b c) := by
  unfold Block.heard
  try dsimp only
  repeat' (first
    | intro _ | with_reducible exact h_ | with_reducible apply Keeps.ite | with_reducible apply Block.onChan_keeps
    | with_reducible apply Block.setSilent_keeps | exact partsIn_trans (m := [.chans, .regs]) (by decide) hl | dsimp only)

theorem Block.holdBusy_keeps {ps : List Part} {a0 : Block} {b : Block} {c : Nat}
    (h_ : Keeps ps a0 b) (hl : partsIn [.chans, .regs, .ev] ps = true) :
    Keeps ps a0 (Block.holdBusy b c) := by
  unfold Block.holdBusy
  try dsimp only
  repeat' (first
    | intro _ | with_reducible exact h_ | with_reducible apply Block.onChan_keeps | with_reducible apply Block.bump_keeps
    | with_reducible apply Block.raiseOnce_keeps | exact partsIn_trans (m := [.chans, .regs, .ev]) (by decide) hl | dsimp only)

theorem Block.openAt_keeps {ps : List Part} {a0 : Block} {b : Block} {c t : Nat} {p : Point}
    (h_ : Keeps ps a0 b) (hl : partsIn [.chans, .leads, .iu, .regs, .ev] ps = true) :
    Keeps ps a0 (Block.openAt b c t p) := by
  unfold Block.openAt
  try dsimp only
  repeat' (first
    | intro _ | with_reducible exact h_ | with_reducible apply Keeps.ite | with_reducible apply Block.onChan_keeps
    | with_reducible apply Block.iuEdge_keeps | with_reducible apply Block.orphans_keeps
    | with_reducible apply Block.countLead_keeps | with_reducible apply Block.heard_keeps
    | with_reducible apply Block.holdBusy_keeps | exact partsIn_trans (m := [.chans, .leads, .iu, .regs, .ev]) (by decide) hl
    | split | dsimp only | with_reducible apply Keeps.leads)

theorem Block.mergeRise_keeps {ps : List Part} {a0 : Block} {b : Block} {c t : Nat}
    (h_ : Keeps ps a0 b) (hl : partsIn [.chans, .regs] ps = true) :
    Keeps ps a0 (Block.mergeRise b c t) := by
  unfold Block.mergeRise
  try dsimp only
  repeat' (first
    | intro _ | with_reducible exact h_ | with_reducible apply Keeps.ite | with_reducible apply Block.onChan_keeps
    | with_reducible apply Block.bump_keeps | exact partsIn_trans (m := [.chans, .regs]) (by decide) hl | split | dsimp only)

theorem Block.stampTrail_keeps {ps : List Part} {a0 : Block} {b : Block} {c t : Nat}
    (h_ : Keeps ps a0 b) (hl : partsIn [.chans] ps = true) :
    Keeps ps a0 (Block.stampTrail b c t) := by
  unfold Block.stampTrail
  try dsimp only
  repeat' (first
    | intro _ | with_reducible exact h_ | with_reducible apply Keeps.ite | with_reducible apply Block.onChan_keeps
    | exact partsIn_trans (m := [.chans]) (by decide) hl | dsimp only)

theorem Block.ltTrail_keeps {ps : List Part} {a0 : Block} {b : Block} {c t : Nat}
    (h_ : Keeps ps a0 b) (hl : partsIn [.chans, .iu] ps = true) :
    Keeps ps a0 (Block.ltTrail b c t) := by
  unfold Block.ltTrail
  try dsimp only
  repeat' (first
    | intro _ | with_reducible exact h_ | with_reducible apply Keeps.ite | with_reducible apply Block.onChan_keeps
    | with_reducible apply Block.closeEntry_keeps | with_reducible apply Block.stampTrail_keeps
    | exact partsIn_trans (m := [.chans, .iu]) (by decide) hl | split | dsimp only)

theorem Block.deadEnd_keeps {ps : List Part} {a0 : Block} {b : Block} {c : Nat}
    (h_ : Keeps ps a0 b) (hl : partsIn [.chans, .iu] ps = true) :
    Keeps ps a0 (Block.deadEnd b c) := by
  unfold Block.deadEnd
  try dsimp only
  repeat' (first
    | with_reducible exact h_ | with_reducible apply Keeps.ite | with_reducible apply Block.closeEntry_keeps
    | exact partsIn_trans (m := [.chans, .iu]) (by decide) hl | split | dsimp only)

theorem Block.ltRise_keeps {ps : List Part} {a0 : Block} {b : Block} {c t : Nat} {p : Point}
    (h_ : Keeps ps a0 b) (hl : partsIn [.chans, .leads, .iu, .regs, .ev] ps = true) :
    Keeps ps a0 (Block.ltRise b c t p) := by
  unfold Block.ltRise
  try dsimp only
  repeat' (first
    | with_reducible exact h_ | with_reducible apply Keeps.ite | with_reducible apply Block.countLead_keeps
    | with_reducible apply Block.openAt_keeps | with_reducible apply Block.deadEnd_keeps
    | exact partsIn_trans (m := [.chans, .leads, .iu, .regs, .ev]) (by decide) hl | dsimp only)

theorem Block.ltLead_keeps {ps : List Part} {a0 : Block} {b : Block} {c t : Nat} {p : Point}
    (h_ : Keeps ps a0 b) (hl : partsIn [.chans, .leads, .iu, .regs, .ev] ps = true) :
    Keeps ps a0 (Block.ltLead b c t p) := by
  unfold Block.ltLead
  try dsimp only
  repeat' (first
    | with_reducible exact h_ | with_reducible apply Keeps.ite | with_reducible apply Block.mergeRise_keeps
    | with_reducible apply Block.ltRise_keeps | exact partsIn_trans (m := [.chans, .leads, .iu, .regs, .ev]) (by decide) hl
    | split | dsimp only)

theorem Block.saturated_keeps {ps : List Part} {a0 : Block} {b : Block} {c : Nat}
    (h_ : Keeps ps a0 b) (hl : partsIn [.chans] ps = true) :
    Keeps ps a0 (Block.saturated b c) := by
  unfold Block.saturated
  try dsimp only
  repeat' (first
    | intro _ | with_reducible exact h_ | with_reducible apply Keeps.ite | with_reducible apply Block.onChan_keeps
    | exact partsIn_trans (m := [.chans]) (by decide) hl | split | dsimp only)

theorem Block.htLead_keeps {ps : List Part} {a0 : Block} {b : Block} {c t : Nat}
    (h_ : Keeps ps a0 b) (hl : partsIn [.chans, .leads, .iu, .regs] ps = true) :
    Keeps ps a0 (Block.htLead b c t) := by
  unfold Block.htLead
  try dsimp only
  repeat' (first
    | intro _ | with_reducible exact h_ | with_reducible apply Keeps.ite | with_reducible apply Block.onChan_keeps
    | with_reducible apply Block.bump_keeps | with_reducible apply Block.iuEdge_keeps
    | exact partsIn_trans (m := [.chans, .leads, .iu, .regs]) (by decide) hl | split | dsimp only
    | with_reducible apply Keeps.leads)

theorem Block.dropOrphans_keeps {ps : List Part} {a0 : Block} {b : Block} {c : Nat}
    (h_ : Keeps ps a0 b) (hl : partsIn [.chans, .regs, .ev] ps = true) :
    Keeps ps a0 (Block.dropOrphans b c) := by
  unfold Block.dropOrphans
  try dsimp only
  repeat' (first
    | intro _ | with_reducible exact h_ | with_reducible apply Block.onChan_keeps | with_reducible apply Block.orphans_keeps
    | exact partsIn_trans (m := [.chans, .regs, .ev]) (by decide) hl | dsimp only)

theorem Block.addPair_keeps {ps : List Part} {a0 : Block} {b : Block} {p : Pair}
    (h_ : Keeps ps a0 b) (hl : partsIn [.adc, .regs] ps = true) :
    Keeps ps a0 (Block.addPair b p) := by
  unfold Block.addPair
  try dsimp only
  repeat' (first
    | intro _ | with_reducible exact h_ | with_reducible apply Block.onAdc_keeps | with_reducible apply Block.peak_keeps
    | exact partsIn_trans (m := [.adc, .regs]) (by decide) hl | dsimp only)

theorem Block.holdClose_keeps {ps : List Part} {a0 : Block} {b : Block} {c n : Nat}
    (h_ : Keeps ps a0 b) (hl : partsIn [.chans, .adc, .regs] ps = true) :
    Keeps ps a0 (Block.holdClose b c n) := by
  unfold Block.holdClose
  try dsimp only
  repeat' (first
    | intro _ | with_reducible exact h_ | with_reducible apply Keeps.ite | with_reducible apply Block.onChan_keeps
    | with_reducible apply Block.addPair_keeps | exact partsIn_trans (m := [.chans, .adc, .regs]) (by decide) hl | split
    | dsimp only)

theorem Block.capture_keeps {ps : List Part} {a0 : Block} {b : Block} {c : Nat}
    (h_ : Keeps ps a0 b) (hl : partsIn [.chans, .adc, .regs] ps = true) :
    Keeps ps a0 (Block.capture b c) := by
  unfold Block.capture
  try dsimp only
  repeat' (first
    | intro _ | with_reducible exact h_ | with_reducible apply Block.onChan_keeps | with_reducible apply Block.bump_keeps
    | with_reducible apply Block.addPair_keeps | exact partsIn_trans (m := [.chans, .adc, .regs]) (by decide) hl | split
    | dsimp only)

theorem Block.timeout_keeps {ps : List Part} {a0 : Block} {b : Block} {c : Nat}
    (h_ : Keeps ps a0 b) (hl : partsIn [.chans, .adc, .regs, .ev] ps = true) :
    Keeps ps a0 (Block.timeout b c) := by
  unfold Block.timeout
  try dsimp only
  repeat' (first
    | intro _ | with_reducible exact h_ | with_reducible apply Keeps.ite | with_reducible apply Block.onChan_keeps
    | with_reducible apply Block.raiseOnce_keeps | with_reducible apply Block.setSilent_keeps
    | with_reducible apply Block.capture_keeps | exact partsIn_trans (m := [.chans, .adc, .regs, .ev]) (by decide) hl | dsimp only)

theorem Block.inject_keeps {ps : List Part} {a0 : Block} {b : Block} {c t : Nat} {command : Bool}
    (h_ : Keeps ps a0 b) (hl : partsIn [.chans] ps = true) :
    Keeps ps a0 (Block.inject b c t command) := by
  unfold Block.inject
  try dsimp only
  repeat' (first
    | with_reducible exact h_ | with_reducible apply Keeps.ite | with_reducible apply Block.deposit_keeps
    | exact partsIn_trans (m := [.chans]) (by decide) hl | dsimp only)

theorem Block.fire_keeps {ps : List Part} {a0 : Block} {b : Block} {mask : Nat} {p : Point} {command : Bool}
    (h_ : Keeps ps a0 b) (hl : partsIn [.chans, .iu] ps = true) :
    Keeps ps a0 (Block.fire b mask p command) := by
  unfold Block.fire
  try dsimp only
  repeat' (first
    | intro _ | with_reducible exact h_ | with_reducible apply Keeps.forEach | with_reducible apply Block.iuEdge_keeps
    | with_reducible apply Block.inject_keeps | with_reducible assumption
    | exact partsIn_trans (m := [.chans, .iu]) (by decide) hl | dsimp only)

theorem Block.firesNow_keeps {ps : List Part} {a0 : Block} {b : Block}
    (h_ : Keeps ps a0 b) (hl : partsIn [.chans, .iu] ps = true) :
    Keeps ps a0 (Block.firesNow b) := by
  unfold Block.firesNow
  try dsimp only
  repeat' (first
    | intro _ | with_reducible exact h_ | with_reducible apply Keeps.forEach | with_reducible apply Block.fire_keeps
    | with_reducible assumption | exact partsIn_trans (m := [.chans, .iu]) (by decide) hl | dsimp only)

theorem Block.supersede_keeps {ps : List Part} {a0 : Block} {b : Block} {c : Nat}
    (h_ : Keeps ps a0 b) (hl : partsIn [.chans] ps = true) :
    Keeps ps a0 (Block.supersede b c) := by
  unfold Block.supersede
  try dsimp only
  repeat' (first
    | intro _ | with_reducible exact h_ | with_reducible apply Block.onChan_keeps
    | exact partsIn_trans (m := [.chans]) (by decide) hl | dsimp only)

theorem Block.timetableFire_keeps {ps : List Part} {a0 : Block} {b : Block} {mask : Nat} {p : Point}
    (h_ : Keeps ps a0 b) (hl : partsIn [.chans, .iu, .regs] ps = true) :
    Keeps ps a0 (Block.timetableFire b mask p) := by
  unfold Block.timetableFire
  try dsimp only
  repeat' (first
    | intro _ | with_reducible exact h_ | with_reducible apply Keeps.forEach | with_reducible apply Block.bump_keeps
    | with_reducible apply Block.fire_keeps | with_reducible apply Block.supersede_keeps | with_reducible assumption
    | exact partsIn_trans (m := [.chans, .iu, .regs]) (by decide) hl | dsimp only)

theorem Block.onBin_keeps {ps : List Part} {a0 : Block} {b : Block} {f : BinCal → BinCal}
    (h_ : Keeps ps a0 b) (hl : partsIn [.bin] ps = true) :
    Keeps ps a0 (Block.onBin b f) := by
  unfold Block.onBin
  try dsimp only
  repeat' (first
    | with_reducible exact h_ | exact partsIn_trans (m := [.bin]) (by decide) hl | dsimp only | with_reducible apply Keeps.bin)

theorem Block.moveTrims_keeps {ps : List Part} {a0 : Block} {b : Block} {steps : List Int}
    (h_ : Keeps ps a0 b) (hl : partsIn [.bin, .regs, .ev] ps = true) :
    Keeps ps a0 (Block.moveTrims b steps) := by
  unfold Block.moveTrims
  try dsimp only
  repeat' (first
    | intro _ | with_reducible exact h_ | with_reducible apply Keeps.forEach | with_reducible apply Block.raise_keeps
    | with_reducible apply Block.onBin_keeps | with_reducible assumption
    | exact partsIn_trans (m := [.bin, .regs, .ev]) (by decide) hl | dsimp only)

theorem Block.compensate_keeps {ps : List Part} {a0 : Block} {b : Block} {change : Int}
    (h_ : Keeps ps a0 b) (hl : partsIn [.bin, .regs, .ev] ps = true) :
    Keeps ps a0 (Block.compensate b change) := by
  unfold Block.compensate
  try dsimp only
  repeat' (first
    | intro _ | with_reducible exact h_ | with_reducible apply Block.onBin_keeps | with_reducible apply Block.moveTrims_keeps
    | exact partsIn_trans (m := [.bin, .regs, .ev]) (by decide) hl | dsimp only)

theorem Block.binLinear_keeps {ps : List Part} {a0 : Block} {b : Block} {worst : Nat × Nat}
    (h_ : Keeps ps a0 b) (hl : partsIn [.bin, .regs, .ev] ps = true) :
    Keeps ps a0 (Block.binLinear b worst) := by
  unfold Block.binLinear
  try dsimp only
  repeat' (first
    | intro _ | with_reducible exact h_ | with_reducible apply Keeps.ite | with_reducible apply Block.raise_keeps
    | with_reducible apply Block.onBin_keeps | exact partsIn_trans (m := [.bin, .regs, .ev]) (by decide) hl | dsimp only)

theorem Block.binConverge_keeps {ps : List Part} {a0 : Block} {b : Block} {worst : Nat × Nat}
    (h_ : Keeps ps a0 b) (hl : partsIn [.bin, .regs, .ev] ps = true) :
    Keeps ps a0 (Block.binConverge b worst) := by
  unfold Block.binConverge
  try dsimp only
  repeat' (first
    | intro _ | with_reducible exact h_ | with_reducible apply Keeps.ite | with_reducible apply Block.setReg_keeps
    | with_reducible apply Block.raise_keeps | with_reducible apply Block.onBin_keeps
    | exact partsIn_trans (m := [.bin, .regs, .ev]) (by decide) hl | dsimp only)

theorem Block.binIteration_keeps {ps : List Part} {a0 : Block} {b : Block} {counts : List Nat}
    (h_ : Keeps ps a0 b) (hl : partsIn [.bin, .regs, .ev] ps = true) :
    Keeps ps a0 (Block.binIteration b counts) := by
  unfold Block.binIteration
  try dsimp only
  repeat' (first
    | intro _ | with_reducible exact h_ | with_reducible apply Keeps.ite | with_reducible apply Keeps.when
    | with_reducible apply Block.setReg_keeps | with_reducible apply Block.bump_keeps | with_reducible apply Block.onBin_keeps
    | with_reducible apply Block.moveTrims_keeps | with_reducible apply Block.binLinear_keeps
    | with_reducible apply Block.binConverge_keeps | with_reducible assumption
    | exact partsIn_trans (m := [.bin, .regs, .ev]) (by decide) hl | dsimp only)

theorem Block.binRestart_keeps {ps : List Part} {a0 : Block} {b : Block}
    (h_ : Keeps ps a0 b) (hl : partsIn [.bin, .regs] ps = true) :
    Keeps ps a0 (Block.binRestart b) := by
  unfold Block.binRestart
  try dsimp only
  repeat' (first
    | intro _ | with_reducible exact h_ | with_reducible apply Keeps.ite | with_reducible apply Block.setReg_keeps
    | with_reducible apply Block.onBin_keeps | exact partsIn_trans (m := [.bin, .regs]) (by decide) hl | dsimp only)

theorem Block.progWrite_keeps {ps : List Part} {a0 : Block} {b : Block} {h : Hdr} {p v : Nat}
    (h_ : Keeps ps a0 b) (hl : partsIn [.iu, .queues, .mrg, .twin, .regs, .dict, .ev] ps = true) :
    Keeps ps a0 (Block.progWrite b h p v) := by
  unfold Block.progWrite
  try dsimp only
  repeat' (first
    | intro _ | with_reducible exact h_ | with_reducible apply Keeps.ite | with_reducible apply Block.onIu_keeps
    | with_reducible apply Block.raise_keeps | with_reducible apply Block.refuseKey_keeps
    | with_reducible apply Block.pendWrite_keeps
    | exact partsIn_trans (m := [.iu, .queues, .mrg, .twin, .regs, .dict, .ev]) (by decide) hl | dsimp only)

theorem Block.armInvalid_keeps {ps : List Part} {a0 : Block} {b : Block} {p src : Nat}
    (h_ : Keeps ps a0 b) (hl : partsIn [.regs, .ev] ps = true) :
    Keeps ps a0 (Block.armInvalid b p src) := by
  unfold Block.armInvalid
  try dsimp only
  repeat' (first
    | with_reducible exact h_ | with_reducible apply Block.raise_keeps | exact partsIn_trans (m := [.regs, .ev]) (by decide) hl
    | dsimp only)

theorem Block.armOverlap_keeps {ps : List Part} {a0 : Block} {b : Block} {p : Nat}
    (h_ : Keeps ps a0 b) (hl : partsIn [.regs, .ev] ps = true) :
    Keeps ps a0 (Block.armOverlap b p) := by
  unfold Block.armOverlap
  try dsimp only
  repeat' (first
    | with_reducible exact h_ | with_reducible apply Block.bump_keeps | with_reducible apply Block.raise_keeps
    | exact partsIn_trans (m := [.regs, .ev]) (by decide) hl | split | dsimp only)

theorem Block.openWindow_keeps {ps : List Part} {a0 : Block} {b : Block} {p src : Nat}
    (h_ : Keeps ps a0 b) (hl : partsIn [.iu] ps = true) :
    Keeps ps a0 (Block.openWindow b p src) := by
  unfold Block.openWindow
  try dsimp only
  repeat' (first
    | intro _ | with_reducible exact h_ | with_reducible apply Keeps.ite | with_reducible apply Block.onIu_keeps
    | exact partsIn_trans (m := [.iu]) (by decide) hl | dsimp only)

theorem Block.armConflict_keeps {ps : List Part} {a0 : Block} {b : Block} {p src : Nat}
    (h_ : Keeps ps a0 b) (hl : partsIn [.iu, .regs, .ev] ps = true) :
    Keeps ps a0 (Block.armConflict b p src) := by
  unfold Block.armConflict
  try dsimp only
  repeat' (first
    | intro _ | with_reducible exact h_ | with_reducible apply Keeps.ite | with_reducible apply Block.onIu_keeps
    | with_reducible apply Block.bump_keeps | with_reducible apply Block.raise_keeps | with_reducible apply Block.openWindow_keeps
    | exact partsIn_trans (m := [.iu, .regs, .ev]) (by decide) hl | split | dsimp only)

theorem Block.shotStop_keeps {ps : List Part} {a0 : Block} {b : Block} {start : Option Nat} {exclude : Bool} {a w s selector : Nat}
    (h_ : Keeps ps a0 b) (hl : partsIn [.iu, .regs] ps = true) :
    Keeps ps a0 (Block.shotStop b start exclude a w s selector) := by
  unfold Block.shotStop
  try dsimp only
  repeat' (first
    | intro _ | with_reducible exact h_ | with_reducible apply Block.onIu_keeps | with_reducible apply Block.setReg_keeps
    | exact partsIn_trans (m := [.iu, .regs]) (by decide) hl | split | dsimp only)

theorem Block.latchStop_keeps {ps : List Part} {a0 : Block} {b : Block} {s : Nat}
    (h_ : Keeps ps a0 b) (hl : partsIn [.regs] ps = true) :
    Keeps ps a0 (Block.latchStop b s) := by
  unfold Block.latchStop
  try dsimp only
  repeat' (first
    | intro _ | with_reducible exact h_ | with_reducible apply Block.setReg_keeps
    | exact partsIn_trans (m := [.regs]) (by decide) hl | split | dsimp only)

theorem Block.campaignEnd_keeps {ps : List Part} {a0 : Block} {b : Block} {p cfg : Nat}
    (h_ : Keeps ps a0 b) (hl : partsIn [.iu, .regs, .ev] ps = true) :
    Keeps ps a0 (Block.campaignEnd b p cfg) := by
  unfold Block.campaignEnd
  try dsimp only
  repeat' (first
    | intro _ | with_reducible exact h_ | with_reducible apply Keeps.ite | with_reducible apply Keeps.forEach
    | with_reducible apply Block.onIu_keeps | with_reducible apply Block.raise_keeps | with_reducible apply Block.latchStop_keeps
    | with_reducible assumption | exact partsIn_trans (m := [.iu, .regs, .ev]) (by decide) hl | dsimp only)

theorem Block.shotEnd_keeps {ps : List Part} {a0 : Block} {b : Block} {p a : Nat}
    (h_ : Keeps ps a0 b) (hl : partsIn [.iu, .regs, .ev] ps = true) :
    Keeps ps a0 (Block.shotEnd b p a) := by
  unfold Block.shotEnd
  try dsimp only
  repeat' (first
    | intro _ | with_reducible exact h_ | with_reducible apply Keeps.ite | with_reducible apply Keeps.forEach
    | with_reducible apply Block.onIu_keeps | with_reducible apply Block.bump_keeps | with_reducible apply Block.raiseOnce_keeps
    | with_reducible apply Block.shotStop_keeps | with_reducible apply Block.campaignEnd_keeps | with_reducible assumption
    | exact partsIn_trans (m := [.iu, .regs, .ev]) (by decide) hl | dsimp only)

theorem Block.shotDone_keeps {ps : List Part} {a0 : Block} {b : Block}
    (h_ : Keeps ps a0 b) (hl : partsIn [.iu, .regs, .ev] ps = true) :
    Keeps ps a0 (Block.shotDone b) := by
  unfold Block.shotDone
  try dsimp only
  repeat' (first
    | with_reducible exact h_ | with_reducible apply Keeps.ite | with_reducible apply Block.shotEnd_keeps
    | exact partsIn_trans (m := [.iu, .regs, .ev]) (by decide) hl | split | dsimp only)

theorem Block.arm_keeps {ps : List Part} {a0 : Block} {b : Block} {p src : Nat}
    (h_ : Keeps ps a0 b) (hl : partsIn [.iu, .regs, .ev] ps = true) :
    Keeps ps a0 (Block.arm b p src) := by
  unfold Block.arm
  try dsimp only
  repeat' (first
    | intro _ | with_reducible exact h_ | with_reducible apply Keeps.ite | with_reducible apply Block.onIu_keeps
    | with_reducible apply Block.armInvalid_keeps | with_reducible apply Block.armOverlap_keeps
    | with_reducible apply Block.openWindow_keeps | with_reducible apply Block.armConflict_keeps
    | with_reducible apply Block.shotDone_keeps | exact partsIn_trans (m := [.iu, .regs, .ev]) (by decide) hl | split | dsimp only)

theorem Block.stampArm_keeps {ps : List Part} {a0 : Block} {b : Block} {falling : Bool} {t : Nat}
    (h_ : Keeps ps a0 b) (hl : partsIn [.iu] ps = true) :
    Keeps ps a0 (Block.stampArm b falling t) := by
  unfold Block.stampArm
  try dsimp only
  repeat' (first
    | intro _ | with_reducible exact h_ | with_reducible apply Keeps.ite | with_reducible apply Block.onIu_keeps
    | with_reducible apply Block.iuEdge_keeps | exact partsIn_trans (m := [.iu]) (by decide) hl | dsimp only)

theorem Block.armEdge_keeps {ps : List Part} {a0 : Block} {b : Block} {falling : Bool} {t : Nat}
    (h_ : Keeps ps a0 b) (hl : partsIn [.iu, .regs, .ev] ps = true) :
    Keeps ps a0 (Block.armEdge b falling t) := by
  unfold Block.armEdge
  try dsimp only
  repeat' (first
    | with_reducible exact h_ | with_reducible apply Keeps.ite | with_reducible apply Block.arm_keeps
    | with_reducible apply Block.stampArm_keeps | exact partsIn_trans (m := [.iu, .regs, .ev]) (by decide) hl | dsimp only)

theorem Block.campaignAbort_keeps {ps : List Part} {a0 : Block} {b : Block}
    (h_ : Keeps ps a0 b) (hl : partsIn [.iu] ps = true) :
    Keeps ps a0 (Block.campaignAbort b) := by
  unfold Block.campaignAbort
  try dsimp only
  repeat' (first
    | intro _ | with_reducible exact h_ | with_reducible apply Block.onIu_keeps | exact partsIn_trans (m := [.iu]) (by decide) hl
    | dsimp only)

theorem Block.trimEdges_keeps {ps : List Part} {a0 : Block} {b : Block}
    (h_ : Keeps ps a0 b) (hl : partsIn [.iu] ps = true) :
    Keeps ps a0 (Block.trimEdges b) := by
  unfold Block.trimEdges
  try dsimp only
  repeat' (first
    | intro _ | with_reducible exact h_ | with_reducible apply Keeps.ite | with_reducible apply Block.onIu_keeps
    | exact partsIn_trans (m := [.iu]) (by decide) hl | dsimp only)

theorem Block.releaseClaim_keeps {ps : List Part} {a0 : Block} {b : Block} {cause : Nat}
    (h_ : Keeps ps a0 b) (hl : partsIn [.twin, .regs, .ev] ps = true) :
    Keeps ps a0 (Block.releaseClaim b cause) := by
  unfold Block.releaseClaim
  try dsimp only
  repeat' (first
    | intro _ | with_reducible exact h_ | with_reducible apply Block.onTwin_keeps | with_reducible apply Block.raise_keeps
    | exact partsIn_trans (m := [.twin, .regs, .ev]) (by decide) hl | dsimp only)

theorem Block.sourceFail_keeps {ps : List Part} {a0 : Block} {b : Block} {src : Nat}
    (h_ : Keeps ps a0 b) (hl : partsIn [.twin, .regs, .ev] ps = true) :
    Keeps ps a0 (Block.sourceFail b src) := by
  unfold Block.sourceFail
  try dsimp only
  repeat' (first
    | intro _ | with_reducible exact h_ | with_reducible apply Keeps.ite | with_reducible apply Block.onTwin_keeps
    | with_reducible apply Block.releaseClaim_keeps | exact partsIn_trans (m := [.twin, .regs, .ev]) (by decide) hl | dsimp only)

theorem Block.testFails_keeps {ps : List Part} {a0 : Block} {b : Block} {check : Nat}
    (h_ : Keeps ps a0 b) (hl : partsIn [.twin] ps = true) :
    Keeps ps a0 (Block.testFails b check) := by
  unfold Block.testFails
  try dsimp only
  repeat' (first
    | intro _ | with_reducible exact h_ | with_reducible apply Keeps.ite | with_reducible apply Block.onTwin_keeps
    | exact partsIn_trans (m := [.twin]) (by decide) hl | dsimp only)

theorem Block.sourceClear_keeps {ps : List Part} {a0 : Block} {b : Block} {src : Nat}
    (h_ : Keeps ps a0 b) (hl : partsIn [.twin] ps = true) :
    Keeps ps a0 (Block.sourceClear b src) := by
  unfold Block.sourceClear
  try dsimp only
  repeat' (first
    | intro _ | with_reducible exact h_ | with_reducible apply Block.onTwin_keeps
    | exact partsIn_trans (m := [.twin]) (by decide) hl | dsimp only)

theorem Block.enterResync_keeps {ps : List Part} {a0 : Block} {b : Block}
    (h_ : Keeps ps a0 b) (hl : partsIn [.twin, .regs, .ev] ps = true) :
    Keeps ps a0 (Block.enterResync b) := by
  unfold Block.enterResync
  try dsimp only
  repeat' (first
    | intro _ | with_reducible exact h_ | with_reducible apply Block.onTwin_keeps | with_reducible apply Block.raise_keeps
    | exact partsIn_trans (m := [.twin, .regs, .ev]) (by decide) hl | dsimp only)

theorem Block.resyncWhenClear_keeps {ps : List Part} {a0 : Block} {b : Block}
    (h_ : Keeps ps a0 b) (hl : partsIn [.twin, .regs, .ev] ps = true) :
    Keeps ps a0 (Block.resyncWhenClear b) := by
  unfold Block.resyncWhenClear
  try dsimp only
  repeat' (first
    | with_reducible exact h_ | with_reducible apply Keeps.ite | with_reducible apply Block.enterResync_keeps
    | exact partsIn_trans (m := [.twin, .regs, .ev]) (by decide) hl | dsimp only)

theorem Block.onSite_keeps {ps : List Part} {a0 : Block} {b : Block} {id : Nat} {f : Site → Site}
    (h_ : Keeps ps a0 b) (hl : partsIn [.flt] ps = true) :
    Keeps ps a0 (Block.onSite b id f) := by
  unfold Block.onSite
  try dsimp only
  repeat' (first
    | intro _ | with_reducible exact h_ | with_reducible apply Block.onFlt_keeps
    | exact partsIn_trans (m := [.flt]) (by decide) hl | dsimp only)

theorem Block.planDue_keeps {ps : List Part} {a0 : Block} {b : Block} {lanes ports tell : List Nat}
    (h_ : Keeps ps a0 b) (hl : partsIn [.flt] ps = true) :
    Keeps ps a0 (Block.planDue b lanes ports tell) := by
  unfold Block.planDue
  try dsimp only
  repeat' (first
    | intro _ | with_reducible exact h_ | with_reducible apply Block.onFlt_keeps
    | exact partsIn_trans (m := [.flt]) (by decide) hl | dsimp only)

theorem Block.laneRetired_keeps {ps : List Part} {a0 : Block} {b : Block} {l : Nat}
    (h_ : Keeps ps a0 b) (hl : partsIn [.frm] ps = true) :
    Keeps ps a0 (Block.laneRetired b l) := by
  unfold Block.laneRetired
  try dsimp only
  repeat' (first
    | intro _ | with_reducible exact h_ | with_reducible apply Block.onLane_keeps
    | exact partsIn_trans (m := [.frm]) (by decide) hl | dsimp only)

theorem Block.retireLane_keeps {ps : List Part} {a0 : Block} {b : Block} {l : Nat}
    (h_ : Keeps ps a0 b) (hl : partsIn [.frm, .flt] ps = true) :
    Keeps ps a0 (Block.retireLane b l) := by
  unfold Block.retireLane
  try dsimp only
  repeat' (first
    | intro _ | with_reducible exact h_ | with_reducible apply Keeps.ite | with_reducible apply Block.onFlt_keeps
    | with_reducible apply Block.onLane_keeps | with_reducible apply Block.planDue_keeps
    | with_reducible apply Block.laneRetired_keeps | exact partsIn_trans (m := [.frm, .flt]) (by decide) hl | split | dsimp only)

theorem Block.onSlice_keeps {ps : List Part} {a0 : Block} {b : Block} {n : Nat} {f : Slice → Slice}
    (h_ : Keeps ps a0 b) (hl : partsIn [.adc] ps = true) :
    Keeps ps a0 (Block.onSlice b n f) := by
  unfold Block.onSlice
  try dsimp only
  repeat' (first
    | intro _ | with_reducible exact h_ | with_reducible apply Block.onAdc_keeps
    | exact partsIn_trans (m := [.adc]) (by decide) hl | dsimp only)

theorem Block.retireEffect_keeps {ps : List Part} {a0 : Block} {b : Block} {id : Nat}
    (h_ : Keeps ps a0 b) (hl : partsIn [.chans, .adc, .frm, .flt, .regs, .ev] ps = true) :
    Keeps ps a0 (Block.retireEffect b id) := by
  unfold Block.retireEffect
  try dsimp only
  repeat' (first
    | intro _ | with_reducible exact h_ | with_reducible apply Block.onChan_keeps | with_reducible apply Block.setReg_keeps
    | with_reducible apply Block.raise_keeps | with_reducible apply Block.planDue_keeps
    | with_reducible apply Block.retireLane_keeps | with_reducible apply Block.onSlice_keeps
    | exact partsIn_trans (m := [.chans, .adc, .frm, .flt, .regs, .ev]) (by decide) hl | split | dsimp only)

theorem Block.listSite_keeps {ps : List Part} {a0 : Block} {b : Block} {id cause : Nat} {adopted byCommand : Bool}
    (h_ : Keeps ps a0 b) (hl : partsIn [.flt, .regs, .ev] ps = true) :
    Keeps ps a0 (Block.listSite b id cause adopted byCommand) := by
  unfold Block.listSite
  try dsimp only
  repeat' (first
    | intro _ | with_reducible exact h_ | with_reducible apply Keeps.ite | with_reducible apply Block.onFlt_keeps
    | with_reducible apply Block.raise_keeps | exact partsIn_trans (m := [.flt, .regs, .ev]) (by decide) hl | dsimp only)

theorem Block.tellPartner_keeps {ps : List Part} {a0 : Block} {b : Block} {id n : Nat}
    (h_ : Keeps ps a0 b) (hl : partsIn [.mrg, .twin] ps = true) :
    Keeps ps a0 (Block.tellPartner b id n) := by
  unfold Block.tellPartner
  try dsimp only
  repeat' (first
    | with_reducible exact h_ | with_reducible apply Keeps.ite | with_reducible apply Block.ownService_keeps
    | exact partsIn_trans (m := [.mrg, .twin]) (by decide) hl | dsimp only)

theorem Block.retiredMessage_keeps {ps : List Part} {a0 : Block} {b : Block} {id : Nat}
    (h_ : Keeps ps a0 b) (hl : partsIn [.mrg, .twin, .regs, .ev, .free] ps = true) :
    Keeps ps a0 (Block.retiredMessage b id) := by
  unfold Block.retiredMessage
  try dsimp only
  repeat' (first
    | with_reducible exact h_ | with_reducible apply Block.freeNext_keeps | with_reducible apply Block.raise_keeps
    | with_reducible apply Block.tellPartner_keeps | exact partsIn_trans (m := [.mrg, .twin, .regs, .ev, .free]) (by decide) hl
    | split | dsimp only)

theorem Block.retireOne_keeps {ps : List Part} {a0 : Block} {b : Block} {id cause : Nat} {adopted byCommand : Bool}
    (h_ : Keeps ps a0 b) (hl : partsIn [.chans, .adc, .mrg, .frm, .twin, .flt, .regs, .ev, .free] ps = true) :
    Keeps ps a0 (Block.retireOne b id cause adopted byCommand) := by
  unfold Block.retireOne
  try dsimp only
  repeat' (first
    | intro _ | with_reducible exact h_ | with_reducible apply Block.onSite_keeps | with_reducible apply Block.retireEffect_keeps
    | with_reducible apply Block.listSite_keeps | with_reducible apply Block.retiredMessage_keeps
    | exact partsIn_trans (m := [.chans, .adc, .mrg, .frm, .twin, .flt, .regs, .ev, .free]) (by decide) hl | dsimp only)

theorem Block.retire_keeps {ps : List Part} {a0 : Block} {b : Block} {id cause : Nat} {adopted byCommand : Bool}
    (h_ : Keeps ps a0 b) (hl : partsIn [.chans, .adc, .mrg, .frm, .twin, .flt, .regs, .ev, .free] ps = true) :
    Keeps ps a0 (Block.retire b id cause adopted byCommand) := by
  unfold Block.retire
  try dsimp only
  repeat' (first
    | with_reducible exact h_ | with_reducible apply Keeps.ite | with_reducible apply Block.retireOne_keeps
    | exact partsIn_trans (m := [.chans, .adc, .mrg, .frm, .twin, .flt, .regs, .ev, .free]) (by decide) hl | split | dsimp only)

theorem Block.permanent_keeps {ps : List Part} {a0 : Block} {b : Block} {id cause : Nat}
    (h_ : Keeps ps a0 b) (hl : partsIn [.chans, .adc, .mrg, .frm, .twin, .flt, .regs, .ev, .free] ps = true) :
    Keeps ps a0 (Block.permanent b id cause) := by
  unfold Block.permanent
  try dsimp only
  repeat' (first
    | intro _ | with_reducible exact h_ | with_reducible apply Keeps.ite | with_reducible apply Block.onFlt_keeps
    | with_reducible apply Block.bump_keeps | with_reducible apply Block.raise_keeps | with_reducible apply Block.onSite_keeps
    | with_reducible apply Block.retire_keeps
    | exact partsIn_trans (m := [.chans, .adc, .mrg, .frm, .twin, .flt, .regs, .ev, .free]) (by decide) hl | dsimp only)

theorem Block.transient_keeps {ps : List Part} {a0 : Block} {b : Block} {id : Nat}
    (h_ : Keeps ps a0 b) (hl : partsIn [.chans, .adc, .mrg, .frm, .twin, .flt, .regs, .ev, .free] ps = true) :
    Keeps ps a0 (Block.transient b id) := by
  unfold Block.transient
  try dsimp only
  repeat' (first
    | intro _ | with_reducible exact h_ | with_reducible apply Keeps.ite | with_reducible apply Block.bump_keeps
    | with_reducible apply Block.raiseOnce_keeps | with_reducible apply Block.onSite_keeps
    | with_reducible apply Block.permanent_keeps
    | exact partsIn_trans (m := [.chans, .adc, .mrg, .frm, .twin, .flt, .regs, .ev, .free]) (by decide) hl | dsimp only)

theorem Block.retryFailed_keeps {ps : List Part} {a0 : Block} {b : Block} {id : Nat}
    (h_ : Keeps ps a0 b) (hl : partsIn [.chans, .adc, .mrg, .frm, .twin, .flt, .regs, .ev, .free] ps = true) :
    Keeps ps a0 (Block.retryFailed b id) := by
  unfold Block.retryFailed
  try dsimp only
  repeat' (first
    | intro _ | with_reducible exact h_ | with_reducible apply Keeps.ite | with_reducible apply Block.onSite_keeps
    | with_reducible apply Block.permanent_keeps
    | exact partsIn_trans (m := [.chans, .adc, .mrg, .frm, .twin, .flt, .regs, .ev, .free]) (by decide) hl | dsimp only)

theorem Block.retryOk_keeps {ps : List Part} {a0 : Block} {b : Block} {id : Nat}
    (h_ : Keeps ps a0 b) (hl : partsIn [.flt] ps = true) :
    Keeps ps a0 (Block.retryOk b id) := by
  unfold Block.retryOk
  try dsimp only
  repeat' (first
    | intro _ | with_reducible exact h_ | with_reducible apply Keeps.ite | with_reducible apply Block.onSite_keeps
    | exact partsIn_trans (m := [.flt]) (by decide) hl | dsimp only)

theorem Block.listWritten_keeps {ps : List Part} {a0 : Block} {b : Block} {ok : Bool}
    (h_ : Keeps ps a0 b) (hl : partsIn [.flash, .flt, .regs, .ev] ps = true) :
    Keeps ps a0 (Block.listWritten b ok) := by
  unfold Block.listWritten
  try dsimp only
  repeat' (first
    | intro _ | with_reducible exact h_ | with_reducible apply Keeps.ite | with_reducible apply Block.onFlash_keeps
    | with_reducible apply Block.onFlt_keeps | with_reducible apply Block.raise_keeps
    | exact partsIn_trans (m := [.flash, .flt, .regs, .ev]) (by decide) hl | split | dsimp only)

theorem Block.restoreEffect_keeps {ps : List Part} {a0 : Block} {b : Block} {id : Nat}
    (h_ : Keeps ps a0 b) (hl : partsIn [.chans, .adc, .mrg, .frm, .flt, .regs] ps = true) :
    Keeps ps a0 (Block.restoreEffect b id) := by
  unfold Block.restoreEffect
  try dsimp only
  repeat' (first
    | intro _ | with_reducible exact h_ | with_reducible apply Keeps.ite | with_reducible apply Block.onAdc_keeps
    | with_reducible apply Block.onChan_keeps | with_reducible apply Block.onLane_keeps
    | with_reducible apply Block.onUplink_keeps | with_reducible apply Block.setReg_keeps
    | with_reducible apply Block.settleFrom_keeps | with_reducible apply Block.planDue_keeps
    | with_reducible apply Block.onSlice_keeps | exact partsIn_trans (m := [.chans, .adc, .mrg, .frm, .flt, .regs]) (by decide) hl
    | split | dsimp only)

theorem Block.restoreOne_keeps {ps : List Part} {a0 : Block} {b : Block} {id : Nat}
    (h_ : Keeps ps a0 b) (hl : partsIn [.flash, .chans, .adc, .mrg, .frm, .flt, .regs, .ev] ps = true) :
    Keeps ps a0 (Block.restoreOne b id) := by
  unfold Block.restoreOne
  try dsimp only
  repeat' (first
    | intro _ | with_reducible exact h_ | with_reducible apply Block.onFlash_keeps | with_reducible apply Block.onFlt_keeps
    | with_reducible apply Block.raise_keeps | with_reducible apply Block.restoreEffect_keeps
    | exact partsIn_trans (m := [.flash, .chans, .adc, .mrg, .frm, .flt, .regs, .ev]) (by decide) hl | split | dsimp only)

theorem Block.restoreWrite_keeps {ps : List Part} {a0 : Block} {b : Block} {h : Hdr} {id : Nat}
    (h_ : Keeps ps a0 b) (hl : partsIn [.flash, .chans, .adc, .queues, .mrg, .frm, .twin, .flt, .regs, .dict, .ev] ps = true) :
    Keeps ps a0 (Block.restoreWrite b h id) := by
  unfold Block.restoreWrite
  try dsimp only
  repeat' (first
    | intro _ | with_reducible exact h_ | with_reducible apply Keeps.ite | with_reducible apply Keeps.forEach
    | with_reducible apply Block.ack_keeps | with_reducible apply Block.refuseKey_keeps
    | with_reducible apply Block.restoreOne_keeps | with_reducible assumption
    | exact partsIn_trans (m := [.flash, .chans, .adc, .queues, .mrg, .frm, .twin, .flt, .regs, .dict, .ev]) (by decide) hl
    | dsimp only)

theorem Block.retireWrite_keeps {ps : List Part} {a0 : Block} {b : Block} {h : Hdr} {id : Nat}
    (h_ : Keeps ps a0 b) (hl : partsIn [.chans, .adc, .queues, .mrg, .frm, .twin, .flt, .regs, .dict, .ev, .free] ps = true) :
    Keeps ps a0 (Block.retireWrite b h id) := by
  unfold Block.retireWrite
  try dsimp only
  repeat' (first
    | with_reducible exact h_ | with_reducible apply Keeps.ite | with_reducible apply Block.ack_keeps
    | with_reducible apply Block.refuseKey_keeps | with_reducible apply Block.retire_keeps
    | exact partsIn_trans (m := [.chans, .adc, .queues, .mrg, .frm, .twin, .flt, .regs, .dict, .ev, .free]) (by decide) hl
    | dsimp only)

theorem Block.clearLog_keeps {ps : List Part} {a0 : Block} {b : Block} {h : Hdr} {v : Nat}
    (h_ : Keeps ps a0 b) (hl : partsIn [.queues, .mrg, .twin, .flt, .regs, .dict, .ev] ps = true) :
    Keeps ps a0 (Block.clearLog b h v) := by
  unfold Block.clearLog
  try dsimp only
  repeat' (first
    | intro _ | with_reducible exact h_ | with_reducible apply Keeps.ite | with_reducible apply Block.onFlt_keeps
    | with_reducible apply Block.ack_keeps | with_reducible apply Block.refuseKey_keeps
    | exact partsIn_trans (m := [.queues, .mrg, .twin, .flt, .regs, .dict, .ev]) (by decide) hl | dsimp only)

theorem Block.onEnvCh_keeps {ps : List Part} {a0 : Block} {b : Block} {e : Nat} {f : EnvSt → EnvSt}
    (h_ : Keeps ps a0 b) (hl : partsIn [.env] ps = true) :
    Keeps ps a0 (Block.onEnvCh b e f) := by
  unfold Block.onEnvCh
  try dsimp only
  repeat' (first
    | intro _ | with_reducible exact h_ | with_reducible apply Block.onEnv_keeps
    | exact partsIn_trans (m := [.env]) (by decide) hl | dsimp only)

theorem Block.envInvalidate_keeps {ps : List Part} {a0 : Block} {b : Block} {e n : Nat}
    (h_ : Keeps ps a0 b) (hl : partsIn [.env] ps = true) :
    Keeps ps a0 (Block.envInvalidate b e n) := by
  unfold Block.envInvalidate
  try dsimp only
  repeat' (first
    | intro _ | with_reducible exact h_ | with_reducible apply Block.onEnvCh_keeps
    | exact partsIn_trans (m := [.env]) (by decide) hl | dsimp only)

theorem Block.laterReg_keeps {ps : List Part} {a0 : Block} {b : Block} {key v : Nat}
    (h_ : Keeps ps a0 b) (hl : partsIn [.dict] ps = true) :
    Keeps ps a0 (Block.laterReg b key v) := by
  unfold Block.laterReg
  try dsimp only
  repeat' (first
    | intro _ | with_reducible exact h_ | with_reducible apply Keeps.onDictRest (by intro _; first | rfl | (split <;> rfl))
    | with_reducible apply Keeps.onDictRegs (by intro _; first | rfl | (split <;> rfl))
    | exact partsIn_trans (m := [.dict]) (by decide) hl | dsimp only | with_reducible apply Keeps.dict)

theorem Block.envResult_keeps {ps : List Part} {a0 : Block} {b : Block} {e : Nat}
    (h_ : Keeps ps a0 b) (hl : partsIn [.regs, .dict, .ev, .env] ps = true) :
    Keeps ps a0 (Block.envResult b e) := by
  unfold Block.envResult
  try dsimp only
  repeat' (first
    | intro _ | with_reducible exact h_ | with_reducible apply Block.raiseOnce_keeps | with_reducible apply Block.onEnvCh_keeps
    | with_reducible apply Block.laterReg_keeps | exact partsIn_trans (m := [.regs, .dict, .ev, .env]) (by decide) hl | split
    | dsimp only)

theorem Block.envRange_keeps {ps : List Part} {a0 : Block} {b : Block} {e code range : Nat}
    (h_ : Keeps ps a0 b) (hl : partsIn [.env] ps = true) :
    Keeps ps a0 (Block.envRange b e code range) := by
  unfold Block.envRange
  try dsimp only
  repeat' (first
    | intro _ | with_reducible exact h_ | with_reducible apply Keeps.ite | with_reducible apply Block.onEnvCh_keeps
    | with_reducible apply Block.envInvalidate_keeps | exact partsIn_trans (m := [.env]) (by decide) hl | dsimp only)

theorem Block.envSample_keeps {ps : List Part} {a0 : Block} {b : Block} {e code : Nat} {settling fault supply : Bool} {range : Nat}
    (h_ : Keeps ps a0 b) (hl : partsIn [.regs, .dict, .ev, .env] ps = true) :
    Keeps ps a0 (Block.envSample b e code settling fault supply range) := by
  unfold Block.envSample
  try dsimp only
  repeat' (first
    | intro _ | with_reducible exact h_ | with_reducible apply Keeps.ite | with_reducible apply Block.bump_keeps
    | with_reducible apply Block.raiseOnce_keeps | with_reducible apply Block.onEnvCh_keeps
    | with_reducible apply Block.envResult_keeps | with_reducible apply Block.envRange_keeps
    | exact partsIn_trans (m := [.regs, .dict, .ev, .env]) (by decide) hl | dsimp only)

theorem Block.envConfigSet_keeps {ps : List Part} {a0 : Block} {b : Block} {e old new : Nat}
    (h_ : Keeps ps a0 b) (hl : partsIn [.env] ps = true) :
    Keeps ps a0 (Block.envConfigSet b e old new) := by
  unfold Block.envConfigSet
  try dsimp only
  repeat' (first
    | intro _ | with_reducible exact h_ | with_reducible apply Keeps.ite | with_reducible apply Block.onEnvCh_keeps
    | with_reducible apply Block.envInvalidate_keeps | exact partsIn_trans (m := [.env]) (by decide) hl | dsimp only)

theorem Block.envFaultIn_keeps {ps : List Part} {a0 : Block} {b : Block} {e : Nat}
    (h_ : Keeps ps a0 b) (hl : partsIn [.regs, .ev, .env] ps = true) :
    Keeps ps a0 (Block.envFaultIn b e) := by
  unfold Block.envFaultIn
  try dsimp only
  repeat' (first
    | intro _ | with_reducible exact h_ | with_reducible apply Keeps.forEach | with_reducible apply Block.raise_keeps
    | with_reducible apply Block.onEnvCh_keeps | with_reducible assumption
    | exact partsIn_trans (m := [.regs, .ev, .env]) (by decide) hl | dsimp only)

theorem Block.envFaultOut_keeps {ps : List Part} {a0 : Block} {b : Block} {e : Nat}
    (h_ : Keeps ps a0 b) (hl : partsIn [.regs, .ev, .env] ps = true) :
    Keeps ps a0 (Block.envFaultOut b e) := by
  unfold Block.envFaultOut
  try dsimp only
  repeat' (first
    | intro _ | with_reducible exact h_ | with_reducible apply Block.raise_keeps | with_reducible apply Block.onEnvCh_keeps
    | with_reducible apply Block.envInvalidate_keeps | exact partsIn_trans (m := [.regs, .ev, .env]) (by decide) hl | dsimp only)

theorem Block.onProbe_keeps {ps : List Part} {a0 : Block} {b : Block} {e : Nat} {f : Plate → Plate}
    (h_ : Keeps ps a0 b) (hl : partsIn [.env] ps = true) :
    Keeps ps a0 (Block.onProbe b e f) := by
  unfold Block.onProbe
  try dsimp only
  repeat' (first
    | intro _ | with_reducible exact h_ | with_reducible apply Block.onEnvCh_keeps
    | exact partsIn_trans (m := [.env]) (by decide) hl | dsimp only)

theorem Block.probeValid_keeps {ps : List Part} {a0 : Block} {b : Block} {e : Nat} {im : List Byte}
    (h_ : Keeps ps a0 b) (hl : partsIn [.env] ps = true) :
    Keeps ps a0 (Block.probeValid b e im) := by
  unfold Block.probeValid
  try dsimp only
  repeat' (first
    | intro _ | with_reducible exact h_ | with_reducible apply Keeps.ite | with_reducible apply Block.envInvalidate_keeps
    | with_reducible apply Block.onProbe_keeps | exact partsIn_trans (m := [.env]) (by decide) hl | dsimp only)

theorem Block.probeFailed_keeps {ps : List Part} {a0 : Block} {b : Block} {e : Nat} {answered : Bool} {check : Nat}
    (h_ : Keeps ps a0 b) (hl : partsIn [.regs, .ev, .env, .free] ps = true) :
    Keeps ps a0 (Block.probeFailed b e answered check) := by
  unfold Block.probeFailed
  try dsimp only
  repeat' (first
    | intro _ | with_reducible exact h_ | with_reducible apply Keeps.ite | with_reducible apply Block.freeNext_keeps
    | with_reducible apply Block.raise_keeps | with_reducible apply Block.onProbe_keeps
    | exact partsIn_trans (m := [.regs, .ev, .env, .free]) (by decide) hl | dsimp only)

theorem Block.probeRead_keeps {ps : List Part} {a0 : Block} {b : Block} {e : Nat} {image : Option (List Byte)}
    (h_ : Keeps ps a0 b) (hl : partsIn [.regs, .ev, .env, .free] ps = true) :
    Keeps ps a0 (Block.probeRead b e image) := by
  unfold Block.probeRead
  try dsimp only
  repeat' (first
    | intro _ | with_reducible exact h_ | with_reducible apply Keeps.ite | with_reducible apply Block.onProbe_keeps
    | with_reducible apply Block.probeValid_keeps | with_reducible apply Block.probeFailed_keeps
    | exact partsIn_trans (m := [.regs, .ev, .env, .free]) (by decide) hl | split | dsimp only)

theorem Block.probeReread_keeps {ps : List Part} {a0 : Block} {b : Block} {e : Nat} {reads : List (Option Word64)}
    (h_ : Keeps ps a0 b) (hl : partsIn [.regs, .ev, .env] ps = true) :
    Keeps ps a0 (Block.probeReread b e reads) := by
  unfold Block.probeReread
  try dsimp only
  repeat' (first
    | intro _ | with_reducible exact h_ | with_reducible apply Keeps.ite | with_reducible apply Block.raise_keeps
    | with_reducible apply Block.onProbe_keeps | exact partsIn_trans (m := [.regs, .ev, .env]) (by decide) hl | dsimp only)

theorem Block.retryReads_keeps {ps : List Part} {a0 : Block} {b : Block}
    (h_ : Keeps ps a0 b) (hl : partsIn [.plate, .env] ps = true) :
    Keeps ps a0 (Block.retryReads b) := by
  unfold Block.retryReads
  try dsimp only
  repeat' (first
    | intro _ | with_reducible exact h_ | with_reducible apply Keeps.ite | with_reducible apply Block.onEnv_keeps
    | with_reducible apply Block.onPlate_keeps | exact partsIn_trans (m := [.plate, .env]) (by decide) hl | split | dsimp only)

theorem Block.outsLow_keeps {ps : List Part} {a0 : Block} {b : Block}
    (h_ : Keeps ps a0 b) (hl : partsIn [.env] ps = true) :
    Keeps ps a0 (Block.outsLow b) := by
  unfold Block.outsLow
  try dsimp only
  repeat' (first
    | intro _ | with_reducible exact h_ | with_reducible apply Keeps.ite | with_reducible apply Block.onEnv_keeps
    | exact partsIn_trans (m := [.env]) (by decide) hl | dsimp only)

theorem Block.outPeriod_keeps {ps : List Part} {a0 : Block} {b : Block} {o : Nat}
    (h_ : Keeps ps a0 b) (hl : partsIn [.env] ps = true) :
    Keeps ps a0 (Block.outPeriod b o) := by
  unfold Block.outPeriod
  try dsimp only
  repeat' (first
    | intro _ | with_reducible exact h_ | with_reducible apply Keeps.ite | with_reducible apply Block.onEnv_keeps
    | exact partsIn_trans (m := [.env]) (by decide) hl | split | dsimp only)

theorem Block.voteSensors_keeps {ps : List Part} {a0 : Block} {b : Block} {readings : List Int}
    (h_ : Keeps ps a0 b) (hl : partsIn [.regs, .ev, .env] ps = true) :
    Keeps ps a0 (Block.voteSensors b readings) := by
  unfold Block.voteSensors
  try dsimp only
  repeat' (first
    | intro _ | with_reducible exact h_ | with_reducible apply Keeps.forEach | with_reducible apply Block.onEnv_keeps
    | with_reducible apply Block.setReg_keeps | with_reducible apply Block.raise_keeps | with_reducible assumption
    | exact partsIn_trans (m := [.regs, .ev, .env]) (by decide) hl | dsimp only)

theorem Block.warnLevel_keeps {ps : List Part} {a0 : Block} {b : Block} {t : Int}
    (h_ : Keeps ps a0 b) (hl : partsIn [.regs, .ev, .env] ps = true) :
    Keeps ps a0 (Block.warnLevel b t) := by
  unfold Block.warnLevel
  try dsimp only
  repeat' (first
    | intro _ | with_reducible exact h_ | with_reducible apply Keeps.ite | with_reducible apply Block.onEnv_keeps
    | with_reducible apply Block.raise_keeps | exact partsIn_trans (m := [.regs, .ev, .env]) (by decide) hl | dsimp only)

theorem Block.throttleLevel_keeps {ps : List Part} {a0 : Block} {b : Block} {t : Int}
    (h_ : Keeps ps a0 b) (hl : partsIn [.twin, .regs, .ev, .env] ps = true) :
    Keeps ps a0 (Block.throttleLevel b t) := by
  unfold Block.throttleLevel
  try dsimp only
  repeat' (first
    | intro _ | with_reducible exact h_ | with_reducible apply Keeps.ite | with_reducible apply Block.onEnv_keeps
    | with_reducible apply Block.raise_keeps | with_reducible apply Block.sourceFail_keeps
    | with_reducible apply Block.sourceClear_keeps | exact partsIn_trans (m := [.twin, .regs, .ev, .env]) (by decide) hl
    | dsimp only)

theorem Block.measureTemp_keeps {ps : List Part} {a0 : Block} {b : Block} {readings : List Int}
    (h_ : Keeps ps a0 b) (hl : partsIn [.bin, .twin, .regs, .ev, .env] ps = true) :
    Keeps ps a0 (Block.measureTemp b readings) := by
  unfold Block.measureTemp
  try dsimp only
  repeat' (first
    | intro _ | with_reducible exact h_ | with_reducible apply Keeps.ite | with_reducible apply Block.onEnv_keeps
    | with_reducible apply Block.setReg_keeps | with_reducible apply Block.compensate_keeps
    | with_reducible apply Block.voteSensors_keeps | with_reducible apply Block.warnLevel_keeps
    | with_reducible apply Block.throttleLevel_keeps | exact partsIn_trans (m := [.bin, .twin, .regs, .ev, .env]) (by decide) hl
    | split | dsimp only)

theorem Block.supplyBegin_keeps {ps : List Part} {a0 : Block} {b : Block} {rail mv : Nat}
    (h_ : Keeps ps a0 b) (hl : partsIn [.regs, .ev, .env] ps = true) :
    Keeps ps a0 (Block.supplyBegin b rail mv) := by
  unfold Block.supplyBegin
  try dsimp only
  repeat' (first
    | intro _ | with_reducible exact h_ | with_reducible apply Keeps.ite | with_reducible apply Block.onEnv_keeps
    | with_reducible apply Block.setReg_keeps | with_reducible apply Block.bump_keeps | with_reducible apply Block.raise_keeps
    | exact partsIn_trans (m := [.regs, .ev, .env]) (by decide) hl | split | dsimp only)

theorem Block.supplyEnd_keeps {ps : List Part} {a0 : Block} {b : Block}
    (h_ : Keeps ps a0 b) (hl : partsIn [.env] ps = true) :
    Keeps ps a0 (Block.supplyEnd b) := by
  unfold Block.supplyEnd
  try dsimp only
  repeat' (first
    | intro _ | with_reducible exact h_ | with_reducible apply Block.onEnv_keeps
    | exact partsIn_trans (m := [.env]) (by decide) hl | dsimp only)

theorem Block.freezeEvents_keeps {ps : List Part} {a0 : Block} {b : Block} {on : Bool}
    (h_ : Keeps ps a0 b) (hl : partsIn [.regs, .ev] ps = true) :
    Keeps ps a0 (Block.freezeEvents b on) := by
  unfold Block.freezeEvents
  try dsimp only
  repeat' (first
    | with_reducible exact h_ | with_reducible apply Block.raise_keeps | exact partsIn_trans (m := [.regs, .ev]) (by decide) hl
    | dsimp only)

theorem Block.haltTraining_keeps {ps : List Part} {a0 : Block} {b : Block}
    (h_ : Keeps ps a0 b) (hl : partsIn [.frm] ps = true) :
    Keeps ps a0 (Block.haltTraining b) := by
  unfold Block.haltTraining
  try dsimp only
  repeat' (first
    | intro _ | with_reducible exact h_ | with_reducible apply Block.onFrm_keeps
    | exact partsIn_trans (m := [.frm]) (by decide) hl | dsimp only)

theorem Block.freezeBegin_keeps {ps : List Part} {a0 : Block} {b : Block}
    (h_ : Keeps ps a0 b) (hl : partsIn [.adc, .frm, .regs, .ev, .env] ps = true) :
    Keeps ps a0 (Block.freezeBegin b) := by
  unfold Block.freezeBegin
  try dsimp only
  repeat' (first
    | intro _ | with_reducible exact h_ | with_reducible apply Block.onAdc_keeps | with_reducible apply Block.onEnv_keeps
    | with_reducible apply Block.freezeEvents_keeps | with_reducible apply Block.haltTraining_keeps
    | exact partsIn_trans (m := [.adc, .frm, .regs, .ev, .env]) (by decide) hl | dsimp only)

theorem Block.freezeEnd_keeps {ps : List Part} {a0 : Block} {b : Block}
    (h_ : Keeps ps a0 b) (hl : partsIn [.adc, .twin, .regs, .ev, .env] ps = true) :
    Keeps ps a0 (Block.freezeEnd b) := by
  unfold Block.freezeEnd
  try dsimp only
  repeat' (first
    | intro _ | with_reducible exact h_ | with_reducible apply Keeps.ite | with_reducible apply Block.onAdc_keeps
    | with_reducible apply Block.onTwin_keeps | with_reducible apply Block.onEnv_keeps
    | with_reducible apply Block.sourceClear_keeps | with_reducible apply Block.freezeEvents_keeps
    | exact partsIn_trans (m := [.adc, .twin, .regs, .ev, .env]) (by decide) hl | dsimp only)

theorem Block.supplyBoundary_keeps {ps : List Part} {a0 : Block} {b : Block}
    (h_ : Keeps ps a0 b) (hl : partsIn [.adc, .frm, .twin, .regs, .ev, .env] ps = true) :
    Keeps ps a0 (Block.supplyBoundary b) := by
  unfold Block.supplyBoundary
  try dsimp only
  repeat' (first
    | intro _ | with_reducible exact h_ | with_reducible apply Keeps.ite | with_reducible apply Block.onTwin_keeps
    | with_reducible apply Block.onEnv_keeps | with_reducible apply Block.bump_keeps | with_reducible apply Block.raise_keeps
    | with_reducible apply Block.sourceFail_keeps | with_reducible apply Block.freezeBegin_keeps
    | exact partsIn_trans (m := [.adc, .frm, .twin, .regs, .ev, .env]) (by decide) hl | dsimp only)

theorem Block.monitorSample_keeps {ps : List Part} {a0 : Block} {b : Block} {k code : Nat}
    (h_ : Keeps ps a0 b) (hl : partsIn [.twin, .regs, .ev] ps = true) :
    Keeps ps a0 (Block.monitorSample b k code) := by
  unfold Block.monitorSample
  try dsimp only
  repeat' (first
    | intro _ | with_reducible exact h_ | with_reducible apply Keeps.ite | with_reducible apply Block.onTwin_keeps
    | with_reducible apply Block.raiseOnce_keeps | with_reducible apply Block.sourceFail_keeps
    | with_reducible apply Block.sourceClear_keeps | exact partsIn_trans (m := [.twin, .regs, .ev]) (by decide) hl | split
    | dsimp only)

theorem Block.lap_keeps {ps : List Part} {a0 : Block} {b : Block}
    (h_ : Keeps ps a0 b) (hl : partsIn [.adc, .regs] ps = true) :
    Keeps ps a0 (Block.lap b) := by
  unfold Block.lap
  try dsimp only
  repeat' (first
    | intro _ | with_reducible exact h_ | with_reducible apply Block.onAdc_keeps | with_reducible apply Block.bump_keeps
    | exact partsIn_trans (m := [.adc, .regs]) (by decide) hl | dsimp only)

theorem Block.regularJob_keeps {ps : List Part} {a0 : Block} {b : Block} {e w t : Nat}
    (h_ : Keeps ps a0 b) (hl : partsIn [.env] ps = true) :
    Keeps ps a0 (Block.regularJob b e w t).1 := by
  unfold Block.regularJob
  try dsimp only
  repeat' (first
    | intro _ | with_reducible exact h_ | with_reducible apply Keeps.ite | with_reducible apply Keeps.iteFst
    | with_reducible apply Keeps.iteSnd | with_reducible apply Block.onEnvCh_keeps
    | exact partsIn_trans (m := [.env]) (by decide) hl | split | dsimp only)

theorem Block.nextRegular_keeps {ps : List Part} {a0 : Block} {b : Block} {t : Nat}
    (h_ : Keeps ps a0 b) (hl : partsIn [.adc, .regs, .env] ps = true) :
    Keeps ps a0 (Block.nextRegular b t).1 := by
  unfold Block.nextRegular
  try dsimp only
  repeat' (first
    | intro _ | with_reducible exact h_ | with_reducible apply Keeps.ite | with_reducible apply Keeps.iteFst
    | with_reducible apply Keeps.iteSnd | with_reducible apply Block.onAdc_keeps | with_reducible apply Block.lap_keeps
    | with_reducible apply Block.regularJob_keeps | exact partsIn_trans (m := [.adc, .regs, .env]) (by decide) hl | split
    | dsimp only)

theorem Block.settleAmp_keeps {ps : List Part} {a0 : Block} {b : Block} {c n : Nat} {v : Amp}
    (h_ : Keeps ps a0 b) (hl : partsIn [.chans] ps = true) :
    Keeps ps a0 (Block.settleAmp b c n v) := by
  unfold Block.settleAmp
  try dsimp only
  repeat' (first
    | intro _ | with_reducible exact h_ | with_reducible apply Keeps.ite | with_reducible apply Block.onChan_keeps
    | exact partsIn_trans (m := [.chans]) (by decide) hl | dsimp only)

theorem Block.pairDone_keeps {ps : List Part} {a0 : Block} {b : Block} {p : Pair} {hg lg : BitVec 12}
    (h_ : Keeps ps a0 b) (hl : partsIn [.chans, .adc] ps = true) :
    Keeps ps a0 (Block.pairDone b p hg lg) := by
  unfold Block.pairDone
  try dsimp only
  repeat' (first
    | intro _ | with_reducible exact h_ | with_reducible apply Keeps.ite | with_reducible apply Block.onAdc_keeps
    | with_reducible apply Block.onChan_keeps | with_reducible apply Block.settleAmp_keeps
    | exact partsIn_trans (m := [.chans, .adc]) (by decide) hl | dsimp only)

theorem Block.pairAbandoned_keeps {ps : List Part} {a0 : Block} {b : Block} {p : Pair}
    (h_ : Keeps ps a0 b) (hl : partsIn [.chans, .adc, .regs, .ev] ps = true) :
    Keeps ps a0 (Block.pairAbandoned b p) := by
  unfold Block.pairAbandoned
  try dsimp only
  repeat' (first
    | intro _ | with_reducible exact h_ | with_reducible apply Keeps.ite | with_reducible apply Block.onAdc_keeps
    | with_reducible apply Block.onChan_keeps | with_reducible apply Block.bump_keeps | with_reducible apply Block.raiseOnce_keeps
    | with_reducible apply Block.settleAmp_keeps | exact partsIn_trans (m := [.chans, .adc, .regs, .ev]) (by decide) hl
    | dsimp only)

theorem Block.sliceConv_keeps {ps : List Part} {a0 : Block} {b : Block} {s : Nat} {v : Conv}
    (h_ : Keeps ps a0 b) (hl : partsIn [.chans, .adc, .mrg, .frm, .twin, .flt, .regs, .ev, .free] ps = true) :
    Keeps ps a0 (Block.sliceConv b s v) := by
  unfold Block.sliceConv
  try dsimp only
  repeat' (first
    | intro _ | with_reducible exact h_ | with_reducible apply Keeps.ite | with_reducible apply Block.bump_keeps
    | with_reducible apply Block.raise_keeps | with_reducible apply Block.onSlice_keeps
    | with_reducible apply Block.permanent_keeps | with_reducible apply Block.transient_keeps
    | exact partsIn_trans (m := [.chans, .adc, .mrg, .frm, .twin, .flt, .regs, .ev, .free]) (by decide) hl | dsimp only)

theorem Block.regularDone_keeps {ps : List Part} {a0 : Block} {b : Block} {e w : Nat} {settling pileup fault supply : Bool} {range level : Nat} {v : Conv}
    (h_ : Keeps ps a0 b) (hl : partsIn [.adc, .twin, .regs, .dict, .ev, .env] ps = true) :
    Keeps ps a0 (Block.regularDone b e w settling pileup fault supply range level v) := by
  unfold Block.regularDone
  try dsimp only
  repeat' (first
    | intro _ | with_reducible exact h_ | with_reducible apply Keeps.ite | with_reducible apply Block.onAdc_keeps
    | with_reducible apply Block.envSample_keeps | with_reducible apply Block.monitorSample_keeps
    | exact partsIn_trans (m := [.adc, .twin, .regs, .dict, .ev, .env]) (by decide) hl | split | dsimp only)

theorem Block.jobDone_keeps {ps : List Part} {a0 : Block} {b : Block} {jobs : List (Nat × Nat × Job)} {codes : List Conv} {j : Nat × Nat × Job}
    (h_ : Keeps ps a0 b) (hl : partsIn [.chans, .adc, .mrg, .frm, .twin, .flt, .regs, .dict, .ev, .env, .free] ps = true) :
    Keeps ps a0 (Block.jobDone b jobs codes j) := by
  unfold Block.jobDone
  try dsimp only
  repeat' (first
    | intro _ | with_reducible exact h_ | with_reducible apply Keeps.ite | with_reducible apply Block.onAdc_keeps
    | with_reducible apply Block.pairDone_keeps | with_reducible apply Block.sliceConv_keeps
    | with_reducible apply Block.regularDone_keeps
    | exact partsIn_trans (m := [.chans, .adc, .mrg, .frm, .twin, .flt, .regs, .dict, .ev, .env, .free]) (by decide) hl | split
    | dsimp only)

theorem Block.completePeriod_keeps {ps : List Part} {a0 : Block} {b : Block} {codes : List Conv}
    (h_ : Keeps ps a0 b) (hl : partsIn [.chans, .adc, .mrg, .frm, .twin, .flt, .regs, .dict, .ev, .env, .free] ps = true) :
    Keeps ps a0 (Block.completePeriod b codes) := by
  unfold Block.completePeriod
  try dsimp only
  repeat' (first
    | intro _ | with_reducible exact h_ | with_reducible apply Keeps.forEach | with_reducible apply Block.onAdc_keeps
    | with_reducible apply Block.jobDone_keeps | with_reducible assumption
    | exact partsIn_trans (m := [.chans, .adc, .mrg, .frm, .twin, .flt, .regs, .dict, .ev, .env, .free]) (by decide) hl
    | dsimp only)

theorem Block.setRank_keeps {ps : List Part} {a0 : Block} {b : Block} {s : Nat} {r : Option Nat}
    (h_ : Keeps ps a0 b) (hl : partsIn [.adc] ps = true) :
    Keeps ps a0 (Block.setRank b s r) := by
  unfold Block.setRank
  try dsimp only
  repeat' (first
    | intro _ | with_reducible exact h_ | with_reducible apply Block.onSlice_keeps
    | exact partsIn_trans (m := [.adc]) (by decide) hl | dsimp only)

theorem Block.startRun_keeps {ps : List Part} {a0 : Block} {b : Block} {s : Option Nat}
    (h_ : Keeps ps a0 b) (hl : partsIn [.adc] ps = true) :
    Keeps ps a0 (Block.startRun b s) := by
  unfold Block.startRun
  try dsimp only
  repeat' (first
    | intro _ | with_reducible exact h_ | with_reducible apply Block.onAdc_keeps
    | exact partsIn_trans (m := [.adc]) (by decide) hl | dsimp only)

theorem Block.adoptCoef_keeps {ps : List Part} {a0 : Block} {b : Block} {c : Nat}
    (h_ : Keeps ps a0 b) (hl : partsIn [.adc] ps = true) :
    Keeps ps a0 (Block.adoptCoef b c) := by
  unfold Block.adoptCoef
  try dsimp only
  repeat' (first
    | intro _ | with_reducible exact h_ | with_reducible apply Block.onAdc_keeps | with_reducible apply Block.onSlice_keeps
    | exact partsIn_trans (m := [.adc]) (by decide) hl | split | dsimp only)

theorem Block.exchange_keeps {ps : List Part} {a0 : Block} {b : Block} {c : Nat}
    (h_ : Keeps ps a0 b) (hl : partsIn [.adc] ps = true) :
    Keeps ps a0 (Block.exchange b c) := by
  unfold Block.exchange
  try dsimp only
  repeat' (first
    | intro _ | with_reducible exact h_ | with_reducible apply Keeps.ite | with_reducible apply Block.onAdc_keeps
    | with_reducible apply Block.onSlice_keeps | with_reducible apply Block.setRank_keeps
    | with_reducible apply Block.startRun_keeps | with_reducible apply Block.adoptCoef_keeps
    | exact partsIn_trans (m := [.adc]) (by decide) hl | split | dsimp only)

theorem Block.rotate_keeps {ps : List Part} {a0 : Block} {b : Block}
    (h_ : Keeps ps a0 b) (hl : partsIn [.adc, .regs, .ev] ps = true) :
    Keeps ps a0 (Block.rotate b) := by
  unfold Block.rotate
  try dsimp only
  repeat' (first
    | with_reducible exact h_ | with_reducible apply Keeps.ite | with_reducible apply Block.bump_keeps
    | with_reducible apply Block.raiseOnce_keeps | with_reducible apply Block.exchange_keeps
    | exact partsIn_trans (m := [.adc, .regs, .ev]) (by decide) hl | split | dsimp only)

theorem Block.exhausted_keeps {ps : List Part} {a0 : Block} {b : Block}
    (h_ : Keeps ps a0 b) (hl : partsIn [.regs, .ev] ps = true) :
    Keeps ps a0 (Block.exhausted b) := by
  unfold Block.exhausted
  try dsimp only
  repeat' (first
    | with_reducible exact h_ | with_reducible apply Block.raise_keeps | exact partsIn_trans (m := [.regs, .ev]) (by decide) hl
    | dsimp only)

theorem Block.planMask_keeps {ps : List Part} {a0 : Block} {b : Block}
    (h_ : Keeps ps a0 b) (hl : partsIn [.sets, .adc, .regs, .ev] ps = true) :
    Keeps ps a0 (Block.planMask b) := by
  unfold Block.planMask
  try dsimp only
  repeat' (first
    | intro _ | with_reducible exact h_ | with_reducible apply Keeps.when | with_reducible apply Block.onSets_keeps
    | with_reducible apply Block.onAdc_keeps | with_reducible apply Block.exhausted_keeps | with_reducible assumption
    | exact partsIn_trans (m := [.sets, .adc, .regs, .ev]) (by decide) hl | split | dsimp only)

theorem Block.dropSlice_keeps {ps : List Part} {a0 : Block} {b : Block} {s : Nat}
    (h_ : Keeps ps a0 b) (hl : partsIn [.sets, .adc, .regs, .ev] ps = true) :
    Keeps ps a0 (Block.dropSlice b s) := by
  unfold Block.dropSlice
  try dsimp only
  repeat' (first
    | intro _ | with_reducible exact h_ | with_reducible apply Block.raise_keeps | with_reducible apply Block.onSlice_keeps
    | with_reducible apply Block.setRank_keeps | with_reducible apply Block.startRun_keeps
    | with_reducible apply Block.planMask_keeps | exact partsIn_trans (m := [.sets, .adc, .regs, .ev]) (by decide) hl | split
    | dsimp only)

theorem Block.retireSlice_keeps {ps : List Part} {a0 : Block} {b : Block} {s : Nat}
    (h_ : Keeps ps a0 b) (hl : partsIn [.sets, .adc, .regs, .ev] ps = true) :
    Keeps ps a0 (Block.retireSlice b s) := by
  unfold Block.retireSlice
  try dsimp only
  repeat' (first
    | with_reducible exact h_ | with_reducible apply Keeps.ite | with_reducible apply Block.setRank_keeps
    | with_reducible apply Block.startRun_keeps | with_reducible apply Block.adoptCoef_keeps
    | with_reducible apply Block.dropSlice_keeps | exact partsIn_trans (m := [.sets, .adc, .regs, .ev]) (by decide) hl | split
    | dsimp only)

theorem Block.retireSlices_keeps {ps : List Part} {a0 : Block} {b : Block}
    (h_ : Keeps ps a0 b) (hl : partsIn [.sets, .adc, .regs, .ev] ps = true) :
    Keeps ps a0 (Block.retireSlices b) := by
  unfold Block.retireSlices
  try dsimp only
  repeat' (first
    | intro _ | with_reducible exact h_ | with_reducible apply Keeps.forEach | with_reducible apply Block.retireSlice_keeps
    | with_reducible assumption | exact partsIn_trans (m := [.sets, .adc, .regs, .ev]) (by decide) hl | dsimp only)

theorem Block.assignNext_keeps {ps : List Part} {a0 : Block} {b : Block} {q : Nat}
    (h_ : Keeps ps a0 b) (hl : partsIn [.adc] ps = true) :
    Keeps ps a0 (Block.assignNext b q) := by
  unfold Block.assignNext
  try dsimp only
  repeat' (first
    | intro _ | with_reducible exact h_ | with_reducible apply Block.onAdc_keeps
    | exact partsIn_trans (m := [.adc]) (by decide) hl | dsimp only)

theorem Block.abandonLate_keeps {ps : List Part} {a0 : Block} {b : Block} {q : Nat}
    (h_ : Keeps ps a0 b) (hl : partsIn [.chans, .adc, .regs, .ev] ps = true) :
    Keeps ps a0 (Block.abandonLate b q) := by
  unfold Block.abandonLate
  try dsimp only
  repeat' (first
    | intro _ | with_reducible exact h_ | with_reducible apply Keeps.forEach | with_reducible apply Block.onAdc_keeps
    | with_reducible apply Block.pairAbandoned_keeps | with_reducible assumption
    | exact partsIn_trans (m := [.chans, .adc, .regs, .ev]) (by decide) hl | dsimp only)

theorem Block.startPeriod_keeps {ps : List Part} {a0 : Block} {b : Block} {q : Nat}
    (h_ : Keeps ps a0 b) (hl : partsIn [.adc, .regs, .env] ps = true) :
    Keeps ps a0 (Block.startPeriod b q) := by
  unfold Block.startPeriod
  try dsimp only
  repeat' (first
    | intro _ | with_reducible exact h_ | with_reducible apply Keeps.forEach | with_reducible apply Block.onAdc_keeps
    | with_reducible apply Block.nextRegular_keeps | with_reducible assumption
    | exact partsIn_trans (m := [.adc, .regs, .env]) (by decide) hl | split | dsimp only)

theorem Block.countRun_keeps {ps : List Part} {a0 : Block} {b : Block}
    (h_ : Keeps ps a0 b) (hl : partsIn [.adc] ps = true) :
    Keeps ps a0 (Block.countRun b) := by
  unfold Block.countRun
  try dsimp only
  repeat' (first
    | intro _ | with_reducible exact h_ | with_reducible apply Keeps.ite | with_reducible apply Block.onAdc_keeps
    | exact partsIn_trans (m := [.adc]) (by decide) hl | dsimp only)

theorem Block.slotPeriod_keeps {ps : List Part} {a0 : Block} {b : Block} {q : Nat} {codes : List Conv}
    (h_ : Keeps ps a0 b) (hl : partsIn [.sets, .chans, .adc, .mrg, .frm, .twin, .flt, .regs, .dict, .ev, .env, .free] ps = true) :
    Keeps ps a0 (Block.slotPeriod b q codes) := by
  unfold Block.slotPeriod
  try dsimp only
  repeat' (first
    | intro _ | with_reducible exact h_ | with_reducible apply Block.onAdc_keeps | with_reducible apply Block.completePeriod_keeps
    | with_reducible apply Block.rotate_keeps | with_reducible apply Block.retireSlices_keeps
    | with_reducible apply Block.assignNext_keeps | with_reducible apply Block.abandonLate_keeps
    | with_reducible apply Block.startPeriod_keeps | with_reducible apply Block.countRun_keeps
    | exact partsIn_trans (m := [.sets, .chans, .adc, .mrg, .frm, .twin, .flt, .regs, .dict, .ev, .env, .free]) (by decide) hl
    | dsimp only)

theorem Block.runEnd_keeps {ps : List Part} {a0 : Block} {b : Block} {c : Nat} {r : CalResult}
    (h_ : Keeps ps a0 b) (hl : partsIn [.chans, .adc, .mrg, .frm, .twin, .flt, .regs, .ev, .free] ps = true) :
    Keeps ps a0 (Block.runEnd b c r) := by
  unfold Block.runEnd
  try dsimp only
  repeat' (first
    | intro _ | with_reducible exact h_ | with_reducible apply Keeps.ite | with_reducible apply Block.onAdc_keeps
    | with_reducible apply Block.bump_keeps | with_reducible apply Block.raise_keeps | with_reducible apply Block.onSlice_keeps
    | with_reducible apply Block.permanent_keeps | with_reducible apply Block.transient_keeps
    | with_reducible apply Block.retryOk_keeps
    | exact partsIn_trans (m := [.chans, .adc, .mrg, .frm, .twin, .flt, .regs, .ev, .free]) (by decide) hl | dsimp only)

theorem Block.baselineSample_keeps {ps : List Part} {a0 : Block} {b : Block} {c : Nat} {low : Bool} {x : Nat}
    (h_ : Keeps ps a0 b) (hl : partsIn [.chans, .regs, .ev] ps = true) :
    Keeps ps a0 (Block.baselineSample b c low x) := by
  unfold Block.baselineSample
  try dsimp only
  repeat' (first
    | intro _ | with_reducible exact h_ | with_reducible apply Keeps.ite | with_reducible apply Block.onChan_keeps
    | with_reducible apply Block.raiseOnce_keeps | exact partsIn_trans (m := [.chans, .regs, .ev]) (by decide) hl | dsimp only)

theorem Block.applySamples_keeps {ps : List Part} {a0 : Block} {b : Block}
    (h_ : Keeps ps a0 b) (hl : partsIn [.chans, .adc, .regs, .ev] ps = true) :
    Keeps ps a0 (Block.applySamples b) := by
  unfold Block.applySamples
  try dsimp only
  repeat' (first
    | intro _ | with_reducible exact h_ | with_reducible apply Keeps.forEach | with_reducible apply Block.onAdc_keeps
    | with_reducible apply Block.baselineSample_keeps | with_reducible assumption
    | exact partsIn_trans (m := [.chans, .adc, .regs, .ev]) (by decide) hl | dsimp only)

theorem Block.ampWithdrawn_keeps {ps : List Part} {a0 : Block} {b : Block} {c x : Nat}
    (h_ : Keeps ps a0 b) (hl : partsIn [.regs, .ev] ps = true) :
    Keeps ps a0 (Block.ampWithdrawn b c x) := by
  unfold Block.ampWithdrawn
  try dsimp only
  repeat' (first
    | with_reducible exact h_ | with_reducible apply Block.bump_keeps | with_reducible apply Block.raiseOnce_keeps
    | exact partsIn_trans (m := [.regs, .ev]) (by decide) hl | dsimp only)

theorem Block.formRecord_keeps {ps : List Part} {a0 : Block} {b : Block} {c : Nat} {e : Entry}
    (h_ : Keeps ps a0 b) (hl : partsIn [.stk, .regs, .ev] ps = true) :
    Keeps ps a0 (Block.formRecord b c e) := by
  unfold Block.formRecord
  try dsimp only
  repeat' (first
    | intro _ | with_reducible exact h_ | with_reducible apply Block.onStk_keeps | with_reducible apply Block.bump_keeps
    | with_reducible apply Block.ampWithdrawn_keeps | exact partsIn_trans (m := [.stk, .regs, .ev]) (by decide) hl | split
    | dsimp only)

theorem Block.classify_keeps {ps : List Part} {a0 : Block} {b : Block} {c : Nat} {e : Entry}
    (h_ : Keeps ps a0 b) (hl : partsIn [.stk, .regs, .ev] ps = true) :
    Keeps ps a0 (Block.classify b c e) := by
  unfold Block.classify
  try dsimp only
  repeat' (first
    | with_reducible exact h_ | with_reducible apply Block.bump_keeps | with_reducible apply Block.formRecord_keeps
    | exact partsIn_trans (m := [.stk, .regs, .ev]) (by decide) hl | split | dsimp only)

theorem Block.formPrimitive_keeps {ps : List Part} {a0 : Block} {b : Block}
    (h_ : Keeps ps a0 b) (hl : partsIn [.leads, .frm] ps = true) :
    Keeps ps a0 (Block.formPrimitive b) := by
  unfold Block.formPrimitive
  try dsimp only
  repeat' (first
    | intro _ | with_reducible exact h_ | with_reducible apply Keeps.ite | with_reducible apply Block.onFrm_keeps
    | exact partsIn_trans (m := [.leads, .frm]) (by decide) hl | dsimp only | with_reducible apply Keeps.leads)

theorem Block.clearPrimitives_keeps {ps : List Part} {a0 : Block} {b : Block}
    (h_ : Keeps ps a0 b) (hl : partsIn [.leads, .frm] ps = true) :
    Keeps ps a0 (Block.clearPrimitives b) := by
  unfold Block.clearPrimitives
  try dsimp only
  repeat' (first
    | intro _ | with_reducible exact h_ | with_reducible apply Keeps.ite | with_reducible apply Block.onFrm_keeps
    | exact partsIn_trans (m := [.leads, .frm]) (by decide) hl | dsimp only | with_reducible apply Keeps.leads)

end Sys2Proof.Machine
end

