-- ==== Sys2Proof/Laws/FramesData.lean ====
section
/-! SUPPORT. The frame of every operation of stacks, accepts, compression, check values, frames, lanes and entry values: which parts of the block it can change. -/

namespace Sys2Proof.Machine

set_option linter.all false

theorem Block.onStack_keeps {ps : List Part} {a0 : Block} {b : Block} {r : Nat} {f : Stack → Stack}
    (h_ : Keeps ps a0 b) (hl : partsIn [.stk] ps = true) :
    Keeps ps a0 (Block.onStack b r f) := by
  unfold Block.onStack
  try dsimp only
  repeat' (first
    | intro _ | with_reducible exact h_ | with_reducible apply Block.onStk_keeps
    | exact partsIn_trans (m := [.stk]) (by decide) hl | dsimp only)

theorem Block.clearDirectory_keeps {ps : List Part} {a0 : Block} {b : Block}
    (h_ : Keeps ps a0 b) (hl : partsIn [.stk] ps = true) :
    Keeps ps a0 (Block.clearDirectory b) := by
  unfold Block.clearDirectory
  try dsimp only
  repeat' (first
    | intro _ | with_reducible exact h_ | with_reducible apply Block.onStk_keeps
    | exact partsIn_trans (m := [.stk]) (by decide) hl | dsimp only)

theorem Block.rewind_keeps {ps : List Part} {a0 : Block} {b : Block} {r : Nat}
    (h_ : Keeps ps a0 b) (hl : partsIn [.stk] ps = true) :
    Keeps ps a0 (Block.rewind b r) := by
  unfold Block.rewind
  try dsimp only
  repeat' (first
    | intro _ | with_reducible exact h_ | with_reducible apply Keeps.ite | with_reducible apply Block.onStack_keeps
    | exact partsIn_trans (m := [.stk]) (by decide) hl | dsimp only)

theorem Block.releaseStack_keeps {ps : List Part} {a0 : Block} {b : Block} {last r : Nat}
    (h_ : Keeps ps a0 b) (hl : partsIn [.stk, .regs] ps = true) :
    Keeps ps a0 (Block.releaseStack b last r) := by
  unfold Block.releaseStack
  try dsimp only
  repeat' (first
    | intro _ | with_reducible exact h_ | with_reducible apply Keeps.ite | with_reducible apply Block.bump_keeps
    | with_reducible apply Block.onStack_keeps | exact partsIn_trans (m := [.stk, .regs]) (by decide) hl | dsimp only)

theorem Block.release_keeps {ps : List Part} {a0 : Block} {b : Block} {last : Nat}
    (h_ : Keeps ps a0 b) (hl : partsIn [.stk, .regs] ps = true) :
    Keeps ps a0 (Block.release b last) := by
  unfold Block.release
  try dsimp only
  repeat' (first
    | intro _ | with_reducible exact h_ | with_reducible apply Keeps.forEach | with_reducible apply Block.releaseStack_keeps
    | with_reducible assumption | exact partsIn_trans (m := [.stk, .regs]) (by decide) hl | dsimp only)

theorem Block.evict_keeps {ps : List Part} {a0 : Block} {b : Block} {r : Nat}
    (h_ : Keeps ps a0 b) (hl : partsIn [.stk, .regs, .ev] ps = true) :
    Keeps ps a0 (Block.evict b r) := by
  unfold Block.evict
  try dsimp only
  repeat' (first
    | intro _ | with_reducible exact h_ | with_reducible apply Block.bump_keeps | with_reducible apply Block.raiseOnce_keeps
    | with_reducible apply Block.onStack_keeps | exact partsIn_trans (m := [.stk, .regs, .ev]) (by decide) hl | split | dsimp only)

theorem Block.place_keeps {ps : List Part} {a0 : Block} {b : Block} {r x : Nat} {w : Word64}
    (h_ : Keeps ps a0 b) (hl : partsIn [.stk, .regs] ps = true) :
    Keeps ps a0 (Block.place b r x w) := by
  unfold Block.place
  try dsimp only
  repeat' (first
    | intro _ | with_reducible exact h_ | with_reducible apply Block.bump_keeps | with_reducible apply Block.peak_keeps
    | with_reducible apply Block.onStack_keeps | exact partsIn_trans (m := [.stk, .regs]) (by decide) hl | dsimp only)

theorem Block.writeStack_keeps {ps : List Part} {a0 : Block} {b : Block} {r x : Nat} {w : Word64}
    (h_ : Keeps ps a0 b) (hl : partsIn [.stk, .regs, .ev] ps = true) :
    Keeps ps a0 (Block.writeStack b r x w) := by
  unfold Block.writeStack
  try dsimp only
  repeat' (first
    | intro _ | with_reducible exact h_ | with_reducible apply Keeps.ite | with_reducible apply Block.bump_keeps
    | with_reducible apply Block.raiseOnce_keeps | with_reducible apply Block.onStack_keeps
    | with_reducible apply Block.evict_keeps | with_reducible apply Block.place_keeps
    | exact partsIn_trans (m := [.stk, .regs, .ev]) (by decide) hl | split | dsimp only)

theorem Block.stackWrite_keeps {ps : List Part} {a0 : Block} {b : Block} {r : Nat}
    (h_ : Keeps ps a0 b) (hl : partsIn [.stk, .regs, .ev] ps = true) :
    Keeps ps a0 (Block.stackWrite b r) := by
  unfold Block.stackWrite
  try dsimp only
  repeat' (first
    | intro _ | with_reducible exact h_ | with_reducible apply Keeps.forEach | with_reducible apply Block.onStk_keeps
    | with_reducible apply Block.writeStack_keeps | with_reducible assumption
    | exact partsIn_trans (m := [.stk, .regs, .ev]) (by decide) hl | dsimp only)

theorem Block.streamOut_keeps {ps : List Part} {a0 : Block} {b : Block}
    (h_ : Keeps ps a0 b) (hl : partsIn [.stk, .queues, .mrg, .regs, .ev] ps = true) :
    Keeps ps a0 (Block.streamOut b) := by
  unfold Block.streamOut
  try dsimp only
  repeat' (first
    | intro _ | with_reducible exact h_ | with_reducible apply Keeps.ite | with_reducible apply Keeps.forEach
    | with_reducible apply Block.onStk_keeps | with_reducible apply Block.bump_keeps | with_reducible apply Block.raise_keeps
    | with_reducible apply Block.qWrite_keeps | with_reducible assumption
    | exact partsIn_trans (m := [.stk, .queues, .mrg, .regs, .ev]) (by decide) hl | split | dsimp only)

theorem Block.openScans_keeps {ps : List Part} {a0 : Block} {b : Block}
    (h_ : Keeps ps a0 b) (hl : partsIn [.stk] ps = true) :
    Keeps ps a0 (Block.openScans b) := by
  unfold Block.openScans
  try dsimp only
  repeat' (first
    | intro _ | with_reducible exact h_ | with_reducible apply Keeps.foldl | with_reducible apply Block.onStk_keeps
    | with_reducible assumption | exact partsIn_trans (m := [.stk]) (by decide) hl | dsimp only)

theorem Block.spend_keeps {ps : List Part} {a0 : Block} {b : Block} {r n : Nat}
    (h_ : Keeps ps a0 b) (hl : partsIn [.stk] ps = true) :
    Keeps ps a0 (Block.spend b r n) := by
  unfold Block.spend
  try dsimp only
  repeat' (first
    | intro _ | with_reducible exact h_ | with_reducible apply Keeps.ite | with_reducible apply Block.onStk_keeps
    | exact partsIn_trans (m := [.stk]) (by decide) hl | dsimp only)

theorem Block.onEntry_keeps {ps : List Part} {a0 : Block} {b : Block} {r addr : Nat} {f : StackEntry → StackEntry}
    (h_ : Keeps ps a0 b) (hl : partsIn [.stk] ps = true) :
    Keeps ps a0 (Block.onEntry b r addr f) := by
  unfold Block.onEntry
  try dsimp only
  repeat' (first
    | intro _ | with_reducible exact h_ | with_reducible apply Keeps.ite | with_reducible apply Block.onStack_keeps
    | exact partsIn_trans (m := [.stk]) (by decide) hl | dsimp only)

theorem Block.passedOld_keeps {ps : List Part} {a0 : Block} {b : Block} {r addr : Nat} {e : StackEntry}
    (h_ : Keeps ps a0 b) (hl : partsIn [.stk, .regs] ps = true) :
    Keeps ps a0 (Block.passedOld b r addr e) := by
  unfold Block.passedOld
  try dsimp only
  repeat' (first
    | intro _ | with_reducible exact h_ | with_reducible apply Keeps.ite | with_reducible apply Block.bump_keeps
    | with_reducible apply Block.onStack_keeps | with_reducible apply Block.onEntry_keeps
    | exact partsIn_trans (m := [.stk, .regs]) (by decide) hl | dsimp only)

theorem Block.passEntry_keeps {ps : List Part} {a0 : Block} {b : Block} {a : RegAccept} {r addr : Nat} {out : List Word64}
    (h_ : Keeps ps a0 b) (hl : partsIn [.stk, .regs] ps = true) :
    Keeps ps a0 (Block.passEntry b a r addr out).1 := by
  unfold Block.passEntry
  try dsimp only
  repeat' (first
    | intro _ | with_reducible exact h_ | with_reducible apply Keeps.ite | with_reducible apply Keeps.iteFst
    | with_reducible apply Keeps.iteSnd | with_reducible apply Block.bump_keeps | with_reducible apply Block.onEntry_keeps
    | with_reducible apply Block.passedOld_keeps | exact partsIn_trans (m := [.stk, .regs]) (by decide) hl | split | dsimp only)

theorem Block.stepPart_keeps {ps : List Part} {a0 : Block} {b : Block} {a : RegAccept} {p : ScanPart}
    (h_ : Keeps ps a0 b) (hl : partsIn [.stk, .regs] ps = true) :
    Keeps ps a0 (Block.stepPart b a p).1 := by
  unfold Block.stepPart
  try dsimp only
  repeat' (first
    | intro _ | with_reducible exact h_ | with_reducible apply Keeps.foldl | with_reducible apply Keeps.foldlFst
    | with_reducible apply Keeps.foldlSnd | with_reducible apply Block.spend_keeps | with_reducible apply Block.passEntry_keeps
    | with_reducible assumption | exact partsIn_trans (m := [.stk, .regs]) (by decide) hl | split | dsimp only)

theorem Block.stepParts_keeps {ps : List Part} {a0 : Block} {b : Block} {a : RegAccept} {x0 : List ScanPart}
    (h_ : Keeps ps a0 b) (hl : partsIn [.stk, .regs] ps = true) : Keeps ps a0 (Block.stepParts b a x0).1 := by
  induction x0 generalizing b with
  | nil => exact h_
  | cons p t ih => exact ih (Block.stepPart_keeps h_ hl)

theorem Block.patchHeader_keeps {ps : List Part} {a0 : Block} {b : Block} {h new : Word64}
    (h_ : Keeps ps a0 b) (hl : partsIn [.queues] ps = true) :
    Keeps ps a0 (Block.patchHeader b h new) := by
  unfold Block.patchHeader
  try dsimp only
  repeat' (first
    | intro _ | with_reducible exact h_ | with_reducible apply Keeps.ite | with_reducible apply Block.onQueue_keeps
    | exact partsIn_trans (m := [.queues]) (by decide) hl | split | dsimp only)

theorem Block.countUnknown_keeps {ps : List Part} {a0 : Block} {b : Block} {a : RegAccept}
    (h_ : Keeps ps a0 b) (hl : partsIn [.regs, .ev] ps = true) :
    Keeps ps a0 (Block.countUnknown b a) := by
  unfold Block.countUnknown
  try dsimp only
  repeat' (first
    | with_reducible exact h_ | with_reducible apply Block.bump_keeps | with_reducible apply Block.raise_keeps
    | exact partsIn_trans (m := [.regs, .ev]) (by decide) hl | dsimp only)

theorem Block.countStackWd_keeps {ps : List Part} {a0 : Block} {b : Block} {x : Nat} {w : Word64}
    (h_ : Keeps ps a0 b) (hl : partsIn [.regs, .ev] ps = true) :
    Keeps ps a0 (Block.countStackWd b x w) := by
  unfold Block.countStackWd
  try dsimp only
  repeat' (first
    | with_reducible exact h_ | with_reducible apply Keeps.ite | with_reducible apply Block.bump_keeps
    | with_reducible apply Block.countWithdrawal_keeps | exact partsIn_trans (m := [.regs, .ev]) (by decide) hl | dsimp only)

theorem Block.placeOut_keeps {ps : List Part} {a0 : Block} {b : Block} {a : RegAccept} {p : Placed}
    (h_ : Keeps ps a0 b) (hl : partsIn [.queues, .mrg, .regs, .ev] ps = true) :
    Keeps ps a0 (Block.placeOut b a p) := by
  unfold Block.placeOut
  try dsimp only
  repeat' (first
    | intro _ | with_reducible exact h_ | with_reducible apply Keeps.ite | with_reducible apply Block.qWrite_keeps
    | with_reducible apply Block.qWriteGroup_keeps | with_reducible apply Block.countStackWd_keeps
    | exact partsIn_trans (m := [.queues, .mrg, .regs, .ev]) (by decide) hl | split | dsimp only)

theorem Block.placeMark_keeps {ps : List Part} {a0 : Block} {b : Block} {a : RegAccept}
    (h_ : Keeps ps a0 b) (hl : partsIn [.queues, .mrg, .regs, .ev] ps = true) :
    Keeps ps a0 (Block.placeMark b a) := by
  unfold Block.placeMark
  try dsimp only
  repeat' (first
    | with_reducible exact h_ | with_reducible apply Block.qWrite_keeps
    | exact partsIn_trans (m := [.queues, .mrg, .regs, .ev]) (by decide) hl | split | dsimp only)

theorem Block.placeHeader_keeps {ps : List Part} {a0 : Block} {b : Block} {s : Scan} {h : Word64}
    (h_ : Keeps ps a0 b) (hl : partsIn [.queues, .mrg, .regs, .ev] ps = true) :
    Keeps ps a0 (Block.placeHeader b s h) := by
  unfold Block.placeHeader
  try dsimp only
  repeat' (first
    | with_reducible exact h_ | with_reducible apply Block.bump_keeps | with_reducible apply Block.qWrite_keeps
    | with_reducible apply Block.placeMark_keeps | exact partsIn_trans (m := [.queues, .mrg, .regs, .ev]) (by decide) hl
    | dsimp only)

theorem Block.waitingMarks_keeps {ps : List Part} {a0 : Block} {b : Block}
    (h_ : Keeps ps a0 b) (hl : partsIn [.stk, .queues, .mrg, .regs, .ev] ps = true) :
    Keeps ps a0 (Block.waitingMarks b) := by
  unfold Block.waitingMarks
  try dsimp only
  repeat' (first
    | intro _ | with_reducible exact h_ | with_reducible apply Keeps.ite | with_reducible apply Keeps.forEach
    | with_reducible apply Block.onStk_keeps | with_reducible apply Block.placeMark_keeps | with_reducible assumption
    | exact partsIn_trans (m := [.stk, .queues, .mrg, .regs, .ev]) (by decide) hl | dsimp only)

theorem Block.settleCount_keeps {ps : List Part} {a0 : Block} {b : Block} {s : Scan} {done : Bool}
    (h_ : Keeps ps a0 b) (hl : partsIn [.queues, .regs, .ev] ps = true) :
    Keeps ps a0 (Block.settleCount b s done).1 := by
  unfold Block.settleCount
  try dsimp only
  repeat' (first
    | with_reducible exact h_ | with_reducible apply Keeps.ite | with_reducible apply Keeps.iteFst
    | with_reducible apply Keeps.iteSnd | with_reducible apply Block.patchHeader_keeps
    | with_reducible apply Block.countUnknown_keeps | exact partsIn_trans (m := [.queues, .regs, .ev]) (by decide) hl | split
    | dsimp only)

theorem Block.backlogNotice_keeps {ps : List Part} {a0 : Block} {b : Block} {s : Scan} {parts : List ScanPart}
    (h_ : Keeps ps a0 b) (hl : partsIn [.regs, .ev] ps = true) :
    Keeps ps a0 (Block.backlogNotice b s parts) := by
  unfold Block.backlogNotice
  try dsimp only
  repeat' (first
    | with_reducible exact h_ | with_reducible apply Keeps.ite | with_reducible apply Block.raise_keeps
    | exact partsIn_trans (m := [.regs, .ev]) (by decide) hl | split | dsimp only)

theorem Block.stepScan_keeps {ps : List Part} {a0 : Block} {b : Block} {s : Scan}
    (h_ : Keeps ps a0 b) (hl : partsIn [.stk, .queues, .mrg, .regs, .ev] ps = true) :
    Keeps ps a0 (Block.stepScan b s).1 := by
  unfold Block.stepScan
  try dsimp only
  repeat' (first
    | intro _ | with_reducible exact h_ | with_reducible apply Keeps.ite | with_reducible apply Keeps.forEach
    | with_reducible apply Keeps.iteFst | with_reducible apply Keeps.iteSnd | with_reducible apply Block.peak_keeps
    | with_reducible apply Block.qClose_keeps | with_reducible apply Block.stepParts_keeps
    | with_reducible apply Block.countUnknown_keeps | with_reducible apply Block.placeOut_keeps
    | with_reducible apply Block.placeHeader_keeps | with_reducible apply Block.settleCount_keeps
    | with_reducible apply Block.backlogNotice_keeps | with_reducible assumption
    | exact partsIn_trans (m := [.stk, .queues, .mrg, .regs, .ev]) (by decide) hl | dsimp only)

theorem Block.stepScans_keeps {ps : List Part} {a0 : Block} {x0 : Nat} {x1 : Block}
    (h_ : Keeps ps a0 x1) (hl : partsIn [.stk, .queues, .mrg, .regs, .ev] ps = true) : Keeps ps a0 (Block.stepScans x0 x1) := by
  induction x0 generalizing x1 with
  | zero => exact h_
  | succ n ih =>
    unfold Block.stepScans
    dsimp only
    repeat' (first
      | with_reducible exact h_ | with_reducible apply ih | with_reducible apply Block.onStk_keeps
      | with_reducible apply Block.stepScan_keeps
      | exact partsIn_trans (m := [.stk, .queues, .mrg, .regs, .ev]) (by decide) hl | split)

theorem Block.rewinds_keeps {ps : List Part} {a0 : Block} {b : Block}
    (h_ : Keeps ps a0 b) (hl : partsIn [.stk] ps = true) :
    Keeps ps a0 (Block.rewinds b) := by
  unfold Block.rewinds
  try dsimp only
  repeat' (first
    | intro _ | with_reducible exact h_ | with_reducible apply Keeps.forEach | with_reducible apply Block.rewind_keeps
    | with_reducible assumption | exact partsIn_trans (m := [.stk]) (by decide) hl | dsimp only)

theorem Block.windowRead_keeps {ps : List Part} {a0 : Block} {b : Block}
    (h_ : Keeps ps a0 b) (hl : partsIn [.stk, .queues, .mrg, .regs, .ev] ps = true) :
    Keeps ps a0 (Block.windowRead b) := by
  unfold Block.windowRead
  try dsimp only
  repeat' (first
    | with_reducible exact h_ | with_reducible apply Block.openScans_keeps | with_reducible apply Block.waitingMarks_keeps
    | with_reducible apply Block.stepScans_keeps | with_reducible apply Block.rewinds_keeps
    | exact partsIn_trans (m := [.stk, .queues, .mrg, .regs, .ev]) (by decide) hl | dsimp only)

theorem Block.resyncStack_keeps {ps : List Part} {a0 : Block} {b : Block} {r : Nat}
    (h_ : Keeps ps a0 b) (hl : partsIn [.stk] ps = true) :
    Keeps ps a0 (Block.resyncStack b r) := by
  unfold Block.resyncStack
  try dsimp only
  repeat' (first
    | intro _ | with_reducible exact h_ | with_reducible apply Keeps.ite | with_reducible apply Block.onStack_keeps
    | with_reducible apply Block.rewind_keeps | exact partsIn_trans (m := [.stk]) (by decide) hl | dsimp only)

theorem Block.clearRegs_keeps {ps : List Part} {a0 : Block} {b : Block} {lo hi : Nat}
    (h_ : Keeps ps a0 b) (hl : partsIn [.regs] ps = true) :
    Keeps ps a0 (Block.clearRegs b lo hi) := by
  unfold Block.clearRegs
  try dsimp only
  repeat' (first
    | intro _ | with_reducible exact h_ | with_reducible apply Keeps.onDictRest (by intro _; first | rfl | (split <;> rfl))
    | with_reducible apply Keeps.onDictRegs (by intro _; first | rfl | (split <;> rfl))
    | exact partsIn_trans (m := [.regs]) (by decide) hl | dsimp only)

theorem Block.resyncStacks_keeps {ps : List Part} {a0 : Block} {b : Block}
    (h_ : Keeps ps a0 b) (hl : partsIn [.stk, .queues, .mrg, .regs, .ev] ps = true) :
    Keeps ps a0 (Block.resyncStacks b) := by
  unfold Block.resyncStacks
  try dsimp only
  repeat' (first
    | intro _ | with_reducible exact h_ | with_reducible apply Keeps.forEach | with_reducible apply Keeps.foldl
    | with_reducible apply Block.onStk_keeps | with_reducible apply Block.qClose_keeps
    | with_reducible apply Block.waitingMarks_keeps | with_reducible apply Block.stepScans_keeps
    | with_reducible apply Block.rewinds_keeps | with_reducible apply Block.resyncStack_keeps
    | with_reducible apply Block.clearRegs_keeps | with_reducible assumption
    | exact partsIn_trans (m := [.stk, .queues, .mrg, .regs, .ev]) (by decide) hl | dsimp only)

theorem Block.poisonEntry_keeps {ps : List Part} {a0 : Block} {b : Block} {r addr : Nat}
    (h_ : Keeps ps a0 b) (hl : partsIn [.stk, .regs] ps = true) :
    Keeps ps a0 (Block.poisonEntry b r addr) := by
  unfold Block.poisonEntry
  try dsimp only
  repeat' (first
    | intro _ | with_reducible exact h_ | with_reducible apply Block.bump_keeps | with_reducible apply Block.onEntry_keeps
    | exact partsIn_trans (m := [.stk, .regs]) (by decide) hl | dsimp only)

theorem Block.poisonDirectory_keeps {ps : List Part} {a0 : Block} {b : Block} {r index : Nat}
    (h_ : Keeps ps a0 b) (hl : partsIn [.stk, .regs] ps = true) :
    Keeps ps a0 (Block.poisonDirectory b r index) := by
  unfold Block.poisonDirectory
  try dsimp only
  repeat' (first
    | intro _ | with_reducible exact h_ | with_reducible apply Block.bump_keeps | with_reducible apply Block.onStack_keeps
    | exact partsIn_trans (m := [.stk, .regs]) (by decide) hl | dsimp only)

theorem Block.commandInvalid_keeps {ps : List Part} {a0 : Block} {b : Block} {type : Nat}
    (h_ : Keeps ps a0 b) (hl : partsIn [.regs, .ev] ps = true) :
    Keeps ps a0 (Block.commandInvalid b type) := by
  unfold Block.commandInvalid
  try dsimp only
  repeat' (first
    | with_reducible exact h_ | with_reducible apply Block.bump_keeps | with_reducible apply Block.raise_keeps
    | exact partsIn_trans (m := [.regs, .ev]) (by decide) hl | dsimp only)

theorem Block.commandLate_keeps {ps : List Part} {a0 : Block} {b : Block} {type target : Nat}
    (h_ : Keeps ps a0 b) (hl : partsIn [.regs, .ev] ps = true) :
    Keeps ps a0 (Block.commandLate b type target) := by
  unfold Block.commandLate
  try dsimp only
  repeat' (first
    | with_reducible exact h_ | with_reducible apply Block.bump_keeps | with_reducible apply Block.raise_keeps
    | exact partsIn_trans (m := [.regs, .ev]) (by decide) hl | dsimp only)

theorem Block.admits_keeps {ps : List Part} {a0 : Block} {b : Block} {x kind f : Nat}
    (h_ : Keeps ps a0 b) (hl : partsIn [.regs, .ev] ps = true) :
    Keeps ps a0 (Block.admits b x kind f).2 := by
  unfold Block.admits
  try dsimp only
  repeat' (first
    | intro _ | with_reducible exact h_ | with_reducible apply Keeps.ite | with_reducible apply Keeps.iteFst
    | with_reducible apply Keeps.iteSnd | with_reducible apply Block.bump_keeps | with_reducible apply Block.raiseOnce_keeps
    | exact partsIn_trans (m := [.regs, .ev]) (by decide) hl | split | dsimp only)

theorem Block.noteAccept_keeps {ps : List Part} {a0 : Block} {b : Block} {x kind f : Nat}
    (h_ : Keeps ps a0 b) (hl : partsIn [.acc, .regs] ps = true) :
    Keeps ps a0 (Block.noteAccept b x kind f) := by
  unfold Block.noteAccept
  try dsimp only
  repeat' (first
    | intro _ | with_reducible exact h_ | with_reducible apply Block.onAcc_keeps | with_reducible apply Block.bump_keeps
    | exact partsIn_trans (m := [.acc, .regs]) (by decide) hl | dsimp only)

theorem Block.forward_keeps {ps : List Part} {a0 : Block} {b : Block} {x kind sum : Nat}
    (h_ : Keeps ps a0 b) (hl : partsIn [.acc, .regs, .ev] ps = true) :
    Keeps ps a0 (Block.forward b x kind sum) := by
  unfold Block.forward
  try dsimp only
  repeat' (first
    | intro _ | with_reducible exact h_ | with_reducible apply Keeps.ite | with_reducible apply Block.onAcc_keeps
    | with_reducible apply Block.setReg_keeps | with_reducible apply Block.raise_keeps
    | with_reducible apply Block.noteAccept_keeps | exact partsIn_trans (m := [.acc, .regs, .ev]) (by decide) hl | dsimp only)

theorem Block.forwardSelf_keeps {ps : List Part} {a0 : Block} {b : Block} {x0 : List SelfTrig}
    (h_ : Keeps ps a0 b) (hl : partsIn [.acc, .regs, .ev] ps = true) : Keeps ps a0 (Block.forwardSelf b x0) := by
  induction x0 generalizing b with
  | nil => exact Block.onAcc_keeps h_ (partsIn_trans (m := [.acc, .regs, .ev]) (by decide) hl)
  | cons s t ih =>
    unfold Block.forwardSelf
    dsimp only
    repeat' (first
      | with_reducible exact h_ | with_reducible apply Keeps.ite | with_reducible apply ih | with_reducible apply Block.forward_keeps
      | with_reducible apply Block.onAcc_keeps | with_reducible apply Block.raise_keeps | with_reducible apply Block.admits_keeps
      | exact partsIn_trans (m := [.acc, .regs, .ev]) (by decide) hl)

theorem Block.chooseForced_keeps {ps : List Part} {a0 : Block} {b : Block}
    (h_ : Keeps ps a0 b) (hl : partsIn [.acc, .regs, .ev] ps = true) :
    Keeps ps a0 (Block.chooseForced b) := by
  unfold Block.chooseForced
  try dsimp only
  repeat' (first
    | with_reducible exact h_ | with_reducible apply Keeps.ite | with_reducible apply Keeps.iteFst
    | with_reducible apply Keeps.iteSnd | with_reducible apply Block.admits_keeps | with_reducible apply Block.forward_keeps
    | exact partsIn_trans (m := [.acc, .regs, .ev]) (by decide) hl | dsimp only)

theorem Block.chooseOwn_keeps {ps : List Part} {a0 : Block} {b : Block} {external : Bool}
    (h_ : Keeps ps a0 b) (hl : partsIn [.acc, .regs, .ev] ps = true) :
    Keeps ps a0 (Block.chooseOwn b external) := by
  unfold Block.chooseOwn
  try dsimp only
  repeat' (first
    | intro _ | with_reducible exact h_ | with_reducible apply Keeps.ite | with_reducible apply Block.onAcc_keeps
    | with_reducible apply Block.forwardSelf_keeps | with_reducible apply Block.chooseForced_keeps
    | exact partsIn_trans (m := [.acc, .regs, .ev]) (by decide) hl | dsimp only)

theorem Block.chooseAfter_keeps {ps : List Part} {a0 : Block} {b : Block} {external : Bool}
    (h_ : Keeps ps a0 b) (hl : partsIn [.acc, .regs, .ev] ps = true) :
    Keeps ps a0 (Block.chooseAfter b external) := by
  unfold Block.chooseAfter
  try dsimp only
  repeat' (first
    | intro _ | with_reducible exact h_ | with_reducible apply Block.onAcc_keeps | with_reducible apply Block.chooseOwn_keeps
    | exact partsIn_trans (m := [.acc, .regs, .ev]) (by decide) hl | split | dsimp only)

theorem Block.chooseCommand_keeps {ps : List Part} {a0 : Block} {b : Block}
    (h_ : Keeps ps a0 b) (hl : partsIn [.acc, .regs, .ev] ps = true) :
    Keeps ps a0 (Block.chooseCommand b) := by
  unfold Block.chooseCommand
  try dsimp only
  repeat' (first
    | intro _ | with_reducible exact h_ | with_reducible apply Keeps.ite | with_reducible apply Keeps.iteFst
    | with_reducible apply Keeps.iteSnd | with_reducible apply Block.onAcc_keeps | with_reducible apply Block.admits_keeps
    | with_reducible apply Block.forward_keeps | with_reducible apply Block.chooseAfter_keeps
    | exact partsIn_trans (m := [.acc, .regs, .ev]) (by decide) hl | split | dsimp only)

theorem Block.register_keeps {ps : List Part} {a0 : Block} {b : Block} {x kind : Nat} {mark : Option Word64}
    (h_ : Keeps ps a0 b) (hl : partsIn [.stk, .queues, .mrg, .regs, .ev] ps = true) :
    Keeps ps a0 (Block.register b x kind mark) := by
  unfold Block.register
  try dsimp only
  repeat' (first
    | intro _ | with_reducible exact h_ | with_reducible apply Keeps.ite | with_reducible apply Block.onStk_keeps
    | with_reducible apply Block.bump_keeps | with_reducible apply Block.raise_keeps | with_reducible apply Block.qWrite_keeps
    | exact partsIn_trans (m := [.stk, .queues, .mrg, .regs, .ev]) (by decide) hl | split | dsimp only)

theorem Block.directAccept_keeps {ps : List Part} {a0 : Block} {b : Block} {x kind sum : Nat}
    (h_ : Keeps ps a0 b) (hl : partsIn [.acc, .stk, .queues, .mrg, .regs, .ev] ps = true) :
    Keeps ps a0 (Block.directAccept b x kind sum) := by
  unfold Block.directAccept
  try dsimp only
  repeat' (first
    | with_reducible exact h_ | with_reducible apply Keeps.ite | with_reducible apply Keeps.iteFst
    | with_reducible apply Keeps.iteSnd | with_reducible apply Block.admits_keeps | with_reducible apply Block.noteAccept_keeps
    | with_reducible apply Block.register_keeps
    | exact partsIn_trans (m := [.acc, .stk, .queues, .mrg, .regs, .ev]) (by decide) hl | dsimp only)

theorem Block.directSelf_keeps {ps : List Part} {a0 : Block} {b : Block}
    (h_ : Keeps ps a0 b) (hl : partsIn [.acc, .stk, .queues, .mrg, .regs, .ev] ps = true) :
    Keeps ps a0 (Block.directSelf b) := by
  unfold Block.directSelf
  try dsimp only
  repeat' (first
    | intro _ | with_reducible exact h_ | with_reducible apply Keeps.ite | with_reducible apply Block.onAcc_keeps
    | with_reducible apply Block.directAccept_keeps
    | exact partsIn_trans (m := [.acc, .stk, .queues, .mrg, .regs, .ev]) (by decide) hl | split | dsimp only)

theorem Block.selfTest_keeps {ps : List Part} {a0 : Block} {b : Block} {x sum : Nat}
    (h_ : Keeps ps a0 b) (hl : partsIn [.acc] ps = true) :
    Keeps ps a0 (Block.selfTest b x sum) := by
  unfold Block.selfTest
  try dsimp only
  repeat' (first
    | intro _ | with_reducible exact h_ | with_reducible apply Keeps.ite | with_reducible apply Block.onAcc_keeps
    | exact partsIn_trans (m := [.acc]) (by decide) hl | dsimp only)

theorem Block.primitiveStep_keeps {ps : List Part} {a0 : Block} {b : Block}
    (h_ : Keeps ps a0 b) (hl : partsIn [.leads, .acc, .frm] ps = true) :
    Keeps ps a0 (Block.primitiveStep b) := by
  unfold Block.primitiveStep
  try dsimp only
  repeat' (first
    | intro _ | with_reducible exact h_ | with_reducible apply Keeps.ite | with_reducible apply Block.formPrimitive_keeps
    | with_reducible apply Block.selfTest_keeps | exact partsIn_trans (m := [.leads, .acc, .frm]) (by decide) hl | split
    | dsimp only)

theorem Block.actAccept_keeps {ps : List Part} {a0 : Block} {b : Block} {kind orbit slot : Nat}
    (h_ : Keeps ps a0 b) (hl : partsIn [.acc, .stk, .queues, .mrg, .regs, .ev] ps = true) :
    Keeps ps a0 (Block.actAccept b kind orbit slot) := by
  unfold Block.actAccept
  try dsimp only
  repeat' (first
    | intro _ | with_reducible exact h_ | with_reducible apply Keeps.ite | with_reducible apply Block.onAcc_keeps
    | with_reducible apply Block.bump_keeps | with_reducible apply Block.commandInvalid_keeps
    | with_reducible apply Block.register_keeps | with_reducible apply Block.directAccept_keeps
    | exact partsIn_trans (m := [.acc, .stk, .queues, .mrg, .regs, .ev]) (by decide) hl | split | dsimp only)

theorem Block.onCvu_keeps {ps : List Part} {a0 : Block} {b : Block} {u : Nat} {f : Cvu → Cvu}
    (h_ : Keeps ps a0 b) (hl : partsIn [.cvus] ps = true) :
    Keeps ps a0 (Block.onCvu b u f) := by
  unfold Block.onCvu
  try dsimp only
  repeat' (first
    | with_reducible exact h_ | exact partsIn_trans (m := [.cvus]) (by decide) hl | dsimp only | with_reducible apply Keeps.cvus)

theorem Block.cvuStart_keeps {ps : List Part} {a0 : Block} {b : Block} {h : Hdr} {u : Nat}
    (h_ : Keeps ps a0 b) (hl : partsIn [.queues, .mrg, .cvus, .twin, .regs, .dict, .ev] ps = true) :
    Keeps ps a0 (Block.cvuStart b h u) := by
  unfold Block.cvuStart
  try dsimp only
  repeat' (first
    | intro _ | with_reducible exact h_ | with_reducible apply Keeps.ite | with_reducible apply Block.raise_keeps
    | with_reducible apply Block.ack_keeps | with_reducible apply Block.refuseKey_keeps | with_reducible apply Block.onCvu_keeps
    | exact partsIn_trans (m := [.queues, .mrg, .cvus, .twin, .regs, .dict, .ev]) (by decide) hl | dsimp only)

theorem Block.cvuStop_keeps {ps : List Part} {a0 : Block} {b : Block} {h : Hdr} {u : Nat}
    (h_ : Keeps ps a0 b) (hl : partsIn [.queues, .mrg, .cvus, .twin, .regs, .dict, .ev] ps = true) :
    Keeps ps a0 (Block.cvuStop b h u) := by
  unfold Block.cvuStop
  try dsimp only
  repeat' (first
    | intro _ | with_reducible exact h_ | with_reducible apply Block.ack_keeps | with_reducible apply Block.onCvu_keeps
    | exact partsIn_trans (m := [.queues, .mrg, .cvus, .twin, .regs, .dict, .ev]) (by decide) hl | dsimp only)

theorem Block.cvuControl_keeps {ps : List Part} {a0 : Block} {b : Block} {h : Hdr} {u v : Nat}
    (h_ : Keeps ps a0 b) (hl : partsIn [.queues, .mrg, .cvus, .twin, .regs, .dict, .ev] ps = true) :
    Keeps ps a0 (Block.cvuControl b h u v) := by
  unfold Block.cvuControl
  try dsimp only
  repeat' (first
    | with_reducible exact h_ | with_reducible apply Keeps.ite | with_reducible apply Block.refuseKey_keeps
    | with_reducible apply Block.cvuStart_keeps | with_reducible apply Block.cvuStop_keeps
    | exact partsIn_trans (m := [.queues, .mrg, .cvus, .twin, .regs, .dict, .ev]) (by decide) hl | dsimp only)

theorem Block.cvuData_keeps {ps : List Part} {a0 : Block} {b : Block} {h : Hdr} {u : Nat} {l : List Byte} {done : Block → Block}
    (h_ : Keeps ps a0 b) (hl : partsIn [.queues, .mrg, .cvus, .twin, .regs, .dict, .ev] ps = true) (h_done : ∀ y, Keeps ps a0 y → Keeps ps a0 (done y)) :
    Keeps ps a0 (Block.cvuData b h u l done) := by
  unfold Block.cvuData
  try dsimp only
  repeat' (first
    | intro _ | with_reducible exact h_ | with_reducible apply Keeps.ite
    | with_reducible apply Keeps.onDictRest (by intro _; first | rfl | (split <;> rfl))
    | with_reducible apply Keeps.onDictRegs (by intro _; first | rfl | (split <;> rfl))
    | with_reducible apply Block.refuseKey_keeps | with_reducible apply Block.onCvu_keeps | with_reducible apply h_done
    | exact partsIn_trans (m := [.queues, .mrg, .cvus, .twin, .regs, .dict, .ev]) (by decide) hl | dsimp only
    | with_reducible apply Keeps.dict)

theorem Block.cvuRestore_keeps {ps : List Part} {a0 : Block} {b : Block} {h : Hdr} {u v : Nat}
    (h_ : Keeps ps a0 b) (hl : partsIn [.queues, .mrg, .twin, .regs, .dict, .ev] ps = true) :
    Keeps ps a0 (Block.cvuRestore b h u v) := by
  unfold Block.cvuRestore
  try dsimp only
  repeat' (first
    | with_reducible exact h_ | with_reducible apply Keeps.ite | with_reducible apply Block.raise_keeps
    | with_reducible apply Block.refuseKey_keeps | with_reducible apply Block.pendWrite_keeps
    | exact partsIn_trans (m := [.queues, .mrg, .twin, .regs, .dict, .ev]) (by decide) hl | dsimp only)

theorem Block.cvuSetValue_keeps {ps : List Part} {a0 : Block} {b : Block} {h : Hdr} {u v : Nat}
    (h_ : Keeps ps a0 b) (hl : partsIn [.cvus] ps = true) :
    Keeps ps a0 (Block.cvuSetValue b h u v) := by
  unfold Block.cvuSetValue
  try dsimp only
  repeat' (first
    | intro _ | with_reducible exact h_ | with_reducible apply Keeps.ite | with_reducible apply Block.onCvu_keeps
    | exact partsIn_trans (m := [.cvus]) (by decide) hl | dsimp only)

theorem Block.cvuSessionEnd_keeps {ps : List Part} {a0 : Block} {b : Block} {o : Origin} {session : Nat}
    (h_ : Keeps ps a0 b) (hl : partsIn [.cvus, .regs, .ev] ps = true) :
    Keeps ps a0 (Block.cvuSessionEnd b o session) := by
  unfold Block.cvuSessionEnd
  try dsimp only
  repeat' (first
    | intro _ | with_reducible exact h_ | with_reducible apply Keeps.ite | with_reducible apply Keeps.forEach
    | with_reducible apply Block.raise_keeps | with_reducible apply Block.onCvu_keeps | with_reducible assumption
    | exact partsIn_trans (m := [.cvus, .regs, .ev]) (by decide) hl | dsimp only)

theorem Block.engineFail_keeps {ps : List Part} {a0 : Block} {b : Block} {i : Nat}
    (h_ : Keeps ps a0 b) (hl : partsIn [.regs, .ev, .free] ps = true) :
    Keeps ps a0 (Block.engineFail b i) := by
  unfold Block.engineFail
  try dsimp only
  repeat' (first
    | with_reducible exact h_ | with_reducible apply Keeps.ite | with_reducible apply Block.freeNext_keeps
    | with_reducible apply Block.raise_keeps | exact partsIn_trans (m := [.regs, .ev, .free]) (by decide) hl | dsimp only)

theorem Block.engineTest_keeps {ps : List Part} {a0 : Block} {b : Block} {lanes tmr : Nat}
    (h_ : Keeps ps a0 b) (hl : partsIn [.chans, .adc, .mrg, .frm, .twin, .flt, .regs, .ev, .free] ps = true) :
    Keeps ps a0 (Block.engineTest b lanes tmr) := by
  unfold Block.engineTest
  try dsimp only
  repeat' (first
    | intro _ | with_reducible exact h_ | with_reducible apply Keeps.ite | with_reducible apply Keeps.forEach
    | with_reducible apply Block.setReg_keeps | with_reducible apply Block.raise_keeps
    | with_reducible apply Block.permanent_keeps | with_reducible apply Block.engineFail_keeps | with_reducible assumption
    | exact partsIn_trans (m := [.chans, .adc, .mrg, .frm, .twin, .flt, .regs, .ev, .free]) (by decide) hl | dsimp only)

theorem Block.countCopies_keeps {ps : List Part} {a0 : Block} {b : Block} {l : Nat} {f : CFrame}
    (h_ : Keeps ps a0 b) (hl : partsIn [.regs, .ev] ps = true) :
    Keeps ps a0 (Block.countCopies b l f) := by
  unfold Block.countCopies
  try dsimp only
  repeat' (first
    | with_reducible exact h_ | with_reducible apply Keeps.ite | with_reducible apply Block.bump_keeps
    | with_reducible apply Block.raiseOnce_keeps | exact partsIn_trans (m := [.regs, .ev]) (by decide) hl | dsimp only)

theorem Block.takeFrame_keeps {ps : List Part} {a0 : Block} {b : Block} {l : Nat} {k : RxLink} {h : Nat} {f : CFrame}
    (h_ : Keeps ps a0 b) (hl : partsIn [.regs, .ev] ps = true) :
    Keeps ps a0 (Block.takeFrame b l k h f).2 := by
  have hc := Block.countCopies_keeps (l := l) (f := f) h_ hl
  have hm : partsIn [.regs] ps = true := partsIn_trans (m := [.regs, .ev]) (by decide) hl
  have hb := Block.bump_keeps (key := laneCount l 5) (n := 1) hc hm
  unfold Block.takeFrame
  refine Keeps.iteSnd ?_ (Keeps.iteSnd ?_ ?_)
  · exact hb
  · exact hc
  · exact hb

theorem Block.resolve_keeps {ps : List Part} {a0 : Block} {b : Block} {frames : List (Nat × CFrame)}
    (h_ : Keeps ps a0 b) (hl : partsIn [.regs, .ev] ps = true) :
    Keeps ps a0 (Block.resolve b frames).2 := by
  unfold Block.resolve
  try dsimp only
  repeat' (first
    | intro _ | with_reducible exact h_ | with_reducible apply Keeps.ite | with_reducible apply Keeps.forEach
    | with_reducible apply Keeps.iteFst | with_reducible apply Keeps.iteSnd | with_reducible apply Block.bump_keeps
    | with_reducible apply Block.raiseOnce_keeps | with_reducible assumption
    | exact partsIn_trans (m := [.regs, .ev]) (by decide) hl | split | dsimp only)

theorem Block.unresolved_keeps {ps : List Part} {a0 : Block} {b : Block} {l : Nat}
    (h_ : Keeps ps a0 b) (hl : partsIn [.regs, .ev] ps = true) :
    Keeps ps a0 (Block.unresolved b l) := by
  unfold Block.unresolved
  try dsimp only
  repeat' (first
    | with_reducible exact h_ | with_reducible apply Block.bump_keeps | with_reducible apply Block.raiseOnce_keeps
    | exact partsIn_trans (m := [.regs, .ev]) (by decide) hl | dsimp only)

theorem Block.regionFailed_keeps {ps : List Part} {a0 : Block} {b : Block} {l h : Nat}
    (h_ : Keeps ps a0 b) (hl : partsIn [.chans, .adc, .mrg, .frm, .twin, .flt, .regs, .ev, .free] ps = true) :
    Keeps ps a0 (Block.regionFailed b l h).2 := by
  unfold Block.regionFailed
  try dsimp only
  repeat' (first
    | with_reducible exact h_ | with_reducible apply Block.bump_keeps | with_reducible apply Block.raiseOnce_keeps
    | with_reducible apply Block.transient_keeps
    | exact partsIn_trans (m := [.chans, .adc, .mrg, .frm, .twin, .flt, .regs, .ev, .free]) (by decide) hl | dsimp only)

theorem Block.claimOf_keeps {ps : List Part} {a0 : Block} {b : Block} {f : CFrame}
    (h_ : Keeps ps a0 b) (hl : partsIn [.regs] ps = true) :
    Keeps ps a0 (Block.claimOf b f).2 := by
  unfold Block.claimOf
  try dsimp only
  repeat' (first
    | with_reducible exact h_ | with_reducible apply Keeps.ite | with_reducible apply Keeps.iteFst
    | with_reducible apply Keeps.iteSnd | with_reducible apply Block.bump_keeps
    | exact partsIn_trans (m := [.regs]) (by decide) hl | dsimp only)

theorem Block.leftFor_keeps {ps : List Part} {a0 : Block} {b : Block} {l : Nat} {was : Half}
    (h_ : Keeps ps a0 b) (hl : partsIn [.regs, .ev] ps = true) :
    Keeps ps a0 (Block.leftFor b l was) := by
  unfold Block.leftFor
  try dsimp only
  repeat' (first
    | with_reducible exact h_ | with_reducible apply Keeps.ite | with_reducible apply Block.raise_keeps
    | exact partsIn_trans (m := [.regs, .ev]) (by decide) hl | dsimp only)

theorem Block.lastLost_keeps {ps : List Part} {a0 : Block} {b : Block} {l : Nat}
    (h_ : Keeps ps a0 b) (hl : partsIn [.chans, .adc, .mrg, .frm, .twin, .flt, .regs, .ev, .free] ps = true) :
    Keeps ps a0 (Block.lastLost b l) := by
  unfold Block.lastLost
  try dsimp only
  repeat' (first
    | intro _ | with_reducible exact h_ | with_reducible apply Keeps.ite | with_reducible apply Keeps.when
    | with_reducible apply Keeps.iteFst | with_reducible apply Keeps.iteSnd | with_reducible apply Block.onLane_keeps
    | with_reducible apply Block.regionFailed_keeps | with_reducible assumption
    | exact partsIn_trans (m := [.chans, .adc, .mrg, .frm, .twin, .flt, .regs, .ev, .free]) (by decide) hl | split | dsimp only)

theorem Block.trainRx_keeps {ps : List Part} {a0 : Block} {b : Block} {l : Nat}
    (h_ : Keeps ps a0 b) (hl : partsIn [.chans, .adc, .mrg, .frm, .twin, .flt, .regs, .ev, .free] ps = true) :
    Keeps ps a0 (Block.trainRx b l) := by
  unfold Block.trainRx
  try dsimp only
  repeat' (first
    | intro _ | with_reducible exact h_ | with_reducible apply Keeps.ite | with_reducible apply Block.onLane_keeps
    | with_reducible apply Block.leftFor_keeps | with_reducible apply Block.lastLost_keeps
    | exact partsIn_trans (m := [.chans, .adc, .mrg, .frm, .twin, .flt, .regs, .ev, .free]) (by decide) hl | dsimp only)

theorem Block.trainTx_keeps {ps : List Part} {a0 : Block} {b : Block} {l : Nat}
    (h_ : Keeps ps a0 b) (hl : partsIn [.frm, .regs, .ev] ps = true) :
    Keeps ps a0 (Block.trainTx b l) := by
  unfold Block.trainTx
  try dsimp only
  repeat' (first
    | intro _ | with_reducible exact h_ | with_reducible apply Keeps.ite | with_reducible apply Block.onLane_keeps
    | with_reducible apply Block.leftFor_keeps | exact partsIn_trans (m := [.frm, .regs, .ev]) (by decide) hl | dsimp only)

theorem Block.wakeLink_keeps {ps : List Part} {a0 : Block} {b : Block} {k : Link}
    (h_ : Keeps ps a0 b) (hl : partsIn [.chans, .adc, .mrg, .frm, .twin, .flt, .regs, .ev, .free] ps = true) :
    Keeps ps a0 (Block.wakeLink b k) := by
  unfold Block.wakeLink
  try dsimp only
  repeat' (first
    | intro _ | with_reducible exact h_ | with_reducible apply Keeps.ite | with_reducible apply Keeps.forEach
    | with_reducible apply Block.trainRx_keeps | with_reducible apply Block.trainTx_keeps | with_reducible assumption
    | exact partsIn_trans (m := [.chans, .adc, .mrg, .frm, .twin, .flt, .regs, .ev, .free]) (by decide) hl | split | dsimp only)

theorem Block.wakeLinks_keeps {ps : List Part} {a0 : Block} {b : Block}
    (h_ : Keeps ps a0 b) (hl : partsIn [.chans, .adc, .mrg, .frm, .twin, .flt, .regs, .ev, .free] ps = true) :
    Keeps ps a0 (Block.wakeLinks b) := by
  unfold Block.wakeLinks
  try dsimp only
  repeat' (first
    | intro _ | with_reducible exact h_ | with_reducible apply Keeps.forEach | with_reducible apply Block.wakeLink_keeps
    | with_reducible assumption
    | exact partsIn_trans (m := [.chans, .adc, .mrg, .frm, .twin, .flt, .regs, .ev, .free]) (by decide) hl | dsimp only)

theorem Block.retrain_keeps {ps : List Part} {a0 : Block} {b : Block} {k : Link}
    (h_ : Keeps ps a0 b) (hl : partsIn [.chans, .adc, .mrg, .frm, .twin, .flt, .regs, .ev, .free] ps = true) :
    Keeps ps a0 (Block.retrain b k) := by
  unfold Block.retrain
  try dsimp only
  repeat' (first
    | intro _ | with_reducible exact h_ | with_reducible apply Keeps.forEach | with_reducible apply Block.trainRx_keeps
    | with_reducible apply Block.trainTx_keeps | with_reducible assumption
    | exact partsIn_trans (m := [.chans, .adc, .mrg, .frm, .twin, .flt, .regs, .ev, .free]) (by decide) hl | dsimp only)

theorem Block.parkLane_keeps {ps : List Part} {a0 : Block} {b : Block} {l : Nat}
    (h_ : Keeps ps a0 b) (hl : partsIn [.frm, .regs, .ev] ps = true) :
    Keeps ps a0 (Block.parkLane b l) := by
  unfold Block.parkLane
  try dsimp only
  repeat' (first
    | intro _ | with_reducible exact h_ | with_reducible apply Keeps.ite | with_reducible apply Block.onLane_keeps
    | with_reducible apply Block.raise_keeps | exact partsIn_trans (m := [.frm, .regs, .ev]) (by decide) hl | dsimp only)

theorem Block.parkLanes_keeps {ps : List Part} {a0 : Block} {b : Block}
    (h_ : Keeps ps a0 b) (hl : partsIn [.frm, .regs, .ev] ps = true) :
    Keeps ps a0 (Block.parkLanes b) := by
  unfold Block.parkLanes
  try dsimp only
  repeat' (first
    | intro _ | with_reducible exact h_ | with_reducible apply Keeps.ite | with_reducible apply Keeps.forEach
    | with_reducible apply Block.parkLane_keeps | with_reducible assumption
    | exact partsIn_trans (m := [.frm, .regs, .ev]) (by decide) hl | dsimp only)

theorem Block.retryHalf_keeps {ps : List Part} {a0 : Block} {b : Block} {l : Nat}
    (h_ : Keeps ps a0 b) (hl : partsIn [.chans, .adc, .mrg, .frm, .twin, .flt, .regs, .ev, .free] ps = true) :
    Keeps ps a0 (Block.retryHalf b l) := by
  unfold Block.retryHalf
  try dsimp only
  repeat' (first
    | intro _ | with_reducible exact h_ | with_reducible apply Keeps.ite | with_reducible apply Block.onLane_keeps
    | with_reducible apply Block.raise_keeps | with_reducible apply Block.retryFailed_keeps
    | exact partsIn_trans (m := [.chans, .adc, .mrg, .frm, .twin, .flt, .regs, .ev, .free]) (by decide) hl | dsimp only)

theorem Block.placeLate_keeps {ps : List Part} {a0 : Block} {b : Block} {l : Nat}
    (h_ : Keeps ps a0 b) (hl : partsIn [.regs, .ev] ps = true) :
    Keeps ps a0 (Block.placeLate b l) := by
  unfold Block.placeLate
  try dsimp only
  repeat' (first
    | intro _ | with_reducible exact h_ | with_reducible apply Keeps.when | with_reducible apply Block.raise_keeps
    | with_reducible assumption | exact partsIn_trans (m := [.regs, .ev]) (by decide) hl | split | dsimp only)

theorem Block.attemptEnds_keeps {ps : List Part} {a0 : Block} {b : Block} {k : Link} {rx : List Nat}
    (h_ : Keeps ps a0 b) (hl : partsIn [.chans, .adc, .mrg, .frm, .twin, .flt, .regs, .ev, .free] ps = true) :
    Keeps ps a0 (Block.attemptEnds b k rx) := by
  unfold Block.attemptEnds
  try dsimp only
  repeat' (first
    | intro _ | with_reducible exact h_ | with_reducible apply Keeps.ite | with_reducible apply Keeps.forEach
    | with_reducible apply Keeps.foldl | with_reducible apply Block.onLane_keeps | with_reducible apply Block.raise_keeps
    | with_reducible apply Block.retryHalf_keeps | with_reducible apply Block.placeLate_keeps | with_reducible assumption
    | exact partsIn_trans (m := [.chans, .adc, .mrg, .frm, .twin, .flt, .regs, .ev, .free]) (by decide) hl | dsimp only)

theorem Block.attempt_keeps {ps : List Part} {a0 : Block} {b : Block} {k : Link}
    (h_ : Keeps ps a0 b) (hl : partsIn [.chans, .adc, .mrg, .frm, .twin, .flt, .regs, .ev, .free] ps = true) :
    Keeps ps a0 (Block.attempt b k) := by
  unfold Block.attempt
  try dsimp only
  repeat' (first
    | intro _ | with_reducible exact h_ | with_reducible apply Keeps.ite | with_reducible apply Keeps.forEach
    | with_reducible apply Block.onLane_keeps | with_reducible apply Block.attemptEnds_keeps | with_reducible assumption
    | exact partsIn_trans (m := [.chans, .adc, .mrg, .frm, .twin, .flt, .regs, .ev, .free]) (by decide) hl | dsimp only)

theorem Block.orderInvalid_keeps {ps : List Part} {a0 : Block} {b : Block} {l lane rank : Nat}
    (h_ : Keeps ps a0 b) (hl : partsIn [.frm, .regs, .ev] ps = true) :
    Keeps ps a0 (Block.orderInvalid b l lane rank) := by
  unfold Block.orderInvalid
  try dsimp only
  repeat' (first
    | intro _ | with_reducible exact h_ | with_reducible apply Keeps.ite | with_reducible apply Block.onLane_keeps
    | with_reducible apply Block.raise_keeps | exact partsIn_trans (m := [.frm, .regs, .ev]) (by decide) hl | dsimp only)

theorem Block.ordered_keeps {ps : List Part} {a0 : Block} {b : Block} {k : Link} {halves : List Nat} {rev : Bool}
    (h_ : Keeps ps a0 b) (hl : partsIn [.frm, .regs, .ev] ps = true) :
    Keeps ps a0 (Block.ordered b k halves rev) := by
  unfold Block.ordered
  try dsimp only
  repeat' (first
    | intro _ | with_reducible exact h_ | with_reducible apply Keeps.ite | with_reducible apply Keeps.forEach
    | with_reducible apply Block.onLane_keeps | with_reducible apply Block.raise_keeps | with_reducible assumption
    | exact partsIn_trans (m := [.frm, .regs, .ev]) (by decide) hl | dsimp only)

theorem Block.orderDone_keeps {ps : List Part} {a0 : Block} {b : Block} {k : Link}
    (h_ : Keeps ps a0 b) (hl : partsIn [.frm, .regs, .ev] ps = true) :
    Keeps ps a0 (Block.orderDone b k) := by
  unfold Block.orderDone
  try dsimp only
  repeat' (first
    | intro _ | with_reducible exact h_ | with_reducible apply Keeps.ite | with_reducible apply Keeps.forEach
    | with_reducible apply Block.onLane_keeps | with_reducible apply Block.orderInvalid_keeps
    | with_reducible apply Block.ordered_keeps | with_reducible assumption
    | exact partsIn_trans (m := [.frm, .regs, .ev]) (by decide) hl | dsimp only)

theorem Block.orderWord_keeps {ps : List Part} {a0 : Block} {b : Block} {k : Link} {l : Nat} {w : Ref48}
    (h_ : Keeps ps a0 b) (hl : partsIn [.frm, .regs, .ev] ps = true) :
    Keeps ps a0 (Block.orderWord b k l w) := by
  unfold Block.orderWord
  try dsimp only
  repeat' (first
    | intro _ | with_reducible exact h_ | with_reducible apply Keeps.ite | with_reducible apply Block.onLane_keeps
    | with_reducible apply Block.orderInvalid_keeps | with_reducible apply Block.orderDone_keeps
    | exact partsIn_trans (m := [.frm, .regs, .ev]) (by decide) hl | dsimp only)

theorem Block.orderFirst_keeps {ps : List Part} {a0 : Block} {b : Block} {k : Link} {l : Nat}
    (h_ : Keeps ps a0 b) (hl : partsIn [.frm, .regs, .ev] ps = true) :
    Keeps ps a0 (Block.orderFirst b k l) := by
  unfold Block.orderFirst
  try dsimp only
  repeat' (first
    | intro _ | with_reducible exact h_ | with_reducible apply Block.onLane_keeps | with_reducible apply Block.ordered_keeps
    | exact partsIn_trans (m := [.frm, .regs, .ev]) (by decide) hl | dsimp only)

theorem Block.acquireFrom_keeps {ps : List Part} {a0 : Block} {b : Block} {f : CFrame} {side : Nat}
    (h_ : Keeps ps a0 b) (hl : partsIn [.time] ps = true) :
    Keeps ps a0 (Block.acquireFrom b f side) := by
  unfold Block.acquireFrom
  try dsimp only
  repeat' (first
    | intro _ | with_reducible exact h_ | with_reducible apply Keeps.ite
    | with_reducible apply Keeps.onTimeRest (by intro _; first | rfl | (split <;> rfl))
    | exact partsIn_trans (m := [.time]) (by decide) hl | dsimp only | with_reducible apply Keeps.time)

theorem Block.raiseFr_keeps {ps : List Part} {a0 : Block} {b : Block} {f : Nat}
    (h_ : Keeps ps a0 b) (hl : partsIn [.frm] ps = true) :
    Keeps ps a0 (Block.raiseFr b f) := by
  unfold Block.raiseFr
  try dsimp only
  repeat' (first
    | intro _ | with_reducible exact h_ | with_reducible apply Keeps.ite | with_reducible apply Block.onFrm_keeps
    | exact partsIn_trans (m := [.frm]) (by decide) hl | dsimp only)

theorem Block.placeHalf_keeps {ps : List Part} {a0 : Block} {b : Block} {k : Link} {l f : Nat}
    (h_ : Keeps ps a0 b) (hl : partsIn [.frm] ps = true) :
    Keeps ps a0 (Block.placeHalf b k l f) := by
  unfold Block.placeHalf
  try dsimp only
  repeat' (first
    | intro _ | with_reducible exact h_ | with_reducible apply Keeps.ite | with_reducible apply Block.onLane_keeps
    | with_reducible apply Block.raiseFr_keeps | exact partsIn_trans (m := [.frm]) (by decide) hl | dsimp only)

theorem Block.placeFixed_keeps {ps : List Part} {a0 : Block} {b : Block} {k : Link} {l f : Nat} {margin : Int}
    (h_ : Keeps ps a0 b) (hl : partsIn [.frm] ps = true) :
    Keeps ps a0 (Block.placeFixed b k l f margin) := by
  unfold Block.placeFixed
  try dsimp only
  repeat' (first
    | intro _ | with_reducible exact h_ | with_reducible apply Keeps.ite | with_reducible apply Block.onLane_keeps
    | with_reducible apply Block.placeHalf_keeps | exact partsIn_trans (m := [.frm]) (by decide) hl | dsimp only)

theorem Block.placeFree_keeps {ps : List Part} {a0 : Block} {b : Block} {k : Link} {l : Nat} {f : CFrame} {margin : Nat}
    (h_ : Keeps ps a0 b) (hl : partsIn [.time, .frm] ps = true) :
    Keeps ps a0 (Block.placeFree b k l f margin) := by
  unfold Block.placeFree
  try dsimp only
  repeat' (first
    | intro _ | with_reducible exact h_ | with_reducible apply Keeps.ite | with_reducible apply Block.onLane_keeps
    | with_reducible apply Block.acquireFrom_keeps | with_reducible apply Block.placeHalf_keeps
    | exact partsIn_trans (m := [.time, .frm]) (by decide) hl | dsimp only)

theorem Block.placeFrame_keeps {ps : List Part} {a0 : Block} {b : Block} {k : Link} {l : Nat} {f : CFrame} {margin : Int}
    (h_ : Keeps ps a0 b) (hl : partsIn [.time, .frm] ps = true) :
    Keeps ps a0 (Block.placeFrame b k l f margin) := by
  unfold Block.placeFrame
  try dsimp only
  repeat' (first
    | with_reducible exact h_ | with_reducible apply Block.placeFixed_keeps | with_reducible apply Block.placeFree_keeps
    | exact partsIn_trans (m := [.time, .frm]) (by decide) hl | split | dsimp only)

theorem Block.shakeWord_keeps {ps : List Part} {a0 : Block} {b : Block} {k : Link} {w : Ref48}
    (h_ : Keeps ps a0 b) (hl : partsIn [.frm, .regs, .ev] ps = true) :
    Keeps ps a0 (Block.shakeWord b k w) := by
  unfold Block.shakeWord
  try dsimp only
  repeat' (first
    | intro _ | with_reducible exact h_ | with_reducible apply Keeps.ite | with_reducible apply Block.onLane_keeps
    | with_reducible apply Block.raise_keeps | exact partsIn_trans (m := [.frm, .regs, .ev]) (by decide) hl | dsimp only)

theorem Block.noteWord_keeps {ps : List Part} {a0 : Block} {b : Block} {k : Link} {l : Nat} {w : Ref48}
    (h_ : Keeps ps a0 b) (hl : partsIn [.frm, .regs] ps = true) :
    Keeps ps a0 (Block.noteWord b k l w) := by
  unfold Block.noteWord
  try dsimp only
  repeat' (first
    | intro _ | with_reducible exact h_ | with_reducible apply Keeps.ite | with_reducible apply Keeps.when
    | with_reducible apply Block.onLane_keeps | with_reducible apply Block.setReg_keeps | with_reducible assumption
    | exact partsIn_trans (m := [.frm, .regs]) (by decide) hl | dsimp only)

theorem Block.rxOn_keeps {ps : List Part} {a0 : Block} {b : Block} {l : Nat}
    (h_ : Keeps ps a0 b) (hl : partsIn [.frm, .flt] ps = true) :
    Keeps ps a0 (Block.rxOn b l) := by
  unfold Block.rxOn
  try dsimp only
  repeat' (first
    | intro _ | with_reducible exact h_ | with_reducible apply Block.onLane_keeps | with_reducible apply Block.retryOk_keeps
    | exact partsIn_trans (m := [.frm, .flt]) (by decide) hl | dsimp only)

theorem Block.activeEvents_keeps {ps : List Part} {a0 : Block} {b : Block} {l id : Nat} {absent : Bool}
    (h_ : Keeps ps a0 b) (hl : partsIn [.regs, .ev] ps = true) :
    Keeps ps a0 (Block.activeEvents b l id absent) := by
  unfold Block.activeEvents
  try dsimp only
  repeat' (first
    | with_reducible exact h_ | with_reducible apply Keeps.ite | with_reducible apply Block.raise_keeps
    | exact partsIn_trans (m := [.regs, .ev]) (by decide) hl | dsimp only)

theorem Block.linkActive_keeps {ps : List Part} {a0 : Block} {b : Block} {k : Link} {rx : List Nat}
    (h_ : Keeps ps a0 b) (hl : partsIn [.time, .mrg, .frm, .flt, .regs, .ev] ps = true) :
    Keeps ps a0 (Block.linkActive b k rx) := by
  unfold Block.linkActive
  try dsimp only
  repeat' (first
    | intro _ | with_reducible exact h_ | with_reducible apply Keeps.ite | with_reducible apply Keeps.forEach
    | with_reducible apply Block.onLane_keeps | with_reducible apply Block.onPort_keeps | with_reducible apply Block.onDom_keeps
    | with_reducible apply Block.rxOn_keeps | with_reducible apply Block.activeEvents_keeps | with_reducible assumption
    | exact partsIn_trans (m := [.time, .mrg, .frm, .flt, .regs, .ev]) (by decide) hl | dsimp only)

theorem Block.rejoin_keeps {ps : List Part} {a0 : Block} {b : Block} {k : Link}
    (h_ : Keeps ps a0 b) (hl : partsIn [.frm, .flt, .regs, .ev] ps = true) :
    Keeps ps a0 (Block.rejoin b k) := by
  unfold Block.rejoin
  try dsimp only
  repeat' (first
    | intro _ | with_reducible exact h_ | with_reducible apply Keeps.when | with_reducible apply Keeps.forEach
    | with_reducible apply Block.rxOn_keeps | with_reducible apply Block.activeEvents_keeps | with_reducible assumption
    | exact partsIn_trans (m := [.frm, .flt, .regs, .ev]) (by decide) hl | dsimp only)

theorem Block.activateLinks_keeps {ps : List Part} {a0 : Block} {b : Block}
    (h_ : Keeps ps a0 b) (hl : partsIn [.time, .mrg, .frm, .flt, .regs, .ev] ps = true) :
    Keeps ps a0 (Block.activateLinks b) := by
  unfold Block.activateLinks
  try dsimp only
  repeat' (first
    | intro _ | with_reducible exact h_ | with_reducible apply Keeps.when | with_reducible apply Keeps.forEach
    | with_reducible apply Block.linkActive_keeps | with_reducible apply Block.rejoin_keeps | with_reducible assumption
    | exact partsIn_trans (m := [.time, .mrg, .frm, .flt, .regs, .ev]) (by decide) hl | dsimp only)

theorem Block.polarityFrame_keeps {ps : List Part} {a0 : Block} {b : Block} {l : Nat} {sync : Option Bool}
    (h_ : Keeps ps a0 b) (hl : partsIn [.frm, .regs, .ev] ps = true) :
    Keeps ps a0 (Block.polarityFrame b l sync) := by
  unfold Block.polarityFrame
  try dsimp only
  repeat' (first
    | intro _ | with_reducible exact h_ | with_reducible apply Keeps.ite | with_reducible apply Block.onLane_keeps
    | with_reducible apply Block.raise_keeps | exact partsIn_trans (m := [.frm, .regs, .ev]) (by decide) hl | split | dsimp only)

theorem Block.lockFrame_keeps {ps : List Part} {a0 : Block} {b : Block} {k : Link} {l : Nat} {sync : Option Bool}
    (h_ : Keeps ps a0 b) (hl : partsIn [.frm] ps = true) :
    Keeps ps a0 (Block.lockFrame b k l sync) := by
  unfold Block.lockFrame
  try dsimp only
  repeat' (first
    | intro _ | with_reducible exact h_ | with_reducible apply Keeps.ite | with_reducible apply Block.onLane_keeps
    | exact partsIn_trans (m := [.frm]) (by decide) hl | dsimp only)

theorem Block.wordLost_keeps {ps : List Part} {a0 : Block} {b : Block} {k : Link} {l : Nat}
    (h_ : Keeps ps a0 b) (hl : partsIn [.frm] ps = true) :
    Keeps ps a0 (Block.wordLost b k l) := by
  unfold Block.wordLost
  try dsimp only
  repeat' (first
    | intro _ | with_reducible exact h_ | with_reducible apply Keeps.when | with_reducible apply Block.onLane_keeps
    | with_reducible assumption | exact partsIn_trans (m := [.frm]) (by decide) hl | dsimp only)

theorem Block.trainStep_keeps {ps : List Part} {a0 : Block} {b : Block} {k : Link} {l : Nat} {f : CFrame} {sync : Option Bool} {margin : Int}
    (h_ : Keeps ps a0 b) (hl : partsIn [.time, .frm, .regs, .ev] ps = true) :
    Keeps ps a0 (Block.trainStep b k l f sync margin) := by
  have hm : ∀ k, partsIn k [.time, .frm, .regs, .ev] = true → partsIn k ps = true := fun k h => partsIn_trans h hl
  unfold Block.trainStep
  split
  · exact Block.polarityFrame_keeps h_ (hm _ (by decide))
  · exact Block.lockFrame_keeps h_ (hm _ (by decide))
  · split
    · exact Block.wordLost_keeps h_ (hm _ (by decide))
    · rename_i w _
      have hn := Block.noteWord_keeps (k := k) (l := l) (w := w) h_ (hm _ (by decide))
      generalize b.noteWord k l w = c at hn ⊢
      dsimp only
      split
      · exact Keeps.ite (Block.orderFirst_keeps hn (hm _ (by decide))) (Block.orderWord_keeps hn (hm _ (by decide)))
      · exact Block.placeFrame_keeps hn (hm _ (by decide))
      · exact Block.shakeWord_keeps hn (hm _ (by decide))
      · exact hn

theorem Block.orderFrame_keeps {ps : List Part} {a0 : Block} {b : Block} {l : Nat} {f : CFrame}
    (h_ : Keeps ps a0 b) (hl : partsIn [.frm] ps = true) :
    Keeps ps a0 (Block.orderFrame b l f) := by
  unfold Block.orderFrame
  try dsimp only
  repeat' (first
    | intro _ | with_reducible exact h_ | with_reducible apply Keeps.ite | with_reducible apply Block.onLane_keeps
    | exact partsIn_trans (m := [.frm]) (by decide) hl | dsimp only)

theorem Block.aloneFrame_keeps {ps : List Part} {a0 : Block} {b : Block} {k : Link} {l : Nat} {f : CFrame} {sync : Option Bool} {margin : Nat}
    (h_ : Keeps ps a0 b) (hl : partsIn [.frm, .regs, .ev] ps = true) :
    Keeps ps a0 (Block.aloneFrame b k l f sync margin) := by
  unfold Block.aloneFrame
  try dsimp only
  repeat' (first
    | with_reducible exact h_ | with_reducible apply Block.placeFixed_keeps | with_reducible apply Block.polarityFrame_keeps
    | with_reducible apply Block.lockFrame_keeps | with_reducible apply Block.orderFrame_keeps
    | exact partsIn_trans (m := [.frm, .regs, .ev]) (by decide) hl | split | dsimp only)

theorem Block.dropped_keeps {ps : List Part} {a0 : Block} {b : Block} {k : Link} {l cause : Nat}
    (h_ : Keeps ps a0 b) (hl : partsIn [.time, .chans, .adc, .mrg, .frm, .twin, .flt, .regs, .ev, .free] ps = true) :
    Keeps ps a0 (Block.dropped b k l cause) := by
  unfold Block.dropped
  try dsimp only
  repeat' (first
    | with_reducible exact h_ | with_reducible apply Keeps.ite | with_reducible apply Block.bump_keeps
    | with_reducible apply Block.raise_keeps | with_reducible apply Block.domLost_keeps
    | with_reducible apply Block.transient_keeps
    | exact partsIn_trans (m := [.time, .chans, .adc, .mrg, .frm, .twin, .flt, .regs, .ev, .free]) (by decide) hl | dsimp only)

theorem Block.dropLink_keeps {ps : List Part} {a0 : Block} {b : Block} {l cause : Nat}
    (h_ : Keeps ps a0 b) (hl : partsIn [.time, .chans, .adc, .mrg, .frm, .twin, .flt, .regs, .ev, .free] ps = true) :
    Keeps ps a0 (Block.dropLink b l cause) := by
  unfold Block.dropLink
  try dsimp only
  repeat' (first
    | with_reducible exact h_ | with_reducible apply Keeps.ite | with_reducible apply Block.trainRx_keeps
    | with_reducible apply Block.retrain_keeps | with_reducible apply Block.dropped_keeps
    | exact partsIn_trans (m := [.time, .chans, .adc, .mrg, .frm, .twin, .flt, .regs, .ev, .free]) (by decide) hl | split
    | dsimp only)

theorem Block.syncFrame_keeps {ps : List Part} {a0 : Block} {b : Block} {l : Nat} {ok : Bool}
    (h_ : Keeps ps a0 b) (hl : partsIn [.time, .chans, .adc, .mrg, .frm, .twin, .flt, .regs, .ev, .free] ps = true) :
    Keeps ps a0 (Block.syncFrame b l ok) := by
  unfold Block.syncFrame
  try dsimp only
  repeat' (first
    | intro _ | with_reducible exact h_ | with_reducible apply Keeps.ite | with_reducible apply Block.onLane_keeps
    | with_reducible apply Block.bump_keeps | with_reducible apply Block.dropLink_keeps
    | exact partsIn_trans (m := [.time, .chans, .adc, .mrg, .frm, .twin, .flt, .regs, .ev, .free]) (by decide) hl | dsimp only)

theorem Block.signalLost_keeps {ps : List Part} {a0 : Block} {b : Block} {l cause : Nat}
    (h_ : Keeps ps a0 b) (hl : partsIn [.time, .chans, .adc, .mrg, .frm, .twin, .flt, .regs, .ev, .free] ps = true) :
    Keeps ps a0 (Block.signalLost b l cause) := by
  unfold Block.signalLost
  try dsimp only
  repeat' (first
    | with_reducible exact h_ | with_reducible apply Keeps.ite | with_reducible apply Block.onLane_keeps
    | with_reducible apply Block.dropLink_keeps
    | exact partsIn_trans (m := [.time, .chans, .adc, .mrg, .frm, .twin, .flt, .regs, .ev, .free]) (by decide) hl | split
    | dsimp only)

theorem Block.frameLate_keeps {ps : List Part} {a0 : Block} {b : Block} {l : Nat} {margin : Int}
    (h_ : Keeps ps a0 b) (hl : partsIn [.time, .chans, .adc, .mrg, .frm, .twin, .flt, .regs, .ev, .free] ps = true) :
    Keeps ps a0 (Block.frameLate b l margin) := by
  unfold Block.frameLate
  try dsimp only
  repeat' (first
    | intro _ | with_reducible exact h_ | with_reducible apply Block.onLane_keeps | with_reducible apply Block.bump_keeps
    | with_reducible apply Block.raise_keeps | with_reducible apply Block.dropLink_keeps
    | exact partsIn_trans (m := [.time, .chans, .adc, .mrg, .frm, .twin, .flt, .regs, .ev, .free]) (by decide) hl | dsimp only)

theorem Block.laneConfigWrite_keeps {ps : List Part} {a0 : Block} {b : Block} {h : Hdr} {l v : Nat}
    (h_ : Keeps ps a0 b) (hl : partsIn [.queues, .mrg, .twin, .regs, .dict, .ev] ps = true) :
    Keeps ps a0 (Block.laneConfigWrite b h l v) := by
  unfold Block.laneConfigWrite
  try dsimp only
  repeat' (first
    | with_reducible exact h_ | with_reducible apply Keeps.ite | with_reducible apply Block.refuseKey_keeps
    | with_reducible apply Block.pendWrite_keeps
    | exact partsIn_trans (m := [.queues, .mrg, .twin, .regs, .dict, .ev]) (by decide) hl | dsimp only)

theorem Block.prbsWrite_keeps {ps : List Part} {a0 : Block} {b : Block} {h : Hdr} {l v : Nat}
    (h_ : Keeps ps a0 b) (hl : partsIn [.queues, .mrg, .twin, .regs, .dict, .ev] ps = true) :
    Keeps ps a0 (Block.prbsWrite b h l v) := by
  unfold Block.prbsWrite
  try dsimp only
  repeat' (first
    | with_reducible exact h_ | with_reducible apply Keeps.ite | with_reducible apply Block.refuseKey_keeps
    | with_reducible apply Block.pendWrite_keeps
    | exact partsIn_trans (m := [.queues, .mrg, .twin, .regs, .dict, .ev]) (by decide) hl | dsimp only)

theorem Block.prbsApply_keeps {ps : List Part} {a0 : Block} {b : Block} {l v : Nat}
    (h_ : Keeps ps a0 b) (hl : partsIn [.time, .chans, .adc, .mrg, .frm, .twin, .flt, .regs, .ev, .free] ps = true) :
    Keeps ps a0 (Block.prbsApply b l v) := by
  unfold Block.prbsApply
  try dsimp only
  repeat' (first
    | intro _ | with_reducible exact h_ | with_reducible apply Keeps.ite | with_reducible apply Block.onLane_keeps
    | with_reducible apply Block.setReg_keeps | with_reducible apply Block.raise_keeps | with_reducible apply Block.trainRx_keeps
    | with_reducible apply Block.trainTx_keeps | with_reducible apply Block.parkLane_keeps
    | with_reducible apply Block.dropLink_keeps
    | exact partsIn_trans (m := [.time, .chans, .adc, .mrg, .frm, .twin, .flt, .regs, .ev, .free]) (by decide) hl | dsimp only)

theorem Block.prbsBits_keeps {ps : List Part} {a0 : Block} {b : Block} {l : Nat} {x : LineFrame}
    (h_ : Keeps ps a0 b) (hl : partsIn [.frm, .regs] ps = true) :
    Keeps ps a0 (Block.prbsBits b l x) := by
  unfold Block.prbsBits
  try dsimp only
  repeat' (first
    | intro _ | with_reducible exact h_ | with_reducible apply Keeps.ite | with_reducible apply Block.onLane_keeps
    | with_reducible apply Block.bump_keeps | exact partsIn_trans (m := [.frm, .regs]) (by decide) hl | dsimp only)

theorem Block.hear_keeps {ps : List Part} {a0 : Block} {b : Block} {l : Nat} {x : LineFrame}
    (h_ : Keeps ps a0 b) (hl : partsIn [.frm] ps = true) :
    Keeps ps a0 (Block.hear b l x).2 := by
  unfold Block.hear
  try dsimp only
  repeat' (first
    | intro _ | with_reducible exact h_ | with_reducible apply Block.onLane_keeps
    | exact partsIn_trans (m := [.frm]) (by decide) hl | dsimp only)

theorem Block.lineIn_keeps {ps : List Part} {a0 : Block} {b : Block} {l : Nat} {x : LineFrame} {take : CFrame → Block → Block}
    (h_ : Keeps ps a0 b) (hl : partsIn [.frm, .regs] ps = true) (h_take : ∀ u0 y, Keeps ps a0 y → Keeps ps a0 (take u0 y)) :
    Keeps ps a0 (Block.lineIn b l x take) := by
  unfold Block.lineIn
  try dsimp only
  repeat' (first
    | intro _ | with_reducible exact h_ | with_reducible apply Keeps.ite | with_reducible apply Keeps.iteFst
    | with_reducible apply Keeps.iteSnd | with_reducible apply Block.prbsBits_keeps | with_reducible apply Block.hear_keeps
    | with_reducible apply h_take | exact partsIn_trans (m := [.frm, .regs]) (by decide) hl | dsimp only)

theorem Block.holdSet_keeps {ps : List Part} {a0 : Block} {b : Block} {l old new : Nat}
    (h_ : Keeps ps a0 b) (hl : partsIn [.frm] ps = true) :
    Keeps ps a0 (Block.holdSet b l old new) := by
  unfold Block.holdSet
  try dsimp only
  repeat' (first
    | with_reducible exact h_ | with_reducible apply Keeps.ite | with_reducible apply Block.onLane_keeps
    | exact partsIn_trans (m := [.frm]) (by decide) hl | dsimp only)

theorem Block.adapt_keeps {ps : List Part} {a0 : Block} {b : Block} {steps : List Lms}
    (h_ : Keeps ps a0 b) (hl : partsIn [.frm] ps = true) :
    Keeps ps a0 (Block.adapt b steps) := by
  unfold Block.adapt
  try dsimp only
  repeat' (first
    | intro _ | with_reducible exact h_ | with_reducible apply Keeps.when | with_reducible apply Keeps.forEach
    | with_reducible apply Block.onLane_keeps | with_reducible assumption | exact partsIn_trans (m := [.frm]) (by decide) hl
    | dsimp only)

theorem Block.firstDownlink_keeps {ps : List Part} {a0 : Block} {b : Block} {l : Nat}
    (h_ : Keeps ps a0 b) (hl : partsIn [.time] ps = true) :
    Keeps ps a0 (Block.firstDownlink b l) := by
  unfold Block.firstDownlink
  try dsimp only
  repeat' (first
    | intro _ | with_reducible exact h_ | with_reducible apply Keeps.ite
    | with_reducible apply Keeps.onTimeRest (by intro _; first | rfl | (split <;> rfl))
    | exact partsIn_trans (m := [.time]) (by decide) hl | split | dsimp only | with_reducible apply Keeps.time)

theorem Block.clockLocked_keeps {ps : List Part} {a0 : Block} {b : Block} {l : Nat} {ctle : Nat} {taps : List Int}
    (h_ : Keeps ps a0 b) (hl : partsIn [.time, .frm] ps = true) :
    Keeps ps a0 (Block.clockLocked b l ctle taps) := by
  unfold Block.clockLocked
  try dsimp only
  repeat' (first
    | intro _ | with_reducible exact h_ | with_reducible apply Keeps.ite | with_reducible apply Block.onLane_keeps
    | with_reducible apply Block.firstDownlink_keeps | exact partsIn_trans (m := [.time, .frm]) (by decide) hl | dsimp only)

end Sys2Proof.Machine
end

