-- ==== Sys2Proof/Laws/FramesFolio.lean ====
section
/-! SUPPORT. The frame of every operation of security, folios, plans, the proxy, sets, release, entries and commands: which parts of the block it can change. -/

namespace Sys2Proof.Machine

set_option linter.all false

theorem Block.verified_keeps {ps : List Part} {a0 : Block} {b : Block} {type version sub : Nat}
    (h_ : Keeps ps a0 b) (hl : partsIn [.regs, .ev, .free] ps = true) :
    Keeps ps a0 (Block.verified b type version sub) := by
  unfold Block.verified
  try dsimp only
  repeat' (first
    | with_reducible exact h_ | with_reducible apply Keeps.ite | with_reducible apply Block.freeNext_keeps
    | with_reducible apply Block.setReg_keeps | with_reducible apply Block.bump_keeps | with_reducible apply Block.raise_keeps
    | exact partsIn_trans (m := [.regs, .ev, .free]) (by decide) hl | dsimp only)

theorem Block.imageResult_keeps {ps : List Part} {a0 : Block} {b : Block} {image : List Byte} {sub : Nat}
    (h_ : Keeps ps a0 b) (hl : partsIn [.regs, .ev, .free] ps = true) :
    Keeps ps a0 (Block.imageResult b image sub) := by
  unfold Block.imageResult
  try dsimp only
  repeat' (first
    | with_reducible exact h_ | with_reducible apply Block.verified_keeps
    | exact partsIn_trans (m := [.regs, .ev, .free]) (by decide) hl | dsimp only)

theorem Block.verifyImage_keeps {ps : List Part} {a0 : Block} {b : Block} {type : Nat} {image : List Byte} {v : Verdict}
    (h_ : Keeps ps a0 b) (hl : partsIn [.regs, .ev, .free] ps = true) :
    Keeps ps a0 (Block.verifyImage b type image v).2 := by
  unfold Block.verifyImage
  try dsimp only
  repeat' (first
    | with_reducible exact h_ | with_reducible apply Block.imageResult_keeps
    | exact partsIn_trans (m := [.regs, .ev, .free]) (by decide) hl | dsimp only)

theorem Block.burn_keeps {ps : List Part} {a0 : Block} {b : Block} {fld fuse : Nat} {reads : List Bool}
    (h_ : Keeps ps a0 b) (hl : partsIn [.regs, .ev] ps = true) :
    Keeps ps a0 (Block.burn b fld fuse reads).2.2 := by
  unfold Block.burn
  try dsimp only
  repeat' (first
    | with_reducible exact h_ | with_reducible apply Block.raise_keeps | exact partsIn_trans (m := [.regs, .ev]) (by decide) hl
    | split | dsimp only)

theorem Block.burnFloor_keeps {ps : List Part} {a0 : Block} {x0 : Nat} {x1 : List Bool} {x2 : Block}
    (h_ : Keeps ps a0 x2) (hl : partsIn [.fuses, .regs, .ev] ps = true) : Keeps ps a0 (Block.burnFloor x0 x1 x2).2 := by
  induction x0 generalizing x1 x2 with
  | zero => exact h_
  | succ n ih =>
    unfold Block.burnFloor
    dsimp only
    repeat' (first
      | with_reducible exact h_ | with_reducible apply Keeps.iteSnd | with_reducible apply ih | with_reducible apply Block.onFuses_keeps
      | with_reducible apply Block.burn_keeps | exact partsIn_trans (m := [.fuses, .regs, .ev]) (by decide) hl)

theorem Block.commitRollback_keeps {ps : List Part} {a0 : Block} {b : Block} {h : Hdr} {key : Nat} {burns : List Bool}
    (h_ : Keeps ps a0 b) (hl : partsIn [.fuses, .queues, .mrg, .twin, .regs, .dict, .ev] ps = true) :
    Keeps ps a0 (Block.commitRollback b h key burns) := by
  unfold Block.commitRollback
  try dsimp only
  repeat' (first
    | with_reducible exact h_ | with_reducible apply Keeps.ite | with_reducible apply Keeps.iteFst
    | with_reducible apply Keeps.iteSnd | with_reducible apply Block.raise_keeps | with_reducible apply Block.ack_keeps
    | with_reducible apply Block.refuseKey_keeps | with_reducible apply Block.burnFloor_keeps
    | exact partsIn_trans (m := [.fuses, .queues, .mrg, .twin, .regs, .dict, .ev]) (by decide) hl | dsimp only)

theorem Block.burnKey_keeps {ps : List Part} {a0 : Block} {b : Block} {i : Nat} {hash : List Byte}
    (h_ : Keeps ps a0 b) (hl : partsIn [.fuses] ps = true) :
    Keeps ps a0 (Block.burnKey b i hash) := by
  unfold Block.burnKey
  try dsimp only
  repeat' (first
    | intro _ | with_reducible exact h_ | with_reducible apply Block.onFuses_keeps
    | exact partsIn_trans (m := [.fuses]) (by decide) hl | dsimp only)

theorem Block.revokeKey_keeps {ps : List Part} {a0 : Block} {b : Block} {i : Nat}
    (h_ : Keeps ps a0 b) (hl : partsIn [.fuses] ps = true) :
    Keeps ps a0 (Block.revokeKey b i) := by
  unfold Block.revokeKey
  try dsimp only
  repeat' (first
    | intro _ | with_reducible exact h_ | with_reducible apply Block.onFuses_keeps
    | exact partsIn_trans (m := [.fuses]) (by decide) hl | dsimp only)

theorem Block.keyChange_keeps {ps : List Part} {a0 : Block} {b : Block} {h : Hdr} {key action slot fld : Nat} {burns : List Bool} {f done : Block → Block}
    (h_ : Keeps ps a0 b) (hl : partsIn [.queues, .mrg, .twin, .regs, .dict, .ev] ps = true) (h_f : ∀ y, Keeps ps a0 y → Keeps ps a0 (f y)) (h_done : ∀ y, Keeps ps a0 y → Keeps ps a0 (done y)) :
    Keeps ps a0 (Block.keyChange b h key action slot fld burns f done) := by
  unfold Block.keyChange
  try dsimp only
  repeat' (first
    | intro _ | with_reducible exact h_ | with_reducible apply Keeps.ite | with_reducible apply Keeps.iteFst
    | with_reducible apply Keeps.iteSnd | with_reducible apply Block.raise_keeps | with_reducible apply Block.refuseKey_keeps
    | with_reducible apply Block.burn_keeps | with_reducible apply h_f | with_reducible apply h_done
    | exact partsIn_trans (m := [.queues, .mrg, .twin, .regs, .dict, .ev]) (by decide) hl | dsimp only)

theorem Block.firstKey_keeps {ps : List Part} {a0 : Block} {b : Block} {h : Hdr} {hash : List Byte} {burns : List Bool}
    (h_ : Keeps ps a0 b) (hl : partsIn [.fuses, .queues, .mrg, .twin, .regs, .dict, .ev] ps = true) :
    Keeps ps a0 (Block.firstKey b h hash burns) := by
  unfold Block.firstKey
  try dsimp only
  repeat' (first
    | intro _ | with_reducible exact h_ | with_reducible apply Keeps.ite | with_reducible apply Block.ack_keeps
    | with_reducible apply Block.refuseKey_keeps | with_reducible apply Block.burnKey_keeps
    | with_reducible apply Block.keyChange_keeps | with_reducible assumption
    | exact partsIn_trans (m := [.fuses, .queues, .mrg, .twin, .regs, .dict, .ev]) (by decide) hl | dsimp only)

theorem Block.ownerUpdate_keeps {ps : List Part} {a0 : Block} {b : Block} {h : Hdr} {image : List Byte} {v : Verdict} {burns : List Bool}
    (h_ : Keeps ps a0 b) (hl : partsIn [.fuses, .queues, .mrg, .twin, .regs, .dict, .ev, .free] ps = true) :
    Keeps ps a0 (Block.ownerUpdate b h image v burns) := by
  unfold Block.ownerUpdate
  try dsimp only
  repeat' (first
    | intro _ | with_reducible exact h_ | with_reducible apply Keeps.ite | with_reducible apply Keeps.iteFst
    | with_reducible apply Keeps.iteSnd | with_reducible apply Block.landed_keeps | with_reducible apply Block.refuseKey_keeps
    | with_reducible apply Block.verifyImage_keeps | with_reducible apply Block.burnKey_keeps
    | with_reducible apply Block.revokeKey_keeps | with_reducible apply Block.keyChange_keeps | with_reducible assumption
    | exact partsIn_trans (m := [.fuses, .queues, .mrg, .twin, .regs, .dict, .ev, .free]) (by decide) hl | dsimp only)

theorem Block.certCheck_keeps {ps : List Part} {a0 : Block} {b : Block} {digestOk : Bool} {sub : Nat}
    (h_ : Keeps ps a0 b) (hl : partsIn [.regs, .ev, .sec, .free] ps = true) :
    Keeps ps a0 (Block.certCheck b digestOk sub) := by
  unfold Block.certCheck
  try dsimp only
  repeat' (first
    | intro _ | with_reducible exact h_ | with_reducible apply Keeps.ite | with_reducible apply Block.onSec_keeps
    | with_reducible apply Block.setReg_keeps | with_reducible apply Block.raise_keeps | with_reducible apply Block.verified_keeps
    | exact partsIn_trans (m := [.regs, .ev, .sec, .free]) (by decide) hl | dsimp only)

theorem Block.keepToken_keeps {ps : List Part} {a0 : Block} {b : Block} {h : Hdr} {image : List Byte}
    (h_ : Keeps ps a0 b) (hl : partsIn [.queues, .mrg, .twin, .regs, .dict, .ev, .sec] ps = true) :
    Keeps ps a0 (Block.keepToken b h image) := by
  unfold Block.keepToken
  try dsimp only
  repeat' (first
    | intro _ | with_reducible exact h_ | with_reducible apply Block.onSec_keeps | with_reducible apply Block.landed_keeps
    | exact partsIn_trans (m := [.queues, .mrg, .twin, .regs, .dict, .ev, .sec]) (by decide) hl | dsimp only)

theorem Block.unlockWith_keeps {ps : List Part} {a0 : Block} {b : Block} {o : Origin} {credential : List Byte} {v : Verdict}
    (h_ : Keeps ps a0 b) (hl : partsIn [.regs, .ev, .sec, .free] ps = true) :
    Keeps ps a0 (Block.unlockWith b o credential v).2 := by
  unfold Block.unlockWith
  try dsimp only
  repeat' (first
    | intro _ | with_reducible exact h_ | with_reducible apply Keeps.ite | with_reducible apply Keeps.iteFst
    | with_reducible apply Keeps.iteSnd | with_reducible apply Block.onSec_keeps | with_reducible apply Block.raise_keeps
    | with_reducible apply Block.verifyImage_keeps | exact partsIn_trans (m := [.regs, .ev, .sec, .free]) (by decide) hl | split
    | dsimp only)

theorem Block.attestRequest_keeps {ps : List Part} {a0 : Block} {b : Block} {h : Hdr} {nonce : List Byte}
    (h_ : Keeps ps a0 b) (hl : partsIn [.queues, .mrg, .twin, .regs, .dict, .ev, .sec] ps = true) :
    Keeps ps a0 (Block.attestRequest b h nonce) := by
  unfold Block.attestRequest
  try dsimp only
  repeat' (first
    | intro _ | with_reducible exact h_ | with_reducible apply Keeps.ite | with_reducible apply Block.onSec_keeps
    | with_reducible apply Block.setReg_keeps | with_reducible apply Block.ack_keeps | with_reducible apply Block.refuseKey_keeps
    | exact partsIn_trans (m := [.queues, .mrg, .twin, .regs, .dict, .ev, .sec]) (by decide) hl | dsimp only)

theorem Block.attestCapture_keeps {ps : List Part} {a0 : Block} {b : Block}
    (h_ : Keeps ps a0 b) (hl : partsIn [.sec] ps = true) :
    Keeps ps a0 (Block.attestCapture b) := by
  unfold Block.attestCapture
  try dsimp only
  repeat' (first
    | intro _ | with_reducible exact h_ | with_reducible apply Keeps.ite | with_reducible apply Block.onSec_keeps
    | exact partsIn_trans (m := [.sec]) (by decide) hl | dsimp only)

theorem Block.attestRefused_keeps {ps : List Part} {a0 : Block} {b : Block} {cause : Nat}
    (h_ : Keeps ps a0 b) (hl : partsIn [.regs, .ev, .sec] ps = true) :
    Keeps ps a0 (Block.attestRefused b cause) := by
  unfold Block.attestRefused
  try dsimp only
  repeat' (first
    | intro _ | with_reducible exact h_ | with_reducible apply Block.onSec_keeps | with_reducible apply Block.setReg_keeps
    | with_reducible apply Block.raise_keeps | exact partsIn_trans (m := [.regs, .ev, .sec]) (by decide) hl | dsimp only)

theorem Block.attestSign_keeps {ps : List Part} {a0 : Block} {b : Block} {epoch : Nat}
    (h_ : Keeps ps a0 b) (hl : partsIn [.regs, .ev, .sec] ps = true) :
    Keeps ps a0 (Block.attestSign b epoch) := by
  unfold Block.attestSign
  try dsimp only
  repeat' (first
    | intro _ | with_reducible exact h_ | with_reducible apply Block.onSec_keeps | with_reducible apply Block.setReg_keeps
    | with_reducible apply Block.bump_keeps | with_reducible apply Block.raise_keeps
    | exact partsIn_trans (m := [.regs, .ev, .sec]) (by decide) hl | dsimp only)

theorem Block.attestNew_keeps {ps : List Part} {a0 : Block} {b : Block} {burns : List Bool}
    (h_ : Keeps ps a0 b) (hl : partsIn [.fuses, .regs, .ev, .sec] ps = true) :
    Keeps ps a0 (Block.attestNew b burns) := by
  unfold Block.attestNew
  try dsimp only
  repeat' (first
    | intro _ | with_reducible exact h_ | with_reducible apply Keeps.ite | with_reducible apply Keeps.iteFst
    | with_reducible apply Keeps.iteSnd | with_reducible apply Block.onFuses_keeps | with_reducible apply Block.onSec_keeps
    | with_reducible apply Block.raise_keeps | with_reducible apply Block.burn_keeps
    | with_reducible apply Block.attestRefused_keeps | with_reducible apply Block.attestSign_keeps
    | exact partsIn_trans (m := [.fuses, .regs, .ev, .sec]) (by decide) hl | dsimp only)

theorem Block.attestReady_keeps {ps : List Part} {a0 : Block} {b : Block} {burns : List Bool}
    (h_ : Keeps ps a0 b) (hl : partsIn [.fuses, .regs, .ev, .sec] ps = true) :
    Keeps ps a0 (Block.attestReady b burns) := by
  unfold Block.attestReady
  try dsimp only
  repeat' (first
    | with_reducible exact h_ | with_reducible apply Keeps.ite | with_reducible apply Block.attestRefused_keeps
    | with_reducible apply Block.attestSign_keeps | with_reducible apply Block.attestNew_keeps
    | exact partsIn_trans (m := [.fuses, .regs, .ev, .sec]) (by decide) hl | split | dsimp only)

theorem Block.bodyChecks_keeps {ps : List Part} {a0 : Block} {b : Block} {f : Folio} {body image : List Byte}
    (h_ : Keeps ps a0 b) (hl : partsIn [.regs, .ev, .free] ps = true) :
    Keeps ps a0 (Block.bodyChecks b f body image).2 := by
  unfold Block.bodyChecks
  try dsimp only
  repeat' (first
    | with_reducible exact h_ | with_reducible apply Keeps.ite | with_reducible apply Keeps.iteFst
    | with_reducible apply Keeps.iteSnd | with_reducible apply Block.freeNext_keeps | with_reducible apply Block.raise_keeps
    | exact partsIn_trans (m := [.regs, .ev, .free]) (by decide) hl | split | dsimp only)

theorem Block.unpackedChecks_keeps {ps : List Part} {a0 : Block} {b : Block} {body image : List Byte} {v : Verdict}
    (h_ : Keeps ps a0 b) (hl : partsIn [.regs, .ev, .free] ps = true) :
    Keeps ps a0 (Block.unpackedChecks b body image v).2 := by
  unfold Block.unpackedChecks
  try dsimp only
  repeat' (first
    | with_reducible exact h_ | with_reducible apply Keeps.ite | with_reducible apply Keeps.iteFst
    | with_reducible apply Keeps.iteSnd | with_reducible apply Block.imageResult_keeps
    | with_reducible apply Block.bodyChecks_keeps | exact partsIn_trans (m := [.regs, .ev, .free]) (by decide) hl | dsimp only)

theorem Block.folioChecks_keeps {ps : List Part} {a0 : Block} {b : Block} {image : List Byte} {v : Verdict}
    (h_ : Keeps ps a0 b) (hl : partsIn [.regs, .ev, .free] ps = true) :
    Keeps ps a0 (Block.folioChecks b image v).2 := by
  unfold Block.folioChecks
  try dsimp only
  repeat' (first
    | with_reducible exact h_ | with_reducible apply Keeps.ite | with_reducible apply Keeps.iteFst
    | with_reducible apply Keeps.iteSnd | with_reducible apply Block.setReg_keeps | with_reducible apply Block.raise_keeps
    | with_reducible apply Block.imageResult_keeps | with_reducible apply Block.unpackedChecks_keeps
    | exact partsIn_trans (m := [.regs, .ev, .free]) (by decide) hl | split | dsimp only)

theorem Block.folioVerify_keeps {ps : List Part} {a0 : Block} {b : Block} {image : List Byte} {v : Verdict}
    (h_ : Keeps ps a0 b) (hl : partsIn [.regs, .ev, .free] ps = true) :
    Keeps ps a0 (Block.folioVerify b image v).2 := by
  unfold Block.folioVerify
  try dsimp only
  repeat' (first
    | with_reducible exact h_ | with_reducible apply Block.setReg_keeps | with_reducible apply Block.raise_keeps
    | with_reducible apply Block.folioChecks_keeps | exact partsIn_trans (m := [.regs, .ev, .free]) (by decide) hl | split
    | dsimp only)

theorem Block.putPlan_keeps {ps : List Part} {a0 : Block} {b : Block} {p : Option RetPlan}
    (h_ : Keeps ps a0 b) (hl : partsIn [.sets, .chans, .adc, .mrg, .frm, .twin, .flt, .regs, .ev, .free] ps = true) :
    Keeps ps a0 (Block.putPlan b p) := by
  unfold Block.putPlan
  try dsimp only
  repeat' (first
    | intro _ | with_reducible exact h_ | with_reducible apply Keeps.ite | with_reducible apply Block.onSets_keeps
    | with_reducible apply Block.onAdc_keeps | with_reducible apply Block.onFlt_keeps | with_reducible apply Block.raise_keeps
    | with_reducible apply Block.wakeLinks_keeps
    | exact partsIn_trans (m := [.sets, .chans, .adc, .mrg, .frm, .twin, .flt, .regs, .ev, .free]) (by decide) hl | dsimp only)

theorem Block.putKeyed_keeps {ps : List Part} {a0 : Block} {b : Block}
    (h_ : Keeps ps a0 b) (hl : partsIn [.sets, .chans, .adc, .mrg, .frm, .twin, .flt, .regs, .ev, .free] ps = true) :
    Keeps ps a0 (Block.putKeyed b) := by
  unfold Block.putKeyed
  try dsimp only
  repeat' (first
    | intro _ | with_reducible exact h_ | with_reducible apply Keeps.ite | with_reducible apply Block.onSets_keeps
    | with_reducible apply Block.onFlt_keeps | with_reducible apply Block.freeNext_keeps | with_reducible apply Block.raise_keeps
    | with_reducible apply Block.putPlan_keeps
    | exact partsIn_trans (m := [.sets, .chans, .adc, .mrg, .frm, .twin, .flt, .regs, .ev, .free]) (by decide) hl | split
    | dsimp only)

theorem Block.settlePorts_keeps {ps : List Part} {a0 : Block} {b : Block} {gone : List Nat}
    (h_ : Keeps ps a0 b) (hl : partsIn [.mrg, .frm] ps = true) :
    Keeps ps a0 (Block.settlePorts b gone) := by
  unfold Block.settlePorts
  try dsimp only
  repeat' (first
    | intro _ | with_reducible exact h_ | with_reducible apply Keeps.ite | with_reducible apply Keeps.forEach
    | with_reducible apply Block.onLane_keeps | with_reducible apply Block.onPort_keeps
    | with_reducible apply Block.laneRetired_keeps | with_reducible assumption
    | exact partsIn_trans (m := [.mrg, .frm]) (by decide) hl | dsimp only)

theorem Block.parkLater_keeps {ps : List Part} {a0 : Block} {b : Block}
    (h_ : Keeps ps a0 b) (hl : partsIn [.sets] ps = true) :
    Keeps ps a0 (Block.parkLater b) := by
  unfold Block.parkLater
  try dsimp only
  repeat' (first
    | intro _ | with_reducible exact h_ | with_reducible apply Keeps.ite | with_reducible apply Block.onSets_keeps
    | exact partsIn_trans (m := [.sets]) (by decide) hl | dsimp only)

theorem Block.planBoundaryAt_keeps {ps : List Part} {a0 : Block} {b : Block} {orbit : Nat}
    (h_ : Keeps ps a0 b) (hl : partsIn [.sets, .chans, .adc, .mrg, .frm, .twin, .flt, .regs, .ev, .free] ps = true) :
    Keeps ps a0 (Block.planBoundaryAt b orbit) := by
  unfold Block.planBoundaryAt
  try dsimp only
  repeat' (first
    | intro _ | with_reducible exact h_ | with_reducible apply Keeps.ite | with_reducible apply Block.onFlt_keeps
    | with_reducible apply Block.setReg_keeps | with_reducible apply Block.wakeLinks_keeps
    | with_reducible apply Block.putPlan_keeps | with_reducible apply Block.putKeyed_keeps
    | with_reducible apply Block.settlePorts_keeps | with_reducible apply Block.parkLater_keeps
    | exact partsIn_trans (m := [.sets, .chans, .adc, .mrg, .frm, .twin, .flt, .regs, .ev, .free]) (by decide) hl | split
    | dsimp only)

theorem Block.planTake_keeps {ps : List Part} {a0 : Block} {b : Block} {v : Nat}
    (h_ : Keeps ps a0 b) (hl : partsIn [.flt, .regs] ps = true) :
    Keeps ps a0 (Block.planTake b v) := by
  unfold Block.planTake
  try dsimp only
  repeat' (first
    | intro _ | with_reducible exact h_ | with_reducible apply Block.onFlt_keeps | with_reducible apply Block.setReg_keeps
    | exact partsIn_trans (m := [.flt, .regs]) (by decide) hl | dsimp only)

theorem Block.toWorker_keeps {ps : List Part} {a0 : Block} {b : Block} {p origin : Nat} {m : List Byte}
    (h_ : Keeps ps a0 b) (hl : partsIn [.queues, .mrg, .regs, .ev] ps = true) :
    Keeps ps a0 (Block.toWorker b p origin m) := by
  unfold Block.toWorker
  try dsimp only
  repeat' (first
    | with_reducible exact h_ | with_reducible apply Block.qBulk_keeps
    | exact partsIn_trans (m := [.queues, .mrg, .regs, .ev]) (by decide) hl | dsimp only)

theorem Block.proxyAbort_keeps {ps : List Part} {a0 : Block} {b : Block} {h : Hdr} {idx sub code : Nat}
    (h_ : Keeps ps a0 b) (hl : partsIn [.queues, .mrg, .twin, .regs, .dict, .ev] ps = true) :
    Keeps ps a0 (Block.proxyAbort b h idx sub code) := by
  unfold Block.proxyAbort
  try dsimp only
  repeat' (first
    | with_reducible exact h_ | with_reducible apply Block.bump_keeps | with_reducible apply Block.abort_keeps
    | exact partsIn_trans (m := [.queues, .mrg, .twin, .regs, .dict, .ev]) (by decide) hl | dsimp only)

theorem Block.proxyTagFor_keeps {ps : List Part} {a0 : Block} {b : Block} {h : Hdr}
    (h_ : Keeps ps a0 b) (hl : partsIn [.dict] ps = true) :
    Keeps ps a0 (Block.proxyTagFor b h).2 := by
  unfold Block.proxyTagFor
  try dsimp only
  repeat' (first
    | intro _ | with_reducible exact h_ | with_reducible apply Keeps.ite | with_reducible apply Keeps.iteFst
    | with_reducible apply Keeps.iteSnd | with_reducible apply Keeps.onDictRest (by intro _; first | rfl | (split <;> rfl))
    | with_reducible apply Keeps.onDictRegs (by intro _; first | rfl | (split <;> rfl))
    | exact partsIn_trans (m := [.dict]) (by decide) hl | dsimp only | with_reducible apply Keeps.dict)

theorem Block.proxyForward_keeps {ps : List Part} {a0 : Block} {b : Block} {h : Hdr} {p op idx sub arg : Nat} {body : List Byte} {release : Bool}
    (h_ : Keeps ps a0 b) (hl : partsIn [.queues, .mrg, .regs, .dict, .ev] ps = true) :
    Keeps ps a0 (Block.proxyForward b h p op idx sub arg body release) := by
  unfold Block.proxyForward
  try dsimp only
  repeat' (first
    | intro _ | with_reducible exact h_ | with_reducible apply Block.onPort_keeps | with_reducible apply Block.toWorker_keeps
    | with_reducible apply Block.proxyTagFor_keeps | exact partsIn_trans (m := [.queues, .mrg, .regs, .dict, .ev]) (by decide) hl
    | dsimp only)

theorem Block.proxyRequest_keeps {ps : List Part} {a0 : Block} {b : Block} {h : Hdr} {op idx sub arg : Nat} {body : List Byte}
    (h_ : Keeps ps a0 b) (hl : partsIn [.queues, .mrg, .twin, .regs, .dict, .ev] ps = true) :
    Keeps ps a0 (Block.proxyRequest b h op idx sub arg body) := by
  unfold Block.proxyRequest
  try dsimp only
  repeat' (first
    | with_reducible exact h_ | with_reducible apply Keeps.ite | with_reducible apply Block.proxyAbort_keeps
    | with_reducible apply Block.proxyForward_keeps
    | exact partsIn_trans (m := [.queues, .mrg, .twin, .regs, .dict, .ev]) (by decide) hl | dsimp only)

theorem Block.ownAbort_keeps {ps : List Part} {a0 : Block} {b : Block} {idx sub code : Nat}
    (h_ : Keeps ps a0 b) (hl : partsIn [.regs, .ev] ps = true) :
    Keeps ps a0 (Block.ownAbort b idx sub code) := by
  unfold Block.ownAbort
  try dsimp only
  repeat' (first
    | with_reducible exact h_ | with_reducible apply Block.bump_keeps | with_reducible apply Block.raiseOnce_keeps
    | exact partsIn_trans (m := [.regs, .ev]) (by decide) hl | dsimp only)

theorem Block.ownWrite_keeps {ps : List Part} {a0 : Block} {b : Block} {p key : Nat} {body : List Byte} {release : Bool}
    (h_ : Keeps ps a0 b) (hl : partsIn [.queues, .mrg, .regs, .dict, .ev] ps = true) :
    Keeps ps a0 (Block.ownWrite b p key body release) := by
  unfold Block.ownWrite
  try dsimp only
  repeat' (first
    | with_reducible exact h_ | with_reducible apply Keeps.ite | with_reducible apply Block.proxyForward_keeps
    | with_reducible apply Block.ownAbort_keeps | exact partsIn_trans (m := [.queues, .mrg, .regs, .dict, .ev]) (by decide) hl
    | dsimp only)

theorem Block.ownSlice_keeps {ps : List Part} {a0 : Block} {b : Block} {p : Nat} {image : List Byte}
    (h_ : Keeps ps a0 b) (hl : partsIn [.queues, .mrg, .regs, .dict, .ev] ps = true) :
    Keeps ps a0 (Block.ownSlice b p image) := by
  unfold Block.ownSlice
  try dsimp only
  repeat' (first
    | intro _ | with_reducible exact h_ | with_reducible apply Keeps.ite
    | with_reducible apply Keeps.onDictRest (by intro _; first | rfl | (split <;> rfl))
    | with_reducible apply Keeps.onDictRegs (by intro _; first | rfl | (split <;> rfl))
    | with_reducible apply Block.proxyForward_keeps | with_reducible apply Block.ownAbort_keeps
    | exact partsIn_trans (m := [.queues, .mrg, .regs, .dict, .ev]) (by decide) hl | dsimp only | with_reducible apply Keeps.dict)

theorem Block.sendSlices_keeps {ps : List Part} {a0 : Block} {b : Block} {c : CfgSet}
    (h_ : Keeps ps a0 b) (hl : partsIn [.queues, .mrg, .regs, .dict, .ev] ps = true) :
    Keeps ps a0 (Block.sendSlices b c) := by
  unfold Block.sendSlices
  try dsimp only
  repeat' (first
    | intro _ | with_reducible exact h_ | with_reducible apply Keeps.ite | with_reducible apply Keeps.forEach
    | with_reducible apply Block.ownSlice_keeps | with_reducible assumption
    | exact partsIn_trans (m := [.queues, .mrg, .regs, .dict, .ev]) (by decide) hl | split | dsimp only)

theorem Block.armSwap_keeps {ps : List Part} {a0 : Block} {b : Block} {n : Nat}
    (h_ : Keeps ps a0 b) (hl : partsIn [.sets, .chans, .adc, .mrg, .frm, .twin, .flt, .regs, .ev, .free] ps = true) :
    Keeps ps a0 (Block.armSwap b n).2 := by
  unfold Block.armSwap
  try dsimp only
  repeat' (first
    | intro _ | with_reducible exact h_ | with_reducible apply Keeps.ite | with_reducible apply Keeps.iteFst
    | with_reducible apply Keeps.iteSnd | with_reducible apply Block.onSets_keeps | with_reducible apply Block.bump_keeps
    | with_reducible apply Block.raise_keeps | with_reducible apply Block.wakeLinks_keeps
    | exact partsIn_trans (m := [.sets, .chans, .adc, .mrg, .frm, .twin, .flt, .regs, .ev, .free]) (by decide) hl | split
    | dsimp only)

theorem Block.forwardSwap_keeps {ps : List Part} {a0 : Block} {b : Block} {n : Nat}
    (h_ : Keeps ps a0 b) (hl : partsIn [.acc] ps = true) :
    Keeps ps a0 (Block.forwardSwap b n) := by
  unfold Block.forwardSwap
  try dsimp only
  repeat' (first
    | intro _ | with_reducible exact h_ | with_reducible apply Keeps.ite | with_reducible apply Block.onAcc_keeps
    | exact partsIn_trans (m := [.acc]) (by decide) hl | dsimp only)

theorem Block.swapWrite_keeps {ps : List Part} {a0 : Block} {b : Block} {h : Hdr} {n : Nat}
    (h_ : Keeps ps a0 b) (hl : partsIn [.sets, .chans, .adc, .acc, .queues, .mrg, .frm, .twin, .flt, .regs, .dict, .ev, .free] ps = true) :
    Keeps ps a0 (Block.swapWrite b h n) := by
  unfold Block.swapWrite
  try dsimp only
  repeat' (first
    | with_reducible exact h_ | with_reducible apply Block.ack_keeps | with_reducible apply Block.refuseKey_keeps
    | with_reducible apply Block.armSwap_keeps | with_reducible apply Block.forwardSwap_keeps
    | exact partsIn_trans (m := [.sets, .chans, .adc, .acc, .queues, .mrg, .frm, .twin, .flt, .regs, .dict, .ev, .free]) (by decide) hl
    | split | dsimp only)

theorem Block.disarm_keeps {ps : List Part} {a0 : Block} {b : Block} {h : Hdr}
    (h_ : Keeps ps a0 b) (hl : partsIn [.sets, .queues, .mrg, .frm, .twin, .regs, .dict, .ev] ps = true) :
    Keeps ps a0 (Block.disarm b h) := by
  unfold Block.disarm
  try dsimp only
  repeat' (first
    | intro _ | with_reducible exact h_ | with_reducible apply Keeps.ite | with_reducible apply Block.onSets_keeps
    | with_reducible apply Block.raise_keeps | with_reducible apply Block.ack_keeps | with_reducible apply Block.refuseKey_keeps
    | with_reducible apply Block.parkLanes_keeps
    | exact partsIn_trans (m := [.sets, .queues, .mrg, .frm, .twin, .regs, .dict, .ev]) (by decide) hl | split | dsimp only)

theorem Block.swapOrbit_keeps {ps : List Part} {a0 : Block} {b : Block} {h : Hdr} {v : Nat}
    (h_ : Keeps ps a0 b) (hl : partsIn [.queues, .mrg, .twin, .regs, .dict, .ev] ps = true) :
    Keeps ps a0 (Block.swapOrbit b h v) := by
  unfold Block.swapOrbit
  try dsimp only
  repeat' (first
    | intro _ | with_reducible exact h_ | with_reducible apply Keeps.ite
    | with_reducible apply Keeps.onDictRest (by intro _; first | rfl | (split <;> rfl))
    | with_reducible apply Keeps.onDictRegs (by intro _; first | rfl | (split <;> rfl))
    | with_reducible apply Block.refuseKey_keeps
    | exact partsIn_trans (m := [.queues, .mrg, .twin, .regs, .dict, .ev]) (by decide) hl | dsimp only
    | with_reducible apply Keeps.dict)

theorem Block.swapsTaken_keeps {ps : List Part} {a0 : Block} {b : Block}
    (h_ : Keeps ps a0 b) (hl : partsIn [.sets, .chans, .adc, .acc, .queues, .mrg, .frm, .twin, .flt, .regs, .dict, .ev, .free] ps = true) :
    Keeps ps a0 (Block.swapsTaken b) := by
  unfold Block.swapsTaken
  try dsimp only
  repeat' (first
    | intro _ | with_reducible exact h_ | with_reducible apply Keeps.ite | with_reducible apply Keeps.forEach
    | with_reducible apply Keeps.onDictRest (by intro _; first | rfl | (split <;> rfl))
    | with_reducible apply Keeps.onDictRegs (by intro _; first | rfl | (split <;> rfl))
    | with_reducible apply Block.swapWrite_keeps | with_reducible apply Block.disarm_keeps | with_reducible assumption
    | exact partsIn_trans (m := [.sets, .chans, .adc, .acc, .queues, .mrg, .frm, .twin, .flt, .regs, .dict, .ev, .free]) (by decide) hl
    | dsimp only | with_reducible apply Keeps.dict)

theorem Block.swapAction_keeps {ps : List Part} {a0 : Block} {b : Block} {e : Nat}
    (h_ : Keeps ps a0 b) (hl : partsIn [.sets, .chans, .adc, .acc, .mrg, .frm, .twin, .flt, .regs, .ev, .free] ps = true) :
    Keeps ps a0 (Block.swapAction b e) := by
  unfold Block.swapAction
  try dsimp only
  repeat' (first
    | with_reducible exact h_ | with_reducible apply Block.bump_keeps | with_reducible apply Block.raise_keeps
    | with_reducible apply Block.armSwap_keeps | with_reducible apply Block.forwardSwap_keeps
    | exact partsIn_trans (m := [.sets, .chans, .adc, .acc, .mrg, .frm, .twin, .flt, .regs, .ev, .free]) (by decide) hl | split
    | dsimp only)

theorem Block.swapCommand_keeps {ps : List Part} {a0 : Block} {b : Block} {n : Nat}
    (h_ : Keeps ps a0 b) (hl : partsIn [.sets, .chans, .adc, .acc, .mrg, .frm, .twin, .flt, .regs, .ev, .free] ps = true) :
    Keeps ps a0 (Block.swapCommand b n) := by
  unfold Block.swapCommand
  try dsimp only
  repeat' (first
    | intro _ | with_reducible exact h_ | with_reducible apply Keeps.ite | with_reducible apply Keeps.iteFst
    | with_reducible apply Keeps.iteSnd | with_reducible apply Block.onAcc_keeps | with_reducible apply Block.armSwap_keeps
    | exact partsIn_trans (m := [.sets, .chans, .adc, .acc, .mrg, .frm, .twin, .flt, .regs, .ev, .free]) (by decide) hl
    | dsimp only)

theorem Block.markSwap_keeps {ps : List Part} {a0 : Block} {b : Block}
    (h_ : Keeps ps a0 b) (hl : partsIn [.time] ps = true) :
    Keeps ps a0 (Block.markSwap b) := by
  unfold Block.markSwap
  try dsimp only
  repeat' (first
    | intro _ | with_reducible exact h_ | with_reducible apply Keeps.ite
    | with_reducible apply Keeps.onTimeRest (by intro _; first | rfl | (split <;> rfl))
    | exact partsIn_trans (m := [.time]) (by decide) hl | dsimp only | with_reducible apply Keeps.time)

theorem Block.swapShadows_keeps {ps : List Part} {a0 : Block} {b : Block} {old : CfgSet}
    (h_ : Keeps ps a0 b) (hl : partsIn [.mrg] ps = true) :
    Keeps ps a0 (Block.swapShadows b old) := by
  unfold Block.swapShadows
  try dsimp only
  repeat' (first
    | intro _ | with_reducible exact h_ | with_reducible apply Keeps.ite | with_reducible apply Keeps.forEach
    | with_reducible apply Block.onPort_keeps | with_reducible assumption | exact partsIn_trans (m := [.mrg]) (by decide) hl
    | split | dsimp only)

theorem Block.powerUp_keeps {ps : List Part} {a0 : Block} {b : Block} {old : CfgSet}
    (h_ : Keeps ps a0 b) (hl : partsIn [.chans] ps = true) :
    Keeps ps a0 (Block.powerUp b old) := by
  unfold Block.powerUp
  try dsimp only
  repeat' (first
    | intro _ | with_reducible exact h_ | with_reducible apply Keeps.ite | with_reducible apply Keeps.forEach
    | with_reducible apply Block.settleFrom_keeps | with_reducible assumption | exact partsIn_trans (m := [.chans]) (by decide) hl
    | split | dsimp only)

theorem Block.rewatch_keeps {ps : List Part} {a0 : Block} {b : Block} {old : CfgSet}
    (h_ : Keeps ps a0 b) (hl : partsIn [.chans] ps = true) :
    Keeps ps a0 (Block.rewatch b old) := by
  unfold Block.rewatch
  try dsimp only
  repeat' (first
    | intro _ | with_reducible exact h_ | with_reducible apply Keeps.forEach | with_reducible apply Block.onChan_keeps
    | with_reducible assumption | exact partsIn_trans (m := [.chans]) (by decide) hl | split | dsimp only)

theorem Block.exchangeSets_keeps {ps : List Part} {a0 : Block} {b : Block}
    (h_ : Keeps ps a0 b) (hl : partsIn [.sets] ps = true) :
    Keeps ps a0 (Block.exchangeSets b) := by
  unfold Block.exchangeSets
  try dsimp only
  repeat' (first
    | intro _ | with_reducible exact h_ | with_reducible apply Block.onSets_keeps
    | exact partsIn_trans (m := [.sets]) (by decide) hl | dsimp only)

theorem Block.setSwap_keeps {ps : List Part} {a0 : Block} {b : Block}
    (h_ : Keeps ps a0 b) (hl : partsIn [.sets, .time, .chans, .chMask, .iu, .adc, .mrg, .frm, .twin, .flt, .regs, .ev, .free] ps = true) :
    Keeps ps a0 (Block.setSwap b) := by
  unfold Block.setSwap
  try dsimp only
  repeat' (first
    | intro _ | with_reducible exact h_ | with_reducible apply Keeps.ite | with_reducible apply Block.onSets_keeps
    | with_reducible apply Block.onAdc_keeps | with_reducible apply Block.raise_keeps
    | with_reducible apply Block.ttConflicts_keeps | with_reducible apply Block.ttActivate_keeps
    | with_reducible apply Block.remask_keeps | with_reducible apply Block.plateChecks_keeps
    | with_reducible apply Block.firesNow_keeps | with_reducible apply Block.wakeLinks_keeps
    | with_reducible apply Block.putKeyed_keeps | with_reducible apply Block.parkLater_keeps
    | with_reducible apply Block.markSwap_keeps | with_reducible apply Block.swapShadows_keeps
    | with_reducible apply Block.powerUp_keeps | with_reducible apply Block.rewatch_keeps
    | with_reducible apply Block.exchangeSets_keeps
    | exact partsIn_trans (m := [.sets, .time, .chans, .chMask, .iu, .adc, .mrg, .frm, .twin, .flt, .regs, .ev, .free]) (by decide) hl
    | dsimp only)

theorem Block.toShadow_keeps {ps : List Part} {a0 : Block} {b : Block} {c : CfgSet}
    (h_ : Keeps ps a0 b) (hl : partsIn [.boot, .sets, .queues, .mrg, .frm, .regs, .dict, .ev] ps = true) :
    Keeps ps a0 (Block.toShadow b c) := by
  unfold Block.toShadow
  try dsimp only
  repeat' (first
    | intro _ | with_reducible exact h_ | with_reducible apply Keeps.when
    | with_reducible apply Keeps.onBootRest (by intro _; first | exact ⟨rfl, rfl⟩ | (split <;> exact ⟨rfl, rfl⟩))
    | with_reducible apply Block.onSets_keeps | with_reducible apply Block.parkLanes_keeps
    | with_reducible apply Block.sendSlices_keeps | with_reducible assumption
    | exact partsIn_trans (m := [.boot, .sets, .queues, .mrg, .frm, .regs, .dict, .ev]) (by decide) hl | dsimp only
    | with_reducible apply Keeps.boot)

theorem Block.holdEnd_keeps {ps : List Part} {a0 : Block} {b : Block}
    (h_ : Keeps ps a0 b) (hl : partsIn [.boot, .sets, .queues, .mrg, .frm, .regs, .dict, .ev] ps = true) :
    Keeps ps a0 (Block.holdEnd b) := by
  unfold Block.holdEnd
  try dsimp only
  repeat' (first
    | intro _ | with_reducible exact h_ | with_reducible apply Block.onSets_keeps | with_reducible apply Block.toShadow_keeps
    | exact partsIn_trans (m := [.boot, .sets, .queues, .mrg, .frm, .regs, .dict, .ev]) (by decide) hl | split | dsimp only)

theorem Block.rsWrite_keeps {ps : List Part} {a0 : Block} {b : Block} {h : Hdr} {d : Desc} {key v : Nat}
    (h_ : Keeps ps a0 b) (hl : partsIn [.sets, .queues, .mrg, .twin, .regs, .dict, .ev] ps = true) :
    Keeps ps a0 (Block.rsWrite b h d key v) := by
  unfold Block.rsWrite
  try dsimp only
  repeat' (first
    | intro _ | with_reducible exact h_ | with_reducible apply Keeps.ite | with_reducible apply Block.onSets_keeps
    | with_reducible apply Block.raise_keeps | with_reducible apply Block.ack_keeps | with_reducible apply Block.refuseKey_keeps
    | exact partsIn_trans (m := [.sets, .queues, .mrg, .twin, .regs, .dict, .ev]) (by decide) hl | dsimp only)

theorem Block.rsRequest_keeps {ps : List Part} {a0 : Block} {b : Block} {h : Hdr} {key len v : Nat}
    (h_ : Keeps ps a0 b) (hl : partsIn [.boot, .sets, .queues, .mrg, .twin, .regs, .dict, .ev] ps = true) :
    Keeps ps a0 (Block.rsRequest b h key len v) := by
  unfold Block.rsRequest
  try dsimp only
  repeat' (first
    | intro _ | with_reducible exact h_ | with_reducible apply Keeps.ite | with_reducible apply Block.writeTo_keeps
    | with_reducible apply Block.rsWrite_keeps | with_reducible assumption
    | exact partsIn_trans (m := [.boot, .sets, .queues, .mrg, .twin, .regs, .dict, .ev]) (by decide) hl | split | dsimp only)

theorem Block.alignWritten_keeps {ps : List Part} {a0 : Block} {b : Block} {side v : Nat}
    (h_ : Keeps ps a0 b) (hl : partsIn [.time] ps = true) :
    Keeps ps a0 (Block.alignWritten b side v) := by
  unfold Block.alignWritten
  try dsimp only
  repeat' (first
    | intro _ | with_reducible exact h_ | with_reducible apply Keeps.onTimeRest (by intro _; first | rfl | (split <;> rfl))
    | exact partsIn_trans (m := [.time]) (by decide) hl | dsimp only | with_reducible apply Keeps.time)

theorem Block.enableCan_keeps {ps : List Part} {a0 : Block} {b : Block} {v : Nat}
    (h_ : Keeps ps a0 b) (hl : partsIn [.dict] ps = true) :
    Keeps ps a0 (Block.enableCan b v) := by
  unfold Block.enableCan
  try dsimp only
  repeat' (first
    | intro _ | with_reducible exact h_ | with_reducible apply Keeps.onDictRest (by intro _; first | rfl | (split <;> rfl))
    | with_reducible apply Keeps.onDictRegs (by intro _; first | rfl | (split <;> rfl))
    | exact partsIn_trans (m := [.dict]) (by decide) hl | dsimp only | with_reducible apply Keeps.dict)

theorem Block.baseClaimTaken_keeps {ps : List Part} {a0 : Block} {b : Block} {v : Nat}
    (h_ : Keeps ps a0 b) (hl : partsIn [.twin] ps = true) :
    Keeps ps a0 (Block.baseClaimTaken b v) := by
  unfold Block.baseClaimTaken
  try dsimp only
  repeat' (first
    | intro _ | with_reducible exact h_ | with_reducible apply Keeps.ite | with_reducible apply Block.onTwin_keeps
    | exact partsIn_trans (m := [.twin]) (by decide) hl | dsimp only)

theorem Block.takeWrite_keeps {ps : List Part} {a0 : Block} {b : Block} {h : Hdr} {key v : Nat}
    (h_ : Keeps ps a0 b) (hl : partsIn [.flash, .time, .chans, .adc, .mrg, .frm, .cvus, .twin, .flt, .regs, .dict, .ev, .env, .free] ps = true) :
    Keeps ps a0 (Block.takeWrite b h key v) := by
  unfold Block.takeWrite
  try dsimp only
  repeat' (first
    | intro _ | with_reducible exact h_ | with_reducible apply Keeps.ite
    | with_reducible apply Keeps.onTimeRest (by intro _; first | rfl | (split <;> rfl)) | with_reducible apply Block.onFlash_keeps
    | with_reducible apply Block.setReg_keeps | with_reducible apply Block.envConfigSet_keeps
    | with_reducible apply Block.cvuSetValue_keeps | with_reducible apply Block.prbsApply_keeps
    | with_reducible apply Block.holdSet_keeps | with_reducible apply Block.planTake_keeps
    | with_reducible apply Block.alignWritten_keeps | with_reducible apply Block.enableCan_keeps
    | with_reducible apply Block.baseClaimTaken_keeps
    | exact partsIn_trans (m := [.flash, .time, .chans, .adc, .mrg, .frm, .cvus, .twin, .flt, .regs, .dict, .ev, .env, .free]) (by decide) hl
    | dsimp only | with_reducible apply Keeps.time)

theorem Block.takeWrites_keeps {ps : List Part} {a0 : Block} {b : Block}
    (h_ : Keeps ps a0 b) (hl : partsIn [.flash, .time, .chans, .adc, .queues, .mrg, .frm, .cvus, .twin, .flt, .regs, .dict, .ev, .env, .free] ps = true) :
    Keeps ps a0 (Block.takeWrites b) := by
  unfold Block.takeWrites
  try dsimp only
  repeat' (first
    | intro _ | with_reducible exact h_ | with_reducible apply Keeps.ite | with_reducible apply Keeps.forEach
    | with_reducible apply Keeps.onDictRest (by intro _; first | rfl | (split <;> rfl))
    | with_reducible apply Keeps.onDictRegs (by intro _; first | rfl | (split <;> rfl)) | with_reducible apply Block.ack_keeps
    | with_reducible apply Block.takeWrite_keeps | with_reducible assumption
    | exact partsIn_trans (m := [.flash, .time, .chans, .adc, .queues, .mrg, .frm, .cvus, .twin, .flt, .regs, .dict, .ev, .env, .free]) (by decide) hl
    | dsimp only | with_reducible apply Keeps.dict)

theorem Block.rwWrite_keeps {ps : List Part} {a0 : Block} {b : Block} {h : Hdr} {d : Desc} {key v : Nat}
    (h_ : Keeps ps a0 b) (hl : partsIn [.iu, .queues, .mrg, .twin, .regs, .dict, .ev] ps = true) :
    Keeps ps a0 (Block.rwWrite b h d key v) := by
  unfold Block.rwWrite
  try dsimp only
  repeat' (first
    | with_reducible exact h_ | with_reducible apply Keeps.ite | with_reducible apply Block.refuseKey_keeps
    | with_reducible apply Block.pendWrite_keeps | with_reducible apply Block.progWrite_keeps
    | with_reducible apply Block.cvuRestore_keeps | with_reducible apply Block.laneConfigWrite_keeps
    | with_reducible apply Block.prbsWrite_keeps | with_reducible apply Block.swapOrbit_keeps
    | exact partsIn_trans (m := [.iu, .queues, .mrg, .twin, .regs, .dict, .ev]) (by decide) hl | dsimp only)

theorem Block.unlessReset_keeps {ps : List Part} {a0 : Block} {b : Block} {blk : Nat} {f : Block → Block}
    (h_ : Keeps ps a0 b) (hl : partsIn [.regs] ps = true) (h_f : ∀ y, Keeps ps a0 y → Keeps ps a0 (f y)) :
    Keeps ps a0 (Block.unlessReset b blk f) := by
  unfold Block.unlessReset
  try dsimp only
  repeat' (first
    | intro _ | with_reducible exact h_ | with_reducible apply Keeps.ite | with_reducible apply Block.bump_keeps
    | with_reducible apply h_f | exact partsIn_trans (m := [.regs]) (by decide) hl | dsimp only)

theorem Block.onCount_keeps {ps : List Part} {a0 : Block} {b : Block} {type target : Nat} {f : Block → Block}
    (h_ : Keeps ps a0 b) (hl : partsIn [.regs, .ev] ps = true) (h_f : ∀ y, Keeps ps a0 y → Keeps ps a0 (f y)) :
    Keeps ps a0 (Block.onCount b type target f) := by
  unfold Block.onCount
  try dsimp only
  repeat' (first
    | intro _ | with_reducible exact h_ | with_reducible apply Keeps.ite | with_reducible apply Block.commandLate_keeps
    | with_reducible apply h_f | exact partsIn_trans (m := [.regs, .ev]) (by decide) hl | dsimp only)

theorem Block.forwardNext_keeps {ps : List Part} {a0 : Block} {b : Block} {p : Ref48}
    (h_ : Keeps ps a0 b) (hl : partsIn [.acc] ps = true) :
    Keeps ps a0 (Block.forwardNext b p) := by
  unfold Block.forwardNext
  try dsimp only
  repeat' (first
    | intro _ | with_reducible exact h_ | with_reducible apply Keeps.ite | with_reducible apply Block.onAcc_keeps
    | exact partsIn_trans (m := [.acc]) (by decide) hl | dsimp only)

theorem Block.actResync_keeps {ps : List Part} {a0 : Block} {b : Block} {count h : Nat}
    (h_ : Keeps ps a0 b) (hl : partsIn [.time, .acc, .regs, .ev] ps = true) :
    Keeps ps a0 (Block.actResync b count h) := by
  unfold Block.actResync
  try dsimp only
  repeat' (first
    | intro _ | with_reducible exact h_ | with_reducible apply Keeps.ite
    | with_reducible apply Keeps.onTimeRest (by intro _; first | rfl | (split <;> rfl)) | with_reducible apply Block.onCount_keeps
    | with_reducible apply Block.forwardNext_keeps | with_reducible assumption
    | exact partsIn_trans (m := [.time, .acc, .regs, .ev]) (by decide) hl | dsimp only | with_reducible apply Keeps.time)

theorem Block.keepFires_keeps {ps : List Part} {a0 : Block} {b : Block}
    (h_ : Keeps ps a0 b) (hl : partsIn [.time] ps = true) :
    Keeps ps a0 (Block.keepFires b) := by
  unfold Block.keepFires
  try dsimp only
  repeat' (first
    | intro _ | with_reducible exact h_ | with_reducible apply Keeps.onTimeRest (by intro _; first | rfl | (split <;> rfl))
    | exact partsIn_trans (m := [.time]) (by decide) hl | dsimp only | with_reducible apply Keeps.time)

theorem Block.enterFire_keeps {ps : List Part} {a0 : Block} {b : Block} {x mask : Nat} {p : Point}
    (h_ : Keeps ps a0 b) (hl : partsIn [.time] ps = true) :
    Keeps ps a0 (Block.enterFire b x mask p) := by
  unfold Block.enterFire
  try dsimp only
  repeat' (first
    | intro _ | with_reducible exact h_ | with_reducible apply Keeps.onTimeRest (by intro _; first | rfl | (split <;> rfl))
    | exact partsIn_trans (m := [.time]) (by decide) hl | dsimp only | with_reducible apply Keeps.time)

theorem Block.actCalFire_keeps {ps : List Part} {a0 : Block} {b : Block} {mask : Nat} {p : Point} {target : Nat}
    (h_ : Keeps ps a0 b) (hl : partsIn [.time, .acc, .regs, .ev] ps = true) :
    Keeps ps a0 (Block.actCalFire b mask p target) := by
  unfold Block.actCalFire
  try dsimp only
  repeat' (first
    | intro _ | with_reducible exact h_ | with_reducible apply Keeps.ite | with_reducible apply Block.unlessReset_keeps
    | with_reducible apply Block.onCount_keeps | with_reducible apply Block.forwardNext_keeps
    | with_reducible apply Block.enterFire_keeps | with_reducible assumption
    | exact partsIn_trans (m := [.time, .acc, .regs, .ev]) (by decide) hl | dsimp only)

theorem Block.actMeasure_keeps {ps : List Part} {a0 : Block} {b : Block} {prog scope target : Nat}
    (h_ : Keeps ps a0 b) (hl : partsIn [.iu, .acc, .regs, .ev] ps = true) :
    Keeps ps a0 (Block.actMeasure b prog scope target) := by
  unfold Block.actMeasure
  try dsimp only
  repeat' (first
    | intro _ | with_reducible exact h_ | with_reducible apply Keeps.ite | with_reducible apply Block.onIu_keeps
    | with_reducible apply Block.unlessReset_keeps | with_reducible apply Block.onCount_keeps
    | with_reducible apply Block.forwardNext_keeps | with_reducible assumption
    | exact partsIn_trans (m := [.iu, .acc, .regs, .ev]) (by decide) hl | dsimp only)

theorem Block.armPending_keeps {ps : List Part} {a0 : Block} {b : Block}
    (h_ : Keeps ps a0 b) (hl : partsIn [.iu, .regs, .ev] ps = true) :
    Keeps ps a0 (Block.armPending b) := by
  unfold Block.armPending
  try dsimp only
  repeat' (first
    | intro _ | with_reducible exact h_ | with_reducible apply Keeps.forEach | with_reducible apply Block.onIu_keeps
    | with_reducible apply Block.arm_keeps | with_reducible assumption
    | exact partsIn_trans (m := [.iu, .regs, .ev]) (by decide) hl | dsimp only)

theorem Block.fastWrite_keeps {ps : List Part} {a0 : Block} {b : Block} {key v : Nat}
    (h_ : Keeps ps a0 b) (hl : partsIn [.flash, .time, .chans, .adc, .mrg, .frm, .cvus, .twin, .flt, .regs, .dict, .ev, .env, .free] ps = true) :
    Keeps ps a0 (Block.fastWrite b key v) := by
  unfold Block.fastWrite
  try dsimp only
  repeat' (first
    | intro _ | with_reducible exact h_ | with_reducible apply Keeps.ite | with_reducible apply Block.commandInvalid_keeps
    | with_reducible apply Block.takeWrite_keeps | with_reducible apply Block.unlessReset_keeps | with_reducible assumption
    | exact partsIn_trans (m := [.flash, .time, .chans, .adc, .mrg, .frm, .cvus, .twin, .flt, .regs, .dict, .ev, .env, .free]) (by decide) hl
    | dsimp only)

theorem Block.actFast_keeps {ps : List Part} {a0 : Block} {b : Block} {path idx sub v : Nat}
    (h_ : Keeps ps a0 b) (hl : partsIn [.flash, .time, .chans, .adc, .acc, .mrg, .frm, .cvus, .twin, .flt, .regs, .dict, .ev, .env, .free] ps = true) :
    Keeps ps a0 (Block.actFast b path idx sub v) := by
  unfold Block.actFast
  try dsimp only
  repeat' (first
    | with_reducible exact h_ | with_reducible apply Keeps.ite | with_reducible apply Block.forwardNext_keeps
    | with_reducible apply Block.fastWrite_keeps
    | exact partsIn_trans (m := [.flash, .time, .chans, .adc, .acc, .mrg, .frm, .cvus, .twin, .flt, .regs, .dict, .ev, .env, .free]) (by decide) hl
    | dsimp only)

theorem Block.claimEvent_keeps {ps : List Part} {a0 : Block} {b : Block} {action v : Nat} {done unverified : Bool}
    (h_ : Keeps ps a0 b) (hl : partsIn [.regs, .ev] ps = true) :
    Keeps ps a0 (Block.claimEvent b action v done unverified) := by
  unfold Block.claimEvent
  try dsimp only
  repeat' (first
    | with_reducible exact h_ | with_reducible apply Block.raise_keeps | exact partsIn_trans (m := [.regs, .ev]) (by decide) hl
    | dsimp only)

theorem Block.takeClaim_keeps {ps : List Part} {a0 : Block} {b : Block} {c : Nat}
    (h_ : Keeps ps a0 b) (hl : partsIn [.twin] ps = true) :
    Keeps ps a0 (Block.takeClaim b c) := by
  unfold Block.takeClaim
  try dsimp only
  repeat' (first
    | intro _ | with_reducible exact h_ | with_reducible apply Block.onTwin_keeps
    | exact partsIn_trans (m := [.twin]) (by decide) hl | dsimp only)

theorem Block.claimSet_keeps {ps : List Part} {a0 : Block} {b : Block} {v : Nat}
    (h_ : Keeps ps a0 b) (hl : partsIn [.twin, .regs, .ev] ps = true) :
    Keeps ps a0 (Block.claimSet b v) := by
  unfold Block.claimSet
  try dsimp only
  repeat' (first
    | intro _ | with_reducible exact h_ | with_reducible apply Keeps.ite | with_reducible apply Block.onTwin_keeps
    | with_reducible apply Block.setReg_keeps | with_reducible apply Block.claimEvent_keeps
    | exact partsIn_trans (m := [.twin, .regs, .ev]) (by decide) hl | dsimp only)

theorem Block.claimRelease_keeps {ps : List Part} {a0 : Block} {b : Block} {v : Nat}
    (h_ : Keeps ps a0 b) (hl : partsIn [.twin, .regs, .ev] ps = true) :
    Keeps ps a0 (Block.claimRelease b v) := by
  unfold Block.claimRelease
  try dsimp only
  repeat' (first
    | intro _ | with_reducible exact h_ | with_reducible apply Keeps.ite | with_reducible apply Block.onTwin_keeps
    | with_reducible apply Block.claimEvent_keeps | exact partsIn_trans (m := [.twin, .regs, .ev]) (by decide) hl | dsimp only)

theorem Block.claimRestore_keeps {ps : List Part} {a0 : Block} {b : Block} {v : Nat}
    (h_ : Keeps ps a0 b) (hl : partsIn [.twin, .regs, .ev] ps = true) :
    Keeps ps a0 (Block.claimRestore b v) := by
  unfold Block.claimRestore
  try dsimp only
  repeat' (first
    | intro _ | with_reducible exact h_ | with_reducible apply Keeps.ite | with_reducible apply Block.onTwin_keeps
    | with_reducible apply Block.sourceClear_keeps | with_reducible apply Block.enterResync_keeps
    | with_reducible apply Block.claimEvent_keeps | with_reducible apply Block.takeClaim_keeps
    | exact partsIn_trans (m := [.twin, .regs, .ev]) (by decide) hl | dsimp only)

theorem Block.actClaim_keeps {ps : List Part} {a0 : Block} {b : Block} {action : Nat} {unitB : Bool} {v : Nat}
    (h_ : Keeps ps a0 b) (hl : partsIn [.twin, .regs, .ev] ps = true) :
    Keeps ps a0 (Block.actClaim b action unitB v) := by
  unfold Block.actClaim
  try dsimp only
  repeat' (first
    | with_reducible exact h_ | with_reducible apply Keeps.ite | with_reducible apply Block.commandInvalid_keeps
    | with_reducible apply Block.claimSet_keeps | with_reducible apply Block.claimRelease_keeps
    | with_reducible apply Block.claimRestore_keeps | exact partsIn_trans (m := [.twin, .regs, .ev]) (by decide) hl | split
    | dsimp only)

theorem Block.actCommand_keeps {ps : List Part} {a0 : Block} {b : Block} {p : Ref48} {h : Nat}
    (h_ : Keeps ps a0 b) (hl : partsIn [.flash, .sets, .time, .chans, .iu, .adc, .acc, .stk, .queues, .mrg, .frm, .cvus, .twin, .flt, .regs, .dict, .ev, .env, .free] ps = true) :
    Keeps ps a0 (Block.actCommand b p h) := by
  unfold Block.actCommand
  try dsimp only
  repeat' (first
    | with_reducible exact h_ | with_reducible apply Block.commandInvalid_keeps | with_reducible apply Block.actAccept_keeps
    | with_reducible apply Block.swapCommand_keeps | with_reducible apply Block.actResync_keeps
    | with_reducible apply Block.actCalFire_keeps | with_reducible apply Block.actMeasure_keeps
    | with_reducible apply Block.actFast_keeps | with_reducible apply Block.actClaim_keeps
    | exact partsIn_trans (m := [.flash, .sets, .time, .chans, .iu, .adc, .acc, .stk, .queues, .mrg, .frm, .cvus, .twin, .flt, .regs, .dict, .ev, .env, .free]) (by decide) hl
    | split | dsimp only)

theorem Block.regularStart_keeps {ps : List Part} {a0 : Block} {b : Block} {e : Nat}
    (h_ : Keeps ps a0 b) (hl : partsIn [.adc] ps = true) :
    Keeps ps a0 (Block.regularStart b e) := by
  unfold Block.regularStart
  try dsimp only
  repeat' (first
    | intro _ | with_reducible exact h_ | with_reducible apply Keeps.ite | with_reducible apply Block.onAdc_keeps
    | exact partsIn_trans (m := [.adc]) (by decide) hl | split | dsimp only)

theorem Block.timeMark_keeps {ps : List Part} {a0 : Block} {b : Block} {tag : Nat}
    (h_ : Keeps ps a0 b) (hl : partsIn [.queues, .mrg, .regs, .ev] ps = true) :
    Keeps ps a0 (Block.timeMark b tag) := by
  unfold Block.timeMark
  try dsimp only
  repeat' (first
    | intro _ | with_reducible exact h_ | with_reducible apply Keeps.ite | with_reducible apply Block.onMrg_keeps
    | with_reducible apply Block.bump_keeps | with_reducible apply Block.qWrite_keeps
    | exact partsIn_trans (m := [.queues, .mrg, .regs, .ev]) (by decide) hl | dsimp only)

theorem Block.fourParts_keeps {ps : List Part} {a0 : Block} {b : Block} {q x : Nat} {l : List Word64}
    (h_ : Keeps ps a0 b) (hl : partsIn [.queues, .mrg, .regs, .ev] ps = true) :
    Keeps ps a0 (Block.fourParts b q x l) := by
  unfold Block.fourParts
  try dsimp only
  repeat' (first
    | with_reducible exact h_ | with_reducible apply Keeps.ite | with_reducible apply Block.qClose_keeps
    | with_reducible apply Block.qWriteAll_keeps | exact partsIn_trans (m := [.queues, .mrg, .regs, .ev]) (by decide) hl
    | dsimp only)

theorem Block.todMarkNow_keeps {ps : List Part} {a0 : Block} {b : Block}
    (h_ : Keeps ps a0 b) (hl : partsIn [.queues, .mrg, .regs, .ev] ps = true) :
    Keeps ps a0 (Block.todMarkNow b) := by
  unfold Block.todMarkNow
  try dsimp only
  repeat' (first
    | intro _ | with_reducible exact h_ | with_reducible apply Keeps.ite | with_reducible apply Block.onMrg_keeps
    | with_reducible apply Block.fourParts_keeps | exact partsIn_trans (m := [.queues, .mrg, .regs, .ev]) (by decide) hl
    | dsimp only)

theorem Block.ttDo_keeps {ps : List Part} {a0 : Block} {b : Block} {e action : Nat} {f : Block → Block}
    (h_ : Keeps ps a0 b) (hl : partsIn [.time] ps = true) (h_f : ∀ y, Keeps ps a0 y → Keeps ps a0 (f y)) :
    Keeps ps a0 (Block.ttDo b e action f) := by
  unfold Block.ttDo
  try dsimp only
  repeat' (first
    | intro _ | with_reducible exact h_ | with_reducible apply Keeps.when | with_reducible apply Block.ttUsed_keeps
    | with_reducible apply h_f | with_reducible assumption | exact partsIn_trans (m := [.time]) (by decide) hl | dsimp only)

end Sys2Proof.Machine
end

