-- ==== Sys2Proof/Laws/FramesTwin.lean ====
section
/-! SUPPORT. The frame of every operation of the twin pair, resynchronisation, worker messages, the merge and the compression engine: which parts of the block it can change. -/

namespace Sys2Proof.Machine

set_option linter.all false

theorem Block.judgeClaims_keeps {ps : List Part} {a0 : Block} {b : Block}
    (h_ : Keeps ps a0 b) (hl : partsIn [.twin, .regs, .ev] ps = true) :
    Keeps ps a0 (Block.judgeClaims b) := by
  unfold Block.judgeClaims
  try dsimp only
  repeat' (first
    | intro _ | with_reducible exact h_ | with_reducible apply Keeps.ite | with_reducible apply Block.onTwin_keeps
    | with_reducible apply Block.bump_keeps | with_reducible apply Block.raise_keeps
    | exact partsIn_trans (m := [.twin, .regs, .ev]) (by decide) hl | dsimp only)

theorem Block.inputFault_keeps {ps : List Part} {a0 : Block} {b : Block} {n : Nat}
    (h_ : Keeps ps a0 b) (hl : partsIn [.twin] ps = true) :
    Keeps ps a0 (Block.inputFault b n) := by
  unfold Block.inputFault
  try dsimp only
  repeat' (first
    | intro _ | with_reducible exact h_ | with_reducible apply Keeps.ite | with_reducible apply Block.onTwin_keeps
    | exact partsIn_trans (m := [.twin]) (by decide) hl | dsimp only)

theorem Block.startTest_keeps {ps : List Part} {a0 : Block} {b : Block} {decide_ : Bool}
    (h_ : Keeps ps a0 b) (hl : partsIn [.twin, .regs] ps = true) :
    Keeps ps a0 (Block.startTest b decide_) := by
  unfold Block.startTest
  try dsimp only
  repeat' (first
    | intro _ | with_reducible exact h_ | with_reducible apply Keeps.ite | with_reducible apply Block.onTwin_keeps
    | with_reducible apply Block.bump_keeps | exact partsIn_trans (m := [.twin, .regs]) (by decide) hl | dsimp only)

theorem Block.testEvent_keeps {ps : List Part} {a0 : Block} {b : Block} {own partner : Nat}
    (h_ : Keeps ps a0 b) (hl : partsIn [.regs, .ev] ps = true) :
    Keeps ps a0 (Block.testEvent b own partner) := by
  unfold Block.testEvent
  try dsimp only
  repeat' (first
    | with_reducible exact h_ | with_reducible apply Block.raise_keeps | exact partsIn_trans (m := [.regs, .ev]) (by decide) hl
    | dsimp only)

theorem Block.testEnd_keeps {ps : List Part} {a0 : Block} {b : Block} {start other : Nat}
    (h_ : Keeps ps a0 b) (hl : partsIn [.twin, .regs, .ev] ps = true) :
    Keeps ps a0 (Block.testEnd b start other) := by
  unfold Block.testEnd
  try dsimp only
  repeat' (first
    | intro _ | with_reducible exact h_ | with_reducible apply Keeps.ite | with_reducible apply Block.onTwin_keeps
    | with_reducible apply Block.bump_keeps | with_reducible apply Block.sourceFail_keeps
    | with_reducible apply Block.sourceClear_keeps | with_reducible apply Block.testEvent_keeps
    | exact partsIn_trans (m := [.twin, .regs, .ev]) (by decide) hl | dsimp only)

theorem Block.decideMismatch_keeps {ps : List Part} {a0 : Block} {b : Block} {v : Nat × Nat × Nat}
    (h_ : Keeps ps a0 b) (hl : partsIn [.twin, .regs, .ev] ps = true) :
    Keeps ps a0 (Block.decideMismatch b v) := by
  unfold Block.decideMismatch
  try dsimp only
  repeat' (first
    | intro _ | with_reducible exact h_ | with_reducible apply Keeps.ite | with_reducible apply Block.onTwin_keeps
    | with_reducible apply Block.enterResync_keeps | with_reducible apply Block.testEvent_keeps
    | exact partsIn_trans (m := [.twin, .regs, .ev]) (by decide) hl | dsimp only)

theorem Block.resyncWait_keeps {ps : List Part} {a0 : Block} {b : Block}
    (h_ : Keeps ps a0 b) (hl : partsIn [.twin, .regs, .ev] ps = true) :
    Keeps ps a0 (Block.resyncWait b) := by
  unfold Block.resyncWait
  try dsimp only
  repeat' (first
    | intro _ | with_reducible exact h_ | with_reducible apply Keeps.ite | with_reducible apply Block.onTwin_keeps
    | with_reducible apply Block.raiseOnce_keeps | exact partsIn_trans (m := [.twin, .regs, .ev]) (by decide) hl | dsimp only)

theorem Block.emptyMerge_keeps {ps : List Part} {a0 : Block} {b : Block}
    (h_ : Keeps ps a0 b) (hl : partsIn [.queues, .mrg] ps = true) :
    Keeps ps a0 (Block.emptyMerge b) := by
  unfold Block.emptyMerge
  try dsimp only
  repeat' (first
    | intro _ | with_reducible exact h_ | with_reducible apply Block.onMrg_keeps
    | exact partsIn_trans (m := [.queues, .mrg]) (by decide) hl | split | dsimp only | with_reducible apply Keeps.queues)

theorem Block.joinRelease_keeps {ps : List Part} {a0 : Block} {b : Block}
    (h_ : Keeps ps a0 b) (hl : partsIn [.boot, .regs] ps = true) :
    Keeps ps a0 (Block.joinRelease b) := by
  unfold Block.joinRelease
  try dsimp only
  repeat' (first
    | intro _ | with_reducible exact h_ | with_reducible apply Keeps.ite
    | with_reducible apply Keeps.onBootRest (by intro _; first | exact ⟨rfl, rfl⟩ | (split <;> exact ⟨rfl, rfl⟩))
    | with_reducible apply Block.setReg_keeps | exact partsIn_trans (m := [.boot, .regs]) (by decide) hl | dsimp only
    | with_reducible apply Keeps.boot)

theorem Block.followStart_keeps {ps : List Part} {a0 : Block} {b : Block}
    (h_ : Keeps ps a0 b) (hl : partsIn [.boot, .queues, .mrg, .twin, .regs] ps = true) :
    Keeps ps a0 (Block.followStart b) := by
  unfold Block.followStart
  try dsimp only
  repeat' (first
    | intro _ | with_reducible exact h_ | with_reducible apply Block.onTwin_keeps | with_reducible apply Block.emptyMerge_keeps
    | with_reducible apply Block.joinRelease_keeps
    | exact partsIn_trans (m := [.boot, .queues, .mrg, .twin, .regs]) (by decide) hl | dsimp only)

theorem Block.followEnd_keeps {ps : List Part} {a0 : Block} {b : Block}
    (h_ : Keeps ps a0 b) (hl : partsIn [.acc, .twin] ps = true) :
    Keeps ps a0 (Block.followEnd b) := by
  unfold Block.followEnd
  try dsimp only
  repeat' (first
    | intro _ | with_reducible exact h_ | with_reducible apply Keeps.ite | with_reducible apply Block.onAcc_keeps
    | with_reducible apply Block.onTwin_keeps | exact partsIn_trans (m := [.acc, .twin]) (by decide) hl | dsimp only)

theorem Block.resyncFail_keeps {ps : List Part} {a0 : Block} {b : Block}
    (h_ : Keeps ps a0 b) (hl : partsIn [.twin, .regs, .ev] ps = true) :
    Keeps ps a0 (Block.resyncFail b) := by
  unfold Block.resyncFail
  try dsimp only
  repeat' (first
    | intro _ | with_reducible exact h_ | with_reducible apply Keeps.ite | with_reducible apply Block.onTwin_keeps
    | with_reducible apply Block.bump_keeps | with_reducible apply Block.raise_keeps | with_reducible apply Block.sourceFail_keeps
    | exact partsIn_trans (m := [.twin, .regs, .ev]) (by decide) hl | dsimp only)

theorem Block.returnTwin_keeps {ps : List Part} {a0 : Block} {b : Block}
    (h_ : Keeps ps a0 b) (hl : partsIn [.twin, .regs, .ev] ps = true) :
    Keeps ps a0 (Block.returnTwin b) := by
  unfold Block.returnTwin
  try dsimp only
  repeat' (first
    | intro _ | with_reducible exact h_ | with_reducible apply Keeps.ite | with_reducible apply Block.onTwin_keeps
    | with_reducible apply Block.bump_keeps | with_reducible apply Block.raise_keeps
    | exact partsIn_trans (m := [.twin, .regs, .ev]) (by decide) hl | dsimp only)

theorem Block.adoptAccept_keeps {ps : List Part} {a0 : Block} {b : Block} {w2 at_ : Nat}
    (h_ : Keeps ps a0 b) (hl : partsIn [.acc, .regs] ps = true) :
    Keeps ps a0 (Block.adoptAccept b w2 at_) := by
  unfold Block.adoptAccept
  try dsimp only
  repeat' (first
    | intro _ | with_reducible exact h_ | with_reducible apply Keeps.ite | with_reducible apply Block.onAcc_keeps
    | with_reducible apply Block.setReg_keeps | with_reducible apply Block.noteAccept_keeps
    | exact partsIn_trans (m := [.acc, .regs]) (by decide) hl | split | dsimp only)

theorem Block.pairWith_keeps {ps : List Part} {a0 : Block} {b : Block} {w0 : Nat}
    (h_ : Keeps ps a0 b) (hl : partsIn [.twin, .regs, .ev] ps = true) :
    Keeps ps a0 (Block.pairWith b w0) := by
  unfold Block.pairWith
  try dsimp only
  repeat' (first
    | intro _ | with_reducible exact h_ | with_reducible apply Keeps.ite | with_reducible apply Block.onTwin_keeps
    | with_reducible apply Block.enterResync_keeps | exact partsIn_trans (m := [.twin, .regs, .ev]) (by decide) hl | dsimp only)

theorem Block.declared_keeps {ps : List Part} {a0 : Block} {b : Block} {w0 old : Nat}
    (h_ : Keeps ps a0 b) (hl : partsIn [.time] ps = true) :
    Keeps ps a0 (Block.declared b w0 old) := by
  unfold Block.declared
  try dsimp only
  repeat' (first
    | intro _ | with_reducible exact h_ | with_reducible apply Keeps.when | with_reducible apply Keeps.forEach
    | with_reducible apply Block.leaveDomain_keeps | with_reducible assumption | exact partsIn_trans (m := [.time]) (by decide) hl
    | dsimp only)

theorem Block.placeAlign_keeps {ps : List Part} {a0 : Block} {b : Block} {l : List Word64}
    (h_ : Keeps ps a0 b) (hl : partsIn [.queues, .mrg, .regs, .ev] ps = true) :
    Keeps ps a0 (Block.placeAlign b l) := by
  unfold Block.placeAlign
  try dsimp only
  repeat' (first
    | with_reducible exact h_ | with_reducible apply Block.toWorker_keeps
    | exact partsIn_trans (m := [.queues, .mrg, .regs, .ev]) (by decide) hl | split | dsimp only)

theorem Block.mirrored_keeps {ps : List Part} {a0 : Block} {b : Block} {w : Word64} {fromB held : Bool}
    (h_ : Keeps ps a0 b) (hl : partsIn [.queues, .mrg, .twin, .regs, .ev] ps = true) :
    Keeps ps a0 (Block.mirrored b w fromB held) := by
  unfold Block.mirrored
  try dsimp only
  repeat' (first
    | intro _ | with_reducible exact h_ | with_reducible apply Keeps.ite | with_reducible apply Block.onMrg_keeps
    | with_reducible apply Block.onTwin_keeps | with_reducible apply Block.placeAlign_keeps
    | exact partsIn_trans (m := [.queues, .mrg, .twin, .regs, .ev]) (by decide) hl | dsimp only)

theorem Block.takeTwinWords_keeps {ps : List Part} {a0 : Block} {b : Block} {l : List Word64}
    (h_ : Keeps ps a0 b) (hl : partsIn [.time, .acc, .queues, .mrg, .twin, .regs, .ev] ps = true) :
    Keeps ps a0 (Block.takeTwinWords b l) := by
  unfold Block.takeTwinWords
  try dsimp only
  repeat' (first
    | intro _ | with_reducible exact h_ | with_reducible apply Keeps.ite | with_reducible apply Keeps.forEach
    | with_reducible apply Block.onTwin_keeps | with_reducible apply Block.adoptAccept_keeps
    | with_reducible apply Block.pairWith_keeps | with_reducible apply Block.declared_keeps
    | with_reducible apply Block.mirrored_keeps | with_reducible assumption
    | exact partsIn_trans (m := [.time, .acc, .queues, .mrg, .twin, .regs, .ev]) (by decide) hl | dsimp only)

theorem Block.noteMismatch_keeps {ps : List Part} {a0 : Block} {b : Block} {t : Nat} {own got : Ref48}
    (h_ : Keeps ps a0 b) (hl : partsIn [.regs, .ev] ps = true) :
    Keeps ps a0 (Block.noteMismatch b t own got) := by
  unfold Block.noteMismatch
  try dsimp only
  repeat' (first
    | with_reducible exact h_ | with_reducible apply Block.setReg_keeps | with_reducible apply Block.raise_keeps
    | exact partsIn_trans (m := [.regs, .ev]) (by decide) hl | dsimp only)

theorem Block.compareRunning_keeps {ps : List Part} {a0 : Block} {b : Block} {t : Nat} {own got : Ref48}
    (h_ : Keeps ps a0 b) (hl : partsIn [.twin, .regs, .ev] ps = true) :
    Keeps ps a0 (Block.compareRunning b t own got) := by
  unfold Block.compareRunning
  try dsimp only
  repeat' (first
    | with_reducible exact h_ | with_reducible apply Keeps.ite | with_reducible apply Block.bump_keeps
    | with_reducible apply Block.startTest_keeps | with_reducible apply Block.noteMismatch_keeps
    | exact partsIn_trans (m := [.twin, .regs, .ev]) (by decide) hl | split | dsimp only)

theorem Block.compareSpan_keeps {ps : List Part} {a0 : Block} {b : Block} {t : Nat} {own got : Ref48}
    (h_ : Keeps ps a0 b) (hl : partsIn [.twin, .regs, .ev] ps = true) :
    Keeps ps a0 (Block.compareSpan b t own got) := by
  unfold Block.compareSpan
  try dsimp only
  repeat' (first
    | intro _ | with_reducible exact h_ | with_reducible apply Keeps.ite | with_reducible apply Block.onTwin_keeps
    | with_reducible apply Block.bump_keeps | with_reducible apply Block.resyncFail_keeps
    | with_reducible apply Block.noteMismatch_keeps | exact partsIn_trans (m := [.twin, .regs, .ev]) (by decide) hl | split
    | dsimp only)

theorem Block.spanMissed_keeps {ps : List Part} {a0 : Block} {b : Block}
    (h_ : Keeps ps a0 b) (hl : partsIn [.twin, .regs, .ev] ps = true) :
    Keeps ps a0 (Block.spanMissed b) := by
  unfold Block.spanMissed
  try dsimp only
  repeat' (first
    | intro _ | with_reducible exact h_ | with_reducible apply Keeps.when | with_reducible apply Block.resyncFail_keeps
    | with_reducible assumption | exact partsIn_trans (m := [.twin, .regs, .ev]) (by decide) hl | split | dsimp only)

theorem Block.compareDigest_keeps {ps : List Part} {a0 : Block} {b : Block} {t : Nat} {got : Ref48}
    (h_ : Keeps ps a0 b) (hl : partsIn [.twin, .regs, .ev] ps = true) :
    Keeps ps a0 (Block.compareDigest b t got) := by
  unfold Block.compareDigest
  try dsimp only
  repeat' (first
    | with_reducible exact h_ | with_reducible apply Keeps.ite | with_reducible apply Block.compareRunning_keeps
    | with_reducible apply Block.compareSpan_keeps | exact partsIn_trans (m := [.twin, .regs, .ev]) (by decide) hl | split
    | dsimp only)

theorem Block.crossRegion_keeps {ps : List Part} {a0 : Block} {b : Block} {l : Nat} {f : Option CFrame}
    (h_ : Keeps ps a0 b) (hl : partsIn [.chans, .adc, .mrg, .frm, .twin, .flt, .regs, .ev, .free] ps = true) :
    Keeps ps a0 (Block.crossRegion b l f).2 := by
  unfold Block.crossRegion
  try dsimp only
  repeat' (first
    | intro _ | with_reducible exact h_ | with_reducible apply Keeps.ite | with_reducible apply Keeps.iteFst
    | with_reducible apply Keeps.iteSnd | with_reducible apply Block.regionFailed_keeps
    | exact partsIn_trans (m := [.chans, .adc, .mrg, .frm, .twin, .flt, .regs, .ev, .free]) (by decide) hl | split | dsimp only)

theorem Block.crossTake_keeps {ps : List Part} {a0 : Block} {b : Block} {l : Nat} {f : CFrame}
    (h_ : Keeps ps a0 b) (hl : partsIn [.time, .chans, .adc, .mrg, .frm, .twin, .flt, .regs, .ev, .free] ps = true) :
    Keeps ps a0 (Block.crossTake b l f).2.2 := by
  unfold Block.crossTake
  try dsimp only
  repeat' (first
    | intro _ | with_reducible exact h_ | with_reducible apply Keeps.ite | with_reducible apply Keeps.iteFst
    | with_reducible apply Keeps.iteSnd | with_reducible apply Block.onLane_keeps | with_reducible apply Block.takeFrame_keeps
    | with_reducible apply Block.dropLink_keeps | with_reducible apply Block.crossRegion_keeps
    | exact partsIn_trans (m := [.time, .chans, .adc, .mrg, .frm, .twin, .flt, .regs, .ev, .free]) (by decide) hl | dsimp only)

theorem Block.crossLane_keeps {ps : List Part} {a0 : Block} {b : Block} {l : Nat} {x : Option LineFrame}
    (h_ : Keeps ps a0 b) (hl : partsIn [.time, .chans, .adc, .mrg, .frm, .twin, .flt, .regs, .ev, .free] ps = true) :
    Keeps ps a0 (Block.crossLane b l x).2.2 := by
  unfold Block.crossLane
  try dsimp only
  repeat' (first
    | intro _ | with_reducible exact h_ | with_reducible apply Keeps.ite | with_reducible apply Keeps.iteFst
    | with_reducible apply Keeps.iteSnd | with_reducible apply Block.onLane_keeps | with_reducible apply Block.syncFrame_keeps
    | with_reducible apply Block.hear_keeps | with_reducible apply Block.lineIn_keeps
    | with_reducible apply Block.crossRegion_keeps | with_reducible apply Block.crossTake_keeps | with_reducible assumption
    | exact partsIn_trans (m := [.time, .chans, .adc, .mrg, .frm, .twin, .flt, .regs, .ev, .free]) (by decide) hl | split
    | dsimp only)

theorem Block.crossClaim_keeps {ps : List Part} {a0 : Block} {b : Block} {l : List (Nat × CFrame)}
    (h_ : Keeps ps a0 b) (hl : partsIn [.twin, .regs] ps = true) :
    Keeps ps a0 (Block.crossClaim b l) := by
  unfold Block.crossClaim
  try dsimp only
  repeat' (first
    | intro _ | with_reducible exact h_ | with_reducible apply Block.onTwin_keeps | with_reducible apply Block.claimOf_keeps
    | exact partsIn_trans (m := [.twin, .regs]) (by decide) hl | split | dsimp only)

theorem Block.crosslink_keeps {ps : List Part} {a0 : Block} {b : Block} {l38 l39 : Option LineFrame}
    (h_ : Keeps ps a0 b) (hl : partsIn [.time, .chans, .adc, .acc, .queues, .mrg, .frm, .twin, .flt, .regs, .ev, .free] ps = true) :
    Keeps ps a0 (Block.crosslink b l38 l39) := by
  unfold Block.crosslink
  try dsimp only
  repeat' (first
    | intro _ | with_reducible exact h_ | with_reducible apply Keeps.when | with_reducible apply Block.resolve_keeps
    | with_reducible apply Block.unresolved_keeps | with_reducible apply Block.judgeClaims_keeps
    | with_reducible apply Block.takeTwinWords_keeps | with_reducible apply Block.compareDigest_keeps
    | with_reducible apply Block.crossLane_keeps | with_reducible apply Block.crossClaim_keeps | with_reducible assumption
    | exact partsIn_trans (m := [.time, .chans, .adc, .acc, .queues, .mrg, .frm, .twin, .flt, .regs, .ev, .free]) (by decide) hl
    | split | dsimp only)

theorem Block.crosslinkLose_keeps {ps : List Part} {a0 : Block} {b : Block}
    (h_ : Keeps ps a0 b) (hl : partsIn [.twin, .regs, .ev] ps = true) :
    Keeps ps a0 (Block.crosslinkLose b) := by
  unfold Block.crosslinkLose
  try dsimp only
  repeat' (first
    | intro _ | with_reducible exact h_ | with_reducible apply Block.onTwin_keeps | with_reducible apply Block.raise_keeps
    | with_reducible apply Block.judgeClaims_keeps | exact partsIn_trans (m := [.twin, .regs, .ev]) (by decide) hl | dsimp only)

theorem Block.crosslinkBack_keeps {ps : List Part} {a0 : Block} {b : Block}
    (h_ : Keeps ps a0 b) (hl : partsIn [.twin, .regs, .ev] ps = true) :
    Keeps ps a0 (Block.crosslinkBack b) := by
  unfold Block.crosslinkBack
  try dsimp only
  repeat' (first
    | intro _ | with_reducible exact h_ | with_reducible apply Keeps.ite | with_reducible apply Block.onTwin_keeps
    | with_reducible apply Block.raise_keeps | with_reducible apply Block.enterResync_keeps
    | with_reducible apply Block.judgeClaims_keeps | exact partsIn_trans (m := [.twin, .regs, .ev]) (by decide) hl | dsimp only)

theorem Block.unitReleased_keeps {ps : List Part} {a0 : Block} {b : Block}
    (h_ : Keeps ps a0 b) (hl : partsIn [.boot, .twin, .regs, .ev] ps = true) :
    Keeps ps a0 (Block.unitReleased b) := by
  unfold Block.unitReleased
  try dsimp only
  repeat' (first
    | intro _ | with_reducible exact h_ | with_reducible apply Keeps.ite
    | with_reducible apply Keeps.onBootRest (by intro _; first | exact ⟨rfl, rfl⟩ | (split <;> exact ⟨rfl, rfl⟩))
    | with_reducible apply Block.onTwin_keeps | with_reducible apply Block.raise_keeps
    | with_reducible apply Block.releaseClaim_keeps | with_reducible apply Block.pairWith_keeps
    | exact partsIn_trans (m := [.boot, .twin, .regs, .ev]) (by decide) hl | split | dsimp only | with_reducible apply Keeps.boot)

theorem Block.mergeAfresh_keeps {ps : List Part} {a0 : Block} {b : Block}
    (h_ : Keeps ps a0 b) (hl : partsIn [.acc, .queues, .mrg] ps = true) :
    Keeps ps a0 (Block.mergeAfresh b) := by
  unfold Block.mergeAfresh
  try dsimp only
  repeat' (first
    | intro _ | with_reducible exact h_ | with_reducible apply Block.onAcc_keeps | with_reducible apply Block.onMrg_keeps
    | with_reducible apply Block.emptyMerge_keeps | exact partsIn_trans (m := [.acc, .queues, .mrg]) (by decide) hl | dsimp only)

theorem Block.pairNow_keeps {ps : List Part} {a0 : Block} {b : Block}
    (h_ : Keeps ps a0 b) (hl : partsIn [.boot, .acc, .queues, .mrg, .twin, .regs, .ev] ps = true) :
    Keeps ps a0 (Block.pairNow b) := by
  unfold Block.pairNow
  try dsimp only
  repeat' (first
    | intro _ | with_reducible exact h_ | with_reducible apply Keeps.ite
    | with_reducible apply Keeps.onBootRest (by intro _; first | exact ⟨rfl, rfl⟩ | (split <;> exact ⟨rfl, rfl⟩))
    | with_reducible apply Block.onTwin_keeps | with_reducible apply Block.raise_keeps
    | with_reducible apply Block.mergeAfresh_keeps
    | exact partsIn_trans (m := [.boot, .acc, .queues, .mrg, .twin, .regs, .ev]) (by decide) hl | dsimp only
    | with_reducible apply Keeps.boot)

theorem Block.pairAlone_keeps {ps : List Part} {a0 : Block} {b : Block}
    (h_ : Keeps ps a0 b) (hl : partsIn [.boot, .twin, .regs, .ev] ps = true) :
    Keeps ps a0 (Block.pairAlone b) := by
  unfold Block.pairAlone
  try dsimp only
  repeat' (first
    | intro _ | with_reducible exact h_
    | with_reducible apply Keeps.onBootRest (by intro _; first | exact ⟨rfl, rfl⟩ | (split <;> exact ⟨rfl, rfl⟩))
    | with_reducible apply Block.onTwin_keeps | with_reducible apply Block.raise_keeps
    | exact partsIn_trans (m := [.boot, .twin, .regs, .ev]) (by decide) hl | dsimp only | with_reducible apply Keeps.boot)

theorem Block.twinCount_keeps {ps : List Part} {a0 : Block} {b : Block}
    (h_ : Keeps ps a0 b) (hl : partsIn [.twin, .regs, .ev] ps = true) :
    Keeps ps a0 (Block.twinCount b) := by
  unfold Block.twinCount
  try dsimp only
  repeat' (first
    | intro _ | with_reducible exact h_ | with_reducible apply Keeps.ite | with_reducible apply Block.onTwin_keeps
    | with_reducible apply Block.bump_keeps | with_reducible apply Block.spanMissed_keeps
    | exact partsIn_trans (m := [.twin, .regs, .ev]) (by decide) hl | dsimp only)

theorem Block.claimNow_keeps {ps : List Part} {a0 : Block} {b : Block}
    (h_ : Keeps ps a0 b) (hl : partsIn [.twin, .regs, .ev] ps = true) :
    Keeps ps a0 (Block.claimNow b) := by
  unfold Block.claimNow
  try dsimp only
  repeat' (first
    | intro _ | with_reducible exact h_ | with_reducible apply Block.onTwin_keeps | with_reducible apply Block.judgeClaims_keeps
    | exact partsIn_trans (m := [.twin, .regs, .ev]) (by decide) hl | split | dsimp only)

theorem Block.emptyChannel_keeps {ps : List Part} {a0 : Block} {b : Block} {c : Nat}
    (h_ : Keeps ps a0 b) (hl : partsIn [.chans] ps = true) :
    Keeps ps a0 (Block.emptyChannel b c) := by
  unfold Block.emptyChannel
  try dsimp only
  repeat' (first
    | intro _ | with_reducible exact h_ | with_reducible apply Keeps.ite | with_reducible apply Block.onChan_keeps
    | exact partsIn_trans (m := [.chans]) (by decide) hl | dsimp only)

theorem Block.emptyStamps_keeps {ps : List Part} {a0 : Block} {b : Block}
    (h_ : Keeps ps a0 b) (hl : partsIn [.chans, .adc] ps = true) :
    Keeps ps a0 (Block.emptyStamps b) := by
  unfold Block.emptyStamps
  try dsimp only
  repeat' (first
    | intro _ | with_reducible exact h_ | with_reducible apply Keeps.forEach | with_reducible apply Block.onAdc_keeps
    | with_reducible apply Block.emptyChannel_keeps | with_reducible assumption
    | exact partsIn_trans (m := [.chans, .adc]) (by decide) hl | dsimp only)

theorem Block.restartRegular_keeps {ps : List Part} {a0 : Block} {b : Block}
    (h_ : Keeps ps a0 b) (hl : partsIn [.adc] ps = true) :
    Keeps ps a0 (Block.restartRegular b) := by
  unfold Block.restartRegular
  try dsimp only
  repeat' (first
    | intro _ | with_reducible exact h_ | with_reducible apply Keeps.ite | with_reducible apply Block.onAdc_keeps
    | exact partsIn_trans (m := [.adc]) (by decide) hl | split | dsimp only)

theorem Block.clearSubs_keeps {ps : List Part} {a0 : Block} {b : Block} {lo hi s t : Nat}
    (h_ : Keeps ps a0 b) (hl : partsIn [.regs] ps = true) :
    Keeps ps a0 (Block.clearSubs b lo hi s t) := by
  unfold Block.clearSubs
  try dsimp only
  repeat' (first
    | intro _ | with_reducible exact h_ | with_reducible apply Keeps.onDictRest (by intro _; first | rfl | (split <;> rfl))
    | with_reducible apply Keeps.onDictRegs (by intro _; first | rfl | (split <;> rfl))
    | exact partsIn_trans (m := [.regs]) (by decide) hl | dsimp only)

theorem Block.clearCounters_keeps {ps : List Part} {a0 : Block} {b : Block} {l : List (Nat × Nat × Nat × Nat)}
    (h_ : Keeps ps a0 b) (hl : partsIn [.regs] ps = true) :
    Keeps ps a0 (Block.clearCounters b l) := by
  unfold Block.clearCounters
  try dsimp only
  repeat' (first
    | intro _ | with_reducible exact h_ | with_reducible apply Keeps.forEach | with_reducible apply Block.clearSubs_keeps
    | with_reducible assumption | exact partsIn_trans (m := [.regs]) (by decide) hl | dsimp only)

theorem Block.logOrbit_keeps {ps : List Part} {a0 : Block} {b : Block} {n : Nat}
    (h_ : Keeps ps a0 b) (hl : partsIn [.time] ps = true) :
    Keeps ps a0 (Block.logOrbit b n) := by
  unfold Block.logOrbit
  try dsimp only
  repeat' (first
    | intro _ | with_reducible exact h_ | with_reducible apply Keeps.ite
    | with_reducible apply Keeps.onTimeRest (by intro _; first | rfl | (split <;> rfl))
    | exact partsIn_trans (m := [.time]) (by decide) hl | dsimp only | with_reducible apply Keeps.time)

theorem Block.takeOrbit_keeps {ps : List Part} {a0 : Block} {b : Block} {r : Resync}
    (h_ : Keeps ps a0 b) (hl : partsIn [.time, .regs, .ev] ps = true) :
    Keeps ps a0 (Block.takeOrbit b r) := by
  unfold Block.takeOrbit
  try dsimp only
  repeat' (first
    | intro _ | with_reducible exact h_ | with_reducible apply Keeps.ite
    | with_reducible apply Keeps.onTimeRest (by intro _; first | rfl | (split <;> rfl)) | with_reducible apply Block.onDom_keeps
    | with_reducible apply Block.mismatch_keeps | with_reducible apply Block.logOrbit_keeps
    | exact partsIn_trans (m := [.time, .regs, .ev]) (by decide) hl | split | dsimp only | with_reducible apply Keeps.time)

theorem Block.resyncSwap_keeps {ps : List Part} {a0 : Block} {b : Block}
    (h_ : Keeps ps a0 b) (hl : partsIn [.sets, .frm, .regs, .ev] ps = true) :
    Keeps ps a0 (Block.resyncSwap b) := by
  unfold Block.resyncSwap
  try dsimp only
  repeat' (first
    | intro _ | with_reducible exact h_ | with_reducible apply Keeps.ite | with_reducible apply Block.onSets_keeps
    | with_reducible apply Block.raise_keeps | with_reducible apply Block.parkLanes_keeps
    | exact partsIn_trans (m := [.sets, .frm, .regs, .ev]) (by decide) hl | split | dsimp only)

theorem Block.resyncTwin_keeps {ps : List Part} {a0 : Block} {b : Block}
    (h_ : Keeps ps a0 b) (hl : partsIn [.twin] ps = true) :
    Keeps ps a0 (Block.resyncTwin b) := by
  unfold Block.resyncTwin
  try dsimp only
  repeat' (first
    | intro _ | with_reducible exact h_ | with_reducible apply Keeps.ite | with_reducible apply Block.onTwin_keeps
    | exact partsIn_trans (m := [.twin]) (by decide) hl | dsimp only)

theorem Block.resyncEffects_keeps {ps : List Part} {a0 : Block} {b : Block} {r : Resync}
    (h_ : Keeps ps a0 b) (hl : partsIn [.sets, .time, .chans, .leads, .iu, .adc, .acc, .stk, .queues, .mrg, .frm, .twin, .regs, .ev] ps = true) :
    Keeps ps a0 (Block.resyncEffects b r) := by
  unfold Block.resyncEffects
  try dsimp only
  repeat' (first
    | intro _ | with_reducible exact h_ | with_reducible apply Keeps.ite
    | with_reducible apply Keeps.onTimeRest (by intro _; first | rfl | (split <;> rfl)) | with_reducible apply Block.onAcc_keeps
    | with_reducible apply Block.raise_keeps | with_reducible apply Block.campaignAbort_keeps
    | with_reducible apply Block.clearPrimitives_keeps | with_reducible apply Block.resyncStacks_keeps
    | with_reducible apply Block.emptyStamps_keeps | with_reducible apply Block.restartRegular_keeps
    | with_reducible apply Block.clearCounters_keeps | with_reducible apply Block.takeOrbit_keeps
    | with_reducible apply Block.resyncSwap_keeps | with_reducible apply Block.resyncTwin_keeps
    | exact partsIn_trans (m := [.sets, .time, .chans, .leads, .iu, .adc, .acc, .stk, .queues, .mrg, .frm, .twin, .regs, .ev]) (by decide) hl
    | dsimp only | with_reducible apply Keeps.time)

theorem Block.passReply_keeps {ps : List Part} {a0 : Block} {b : Block} {x : Proxy} {op idx sub arg : Nat} {body : List Byte}
    (h_ : Keeps ps a0 b) (hl : partsIn [.queues, .mrg, .twin, .regs, .dict, .ev] ps = true) :
    Keeps ps a0 (Block.passReply b x op idx sub arg body) := by
  unfold Block.passReply
  try dsimp only
  repeat' (first
    | with_reducible exact h_ | with_reducible apply Keeps.ite | with_reducible apply Block.sendReply_keeps
    | exact partsIn_trans (m := [.queues, .mrg, .twin, .regs, .dict, .ev]) (by decide) hl | dsimp only)

theorem Block.proxyFail_keeps {ps : List Part} {a0 : Block} {b : Block} {x : Proxy} {code : Nat}
    (h_ : Keeps ps a0 b) (hl : partsIn [.queues, .mrg, .twin, .regs, .dict, .ev] ps = true) :
    Keeps ps a0 (Block.proxyFail b x code) := by
  unfold Block.proxyFail
  try dsimp only
  repeat' (first
    | intro _ | with_reducible exact h_ | with_reducible apply Keeps.ite
    | with_reducible apply Keeps.onDictRest (by intro _; first | rfl | (split <;> rfl))
    | with_reducible apply Keeps.onDictRegs (by intro _; first | rfl | (split <;> rfl))
    | with_reducible apply Block.proxyAbort_keeps | with_reducible apply Block.ownAbort_keeps
    | exact partsIn_trans (m := [.queues, .mrg, .twin, .regs, .dict, .ev]) (by decide) hl | dsimp only
    | with_reducible apply Keeps.dict)

theorem Block.proxyDrop_keeps {ps : List Part} {a0 : Block} {b : Block} {p : Nat} {x : Proxy}
    (h_ : Keeps ps a0 b) (hl : partsIn [.mrg] ps = true) :
    Keeps ps a0 (Block.proxyDrop b p x) := by
  unfold Block.proxyDrop
  try dsimp only
  repeat' (first
    | intro _ | with_reducible exact h_ | with_reducible apply Block.onPort_keeps
    | exact partsIn_trans (m := [.mrg]) (by decide) hl | dsimp only)

theorem Block.proxySet_keeps {ps : List Part} {a0 : Block} {b : Block} {p : Nat} {x y : Proxy}
    (h_ : Keeps ps a0 b) (hl : partsIn [.mrg] ps = true) :
    Keeps ps a0 (Block.proxySet b p x y) := by
  unfold Block.proxySet
  try dsimp only
  repeat' (first
    | intro _ | with_reducible exact h_ | with_reducible apply Keeps.ite | with_reducible apply Block.onPort_keeps
    | exact partsIn_trans (m := [.mrg]) (by decide) hl | dsimp only)

theorem Block.proxyEnd_keeps {ps : List Part} {a0 : Block} {b : Block} {p code : Nat}
    (h_ : Keeps ps a0 b) (hl : partsIn [.queues, .mrg, .twin, .regs, .dict, .ev] ps = true) :
    Keeps ps a0 (Block.proxyEnd b p code) := by
  unfold Block.proxyEnd
  try dsimp only
  repeat' (first
    | intro _ | with_reducible exact h_ | with_reducible apply Keeps.forEach | with_reducible apply Block.onPort_keeps
    | with_reducible apply Block.proxyFail_keeps | with_reducible assumption
    | exact partsIn_trans (m := [.queues, .mrg, .twin, .regs, .dict, .ev]) (by decide) hl | dsimp only)

theorem Block.sendOwn_keeps {ps : List Part} {a0 : Block} {b : Block} {p tag : Nat} {t : Transfer}
    (h_ : Keeps ps a0 b) (hl : partsIn [.queues, .mrg, .regs, .dict, .ev] ps = true) :
    Keeps ps a0 (Block.sendOwn b p tag t) := by
  unfold Block.sendOwn
  try dsimp only
  repeat' (first
    | intro _ | with_reducible exact h_ | with_reducible apply Keeps.ite | with_reducible apply Keeps.forEach
    | with_reducible apply Keeps.onDictRest (by intro _; first | rfl | (split <;> rfl))
    | with_reducible apply Keeps.onDictRegs (by intro _; first | rfl | (split <;> rfl))
    | with_reducible apply Block.toWorker_keeps | with_reducible assumption
    | exact partsIn_trans (m := [.queues, .mrg, .regs, .dict, .ev]) (by decide) hl | dsimp only | with_reducible apply Keeps.dict)

theorem Block.ownAck_keeps {ps : List Part} {a0 : Block} {b : Block} {p : Nat} {x : Proxy} {next : Nat}
    (h_ : Keeps ps a0 b) (hl : partsIn [.queues, .mrg, .regs, .dict, .ev] ps = true) :
    Keeps ps a0 (Block.ownAck b p x next) := by
  unfold Block.ownAck
  try dsimp only
  repeat' (first
    | intro _ | with_reducible exact h_ | with_reducible apply Keeps.ite
    | with_reducible apply Keeps.onDictRest (by intro _; first | rfl | (split <;> rfl))
    | with_reducible apply Keeps.onDictRegs (by intro _; first | rfl | (split <;> rfl)) | with_reducible apply Block.sendOwn_keeps
    | exact partsIn_trans (m := [.queues, .mrg, .regs, .dict, .ev]) (by decide) hl | split | dsimp only
    | with_reducible apply Keeps.dict)

theorem Block.configured_keeps {ps : List Part} {a0 : Block} {b : Block} {p : Nat}
    (h_ : Keeps ps a0 b) (hl : partsIn [.frm] ps = true) :
    Keeps ps a0 (Block.configured b p) := by
  unfold Block.configured
  try dsimp only
  repeat' (first
    | intro _ | with_reducible exact h_ | with_reducible apply Keeps.ite | with_reducible apply Block.onLane_keeps
    | exact partsIn_trans (m := [.frm]) (by decide) hl | split | dsimp only)

theorem Block.ownLanded_keeps {ps : List Part} {a0 : Block} {b : Block} {p : Nat} {x : Proxy}
    (h_ : Keeps ps a0 b) (hl : partsIn [.mrg, .frm, .dict] ps = true) :
    Keeps ps a0 (Block.ownLanded b p x) := by
  unfold Block.ownLanded
  try dsimp only
  repeat' (first
    | intro _ | with_reducible exact h_ | with_reducible apply Keeps.ite
    | with_reducible apply Keeps.onDictRest (by intro _; first | rfl | (split <;> rfl))
    | with_reducible apply Keeps.onDictRegs (by intro _; first | rfl | (split <;> rfl)) | with_reducible apply Block.onPort_keeps
    | with_reducible apply Block.configured_keeps | exact partsIn_trans (m := [.mrg, .frm, .dict]) (by decide) hl | dsimp only
    | with_reducible apply Keeps.dict)

theorem Block.ownRefused_keeps {ps : List Part} {a0 : Block} {b : Block} {p : Nat} {x : Proxy} {code : Nat}
    (h_ : Keeps ps a0 b) (hl : partsIn [.boot, .regs, .dict, .ev] ps = true) :
    Keeps ps a0 (Block.ownRefused b p x code) := by
  unfold Block.ownRefused
  try dsimp only
  repeat' (first
    | intro _ | with_reducible exact h_ | with_reducible apply Keeps.ite
    | with_reducible apply Keeps.onDictRest (by intro _; first | rfl | (split <;> rfl))
    | with_reducible apply Keeps.onDictRegs (by intro _; first | rfl | (split <;> rfl))
    | with_reducible apply Keeps.onBootRest (by intro _; first | exact ⟨rfl, rfl⟩ | (split <;> exact ⟨rfl, rfl⟩))
    | with_reducible apply Block.raise_keeps | exact partsIn_trans (m := [.boot, .regs, .dict, .ev]) (by decide) hl | dsimp only
    | with_reducible apply Keeps.boot | with_reducible apply Keeps.dict)

theorem Block.workerSegment_keeps {ps : List Part} {a0 : Block} {b : Block} {p : Nat} {x : Proxy} {m : Msg}
    (h_ : Keeps ps a0 b) (hl : partsIn [.queues, .mrg, .twin, .regs, .dict, .ev] ps = true) :
    Keeps ps a0 (Block.workerSegment b p x m) := by
  unfold Block.workerSegment
  try dsimp only
  repeat' (first
    | with_reducible exact h_ | with_reducible apply Keeps.ite | with_reducible apply Block.passReply_keeps
    | with_reducible apply Block.proxyDrop_keeps | with_reducible apply Block.proxySet_keeps
    | exact partsIn_trans (m := [.queues, .mrg, .twin, .regs, .dict, .ev]) (by decide) hl | dsimp only)

theorem Block.workerAck_keeps {ps : List Part} {a0 : Block} {b : Block} {p : Nat} {x : Proxy} {m : Msg}
    (h_ : Keeps ps a0 b) (hl : partsIn [.queues, .mrg, .twin, .regs, .dict, .ev] ps = true) :
    Keeps ps a0 (Block.workerAck b p x m) := by
  unfold Block.workerAck
  try dsimp only
  repeat' (first
    | with_reducible exact h_ | with_reducible apply Keeps.ite | with_reducible apply Block.passReply_keeps
    | with_reducible apply Block.ownAck_keeps
    | exact partsIn_trans (m := [.queues, .mrg, .twin, .regs, .dict, .ev]) (by decide) hl | dsimp only)

theorem Block.workerReadyFor_keeps {ps : List Part} {a0 : Block} {b : Block} {p : Nat} {x : Proxy}
    (h_ : Keeps ps a0 b) (hl : partsIn [.queues, .mrg, .regs, .dict, .ev] ps = true) :
    Keeps ps a0 (Block.workerReadyFor b p x) := by
  unfold Block.workerReadyFor
  try dsimp only
  repeat' (first
    | with_reducible exact h_ | with_reducible apply Keeps.ite | with_reducible apply Block.proxySet_keeps
    | with_reducible apply Block.sendOwn_keeps | exact partsIn_trans (m := [.queues, .mrg, .regs, .dict, .ev]) (by decide) hl
    | split | dsimp only)

theorem Block.workerResponse_keeps {ps : List Part} {a0 : Block} {b : Block} {p : Nat} {x : Proxy} {m : Msg}
    (h_ : Keeps ps a0 b) (hl : partsIn [.boot, .queues, .mrg, .frm, .twin, .regs, .dict, .ev] ps = true) :
    Keeps ps a0 (Block.workerResponse b p x m) := by
  unfold Block.workerResponse
  try dsimp only
  repeat' (first
    | intro _ | with_reducible exact h_ | with_reducible apply Keeps.ite | with_reducible apply Block.onPort_keeps
    | with_reducible apply Block.passReply_keeps | with_reducible apply Block.proxyDrop_keeps
    | with_reducible apply Block.proxySet_keeps | with_reducible apply Block.ownLanded_keeps
    | with_reducible apply Block.ownRefused_keeps | with_reducible apply Block.workerReadyFor_keeps
    | exact partsIn_trans (m := [.boot, .queues, .mrg, .frm, .twin, .regs, .dict, .ev]) (by decide) hl | dsimp only)

theorem Block.workerAnswer_keeps {ps : List Part} {a0 : Block} {b : Block} {p o : Nat} {m : Msg}
    (h_ : Keeps ps a0 b) (hl : partsIn [.boot, .queues, .mrg, .frm, .twin, .regs, .dict, .ev] ps = true) :
    Keeps ps a0 (Block.workerAnswer b p o m) := by
  unfold Block.workerAnswer
  try dsimp only
  repeat' (first
    | with_reducible exact h_ | with_reducible apply Keeps.ite | with_reducible apply Block.bump_keeps
    | with_reducible apply Block.workerSegment_keeps | with_reducible apply Block.workerAck_keeps
    | with_reducible apply Block.workerResponse_keeps
    | exact partsIn_trans (m := [.boot, .queues, .mrg, .frm, .twin, .regs, .dict, .ev]) (by decide) hl | split | dsimp only)

theorem Block.canSend_keeps {ps : List Part} {a0 : Block} {b : Block} {bus : Nat} {id : BitVec 29} {payload : List Byte}
    (h_ : Keeps ps a0 b) (hl : partsIn [.dict] ps = true) :
    Keeps ps a0 (Block.canSend b bus id payload) := by
  unfold Block.canSend
  try dsimp only
  repeat' (first
    | intro _ | with_reducible exact h_ | with_reducible apply Keeps.onDictRest (by intro _; first | rfl | (split <;> rfl))
    | with_reducible apply Keeps.onDictRegs (by intro _; first | rfl | (split <;> rfl))
    | exact partsIn_trans (m := [.dict]) (by decide) hl | dsimp only | with_reducible apply Keeps.dict)

theorem Block.relayEvent_keeps {ps : List Part} {a0 : Block} {b : Block} {p : Nat} {w : Word64}
    (h_ : Keeps ps a0 b) (hl : partsIn [.regs, .ev] ps = true) :
    Keeps ps a0 (Block.relayEvent b p w) := by
  unfold Block.relayEvent
  try dsimp only
  repeat' (first
    | with_reducible exact h_ | with_reducible apply Keeps.ite | with_reducible apply Keeps.iteFst
    | with_reducible apply Keeps.iteSnd | with_reducible apply Block.send_keeps | with_reducible apply Block.overflowed_keeps
    | exact partsIn_trans (m := [.regs, .ev]) (by decide) hl | dsimp only)

theorem Block.workerRetired_keeps {ps : List Part} {a0 : Block} {b : Block} {p : Nat} {w : Word64}
    (h_ : Keeps ps a0 b) (hl : partsIn [.flt, .free] ps = true) :
    Keeps ps a0 (Block.workerRetired b p w) := by
  unfold Block.workerRetired
  try dsimp only
  repeat' (first
    | intro _ | with_reducible exact h_ | with_reducible apply Keeps.ite | with_reducible apply Block.onFlt_keeps
    | with_reducible apply Block.freeNext_keeps | exact partsIn_trans (m := [.flt, .free]) (by decide) hl | dsimp only)

theorem Block.workerReady_keeps {ps : List Part} {a0 : Block} {b : Block} {p : Nat}
    (h_ : Keeps ps a0 b) (hl : partsIn [.boot, .queues, .mrg, .regs, .dict, .ev] ps = true) :
    Keeps ps a0 (Block.workerReady b p) := by
  unfold Block.workerReady
  try dsimp only
  repeat' (first
    | intro _ | with_reducible exact h_ | with_reducible apply Keeps.ite
    | with_reducible apply Keeps.onBootRest (by intro _; first | exact ⟨rfl, rfl⟩ | (split <;> exact ⟨rfl, rfl⟩))
    | with_reducible apply Block.ownWrite_keeps
    | exact partsIn_trans (m := [.boot, .queues, .mrg, .regs, .dict, .ev]) (by decide) hl | dsimp only
    | with_reducible apply Keeps.boot)

theorem Block.workerEvent_keeps {ps : List Part} {a0 : Block} {b : Block} {p : Nat} {w : Word64}
    (h_ : Keeps ps a0 b) (hl : partsIn [.boot, .queues, .mrg, .flt, .regs, .dict, .ev, .free] ps = true) :
    Keeps ps a0 (Block.workerEvent b p w) := by
  unfold Block.workerEvent
  try dsimp only
  repeat' (first
    | with_reducible exact h_ | with_reducible apply Keeps.ite | with_reducible apply Block.relayEvent_keeps
    | with_reducible apply Block.workerRetired_keeps | with_reducible apply Block.workerReady_keeps
    | exact partsIn_trans (m := [.boot, .queues, .mrg, .flt, .regs, .dict, .ev, .free]) (by decide) hl | dsimp only)

theorem Block.workerMessage_keeps {ps : List Part} {a0 : Block} {b : Block} {p o : Nat} {m : List Byte}
    (h_ : Keeps ps a0 b) (hl : partsIn [.boot, .queues, .mrg, .frm, .twin, .flt, .regs, .dict, .ev, .free] ps = true) :
    Keeps ps a0 (Block.workerMessage b p o m) := by
  unfold Block.workerMessage
  try dsimp only
  repeat' (first
    | with_reducible exact h_ | with_reducible apply Keeps.ite | with_reducible apply Block.workerAnswer_keeps
    | with_reducible apply Block.workerEvent_keeps
    | exact partsIn_trans (m := [.boot, .queues, .mrg, .frm, .twin, .flt, .regs, .dict, .ev, .free]) (by decide) hl | dsimp only)

theorem Block.workerService_keeps {ps : List Part} {a0 : Block} {b : Block} {p : Nat} {w : Word64}
    (h_ : Keeps ps a0 b) (hl : partsIn [.boot, .queues, .mrg, .frm, .twin, .flt, .regs, .dict, .ev, .free] ps = true) :
    Keeps ps a0 (Block.workerService b p w).2 := by
  unfold Block.workerService
  try dsimp only
  repeat' (first
    | intro _ | with_reducible exact h_ | with_reducible apply Block.onPort_keeps | with_reducible apply Block.workerMessage_keeps
    | exact partsIn_trans (m := [.boot, .queues, .mrg, .frm, .twin, .flt, .regs, .dict, .ev, .free]) (by decide) hl | split
    | dsimp only)

theorem Block.workerBulk_keeps {ps : List Part} {a0 : Block} {b : Block} {p : Nat} {w : Word64}
    (h_ : Keeps ps a0 b) (hl : partsIn [.boot, .queues, .mrg, .frm, .twin, .flt, .regs, .dict, .ev, .free] ps = true) :
    Keeps ps a0 (Block.workerBulk b p w).2 := by
  unfold Block.workerBulk
  try dsimp only
  repeat' (first
    | intro _ | with_reducible exact h_ | with_reducible apply Keeps.ite | with_reducible apply Keeps.iteFst
    | with_reducible apply Keeps.iteSnd | with_reducible apply Block.onPort_keeps | with_reducible apply Block.workerMessage_keeps
    | exact partsIn_trans (m := [.boot, .queues, .mrg, .frm, .twin, .flt, .regs, .dict, .ev, .free]) (by decide) hl | split
    | dsimp only)

theorem Block.workerBulkRegion_keeps {ps : List Part} {a0 : Block} {b : Block} {p : Nat} {l : List Word64}
    (h_ : Keeps ps a0 b) (hl : partsIn [.boot, .queues, .mrg, .frm, .twin, .flt, .regs, .dict, .ev, .free] ps = true) :
    Keeps ps a0 (Block.workerBulkRegion b p l) := by
  unfold Block.workerBulkRegion
  try dsimp only
  repeat' (first
    | intro _ | with_reducible exact h_ | with_reducible apply Keeps.ite | with_reducible apply Keeps.foldl
    | with_reducible apply Keeps.foldlFst | with_reducible apply Keeps.foldlSnd | with_reducible apply Keeps.iteFst
    | with_reducible apply Keeps.iteSnd | with_reducible apply Block.onMrg_keeps | with_reducible apply Block.workerBulk_keeps
    | with_reducible assumption
    | exact partsIn_trans (m := [.boot, .queues, .mrg, .frm, .twin, .flt, .regs, .dict, .ev, .free]) (by decide) hl | split
    | dsimp only)

theorem Block.workerLost_keeps {ps : List Part} {a0 : Block} {b : Block} {p : Nat}
    (h_ : Keeps ps a0 b) (hl : partsIn [.mrg, .regs, .ev] ps = true) :
    Keeps ps a0 (Block.workerLost b p) := by
  unfold Block.workerLost
  try dsimp only
  repeat' (first
    | intro _ | with_reducible exact h_ | with_reducible apply Keeps.ite | with_reducible apply Block.onPort_keeps
    | with_reducible apply Block.raise_keeps | exact partsIn_trans (m := [.mrg, .regs, .ev]) (by decide) hl | dsimp only)

theorem Block.relayShort_keeps {ps : List Part} {a0 : Block} {b : Block} {o : Origin} {tag : Nat} {make : Nat → List Byte}
    (h_ : Keeps ps a0 b) (hl : partsIn [.queues, .mrg, .regs, .ev] ps = true) :
    Keeps ps a0 (Block.relayShort b o tag make) := by
  unfold Block.relayShort
  try dsimp only
  repeat' (first
    | with_reducible exact h_ | with_reducible apply Block.toWorker_keeps
    | exact partsIn_trans (m := [.queues, .mrg, .regs, .ev]) (by decide) hl | split | dsimp only)

theorem Block.adoptEffect_keeps {ps : List Part} {a0 : Block} {b : Block} {id : Nat}
    (h_ : Keeps ps a0 b) (hl : partsIn [.flt] ps = true) :
    Keeps ps a0 (Block.adoptEffect b id) := by
  unfold Block.adoptEffect
  try dsimp only
  repeat' (first
    | with_reducible exact h_ | with_reducible apply Keeps.ite | with_reducible apply Block.planDue_keeps
    | exact partsIn_trans (m := [.flt]) (by decide) hl | split | dsimp only)

theorem Block.adoptRetirement_keeps {ps : List Part} {a0 : Block} {b : Block} {w : Word64}
    (h_ : Keeps ps a0 b) (hl : partsIn [.mrg, .twin, .flt, .regs, .ev, .free] ps = true) :
    Keeps ps a0 (Block.adoptRetirement b w) := by
  unfold Block.adoptRetirement
  try dsimp only
  repeat' (first
    | intro _ | with_reducible exact h_ | with_reducible apply Keeps.ite | with_reducible apply Block.onFlt_keeps
    | with_reducible apply Block.onSite_keeps | with_reducible apply Block.listSite_keeps
    | with_reducible apply Block.retiredMessage_keeps | with_reducible apply Block.adoptEffect_keeps
    | exact partsIn_trans (m := [.mrg, .twin, .flt, .regs, .ev, .free]) (by decide) hl | dsimp only)

theorem Block.partnerService_keeps {ps : List Part} {a0 : Block} {b : Block} {w : Word64}
    (h_ : Keeps ps a0 b) (hl : partsIn [.mrg, .twin, .flt, .regs, .ev, .free] ps = true) :
    Keeps ps a0 (Block.partnerService b w) := by
  unfold Block.partnerService
  try dsimp only
  repeat' (first
    | intro _ | with_reducible exact h_ | with_reducible apply Keeps.ite | with_reducible apply Block.onTwin_keeps
    | with_reducible apply Block.adoptRetirement_keeps
    | exact partsIn_trans (m := [.mrg, .twin, .flt, .regs, .ev, .free]) (by decide) hl | split | dsimp only)

theorem Block.portWithdraw_keeps {ps : List Part} {a0 : Block} {b : Block} {p : Nat} {r : QRec}
    (h_ : Keeps ps a0 b) (hl : partsIn [.mrg, .regs, .ev] ps = true) :
    Keeps ps a0 (Block.portWithdraw b p r) := by
  unfold Block.portWithdraw
  try dsimp only
  repeat' (first
    | intro _ | with_reducible exact h_ | with_reducible apply Keeps.ite | with_reducible apply Block.onPort_keeps
    | with_reducible apply Block.countWithdrawal_keeps | exact partsIn_trans (m := [.mrg, .regs, .ev]) (by decide) hl | dsimp only)

theorem Block.portWithdrawals_keeps {ps : List Part} {a0 : Block} {b : Block} {p reason kind site x count : Nat} {hdr : Option Word64}
    (h_ : Keeps ps a0 b) (hl : partsIn [.mrg, .regs, .ev] ps = true) :
    Keeps ps a0 (Block.portWithdrawals b p reason kind site x count hdr) := by
  unfold Block.portWithdrawals
  try dsimp only
  repeat' (first
    | intro _ | with_reducible exact h_ | with_reducible apply Keeps.forEach | with_reducible apply Block.portWithdraw_keeps
    | with_reducible assumption | exact partsIn_trans (m := [.mrg, .regs, .ev]) (by decide) hl | dsimp only)

theorem Block.contract_keeps {ps : List Part} {a0 : Block} {b : Block} {p x n : Nat}
    (h_ : Keeps ps a0 b) (hl : partsIn [.mrg, .regs, .ev] ps = true) :
    Keeps ps a0 (Block.contract b p x n).2 := by
  unfold Block.contract
  try dsimp only
  repeat' (first
    | intro _ | with_reducible exact h_ | with_reducible apply Keeps.ite | with_reducible apply Keeps.iteFst
    | with_reducible apply Keeps.iteSnd | with_reducible apply Block.onPort_keeps | with_reducible apply Block.bump_keeps
    | with_reducible apply Block.raiseOnce_keeps | exact partsIn_trans (m := [.mrg, .regs, .ev]) (by decide) hl | dsimp only)

theorem Block.rqRecord_keeps {ps : List Part} {a0 : Block} {b : Block} {p tod : Nat} {w : Word64} {group inC : Bool}
    (h_ : Keeps ps a0 b) (hl : partsIn [.mrg] ps = true) :
    Keeps ps a0 (Block.rqRecord b p tod w group inC).2 := by
  unfold Block.rqRecord
  try dsimp only
  repeat' (first
    | intro _ | with_reducible exact h_ | with_reducible apply Keeps.ite | with_reducible apply Keeps.iteFst
    | with_reducible apply Keeps.iteSnd | with_reducible apply Block.onPort_keeps
    | exact partsIn_trans (m := [.mrg]) (by decide) hl | dsimp only)

theorem Block.rqSingle_keeps {ps : List Part} {a0 : Block} {b : Block} {p tod : Nat} {w : Word64}
    (h_ : Keeps ps a0 b) (hl : partsIn [.boot, .queues, .mrg, .frm, .twin, .flt, .regs, .dict, .ev, .free] ps = true) :
    Keeps ps a0 (Block.rqSingle b p tod w).2 := by
  unfold Block.rqSingle
  try dsimp only
  repeat' (first
    | with_reducible exact h_ | with_reducible apply Keeps.ite | with_reducible apply Keeps.iteFst
    | with_reducible apply Keeps.iteSnd | with_reducible apply Block.bump_keeps | with_reducible apply Block.workerService_keeps
    | with_reducible apply Block.contract_keeps | with_reducible apply Block.rqRecord_keeps
    | exact partsIn_trans (m := [.boot, .queues, .mrg, .frm, .twin, .flt, .regs, .dict, .ev, .free]) (by decide) hl | dsimp only)

theorem Block.rqRecords_keeps {ps : List Part} {a0 : Block} {b : Block} {p tod : Nat} {x0 : List Word64}
    (h_ : Keeps ps a0 b) (hl : partsIn [.boot, .queues, .mrg, .frm, .twin, .flt, .regs, .dict, .ev, .free] ps = true) :
    Keeps ps a0 (Block.rqRecords b p tod x0).2 := by
  induction x0 generalizing b with
  | nil => exact h_
  | cons w t ih => exact ih (Block.rqSingle_keeps h_ hl)

theorem Block.rqGroupWords_keeps {ps : List Part} {a0 : Block} {b : Block} {p : Nat} {inC : Bool} {x0 : List Word64}
    (h_ : Keeps ps a0 b) (hl : partsIn [.mrg] ps = true) : Keeps ps a0 (Block.rqGroupWords b p inC x0).2 := by
  induction x0 generalizing b with
  | nil => exact h_
  | cons w t ih => exact ih (Block.rqRecord_keeps h_ hl)

theorem Block.rqRegion_keeps {ps : List Part} {a0 : Block} {b : Block} {p : Nat} {f : CFrame}
    (h_ : Keeps ps a0 b) (hl : partsIn [.boot, .queues, .mrg, .frm, .twin, .flt, .regs, .dict, .ev, .free] ps = true) :
    Keeps ps a0 (Block.rqRegion b p f) := by
  unfold Block.rqRegion
  try dsimp only
  repeat' (first
    | intro _ | with_reducible exact h_ | with_reducible apply Keeps.ite | with_reducible apply Keeps.forEach
    | with_reducible apply Keeps.iteFst | with_reducible apply Keeps.iteSnd | with_reducible apply Block.bump_keeps
    | with_reducible apply Block.qWrite_keeps | with_reducible apply Block.qWriteGroup_keeps
    | with_reducible apply Block.workerBulkRegion_keeps | with_reducible apply Block.contract_keeps
    | with_reducible apply Block.rqRecords_keeps | with_reducible apply Block.rqGroupWords_keeps | with_reducible assumption
    | exact partsIn_trans (m := [.boot, .queues, .mrg, .frm, .twin, .flt, .regs, .dict, .ev, .free]) (by decide) hl | dsimp only)

theorem Block.rqFailed_keeps {ps : List Part} {a0 : Block} {b : Block} {p l h : Nat}
    (h_ : Keeps ps a0 b) (hl : partsIn [.mrg, .regs, .ev] ps = true) :
    Keeps ps a0 (Block.rqFailed b p l h) := by
  unfold Block.rqFailed
  try dsimp only
  repeat' (first
    | with_reducible exact h_ | with_reducible apply Block.bump_keeps | with_reducible apply Block.raiseOnce_keeps
    | with_reducible apply Block.workerLost_keeps | with_reducible apply Block.portWithdrawals_keeps
    | exact partsIn_trans (m := [.mrg, .regs, .ev]) (by decide) hl | dsimp only)

theorem Block.rqRetired_keeps {ps : List Part} {a0 : Block} {b : Block} {p l h : Nat}
    (h_ : Keeps ps a0 b) (hl : partsIn [.mrg, .regs, .ev] ps = true) :
    Keeps ps a0 (Block.rqRetired b p l h) := by
  unfold Block.rqRetired
  try dsimp only
  repeat' (first
    | with_reducible exact h_ | with_reducible apply Block.portWithdrawals_keeps
    | exact partsIn_trans (m := [.mrg, .regs, .ev]) (by decide) hl | dsimp only)

theorem Block.portLeaves_keeps {ps : List Part} {a0 : Block} {b : Block} {p state : Nat}
    (h_ : Keeps ps a0 b) (hl : partsIn [.mrg, .regs, .ev] ps = true) :
    Keeps ps a0 (Block.portLeaves b p state) := by
  unfold Block.portLeaves
  try dsimp only
  repeat' (first
    | intro _ | with_reducible exact h_ | with_reducible apply Keeps.ite | with_reducible apply Block.onPort_keeps
    | with_reducible apply Block.raise_keeps | with_reducible apply Block.workerLost_keeps
    | with_reducible apply Block.portWithdrawals_keeps | exact partsIn_trans (m := [.mrg, .regs, .ev]) (by decide) hl | dsimp only)

theorem Block.portUpdate_keeps {ps : List Part} {a0 : Block} {b : Block} {p : Nat}
    (h_ : Keeps ps a0 b) (hl : partsIn [.queues, .mrg, .twin, .regs, .dict, .ev] ps = true) :
    Keeps ps a0 (Block.portUpdate b p) := by
  unfold Block.portUpdate
  try dsimp only
  repeat' (first
    | intro _ | with_reducible exact h_ | with_reducible apply Keeps.ite | with_reducible apply Block.onPort_keeps
    | with_reducible apply Block.raise_keeps | with_reducible apply Block.proxyEnd_keeps
    | with_reducible apply Block.portLeaves_keeps
    | exact partsIn_trans (m := [.queues, .mrg, .twin, .regs, .dict, .ev]) (by decide) hl | dsimp only)

theorem Block.portsUpdate_keeps {ps : List Part} {a0 : Block} {b : Block}
    (h_ : Keeps ps a0 b) (hl : partsIn [.queues, .mrg, .twin, .regs, .dict, .ev] ps = true) :
    Keeps ps a0 (Block.portsUpdate b) := by
  unfold Block.portsUpdate
  try dsimp only
  repeat' (first
    | intro _ | with_reducible exact h_ | with_reducible apply Keeps.forEach | with_reducible apply Block.portUpdate_keeps
    | with_reducible assumption | exact partsIn_trans (m := [.queues, .mrg, .twin, .regs, .dict, .ev]) (by decide) hl | dsimp only)

theorem Block.noteRunHeader_keeps {ps : List Part} {a0 : Block} {b : Block} {p : Nat} {h : Word64}
    (h_ : Keeps ps a0 b) (hl : partsIn [.regs, .ev] ps = true) :
    Keeps ps a0 (Block.noteRunHeader b p h) := by
  unfold Block.noteRunHeader
  try dsimp only
  repeat' (first
    | with_reducible exact h_ | with_reducible apply Keeps.ite | with_reducible apply Block.bump_keeps
    | with_reducible apply Block.raise_keeps | exact partsIn_trans (m := [.regs, .ev]) (by decide) hl | dsimp only)

theorem Block.noteMerged_keeps {ps : List Part} {a0 : Block} {b : Block} {p : Nat} {x0 : Put}
    (h_ : Keeps ps a0 b) (hl : partsIn [.regs] ps = true) :
    Keeps ps a0 (Block.noteMerged b p x0) := by
  unfold Block.noteMerged
  try dsimp only
  repeat' (first
    | intro _ | with_reducible exact h_ | with_reducible apply Keeps.ite | with_reducible apply Keeps.when
    | with_reducible apply Keeps.forEach | with_reducible apply Keeps.foldl | with_reducible apply Keeps.foldlFst
    | with_reducible apply Keeps.foldlSnd | with_reducible apply Keeps.iteFst | with_reducible apply Keeps.iteSnd
    | with_reducible apply Block.bump_keeps | with_reducible assumption | exact partsIn_trans (m := [.regs]) (by decide) hl
    | split | dsimp only)

theorem Block.upRaw_keeps {ps : List Part} {a0 : Block} {b : Block} {u n : Nat}
    (h_ : Keeps ps a0 b) (hl : partsIn [.regs] ps = true) :
    Keeps ps a0 (Block.upRaw b u n) := by
  unfold Block.upRaw
  try dsimp only
  repeat' (first
    | with_reducible exact h_ | with_reducible apply Block.bump_keeps | exact partsIn_trans (m := [.regs]) (by decide) hl
    | dsimp only)

theorem Block.upPut_keeps {ps : List Part} {a0 : Block} {b : Block} {u : Nat} {x0 : Put}
    (h_ : Keeps ps a0 b) (hl : partsIn [.queues, .mrg, .regs, .ev] ps = true) :
    Keeps ps a0 (Block.upPut b u x0) := by
  unfold Block.upPut
  try dsimp only
  repeat' (first
    | intro _ | with_reducible exact h_ | with_reducible apply Keeps.ite | with_reducible apply Keeps.when
    | with_reducible apply Keeps.forEach | with_reducible apply Keeps.foldl | with_reducible apply Keeps.foldlFst
    | with_reducible apply Keeps.foldlSnd | with_reducible apply Keeps.iteFst | with_reducible apply Keeps.iteSnd
    | with_reducible apply Block.qWrite_keeps | with_reducible apply Block.qWriteGroup_keeps
    | with_reducible apply Block.upRaw_keeps | with_reducible assumption
    | exact partsIn_trans (m := [.queues, .mrg, .regs, .ev]) (by decide) hl | split | dsimp only)

theorem Block.upWords_keeps {ps : List Part} {a0 : Block} {b : Block} {u : Nat} {l : List Word64}
    (h_ : Keeps ps a0 b) (hl : partsIn [.queues, .mrg, .regs, .ev] ps = true) :
    Keeps ps a0 (Block.upWords b u l) := by
  unfold Block.upWords
  try dsimp only
  repeat' (first
    | intro _ | with_reducible exact h_ | with_reducible apply Keeps.forEach | with_reducible apply Block.upPut_keeps
    | with_reducible assumption | exact partsIn_trans (m := [.queues, .mrg, .regs, .ev]) (by decide) hl | dsimp only)

theorem Block.notePuts_keeps {ps : List Part} {a0 : Block} {b : Block} {p : Nat} {l : List Put}
    (h_ : Keeps ps a0 b) (hl : partsIn [.regs, .ev] ps = true) :
    Keeps ps a0 (Block.notePuts b p l) := by
  unfold Block.notePuts
  try dsimp only
  repeat' (first
    | intro _ | with_reducible exact h_ | with_reducible apply Keeps.ite | with_reducible apply Keeps.forEach
    | with_reducible apply Block.noteRunHeader_keeps | with_reducible apply Block.noteMerged_keeps | with_reducible assumption
    | exact partsIn_trans (m := [.regs, .ev]) (by decide) hl | split | dsimp only)

theorem Block.mergeColophon_keeps {ps : List Part} {a0 : Block} {b : Block} {u : Nat} {resync : Bool}
    (h_ : Keeps ps a0 b) (hl : partsIn [.queues, .mrg, .regs, .ev] ps = true) :
    Keeps ps a0 (Block.mergeColophon b u resync) := by
  unfold Block.mergeColophon
  try dsimp only
  repeat' (first
    | with_reducible exact h_ | with_reducible apply Keeps.ite | with_reducible apply Block.qClose_keeps
    | with_reducible apply Block.upWords_keeps | exact partsIn_trans (m := [.queues, .mrg, .regs, .ev]) (by decide) hl
    | dsimp only)

theorem Block.absentPair_keeps {ps : List Part} {a0 : Block} {b : Block} {u p kind x orbit slot : Nat}
    (h_ : Keeps ps a0 b) (hl : partsIn [.queues, .mrg, .regs, .ev] ps = true) :
    Keeps ps a0 (Block.absentPair b u p kind x orbit slot) := by
  unfold Block.absentPair
  try dsimp only
  repeat' (first
    | with_reducible exact h_ | with_reducible apply Keeps.ite | with_reducible apply Block.countWithdrawal_keeps
    | with_reducible apply Block.upWords_keeps | exact partsIn_trans (m := [.queues, .mrg, .regs, .ev]) (by decide) hl
    | dsimp only)

theorem Block.absentPairs_keeps {ps : List Part} {a0 : Block} {b : Block} {u : Nat} {m : Mark}
    (h_ : Keeps ps a0 b) (hl : partsIn [.queues, .mrg, .regs, .ev] ps = true) :
    Keeps ps a0 (Block.absentPairs b u m) := by
  unfold Block.absentPairs
  try dsimp only
  repeat' (first
    | intro _ | with_reducible exact h_ | with_reducible apply Keeps.forEach | with_reducible apply Block.absentPair_keeps
    | with_reducible assumption | exact partsIn_trans (m := [.queues, .mrg, .regs, .ev]) (by decide) hl | dsimp only)

theorem Block.mergeMarks_keeps {ps : List Part} {a0 : Block} {b : Block} {u : Nat} {marks : List Mark} {own : List Word64}
    (h_ : Keeps ps a0 b) (hl : partsIn [.queues, .mrg, .regs, .ev] ps = true) :
    Keeps ps a0 (Block.mergeMarks b u marks own) := by
  unfold Block.mergeMarks
  try dsimp only
  repeat' (first
    | intro _ | with_reducible exact h_ | with_reducible apply Keeps.forEach | with_reducible apply Block.bump_keeps
    | with_reducible apply Block.upWords_keeps | with_reducible apply Block.absentPairs_keeps | with_reducible assumption
    | exact partsIn_trans (m := [.queues, .mrg, .regs, .ev]) (by decide) hl | dsimp only)

theorem Block.rqUpdate_keeps {ps : List Part} {a0 : Block} {b : Block} {p : Nat} {sel : QRec → Bool} {n : Nat} {mark : QRec → QRec}
    (h_ : Keeps ps a0 b) (hl : partsIn [.queues, .regs, .ev] ps = true) :
    Keeps ps a0 (Block.rqUpdate b p sel n mark) := by
  unfold Block.rqUpdate
  try dsimp only
  repeat' (first
    | intro _ | with_reducible exact h_ | with_reducible apply Block.onQueue_keeps | with_reducible apply Block.queueNotice_keeps
    | exact partsIn_trans (m := [.queues, .regs, .ev]) (by decide) hl | dsimp only)

theorem Block.mergeWithdrawals_keeps {ps : List Part} {a0 : Block} {b : Block} {old : Bool} {u p : Nat}
    (h_ : Keeps ps a0 b) (hl : partsIn [.queues, .mrg, .regs, .ev] ps = true) :
    Keeps ps a0 (Block.mergeWithdrawals b old u p) := by
  unfold Block.mergeWithdrawals
  try dsimp only
  repeat' (first
    | intro _ | with_reducible exact h_ | with_reducible apply Keeps.ite | with_reducible apply Keeps.forEach
    | with_reducible apply Block.onPort_keeps | with_reducible apply Block.upPut_keeps | with_reducible apply Block.notePuts_keeps
    | with_reducible apply Block.rqUpdate_keeps | with_reducible assumption
    | exact partsIn_trans (m := [.queues, .mrg, .regs, .ev]) (by decide) hl | dsimp only)

theorem Block.spendCredit_keeps {ps : List Part} {a0 : Block} {b : Block} {u n : Nat}
    (h_ : Keeps ps a0 b) (hl : partsIn [.mrg] ps = true) :
    Keeps ps a0 (Block.spendCredit b u n) := by
  unfold Block.spendCredit
  try dsimp only
  repeat' (first
    | intro _ | with_reducible exact h_ | with_reducible apply Block.onUplink_keeps
    | exact partsIn_trans (m := [.mrg]) (by decide) hl | dsimp only)

theorem Block.gainCredit_keeps {ps : List Part} {a0 : Block} {b : Block} {u : Nat}
    (h_ : Keeps ps a0 b) (hl : partsIn [.mrg, .regs] ps = true) :
    Keeps ps a0 (Block.gainCredit b u) := by
  unfold Block.gainCredit
  try dsimp only
  repeat' (first
    | intro _ | with_reducible exact h_ | with_reducible apply Keeps.ite | with_reducible apply Block.onUplink_keeps
    | with_reducible apply Block.bump_keeps | exact partsIn_trans (m := [.mrg, .regs]) (by decide) hl | dsimp only)

theorem Block.mergeIn_keeps {ps : List Part} {a0 : Block} {b : Block} {old : Bool} {u p : Nat}
    (h_ : Keeps ps a0 b) (hl : partsIn [.queues, .mrg, .regs, .ev] ps = true) :
    Keeps ps a0 (Block.mergeIn b old u p) := by
  unfold Block.mergeIn
  try dsimp only
  repeat' (first
    | intro _ | with_reducible exact h_ | with_reducible apply Keeps.ite | with_reducible apply Keeps.forEach
    | with_reducible apply Block.upPut_keeps | with_reducible apply Block.notePuts_keeps
    | with_reducible apply Block.rqUpdate_keeps | with_reducible apply Block.spendCredit_keeps | with_reducible assumption
    | exact partsIn_trans (m := [.queues, .mrg, .regs, .ev]) (by decide) hl | split | dsimp only)

theorem Block.upFill_keeps {ps : List Part} {a0 : Block} {b : Block} {u : Nat} {r : QRec}
    (h_ : Keeps ps a0 b) (hl : partsIn [.queues, .mrg, .regs, .ev] ps = true) :
    Keeps ps a0 (Block.upFill b u r) := by
  unfold Block.upFill
  try dsimp only
  repeat' (first
    | intro _ | with_reducible exact h_ | with_reducible apply Keeps.ite | with_reducible apply Block.onQueue_keeps
    | with_reducible apply Block.account_keeps | with_reducible apply Block.qPlace_keeps | with_reducible apply Block.upRaw_keeps
    | exact partsIn_trans (m := [.queues, .mrg, .regs, .ev]) (by decide) hl | dsimp only)

theorem Block.overTaken_keeps {ps : List Part} {a0 : Block} {b : Block} {u p x n : Nat}
    (h_ : Keeps ps a0 b) (hl : partsIn [.queues, .regs, .ev] ps = true) :
    Keeps ps a0 (Block.overTaken b u p x n) := by
  unfold Block.overTaken
  try dsimp only
  repeat' (first
    | intro _ | with_reducible exact h_ | with_reducible apply Block.rqUpdate_keeps
    | exact partsIn_trans (m := [.queues, .regs, .ev]) (by decide) hl | dsimp only)

theorem Block.mergeOver_keeps {ps : List Part} {a0 : Block} {b : Block} {u : Nat} {x0 : Nat} {x1 : List (Nat × Nat)} {x2 : RunAt} {x3 : Nat}
    (h_ : Keeps ps a0 b) (hl : partsIn [.queues, .mrg, .regs, .ev] ps = true) : Keeps ps a0 (Block.mergeOver b u x0 x1 x2 x3) := by
  induction x1 generalizing b x0 x2 x3 with
  | nil => exact h_
  | cons q t ih =>
    obtain ⟨x, p⟩ := q
    unfold Block.mergeOver
    dsimp only
    repeat' (first
      | intro _ | with_reducible exact h_ | with_reducible apply Keeps.ite | with_reducible apply ih
      | with_reducible apply Block.spendCredit_keeps | with_reducible apply Block.bump_keeps | with_reducible apply Keeps.forEach
      | with_reducible apply Block.upFill_keeps | with_reducible apply Block.notePuts_keeps | with_reducible apply Block.overTaken_keeps
      | with_reducible assumption | exact partsIn_trans (m := [.queues, .mrg, .regs, .ev]) (by decide) hl)

theorem Block.mergeBulk_keeps {ps : List Part} {a0 : Block} {b : Block} {u : Nat}
    (h_ : Keeps ps a0 b) (hl : partsIn [.queues, .mrg, .regs, .ev] ps = true) :
    Keeps ps a0 (Block.mergeBulk b u) := by
  unfold Block.mergeBulk
  try dsimp only
  repeat' (first
    | intro _ | with_reducible exact h_ | with_reducible apply Keeps.ite | with_reducible apply Keeps.forEach
    | with_reducible apply Block.onMrg_keeps | with_reducible apply Block.bump_keeps | with_reducible apply Block.onQueue_keeps
    | with_reducible apply Block.queueNotice_keeps | with_reducible apply Block.qRefuse_keeps | with_reducible assumption
    | exact partsIn_trans (m := [.queues, .mrg, .regs, .ev]) (by decide) hl | dsimp only)

theorem Block.streamPairs_keeps {ps : List Part} {a0 : Block} {b : Block} {u : Nat} {left : List Nat}
    (h_ : Keeps ps a0 b) (hl : partsIn [.queues, .mrg, .regs, .ev] ps = true) :
    Keeps ps a0 (Block.streamPairs b u left) := by
  unfold Block.streamPairs
  try dsimp only
  repeat' (first
    | intro _ | with_reducible exact h_ | with_reducible apply Keeps.ite | with_reducible apply Keeps.forEach
    | with_reducible apply Block.absentPair_keeps | with_reducible assumption
    | exact partsIn_trans (m := [.queues, .mrg, .regs, .ev]) (by decide) hl | dsimp only)

theorem Block.eachPort_keeps {ps : List Part} {a0 : Block} {b : Block} {u : Nat} {f : Bool → Nat → Block → Block}
    (h_ : Keeps ps a0 b) (hl : partsIn [] ps = true) (h_f : ∀ u0 u1 y, Keeps ps a0 y → Keeps ps a0 (f u0 u1 y)) :
    Keeps ps a0 (Block.eachPort b u f) := by
  unfold Block.eachPort
  try dsimp only
  repeat' (first
    | intro _ | with_reducible exact h_ | with_reducible apply Keeps.forEach | with_reducible apply h_f
    | with_reducible assumption | exact partsIn_trans (m := []) (by decide) hl | dsimp only)

theorem Block.mergeControl_keeps {ps : List Part} {a0 : Block} {b : Block} {u : Nat} {marks : List Mark} {left : List Nat}
    (h_ : Keeps ps a0 b) (hl : partsIn [.queues, .mrg, .regs, .ev] ps = true) :
    Keeps ps a0 (Block.mergeControl b u marks left) := by
  unfold Block.mergeControl
  try dsimp only
  repeat' (first
    | intro _ | with_reducible exact h_ | with_reducible apply Keeps.ite | with_reducible apply Keeps.forEach
    | with_reducible apply Block.fourParts_keeps | with_reducible apply Block.upRaw_keeps
    | with_reducible apply Block.upWords_keeps | with_reducible apply Block.mergeColophon_keeps
    | with_reducible apply Block.mergeMarks_keeps | with_reducible apply Block.streamPairs_keeps | with_reducible assumption
    | exact partsIn_trans (m := [.queues, .mrg, .regs, .ev]) (by decide) hl | dsimp only)

theorem Block.mergeRows_keeps {ps : List Part} {a0 : Block} {b : Block} {u : Nat} {marks : List Mark} {left : List Nat}
    (h_ : Keeps ps a0 b) (hl : partsIn [.queues, .mrg, .regs, .ev] ps = true) :
    Keeps ps a0 (Block.mergeRows b u marks left) := by
  unfold Block.mergeRows
  try dsimp only
  repeat' (first
    | intro _ | with_reducible exact h_ | with_reducible apply Keeps.when | with_reducible apply Block.qClose_keeps
    | with_reducible apply Block.mergeWithdrawals_keeps | with_reducible apply Block.gainCredit_keeps
    | with_reducible apply Block.mergeIn_keeps | with_reducible apply Block.eachPort_keeps
    | with_reducible apply Block.mergeControl_keeps | with_reducible assumption
    | exact partsIn_trans (m := [.queues, .mrg, .regs, .ev]) (by decide) hl | dsimp only)

theorem Block.mergeDone_keeps {ps : List Part} {a0 : Block} {b : Block}
    (h_ : Keeps ps a0 b) (hl : partsIn [.acc, .queues, .mrg] ps = true) :
    Keeps ps a0 (Block.mergeDone b) := by
  unfold Block.mergeDone
  try dsimp only
  repeat' (first
    | intro _ | with_reducible exact h_ | with_reducible apply Keeps.ite | with_reducible apply Keeps.forEach
    | with_reducible apply Block.onAcc_keeps | with_reducible apply Block.onMrg_keeps | with_reducible apply Block.onQueue_keeps
    | with_reducible assumption | exact partsIn_trans (m := [.acc, .queues, .mrg]) (by decide) hl | split | dsimp only)

theorem Block.resyncMerge_keeps {ps : List Part} {a0 : Block} {b : Block} {e : Nat}
    (h_ : Keeps ps a0 b) (hl : partsIn [.acc, .mrg] ps = true) :
    Keeps ps a0 (Block.resyncMerge b e) := by
  unfold Block.resyncMerge
  try dsimp only
  repeat' (first
    | intro _ | with_reducible exact h_ | with_reducible apply Keeps.ite | with_reducible apply Block.onAcc_keeps
    | with_reducible apply Block.onMrg_keeps | exact partsIn_trans (m := [.acc, .mrg]) (by decide) hl | dsimp only)

theorem Block.occPut_keeps {ps : List Part} {a0 : Block} {b : Block} {x p code : Nat}
    (h_ : Keeps ps a0 b) (hl : partsIn [.mrg] ps = true) :
    Keeps ps a0 (Block.occPut b x p code) := by
  unfold Block.occPut
  try dsimp only
  repeat' (first
    | intro _ | with_reducible exact h_ | with_reducible apply Block.onMrg_keeps | with_reducible apply Block.onPort_keeps
    | exact partsIn_trans (m := [.mrg]) (by decide) hl | dsimp only)

theorem Block.aged_keeps {ps : List Part} {a0 : Block} {b : Block} {p : Nat}
    (h_ : Keeps ps a0 b) (hl : partsIn [.queues, .mrg, .regs, .ev] ps = true) :
    Keeps ps a0 (Block.aged b p) := by
  unfold Block.aged
  try dsimp only
  repeat' (first
    | intro _ | with_reducible exact h_ | with_reducible apply Keeps.ite | with_reducible apply Keeps.forEach
    | with_reducible apply Block.bump_keeps | with_reducible apply Block.portWithdrawals_keeps
    | with_reducible apply Block.rqUpdate_keeps | with_reducible assumption
    | exact partsIn_trans (m := [.queues, .mrg, .regs, .ev]) (by decide) hl | split | dsimp only)

theorem Block.compInterval_keeps {ps : List Part} {a0 : Block} {b : Block} {u cfg : Nat}
    (h_ : Keeps ps a0 b) (hl : partsIn [.mrg] ps = true) :
    Keeps ps a0 (Block.compInterval b u cfg) := by
  unfold Block.compInterval
  try dsimp only
  repeat' (first
    | intro _ | with_reducible exact h_ | with_reducible apply Keeps.ite | with_reducible apply Block.onUplink_keeps
    | exact partsIn_trans (m := [.mrg]) (by decide) hl | dsimp only)

theorem Block.countBlock_keeps {ps : List Part} {a0 : Block} {b : Block} {u e raw sent : Nat} {restart : Bool}
    (h_ : Keeps ps a0 b) (hl : partsIn [.regs] ps = true) :
    Keeps ps a0 (Block.countBlock b u e raw sent restart) := by
  unfold Block.countBlock
  try dsimp only
  repeat' (first
    | with_reducible exact h_ | with_reducible apply Block.bump_keeps | exact partsIn_trans (m := [.regs]) (by decide) hl
    | dsimp only)

theorem Block.storeBlock_keeps {ps : List Part} {a0 : Block} {b : Block} {u : Nat} {l : List Word64}
    (h_ : Keeps ps a0 b) (hl : partsIn [.mrg, .regs] ps = true) :
    Keeps ps a0 (Block.storeBlock b u l) := by
  unfold Block.storeBlock
  try dsimp only
  repeat' (first
    | intro _ | with_reducible exact h_ | with_reducible apply Keeps.ite | with_reducible apply Block.onUplink_keeps
    | with_reducible apply Block.countBlock_keeps | exact partsIn_trans (m := [.mrg, .regs]) (by decide) hl | dsimp only)

theorem Block.verifyFailed_keeps {ps : List Part} {a0 : Block} {b : Block} {u err : Nat}
    (h_ : Keeps ps a0 b) (hl : partsIn [.chans, .adc, .mrg, .frm, .twin, .flt, .regs, .ev, .free] ps = true) :
    Keeps ps a0 (Block.verifyFailed b u err) := by
  unfold Block.verifyFailed
  try dsimp only
  repeat' (first
    | intro _ | with_reducible exact h_ | with_reducible apply Keeps.when | with_reducible apply Block.onUplink_keeps
    | with_reducible apply Block.bump_keeps | with_reducible apply Block.raise_keeps | with_reducible apply Block.transient_keeps
    | with_reducible apply Block.retryFailed_keeps | with_reducible assumption
    | exact partsIn_trans (m := [.chans, .adc, .mrg, .frm, .twin, .flt, .regs, .ev, .free]) (by decide) hl | dsimp only)

theorem Block.verifyPassed_keeps {ps : List Part} {a0 : Block} {b : Block} {u : Nat}
    (h_ : Keeps ps a0 b) (hl : partsIn [.mrg, .flt] ps = true) :
    Keeps ps a0 (Block.verifyPassed b u) := by
  unfold Block.verifyPassed
  try dsimp only
  repeat' (first
    | intro _ | with_reducible exact h_ | with_reducible apply Keeps.ite | with_reducible apply Block.onUplink_keeps
    | with_reducible apply Block.retryOk_keeps | exact partsIn_trans (m := [.mrg, .flt]) (by decide) hl | dsimp only)

theorem Block.takeUnits_keeps {ps : List Part} {a0 : Block} {b : Block} {u : Nat} {l : List (Nat × Nat × List Put)}
    (h_ : Keeps ps a0 b) (hl : partsIn [.queues, .mrg, .regs, .ev] ps = true) :
    Keeps ps a0 (Block.takeUnits b u l) := by
  unfold Block.takeUnits
  try dsimp only
  repeat' (first
    | intro _ | with_reducible exact h_ | with_reducible apply Keeps.forEach | with_reducible apply Block.bump_keeps
    | with_reducible apply Block.account_keeps | with_reducible apply Block.upRaw_keeps
    | with_reducible apply Block.notePuts_keeps | with_reducible apply Block.spendCredit_keeps
    | with_reducible apply Block.overTaken_keeps | with_reducible assumption
    | exact partsIn_trans (m := [.queues, .mrg, .regs, .ev]) (by decide) hl | dsimp only)

theorem Block.sendBlock_keeps {ps : List Part} {a0 : Block} {b : Block} {u : Nat} {head : List Word64} {pad more : List (Nat × Nat × List Put)}
    (h_ : Keeps ps a0 b) (hl : partsIn [.queues, .mrg, .flt, .regs, .ev] ps = true) :
    Keeps ps a0 (Block.sendBlock b u head pad more) := by
  unfold Block.sendBlock
  try dsimp only
  repeat' (first
    | intro _ | with_reducible exact h_ | with_reducible apply Keeps.ite | with_reducible apply Block.onUplink_keeps
    | with_reducible apply Block.bump_keeps | with_reducible apply Block.onQueue_keeps
    | with_reducible apply Block.countBlock_keeps | with_reducible apply Block.verifyPassed_keeps
    | with_reducible apply Block.takeUnits_keeps | exact partsIn_trans (m := [.queues, .mrg, .flt, .regs, .ev]) (by decide) hl
    | split | dsimp only)

theorem Block.buildBlock_keeps {ps : List Part} {a0 : Block} {b : Block} {u : Nat} {w : QWord}
    (h_ : Keeps ps a0 b) (hl : partsIn [.chans, .adc, .queues, .mrg, .frm, .twin, .flt, .regs, .ev, .free] ps = true) :
    Keeps ps a0 (Block.buildBlock b u w) := by
  unfold Block.buildBlock
  try dsimp only
  repeat' (first
    | intro _ | with_reducible exact h_ | with_reducible apply Keeps.ite | with_reducible apply Block.onUplink_keeps
    | with_reducible apply Block.storeBlock_keeps | with_reducible apply Block.verifyFailed_keeps
    | with_reducible apply Block.sendBlock_keeps
    | exact partsIn_trans (m := [.chans, .adc, .queues, .mrg, .frm, .twin, .flt, .regs, .ev, .free]) (by decide) hl | split
    | dsimp only)

theorem Block.engine_keeps {ps : List Part} {a0 : Block} {b : Block} {u cfg : Nat}
    (h_ : Keeps ps a0 b) (hl : partsIn [.chans, .adc, .queues, .mrg, .frm, .twin, .flt, .regs, .ev, .free] ps = true) :
    Keeps ps a0 (Block.engine b u cfg) := by
  unfold Block.engine
  try dsimp only
  repeat' (first
    | intro _ | with_reducible exact h_ | with_reducible apply Keeps.ite | with_reducible apply Block.onUplink_keeps
    | with_reducible apply Block.compInterval_keeps | with_reducible apply Block.buildBlock_keeps
    | exact partsIn_trans (m := [.chans, .adc, .queues, .mrg, .frm, .twin, .flt, .regs, .ev, .free]) (by decide) hl | split
    | dsimp only)

theorem Block.mergeUplink_keeps {ps : List Part} {a0 : Block} {b : Block} {u : Nat} {marks : List Mark} {left : List Nat}
    (h_ : Keeps ps a0 b) (hl : partsIn [.chans, .adc, .queues, .mrg, .frm, .twin, .flt, .regs, .ev, .free] ps = true) :
    Keeps ps a0 (Block.mergeUplink b u marks left) := by
  unfold Block.mergeUplink
  try dsimp only
  repeat' (first
    | intro _ | with_reducible exact h_ | with_reducible apply Keeps.ite | with_reducible apply Block.onUplink_keeps
    | with_reducible apply Block.qClose_keeps | with_reducible apply Block.mergeOver_keeps
    | with_reducible apply Block.mergeBulk_keeps | with_reducible apply Block.mergeRows_keeps
    | with_reducible apply Block.engine_keeps
    | exact partsIn_trans (m := [.chans, .adc, .queues, .mrg, .frm, .twin, .flt, .regs, .ev, .free]) (by decide) hl | dsimp only)

theorem Block.merge_keeps {ps : List Part} {a0 : Block} {b : Block} {left : List Nat}
    (h_ : Keeps ps a0 b) (hl : partsIn [.chans, .adc, .acc, .queues, .mrg, .frm, .twin, .flt, .regs, .ev, .free] ps = true) :
    Keeps ps a0 (Block.merge b left) := by
  unfold Block.merge
  try dsimp only
  repeat' (first
    | intro _ | with_reducible exact h_ | with_reducible apply Keeps.ite | with_reducible apply Keeps.forEach
    | with_reducible apply Block.mergeDone_keeps | with_reducible apply Block.mergeUplink_keeps | with_reducible assumption
    | exact partsIn_trans (m := [.chans, .adc, .acc, .queues, .mrg, .frm, .twin, .flt, .regs, .ev, .free]) (by decide) hl
    | dsimp only)

end Sys2Proof.Machine
end

