-- ==== Sys2Proof/Laws/FramesDevice.lean ====
section
/-! SUPPORT. The frame of every operation of resets, requests, buses, start-up, presented frames, timing, upkeep and boundaries: which parts of the block it can change. -/

namespace Sys2Proof.Machine

set_option linter.all false

theorem Block.endSession_keeps {ps : List Part} {a0 : Block} {b : Block} {x : Session} {cause : Nat}
    (h_ : Keeps ps a0 b) (hl : partsIn [.cvus, .regs, .dict, .ev] ps = true) :
    Keeps ps a0 (Block.endSession b x cause) := by
  unfold Block.endSession
  try dsimp only
  repeat' (first
    | intro _ | with_reducible exact h_ | with_reducible apply Keeps.onDictRest (by intro _; first | rfl | (split <;> rfl))
    | with_reducible apply Keeps.onDictRegs (by intro _; first | rfl | (split <;> rfl)) | with_reducible apply Block.raise_keeps
    | with_reducible apply Block.cvuSessionEnd_keeps | exact partsIn_trans (m := [.cvus, .regs, .dict, .ev]) (by decide) hl
    | dsimp only | with_reducible apply Keeps.dict)

theorem Block.endSessions_keeps {ps : List Part} {a0 : Block} {b : Block}
    (h_ : Keeps ps a0 b) (hl : partsIn [.cvus, .regs, .dict, .ev] ps = true) :
    Keeps ps a0 (Block.endSessions b) := by
  unfold Block.endSessions
  try dsimp only
  repeat' (first
    | intro _ | with_reducible exact h_ | with_reducible apply Keeps.forEach | with_reducible apply Block.endSession_keeps
    | with_reducible assumption | exact partsIn_trans (m := [.cvus, .regs, .dict, .ev]) (by decide) hl | dsimp only)

theorem Block.startCan_keeps {ps : List Part} {a0 : Block} {b : Block}
    (h_ : Keeps ps a0 b) (hl : partsIn [.dict] ps = true) :
    Keeps ps a0 (Block.startCan b) := by
  unfold Block.startCan
  try dsimp only
  repeat' (first
    | intro _ | with_reducible exact h_ | with_reducible apply Keeps.onDictRest (by intro _; first | rfl | (split <;> rfl))
    | with_reducible apply Keeps.onDictRegs (by intro _; first | rfl | (split <;> rfl))
    | exact partsIn_trans (m := [.dict]) (by decide) hl | dsimp only | with_reducible apply Keeps.dict)

theorem Block.resetParsers_keeps {ps : List Part} {a0 : Block} {b : Block}
    (h_ : Keeps ps a0 b) (hl : partsIn [.mrg, .dict] ps = true) :
    Keeps ps a0 (Block.resetParsers b) := by
  unfold Block.resetParsers
  try dsimp only
  repeat' (first
    | intro _ | with_reducible exact h_ | with_reducible apply Keeps.onDictRest (by intro _; first | rfl | (split <;> rfl))
    | with_reducible apply Keeps.onDictRegs (by intro _; first | rfl | (split <;> rfl)) | with_reducible apply Block.onMrg_keeps
    | exact partsIn_trans (m := [.mrg, .dict]) (by decide) hl | dsimp only | with_reducible apply Keeps.dict)

theorem Block.commRestart_keeps {ps : List Part} {a0 : Block} {b : Block}
    (h_ : Keeps ps a0 b) (hl : partsIn [.mrg, .cvus, .regs, .dict, .ev] ps = true) :
    Keeps ps a0 (Block.commRestart b) := by
  unfold Block.commRestart
  try dsimp only
  repeat' (first
    | intro _ | with_reducible exact h_ | with_reducible apply Keeps.onDictRest (by intro _; first | rfl | (split <;> rfl))
    | with_reducible apply Keeps.onDictRegs (by intro _; first | rfl | (split <;> rfl))
    | with_reducible apply Block.endSessions_keeps | with_reducible apply Block.startCan_keeps
    | with_reducible apply Block.resetParsers_keeps | exact partsIn_trans (m := [.mrg, .cvus, .regs, .dict, .ev]) (by decide) hl
    | dsimp only | with_reducible apply Keeps.dict)

theorem Block.poweredOn_keeps {ps : List Part} {a0 : Block} {b : Block} {roleSel twinId : Bool}
    (h_ : Keeps ps a0 b) (hl : partsIn [.flash, .role, .boot, .sets, .now, .time, .chans, .chMask, .chSince, .leads, .plate, .bin, .iu, .adc, .acc, .stk, .queues, .mrg, .frm, .cvus, .twin, .flt, .regs, .dict, .ev, .sec, .env, .jtag] ps = true) :
    Keeps ps a0 (Block.poweredOn b roleSel twinId) :=
  h_.comp ⟨fun p hp => by cases p <;> first | rfl | exact ⟨rfl, rfl⟩ | exact absurd (by decide) hp⟩ hl

theorem Block.restarted_keeps {ps : List Part} {a0 : Block} {b : Block} {pin : Bool} {boot : Boot}
    (h_ : Keeps ps a0 b) (hl : partsIn [.flash, .role, .boot, .sets, .now, .time, .chans, .chMask, .chSince, .leads, .plate, .bin, .iu, .adc, .acc, .stk, .queues, .mrg, .frm, .cvus, .twin, .flt, .regs, .dict, .ev, .sec, .env] ps = true) :
    Keeps ps a0 (Block.restarted b pin boot) :=
  h_.comp ⟨fun p hp => by cases p <;> first | rfl | exact ⟨rfl, rfl⟩ | exact absurd (by decide) hp⟩ hl

theorem Block.pinReset_keeps {ps : List Part} {a0 : Block} {b : Block}
    (h_ : Keeps ps a0 b) (hl : partsIn [.flash, .boot, .sets, .time, .chans, .chMask, .chSince, .leads, .plate, .bin, .iu, .adc, .acc, .stk, .queues, .mrg, .frm, .cvus, .twin, .flt, .regs, .dict, .ev, .sec, .env] ps = true) : Keeps ps a0 (Block.pinReset b) := by
  have h1 := Block.endSessions_keeps h_ (partsIn_trans (m := [.flash, .boot, .sets, .time, .chans, .chMask, .chSince, .leads, .plate, .bin, .iu, .adc, .acc, .stk, .queues, .mrg, .frm, .cvus, .twin, .flt, .regs, .dict, .ev, .sec, .env]) (by decide) hl)
  refine h1.comp (m := [.flash, .boot, .sets, .time, .chans, .chMask, .chSince, .leads, .plate, .bin, .iu, .adc, .acc, .stk, .queues, .mrg, .frm, .cvus, .twin, .flt, .regs, .dict, .ev, .sec, .env]) ?_ hl
  constructor; intro p hp; cases p <;> first | rfl | exact ⟨rfl, rfl⟩ | exact absurd (by decide) hp

theorem Block.deviceRestart_keeps {ps : List Part} {a0 : Block} {b : Block} {cause : Nat}
    (h_ : Keeps ps a0 b) (hl : partsIn [.flash, .boot, .sets, .time, .chans, .chMask, .chSince, .leads, .plate, .bin, .iu, .adc, .acc, .stk, .queues, .mrg, .frm, .cvus, .twin, .flt, .regs, .dict, .ev, .sec, .env] ps = true) : Keeps ps a0 (Block.deviceRestart b cause) := by
  have h1 := Block.endSessions_keeps h_ (partsIn_trans (m := [.flash, .boot, .sets, .time, .chans, .chMask, .chSince, .leads, .plate, .bin, .iu, .adc, .acc, .stk, .queues, .mrg, .frm, .cvus, .twin, .flt, .regs, .dict, .ev, .sec, .env]) (by decide) hl)
  refine h1.comp (m := [.flash, .boot, .sets, .time, .chans, .chMask, .chSince, .leads, .plate, .bin, .iu, .adc, .acc, .stk, .queues, .mrg, .frm, .cvus, .twin, .flt, .regs, .dict, .ev, .sec, .env]) ?_ hl
  constructor; intro p hp; cases p <;> first | rfl | exact ⟨rfl, rfl⟩ | exact absurd (by decide) hp

theorem Block.lanesOff_keeps {ps : List Part} {a0 : Block} {b : Block}
    (h_ : Keeps ps a0 b) (hl : partsIn [.frm] ps = true) :
    Keeps ps a0 (Block.lanesOff b) := by
  unfold Block.lanesOff
  try dsimp only
  repeat' (first
    | intro _ | with_reducible exact h_ | with_reducible apply Keeps.ite | with_reducible apply Block.onFrm_keeps
    | exact partsIn_trans (m := [.frm]) (by decide) hl | split | dsimp only)

theorem Block.shutDown_keeps {ps : List Part} {a0 : Block} {b : Block}
    (h_ : Keeps ps a0 b) (hl : partsIn [.boot, .time, .frm, .env] ps = true) :
    Keeps ps a0 (Block.shutDown b) := by
  unfold Block.shutDown
  try dsimp only
  repeat' (first
    | intro _ | with_reducible exact h_
    | with_reducible apply Keeps.onBootRest (by intro _; first | exact ⟨rfl, rfl⟩ | (split <;> exact ⟨rfl, rfl⟩))
    | with_reducible apply Keeps.onTimeRest (by intro _; first | rfl | (split <;> rfl)) | with_reducible apply Block.outsLow_keeps
    | with_reducible apply Block.lanesOff_keeps | exact partsIn_trans (m := [.boot, .time, .frm, .env]) (by decide) hl
    | dsimp only | with_reducible apply Keeps.boot | with_reducible apply Keeps.time)

theorem Block.resetAborts_keeps {ps : List Part} {a0 : Block} {b : Block} {blk : Nat}
    (h_ : Keeps ps a0 b) (hl : partsIn [.queues, .mrg, .twin, .regs, .dict, .ev] ps = true) :
    Keeps ps a0 (Block.resetAborts b blk) := by
  unfold Block.resetAborts
  try dsimp only
  repeat' (first
    | intro _ | with_reducible exact h_ | with_reducible apply Keeps.ite | with_reducible apply Keeps.forEach
    | with_reducible apply Keeps.onDictRest (by intro _; first | rfl | (split <;> rfl))
    | with_reducible apply Keeps.onDictRegs (by intro _; first | rfl | (split <;> rfl)) | with_reducible apply Block.abort_keeps
    | with_reducible apply Block.refuseKey_keeps | with_reducible assumption
    | exact partsIn_trans (m := [.queues, .mrg, .twin, .regs, .dict, .ev]) (by decide) hl | dsimp only
    | with_reducible apply Keeps.dict)

theorem Block.resetChannels_keeps {ps : List Part} {a0 : Block} {b : Block}
    (h_ : Keeps ps a0 b) (hl : partsIn [.chans, .chMask, .regs] ps = true) :
    Keeps ps a0 (Block.resetChannels b) := by
  unfold Block.resetChannels
  try dsimp only
  repeat' (first
    | intro _ | with_reducible exact h_ | with_reducible apply Keeps.ite | with_reducible apply Keeps.forEach
    | with_reducible apply Block.remask_keeps | with_reducible apply Block.settleFrom_keeps
    | with_reducible apply Block.clearCounters_keeps | with_reducible assumption
    | exact partsIn_trans (m := [.chans, .chMask, .regs]) (by decide) hl | dsimp only)

theorem Block.resetEdges_keeps {ps : List Part} {a0 : Block} {b : Block}
    (h_ : Keeps ps a0 b) (hl : partsIn [.time, .chans, .iu, .adc, .regs] ps = true) :
    Keeps ps a0 (Block.resetEdges b) := by
  unfold Block.resetEdges
  try dsimp only
  repeat' (first
    | intro _ | with_reducible exact h_ | with_reducible apply Keeps.onTimeRest (by intro _; first | rfl | (split <;> rfl))
    | with_reducible apply Block.campaignAbort_keeps | with_reducible apply Block.emptyStamps_keeps
    | with_reducible apply Block.clearCounters_keeps | exact partsIn_trans (m := [.time, .chans, .iu, .adc, .regs]) (by decide) hl
    | dsimp only | with_reducible apply Keeps.time)

theorem Block.resetConverters_keeps {ps : List Part} {a0 : Block} {b : Block}
    (h_ : Keeps ps a0 b) (hl : partsIn [.chans, .adc, .regs, .ev] ps = true) :
    Keeps ps a0 (Block.resetConverters b) := by
  unfold Block.resetConverters
  try dsimp only
  repeat' (first
    | intro _ | with_reducible exact h_ | with_reducible apply Keeps.ite | with_reducible apply Keeps.forEach
    | with_reducible apply Block.onAdc_keeps | with_reducible apply Block.pairAbandoned_keeps
    | with_reducible apply Block.startRun_keeps | with_reducible assumption
    | exact partsIn_trans (m := [.chans, .adc, .regs, .ev]) (by decide) hl | dsimp only)

theorem Block.resetClassification_keeps {ps : List Part} {a0 : Block} {b : Block}
    (h_ : Keeps ps a0 b) (hl : partsIn [.chans, .adc, .acc, .regs] ps = true) :
    Keeps ps a0 (Block.resetClassification b) := by
  unfold Block.resetClassification
  try dsimp only
  repeat' (first
    | intro _ | with_reducible exact h_ | with_reducible apply Block.onAdc_keeps | with_reducible apply Block.onAcc_keeps
    | with_reducible apply Block.bump_keeps | exact partsIn_trans (m := [.chans, .adc, .acc, .regs]) (by decide) hl | split
    | dsimp only | with_reducible apply Keeps.chans)

theorem Block.resetCompression_keeps {ps : List Part} {a0 : Block} {b : Block}
    (h_ : Keeps ps a0 b) (hl : partsIn [.mrg] ps = true) :
    Keeps ps a0 (Block.resetCompression b) := by
  unfold Block.resetCompression
  try dsimp only
  repeat' (first
    | intro _ | with_reducible exact h_ | with_reducible apply Block.onMrg_keeps
    | exact partsIn_trans (m := [.mrg]) (by decide) hl | dsimp only)

theorem Block.resetCvus_keeps {ps : List Part} {a0 : Block} {b : Block}
    (h_ : Keeps ps a0 b) (hl : partsIn [.chans, .adc, .mrg, .frm, .cvus, .twin, .flt, .regs, .ev, .free] ps = true) :
    Keeps ps a0 (Block.resetCvus b) := by
  unfold Block.resetCvus
  try dsimp only
  repeat' (first
    | with_reducible exact h_ | with_reducible apply Block.engineTest_keeps
    | exact partsIn_trans (m := [.chans, .adc, .mrg, .frm, .cvus, .twin, .flt, .regs, .ev, .free]) (by decide) hl | dsimp only
    | with_reducible apply Keeps.cvus)

theorem Block.resetEnvironment_keeps {ps : List Part} {a0 : Block} {b : Block}
    (h_ : Keeps ps a0 b) (hl : partsIn [.env] ps = true) :
    Keeps ps a0 (Block.resetEnvironment b) := by
  unfold Block.resetEnvironment
  try dsimp only
  repeat' (first
    | intro _ | with_reducible exact h_ | with_reducible apply Block.onEnv_keeps | with_reducible apply Block.outsLow_keeps
    | exact partsIn_trans (m := [.env]) (by decide) hl | dsimp only)

theorem Block.resetEffect_keeps {ps : List Part} {a0 : Block} {b : Block} {blk : Nat}
    (h_ : Keeps ps a0 b) (hl : partsIn [.time, .chans, .chMask, .iu, .adc, .acc, .stk, .queues, .mrg, .frm, .cvus, .twin, .flt, .regs, .ev, .env, .free] ps = true) :
    Keeps ps a0 (Block.resetEffect b blk) := by
  unfold Block.resetEffect
  try dsimp only
  repeat' (first
    | with_reducible exact h_ | with_reducible apply Block.resyncStacks_keeps | with_reducible apply Block.resyncMerge_keeps
    | with_reducible apply Block.resetChannels_keeps | with_reducible apply Block.resetEdges_keeps
    | with_reducible apply Block.resetConverters_keeps | with_reducible apply Block.resetClassification_keeps
    | with_reducible apply Block.resetCompression_keeps | with_reducible apply Block.resetCvus_keeps
    | with_reducible apply Block.resetEnvironment_keeps
    | exact partsIn_trans (m := [.time, .chans, .chMask, .iu, .adc, .acc, .stk, .queues, .mrg, .frm, .cvus, .twin, .flt, .regs, .ev, .env, .free]) (by decide) hl
    | split | dsimp only)

theorem Block.beginReset_keeps {ps : List Part} {a0 : Block} {b : Block} {blk : Nat}
    (h_ : Keeps ps a0 b) (hl : partsIn [.boot, .time, .chans, .chMask, .iu, .adc, .acc, .stk, .queues, .mrg, .frm, .cvus, .twin, .flt, .regs, .dict, .ev, .env, .free] ps = true) :
    Keeps ps a0 (Block.beginReset b blk) := by
  unfold Block.beginReset
  try dsimp only
  repeat' (first
    | intro _ | with_reducible exact h_
    | with_reducible apply Keeps.onBootRest (by intro _; first | exact ⟨rfl, rfl⟩ | (split <;> exact ⟨rfl, rfl⟩))
    | with_reducible apply Block.bump_keeps | with_reducible apply Block.raise_keeps
    | with_reducible apply Block.resetAborts_keeps | with_reducible apply Block.resetEffect_keeps
    | exact partsIn_trans (m := [.boot, .time, .chans, .chMask, .iu, .adc, .acc, .stk, .queues, .mrg, .frm, .cvus, .twin, .flt, .regs, .dict, .ev, .env, .free]) (by decide) hl
    | dsimp only | with_reducible apply Keeps.boot)

theorem Block.endReset_keeps {ps : List Part} {a0 : Block} {b : Block} {blk : Nat}
    (h_ : Keeps ps a0 b) (hl : partsIn [.boot, .regs, .ev] ps = true) :
    Keeps ps a0 (Block.endReset b blk) := by
  unfold Block.endReset
  try dsimp only
  repeat' (first
    | intro _ | with_reducible exact h_ | with_reducible apply Keeps.ite
    | with_reducible apply Keeps.onBootRest (by intro _; first | exact ⟨rfl, rfl⟩ | (split <;> exact ⟨rfl, rfl⟩))
    | with_reducible apply Block.raise_keeps | exact partsIn_trans (m := [.boot, .regs, .ev]) (by decide) hl | split | dsimp only
    | with_reducible apply Keeps.boot)

theorem Block.subsystemWrite_keeps {ps : List Part} {a0 : Block} {b : Block} {h : Hdr} {blk v : Nat}
    (h_ : Keeps ps a0 b) (hl : partsIn [.boot, .queues, .mrg, .twin, .regs, .dict, .ev] ps = true) :
    Keeps ps a0 (Block.subsystemWrite b h blk v) := by
  unfold Block.subsystemWrite
  try dsimp only
  repeat' (first
    | intro _ | with_reducible exact h_ | with_reducible apply Keeps.ite
    | with_reducible apply Keeps.onBootRest (by intro _; first | exact ⟨rfl, rfl⟩ | (split <;> exact ⟨rfl, rfl⟩))
    | with_reducible apply Block.ack_keeps | with_reducible apply Block.refuseKey_keeps
    | exact partsIn_trans (m := [.boot, .queues, .mrg, .twin, .regs, .dict, .ev]) (by decide) hl | dsimp only
    | with_reducible apply Keeps.boot)

theorem Block.restartWrite_keeps {ps : List Part} {a0 : Block} {b : Block} {h : Hdr} {sub v : Nat}
    (h_ : Keeps ps a0 b) (hl : partsIn [.boot, .queues, .mrg, .twin, .regs, .dict, .ev] ps = true) :
    Keeps ps a0 (Block.restartWrite b h sub v) := by
  unfold Block.restartWrite
  try dsimp only
  repeat' (first
    | intro _ | with_reducible exact h_ | with_reducible apply Keeps.ite
    | with_reducible apply Keeps.onBootRest (by intro _; first | exact ⟨rfl, rfl⟩ | (split <;> exact ⟨rfl, rfl⟩))
    | with_reducible apply Block.ack_keeps | with_reducible apply Block.refuseKey_keeps
    | exact partsIn_trans (m := [.boot, .queues, .mrg, .twin, .regs, .dict, .ev]) (by decide) hl | dsimp only
    | with_reducible apply Keeps.boot)

theorem Block.resetsDue_keeps {ps : List Part} {a0 : Block} {b : Block}
    (h_ : Keeps ps a0 b) (hl : partsIn [.boot, .time, .chans, .chMask, .iu, .adc, .acc, .stk, .queues, .mrg, .frm, .cvus, .twin, .flt, .regs, .dict, .ev, .env, .free] ps = true) :
    Keeps ps a0 (Block.resetsDue b) := by
  unfold Block.resetsDue
  try dsimp only
  repeat' (first
    | intro _ | with_reducible exact h_ | with_reducible apply Keeps.ite | with_reducible apply Keeps.forEach
    | with_reducible apply Keeps.onBootRest (by intro _; first | exact ⟨rfl, rfl⟩ | (split <;> exact ⟨rfl, rfl⟩))
    | with_reducible apply Block.commRestart_keeps | with_reducible apply Block.beginReset_keeps | with_reducible assumption
    | exact partsIn_trans (m := [.boot, .time, .chans, .chMask, .iu, .adc, .acc, .stk, .queues, .mrg, .frm, .cvus, .twin, .flt, .regs, .dict, .ev, .env, .free]) (by decide) hl
    | dsimp only | with_reducible apply Keeps.boot)

theorem Block.keepWrite_keeps {ps : List Part} {a0 : Block} {b : Block} {h : Hdr} {v : Nat}
    (h_ : Keeps ps a0 b) (hl : partsIn [.queues, .mrg, .twin, .regs, .dict, .ev] ps = true) :
    Keeps ps a0 (Block.keepWrite b h v) := by
  unfold Block.keepWrite
  try dsimp only
  repeat' (first
    | intro _ | with_reducible exact h_ | with_reducible apply Keeps.ite
    | with_reducible apply Keeps.onDictRest (by intro _; first | rfl | (split <;> rfl))
    | with_reducible apply Keeps.onDictRegs (by intro _; first | rfl | (split <;> rfl)) | with_reducible apply Block.setReg_keeps
    | with_reducible apply Block.refuseKey_keeps
    | exact partsIn_trans (m := [.queues, .mrg, .twin, .regs, .dict, .ev]) (by decide) hl | dsimp only
    | with_reducible apply Keeps.dict)

theorem Block.keepCapture_keeps {ps : List Part} {a0 : Block} {b : Block} {silent : Bool}
    (h_ : Keeps ps a0 b) (hl : partsIn [.dict] ps = true) :
    Keeps ps a0 (Block.keepCapture b silent) := by
  unfold Block.keepCapture
  try dsimp only
  repeat' (first
    | intro _ | with_reducible exact h_ | with_reducible apply Keeps.ite
    | with_reducible apply Keeps.onDictRest (by intro _; first | rfl | (split <;> rfl))
    | with_reducible apply Keeps.onDictRegs (by intro _; first | rfl | (split <;> rfl))
    | exact partsIn_trans (m := [.dict]) (by decide) hl | split | dsimp only | with_reducible apply Keeps.dict)

theorem Block.keepDone_keeps {ps : List Part} {a0 : Block} {b : Block} {h : Hdr} {silent : Bool} {t : Tab Nat} {ok : Bool}
    (h_ : Keeps ps a0 b) (hl : partsIn [.flash, .queues, .mrg, .twin, .regs, .dict, .ev, .free] ps = true) :
    Keeps ps a0 (Block.keepDone b h silent t ok) := by
  unfold Block.keepDone
  try dsimp only
  repeat' (first
    | intro _ | with_reducible exact h_ | with_reducible apply Keeps.ite
    | with_reducible apply Keeps.onDictRest (by intro _; first | rfl | (split <;> rfl))
    | with_reducible apply Keeps.onDictRegs (by intro _; first | rfl | (split <;> rfl)) | with_reducible apply Block.onFlash_keeps
    | with_reducible apply Block.freeNext_keeps | with_reducible apply Block.setReg_keeps | with_reducible apply Block.bump_keeps
    | with_reducible apply Block.raise_keeps | with_reducible apply Block.ack_keeps | with_reducible apply Block.refuseKey_keeps
    | exact partsIn_trans (m := [.flash, .queues, .mrg, .twin, .regs, .dict, .ev, .free]) (by decide) hl | dsimp only
    | with_reducible apply Keeps.dict)

theorem Block.forgetWrite_keeps {ps : List Part} {a0 : Block} {b : Block} {h : Hdr} {v : Nat}
    (h_ : Keeps ps a0 b) (hl : partsIn [.flash, .queues, .mrg, .twin, .regs, .dict, .ev] ps = true) :
    Keeps ps a0 (Block.forgetWrite b h v) := by
  unfold Block.forgetWrite
  try dsimp only
  repeat' (first
    | intro _ | with_reducible exact h_ | with_reducible apply Keeps.ite | with_reducible apply Block.onFlash_keeps
    | with_reducible apply Block.ack_keeps | with_reducible apply Block.refuseKey_keeps
    | exact partsIn_trans (m := [.flash, .queues, .mrg, .twin, .regs, .dict, .ev]) (by decide) hl | dsimp only)

theorem Block.flagWrite_keeps {ps : List Part} {a0 : Block} {b : Block} {h : Hdr} {key v : Nat} {f : Block → Block}
    (h_ : Keeps ps a0 b) (hl : partsIn [.queues, .mrg, .twin, .regs, .dict, .ev] ps = true) (h_f : ∀ y, Keeps ps a0 y → Keeps ps a0 (f y)) :
    Keeps ps a0 (Block.flagWrite b h key v f) := by
  unfold Block.flagWrite
  try dsimp only
  repeat' (first
    | intro _ | with_reducible exact h_ | with_reducible apply Keeps.ite | with_reducible apply Block.ack_keeps
    | with_reducible apply Block.refuseKey_keeps | with_reducible apply h_f
    | exact partsIn_trans (m := [.queues, .mrg, .twin, .regs, .dict, .ev]) (by decide) hl | dsimp only)

theorem Block.switchWrite_keeps {ps : List Part} {a0 : Block} {b : Block} {h : Hdr} {v : Nat}
    (h_ : Keeps ps a0 b) (hl : partsIn [.time, .queues, .mrg, .twin, .regs, .dict, .ev] ps = true) :
    Keeps ps a0 (Block.switchWrite b h v) := by
  unfold Block.switchWrite
  try dsimp only
  repeat' (first
    | with_reducible exact h_ | with_reducible apply Keeps.ite | with_reducible apply Block.requestSwitch_keeps
    | with_reducible apply Block.ack_keeps | with_reducible apply Block.refuseKey_keeps
    | exact partsIn_trans (m := [.time, .queues, .mrg, .twin, .regs, .dict, .ev]) (by decide) hl | dsimp only)

theorem Block.stage_keeps {ps : List Part} {a0 : Block} {b : Block} {h : Hdr} {image : List Byte}
    (h_ : Keeps ps a0 b) (hl : partsIn [.sets] ps = true) :
    Keeps ps a0 (Block.stage b h image) := by
  unfold Block.stage
  try dsimp only
  repeat' (first
    | intro _ | with_reducible exact h_ | with_reducible apply Block.onSets_keeps
    | exact partsIn_trans (m := [.sets]) (by decide) hl | dsimp only)

theorem Block.folioWrite_keeps {ps : List Part} {a0 : Block} {b : Block} {h : Hdr} {image : List Byte} {v : Verdict}
    (h_ : Keeps ps a0 b) (hl : partsIn [.boot, .queues, .mrg, .twin, .regs, .dict, .ev, .free] ps = true) :
    Keeps ps a0 (Block.folioWrite b h image v) := by
  unfold Block.folioWrite
  try dsimp only
  repeat' (first
    | intro _ | with_reducible exact h_ | with_reducible apply Keeps.ite | with_reducible apply Keeps.iteFst
    | with_reducible apply Keeps.iteSnd
    | with_reducible apply Keeps.onBootRest (by intro _; first | exact ⟨rfl, rfl⟩ | (split <;> exact ⟨rfl, rfl⟩))
    | with_reducible apply Block.refuseKey_keeps | with_reducible apply Block.folioVerify_keeps
    | exact partsIn_trans (m := [.boot, .queues, .mrg, .twin, .regs, .dict, .ev, .free]) (by decide) hl | split | dsimp only
    | with_reducible apply Keeps.boot)

theorem Block.woWrite_keeps {ps : List Part} {a0 : Block} {b : Block} {h : Hdr} {key : Nat} {l : List Byte}
    (h_ : Keeps ps a0 b) (hl : partsIn [.fuses, .flash, .boot, .sets, .time, .chans, .bin, .iu, .adc, .queues, .mrg, .frm, .cvus, .twin, .flt, .regs, .dict, .ev, .sec, .free] ps = true) :
    Keeps ps a0 (Block.woWrite b h key l) := by
  unfold Block.woWrite
  try dsimp only
  repeat' (first
    | intro _ | with_reducible exact h_ | with_reducible apply Keeps.ite | with_reducible apply Block.onEv_keeps
    | with_reducible apply Block.setReg_keeps | with_reducible apply Block.ack_keeps | with_reducible apply Block.refuseKey_keeps
    | with_reducible apply Block.binRestart_keeps | with_reducible apply Block.campaignAbort_keeps
    | with_reducible apply Block.restoreWrite_keeps | with_reducible apply Block.retireWrite_keeps
    | with_reducible apply Block.clearLog_keeps | with_reducible apply Block.cvuControl_keeps
    | with_reducible apply Block.cvuData_keeps | with_reducible apply Block.commitRollback_keeps
    | with_reducible apply Block.firstKey_keeps | with_reducible apply Block.ownerUpdate_keeps
    | with_reducible apply Block.keepToken_keeps | with_reducible apply Block.attestRequest_keeps
    | with_reducible apply Block.subsystemWrite_keeps | with_reducible apply Block.restartWrite_keeps
    | with_reducible apply Block.keepWrite_keeps | with_reducible apply Block.forgetWrite_keeps
    | with_reducible apply Block.flagWrite_keeps | with_reducible apply Block.switchWrite_keeps
    | with_reducible apply Block.stage_keeps | with_reducible apply Block.folioWrite_keeps | with_reducible assumption
    | exact partsIn_trans (m := [.fuses, .flash, .boot, .sets, .time, .chans, .bin, .iu, .adc, .queues, .mrg, .frm, .cvus, .twin, .flt, .regs, .dict, .ev, .sec, .free]) (by decide) hl
    | split | dsimp only)

theorem Block.entryWrite_keeps {ps : List Part} {a0 : Block} {b : Block} {h : Hdr} {d : Desc} {key : Nat} {l : List Byte}
    (h_ : Keeps ps a0 b) (hl : partsIn [.fuses, .flash, .boot, .sets, .time, .chans, .bin, .iu, .adc, .queues, .mrg, .frm, .cvus, .twin, .flt, .regs, .dict, .ev, .sec, .free] ps = true) :
    Keeps ps a0 (Block.entryWrite b h d key l) := by
  unfold Block.entryWrite
  try dsimp only
  repeat' (first
    | with_reducible exact h_ | with_reducible apply Block.rsWrite_keeps | with_reducible apply Block.rwWrite_keeps
    | with_reducible apply Block.woWrite_keeps
    | exact partsIn_trans (m := [.fuses, .flash, .boot, .sets, .time, .chans, .bin, .iu, .adc, .queues, .mrg, .frm, .cvus, .twin, .flt, .regs, .dict, .ev, .sec, .free]) (by decide) hl
    | split | dsimp only)

theorem Block.writeEntry_keeps {ps : List Part} {a0 : Block} {b : Block} {h : Hdr} {key : Nat} {l : List Byte}
    (h_ : Keeps ps a0 b) (hl : partsIn [.fuses, .flash, .boot, .sets, .time, .chans, .bin, .iu, .adc, .queues, .mrg, .frm, .cvus, .twin, .flt, .regs, .dict, .ev, .sec, .free] ps = true) :
    Keeps ps a0 (Block.writeEntry b h key l) := by
  unfold Block.writeEntry
  try dsimp only
  repeat' (first
    | intro _ | with_reducible exact h_ | with_reducible apply Block.writeTo_keeps | with_reducible apply Block.entryWrite_keeps
    | with_reducible assumption
    | exact partsIn_trans (m := [.fuses, .flash, .boot, .sets, .time, .chans, .bin, .iu, .adc, .queues, .mrg, .frm, .cvus, .twin, .flt, .regs, .dict, .ev, .sec, .free]) (by decide) hl
    | split | dsimp only)

theorem Block.writeOf_keeps {ps : List Part} {a0 : Block} {b : Block} {h : Hdr} {a : Access} {key : Nat} {l : List Byte}
    (h_ : Keeps ps a0 b) (hl : partsIn [.fuses, .flash, .boot, .sets, .time, .chans, .bin, .iu, .adc, .queues, .mrg, .frm, .cvus, .twin, .flt, .regs, .dict, .ev, .sec, .free] ps = true) :
    Keeps ps a0 (Block.writeOf b h a key l) := by
  unfold Block.writeOf
  try dsimp only
  repeat' (first
    | intro _ | with_reducible exact h_ | with_reducible apply Keeps.ite | with_reducible apply Block.writeTo_keeps
    | with_reducible apply Block.entryWrite_keeps | with_reducible assumption
    | exact partsIn_trans (m := [.fuses, .flash, .boot, .sets, .time, .chans, .bin, .iu, .adc, .queues, .mrg, .frm, .cvus, .twin, .flt, .regs, .dict, .ev, .sec, .free]) (by decide) hl
    | split | dsimp only)

theorem Block.pairWrite_keeps {ps : List Part} {a0 : Block} {b : Block} {h : Hdr} {idx sub : Nat} {body : List Byte}
    (h_ : Keeps ps a0 b) (hl : partsIn [.fuses, .flash, .boot, .sets, .time, .chans, .bin, .iu, .adc, .queues, .mrg, .frm, .cvus, .twin, .flt, .regs, .dict, .ev, .sec, .free] ps = true) :
    Keeps ps a0 (Block.pairWrite b h idx sub body) := by
  unfold Block.pairWrite
  try dsimp only
  repeat' (first
    | intro _ | with_reducible exact h_ | with_reducible apply Keeps.ite
    | with_reducible apply Keeps.onDictRest (by intro _; first | rfl | (split <;> rfl))
    | with_reducible apply Keeps.onDictRegs (by intro _; first | rfl | (split <;> rfl)) | with_reducible apply Block.raise_keeps
    | with_reducible apply Block.abort_keeps | with_reducible apply Block.ack_keeps | with_reducible apply Block.writeEntry_keeps
    | exact partsIn_trans (m := [.fuses, .flash, .boot, .sets, .time, .chans, .bin, .iu, .adc, .queues, .mrg, .frm, .cvus, .twin, .flt, .regs, .dict, .ev, .sec, .free]) (by decide) hl
    | dsimp only | with_reducible apply Keeps.dict)

theorem Block.actMuted_keeps {ps : List Part} {a0 : Block} {b : Block} {h : Hdr} {key : Nat} {l : List Byte}
    (h_ : Keeps ps a0 b) (hl : partsIn [.fuses, .flash, .boot, .sets, .time, .chans, .bin, .iu, .adc, .queues, .mrg, .frm, .cvus, .twin, .flt, .regs, .dict, .ev, .sec, .env, .free] ps = true) :
    Keeps ps a0 (Block.actMuted b h key l) := by
  unfold Block.actMuted
  try dsimp only
  repeat' (first
    | intro _ | with_reducible exact h_ | with_reducible apply Keeps.forEach
    | with_reducible apply Keeps.onDictRest (by intro _; first | rfl | (split <;> rfl))
    | with_reducible apply Keeps.onDictRegs (by intro _; first | rfl | (split <;> rfl))
    | with_reducible apply Block.takeWrite_keeps | with_reducible apply Block.keepCapture_keeps
    | with_reducible apply Block.writeEntry_keeps | with_reducible assumption
    | exact partsIn_trans (m := [.fuses, .flash, .boot, .sets, .time, .chans, .bin, .iu, .adc, .queues, .mrg, .frm, .cvus, .twin, .flt, .regs, .dict, .ev, .sec, .env, .free]) (by decide) hl
    | dsimp only | with_reducible apply Keeps.dict)

theorem Block.restartsNow_keeps {ps : List Part} {a0 : Block} {b : Block}
    (h_ : Keeps ps a0 b) (hl : partsIn [.flash, .boot, .sets, .time, .chans, .chMask, .chSince, .leads, .plate, .bin, .iu, .adc, .acc, .stk, .queues, .mrg, .frm, .cvus, .twin, .flt, .regs, .dict, .ev, .sec, .env, .free] ps = true) :
    Keeps ps a0 (Block.restartsNow b) := by
  unfold Block.restartsNow
  try dsimp only
  repeat' (first
    | with_reducible exact h_ | with_reducible apply Keeps.ite | with_reducible apply Block.deviceRestart_keeps
    | with_reducible apply Block.resetsDue_keeps
    | exact partsIn_trans (m := [.flash, .boot, .sets, .time, .chans, .chMask, .chSince, .leads, .plate, .bin, .iu, .adc, .acc, .stk, .queues, .mrg, .frm, .cvus, .twin, .flt, .regs, .dict, .ev, .sec, .env, .free]) (by decide) hl
    | dsimp only)

theorem Block.pairApply_keeps {ps : List Part} {a0 : Block} {b : Block}
    (h_ : Keeps ps a0 b) (hl : partsIn [.fuses, .flash, .boot, .sets, .time, .chans, .chMask, .chSince, .leads, .plate, .bin, .iu, .adc, .acc, .stk, .queues, .mrg, .frm, .cvus, .twin, .flt, .regs, .dict, .ev, .sec, .env, .free] ps = true) :
    Keeps ps a0 (Block.pairApply b) := by
  unfold Block.pairApply
  try dsimp only
  repeat' (first
    | intro _ | with_reducible exact h_ | with_reducible apply Keeps.ite | with_reducible apply Keeps.forEach
    | with_reducible apply Keeps.onDictRest (by intro _; first | rfl | (split <;> rfl))
    | with_reducible apply Keeps.onDictRegs (by intro _; first | rfl | (split <;> rfl))
    | with_reducible apply Block.actMuted_keeps | with_reducible apply Block.restartsNow_keeps | with_reducible assumption
    | exact partsIn_trans (m := [.fuses, .flash, .boot, .sets, .time, .chans, .chMask, .chSince, .leads, .plate, .bin, .iu, .adc, .acc, .stk, .queues, .mrg, .frm, .cvus, .twin, .flt, .regs, .dict, .ev, .sec, .env, .free]) (by decide) hl
    | dsimp only | with_reducible apply Keeps.dict)

theorem Block.route_keeps {ps : List Part} {a0 : Block} {b : Block} {h : Hdr} {op idx sub arg : Nat} {body : List Byte} {own : Block → Block}
    (h_ : Keeps ps a0 b) (hl : partsIn [.boot, .sets, .queues, .mrg, .twin, .regs, .dict, .ev] ps = true) (h_own : ∀ y, Keeps ps a0 y → Keeps ps a0 (own y)) :
    Keeps ps a0 (Block.route b h op idx sub arg body own) := by
  unfold Block.route
  try dsimp only
  repeat' (first
    | intro _ | with_reducible exact h_ | with_reducible apply Keeps.ite | with_reducible apply Block.abort_keeps
    | with_reducible apply Block.receive_keeps | with_reducible apply Block.proxyRequest_keeps | with_reducible apply h_own
    | with_reducible assumption
    | exact partsIn_trans (m := [.boot, .sets, .queues, .mrg, .twin, .regs, .dict, .ev]) (by decide) hl | dsimp only)

theorem Block.writeMsg_keeps {ps : List Part} {a0 : Block} {b : Block} {h : Hdr} {idx sub : Nat} {body : List Byte}
    (h_ : Keeps ps a0 b) (hl : partsIn [.fuses, .flash, .boot, .sets, .time, .chans, .bin, .iu, .adc, .queues, .mrg, .frm, .cvus, .twin, .flt, .regs, .dict, .ev, .sec, .free] ps = true) :
    Keeps ps a0 (Block.writeMsg b h idx sub body) := by
  unfold Block.writeMsg
  try dsimp only
  repeat' (first
    | intro _ | with_reducible exact h_ | with_reducible apply Keeps.ite | with_reducible apply Block.writeEntry_keeps
    | with_reducible apply Block.pairWrite_keeps | with_reducible apply Block.route_keeps | with_reducible assumption
    | exact partsIn_trans (m := [.fuses, .flash, .boot, .sets, .time, .chans, .bin, .iu, .adc, .queues, .mrg, .frm, .cvus, .twin, .flt, .regs, .dict, .ev, .sec, .free]) (by decide) hl
    | dsimp only)

theorem Block.short_keeps {ps : List Part} {a0 : Block} {b : Block} {o : Origin} {op tag n : Nat} {body : List Byte}
    (h_ : Keeps ps a0 b) (hl : partsIn [.queues, .mrg, .twin, .regs, .dict, .ev] ps = true) :
    Keeps ps a0 (Block.short b o op tag n body) := by
  unfold Block.short
  try dsimp only
  repeat' (first
    | with_reducible exact h_ | with_reducible apply Block.sendReply_keeps
    | exact partsIn_trans (m := [.queues, .mrg, .twin, .regs, .dict, .ev]) (by decide) hl | dsimp only)

theorem Block.setTransfer_keeps {ps : List Part} {a0 : Block} {b : Block} {t u : Transfer}
    (h_ : Keeps ps a0 b) (hl : partsIn [.dict] ps = true) :
    Keeps ps a0 (Block.setTransfer b t u) := by
  unfold Block.setTransfer
  try dsimp only
  repeat' (first
    | intro _ | with_reducible exact h_ | with_reducible apply Keeps.ite
    | with_reducible apply Keeps.onDictRest (by intro _; first | rfl | (split <;> rfl))
    | with_reducible apply Keeps.onDictRegs (by intro _; first | rfl | (split <;> rfl))
    | exact partsIn_trans (m := [.dict]) (by decide) hl | dsimp only | with_reducible apply Keeps.dict)

theorem Block.dropTransfer_keeps {ps : List Part} {a0 : Block} {b : Block} {t : Transfer}
    (h_ : Keeps ps a0 b) (hl : partsIn [.dict] ps = true) :
    Keeps ps a0 (Block.dropTransfer b t) := by
  unfold Block.dropTransfer
  try dsimp only
  repeat' (first
    | intro _ | with_reducible exact h_ | with_reducible apply Keeps.onDictRest (by intro _; first | rfl | (split <;> rfl))
    | with_reducible apply Keeps.onDictRegs (by intro _; first | rfl | (split <;> rfl))
    | exact partsIn_trans (m := [.dict]) (by decide) hl | dsimp only | with_reducible apply Keeps.dict)

theorem Block.sendUpload_keeps {ps : List Part} {a0 : Block} {b : Block} {t : Transfer}
    (h_ : Keeps ps a0 b) (hl : partsIn [.queues, .mrg, .twin, .regs, .dict, .ev] ps = true) :
    Keeps ps a0 (Block.sendUpload b t) := by
  unfold Block.sendUpload
  try dsimp only
  repeat' (first
    | intro _ | with_reducible exact h_ | with_reducible apply Keeps.forEach | with_reducible apply Block.short_keeps
    | with_reducible apply Block.setTransfer_keeps | with_reducible assumption
    | exact partsIn_trans (m := [.queues, .mrg, .twin, .regs, .dict, .ev]) (by decide) hl | dsimp only)

theorem Block.startUpload_keeps {ps : List Part} {a0 : Block} {b : Block} {h : Hdr} {idx sub : Nat} {v : List Byte}
    (h_ : Keeps ps a0 b) (hl : partsIn [.queues, .mrg, .twin, .regs, .dict, .ev] ps = true) :
    Keeps ps a0 (Block.startUpload b h idx sub v) := by
  unfold Block.startUpload
  try dsimp only
  repeat' (first
    | intro _ | with_reducible exact h_ | with_reducible apply Keeps.ite
    | with_reducible apply Keeps.onDictRest (by intro _; first | rfl | (split <;> rfl))
    | with_reducible apply Keeps.onDictRegs (by intro _; first | rfl | (split <;> rfl)) | with_reducible apply Block.reply_keeps
    | with_reducible apply Block.abort_keeps | with_reducible apply Block.sendUpload_keeps
    | exact partsIn_trans (m := [.queues, .mrg, .twin, .regs, .dict, .ev]) (by decide) hl | dsimp only
    | with_reducible apply Keeps.dict)

theorem Block.readEntry_keeps {ps : List Part} {a0 : Block} {b : Block} {h : Hdr} {idx sub : Nat}
    (h_ : Keeps ps a0 b) (hl : partsIn [.queues, .mrg, .twin, .regs, .dict, .ev] ps = true) :
    Keeps ps a0 (Block.readEntry b h idx sub) := by
  unfold Block.readEntry
  try dsimp only
  repeat' (first
    | with_reducible exact h_ | with_reducible apply Keeps.ite | with_reducible apply Block.reply_keeps
    | with_reducible apply Block.abort_keeps | with_reducible apply Block.startUpload_keeps
    | exact partsIn_trans (m := [.queues, .mrg, .twin, .regs, .dict, .ev]) (by decide) hl | split | dsimp only)

theorem Block.landDownload_keeps {ps : List Part} {a0 : Block} {b : Block} {t : Transfer}
    (h_ : Keeps ps a0 b) (hl : partsIn [.fuses, .flash, .boot, .sets, .time, .chans, .bin, .iu, .adc, .queues, .mrg, .frm, .cvus, .twin, .flt, .regs, .dict, .ev, .sec, .free] ps = true) :
    Keeps ps a0 (Block.landDownload b t) := by
  unfold Block.landDownload
  try dsimp only
  repeat' (first
    | intro _ | with_reducible exact h_ | with_reducible apply Keeps.ite
    | with_reducible apply Keeps.onDictRest (by intro _; first | rfl | (split <;> rfl))
    | with_reducible apply Keeps.onDictRegs (by intro _; first | rfl | (split <;> rfl)) | with_reducible apply Block.landed_keeps
    | with_reducible apply Block.cvuData_keeps | with_reducible apply Block.keepToken_keeps
    | with_reducible apply Block.stage_keeps | with_reducible apply Block.entryWrite_keeps
    | with_reducible apply Block.dropTransfer_keeps | with_reducible assumption
    | exact partsIn_trans (m := [.fuses, .flash, .boot, .sets, .time, .chans, .bin, .iu, .adc, .queues, .mrg, .frm, .cvus, .twin, .flt, .regs, .dict, .ev, .sec, .free]) (by decide) hl
    | split | dsimp only | with_reducible apply Keeps.dict)

theorem Block.startDownload_keeps {ps : List Part} {a0 : Block} {b : Block} {h : Hdr} {idx sub n : Nat}
    (h_ : Keeps ps a0 b) (hl : partsIn [.fuses, .flash, .boot, .sets, .time, .chans, .bin, .iu, .adc, .queues, .mrg, .frm, .cvus, .twin, .flt, .regs, .dict, .ev, .sec, .free] ps = true) :
    Keeps ps a0 (Block.startDownload b h idx sub n) := by
  unfold Block.startDownload
  try dsimp only
  repeat' (first
    | intro _ | with_reducible exact h_ | with_reducible apply Keeps.ite
    | with_reducible apply Keeps.onDictRest (by intro _; first | rfl | (split <;> rfl))
    | with_reducible apply Keeps.onDictRegs (by intro _; first | rfl | (split <;> rfl)) | with_reducible apply Block.reply_keeps
    | with_reducible apply Block.abort_keeps | with_reducible apply Block.landDownload_keeps
    | exact partsIn_trans (m := [.fuses, .flash, .boot, .sets, .time, .chans, .bin, .iu, .adc, .queues, .mrg, .frm, .cvus, .twin, .flt, .regs, .dict, .ev, .sec, .free]) (by decide) hl
    | split | dsimp only | with_reducible apply Keeps.dict)

theorem Block.takeSegment_keeps {ps : List Part} {a0 : Block} {b : Block} {t : Transfer} {data : List Byte}
    (h_ : Keeps ps a0 b) (hl : partsIn [.fuses, .flash, .boot, .sets, .time, .chans, .bin, .iu, .adc, .queues, .mrg, .frm, .cvus, .twin, .flt, .regs, .dict, .ev, .sec, .free] ps = true) :
    Keeps ps a0 (Block.takeSegment b t data) := by
  unfold Block.takeSegment
  try dsimp only
  repeat' (first
    | with_reducible exact h_ | with_reducible apply Keeps.ite | with_reducible apply Block.abort_keeps
    | with_reducible apply Block.short_keeps | with_reducible apply Block.setTransfer_keeps
    | with_reducible apply Block.dropTransfer_keeps | with_reducible apply Block.landDownload_keeps
    | exact partsIn_trans (m := [.fuses, .flash, .boot, .sets, .time, .chans, .bin, .iu, .adc, .queues, .mrg, .frm, .cvus, .twin, .flt, .regs, .dict, .ev, .sec, .free]) (by decide) hl
    | dsimp only)

theorem Block.segmentOwn_keeps {ps : List Part} {a0 : Block} {b : Block} {t : Transfer} {seq : Nat} {data : List Byte}
    (h_ : Keeps ps a0 b) (hl : partsIn [.fuses, .flash, .boot, .sets, .time, .chans, .bin, .iu, .adc, .queues, .mrg, .frm, .cvus, .twin, .flt, .regs, .dict, .ev, .sec, .free] ps = true) :
    Keeps ps a0 (Block.segmentOwn b t seq data) := by
  unfold Block.segmentOwn
  try dsimp only
  repeat' (first
    | with_reducible exact h_ | with_reducible apply Keeps.ite | with_reducible apply Block.abort_keeps
    | with_reducible apply Block.short_keeps | with_reducible apply Block.setTransfer_keeps
    | with_reducible apply Block.dropTransfer_keeps | with_reducible apply Block.takeSegment_keeps
    | exact partsIn_trans (m := [.fuses, .flash, .boot, .sets, .time, .chans, .bin, .iu, .adc, .queues, .mrg, .frm, .cvus, .twin, .flt, .regs, .dict, .ev, .sec, .free]) (by decide) hl
    | dsimp only)

theorem Block.receiveShort_keeps {ps : List Part} {a0 : Block} {b : Block} {o : Origin} {f : Block → Block}
    (h_ : Keeps ps a0 b) (hl : partsIn [.regs] ps = true) (h_f : ∀ y, Keeps ps a0 y → Keeps ps a0 (f y)) :
    Keeps ps a0 (Block.receiveShort b o f) := by
  unfold Block.receiveShort
  try dsimp only
  repeat' (first
    | intro _ | with_reducible exact h_ | with_reducible apply Keeps.ite | with_reducible apply Block.bump_keeps
    | with_reducible apply h_f | exact partsIn_trans (m := [.regs]) (by decide) hl | dsimp only)

theorem Block.segment_keeps {ps : List Part} {a0 : Block} {b : Block} {o : Origin} {tag : BitVec 8} {seq : Nat} {data : List Byte}
    (h_ : Keeps ps a0 b) (hl : partsIn [.fuses, .flash, .boot, .sets, .time, .chans, .bin, .iu, .adc, .queues, .mrg, .frm, .cvus, .twin, .flt, .regs, .dict, .ev, .sec, .free] ps = true) :
    Keeps ps a0 (Block.segment b o tag seq data) := by
  unfold Block.segment
  try dsimp only
  repeat' (first
    | intro _ | with_reducible exact h_ | with_reducible apply Block.abort_keeps | with_reducible apply Block.relayShort_keeps
    | with_reducible apply Block.segmentOwn_keeps | with_reducible apply Block.receiveShort_keeps | with_reducible assumption
    | exact partsIn_trans (m := [.fuses, .flash, .boot, .sets, .time, .chans, .bin, .iu, .adc, .queues, .mrg, .frm, .cvus, .twin, .flt, .regs, .dict, .ev, .sec, .free]) (by decide) hl
    | split | dsimp only)

theorem Block.segmentAck_keeps {ps : List Part} {a0 : Block} {b : Block} {o : Origin} {tag : BitVec 8} {next : Nat}
    (h_ : Keeps ps a0 b) (hl : partsIn [.queues, .mrg, .twin, .regs, .dict, .ev] ps = true) :
    Keeps ps a0 (Block.segmentAck b o tag next) := by
  unfold Block.segmentAck
  try dsimp only
  repeat' (first
    | intro _ | with_reducible exact h_ | with_reducible apply Keeps.ite | with_reducible apply Block.abort_keeps
    | with_reducible apply Block.relayShort_keeps | with_reducible apply Block.setTransfer_keeps
    | with_reducible apply Block.dropTransfer_keeps | with_reducible apply Block.sendUpload_keeps
    | with_reducible apply Block.receiveShort_keeps | with_reducible assumption
    | exact partsIn_trans (m := [.queues, .mrg, .twin, .regs, .dict, .ev]) (by decide) hl | split | dsimp only)

theorem Block.abortMsg_keeps {ps : List Part} {a0 : Block} {b : Block} {h : Hdr} {code : Nat}
    (h_ : Keeps ps a0 b) (hl : partsIn [.boot, .sets, .queues, .mrg, .regs, .dict, .ev] ps = true) :
    Keeps ps a0 (Block.abortMsg b h code) := by
  unfold Block.abortMsg
  try dsimp only
  repeat' (first
    | with_reducible exact h_ | with_reducible apply Keeps.ite | with_reducible apply Block.bump_keeps
    | with_reducible apply Block.freshTag_keeps | with_reducible apply Block.toWorker_keeps
    | exact partsIn_trans (m := [.boot, .sets, .queues, .mrg, .regs, .dict, .ev]) (by decide) hl | split | dsimp only)

theorem Block.catalogueEntry_keeps {ps : List Part} {a0 : Block} {b : Block} {h : Hdr} {idx sub : Nat}
    (h_ : Keeps ps a0 b) (hl : partsIn [.queues, .mrg, .twin, .regs, .dict, .ev] ps = true) :
    Keeps ps a0 (Block.catalogueEntry b h idx sub) := by
  unfold Block.catalogueEntry
  try dsimp only
  repeat' (first
    | with_reducible exact h_ | with_reducible apply Keeps.ite | with_reducible apply Block.reply_keeps
    | with_reducible apply Block.abort_keeps | exact partsIn_trans (m := [.queues, .mrg, .twin, .regs, .dict, .ev]) (by decide) hl
    | split | dsimp only)

theorem Block.loginFailed_keeps {ps : List Part} {a0 : Block} {b : Block} {h : Hdr} {level : Nat}
    (h_ : Keeps ps a0 b) (hl : partsIn [.queues, .mrg, .twin, .regs, .dict, .ev] ps = true) :
    Keeps ps a0 (Block.loginFailed b h level) := by
  unfold Block.loginFailed
  try dsimp only
  repeat' (first
    | intro _ | with_reducible exact h_ | with_reducible apply Keeps.when
    | with_reducible apply Keeps.onDictRest (by intro _; first | rfl | (split <;> rfl))
    | with_reducible apply Keeps.onDictRegs (by intro _; first | rfl | (split <;> rfl)) | with_reducible apply Block.bump_keeps
    | with_reducible apply Block.raise_keeps | with_reducible apply Block.abort_keeps | with_reducible assumption
    | exact partsIn_trans (m := [.queues, .mrg, .twin, .regs, .dict, .ev]) (by decide) hl | dsimp only
    | with_reducible apply Keeps.dict)

theorem Block.newChallenge_keeps {ps : List Part} {a0 : Block} {b : Block}
    (h_ : Keeps ps a0 b) (hl : partsIn [.dict, .free] ps = true) :
    Keeps ps a0 (Block.newChallenge b) := by
  unfold Block.newChallenge
  try dsimp only
  repeat' (first
    | intro _ | with_reducible exact h_ | with_reducible apply Keeps.onDictRest (by intro _; first | rfl | (split <;> rfl))
    | with_reducible apply Keeps.onDictRegs (by intro _; first | rfl | (split <;> rfl))
    | exact partsIn_trans (m := [.dict, .free]) (by decide) hl | dsimp only | with_reducible apply Keeps.dict
    | with_reducible apply Keeps.free)

theorem Block.credentialOk_keeps {ps : List Part} {a0 : Block} {b : Block} {h : Hdr} {level : Nat} {cred : List Byte} {v : Verdict}
    (h_ : Keeps ps a0 b) (hl : partsIn [.regs, .dict, .ev, .sec, .free] ps = true) :
    Keeps ps a0 (Block.credentialOk b h level cred v).2 := by
  unfold Block.credentialOk
  try dsimp only
  repeat' (first
    | with_reducible exact h_ | with_reducible apply Keeps.ite | with_reducible apply Keeps.iteFst
    | with_reducible apply Keeps.iteSnd | with_reducible apply Block.unlockWith_keeps
    | with_reducible apply Block.newChallenge_keeps | exact partsIn_trans (m := [.regs, .dict, .ev, .sec, .free]) (by decide) hl
    | dsimp only)

theorem Block.loginHere_keeps {ps : List Part} {a0 : Block} {b : Block} {h : Hdr} {level : Nat} {cred : List Byte} {v : Verdict}
    (h_ : Keeps ps a0 b) (hl : partsIn [.queues, .mrg, .twin, .regs, .dict, .ev, .sec, .free] ps = true) :
    Keeps ps a0 (Block.loginHere b h level cred v) := by
  unfold Block.loginHere
  try dsimp only
  repeat' (first
    | intro _ | with_reducible exact h_ | with_reducible apply Keeps.ite | with_reducible apply Keeps.iteFst
    | with_reducible apply Keeps.iteSnd | with_reducible apply Keeps.onDictRest (by intro _; first | rfl | (split <;> rfl))
    | with_reducible apply Keeps.onDictRegs (by intro _; first | rfl | (split <;> rfl)) | with_reducible apply Block.raise_keeps
    | with_reducible apply Block.reply_keeps | with_reducible apply Block.abort_keeps
    | with_reducible apply Block.loginFailed_keeps | with_reducible apply Block.credentialOk_keeps
    | exact partsIn_trans (m := [.queues, .mrg, .twin, .regs, .dict, .ev, .sec, .free]) (by decide) hl | dsimp only
    | with_reducible apply Keeps.dict)

theorem Block.logoutHere_keeps {ps : List Part} {a0 : Block} {b : Block} {h : Hdr}
    (h_ : Keeps ps a0 b) (hl : partsIn [.queues, .mrg, .cvus, .twin, .regs, .dict, .ev] ps = true) :
    Keeps ps a0 (Block.logoutHere b h) := by
  unfold Block.logoutHere
  try dsimp only
  repeat' (first
    | intro _ | with_reducible exact h_ | with_reducible apply Block.reply_keeps | with_reducible apply Block.abort_keeps
    | with_reducible apply Block.endSession_keeps
    | exact partsIn_trans (m := [.queues, .mrg, .cvus, .twin, .regs, .dict, .ev]) (by decide) hl | split | dsimp only)

theorem Block.transferLate_keeps {ps : List Part} {a0 : Block} {b : Block} {o : Origin} {tag : Nat}
    (h_ : Keeps ps a0 b) (hl : partsIn [.queues, .mrg, .twin, .regs, .dict, .ev] ps = true) :
    Keeps ps a0 (Block.transferLate b o tag) := by
  unfold Block.transferLate
  try dsimp only
  repeat' (first
    | intro _ | with_reducible exact h_ | with_reducible apply Keeps.ite | with_reducible apply Keeps.forEach
    | with_reducible apply Block.abort_keeps | with_reducible apply Block.dropTransfer_keeps | with_reducible assumption
    | exact partsIn_trans (m := [.queues, .mrg, .twin, .regs, .dict, .ev]) (by decide) hl | dsimp only)

theorem Block.sessionLate_keeps {ps : List Part} {a0 : Block} {b : Block} {n : Nat}
    (h_ : Keeps ps a0 b) (hl : partsIn [.cvus, .regs, .dict, .ev] ps = true) :
    Keeps ps a0 (Block.sessionLate b n) := by
  unfold Block.sessionLate
  try dsimp only
  repeat' (first
    | intro _ | with_reducible exact h_ | with_reducible apply Keeps.forEach | with_reducible apply Block.endSession_keeps
    | with_reducible assumption | exact partsIn_trans (m := [.cvus, .regs, .dict, .ev]) (by decide) hl | dsimp only)

theorem Block.proxyLate_keeps {ps : List Part} {a0 : Block} {b : Block} {p tag : Nat}
    (h_ : Keeps ps a0 b) (hl : partsIn [.queues, .mrg, .twin, .regs, .dict, .ev] ps = true) :
    Keeps ps a0 (Block.proxyLate b p tag) := by
  unfold Block.proxyLate
  try dsimp only
  repeat' (first
    | intro _ | with_reducible exact h_ | with_reducible apply Keeps.forEach | with_reducible apply Block.raise_keeps
    | with_reducible apply Block.proxyFail_keeps | with_reducible apply Block.proxyDrop_keeps | with_reducible assumption
    | exact partsIn_trans (m := [.queues, .mrg, .twin, .regs, .dict, .ev]) (by decide) hl | dsimp only)

theorem Block.loginMsg_keeps {ps : List Part} {a0 : Block} {b : Block} {h : Hdr} {level : Nat} {cred : List Byte}
    (h_ : Keeps ps a0 b) (hl : partsIn [.queues, .mrg, .twin, .regs, .dict, .ev, .sec, .free] ps = true) :
    Keeps ps a0 (Block.loginMsg b h level cred) := by
  unfold Block.loginMsg
  try dsimp only
  repeat' (first
    | with_reducible exact h_ | with_reducible apply Block.freeNext_keeps | with_reducible apply Block.loginHere_keeps
    | exact partsIn_trans (m := [.queues, .mrg, .twin, .regs, .dict, .ev, .sec, .free]) (by decide) hl | dsimp only)

theorem Block.execMessage_keeps {ps : List Part} {a0 : Block} {b : Block} {o : Origin} {pair : Bool} {m : List Byte}
    (h_ : Keeps ps a0 b) (hl : partsIn [.fuses, .flash, .boot, .sets, .time, .chans, .bin, .iu, .adc, .queues, .mrg, .frm, .cvus, .twin, .flt, .regs, .dict, .ev, .sec, .free] ps = true) :
    Keeps ps a0 (Block.execMessage b o pair m) := by
  unfold Block.execMessage
  try dsimp only
  repeat' (first
    | intro _ | with_reducible exact h_ | with_reducible apply Block.abort_keeps | with_reducible apply Block.route_keeps
    | with_reducible apply Block.writeMsg_keeps | with_reducible apply Block.readEntry_keeps
    | with_reducible apply Block.startDownload_keeps | with_reducible apply Block.segment_keeps
    | with_reducible apply Block.segmentAck_keeps | with_reducible apply Block.abortMsg_keeps
    | with_reducible apply Block.catalogueEntry_keeps | with_reducible apply Block.logoutHere_keeps
    | with_reducible apply Block.loginMsg_keeps | with_reducible assumption
    | exact partsIn_trans (m := [.fuses, .flash, .boot, .sets, .time, .chans, .bin, .iu, .adc, .queues, .mrg, .frm, .cvus, .twin, .flt, .regs, .dict, .ev, .sec, .free]) (by decide) hl
    | split | dsimp only)

theorem Block.inbandMessage_keeps {ps : List Part} {a0 : Block} {b : Block} {env : Word64} {m : List Byte}
    (h_ : Keeps ps a0 b) (hl : partsIn [.fuses, .flash, .boot, .sets, .time, .chans, .bin, .iu, .adc, .queues, .mrg, .frm, .cvus, .twin, .flt, .regs, .dict, .ev, .sec, .free] ps = true) :
    Keeps ps a0 (Block.inbandMessage b env m) := by
  unfold Block.inbandMessage
  try dsimp only
  repeat' (first
    | with_reducible exact h_ | with_reducible apply Keeps.ite | with_reducible apply Block.execMessage_keeps
    | exact partsIn_trans (m := [.fuses, .flash, .boot, .sets, .time, .chans, .bin, .iu, .adc, .queues, .mrg, .frm, .cvus, .twin, .flt, .regs, .dict, .ev, .sec, .free]) (by decide) hl
    | split | dsimp only)

theorem Block.bulkWordsIn_keeps {ps : List Part} {a0 : Block} {b : Block} {l : List Word64}
    (h_ : Keeps ps a0 b) (hl : partsIn [.fuses, .flash, .boot, .sets, .time, .chans, .bin, .iu, .adc, .queues, .mrg, .frm, .cvus, .twin, .flt, .regs, .dict, .ev, .sec, .free] ps = true) :
    Keeps ps a0 (Block.bulkWordsIn b l) := by
  unfold Block.bulkWordsIn
  try dsimp only
  repeat' (first
    | intro _ | with_reducible exact h_ | with_reducible apply Keeps.forEach
    | with_reducible apply Keeps.onDictRest (by intro _; first | rfl | (split <;> rfl))
    | with_reducible apply Keeps.onDictRegs (by intro _; first | rfl | (split <;> rfl))
    | with_reducible apply Block.inbandMessage_keeps | with_reducible assumption
    | exact partsIn_trans (m := [.fuses, .flash, .boot, .sets, .time, .chans, .bin, .iu, .adc, .queues, .mrg, .frm, .cvus, .twin, .flt, .regs, .dict, .ev, .sec, .free]) (by decide) hl
    | split | dsimp only | with_reducible apply Keeps.dict)

theorem Block.bulkLost_keeps {ps : List Part} {a0 : Block} {b : Block}
    (h_ : Keeps ps a0 b) (hl : partsIn [.regs, .dict, .ev] ps = true) :
    Keeps ps a0 (Block.bulkLost b) := by
  unfold Block.bulkLost
  try dsimp only
  repeat' (first
    | intro _ | with_reducible exact h_ | with_reducible apply Keeps.ite
    | with_reducible apply Keeps.onDictRest (by intro _; first | rfl | (split <;> rfl))
    | with_reducible apply Keeps.onDictRegs (by intro _; first | rfl | (split <;> rfl)) | with_reducible apply Block.raise_keeps
    | exact partsIn_trans (m := [.regs, .dict, .ev]) (by decide) hl | dsimp only | with_reducible apply Keeps.dict)

theorem Block.inputRecord_keeps {ps : List Part} {a0 : Block} {b : Block} {r : QRec}
    (h_ : Keeps ps a0 b) (hl : partsIn [.fuses, .flash, .boot, .sets, .time, .chans, .bin, .iu, .adc, .queues, .mrg, .frm, .cvus, .twin, .flt, .regs, .dict, .ev, .sec, .free] ps = true) :
    Keeps ps a0 (Block.inputRecord b r) := by
  unfold Block.inputRecord
  try dsimp only
  repeat' (first
    | with_reducible exact h_ | with_reducible apply Keeps.ite | with_reducible apply Block.bulkWordsIn_keeps
    | with_reducible apply Block.bulkLost_keeps
    | exact partsIn_trans (m := [.fuses, .flash, .boot, .sets, .time, .chans, .bin, .iu, .adc, .queues, .mrg, .frm, .cvus, .twin, .flt, .regs, .dict, .ev, .sec, .free]) (by decide) hl
    | dsimp only)

theorem Block.inputsRead_keeps {ps : List Part} {a0 : Block} {b : Block}
    (h_ : Keeps ps a0 b) (hl : partsIn [.fuses, .flash, .boot, .sets, .time, .chans, .bin, .iu, .adc, .queues, .mrg, .frm, .cvus, .twin, .flt, .regs, .dict, .ev, .sec, .free] ps = true) :
    Keeps ps a0 (Block.inputsRead b) := by
  unfold Block.inputsRead
  try dsimp only
  repeat' (first
    | intro _ | with_reducible exact h_ | with_reducible apply Keeps.ite | with_reducible apply Keeps.forEach
    | with_reducible apply Keeps.iteFst | with_reducible apply Keeps.iteSnd | with_reducible apply Block.qReadAll_keeps
    | with_reducible apply Block.inputRecord_keeps | with_reducible assumption
    | exact partsIn_trans (m := [.fuses, .flash, .boot, .sets, .time, .chans, .bin, .iu, .adc, .queues, .mrg, .frm, .cvus, .twin, .flt, .regs, .dict, .ev, .sec, .free]) (by decide) hl
    | dsimp only)

theorem Block.serviceIn_keeps {ps : List Part} {a0 : Block} {b : Block} {p : Nat} {w : Word64}
    (h_ : Keeps ps a0 b) (hl : partsIn [.boot, .queues, .mrg, .frm, .twin, .flt, .regs, .dict, .ev, .free] ps = true) :
    Keeps ps a0 (Block.serviceIn b p w) := by
  unfold Block.serviceIn
  try dsimp only
  repeat' (first
    | intro _ | with_reducible exact h_ | with_reducible apply Keeps.forEach | with_reducible apply Block.qWrite_keeps
    | with_reducible apply Block.rqSingle_keeps | with_reducible assumption
    | exact partsIn_trans (m := [.boot, .queues, .mrg, .frm, .twin, .flt, .regs, .dict, .ev, .free]) (by decide) hl | dsimp only)

theorem Block.drainBus_keeps {ps : List Part} {a0 : Block} {b : Block} {bus : Nat}
    (h_ : Keeps ps a0 b) (hl : partsIn [.dict, .ev] ps = true) :
    Keeps ps a0 (Block.drainBus b bus) := by
  unfold Block.drainBus
  try dsimp only
  repeat' (first
    | intro _ | with_reducible exact h_ | with_reducible apply Keeps.ite | with_reducible apply Block.onEv_keeps
    | with_reducible apply Block.canSend_keeps | exact partsIn_trans (m := [.dict, .ev]) (by decide) hl | split | dsimp only)

theorem Block.drainInband_keeps {ps : List Part} {a0 : Block} {b : Block}
    (h_ : Keeps ps a0 b) (hl : partsIn [.queues, .mrg, .twin, .regs, .ev] ps = true) :
    Keeps ps a0 (Block.drainInband b) := by
  unfold Block.drainInband
  try dsimp only
  repeat' (first
    | intro _ | with_reducible exact h_ | with_reducible apply Keeps.ite | with_reducible apply Block.onEv_keeps
    | with_reducible apply Block.inbandSend_keeps | exact partsIn_trans (m := [.queues, .mrg, .twin, .regs, .ev]) (by decide) hl
    | split | dsimp only)

theorem Block.drainPaths_keeps {ps : List Part} {a0 : Block} {b : Block}
    (h_ : Keeps ps a0 b) (hl : partsIn [.queues, .mrg, .twin, .regs, .dict, .ev] ps = true) :
    Keeps ps a0 (Block.drainPaths b) := by
  unfold Block.drainPaths
  try dsimp only
  repeat' (first
    | with_reducible exact h_ | with_reducible apply Block.drainBus_keeps | with_reducible apply Block.drainInband_keeps
    | exact partsIn_trans (m := [.queues, .mrg, .twin, .regs, .dict, .ev]) (by decide) hl | dsimp only)

theorem Block.onCan_keeps {ps : List Part} {a0 : Block} {b : Block} {busB : Bool} {f : CanCtl → CanCtl}
    (h_ : Keeps ps a0 b) (hl : partsIn [.dict] ps = true) :
    Keeps ps a0 (Block.onCan b busB f) := by
  unfold Block.onCan
  try dsimp only
  repeat' (first
    | intro _ | with_reducible exact h_ | with_reducible apply Keeps.ite
    | with_reducible apply Keeps.onDictRest (by intro _; first | rfl | (split <;> rfl))
    | with_reducible apply Keeps.onDictRegs (by intro _; first | rfl | (split <;> rfl))
    | exact partsIn_trans (m := [.dict]) (by decide) hl | dsimp only | with_reducible apply Keeps.dict)

theorem Block.busOff_keeps {ps : List Part} {a0 : Block} {b : Block} {busB : Bool}
    (h_ : Keeps ps a0 b) (hl : partsIn [.regs, .dict, .ev] ps = true) :
    Keeps ps a0 (Block.busOff b busB) := by
  unfold Block.busOff
  try dsimp only
  repeat' (first
    | intro _ | with_reducible exact h_ | with_reducible apply Keeps.onDictRest (by intro _; first | rfl | (split <;> rfl))
    | with_reducible apply Keeps.onDictRegs (by intro _; first | rfl | (split <;> rfl)) | with_reducible apply Block.bump_keeps
    | with_reducible apply Block.raise_keeps | with_reducible apply Block.onCan_keeps
    | exact partsIn_trans (m := [.regs, .dict, .ev]) (by decide) hl | dsimp only | with_reducible apply Keeps.dict)

theorem Block.heartbeat_keeps {ps : List Part} {a0 : Block} {b : Block}
    (h_ : Keeps ps a0 b) (hl : partsIn [.dict] ps = true) :
    Keeps ps a0 (Block.heartbeat b) := by
  unfold Block.heartbeat
  try dsimp only
  repeat' (first
    | intro _ | with_reducible exact h_ | with_reducible apply Keeps.ite | with_reducible apply Keeps.forEach
    | with_reducible apply Block.canSend_keeps | with_reducible assumption | exact partsIn_trans (m := [.dict]) (by decide) hl
    | dsimp only)

theorem Block.identify_keeps {ps : List Part} {a0 : Block} {b : Block} {busB : Bool} {src : Nat} {identity node : Nat}
    (h_ : Keeps ps a0 b) (hl : partsIn [.regs, .dict] ps = true) :
    Keeps ps a0 (Block.identify b busB src identity node) := by
  unfold Block.identify
  try dsimp only
  repeat' (first
    | with_reducible exact h_ | with_reducible apply Keeps.ite | with_reducible apply Block.setReg_keeps
    | with_reducible apply Block.canSend_keeps | exact partsIn_trans (m := [.regs, .dict]) (by decide) hl | dsimp only)

theorem Block.everyLaneOff_keeps {ps : List Part} {a0 : Block} {b : Block}
    (h_ : Keeps ps a0 b) (hl : partsIn [.frm] ps = true) :
    Keeps ps a0 (Block.everyLaneOff b) := by
  unfold Block.everyLaneOff
  try dsimp only
  repeat' (first
    | intro _ | with_reducible exact h_ | with_reducible apply Block.onFrm_keeps
    | exact partsIn_trans (m := [.frm]) (by decide) hl | dsimp only)

theorem Block.stop_keeps {ps : List Part} {a0 : Block} {b : Block}
    (h_ : Keeps ps a0 b) (hl : partsIn [.boot, .frm, .ev] ps = true) :
    Keeps ps a0 (Block.stop b) := by
  unfold Block.stop
  try dsimp only
  repeat' (first
    | intro _ | with_reducible exact h_
    | with_reducible apply Keeps.onBootRest (by intro _; first | exact ⟨rfl, rfl⟩ | (split <;> exact ⟨rfl, rfl⟩))
    | with_reducible apply Block.judgeAlert_keeps | with_reducible apply Block.everyLaneOff_keeps
    | exact partsIn_trans (m := [.boot, .frm, .ev]) (by decide) hl | dsimp only | with_reducible apply Keeps.boot)

theorem Block.fuseValues_keeps {ps : List Part} {a0 : Block} {b : Block}
    (h_ : Keeps ps a0 b) (hl : partsIn [.bin, .adc, .frm] ps = true) :
    Keeps ps a0 (Block.fuseValues b) := by
  have hm : ∀ q, partsIn [q] [.bin, .adc, .frm] = true → partsIn [q] ps = true := fun q h => partsIn_trans h hl
  unfold Block.fuseValues
  dsimp only
  refine Keeps.ite h_ (Keeps.forEach ?_ fun i x hx => Block.onLane_keeps hx (hm _ (by decide)))
  exact h_.comp (m := [.bin, .adc]) ⟨fun p hp => by cases p <;> first | rfl | exact ⟨rfl, rfl⟩ | exact absurd (by decide) hp⟩
    (partsIn_trans (m := [.bin, .adc, .frm]) (by decide) hl)

theorem Block.identifyFlash_keeps {ps : List Part} {a0 : Block} {b : Block} {found : Option Nat}
    (h_ : Keeps ps a0 b) (hl : partsIn [.flash, .regs, .ev, .free] ps = true) :
    Keeps ps a0 (Block.identifyFlash b found) := by
  unfold Block.identifyFlash
  try dsimp only
  repeat' (first
    | intro _ | with_reducible exact h_ | with_reducible apply Keeps.ite | with_reducible apply Block.onFlash_keeps
    | with_reducible apply Block.freeNext_keeps | with_reducible apply Block.raise_keeps
    | exact partsIn_trans (m := [.flash, .regs, .ev, .free]) (by decide) hl | dsimp only)

theorem Block.applyKept_keeps {ps : List Part} {a0 : Block} {b : Block}
    (h_ : Keeps ps a0 b) (hl : partsIn [.regs] ps = true) :
    Keeps ps a0 (Block.applyKept b) := by
  unfold Block.applyKept
  try dsimp only
  repeat' (first
    | intro _ | with_reducible exact h_ | with_reducible apply Keeps.ite | with_reducible apply Keeps.foldl
    | with_reducible apply Keeps.foldlFst | with_reducible apply Keeps.foldlSnd
    | with_reducible apply Keeps.onDictRest (by intro _; first | rfl | (split <;> rfl))
    | with_reducible apply Keeps.onDictRegs (by intro _; first | rfl | (split <;> rfl)) | with_reducible assumption
    | exact partsIn_trans (m := [.regs]) (by decide) hl | split | dsimp only)

theorem Block.bootSite_keeps {ps : List Part} {a0 : Block} {b : Block} {id : Nat}
    (h_ : Keeps ps a0 b) (hl : partsIn [.sets, .chans, .adc, .mrg, .frm, .flt, .regs, .ev] ps = true) :
    Keeps ps a0 (Block.bootSite b id) := by
  unfold Block.bootSite
  try dsimp only
  repeat' (first
    | intro _ | with_reducible exact h_ | with_reducible apply Keeps.ite | with_reducible apply Block.onChan_keeps
    | with_reducible apply Block.onPort_keeps | with_reducible apply Block.setReg_keeps | with_reducible apply Block.onSite_keeps
    | with_reducible apply Block.laneRetired_keeps | with_reducible apply Block.retireSlice_keeps
    | exact partsIn_trans (m := [.sets, .chans, .adc, .mrg, .frm, .flt, .regs, .ev]) (by decide) hl | split | dsimp only)

theorem Block.applyList_keeps {ps : List Part} {a0 : Block} {b : Block}
    (h_ : Keeps ps a0 b) (hl : partsIn [.sets, .chans, .adc, .mrg, .frm, .flt, .regs, .ev] ps = true) :
    Keeps ps a0 (Block.applyList b) := by
  unfold Block.applyList
  try dsimp only
  repeat' (first
    | intro _ | with_reducible exact h_ | with_reducible apply Keeps.ite | with_reducible apply Keeps.forEach
    | with_reducible apply Block.onFlt_keeps | with_reducible apply Block.bootSite_keeps | with_reducible assumption
    | exact partsIn_trans (m := [.sets, .chans, .adc, .mrg, .frm, .flt, .regs, .ev]) (by decide) hl | dsimp only)

theorem Block.bootNoFolio_keeps {ps : List Part} {a0 : Block} {b : Block} {code0 code1 : Nat}
    (h_ : Keeps ps a0 b) (hl : partsIn [.boot, .sets, .regs, .ev] ps = true) :
    Keeps ps a0 (Block.bootNoFolio b code0 code1) := by
  unfold Block.bootNoFolio
  try dsimp only
  repeat' (first
    | intro _ | with_reducible exact h_
    | with_reducible apply Keeps.onBootRest (by intro _; first | exact ⟨rfl, rfl⟩ | (split <;> exact ⟨rfl, rfl⟩))
    | with_reducible apply Block.onSets_keeps | with_reducible apply Block.raise_keeps
    | exact partsIn_trans (m := [.boot, .sets, .regs, .ev]) (by decide) hl | dsimp only | with_reducible apply Keeps.boot)

theorem Block.bootTime_keeps {ps : List Part} {a0 : Block} {b : Block} {i : Nat}
    (h_ : Keeps ps a0 b) (hl : partsIn [.boot, .free] ps = true) :
    Keeps ps a0 (Block.bootTime b i) := by
  unfold Block.bootTime
  try dsimp only
  repeat' (first
    | intro _ | with_reducible exact h_ | with_reducible apply Keeps.ite
    | with_reducible apply Keeps.onBootRest (by intro _; first | exact ⟨rfl, rfl⟩ | (split <;> exact ⟨rfl, rfl⟩))
    | with_reducible apply Block.freeNext_keeps | exact partsIn_trans (m := [.boot, .free]) (by decide) hl | dsimp only
    | with_reducible apply Keeps.boot)

theorem Block.readFlash_keeps {ps : List Part} {a0 : Block} {b : Block}
    (h_ : Keeps ps a0 b) (hl : partsIn [.boot, .sets, .regs, .ev, .free] ps = true) :
    Keeps ps a0 (Block.readFlash b) := by
  unfold Block.readFlash
  try dsimp only
  repeat' (first
    | intro _ | with_reducible exact h_ | with_reducible apply Keeps.ite | with_reducible apply Block.onSets_keeps
    | with_reducible apply Block.freeNext_keeps | with_reducible apply Block.bootNoFolio_keeps
    | exact partsIn_trans (m := [.boot, .sets, .regs, .ev, .free]) (by decide) hl | dsimp only)

theorem Block.bootRun_keeps {ps : List Part} {a0 : Block} {b : Block} {r : FuseReport}
    (h_ : Keeps ps a0 b) (hl : partsIn [.flash, .boot, .sets, .chans, .chMask, .bin, .adc, .mrg, .frm, .twin, .flt, .regs, .dict, .ev, .sec, .free] ps = true) :
    Keeps ps a0 (Block.bootRun b r) := by
  unfold Block.bootRun
  try dsimp only
  repeat' (first
    | intro _ | with_reducible exact h_
    | with_reducible apply Keeps.onBootRest (by intro _; first | exact ⟨rfl, rfl⟩ | (split <;> exact ⟨rfl, rfl⟩))
    | with_reducible apply Block.remask_keeps | with_reducible apply Block.engineTest_keeps
    | with_reducible apply Block.wakeLinks_keeps | with_reducible apply Block.certCheck_keeps
    | with_reducible apply Block.startCan_keeps | with_reducible apply Block.newChallenge_keeps
    | with_reducible apply Block.fuseValues_keeps | with_reducible apply Block.identifyFlash_keeps
    | with_reducible apply Block.applyKept_keeps | with_reducible apply Block.applyList_keeps
    | with_reducible apply Block.bootTime_keeps | with_reducible apply Block.readFlash_keeps
    | exact partsIn_trans (m := [.flash, .boot, .sets, .chans, .chMask, .bin, .adc, .mrg, .frm, .twin, .flt, .regs, .dict, .ev, .sec, .free]) (by decide) hl
    | dsimp only | with_reducible apply Keeps.boot)

theorem Block.fuseLoad_keeps {ps : List Part} {a0 : Block} {b : Block} {r : FuseReport}
    (h_ : Keeps ps a0 b) (hl : partsIn [.flash, .boot, .sets, .chans, .chMask, .bin, .adc, .mrg, .frm, .twin, .flt, .regs, .dict, .ev, .sec, .free] ps = true) :
    Keeps ps a0 (Block.fuseLoad b r) := by
  unfold Block.fuseLoad
  try dsimp only
  repeat' (first
    | with_reducible exact h_ | with_reducible apply Keeps.ite | with_reducible apply Block.raise_keeps
    | with_reducible apply Block.stop_keeps | with_reducible apply Block.bootRun_keeps
    | exact partsIn_trans (m := [.flash, .boot, .sets, .chans, .chMask, .bin, .adc, .mrg, .frm, .twin, .flt, .regs, .dict, .ev, .sec, .free]) (by decide) hl
    | split | dsimp only)

theorem Block.folioValues_keeps {ps : List Part} {a0 : Block} {b : Block} {c : CfgSet}
    (h_ : Keeps ps a0 b) (hl : partsIn [.flash, .time, .chans, .adc, .mrg, .frm, .cvus, .twin, .flt, .regs, .dict, .ev, .env, .free] ps = true) :
    Keeps ps a0 (Block.folioValues b c) := by
  unfold Block.folioValues
  try dsimp only
  repeat' (first
    | intro _ | with_reducible exact h_ | with_reducible apply Keeps.ite | with_reducible apply Keeps.forEach
    | with_reducible apply Block.takeWrite_keeps | with_reducible assumption
    | exact partsIn_trans (m := [.flash, .time, .chans, .adc, .mrg, .frm, .cvus, .twin, .flt, .regs, .dict, .ev, .env, .free]) (by decide) hl
    | split | dsimp only)

theorem Block.bootOrbit_keeps {ps : List Part} {a0 : Block} {b : Block}
    (h_ : Keeps ps a0 b) (hl : partsIn [.time] ps = true) :
    Keeps ps a0 (Block.bootOrbit b) := by
  unfold Block.bootOrbit
  try dsimp only
  repeat' (first
    | intro _ | with_reducible exact h_ | with_reducible apply Keeps.onTimeRest (by intro _; first | rfl | (split <;> rfl))
    | exact partsIn_trans (m := [.time]) (by decide) hl | split | dsimp only | with_reducible apply Keeps.time)

theorem Block.bootActivate_keeps {ps : List Part} {a0 : Block} {b : Block} {c : CfgSet}
    (h_ : Keeps ps a0 b) (hl : partsIn [.flash, .boot, .sets, .time, .chans, .chMask, .chSince, .adc, .mrg, .frm, .cvus, .twin, .flt, .regs, .dict, .ev, .env, .free] ps = true) :
    Keeps ps a0 (Block.bootActivate b c) := by
  unfold Block.bootActivate
  try dsimp only
  repeat' (first
    | intro _ | with_reducible exact h_ | with_reducible apply Keeps.ite
    | with_reducible apply Keeps.onBootRest (by intro _; first | exact ⟨rfl, rfl⟩ | (split <;> exact ⟨rfl, rfl⟩))
    | with_reducible apply Block.onSets_keeps | with_reducible apply Block.ttActivate_keeps
    | with_reducible apply Block.remask_keeps | with_reducible apply Block.plateChecks_keeps
    | with_reducible apply Block.tileTold_keeps | with_reducible apply Block.wakeLinks_keeps
    | with_reducible apply Block.parkLanes_keeps | with_reducible apply Block.putKeyed_keeps
    | with_reducible apply Block.settlePorts_keeps | with_reducible apply Block.folioValues_keeps
    | with_reducible apply Block.bootOrbit_keeps
    | exact partsIn_trans (m := [.flash, .boot, .sets, .time, .chans, .chMask, .chSince, .adc, .mrg, .frm, .cvus, .twin, .flt, .regs, .dict, .ev, .env, .free]) (by decide) hl
    | dsimp only | with_reducible apply Keeps.boot | with_reducible apply Keeps.chSince)

theorem Block.bootFolio_keeps {ps : List Part} {a0 : Block} {b : Block} {source : Nat} {c : CfgSet}
    (h_ : Keeps ps a0 b) (hl : partsIn [.flash, .boot, .sets, .time, .chans, .chMask, .chSince, .adc, .mrg, .frm, .cvus, .twin, .flt, .regs, .dict, .ev, .env, .free] ps = true) :
    Keeps ps a0 (Block.bootFolio b source c) := by
  unfold Block.bootFolio
  try dsimp only
  repeat' (first
    | intro _ | with_reducible exact h_ | with_reducible apply Keeps.ite | with_reducible apply Block.onSets_keeps
    | with_reducible apply Block.raise_keeps | with_reducible apply Block.bootTime_keeps
    | with_reducible apply Block.bootActivate_keeps
    | exact partsIn_trans (m := [.flash, .boot, .sets, .time, .chans, .chMask, .chSince, .adc, .mrg, .frm, .cvus, .twin, .flt, .regs, .dict, .ev, .env, .free]) (by decide) hl
    | dsimp only)

theorem Block.takeWaiting_keeps {ps : List Part} {a0 : Block} {b : Block}
    (h_ : Keeps ps a0 b) (hl : partsIn [.flash, .boot, .sets, .time, .chans, .chMask, .chSince, .adc, .queues, .mrg, .frm, .cvus, .twin, .flt, .regs, .dict, .ev, .env, .free] ps = true) :
    Keeps ps a0 (Block.takeWaiting b) := by
  unfold Block.takeWaiting
  try dsimp only
  repeat' (first
    | with_reducible exact h_ | with_reducible apply Keeps.ite | with_reducible apply Block.toShadow_keeps
    | with_reducible apply Block.bootActivate_keeps
    | exact partsIn_trans (m := [.flash, .boot, .sets, .time, .chans, .chMask, .chSince, .adc, .queues, .mrg, .frm, .cvus, .twin, .flt, .regs, .dict, .ev, .env, .free]) (by decide) hl
    | split | dsimp only)

theorem Block.flashRead_keeps {ps : List Part} {a0 : Block} {b : Block} {image : List Byte}
    (h_ : Keeps ps a0 b) (hl : partsIn [.boot, .sets, .free] ps = true) :
    Keeps ps a0 (Block.flashRead b image) := by
  unfold Block.flashRead
  try dsimp only
  repeat' (first
    | intro _ | with_reducible exact h_
    | with_reducible apply Keeps.onBootRest (by intro _; first | exact ⟨rfl, rfl⟩ | (split <;> exact ⟨rfl, rfl⟩))
    | with_reducible apply Block.onSets_keeps | with_reducible apply Block.bootTime_keeps
    | exact partsIn_trans (m := [.boot, .sets, .free]) (by decide) hl | dsimp only | with_reducible apply Keeps.boot)

theorem Block.bootRefused_keeps {ps : List Part} {a0 : Block} {b : Block} {code : Nat}
    (h_ : Keeps ps a0 b) (hl : partsIn [.boot, .sets, .regs, .ev] ps = true) :
    Keeps ps a0 (Block.bootRefused b code) := by
  unfold Block.bootRefused
  try dsimp only
  repeat' (first
    | intro _ | with_reducible exact h_ | with_reducible apply Keeps.ite
    | with_reducible apply Keeps.onBootRest (by intro _; first | exact ⟨rfl, rfl⟩ | (split <;> exact ⟨rfl, rfl⟩))
    | with_reducible apply Block.onSets_keeps | with_reducible apply Block.raise_keeps
    | with_reducible apply Block.bootNoFolio_keeps | exact partsIn_trans (m := [.boot, .sets, .regs, .ev]) (by decide) hl
    | dsimp only | with_reducible apply Keeps.boot)

theorem Block.bootAccepted_keeps {ps : List Part} {a0 : Block} {b : Block} {c : CfgSet}
    (h_ : Keeps ps a0 b) (hl : partsIn [.flash, .boot, .sets, .time, .chans, .chMask, .chSince, .adc, .mrg, .frm, .cvus, .twin, .flt, .regs, .dict, .ev, .env, .free] ps = true) :
    Keeps ps a0 (Block.bootAccepted b c) := by
  unfold Block.bootAccepted
  try dsimp only
  repeat' (first
    | intro _ | with_reducible exact h_ | with_reducible apply Keeps.ite | with_reducible apply Block.onSets_keeps
    | with_reducible apply Block.setReg_keeps | with_reducible apply Block.bootFolio_keeps
    | exact partsIn_trans (m := [.flash, .boot, .sets, .time, .chans, .chMask, .chSince, .adc, .mrg, .frm, .cvus, .twin, .flt, .regs, .dict, .ev, .env, .free]) (by decide) hl
    | dsimp only)

theorem Block.downloadAccepted_keeps {ps : List Part} {a0 : Block} {b : Block} {h : Hdr} {silent : Bool} {c : CfgSet}
    (h_ : Keeps ps a0 b) (hl : partsIn [.flash, .boot, .sets, .time, .chans, .chMask, .chSince, .adc, .queues, .mrg, .frm, .cvus, .twin, .flt, .regs, .dict, .ev, .env, .free] ps = true) :
    Keeps ps a0 (Block.downloadAccepted b h silent c) := by
  unfold Block.downloadAccepted
  try dsimp only
  repeat' (first
    | intro _ | with_reducible exact h_ | with_reducible apply Keeps.ite | with_reducible apply Block.onSets_keeps
    | with_reducible apply Block.landed_keeps | with_reducible apply Block.bootFolio_keeps
    | exact partsIn_trans (m := [.flash, .boot, .sets, .time, .chans, .chMask, .chSince, .adc, .queues, .mrg, .frm, .cvus, .twin, .flt, .regs, .dict, .ev, .env, .free]) (by decide) hl
    | dsimp only)

theorem Block.folioProcessed_keeps {ps : List Part} {a0 : Block} {b : Block} {v : Verdict}
    (h_ : Keeps ps a0 b) (hl : partsIn [.flash, .boot, .sets, .time, .chans, .chMask, .chSince, .adc, .queues, .mrg, .frm, .cvus, .twin, .flt, .regs, .dict, .ev, .env, .free] ps = true) :
    Keeps ps a0 (Block.folioProcessed b v) := by
  unfold Block.folioProcessed
  try dsimp only
  repeat' (first
    | intro _ | with_reducible exact h_ | with_reducible apply Keeps.ite | with_reducible apply Keeps.iteFst
    | with_reducible apply Keeps.iteSnd | with_reducible apply Block.onSets_keeps | with_reducible apply Block.refuseKey_keeps
    | with_reducible apply Block.folioVerify_keeps | with_reducible apply Block.bootTime_keeps
    | with_reducible apply Block.bootRefused_keeps | with_reducible apply Block.bootAccepted_keeps
    | with_reducible apply Block.downloadAccepted_keeps
    | exact partsIn_trans (m := [.flash, .boot, .sets, .time, .chans, .chMask, .chSince, .adc, .queues, .mrg, .frm, .cvus, .twin, .flt, .regs, .dict, .ev, .env, .free]) (by decide) hl
    | split | dsimp only)

theorem Block.sealed_keeps {ps : List Part} {a0 : Block} {b : Block} {ok : Bool} {h : Hdr} {slot : Nat} {silent : Bool} {image : List Byte} {serial : Nat}
    (h_ : Keeps ps a0 b) (hl : partsIn [.flash, .boot, .queues, .mrg, .twin, .regs, .dict, .ev, .free] ps = true) :
    Keeps ps a0 (Block.sealed b ok h slot silent image serial) := by
  unfold Block.sealed
  try dsimp only
  repeat' (first
    | intro _ | with_reducible exact h_ | with_reducible apply Keeps.ite
    | with_reducible apply Keeps.onBootRest (by intro _; first | exact ⟨rfl, rfl⟩ | (split <;> exact ⟨rfl, rfl⟩))
    | with_reducible apply Block.onFlash_keeps | with_reducible apply Block.freeNext_keeps
    | with_reducible apply Block.raise_keeps | with_reducible apply Block.landed_keeps
    | with_reducible apply Block.refuseKey_keeps
    | exact partsIn_trans (m := [.flash, .boot, .queues, .mrg, .twin, .regs, .dict, .ev, .free]) (by decide) hl | dsimp only
    | with_reducible apply Keeps.boot)

theorem Block.bootSlices_keeps {ps : List Part} {a0 : Block} {b : Block}
    (h_ : Keeps ps a0 b) (hl : partsIn [.queues, .mrg, .regs, .dict, .ev] ps = true) :
    Keeps ps a0 (Block.bootSlices b) := by
  unfold Block.bootSlices
  try dsimp only
  repeat' (first
    | intro _ | with_reducible exact h_ | with_reducible apply Keeps.ite | with_reducible apply Keeps.forEach
    | with_reducible apply Block.onPort_keeps | with_reducible apply Block.ownSlice_keeps | with_reducible assumption
    | exact partsIn_trans (m := [.queues, .mrg, .regs, .dict, .ev]) (by decide) hl | split | dsimp only)

theorem Block.readyMessage_keeps {ps : List Part} {a0 : Block} {b : Block}
    (h_ : Keeps ps a0 b) (hl : partsIn [.queues, .mrg, .twin, .regs, .ev] ps = true) :
    Keeps ps a0 (Block.readyMessage b) := by
  unfold Block.readyMessage
  try dsimp only
  repeat' (first
    | with_reducible exact h_ | with_reducible apply Block.inbandSend_keeps
    | exact partsIn_trans (m := [.queues, .mrg, .twin, .regs, .ev]) (by decide) hl | dsimp only)

theorem Block.becomeReady_keeps {ps : List Part} {a0 : Block} {b : Block}
    (h_ : Keeps ps a0 b) (hl : partsIn [.boot, .queues, .mrg, .twin, .regs, .ev, .free] ps = true) :
    Keeps ps a0 (Block.becomeReady b) := by
  unfold Block.becomeReady
  try dsimp only
  repeat' (first
    | intro _ | with_reducible exact h_ | with_reducible apply Keeps.ite
    | with_reducible apply Keeps.onBootRest (by intro _; first | exact ⟨rfl, rfl⟩ | (split <;> exact ⟨rfl, rfl⟩))
    | with_reducible apply Block.setReg_keeps | with_reducible apply Block.raise_keeps | with_reducible apply Block.bootTime_keeps
    | with_reducible apply Block.readyMessage_keeps
    | exact partsIn_trans (m := [.boot, .queues, .mrg, .twin, .regs, .ev, .free]) (by decide) hl | dsimp only
    | with_reducible apply Keeps.boot)

theorem Block.decideRelease_keeps {ps : List Part} {a0 : Block} {b : Block}
    (h_ : Keeps ps a0 b) (hl : partsIn [.boot, .mrg, .regs, .ev] ps = true) :
    Keeps ps a0 (Block.decideRelease b) := by
  unfold Block.decideRelease
  try dsimp only
  repeat' (first
    | intro _ | with_reducible exact h_ | with_reducible apply Keeps.ite | with_reducible apply Keeps.forEach
    | with_reducible apply Keeps.onBootRest (by intro _; first | exact ⟨rfl, rfl⟩ | (split <;> exact ⟨rfl, rfl⟩))
    | with_reducible apply Block.onMrg_keeps | with_reducible apply Block.onPort_keeps | with_reducible apply Block.setReg_keeps
    | with_reducible apply Block.raise_keeps | with_reducible assumption
    | exact partsIn_trans (m := [.boot, .mrg, .regs, .ev]) (by decide) hl | dsimp only | with_reducible apply Keeps.boot)

theorem Block.writeRelease_keeps {ps : List Part} {a0 : Block} {b : Block}
    (h_ : Keeps ps a0 b) (hl : partsIn [.boot, .queues, .mrg, .regs, .dict, .ev] ps = true) :
    Keeps ps a0 (Block.writeRelease b) := by
  unfold Block.writeRelease
  try dsimp only
  repeat' (first
    | intro _ | with_reducible exact h_ | with_reducible apply Keeps.ite | with_reducible apply Keeps.forEach
    | with_reducible apply Keeps.onBootRest (by intro _; first | exact ⟨rfl, rfl⟩ | (split <;> exact ⟨rfl, rfl⟩))
    | with_reducible apply Block.ownWrite_keeps | with_reducible assumption
    | exact partsIn_trans (m := [.boot, .queues, .mrg, .regs, .dict, .ev]) (by decide) hl | split | dsimp only
    | with_reducible apply Keeps.boot)

theorem Block.releaseNow_keeps {ps : List Part} {a0 : Block} {b : Block}
    (h_ : Keeps ps a0 b) (hl : partsIn [.boot, .sets, .chans, .adc, .acc, .mrg, .frm, .twin, .flt, .regs, .ev, .free] ps = true) :
    Keeps ps a0 (Block.releaseNow b) := by
  unfold Block.releaseNow
  try dsimp only
  repeat' (first
    | intro _ | with_reducible exact h_ | with_reducible apply Keeps.ite
    | with_reducible apply Keeps.onBootRest (by intro _; first | exact ⟨rfl, rfl⟩ | (split <;> exact ⟨rfl, rfl⟩))
    | with_reducible apply Block.onAdc_keeps | with_reducible apply Block.onAcc_keeps | with_reducible apply Block.onMrg_keeps
    | with_reducible apply Block.raise_keeps | with_reducible apply Block.putKeyed_keeps
    | with_reducible apply Block.bootTime_keeps
    | exact partsIn_trans (m := [.boot, .sets, .chans, .adc, .acc, .mrg, .frm, .twin, .flt, .regs, .ev, .free]) (by decide) hl
    | dsimp only | with_reducible apply Keeps.boot)

theorem Block.joinPorts_keeps {ps : List Part} {a0 : Block} {b : Block}
    (h_ : Keeps ps a0 b) (hl : partsIn [.boot, .sets, .chans, .adc, .mrg, .frm, .twin, .flt, .regs, .ev, .free] ps = true) :
    Keeps ps a0 (Block.joinPorts b) := by
  unfold Block.joinPorts
  try dsimp only
  repeat' (first
    | intro _ | with_reducible exact h_ | with_reducible apply Keeps.ite | with_reducible apply Keeps.forEach
    | with_reducible apply Keeps.onBootRest (by intro _; first | exact ⟨rfl, rfl⟩ | (split <;> exact ⟨rfl, rfl⟩))
    | with_reducible apply Block.onPort_keeps | with_reducible apply Block.raise_keeps | with_reducible apply Block.putKeyed_keeps
    | with_reducible assumption
    | exact partsIn_trans (m := [.boot, .sets, .chans, .adc, .mrg, .frm, .twin, .flt, .regs, .ev, .free]) (by decide) hl
    | dsimp only | with_reducible apply Keeps.boot)

theorem Block.checkLast_keeps {ps : List Part} {a0 : Block} {b : Block} {k : RxLink} {l : Nat} {next : Option CFrame}
    (h_ : Keeps ps a0 b) (hl : partsIn [.chans, .adc, .mrg, .frm, .twin, .flt, .regs, .ev, .free] ps = true) :
    Keeps ps a0 (Block.checkLast b k l next) := by
  unfold Block.checkLast
  try dsimp only
  repeat' (first
    | intro _ | with_reducible exact h_ | with_reducible apply Keeps.ite | with_reducible apply Keeps.iteFst
    | with_reducible apply Keeps.iteSnd | with_reducible apply Block.onLane_keeps | with_reducible apply Block.regionFailed_keeps
    | exact partsIn_trans (m := [.chans, .adc, .mrg, .frm, .twin, .flt, .regs, .ev, .free]) (by decide) hl | split | dsimp only)

theorem Block.setLast_keeps {ps : List Part} {a0 : Block} {b : Block} {l h : Nat} {f : CFrame}
    (h_ : Keeps ps a0 b) (hl : partsIn [.frm] ps = true) :
    Keeps ps a0 (Block.setLast b l h f) := by
  unfold Block.setLast
  try dsimp only
  repeat' (first
    | intro _ | with_reducible exact h_ | with_reducible apply Block.onLane_keeps
    | exact partsIn_trans (m := [.frm]) (by decide) hl | dsimp only)

theorem Block.storeFrame_keeps {ps : List Part} {a0 : Block} {b : Block} {l h : Nat} {f : Option CFrame}
    (h_ : Keeps ps a0 b) (hl : partsIn [.frm] ps = true) :
    Keeps ps a0 (Block.storeFrame b l h f) := by
  unfold Block.storeFrame
  try dsimp only
  repeat' (first
    | intro _ | with_reducible exact h_ | with_reducible apply Block.onLane_keeps
    | exact partsIn_trans (m := [.frm]) (by decide) hl | dsimp only)

theorem Block.invalidFault_keeps {ps : List Part} {a0 : Block} {b : Block} {k : Link} {l was : Nat}
    (h_ : Keeps ps a0 b) (hl : partsIn [.twin] ps = true) :
    Keeps ps a0 (Block.invalidFault b k l was) := by
  unfold Block.invalidFault
  try dsimp only
  repeat' (first
    | intro _ | with_reducible exact h_ | with_reducible apply Keeps.when | with_reducible apply Block.inputFault_keeps
    | with_reducible assumption | exact partsIn_trans (m := [.twin]) (by decide) hl | dsimp only)

theorem Block.measureSide_keeps {ps : List Part} {a0 : Block} {b : Block} {l h margin : Nat}
    (h_ : Keeps ps a0 b) (hl : partsIn [.time] ps = true) :
    Keeps ps a0 (Block.measureSide b l h margin) := by
  unfold Block.measureSide
  try dsimp only
  repeat' (first
    | intro _ | with_reducible exact h_ | with_reducible apply Block.onDom_keeps
    | exact partsIn_trans (m := [.time]) (by decide) hl | dsimp only)

theorem Block.campaignShot_keeps {ps : List Part} {a0 : Block} {b : Block} {p h margin : Nat}
    (h_ : Keeps ps a0 b) (hl : partsIn [.time] ps = true) :
    Keeps ps a0 (Block.campaignShot b p h margin) := by
  unfold Block.campaignShot
  try dsimp only
  repeat' (first
    | intro _ | with_reducible exact h_ | with_reducible apply Keeps.ite
    | with_reducible apply Keeps.onTimeRest (by intro _; first | rfl | (split <;> rfl))
    | exact partsIn_trans (m := [.time]) (by decide) hl | dsimp only | with_reducible apply Keeps.time)

theorem Block.marker_keeps {ps : List Part} {a0 : Block} {b : Block} {k : Link} {l h margin : Nat}
    (h_ : Keeps ps a0 b) (hl : partsIn [.time] ps = true) :
    Keeps ps a0 (Block.marker b k l h margin) := by
  unfold Block.marker
  try dsimp only
  repeat' (first
    | with_reducible exact h_ | with_reducible apply Keeps.ite | with_reducible apply Block.measureSide_keeps
    | with_reducible apply Block.campaignShot_keeps | exact partsIn_trans (m := [.time]) (by decide) hl | split | dsimp only)

theorem Block.headerMismatch_keeps {ps : List Part} {a0 : Block} {b : Block} {k : Link} {l : Nat} {f : CFrame} {missing : Bool}
    (h_ : Keeps ps a0 b) (hl : partsIn [.regs, .ev] ps = true) :
    Keeps ps a0 (Block.headerMismatch b k l f missing) := by
  unfold Block.headerMismatch
  try dsimp only
  repeat' (first
    | intro _ | with_reducible exact h_ | with_reducible apply Keeps.when | with_reducible apply Block.mismatch_keeps
    | with_reducible assumption | exact partsIn_trans (m := [.regs, .ev]) (by decide) hl | split | dsimp only)

theorem Block.presentFrame_keeps {ps : List Part} {a0 : Block} {b : Block} {k : Link} {l : Nat} {f : CFrame} {margin : Nat}
    (h_ : Keeps ps a0 b) (hl : partsIn [.time, .chans, .adc, .mrg, .frm, .twin, .flt, .regs, .ev, .free] ps = true) :
    Keeps ps a0 (Block.presentFrame b k l f margin) := by
  unfold Block.presentFrame
  try dsimp only
  repeat' (first
    | intro _ | with_reducible exact h_ | with_reducible apply Keeps.ite | with_reducible apply Keeps.iteFst
    | with_reducible apply Keeps.iteSnd | with_reducible apply Block.onLane_keeps | with_reducible apply Block.takeFrame_keeps
    | with_reducible apply Block.acquireFrom_keeps | with_reducible apply Block.dropLink_keeps
    | with_reducible apply Block.checkLast_keeps | with_reducible apply Block.setLast_keeps
    | with_reducible apply Block.storeFrame_keeps | with_reducible apply Block.invalidFault_keeps
    | with_reducible apply Block.marker_keeps | with_reducible apply Block.headerMismatch_keeps
    | exact partsIn_trans (m := [.time, .chans, .adc, .mrg, .frm, .twin, .flt, .regs, .ev, .free]) (by decide) hl | split
    | dsimp only)

theorem Block.placeAgain_keeps {ps : List Part} {a0 : Block} {b : Block} {k : Link} {l : Nat} {f : CFrame} {margin : Nat}
    (h_ : Keeps ps a0 b) (hl : partsIn [.time, .frm] ps = true) :
    Keeps ps a0 (Block.placeAgain b k l f margin) := by
  unfold Block.placeAgain
  try dsimp only
  repeat' (first
    | intro _ | with_reducible exact h_ | with_reducible apply Keeps.ite | with_reducible apply Block.onLane_keeps
    | with_reducible apply Block.placeFree_keeps | exact partsIn_trans (m := [.time, .frm]) (by decide) hl | dsimp only)

theorem Block.waitFrame_keeps {ps : List Part} {a0 : Block} {b : Block} {l due : Nat} {f : CFrame} {margin : Nat}
    (h_ : Keeps ps a0 b) (hl : partsIn [.frm] ps = true) :
    Keeps ps a0 (Block.waitFrame b l due f margin) := by
  unfold Block.waitFrame
  try dsimp only
  repeat' (first
    | intro _ | with_reducible exact h_ | with_reducible apply Block.onLane_keeps
    | exact partsIn_trans (m := [.frm]) (by decide) hl | dsimp only)

theorem Block.takeOrWait_keeps {ps : List Part} {a0 : Block} {b : Block} {k : Link} {l : Nat} {f : CFrame} {margin : Nat}
    (h_ : Keeps ps a0 b) (hl : partsIn [.time, .chans, .adc, .mrg, .frm, .twin, .flt, .regs, .ev, .free] ps = true) :
    Keeps ps a0 (Block.takeOrWait b k l f margin) := by
  unfold Block.takeOrWait
  try dsimp only
  repeat' (first
    | with_reducible exact h_ | with_reducible apply Keeps.ite | with_reducible apply Block.presentFrame_keeps
    | with_reducible apply Block.waitFrame_keeps
    | exact partsIn_trans (m := [.time, .chans, .adc, .mrg, .frm, .twin, .flt, .regs, .ev, .free]) (by decide) hl | dsimp only)

theorem Block.present_keeps {ps : List Part} {a0 : Block} {b : Block} {k : Link} {l : Nat} {x : LineFrame} {f : CFrame} {margin : Nat}
    (h_ : Keeps ps a0 b) (hl : partsIn [.time, .chans, .adc, .mrg, .frm, .twin, .flt, .regs, .ev, .free] ps = true) :
    Keeps ps a0 (Block.present b k l x f margin) := by
  unfold Block.present
  try dsimp only
  repeat' (first
    | intro _ | with_reducible exact h_ | with_reducible apply Keeps.ite | with_reducible apply Keeps.when
    | with_reducible apply Block.aloneFrame_keeps | with_reducible apply Block.syncFrame_keeps
    | with_reducible apply Block.placeAgain_keeps | with_reducible apply Block.takeOrWait_keeps | with_reducible assumption
    | exact partsIn_trans (m := [.time, .chans, .adc, .mrg, .frm, .twin, .flt, .regs, .ev, .free]) (by decide) hl | dsimp only)

theorem Block.presentWaiting_keeps {ps : List Part} {a0 : Block} {b : Block}
    (h_ : Keeps ps a0 b) (hl : partsIn [.time, .chans, .adc, .mrg, .frm, .twin, .flt, .regs, .ev, .free] ps = true) :
    Keeps ps a0 (Block.presentWaiting b) := by
  unfold Block.presentWaiting
  try dsimp only
  repeat' (first
    | intro _ | with_reducible exact h_ | with_reducible apply Keeps.when | with_reducible apply Keeps.forEach
    | with_reducible apply Block.onLane_keeps | with_reducible apply Block.presentFrame_keeps | with_reducible assumption
    | exact partsIn_trans (m := [.time, .chans, .adc, .mrg, .frm, .twin, .flt, .regs, .ev, .free]) (by decide) hl | split
    | dsimp only)

theorem Block.keepAnnouncement_keeps {ps : List Part} {a0 : Block} {b : Block} {s : Fin 2} {h orbit : Nat} {t : Tod}
    (h_ : Keeps ps a0 b) (hl : partsIn [.time, .regs, .ev] ps = true) :
    Keeps ps a0 (Block.keepAnnouncement b s h orbit t) := by
  unfold Block.keepAnnouncement
  try dsimp only
  repeat' (first
    | intro _ | with_reducible exact h_ | with_reducible apply Keeps.ite | with_reducible apply Block.onDom_keeps
    | with_reducible apply Block.mismatch_keeps | exact partsIn_trans (m := [.time, .regs, .ev]) (by decide) hl | split
    | dsimp only)

theorem Block.downRegion_keeps {ps : List Part} {a0 : Block} {b : Block} {s : Fin 2} {h : Nat} {f : CFrame}
    (h_ : Keeps ps a0 b) (hl : partsIn [.time, .queues, .mrg, .regs, .ev] ps = true) :
    Keeps ps a0 (Block.downRegion b s h f) := by
  unfold Block.downRegion
  try dsimp only
  repeat' (first
    | intro _ | with_reducible exact h_ | with_reducible apply Keeps.ite
    | with_reducible apply Keeps.onTimeRest (by intro _; first | rfl | (split <;> rfl)) | with_reducible apply Block.qBulk_keeps
    | with_reducible apply Block.keepAnnouncement_keeps
    | exact partsIn_trans (m := [.time, .queues, .mrg, .regs, .ev]) (by decide) hl | split | dsimp only
    | with_reducible apply Keeps.time)

theorem Block.regionGone_keeps {ps : List Part} {a0 : Block} {b : Block} {l h : Nat}
    (h_ : Keeps ps a0 b) (hl : partsIn [.chans, .adc, .queues, .mrg, .frm, .twin, .flt, .regs, .ev, .free] ps = true) :
    Keeps ps a0 (Block.regionGone b l h) := by
  unfold Block.regionGone
  try dsimp only
  repeat' (first
    | with_reducible exact h_ | with_reducible apply Block.qMake_keeps | with_reducible apply Block.regionFailed_keeps
    | exact partsIn_trans (m := [.chans, .adc, .queues, .mrg, .frm, .twin, .flt, .regs, .ev, .free]) (by decide) hl | dsimp only)

theorem Block.lastRegion_keeps {ps : List Part} {a0 : Block} {b : Block}
    (h_ : Keeps ps a0 b) (hl : partsIn [.time, .chans, .adc, .queues, .mrg, .frm, .twin, .flt, .regs, .ev, .free] ps = true) :
    Keeps ps a0 (Block.lastRegion b) := by
  unfold Block.lastRegion
  try dsimp only
  repeat' (first
    | intro _ | with_reducible exact h_ | with_reducible apply Keeps.ite | with_reducible apply Block.downRegion_keeps
    | with_reducible apply Block.regionGone_keeps
    | exact partsIn_trans (m := [.time, .chans, .adc, .queues, .mrg, .frm, .twin, .flt, .regs, .ev, .free]) (by decide) hl | split
    | dsimp only)

theorem Block.sideClaim_keeps {ps : List Part} {a0 : Block} {b : Block} {h s : Nat}
    (h_ : Keeps ps a0 b) (hl : partsIn [.regs] ps = true) :
    Keeps ps a0 (Block.sideClaim b h s).2 := by
  unfold Block.sideClaim
  try dsimp only
  repeat' (first
    | with_reducible exact h_ | with_reducible apply Block.claimOf_keeps | exact partsIn_trans (m := [.regs]) (by decide) hl
    | split | dsimp only)

theorem Block.followSide_keeps {ps : List Part} {a0 : Block} {b : Block} {s : Fin 2}
    (h_ : Keeps ps a0 b) (hl : partsIn [.time] ps = true) :
    Keeps ps a0 (Block.followSide b s) := by
  unfold Block.followSide
  try dsimp only
  repeat' (first
    | intro _ | with_reducible exact h_ | with_reducible apply Keeps.ite
    | with_reducible apply Keeps.onTimeRest (by intro _; first | rfl | (split <;> rfl))
    | with_reducible apply Block.planSwitch_keeps | exact partsIn_trans (m := [.time]) (by decide) hl | dsimp only
    | with_reducible apply Keeps.time)

theorem Block.sideChanged_keeps {ps : List Part} {a0 : Block} {b : Block} {s : Fin 2} {cA cB h : Nat}
    (h_ : Keeps ps a0 b) (hl : partsIn [.regs, .ev] ps = true) :
    Keeps ps a0 (Block.sideChanged b s cA cB h) := by
  unfold Block.sideChanged
  try dsimp only
  repeat' (first
    | with_reducible exact h_ | with_reducible apply Block.bump_keeps | with_reducible apply Block.raise_keeps
    | exact partsIn_trans (m := [.regs, .ev]) (by decide) hl | dsimp only)

theorem Block.sideLost_keeps {ps : List Part} {a0 : Block} {b : Block} {h cOther : Nat}
    (h_ : Keeps ps a0 b) (hl : partsIn [.regs, .ev] ps = true) :
    Keeps ps a0 (Block.sideLost b h cOther) := by
  unfold Block.sideLost
  try dsimp only
  repeat' (first
    | with_reducible exact h_ | with_reducible apply Keeps.ite | with_reducible apply Block.bump_keeps
    | with_reducible apply Block.unresolved_keeps | exact partsIn_trans (m := [.regs, .ev]) (by decide) hl | dsimp only)

theorem Block.noSide_keeps {ps : List Part} {a0 : Block} {b : Block} {h : Nat}
    (h_ : Keeps ps a0 b) (hl : partsIn [.frm, .regs, .ev] ps = true) :
    Keeps ps a0 (Block.noSide b h) := by
  unfold Block.noSide
  try dsimp only
  repeat' (first
    | intro _ | with_reducible exact h_ | with_reducible apply Block.onFrm_keeps | with_reducible apply Block.bump_keeps
    | with_reducible apply Block.raiseOnce_keeps | exact partsIn_trans (m := [.frm, .regs, .ev]) (by decide) hl | dsimp only)

theorem Block.obey_keeps {ps : List Part} {a0 : Block} {b : Block} {s : Fin 2} {cA cB h : Nat}
    (h_ : Keeps ps a0 b) (hl : partsIn [.flash, .sets, .time, .chans, .iu, .adc, .acc, .stk, .queues, .mrg, .frm, .cvus, .twin, .flt, .regs, .dict, .ev, .env, .free] ps = true) :
    Keeps ps a0 (Block.obey b s cA cB h) := by
  unfold Block.obey
  try dsimp only
  repeat' (first
    | intro _ | with_reducible exact h_ | with_reducible apply Keeps.ite | with_reducible apply Keeps.when
    | with_reducible apply Keeps.iteFst | with_reducible apply Keeps.iteSnd | with_reducible apply Block.onFrm_keeps
    | with_reducible apply Block.resolve_keeps | with_reducible apply Block.actCommand_keeps
    | with_reducible apply Block.followSide_keeps | with_reducible apply Block.sideChanged_keeps | with_reducible assumption
    | exact partsIn_trans (m := [.flash, .sets, .time, .chans, .iu, .adc, .acc, .stk, .queues, .mrg, .frm, .cvus, .twin, .flt, .regs, .dict, .ev, .env, .free]) (by decide) hl
    | split | dsimp only)

theorem Block.actOn_keeps {ps : List Part} {a0 : Block} {b : Block} {h : Nat}
    (h_ : Keeps ps a0 b) (hl : partsIn [.flash, .sets, .time, .chans, .iu, .adc, .acc, .stk, .queues, .mrg, .frm, .cvus, .twin, .flt, .regs, .dict, .ev, .env, .free] ps = true) :
    Keeps ps a0 (Block.actOn b h) := by
  unfold Block.actOn
  try dsimp only
  repeat' (first
    | intro _ | with_reducible exact h_ | with_reducible apply Keeps.ite | with_reducible apply Keeps.forEach
    | with_reducible apply Keeps.iteFst | with_reducible apply Keeps.iteSnd | with_reducible apply Block.onFrm_keeps
    | with_reducible apply Block.onLane_keeps | with_reducible apply Block.lastRegion_keeps
    | with_reducible apply Block.sideClaim_keeps | with_reducible apply Block.sideLost_keeps
    | with_reducible apply Block.noSide_keeps | with_reducible apply Block.obey_keeps | with_reducible assumption
    | exact partsIn_trans (m := [.flash, .sets, .time, .chans, .iu, .adc, .acc, .stk, .queues, .mrg, .frm, .cvus, .twin, .flt, .regs, .dict, .ev, .env, .free]) (by decide) hl
    | split | dsimp only)

theorem Block.missedFrame_keeps {ps : List Part} {a0 : Block} {b : Block} {k : Link} {l : Nat}
    (h_ : Keeps ps a0 b) (hl : partsIn [.chans, .adc, .mrg, .frm, .twin, .flt, .regs, .ev, .free] ps = true) :
    Keeps ps a0 (Block.missedFrame b k l) := by
  unfold Block.missedFrame
  try dsimp only
  repeat' (first
    | with_reducible exact h_ | with_reducible apply Keeps.ite | with_reducible apply Block.checkLast_keeps
    | with_reducible apply Block.setLast_keeps
    | exact partsIn_trans (m := [.chans, .adc, .mrg, .frm, .twin, .flt, .regs, .ev, .free]) (by decide) hl | split | dsimp only)

theorem Block.portRegions_keeps {ps : List Part} {a0 : Block} {b : Block} {k : Link} {l : Nat}
    (h_ : Keeps ps a0 b) (hl : partsIn [.boot, .chans, .adc, .queues, .mrg, .frm, .twin, .flt, .regs, .dict, .ev, .free] ps = true) :
    Keeps ps a0 (Block.portRegions b k l) := by
  unfold Block.portRegions
  try dsimp only
  repeat' (first
    | intro _ | with_reducible exact h_ | with_reducible apply Keeps.ite | with_reducible apply Keeps.when
    | with_reducible apply Keeps.forEach | with_reducible apply Block.onLane_keeps | with_reducible apply Block.inputFault_keeps
    | with_reducible apply Block.rqRegion_keeps | with_reducible apply Block.rqFailed_keeps
    | with_reducible apply Block.rqRetired_keeps | with_reducible apply Block.missedFrame_keeps | with_reducible assumption
    | exact partsIn_trans (m := [.boot, .chans, .adc, .queues, .mrg, .frm, .twin, .flt, .regs, .dict, .ev, .free]) (by decide) hl
    | dsimp only)

theorem Block.portPrimitive_keeps {ps : List Part} {a0 : Block} {b : Block} {k : Link} {h : Nat}
    (h_ : Keeps ps a0 b) (hl : partsIn [.mrg, .twin, .regs, .ev] ps = true) :
    Keeps ps a0 (Block.portPrimitive b k h).2 := by
  unfold Block.portPrimitive
  try dsimp only
  repeat' (first
    | with_reducible exact h_ | with_reducible apply Keeps.ite | with_reducible apply Keeps.iteFst
    | with_reducible apply Keeps.iteSnd | with_reducible apply Block.bump_keeps | with_reducible apply Block.raiseOnce_keeps
    | with_reducible apply Block.resolve_keeps | with_reducible apply Block.unresolved_keeps
    | with_reducible apply Block.inputFault_keeps | with_reducible apply Block.occPut_keeps
    | exact partsIn_trans (m := [.mrg, .twin, .regs, .ev]) (by decide) hl | dsimp only)

theorem Block.portPrimitives_keeps {ps : List Part} {a0 : Block} {b : Block} {h : Nat} {x0 : List Link} {x1 : Nat}
    (h_ : Keeps ps a0 b) (hl : partsIn [.mrg, .twin, .regs, .ev] ps = true) : Keeps ps a0 (Block.portPrimitives b h x0 x1).2 := by
  induction x0 generalizing b x1 with
  | nil => exact h_
  | cons k t ih => exact ih (Block.portPrimitive_keeps h_ hl)

theorem Block.strayWords_keeps {ps : List Part} {a0 : Block} {b : Block} {l : List Word64}
    (h_ : Keeps ps a0 b) (hl : partsIn [.regs] ps = true) :
    Keeps ps a0 (Block.strayWords b l) := by
  unfold Block.strayWords
  try dsimp only
  repeat' (first
    | intro _ | with_reducible exact h_ | with_reducible apply Block.bump_keeps
    | exact partsIn_trans (m := [.regs]) (by decide) hl | dsimp only)

theorem Block.uplinkRegions_keeps {ps : List Part} {a0 : Block} {b : Block} {k : Link} {l : Nat}
    (h_ : Keeps ps a0 b) (hl : partsIn [.chans, .adc, .queues, .mrg, .frm, .twin, .flt, .regs, .ev, .free] ps = true) :
    Keeps ps a0 (Block.uplinkRegions b k l) := by
  unfold Block.uplinkRegions
  try dsimp only
  repeat' (first
    | intro _ | with_reducible exact h_ | with_reducible apply Keeps.ite | with_reducible apply Keeps.when
    | with_reducible apply Keeps.forEach | with_reducible apply Block.onLane_keeps | with_reducible apply Block.qMake_keeps
    | with_reducible apply Block.qBulk_keeps | with_reducible apply Block.missedFrame_keeps
    | with_reducible apply Block.strayWords_keeps | with_reducible assumption
    | exact partsIn_trans (m := [.chans, .adc, .queues, .mrg, .frm, .twin, .flt, .regs, .ev, .free]) (by decide) hl | dsimp only)

theorem Block.backendCommand_keeps {ps : List Part} {a0 : Block} {b : Block}
    (h_ : Keeps ps a0 b) (hl : partsIn [.flash, .sets, .time, .chans, .iu, .adc, .acc, .stk, .queues, .mrg, .frm, .cvus, .twin, .flt, .regs, .dict, .ev, .env, .free] ps = true) :
    Keeps ps a0 (Block.backendCommand b) := by
  unfold Block.backendCommand
  try dsimp only
  repeat' (first
    | intro _ | with_reducible exact h_ | with_reducible apply Keeps.ite | with_reducible apply Keeps.when
    | with_reducible apply Keeps.forEach | with_reducible apply Keeps.iteFst | with_reducible apply Keeps.iteSnd
    | with_reducible apply Block.resolve_keeps | with_reducible apply Block.unresolved_keeps
    | with_reducible apply Block.claimOf_keeps | with_reducible apply Block.actCommand_keeps
    | with_reducible apply Block.inputFault_keeps | with_reducible assumption
    | exact partsIn_trans (m := [.flash, .sets, .time, .chans, .iu, .adc, .acc, .stk, .queues, .mrg, .frm, .cvus, .twin, .flt, .regs, .dict, .ev, .env, .free]) (by decide) hl
    | split | dsimp only)

theorem Block.forgetFrames_keeps {ps : List Part} {a0 : Block} {b : Block}
    (h_ : Keeps ps a0 b) (hl : partsIn [.frm] ps = true) :
    Keeps ps a0 (Block.forgetFrames b) := by
  unfold Block.forgetFrames
  try dsimp only
  repeat' (first
    | intro _ | with_reducible exact h_ | with_reducible apply Keeps.forEach | with_reducible apply Block.onLane_keeps
    | with_reducible assumption | exact partsIn_trans (m := [.frm]) (by decide) hl | dsimp only)

theorem Block.gather_keeps {ps : List Part} {a0 : Block} {b : Block}
    (h_ : Keeps ps a0 b) (hl : partsIn [.flash, .boot, .sets, .time, .chans, .iu, .adc, .acc, .stk, .queues, .mrg, .frm, .cvus, .twin, .flt, .regs, .dict, .ev, .env, .free] ps = true) :
    Keeps ps a0 (Block.gather b) := by
  unfold Block.gather
  try dsimp only
  repeat' (first
    | intro _ | with_reducible exact h_ | with_reducible apply Keeps.ite | with_reducible apply Keeps.when
    | with_reducible apply Keeps.forEach | with_reducible apply Keeps.iteFst | with_reducible apply Keeps.iteSnd
    | with_reducible apply Block.onAcc_keeps | with_reducible apply Block.selfTest_keeps
    | with_reducible apply Block.inputFault_keeps | with_reducible apply Block.portRegions_keeps
    | with_reducible apply Block.portPrimitives_keeps | with_reducible apply Block.uplinkRegions_keeps
    | with_reducible apply Block.backendCommand_keeps | with_reducible apply Block.forgetFrames_keeps | with_reducible assumption
    | exact partsIn_trans (m := [.flash, .boot, .sets, .time, .chans, .iu, .adc, .acc, .stk, .queues, .mrg, .frm, .cvus, .twin, .flt, .regs, .dict, .ev, .env, .free]) (by decide) hl
    | dsimp only)

theorem Block.coreLock_keeps {ps : List Part} {a0 : Block} {b : Block}
    (h_ : Keeps ps a0 b) (hl : partsIn [.time, .chans, .adc, .mrg, .frm, .twin, .flt, .regs, .ev, .free] ps = true) :
    Keeps ps a0 (Block.coreLock b) := by
  unfold Block.coreLock
  try dsimp only
  repeat' (first
    | intro _ | with_reducible exact h_ | with_reducible apply Keeps.ite | with_reducible apply Keeps.when
    | with_reducible apply Keeps.onTimeRest (by intro _; first | rfl | (split <;> rfl)) | with_reducible apply Block.setReg_keeps
    | with_reducible apply Block.sourceClear_keeps | with_reducible apply Block.wakeLinks_keeps | with_reducible assumption
    | exact partsIn_trans (m := [.time, .chans, .adc, .mrg, .frm, .twin, .flt, .regs, .ev, .free]) (by decide) hl | dsimp only
    | with_reducible apply Keeps.time)

theorem Block.coreUnlock_keeps {ps : List Part} {a0 : Block} {b : Block}
    (h_ : Keeps ps a0 b) (hl : partsIn [.time, .twin, .regs, .ev] ps = true) :
    Keeps ps a0 (Block.coreUnlock b) := by
  unfold Block.coreUnlock
  try dsimp only
  repeat' (first
    | intro _ | with_reducible exact h_ | with_reducible apply Keeps.onTimeRest (by intro _; first | rfl | (split <;> rfl))
    | with_reducible apply Block.raise_keeps | with_reducible apply Block.sourceFail_keeps
    | exact partsIn_trans (m := [.time, .twin, .regs, .ev]) (by decide) hl | dsimp only | with_reducible apply Keeps.time)

theorem Block.beginSet_keeps {ps : List Part} {a0 : Block} {b : Block} {d : Fin 2}
    (h_ : Keeps ps a0 b) (hl : partsIn [.time, .regs, .ev] ps = true) :
    Keeps ps a0 (Block.beginSet b d) := by
  unfold Block.beginSet
  try dsimp only
  repeat' (first
    | intro _ | with_reducible exact h_ | with_reducible apply Keeps.ite | with_reducible apply Block.onDom_keeps
    | with_reducible apply Block.judgeWords_keeps | exact partsIn_trans (m := [.time, .regs, .ev]) (by decide) hl | dsimp only)

theorem Block.setWord_keeps {ps : List Part} {a0 : Block} {b : Block} {d : Fin 2} {slot : Nat} {word : Option Ref48}
    (h_ : Keeps ps a0 b) (hl : partsIn [.time, .regs, .ev] ps = true) :
    Keeps ps a0 (Block.setWord b d slot word) := by
  unfold Block.setWord
  try dsimp only
  repeat' (first
    | intro _ | with_reducible exact h_ | with_reducible apply Keeps.ite | with_reducible apply Keeps.when
    | with_reducible apply Block.onDom_keeps | with_reducible apply Block.compareWord_keeps
    | with_reducible apply Block.beginSet_keeps | with_reducible assumption
    | exact partsIn_trans (m := [.time, .regs, .ev]) (by decide) hl | split | dsimp only)

theorem Block.takeEcho_keeps {ps : List Part} {a0 : Block} {b : Block} {d : Fin 2} {w : Ref48}
    (h_ : Keeps ps a0 b) (hl : partsIn [.time, .regs, .ev] ps = true) :
    Keeps ps a0 (Block.takeEcho b d w) := by
  unfold Block.takeEcho
  try dsimp only
  repeat' (first
    | intro _ | with_reducible exact h_ | with_reducible apply Block.bump_keeps | with_reducible apply Block.raise_keeps
    | with_reducible apply Block.onDom_keeps | exact partsIn_trans (m := [.time, .regs, .ev]) (by decide) hl | split | dsimp only)

theorem Block.domainMarker_keeps {ps : List Part} {a0 : Block} {b : Block} {d : Fin 2} {slot : Nat} {arrival : Int}
    (h_ : Keeps ps a0 b) (hl : partsIn [.time] ps = true) :
    Keeps ps a0 (Block.domainMarker b d slot arrival) := by
  unfold Block.domainMarker
  try dsimp only
  repeat' (first
    | intro _ | with_reducible exact h_ | with_reducible apply Keeps.ite | with_reducible apply Block.onDom_keeps
    | exact partsIn_trans (m := [.time]) (by decide) hl | dsimp only)

theorem Block.domainWord_keeps {ps : List Part} {a0 : Block} {b : Block} {d : Fin 2} {slot : Nat} {word : Option Ref48}
    (h_ : Keeps ps a0 b) (hl : partsIn [.time, .regs, .ev] ps = true) :
    Keeps ps a0 (Block.domainWord b d slot word) := by
  unfold Block.domainWord
  try dsimp only
  repeat' (first
    | with_reducible exact h_ | with_reducible apply Keeps.ite | with_reducible apply Block.bump_keeps
    | with_reducible apply Block.judgeWords_keeps | with_reducible apply Block.setWord_keeps
    | with_reducible apply Block.takeEcho_keeps | exact partsIn_trans (m := [.time, .regs, .ev]) (by decide) hl | split
    | dsimp only)

theorem Block.domRegion_keeps {ps : List Part} {a0 : Block} {b : Block} {l : Nat} {f : CFrame}
    (h_ : Keeps ps a0 b) (hl : partsIn [.chans, .adc, .mrg, .frm, .twin, .flt, .regs, .ev, .free] ps = true) :
    Keeps ps a0 (Block.domRegion b l f) := by
  unfold Block.domRegion
  try dsimp only
  repeat' (first
    | with_reducible exact h_ | with_reducible apply Keeps.ite | with_reducible apply Keeps.iteFst
    | with_reducible apply Keeps.iteSnd | with_reducible apply Block.regionFailed_keeps
    | exact partsIn_trans (m := [.chans, .adc, .mrg, .frm, .twin, .flt, .regs, .ev, .free]) (by decide) hl | split | dsimp only)

theorem Block.domFrame_keeps {ps : List Part} {a0 : Block} {b : Block} {d : Fin 2} {f : CFrame} {margin : Nat}
    (h_ : Keeps ps a0 b) (hl : partsIn [.time, .chans, .adc, .mrg, .frm, .twin, .flt, .regs, .ev, .free] ps = true) :
    Keeps ps a0 (Block.domFrame b d f margin) := by
  unfold Block.domFrame
  try dsimp only
  repeat' (first
    | intro _ | with_reducible exact h_ | with_reducible apply Keeps.ite | with_reducible apply Keeps.when
    | with_reducible apply Keeps.iteFst | with_reducible apply Keeps.iteSnd | with_reducible apply Block.bump_keeps
    | with_reducible apply Block.countCopies_keeps | with_reducible apply Block.resolve_keeps
    | with_reducible apply Block.unresolved_keeps | with_reducible apply Block.dropLink_keeps
    | with_reducible apply Block.setLast_keeps | with_reducible apply Block.domainMarker_keeps
    | with_reducible apply Block.domainWord_keeps | with_reducible apply Block.domRegion_keeps | with_reducible assumption
    | exact partsIn_trans (m := [.time, .chans, .adc, .mrg, .frm, .twin, .flt, .regs, .ev, .free]) (by decide) hl | dsimp only)

theorem Block.domTry_keeps {ps : List Part} {a0 : Block} {b : Block} {d : Fin 2} {f : CFrame} {margin : Nat}
    (h_ : Keeps ps a0 b) (hl : partsIn [.time, .chans, .adc, .mrg, .frm, .twin, .flt, .regs, .ev, .free] ps = true) :
    Keeps ps a0 (Block.domTry b d f margin) := by
  unfold Block.domTry
  try dsimp only
  repeat' (first
    | intro _ | with_reducible exact h_ | with_reducible apply Keeps.ite | with_reducible apply Block.onLane_keeps
    | with_reducible apply Block.linkActive_keeps | with_reducible apply Block.domFrame_keeps
    | exact partsIn_trans (m := [.time, .chans, .adc, .mrg, .frm, .twin, .flt, .regs, .ev, .free]) (by decide) hl | split
    | dsimp only)

theorem Block.domPeer_keeps {ps : List Part} {a0 : Block} {b : Block} {l : Nat} {f : CFrame}
    (h_ : Keeps ps a0 b) (hl : partsIn [.regs] ps = true) :
    Keeps ps a0 (Block.domPeer b l f) := by
  unfold Block.domPeer
  try dsimp only
  repeat' (first
    | with_reducible exact h_ | with_reducible apply Keeps.ite | with_reducible apply Block.setReg_keeps
    | exact partsIn_trans (m := [.regs]) (by decide) hl | split | dsimp only)

theorem Block.timingFrame_keeps {ps : List Part} {a0 : Block} {b : Block} {d : Fin 2} {x : LineFrame} {margin : Nat}
    (h_ : Keeps ps a0 b) (hl : partsIn [.time, .chans, .adc, .mrg, .frm, .twin, .flt, .regs, .ev, .free] ps = true) :
    Keeps ps a0 (Block.timingFrame b d x margin) := by
  unfold Block.timingFrame
  try dsimp only
  repeat' (first
    | intro _ | with_reducible exact h_ | with_reducible apply Keeps.ite | with_reducible apply Keeps.when
    | with_reducible apply Block.polarityFrame_keeps | with_reducible apply Block.lockFrame_keeps
    | with_reducible apply Block.syncFrame_keeps | with_reducible apply Block.lineIn_keeps
    | with_reducible apply Block.domFrame_keeps | with_reducible apply Block.domTry_keeps
    | with_reducible apply Block.domPeer_keeps | with_reducible assumption
    | exact partsIn_trans (m := [.time, .chans, .adc, .mrg, .frm, .twin, .flt, .regs, .ev, .free]) (by decide) hl | split
    | dsimp only)

theorem Block.switchNow_keeps {ps : List Part} {a0 : Block} {b : Block} {target : Nat}
    (h_ : Keeps ps a0 b) (hl : partsIn [.time, .regs, .ev] ps = true) :
    Keeps ps a0 (Block.switchNow b target) := by
  unfold Block.switchNow
  try dsimp only
  repeat' (first
    | intro _ | with_reducible exact h_ | with_reducible apply Keeps.ite
    | with_reducible apply Keeps.onTimeRest (by intro _; first | rfl | (split <;> rfl))
    | with_reducible apply Block.enterHoldover_keeps | with_reducible apply Block.takeDomain_keeps
    | exact partsIn_trans (m := [.time, .regs, .ev]) (by decide) hl | split | dsimp only | with_reducible apply Keeps.time)

theorem Block.qualifiedOrbits_keeps {ps : List Part} {a0 : Block} {b : Block}
    (h_ : Keeps ps a0 b) (hl : partsIn [.time] ps = true) :
    Keeps ps a0 (Block.qualifiedOrbits b) := by
  unfold Block.qualifiedOrbits
  try dsimp only
  repeat' (first
    | intro _ | with_reducible exact h_ | with_reducible apply Keeps.ite | with_reducible apply Block.onDom_keeps
    | exact partsIn_trans (m := [.time]) (by decide) hl | split | dsimp only)

theorem Block.reversion_keeps {ps : List Part} {a0 : Block} {b : Block}
    (h_ : Keeps ps a0 b) (hl : partsIn [.time] ps = true) :
    Keeps ps a0 (Block.reversion b) := by
  unfold Block.reversion
  try dsimp only
  repeat' (first
    | intro _ | with_reducible exact h_ | with_reducible apply Keeps.when | with_reducible apply Block.switchAtOrbit_keeps
    | with_reducible assumption | exact partsIn_trans (m := [.time]) (by decide) hl | split | dsimp only)

theorem Block.writeAlign_keeps {ps : List Part} {a0 : Block} {b : Block} {p d : Nat}
    (h_ : Keeps ps a0 b) (hl : partsIn [.queues, .mrg, .twin, .regs, .dict, .ev] ps = true) :
    Keeps ps a0 (Block.writeAlign b p d) := by
  unfold Block.writeAlign
  try dsimp only
  repeat' (first
    | intro _ | with_reducible exact h_ | with_reducible apply Keeps.ite | with_reducible apply Keeps.iteFst
    | with_reducible apply Keeps.iteSnd | with_reducible apply Block.onTwin_keeps | with_reducible apply Block.onPort_keeps
    | with_reducible apply Block.proxyTagFor_keeps | with_reducible apply Block.ownWrite_keeps
    | exact partsIn_trans (m := [.queues, .mrg, .twin, .regs, .dict, .ev]) (by decide) hl | split | dsimp only)

theorem Block.tripDone_keeps {ps : List Part} {a0 : Block} {b : Block} {p : Nat} {c : PortCampaign}
    (h_ : Keeps ps a0 b) (hl : partsIn [.queues, .mrg, .twin, .regs, .dict, .ev] ps = true) :
    Keeps ps a0 (Block.tripDone b p c) := by
  unfold Block.tripDone
  try dsimp only
  repeat' (first
    | with_reducible exact h_ | with_reducible apply Keeps.ite | with_reducible apply Block.setReg_keeps
    | with_reducible apply Block.raise_keeps | with_reducible apply Block.writeAlign_keeps
    | exact partsIn_trans (m := [.queues, .mrg, .twin, .regs, .dict, .ev]) (by decide) hl | dsimp only)

theorem Block.tripEnd_keeps {ps : List Part} {a0 : Block} {b : Block} {p : Nat} {c : PortCampaign}
    (h_ : Keeps ps a0 b) (hl : partsIn [.time, .queues, .mrg, .twin, .regs, .dict, .ev] ps = true) :
    Keeps ps a0 (Block.tripEnd b p c) := by
  unfold Block.tripEnd
  try dsimp only
  repeat' (first
    | intro _ | with_reducible exact h_ | with_reducible apply Keeps.ite
    | with_reducible apply Keeps.onTimeRest (by intro _; first | rfl | (split <;> rfl)) | with_reducible apply Block.setReg_keeps
    | with_reducible apply Block.raise_keeps | with_reducible apply Block.tripDone_keeps
    | exact partsIn_trans (m := [.time, .queues, .mrg, .twin, .regs, .dict, .ev]) (by decide) hl | dsimp only
    | with_reducible apply Keeps.time)

theorem Block.beginTrip_keeps {ps : List Part} {a0 : Block} {b : Block} {p : Nat} {first : Bool}
    (h_ : Keeps ps a0 b) (hl : partsIn [.time] ps = true) :
    Keeps ps a0 (Block.beginTrip b p first) := by
  unfold Block.beginTrip
  try dsimp only
  repeat' (first
    | intro _ | with_reducible exact h_ | with_reducible apply Keeps.onTimeRest (by intro _; first | rfl | (split <;> rfl))
    | exact partsIn_trans (m := [.time]) (by decide) hl | dsimp only | with_reducible apply Keeps.time)

theorem Block.trips_keeps {ps : List Part} {a0 : Block} {b : Block}
    (h_ : Keeps ps a0 b) (hl : partsIn [.time, .mrg] ps = true) :
    Keeps ps a0 (Block.trips b) := by
  unfold Block.trips
  try dsimp only
  repeat' (first
    | intro _ | with_reducible exact h_ | with_reducible apply Keeps.ite | with_reducible apply Keeps.when
    | with_reducible apply Keeps.forEach | with_reducible apply Keeps.onTimeRest (by intro _; first | rfl | (split <;> rfl))
    | with_reducible apply Block.onPort_keeps | with_reducible apply Block.beginTrip_keeps | with_reducible assumption
    | exact partsIn_trans (m := [.time, .mrg]) (by decide) hl | dsimp only | with_reducible apply Keeps.time)

theorem Block.applyAlign_keeps {ps : List Part} {a0 : Block} {b : Block} {side d : Nat}
    (h_ : Keeps ps a0 b) (hl : partsIn [.boot, .time, .frm, .regs, .ev] ps = true) :
    Keeps ps a0 (Block.applyAlign b side d) := by
  unfold Block.applyAlign
  try dsimp only
  repeat' (first
    | intro _ | with_reducible exact h_ | with_reducible apply Keeps.ite
    | with_reducible apply Keeps.onBootRest (by intro _; first | exact ⟨rfl, rfl⟩ | (split <;> exact ⟨rfl, rfl⟩))
    | with_reducible apply Keeps.onTimeRest (by intro _; first | rfl | (split <;> rfl)) | with_reducible apply Block.onLane_keeps
    | with_reducible apply Block.setReg_keeps | with_reducible apply Block.raise_keeps | with_reducible apply Block.slewBy_keeps
    | exact partsIn_trans (m := [.boot, .time, .frm, .regs, .ev]) (by decide) hl | dsimp only | with_reducible apply Keeps.boot
    | with_reducible apply Keeps.time)

theorem Block.applyAligns_keeps {ps : List Part} {a0 : Block} {b : Block}
    (h_ : Keeps ps a0 b) (hl : partsIn [.boot, .time, .frm, .regs, .ev] ps = true) :
    Keeps ps a0 (Block.applyAligns b) := by
  unfold Block.applyAligns
  try dsimp only
  repeat' (first
    | intro _ | with_reducible exact h_ | with_reducible apply Keeps.forEach
    | with_reducible apply Keeps.onTimeRest (by intro _; first | rfl | (split <;> rfl))
    | with_reducible apply Block.applyAlign_keeps | with_reducible assumption
    | exact partsIn_trans (m := [.boot, .time, .frm, .regs, .ev]) (by decide) hl | dsimp only | with_reducible apply Keeps.time)

theorem Block.takeAnnounced_keeps {ps : List Part} {a0 : Block} {b : Block}
    (h_ : Keeps ps a0 b) (hl : partsIn [.time] ps = true) :
    Keeps ps a0 (Block.takeAnnounced b) := by
  unfold Block.takeAnnounced
  try dsimp only
  repeat' (first
    | intro _ | with_reducible exact h_ | with_reducible apply Keeps.onTimeRest (by intro _; first | rfl | (split <;> rfl))
    | exact partsIn_trans (m := [.time]) (by decide) hl | split | dsimp only | with_reducible apply Keeps.time)

theorem Block.todOrbit_keeps {ps : List Part} {a0 : Block} {b : Block} {lastLen : Nat}
    (h_ : Keeps ps a0 b) (hl : partsIn [.time, .regs, .ev] ps = true) :
    Keeps ps a0 (Block.todOrbit b lastLen) := by
  unfold Block.todOrbit
  try dsimp only
  repeat' (first
    | with_reducible exact h_ | with_reducible apply Keeps.ite | with_reducible apply Block.todSlot0_keeps
    | with_reducible apply Block.takeAnnounced_keeps | exact partsIn_trans (m := [.time, .regs, .ev]) (by decide) hl | dsimp only)

theorem Block.domDelays_keeps {ps : List Part} {a0 : Block} {b : Block}
    (h_ : Keeps ps a0 b) (hl : partsIn [.time] ps = true) :
    Keeps ps a0 (Block.domDelays b) := by
  unfold Block.domDelays
  try dsimp only
  repeat' (first
    | intro _ | with_reducible exact h_ | with_reducible apply Keeps.ite | with_reducible apply Block.onDom_keeps
    | exact partsIn_trans (m := [.time]) (by decide) hl | dsimp only)

theorem Block.poisonRq_keeps {ps : List Part} {a0 : Block} {b : Block} {p : Nat} {w : QWord}
    (h_ : Keeps ps a0 b) (hl : partsIn [.mrg, .twin, .regs, .ev] ps = true) :
    Keeps ps a0 (Block.poisonRq b p w) := by
  unfold Block.poisonRq
  try dsimp only
  repeat' (first
    | with_reducible exact h_ | with_reducible apply Block.inputFault_keeps | with_reducible apply Block.portWithdrawals_keeps
    | exact partsIn_trans (m := [.mrg, .twin, .regs, .ev]) (by decide) hl | dsimp only)

theorem Block.poisonQueue_keeps {ps : List Part} {a0 : Block} {b : Block} {q place : Nat}
    (h_ : Keeps ps a0 b) (hl : partsIn [.queues, .mrg, .twin, .regs, .ev] ps = true) :
    Keeps ps a0 (Block.poisonQueue b q place) := by
  unfold Block.poisonQueue
  try dsimp only
  repeat' (first
    | intro _ | with_reducible exact h_ | with_reducible apply Keeps.ite | with_reducible apply Block.onQueue_keeps
    | with_reducible apply Block.queueNotice_keeps | with_reducible apply Block.poisonRq_keeps
    | exact partsIn_trans (m := [.queues, .mrg, .twin, .regs, .ev]) (by decide) hl | split | dsimp only)

theorem Block.poisonStore_keeps {ps : List Part} {a0 : Block} {b : Block} {l word : Nat}
    (h_ : Keeps ps a0 b) (hl : partsIn [.frm] ps = true) :
    Keeps ps a0 (Block.poisonStore b l word) := by
  unfold Block.poisonStore
  try dsimp only
  repeat' (first
    | intro _ | with_reducible exact h_ | with_reducible apply Keeps.ite | with_reducible apply Block.onLane_keeps
    | exact partsIn_trans (m := [.frm]) (by decide) hl | split | dsimp only)

theorem Block.poisonWord_keeps {ps : List Part} {a0 : Block} {b : Block} {f : ScrubFind}
    (h_ : Keeps ps a0 b) (hl : partsIn [.sets, .adc, .stk, .queues, .mrg, .frm, .twin, .regs, .ev] ps = true) :
    Keeps ps a0 (Block.poisonWord b f) := by
  have hm : ∀ k, partsIn k [.sets, .adc, .stk, .queues, .mrg, .frm, .twin, .regs, .ev] = true → partsIn k ps = true := fun k h => partsIn_trans h hl
  unfold Block.poisonWord
  split
  · exact Block.poisonEntry_keeps h_ (hm _ (by decide))
  · exact Block.poisonDirectory_keeps h_ (hm _ (by decide))
  · exact Block.poisonQueue_keeps h_ (hm _ (by decide))
  · exact Block.poisonStore_keeps h_ (hm _ (by decide))
  · exact Block.onUplink_keeps h_ (hm _ (by decide))
  · exact Block.onUplink_keeps h_ (hm _ (by decide))
  · exact Block.onEv_keeps h_ (hm _ (by decide))
  · exact Block.onAdc_keeps h_ (hm _ (by decide))
  · exact Block.onSets_keeps h_ (hm _ (by decide))
  · exact Block.bump_keeps h_ (hm _ (by decide))
  · exact Block.bump_keeps h_ (hm _ (by decide))
  · exact h_

theorem Block.poisonRetry_keeps {ps : List Part} {a0 : Block} {b : Block} {f : ScrubFind}
    (h_ : Keeps ps a0 b) (hl : partsIn [.chans, .adc, .mrg, .frm, .twin, .flt, .regs, .ev, .free] ps = true) :
    Keeps ps a0 (Block.poisonRetry b f) := by
  unfold Block.poisonRetry
  try dsimp only
  repeat' (first
    | intro _ | with_reducible exact h_ | with_reducible apply Keeps.ite | with_reducible apply Block.retryFailed_keeps
    | exact partsIn_trans (m := [.chans, .adc, .mrg, .frm, .twin, .flt, .regs, .ev, .free]) (by decide) hl | split | dsimp only)

theorem Block.uncorrectable_keeps {ps : List Part} {a0 : Block} {b : Block} {f : ScrubFind}
    (h_ : Keeps ps a0 b) (hl : partsIn [.sets, .chans, .adc, .stk, .queues, .mrg, .frm, .twin, .flt, .regs, .ev, .free] ps = true) :
    Keeps ps a0 (Block.uncorrectable b f) := by
  unfold Block.uncorrectable
  try dsimp only
  repeat' (first
    | intro _ | with_reducible exact h_ | with_reducible apply Keeps.ite | with_reducible apply Keeps.when
    | with_reducible apply Block.onTwin_keeps | with_reducible apply Block.onFlt_keeps | with_reducible apply Block.setReg_keeps
    | with_reducible apply Block.bump_keeps | with_reducible apply Block.raiseOnce_keeps
    | with_reducible apply Block.sourceFail_keeps | with_reducible apply Block.testFails_keeps
    | with_reducible apply Block.transient_keeps | with_reducible apply Block.poisonWord_keeps
    | with_reducible apply Block.poisonRetry_keeps | with_reducible assumption
    | exact partsIn_trans (m := [.sets, .chans, .adc, .stk, .queues, .mrg, .frm, .twin, .flt, .regs, .ev, .free]) (by decide) hl
    | dsimp only)

theorem Block.corrected_keeps {ps : List Part} {a0 : Block} {b : Block} {f : ScrubFind}
    (h_ : Keeps ps a0 b) (hl : partsIn [.regs] ps = true) :
    Keeps ps a0 (Block.corrected b f) := by
  unfold Block.corrected
  try dsimp only
  repeat' (first
    | with_reducible exact h_ | with_reducible apply Block.bump_keeps | exact partsIn_trans (m := [.regs]) (by decide) hl | split
    | dsimp only)

theorem Block.scrubFind_keeps {ps : List Part} {a0 : Block} {b : Block} {f : ScrubFind}
    (h_ : Keeps ps a0 b) (hl : partsIn [.sets, .chans, .adc, .stk, .queues, .mrg, .frm, .twin, .flt, .regs, .ev, .free] ps = true) :
    Keeps ps a0 (Block.scrubFind b f) := by
  unfold Block.scrubFind
  try dsimp only
  repeat' (first
    | with_reducible exact h_ | with_reducible apply Keeps.ite | with_reducible apply Block.uncorrectable_keeps
    | with_reducible apply Block.corrected_keeps
    | exact partsIn_trans (m := [.sets, .chans, .adc, .stk, .queues, .mrg, .frm, .twin, .flt, .regs, .ev, .free]) (by decide) hl
    | dsimp only)

theorem Block.scrubAged_keeps {ps : List Part} {a0 : Block} {b : Block}
    (h_ : Keeps ps a0 b) (hl : partsIn [.twin, .flt] ps = true) :
    Keeps ps a0 (Block.scrubAged b) := by
  unfold Block.scrubAged
  try dsimp only
  repeat' (first
    | intro _ | with_reducible exact h_ | with_reducible apply Keeps.ite | with_reducible apply Keeps.forEach
    | with_reducible apply Block.onFlt_keeps | with_reducible apply Block.sourceClear_keeps
    | with_reducible apply Block.retryOk_keeps | with_reducible assumption
    | exact partsIn_trans (m := [.twin, .flt]) (by decide) hl | dsimp only)

theorem Block.scrub_keeps {ps : List Part} {a0 : Block} {b : Block} {found : List ScrubFind}
    (h_ : Keeps ps a0 b) (hl : partsIn [.sets, .chans, .adc, .stk, .queues, .mrg, .frm, .twin, .flt, .regs, .ev, .free] ps = true) :
    Keeps ps a0 (Block.scrub b found) := by
  unfold Block.scrub
  try dsimp only
  repeat' (first
    | intro _ | with_reducible exact h_ | with_reducible apply Keeps.forEach | with_reducible apply Block.scrubFind_keeps
    | with_reducible apply Block.scrubAged_keeps | with_reducible assumption
    | exact partsIn_trans (m := [.sets, .chans, .adc, .stk, .queues, .mrg, .frm, .twin, .flt, .regs, .ev, .free]) (by decide) hl
    | dsimp only)

theorem Block.shutdownLevel_keeps {ps : List Part} {a0 : Block} {b : Block} {sensor : Nat}
    (h_ : Keeps ps a0 b) (hl : partsIn [.boot, .regs, .ev] ps = true) :
    Keeps ps a0 (Block.shutdownLevel b sensor) := by
  unfold Block.shutdownLevel
  try dsimp only
  repeat' (first
    | intro _ | with_reducible exact h_ | with_reducible apply Keeps.ite
    | with_reducible apply Keeps.onBootRest (by intro _; first | exact ⟨rfl, rfl⟩ | (split <;> exact ⟨rfl, rfl⟩))
    | with_reducible apply Block.raise_keeps | exact partsIn_trans (m := [.boot, .regs, .ev]) (by decide) hl | dsimp only
    | with_reducible apply Keeps.boot)

theorem Block.tempMeasured_keeps {ps : List Part} {a0 : Block} {b : Block} {readings : List Int}
    (h_ : Keeps ps a0 b) (hl : partsIn [.boot, .bin, .twin, .regs, .ev, .env] ps = true) :
    Keeps ps a0 (Block.tempMeasured b readings) := by
  unfold Block.tempMeasured
  try dsimp only
  repeat' (first
    | with_reducible exact h_ | with_reducible apply Block.measureTemp_keeps | with_reducible apply Block.shutdownLevel_keeps
    | exact partsIn_trans (m := [.boot, .bin, .twin, .regs, .ev, .env]) (by decide) hl | dsimp only)

theorem Block.measuresNow_keeps {ps : List Part} {a0 : Block} {b : Block}
    (h_ : Keeps ps a0 b) (hl : partsIn [.boot, .bin, .twin, .regs, .ev, .env] ps = true) :
    Keeps ps a0 (Block.measuresNow b) := by
  unfold Block.measuresNow
  try dsimp only
  repeat' (first
    | intro _ | with_reducible exact h_ | with_reducible apply Keeps.when | with_reducible apply Keeps.forEach
    | with_reducible apply Block.onEnv_keeps | with_reducible apply Block.bump_keeps
    | with_reducible apply Block.tempMeasured_keeps | with_reducible assumption
    | exact partsIn_trans (m := [.boot, .bin, .twin, .regs, .ev, .env]) (by decide) hl | dsimp only)

theorem Block.jtagInstr_keeps {ps : List Part} {a0 : Block} {b : Block} {code : BitVec 8} {select : Nat} {mode : JtagMode}
    (h_ : Keeps ps a0 b) (hl : partsIn [.jtag] ps = true) :
    Keeps ps a0 (Block.jtagInstr b code select mode) := by
  unfold Block.jtagInstr
  try dsimp only
  repeat' (first
    | intro _ | with_reducible exact h_ | with_reducible apply Block.onJtag_keeps
    | exact partsIn_trans (m := [.jtag]) (by decide) hl | dsimp only)

theorem Block.sampleBalls_keeps {ps : List Part} {a0 : Block} {b : Block} {load : Option (List Bool)}
    (h_ : Keeps ps a0 b) (hl : partsIn [.jtag, .free] ps = true) :
    Keeps ps a0 (Block.sampleBalls b load) := by
  unfold Block.sampleBalls
  try dsimp only
  repeat' (first
    | intro _ | with_reducible exact h_ | with_reducible apply Block.onJtag_keeps
    | exact partsIn_trans (m := [.jtag, .free]) (by decide) hl | split | dsimp only | with_reducible apply Keeps.free)

theorem Block.prevCrc_keeps {ps : List Part} {a0 : Block} {b : Block} {l : Nat}
    (h_ : Keeps ps a0 b) (hl : partsIn [.free] ps = true) :
    Keeps ps a0 (Block.prevCrc b l).2 := by
  unfold Block.prevCrc
  try dsimp only
  repeat' (first
    | with_reducible exact h_ | with_reducible apply Block.freeNext_keeps | exact partsIn_trans (m := [.free]) (by decide) hl
    | split | dsimp only)

theorem Block.sendFrame_keeps {ps : List Part} {a0 : Block} {b : Block} {l code claim x : Nat} {ref : Ref48} {region : List Word64} {poisoned : Bool}
    (h_ : Keeps ps a0 b) (hl : partsIn [.frm, .free] ps = true) :
    Keeps ps a0 (Block.sendFrame b l code claim x ref region poisoned) := by
  unfold Block.sendFrame
  try dsimp only
  repeat' (first
    | intro _ | with_reducible exact h_ | with_reducible apply Block.onLane_keeps | with_reducible apply Block.prevCrc_keeps
    | exact partsIn_trans (m := [.frm, .free]) (by decide) hl | dsimp only)

theorem Block.prbsFrames_keeps {ps : List Part} {a0 : Block} {b : Block}
    (h_ : Keeps ps a0 b) (hl : partsIn [.frm] ps = true) :
    Keeps ps a0 (Block.prbsFrames b) := by
  unfold Block.prbsFrames
  try dsimp only
  repeat' (first
    | intro _ | with_reducible exact h_ | with_reducible apply Keeps.ite | with_reducible apply Block.onFrm_keeps
    | exact partsIn_trans (m := [.frm]) (by decide) hl | dsimp only)

theorem Block.takeRegion_keeps {ps : List Part} {a0 : Block} {b : Block} {q : Nat}
    (h_ : Keeps ps a0 b) (hl : partsIn [.queues, .regs, .ev] ps = true) :
    Keeps ps a0 (Block.takeRegion b q).2 := by
  unfold Block.takeRegion
  try dsimp only
  repeat' (first
    | with_reducible exact h_ | with_reducible apply Keeps.ite | with_reducible apply Keeps.iteFst
    | with_reducible apply Keeps.iteSnd | with_reducible apply Block.qRead_keeps
    | exact partsIn_trans (m := [.queues, .regs, .ev]) (by decide) hl | split | dsimp only)

theorem Block.sendTraining_keeps {ps : List Part} {a0 : Block} {b : Block} {k : Link} {l : Nat}
    (h_ : Keeps ps a0 b) (hl : partsIn [.frm, .free] ps = true) :
    Keeps ps a0 (Block.sendTraining b k l) := by
  unfold Block.sendTraining
  try dsimp only
  repeat' (first
    | intro _ | with_reducible exact h_ | with_reducible apply Keeps.when | with_reducible apply Block.onLane_keeps
    | with_reducible apply Block.sendFrame_keeps | with_reducible assumption
    | exact partsIn_trans (m := [.frm, .free]) (by decide) hl | dsimp only)

theorem Block.trainingFrames_keeps {ps : List Part} {a0 : Block} {b : Block}
    (h_ : Keeps ps a0 b) (hl : partsIn [.frm, .free] ps = true) :
    Keeps ps a0 (Block.trainingFrames b) := by
  unfold Block.trainingFrames
  try dsimp only
  repeat' (first
    | intro _ | with_reducible exact h_ | with_reducible apply Keeps.when | with_reducible apply Keeps.forEach
    | with_reducible apply Block.sendTraining_keeps | with_reducible assumption
    | exact partsIn_trans (m := [.frm, .free]) (by decide) hl | dsimp only)

theorem Block.outSlot_keeps {ps : List Part} {a0 : Block} {b : Block}
    (h_ : Keeps ps a0 b) (hl : partsIn [.frm] ps = true) :
    Keeps ps a0 (Block.outSlot b).2 := by
  unfold Block.outSlot
  try dsimp only
  repeat' (first
    | intro _ | with_reducible exact h_ | with_reducible apply Keeps.ite | with_reducible apply Keeps.iteFst
    | with_reducible apply Keeps.iteSnd | with_reducible apply Block.onFrm_keeps
    | exact partsIn_trans (m := [.frm]) (by decide) hl | dsimp only)

theorem Block.rankRegion_keeps {ps : List Part} {a0 : Block} {b : Block} {r : Nat}
    (h_ : Keeps ps a0 b) (hl : partsIn [.queues, .frm, .regs, .ev] ps = true) :
    Keeps ps a0 (Block.rankRegion b r).2 := by
  unfold Block.rankRegion
  try dsimp only
  repeat' (first
    | intro _ | with_reducible exact h_ | with_reducible apply Keeps.ite | with_reducible apply Keeps.when
    | with_reducible apply Keeps.iteFst | with_reducible apply Keeps.iteSnd | with_reducible apply Block.onFrm_keeps
    | with_reducible apply Block.takeRegion_keeps | with_reducible apply Block.outSlot_keeps | with_reducible assumption
    | exact partsIn_trans (m := [.queues, .frm, .regs, .ev]) (by decide) hl | dsimp only)

theorem Block.workerFrames_keeps {ps : List Part} {a0 : Block} {b : Block}
    (h_ : Keeps ps a0 b) (hl : partsIn [.queues, .frm, .regs, .ev, .free] ps = true) :
    Keeps ps a0 (Block.workerFrames b) := by
  unfold Block.workerFrames
  try dsimp only
  repeat' (first
    | intro _ | with_reducible exact h_ | with_reducible apply Keeps.ite | with_reducible apply Keeps.forEach
    | with_reducible apply Keeps.iteFst | with_reducible apply Keeps.iteSnd | with_reducible apply Block.sendFrame_keeps
    | with_reducible apply Block.rankRegion_keeps | with_reducible assumption
    | exact partsIn_trans (m := [.queues, .frm, .regs, .ev, .free]) (by decide) hl | dsimp only)

theorem Block.downlinkRegion_keeps {ps : List Part} {a0 : Block} {b : Block} {l : Nat}
    (h_ : Keeps ps a0 b) (hl : partsIn [.queues, .regs, .ev] ps = true) :
    Keeps ps a0 (Block.downlinkRegion b l).2 := by
  unfold Block.downlinkRegion
  try dsimp only
  repeat' (first
    | with_reducible exact h_ | with_reducible apply Keeps.ite | with_reducible apply Keeps.iteFst
    | with_reducible apply Keeps.iteSnd | with_reducible apply Block.takeRegion_keeps
    | exact partsIn_trans (m := [.queues, .regs, .ev]) (by decide) hl | split | dsimp only)

theorem Block.downlinkFrames_keeps {ps : List Part} {a0 : Block} {b : Block}
    (h_ : Keeps ps a0 b) (hl : partsIn [.time, .queues, .frm, .regs, .ev, .free] ps = true) :
    Keeps ps a0 (Block.downlinkFrames b) := by
  unfold Block.downlinkFrames
  try dsimp only
  repeat' (first
    | intro _ | with_reducible exact h_ | with_reducible apply Keeps.ite | with_reducible apply Keeps.when
    | with_reducible apply Keeps.forEach | with_reducible apply Keeps.iteFst | with_reducible apply Keeps.iteSnd
    | with_reducible apply Keeps.onTimeRest (by intro _; first | rfl | (split <;> rfl))
    | with_reducible apply Block.sendFrame_keeps | with_reducible apply Block.downlinkRegion_keeps | with_reducible assumption
    | exact partsIn_trans (m := [.time, .queues, .frm, .regs, .ev, .free]) (by decide) hl | dsimp only
    | with_reducible apply Keeps.time)

theorem Block.colophonSent_keeps {ps : List Part} {a0 : Block} {b : Block} {u : Nat} {w : QWord}
    (h_ : Keeps ps a0 b) (hl : partsIn [.twin] ps = true) :
    Keeps ps a0 (Block.colophonSent b u w) := by
  unfold Block.colophonSent
  try dsimp only
  repeat' (first
    | intro _ | with_reducible exact h_ | with_reducible apply Keeps.when | with_reducible apply Block.onTwin_keeps
    | with_reducible assumption | exact partsIn_trans (m := [.twin]) (by decide) hl | split | dsimp only)

theorem Block.dropHead_keeps {ps : List Part} {a0 : Block} {b : Block} {u : Nat}
    (h_ : Keeps ps a0 b) (hl : partsIn [.queues, .twin, .regs, .ev] ps = true) :
    Keeps ps a0 (Block.dropHead b u) := by
  unfold Block.dropHead
  try dsimp only
  repeat' (first
    | intro _ | with_reducible exact h_ | with_reducible apply Block.onQueue_keeps | with_reducible apply Block.queueNotice_keeps
    | with_reducible apply Block.colophonSent_keeps | exact partsIn_trans (m := [.queues, .twin, .regs, .ev]) (by decide) hl
    | split | dsimp only)

theorem Block.uplinkRegion_keeps {ps : List Part} {a0 : Block} {b : Block} {u l : Nat}
    (h_ : Keeps ps a0 b) (hl : partsIn [.queues, .mrg, .twin, .regs, .ev] ps = true) :
    Keeps ps a0 (Block.uplinkRegion b u l).2 := by
  unfold Block.uplinkRegion
  try dsimp only
  repeat' (first
    | intro _ | with_reducible exact h_ | with_reducible apply Keeps.ite | with_reducible apply Keeps.iteFst
    | with_reducible apply Keeps.iteSnd | with_reducible apply Block.onUplink_keeps | with_reducible apply Block.takeRegion_keeps
    | with_reducible apply Block.colophonSent_keeps | with_reducible apply Block.dropHead_keeps
    | exact partsIn_trans (m := [.queues, .mrg, .twin, .regs, .ev]) (by decide) hl | split | dsimp only)

theorem Block.uplinkFrames_keeps {ps : List Part} {a0 : Block} {b : Block}
    (h_ : Keeps ps a0 b) (hl : partsIn [.queues, .mrg, .frm, .twin, .regs, .ev, .free] ps = true) :
    Keeps ps a0 (Block.uplinkFrames b) := by
  unfold Block.uplinkFrames
  try dsimp only
  repeat' (first
    | intro _ | with_reducible exact h_ | with_reducible apply Keeps.when | with_reducible apply Keeps.forEach
    | with_reducible apply Block.onUplink_keeps | with_reducible apply Block.sendFrame_keeps
    | with_reducible apply Block.uplinkRegion_keeps | with_reducible assumption
    | exact partsIn_trans (m := [.queues, .mrg, .frm, .twin, .regs, .ev, .free]) (by decide) hl | dsimp only)

theorem Block.sideFrames_keeps {ps : List Part} {a0 : Block} {b : Block}
    (h_ : Keeps ps a0 b) (hl : partsIn [.frm, .free] ps = true) :
    Keeps ps a0 (Block.sideFrames b) := by
  unfold Block.sideFrames
  try dsimp only
  repeat' (first
    | intro _ | with_reducible exact h_ | with_reducible apply Keeps.ite | with_reducible apply Keeps.when
    | with_reducible apply Keeps.forEach | with_reducible apply Block.sendFrame_keeps | with_reducible assumption
    | exact partsIn_trans (m := [.frm, .free]) (by decide) hl | dsimp only)

theorem Block.keepDigest_keeps {ps : List Part} {a0 : Block} {b : Block}
    (h_ : Keeps ps a0 b) (hl : partsIn [.twin] ps = true) :
    Keeps ps a0 (Block.keepDigest b) := by
  unfold Block.keepDigest
  try dsimp only
  repeat' (first
    | intro _ | with_reducible exact h_ | with_reducible apply Keeps.when | with_reducible apply Block.onTwin_keeps
    | with_reducible assumption | exact partsIn_trans (m := [.twin]) (by decide) hl | dsimp only)

theorem Block.spanNow_keeps {ps : List Part} {a0 : Block} {b : Block}
    (h_ : Keeps ps a0 b) (hl : partsIn [.twin] ps = true) :
    Keeps ps a0 (Block.spanNow b) := by
  unfold Block.spanNow
  try dsimp only
  repeat' (first
    | intro _ | with_reducible exact h_ | with_reducible apply Keeps.ite | with_reducible apply Block.onTwin_keeps
    | exact partsIn_trans (m := [.twin]) (by decide) hl | dsimp only)

theorem Block.mirrorOut_keeps {ps : List Part} {a0 : Block} {b : Block}
    (h_ : Keeps ps a0 b) (hl : partsIn [.twin] ps = true) :
    Keeps ps a0 (Block.mirrorOut b).2 := by
  unfold Block.mirrorOut
  try dsimp only
  repeat' (first
    | intro _ | with_reducible exact h_ | with_reducible apply Block.onTwin_keeps
    | exact partsIn_trans (m := [.twin]) (by decide) hl | dsimp only)

theorem Block.twinWords_keeps {ps : List Part} {a0 : Block} {b : Block}
    (h_ : Keeps ps a0 b) (hl : partsIn [.twin] ps = true) :
    Keeps ps a0 (Block.twinWords b) := by
  unfold Block.twinWords
  try dsimp only
  repeat' (first
    | intro _ | with_reducible exact h_ | with_reducible apply Keeps.when | with_reducible apply Block.onTwin_keeps
    | with_reducible apply Block.mirrorOut_keeps | with_reducible assumption | exact partsIn_trans (m := [.twin]) (by decide) hl
    | dsimp only)

theorem Block.sendFrames_keeps {ps : List Part} {a0 : Block} {b : Block}
    (h_ : Keeps ps a0 b) (hl : partsIn [.time, .queues, .mrg, .frm, .twin, .regs, .ev, .free] ps = true) :
    Keeps ps a0 (Block.sendFrames b) := by
  unfold Block.sendFrames
  try dsimp only
  repeat' (first
    | with_reducible exact h_ | with_reducible apply Keeps.ite | with_reducible apply Block.prbsFrames_keeps
    | with_reducible apply Block.trainingFrames_keeps | with_reducible apply Block.workerFrames_keeps
    | with_reducible apply Block.downlinkFrames_keeps | with_reducible apply Block.uplinkFrames_keeps
    | with_reducible apply Block.sideFrames_keeps | with_reducible apply Block.keepDigest_keeps
    | exact partsIn_trans (m := [.time, .queues, .mrg, .frm, .twin, .regs, .ev, .free]) (by decide) hl | dsimp only)

theorem Block.twinItems_keeps {ps : List Part} {a0 : Block} {b : Block}
    (h_ : Keeps ps a0 b) (hl : partsIn [.queues, .mrg, .twin, .regs, .ev] ps = true) :
    Keeps ps a0 (Block.twinItems b) := by
  unfold Block.twinItems
  try dsimp only
  repeat' (first
    | intro _ | with_reducible exact h_ | with_reducible apply Keeps.forEach | with_reducible apply Block.onTwin_keeps
    | with_reducible apply Block.mirrored_keeps | with_reducible assumption
    | exact partsIn_trans (m := [.queues, .mrg, .twin, .regs, .ev]) (by decide) hl | split | dsimp only)

theorem Block.partnerTold_keeps {ps : List Part} {a0 : Block} {b : Block}
    (h_ : Keeps ps a0 b) (hl : partsIn [.mrg, .twin, .flt, .regs, .ev, .free] ps = true) :
    Keeps ps a0 (Block.partnerTold b) := by
  unfold Block.partnerTold
  try dsimp only
  repeat' (first
    | intro _ | with_reducible exact h_ | with_reducible apply Keeps.forEach | with_reducible apply Block.onTwin_keeps
    | with_reducible apply Block.partnerService_keeps | with_reducible assumption
    | exact partsIn_trans (m := [.mrg, .twin, .flt, .regs, .ev, .free]) (by decide) hl | dsimp only)

theorem Block.finishC_keeps {ps : List Part} {a0 : Block} {b : Block}
    (h_ : Keeps ps a0 b) (hl : partsIn [.flash, .boot, .sets, .time, .chans, .iu, .adc, .acc, .stk, .queues, .mrg, .frm, .cvus, .twin, .flt, .regs, .dict, .ev, .env, .free] ps = true) :
    Keeps ps a0 (Block.finishC b) := by
  unfold Block.finishC
  try dsimp only
  repeat' (first
    | intro _ | with_reducible exact h_ | with_reducible apply Block.twinCount_keeps
    | with_reducible apply Block.portsUpdate_keeps | with_reducible apply Block.merge_keeps
    | with_reducible apply Block.gather_keeps | with_reducible apply Block.twinWords_keeps
    | with_reducible apply Block.twinItems_keeps | with_reducible apply Block.partnerTold_keeps
    | exact partsIn_trans (m := [.flash, .boot, .sets, .time, .chans, .iu, .adc, .acc, .stk, .queues, .mrg, .frm, .cvus, .twin, .flt, .regs, .dict, .ev, .env, .free]) (by decide) hl
    | dsimp only)

theorem Block.repliesOut_keeps {ps : List Part} {a0 : Block} {b : Block}
    (h_ : Keeps ps a0 b) (hl : partsIn [.dict] ps = true) :
    Keeps ps a0 (Block.repliesOut b) := by
  unfold Block.repliesOut
  try dsimp only
  repeat' (first
    | intro _ | with_reducible exact h_ | with_reducible apply Keeps.onDictRest (by intro _; first | rfl | (split <;> rfl))
    | with_reducible apply Keeps.onDictRegs (by intro _; first | rfl | (split <;> rfl))
    | exact partsIn_trans (m := [.dict]) (by decide) hl | dsimp only | with_reducible apply Keeps.dict)

theorem Block.finishCrossing_keeps {ps : List Part} {a0 : Block} {b : Block}
    (h_ : Keeps ps a0 b) (hl : partsIn [.flash, .boot, .sets, .time, .chans, .iu, .adc, .acc, .stk, .queues, .mrg, .frm, .cvus, .twin, .flt, .regs, .dict, .ev, .env, .free] ps = true) :
    Keeps ps a0 (Block.finishCrossing b) := by
  unfold Block.finishCrossing
  try dsimp only
  repeat' (first
    | intro _ | with_reducible exact h_ | with_reducible apply Keeps.ite | with_reducible apply Keeps.when
    | with_reducible apply Block.directSelf_keeps | with_reducible apply Block.swapsTaken_keeps
    | with_reducible apply Block.spanNow_keeps | with_reducible apply Block.sendFrames_keeps
    | with_reducible apply Block.finishC_keeps | with_reducible apply Block.repliesOut_keeps | with_reducible assumption
    | exact partsIn_trans (m := [.flash, .boot, .sets, .time, .chans, .iu, .adc, .acc, .stk, .queues, .mrg, .frm, .cvus, .twin, .flt, .regs, .dict, .ev, .env, .free]) (by decide) hl
    | dsimp only)

theorem Block.nextOrbit_keeps {ps : List Part} {a0 : Block} {b : Block}
    (h_ : Keeps ps a0 b) (hl : partsIn [.now, .time] ps = true) :
    Keeps ps a0 (Block.nextOrbit b) := by
  unfold Block.nextOrbit
  try dsimp only
  repeat' (first
    | intro _ | with_reducible exact h_ | with_reducible apply Keeps.ite | with_reducible apply Block.onTime_keeps
    | exact partsIn_trans (m := [.now, .time]) (by decide) hl | dsimp only | with_reducible apply Keeps.time)

theorem Block.advance_keeps {ps : List Part} {a0 : Block} {b : Block} {wrap : Bool}
    (h_ : Keeps ps a0 b) (hl : partsIn [.now, .time] ps = true) :
    Keeps ps a0 (Block.advance b wrap) := by
  unfold Block.advance
  try dsimp only
  repeat' (first
    | intro _ | with_reducible exact h_ | with_reducible apply Keeps.ite | with_reducible apply Block.onTime_keeps
    | with_reducible apply Block.todAdvance_keeps | with_reducible apply Block.slewOnce_keeps
    | with_reducible apply Block.nextOrbit_keeps | exact partsIn_trans (m := [.now, .time]) (by decide) hl | dsimp only
    | with_reducible apply Keeps.time)

theorem Block.orbitTest_keeps {ps : List Part} {a0 : Block} {b : Block}
    (h_ : Keeps ps a0 b) (hl : partsIn [.twin, .regs] ps = true) :
    Keeps ps a0 (Block.orbitTest b) := by
  unfold Block.orbitTest
  try dsimp only
  repeat' (first
    | intro _ | with_reducible exact h_ | with_reducible apply Keeps.when | with_reducible apply Block.startTest_keeps
    | with_reducible assumption | exact partsIn_trans (m := [.twin, .regs]) (by decide) hl | dsimp only)

theorem Block.openOrbit_keeps {ps : List Part} {a0 : Block} {b : Block} {last lastLen : Nat} {whole : Bool}
    (h_ : Keeps ps a0 b) (hl : partsIn [.boot, .time, .chans, .adc, .mrg, .frm, .twin, .regs, .ev] ps = true) :
    Keeps ps a0 (Block.openOrbit b last lastLen whole) := by
  unfold Block.openOrbit
  try dsimp only
  repeat' (first
    | intro _ | with_reducible exact h_ | with_reducible apply Keeps.when | with_reducible apply Block.onAdc_keeps
    | with_reducible apply Block.onEv_keeps | with_reducible apply Block.raise_keeps
    | with_reducible apply Block.channelsOrbit_keeps | with_reducible apply Block.qualifiedOrbits_keeps
    | with_reducible apply Block.trips_keeps | with_reducible apply Block.applyAligns_keeps
    | with_reducible apply Block.todOrbit_keeps | with_reducible apply Block.domDelays_keeps
    | with_reducible apply Block.orbitTest_keeps | with_reducible assumption
    | exact partsIn_trans (m := [.boot, .time, .chans, .adc, .mrg, .frm, .twin, .regs, .ev]) (by decide) hl | dsimp only)

theorem Block.clockNow_keeps {ps : List Part} {a0 : Block} {b : Block} {fx : Nat}
    (h_ : Keeps ps a0 b) (hl : partsIn [.time, .regs, .ev] ps = true) :
    Keeps ps a0 (Block.clockNow b fx) := by
  unfold Block.clockNow
  try dsimp only
  repeat' (first
    | intro _ | with_reducible exact h_ | with_reducible apply Keeps.when
    | with_reducible apply Keeps.onTimeRest (by intro _; first | rfl | (split <;> rfl)) | with_reducible apply Block.raise_keeps
    | with_reducible assumption | exact partsIn_trans (m := [.time, .regs, .ev]) (by decide) hl | dsimp only
    | with_reducible apply Keeps.time)

theorem Block.thermalNow_keeps {ps : List Part} {a0 : Block} {b : Block}
    (h_ : Keeps ps a0 b) (hl : partsIn [.flash, .boot, .sets, .time, .chans, .chMask, .chSince, .leads, .plate, .bin, .iu, .adc, .acc, .stk, .queues, .mrg, .frm, .cvus, .twin, .flt, .regs, .dict, .ev, .sec, .env] ps = true) :
    Keeps ps a0 (Block.thermalNow b) := by
  unfold Block.thermalNow
  try dsimp only
  repeat' (first
    | intro _ | with_reducible exact h_ | with_reducible apply Keeps.ite
    | with_reducible apply Keeps.onBootRest (by intro _; first | exact ⟨rfl, rfl⟩ | (split <;> exact ⟨rfl, rfl⟩))
    | with_reducible apply Block.deviceRestart_keeps | with_reducible apply Block.shutDown_keeps
    | exact partsIn_trans (m := [.flash, .boot, .sets, .time, .chans, .chMask, .chSince, .leads, .plate, .bin, .iu, .adc, .acc, .stk, .queues, .mrg, .frm, .cvus, .twin, .flt, .regs, .dict, .ev, .sec, .env]) (by decide) hl
    | dsimp only | with_reducible apply Keeps.boot)

theorem Block.writesNow_keeps {ps : List Part} {a0 : Block} {b : Block}
    (h_ : Keeps ps a0 b) (hl : partsIn [.flash, .boot, .sets, .time, .chans, .chMask, .chSince, .leads, .plate, .bin, .iu, .adc, .acc, .stk, .queues, .mrg, .frm, .cvus, .twin, .flt, .regs, .dict, .ev, .sec, .env, .free] ps = true) :
    Keeps ps a0 (Block.writesNow b) := by
  unfold Block.writesNow
  try dsimp only
  repeat' (first
    | with_reducible exact h_ | with_reducible apply Block.attestCapture_keeps | with_reducible apply Block.takeWrites_keeps
    | with_reducible apply Block.resetsDue_keeps | with_reducible apply Block.keepCapture_keeps
    | with_reducible apply Block.restartsNow_keeps | with_reducible apply Block.thermalNow_keeps
    | exact partsIn_trans (m := [.flash, .boot, .sets, .time, .chans, .chMask, .chSince, .leads, .plate, .bin, .iu, .adc, .acc, .stk, .queues, .mrg, .frm, .cvus, .twin, .flt, .regs, .dict, .ev, .sec, .env, .free]) (by decide) hl
    | dsimp only)

theorem Block.dissent_keeps {ps : List Part} {a0 : Block} {b : Block} {was : Block} {site copy : Nat}
    (h_ : Keeps ps a0 b) (hl : partsIn [.chans, .adc, .mrg, .frm, .twin, .flt, .regs, .ev, .free] ps = true) :
    Keeps ps a0 (Block.dissent b was site copy) := by
  unfold Block.dissent
  try dsimp only
  repeat' (first
    | intro _ | with_reducible exact h_ | with_reducible apply Keeps.ite | with_reducible apply Keeps.when
    | with_reducible apply Block.onFlt_keeps | with_reducible apply Block.bump_keeps | with_reducible apply Block.raise_keeps
    | with_reducible apply Block.permanent_keeps | with_reducible apply Block.transient_keeps
    | with_reducible apply Block.retryFailed_keeps | with_reducible assumption
    | exact partsIn_trans (m := [.chans, .adc, .mrg, .frm, .twin, .flt, .regs, .ev, .free]) (by decide) hl | dsimp only)

theorem Block.dissentsNow_keeps {ps : List Part} {a0 : Block} {b : Block} {l : List (BitVec 16 × Fin 3)}
    (h_ : Keeps ps a0 b) (hl : partsIn [.chans, .adc, .mrg, .frm, .twin, .flt, .regs, .ev, .free] ps = true) :
    Keeps ps a0 (Block.dissentsNow b l) := by
  unfold Block.dissentsNow
  try dsimp only
  repeat' (first
    | intro _ | with_reducible exact h_ | with_reducible apply Keeps.forEach | with_reducible apply Block.onFlt_keeps
    | with_reducible apply Block.retryOk_keeps | with_reducible apply Block.dissent_keeps | with_reducible assumption
    | exact partsIn_trans (m := [.chans, .adc, .mrg, .frm, .twin, .flt, .regs, .ev, .free]) (by decide) hl | dsimp only)

theorem Block.votersNow_keeps {ps : List Part} {a0 : Block} {b : Block} {noMajority : Bool} {l : List (BitVec 16 × Fin 3)}
    (h_ : Keeps ps a0 b) (hl : partsIn [.chans, .adc, .mrg, .frm, .twin, .flt, .regs, .ev, .free] ps = true) :
    Keeps ps a0 (Block.votersNow b noMajority l) := by
  unfold Block.votersNow
  try dsimp only
  repeat' (first
    | intro _ | with_reducible exact h_ | with_reducible apply Keeps.ite | with_reducible apply Block.onTwin_keeps
    | with_reducible apply Block.sourceFail_keeps | with_reducible apply Block.sourceClear_keeps
    | with_reducible apply Block.dissentsNow_keeps
    | exact partsIn_trans (m := [.chans, .adc, .mrg, .frm, .twin, .flt, .regs, .ev, .free]) (by decide) hl | dsimp only)

theorem Block.watchTable_keeps {ps : List Part} {a0 : Block} {b : Block} {was : List Nat} {t : Nat}
    (h_ : Keeps ps a0 b) (hl : partsIn [.chans, .adc, .mrg, .frm, .twin, .flt, .regs, .ev, .free] ps = true) :
    Keeps ps a0 (Block.watchTable b was t) := by
  unfold Block.watchTable
  try dsimp only
  repeat' (first
    | with_reducible exact h_ | with_reducible apply Keeps.ite | with_reducible apply Block.bump_keeps
    | with_reducible apply Block.raise_keeps | with_reducible apply Block.transient_keeps
    | with_reducible apply Block.retryFailed_keeps
    | exact partsIn_trans (m := [.chans, .adc, .mrg, .frm, .twin, .flt, .regs, .ev, .free]) (by decide) hl | dsimp only)

theorem Block.watchdog_keeps {ps : List Part} {a0 : Block} {b : Block} {bad : List Nat}
    (h_ : Keeps ps a0 b) (hl : partsIn [.sets, .chans, .adc, .mrg, .frm, .twin, .flt, .regs, .ev, .free] ps = true) :
    Keeps ps a0 (Block.watchdog b bad) := by
  unfold Block.watchdog
  try dsimp only
  repeat' (first
    | intro _ | with_reducible exact h_ | with_reducible apply Keeps.ite | with_reducible apply Keeps.forEach
    | with_reducible apply Block.onSets_keeps | with_reducible apply Block.sourceFail_keeps
    | with_reducible apply Block.testFails_keeps | with_reducible apply Block.sourceClear_keeps
    | with_reducible apply Block.retryOk_keeps | with_reducible apply Block.watchTable_keeps | with_reducible assumption
    | exact partsIn_trans (m := [.sets, .chans, .adc, .mrg, .frm, .twin, .flt, .regs, .ev, .free]) (by decide) hl | dsimp only)

theorem Block.timetableNow_keeps {ps : List Part} {a0 : Block} {b : Block}
    (h_ : Keeps ps a0 b) (hl : partsIn [.time, .chans, .iu, .regs, .ev] ps = true) :
    Keeps ps a0 (Block.timetableNow b) := by
  unfold Block.timetableNow
  try dsimp only
  repeat' (first
    | with_reducible exact h_ | with_reducible apply Keeps.ite | with_reducible apply Block.ttConflicts_keeps
    | with_reducible apply Block.ttBeforeRelease_keeps | with_reducible apply Block.firesNow_keeps
    | exact partsIn_trans (m := [.time, .chans, .iu, .regs, .ev]) (by decide) hl | dsimp only)

theorem Block.commandNow_keeps {ps : List Part} {a0 : Block} {b : Block}
    (h_ : Keeps ps a0 b) (hl : partsIn [.acc, .regs, .ev] ps = true) :
    Keeps ps a0 (Block.commandNow b) := by
  unfold Block.commandNow
  try dsimp only
  repeat' (first
    | intro _ | with_reducible exact h_ | with_reducible apply Keeps.ite | with_reducible apply Block.onAcc_keeps
    | with_reducible apply Block.chooseCommand_keeps | exact partsIn_trans (m := [.acc, .regs, .ev]) (by decide) hl | dsimp only)

theorem Block.streamNow_keeps {ps : List Part} {a0 : Block} {b : Block}
    (h_ : Keeps ps a0 b) (hl : partsIn [.stk, .queues, .mrg, .regs, .ev] ps = true) :
    Keeps ps a0 (Block.streamNow b) := by
  unfold Block.streamNow
  try dsimp only
  repeat' (first
    | intro _ | with_reducible exact h_ | with_reducible apply Keeps.when | with_reducible apply Block.streamOut_keeps
    | with_reducible assumption | exact partsIn_trans (m := [.stk, .queues, .mrg, .regs, .ev]) (by decide) hl | dsimp only)

theorem Block.scrubStep_keeps {ps : List Part} {a0 : Block} {b : Block}
    (h_ : Keeps ps a0 b) (hl : partsIn [.flt, .regs] ps = true) :
    Keeps ps a0 (Block.scrubStep b) := by
  unfold Block.scrubStep
  try dsimp only
  repeat' (first
    | intro _ | with_reducible exact h_ | with_reducible apply Keeps.ite | with_reducible apply Block.onFlt_keeps
    | with_reducible apply Block.bump_keeps | exact partsIn_trans (m := [.flt, .regs]) (by decide) hl | dsimp only)

theorem Block.lanesDue_keeps {ps : List Part} {a0 : Block} {b : Block}
    (h_ : Keeps ps a0 b) (hl : partsIn [.frm, .flt] ps = true) :
    Keeps ps a0 (Block.lanesDue b) := by
  unfold Block.lanesDue
  try dsimp only
  repeat' (first
    | intro _ | with_reducible exact h_ | with_reducible apply Keeps.forEach | with_reducible apply Block.onFlt_keeps
    | with_reducible apply Block.laneRetired_keeps | with_reducible assumption
    | exact partsIn_trans (m := [.frm, .flt]) (by decide) hl | dsimp only)

theorem Block.parkNow_keeps {ps : List Part} {a0 : Block} {b : Block}
    (h_ : Keeps ps a0 b) (hl : partsIn [.sets, .frm, .regs, .ev] ps = true) :
    Keeps ps a0 (Block.parkNow b) := by
  unfold Block.parkNow
  try dsimp only
  repeat' (first
    | intro _ | with_reducible exact h_ | with_reducible apply Keeps.ite | with_reducible apply Block.onSets_keeps
    | with_reducible apply Block.parkLanes_keeps | exact partsIn_trans (m := [.sets, .frm, .regs, .ev]) (by decide) hl | split
    | dsimp only)

theorem Block.tellPlans_keeps {ps : List Part} {a0 : Block} {b : Block}
    (h_ : Keeps ps a0 b) (hl : partsIn [.queues, .mrg, .flt, .regs, .dict, .ev] ps = true) :
    Keeps ps a0 (Block.tellPlans b) := by
  unfold Block.tellPlans
  try dsimp only
  repeat' (first
    | intro _ | with_reducible exact h_ | with_reducible apply Keeps.ite | with_reducible apply Keeps.forEach
    | with_reducible apply Block.onFlt_keeps | with_reducible apply Block.ownWrite_keeps | with_reducible assumption
    | exact partsIn_trans (m := [.queues, .mrg, .flt, .regs, .dict, .ev]) (by decide) hl | split | dsimp only)

theorem Block.openRunning_keeps {ps : List Part} {a0 : Block} {b : Block} {i : CrossInput}
    (h_ : Keeps ps a0 b) (hl : partsIn [.fuses, .flash, .boot, .sets, .time, .chans, .chMask, .chSince, .leads, .bin, .iu, .adc, .acc, .stk, .queues, .mrg, .frm, .cvus, .twin, .flt, .regs, .dict, .ev, .sec, .env, .free] ps = true) :
    Keeps ps a0 (Block.openRunning b i) := by
  unfold Block.openRunning
  try dsimp only
  repeat' (first
    | with_reducible exact h_ | with_reducible apply Block.judgeAlert_keeps | with_reducible apply Block.remask_keeps
    | with_reducible apply Block.pulsesNow_keeps | with_reducible apply Block.leakageReport_keeps
    | with_reducible apply Block.markerEdges_keeps | with_reducible apply Block.trimEdges_keeps
    | with_reducible apply Block.resyncWhenClear_keeps | with_reducible apply Block.supplyBoundary_keeps
    | with_reducible apply Block.applySamples_keeps | with_reducible apply Block.clearDirectory_keeps
    | with_reducible apply Block.release_keeps | with_reducible apply Block.primitiveStep_keeps
    | with_reducible apply Block.activateLinks_keeps | with_reducible apply Block.adapt_keeps
    | with_reducible apply Block.keepFires_keeps | with_reducible apply Block.armPending_keeps
    | with_reducible apply Block.resyncWait_keeps | with_reducible apply Block.claimNow_keeps
    | with_reducible apply Block.inputsRead_keeps | with_reducible apply Block.drainPaths_keeps
    | with_reducible apply Block.takeWaiting_keeps | with_reducible apply Block.bootSlices_keeps
    | with_reducible apply Block.writeRelease_keeps | with_reducible apply Block.joinPorts_keeps
    | with_reducible apply Block.presentWaiting_keeps | with_reducible apply Block.reversion_keeps
    | with_reducible apply Block.votersNow_keeps | with_reducible apply Block.watchdog_keeps
    | with_reducible apply Block.timetableNow_keeps | with_reducible apply Block.commandNow_keeps
    | with_reducible apply Block.streamNow_keeps | with_reducible apply Block.scrubStep_keeps
    | with_reducible apply Block.lanesDue_keeps | with_reducible apply Block.parkNow_keeps
    | with_reducible apply Block.tellPlans_keeps
    | exact partsIn_trans (m := [.fuses, .flash, .boot, .sets, .time, .chans, .chMask, .chSince, .leads, .bin, .iu, .adc, .acc, .stk, .queues, .mrg, .frm, .cvus, .twin, .flt, .regs, .dict, .ev, .sec, .env, .free]) (by decide) hl
    | dsimp only)

theorem Block.openCrossing_keeps {ps : List Part} {a0 : Block} {b : Block} {i : CrossInput} {wrap : Bool} {last lastLen : Nat}
    (h_ : Keeps ps a0 b) (hl : partsIn [.fuses, .flash, .boot, .sets, .time, .chans, .chMask, .chSince, .leads, .plate, .bin, .iu, .adc, .acc, .stk, .queues, .mrg, .frm, .cvus, .twin, .flt, .regs, .dict, .ev, .sec, .env, .free] ps = true) :
    Keeps ps a0 (Block.openCrossing b i wrap last lastLen) := by
  unfold Block.openCrossing
  try dsimp only
  repeat' (first
    | intro _ | with_reducible exact h_ | with_reducible apply Keeps.ite | with_reducible apply Keeps.when
    | with_reducible apply Block.judgeAlert_keeps | with_reducible apply Block.measuresNow_keeps
    | with_reducible apply Block.openOrbit_keeps | with_reducible apply Block.clockNow_keeps
    | with_reducible apply Block.writesNow_keeps | with_reducible apply Block.openRunning_keeps | with_reducible assumption
    | exact partsIn_trans (m := [.fuses, .flash, .boot, .sets, .time, .chans, .chMask, .chSince, .leads, .plate, .bin, .iu, .adc, .acc, .stk, .queues, .mrg, .frm, .cvus, .twin, .flt, .regs, .dict, .ev, .sec, .env, .free]) (by decide) hl
    | dsimp only)

theorem Block.idleBoundary_keeps {ps : List Part} {a0 : Block} {b : Block} {i : CrossInput}
    (h_ : Keeps ps a0 b) (hl : partsIn [.flash, .boot, .sets, .time, .chans, .chMask, .chSince, .leads, .plate, .bin, .iu, .adc, .acc, .stk, .queues, .mrg, .frm, .cvus, .twin, .flt, .regs, .dict, .ev, .sec, .env, .free] ps = true) :
    Keeps ps a0 (Block.idleBoundary b i) := by
  unfold Block.idleBoundary
  try dsimp only
  repeat' (first
    | intro _ | with_reducible exact h_ | with_reducible apply Keeps.when | with_reducible apply Block.judgeAlert_keeps
    | with_reducible apply Block.swapsTaken_keeps | with_reducible apply Block.drainPaths_keeps
    | with_reducible apply Block.takeWaiting_keeps | with_reducible apply Block.measuresNow_keeps
    | with_reducible apply Block.repliesOut_keeps | with_reducible apply Block.clockNow_keeps
    | with_reducible apply Block.writesNow_keeps | with_reducible assumption
    | exact partsIn_trans (m := [.flash, .boot, .sets, .time, .chans, .chMask, .chSince, .leads, .plate, .bin, .iu, .adc, .acc, .stk, .queues, .mrg, .frm, .cvus, .twin, .flt, .regs, .dict, .ev, .sec, .env, .free]) (by decide) hl
    | dsimp only)

theorem Block.boundary_keeps {ps : List Part} {a0 : Block} {b : Block} {i : CrossInput} {wrap : Bool}
    (h_ : Keeps ps a0 b) (hl : partsIn [.fuses, .flash, .boot, .sets, .now, .time, .chans, .chMask, .chSince, .leads, .plate, .bin, .iu, .adc, .acc, .stk, .queues, .mrg, .frm, .cvus, .twin, .flt, .regs, .dict, .ev, .sec, .env, .free] ps = true) :
    Keeps ps a0 (Block.boundary b i wrap) := by
  unfold Block.boundary
  try dsimp only
  repeat' (first
    | intro _ | with_reducible exact h_ | with_reducible apply Block.onMrg_keeps | with_reducible apply Block.finishCrossing_keeps
    | with_reducible apply Block.advance_keeps | with_reducible apply Block.openCrossing_keeps
    | exact partsIn_trans (m := [.fuses, .flash, .boot, .sets, .now, .time, .chans, .chMask, .chSince, .leads, .plate, .bin, .iu, .adc, .acc, .stk, .queues, .mrg, .frm, .cvus, .twin, .flt, .regs, .dict, .ev, .sec, .env, .free]) (by decide) hl
    | dsimp only)

theorem Block.boundaryCmd_keeps {ps : List Part} {a0 : Block} {b : Block} {i : CrossInput} {wrap : Bool}
    (h_ : Keeps ps a0 b) (hl : partsIn [.fuses, .flash, .boot, .sets, .now, .time, .chans, .chMask, .chSince, .leads, .plate, .bin, .iu, .adc, .acc, .stk, .queues, .mrg, .frm, .cvus, .twin, .flt, .regs, .dict, .ev, .sec, .env, .free] ps = true) :
    Keeps ps a0 (Block.boundaryCmd b i wrap) := by
  unfold Block.boundaryCmd
  try dsimp only
  repeat' (first
    | intro _ | with_reducible exact h_ | with_reducible apply Keeps.ite | with_reducible apply Keeps.when
    | with_reducible apply Block.idleBoundary_keeps | with_reducible apply Block.boundary_keeps | with_reducible assumption
    | exact partsIn_trans (m := [.fuses, .flash, .boot, .sets, .now, .time, .chans, .chMask, .chSince, .leads, .plate, .bin, .iu, .adc, .acc, .stk, .queues, .mrg, .frm, .cvus, .twin, .flt, .regs, .dict, .ev, .sec, .env, .free]) (by decide) hl
    | dsimp only)

theorem Block.resyncNow_keeps {ps : List Part} {a0 : Block} {b : Block} {r : Resync}
    (h_ : Keeps ps a0 b) (hl : partsIn [.boot, .sets, .time, .chans, .leads, .iu, .adc, .acc, .stk, .queues, .mrg, .frm, .twin, .regs, .ev] ps = true) :
    Keeps ps a0 (Block.resyncNow b r) := by
  unfold Block.resyncNow
  try dsimp only
  repeat' (first
    | with_reducible exact h_ | with_reducible apply Keeps.ite | with_reducible apply Block.ttConflicts_keeps
    | with_reducible apply Block.ttBeforeRelease_keeps | with_reducible apply Block.firesNow_keeps
    | with_reducible apply Block.resyncEffects_keeps | with_reducible apply Block.openOrbit_keeps
    | with_reducible apply Block.commandNow_keeps
    | exact partsIn_trans (m := [.boot, .sets, .time, .chans, .leads, .iu, .adc, .acc, .stk, .queues, .mrg, .frm, .twin, .regs, .ev]) (by decide) hl
    | dsimp only)

end Sys2Proof.Machine
end

