-- ==== Sys2Proof/Laws/State.lean ====
section
/-! SUPPORT. What each update of one part of the block leaves in each part: one lemma for each update and part. -/

namespace Sys2Proof.Machine

variable (b : Block)

@[simp] theorem Block.onBoot_fuses (f) : (b.onBoot f).fuses = b.fuses := rfl
@[simp] theorem Block.onBoot_flash (f) : (b.onBoot f).flash = b.flash := rfl
@[simp] theorem Block.onBoot_boot (f) : (b.onBoot f).boot = f b.boot := rfl
@[simp] theorem Block.onBoot_sets (f) : (b.onBoot f).sets = b.sets := rfl
@[simp] theorem Block.onBoot_time (f) : (b.onBoot f).time = b.time := rfl
@[simp] theorem Block.onBoot_chans (f) : (b.onBoot f).chans = b.chans := rfl
@[simp] theorem Block.onBoot_chMask (f) : (b.onBoot f).chMask = b.chMask := rfl
@[simp] theorem Block.onBoot_chSince (f) : (b.onBoot f).chSince = b.chSince := rfl
@[simp] theorem Block.onBoot_leads (f) : (b.onBoot f).leads = b.leads := rfl
@[simp] theorem Block.onBoot_plate (f) : (b.onBoot f).plate = b.plate := rfl
@[simp] theorem Block.onBoot_bin (f) : (b.onBoot f).bin = b.bin := rfl
@[simp] theorem Block.onBoot_iu (f) : (b.onBoot f).iu = b.iu := rfl
@[simp] theorem Block.onBoot_adc (f) : (b.onBoot f).adc = b.adc := rfl
@[simp] theorem Block.onBoot_acc (f) : (b.onBoot f).acc = b.acc := rfl
@[simp] theorem Block.onBoot_stk (f) : (b.onBoot f).stk = b.stk := rfl
@[simp] theorem Block.onBoot_queues (f) : (b.onBoot f).queues = b.queues := rfl
@[simp] theorem Block.onBoot_mrg (f) : (b.onBoot f).mrg = b.mrg := rfl
@[simp] theorem Block.onBoot_frm (f) : (b.onBoot f).frm = b.frm := rfl
@[simp] theorem Block.onBoot_cvus (f) : (b.onBoot f).cvus = b.cvus := rfl
@[simp] theorem Block.onBoot_twin (f) : (b.onBoot f).twin = b.twin := rfl
@[simp] theorem Block.onBoot_flt (f) : (b.onBoot f).flt = b.flt := rfl
@[simp] theorem Block.onBoot_dict (f) : (b.onBoot f).dict = b.dict := rfl
@[simp] theorem Block.onBoot_ev (f) : (b.onBoot f).ev = b.ev := rfl
@[simp] theorem Block.onBoot_sec (f) : (b.onBoot f).sec = b.sec := rfl
@[simp] theorem Block.onBoot_env (f) : (b.onBoot f).env = b.env := rfl
@[simp] theorem Block.onBoot_jtag (f) : (b.onBoot f).jtag = b.jtag := rfl
@[simp] theorem Block.onBoot_free (f) : (b.onBoot f).free = b.free := rfl

@[simp] theorem Block.onFlash_fuses (f) : (b.onFlash f).fuses = b.fuses := rfl
@[simp] theorem Block.onFlash_flash (f) : (b.onFlash f).flash = f b.flash := rfl
@[simp] theorem Block.onFlash_boot (f) : (b.onFlash f).boot = b.boot := rfl
@[simp] theorem Block.onFlash_sets (f) : (b.onFlash f).sets = b.sets := rfl
@[simp] theorem Block.onFlash_time (f) : (b.onFlash f).time = b.time := rfl
@[simp] theorem Block.onFlash_chans (f) : (b.onFlash f).chans = b.chans := rfl
@[simp] theorem Block.onFlash_chMask (f) : (b.onFlash f).chMask = b.chMask := rfl
@[simp] theorem Block.onFlash_chSince (f) : (b.onFlash f).chSince = b.chSince := rfl
@[simp] theorem Block.onFlash_leads (f) : (b.onFlash f).leads = b.leads := rfl
@[simp] theorem Block.onFlash_plate (f) : (b.onFlash f).plate = b.plate := rfl
@[simp] theorem Block.onFlash_bin (f) : (b.onFlash f).bin = b.bin := rfl
@[simp] theorem Block.onFlash_iu (f) : (b.onFlash f).iu = b.iu := rfl
@[simp] theorem Block.onFlash_adc (f) : (b.onFlash f).adc = b.adc := rfl
@[simp] theorem Block.onFlash_acc (f) : (b.onFlash f).acc = b.acc := rfl
@[simp] theorem Block.onFlash_stk (f) : (b.onFlash f).stk = b.stk := rfl
@[simp] theorem Block.onFlash_queues (f) : (b.onFlash f).queues = b.queues := rfl
@[simp] theorem Block.onFlash_mrg (f) : (b.onFlash f).mrg = b.mrg := rfl
@[simp] theorem Block.onFlash_frm (f) : (b.onFlash f).frm = b.frm := rfl
@[simp] theorem Block.onFlash_cvus (f) : (b.onFlash f).cvus = b.cvus := rfl
@[simp] theorem Block.onFlash_twin (f) : (b.onFlash f).twin = b.twin := rfl
@[simp] theorem Block.onFlash_flt (f) : (b.onFlash f).flt = b.flt := rfl
@[simp] theorem Block.onFlash_dict (f) : (b.onFlash f).dict = b.dict := rfl
@[simp] theorem Block.onFlash_ev (f) : (b.onFlash f).ev = b.ev := rfl
@[simp] theorem Block.onFlash_sec (f) : (b.onFlash f).sec = b.sec := rfl
@[simp] theorem Block.onFlash_env (f) : (b.onFlash f).env = b.env := rfl
@[simp] theorem Block.onFlash_jtag (f) : (b.onFlash f).jtag = b.jtag := rfl
@[simp] theorem Block.onFlash_free (f) : (b.onFlash f).free = b.free := rfl
@[simp] theorem Block.onFlash_reg (f k) : (b.onFlash f).reg k = b.reg k := rfl
@[simp] theorem Block.onFlash_rs (f k) : (b.onFlash f).rs k = b.rs k := rfl
@[simp] theorem Block.onFlash_latched (f n) : (b.onFlash f).latched n = b.latched n := rfl

@[simp] theorem Block.onFuses_fuses (f) : (b.onFuses f).fuses = f b.fuses := rfl
@[simp] theorem Block.onFuses_flash (f) : (b.onFuses f).flash = b.flash := rfl
@[simp] theorem Block.onFuses_boot (f) : (b.onFuses f).boot = b.boot := rfl
@[simp] theorem Block.onFuses_sets (f) : (b.onFuses f).sets = b.sets := rfl
@[simp] theorem Block.onFuses_time (f) : (b.onFuses f).time = b.time := rfl
@[simp] theorem Block.onFuses_chans (f) : (b.onFuses f).chans = b.chans := rfl
@[simp] theorem Block.onFuses_chMask (f) : (b.onFuses f).chMask = b.chMask := rfl
@[simp] theorem Block.onFuses_chSince (f) : (b.onFuses f).chSince = b.chSince := rfl
@[simp] theorem Block.onFuses_leads (f) : (b.onFuses f).leads = b.leads := rfl
@[simp] theorem Block.onFuses_plate (f) : (b.onFuses f).plate = b.plate := rfl
@[simp] theorem Block.onFuses_bin (f) : (b.onFuses f).bin = b.bin := rfl
@[simp] theorem Block.onFuses_iu (f) : (b.onFuses f).iu = b.iu := rfl
@[simp] theorem Block.onFuses_adc (f) : (b.onFuses f).adc = b.adc := rfl
@[simp] theorem Block.onFuses_acc (f) : (b.onFuses f).acc = b.acc := rfl
@[simp] theorem Block.onFuses_stk (f) : (b.onFuses f).stk = b.stk := rfl
@[simp] theorem Block.onFuses_queues (f) : (b.onFuses f).queues = b.queues := rfl
@[simp] theorem Block.onFuses_mrg (f) : (b.onFuses f).mrg = b.mrg := rfl
@[simp] theorem Block.onFuses_frm (f) : (b.onFuses f).frm = b.frm := rfl
@[simp] theorem Block.onFuses_cvus (f) : (b.onFuses f).cvus = b.cvus := rfl
@[simp] theorem Block.onFuses_twin (f) : (b.onFuses f).twin = b.twin := rfl
@[simp] theorem Block.onFuses_flt (f) : (b.onFuses f).flt = b.flt := rfl
@[simp] theorem Block.onFuses_dict (f) : (b.onFuses f).dict = b.dict := rfl
@[simp] theorem Block.onFuses_ev (f) : (b.onFuses f).ev = b.ev := rfl
@[simp] theorem Block.onFuses_sec (f) : (b.onFuses f).sec = b.sec := rfl
@[simp] theorem Block.onFuses_env (f) : (b.onFuses f).env = b.env := rfl
@[simp] theorem Block.onFuses_jtag (f) : (b.onFuses f).jtag = b.jtag := rfl
@[simp] theorem Block.onFuses_free (f) : (b.onFuses f).free = b.free := rfl

@[simp] theorem Block.onSets_fuses (f) : (b.onSets f).fuses = b.fuses := rfl
@[simp] theorem Block.onSets_flash (f) : (b.onSets f).flash = b.flash := rfl
@[simp] theorem Block.onSets_boot (f) : (b.onSets f).boot = b.boot := rfl
@[simp] theorem Block.onSets_sets (f) : (b.onSets f).sets = f b.sets := rfl
@[simp] theorem Block.onSets_time (f) : (b.onSets f).time = b.time := rfl
@[simp] theorem Block.onSets_chans (f) : (b.onSets f).chans = b.chans := rfl
@[simp] theorem Block.onSets_chMask (f) : (b.onSets f).chMask = b.chMask := rfl
@[simp] theorem Block.onSets_chSince (f) : (b.onSets f).chSince = b.chSince := rfl
@[simp] theorem Block.onSets_leads (f) : (b.onSets f).leads = b.leads := rfl
@[simp] theorem Block.onSets_plate (f) : (b.onSets f).plate = b.plate := rfl
@[simp] theorem Block.onSets_bin (f) : (b.onSets f).bin = b.bin := rfl
@[simp] theorem Block.onSets_iu (f) : (b.onSets f).iu = b.iu := rfl
@[simp] theorem Block.onSets_adc (f) : (b.onSets f).adc = b.adc := rfl
@[simp] theorem Block.onSets_acc (f) : (b.onSets f).acc = b.acc := rfl
@[simp] theorem Block.onSets_stk (f) : (b.onSets f).stk = b.stk := rfl
@[simp] theorem Block.onSets_queues (f) : (b.onSets f).queues = b.queues := rfl
@[simp] theorem Block.onSets_mrg (f) : (b.onSets f).mrg = b.mrg := rfl
@[simp] theorem Block.onSets_frm (f) : (b.onSets f).frm = b.frm := rfl
@[simp] theorem Block.onSets_cvus (f) : (b.onSets f).cvus = b.cvus := rfl
@[simp] theorem Block.onSets_twin (f) : (b.onSets f).twin = b.twin := rfl
@[simp] theorem Block.onSets_flt (f) : (b.onSets f).flt = b.flt := rfl
@[simp] theorem Block.onSets_dict (f) : (b.onSets f).dict = b.dict := rfl
@[simp] theorem Block.onSets_ev (f) : (b.onSets f).ev = b.ev := rfl
@[simp] theorem Block.onSets_sec (f) : (b.onSets f).sec = b.sec := rfl
@[simp] theorem Block.onSets_env (f) : (b.onSets f).env = b.env := rfl
@[simp] theorem Block.onSets_jtag (f) : (b.onSets f).jtag = b.jtag := rfl
@[simp] theorem Block.onSets_free (f) : (b.onSets f).free = b.free := rfl

@[simp] theorem Block.onTime_fuses (f) : (b.onTime f).fuses = b.fuses := rfl
@[simp] theorem Block.onTime_flash (f) : (b.onTime f).flash = b.flash := rfl
@[simp] theorem Block.onTime_boot (f) : (b.onTime f).boot = b.boot := rfl
@[simp] theorem Block.onTime_sets (f) : (b.onTime f).sets = b.sets := rfl
@[simp] theorem Block.onTime_time (f) : (b.onTime f).time = f b.time := rfl
@[simp] theorem Block.onTime_chans (f) : (b.onTime f).chans = b.chans := rfl
@[simp] theorem Block.onTime_chMask (f) : (b.onTime f).chMask = b.chMask := rfl
@[simp] theorem Block.onTime_chSince (f) : (b.onTime f).chSince = b.chSince := rfl
@[simp] theorem Block.onTime_leads (f) : (b.onTime f).leads = b.leads := rfl
@[simp] theorem Block.onTime_plate (f) : (b.onTime f).plate = b.plate := rfl
@[simp] theorem Block.onTime_bin (f) : (b.onTime f).bin = b.bin := rfl
@[simp] theorem Block.onTime_iu (f) : (b.onTime f).iu = b.iu := rfl
@[simp] theorem Block.onTime_adc (f) : (b.onTime f).adc = b.adc := rfl
@[simp] theorem Block.onTime_acc (f) : (b.onTime f).acc = b.acc := rfl
@[simp] theorem Block.onTime_stk (f) : (b.onTime f).stk = b.stk := rfl
@[simp] theorem Block.onTime_queues (f) : (b.onTime f).queues = b.queues := rfl
@[simp] theorem Block.onTime_mrg (f) : (b.onTime f).mrg = b.mrg := rfl
@[simp] theorem Block.onTime_frm (f) : (b.onTime f).frm = b.frm := rfl
@[simp] theorem Block.onTime_cvus (f) : (b.onTime f).cvus = b.cvus := rfl
@[simp] theorem Block.onTime_twin (f) : (b.onTime f).twin = b.twin := rfl
@[simp] theorem Block.onTime_flt (f) : (b.onTime f).flt = b.flt := rfl
@[simp] theorem Block.onTime_dict (f) : (b.onTime f).dict = b.dict := rfl
@[simp] theorem Block.onTime_ev (f) : (b.onTime f).ev = b.ev := rfl
@[simp] theorem Block.onTime_sec (f) : (b.onTime f).sec = b.sec := rfl
@[simp] theorem Block.onTime_env (f) : (b.onTime f).env = b.env := rfl
@[simp] theorem Block.onTime_jtag (f) : (b.onTime f).jtag = b.jtag := rfl
@[simp] theorem Block.onTime_free (f) : (b.onTime f).free = b.free := rfl
@[simp] theorem Block.onTime_reg (f k) : (b.onTime f).reg k = b.reg k := rfl
@[simp] theorem Block.onTime_rs (f k) : (b.onTime f).rs k = b.rs k := rfl
@[simp] theorem Block.onTime_latched (f n) : (b.onTime f).latched n = b.latched n := rfl

@[simp] theorem Block.onAdc_fuses (f) : (b.onAdc f).fuses = b.fuses := rfl
@[simp] theorem Block.onAdc_flash (f) : (b.onAdc f).flash = b.flash := rfl
@[simp] theorem Block.onAdc_boot (f) : (b.onAdc f).boot = b.boot := rfl
@[simp] theorem Block.onAdc_sets (f) : (b.onAdc f).sets = b.sets := rfl
@[simp] theorem Block.onAdc_time (f) : (b.onAdc f).time = b.time := rfl
@[simp] theorem Block.onAdc_chans (f) : (b.onAdc f).chans = b.chans := rfl
@[simp] theorem Block.onAdc_chMask (f) : (b.onAdc f).chMask = b.chMask := rfl
@[simp] theorem Block.onAdc_chSince (f) : (b.onAdc f).chSince = b.chSince := rfl
@[simp] theorem Block.onAdc_leads (f) : (b.onAdc f).leads = b.leads := rfl
@[simp] theorem Block.onAdc_plate (f) : (b.onAdc f).plate = b.plate := rfl
@[simp] theorem Block.onAdc_bin (f) : (b.onAdc f).bin = b.bin := rfl
@[simp] theorem Block.onAdc_iu (f) : (b.onAdc f).iu = b.iu := rfl
@[simp] theorem Block.onAdc_adc (f) : (b.onAdc f).adc = f b.adc := rfl
@[simp] theorem Block.onAdc_acc (f) : (b.onAdc f).acc = b.acc := rfl
@[simp] theorem Block.onAdc_stk (f) : (b.onAdc f).stk = b.stk := rfl
@[simp] theorem Block.onAdc_queues (f) : (b.onAdc f).queues = b.queues := rfl
@[simp] theorem Block.onAdc_mrg (f) : (b.onAdc f).mrg = b.mrg := rfl
@[simp] theorem Block.onAdc_frm (f) : (b.onAdc f).frm = b.frm := rfl
@[simp] theorem Block.onAdc_cvus (f) : (b.onAdc f).cvus = b.cvus := rfl
@[simp] theorem Block.onAdc_twin (f) : (b.onAdc f).twin = b.twin := rfl
@[simp] theorem Block.onAdc_flt (f) : (b.onAdc f).flt = b.flt := rfl
@[simp] theorem Block.onAdc_dict (f) : (b.onAdc f).dict = b.dict := rfl
@[simp] theorem Block.onAdc_ev (f) : (b.onAdc f).ev = b.ev := rfl
@[simp] theorem Block.onAdc_sec (f) : (b.onAdc f).sec = b.sec := rfl
@[simp] theorem Block.onAdc_env (f) : (b.onAdc f).env = b.env := rfl
@[simp] theorem Block.onAdc_jtag (f) : (b.onAdc f).jtag = b.jtag := rfl
@[simp] theorem Block.onAdc_free (f) : (b.onAdc f).free = b.free := rfl
@[simp] theorem Block.onAdc_reg (f k) : (b.onAdc f).reg k = b.reg k := rfl
@[simp] theorem Block.onAdc_rs (f k) : (b.onAdc f).rs k = b.rs k := rfl
@[simp] theorem Block.onAdc_latched (f n) : (b.onAdc f).latched n = b.latched n := rfl

@[simp] theorem Block.onIu_fuses (f) : (b.onIu f).fuses = b.fuses := rfl
@[simp] theorem Block.onIu_flash (f) : (b.onIu f).flash = b.flash := rfl
@[simp] theorem Block.onIu_boot (f) : (b.onIu f).boot = b.boot := rfl
@[simp] theorem Block.onIu_sets (f) : (b.onIu f).sets = b.sets := rfl
@[simp] theorem Block.onIu_time (f) : (b.onIu f).time = b.time := rfl
@[simp] theorem Block.onIu_chans (f) : (b.onIu f).chans = b.chans := rfl
@[simp] theorem Block.onIu_chMask (f) : (b.onIu f).chMask = b.chMask := rfl
@[simp] theorem Block.onIu_chSince (f) : (b.onIu f).chSince = b.chSince := rfl
@[simp] theorem Block.onIu_leads (f) : (b.onIu f).leads = b.leads := rfl
@[simp] theorem Block.onIu_plate (f) : (b.onIu f).plate = b.plate := rfl
@[simp] theorem Block.onIu_bin (f) : (b.onIu f).bin = b.bin := rfl
@[simp] theorem Block.onIu_iu (f) : (b.onIu f).iu = f b.iu := rfl
@[simp] theorem Block.onIu_adc (f) : (b.onIu f).adc = b.adc := rfl
@[simp] theorem Block.onIu_acc (f) : (b.onIu f).acc = b.acc := rfl
@[simp] theorem Block.onIu_stk (f) : (b.onIu f).stk = b.stk := rfl
@[simp] theorem Block.onIu_queues (f) : (b.onIu f).queues = b.queues := rfl
@[simp] theorem Block.onIu_mrg (f) : (b.onIu f).mrg = b.mrg := rfl
@[simp] theorem Block.onIu_frm (f) : (b.onIu f).frm = b.frm := rfl
@[simp] theorem Block.onIu_cvus (f) : (b.onIu f).cvus = b.cvus := rfl
@[simp] theorem Block.onIu_twin (f) : (b.onIu f).twin = b.twin := rfl
@[simp] theorem Block.onIu_flt (f) : (b.onIu f).flt = b.flt := rfl
@[simp] theorem Block.onIu_dict (f) : (b.onIu f).dict = b.dict := rfl
@[simp] theorem Block.onIu_ev (f) : (b.onIu f).ev = b.ev := rfl
@[simp] theorem Block.onIu_sec (f) : (b.onIu f).sec = b.sec := rfl
@[simp] theorem Block.onIu_env (f) : (b.onIu f).env = b.env := rfl
@[simp] theorem Block.onIu_jtag (f) : (b.onIu f).jtag = b.jtag := rfl
@[simp] theorem Block.onIu_free (f) : (b.onIu f).free = b.free := rfl
@[simp] theorem Block.onIu_reg (f k) : (b.onIu f).reg k = b.reg k := rfl
@[simp] theorem Block.onIu_rs (f k) : (b.onIu f).rs k = b.rs k := rfl
@[simp] theorem Block.onIu_latched (f n) : (b.onIu f).latched n = b.latched n := rfl

@[simp] theorem Block.onAcc_fuses (f) : (b.onAcc f).fuses = b.fuses := rfl
@[simp] theorem Block.onAcc_flash (f) : (b.onAcc f).flash = b.flash := rfl
@[simp] theorem Block.onAcc_boot (f) : (b.onAcc f).boot = b.boot := rfl
@[simp] theorem Block.onAcc_sets (f) : (b.onAcc f).sets = b.sets := rfl
@[simp] theorem Block.onAcc_time (f) : (b.onAcc f).time = b.time := rfl
@[simp] theorem Block.onAcc_chans (f) : (b.onAcc f).chans = b.chans := rfl
@[simp] theorem Block.onAcc_chMask (f) : (b.onAcc f).chMask = b.chMask := rfl
@[simp] theorem Block.onAcc_chSince (f) : (b.onAcc f).chSince = b.chSince := rfl
@[simp] theorem Block.onAcc_leads (f) : (b.onAcc f).leads = b.leads := rfl
@[simp] theorem Block.onAcc_plate (f) : (b.onAcc f).plate = b.plate := rfl
@[simp] theorem Block.onAcc_bin (f) : (b.onAcc f).bin = b.bin := rfl
@[simp] theorem Block.onAcc_iu (f) : (b.onAcc f).iu = b.iu := rfl
@[simp] theorem Block.onAcc_adc (f) : (b.onAcc f).adc = b.adc := rfl
@[simp] theorem Block.onAcc_acc (f) : (b.onAcc f).acc = f b.acc := rfl
@[simp] theorem Block.onAcc_stk (f) : (b.onAcc f).stk = b.stk := rfl
@[simp] theorem Block.onAcc_queues (f) : (b.onAcc f).queues = b.queues := rfl
@[simp] theorem Block.onAcc_mrg (f) : (b.onAcc f).mrg = b.mrg := rfl
@[simp] theorem Block.onAcc_frm (f) : (b.onAcc f).frm = b.frm := rfl
@[simp] theorem Block.onAcc_cvus (f) : (b.onAcc f).cvus = b.cvus := rfl
@[simp] theorem Block.onAcc_twin (f) : (b.onAcc f).twin = b.twin := rfl
@[simp] theorem Block.onAcc_flt (f) : (b.onAcc f).flt = b.flt := rfl
@[simp] theorem Block.onAcc_dict (f) : (b.onAcc f).dict = b.dict := rfl
@[simp] theorem Block.onAcc_ev (f) : (b.onAcc f).ev = b.ev := rfl
@[simp] theorem Block.onAcc_sec (f) : (b.onAcc f).sec = b.sec := rfl
@[simp] theorem Block.onAcc_env (f) : (b.onAcc f).env = b.env := rfl
@[simp] theorem Block.onAcc_jtag (f) : (b.onAcc f).jtag = b.jtag := rfl
@[simp] theorem Block.onAcc_free (f) : (b.onAcc f).free = b.free := rfl
@[simp] theorem Block.onAcc_reg (f k) : (b.onAcc f).reg k = b.reg k := rfl
@[simp] theorem Block.onAcc_rs (f k) : (b.onAcc f).rs k = b.rs k := rfl
@[simp] theorem Block.onAcc_latched (f n) : (b.onAcc f).latched n = b.latched n := rfl

@[simp] theorem Block.onStk_fuses (f) : (b.onStk f).fuses = b.fuses := rfl
@[simp] theorem Block.onStk_flash (f) : (b.onStk f).flash = b.flash := rfl
@[simp] theorem Block.onStk_boot (f) : (b.onStk f).boot = b.boot := rfl
@[simp] theorem Block.onStk_sets (f) : (b.onStk f).sets = b.sets := rfl
@[simp] theorem Block.onStk_time (f) : (b.onStk f).time = b.time := rfl
@[simp] theorem Block.onStk_chans (f) : (b.onStk f).chans = b.chans := rfl
@[simp] theorem Block.onStk_chMask (f) : (b.onStk f).chMask = b.chMask := rfl
@[simp] theorem Block.onStk_chSince (f) : (b.onStk f).chSince = b.chSince := rfl
@[simp] theorem Block.onStk_leads (f) : (b.onStk f).leads = b.leads := rfl
@[simp] theorem Block.onStk_plate (f) : (b.onStk f).plate = b.plate := rfl
@[simp] theorem Block.onStk_bin (f) : (b.onStk f).bin = b.bin := rfl
@[simp] theorem Block.onStk_iu (f) : (b.onStk f).iu = b.iu := rfl
@[simp] theorem Block.onStk_adc (f) : (b.onStk f).adc = b.adc := rfl
@[simp] theorem Block.onStk_acc (f) : (b.onStk f).acc = b.acc := rfl
@[simp] theorem Block.onStk_stk (f) : (b.onStk f).stk = f b.stk := rfl
@[simp] theorem Block.onStk_queues (f) : (b.onStk f).queues = b.queues := rfl
@[simp] theorem Block.onStk_mrg (f) : (b.onStk f).mrg = b.mrg := rfl
@[simp] theorem Block.onStk_frm (f) : (b.onStk f).frm = b.frm := rfl
@[simp] theorem Block.onStk_cvus (f) : (b.onStk f).cvus = b.cvus := rfl
@[simp] theorem Block.onStk_twin (f) : (b.onStk f).twin = b.twin := rfl
@[simp] theorem Block.onStk_flt (f) : (b.onStk f).flt = b.flt := rfl
@[simp] theorem Block.onStk_dict (f) : (b.onStk f).dict = b.dict := rfl
@[simp] theorem Block.onStk_ev (f) : (b.onStk f).ev = b.ev := rfl
@[simp] theorem Block.onStk_sec (f) : (b.onStk f).sec = b.sec := rfl
@[simp] theorem Block.onStk_env (f) : (b.onStk f).env = b.env := rfl
@[simp] theorem Block.onStk_jtag (f) : (b.onStk f).jtag = b.jtag := rfl
@[simp] theorem Block.onStk_free (f) : (b.onStk f).free = b.free := rfl
@[simp] theorem Block.onStk_reg (f k) : (b.onStk f).reg k = b.reg k := rfl
@[simp] theorem Block.onStk_rs (f k) : (b.onStk f).rs k = b.rs k := rfl
@[simp] theorem Block.onStk_latched (f n) : (b.onStk f).latched n = b.latched n := rfl

@[simp] theorem Block.onMrg_fuses (f) : (b.onMrg f).fuses = b.fuses := rfl
@[simp] theorem Block.onMrg_flash (f) : (b.onMrg f).flash = b.flash := rfl
@[simp] theorem Block.onMrg_boot (f) : (b.onMrg f).boot = b.boot := rfl
@[simp] theorem Block.onMrg_sets (f) : (b.onMrg f).sets = b.sets := rfl
@[simp] theorem Block.onMrg_time (f) : (b.onMrg f).time = b.time := rfl
@[simp] theorem Block.onMrg_chans (f) : (b.onMrg f).chans = b.chans := rfl
@[simp] theorem Block.onMrg_chMask (f) : (b.onMrg f).chMask = b.chMask := rfl
@[simp] theorem Block.onMrg_chSince (f) : (b.onMrg f).chSince = b.chSince := rfl
@[simp] theorem Block.onMrg_leads (f) : (b.onMrg f).leads = b.leads := rfl
@[simp] theorem Block.onMrg_plate (f) : (b.onMrg f).plate = b.plate := rfl
@[simp] theorem Block.onMrg_bin (f) : (b.onMrg f).bin = b.bin := rfl
@[simp] theorem Block.onMrg_iu (f) : (b.onMrg f).iu = b.iu := rfl
@[simp] theorem Block.onMrg_adc (f) : (b.onMrg f).adc = b.adc := rfl
@[simp] theorem Block.onMrg_acc (f) : (b.onMrg f).acc = b.acc := rfl
@[simp] theorem Block.onMrg_stk (f) : (b.onMrg f).stk = b.stk := rfl
@[simp] theorem Block.onMrg_queues (f) : (b.onMrg f).queues = b.queues := rfl
@[simp] theorem Block.onMrg_mrg (f) : (b.onMrg f).mrg = f b.mrg := rfl
@[simp] theorem Block.onMrg_frm (f) : (b.onMrg f).frm = b.frm := rfl
@[simp] theorem Block.onMrg_cvus (f) : (b.onMrg f).cvus = b.cvus := rfl
@[simp] theorem Block.onMrg_twin (f) : (b.onMrg f).twin = b.twin := rfl
@[simp] theorem Block.onMrg_flt (f) : (b.onMrg f).flt = b.flt := rfl
@[simp] theorem Block.onMrg_dict (f) : (b.onMrg f).dict = b.dict := rfl
@[simp] theorem Block.onMrg_ev (f) : (b.onMrg f).ev = b.ev := rfl
@[simp] theorem Block.onMrg_sec (f) : (b.onMrg f).sec = b.sec := rfl
@[simp] theorem Block.onMrg_env (f) : (b.onMrg f).env = b.env := rfl
@[simp] theorem Block.onMrg_jtag (f) : (b.onMrg f).jtag = b.jtag := rfl
@[simp] theorem Block.onMrg_free (f) : (b.onMrg f).free = b.free := rfl
@[simp] theorem Block.onMrg_reg (f k) : (b.onMrg f).reg k = b.reg k := rfl
@[simp] theorem Block.onMrg_rs (f k) : (b.onMrg f).rs k = b.rs k := rfl
@[simp] theorem Block.onMrg_latched (f n) : (b.onMrg f).latched n = b.latched n := rfl

@[simp] theorem Block.onFrm_fuses (f) : (b.onFrm f).fuses = b.fuses := rfl
@[simp] theorem Block.onFrm_flash (f) : (b.onFrm f).flash = b.flash := rfl
@[simp] theorem Block.onFrm_boot (f) : (b.onFrm f).boot = b.boot := rfl
@[simp] theorem Block.onFrm_sets (f) : (b.onFrm f).sets = b.sets := rfl
@[simp] theorem Block.onFrm_time (f) : (b.onFrm f).time = b.time := rfl
@[simp] theorem Block.onFrm_chans (f) : (b.onFrm f).chans = b.chans := rfl
@[simp] theorem Block.onFrm_chMask (f) : (b.onFrm f).chMask = b.chMask := rfl
@[simp] theorem Block.onFrm_chSince (f) : (b.onFrm f).chSince = b.chSince := rfl
@[simp] theorem Block.onFrm_leads (f) : (b.onFrm f).leads = b.leads := rfl
@[simp] theorem Block.onFrm_plate (f) : (b.onFrm f).plate = b.plate := rfl
@[simp] theorem Block.onFrm_bin (f) : (b.onFrm f).bin = b.bin := rfl
@[simp] theorem Block.onFrm_iu (f) : (b.onFrm f).iu = b.iu := rfl
@[simp] theorem Block.onFrm_adc (f) : (b.onFrm f).adc = b.adc := rfl
@[simp] theorem Block.onFrm_acc (f) : (b.onFrm f).acc = b.acc := rfl
@[simp] theorem Block.onFrm_stk (f) : (b.onFrm f).stk = b.stk := rfl
@[simp] theorem Block.onFrm_queues (f) : (b.onFrm f).queues = b.queues := rfl
@[simp] theorem Block.onFrm_mrg (f) : (b.onFrm f).mrg = b.mrg := rfl
@[simp] theorem Block.onFrm_frm (f) : (b.onFrm f).frm = f b.frm := rfl
@[simp] theorem Block.onFrm_cvus (f) : (b.onFrm f).cvus = b.cvus := rfl
@[simp] theorem Block.onFrm_twin (f) : (b.onFrm f).twin = b.twin := rfl
@[simp] theorem Block.onFrm_flt (f) : (b.onFrm f).flt = b.flt := rfl
@[simp] theorem Block.onFrm_dict (f) : (b.onFrm f).dict = b.dict := rfl
@[simp] theorem Block.onFrm_ev (f) : (b.onFrm f).ev = b.ev := rfl
@[simp] theorem Block.onFrm_sec (f) : (b.onFrm f).sec = b.sec := rfl
@[simp] theorem Block.onFrm_env (f) : (b.onFrm f).env = b.env := rfl
@[simp] theorem Block.onFrm_jtag (f) : (b.onFrm f).jtag = b.jtag := rfl
@[simp] theorem Block.onFrm_free (f) : (b.onFrm f).free = b.free := rfl
@[simp] theorem Block.onFrm_reg (f k) : (b.onFrm f).reg k = b.reg k := rfl
@[simp] theorem Block.onFrm_rs (f k) : (b.onFrm f).rs k = b.rs k := rfl
@[simp] theorem Block.onFrm_latched (f n) : (b.onFrm f).latched n = b.latched n := rfl

@[simp] theorem Block.onTwin_fuses (f) : (b.onTwin f).fuses = b.fuses := rfl
@[simp] theorem Block.onTwin_flash (f) : (b.onTwin f).flash = b.flash := rfl
@[simp] theorem Block.onTwin_boot (f) : (b.onTwin f).boot = b.boot := rfl
@[simp] theorem Block.onTwin_sets (f) : (b.onTwin f).sets = b.sets := rfl
@[simp] theorem Block.onTwin_time (f) : (b.onTwin f).time = b.time := rfl
@[simp] theorem Block.onTwin_chans (f) : (b.onTwin f).chans = b.chans := rfl
@[simp] theorem Block.onTwin_chMask (f) : (b.onTwin f).chMask = b.chMask := rfl
@[simp] theorem Block.onTwin_chSince (f) : (b.onTwin f).chSince = b.chSince := rfl
@[simp] theorem Block.onTwin_leads (f) : (b.onTwin f).leads = b.leads := rfl
@[simp] theorem Block.onTwin_plate (f) : (b.onTwin f).plate = b.plate := rfl
@[simp] theorem Block.onTwin_bin (f) : (b.onTwin f).bin = b.bin := rfl
@[simp] theorem Block.onTwin_iu (f) : (b.onTwin f).iu = b.iu := rfl
@[simp] theorem Block.onTwin_adc (f) : (b.onTwin f).adc = b.adc := rfl
@[simp] theorem Block.onTwin_acc (f) : (b.onTwin f).acc = b.acc := rfl
@[simp] theorem Block.onTwin_stk (f) : (b.onTwin f).stk = b.stk := rfl
@[simp] theorem Block.onTwin_queues (f) : (b.onTwin f).queues = b.queues := rfl
@[simp] theorem Block.onTwin_mrg (f) : (b.onTwin f).mrg = b.mrg := rfl
@[simp] theorem Block.onTwin_frm (f) : (b.onTwin f).frm = b.frm := rfl
@[simp] theorem Block.onTwin_cvus (f) : (b.onTwin f).cvus = b.cvus := rfl
@[simp] theorem Block.onTwin_twin (f) : (b.onTwin f).twin = f b.twin := rfl
@[simp] theorem Block.onTwin_flt (f) : (b.onTwin f).flt = b.flt := rfl
@[simp] theorem Block.onTwin_dict (f) : (b.onTwin f).dict = b.dict := rfl
@[simp] theorem Block.onTwin_ev (f) : (b.onTwin f).ev = b.ev := rfl
@[simp] theorem Block.onTwin_sec (f) : (b.onTwin f).sec = b.sec := rfl
@[simp] theorem Block.onTwin_env (f) : (b.onTwin f).env = b.env := rfl
@[simp] theorem Block.onTwin_jtag (f) : (b.onTwin f).jtag = b.jtag := rfl
@[simp] theorem Block.onTwin_free (f) : (b.onTwin f).free = b.free := rfl
@[simp] theorem Block.onTwin_reg (f k) : (b.onTwin f).reg k = b.reg k := rfl
@[simp] theorem Block.onTwin_rs (f k) : (b.onTwin f).rs k = b.rs k := rfl
@[simp] theorem Block.onTwin_latched (f n) : (b.onTwin f).latched n = b.latched n := rfl

@[simp] theorem Block.onFlt_fuses (f) : (b.onFlt f).fuses = b.fuses := rfl
@[simp] theorem Block.onFlt_flash (f) : (b.onFlt f).flash = b.flash := rfl
@[simp] theorem Block.onFlt_boot (f) : (b.onFlt f).boot = b.boot := rfl
@[simp] theorem Block.onFlt_sets (f) : (b.onFlt f).sets = b.sets := rfl
@[simp] theorem Block.onFlt_time (f) : (b.onFlt f).time = b.time := rfl
@[simp] theorem Block.onFlt_chans (f) : (b.onFlt f).chans = b.chans := rfl
@[simp] theorem Block.onFlt_chMask (f) : (b.onFlt f).chMask = b.chMask := rfl
@[simp] theorem Block.onFlt_chSince (f) : (b.onFlt f).chSince = b.chSince := rfl
@[simp] theorem Block.onFlt_leads (f) : (b.onFlt f).leads = b.leads := rfl
@[simp] theorem Block.onFlt_plate (f) : (b.onFlt f).plate = b.plate := rfl
@[simp] theorem Block.onFlt_bin (f) : (b.onFlt f).bin = b.bin := rfl
@[simp] theorem Block.onFlt_iu (f) : (b.onFlt f).iu = b.iu := rfl
@[simp] theorem Block.onFlt_adc (f) : (b.onFlt f).adc = b.adc := rfl
@[simp] theorem Block.onFlt_acc (f) : (b.onFlt f).acc = b.acc := rfl
@[simp] theorem Block.onFlt_stk (f) : (b.onFlt f).stk = b.stk := rfl
@[simp] theorem Block.onFlt_queues (f) : (b.onFlt f).queues = b.queues := rfl
@[simp] theorem Block.onFlt_mrg (f) : (b.onFlt f).mrg = b.mrg := rfl
@[simp] theorem Block.onFlt_frm (f) : (b.onFlt f).frm = b.frm := rfl
@[simp] theorem Block.onFlt_cvus (f) : (b.onFlt f).cvus = b.cvus := rfl
@[simp] theorem Block.onFlt_twin (f) : (b.onFlt f).twin = b.twin := rfl
@[simp] theorem Block.onFlt_flt (f) : (b.onFlt f).flt = f b.flt := rfl
@[simp] theorem Block.onFlt_dict (f) : (b.onFlt f).dict = b.dict := rfl
@[simp] theorem Block.onFlt_ev (f) : (b.onFlt f).ev = b.ev := rfl
@[simp] theorem Block.onFlt_sec (f) : (b.onFlt f).sec = b.sec := rfl
@[simp] theorem Block.onFlt_env (f) : (b.onFlt f).env = b.env := rfl
@[simp] theorem Block.onFlt_jtag (f) : (b.onFlt f).jtag = b.jtag := rfl
@[simp] theorem Block.onFlt_free (f) : (b.onFlt f).free = b.free := rfl
@[simp] theorem Block.onFlt_reg (f k) : (b.onFlt f).reg k = b.reg k := rfl
@[simp] theorem Block.onFlt_rs (f k) : (b.onFlt f).rs k = b.rs k := rfl
@[simp] theorem Block.onFlt_latched (f n) : (b.onFlt f).latched n = b.latched n := rfl

@[simp] theorem Block.onDict_fuses (f) : (b.onDict f).fuses = b.fuses := rfl
@[simp] theorem Block.onDict_flash (f) : (b.onDict f).flash = b.flash := rfl
@[simp] theorem Block.onDict_boot (f) : (b.onDict f).boot = b.boot := rfl
@[simp] theorem Block.onDict_sets (f) : (b.onDict f).sets = b.sets := rfl
@[simp] theorem Block.onDict_time (f) : (b.onDict f).time = b.time := rfl
@[simp] theorem Block.onDict_chans (f) : (b.onDict f).chans = b.chans := rfl
@[simp] theorem Block.onDict_chMask (f) : (b.onDict f).chMask = b.chMask := rfl
@[simp] theorem Block.onDict_chSince (f) : (b.onDict f).chSince = b.chSince := rfl
@[simp] theorem Block.onDict_leads (f) : (b.onDict f).leads = b.leads := rfl
@[simp] theorem Block.onDict_plate (f) : (b.onDict f).plate = b.plate := rfl
@[simp] theorem Block.onDict_bin (f) : (b.onDict f).bin = b.bin := rfl
@[simp] theorem Block.onDict_iu (f) : (b.onDict f).iu = b.iu := rfl
@[simp] theorem Block.onDict_adc (f) : (b.onDict f).adc = b.adc := rfl
@[simp] theorem Block.onDict_acc (f) : (b.onDict f).acc = b.acc := rfl
@[simp] theorem Block.onDict_stk (f) : (b.onDict f).stk = b.stk := rfl
@[simp] theorem Block.onDict_queues (f) : (b.onDict f).queues = b.queues := rfl
@[simp] theorem Block.onDict_mrg (f) : (b.onDict f).mrg = b.mrg := rfl
@[simp] theorem Block.onDict_frm (f) : (b.onDict f).frm = b.frm := rfl
@[simp] theorem Block.onDict_cvus (f) : (b.onDict f).cvus = b.cvus := rfl
@[simp] theorem Block.onDict_twin (f) : (b.onDict f).twin = b.twin := rfl
@[simp] theorem Block.onDict_flt (f) : (b.onDict f).flt = b.flt := rfl
@[simp] theorem Block.onDict_dict (f) : (b.onDict f).dict = f b.dict := rfl
@[simp] theorem Block.onDict_ev (f) : (b.onDict f).ev = b.ev := rfl
@[simp] theorem Block.onDict_sec (f) : (b.onDict f).sec = b.sec := rfl
@[simp] theorem Block.onDict_env (f) : (b.onDict f).env = b.env := rfl
@[simp] theorem Block.onDict_jtag (f) : (b.onDict f).jtag = b.jtag := rfl
@[simp] theorem Block.onDict_free (f) : (b.onDict f).free = b.free := rfl

@[simp] theorem Block.onEv_fuses (f) : (b.onEv f).fuses = b.fuses := rfl
@[simp] theorem Block.onEv_flash (f) : (b.onEv f).flash = b.flash := rfl
@[simp] theorem Block.onEv_boot (f) : (b.onEv f).boot = b.boot := rfl
@[simp] theorem Block.onEv_sets (f) : (b.onEv f).sets = b.sets := rfl
@[simp] theorem Block.onEv_time (f) : (b.onEv f).time = b.time := rfl
@[simp] theorem Block.onEv_chans (f) : (b.onEv f).chans = b.chans := rfl
@[simp] theorem Block.onEv_chMask (f) : (b.onEv f).chMask = b.chMask := rfl
@[simp] theorem Block.onEv_chSince (f) : (b.onEv f).chSince = b.chSince := rfl
@[simp] theorem Block.onEv_leads (f) : (b.onEv f).leads = b.leads := rfl
@[simp] theorem Block.onEv_plate (f) : (b.onEv f).plate = b.plate := rfl
@[simp] theorem Block.onEv_bin (f) : (b.onEv f).bin = b.bin := rfl
@[simp] theorem Block.onEv_iu (f) : (b.onEv f).iu = b.iu := rfl
@[simp] theorem Block.onEv_adc (f) : (b.onEv f).adc = b.adc := rfl
@[simp] theorem Block.onEv_acc (f) : (b.onEv f).acc = b.acc := rfl
@[simp] theorem Block.onEv_stk (f) : (b.onEv f).stk = b.stk := rfl
@[simp] theorem Block.onEv_queues (f) : (b.onEv f).queues = b.queues := rfl
@[simp] theorem Block.onEv_mrg (f) : (b.onEv f).mrg = b.mrg := rfl
@[simp] theorem Block.onEv_frm (f) : (b.onEv f).frm = b.frm := rfl
@[simp] theorem Block.onEv_cvus (f) : (b.onEv f).cvus = b.cvus := rfl
@[simp] theorem Block.onEv_twin (f) : (b.onEv f).twin = b.twin := rfl
@[simp] theorem Block.onEv_flt (f) : (b.onEv f).flt = b.flt := rfl
@[simp] theorem Block.onEv_dict (f) : (b.onEv f).dict = b.dict := rfl
@[simp] theorem Block.onEv_ev (f) : (b.onEv f).ev = f b.ev := rfl
@[simp] theorem Block.onEv_sec (f) : (b.onEv f).sec = b.sec := rfl
@[simp] theorem Block.onEv_env (f) : (b.onEv f).env = b.env := rfl
@[simp] theorem Block.onEv_jtag (f) : (b.onEv f).jtag = b.jtag := rfl
@[simp] theorem Block.onEv_free (f) : (b.onEv f).free = b.free := rfl
@[simp] theorem Block.onEv_reg (f k) : (b.onEv f).reg k = b.reg k := rfl
@[simp] theorem Block.onEv_rs (f k) : (b.onEv f).rs k = b.rs k := rfl
@[simp] theorem Block.onEv_latched (f n) : (b.onEv f).latched n = b.latched n := rfl

@[simp] theorem Block.onSec_fuses (f) : (b.onSec f).fuses = b.fuses := rfl
@[simp] theorem Block.onSec_flash (f) : (b.onSec f).flash = b.flash := rfl
@[simp] theorem Block.onSec_boot (f) : (b.onSec f).boot = b.boot := rfl
@[simp] theorem Block.onSec_sets (f) : (b.onSec f).sets = b.sets := rfl
@[simp] theorem Block.onSec_time (f) : (b.onSec f).time = b.time := rfl
@[simp] theorem Block.onSec_chans (f) : (b.onSec f).chans = b.chans := rfl
@[simp] theorem Block.onSec_chMask (f) : (b.onSec f).chMask = b.chMask := rfl
@[simp] theorem Block.onSec_chSince (f) : (b.onSec f).chSince = b.chSince := rfl
@[simp] theorem Block.onSec_leads (f) : (b.onSec f).leads = b.leads := rfl
@[simp] theorem Block.onSec_plate (f) : (b.onSec f).plate = b.plate := rfl
@[simp] theorem Block.onSec_bin (f) : (b.onSec f).bin = b.bin := rfl
@[simp] theorem Block.onSec_iu (f) : (b.onSec f).iu = b.iu := rfl
@[simp] theorem Block.onSec_adc (f) : (b.onSec f).adc = b.adc := rfl
@[simp] theorem Block.onSec_acc (f) : (b.onSec f).acc = b.acc := rfl
@[simp] theorem Block.onSec_stk (f) : (b.onSec f).stk = b.stk := rfl
@[simp] theorem Block.onSec_queues (f) : (b.onSec f).queues = b.queues := rfl
@[simp] theorem Block.onSec_mrg (f) : (b.onSec f).mrg = b.mrg := rfl
@[simp] theorem Block.onSec_frm (f) : (b.onSec f).frm = b.frm := rfl
@[simp] theorem Block.onSec_cvus (f) : (b.onSec f).cvus = b.cvus := rfl
@[simp] theorem Block.onSec_twin (f) : (b.onSec f).twin = b.twin := rfl
@[simp] theorem Block.onSec_flt (f) : (b.onSec f).flt = b.flt := rfl
@[simp] theorem Block.onSec_dict (f) : (b.onSec f).dict = b.dict := rfl
@[simp] theorem Block.onSec_ev (f) : (b.onSec f).ev = b.ev := rfl
@[simp] theorem Block.onSec_sec (f) : (b.onSec f).sec = f b.sec := rfl
@[simp] theorem Block.onSec_env (f) : (b.onSec f).env = b.env := rfl
@[simp] theorem Block.onSec_jtag (f) : (b.onSec f).jtag = b.jtag := rfl
@[simp] theorem Block.onSec_free (f) : (b.onSec f).free = b.free := rfl
@[simp] theorem Block.onSec_reg (f k) : (b.onSec f).reg k = b.reg k := rfl
@[simp] theorem Block.onSec_rs (f k) : (b.onSec f).rs k = b.rs k := rfl
@[simp] theorem Block.onSec_latched (f n) : (b.onSec f).latched n = b.latched n := rfl

@[simp] theorem Block.onEnv_fuses (f) : (b.onEnv f).fuses = b.fuses := rfl
@[simp] theorem Block.onEnv_flash (f) : (b.onEnv f).flash = b.flash := rfl
@[simp] theorem Block.onEnv_boot (f) : (b.onEnv f).boot = b.boot := rfl
@[simp] theorem Block.onEnv_sets (f) : (b.onEnv f).sets = b.sets := rfl
@[simp] theorem Block.onEnv_time (f) : (b.onEnv f).time = b.time := rfl
@[simp] theorem Block.onEnv_chans (f) : (b.onEnv f).chans = b.chans := rfl
@[simp] theorem Block.onEnv_chMask (f) : (b.onEnv f).chMask = b.chMask := rfl
@[simp] theorem Block.onEnv_chSince (f) : (b.onEnv f).chSince = b.chSince := rfl
@[simp] theorem Block.onEnv_leads (f) : (b.onEnv f).leads = b.leads := rfl
@[simp] theorem Block.onEnv_plate (f) : (b.onEnv f).plate = b.plate := rfl
@[simp] theorem Block.onEnv_bin (f) : (b.onEnv f).bin = b.bin := rfl
@[simp] theorem Block.onEnv_iu (f) : (b.onEnv f).iu = b.iu := rfl
@[simp] theorem Block.onEnv_adc (f) : (b.onEnv f).adc = b.adc := rfl
@[simp] theorem Block.onEnv_acc (f) : (b.onEnv f).acc = b.acc := rfl
@[simp] theorem Block.onEnv_stk (f) : (b.onEnv f).stk = b.stk := rfl
@[simp] theorem Block.onEnv_queues (f) : (b.onEnv f).queues = b.queues := rfl
@[simp] theorem Block.onEnv_mrg (f) : (b.onEnv f).mrg = b.mrg := rfl
@[simp] theorem Block.onEnv_frm (f) : (b.onEnv f).frm = b.frm := rfl
@[simp] theorem Block.onEnv_cvus (f) : (b.onEnv f).cvus = b.cvus := rfl
@[simp] theorem Block.onEnv_twin (f) : (b.onEnv f).twin = b.twin := rfl
@[simp] theorem Block.onEnv_flt (f) : (b.onEnv f).flt = b.flt := rfl
@[simp] theorem Block.onEnv_dict (f) : (b.onEnv f).dict = b.dict := rfl
@[simp] theorem Block.onEnv_ev (f) : (b.onEnv f).ev = b.ev := rfl
@[simp] theorem Block.onEnv_sec (f) : (b.onEnv f).sec = b.sec := rfl
@[simp] theorem Block.onEnv_env (f) : (b.onEnv f).env = f b.env := rfl
@[simp] theorem Block.onEnv_jtag (f) : (b.onEnv f).jtag = b.jtag := rfl
@[simp] theorem Block.onEnv_free (f) : (b.onEnv f).free = b.free := rfl
@[simp] theorem Block.onEnv_reg (f k) : (b.onEnv f).reg k = b.reg k := rfl
@[simp] theorem Block.onEnv_rs (f k) : (b.onEnv f).rs k = b.rs k := rfl
@[simp] theorem Block.onEnv_latched (f n) : (b.onEnv f).latched n = b.latched n := rfl

@[simp] theorem Block.onJtag_fuses (f) : (b.onJtag f).fuses = b.fuses := rfl
@[simp] theorem Block.onJtag_flash (f) : (b.onJtag f).flash = b.flash := rfl
@[simp] theorem Block.onJtag_boot (f) : (b.onJtag f).boot = b.boot := rfl
@[simp] theorem Block.onJtag_sets (f) : (b.onJtag f).sets = b.sets := rfl
@[simp] theorem Block.onJtag_time (f) : (b.onJtag f).time = b.time := rfl
@[simp] theorem Block.onJtag_chans (f) : (b.onJtag f).chans = b.chans := rfl
@[simp] theorem Block.onJtag_chMask (f) : (b.onJtag f).chMask = b.chMask := rfl
@[simp] theorem Block.onJtag_chSince (f) : (b.onJtag f).chSince = b.chSince := rfl
@[simp] theorem Block.onJtag_leads (f) : (b.onJtag f).leads = b.leads := rfl
@[simp] theorem Block.onJtag_plate (f) : (b.onJtag f).plate = b.plate := rfl
@[simp] theorem Block.onJtag_bin (f) : (b.onJtag f).bin = b.bin := rfl
@[simp] theorem Block.onJtag_iu (f) : (b.onJtag f).iu = b.iu := rfl
@[simp] theorem Block.onJtag_adc (f) : (b.onJtag f).adc = b.adc := rfl
@[simp] theorem Block.onJtag_acc (f) : (b.onJtag f).acc = b.acc := rfl
@[simp] theorem Block.onJtag_stk (f) : (b.onJtag f).stk = b.stk := rfl
@[simp] theorem Block.onJtag_queues (f) : (b.onJtag f).queues = b.queues := rfl
@[simp] theorem Block.onJtag_mrg (f) : (b.onJtag f).mrg = b.mrg := rfl
@[simp] theorem Block.onJtag_frm (f) : (b.onJtag f).frm = b.frm := rfl
@[simp] theorem Block.onJtag_cvus (f) : (b.onJtag f).cvus = b.cvus := rfl
@[simp] theorem Block.onJtag_twin (f) : (b.onJtag f).twin = b.twin := rfl
@[simp] theorem Block.onJtag_flt (f) : (b.onJtag f).flt = b.flt := rfl
@[simp] theorem Block.onJtag_dict (f) : (b.onJtag f).dict = b.dict := rfl
@[simp] theorem Block.onJtag_ev (f) : (b.onJtag f).ev = b.ev := rfl
@[simp] theorem Block.onJtag_sec (f) : (b.onJtag f).sec = b.sec := rfl
@[simp] theorem Block.onJtag_env (f) : (b.onJtag f).env = b.env := rfl
@[simp] theorem Block.onJtag_jtag (f) : (b.onJtag f).jtag = f b.jtag := rfl
@[simp] theorem Block.onJtag_free (f) : (b.onJtag f).free = b.free := rfl
@[simp] theorem Block.onJtag_reg (f k) : (b.onJtag f).reg k = b.reg k := rfl
@[simp] theorem Block.onJtag_rs (f k) : (b.onJtag f).rs k = b.rs k := rfl
@[simp] theorem Block.onJtag_latched (f n) : (b.onJtag f).latched n = b.latched n := rfl

@[simp] theorem Block.onChan_fuses (c f) : (b.onChan c f).fuses = b.fuses := rfl
@[simp] theorem Block.onChan_flash (c f) : (b.onChan c f).flash = b.flash := rfl
@[simp] theorem Block.onChan_boot (c f) : (b.onChan c f).boot = b.boot := rfl
@[simp] theorem Block.onChan_sets (c f) : (b.onChan c f).sets = b.sets := rfl
@[simp] theorem Block.onChan_time (c f) : (b.onChan c f).time = b.time := rfl
@[simp] theorem Block.onChan_chMask (c f) : (b.onChan c f).chMask = b.chMask := rfl
@[simp] theorem Block.onChan_chSince (c f) : (b.onChan c f).chSince = b.chSince := rfl
@[simp] theorem Block.onChan_leads (c f) : (b.onChan c f).leads = b.leads := rfl
@[simp] theorem Block.onChan_plate (c f) : (b.onChan c f).plate = b.plate := rfl
@[simp] theorem Block.onChan_bin (c f) : (b.onChan c f).bin = b.bin := rfl
@[simp] theorem Block.onChan_iu (c f) : (b.onChan c f).iu = b.iu := rfl
@[simp] theorem Block.onChan_adc (c f) : (b.onChan c f).adc = b.adc := rfl
@[simp] theorem Block.onChan_acc (c f) : (b.onChan c f).acc = b.acc := rfl
@[simp] theorem Block.onChan_stk (c f) : (b.onChan c f).stk = b.stk := rfl
@[simp] theorem Block.onChan_queues (c f) : (b.onChan c f).queues = b.queues := rfl
@[simp] theorem Block.onChan_mrg (c f) : (b.onChan c f).mrg = b.mrg := rfl
@[simp] theorem Block.onChan_frm (c f) : (b.onChan c f).frm = b.frm := rfl
@[simp] theorem Block.onChan_cvus (c f) : (b.onChan c f).cvus = b.cvus := rfl
@[simp] theorem Block.onChan_twin (c f) : (b.onChan c f).twin = b.twin := rfl
@[simp] theorem Block.onChan_flt (c f) : (b.onChan c f).flt = b.flt := rfl
@[simp] theorem Block.onChan_dict (c f) : (b.onChan c f).dict = b.dict := rfl
@[simp] theorem Block.onChan_ev (c f) : (b.onChan c f).ev = b.ev := rfl
@[simp] theorem Block.onChan_sec (c f) : (b.onChan c f).sec = b.sec := rfl
@[simp] theorem Block.onChan_env (c f) : (b.onChan c f).env = b.env := rfl
@[simp] theorem Block.onChan_jtag (c f) : (b.onChan c f).jtag = b.jtag := rfl
@[simp] theorem Block.onChan_free (c f) : (b.onChan c f).free = b.free := rfl
@[simp] theorem Block.onChan_reg (c f k) : (b.onChan c f).reg k = b.reg k := rfl
@[simp] theorem Block.onChan_rs (c f k) : (b.onChan c f).rs k = b.rs k := rfl
@[simp] theorem Block.onChan_latched (c f n) : (b.onChan c f).latched n = b.latched n := rfl

@[simp] theorem Block.onLane_fuses (l f) : (b.onLane l f).fuses = b.fuses := rfl
@[simp] theorem Block.onLane_flash (l f) : (b.onLane l f).flash = b.flash := rfl
@[simp] theorem Block.onLane_boot (l f) : (b.onLane l f).boot = b.boot := rfl
@[simp] theorem Block.onLane_sets (l f) : (b.onLane l f).sets = b.sets := rfl
@[simp] theorem Block.onLane_time (l f) : (b.onLane l f).time = b.time := rfl
@[simp] theorem Block.onLane_chans (l f) : (b.onLane l f).chans = b.chans := rfl
@[simp] theorem Block.onLane_chMask (l f) : (b.onLane l f).chMask = b.chMask := rfl
@[simp] theorem Block.onLane_chSince (l f) : (b.onLane l f).chSince = b.chSince := rfl
@[simp] theorem Block.onLane_leads (l f) : (b.onLane l f).leads = b.leads := rfl
@[simp] theorem Block.onLane_plate (l f) : (b.onLane l f).plate = b.plate := rfl
@[simp] theorem Block.onLane_bin (l f) : (b.onLane l f).bin = b.bin := rfl
@[simp] theorem Block.onLane_iu (l f) : (b.onLane l f).iu = b.iu := rfl
@[simp] theorem Block.onLane_adc (l f) : (b.onLane l f).adc = b.adc := rfl
@[simp] theorem Block.onLane_acc (l f) : (b.onLane l f).acc = b.acc := rfl
@[simp] theorem Block.onLane_stk (l f) : (b.onLane l f).stk = b.stk := rfl
@[simp] theorem Block.onLane_queues (l f) : (b.onLane l f).queues = b.queues := rfl
@[simp] theorem Block.onLane_mrg (l f) : (b.onLane l f).mrg = b.mrg := rfl
@[simp] theorem Block.onLane_cvus (l f) : (b.onLane l f).cvus = b.cvus := rfl
@[simp] theorem Block.onLane_twin (l f) : (b.onLane l f).twin = b.twin := rfl
@[simp] theorem Block.onLane_flt (l f) : (b.onLane l f).flt = b.flt := rfl
@[simp] theorem Block.onLane_dict (l f) : (b.onLane l f).dict = b.dict := rfl
@[simp] theorem Block.onLane_ev (l f) : (b.onLane l f).ev = b.ev := rfl
@[simp] theorem Block.onLane_sec (l f) : (b.onLane l f).sec = b.sec := rfl
@[simp] theorem Block.onLane_env (l f) : (b.onLane l f).env = b.env := rfl
@[simp] theorem Block.onLane_jtag (l f) : (b.onLane l f).jtag = b.jtag := rfl
@[simp] theorem Block.onLane_free (l f) : (b.onLane l f).free = b.free := rfl
@[simp] theorem Block.onLane_reg (l f k) : (b.onLane l f).reg k = b.reg k := rfl
@[simp] theorem Block.onLane_rs (l f k) : (b.onLane l f).rs k = b.rs k := rfl
@[simp] theorem Block.onLane_latched (l f n) : (b.onLane l f).latched n = b.latched n := rfl

@[simp] theorem Block.onPort_fuses (p f) : (b.onPort p f).fuses = b.fuses := rfl
@[simp] theorem Block.onPort_flash (p f) : (b.onPort p f).flash = b.flash := rfl
@[simp] theorem Block.onPort_boot (p f) : (b.onPort p f).boot = b.boot := rfl
@[simp] theorem Block.onPort_sets (p f) : (b.onPort p f).sets = b.sets := rfl
@[simp] theorem Block.onPort_time (p f) : (b.onPort p f).time = b.time := rfl
@[simp] theorem Block.onPort_chans (p f) : (b.onPort p f).chans = b.chans := rfl
@[simp] theorem Block.onPort_chMask (p f) : (b.onPort p f).chMask = b.chMask := rfl
@[simp] theorem Block.onPort_chSince (p f) : (b.onPort p f).chSince = b.chSince := rfl
@[simp] theorem Block.onPort_leads (p f) : (b.onPort p f).leads = b.leads := rfl
@[simp] theorem Block.onPort_plate (p f) : (b.onPort p f).plate = b.plate := rfl
@[simp] theorem Block.onPort_bin (p f) : (b.onPort p f).bin = b.bin := rfl
@[simp] theorem Block.onPort_iu (p f) : (b.onPort p f).iu = b.iu := rfl
@[simp] theorem Block.onPort_adc (p f) : (b.onPort p f).adc = b.adc := rfl
@[simp] theorem Block.onPort_acc (p f) : (b.onPort p f).acc = b.acc := rfl
@[simp] theorem Block.onPort_stk (p f) : (b.onPort p f).stk = b.stk := rfl
@[simp] theorem Block.onPort_queues (p f) : (b.onPort p f).queues = b.queues := rfl
@[simp] theorem Block.onPort_frm (p f) : (b.onPort p f).frm = b.frm := rfl
@[simp] theorem Block.onPort_cvus (p f) : (b.onPort p f).cvus = b.cvus := rfl
@[simp] theorem Block.onPort_twin (p f) : (b.onPort p f).twin = b.twin := rfl
@[simp] theorem Block.onPort_flt (p f) : (b.onPort p f).flt = b.flt := rfl
@[simp] theorem Block.onPort_dict (p f) : (b.onPort p f).dict = b.dict := rfl
@[simp] theorem Block.onPort_ev (p f) : (b.onPort p f).ev = b.ev := rfl
@[simp] theorem Block.onPort_sec (p f) : (b.onPort p f).sec = b.sec := rfl
@[simp] theorem Block.onPort_env (p f) : (b.onPort p f).env = b.env := rfl
@[simp] theorem Block.onPort_jtag (p f) : (b.onPort p f).jtag = b.jtag := rfl
@[simp] theorem Block.onPort_free (p f) : (b.onPort p f).free = b.free := rfl
@[simp] theorem Block.onPort_reg (p f k) : (b.onPort p f).reg k = b.reg k := rfl
@[simp] theorem Block.onPort_rs (p f k) : (b.onPort p f).rs k = b.rs k := rfl
@[simp] theorem Block.onPort_latched (p f n) : (b.onPort p f).latched n = b.latched n := rfl

@[simp] theorem Block.onUplink_fuses (u f) : (b.onUplink u f).fuses = b.fuses := rfl
@[simp] theorem Block.onUplink_flash (u f) : (b.onUplink u f).flash = b.flash := rfl
@[simp] theorem Block.onUplink_boot (u f) : (b.onUplink u f).boot = b.boot := rfl
@[simp] theorem Block.onUplink_sets (u f) : (b.onUplink u f).sets = b.sets := rfl
@[simp] theorem Block.onUplink_time (u f) : (b.onUplink u f).time = b.time := rfl
@[simp] theorem Block.onUplink_chans (u f) : (b.onUplink u f).chans = b.chans := rfl
@[simp] theorem Block.onUplink_chMask (u f) : (b.onUplink u f).chMask = b.chMask := rfl
@[simp] theorem Block.onUplink_chSince (u f) : (b.onUplink u f).chSince = b.chSince := rfl
@[simp] theorem Block.onUplink_leads (u f) : (b.onUplink u f).leads = b.leads := rfl
@[simp] theorem Block.onUplink_plate (u f) : (b.onUplink u f).plate = b.plate := rfl
@[simp] theorem Block.onUplink_bin (u f) : (b.onUplink u f).bin = b.bin := rfl
@[simp] theorem Block.onUplink_iu (u f) : (b.onUplink u f).iu = b.iu := rfl
@[simp] theorem Block.onUplink_adc (u f) : (b.onUplink u f).adc = b.adc := rfl
@[simp] theorem Block.onUplink_acc (u f) : (b.onUplink u f).acc = b.acc := rfl
@[simp] theorem Block.onUplink_stk (u f) : (b.onUplink u f).stk = b.stk := rfl
@[simp] theorem Block.onUplink_queues (u f) : (b.onUplink u f).queues = b.queues := rfl
@[simp] theorem Block.onUplink_frm (u f) : (b.onUplink u f).frm = b.frm := rfl
@[simp] theorem Block.onUplink_cvus (u f) : (b.onUplink u f).cvus = b.cvus := rfl
@[simp] theorem Block.onUplink_twin (u f) : (b.onUplink u f).twin = b.twin := rfl
@[simp] theorem Block.onUplink_flt (u f) : (b.onUplink u f).flt = b.flt := rfl
@[simp] theorem Block.onUplink_dict (u f) : (b.onUplink u f).dict = b.dict := rfl
@[simp] theorem Block.onUplink_ev (u f) : (b.onUplink u f).ev = b.ev := rfl
@[simp] theorem Block.onUplink_sec (u f) : (b.onUplink u f).sec = b.sec := rfl
@[simp] theorem Block.onUplink_env (u f) : (b.onUplink u f).env = b.env := rfl
@[simp] theorem Block.onUplink_jtag (u f) : (b.onUplink u f).jtag = b.jtag := rfl
@[simp] theorem Block.onUplink_free (u f) : (b.onUplink u f).free = b.free := rfl
@[simp] theorem Block.onUplink_reg (u f k) : (b.onUplink u f).reg k = b.reg k := rfl
@[simp] theorem Block.onUplink_rs (u f k) : (b.onUplink u f).rs k = b.rs k := rfl
@[simp] theorem Block.onUplink_latched (u f n) : (b.onUplink u f).latched n = b.latched n := rfl

@[simp] theorem Block.onQueue_fuses (q f) : (b.onQueue q f).fuses = b.fuses := rfl
@[simp] theorem Block.onQueue_flash (q f) : (b.onQueue q f).flash = b.flash := rfl
@[simp] theorem Block.onQueue_boot (q f) : (b.onQueue q f).boot = b.boot := rfl
@[simp] theorem Block.onQueue_sets (q f) : (b.onQueue q f).sets = b.sets := rfl
@[simp] theorem Block.onQueue_time (q f) : (b.onQueue q f).time = b.time := rfl
@[simp] theorem Block.onQueue_chans (q f) : (b.onQueue q f).chans = b.chans := rfl
@[simp] theorem Block.onQueue_chMask (q f) : (b.onQueue q f).chMask = b.chMask := rfl
@[simp] theorem Block.onQueue_chSince (q f) : (b.onQueue q f).chSince = b.chSince := rfl
@[simp] theorem Block.onQueue_leads (q f) : (b.onQueue q f).leads = b.leads := rfl
@[simp] theorem Block.onQueue_plate (q f) : (b.onQueue q f).plate = b.plate := rfl
@[simp] theorem Block.onQueue_bin (q f) : (b.onQueue q f).bin = b.bin := rfl
@[simp] theorem Block.onQueue_iu (q f) : (b.onQueue q f).iu = b.iu := rfl
@[simp] theorem Block.onQueue_adc (q f) : (b.onQueue q f).adc = b.adc := rfl
@[simp] theorem Block.onQueue_acc (q f) : (b.onQueue q f).acc = b.acc := rfl
@[simp] theorem Block.onQueue_stk (q f) : (b.onQueue q f).stk = b.stk := rfl
@[simp] theorem Block.onQueue_mrg (q f) : (b.onQueue q f).mrg = b.mrg := rfl
@[simp] theorem Block.onQueue_frm (q f) : (b.onQueue q f).frm = b.frm := rfl
@[simp] theorem Block.onQueue_cvus (q f) : (b.onQueue q f).cvus = b.cvus := rfl
@[simp] theorem Block.onQueue_twin (q f) : (b.onQueue q f).twin = b.twin := rfl
@[simp] theorem Block.onQueue_flt (q f) : (b.onQueue q f).flt = b.flt := rfl
@[simp] theorem Block.onQueue_dict (q f) : (b.onQueue q f).dict = b.dict := rfl
@[simp] theorem Block.onQueue_ev (q f) : (b.onQueue q f).ev = b.ev := rfl
@[simp] theorem Block.onQueue_sec (q f) : (b.onQueue q f).sec = b.sec := rfl
@[simp] theorem Block.onQueue_env (q f) : (b.onQueue q f).env = b.env := rfl
@[simp] theorem Block.onQueue_jtag (q f) : (b.onQueue q f).jtag = b.jtag := rfl
@[simp] theorem Block.onQueue_free (q f) : (b.onQueue q f).free = b.free := rfl
@[simp] theorem Block.onQueue_reg (q f k) : (b.onQueue q f).reg k = b.reg k := rfl
@[simp] theorem Block.onQueue_rs (q f k) : (b.onQueue q f).rs k = b.rs k := rfl
@[simp] theorem Block.onQueue_latched (q f n) : (b.onQueue q f).latched n = b.latched n := rfl

@[simp] theorem Block.setReg_fuses (k v) : (b.setReg k v).fuses = b.fuses := rfl
@[simp] theorem Block.setReg_flash (k v) : (b.setReg k v).flash = b.flash := rfl
@[simp] theorem Block.setReg_boot (k v) : (b.setReg k v).boot = b.boot := rfl
@[simp] theorem Block.setReg_sets (k v) : (b.setReg k v).sets = b.sets := rfl
@[simp] theorem Block.setReg_time (k v) : (b.setReg k v).time = b.time := rfl
@[simp] theorem Block.setReg_chans (k v) : (b.setReg k v).chans = b.chans := rfl
@[simp] theorem Block.setReg_chMask (k v) : (b.setReg k v).chMask = b.chMask := rfl
@[simp] theorem Block.setReg_chSince (k v) : (b.setReg k v).chSince = b.chSince := rfl
@[simp] theorem Block.setReg_leads (k v) : (b.setReg k v).leads = b.leads := rfl
@[simp] theorem Block.setReg_plate (k v) : (b.setReg k v).plate = b.plate := rfl
@[simp] theorem Block.setReg_bin (k v) : (b.setReg k v).bin = b.bin := rfl
@[simp] theorem Block.setReg_iu (k v) : (b.setReg k v).iu = b.iu := rfl
@[simp] theorem Block.setReg_adc (k v) : (b.setReg k v).adc = b.adc := rfl
@[simp] theorem Block.setReg_acc (k v) : (b.setReg k v).acc = b.acc := rfl
@[simp] theorem Block.setReg_stk (k v) : (b.setReg k v).stk = b.stk := rfl
@[simp] theorem Block.setReg_queues (k v) : (b.setReg k v).queues = b.queues := rfl
@[simp] theorem Block.setReg_mrg (k v) : (b.setReg k v).mrg = b.mrg := rfl
@[simp] theorem Block.setReg_frm (k v) : (b.setReg k v).frm = b.frm := rfl
@[simp] theorem Block.setReg_cvus (k v) : (b.setReg k v).cvus = b.cvus := rfl
@[simp] theorem Block.setReg_twin (k v) : (b.setReg k v).twin = b.twin := rfl
@[simp] theorem Block.setReg_flt (k v) : (b.setReg k v).flt = b.flt := rfl
@[simp] theorem Block.setReg_ev (k v) : (b.setReg k v).ev = b.ev := rfl
@[simp] theorem Block.setReg_sec (k v) : (b.setReg k v).sec = b.sec := rfl
@[simp] theorem Block.setReg_env (k v) : (b.setReg k v).env = b.env := rfl
@[simp] theorem Block.setReg_jtag (k v) : (b.setReg k v).jtag = b.jtag := rfl
@[simp] theorem Block.setReg_free (k v) : (b.setReg k v).free = b.free := rfl

@[simp] theorem Block.freeNext_fuses  : (b.freeNext).fuses = b.fuses := rfl
@[simp] theorem Block.freeNext_flash  : (b.freeNext).flash = b.flash := rfl
@[simp] theorem Block.freeNext_boot  : (b.freeNext).boot = b.boot := rfl
@[simp] theorem Block.freeNext_sets  : (b.freeNext).sets = b.sets := rfl
@[simp] theorem Block.freeNext_time  : (b.freeNext).time = b.time := rfl
@[simp] theorem Block.freeNext_chans  : (b.freeNext).chans = b.chans := rfl
@[simp] theorem Block.freeNext_chMask  : (b.freeNext).chMask = b.chMask := rfl
@[simp] theorem Block.freeNext_chSince  : (b.freeNext).chSince = b.chSince := rfl
@[simp] theorem Block.freeNext_leads  : (b.freeNext).leads = b.leads := rfl
@[simp] theorem Block.freeNext_plate  : (b.freeNext).plate = b.plate := rfl
@[simp] theorem Block.freeNext_bin  : (b.freeNext).bin = b.bin := rfl
@[simp] theorem Block.freeNext_iu  : (b.freeNext).iu = b.iu := rfl
@[simp] theorem Block.freeNext_adc  : (b.freeNext).adc = b.adc := rfl
@[simp] theorem Block.freeNext_acc  : (b.freeNext).acc = b.acc := rfl
@[simp] theorem Block.freeNext_stk  : (b.freeNext).stk = b.stk := rfl
@[simp] theorem Block.freeNext_queues  : (b.freeNext).queues = b.queues := rfl
@[simp] theorem Block.freeNext_mrg  : (b.freeNext).mrg = b.mrg := rfl
@[simp] theorem Block.freeNext_frm  : (b.freeNext).frm = b.frm := rfl
@[simp] theorem Block.freeNext_cvus  : (b.freeNext).cvus = b.cvus := rfl
@[simp] theorem Block.freeNext_twin  : (b.freeNext).twin = b.twin := rfl
@[simp] theorem Block.freeNext_flt  : (b.freeNext).flt = b.flt := rfl
@[simp] theorem Block.freeNext_dict  : (b.freeNext).dict = b.dict := rfl
@[simp] theorem Block.freeNext_ev  : (b.freeNext).ev = b.ev := rfl
@[simp] theorem Block.freeNext_sec  : (b.freeNext).sec = b.sec := rfl
@[simp] theorem Block.freeNext_env  : (b.freeNext).env = b.env := rfl
@[simp] theorem Block.freeNext_jtag  : (b.freeNext).jtag = b.jtag := rfl
@[simp] theorem Block.freeNext_reg ( k) : (b.freeNext).reg k = b.reg k := rfl
@[simp] theorem Block.freeNext_rs ( k) : (b.freeNext).rs k = b.rs k := rfl
@[simp] theorem Block.freeNext_latched ( n) : (b.freeNext).latched n = b.latched n := rfl

end Sys2Proof.Machine
end

