-- ==== Sys2Proof/Laws/Kept.lean ====
section
/-! SUPPORT. What the shared operations leave as it was, part by part: raising a source, counting, answering. -/

namespace Sys2Proof.Machine

/-! ### A part that a frame does not name -/

theorem Keeps.fuses_eq {l : List Part} {a b : Block} (h : Keeps l a b) (hl : l.contains .fuses = false) : b.fuses = a.fuses := h.same .fuses (by simpa using hl)
theorem Keeps.flash_eq {l : List Part} {a b : Block} (h : Keeps l a b) (hl : l.contains .flash = false) : b.flash = a.flash := h.same .flash (by simpa using hl)
theorem Keeps.sets_eq {l : List Part} {a b : Block} (h : Keeps l a b) (hl : l.contains .sets = false) : b.sets = a.sets := h.same .sets (by simpa using hl)
theorem Keeps.chans_eq {l : List Part} {a b : Block} (h : Keeps l a b) (hl : l.contains .chans = false) : b.chans = a.chans := h.same .chans (by simpa using hl)
theorem Keeps.chMask_eq {l : List Part} {a b : Block} (h : Keeps l a b) (hl : l.contains .chMask = false) : b.chMask = a.chMask := h.same .chMask (by simpa using hl)
theorem Keeps.chSince_eq {l : List Part} {a b : Block} (h : Keeps l a b) (hl : l.contains .chSince = false) : b.chSince = a.chSince := h.same .chSince (by simpa using hl)
theorem Keeps.leads_eq {l : List Part} {a b : Block} (h : Keeps l a b) (hl : l.contains .leads = false) : b.leads = a.leads := h.same .leads (by simpa using hl)
theorem Keeps.plate_eq {l : List Part} {a b : Block} (h : Keeps l a b) (hl : l.contains .plate = false) : b.plate = a.plate := h.same .plate (by simpa using hl)
theorem Keeps.bin_eq {l : List Part} {a b : Block} (h : Keeps l a b) (hl : l.contains .bin = false) : b.bin = a.bin := h.same .bin (by simpa using hl)
theorem Keeps.iu_eq {l : List Part} {a b : Block} (h : Keeps l a b) (hl : l.contains .iu = false) : b.iu = a.iu := h.same .iu (by simpa using hl)
theorem Keeps.adc_eq {l : List Part} {a b : Block} (h : Keeps l a b) (hl : l.contains .adc = false) : b.adc = a.adc := h.same .adc (by simpa using hl)
theorem Keeps.acc_eq {l : List Part} {a b : Block} (h : Keeps l a b) (hl : l.contains .acc = false) : b.acc = a.acc := h.same .acc (by simpa using hl)
theorem Keeps.stk_eq {l : List Part} {a b : Block} (h : Keeps l a b) (hl : l.contains .stk = false) : b.stk = a.stk := h.same .stk (by simpa using hl)
theorem Keeps.queues_eq {l : List Part} {a b : Block} (h : Keeps l a b) (hl : l.contains .queues = false) : b.queues = a.queues := h.same .queues (by simpa using hl)
theorem Keeps.mrg_eq {l : List Part} {a b : Block} (h : Keeps l a b) (hl : l.contains .mrg = false) : b.mrg = a.mrg := h.same .mrg (by simpa using hl)
theorem Keeps.frm_eq {l : List Part} {a b : Block} (h : Keeps l a b) (hl : l.contains .frm = false) : b.frm = a.frm := h.same .frm (by simpa using hl)
theorem Keeps.cvus_eq {l : List Part} {a b : Block} (h : Keeps l a b) (hl : l.contains .cvus = false) : b.cvus = a.cvus := h.same .cvus (by simpa using hl)
theorem Keeps.twin_eq {l : List Part} {a b : Block} (h : Keeps l a b) (hl : l.contains .twin = false) : b.twin = a.twin := h.same .twin (by simpa using hl)
theorem Keeps.flt_eq {l : List Part} {a b : Block} (h : Keeps l a b) (hl : l.contains .flt = false) : b.flt = a.flt := h.same .flt (by simpa using hl)
theorem Keeps.ev_eq {l : List Part} {a b : Block} (h : Keeps l a b) (hl : l.contains .ev = false) : b.ev = a.ev := h.same .ev (by simpa using hl)
theorem Keeps.sec_eq {l : List Part} {a b : Block} (h : Keeps l a b) (hl : l.contains .sec = false) : b.sec = a.sec := h.same .sec (by simpa using hl)
theorem Keeps.env_eq {l : List Part} {a b : Block} (h : Keeps l a b) (hl : l.contains .env = false) : b.env = a.env := h.same .env (by simpa using hl)
theorem Keeps.jtag_eq {l : List Part} {a b : Block} (h : Keeps l a b) (hl : l.contains .jtag = false) : b.jtag = a.jtag := h.same .jtag (by simpa using hl)
theorem Keeps.free_eq {l : List Part} {a b : Block} (h : Keeps l a b) (hl : l.contains .free = false) : b.free = a.free := h.same .free (by simpa using hl)

theorem Keeps.boot_eq {l : List Part} {a b : Block} (h : Keeps l a b) (h1 : l.contains .role = false) (h2 : l.contains .boot = false) : b.boot = a.boot := by
  have e1 := h.same .role (by simpa using h1)
  have e2 := h.same .boot (by simpa using h2)
  simp only [Part.same] at e1 e2
  have e3 : { b.boot with roleC := b.boot.roleC, unitB := b.boot.unitB } = { a.boot with roleC := b.boot.roleC, unitB := b.boot.unitB } :=
    congrArg (fun k : Boot => { k with roleC := b.boot.roleC, unitB := b.boot.unitB }) e2
  rw [e1.1, e1.2] at e3
  rw [← e1.1, ← e1.2] at e3
  exact e3.trans (by rw [e1.1, e1.2])

theorem Keeps.time_eq {l : List Part} {a b : Block} (h : Keeps l a b) (h1 : l.contains .now = false) (h2 : l.contains .time = false) : b.time = a.time := by
  have e1 := h.same .now (by simpa using h1)
  have e2 := h.same .time (by simpa using h2)
  simp only [Part.same] at e1 e2
  have e3 : { b.time with now := b.time.now } = { a.time with now := b.time.now } :=
    congrArg (fun k : Time => { k with now := b.time.now }) e2
  exact e3.trans (by rw [e1])

theorem Keeps.now_eq {l : List Part} {a b : Block} (h : Keeps l a b) (h1 : l.contains .now = false) : b.time.now = a.time.now :=
  h.same .now (by simpa using h1)

theorem Keeps.role_eq {l : List Part} {a b : Block} (h : Keeps l a b) (h1 : l.contains .role = false) : b.boot.roleC = a.boot.roleC :=
  (h.same .role (by simpa using h1)).1

theorem Keeps.regs_eq {l : List Part} {a b : Block} (h : Keeps l a b) (h1 : l.contains .regs = false) : b.dict.regs = a.dict.regs :=
  h.same .regs (by simpa using h1)

/-- The dictionary engine but for its entries. -/
theorem Keeps.dict_eq {l : List Part} {a b : Block} (h : Keeps l a b) (h1 : l.contains .dict = false) :
    { b.dict with regs := [] } = { a.dict with regs := [] } := h.same .dict (by simpa using h1)

theorem Keeps.sessions_eq {l : List Part} {a b : Block} (h : Keeps l a b) (h1 : l.contains .dict = false) : b.dict.sessions = a.dict.sessions := by
  have e := congrArg Dict.sessions (h.dict_eq h1)
  exact e
theorem Keeps.fails_eq {l : List Part} {a b : Block} (h : Keeps l a b) (h1 : l.contains .dict = false) : b.dict.fails = a.dict.fails := by
  have e := congrArg Dict.fails (h.dict_eq h1)
  exact e
theorem Keeps.lockout_eq {l : List Part} {a b : Block} (h : Keeps l a b) (h1 : l.contains .dict = false) : b.dict.lockout = a.dict.lockout := by
  have e := congrArg Dict.lockout (h.dict_eq h1)
  exact e
theorem Keeps.challenge_eq {l : List Part} {a b : Block} (h : Keeps l a b) (h1 : l.contains .dict = false) : b.dict.challenge = a.dict.challenge := by
  have e := congrArg Dict.challenge (h.dict_eq h1)
  exact e
theorem Keeps.transfers_eq {l : List Part} {a b : Block} (h : Keeps l a b) (h1 : l.contains .dict = false) : b.dict.transfers = a.dict.transfers := by
  have e := congrArg Dict.transfers (h.dict_eq h1)
  exact e
theorem Keeps.pend_eq {l : List Part} {a b : Block} (h : Keeps l a b) (h1 : l.contains .dict = false) : b.dict.pend = a.dict.pend := by
  have e := congrArg Dict.pend (h.dict_eq h1)
  exact e
theorem Keeps.pairs_eq {l : List Part} {a b : Block} (h : Keeps l a b) (h1 : l.contains .dict = false) : b.dict.pairs = a.dict.pairs := by
  have e := congrArg Dict.pairs (h.dict_eq h1)
  exact e
theorem Keeps.canA_eq {l : List Part} {a b : Block} (h : Keeps l a b) (h1 : l.contains .dict = false) : b.dict.canA = a.dict.canA := by
  have e := congrArg Dict.canA (h.dict_eq h1)
  exact e
theorem Keeps.canB_eq {l : List Part} {a b : Block} (h : Keeps l a b) (h1 : l.contains .dict = false) : b.dict.canB = a.dict.canB := by
  have e := congrArg Dict.canB (h.dict_eq h1)
  exact e
theorem Keeps.replies_eq {l : List Part} {a b : Block} (h : Keeps l a b) (h1 : l.contains .dict = false) : b.dict.replies = a.dict.replies := by
  have e := congrArg Dict.replies (h.dict_eq h1)
  exact e
theorem Keeps.sent_eq {l : List Part} {a b : Block} (h : Keeps l a b) (h1 : l.contains .dict = false) : b.dict.sent = a.dict.sent := by
  have e := congrArg Dict.sent (h.dict_eq h1)
  exact e
theorem Keeps.canOut_eq {l : List Part} {a b : Block} (h : Keeps l a b) (h1 : l.contains .dict = false) : b.dict.canOut = a.dict.canOut := by
  have e := congrArg Dict.canOut (h.dict_eq h1)
  exact e
theorem Keeps.proxyTag_eq {l : List Part} {a b : Block} (h : Keeps l a b) (h1 : l.contains .dict = false) : b.dict.proxyTag = a.dict.proxyTag := by
  have e := congrArg Dict.proxyTag (h.dict_eq h1)
  exact e
theorem Keeps.bulkIn_eq {l : List Part} {a b : Block} (h : Keeps l a b) (h1 : l.contains .dict = false) : b.dict.bulkIn = a.dict.bulkIn := by
  have e := congrArg Dict.bulkIn (h.dict_eq h1)
  exact e
theorem Keeps.keeping_eq {l : List Part} {a b : Block} (h : Keeps l a b) (h1 : l.contains .dict = false) : b.dict.keeping = a.dict.keeping := by
  have e := congrArg Dict.keeping (h.dict_eq h1)
  exact e
theorem Keeps.mute_eq {l : List Part} {a b : Block} (h : Keeps l a b) (h1 : l.contains .dict = false) : b.dict.mute = a.dict.mute := by
  have e := congrArg Dict.mute (h.dict_eq h1)
  exact e
theorem Keeps.swaps_eq {l : List Part} {a b : Block} (h : Keeps l a b) (h1 : l.contains .dict = false) : b.dict.swaps = a.dict.swaps := by
  have e := congrArg Dict.swaps (h.dict_eq h1)
  exact e
theorem Keeps.landings_eq {l : List Part} {a b : Block} (h : Keeps l a b) (h1 : l.contains .dict = false) : b.dict.landings = a.dict.landings := by
  have e := congrArg Dict.landings (h.dict_eq h1)
  exact e
/-! ### bump -/

@[simp] theorem Block.bump_fuses (b : Block) (k n : Nat) : (b.bump k n).fuses = b.fuses := (Block.bump_keeps (Keeps.refl [.regs] b) rfl).fuses_eq rfl
@[simp] theorem Block.bump_flash (b : Block) (k n : Nat) : (b.bump k n).flash = b.flash := (Block.bump_keeps (Keeps.refl [.regs] b) rfl).flash_eq rfl
@[simp] theorem Block.bump_boot (b : Block) (k n : Nat) : (b.bump k n).boot = b.boot := (Block.bump_keeps (Keeps.refl [.regs] b) rfl).boot_eq rfl rfl
@[simp] theorem Block.bump_sets (b : Block) (k n : Nat) : (b.bump k n).sets = b.sets := (Block.bump_keeps (Keeps.refl [.regs] b) rfl).sets_eq rfl
@[simp] theorem Block.bump_time (b : Block) (k n : Nat) : (b.bump k n).time = b.time := (Block.bump_keeps (Keeps.refl [.regs] b) rfl).time_eq rfl rfl
@[simp] theorem Block.bump_chans (b : Block) (k n : Nat) : (b.bump k n).chans = b.chans := (Block.bump_keeps (Keeps.refl [.regs] b) rfl).chans_eq rfl
@[simp] theorem Block.bump_chMask (b : Block) (k n : Nat) : (b.bump k n).chMask = b.chMask := (Block.bump_keeps (Keeps.refl [.regs] b) rfl).chMask_eq rfl
@[simp] theorem Block.bump_chSince (b : Block) (k n : Nat) : (b.bump k n).chSince = b.chSince := (Block.bump_keeps (Keeps.refl [.regs] b) rfl).chSince_eq rfl
@[simp] theorem Block.bump_leads (b : Block) (k n : Nat) : (b.bump k n).leads = b.leads := (Block.bump_keeps (Keeps.refl [.regs] b) rfl).leads_eq rfl
@[simp] theorem Block.bump_plate (b : Block) (k n : Nat) : (b.bump k n).plate = b.plate := (Block.bump_keeps (Keeps.refl [.regs] b) rfl).plate_eq rfl
@[simp] theorem Block.bump_bin (b : Block) (k n : Nat) : (b.bump k n).bin = b.bin := (Block.bump_keeps (Keeps.refl [.regs] b) rfl).bin_eq rfl
@[simp] theorem Block.bump_iu (b : Block) (k n : Nat) : (b.bump k n).iu = b.iu := (Block.bump_keeps (Keeps.refl [.regs] b) rfl).iu_eq rfl
@[simp] theorem Block.bump_adc (b : Block) (k n : Nat) : (b.bump k n).adc = b.adc := (Block.bump_keeps (Keeps.refl [.regs] b) rfl).adc_eq rfl
@[simp] theorem Block.bump_acc (b : Block) (k n : Nat) : (b.bump k n).acc = b.acc := (Block.bump_keeps (Keeps.refl [.regs] b) rfl).acc_eq rfl
@[simp] theorem Block.bump_stk (b : Block) (k n : Nat) : (b.bump k n).stk = b.stk := (Block.bump_keeps (Keeps.refl [.regs] b) rfl).stk_eq rfl
@[simp] theorem Block.bump_queues (b : Block) (k n : Nat) : (b.bump k n).queues = b.queues := (Block.bump_keeps (Keeps.refl [.regs] b) rfl).queues_eq rfl
@[simp] theorem Block.bump_mrg (b : Block) (k n : Nat) : (b.bump k n).mrg = b.mrg := (Block.bump_keeps (Keeps.refl [.regs] b) rfl).mrg_eq rfl
@[simp] theorem Block.bump_frm (b : Block) (k n : Nat) : (b.bump k n).frm = b.frm := (Block.bump_keeps (Keeps.refl [.regs] b) rfl).frm_eq rfl
@[simp] theorem Block.bump_cvus (b : Block) (k n : Nat) : (b.bump k n).cvus = b.cvus := (Block.bump_keeps (Keeps.refl [.regs] b) rfl).cvus_eq rfl
@[simp] theorem Block.bump_twin (b : Block) (k n : Nat) : (b.bump k n).twin = b.twin := (Block.bump_keeps (Keeps.refl [.regs] b) rfl).twin_eq rfl
@[simp] theorem Block.bump_flt (b : Block) (k n : Nat) : (b.bump k n).flt = b.flt := (Block.bump_keeps (Keeps.refl [.regs] b) rfl).flt_eq rfl
@[simp] theorem Block.bump_ev (b : Block) (k n : Nat) : (b.bump k n).ev = b.ev := (Block.bump_keeps (Keeps.refl [.regs] b) rfl).ev_eq rfl
@[simp] theorem Block.bump_sec (b : Block) (k n : Nat) : (b.bump k n).sec = b.sec := (Block.bump_keeps (Keeps.refl [.regs] b) rfl).sec_eq rfl
@[simp] theorem Block.bump_env (b : Block) (k n : Nat) : (b.bump k n).env = b.env := (Block.bump_keeps (Keeps.refl [.regs] b) rfl).env_eq rfl
@[simp] theorem Block.bump_jtag (b : Block) (k n : Nat) : (b.bump k n).jtag = b.jtag := (Block.bump_keeps (Keeps.refl [.regs] b) rfl).jtag_eq rfl
@[simp] theorem Block.bump_free (b : Block) (k n : Nat) : (b.bump k n).free = b.free := (Block.bump_keeps (Keeps.refl [.regs] b) rfl).free_eq rfl
@[simp] theorem Block.bump_sessions (b : Block) (k n : Nat) : (b.bump k n).dict.sessions = b.dict.sessions := (Block.bump_keeps (Keeps.refl [.regs] b) rfl).sessions_eq rfl
@[simp] theorem Block.bump_fails (b : Block) (k n : Nat) : (b.bump k n).dict.fails = b.dict.fails := (Block.bump_keeps (Keeps.refl [.regs] b) rfl).fails_eq rfl
@[simp] theorem Block.bump_lockout (b : Block) (k n : Nat) : (b.bump k n).dict.lockout = b.dict.lockout := (Block.bump_keeps (Keeps.refl [.regs] b) rfl).lockout_eq rfl
@[simp] theorem Block.bump_challenge (b : Block) (k n : Nat) : (b.bump k n).dict.challenge = b.dict.challenge := (Block.bump_keeps (Keeps.refl [.regs] b) rfl).challenge_eq rfl
@[simp] theorem Block.bump_transfers (b : Block) (k n : Nat) : (b.bump k n).dict.transfers = b.dict.transfers := (Block.bump_keeps (Keeps.refl [.regs] b) rfl).transfers_eq rfl
@[simp] theorem Block.bump_pend (b : Block) (k n : Nat) : (b.bump k n).dict.pend = b.dict.pend := (Block.bump_keeps (Keeps.refl [.regs] b) rfl).pend_eq rfl
@[simp] theorem Block.bump_pairs (b : Block) (k n : Nat) : (b.bump k n).dict.pairs = b.dict.pairs := (Block.bump_keeps (Keeps.refl [.regs] b) rfl).pairs_eq rfl
@[simp] theorem Block.bump_canA (b : Block) (k n : Nat) : (b.bump k n).dict.canA = b.dict.canA := (Block.bump_keeps (Keeps.refl [.regs] b) rfl).canA_eq rfl
@[simp] theorem Block.bump_canB (b : Block) (k n : Nat) : (b.bump k n).dict.canB = b.dict.canB := (Block.bump_keeps (Keeps.refl [.regs] b) rfl).canB_eq rfl
@[simp] theorem Block.bump_replies (b : Block) (k n : Nat) : (b.bump k n).dict.replies = b.dict.replies := (Block.bump_keeps (Keeps.refl [.regs] b) rfl).replies_eq rfl
@[simp] theorem Block.bump_sent (b : Block) (k n : Nat) : (b.bump k n).dict.sent = b.dict.sent := (Block.bump_keeps (Keeps.refl [.regs] b) rfl).sent_eq rfl
@[simp] theorem Block.bump_canOut (b : Block) (k n : Nat) : (b.bump k n).dict.canOut = b.dict.canOut := (Block.bump_keeps (Keeps.refl [.regs] b) rfl).canOut_eq rfl
@[simp] theorem Block.bump_proxyTag (b : Block) (k n : Nat) : (b.bump k n).dict.proxyTag = b.dict.proxyTag := (Block.bump_keeps (Keeps.refl [.regs] b) rfl).proxyTag_eq rfl
@[simp] theorem Block.bump_bulkIn (b : Block) (k n : Nat) : (b.bump k n).dict.bulkIn = b.dict.bulkIn := (Block.bump_keeps (Keeps.refl [.regs] b) rfl).bulkIn_eq rfl
@[simp] theorem Block.bump_keeping (b : Block) (k n : Nat) : (b.bump k n).dict.keeping = b.dict.keeping := (Block.bump_keeps (Keeps.refl [.regs] b) rfl).keeping_eq rfl
@[simp] theorem Block.bump_mute (b : Block) (k n : Nat) : (b.bump k n).dict.mute = b.dict.mute := (Block.bump_keeps (Keeps.refl [.regs] b) rfl).mute_eq rfl
@[simp] theorem Block.bump_swaps (b : Block) (k n : Nat) : (b.bump k n).dict.swaps = b.dict.swaps := (Block.bump_keeps (Keeps.refl [.regs] b) rfl).swaps_eq rfl
@[simp] theorem Block.bump_landings (b : Block) (k n : Nat) : (b.bump k n).dict.landings = b.dict.landings := (Block.bump_keeps (Keeps.refl [.regs] b) rfl).landings_eq rfl

/-! ### bumpSat -/

@[simp] theorem Block.bumpSat_fuses (b : Block) (k w n : Nat) : (b.bumpSat k w n).fuses = b.fuses := (Block.bumpSat_keeps (Keeps.refl [.regs] b) rfl).fuses_eq rfl
@[simp] theorem Block.bumpSat_flash (b : Block) (k w n : Nat) : (b.bumpSat k w n).flash = b.flash := (Block.bumpSat_keeps (Keeps.refl [.regs] b) rfl).flash_eq rfl
@[simp] theorem Block.bumpSat_boot (b : Block) (k w n : Nat) : (b.bumpSat k w n).boot = b.boot := (Block.bumpSat_keeps (Keeps.refl [.regs] b) rfl).boot_eq rfl rfl
@[simp] theorem Block.bumpSat_sets (b : Block) (k w n : Nat) : (b.bumpSat k w n).sets = b.sets := (Block.bumpSat_keeps (Keeps.refl [.regs] b) rfl).sets_eq rfl
@[simp] theorem Block.bumpSat_time (b : Block) (k w n : Nat) : (b.bumpSat k w n).time = b.time := (Block.bumpSat_keeps (Keeps.refl [.regs] b) rfl).time_eq rfl rfl
@[simp] theorem Block.bumpSat_chans (b : Block) (k w n : Nat) : (b.bumpSat k w n).chans = b.chans := (Block.bumpSat_keeps (Keeps.refl [.regs] b) rfl).chans_eq rfl
@[simp] theorem Block.bumpSat_chMask (b : Block) (k w n : Nat) : (b.bumpSat k w n).chMask = b.chMask := (Block.bumpSat_keeps (Keeps.refl [.regs] b) rfl).chMask_eq rfl
@[simp] theorem Block.bumpSat_chSince (b : Block) (k w n : Nat) : (b.bumpSat k w n).chSince = b.chSince := (Block.bumpSat_keeps (Keeps.refl [.regs] b) rfl).chSince_eq rfl
@[simp] theorem Block.bumpSat_leads (b : Block) (k w n : Nat) : (b.bumpSat k w n).leads = b.leads := (Block.bumpSat_keeps (Keeps.refl [.regs] b) rfl).leads_eq rfl
@[simp] theorem Block.bumpSat_plate (b : Block) (k w n : Nat) : (b.bumpSat k w n).plate = b.plate := (Block.bumpSat_keeps (Keeps.refl [.regs] b) rfl).plate_eq rfl
@[simp] theorem Block.bumpSat_bin (b : Block) (k w n : Nat) : (b.bumpSat k w n).bin = b.bin := (Block.bumpSat_keeps (Keeps.refl [.regs] b) rfl).bin_eq rfl
@[simp] theorem Block.bumpSat_iu (b : Block) (k w n : Nat) : (b.bumpSat k w n).iu = b.iu := (Block.bumpSat_keeps (Keeps.refl [.regs] b) rfl).iu_eq rfl
@[simp] theorem Block.bumpSat_adc (b : Block) (k w n : Nat) : (b.bumpSat k w n).adc = b.adc := (Block.bumpSat_keeps (Keeps.refl [.regs] b) rfl).adc_eq rfl
@[simp] theorem Block.bumpSat_acc (b : Block) (k w n : Nat) : (b.bumpSat k w n).acc = b.acc := (Block.bumpSat_keeps (Keeps.refl [.regs] b) rfl).acc_eq rfl
@[simp] theorem Block.bumpSat_stk (b : Block) (k w n : Nat) : (b.bumpSat k w n).stk = b.stk := (Block.bumpSat_keeps (Keeps.refl [.regs] b) rfl).stk_eq rfl
@[simp] theorem Block.bumpSat_queues (b : Block) (k w n : Nat) : (b.bumpSat k w n).queues = b.queues := (Block.bumpSat_keeps (Keeps.refl [.regs] b) rfl).queues_eq rfl
@[simp] theorem Block.bumpSat_mrg (b : Block) (k w n : Nat) : (b.bumpSat k w n).mrg = b.mrg := (Block.bumpSat_keeps (Keeps.refl [.regs] b) rfl).mrg_eq rfl
@[simp] theorem Block.bumpSat_frm (b : Block) (k w n : Nat) : (b.bumpSat k w n).frm = b.frm := (Block.bumpSat_keeps (Keeps.refl [.regs] b) rfl).frm_eq rfl
@[simp] theorem Block.bumpSat_cvus (b : Block) (k w n : Nat) : (b.bumpSat k w n).cvus = b.cvus := (Block.bumpSat_keeps (Keeps.refl [.regs] b) rfl).cvus_eq rfl
@[simp] theorem Block.bumpSat_twin (b : Block) (k w n : Nat) : (b.bumpSat k w n).twin = b.twin := (Block.bumpSat_keeps (Keeps.refl [.regs] b) rfl).twin_eq rfl
@[simp] theorem Block.bumpSat_flt (b : Block) (k w n : Nat) : (b.bumpSat k w n).flt = b.flt := (Block.bumpSat_keeps (Keeps.refl [.regs] b) rfl).flt_eq rfl
@[simp] theorem Block.bumpSat_ev (b : Block) (k w n : Nat) : (b.bumpSat k w n).ev = b.ev := (Block.bumpSat_keeps (Keeps.refl [.regs] b) rfl).ev_eq rfl
@[simp] theorem Block.bumpSat_sec (b : Block) (k w n : Nat) : (b.bumpSat k w n).sec = b.sec := (Block.bumpSat_keeps (Keeps.refl [.regs] b) rfl).sec_eq rfl
@[simp] theorem Block.bumpSat_env (b : Block) (k w n : Nat) : (b.bumpSat k w n).env = b.env := (Block.bumpSat_keeps (Keeps.refl [.regs] b) rfl).env_eq rfl
@[simp] theorem Block.bumpSat_jtag (b : Block) (k w n : Nat) : (b.bumpSat k w n).jtag = b.jtag := (Block.bumpSat_keeps (Keeps.refl [.regs] b) rfl).jtag_eq rfl
@[simp] theorem Block.bumpSat_free (b : Block) (k w n : Nat) : (b.bumpSat k w n).free = b.free := (Block.bumpSat_keeps (Keeps.refl [.regs] b) rfl).free_eq rfl
@[simp] theorem Block.bumpSat_sessions (b : Block) (k w n : Nat) : (b.bumpSat k w n).dict.sessions = b.dict.sessions := (Block.bumpSat_keeps (Keeps.refl [.regs] b) rfl).sessions_eq rfl
@[simp] theorem Block.bumpSat_fails (b : Block) (k w n : Nat) : (b.bumpSat k w n).dict.fails = b.dict.fails := (Block.bumpSat_keeps (Keeps.refl [.regs] b) rfl).fails_eq rfl
@[simp] theorem Block.bumpSat_lockout (b : Block) (k w n : Nat) : (b.bumpSat k w n).dict.lockout = b.dict.lockout := (Block.bumpSat_keeps (Keeps.refl [.regs] b) rfl).lockout_eq rfl
@[simp] theorem Block.bumpSat_challenge (b : Block) (k w n : Nat) : (b.bumpSat k w n).dict.challenge = b.dict.challenge := (Block.bumpSat_keeps (Keeps.refl [.regs] b) rfl).challenge_eq rfl
@[simp] theorem Block.bumpSat_transfers (b : Block) (k w n : Nat) : (b.bumpSat k w n).dict.transfers = b.dict.transfers := (Block.bumpSat_keeps (Keeps.refl [.regs] b) rfl).transfers_eq rfl
@[simp] theorem Block.bumpSat_pend (b : Block) (k w n : Nat) : (b.bumpSat k w n).dict.pend = b.dict.pend := (Block.bumpSat_keeps (Keeps.refl [.regs] b) rfl).pend_eq rfl
@[simp] theorem Block.bumpSat_pairs (b : Block) (k w n : Nat) : (b.bumpSat k w n).dict.pairs = b.dict.pairs := (Block.bumpSat_keeps (Keeps.refl [.regs] b) rfl).pairs_eq rfl
@[simp] theorem Block.bumpSat_canA (b : Block) (k w n : Nat) : (b.bumpSat k w n).dict.canA = b.dict.canA := (Block.bumpSat_keeps (Keeps.refl [.regs] b) rfl).canA_eq rfl
@[simp] theorem Block.bumpSat_canB (b : Block) (k w n : Nat) : (b.bumpSat k w n).dict.canB = b.dict.canB := (Block.bumpSat_keeps (Keeps.refl [.regs] b) rfl).canB_eq rfl
@[simp] theorem Block.bumpSat_replies (b : Block) (k w n : Nat) : (b.bumpSat k w n).dict.replies = b.dict.replies := (Block.bumpSat_keeps (Keeps.refl [.regs] b) rfl).replies_eq rfl
@[simp] theorem Block.bumpSat_sent (b : Block) (k w n : Nat) : (b.bumpSat k w n).dict.sent = b.dict.sent := (Block.bumpSat_keeps (Keeps.refl [.regs] b) rfl).sent_eq rfl
@[simp] theorem Block.bumpSat_canOut (b : Block) (k w n : Nat) : (b.bumpSat k w n).dict.canOut = b.dict.canOut := (Block.bumpSat_keeps (Keeps.refl [.regs] b) rfl).canOut_eq rfl
@[simp] theorem Block.bumpSat_proxyTag (b : Block) (k w n : Nat) : (b.bumpSat k w n).dict.proxyTag = b.dict.proxyTag := (Block.bumpSat_keeps (Keeps.refl [.regs] b) rfl).proxyTag_eq rfl
@[simp] theorem Block.bumpSat_bulkIn (b : Block) (k w n : Nat) : (b.bumpSat k w n).dict.bulkIn = b.dict.bulkIn := (Block.bumpSat_keeps (Keeps.refl [.regs] b) rfl).bulkIn_eq rfl
@[simp] theorem Block.bumpSat_keeping (b : Block) (k w n : Nat) : (b.bumpSat k w n).dict.keeping = b.dict.keeping := (Block.bumpSat_keeps (Keeps.refl [.regs] b) rfl).keeping_eq rfl
@[simp] theorem Block.bumpSat_mute (b : Block) (k w n : Nat) : (b.bumpSat k w n).dict.mute = b.dict.mute := (Block.bumpSat_keeps (Keeps.refl [.regs] b) rfl).mute_eq rfl
@[simp] theorem Block.bumpSat_swaps (b : Block) (k w n : Nat) : (b.bumpSat k w n).dict.swaps = b.dict.swaps := (Block.bumpSat_keeps (Keeps.refl [.regs] b) rfl).swaps_eq rfl
@[simp] theorem Block.bumpSat_landings (b : Block) (k w n : Nat) : (b.bumpSat k w n).dict.landings = b.dict.landings := (Block.bumpSat_keeps (Keeps.refl [.regs] b) rfl).landings_eq rfl

/-! ### peak -/

@[simp] theorem Block.peak_fuses (b : Block) (k v : Nat) : (b.peak k v).fuses = b.fuses := (Block.peak_keeps (Keeps.refl [.regs] b) rfl).fuses_eq rfl
@[simp] theorem Block.peak_flash (b : Block) (k v : Nat) : (b.peak k v).flash = b.flash := (Block.peak_keeps (Keeps.refl [.regs] b) rfl).flash_eq rfl
@[simp] theorem Block.peak_boot (b : Block) (k v : Nat) : (b.peak k v).boot = b.boot := (Block.peak_keeps (Keeps.refl [.regs] b) rfl).boot_eq rfl rfl
@[simp] theorem Block.peak_sets (b : Block) (k v : Nat) : (b.peak k v).sets = b.sets := (Block.peak_keeps (Keeps.refl [.regs] b) rfl).sets_eq rfl
@[simp] theorem Block.peak_time (b : Block) (k v : Nat) : (b.peak k v).time = b.time := (Block.peak_keeps (Keeps.refl [.regs] b) rfl).time_eq rfl rfl
@[simp] theorem Block.peak_chans (b : Block) (k v : Nat) : (b.peak k v).chans = b.chans := (Block.peak_keeps (Keeps.refl [.regs] b) rfl).chans_eq rfl
@[simp] theorem Block.peak_chMask (b : Block) (k v : Nat) : (b.peak k v).chMask = b.chMask := (Block.peak_keeps (Keeps.refl [.regs] b) rfl).chMask_eq rfl
@[simp] theorem Block.peak_chSince (b : Block) (k v : Nat) : (b.peak k v).chSince = b.chSince := (Block.peak_keeps (Keeps.refl [.regs] b) rfl).chSince_eq rfl
@[simp] theorem Block.peak_leads (b : Block) (k v : Nat) : (b.peak k v).leads = b.leads := (Block.peak_keeps (Keeps.refl [.regs] b) rfl).leads_eq rfl
@[simp] theorem Block.peak_plate (b : Block) (k v : Nat) : (b.peak k v).plate = b.plate := (Block.peak_keeps (Keeps.refl [.regs] b) rfl).plate_eq rfl
@[simp] theorem Block.peak_bin (b : Block) (k v : Nat) : (b.peak k v).bin = b.bin := (Block.peak_keeps (Keeps.refl [.regs] b) rfl).bin_eq rfl
@[simp] theorem Block.peak_iu (b : Block) (k v : Nat) : (b.peak k v).iu = b.iu := (Block.peak_keeps (Keeps.refl [.regs] b) rfl).iu_eq rfl
@[simp] theorem Block.peak_adc (b : Block) (k v : Nat) : (b.peak k v).adc = b.adc := (Block.peak_keeps (Keeps.refl [.regs] b) rfl).adc_eq rfl
@[simp] theorem Block.peak_acc (b : Block) (k v : Nat) : (b.peak k v).acc = b.acc := (Block.peak_keeps (Keeps.refl [.regs] b) rfl).acc_eq rfl
@[simp] theorem Block.peak_stk (b : Block) (k v : Nat) : (b.peak k v).stk = b.stk := (Block.peak_keeps (Keeps.refl [.regs] b) rfl).stk_eq rfl
@[simp] theorem Block.peak_queues (b : Block) (k v : Nat) : (b.peak k v).queues = b.queues := (Block.peak_keeps (Keeps.refl [.regs] b) rfl).queues_eq rfl
@[simp] theorem Block.peak_mrg (b : Block) (k v : Nat) : (b.peak k v).mrg = b.mrg := (Block.peak_keeps (Keeps.refl [.regs] b) rfl).mrg_eq rfl
@[simp] theorem Block.peak_frm (b : Block) (k v : Nat) : (b.peak k v).frm = b.frm := (Block.peak_keeps (Keeps.refl [.regs] b) rfl).frm_eq rfl
@[simp] theorem Block.peak_cvus (b : Block) (k v : Nat) : (b.peak k v).cvus = b.cvus := (Block.peak_keeps (Keeps.refl [.regs] b) rfl).cvus_eq rfl
@[simp] theorem Block.peak_twin (b : Block) (k v : Nat) : (b.peak k v).twin = b.twin := (Block.peak_keeps (Keeps.refl [.regs] b) rfl).twin_eq rfl
@[simp] theorem Block.peak_flt (b : Block) (k v : Nat) : (b.peak k v).flt = b.flt := (Block.peak_keeps (Keeps.refl [.regs] b) rfl).flt_eq rfl
@[simp] theorem Block.peak_ev (b : Block) (k v : Nat) : (b.peak k v).ev = b.ev := (Block.peak_keeps (Keeps.refl [.regs] b) rfl).ev_eq rfl
@[simp] theorem Block.peak_sec (b : Block) (k v : Nat) : (b.peak k v).sec = b.sec := (Block.peak_keeps (Keeps.refl [.regs] b) rfl).sec_eq rfl
@[simp] theorem Block.peak_env (b : Block) (k v : Nat) : (b.peak k v).env = b.env := (Block.peak_keeps (Keeps.refl [.regs] b) rfl).env_eq rfl
@[simp] theorem Block.peak_jtag (b : Block) (k v : Nat) : (b.peak k v).jtag = b.jtag := (Block.peak_keeps (Keeps.refl [.regs] b) rfl).jtag_eq rfl
@[simp] theorem Block.peak_free (b : Block) (k v : Nat) : (b.peak k v).free = b.free := (Block.peak_keeps (Keeps.refl [.regs] b) rfl).free_eq rfl
@[simp] theorem Block.peak_sessions (b : Block) (k v : Nat) : (b.peak k v).dict.sessions = b.dict.sessions := (Block.peak_keeps (Keeps.refl [.regs] b) rfl).sessions_eq rfl
@[simp] theorem Block.peak_fails (b : Block) (k v : Nat) : (b.peak k v).dict.fails = b.dict.fails := (Block.peak_keeps (Keeps.refl [.regs] b) rfl).fails_eq rfl
@[simp] theorem Block.peak_lockout (b : Block) (k v : Nat) : (b.peak k v).dict.lockout = b.dict.lockout := (Block.peak_keeps (Keeps.refl [.regs] b) rfl).lockout_eq rfl
@[simp] theorem Block.peak_challenge (b : Block) (k v : Nat) : (b.peak k v).dict.challenge = b.dict.challenge := (Block.peak_keeps (Keeps.refl [.regs] b) rfl).challenge_eq rfl
@[simp] theorem Block.peak_transfers (b : Block) (k v : Nat) : (b.peak k v).dict.transfers = b.dict.transfers := (Block.peak_keeps (Keeps.refl [.regs] b) rfl).transfers_eq rfl
@[simp] theorem Block.peak_pend (b : Block) (k v : Nat) : (b.peak k v).dict.pend = b.dict.pend := (Block.peak_keeps (Keeps.refl [.regs] b) rfl).pend_eq rfl
@[simp] theorem Block.peak_pairs (b : Block) (k v : Nat) : (b.peak k v).dict.pairs = b.dict.pairs := (Block.peak_keeps (Keeps.refl [.regs] b) rfl).pairs_eq rfl
@[simp] theorem Block.peak_canA (b : Block) (k v : Nat) : (b.peak k v).dict.canA = b.dict.canA := (Block.peak_keeps (Keeps.refl [.regs] b) rfl).canA_eq rfl
@[simp] theorem Block.peak_canB (b : Block) (k v : Nat) : (b.peak k v).dict.canB = b.dict.canB := (Block.peak_keeps (Keeps.refl [.regs] b) rfl).canB_eq rfl
@[simp] theorem Block.peak_replies (b : Block) (k v : Nat) : (b.peak k v).dict.replies = b.dict.replies := (Block.peak_keeps (Keeps.refl [.regs] b) rfl).replies_eq rfl
@[simp] theorem Block.peak_sent (b : Block) (k v : Nat) : (b.peak k v).dict.sent = b.dict.sent := (Block.peak_keeps (Keeps.refl [.regs] b) rfl).sent_eq rfl
@[simp] theorem Block.peak_canOut (b : Block) (k v : Nat) : (b.peak k v).dict.canOut = b.dict.canOut := (Block.peak_keeps (Keeps.refl [.regs] b) rfl).canOut_eq rfl
@[simp] theorem Block.peak_proxyTag (b : Block) (k v : Nat) : (b.peak k v).dict.proxyTag = b.dict.proxyTag := (Block.peak_keeps (Keeps.refl [.regs] b) rfl).proxyTag_eq rfl
@[simp] theorem Block.peak_bulkIn (b : Block) (k v : Nat) : (b.peak k v).dict.bulkIn = b.dict.bulkIn := (Block.peak_keeps (Keeps.refl [.regs] b) rfl).bulkIn_eq rfl
@[simp] theorem Block.peak_keeping (b : Block) (k v : Nat) : (b.peak k v).dict.keeping = b.dict.keeping := (Block.peak_keeps (Keeps.refl [.regs] b) rfl).keeping_eq rfl
@[simp] theorem Block.peak_mute (b : Block) (k v : Nat) : (b.peak k v).dict.mute = b.dict.mute := (Block.peak_keeps (Keeps.refl [.regs] b) rfl).mute_eq rfl
@[simp] theorem Block.peak_swaps (b : Block) (k v : Nat) : (b.peak k v).dict.swaps = b.dict.swaps := (Block.peak_keeps (Keeps.refl [.regs] b) rfl).swaps_eq rfl
@[simp] theorem Block.peak_landings (b : Block) (k v : Nat) : (b.peak k v).dict.landings = b.dict.landings := (Block.peak_keeps (Keeps.refl [.regs] b) rfl).landings_eq rfl

/-! ### mark -/

@[simp] theorem Block.mark_fuses (b : Block) (n d : Nat) : (b.mark n d).fuses = b.fuses := (Block.mark_keeps (Keeps.refl [.regs] b) rfl).fuses_eq rfl
@[simp] theorem Block.mark_flash (b : Block) (n d : Nat) : (b.mark n d).flash = b.flash := (Block.mark_keeps (Keeps.refl [.regs] b) rfl).flash_eq rfl
@[simp] theorem Block.mark_boot (b : Block) (n d : Nat) : (b.mark n d).boot = b.boot := (Block.mark_keeps (Keeps.refl [.regs] b) rfl).boot_eq rfl rfl
@[simp] theorem Block.mark_sets (b : Block) (n d : Nat) : (b.mark n d).sets = b.sets := (Block.mark_keeps (Keeps.refl [.regs] b) rfl).sets_eq rfl
@[simp] theorem Block.mark_time (b : Block) (n d : Nat) : (b.mark n d).time = b.time := (Block.mark_keeps (Keeps.refl [.regs] b) rfl).time_eq rfl rfl
@[simp] theorem Block.mark_chans (b : Block) (n d : Nat) : (b.mark n d).chans = b.chans := (Block.mark_keeps (Keeps.refl [.regs] b) rfl).chans_eq rfl
@[simp] theorem Block.mark_chMask (b : Block) (n d : Nat) : (b.mark n d).chMask = b.chMask := (Block.mark_keeps (Keeps.refl [.regs] b) rfl).chMask_eq rfl
@[simp] theorem Block.mark_chSince (b : Block) (n d : Nat) : (b.mark n d).chSince = b.chSince := (Block.mark_keeps (Keeps.refl [.regs] b) rfl).chSince_eq rfl
@[simp] theorem Block.mark_leads (b : Block) (n d : Nat) : (b.mark n d).leads = b.leads := (Block.mark_keeps (Keeps.refl [.regs] b) rfl).leads_eq rfl
@[simp] theorem Block.mark_plate (b : Block) (n d : Nat) : (b.mark n d).plate = b.plate := (Block.mark_keeps (Keeps.refl [.regs] b) rfl).plate_eq rfl
@[simp] theorem Block.mark_bin (b : Block) (n d : Nat) : (b.mark n d).bin = b.bin := (Block.mark_keeps (Keeps.refl [.regs] b) rfl).bin_eq rfl
@[simp] theorem Block.mark_iu (b : Block) (n d : Nat) : (b.mark n d).iu = b.iu := (Block.mark_keeps (Keeps.refl [.regs] b) rfl).iu_eq rfl
@[simp] theorem Block.mark_adc (b : Block) (n d : Nat) : (b.mark n d).adc = b.adc := (Block.mark_keeps (Keeps.refl [.regs] b) rfl).adc_eq rfl
@[simp] theorem Block.mark_acc (b : Block) (n d : Nat) : (b.mark n d).acc = b.acc := (Block.mark_keeps (Keeps.refl [.regs] b) rfl).acc_eq rfl
@[simp] theorem Block.mark_stk (b : Block) (n d : Nat) : (b.mark n d).stk = b.stk := (Block.mark_keeps (Keeps.refl [.regs] b) rfl).stk_eq rfl
@[simp] theorem Block.mark_queues (b : Block) (n d : Nat) : (b.mark n d).queues = b.queues := (Block.mark_keeps (Keeps.refl [.regs] b) rfl).queues_eq rfl
@[simp] theorem Block.mark_mrg (b : Block) (n d : Nat) : (b.mark n d).mrg = b.mrg := (Block.mark_keeps (Keeps.refl [.regs] b) rfl).mrg_eq rfl
@[simp] theorem Block.mark_frm (b : Block) (n d : Nat) : (b.mark n d).frm = b.frm := (Block.mark_keeps (Keeps.refl [.regs] b) rfl).frm_eq rfl
@[simp] theorem Block.mark_cvus (b : Block) (n d : Nat) : (b.mark n d).cvus = b.cvus := (Block.mark_keeps (Keeps.refl [.regs] b) rfl).cvus_eq rfl
@[simp] theorem Block.mark_twin (b : Block) (n d : Nat) : (b.mark n d).twin = b.twin := (Block.mark_keeps (Keeps.refl [.regs] b) rfl).twin_eq rfl
@[simp] theorem Block.mark_flt (b : Block) (n d : Nat) : (b.mark n d).flt = b.flt := (Block.mark_keeps (Keeps.refl [.regs] b) rfl).flt_eq rfl
@[simp] theorem Block.mark_ev (b : Block) (n d : Nat) : (b.mark n d).ev = b.ev := (Block.mark_keeps (Keeps.refl [.regs] b) rfl).ev_eq rfl
@[simp] theorem Block.mark_sec (b : Block) (n d : Nat) : (b.mark n d).sec = b.sec := (Block.mark_keeps (Keeps.refl [.regs] b) rfl).sec_eq rfl
@[simp] theorem Block.mark_env (b : Block) (n d : Nat) : (b.mark n d).env = b.env := (Block.mark_keeps (Keeps.refl [.regs] b) rfl).env_eq rfl
@[simp] theorem Block.mark_jtag (b : Block) (n d : Nat) : (b.mark n d).jtag = b.jtag := (Block.mark_keeps (Keeps.refl [.regs] b) rfl).jtag_eq rfl
@[simp] theorem Block.mark_free (b : Block) (n d : Nat) : (b.mark n d).free = b.free := (Block.mark_keeps (Keeps.refl [.regs] b) rfl).free_eq rfl
@[simp] theorem Block.mark_sessions (b : Block) (n d : Nat) : (b.mark n d).dict.sessions = b.dict.sessions := (Block.mark_keeps (Keeps.refl [.regs] b) rfl).sessions_eq rfl
@[simp] theorem Block.mark_fails (b : Block) (n d : Nat) : (b.mark n d).dict.fails = b.dict.fails := (Block.mark_keeps (Keeps.refl [.regs] b) rfl).fails_eq rfl
@[simp] theorem Block.mark_lockout (b : Block) (n d : Nat) : (b.mark n d).dict.lockout = b.dict.lockout := (Block.mark_keeps (Keeps.refl [.regs] b) rfl).lockout_eq rfl
@[simp] theorem Block.mark_challenge (b : Block) (n d : Nat) : (b.mark n d).dict.challenge = b.dict.challenge := (Block.mark_keeps (Keeps.refl [.regs] b) rfl).challenge_eq rfl
@[simp] theorem Block.mark_transfers (b : Block) (n d : Nat) : (b.mark n d).dict.transfers = b.dict.transfers := (Block.mark_keeps (Keeps.refl [.regs] b) rfl).transfers_eq rfl
@[simp] theorem Block.mark_pend (b : Block) (n d : Nat) : (b.mark n d).dict.pend = b.dict.pend := (Block.mark_keeps (Keeps.refl [.regs] b) rfl).pend_eq rfl
@[simp] theorem Block.mark_pairs (b : Block) (n d : Nat) : (b.mark n d).dict.pairs = b.dict.pairs := (Block.mark_keeps (Keeps.refl [.regs] b) rfl).pairs_eq rfl
@[simp] theorem Block.mark_canA (b : Block) (n d : Nat) : (b.mark n d).dict.canA = b.dict.canA := (Block.mark_keeps (Keeps.refl [.regs] b) rfl).canA_eq rfl
@[simp] theorem Block.mark_canB (b : Block) (n d : Nat) : (b.mark n d).dict.canB = b.dict.canB := (Block.mark_keeps (Keeps.refl [.regs] b) rfl).canB_eq rfl
@[simp] theorem Block.mark_replies (b : Block) (n d : Nat) : (b.mark n d).dict.replies = b.dict.replies := (Block.mark_keeps (Keeps.refl [.regs] b) rfl).replies_eq rfl
@[simp] theorem Block.mark_sent (b : Block) (n d : Nat) : (b.mark n d).dict.sent = b.dict.sent := (Block.mark_keeps (Keeps.refl [.regs] b) rfl).sent_eq rfl
@[simp] theorem Block.mark_canOut (b : Block) (n d : Nat) : (b.mark n d).dict.canOut = b.dict.canOut := (Block.mark_keeps (Keeps.refl [.regs] b) rfl).canOut_eq rfl
@[simp] theorem Block.mark_proxyTag (b : Block) (n d : Nat) : (b.mark n d).dict.proxyTag = b.dict.proxyTag := (Block.mark_keeps (Keeps.refl [.regs] b) rfl).proxyTag_eq rfl
@[simp] theorem Block.mark_bulkIn (b : Block) (n d : Nat) : (b.mark n d).dict.bulkIn = b.dict.bulkIn := (Block.mark_keeps (Keeps.refl [.regs] b) rfl).bulkIn_eq rfl
@[simp] theorem Block.mark_keeping (b : Block) (n d : Nat) : (b.mark n d).dict.keeping = b.dict.keeping := (Block.mark_keeps (Keeps.refl [.regs] b) rfl).keeping_eq rfl
@[simp] theorem Block.mark_mute (b : Block) (n d : Nat) : (b.mark n d).dict.mute = b.dict.mute := (Block.mark_keeps (Keeps.refl [.regs] b) rfl).mute_eq rfl
@[simp] theorem Block.mark_swaps (b : Block) (n d : Nat) : (b.mark n d).dict.swaps = b.dict.swaps := (Block.mark_keeps (Keeps.refl [.regs] b) rfl).swaps_eq rfl
@[simp] theorem Block.mark_landings (b : Block) (n d : Nat) : (b.mark n d).dict.landings = b.dict.landings := (Block.mark_keeps (Keeps.refl [.regs] b) rfl).landings_eq rfl

/-! ### raise -/

@[simp] theorem Block.raise_fuses (b : Block) (n : Nat) (l : List Fld) : (b.raise n l).fuses = b.fuses := (Block.raise_keeps (Keeps.refl [.regs, .ev] b) rfl).fuses_eq rfl
@[simp] theorem Block.raise_flash (b : Block) (n : Nat) (l : List Fld) : (b.raise n l).flash = b.flash := (Block.raise_keeps (Keeps.refl [.regs, .ev] b) rfl).flash_eq rfl
@[simp] theorem Block.raise_boot (b : Block) (n : Nat) (l : List Fld) : (b.raise n l).boot = b.boot := (Block.raise_keeps (Keeps.refl [.regs, .ev] b) rfl).boot_eq rfl rfl
@[simp] theorem Block.raise_sets (b : Block) (n : Nat) (l : List Fld) : (b.raise n l).sets = b.sets := (Block.raise_keeps (Keeps.refl [.regs, .ev] b) rfl).sets_eq rfl
@[simp] theorem Block.raise_time (b : Block) (n : Nat) (l : List Fld) : (b.raise n l).time = b.time := (Block.raise_keeps (Keeps.refl [.regs, .ev] b) rfl).time_eq rfl rfl
@[simp] theorem Block.raise_chans (b : Block) (n : Nat) (l : List Fld) : (b.raise n l).chans = b.chans := (Block.raise_keeps (Keeps.refl [.regs, .ev] b) rfl).chans_eq rfl
@[simp] theorem Block.raise_chMask (b : Block) (n : Nat) (l : List Fld) : (b.raise n l).chMask = b.chMask := (Block.raise_keeps (Keeps.refl [.regs, .ev] b) rfl).chMask_eq rfl
@[simp] theorem Block.raise_chSince (b : Block) (n : Nat) (l : List Fld) : (b.raise n l).chSince = b.chSince := (Block.raise_keeps (Keeps.refl [.regs, .ev] b) rfl).chSince_eq rfl
@[simp] theorem Block.raise_leads (b : Block) (n : Nat) (l : List Fld) : (b.raise n l).leads = b.leads := (Block.raise_keeps (Keeps.refl [.regs, .ev] b) rfl).leads_eq rfl
@[simp] theorem Block.raise_plate (b : Block) (n : Nat) (l : List Fld) : (b.raise n l).plate = b.plate := (Block.raise_keeps (Keeps.refl [.regs, .ev] b) rfl).plate_eq rfl
@[simp] theorem Block.raise_bin (b : Block) (n : Nat) (l : List Fld) : (b.raise n l).bin = b.bin := (Block.raise_keeps (Keeps.refl [.regs, .ev] b) rfl).bin_eq rfl
@[simp] theorem Block.raise_iu (b : Block) (n : Nat) (l : List Fld) : (b.raise n l).iu = b.iu := (Block.raise_keeps (Keeps.refl [.regs, .ev] b) rfl).iu_eq rfl
@[simp] theorem Block.raise_adc (b : Block) (n : Nat) (l : List Fld) : (b.raise n l).adc = b.adc := (Block.raise_keeps (Keeps.refl [.regs, .ev] b) rfl).adc_eq rfl
@[simp] theorem Block.raise_acc (b : Block) (n : Nat) (l : List Fld) : (b.raise n l).acc = b.acc := (Block.raise_keeps (Keeps.refl [.regs, .ev] b) rfl).acc_eq rfl
@[simp] theorem Block.raise_stk (b : Block) (n : Nat) (l : List Fld) : (b.raise n l).stk = b.stk := (Block.raise_keeps (Keeps.refl [.regs, .ev] b) rfl).stk_eq rfl
@[simp] theorem Block.raise_queues (b : Block) (n : Nat) (l : List Fld) : (b.raise n l).queues = b.queues := (Block.raise_keeps (Keeps.refl [.regs, .ev] b) rfl).queues_eq rfl
@[simp] theorem Block.raise_mrg (b : Block) (n : Nat) (l : List Fld) : (b.raise n l).mrg = b.mrg := (Block.raise_keeps (Keeps.refl [.regs, .ev] b) rfl).mrg_eq rfl
@[simp] theorem Block.raise_frm (b : Block) (n : Nat) (l : List Fld) : (b.raise n l).frm = b.frm := (Block.raise_keeps (Keeps.refl [.regs, .ev] b) rfl).frm_eq rfl
@[simp] theorem Block.raise_cvus (b : Block) (n : Nat) (l : List Fld) : (b.raise n l).cvus = b.cvus := (Block.raise_keeps (Keeps.refl [.regs, .ev] b) rfl).cvus_eq rfl
@[simp] theorem Block.raise_twin (b : Block) (n : Nat) (l : List Fld) : (b.raise n l).twin = b.twin := (Block.raise_keeps (Keeps.refl [.regs, .ev] b) rfl).twin_eq rfl
@[simp] theorem Block.raise_flt (b : Block) (n : Nat) (l : List Fld) : (b.raise n l).flt = b.flt := (Block.raise_keeps (Keeps.refl [.regs, .ev] b) rfl).flt_eq rfl
@[simp] theorem Block.raise_sec (b : Block) (n : Nat) (l : List Fld) : (b.raise n l).sec = b.sec := (Block.raise_keeps (Keeps.refl [.regs, .ev] b) rfl).sec_eq rfl
@[simp] theorem Block.raise_env (b : Block) (n : Nat) (l : List Fld) : (b.raise n l).env = b.env := (Block.raise_keeps (Keeps.refl [.regs, .ev] b) rfl).env_eq rfl
@[simp] theorem Block.raise_jtag (b : Block) (n : Nat) (l : List Fld) : (b.raise n l).jtag = b.jtag := (Block.raise_keeps (Keeps.refl [.regs, .ev] b) rfl).jtag_eq rfl
@[simp] theorem Block.raise_free (b : Block) (n : Nat) (l : List Fld) : (b.raise n l).free = b.free := (Block.raise_keeps (Keeps.refl [.regs, .ev] b) rfl).free_eq rfl
@[simp] theorem Block.raise_sessions (b : Block) (n : Nat) (l : List Fld) : (b.raise n l).dict.sessions = b.dict.sessions := (Block.raise_keeps (Keeps.refl [.regs, .ev] b) rfl).sessions_eq rfl
@[simp] theorem Block.raise_fails (b : Block) (n : Nat) (l : List Fld) : (b.raise n l).dict.fails = b.dict.fails := (Block.raise_keeps (Keeps.refl [.regs, .ev] b) rfl).fails_eq rfl
@[simp] theorem Block.raise_lockout (b : Block) (n : Nat) (l : List Fld) : (b.raise n l).dict.lockout = b.dict.lockout := (Block.raise_keeps (Keeps.refl [.regs, .ev] b) rfl).lockout_eq rfl
@[simp] theorem Block.raise_challenge (b : Block) (n : Nat) (l : List Fld) : (b.raise n l).dict.challenge = b.dict.challenge := (Block.raise_keeps (Keeps.refl [.regs, .ev] b) rfl).challenge_eq rfl
@[simp] theorem Block.raise_transfers (b : Block) (n : Nat) (l : List Fld) : (b.raise n l).dict.transfers = b.dict.transfers := (Block.raise_keeps (Keeps.refl [.regs, .ev] b) rfl).transfers_eq rfl
@[simp] theorem Block.raise_pend (b : Block) (n : Nat) (l : List Fld) : (b.raise n l).dict.pend = b.dict.pend := (Block.raise_keeps (Keeps.refl [.regs, .ev] b) rfl).pend_eq rfl
@[simp] theorem Block.raise_pairs (b : Block) (n : Nat) (l : List Fld) : (b.raise n l).dict.pairs = b.dict.pairs := (Block.raise_keeps (Keeps.refl [.regs, .ev] b) rfl).pairs_eq rfl
@[simp] theorem Block.raise_canA (b : Block) (n : Nat) (l : List Fld) : (b.raise n l).dict.canA = b.dict.canA := (Block.raise_keeps (Keeps.refl [.regs, .ev] b) rfl).canA_eq rfl
@[simp] theorem Block.raise_canB (b : Block) (n : Nat) (l : List Fld) : (b.raise n l).dict.canB = b.dict.canB := (Block.raise_keeps (Keeps.refl [.regs, .ev] b) rfl).canB_eq rfl
@[simp] theorem Block.raise_replies (b : Block) (n : Nat) (l : List Fld) : (b.raise n l).dict.replies = b.dict.replies := (Block.raise_keeps (Keeps.refl [.regs, .ev] b) rfl).replies_eq rfl
@[simp] theorem Block.raise_sent (b : Block) (n : Nat) (l : List Fld) : (b.raise n l).dict.sent = b.dict.sent := (Block.raise_keeps (Keeps.refl [.regs, .ev] b) rfl).sent_eq rfl
@[simp] theorem Block.raise_canOut (b : Block) (n : Nat) (l : List Fld) : (b.raise n l).dict.canOut = b.dict.canOut := (Block.raise_keeps (Keeps.refl [.regs, .ev] b) rfl).canOut_eq rfl
@[simp] theorem Block.raise_proxyTag (b : Block) (n : Nat) (l : List Fld) : (b.raise n l).dict.proxyTag = b.dict.proxyTag := (Block.raise_keeps (Keeps.refl [.regs, .ev] b) rfl).proxyTag_eq rfl
@[simp] theorem Block.raise_bulkIn (b : Block) (n : Nat) (l : List Fld) : (b.raise n l).dict.bulkIn = b.dict.bulkIn := (Block.raise_keeps (Keeps.refl [.regs, .ev] b) rfl).bulkIn_eq rfl
@[simp] theorem Block.raise_keeping (b : Block) (n : Nat) (l : List Fld) : (b.raise n l).dict.keeping = b.dict.keeping := (Block.raise_keeps (Keeps.refl [.regs, .ev] b) rfl).keeping_eq rfl
@[simp] theorem Block.raise_mute (b : Block) (n : Nat) (l : List Fld) : (b.raise n l).dict.mute = b.dict.mute := (Block.raise_keeps (Keeps.refl [.regs, .ev] b) rfl).mute_eq rfl
@[simp] theorem Block.raise_swaps (b : Block) (n : Nat) (l : List Fld) : (b.raise n l).dict.swaps = b.dict.swaps := (Block.raise_keeps (Keeps.refl [.regs, .ev] b) rfl).swaps_eq rfl
@[simp] theorem Block.raise_landings (b : Block) (n : Nat) (l : List Fld) : (b.raise n l).dict.landings = b.dict.landings := (Block.raise_keeps (Keeps.refl [.regs, .ev] b) rfl).landings_eq rfl

/-! ### raiseOnce -/

@[simp] theorem Block.raiseOnce_fuses (b : Block) (n k : Nat) (l : List Fld) : (b.raiseOnce n k l).fuses = b.fuses := (Block.raiseOnce_keeps (Keeps.refl [.regs, .ev] b) rfl).fuses_eq rfl
@[simp] theorem Block.raiseOnce_flash (b : Block) (n k : Nat) (l : List Fld) : (b.raiseOnce n k l).flash = b.flash := (Block.raiseOnce_keeps (Keeps.refl [.regs, .ev] b) rfl).flash_eq rfl
@[simp] theorem Block.raiseOnce_boot (b : Block) (n k : Nat) (l : List Fld) : (b.raiseOnce n k l).boot = b.boot := (Block.raiseOnce_keeps (Keeps.refl [.regs, .ev] b) rfl).boot_eq rfl rfl
@[simp] theorem Block.raiseOnce_sets (b : Block) (n k : Nat) (l : List Fld) : (b.raiseOnce n k l).sets = b.sets := (Block.raiseOnce_keeps (Keeps.refl [.regs, .ev] b) rfl).sets_eq rfl
@[simp] theorem Block.raiseOnce_time (b : Block) (n k : Nat) (l : List Fld) : (b.raiseOnce n k l).time = b.time := (Block.raiseOnce_keeps (Keeps.refl [.regs, .ev] b) rfl).time_eq rfl rfl
@[simp] theorem Block.raiseOnce_chans (b : Block) (n k : Nat) (l : List Fld) : (b.raiseOnce n k l).chans = b.chans := (Block.raiseOnce_keeps (Keeps.refl [.regs, .ev] b) rfl).chans_eq rfl
@[simp] theorem Block.raiseOnce_chMask (b : Block) (n k : Nat) (l : List Fld) : (b.raiseOnce n k l).chMask = b.chMask := (Block.raiseOnce_keeps (Keeps.refl [.regs, .ev] b) rfl).chMask_eq rfl
@[simp] theorem Block.raiseOnce_chSince (b : Block) (n k : Nat) (l : List Fld) : (b.raiseOnce n k l).chSince = b.chSince := (Block.raiseOnce_keeps (Keeps.refl [.regs, .ev] b) rfl).chSince_eq rfl
@[simp] theorem Block.raiseOnce_leads (b : Block) (n k : Nat) (l : List Fld) : (b.raiseOnce n k l).leads = b.leads := (Block.raiseOnce_keeps (Keeps.refl [.regs, .ev] b) rfl).leads_eq rfl
@[simp] theorem Block.raiseOnce_plate (b : Block) (n k : Nat) (l : List Fld) : (b.raiseOnce n k l).plate = b.plate := (Block.raiseOnce_keeps (Keeps.refl [.regs, .ev] b) rfl).plate_eq rfl
@[simp] theorem Block.raiseOnce_bin (b : Block) (n k : Nat) (l : List Fld) : (b.raiseOnce n k l).bin = b.bin := (Block.raiseOnce_keeps (Keeps.refl [.regs, .ev] b) rfl).bin_eq rfl
@[simp] theorem Block.raiseOnce_iu (b : Block) (n k : Nat) (l : List Fld) : (b.raiseOnce n k l).iu = b.iu := (Block.raiseOnce_keeps (Keeps.refl [.regs, .ev] b) rfl).iu_eq rfl
@[simp] theorem Block.raiseOnce_adc (b : Block) (n k : Nat) (l : List Fld) : (b.raiseOnce n k l).adc = b.adc := (Block.raiseOnce_keeps (Keeps.refl [.regs, .ev] b) rfl).adc_eq rfl
@[simp] theorem Block.raiseOnce_acc (b : Block) (n k : Nat) (l : List Fld) : (b.raiseOnce n k l).acc = b.acc := (Block.raiseOnce_keeps (Keeps.refl [.regs, .ev] b) rfl).acc_eq rfl
@[simp] theorem Block.raiseOnce_stk (b : Block) (n k : Nat) (l : List Fld) : (b.raiseOnce n k l).stk = b.stk := (Block.raiseOnce_keeps (Keeps.refl [.regs, .ev] b) rfl).stk_eq rfl
@[simp] theorem Block.raiseOnce_queues (b : Block) (n k : Nat) (l : List Fld) : (b.raiseOnce n k l).queues = b.queues := (Block.raiseOnce_keeps (Keeps.refl [.regs, .ev] b) rfl).queues_eq rfl
@[simp] theorem Block.raiseOnce_mrg (b : Block) (n k : Nat) (l : List Fld) : (b.raiseOnce n k l).mrg = b.mrg := (Block.raiseOnce_keeps (Keeps.refl [.regs, .ev] b) rfl).mrg_eq rfl
@[simp] theorem Block.raiseOnce_frm (b : Block) (n k : Nat) (l : List Fld) : (b.raiseOnce n k l).frm = b.frm := (Block.raiseOnce_keeps (Keeps.refl [.regs, .ev] b) rfl).frm_eq rfl
@[simp] theorem Block.raiseOnce_cvus (b : Block) (n k : Nat) (l : List Fld) : (b.raiseOnce n k l).cvus = b.cvus := (Block.raiseOnce_keeps (Keeps.refl [.regs, .ev] b) rfl).cvus_eq rfl
@[simp] theorem Block.raiseOnce_twin (b : Block) (n k : Nat) (l : List Fld) : (b.raiseOnce n k l).twin = b.twin := (Block.raiseOnce_keeps (Keeps.refl [.regs, .ev] b) rfl).twin_eq rfl
@[simp] theorem Block.raiseOnce_flt (b : Block) (n k : Nat) (l : List Fld) : (b.raiseOnce n k l).flt = b.flt := (Block.raiseOnce_keeps (Keeps.refl [.regs, .ev] b) rfl).flt_eq rfl
@[simp] theorem Block.raiseOnce_sec (b : Block) (n k : Nat) (l : List Fld) : (b.raiseOnce n k l).sec = b.sec := (Block.raiseOnce_keeps (Keeps.refl [.regs, .ev] b) rfl).sec_eq rfl
@[simp] theorem Block.raiseOnce_env (b : Block) (n k : Nat) (l : List Fld) : (b.raiseOnce n k l).env = b.env := (Block.raiseOnce_keeps (Keeps.refl [.regs, .ev] b) rfl).env_eq rfl
@[simp] theorem Block.raiseOnce_jtag (b : Block) (n k : Nat) (l : List Fld) : (b.raiseOnce n k l).jtag = b.jtag := (Block.raiseOnce_keeps (Keeps.refl [.regs, .ev] b) rfl).jtag_eq rfl
@[simp] theorem Block.raiseOnce_free (b : Block) (n k : Nat) (l : List Fld) : (b.raiseOnce n k l).free = b.free := (Block.raiseOnce_keeps (Keeps.refl [.regs, .ev] b) rfl).free_eq rfl
@[simp] theorem Block.raiseOnce_sessions (b : Block) (n k : Nat) (l : List Fld) : (b.raiseOnce n k l).dict.sessions = b.dict.sessions := (Block.raiseOnce_keeps (Keeps.refl [.regs, .ev] b) rfl).sessions_eq rfl
@[simp] theorem Block.raiseOnce_fails (b : Block) (n k : Nat) (l : List Fld) : (b.raiseOnce n k l).dict.fails = b.dict.fails := (Block.raiseOnce_keeps (Keeps.refl [.regs, .ev] b) rfl).fails_eq rfl
@[simp] theorem Block.raiseOnce_lockout (b : Block) (n k : Nat) (l : List Fld) : (b.raiseOnce n k l).dict.lockout = b.dict.lockout := (Block.raiseOnce_keeps (Keeps.refl [.regs, .ev] b) rfl).lockout_eq rfl
@[simp] theorem Block.raiseOnce_challenge (b : Block) (n k : Nat) (l : List Fld) : (b.raiseOnce n k l).dict.challenge = b.dict.challenge := (Block.raiseOnce_keeps (Keeps.refl [.regs, .ev] b) rfl).challenge_eq rfl
@[simp] theorem Block.raiseOnce_transfers (b : Block) (n k : Nat) (l : List Fld) : (b.raiseOnce n k l).dict.transfers = b.dict.transfers := (Block.raiseOnce_keeps (Keeps.refl [.regs, .ev] b) rfl).transfers_eq rfl
@[simp] theorem Block.raiseOnce_pend (b : Block) (n k : Nat) (l : List Fld) : (b.raiseOnce n k l).dict.pend = b.dict.pend := (Block.raiseOnce_keeps (Keeps.refl [.regs, .ev] b) rfl).pend_eq rfl
@[simp] theorem Block.raiseOnce_pairs (b : Block) (n k : Nat) (l : List Fld) : (b.raiseOnce n k l).dict.pairs = b.dict.pairs := (Block.raiseOnce_keeps (Keeps.refl [.regs, .ev] b) rfl).pairs_eq rfl
@[simp] theorem Block.raiseOnce_canA (b : Block) (n k : Nat) (l : List Fld) : (b.raiseOnce n k l).dict.canA = b.dict.canA := (Block.raiseOnce_keeps (Keeps.refl [.regs, .ev] b) rfl).canA_eq rfl
@[simp] theorem Block.raiseOnce_canB (b : Block) (n k : Nat) (l : List Fld) : (b.raiseOnce n k l).dict.canB = b.dict.canB := (Block.raiseOnce_keeps (Keeps.refl [.regs, .ev] b) rfl).canB_eq rfl
@[simp] theorem Block.raiseOnce_replies (b : Block) (n k : Nat) (l : List Fld) : (b.raiseOnce n k l).dict.replies = b.dict.replies := (Block.raiseOnce_keeps (Keeps.refl [.regs, .ev] b) rfl).replies_eq rfl
@[simp] theorem Block.raiseOnce_sent (b : Block) (n k : Nat) (l : List Fld) : (b.raiseOnce n k l).dict.sent = b.dict.sent := (Block.raiseOnce_keeps (Keeps.refl [.regs, .ev] b) rfl).sent_eq rfl
@[simp] theorem Block.raiseOnce_canOut (b : Block) (n k : Nat) (l : List Fld) : (b.raiseOnce n k l).dict.canOut = b.dict.canOut := (Block.raiseOnce_keeps (Keeps.refl [.regs, .ev] b) rfl).canOut_eq rfl
@[simp] theorem Block.raiseOnce_proxyTag (b : Block) (n k : Nat) (l : List Fld) : (b.raiseOnce n k l).dict.proxyTag = b.dict.proxyTag := (Block.raiseOnce_keeps (Keeps.refl [.regs, .ev] b) rfl).proxyTag_eq rfl
@[simp] theorem Block.raiseOnce_bulkIn (b : Block) (n k : Nat) (l : List Fld) : (b.raiseOnce n k l).dict.bulkIn = b.dict.bulkIn := (Block.raiseOnce_keeps (Keeps.refl [.regs, .ev] b) rfl).bulkIn_eq rfl
@[simp] theorem Block.raiseOnce_keeping (b : Block) (n k : Nat) (l : List Fld) : (b.raiseOnce n k l).dict.keeping = b.dict.keeping := (Block.raiseOnce_keeps (Keeps.refl [.regs, .ev] b) rfl).keeping_eq rfl
@[simp] theorem Block.raiseOnce_mute (b : Block) (n k : Nat) (l : List Fld) : (b.raiseOnce n k l).dict.mute = b.dict.mute := (Block.raiseOnce_keeps (Keeps.refl [.regs, .ev] b) rfl).mute_eq rfl
@[simp] theorem Block.raiseOnce_swaps (b : Block) (n k : Nat) (l : List Fld) : (b.raiseOnce n k l).dict.swaps = b.dict.swaps := (Block.raiseOnce_keeps (Keeps.refl [.regs, .ev] b) rfl).swaps_eq rfl
@[simp] theorem Block.raiseOnce_landings (b : Block) (n k : Nat) (l : List Fld) : (b.raiseOnce n k l).dict.landings = b.dict.landings := (Block.raiseOnce_keeps (Keeps.refl [.regs, .ev] b) rfl).landings_eq rfl

/-! ### inbandSend -/

@[simp] theorem Block.inbandSend_fuses (b : Block) (o : Nat) (m : List Byte) : (b.inbandSend o m).fuses = b.fuses := (Block.inbandSend_keeps (Keeps.refl [.queues, .mrg, .twin, .regs, .ev] b) rfl).fuses_eq rfl
@[simp] theorem Block.inbandSend_flash (b : Block) (o : Nat) (m : List Byte) : (b.inbandSend o m).flash = b.flash := (Block.inbandSend_keeps (Keeps.refl [.queues, .mrg, .twin, .regs, .ev] b) rfl).flash_eq rfl
@[simp] theorem Block.inbandSend_boot (b : Block) (o : Nat) (m : List Byte) : (b.inbandSend o m).boot = b.boot := (Block.inbandSend_keeps (Keeps.refl [.queues, .mrg, .twin, .regs, .ev] b) rfl).boot_eq rfl rfl
@[simp] theorem Block.inbandSend_sets (b : Block) (o : Nat) (m : List Byte) : (b.inbandSend o m).sets = b.sets := (Block.inbandSend_keeps (Keeps.refl [.queues, .mrg, .twin, .regs, .ev] b) rfl).sets_eq rfl
@[simp] theorem Block.inbandSend_time (b : Block) (o : Nat) (m : List Byte) : (b.inbandSend o m).time = b.time := (Block.inbandSend_keeps (Keeps.refl [.queues, .mrg, .twin, .regs, .ev] b) rfl).time_eq rfl rfl
@[simp] theorem Block.inbandSend_chans (b : Block) (o : Nat) (m : List Byte) : (b.inbandSend o m).chans = b.chans := (Block.inbandSend_keeps (Keeps.refl [.queues, .mrg, .twin, .regs, .ev] b) rfl).chans_eq rfl
@[simp] theorem Block.inbandSend_chMask (b : Block) (o : Nat) (m : List Byte) : (b.inbandSend o m).chMask = b.chMask := (Block.inbandSend_keeps (Keeps.refl [.queues, .mrg, .twin, .regs, .ev] b) rfl).chMask_eq rfl
@[simp] theorem Block.inbandSend_chSince (b : Block) (o : Nat) (m : List Byte) : (b.inbandSend o m).chSince = b.chSince := (Block.inbandSend_keeps (Keeps.refl [.queues, .mrg, .twin, .regs, .ev] b) rfl).chSince_eq rfl
@[simp] theorem Block.inbandSend_leads (b : Block) (o : Nat) (m : List Byte) : (b.inbandSend o m).leads = b.leads := (Block.inbandSend_keeps (Keeps.refl [.queues, .mrg, .twin, .regs, .ev] b) rfl).leads_eq rfl
@[simp] theorem Block.inbandSend_plate (b : Block) (o : Nat) (m : List Byte) : (b.inbandSend o m).plate = b.plate := (Block.inbandSend_keeps (Keeps.refl [.queues, .mrg, .twin, .regs, .ev] b) rfl).plate_eq rfl
@[simp] theorem Block.inbandSend_bin (b : Block) (o : Nat) (m : List Byte) : (b.inbandSend o m).bin = b.bin := (Block.inbandSend_keeps (Keeps.refl [.queues, .mrg, .twin, .regs, .ev] b) rfl).bin_eq rfl
@[simp] theorem Block.inbandSend_iu (b : Block) (o : Nat) (m : List Byte) : (b.inbandSend o m).iu = b.iu := (Block.inbandSend_keeps (Keeps.refl [.queues, .mrg, .twin, .regs, .ev] b) rfl).iu_eq rfl
@[simp] theorem Block.inbandSend_adc (b : Block) (o : Nat) (m : List Byte) : (b.inbandSend o m).adc = b.adc := (Block.inbandSend_keeps (Keeps.refl [.queues, .mrg, .twin, .regs, .ev] b) rfl).adc_eq rfl
@[simp] theorem Block.inbandSend_acc (b : Block) (o : Nat) (m : List Byte) : (b.inbandSend o m).acc = b.acc := (Block.inbandSend_keeps (Keeps.refl [.queues, .mrg, .twin, .regs, .ev] b) rfl).acc_eq rfl
@[simp] theorem Block.inbandSend_stk (b : Block) (o : Nat) (m : List Byte) : (b.inbandSend o m).stk = b.stk := (Block.inbandSend_keeps (Keeps.refl [.queues, .mrg, .twin, .regs, .ev] b) rfl).stk_eq rfl
@[simp] theorem Block.inbandSend_frm (b : Block) (o : Nat) (m : List Byte) : (b.inbandSend o m).frm = b.frm := (Block.inbandSend_keeps (Keeps.refl [.queues, .mrg, .twin, .regs, .ev] b) rfl).frm_eq rfl
@[simp] theorem Block.inbandSend_cvus (b : Block) (o : Nat) (m : List Byte) : (b.inbandSend o m).cvus = b.cvus := (Block.inbandSend_keeps (Keeps.refl [.queues, .mrg, .twin, .regs, .ev] b) rfl).cvus_eq rfl
@[simp] theorem Block.inbandSend_flt (b : Block) (o : Nat) (m : List Byte) : (b.inbandSend o m).flt = b.flt := (Block.inbandSend_keeps (Keeps.refl [.queues, .mrg, .twin, .regs, .ev] b) rfl).flt_eq rfl
@[simp] theorem Block.inbandSend_sec (b : Block) (o : Nat) (m : List Byte) : (b.inbandSend o m).sec = b.sec := (Block.inbandSend_keeps (Keeps.refl [.queues, .mrg, .twin, .regs, .ev] b) rfl).sec_eq rfl
@[simp] theorem Block.inbandSend_env (b : Block) (o : Nat) (m : List Byte) : (b.inbandSend o m).env = b.env := (Block.inbandSend_keeps (Keeps.refl [.queues, .mrg, .twin, .regs, .ev] b) rfl).env_eq rfl
@[simp] theorem Block.inbandSend_jtag (b : Block) (o : Nat) (m : List Byte) : (b.inbandSend o m).jtag = b.jtag := (Block.inbandSend_keeps (Keeps.refl [.queues, .mrg, .twin, .regs, .ev] b) rfl).jtag_eq rfl
@[simp] theorem Block.inbandSend_free (b : Block) (o : Nat) (m : List Byte) : (b.inbandSend o m).free = b.free := (Block.inbandSend_keeps (Keeps.refl [.queues, .mrg, .twin, .regs, .ev] b) rfl).free_eq rfl
@[simp] theorem Block.inbandSend_sessions (b : Block) (o : Nat) (m : List Byte) : (b.inbandSend o m).dict.sessions = b.dict.sessions := (Block.inbandSend_keeps (Keeps.refl [.queues, .mrg, .twin, .regs, .ev] b) rfl).sessions_eq rfl
@[simp] theorem Block.inbandSend_fails (b : Block) (o : Nat) (m : List Byte) : (b.inbandSend o m).dict.fails = b.dict.fails := (Block.inbandSend_keeps (Keeps.refl [.queues, .mrg, .twin, .regs, .ev] b) rfl).fails_eq rfl
@[simp] theorem Block.inbandSend_lockout (b : Block) (o : Nat) (m : List Byte) : (b.inbandSend o m).dict.lockout = b.dict.lockout := (Block.inbandSend_keeps (Keeps.refl [.queues, .mrg, .twin, .regs, .ev] b) rfl).lockout_eq rfl
@[simp] theorem Block.inbandSend_challenge (b : Block) (o : Nat) (m : List Byte) : (b.inbandSend o m).dict.challenge = b.dict.challenge := (Block.inbandSend_keeps (Keeps.refl [.queues, .mrg, .twin, .regs, .ev] b) rfl).challenge_eq rfl
@[simp] theorem Block.inbandSend_transfers (b : Block) (o : Nat) (m : List Byte) : (b.inbandSend o m).dict.transfers = b.dict.transfers := (Block.inbandSend_keeps (Keeps.refl [.queues, .mrg, .twin, .regs, .ev] b) rfl).transfers_eq rfl
@[simp] theorem Block.inbandSend_pend (b : Block) (o : Nat) (m : List Byte) : (b.inbandSend o m).dict.pend = b.dict.pend := (Block.inbandSend_keeps (Keeps.refl [.queues, .mrg, .twin, .regs, .ev] b) rfl).pend_eq rfl
@[simp] theorem Block.inbandSend_pairs (b : Block) (o : Nat) (m : List Byte) : (b.inbandSend o m).dict.pairs = b.dict.pairs := (Block.inbandSend_keeps (Keeps.refl [.queues, .mrg, .twin, .regs, .ev] b) rfl).pairs_eq rfl
@[simp] theorem Block.inbandSend_canA (b : Block) (o : Nat) (m : List Byte) : (b.inbandSend o m).dict.canA = b.dict.canA := (Block.inbandSend_keeps (Keeps.refl [.queues, .mrg, .twin, .regs, .ev] b) rfl).canA_eq rfl
@[simp] theorem Block.inbandSend_canB (b : Block) (o : Nat) (m : List Byte) : (b.inbandSend o m).dict.canB = b.dict.canB := (Block.inbandSend_keeps (Keeps.refl [.queues, .mrg, .twin, .regs, .ev] b) rfl).canB_eq rfl
@[simp] theorem Block.inbandSend_replies (b : Block) (o : Nat) (m : List Byte) : (b.inbandSend o m).dict.replies = b.dict.replies := (Block.inbandSend_keeps (Keeps.refl [.queues, .mrg, .twin, .regs, .ev] b) rfl).replies_eq rfl
@[simp] theorem Block.inbandSend_sent (b : Block) (o : Nat) (m : List Byte) : (b.inbandSend o m).dict.sent = b.dict.sent := (Block.inbandSend_keeps (Keeps.refl [.queues, .mrg, .twin, .regs, .ev] b) rfl).sent_eq rfl
@[simp] theorem Block.inbandSend_canOut (b : Block) (o : Nat) (m : List Byte) : (b.inbandSend o m).dict.canOut = b.dict.canOut := (Block.inbandSend_keeps (Keeps.refl [.queues, .mrg, .twin, .regs, .ev] b) rfl).canOut_eq rfl
@[simp] theorem Block.inbandSend_proxyTag (b : Block) (o : Nat) (m : List Byte) : (b.inbandSend o m).dict.proxyTag = b.dict.proxyTag := (Block.inbandSend_keeps (Keeps.refl [.queues, .mrg, .twin, .regs, .ev] b) rfl).proxyTag_eq rfl
@[simp] theorem Block.inbandSend_bulkIn (b : Block) (o : Nat) (m : List Byte) : (b.inbandSend o m).dict.bulkIn = b.dict.bulkIn := (Block.inbandSend_keeps (Keeps.refl [.queues, .mrg, .twin, .regs, .ev] b) rfl).bulkIn_eq rfl
@[simp] theorem Block.inbandSend_keeping (b : Block) (o : Nat) (m : List Byte) : (b.inbandSend o m).dict.keeping = b.dict.keeping := (Block.inbandSend_keeps (Keeps.refl [.queues, .mrg, .twin, .regs, .ev] b) rfl).keeping_eq rfl
@[simp] theorem Block.inbandSend_mute (b : Block) (o : Nat) (m : List Byte) : (b.inbandSend o m).dict.mute = b.dict.mute := (Block.inbandSend_keeps (Keeps.refl [.queues, .mrg, .twin, .regs, .ev] b) rfl).mute_eq rfl
@[simp] theorem Block.inbandSend_swaps (b : Block) (o : Nat) (m : List Byte) : (b.inbandSend o m).dict.swaps = b.dict.swaps := (Block.inbandSend_keeps (Keeps.refl [.queues, .mrg, .twin, .regs, .ev] b) rfl).swaps_eq rfl
@[simp] theorem Block.inbandSend_landings (b : Block) (o : Nat) (m : List Byte) : (b.inbandSend o m).dict.landings = b.dict.landings := (Block.inbandSend_keeps (Keeps.refl [.queues, .mrg, .twin, .regs, .ev] b) rfl).landings_eq rfl

/-! ### sendReply -/

@[simp] theorem Block.sendReply_fuses (b : Block) (r : Reply) : (b.sendReply r).fuses = b.fuses := (Block.sendReply_keeps (Keeps.refl [.queues, .mrg, .twin, .regs, .dict, .ev] b) rfl).fuses_eq rfl
@[simp] theorem Block.sendReply_flash (b : Block) (r : Reply) : (b.sendReply r).flash = b.flash := (Block.sendReply_keeps (Keeps.refl [.queues, .mrg, .twin, .regs, .dict, .ev] b) rfl).flash_eq rfl
@[simp] theorem Block.sendReply_boot (b : Block) (r : Reply) : (b.sendReply r).boot = b.boot := (Block.sendReply_keeps (Keeps.refl [.queues, .mrg, .twin, .regs, .dict, .ev] b) rfl).boot_eq rfl rfl
@[simp] theorem Block.sendReply_sets (b : Block) (r : Reply) : (b.sendReply r).sets = b.sets := (Block.sendReply_keeps (Keeps.refl [.queues, .mrg, .twin, .regs, .dict, .ev] b) rfl).sets_eq rfl
@[simp] theorem Block.sendReply_time (b : Block) (r : Reply) : (b.sendReply r).time = b.time := (Block.sendReply_keeps (Keeps.refl [.queues, .mrg, .twin, .regs, .dict, .ev] b) rfl).time_eq rfl rfl
@[simp] theorem Block.sendReply_chans (b : Block) (r : Reply) : (b.sendReply r).chans = b.chans := (Block.sendReply_keeps (Keeps.refl [.queues, .mrg, .twin, .regs, .dict, .ev] b) rfl).chans_eq rfl
@[simp] theorem Block.sendReply_chMask (b : Block) (r : Reply) : (b.sendReply r).chMask = b.chMask := (Block.sendReply_keeps (Keeps.refl [.queues, .mrg, .twin, .regs, .dict, .ev] b) rfl).chMask_eq rfl
@[simp] theorem Block.sendReply_chSince (b : Block) (r : Reply) : (b.sendReply r).chSince = b.chSince := (Block.sendReply_keeps (Keeps.refl [.queues, .mrg, .twin, .regs, .dict, .ev] b) rfl).chSince_eq rfl
@[simp] theorem Block.sendReply_leads (b : Block) (r : Reply) : (b.sendReply r).leads = b.leads := (Block.sendReply_keeps (Keeps.refl [.queues, .mrg, .twin, .regs, .dict, .ev] b) rfl).leads_eq rfl
@[simp] theorem Block.sendReply_plate (b : Block) (r : Reply) : (b.sendReply r).plate = b.plate := (Block.sendReply_keeps (Keeps.refl [.queues, .mrg, .twin, .regs, .dict, .ev] b) rfl).plate_eq rfl
@[simp] theorem Block.sendReply_bin (b : Block) (r : Reply) : (b.sendReply r).bin = b.bin := (Block.sendReply_keeps (Keeps.refl [.queues, .mrg, .twin, .regs, .dict, .ev] b) rfl).bin_eq rfl
@[simp] theorem Block.sendReply_iu (b : Block) (r : Reply) : (b.sendReply r).iu = b.iu := (Block.sendReply_keeps (Keeps.refl [.queues, .mrg, .twin, .regs, .dict, .ev] b) rfl).iu_eq rfl
@[simp] theorem Block.sendReply_adc (b : Block) (r : Reply) : (b.sendReply r).adc = b.adc := (Block.sendReply_keeps (Keeps.refl [.queues, .mrg, .twin, .regs, .dict, .ev] b) rfl).adc_eq rfl
@[simp] theorem Block.sendReply_acc (b : Block) (r : Reply) : (b.sendReply r).acc = b.acc := (Block.sendReply_keeps (Keeps.refl [.queues, .mrg, .twin, .regs, .dict, .ev] b) rfl).acc_eq rfl
@[simp] theorem Block.sendReply_stk (b : Block) (r : Reply) : (b.sendReply r).stk = b.stk := (Block.sendReply_keeps (Keeps.refl [.queues, .mrg, .twin, .regs, .dict, .ev] b) rfl).stk_eq rfl
@[simp] theorem Block.sendReply_frm (b : Block) (r : Reply) : (b.sendReply r).frm = b.frm := (Block.sendReply_keeps (Keeps.refl [.queues, .mrg, .twin, .regs, .dict, .ev] b) rfl).frm_eq rfl
@[simp] theorem Block.sendReply_cvus (b : Block) (r : Reply) : (b.sendReply r).cvus = b.cvus := (Block.sendReply_keeps (Keeps.refl [.queues, .mrg, .twin, .regs, .dict, .ev] b) rfl).cvus_eq rfl
@[simp] theorem Block.sendReply_flt (b : Block) (r : Reply) : (b.sendReply r).flt = b.flt := (Block.sendReply_keeps (Keeps.refl [.queues, .mrg, .twin, .regs, .dict, .ev] b) rfl).flt_eq rfl
@[simp] theorem Block.sendReply_sec (b : Block) (r : Reply) : (b.sendReply r).sec = b.sec := (Block.sendReply_keeps (Keeps.refl [.queues, .mrg, .twin, .regs, .dict, .ev] b) rfl).sec_eq rfl
@[simp] theorem Block.sendReply_env (b : Block) (r : Reply) : (b.sendReply r).env = b.env := (Block.sendReply_keeps (Keeps.refl [.queues, .mrg, .twin, .regs, .dict, .ev] b) rfl).env_eq rfl
@[simp] theorem Block.sendReply_jtag (b : Block) (r : Reply) : (b.sendReply r).jtag = b.jtag := (Block.sendReply_keeps (Keeps.refl [.queues, .mrg, .twin, .regs, .dict, .ev] b) rfl).jtag_eq rfl
@[simp] theorem Block.sendReply_free (b : Block) (r : Reply) : (b.sendReply r).free = b.free := (Block.sendReply_keeps (Keeps.refl [.queues, .mrg, .twin, .regs, .dict, .ev] b) rfl).free_eq rfl

/-! ### reply -/

@[simp] theorem Block.reply_fuses (b : Block) (h : Hdr) (op idx sub arg : Nat) (body : List Byte) : (b.reply h op idx sub arg body).fuses = b.fuses := (Block.reply_keeps (Keeps.refl [.queues, .mrg, .twin, .regs, .dict, .ev] b) rfl).fuses_eq rfl
@[simp] theorem Block.reply_flash (b : Block) (h : Hdr) (op idx sub arg : Nat) (body : List Byte) : (b.reply h op idx sub arg body).flash = b.flash := (Block.reply_keeps (Keeps.refl [.queues, .mrg, .twin, .regs, .dict, .ev] b) rfl).flash_eq rfl
@[simp] theorem Block.reply_boot (b : Block) (h : Hdr) (op idx sub arg : Nat) (body : List Byte) : (b.reply h op idx sub arg body).boot = b.boot := (Block.reply_keeps (Keeps.refl [.queues, .mrg, .twin, .regs, .dict, .ev] b) rfl).boot_eq rfl rfl
@[simp] theorem Block.reply_sets (b : Block) (h : Hdr) (op idx sub arg : Nat) (body : List Byte) : (b.reply h op idx sub arg body).sets = b.sets := (Block.reply_keeps (Keeps.refl [.queues, .mrg, .twin, .regs, .dict, .ev] b) rfl).sets_eq rfl
@[simp] theorem Block.reply_time (b : Block) (h : Hdr) (op idx sub arg : Nat) (body : List Byte) : (b.reply h op idx sub arg body).time = b.time := (Block.reply_keeps (Keeps.refl [.queues, .mrg, .twin, .regs, .dict, .ev] b) rfl).time_eq rfl rfl
@[simp] theorem Block.reply_chans (b : Block) (h : Hdr) (op idx sub arg : Nat) (body : List Byte) : (b.reply h op idx sub arg body).chans = b.chans := (Block.reply_keeps (Keeps.refl [.queues, .mrg, .twin, .regs, .dict, .ev] b) rfl).chans_eq rfl
@[simp] theorem Block.reply_chMask (b : Block) (h : Hdr) (op idx sub arg : Nat) (body : List Byte) : (b.reply h op idx sub arg body).chMask = b.chMask := (Block.reply_keeps (Keeps.refl [.queues, .mrg, .twin, .regs, .dict, .ev] b) rfl).chMask_eq rfl
@[simp] theorem Block.reply_chSince (b : Block) (h : Hdr) (op idx sub arg : Nat) (body : List Byte) : (b.reply h op idx sub arg body).chSince = b.chSince := (Block.reply_keeps (Keeps.refl [.queues, .mrg, .twin, .regs, .dict, .ev] b) rfl).chSince_eq rfl
@[simp] theorem Block.reply_leads (b : Block) (h : Hdr) (op idx sub arg : Nat) (body : List Byte) : (b.reply h op idx sub arg body).leads = b.leads := (Block.reply_keeps (Keeps.refl [.queues, .mrg, .twin, .regs, .dict, .ev] b) rfl).leads_eq rfl
@[simp] theorem Block.reply_plate (b : Block) (h : Hdr) (op idx sub arg : Nat) (body : List Byte) : (b.reply h op idx sub arg body).plate = b.plate := (Block.reply_keeps (Keeps.refl [.queues, .mrg, .twin, .regs, .dict, .ev] b) rfl).plate_eq rfl
@[simp] theorem Block.reply_bin (b : Block) (h : Hdr) (op idx sub arg : Nat) (body : List Byte) : (b.reply h op idx sub arg body).bin = b.bin := (Block.reply_keeps (Keeps.refl [.queues, .mrg, .twin, .regs, .dict, .ev] b) rfl).bin_eq rfl
@[simp] theorem Block.reply_iu (b : Block) (h : Hdr) (op idx sub arg : Nat) (body : List Byte) : (b.reply h op idx sub arg body).iu = b.iu := (Block.reply_keeps (Keeps.refl [.queues, .mrg, .twin, .regs, .dict, .ev] b) rfl).iu_eq rfl
@[simp] theorem Block.reply_adc (b : Block) (h : Hdr) (op idx sub arg : Nat) (body : List Byte) : (b.reply h op idx sub arg body).adc = b.adc := (Block.reply_keeps (Keeps.refl [.queues, .mrg, .twin, .regs, .dict, .ev] b) rfl).adc_eq rfl
@[simp] theorem Block.reply_acc (b : Block) (h : Hdr) (op idx sub arg : Nat) (body : List Byte) : (b.reply h op idx sub arg body).acc = b.acc := (Block.reply_keeps (Keeps.refl [.queues, .mrg, .twin, .regs, .dict, .ev] b) rfl).acc_eq rfl
@[simp] theorem Block.reply_stk (b : Block) (h : Hdr) (op idx sub arg : Nat) (body : List Byte) : (b.reply h op idx sub arg body).stk = b.stk := (Block.reply_keeps (Keeps.refl [.queues, .mrg, .twin, .regs, .dict, .ev] b) rfl).stk_eq rfl
@[simp] theorem Block.reply_frm (b : Block) (h : Hdr) (op idx sub arg : Nat) (body : List Byte) : (b.reply h op idx sub arg body).frm = b.frm := (Block.reply_keeps (Keeps.refl [.queues, .mrg, .twin, .regs, .dict, .ev] b) rfl).frm_eq rfl
@[simp] theorem Block.reply_cvus (b : Block) (h : Hdr) (op idx sub arg : Nat) (body : List Byte) : (b.reply h op idx sub arg body).cvus = b.cvus := (Block.reply_keeps (Keeps.refl [.queues, .mrg, .twin, .regs, .dict, .ev] b) rfl).cvus_eq rfl
@[simp] theorem Block.reply_flt (b : Block) (h : Hdr) (op idx sub arg : Nat) (body : List Byte) : (b.reply h op idx sub arg body).flt = b.flt := (Block.reply_keeps (Keeps.refl [.queues, .mrg, .twin, .regs, .dict, .ev] b) rfl).flt_eq rfl
@[simp] theorem Block.reply_sec (b : Block) (h : Hdr) (op idx sub arg : Nat) (body : List Byte) : (b.reply h op idx sub arg body).sec = b.sec := (Block.reply_keeps (Keeps.refl [.queues, .mrg, .twin, .regs, .dict, .ev] b) rfl).sec_eq rfl
@[simp] theorem Block.reply_env (b : Block) (h : Hdr) (op idx sub arg : Nat) (body : List Byte) : (b.reply h op idx sub arg body).env = b.env := (Block.reply_keeps (Keeps.refl [.queues, .mrg, .twin, .regs, .dict, .ev] b) rfl).env_eq rfl
@[simp] theorem Block.reply_jtag (b : Block) (h : Hdr) (op idx sub arg : Nat) (body : List Byte) : (b.reply h op idx sub arg body).jtag = b.jtag := (Block.reply_keeps (Keeps.refl [.queues, .mrg, .twin, .regs, .dict, .ev] b) rfl).jtag_eq rfl
@[simp] theorem Block.reply_free (b : Block) (h : Hdr) (op idx sub arg : Nat) (body : List Byte) : (b.reply h op idx sub arg body).free = b.free := (Block.reply_keeps (Keeps.refl [.queues, .mrg, .twin, .regs, .dict, .ev] b) rfl).free_eq rfl

/-! ### ack -/

@[simp] theorem Block.ack_fuses (b : Block) (h : Hdr) (key : Nat) : (b.ack h key).fuses = b.fuses := (Block.ack_keeps (Keeps.refl [.queues, .mrg, .twin, .regs, .dict, .ev] b) rfl).fuses_eq rfl
@[simp] theorem Block.ack_flash (b : Block) (h : Hdr) (key : Nat) : (b.ack h key).flash = b.flash := (Block.ack_keeps (Keeps.refl [.queues, .mrg, .twin, .regs, .dict, .ev] b) rfl).flash_eq rfl
@[simp] theorem Block.ack_boot (b : Block) (h : Hdr) (key : Nat) : (b.ack h key).boot = b.boot := (Block.ack_keeps (Keeps.refl [.queues, .mrg, .twin, .regs, .dict, .ev] b) rfl).boot_eq rfl rfl
@[simp] theorem Block.ack_sets (b : Block) (h : Hdr) (key : Nat) : (b.ack h key).sets = b.sets := (Block.ack_keeps (Keeps.refl [.queues, .mrg, .twin, .regs, .dict, .ev] b) rfl).sets_eq rfl
@[simp] theorem Block.ack_time (b : Block) (h : Hdr) (key : Nat) : (b.ack h key).time = b.time := (Block.ack_keeps (Keeps.refl [.queues, .mrg, .twin, .regs, .dict, .ev] b) rfl).time_eq rfl rfl
@[simp] theorem Block.ack_chans (b : Block) (h : Hdr) (key : Nat) : (b.ack h key).chans = b.chans := (Block.ack_keeps (Keeps.refl [.queues, .mrg, .twin, .regs, .dict, .ev] b) rfl).chans_eq rfl
@[simp] theorem Block.ack_chMask (b : Block) (h : Hdr) (key : Nat) : (b.ack h key).chMask = b.chMask := (Block.ack_keeps (Keeps.refl [.queues, .mrg, .twin, .regs, .dict, .ev] b) rfl).chMask_eq rfl
@[simp] theorem Block.ack_chSince (b : Block) (h : Hdr) (key : Nat) : (b.ack h key).chSince = b.chSince := (Block.ack_keeps (Keeps.refl [.queues, .mrg, .twin, .regs, .dict, .ev] b) rfl).chSince_eq rfl
@[simp] theorem Block.ack_leads (b : Block) (h : Hdr) (key : Nat) : (b.ack h key).leads = b.leads := (Block.ack_keeps (Keeps.refl [.queues, .mrg, .twin, .regs, .dict, .ev] b) rfl).leads_eq rfl
@[simp] theorem Block.ack_plate (b : Block) (h : Hdr) (key : Nat) : (b.ack h key).plate = b.plate := (Block.ack_keeps (Keeps.refl [.queues, .mrg, .twin, .regs, .dict, .ev] b) rfl).plate_eq rfl
@[simp] theorem Block.ack_bin (b : Block) (h : Hdr) (key : Nat) : (b.ack h key).bin = b.bin := (Block.ack_keeps (Keeps.refl [.queues, .mrg, .twin, .regs, .dict, .ev] b) rfl).bin_eq rfl
@[simp] theorem Block.ack_iu (b : Block) (h : Hdr) (key : Nat) : (b.ack h key).iu = b.iu := (Block.ack_keeps (Keeps.refl [.queues, .mrg, .twin, .regs, .dict, .ev] b) rfl).iu_eq rfl
@[simp] theorem Block.ack_adc (b : Block) (h : Hdr) (key : Nat) : (b.ack h key).adc = b.adc := (Block.ack_keeps (Keeps.refl [.queues, .mrg, .twin, .regs, .dict, .ev] b) rfl).adc_eq rfl
@[simp] theorem Block.ack_acc (b : Block) (h : Hdr) (key : Nat) : (b.ack h key).acc = b.acc := (Block.ack_keeps (Keeps.refl [.queues, .mrg, .twin, .regs, .dict, .ev] b) rfl).acc_eq rfl
@[simp] theorem Block.ack_stk (b : Block) (h : Hdr) (key : Nat) : (b.ack h key).stk = b.stk := (Block.ack_keeps (Keeps.refl [.queues, .mrg, .twin, .regs, .dict, .ev] b) rfl).stk_eq rfl
@[simp] theorem Block.ack_frm (b : Block) (h : Hdr) (key : Nat) : (b.ack h key).frm = b.frm := (Block.ack_keeps (Keeps.refl [.queues, .mrg, .twin, .regs, .dict, .ev] b) rfl).frm_eq rfl
@[simp] theorem Block.ack_cvus (b : Block) (h : Hdr) (key : Nat) : (b.ack h key).cvus = b.cvus := (Block.ack_keeps (Keeps.refl [.queues, .mrg, .twin, .regs, .dict, .ev] b) rfl).cvus_eq rfl
@[simp] theorem Block.ack_flt (b : Block) (h : Hdr) (key : Nat) : (b.ack h key).flt = b.flt := (Block.ack_keeps (Keeps.refl [.queues, .mrg, .twin, .regs, .dict, .ev] b) rfl).flt_eq rfl
@[simp] theorem Block.ack_sec (b : Block) (h : Hdr) (key : Nat) : (b.ack h key).sec = b.sec := (Block.ack_keeps (Keeps.refl [.queues, .mrg, .twin, .regs, .dict, .ev] b) rfl).sec_eq rfl
@[simp] theorem Block.ack_env (b : Block) (h : Hdr) (key : Nat) : (b.ack h key).env = b.env := (Block.ack_keeps (Keeps.refl [.queues, .mrg, .twin, .regs, .dict, .ev] b) rfl).env_eq rfl
@[simp] theorem Block.ack_jtag (b : Block) (h : Hdr) (key : Nat) : (b.ack h key).jtag = b.jtag := (Block.ack_keeps (Keeps.refl [.queues, .mrg, .twin, .regs, .dict, .ev] b) rfl).jtag_eq rfl
@[simp] theorem Block.ack_free (b : Block) (h : Hdr) (key : Nat) : (b.ack h key).free = b.free := (Block.ack_keeps (Keeps.refl [.queues, .mrg, .twin, .regs, .dict, .ev] b) rfl).free_eq rfl

/-! ### landed -/

@[simp] theorem Block.landed_fuses (b : Block) (h : Hdr) (key : Nat) : (b.landed h key).fuses = b.fuses := (Block.landed_keeps (Keeps.refl [.queues, .mrg, .twin, .regs, .dict, .ev] b) rfl).fuses_eq rfl
@[simp] theorem Block.landed_flash (b : Block) (h : Hdr) (key : Nat) : (b.landed h key).flash = b.flash := (Block.landed_keeps (Keeps.refl [.queues, .mrg, .twin, .regs, .dict, .ev] b) rfl).flash_eq rfl
@[simp] theorem Block.landed_boot (b : Block) (h : Hdr) (key : Nat) : (b.landed h key).boot = b.boot := (Block.landed_keeps (Keeps.refl [.queues, .mrg, .twin, .regs, .dict, .ev] b) rfl).boot_eq rfl rfl
@[simp] theorem Block.landed_sets (b : Block) (h : Hdr) (key : Nat) : (b.landed h key).sets = b.sets := (Block.landed_keeps (Keeps.refl [.queues, .mrg, .twin, .regs, .dict, .ev] b) rfl).sets_eq rfl
@[simp] theorem Block.landed_time (b : Block) (h : Hdr) (key : Nat) : (b.landed h key).time = b.time := (Block.landed_keeps (Keeps.refl [.queues, .mrg, .twin, .regs, .dict, .ev] b) rfl).time_eq rfl rfl
@[simp] theorem Block.landed_chans (b : Block) (h : Hdr) (key : Nat) : (b.landed h key).chans = b.chans := (Block.landed_keeps (Keeps.refl [.queues, .mrg, .twin, .regs, .dict, .ev] b) rfl).chans_eq rfl
@[simp] theorem Block.landed_chMask (b : Block) (h : Hdr) (key : Nat) : (b.landed h key).chMask = b.chMask := (Block.landed_keeps (Keeps.refl [.queues, .mrg, .twin, .regs, .dict, .ev] b) rfl).chMask_eq rfl
@[simp] theorem Block.landed_chSince (b : Block) (h : Hdr) (key : Nat) : (b.landed h key).chSince = b.chSince := (Block.landed_keeps (Keeps.refl [.queues, .mrg, .twin, .regs, .dict, .ev] b) rfl).chSince_eq rfl
@[simp] theorem Block.landed_leads (b : Block) (h : Hdr) (key : Nat) : (b.landed h key).leads = b.leads := (Block.landed_keeps (Keeps.refl [.queues, .mrg, .twin, .regs, .dict, .ev] b) rfl).leads_eq rfl
@[simp] theorem Block.landed_plate (b : Block) (h : Hdr) (key : Nat) : (b.landed h key).plate = b.plate := (Block.landed_keeps (Keeps.refl [.queues, .mrg, .twin, .regs, .dict, .ev] b) rfl).plate_eq rfl
@[simp] theorem Block.landed_bin (b : Block) (h : Hdr) (key : Nat) : (b.landed h key).bin = b.bin := (Block.landed_keeps (Keeps.refl [.queues, .mrg, .twin, .regs, .dict, .ev] b) rfl).bin_eq rfl
@[simp] theorem Block.landed_iu (b : Block) (h : Hdr) (key : Nat) : (b.landed h key).iu = b.iu := (Block.landed_keeps (Keeps.refl [.queues, .mrg, .twin, .regs, .dict, .ev] b) rfl).iu_eq rfl
@[simp] theorem Block.landed_adc (b : Block) (h : Hdr) (key : Nat) : (b.landed h key).adc = b.adc := (Block.landed_keeps (Keeps.refl [.queues, .mrg, .twin, .regs, .dict, .ev] b) rfl).adc_eq rfl
@[simp] theorem Block.landed_acc (b : Block) (h : Hdr) (key : Nat) : (b.landed h key).acc = b.acc := (Block.landed_keeps (Keeps.refl [.queues, .mrg, .twin, .regs, .dict, .ev] b) rfl).acc_eq rfl
@[simp] theorem Block.landed_stk (b : Block) (h : Hdr) (key : Nat) : (b.landed h key).stk = b.stk := (Block.landed_keeps (Keeps.refl [.queues, .mrg, .twin, .regs, .dict, .ev] b) rfl).stk_eq rfl
@[simp] theorem Block.landed_frm (b : Block) (h : Hdr) (key : Nat) : (b.landed h key).frm = b.frm := (Block.landed_keeps (Keeps.refl [.queues, .mrg, .twin, .regs, .dict, .ev] b) rfl).frm_eq rfl
@[simp] theorem Block.landed_cvus (b : Block) (h : Hdr) (key : Nat) : (b.landed h key).cvus = b.cvus := (Block.landed_keeps (Keeps.refl [.queues, .mrg, .twin, .regs, .dict, .ev] b) rfl).cvus_eq rfl
@[simp] theorem Block.landed_flt (b : Block) (h : Hdr) (key : Nat) : (b.landed h key).flt = b.flt := (Block.landed_keeps (Keeps.refl [.queues, .mrg, .twin, .regs, .dict, .ev] b) rfl).flt_eq rfl
@[simp] theorem Block.landed_sec (b : Block) (h : Hdr) (key : Nat) : (b.landed h key).sec = b.sec := (Block.landed_keeps (Keeps.refl [.queues, .mrg, .twin, .regs, .dict, .ev] b) rfl).sec_eq rfl
@[simp] theorem Block.landed_env (b : Block) (h : Hdr) (key : Nat) : (b.landed h key).env = b.env := (Block.landed_keeps (Keeps.refl [.queues, .mrg, .twin, .regs, .dict, .ev] b) rfl).env_eq rfl
@[simp] theorem Block.landed_jtag (b : Block) (h : Hdr) (key : Nat) : (b.landed h key).jtag = b.jtag := (Block.landed_keeps (Keeps.refl [.queues, .mrg, .twin, .regs, .dict, .ev] b) rfl).jtag_eq rfl
@[simp] theorem Block.landed_free (b : Block) (h : Hdr) (key : Nat) : (b.landed h key).free = b.free := (Block.landed_keeps (Keeps.refl [.queues, .mrg, .twin, .regs, .dict, .ev] b) rfl).free_eq rfl

/-! ### abort -/

@[simp] theorem Block.abort_fuses (b : Block) (h : Hdr) (idx sub code : Nat) : (b.abort h idx sub code).fuses = b.fuses := (Block.abort_keeps (Keeps.refl [.queues, .mrg, .twin, .regs, .dict, .ev] b) rfl).fuses_eq rfl
@[simp] theorem Block.abort_flash (b : Block) (h : Hdr) (idx sub code : Nat) : (b.abort h idx sub code).flash = b.flash := (Block.abort_keeps (Keeps.refl [.queues, .mrg, .twin, .regs, .dict, .ev] b) rfl).flash_eq rfl
@[simp] theorem Block.abort_boot (b : Block) (h : Hdr) (idx sub code : Nat) : (b.abort h idx sub code).boot = b.boot := (Block.abort_keeps (Keeps.refl [.queues, .mrg, .twin, .regs, .dict, .ev] b) rfl).boot_eq rfl rfl
@[simp] theorem Block.abort_sets (b : Block) (h : Hdr) (idx sub code : Nat) : (b.abort h idx sub code).sets = b.sets := (Block.abort_keeps (Keeps.refl [.queues, .mrg, .twin, .regs, .dict, .ev] b) rfl).sets_eq rfl
@[simp] theorem Block.abort_time (b : Block) (h : Hdr) (idx sub code : Nat) : (b.abort h idx sub code).time = b.time := (Block.abort_keeps (Keeps.refl [.queues, .mrg, .twin, .regs, .dict, .ev] b) rfl).time_eq rfl rfl
@[simp] theorem Block.abort_chans (b : Block) (h : Hdr) (idx sub code : Nat) : (b.abort h idx sub code).chans = b.chans := (Block.abort_keeps (Keeps.refl [.queues, .mrg, .twin, .regs, .dict, .ev] b) rfl).chans_eq rfl
@[simp] theorem Block.abort_chMask (b : Block) (h : Hdr) (idx sub code : Nat) : (b.abort h idx sub code).chMask = b.chMask := (Block.abort_keeps (Keeps.refl [.queues, .mrg, .twin, .regs, .dict, .ev] b) rfl).chMask_eq rfl
@[simp] theorem Block.abort_chSince (b : Block) (h : Hdr) (idx sub code : Nat) : (b.abort h idx sub code).chSince = b.chSince := (Block.abort_keeps (Keeps.refl [.queues, .mrg, .twin, .regs, .dict, .ev] b) rfl).chSince_eq rfl
@[simp] theorem Block.abort_leads (b : Block) (h : Hdr) (idx sub code : Nat) : (b.abort h idx sub code).leads = b.leads := (Block.abort_keeps (Keeps.refl [.queues, .mrg, .twin, .regs, .dict, .ev] b) rfl).leads_eq rfl
@[simp] theorem Block.abort_plate (b : Block) (h : Hdr) (idx sub code : Nat) : (b.abort h idx sub code).plate = b.plate := (Block.abort_keeps (Keeps.refl [.queues, .mrg, .twin, .regs, .dict, .ev] b) rfl).plate_eq rfl
@[simp] theorem Block.abort_bin (b : Block) (h : Hdr) (idx sub code : Nat) : (b.abort h idx sub code).bin = b.bin := (Block.abort_keeps (Keeps.refl [.queues, .mrg, .twin, .regs, .dict, .ev] b) rfl).bin_eq rfl
@[simp] theorem Block.abort_iu (b : Block) (h : Hdr) (idx sub code : Nat) : (b.abort h idx sub code).iu = b.iu := (Block.abort_keeps (Keeps.refl [.queues, .mrg, .twin, .regs, .dict, .ev] b) rfl).iu_eq rfl
@[simp] theorem Block.abort_adc (b : Block) (h : Hdr) (idx sub code : Nat) : (b.abort h idx sub code).adc = b.adc := (Block.abort_keeps (Keeps.refl [.queues, .mrg, .twin, .regs, .dict, .ev] b) rfl).adc_eq rfl
@[simp] theorem Block.abort_acc (b : Block) (h : Hdr) (idx sub code : Nat) : (b.abort h idx sub code).acc = b.acc := (Block.abort_keeps (Keeps.refl [.queues, .mrg, .twin, .regs, .dict, .ev] b) rfl).acc_eq rfl
@[simp] theorem Block.abort_stk (b : Block) (h : Hdr) (idx sub code : Nat) : (b.abort h idx sub code).stk = b.stk := (Block.abort_keeps (Keeps.refl [.queues, .mrg, .twin, .regs, .dict, .ev] b) rfl).stk_eq rfl
@[simp] theorem Block.abort_frm (b : Block) (h : Hdr) (idx sub code : Nat) : (b.abort h idx sub code).frm = b.frm := (Block.abort_keeps (Keeps.refl [.queues, .mrg, .twin, .regs, .dict, .ev] b) rfl).frm_eq rfl
@[simp] theorem Block.abort_cvus (b : Block) (h : Hdr) (idx sub code : Nat) : (b.abort h idx sub code).cvus = b.cvus := (Block.abort_keeps (Keeps.refl [.queues, .mrg, .twin, .regs, .dict, .ev] b) rfl).cvus_eq rfl
@[simp] theorem Block.abort_flt (b : Block) (h : Hdr) (idx sub code : Nat) : (b.abort h idx sub code).flt = b.flt := (Block.abort_keeps (Keeps.refl [.queues, .mrg, .twin, .regs, .dict, .ev] b) rfl).flt_eq rfl
@[simp] theorem Block.abort_sec (b : Block) (h : Hdr) (idx sub code : Nat) : (b.abort h idx sub code).sec = b.sec := (Block.abort_keeps (Keeps.refl [.queues, .mrg, .twin, .regs, .dict, .ev] b) rfl).sec_eq rfl
@[simp] theorem Block.abort_env (b : Block) (h : Hdr) (idx sub code : Nat) : (b.abort h idx sub code).env = b.env := (Block.abort_keeps (Keeps.refl [.queues, .mrg, .twin, .regs, .dict, .ev] b) rfl).env_eq rfl
@[simp] theorem Block.abort_jtag (b : Block) (h : Hdr) (idx sub code : Nat) : (b.abort h idx sub code).jtag = b.jtag := (Block.abort_keeps (Keeps.refl [.queues, .mrg, .twin, .regs, .dict, .ev] b) rfl).jtag_eq rfl
@[simp] theorem Block.abort_free (b : Block) (h : Hdr) (idx sub code : Nat) : (b.abort h idx sub code).free = b.free := (Block.abort_keeps (Keeps.refl [.queues, .mrg, .twin, .regs, .dict, .ev] b) rfl).free_eq rfl

/-! ### refuseKey -/

@[simp] theorem Block.refuseKey_fuses (b : Block) (h : Hdr) (key code : Nat) : (b.refuseKey h key code).fuses = b.fuses := (Block.refuseKey_keeps (Keeps.refl [.queues, .mrg, .twin, .regs, .dict, .ev] b) rfl).fuses_eq rfl
@[simp] theorem Block.refuseKey_flash (b : Block) (h : Hdr) (key code : Nat) : (b.refuseKey h key code).flash = b.flash := (Block.refuseKey_keeps (Keeps.refl [.queues, .mrg, .twin, .regs, .dict, .ev] b) rfl).flash_eq rfl
@[simp] theorem Block.refuseKey_boot (b : Block) (h : Hdr) (key code : Nat) : (b.refuseKey h key code).boot = b.boot := (Block.refuseKey_keeps (Keeps.refl [.queues, .mrg, .twin, .regs, .dict, .ev] b) rfl).boot_eq rfl rfl
@[simp] theorem Block.refuseKey_sets (b : Block) (h : Hdr) (key code : Nat) : (b.refuseKey h key code).sets = b.sets := (Block.refuseKey_keeps (Keeps.refl [.queues, .mrg, .twin, .regs, .dict, .ev] b) rfl).sets_eq rfl
@[simp] theorem Block.refuseKey_time (b : Block) (h : Hdr) (key code : Nat) : (b.refuseKey h key code).time = b.time := (Block.refuseKey_keeps (Keeps.refl [.queues, .mrg, .twin, .regs, .dict, .ev] b) rfl).time_eq rfl rfl
@[simp] theorem Block.refuseKey_chans (b : Block) (h : Hdr) (key code : Nat) : (b.refuseKey h key code).chans = b.chans := (Block.refuseKey_keeps (Keeps.refl [.queues, .mrg, .twin, .regs, .dict, .ev] b) rfl).chans_eq rfl
@[simp] theorem Block.refuseKey_chMask (b : Block) (h : Hdr) (key code : Nat) : (b.refuseKey h key code).chMask = b.chMask := (Block.refuseKey_keeps (Keeps.refl [.queues, .mrg, .twin, .regs, .dict, .ev] b) rfl).chMask_eq rfl
@[simp] theorem Block.refuseKey_chSince (b : Block) (h : Hdr) (key code : Nat) : (b.refuseKey h key code).chSince = b.chSince := (Block.refuseKey_keeps (Keeps.refl [.queues, .mrg, .twin, .regs, .dict, .ev] b) rfl).chSince_eq rfl
@[simp] theorem Block.refuseKey_leads (b : Block) (h : Hdr) (key code : Nat) : (b.refuseKey h key code).leads = b.leads := (Block.refuseKey_keeps (Keeps.refl [.queues, .mrg, .twin, .regs, .dict, .ev] b) rfl).leads_eq rfl
@[simp] theorem Block.refuseKey_plate (b : Block) (h : Hdr) (key code : Nat) : (b.refuseKey h key code).plate = b.plate := (Block.refuseKey_keeps (Keeps.refl [.queues, .mrg, .twin, .regs, .dict, .ev] b) rfl).plate_eq rfl
@[simp] theorem Block.refuseKey_bin (b : Block) (h : Hdr) (key code : Nat) : (b.refuseKey h key code).bin = b.bin := (Block.refuseKey_keeps (Keeps.refl [.queues, .mrg, .twin, .regs, .dict, .ev] b) rfl).bin_eq rfl
@[simp] theorem Block.refuseKey_iu (b : Block) (h : Hdr) (key code : Nat) : (b.refuseKey h key code).iu = b.iu := (Block.refuseKey_keeps (Keeps.refl [.queues, .mrg, .twin, .regs, .dict, .ev] b) rfl).iu_eq rfl
@[simp] theorem Block.refuseKey_adc (b : Block) (h : Hdr) (key code : Nat) : (b.refuseKey h key code).adc = b.adc := (Block.refuseKey_keeps (Keeps.refl [.queues, .mrg, .twin, .regs, .dict, .ev] b) rfl).adc_eq rfl
@[simp] theorem Block.refuseKey_acc (b : Block) (h : Hdr) (key code : Nat) : (b.refuseKey h key code).acc = b.acc := (Block.refuseKey_keeps (Keeps.refl [.queues, .mrg, .twin, .regs, .dict, .ev] b) rfl).acc_eq rfl
@[simp] theorem Block.refuseKey_stk (b : Block) (h : Hdr) (key code : Nat) : (b.refuseKey h key code).stk = b.stk := (Block.refuseKey_keeps (Keeps.refl [.queues, .mrg, .twin, .regs, .dict, .ev] b) rfl).stk_eq rfl
@[simp] theorem Block.refuseKey_frm (b : Block) (h : Hdr) (key code : Nat) : (b.refuseKey h key code).frm = b.frm := (Block.refuseKey_keeps (Keeps.refl [.queues, .mrg, .twin, .regs, .dict, .ev] b) rfl).frm_eq rfl
@[simp] theorem Block.refuseKey_cvus (b : Block) (h : Hdr) (key code : Nat) : (b.refuseKey h key code).cvus = b.cvus := (Block.refuseKey_keeps (Keeps.refl [.queues, .mrg, .twin, .regs, .dict, .ev] b) rfl).cvus_eq rfl
@[simp] theorem Block.refuseKey_flt (b : Block) (h : Hdr) (key code : Nat) : (b.refuseKey h key code).flt = b.flt := (Block.refuseKey_keeps (Keeps.refl [.queues, .mrg, .twin, .regs, .dict, .ev] b) rfl).flt_eq rfl
@[simp] theorem Block.refuseKey_sec (b : Block) (h : Hdr) (key code : Nat) : (b.refuseKey h key code).sec = b.sec := (Block.refuseKey_keeps (Keeps.refl [.queues, .mrg, .twin, .regs, .dict, .ev] b) rfl).sec_eq rfl
@[simp] theorem Block.refuseKey_env (b : Block) (h : Hdr) (key code : Nat) : (b.refuseKey h key code).env = b.env := (Block.refuseKey_keeps (Keeps.refl [.queues, .mrg, .twin, .regs, .dict, .ev] b) rfl).env_eq rfl
@[simp] theorem Block.refuseKey_jtag (b : Block) (h : Hdr) (key code : Nat) : (b.refuseKey h key code).jtag = b.jtag := (Block.refuseKey_keeps (Keeps.refl [.queues, .mrg, .twin, .regs, .dict, .ev] b) rfl).jtag_eq rfl
@[simp] theorem Block.refuseKey_free (b : Block) (h : Hdr) (key code : Nat) : (b.refuseKey h key code).free = b.free := (Block.refuseKey_keeps (Keeps.refl [.queues, .mrg, .twin, .regs, .dict, .ev] b) rfl).free_eq rfl

/-! ### freshTag -/

@[simp] theorem Block.freshTag_fuses (b : Block) (h : Hdr) : (b.freshTag h).fuses = b.fuses := (Block.freshTag_keeps (Keeps.refl [.boot, .sets, .mrg, .dict] b) rfl).fuses_eq rfl
@[simp] theorem Block.freshTag_flash (b : Block) (h : Hdr) : (b.freshTag h).flash = b.flash := (Block.freshTag_keeps (Keeps.refl [.boot, .sets, .mrg, .dict] b) rfl).flash_eq rfl
@[simp] theorem Block.freshTag_time (b : Block) (h : Hdr) : (b.freshTag h).time = b.time := (Block.freshTag_keeps (Keeps.refl [.boot, .sets, .mrg, .dict] b) rfl).time_eq rfl rfl
@[simp] theorem Block.freshTag_chans (b : Block) (h : Hdr) : (b.freshTag h).chans = b.chans := (Block.freshTag_keeps (Keeps.refl [.boot, .sets, .mrg, .dict] b) rfl).chans_eq rfl
@[simp] theorem Block.freshTag_chMask (b : Block) (h : Hdr) : (b.freshTag h).chMask = b.chMask := (Block.freshTag_keeps (Keeps.refl [.boot, .sets, .mrg, .dict] b) rfl).chMask_eq rfl
@[simp] theorem Block.freshTag_chSince (b : Block) (h : Hdr) : (b.freshTag h).chSince = b.chSince := (Block.freshTag_keeps (Keeps.refl [.boot, .sets, .mrg, .dict] b) rfl).chSince_eq rfl
@[simp] theorem Block.freshTag_leads (b : Block) (h : Hdr) : (b.freshTag h).leads = b.leads := (Block.freshTag_keeps (Keeps.refl [.boot, .sets, .mrg, .dict] b) rfl).leads_eq rfl
@[simp] theorem Block.freshTag_plate (b : Block) (h : Hdr) : (b.freshTag h).plate = b.plate := (Block.freshTag_keeps (Keeps.refl [.boot, .sets, .mrg, .dict] b) rfl).plate_eq rfl
@[simp] theorem Block.freshTag_bin (b : Block) (h : Hdr) : (b.freshTag h).bin = b.bin := (Block.freshTag_keeps (Keeps.refl [.boot, .sets, .mrg, .dict] b) rfl).bin_eq rfl
@[simp] theorem Block.freshTag_iu (b : Block) (h : Hdr) : (b.freshTag h).iu = b.iu := (Block.freshTag_keeps (Keeps.refl [.boot, .sets, .mrg, .dict] b) rfl).iu_eq rfl
@[simp] theorem Block.freshTag_adc (b : Block) (h : Hdr) : (b.freshTag h).adc = b.adc := (Block.freshTag_keeps (Keeps.refl [.boot, .sets, .mrg, .dict] b) rfl).adc_eq rfl
@[simp] theorem Block.freshTag_acc (b : Block) (h : Hdr) : (b.freshTag h).acc = b.acc := (Block.freshTag_keeps (Keeps.refl [.boot, .sets, .mrg, .dict] b) rfl).acc_eq rfl
@[simp] theorem Block.freshTag_stk (b : Block) (h : Hdr) : (b.freshTag h).stk = b.stk := (Block.freshTag_keeps (Keeps.refl [.boot, .sets, .mrg, .dict] b) rfl).stk_eq rfl
@[simp] theorem Block.freshTag_queues (b : Block) (h : Hdr) : (b.freshTag h).queues = b.queues := (Block.freshTag_keeps (Keeps.refl [.boot, .sets, .mrg, .dict] b) rfl).queues_eq rfl
@[simp] theorem Block.freshTag_frm (b : Block) (h : Hdr) : (b.freshTag h).frm = b.frm := (Block.freshTag_keeps (Keeps.refl [.boot, .sets, .mrg, .dict] b) rfl).frm_eq rfl
@[simp] theorem Block.freshTag_cvus (b : Block) (h : Hdr) : (b.freshTag h).cvus = b.cvus := (Block.freshTag_keeps (Keeps.refl [.boot, .sets, .mrg, .dict] b) rfl).cvus_eq rfl
@[simp] theorem Block.freshTag_twin (b : Block) (h : Hdr) : (b.freshTag h).twin = b.twin := (Block.freshTag_keeps (Keeps.refl [.boot, .sets, .mrg, .dict] b) rfl).twin_eq rfl
@[simp] theorem Block.freshTag_flt (b : Block) (h : Hdr) : (b.freshTag h).flt = b.flt := (Block.freshTag_keeps (Keeps.refl [.boot, .sets, .mrg, .dict] b) rfl).flt_eq rfl
@[simp] theorem Block.freshTag_ev (b : Block) (h : Hdr) : (b.freshTag h).ev = b.ev := (Block.freshTag_keeps (Keeps.refl [.boot, .sets, .mrg, .dict] b) rfl).ev_eq rfl
@[simp] theorem Block.freshTag_sec (b : Block) (h : Hdr) : (b.freshTag h).sec = b.sec := (Block.freshTag_keeps (Keeps.refl [.boot, .sets, .mrg, .dict] b) rfl).sec_eq rfl
@[simp] theorem Block.freshTag_env (b : Block) (h : Hdr) : (b.freshTag h).env = b.env := (Block.freshTag_keeps (Keeps.refl [.boot, .sets, .mrg, .dict] b) rfl).env_eq rfl
@[simp] theorem Block.freshTag_jtag (b : Block) (h : Hdr) : (b.freshTag h).jtag = b.jtag := (Block.freshTag_keeps (Keeps.refl [.boot, .sets, .mrg, .dict] b) rfl).jtag_eq rfl
@[simp] theorem Block.freshTag_free (b : Block) (h : Hdr) : (b.freshTag h).free = b.free := (Block.freshTag_keeps (Keeps.refl [.boot, .sets, .mrg, .dict] b) rfl).free_eq rfl
@[simp] theorem Block.freshTag_regs (b : Block) (h : Hdr) : (b.freshTag h).dict.regs = b.dict.regs := (Block.freshTag_keeps (Keeps.refl [.boot, .sets, .mrg, .dict] b) rfl).regs_eq rfl

/-! ### taken -/

@[simp] theorem Block.taken_fuses (b : Block) (h : Hdr) : (b.taken h).fuses = b.fuses := (Block.taken_keeps (Keeps.refl [.boot, .sets, .mrg, .dict] b) rfl).fuses_eq rfl
@[simp] theorem Block.taken_flash (b : Block) (h : Hdr) : (b.taken h).flash = b.flash := (Block.taken_keeps (Keeps.refl [.boot, .sets, .mrg, .dict] b) rfl).flash_eq rfl
@[simp] theorem Block.taken_time (b : Block) (h : Hdr) : (b.taken h).time = b.time := (Block.taken_keeps (Keeps.refl [.boot, .sets, .mrg, .dict] b) rfl).time_eq rfl rfl
@[simp] theorem Block.taken_chans (b : Block) (h : Hdr) : (b.taken h).chans = b.chans := (Block.taken_keeps (Keeps.refl [.boot, .sets, .mrg, .dict] b) rfl).chans_eq rfl
@[simp] theorem Block.taken_chMask (b : Block) (h : Hdr) : (b.taken h).chMask = b.chMask := (Block.taken_keeps (Keeps.refl [.boot, .sets, .mrg, .dict] b) rfl).chMask_eq rfl
@[simp] theorem Block.taken_chSince (b : Block) (h : Hdr) : (b.taken h).chSince = b.chSince := (Block.taken_keeps (Keeps.refl [.boot, .sets, .mrg, .dict] b) rfl).chSince_eq rfl
@[simp] theorem Block.taken_leads (b : Block) (h : Hdr) : (b.taken h).leads = b.leads := (Block.taken_keeps (Keeps.refl [.boot, .sets, .mrg, .dict] b) rfl).leads_eq rfl
@[simp] theorem Block.taken_plate (b : Block) (h : Hdr) : (b.taken h).plate = b.plate := (Block.taken_keeps (Keeps.refl [.boot, .sets, .mrg, .dict] b) rfl).plate_eq rfl
@[simp] theorem Block.taken_bin (b : Block) (h : Hdr) : (b.taken h).bin = b.bin := (Block.taken_keeps (Keeps.refl [.boot, .sets, .mrg, .dict] b) rfl).bin_eq rfl
@[simp] theorem Block.taken_iu (b : Block) (h : Hdr) : (b.taken h).iu = b.iu := (Block.taken_keeps (Keeps.refl [.boot, .sets, .mrg, .dict] b) rfl).iu_eq rfl
@[simp] theorem Block.taken_adc (b : Block) (h : Hdr) : (b.taken h).adc = b.adc := (Block.taken_keeps (Keeps.refl [.boot, .sets, .mrg, .dict] b) rfl).adc_eq rfl
@[simp] theorem Block.taken_acc (b : Block) (h : Hdr) : (b.taken h).acc = b.acc := (Block.taken_keeps (Keeps.refl [.boot, .sets, .mrg, .dict] b) rfl).acc_eq rfl
@[simp] theorem Block.taken_stk (b : Block) (h : Hdr) : (b.taken h).stk = b.stk := (Block.taken_keeps (Keeps.refl [.boot, .sets, .mrg, .dict] b) rfl).stk_eq rfl
@[simp] theorem Block.taken_queues (b : Block) (h : Hdr) : (b.taken h).queues = b.queues := (Block.taken_keeps (Keeps.refl [.boot, .sets, .mrg, .dict] b) rfl).queues_eq rfl
@[simp] theorem Block.taken_frm (b : Block) (h : Hdr) : (b.taken h).frm = b.frm := (Block.taken_keeps (Keeps.refl [.boot, .sets, .mrg, .dict] b) rfl).frm_eq rfl
@[simp] theorem Block.taken_cvus (b : Block) (h : Hdr) : (b.taken h).cvus = b.cvus := (Block.taken_keeps (Keeps.refl [.boot, .sets, .mrg, .dict] b) rfl).cvus_eq rfl
@[simp] theorem Block.taken_twin (b : Block) (h : Hdr) : (b.taken h).twin = b.twin := (Block.taken_keeps (Keeps.refl [.boot, .sets, .mrg, .dict] b) rfl).twin_eq rfl
@[simp] theorem Block.taken_flt (b : Block) (h : Hdr) : (b.taken h).flt = b.flt := (Block.taken_keeps (Keeps.refl [.boot, .sets, .mrg, .dict] b) rfl).flt_eq rfl
@[simp] theorem Block.taken_ev (b : Block) (h : Hdr) : (b.taken h).ev = b.ev := (Block.taken_keeps (Keeps.refl [.boot, .sets, .mrg, .dict] b) rfl).ev_eq rfl
@[simp] theorem Block.taken_sec (b : Block) (h : Hdr) : (b.taken h).sec = b.sec := (Block.taken_keeps (Keeps.refl [.boot, .sets, .mrg, .dict] b) rfl).sec_eq rfl
@[simp] theorem Block.taken_env (b : Block) (h : Hdr) : (b.taken h).env = b.env := (Block.taken_keeps (Keeps.refl [.boot, .sets, .mrg, .dict] b) rfl).env_eq rfl
@[simp] theorem Block.taken_jtag (b : Block) (h : Hdr) : (b.taken h).jtag = b.jtag := (Block.taken_keeps (Keeps.refl [.boot, .sets, .mrg, .dict] b) rfl).jtag_eq rfl
@[simp] theorem Block.taken_free (b : Block) (h : Hdr) : (b.taken h).free = b.free := (Block.taken_keeps (Keeps.refl [.boot, .sets, .mrg, .dict] b) rfl).free_eq rfl
@[simp] theorem Block.taken_regs (b : Block) (h : Hdr) : (b.taken h).dict.regs = b.dict.regs := (Block.taken_keeps (Keeps.refl [.boot, .sets, .mrg, .dict] b) rfl).regs_eq rfl

/-! ### pendWrite -/

@[simp] theorem Block.pendWrite_fuses (b : Block) (h : Hdr) (k v : Nat) : (b.pendWrite h k v).fuses = b.fuses := (Block.pendWrite_keeps (Keeps.refl [.dict] b) rfl).fuses_eq rfl
@[simp] theorem Block.pendWrite_flash (b : Block) (h : Hdr) (k v : Nat) : (b.pendWrite h k v).flash = b.flash := (Block.pendWrite_keeps (Keeps.refl [.dict] b) rfl).flash_eq rfl
@[simp] theorem Block.pendWrite_boot (b : Block) (h : Hdr) (k v : Nat) : (b.pendWrite h k v).boot = b.boot := (Block.pendWrite_keeps (Keeps.refl [.dict] b) rfl).boot_eq rfl rfl
@[simp] theorem Block.pendWrite_sets (b : Block) (h : Hdr) (k v : Nat) : (b.pendWrite h k v).sets = b.sets := (Block.pendWrite_keeps (Keeps.refl [.dict] b) rfl).sets_eq rfl
@[simp] theorem Block.pendWrite_time (b : Block) (h : Hdr) (k v : Nat) : (b.pendWrite h k v).time = b.time := (Block.pendWrite_keeps (Keeps.refl [.dict] b) rfl).time_eq rfl rfl
@[simp] theorem Block.pendWrite_chans (b : Block) (h : Hdr) (k v : Nat) : (b.pendWrite h k v).chans = b.chans := (Block.pendWrite_keeps (Keeps.refl [.dict] b) rfl).chans_eq rfl
@[simp] theorem Block.pendWrite_chMask (b : Block) (h : Hdr) (k v : Nat) : (b.pendWrite h k v).chMask = b.chMask := (Block.pendWrite_keeps (Keeps.refl [.dict] b) rfl).chMask_eq rfl
@[simp] theorem Block.pendWrite_chSince (b : Block) (h : Hdr) (k v : Nat) : (b.pendWrite h k v).chSince = b.chSince := (Block.pendWrite_keeps (Keeps.refl [.dict] b) rfl).chSince_eq rfl
@[simp] theorem Block.pendWrite_leads (b : Block) (h : Hdr) (k v : Nat) : (b.pendWrite h k v).leads = b.leads := (Block.pendWrite_keeps (Keeps.refl [.dict] b) rfl).leads_eq rfl
@[simp] theorem Block.pendWrite_plate (b : Block) (h : Hdr) (k v : Nat) : (b.pendWrite h k v).plate = b.plate := (Block.pendWrite_keeps (Keeps.refl [.dict] b) rfl).plate_eq rfl
@[simp] theorem Block.pendWrite_bin (b : Block) (h : Hdr) (k v : Nat) : (b.pendWrite h k v).bin = b.bin := (Block.pendWrite_keeps (Keeps.refl [.dict] b) rfl).bin_eq rfl
@[simp] theorem Block.pendWrite_iu (b : Block) (h : Hdr) (k v : Nat) : (b.pendWrite h k v).iu = b.iu := (Block.pendWrite_keeps (Keeps.refl [.dict] b) rfl).iu_eq rfl
@[simp] theorem Block.pendWrite_adc (b : Block) (h : Hdr) (k v : Nat) : (b.pendWrite h k v).adc = b.adc := (Block.pendWrite_keeps (Keeps.refl [.dict] b) rfl).adc_eq rfl
@[simp] theorem Block.pendWrite_acc (b : Block) (h : Hdr) (k v : Nat) : (b.pendWrite h k v).acc = b.acc := (Block.pendWrite_keeps (Keeps.refl [.dict] b) rfl).acc_eq rfl
@[simp] theorem Block.pendWrite_stk (b : Block) (h : Hdr) (k v : Nat) : (b.pendWrite h k v).stk = b.stk := (Block.pendWrite_keeps (Keeps.refl [.dict] b) rfl).stk_eq rfl
@[simp] theorem Block.pendWrite_queues (b : Block) (h : Hdr) (k v : Nat) : (b.pendWrite h k v).queues = b.queues := (Block.pendWrite_keeps (Keeps.refl [.dict] b) rfl).queues_eq rfl
@[simp] theorem Block.pendWrite_mrg (b : Block) (h : Hdr) (k v : Nat) : (b.pendWrite h k v).mrg = b.mrg := (Block.pendWrite_keeps (Keeps.refl [.dict] b) rfl).mrg_eq rfl
@[simp] theorem Block.pendWrite_frm (b : Block) (h : Hdr) (k v : Nat) : (b.pendWrite h k v).frm = b.frm := (Block.pendWrite_keeps (Keeps.refl [.dict] b) rfl).frm_eq rfl
@[simp] theorem Block.pendWrite_cvus (b : Block) (h : Hdr) (k v : Nat) : (b.pendWrite h k v).cvus = b.cvus := (Block.pendWrite_keeps (Keeps.refl [.dict] b) rfl).cvus_eq rfl
@[simp] theorem Block.pendWrite_twin (b : Block) (h : Hdr) (k v : Nat) : (b.pendWrite h k v).twin = b.twin := (Block.pendWrite_keeps (Keeps.refl [.dict] b) rfl).twin_eq rfl
@[simp] theorem Block.pendWrite_flt (b : Block) (h : Hdr) (k v : Nat) : (b.pendWrite h k v).flt = b.flt := (Block.pendWrite_keeps (Keeps.refl [.dict] b) rfl).flt_eq rfl
@[simp] theorem Block.pendWrite_ev (b : Block) (h : Hdr) (k v : Nat) : (b.pendWrite h k v).ev = b.ev := (Block.pendWrite_keeps (Keeps.refl [.dict] b) rfl).ev_eq rfl
@[simp] theorem Block.pendWrite_sec (b : Block) (h : Hdr) (k v : Nat) : (b.pendWrite h k v).sec = b.sec := (Block.pendWrite_keeps (Keeps.refl [.dict] b) rfl).sec_eq rfl
@[simp] theorem Block.pendWrite_env (b : Block) (h : Hdr) (k v : Nat) : (b.pendWrite h k v).env = b.env := (Block.pendWrite_keeps (Keeps.refl [.dict] b) rfl).env_eq rfl
@[simp] theorem Block.pendWrite_jtag (b : Block) (h : Hdr) (k v : Nat) : (b.pendWrite h k v).jtag = b.jtag := (Block.pendWrite_keeps (Keeps.refl [.dict] b) rfl).jtag_eq rfl
@[simp] theorem Block.pendWrite_free (b : Block) (h : Hdr) (k v : Nat) : (b.pendWrite h k v).free = b.free := (Block.pendWrite_keeps (Keeps.refl [.dict] b) rfl).free_eq rfl
@[simp] theorem Block.pendWrite_regs (b : Block) (h : Hdr) (k v : Nat) : (b.pendWrite h k v).dict.regs = b.dict.regs := (Block.pendWrite_keeps (Keeps.refl [.dict] b) rfl).regs_eq rfl

/-! ### The rest of the dictionary engine under an answer -/

@[simp] theorem Block.sendReply_sessions (b : Block) (r : Reply) : (b.sendReply r).dict.sessions = b.dict.sessions := by
  unfold Block.sendReply; dsimp only; split <;> split <;> simp
@[simp] theorem Block.reply_sessions (b : Block) (h : Hdr) (op idx sub arg : Nat) (body : List Byte) : (b.reply h op idx sub arg body).dict.sessions = b.dict.sessions := Block.sendReply_sessions ..
@[simp] theorem Block.landed_sessions (b : Block) (h : Hdr) (key : Nat) : (b.landed h key).dict.sessions = b.dict.sessions := by rw [Block.landed, Block.reply_sessions]; rfl
@[simp] theorem Block.ack_sessions (b : Block) (h : Hdr) (key : Nat) : (b.ack h key).dict.sessions = b.dict.sessions := by unfold Block.ack; split <;> simp
@[simp] theorem Block.abort_sessions (b : Block) (h : Hdr) (idx sub code : Nat) : (b.abort h idx sub code).dict.sessions = b.dict.sessions := by unfold Block.abort; split <;> simp [Block.landingOver]
@[simp] theorem Block.refuseKey_sessions (b : Block) (h : Hdr) (key code : Nat) : (b.refuseKey h key code).dict.sessions = b.dict.sessions := Block.abort_sessions ..
@[simp] theorem Block.sendReply_fails (b : Block) (r : Reply) : (b.sendReply r).dict.fails = b.dict.fails := by
  unfold Block.sendReply; dsimp only; split <;> split <;> simp
@[simp] theorem Block.reply_fails (b : Block) (h : Hdr) (op idx sub arg : Nat) (body : List Byte) : (b.reply h op idx sub arg body).dict.fails = b.dict.fails := Block.sendReply_fails ..
@[simp] theorem Block.landed_fails (b : Block) (h : Hdr) (key : Nat) : (b.landed h key).dict.fails = b.dict.fails := by rw [Block.landed, Block.reply_fails]; rfl
@[simp] theorem Block.ack_fails (b : Block) (h : Hdr) (key : Nat) : (b.ack h key).dict.fails = b.dict.fails := by unfold Block.ack; split <;> simp
@[simp] theorem Block.abort_fails (b : Block) (h : Hdr) (idx sub code : Nat) : (b.abort h idx sub code).dict.fails = b.dict.fails := by unfold Block.abort; split <;> simp [Block.landingOver]
@[simp] theorem Block.refuseKey_fails (b : Block) (h : Hdr) (key code : Nat) : (b.refuseKey h key code).dict.fails = b.dict.fails := Block.abort_fails ..
@[simp] theorem Block.sendReply_lockout (b : Block) (r : Reply) : (b.sendReply r).dict.lockout = b.dict.lockout := by
  unfold Block.sendReply; dsimp only; split <;> split <;> simp
@[simp] theorem Block.reply_lockout (b : Block) (h : Hdr) (op idx sub arg : Nat) (body : List Byte) : (b.reply h op idx sub arg body).dict.lockout = b.dict.lockout := Block.sendReply_lockout ..
@[simp] theorem Block.landed_lockout (b : Block) (h : Hdr) (key : Nat) : (b.landed h key).dict.lockout = b.dict.lockout := by rw [Block.landed, Block.reply_lockout]; rfl
@[simp] theorem Block.ack_lockout (b : Block) (h : Hdr) (key : Nat) : (b.ack h key).dict.lockout = b.dict.lockout := by unfold Block.ack; split <;> simp
@[simp] theorem Block.abort_lockout (b : Block) (h : Hdr) (idx sub code : Nat) : (b.abort h idx sub code).dict.lockout = b.dict.lockout := by unfold Block.abort; split <;> simp [Block.landingOver]
@[simp] theorem Block.refuseKey_lockout (b : Block) (h : Hdr) (key code : Nat) : (b.refuseKey h key code).dict.lockout = b.dict.lockout := Block.abort_lockout ..
@[simp] theorem Block.sendReply_challenge (b : Block) (r : Reply) : (b.sendReply r).dict.challenge = b.dict.challenge := by
  unfold Block.sendReply; dsimp only; split <;> split <;> simp
@[simp] theorem Block.reply_challenge (b : Block) (h : Hdr) (op idx sub arg : Nat) (body : List Byte) : (b.reply h op idx sub arg body).dict.challenge = b.dict.challenge := Block.sendReply_challenge ..
@[simp] theorem Block.landed_challenge (b : Block) (h : Hdr) (key : Nat) : (b.landed h key).dict.challenge = b.dict.challenge := by rw [Block.landed, Block.reply_challenge]; rfl
@[simp] theorem Block.ack_challenge (b : Block) (h : Hdr) (key : Nat) : (b.ack h key).dict.challenge = b.dict.challenge := by unfold Block.ack; split <;> simp
@[simp] theorem Block.abort_challenge (b : Block) (h : Hdr) (idx sub code : Nat) : (b.abort h idx sub code).dict.challenge = b.dict.challenge := by unfold Block.abort; split <;> simp [Block.landingOver]
@[simp] theorem Block.refuseKey_challenge (b : Block) (h : Hdr) (key code : Nat) : (b.refuseKey h key code).dict.challenge = b.dict.challenge := Block.abort_challenge ..
@[simp] theorem Block.sendReply_transfers (b : Block) (r : Reply) : (b.sendReply r).dict.transfers = b.dict.transfers := by
  unfold Block.sendReply; dsimp only; split <;> split <;> simp
@[simp] theorem Block.reply_transfers (b : Block) (h : Hdr) (op idx sub arg : Nat) (body : List Byte) : (b.reply h op idx sub arg body).dict.transfers = b.dict.transfers := Block.sendReply_transfers ..
@[simp] theorem Block.landed_transfers (b : Block) (h : Hdr) (key : Nat) : (b.landed h key).dict.transfers = b.dict.transfers := by rw [Block.landed, Block.reply_transfers]; rfl
@[simp] theorem Block.ack_transfers (b : Block) (h : Hdr) (key : Nat) : (b.ack h key).dict.transfers = b.dict.transfers := by unfold Block.ack; split <;> simp
@[simp] theorem Block.abort_transfers (b : Block) (h : Hdr) (idx sub code : Nat) : (b.abort h idx sub code).dict.transfers = b.dict.transfers := by unfold Block.abort; split <;> simp [Block.landingOver]
@[simp] theorem Block.refuseKey_transfers (b : Block) (h : Hdr) (key code : Nat) : (b.refuseKey h key code).dict.transfers = b.dict.transfers := Block.abort_transfers ..
@[simp] theorem Block.sendReply_pend (b : Block) (r : Reply) : (b.sendReply r).dict.pend = b.dict.pend := by
  unfold Block.sendReply; dsimp only; split <;> split <;> simp
@[simp] theorem Block.reply_pend (b : Block) (h : Hdr) (op idx sub arg : Nat) (body : List Byte) : (b.reply h op idx sub arg body).dict.pend = b.dict.pend := Block.sendReply_pend ..
@[simp] theorem Block.landed_pend (b : Block) (h : Hdr) (key : Nat) : (b.landed h key).dict.pend = b.dict.pend := by rw [Block.landed, Block.reply_pend]; rfl
@[simp] theorem Block.ack_pend (b : Block) (h : Hdr) (key : Nat) : (b.ack h key).dict.pend = b.dict.pend := by unfold Block.ack; split <;> simp
@[simp] theorem Block.abort_pend (b : Block) (h : Hdr) (idx sub code : Nat) : (b.abort h idx sub code).dict.pend = b.dict.pend := by unfold Block.abort; split <;> simp [Block.landingOver]
@[simp] theorem Block.refuseKey_pend (b : Block) (h : Hdr) (key code : Nat) : (b.refuseKey h key code).dict.pend = b.dict.pend := Block.abort_pend ..
@[simp] theorem Block.sendReply_pairs (b : Block) (r : Reply) : (b.sendReply r).dict.pairs = b.dict.pairs := by
  unfold Block.sendReply; dsimp only; split <;> split <;> simp
@[simp] theorem Block.reply_pairs (b : Block) (h : Hdr) (op idx sub arg : Nat) (body : List Byte) : (b.reply h op idx sub arg body).dict.pairs = b.dict.pairs := Block.sendReply_pairs ..
@[simp] theorem Block.landed_pairs (b : Block) (h : Hdr) (key : Nat) : (b.landed h key).dict.pairs = b.dict.pairs := by rw [Block.landed, Block.reply_pairs]; rfl
@[simp] theorem Block.ack_pairs (b : Block) (h : Hdr) (key : Nat) : (b.ack h key).dict.pairs = b.dict.pairs := by unfold Block.ack; split <;> simp
@[simp] theorem Block.abort_pairs (b : Block) (h : Hdr) (idx sub code : Nat) : (b.abort h idx sub code).dict.pairs = b.dict.pairs := by unfold Block.abort; split <;> simp [Block.landingOver]
@[simp] theorem Block.refuseKey_pairs (b : Block) (h : Hdr) (key code : Nat) : (b.refuseKey h key code).dict.pairs = b.dict.pairs := Block.abort_pairs ..
@[simp] theorem Block.sendReply_canA (b : Block) (r : Reply) : (b.sendReply r).dict.canA = b.dict.canA := by
  unfold Block.sendReply; dsimp only; split <;> split <;> simp
@[simp] theorem Block.reply_canA (b : Block) (h : Hdr) (op idx sub arg : Nat) (body : List Byte) : (b.reply h op idx sub arg body).dict.canA = b.dict.canA := Block.sendReply_canA ..
@[simp] theorem Block.landed_canA (b : Block) (h : Hdr) (key : Nat) : (b.landed h key).dict.canA = b.dict.canA := by rw [Block.landed, Block.reply_canA]; rfl
@[simp] theorem Block.ack_canA (b : Block) (h : Hdr) (key : Nat) : (b.ack h key).dict.canA = b.dict.canA := by unfold Block.ack; split <;> simp
@[simp] theorem Block.abort_canA (b : Block) (h : Hdr) (idx sub code : Nat) : (b.abort h idx sub code).dict.canA = b.dict.canA := by unfold Block.abort; split <;> simp [Block.landingOver]
@[simp] theorem Block.refuseKey_canA (b : Block) (h : Hdr) (key code : Nat) : (b.refuseKey h key code).dict.canA = b.dict.canA := Block.abort_canA ..
@[simp] theorem Block.sendReply_canB (b : Block) (r : Reply) : (b.sendReply r).dict.canB = b.dict.canB := by
  unfold Block.sendReply; dsimp only; split <;> split <;> simp
@[simp] theorem Block.reply_canB (b : Block) (h : Hdr) (op idx sub arg : Nat) (body : List Byte) : (b.reply h op idx sub arg body).dict.canB = b.dict.canB := Block.sendReply_canB ..
@[simp] theorem Block.landed_canB (b : Block) (h : Hdr) (key : Nat) : (b.landed h key).dict.canB = b.dict.canB := by rw [Block.landed, Block.reply_canB]; rfl
@[simp] theorem Block.ack_canB (b : Block) (h : Hdr) (key : Nat) : (b.ack h key).dict.canB = b.dict.canB := by unfold Block.ack; split <;> simp
@[simp] theorem Block.abort_canB (b : Block) (h : Hdr) (idx sub code : Nat) : (b.abort h idx sub code).dict.canB = b.dict.canB := by unfold Block.abort; split <;> simp [Block.landingOver]
@[simp] theorem Block.refuseKey_canB (b : Block) (h : Hdr) (key code : Nat) : (b.refuseKey h key code).dict.canB = b.dict.canB := Block.abort_canB ..
@[simp] theorem Block.sendReply_sent (b : Block) (r : Reply) : (b.sendReply r).dict.sent = b.dict.sent := by
  unfold Block.sendReply; dsimp only; split <;> split <;> simp
@[simp] theorem Block.reply_sent (b : Block) (h : Hdr) (op idx sub arg : Nat) (body : List Byte) : (b.reply h op idx sub arg body).dict.sent = b.dict.sent := Block.sendReply_sent ..
@[simp] theorem Block.landed_sent (b : Block) (h : Hdr) (key : Nat) : (b.landed h key).dict.sent = b.dict.sent := by rw [Block.landed, Block.reply_sent]; rfl
@[simp] theorem Block.ack_sent (b : Block) (h : Hdr) (key : Nat) : (b.ack h key).dict.sent = b.dict.sent := by unfold Block.ack; split <;> simp
@[simp] theorem Block.abort_sent (b : Block) (h : Hdr) (idx sub code : Nat) : (b.abort h idx sub code).dict.sent = b.dict.sent := by unfold Block.abort; split <;> simp [Block.landingOver]
@[simp] theorem Block.refuseKey_sent (b : Block) (h : Hdr) (key code : Nat) : (b.refuseKey h key code).dict.sent = b.dict.sent := Block.abort_sent ..
@[simp] theorem Block.sendReply_canOut (b : Block) (r : Reply) : (b.sendReply r).dict.canOut = b.dict.canOut := by
  unfold Block.sendReply; dsimp only; split <;> split <;> simp
@[simp] theorem Block.reply_canOut (b : Block) (h : Hdr) (op idx sub arg : Nat) (body : List Byte) : (b.reply h op idx sub arg body).dict.canOut = b.dict.canOut := Block.sendReply_canOut ..
@[simp] theorem Block.landed_canOut (b : Block) (h : Hdr) (key : Nat) : (b.landed h key).dict.canOut = b.dict.canOut := by rw [Block.landed, Block.reply_canOut]; rfl
@[simp] theorem Block.ack_canOut (b : Block) (h : Hdr) (key : Nat) : (b.ack h key).dict.canOut = b.dict.canOut := by unfold Block.ack; split <;> simp
@[simp] theorem Block.abort_canOut (b : Block) (h : Hdr) (idx sub code : Nat) : (b.abort h idx sub code).dict.canOut = b.dict.canOut := by unfold Block.abort; split <;> simp [Block.landingOver]
@[simp] theorem Block.refuseKey_canOut (b : Block) (h : Hdr) (key code : Nat) : (b.refuseKey h key code).dict.canOut = b.dict.canOut := Block.abort_canOut ..
@[simp] theorem Block.sendReply_proxyTag (b : Block) (r : Reply) : (b.sendReply r).dict.proxyTag = b.dict.proxyTag := by
  unfold Block.sendReply; dsimp only; split <;> split <;> simp
@[simp] theorem Block.reply_proxyTag (b : Block) (h : Hdr) (op idx sub arg : Nat) (body : List Byte) : (b.reply h op idx sub arg body).dict.proxyTag = b.dict.proxyTag := Block.sendReply_proxyTag ..
@[simp] theorem Block.landed_proxyTag (b : Block) (h : Hdr) (key : Nat) : (b.landed h key).dict.proxyTag = b.dict.proxyTag := by rw [Block.landed, Block.reply_proxyTag]; rfl
@[simp] theorem Block.ack_proxyTag (b : Block) (h : Hdr) (key : Nat) : (b.ack h key).dict.proxyTag = b.dict.proxyTag := by unfold Block.ack; split <;> simp
@[simp] theorem Block.abort_proxyTag (b : Block) (h : Hdr) (idx sub code : Nat) : (b.abort h idx sub code).dict.proxyTag = b.dict.proxyTag := by unfold Block.abort; split <;> simp [Block.landingOver]
@[simp] theorem Block.refuseKey_proxyTag (b : Block) (h : Hdr) (key code : Nat) : (b.refuseKey h key code).dict.proxyTag = b.dict.proxyTag := Block.abort_proxyTag ..
@[simp] theorem Block.sendReply_bulkIn (b : Block) (r : Reply) : (b.sendReply r).dict.bulkIn = b.dict.bulkIn := by
  unfold Block.sendReply; dsimp only; split <;> split <;> simp
@[simp] theorem Block.reply_bulkIn (b : Block) (h : Hdr) (op idx sub arg : Nat) (body : List Byte) : (b.reply h op idx sub arg body).dict.bulkIn = b.dict.bulkIn := Block.sendReply_bulkIn ..
@[simp] theorem Block.landed_bulkIn (b : Block) (h : Hdr) (key : Nat) : (b.landed h key).dict.bulkIn = b.dict.bulkIn := by rw [Block.landed, Block.reply_bulkIn]; rfl
@[simp] theorem Block.ack_bulkIn (b : Block) (h : Hdr) (key : Nat) : (b.ack h key).dict.bulkIn = b.dict.bulkIn := by unfold Block.ack; split <;> simp
@[simp] theorem Block.abort_bulkIn (b : Block) (h : Hdr) (idx sub code : Nat) : (b.abort h idx sub code).dict.bulkIn = b.dict.bulkIn := by unfold Block.abort; split <;> simp [Block.landingOver]
@[simp] theorem Block.refuseKey_bulkIn (b : Block) (h : Hdr) (key code : Nat) : (b.refuseKey h key code).dict.bulkIn = b.dict.bulkIn := Block.abort_bulkIn ..
@[simp] theorem Block.sendReply_keeping (b : Block) (r : Reply) : (b.sendReply r).dict.keeping = b.dict.keeping := by
  unfold Block.sendReply; dsimp only; split <;> split <;> simp
@[simp] theorem Block.reply_keeping (b : Block) (h : Hdr) (op idx sub arg : Nat) (body : List Byte) : (b.reply h op idx sub arg body).dict.keeping = b.dict.keeping := Block.sendReply_keeping ..
@[simp] theorem Block.landed_keeping (b : Block) (h : Hdr) (key : Nat) : (b.landed h key).dict.keeping = b.dict.keeping := by rw [Block.landed, Block.reply_keeping]; rfl
@[simp] theorem Block.ack_keeping (b : Block) (h : Hdr) (key : Nat) : (b.ack h key).dict.keeping = b.dict.keeping := by unfold Block.ack; split <;> simp
@[simp] theorem Block.abort_keeping (b : Block) (h : Hdr) (idx sub code : Nat) : (b.abort h idx sub code).dict.keeping = b.dict.keeping := by unfold Block.abort; split <;> simp [Block.landingOver]
@[simp] theorem Block.refuseKey_keeping (b : Block) (h : Hdr) (key code : Nat) : (b.refuseKey h key code).dict.keeping = b.dict.keeping := Block.abort_keeping ..
@[simp] theorem Block.sendReply_mute (b : Block) (r : Reply) : (b.sendReply r).dict.mute = b.dict.mute := by
  unfold Block.sendReply; dsimp only; split <;> split <;> simp
@[simp] theorem Block.reply_mute (b : Block) (h : Hdr) (op idx sub arg : Nat) (body : List Byte) : (b.reply h op idx sub arg body).dict.mute = b.dict.mute := Block.sendReply_mute ..
@[simp] theorem Block.landed_mute (b : Block) (h : Hdr) (key : Nat) : (b.landed h key).dict.mute = b.dict.mute := by rw [Block.landed, Block.reply_mute]; rfl
@[simp] theorem Block.ack_mute (b : Block) (h : Hdr) (key : Nat) : (b.ack h key).dict.mute = b.dict.mute := by unfold Block.ack; split <;> simp
@[simp] theorem Block.abort_mute (b : Block) (h : Hdr) (idx sub code : Nat) : (b.abort h idx sub code).dict.mute = b.dict.mute := by unfold Block.abort; split <;> simp [Block.landingOver]
@[simp] theorem Block.refuseKey_mute (b : Block) (h : Hdr) (key code : Nat) : (b.refuseKey h key code).dict.mute = b.dict.mute := Block.abort_mute ..
@[simp] theorem Block.sendReply_swaps (b : Block) (r : Reply) : (b.sendReply r).dict.swaps = b.dict.swaps := by
  unfold Block.sendReply; dsimp only; split <;> split <;> simp
@[simp] theorem Block.reply_swaps (b : Block) (h : Hdr) (op idx sub arg : Nat) (body : List Byte) : (b.reply h op idx sub arg body).dict.swaps = b.dict.swaps := Block.sendReply_swaps ..
@[simp] theorem Block.landed_swaps (b : Block) (h : Hdr) (key : Nat) : (b.landed h key).dict.swaps = b.dict.swaps := by rw [Block.landed, Block.reply_swaps]; rfl
@[simp] theorem Block.ack_swaps (b : Block) (h : Hdr) (key : Nat) : (b.ack h key).dict.swaps = b.dict.swaps := by unfold Block.ack; split <;> simp
@[simp] theorem Block.abort_swaps (b : Block) (h : Hdr) (idx sub code : Nat) : (b.abort h idx sub code).dict.swaps = b.dict.swaps := by unfold Block.abort; split <;> simp [Block.landingOver]
@[simp] theorem Block.refuseKey_swaps (b : Block) (h : Hdr) (key code : Nat) : (b.refuseKey h key code).dict.swaps = b.dict.swaps := Block.abort_swaps ..
@[simp] theorem Block.sendReply_landings (b : Block) (r : Reply) : (b.sendReply r).dict.landings = b.dict.landings := by
  unfold Block.sendReply; dsimp only; split <;> split <;> simp
@[simp] theorem Block.reply_landings (b : Block) (h : Hdr) (op idx sub arg : Nat) (body : List Byte) : (b.reply h op idx sub arg body).dict.landings = b.dict.landings := Block.sendReply_landings ..

end Sys2Proof.Machine
end

