-- ==== Sys2Proof/Laws/Ops.lean ====
section
/-! SUPPORT. What the shared operations do: sparse tables, entries, event sources, answers. -/

namespace Sys2Proof.Machine

/-! ### Sparse tables -/

variable {α : Type}

@[simp] theorem tabFind_tabSet_same (t : Tab α) (n : Nat) (v : α) : tabFind (tabSet t n v) n = some v := by
  induction t with
  | nil => simp [tabSet, tabFind]
  | cons p t ih =>
    obtain ⟨k, w⟩ := p
    simp only [tabSet]
    split
    · simp [tabFind]
    · split
      · simp [tabFind]
      · rename_i h1 h2
        simp only [tabFind, ih, ite_eq_right_iff]
        exact fun e => absurd e.symm h2

theorem tabFind_tabSet_ne (t : Tab α) {n m : Nat} (v : α) (h : m ≠ n) : tabFind (tabSet t n v) m = tabFind t m := by
  induction t with
  | nil => simp [tabSet, tabFind, Ne.symm h]
  | cons p t ih =>
    obtain ⟨k, w⟩ := p
    simp only [tabSet]
    split
    · simp [tabFind, Ne.symm h]
    · split
      · rename_i h1 h2
        subst h2
        simp [tabFind, Ne.symm h]
      · simp only [tabFind, ih]

@[simp] theorem tabGet_tabSet_same (d : α) (t : Tab α) (n : Nat) (v : α) : tabGet d (tabSet t n v) n = v := by simp [tabGet]

theorem tabGet_tabSet_ne (d : α) (t : Tab α) {n m : Nat} (v : α) (h : m ≠ n) : tabGet d (tabSet t n v) m = tabGet d t m := by
  simp [tabGet, tabFind_tabSet_ne t v h]

@[simp] theorem tabGet_tabMod_same (d : α) (t : Tab α) (n : Nat) (f : α → α) : tabGet d (tabMod d t n f) n = f (tabGet d t n) := by
  simp [tabMod]

theorem tabGet_tabMod_ne (d : α) (t : Tab α) {n m : Nat} (f : α → α) (h : m ≠ n) : tabGet d (tabMod d t n f) m = tabGet d t m :=
  tabGet_tabSet_ne d t _ h

theorem tabFind_tabDel_same (t : Tab α) (n : Nat) : tabFind (tabDel t n) n = none := by
  induction t with
  | nil => rfl
  | cons p t ih =>
    obtain ⟨k, w⟩ := p
    simp only [tabDel, List.filter_cons] at *
    by_cases h : k = n
    · simp [h, ih]
    · simp [h, tabFind, ih]

theorem tabFind_tabDel_ne (t : Tab α) {n m : Nat} (h : m ≠ n) : tabFind (tabDel t n) m = tabFind t m := by
  induction t with
  | nil => rfl
  | cons p t ih =>
    obtain ⟨k, w⟩ := p
    simp only [tabDel, List.filter_cons] at *
    by_cases h1 : k = n
    · subst h1; simp [tabFind, Ne.symm h, ih]
    · simp [h1, tabFind, ih]

/-- The keys of a table that a write has touched: the keys before and the key written. -/
theorem mem_tabSet {t : Tab α} {n : Nat} {v : α} {p : Nat × α} (h : p ∈ tabSet t n v) : p ∈ t ∨ p = (n, v) := by
  induction t with
  | nil => simpa [tabSet] using h
  | cons q t ih =>
    obtain ⟨k, w⟩ := q
    simp only [tabSet] at h
    split at h
    · simp only [List.mem_cons] at h ⊢; tauto
    · split at h
      · simp only [List.mem_cons] at h ⊢; tauto
      · simp only [List.mem_cons] at h ⊢
        rcases h with h | h
        · exact .inl (.inl h)
        · rcases ih h with h | h
          · exact .inl (.inr h)
          · exact .inr h

/-- The keys of a table rise. -/
theorem tabWf_iff (t : Tab α) : tabWf t = true ↔ t.Pairwise fun p q => p.1 < q.1 := by
  match t with
  | [] => simp [tabWf]
  | [_] => simp [tabWf]
  | p :: q :: t =>
    rw [tabWf, Bool.and_eq_true, decide_eq_true_iff, tabWf_iff (q :: t), List.pairwise_cons (a := p) (l := q :: t)]
    constructor
    · rintro ⟨h, k⟩
      refine ⟨fun x hx => ?_, k⟩
      rcases List.mem_cons.mp hx with rfl | hx
      · exact h
      · exact h.trans ((List.pairwise_cons.mp k).1 x hx)
    · rintro ⟨h, k⟩
      exact ⟨h q (by simp), k⟩

/-- A write keeps the canonical form. -/
theorem tabWf_tabSet {t : Tab α} (h : tabWf t = true) (n : Nat) (v : α) : tabWf (tabSet t n v) = true := by
  rw [tabWf_iff] at *
  induction t with
  | nil => simp [tabSet]
  | cons p t ih =>
    obtain ⟨k, w⟩ := p
    have hk := List.pairwise_cons.mp h
    simp only [tabSet]
    split
    · rename_i hlt
      refine List.pairwise_cons.mpr ⟨fun x hx => ?_, h⟩
      rcases List.mem_cons.mp hx with rfl | hx
      · exact hlt
      · exact Nat.lt_trans hlt (hk.1 x hx)
    · split
      · rename_i h1 h2
        subst h2
        exact List.pairwise_cons.mpr ⟨hk.1, hk.2⟩
      · rename_i h1 h2
        refine List.pairwise_cons.mpr ⟨fun x hx => ?_, ih hk.2⟩
        rcases mem_tabSet hx with hx | rfl
        · exact hk.1 x hx
        · show k < n
          omega

theorem tabWf_tabMod {d : α} {t : Tab α} (h : tabWf t = true) (n : Nat) (f : α → α) : tabWf (tabMod d t n f) = true := tabWf_tabSet h _ _

theorem tabWf_tabDel {t : Tab α} (h : tabWf t = true) (n : Nat) : tabWf (tabDel t n) = true := by
  rw [tabWf_iff] at *
  exact h.filter _

/-! ### Channels, lanes, ports, uplinks, queues -/

@[simp] theorem Block.chan_onChan_same (b : Block) (c : Nat) (f : Chan → Chan) : (b.onChan c f).chan c = f (b.chan c) := by
  simp [Block.onChan, Block.chan]

theorem Block.chan_onChan_ne (b : Block) {c d : Nat} (f : Chan → Chan) (h : d ≠ c) : (b.onChan c f).chan d = b.chan d := by
  simp [Block.onChan, Block.chan, tabGet_tabMod_ne _ _ _ h]

@[simp] theorem Block.lane_onLane_same (b : Block) (l : Nat) (f : LaneSt → LaneSt) : (b.onLane l f).lane l = f (b.lane l) := by
  simp [Block.onLane, Block.lane]

theorem Block.lane_onLane_ne (b : Block) {l m : Nat} (f : LaneSt → LaneSt) (h : m ≠ l) : (b.onLane l f).lane m = b.lane m := by
  simp [Block.onLane, Block.lane, tabGet_tabMod_ne _ _ _ h]

@[simp] theorem Block.port_onPort_same (b : Block) (p : Nat) (f : PortSt → PortSt) : (b.onPort p f).port p = f (b.port p) := by
  simp [Block.onPort, Block.port]

theorem Block.port_onPort_ne (b : Block) {p q : Nat} (f : PortSt → PortSt) (h : q ≠ p) : (b.onPort p f).port q = b.port q := by
  simp [Block.onPort, Block.port, tabGet_tabMod_ne _ _ _ h]

@[simp] theorem Block.queue_onQueue_same (b : Block) (q : Nat) (f : Queue → Queue) : (b.onQueue q f).queue q = f (b.queue q) := by
  simp [Block.onQueue, Block.queue]

theorem Block.queue_onQueue_ne (b : Block) {q r : Nat} (f : Queue → Queue) (h : r ≠ q) : (b.onQueue q f).queue r = b.queue r := by
  simp [Block.onQueue, Block.queue, tabGet_tabMod_ne _ _ _ h]

/-! ### Entries -/

/-- What an entry reads depends on the entries written and, for its default, on the set in force, the fuses and the straps. -/
theorem Block.reg_congr {a b : Block} (key : Nat) (h1 : tabFind b.dict.regs key = tabFind a.dict.regs key) (h2 : b.fuses = a.fuses)
    (h3 : b.boot.roleC = a.boot.roleC) (h4 : b.boot.unitB = a.boot.unitB) (h5 : b.active = a.active) : b.reg key = a.reg key := by
  unfold Block.reg
  rw [h1]
  split
  · rfl
  · simp only [Block.defaultOf, Block.profileM, Block.cRole, h2, h3, h4, h5]
    rfl

@[simp] theorem Block.reg_setReg_same (b : Block) (key v : Nat) : (b.setReg key v).reg key = v := by
  simp [Block.setReg, Block.reg]

theorem Block.reg_setReg_ne (b : Block) {key k : Nat} (v : Nat) (h : k ≠ key) : (b.setReg key v).reg k = b.reg k :=
  Block.reg_congr k (by simp [Block.setReg, tabFind_tabSet_ne _ _ h]) rfl rfl rfl rfl

@[simp] theorem Block.reg_bump_same (b : Block) (key n : Nat) : (b.bump key n).reg key = b.reg key + n := by
  unfold Block.bump; split <;> simp [*]

theorem Block.reg_bump_ne (b : Block) {key k : Nat} (n : Nat) (h : k ≠ key) : (b.bump key n).reg k = b.reg k := by
  unfold Block.bump; split
  · rfl
  · exact Block.reg_setReg_ne b _ h

@[simp] theorem Block.reg_bumpSat_same (b : Block) (key w n : Nat) : (b.bumpSat key w n).reg key = satN w (b.reg key + n) := by
  simp [Block.bumpSat]

theorem Block.reg_bumpSat_ne (b : Block) {key k : Nat} (w n : Nat) (h : k ≠ key) : (b.bumpSat key w n).reg k = b.reg k :=
  Block.reg_setReg_ne b _ h

/-! ### Event sources (R425) -/

theorem Block.reg_onEv (b : Block) (f : Events → Events) (k : Nat) : (b.onEv f).reg k = b.reg k := rfl

/-- A mark touches no entry below the event tables. -/
theorem Block.reg_mark_low (b : Block) (n d : Nat) {k : Nat} (h : k < 0x780000) : (b.mark n d).reg k = b.reg k := by
  unfold Block.mark
  dsimp only
  rw [Block.reg_setReg_ne _ _ (by unfold sourceKey; omega), Block.reg_setReg_ne _ _ (by unfold latchKey; omega),
    Block.reg_bumpSat_ne _ _ _ (by unfold sourceKey; omega)]

theorem Block.reg_record (b : Block) (m : Word64) (k : Nat) : (b.record m).reg k = b.reg k := rfl

theorem Block.reg_sendOn (b : Block) (p q : Nat) (m : Word64) (k : Nat) : (b.sendOn p q m).1.reg k = b.reg k := by
  unfold Block.sendOn
  dsimp only
  split
  · rfl
  · split <;> rfl

theorem Block.reg_send (b : Block) (l : List Nat) (q : Nat) (m : Word64) {k : Nat} (h : k ≠ 0x780006) : (b.send l q m).1.reg k = b.reg k := by
  unfold Block.send
  have step : ∀ (l : List Nat) (r : Block × List Nat), r.1.reg k = b.reg k →
      (l.foldl (fun r p => let s := r.1.sendOn p q m; if s.2 then (s.1.bump 0x780006 1, r.2 ++ [p]) else (s.1, r.2)) r).1.reg k = b.reg k := by
    intro l
    induction l with
    | nil => intro r hr; exact hr
    | cons p t ih =>
      intro r hr
      apply ih
      dsimp only
      split
      · rw [Block.reg_bump_ne _ _ h, Block.reg_sendOn, hr]
      · rw [Block.reg_sendOn, hr]
  exact step _ _ rfl

/-- What an event source leaves of an entry follows from what its marks and its dropped messages leave. -/
theorem Block.raise_ind {P : Block → Prop} (b : Block) (n : Nat) (l : List Fld) (hm : ∀ d, P (b.mark n d))
    (hmark : ∀ x d, P x → P (x.mark 0xDE d)) (hrec : ∀ x m, P x → P (x.record m)) (hsend : ∀ x l q m, P x → P (x.send l q m).1) : P (b.raise n l) := by
  unfold Block.raise Block.overflowed
  dsimp only
  split
  · exact hm _
  · have step : ∀ (k : List Nat) (x : Block), P x → P (k.foldl (fun b p =>
        let det := detail [.id 8 p, .id 8 n]
        let b := b.mark 0xDE det
        if b.masked 0xDE then b else let m := b.message 0xDE det; ((b.record m).send b.eventPaths 0 m).1) x) := by
      intro k
      induction k with
      | nil => intro x hx; exact hx
      | cons p t ih =>
        intro x hx
        apply ih
        dsimp only
        split
        · exact hmark _ _ hx
        · exact hsend _ _ _ _ (hrec _ _ (hmark _ _ hx))
    exact step _ _ (hsend _ _ _ _ (hrec _ _ (hm _)))

/-- Raising a source touches no entry below the event tables. -/
theorem Block.reg_raise_low (b : Block) (n : Nat) (l : List Fld) {k : Nat} (h : k < 0x780000) : (b.raise n l).reg k = b.reg k := by
  apply Block.raise_ind (P := fun x => x.reg k = b.reg k)
  · intro d; exact Block.reg_mark_low _ _ _ h
  · intro x d hx; rw [Block.reg_mark_low _ _ _ h, hx]
  · intro x m hx; rw [Block.reg_record, hx]
  · intro x l q m hx; rw [Block.reg_send _ _ _ _ (by omega), hx]

theorem Block.reg_raiseOnce_low (b : Block) (n k : Nat) (l : List Fld) {key : Nat} (h : key < 0x780000) :
    (b.raiseOnce n k l).reg key = b.reg key := by
  unfold Block.raiseOnce
  split
  · exact Block.reg_mark_low _ _ _ h
  · rw [Block.reg_raise_low _ _ _ h, Block.reg_onEv]

theorem testBit_or_pow (a n m : Nat) : (a ||| 2 ^ n).testBit m = (a.testBit m || decide (n = m)) := by
  rw [Nat.testBit_or, Nat.testBit_two_pow]

theorem latch_lt (n : Nat) (h : n < 256) : latchKey n < 0x780109 := by unfold latchKey; omega

/-- A mark latches its source. -/
theorem Block.latched_mark_self (b : Block) {n : Nat} (hn : n < 256) (d : Nat) : (b.mark n d).latched n = true := by
  unfold Block.mark Block.latched
  dsimp only
  have hl := latch_lt n hn
  rw [Block.reg_setReg_ne _ _ (by unfold sourceKey; omega), Block.reg_setReg_same, testBit_or_pow]
  simp

/-- A mark keeps every latch that is set. -/
theorem Block.latched_mark (b : Block) {n : Nat} (m d : Nat) (hn : n < 256) (h : b.latched n = true) : (b.mark m d).latched n = true := by
  unfold Block.mark Block.latched at *
  dsimp only
  have hl := latch_lt n hn
  rw [Block.reg_setReg_ne _ _ (by unfold sourceKey; omega)]
  by_cases e : latchKey n = latchKey m
  · rw [e, Block.reg_setReg_same, testBit_or_pow, Block.reg_bumpSat_ne _ _ _ (by unfold sourceKey; omega), ← e, h]
    rfl
  · rw [Block.reg_setReg_ne _ _ e, Block.reg_bumpSat_ne _ _ _ (by unfold sourceKey; omega), h]

theorem Block.latched_record (b : Block) (n : Nat) (m : Word64) : (b.record m).latched n = b.latched n := rfl

theorem Block.latched_send (b : Block) (n : Nat) (l : List Nat) (q : Nat) (m : Word64) : (b.send l q m).1.latched n = b.latched n := by
  unfold Block.latched
  rw [Block.reg_send _ _ _ _ (by unfold latchKey; omega)]

/-- Raising a source latches it. -/
theorem Block.latched_raise_self (b : Block) {n : Nat} (hn : n < 256) (l : List Fld) : (b.raise n l).latched n = true := by
  apply Block.raise_ind (P := fun x => x.latched n = true)
  · intro d; exact Block.latched_mark_self b hn d
  · intro x d hx; exact Block.latched_mark x _ _ hn hx
  · intro x m hx; rw [Block.latched_record, hx]
  · intro x l q m hx; rw [Block.latched_send, hx]

/-- Raising a source keeps every latch. -/
theorem Block.latched_raise (b : Block) {n : Nat} (m : Nat) (l : List Fld) (hn : n < 256) (h : b.latched n = true) :
    (b.raise m l).latched n = true := by
  apply Block.raise_ind (P := fun x => x.latched n = true)
  · intro d; exact Block.latched_mark b _ _ hn h
  · intro x d hx; exact Block.latched_mark x _ _ hn hx
  · intro x m hx; rw [Block.latched_record, hx]
  · intro x l q m hx; rw [Block.latched_send, hx]

theorem Block.latched_raiseOnce_self (b : Block) {n : Nat} (hn : n < 256) (k : Nat) (l : List Fld) : (b.raiseOnce n k l).latched n = true := by
  unfold Block.raiseOnce
  split
  · exact Block.latched_mark_self _ hn _
  · exact Block.latched_raise_self _ hn _

theorem Block.latched_setReg (b : Block) {n k : Nat} (v : Nat) (h : k < 0x780000) : (b.setReg k v).latched n = b.latched n := by
  unfold Block.latched
  rw [Block.reg_setReg_ne _ _ (by unfold latchKey; omega)]

theorem Block.latched_bump (b : Block) {n k : Nat} (v : Nat) (h : k < 0x780000) : (b.bump k v).latched n = b.latched n := by
  unfold Block.latched
  rw [Block.reg_bump_ne _ _ (by unfold latchKey; omega)]

/-! ### The history ring (R429) -/

/-- A message stands in the ring among the last k. -/
def Events.recent (e : Events) (x : Word64 × Nat × Nat) (k : Nat) : Prop := ∃ u v, e.ring = u ++ x :: v ∧ v.length ≤ k

theorem Block.record_recent (b : Block) (m : Word64) : (b.record m).ev.recent (m, b.time.orbit, b.time.slot) 0 := by
  unfold Block.record Events.recent
  simp only [Block.onEv_ev]
  by_cases h : 64 < (b.ev.ring ++ [(m, b.time.orbit, b.time.slot)]).length
  · rw [if_pos h]
    cases hr : b.ev.ring with
    | nil => rw [hr] at h; simp at h
    | cons x t => exact ⟨t, [], by simp, by simp⟩
  · rw [if_neg h]; exact ⟨b.ev.ring, [], rfl, by simp⟩

theorem Block.recent_record (b : Block) {x : Word64 × Nat × Nat} {k : Nat} (m : Word64) (hk : k < 63) (h : b.ev.recent x k) :
    (b.record m).ev.recent x (k + 1) := by
  obtain ⟨u, v, e, hv⟩ := h
  unfold Block.record Events.recent
  simp only [Block.onEv_ev]
  by_cases h : 64 < (b.ev.ring ++ [(m, b.time.orbit, b.time.slot)]).length
  · rw [if_pos h]
    cases u with
    | nil => rw [e] at h; simp at h; omega
    | cons y t => exact ⟨t, v ++ [(m, b.time.orbit, b.time.slot)], by simp [e], by simp; omega⟩
  · rw [if_neg h]; exact ⟨u, v ++ [(m, b.time.orbit, b.time.slot)], by simp [e], by simp; omega⟩

theorem Block.ring_bump (b : Block) (k n : Nat) : (b.bump k n).ev = b.ev := Block.bump_ev b k n

theorem Block.ring_sendOn (b : Block) (p q : Nat) (m : Word64) : (b.sendOn p q m).1.ev.ring = b.ev.ring := by
  unfold Block.sendOn
  dsimp only
  split
  · rfl
  · split <;> rfl

theorem Block.send_ring (b : Block) (l : List Nat) (q : Nat) (m : Word64) : (b.send l q m).1.ev.ring = b.ev.ring ∧ (b.send l q m).2.length ≤ l.length := by
  unfold Block.send
  have step : ∀ (l : List Nat) (r : Block × List Nat), r.1.ev.ring = b.ev.ring →
      (l.foldl (fun r p => let s := r.1.sendOn p q m; if s.2 then (s.1.bump 0x780006 1, r.2 ++ [p]) else (s.1, r.2)) r).1.ev.ring = b.ev.ring ∧
      (l.foldl (fun r p => let s := r.1.sendOn p q m; if s.2 then (s.1.bump 0x780006 1, r.2 ++ [p]) else (s.1, r.2)) r).2.length ≤
        r.2.length + l.length := by
    intro l
    induction l with
    | nil => intro r hr; exact ⟨hr, by simp⟩
    | cons p t ih =>
      intro r hr
      simp only [List.foldl_cons]
      split
      · have := ih ((r.1.sendOn p q m).1.bump 0x780006 1, r.2 ++ [p]) (by rw [Block.bump_ev, Block.ring_sendOn, hr])
        refine ⟨this.1, this.2.trans ?_⟩
        simp; omega
      · have := ih ((r.1.sendOn p q m).1, r.2) (by rw [Block.ring_sendOn, hr])
        refine ⟨this.1, this.2.trans ?_⟩
        simp
  have := step l (b, []) rfl
  simpa using this

theorem Block.eventPaths_length (b : Block) : b.eventPaths.length ≤ 3 := by
  have h := List.length_filter_le (fun k => (b.reg 0x105004).testBit k) (List.range 2)
  simp only [List.length_range] at h
  simp only [Block.eventPaths, Block.eventBuses, List.length_append, List.length_cons, List.length_nil]
  omega

theorem recent_mono {e : Events} {x : Word64 × Nat × Nat} {k l : Nat} (h : e.recent x k) (hl : k ≤ l) : e.recent x l := by
  obtain ⟨u, v, e, hv⟩ := h; exact ⟨u, v, e, hv.trans hl⟩

/-- The messages about lost messages follow the one that was lost in the ring. -/
theorem Block.overflowed_recent (n : Nat) {x : Word64 × Nat × Nat} : ∀ (k : List Nat) (y : Block) (j : Nat), j + k.length < 60 →
    y.ev.recent x j → (y.overflowed k n).ev.recent x (j + k.length) := by
  unfold Block.overflowed
  intro k
  induction k with
  | nil => intro y j _ hy; exact hy
  | cons p t ih =>
    intro y j hj hy
    simp only [List.length_cons] at hj ⊢
    simp only [List.foldl_cons]
    split
    · exact recent_mono (ih _ j (by omega) (by rw [Block.mark_ev]; exact hy)) (by omega)
    · refine recent_mono (ih _ (j + 1) (by omega) ?_) (by omega)
      have h1 := Block.recent_record (y.mark 0xDE (detail [.id 8 p, .id 8 n])) ((y.mark 0xDE (detail [.id 8 p, .id 8 n])).message 0xDE (detail [.id 8 p, .id 8 n]))
        (by omega) (show (y.mark 0xDE (detail [.id 8 p, .id 8 n])).ev.recent _ j by rw [Block.mark_ev]; exact hy)
      obtain ⟨u, v, e, hv⟩ := h1
      exact ⟨u, v, by rw [(Block.send_ring _ _ _ _).1, e], hv⟩

theorem pack_lt : ∀ l : List (Nat × Nat), pack l < 2 ^ (l.map Prod.fst).sum := by
  intro l
  induction l with
  | nil => simp [pack]
  | cons p t ih =>
    obtain ⟨w, v⟩ := p
    simp only [pack, List.map_cons, List.sum_cons]
    have h1 : v % 2 ^ w < 2 ^ w := Nat.mod_lt _ (Nat.two_pow_pos w)
    rw [pow_add]
    nlinarith [Nat.two_pow_pos w, Nat.two_pow_pos (t.map Prod.fst).sum]

/-- A message names its source. -/
theorem Block.sourceOf_message (b : Block) {n : Nat} (hn : n < 256) (d : Nat) : sourceOf (b.message n d) = n := by
  have h := pack_lt [(2, b.reg (sourceKey n 1)), (1, 0), (1, flag (b.alerts n)), (4, 0), (48, d)]
  have h2 : pack [(8, n), (2, b.reg (sourceKey n 1)), (1, 0), (1, flag (b.alerts n)), (4, 0), (48, d)] =
      n * 2 ^ 56 + pack [(2, b.reg (sourceKey n 1)), (1, 0), (1, flag (b.alerts n)), (4, 0), (48, d)] := by
    rw [pack, Nat.mod_eq_of_lt (by omega : n < 2 ^ 8)]
    rfl
  unfold sourceOf Block.message
  rw [BitVec.toNat_ofNat, h2, Nat.mod_eq_of_lt]
  · simp at h ⊢; omega
  · simp at h ⊢; omega

/-- Raising a source that is not the overflow of the message queues raises it once and nothing else (R425 to R429). -/
theorem Block.raise_raised (b : Block) {n : Nat} (hn : n < 256) (hd : n ≠ 0xDE) (l : List Fld) : Raised b (b.raise n l) n where
  count := by
    apply Block.raise_ind (P := fun x => x.reg (sourceKey n 3) = satN 32 (b.reg (sourceKey n 3) + 1))
    · intro d
      unfold Block.mark
      dsimp only
      have hl := latch_lt n hn
      rw [Block.reg_setReg_ne _ _ (by unfold sourceKey; omega), Block.reg_setReg_ne _ _ (by unfold sourceKey; omega),
        Block.reg_bumpSat_same]
    · intro x d hx
      unfold Block.mark
      dsimp only
      rw [Block.reg_setReg_ne _ _ (by unfold sourceKey; omega), Block.reg_setReg_ne _ _ (by unfold sourceKey latchKey; omega),
        Block.reg_bumpSat_ne _ _ _ (by unfold sourceKey; omega), hx]
    · intro x m hx; rw [Block.reg_record, hx]
    · intro x l q m hx; rw [Block.reg_send _ _ _ _ (by unfold sourceKey; omega), hx]
  latch := Block.latched_raise_self b hn l
  other := fun k hk => Block.reg_raise_low b n l hk
  mask := by
    intro hm
    have h : (b.mark n (detail l)).masked n = true := by
      unfold Block.masked at *
      have hl := latch_lt n hn
      unfold Block.mark
      dsimp only
      rw [Block.reg_setReg_ne _ _ (by unfold sourceKey; omega), Block.reg_setReg_ne _ _ (by unfold latchKey; omega),
        Block.reg_bumpSat_ne _ _ _ (by unfold sourceKey; omega), hm]
    unfold Block.raise
    dsimp only
    rw [if_pos h, Block.mark_ev]
  ring := by
    intro hm
    have h : (b.mark n (detail l)).masked n = false := by
      unfold Block.masked at *
      have hl := latch_lt n hn
      unfold Block.mark
      dsimp only
      rw [Block.reg_setReg_ne _ _ (by unfold sourceKey; omega), Block.reg_setReg_ne _ _ (by unfold latchKey; omega),
        Block.reg_bumpSat_ne _ _ _ (by unfold sourceKey; omega), hm]
    unfold Block.raise
    dsimp only
    rw [if_neg (by simp [h])]
    refine ⟨(b.mark n (detail l)).message n (detail l), Block.sourceOf_message _ hn _, ?_⟩
    have hr := Block.record_recent (b.mark n (detail l)) ((b.mark n (detail l)).message n (detail l))
    rw [Block.mark_time] at hr
    generalize hx : (b.mark n (detail l)).record ((b.mark n (detail l)).message n (detail l)) = x at hr ⊢
    generalize (b.mark n (detail l)).message n (detail l) = m at hr ⊢
    have hp := Block.eventPaths_length (b.mark n (detail l))
    generalize (b.mark n (detail l)).eventPaths = ps at hp ⊢
    have hs := Block.send_ring x ps 0 m
    obtain ⟨u, v, e, hv⟩ := hr
    obtain ⟨u, v, e, _⟩ := Block.overflowed_recent n (x.send ps 0 m).2 (x.send ps 0 m).1 0 (by omega) ⟨u, v, by rw [hs.1, e], hv⟩
    rw [e]
    simp

/-! ### Answers (R401) -/

theorem Block.replies_inbandSend (b : Block) (o : Nat) (m : List Byte) : (b.inbandSend o m).dict.replies = b.dict.replies :=
  Block.inbandSend_replies b o m

/-- A response is sent unless the command acts for a pair write. -/
theorem Block.sendReply_answers (b : Block) (r : Reply) : Answers b (b.sendReply r) r := by
  unfold Answers Block.sendReply
  dsimp only
  cases h : b.dict.mute
  · simp only [Bool.false_eq_true, if_false, Bool.false_or]
    split <;> simp
  · simp

theorem Block.reply_answers (b : Block) (h : Hdr) (op idx sub arg : Nat) (body : List Byte) :
    Answers b (b.reply h op idx sub arg body) (mkReply h op idx sub arg body) := Block.sendReply_answers b _

/-- A direct write is acknowledged with OP 0x82. -/
theorem Block.ack_acks (b : Block) (h : Hdr) (key : Nat) (hl : b.dict.landings.contains h = false) : Acks b (b.ack h key) h key := by
  unfold Acks Block.ack
  rw [if_neg (by simp only [hl, Bool.false_eq_true, not_false_eq_true])]
  exact Block.reply_answers b h ..

/-- A refusal is answered with its code. -/
theorem Block.refuseKey_refuses (b : Block) (h : Hdr) (key code : Nat) : Refuses b (b.refuseKey h key code) h key code := by
  unfold Refuses Answers Block.refuseKey Block.abort
  split
  · simp [*]
  · have hr := Block.reply_answers ((b.raiseOnce 0xD4 0 [.id 8 code, .id 24 (key / 256 * 256 + key % 256)]).landingOver h) h 0x07 (key / 256)
      (key % 256) 0 (bytesLE 4 code)
    unfold Answers at hr
    rw [hr]
    simp [Block.landingOver, *]

/-- What has answered before still has. -/
theorem Answers.congr {a a' b : Block} {r : Reply} (h : Answers a b r) (h1 : a'.dict.replies = a.dict.replies)
    (h2 : a'.dict.mute = a.dict.mute) : Answers a' b r := by unfold Answers at *; rw [h, h1, h2]

theorem Block.landed_answers (b : Block) (h : Hdr) (key : Nat) : Answers b (b.landed h key) (mkReply h 0x03 (key / 256) (key % 256) 1 []) :=
  Answers.congr (Block.reply_answers (b.landingOver h) h ..) rfl rfl

/-! ### Requests (R390 to R399) -/

/-- A request that reuses a TAG ends the acknowledgement that the TAG still owed (R398). -/
@[simp] theorem Block.freshTag_landings (b : Block) (h : Hdr) : (b.freshTag h).dict.landings.contains h = false := by
  simp [Block.freshTag]

@[simp] theorem Block.sessionUsed_landings (b : Block) (h : Hdr) : (b.sessionUsed h).dict.landings = b.dict.landings := by
  unfold Block.sessionUsed; split <;> rfl

@[simp] theorem Block.taken_landings (b : Block) (h : Hdr) : (b.taken h).dict.landings.contains h = false := by
  simp only [Block.taken, Block.sessionUsed_landings, Block.freshTag_landings]

/-! What a request that is taken leaves as it was. -/

@[simp] theorem Block.taken_cRole (b : Block) (h : Hdr) : (b.taken h).cRole = b.cRole :=
  (Block.taken_keeps (Keeps.refl [.boot, .sets, .mrg, .dict] b) rfl).role_eq rfl

@[simp] theorem Block.taken_phase (b : Block) (h : Hdr) : (b.taken h).boot.phase = b.boot.phase := by
  unfold Block.taken Block.sessionUsed; split <;> rfl

@[simp] theorem Block.taken_mute (b : Block) (h : Hdr) : (b.taken h).dict.mute = b.dict.mute := by
  unfold Block.taken Block.sessionUsed; split <;> rfl

@[simp] theorem Block.taken_replies (b : Block) (h : Hdr) : (b.taken h).dict.replies = b.dict.replies := by
  unfold Block.taken Block.sessionUsed; split <;> rfl

@[simp] theorem Block.taken_pairs (b : Block) (h : Hdr) : (b.taken h).dict.pairs = b.dict.pairs := by
  unfold Block.taken Block.sessionUsed; split <;> rfl

@[simp] theorem Block.taken_lockout (b : Block) (h : Hdr) : (b.taken h).dict.lockout = b.dict.lockout := by
  unfold Block.taken Block.sessionUsed; split <;> rfl

@[simp] theorem Block.taken_fails (b : Block) (h : Hdr) : (b.taken h).dict.fails = b.dict.fails := by
  unfold Block.taken Block.sessionUsed; split <;> rfl

@[simp] theorem Block.taken_act (b : Block) (h : Hdr) : (b.taken h).sets.act = b.sets.act := by
  unfold Block.taken Block.sessionUsed; split <;> rfl

@[simp] theorem Block.taken_shd (b : Block) (h : Hdr) : (b.taken h).sets.shd = b.sets.shd := by
  unfold Block.taken Block.sessionUsed; split <;> rfl

@[simp] theorem Block.taken_armed (b : Block) (h : Hdr) : (b.taken h).sets.armed = b.sets.armed := by
  unfold Block.taken Block.sessionUsed; split <;> rfl

@[simp] theorem Block.taken_heldFrom (b : Block) (h : Hdr) : (b.taken h).sets.heldFrom = b.sets.heldFrom := by
  unfold Block.taken Block.sessionUsed; split <;> rfl

@[simp] theorem Block.taken_staging (b : Block) (h : Hdr) : (b.taken h).sets.staging = b.sets.staging := by
  unfold Block.taken Block.sessionUsed; split <;> rfl

@[simp] theorem Block.taken_reg (b : Block) (h : Hdr) (k : Nat) : (b.taken h).reg k = b.reg k := by
  unfold Block.taken Block.sessionUsed; split <;> rfl

@[simp] theorem Block.taken_rs (b : Block) (h : Hdr) (k : Nat) : (b.taken h).rs k = b.rs k := by
  unfold Block.taken Block.sessionUsed; split <;> rfl

@[simp] theorem Block.taken_entryOf (b : Block) (h : Hdr) (i n : Nat) : (b.taken h).entryOf i n = b.entryOf i n := by
  simp only [Block.entryOf, Block.taken_cRole]

/-- A write that may reach its entry's rule does reach it. -/
theorem Block.writeTo_writable (b : Block) (h : Hdr) (key len : Nat) (f : Block → Block) (hw : b.writable h key len = true) :
    b.writeTo h key len f = f (b.taken h) := by
  unfold Block.writable at hw
  simp only [Bool.and_eq_true, beq_iff_eq, Bool.not_eq_true'] at hw
  obtain ⟨⟨⟨hp, hh⟩, ht⟩, ha⟩ := hw
  unfold Block.writeTo Block.request Block.receive
  rw [if_pos hp, if_pos hh]
  cases he : (b.taken h).access h (key / 256) (key % 256) true with
  | error c => rw [he] at ha; cases ha
  | ok d =>
    rw [he] at ha
    simp only [beq_iff_eq] at ha
    simp only [he, ha, ht]
    rfl

end Sys2Proof.Machine
end

