-- ==== Sys2Proof/Tests/Slice0.lean ====
section
/-! SUPPORT. Tests: an ill-formed term for each check, the spec's worked examples, and a witness for the premises of every
statement. -/

namespace Sys2Proof.Tests

open Sys2Proof.Machine

set_option maxRecDepth 100000
set_option Elab.async false

/-! ### States -/

/-- A folio for an F-role. -/
def fol : Folio := { (default : Folio) with orbitLen := 4096, serial := 5, fxMax := 1000000000 }

/-- A frame on the line, from a scrambler whose last bits were zeros. -/
def onLine (f : CFrame) : LineFrame := (lineOf 0 false f).1

/-- A session of level 4, in band. -/
def hdr : Hdr := { origin := .inband, pair := false, path := 0, tag := 1, session := 1 }

/-- A device that runs, has locked and has an active set. -/
def bF : Block :=
  { boot := { phase := .running },
    time := { locked := true, everLocked := true, now := 5000, slot := 200, orbit := 7, log := [⟨7, 4800, 4096, 0⟩], fx := 50000000 },
    sets := { act := some { folio := fol } },
    dict := { sessions := [⟨1, .inband, 4, 4990⟩] } }

/-- The same in C-role, of a twin pair. -/
def bC : Block := { bF with boot := { phase := .running, roleC := true } }

/-- What stands between the fields of a signed image and its payload where its HSS key and signature have the form of R462 and no digits. -/
def hssBody : List Byte :=
  let w := fun (n : Byte) => ([0, 0, 0, n] : List Byte)
  let z := fun (n : Nat) => List.replicate n (0 : Byte)
  w 2 ++ w 6 ++ w 4 ++ z 164 ++ w 1 ++ z 4 ++ w 4 ++ z 1120 ++ w 6 ++ z 320 ++ w 6 ++ w 4 ++ z 52 ++ w 4 ++ z 1120 ++ w 6 ++ z 332

/-- The body of a folio with its sections empty. -/
def folioHead : List Byte :=
  [0x4B, 0x46, 0x4C, 0x4F] ++ bytesLE 2 1 ++ [0, 0] ++ bytesLE 4 6 ++ bytesLE 4 0 ++ bytesLE 4 280 ++ bytesLE 2 11 ++ bytesLE 2 4096 ++
    List.replicate 72 0 ++ [1, 2, 3, 4, 5, 8, 9, 10, 11, 12, 14].flatMap fun t => bytesLE 2 t ++ [0, 0] ++ bytesLE 4 272 ++ bytesLE 8 0

/-- Its payload, as literal tokens, in a signed image. -/
def folioImage : List Byte :=
  let l := folioHead ++ bytesLE 8 (crc64 folioHead)
  [0x4B, 0x53, 0x49, 0x47] ++ bytesLE 2 1 ++ bytesLE 2 1 ++ bytesLE 4 284 ++ List.replicate 164 0 ++ hssBody ++
    127 :: l.take 127 ++ 127 :: (l.drop 127).take 127 ++ 26 :: l.drop 254 ++ [0]

/-- What outside algorithms say of it. -/
def folioVerdict : Verdict :=
  { keyHash := [7], imageDigest := List.replicate 48 0, ecdsaOk := true, hssOk := true, folio := { (default : Folio) with retain := 2047 } }

/-- A C-role in solo topology on which every condition of R443 holds. -/
def readyC : Block :=
  { bC with sets := { act := some { folio := { fol with topology := 1 } } }, time := { bC.time with domA := { state := .qualified } },
            dict := { bC.dict with regs := [(keyBinState, 2)] },
            adc := { slices := (List.range 3).map fun s => (s, { rank := if s < 2 then some s else none, accepted := true }) } }

/-- An F-role on which every condition of R443 holds, in a given topology. -/
def readyF (topology : Nat) : Block :=
  { bF with sets := { act := some { folio := { fol with topology := topology } } },
            dict := { bF.dict with regs := [(keyBinState, 2)] },
            boot := { bF.boot with aligned := [0] },
            frm := { lanes := [(0, { rx := .active, tx := .active })], side := some 0 },
            adc := { slices := (List.range 33).map fun s => (s, { rank := if s < 32 then some s else none, accepted := true }) } }

/-- An OWNER_KEY_UPDATE image with an action and a slot. -/
def updImage (action slot : Byte) : List Byte :=
  [0x4B, 0x53, 0x49, 0x47] ++ bytesLE 2 1 ++ bytesLE 2 5 ++ bytesLE 4 52 ++ [0, 0, 0, 0, 1, 0] ++ List.replicate 158 0 ++ hssBody ++
    [action, slot, 0, 0] ++ List.replicate 48 0

/-- A tile bookplate that passes its checks. -/
def tileImage : List Byte :=
  let l := [0x4B, 0x42, 0x50, 0x4C] ++ bytesLE 2 1 ++ bytesLE 2 1828 ++ bytesLE 8 0x1234 ++ List.replicate 1808 0
  l ++ bytesLE 4 (crc32Bytes l)

/-- A probe's. -/
def probeImage : List Byte :=
  let l := [0x4B, 0x42, 0x50, 0x45] ++ bytesLE 2 1 ++ bytesLE 2 132 ++ bytesLE 8 0x1234 ++ List.replicate 112 0
  l ++ bytesLE 4 (crc32Bytes l)

/-! ### Ill-formed commands (WellFormed.lean) -/

theorem test_illformed_slot_period : wellFormed (.slotPeriodStart false (List.replicate 32 default)) = false := by decide
theorem test_illformed_cal_run : wellFormed (.calRunEnd ⟨0, 0, List.replicate 13 0⟩) = false := by decide
theorem test_illformed_bin_counts : wellFormed (.binCalIterationEnd (List.replicate 65 0)) = false := by decide
theorem test_illformed_taps : wellFormed (.clockRecoveryLocked 0 0 [1, 2, 3, 4, 5]) = false := by decide
theorem test_illformed_readings : wellFormed (.tempMeasurement []) = false := by decide
theorem test_wellformed_readings : wellFormed (.tempMeasurement (List.replicate 9 0)) = true := by decide

/-! ### The spec's worked examples -/

/-- R101 to R108 and R159, worked example of chapter 4: stamp, HT_DELTA and slew code, TOT of the hit of CH020. -/
theorem test_edge_example :
    stamp 100 ⟨6, 17⟩ = 0x32191 ∧ slewCode (some 56) = 6 ∧ totOf 205201 207016 = 113 := by decide

/-- R169, worked example of chapter 6: the record of CH020. -/
theorem test_hit_record : hitRecord 0x14 0 864 0x32191 113 6 false false false = 0x0506C003219138B0 := by decide

/-- R170, the same: the stamp-only record. -/
theorem test_stamp_record : stampRecord 0x14 0 0x32191 113 6 false false = 0x45000003219138B0 := by decide

/-- R171, the same: the M-compact record, which fills bits 63 to 24 of B2 (R172). -/
theorem test_m_compact : mCompact 0x0506C003219138B0 0 = 0x141B000C88 ∧
    (groupWords [0x141B000C88]).head? = some 0x141B000C88000004 := by decide +kernel

/-- R173, the same: the primitive of regions 1 and 4 under PRIM_MODE 1. -/
theorem test_primitive :
    ({ bF with sets := { act := some { folio := fol, entries := [(0x480007, 1)] } },
               leads := [⟨20, 10240000, 5000, some (1, 5000)⟩, ⟨21, 10240000, 5000, some (1, 5001)⟩, ⟨30, 10240000, 5000, some (1, 5002)⟩] ++
                 List.replicate 9 ⟨70, 10240000, 5000, some (1, 5000)⟩ } : Block).primitive 5000 = 0x7010 := by decide +kernel

/-- R76, R97 and R532, worked example of chapter 3: the codes of 30.0, 146.3, 146.4, 200.0 and 2500.0 fC over pedestals of 64 codes, one
peaking time after the charge, at 50 MHz. -/
theorem test_hold_codes :
    [3000, 14630, 14640, 20000, 250000].map (fun q =>
      let b := { bF with time := { bF.time with fx := 50000000000 }, chans := [(20, { pulses := [(10240000, -q, false)] })] }
      (b.gainCode b.active 20 10241638 false, b.gainCode b.active 20 10241638 true)) =
    [(864, 114), (3965, 308), (3968, 308), (4095, 397), (4095, 4095)] := by decide +kernel

/-- R78 and R80, worked example of chapter 3: the trim that the set carries for CH077. -/
theorem test_lt_trim :
    ({ bF with sets := { act := some { folio := fol, entries := [(chConfigKey 77, 0b111100 * 2 ^ 22)] } } } : Block).trim 77 false = -4 := by decide +kernel

/-- R246, worked example of chapter 9: occupancy codes of a sum of 9 and of 60. -/
theorem test_occupancy : primSum 0x7010 = 9 ∧ occCode 9 = 9 ∧ occCode 60 = 45 ∧ 9 + 45 * 64 + 62 * 4096 = 0x3EB49 := by decide

/-- R253, the same: the bookmark of slot 1000 of orbit 517 with SEQ 37. -/
theorem test_bookmark : bookmark 0 0 0 517 1000 0 37 = 0x8302050FA0000025 := by decide

/-- R251, R254 and R249, the same: the absent-worker header of P03 with its withdrawal, and the header of P01's fragment of three. -/
theorem test_accept_words : absentHeader 3 0 0 517 1000 = 0x820C050FA0000000 ∧
    withdrawalRecord 6 3 3 517 1000 0 unknownCount = 0x84630350FA00FFFF ∧
    fragmentHeader 1 0 0 0 0 0 517 1000 0 3 0 = 0x8104050FA0003000 := by decide

/-- R255, the same: the colophon of orbit 4097. -/
theorem test_colophon : colophon 4097 41237 0 12 0x3A91C4 = 0x855422A00C3A91C4 := by decide

/-- R306, worked example of chapter 11: the payload of an ACCEPT of slot 1000 in an orbit that ends in 01. -/
theorem test_accept_payload : acceptPayload 0 1 1000 = 0x110FA0000000 := by decide

/-- R330, worked example of chapter 12: the headers of five empty windows. -/
def emptyWindows : List Word64 :=
  [0x8104050FA0000000, 0x8108050FA0000000, 0x810C050FA0000000, 0x8110050FA0000000, 0x8114050FA0000000]

/-- The region that they are sent in. -/
def emptyRegion : List Word64 := [0x0A8104050FA00000, 0x008108C308010CC3, 0x080110C3080114C2, 0x0800000000000000, 0]

/-- R326 to R328: the region decodes to the records. -/
theorem test_decode_region : (decodeRegion (recordBytes emptyRegion) []).toOption = some (recordBytes emptyWindows) := by decide +kernel

/-- R329, R330: with a hash in which no two of the positions meet, the encoder writes exactly this region. -/
theorem test_encode_block :
    regionWords (encodeBlock (fun a b c d => a.toNat + 3 * b.toNat + 7 * c.toNat + 31 * d.toNat) (recordBytes emptyWindows) [] [] 0).1 =
      emptyRegion := by decide +kernel

/-- R340, worked example of chapter 13: the 8-bit check over "123456789", the prefix fold, the seed fold. -/
theorem test_cvu_example :
    cvuResult 8 false 0 (cvuBytes 8 7 false 0 [0x31, 0x32, 0x33, 0x34, 0x35, 0x36, 0x37, 0x38, 0x39]) = 0xF4 ∧
    cvuBytes 8 7 false 0 [0x05] = 0x1B ∧ cvuBytes 8 7 false 0x1B [0x31] = 0xD6 ∧ cvuBytes 8 7 false 0x05 [0x31] = 0x8C := by decide

/-- R420, worked example of chapter 16: the identifiers of a request to node 0x12 and of its answer. -/
theorem test_can_identifiers : canId 1 0x12 1 0 = 0x04901000 ∧ canId 2 1 0x12 0 = 0x08092000 := by decide

/-- R61, R62, worked example of chapter 2: entry 12 fires at slot 100 of orbit 4099 and injects 0.5 fC in regions 0 to 3, at core cycle 4. -/
theorem test_cal_fire :
    let b := { bF with time := { bF.time with orbit := 4099, slot := 100 }, boot := { bF.boot with released := true },
                       sets := { act := some { folio := fol, entries := [(0x2A0C01, 0x81000000000F2000), (0x2A0C02, 0x0010000300000064),
                                                                        (chConfigKey 63, 0x80000005), (chConfigKey 64, 0x80000005)] } } }
    (match exec (.calFire 12) { blk := b, pending := [] } with
     | .next t => [(t.blk.chan 63).pulses.map Prod.fst, (t.blk.chan 64).pulses.map Prod.fst]
     | _ => []) = [[10240256], []] := by decide +kernel

/-- R57, worked example of chapter 2: a round trip of 107202 LSB_phi at D = 0 gives D = 53601, and the next one gives it again. -/
theorem test_align : bC.newAlign 5 1 107202 = 53601 ∧
    ({ bC with mrg := { ports := [(5, { align := 53601 })] } } : Block).newAlign 5 1 53601 = 53601 := by decide +kernel

/-- R481 to R484, worked example of chapter 19: a code of 3939 at range 3 gives 100.00 degC within half of its last place. -/
theorem test_env_example :
    let b : Block := { bF with dict := { bF.dict with regs := [(0x700501, 0x80000000), (0x710501, 2 ^ 32 - 17022321), (0x710505, 204267848)] } }
    (((b.envSample 5 3939 false false false 3).envCh 5).y - 0x640000).natAbs < 328 := by decide +kernel

/-! ### The table's words -/

/-- The opcode table gives no row any bits, so no word spells a command. -/
theorem test_no_word : decodeTableWord 16 0x1234 = none := by decide

/-! ### Premises are met

Each theorem shows, for every clause of a statement that has premises, a state and operands that meet them together. -/

/-- A condition holds in the state of a block with no command waiting. -/
def meets (b : Block) (p : State → Bool) : Bool := p { blk := b, pending := [] }

/-- The one, or the first, element of a list, an answer, a code, a taken bank, or a next state, with a condition on it. -/
def oneThen {α : Type} (l : List α) (p : α → Bool) : Bool := match l with
  | [x] => p x
  | _ => false
def headThen {α : Type} (l : List α) (p : α → List α → Bool) : Bool := match l with
  | x :: t => p x t
  | _ => false
def okThen {ε α : Type} (e : Except ε α) (p : α → Bool) : Bool := match e with
  | .ok x => p x
  | .error _ => false
def errorThen {ε α : Type} (e : Except ε α) (p : ε → Bool) : Bool := match e with
  | .error x => p x
  | .ok _ => false
def takenThen (k : Bank) (p : Nat → Nat → Bool) : Bool := match k with
  | .taken lead due => p lead due
  | _ => false
def nextThen (o : Host.Outcome State Fault Refusal) (p : State → Bool) : Bool := match o with
  | .next t => p t
  | _ => false

/-- The least and the most that the thresholds can be: the offsets of R78 lie within 0.8 fC and 3.2 fC. -/
def ltLeast (b : Block) (c : Nat) : Int := 5 * (b.rs 0x300002 : Nat) + 4 * b.trim c false - 80
def ltMost (b : Block) (c : Nat) : Int := 5 * (b.rs 0x300002 : Nat) + 4 * b.trim c false + 80
def htLeast (b : Block) (c : Nat) : Int := 20 * (b.rs 0x300003 : Nat) + 16 * b.trim c true - 320
def htMost (b : Block) (c : Nat) : Int := 20 * (b.rs 0x300003 : Nat) + 16 * b.trim c true + 320

theorem thresholds_within (b : Block) (c : Nat) :
    ltLeast b c ≤ b.thresholdLT c ∧ b.thresholdLT c ≤ ltMost b c ∧
    htLeast b c ≤ b.thresholdHT c ∧ b.thresholdHT c ≤ htMost b c := by
  simp only [ltLeast, ltMost, htLeast, htMost, Block.thresholdLT, Block.thresholdHT, clampI]; omega

/-- What a command leaves of the block. -/
def after (i : Instr) (s : State) : Block := match exec i s with
  | .next t => t.blk
  | _ => s.blk

/-- A burn that is under way: a state in which a command waits that changes the fuses. -/
def burning : State :=
  { blk := { bF with sets := { act := some { folio := { fol with version := 3 } } } }, pending := [.rollbackCommit hdr 0x524F4C4C []] }

/-- The premises of EveryStepKeepsTheInvariant are met, in a state whose step burns a fuse. -/
theorem meets_EveryStepKeepsTheInvariant : Inv burning ∧ ∃ t, step burning = .next t := ⟨⟨by decide, by decide, by decide, by decide⟩, _, rfl⟩

/-- Those of EveryCommandKeepsItsFrame and FusesAreOnlyBurned. -/
theorem meets_FusesAreOnlyBurned : ∃ t, exec (.rollbackCommit hdr 0x524F4C4C []) burning = .next t := ⟨_, rfl⟩

/-- Those of the third clause of StrapsAreSampledAtResetAlone. -/
theorem meets_StrapsElsewhere : ∃ t, exec .pinReset { blk := bC, pending := [] } = .next t := ⟨_, rfl⟩

/-- Those of the last clause of FuseLoadRunsOrStops. -/
theorem meets_StoppedStays :
    ∃ s t : State, s.blk.boot.phase = .stopped ∧ exec (.tempMeasurement (List.replicate 9 0)) s = .next t :=
  ⟨{ blk := { bF with boot := { phase := .stopped } }, pending := [] }, _, rfl, rfl⟩

/-- The premises of each clause of WellFormedCommandsComplete are met. -/
theorem meets_WellFormedCommandsComplete :
    meets bF
      (fun _ => wellFormed .nop = true) = true ∧
    meets bF
      (fun _ => wellFormed (.binCalIterationEnd []) = false) = true := by decide +kernel

/-- The premises of each clause of WellFormedQueueRunsToItsEnd are met. -/
theorem meets_WellFormedQueueRunsToItsEnd :
    meets bF
      (fun s => s.pending.all wellFormed = true) = true := by decide +kernel

/-- What meets_StacksTakeAndRelease shows of sixteen stacks holds of every number. -/
theorem meets_StacksTakeAndRelease_parts (r : Nat) :
    let b : Block := { bF with stk := { accs := [{ cross := 4990, kind := 0, q := 0, p := 0, read := 5000, got := 4991, late := false, mark := none }] } }
    b.stk.accs.all (fun a => (b.scanPart a r).todo.isEmpty && (b.scanPart a r).wds.isEmpty) = true := rfl

/-- And what meets_TimetableActs shows of thirty-two actions. -/
theorem meets_TimetableActs_none (a : Nat) : ({ bF with boot := { bF.boot with released := true } } : Block).ttActs 1 a = false := rfl

/-- The premises of each clause of StrapsAreSampledAtResetAlone are met. -/
theorem meets_StrapsAreSampledAtResetAlone :
    meets { bF with boot := { bF.boot with phase := .pinReset } }
      (fun s => decide (s.blk.boot.phase = .pinReset)) = true := by decide +kernel

/-- The premises of each clause of ResetsLeaveTheirState are met. -/
theorem meets_ResetsLeaveTheirState :
    meets bF
      (fun s => decide (s.blk.boot.phase ≠ .powerReset)) = true ∧
    meets { bF with boot := { bF.boot with phase := .pinReset } }
      (fun s => decide (s.blk.boot.phase = .pinReset)) = true := by decide +kernel

/-- The premises of each clause of FuseLoadRunsOrStops are met. -/
theorem meets_FuseLoadRunsOrStops :
    meets { bF with boot := { phase := .fuseLoad, roleC := false, cause := 1 }, fuses := { role := 0 } }
      (fun s => decide (s.blk.boot.phase = .fuseLoad) &&
        (let r : FuseReport := { noMajority := some 3, flash := none, certDigestOk := true, certSub := 0, laneFails := 0, tmrFails := 0 };
        decide (r.noMajority.isSome = true))) = true ∧
    meets { bF with boot := { phase := .fuseLoad, roleC := true, cause := 1 }, fuses := { role := 1 } }
      (fun s => decide (s.blk.boot.phase = .fuseLoad) &&
        (let r : FuseReport := { noMajority := none, flash := none, certDigestOk := true, certSub := 0, laneFails := 0, tmrFails := 0 };
        decide (r.noMajority = none ∧ (s.blk.fuses.role.toNat == 0 || s.blk.fuses.role.toNat == 1 &&
        !s.blk.boot.roleC || s.blk.fuses.role.toNat == 2 && s.blk.boot.roleC) = false))) = true ∧
    meets { bF with boot := { phase := .fuseLoad, roleC := false, cause := 1 }, fuses := { role := 0 } }
      (fun s => decide (s.blk.boot.phase = .fuseLoad) &&
        (let r : FuseReport := { noMajority := none, flash := none, certDigestOk := true, certSub := 0, laneFails := 0, tmrFails := 0 };
        decide (r.noMajority = none ∧ (s.blk.fuses.role.toNat == 0 || s.blk.fuses.role.toNat == 1 &&
        !s.blk.boot.roleC || s.blk.fuses.role.toNat == 2 && s.blk.boot.roleC) = true))) = true := by decide +kernel

/-- The premises of each clause of FoliosComeInByTheStagingStore are met. -/
theorem meets_FoliosComeInByTheStagingStore :
    meets { bC with flash := { capacity := 128, present := true }, sets := { staging := .receiving } }
      (fun s => decide (s.blk.running = true ∧ s.blk.hasFlash = true ∧ s.blk.sets.act = none ∧ s.blk.boot.noFolio = false ∧
        s.blk.boot.fromFlash = false ∧ s.blk.sets.by_ = none ∧ (s.blk.sets.staging = .receiving ∨ s.blk.boot.roleC = false ∧
        s.blk.sets.staging = .idle))) = true ∧
    meets { bF with
      fuses := { keyHashes := [[7]] },
      flash := { capacity := 128, present := true },
      sets := { act := some {}, staging := .verifying, image := folioImage, by_ := some (hdr, false) } }
      (fun s => decide (s.blk.running = true ∧ s.blk.sets.staging = .verifying) && (s.blk.sets.by_.any fun (h, w) => !w &&
        decide (s.blk.dict.mute = false) && (let v := folioVerdict; okThen (((s.blk.bootTime 2).folioVerify s.blk.sets.image v).1) fun _ =>
        decide (s.blk.sets.act.isSome = true)))) = true ∧
    meets { bF with
      fuses := { keyHashes := [[7]] },
      flash := { capacity := 128, present := true },
      sets := { act := some {}, staging := .verifying, image := folioImage, by_ := some (hdr, false) } }
      (fun s => decide (s.blk.running = true ∧ s.blk.sets.staging = .verifying) && (s.blk.sets.by_.any fun (h, w) => !w &&
        decide (s.blk.dict.mute = false) && (let v : Verdict := default; errorThen (((s.blk.bootTime 2).folioVerify s.blk.sets.image v).1) fun _ =>
        true))) = true ∧
    meets { bF with fuses := { keyHashes := [[7]] }, flash := { capacity := 128, present := true } }
      (fun s => let image : List Byte := folioImage; decide (s.blk.writable hdr 1053957 image.length = true ∧
        (s.blk.taken hdr).downloadBusy 1053957 = false ∧ s.blk.hasFlash = true) && (let v : Verdict := folioVerdict;
        okThen (((s.blk.taken hdr).folioVerify image v).1) fun _ => true)) = true ∧
    meets { bF with boot := { bF.boot with bootWriteSlot := some ([1], 9), bootWriteBy := some (hdr, 1, false) } }
      (fun s => s.blk.boot.bootWriteSlot.any fun (image, serial) => s.blk.boot.bootWriteBy.any fun (h, slot, silent) => true) = true ∧
    meets { bF with boot := { bF.boot with bootWriteSlot := some ([1], 9), bootWriteBy := some (hdr, 1, false) } }
      (fun s => s.blk.boot.bootWriteSlot.any fun (image, serial) => s.blk.boot.bootWriteBy.any fun (h, slot, silent) =>
        decide (silent = false)) = true := by decide +kernel

/-- The premises of each clause of RestartsFallDueAtTheCrossingsEnd are met. -/
theorem meets_RestartsFallDueAtTheCrossingsEnd :
    meets bF
      (fun s => decide (s.blk.writable hdr 1052929 4 = true)) = true ∧
    meets bF
      (fun s => decide (s.blk.writable hdr 1052930 4 = true)) = true ∧
    meets bF
      (fun s => let sub : BitVec 8 := 1; decide (s.blk.writable hdr (1053184 + sub.toNat) 1 = true ∧ gated s.blk.boot.roleC sub.toNat = false ∧
        tabFind s.blk.boot.resetting sub.toNat = none ∧ sub.toNat ∉ s.blk.boot.resetDue)) = true ∧
    meets { bF with boot := { bF.boot with resetting := [(1, 5000)] } }
      (fun s => let k : Fin 9 := 0; (tabFind s.blk.boot.resetting (k.val + 1)).any fun x => decide (x ≤ s.blk.time.now ∨
        s.blk.time.everLocked = false)) = true ∧
    meets { bF with boot := { bF.boot with resetting := [(9, 5001)] } }
      (fun s => let k : Fin 9 := 8; (tabFind s.blk.boot.resetting (k.val + 1)).any fun x => decide (s.blk.time.now < x ∧
        s.blk.time.everLocked = true)) = true := by decide +kernel

/-- The premises of each clause of CorePllLocksAndUnlocks are met. -/
theorem meets_CorePllLocksAndUnlocks :
    meets { bF with time := {} }
      (fun s => decide (s.blk.running = true ∧ s.blk.time.locked = false)) = true ∧
    meets bF
      (fun s => decide (s.blk.running = true ∧ s.blk.time.locked = true)) = true := by decide +kernel

/-- The premises of each clause of TimingIsTracked are met. -/
theorem meets_TimingIsTracked :
    meets { bC with
      frm := { lanes := [(36, { rx := .active })] },
      dict := { bC.dict with regs := [(0x5C2406, 36)] },
      time := { bC.time with domA := { assessed := false, state := .lost } } }
      (fun s => decide (s.blk.running = true ∧ s.blk.cRole = true) && (let d : Fin 2 := 0; decide ((s.blk.lane (36 + d.val)).prbs = 0 ∧
        (s.blk.lane (36 + d.val)).rx = .active) && (let x : LineFrame := onLine (mkFrame 36 0 0 1 3 0 5 []);
        decide (((s.blk.hear (36 + d.val) x).2.syncFrame (36 + d.val) (s.blk.syncGood (36 + d.val) x)).rxActive (36 + d.val) = true ∧
        frCode (s.blk.hear (36 + d.val) x).1 ≠ codeTraining) && ((copyOf (s.blk.peerLane (36 + d.val)) (s.blk.hear (36 + d.val) x).1).any fun _ =>
        decide (1 ≤ frSlot (s.blk.hear (36 + d.val) x).1 ∧ frSlot (s.blk.hear (36 + d.val) x).1 ≤ 6 ∧ (s.blk.dom d.val).assessed = false))))) = true ∧
    meets { bC with
      frm := { lanes := [(36, { rx := .active })] },
      dict := { bC.dict with regs := [(0x5C2406, 36)] },
      time := { bC.time with domA := { assessed := true, state := .acquiring } } }
      (fun s => decide (s.blk.running = true ∧ s.blk.cRole = true) && (let d : Fin 2 := 0; decide ((s.blk.lane (36 + d.val)).prbs = 0 ∧
        (s.blk.lane (36 + d.val)).rx = .active) && (let x : LineFrame := onLine (mkFrame 36 0 0 8 3 0 0xF00000000000 []);
        decide (((s.blk.hear (36 + d.val) x).2.syncFrame (36 + d.val) (s.blk.syncGood (36 + d.val) x)).rxActive (36 + d.val) = true ∧
        frCode (s.blk.hear (36 + d.val) x).1 ≠ codeTraining) && ((copyOf (s.blk.peerLane (36 + d.val)) (s.blk.hear (36 + d.val) x).1).any fun _ =>
        decide (8 ≤ frSlot (s.blk.hear (36 + d.val) x).1 ∧ (s.blk.dom d.val).assessed = true))))) = true ∧
    meets { bC with time := { bC.time with campaigns := [(32, { shots := 0, orbits := 131072 })] } }
      (fun s => decide (s.blk.running = true ∧ s.blk.cRole = true) && (let p : Port := 31; (tabFind s.blk.time.campaigns (p.val + 1)).any fun c =>
        decide (c.shots < s.blk.serviceShots ∧ 2 * s.blk.serviceShots ≤ c.orbits))) = true ∧
    meets { bC with time := { bC.time with campaigns := [(32, { shots := 131072, sum := 0 })] } }
      (fun s => decide (s.blk.running = true ∧ s.blk.cRole = true) && (let p : Port := 31; (tabFind s.blk.time.campaigns (p.val + 1)).any fun c =>
        decide (s.blk.serviceShots ≤ c.shots ∧ s.blk.newAlign (p.val + 1) c.shots c.sum = ↑(s.blk.port (p.val + 1)).align ∧
        (s.blk.port (p.val + 1)).align ≤ 1048575 ∧ c.first = false))) = true := by decide +kernel

/-- The premises of each clause of DomainsAreLeftAndSwitched are met. -/
theorem meets_DomainsAreLeftAndSwitched :
    meets { bC with
      sets := { act := some { folio := { fol with topology := 1 } } },
      time := { bC.time with
          domA := { state := .qualified, residual := 5 },
          domB := { state := .lost },
          selected := some 0,
          switchTo := some ⟨1, 5001, false⟩ } }
      (fun s => decide (s.blk.running = true) && (let d : Fin 2 := 1; decide ((s.blk.dom d.val).state = .lost))) = true ∧
    meets { bC with
      sets := { act := some { folio := { fol with topology := 1 } } },
      time := { bC.time with
          domA := { state := .qualified, residual := 5 },
          domB := { state := .lost },
          selected := some 0,
          switchTo := some ⟨1, 5001, false⟩ } }
      (fun s => decide (s.blk.running = true) && (let d : Fin 2 := 0; decide ((s.blk.dom d.val).state ≠ .lost ∧ (s.blk.cRole = true ∨
        (s.blk.dom (1 - d.val)).state ≠ .lost ∨ s.blk.time.holdover = true)))) = true ∧
    meets { bC with
      sets := { act := some { folio := { fol with topology := 1 } } },
      time := { bC.time with
          domA := { state := .qualified, residual := 5 },
          domB := { state := .lost },
          selected := some 0,
          switchTo := some ⟨1, 5002, false⟩ } }
      (fun s => decide (s.blk.running = true) && (let d : Fin 2 := 0; decide ((s.blk.dom d.val).state ≠ .lost ∧ (s.blk.cRole = true ∨
        (s.blk.dom (1 - d.val)).state ≠ .lost ∨ s.blk.time.holdover = true) ∧ s.blk.cRole = true ∧ s.blk.time.selected = some d ∧ (∀ (w : Switch),
        s.blk.time.switchTo = some w → w.orbit = true ∨ w.target = d.val ∨
        (if s.blk.topology ≠ 0 then s.blk.time.now + 1 else s.blk.time.now + 2 + if s.blk.twin.lost = true then 0 else s.blk.mirrorDelay) < w.from_)))) = true ∧
    meets { bC with
      sets := { act := some { folio := { fol with topology := 1 } } },
      time := { bC.time with
          domA := { state := .qualified, residual := 5 },
          domB := { state := .lost },
          selected := some 0,
          switchTo := some ⟨1, 5001, false⟩ } }
      (fun s => decide (s.blk.running = true) && (let d : Fin 2 := 0; decide ((s.blk.dom d.val).state ≠ .lost ∧ (s.blk.cRole = true ∨
        (s.blk.dom (1 - d.val)).state ≠ .lost ∨ s.blk.time.holdover = true) ∧ s.blk.cRole = true ∧ s.blk.time.selected = some d) &&
        (s.blk.time.switchTo.any fun w => decide (w.orbit = false ∧ w.target ≠ d.val ∧
        w.from_ ≤ if s.blk.topology ≠ 0 then s.blk.time.now + 1 else s.blk.time.now + 2 + if s.blk.twin.lost = true then 0 else s.blk.mirrorDelay)))) = true ∧
    meets { bC with time := { bC.time with domA := { state := .qualified, residual := 5 }, domB := { state := .qualified }, selected := some 0 } }
      (fun s => decide (s.blk.running = true) && (let d : Fin 2 := 1; decide ((s.blk.dom d.val).state ≠ .lost ∧ (s.blk.cRole = true ∨
        (s.blk.dom (1 - d.val)).state ≠ .lost ∨ s.blk.time.holdover = true) ∧ (s.blk.cRole = false ∨ s.blk.time.selected ≠ some d)))) = true ∧
    meets { bF with time := { bF.time with domA := { state := .qualified }, selected := some 0 } }
      (fun s => decide (s.blk.running = true) && (let d : Fin 2 := 0; decide ((s.blk.dom d.val).state ≠ .lost ∧ s.blk.cRole = false ∧
        (s.blk.dom (1 - d.val)).state = .lost ∧ s.blk.time.holdover = false))) = true ∧
    meets { bC with
      sets := { act := some { folio := { fol with topology := 1 } } },
      time := { bC.time with
          domA := { state := .qualified, residual := 5 },
          domB := { state := .lost },
          selected := some 0,
          switchTo := some ⟨1, 5001, false⟩ } }
      (fun s => decide (s.blk.writable hdr 2629636 1 = true) && (let dom : BitVec 8 := 0; decide (dom.toNat < 2 ∧
        (s.blk.dom dom.toNat).state = .qualified))) = true ∧
    meets { bC with
      sets := { act := some { folio := { fol with topology := 1 } } },
      time := { bC.time with
          domA := { state := .qualified, residual := 5 },
          domB := { state := .lost },
          selected := some 0,
          switchTo := some ⟨1, 5001, false⟩ } }
      (fun s => decide (s.blk.writable hdr 2629636 1 = true) && (let dom : BitVec 8 := 1; decide (dom.toNat < 2 ∧
        (s.blk.dom dom.toNat).state ≠ .qualified))) = true ∧
    meets { bC with
      sets := { act := some { folio := { fol with topology := 1 } } },
      time := { bC.time with
          domA := { state := .qualified, residual := 5 },
          domB := { state := .lost },
          selected := some 0,
          switchTo := some ⟨1, 5001, false⟩ } }
      (fun s => decide (s.blk.writable hdr 2629636 1 = true) && (let dom : BitVec 8 := 2; decide (2 ≤ dom.toNat))) = true ∧
    meets { bC with time := { bC.time with domA := { state := .qualified, residual := 5 }, switchTo := some ⟨0, 5000, false⟩ } }
      (fun s => decide (s.blk.running = true) && (s.blk.time.switchTo.any fun w => decide (w.from_ ≤ s.blk.time.now ∧
        (w.orbit = true → s.blk.time.slot = 0)) && (let d : Fin 2 := 0; decide (w.target = d.val ∧ (s.blk.dom d.val).state = .qualified)))) = true ∧
    meets { bC with time := { bC.time with domA := { state := .qualified, residual := 5 }, switchTo := some ⟨2, 5000, false⟩ } }
      (fun s => decide (s.blk.running = true) && (s.blk.time.switchTo.any fun w => decide ((w.from_ ≤ s.blk.time.now ∧
        (w.orbit = true → s.blk.time.slot = 0)) ∧ w.target = 2 ∧ (∀ (d : Fin 2),
        s.blk.time.selected = some d → (s.blk.dom (1 - ↑d)).state ≠ .qualified)))) = true ∧
    meets { bC with
      sets := { act := some { folio := { fol with topology := 1 } } },
      time := { bC.time with
          domA := { state := .qualified, residual := 5 },
          domB := { state := .lost },
          selected := some 0,
          switchTo := some ⟨1, 5001, false⟩ } }
      (fun s => decide (s.blk.running = true) && (s.blk.time.switchTo.any fun w => decide (¬(w.from_ ≤ s.blk.time.now ∧
        (w.orbit = true → s.blk.time.slot = 0))))) = true := by decide +kernel

/-- The premises of each clause of TicksRaiseTheirSource are met. -/
theorem meets_TicksRaiseTheirSource :
    meets { bC with time := { bC.time with holdover := true, domA := { state := .acquiring, residual := 2097152 } } }
      (fun s => decide (s.blk.running = true ∧ s.blk.time.holdover = true ∧ s.blk.unqualifiable ≠ [])) = true ∧
    meets { bF with dict := { canA := { state := 1 } } }
      (fun s => decide (s.blk.served = true ∧ (s.blk.can false).state ≠ 0)) = true ∧
    meets { bF with env := { voted := [0, 1, 2, 3, 4] } }
      (fun s => decide (4 < s.blk.env.voted.length)) = true := by decide +kernel

/-- The premises of each clause of ResyncNamesItsCrossing are met. -/
theorem meets_ResyncNamesItsCrossing :
    meets bF
      (fun s => decide (s.blk.obeys = true ∧ s.blk.cRole = false) && (let count : BitVec 17 := 3; decide ((s.blk.direct = true → count.toNat ≠ 0) ∧
        s.blk.time.now < s.blk.commandHeader + count.toNat))) = true ∧
    meets bF
      (fun s => decide (s.blk.obeys = true ∧ s.blk.cRole = false) && (let count : BitVec 17 := 0; decide ((s.blk.direct = true → count.toNat ≠ 0) ∧
        s.blk.commandHeader + count.toNat ≤ s.blk.time.now))) = true ∧
    meets { bF with sets := { act := some { folio := { fol with topology := 2 } } } }
      (fun s => decide (s.blk.obeys = true ∧ s.blk.cRole = false ∧ s.blk.direct = true) && (let count : BitVec 17 := 0;
        decide (count.toNat = 0))) = true ∧
    meets bC
      (fun s => decide (s.blk.obeys = true ∧ s.blk.cRole = true)) = true := by decide +kernel

/-- The premises of each clause of ResyncTakesEffect are met. -/
theorem meets_ResyncTakesEffect :
    meets { bC with time := { bC.time with resync := some ⟨5000, none, 4990⟩ } }
      (fun s => decide (s.blk.running = true) && (s.blk.time.resync.any fun r => decide (r.at_ ≤ s.blk.time.now))) = true ∧
    meets { bC with time := { bC.time with resync := some ⟨5000, none, 4990⟩ } }
      (fun s => decide (s.blk.running = true) && (s.blk.time.resync.any fun r => decide (r.at_ ≤ s.blk.time.now ∧ s.blk.cRole = true))) = true ∧
    meets { bC with time := { bC.time with resync := some ⟨5000, none, 4990⟩ } }
      (fun s => decide (s.blk.running = true) && (s.blk.time.resync.any fun r => decide (r.at_ ≤ s.blk.time.now ∧ s.blk.cRole = true ∧
        s.blk.acc.external = none ∧ s.blk.acc.waiting = [] ∧ s.blk.acc.forcedDue = false))) = true ∧
    meets { bC with time := { bC.time with mergeE := some 5000 } }
      (fun s => decide (s.blk.running = true ∧ s.blk.cRole = true) && (s.blk.time.mergeE.any fun e =>
        decide (e + s.blk.fW ≤ s.blk.time.now))) = true ∧
    meets { bC with time := { bC.time with mergeE := some 5001 } }
      (fun s => decide (s.blk.running = true ∧ s.blk.cRole = true) && (s.blk.time.mergeE.any fun e =>
        decide (s.blk.time.now < e + s.blk.fW))) = true := by decide +kernel

/-- The premises of each clause of BoundariesCountCrossings are met. -/
theorem meets_BoundariesCountCrossings :
    meets bF
      (fun s => decide (s.blk.running = true ∧ s.blk.time.everLocked = true ∧ s.blk.lastSlot = false)) = true ∧
    meets { bF with time := { bF.time with slot := 4095 } }
      (fun s => decide (s.blk.running = true ∧ s.blk.time.everLocked = true ∧ s.blk.lastSlot = true)) = true ∧
    meets { bF with time := { bF.time with slot := 4095 } }
      (fun s => decide (s.blk.running = true ∧ s.blk.time.everLocked = true ∧ s.blk.lastSlot = true ∧ s.blk.resyncNext = false)) = true ∧
    meets { bF with time := {} }
      (fun s => decide (s.blk.served = true ∧ (s.blk.running && s.blk.time.everLocked) = false)) = true := by decide +kernel

/-- The premises of each clause of AcceptedWritesWait are met. -/
theorem meets_AcceptedWritesWait :
    meets bF
      (fun s => let value : List Byte := [100, 0]; let sub : BitVec 8 := 5; let index : BitVec 16 := 0x1050;
        decide (s.blk.writable hdr (index.toNat * 256 + sub.toNat) value.length = true ∧ plainEntry (index.toNat * 256 + sub.toNat) = true ∧
        s.blk.accessIs Access.rw (index.toNat * 256 + sub.toNat) = true ∧
        (s.blk.taken hdr).takesValue (index.toNat * 256 + sub.toNat) (cleaned (index.toNat * 256 + sub.toNat) (natLE value)) = true)) = true ∧
    meets bF
      (fun s => let value : List Byte := [255]; let sub : BitVec 8 := 1; let index : BitVec 16 := 0x1050;
        decide (s.blk.writable hdr (index.toNat * 256 + sub.toNat) value.length = true ∧ plainEntry (index.toNat * 256 + sub.toNat) = true ∧
        s.blk.accessIs Access.rw (index.toNat * 256 + sub.toNat) = true ∧
        (s.blk.taken hdr).takesValue (index.toNat * 256 + sub.toNat) (cleaned (index.toNat * 256 + sub.toNat) (natLE value)) = false)) = true ∧
    meets bF
      (fun s => decide (s.blk.writable hdr 1053955 1 = true) && (let slot : BitVec 8 := 0; decide (slot.toNat ≤ 1))) = true ∧
    meets bF
      (fun s => let side : Fin 2 := 0; decide (s.blk.writable hdr (2637825 + side.val) 4 = true) && (let d : BitVec 32 := 0;
        decide (d.toNat ≤ 1048575))) = true ∧
    meets bF
      (fun s => let word : Fin 8 := 0; decide (s.blk.writable hdr (7864577 + word.val) 4 = true)) = true ∧
    meets bF
      (fun s => decide (s.blk.writable hdr 7077892 8 = true)) = true ∧
    meets bC
      (fun s => decide (s.blk.writable hdr 6815746 1 = true) && (let value : BitVec 8 := 1; decide (1 ≤ value.toNat ∧ value.toNat ≤ 254 ∧
        (s.blk.twin.w0At ≠ 0 → value.toNat ≠ bits (BitVec.toNat s.blk.twin.w0) 55 48)))) = true ∧
    meets { bC with twin := { w0At := 9, w0 := BitVec.ofNat 64 (254 * 2 ^ 48) } }
      (fun s => decide (s.blk.writable hdr 6815746 1 = true) && (let value : BitVec 8 := 254; decide (1 ≤ value.toNat ∧ value.toNat ≤ 254 ∧
        s.blk.twin.w0At ≠ 0 ∧ value.toNat = bits (BitVec.toNat s.blk.twin.w0) 55 48))) = true := by decide +kernel

/-- The premises of each clause of RuledWritesWait are met. -/
theorem meets_RuledWritesWait :
    meets { bF with frm := { lanes := [(0, { rx := .retired })] } }
      (fun s => let l : Lane := 0; decide (s.blk.writable hdr (5832705 + 256 * l.val) 4 = true) && (let value : BitVec 32 := 0x800000;
        decide (laneConfigOk value.toNat = true))) = true ∧
    meets { bF with frm := { lanes := [(0, { rx := .retired })] } }
      (fun s => let l : Lane := 0; decide (s.blk.writable hdr (5832705 + 256 * l.val) 4 = true) && (let value : BitVec 32 := 0;
        decide (laneConfigOk value.toNat = false))) = true ∧
    meets bF
      (fun s => let l : Lane := 0; decide (s.blk.writable hdr (prbsKey l.val 1) 1 = true ∧ (s.blk.lane l.val).rx ≠ .retired ∧
        (s.blk.lane l.val).tx ≠ .retired)) = true ∧
    meets { bF with frm := { lanes := [(0, { rx := .retired })] } }
      (fun s => let l : Lane := 0; decide (s.blk.writable hdr (prbsKey l.val 1) 1 = true ∧ (s.blk.lane l.val).rx = .retired)) = true ∧
    meets { bF with frm := { lanes := [(0, { rx := .retired })] } }
      (fun s => let p : Fin 16 := 0; decide (s.blk.writable hdr (progKey p.val 1) 4 = true ∧ s.blk.iu.campaign ≠ some p.val) &&
        (let config : BitVec 32 := 0;
        decide ((progConfig (cleaned (progKey p.val 1) config.toNat)).testBit 31 = true → (s.blk.taken hdr).progValid p.val (progConfig (cleaned (progKey p.val 1) config.toNat)) = true))) = true ∧
    meets { bF with iu := { campaign := some 15 } }
      (fun s => let p : Fin 16 := 15; decide (s.blk.writable hdr (progKey p.val 1) 4 = true ∧ s.blk.iu.campaign = some p.val)) = true ∧
    meets { bF with frm := { lanes := [(0, { rx := .retired })] } }
      (fun s => let u : Fin 16 := 0; decide (s.blk.writable hdr (cvuKey u.val 8) 8 = true ∧ s.blk.cvuForeign hdr u.val = false) &&
        (let value : Word64 := 0; decide (BitVec.toNat value < 2 ^ s.blk.cvuWidth u.val))) = true ∧
    meets { bF with frm := { lanes := [(0, { rx := .retired })] } }
      (fun s => decide (s.blk.writable hdr 1053699 8 = true ∧ s.blk.cRole = false) && (let orbit : Word64 := 0;
        decide (BitVec.toNat orbit < 2 ^ 48))) = true ∧
    meets { bF with frm := { lanes := [(0, { rx := .retired })] } }
      (fun s => decide (s.blk.writable hdr 1053699 8 = true ∧ s.blk.cRole = false) && (let orbit : Word64 := 0x1000000000000;
        decide (2 ^ 48 ≤ BitVec.toNat orbit))) = true ∧
    meets bC
      (fun s => decide (s.blk.writable hdr 1053699 8 = true ∧ s.blk.cRole = true)) = true := by decide +kernel

/-- The premises of each clause of RowsAreWritesOfTheirEntries are met. -/
theorem meets_RowsAreWritesOfTheirEntries :
    meets bF
      (fun s => decide (hdr.path = 0 ∧ hdr.pair = false) && (let sub : BitVec 8 := 1; let index : BitVec 16 := 0x1050;
        decide (s.blk.accessIs Access.rw (index.toNat * 256 + sub.toNat) = true))) = true ∧
    meets bF
      (fun _ => decide (hdr.path = 0 ∧ hdr.pair = false)) = true ∧
    meets bF
      (fun _ => decide (hdr.path = 0 ∧ hdr.pair = false)) = true ∧
    meets bF
      (fun _ => decide (hdr.path = 0 ∧ hdr.pair = false)) = true ∧
    meets bF
      (fun _ => decide (hdr.path = 0 ∧ hdr.pair = false)) = true ∧
    meets bF
      (fun _ => decide (hdr.path = 0 ∧ hdr.pair = false)) = true ∧
    meets bF
      (fun _ => decide (hdr.path = 0 ∧ hdr.pair = false)) = true ∧
    meets bF
      (fun _ => decide (hdr.path = 0 ∧ hdr.pair = false)) = true ∧
    meets bF
      (fun _ => decide (hdr.path = 0 ∧ hdr.pair = false)) = true ∧
    meets bF
      (fun _ => decide (hdr.path = 0 ∧ hdr.pair = false)) = true ∧
    meets bF
      (fun _ => decide (hdr.path = 0 ∧ hdr.pair = false)) = true := by decide +kernel

/-- The premises of each clause of SwapsAreArmedAndDisarmed are met. -/
theorem meets_SwapsAreArmedAndDisarmed :
    meets { bF with sets := { bF.sets with shd := { state := .verified, folio := fol } } }
      (fun s => decide (s.blk.writable hdr 2101760 8 = true) && (let orbit : Word64 := 0; decide (BitVec.toNat orbit < 2 ^ 48))) = true ∧
    meets { bF with sets := { bF.sets with shd := { state := .verified, folio := fol } } }
      (fun s => decide (s.blk.writable hdr 2101760 8 = true) && (let orbit : Word64 := 0x1000000000000;
        decide (2 ^ 48 ≤ BitVec.toNat orbit))) = true ∧
    meets { bF with sets := { bF.sets with shd := { state := .verified, folio := fol } } }
      (fun s => decide (s.blk.writable hdr 2101760 8 = true)) = true ∧
    meets { bF with sets := { bF.sets with shd := { state := .verified, folio := fol } } }
      (fun s => decide (s.blk.obeys = true ∧ s.blk.sets.armed = none) && (let orbit : BitVec 44 := 0;
        decide ((s.blk.swapCause (s.blk.orbitMatching orbit.toNat)).1 = 0))) = true ∧
    meets { bF with sets := { bF.sets with shd := { state := .verified, folio := fol } } }
      (fun s => decide (s.blk.obeys = true ∧ s.blk.sets.armed = none) && (let orbit : BitVec 44 := 7;
        decide ((s.blk.swapCause (s.blk.orbitMatching orbit.toNat)).1 ≠ 0))) = true ∧
    meets { bF with sets := { bF.sets with armed := some 10 } }
      (fun s => decide (s.blk.obeys = true) && (let orbit : BitVec 44 := 10;
        decide (s.blk.sets.armed = some (s.blk.orbitMatching orbit.toNat)))) = true ∧
    meets { bF with sets := { bF.sets with armed := some 10 } }
      (fun s => decide (s.blk.obeys = true) && (s.blk.sets.armed.any fun m => let orbit : BitVec 44 := 0;
        decide (m ≠ s.blk.orbitMatching orbit.toNat))) = true ∧
    meets { bF with
      sets := { bF.sets with
          act := some { folio := fol, entries := [(0x2A0001, 9367487224930631690), (0x2A0002, 281474976710856)] },
          shd := { state := .verified, folio := fol } },
      boot := { bF.boot with released := true } }
      (fun s => decide (s.blk.running = true) && (let entry : BitVec 8 := 0; decide (s.blk.ttActs entry.toNat 2 = true ∧ s.blk.sets.armed = none ∧
        (s.blk.swapCause (s.blk.swapTarget (s.blk.ttArg entry.toNat))).1 = 0))) = true ∧
    meets { bF with
      sets := { bF.sets with act := some { folio := fol, entries := [(0x2A0001, 9367487224930631680), (0x2A0002, 281474976710856)] } },
      boot := { bF.boot with released := true } }
      (fun s => decide (s.blk.running = true) && (let entry : BitVec 8 := 0; decide (s.blk.ttActs entry.toNat 2 = true ∧ s.blk.sets.armed = none ∧
        (s.blk.swapCause (s.blk.swapTarget (s.blk.ttArg entry.toNat))).1 ≠ 0))) = true := by decide +kernel

/-- The premises of each clause of SwapsExchangeTheSets are met. -/
theorem meets_SwapsExchangeTheSets :
    meets { bF with sets := { bF.sets with armed := some 7, shd := { state := .verified, folio := fol } }, time := { bF.time with slot := 0 } }
      (fun s => decide (s.blk.running = true ∧ s.blk.swapDue = true)) = true ∧
    meets { bF with sets := { bF.sets with heldFrom := some 904 }, time := { bF.time with slot := 0 } }
      (fun s => decide (s.blk.running = true) && (s.blk.sets.heldFrom.any fun x => decide (s.blk.time.slot = 0 ∧ x + 4096 ≤ s.blk.time.now ∧
        s.blk.sets.waiting = none))) = true ∧
    meets { bF with
      sets := { bF.sets with heldFrom := some 904, waiting := some { edits := 3 }, staging := .waiting },
      time := { bF.time with slot := 0 } }
      (fun s => decide (s.blk.running = true) && (s.blk.sets.heldFrom.any fun x => decide (s.blk.time.slot = 0 ∧ x + 4096 ≤ s.blk.time.now) &&
        (s.blk.sets.waiting.any fun _ => true))) = true ∧
    meets { bF with sets := { bF.sets with heldFrom := some 905 }, time := { bF.time with slot := 0 } }
      (fun s => decide (s.blk.running = true) && (s.blk.sets.heldFrom.any fun x => decide (s.blk.time.slot = 0 ∧ s.blk.time.now < x + 4096))) = true := by decide +kernel

/-- The premises of each clause of RsWritesEditTheShadow are met. -/
theorem meets_RsWritesEditTheShadow :
    meets bF
      (fun s => let value : List Byte := [0, 1, 0, 0]; let sub : BitVec 8 := 4; let index : BitVec 16 := 0x4800;
        decide (s.blk.writable hdr (index.toNat * 256 + sub.toNat) value.length = true) &&
        ((s.blk.entryOf ((index.toNat * 256 + sub.toNat) / 256) ((index.toNat * 256 + sub.toNat) % 256)).any fun d => decide (d.access = .rs ∧
        s.blk.shadowBusy = true))) = true ∧
    meets { bF with sets := { bF.sets with shd := { state := .verified, folio := fol } } }
      (fun s => let value : List Byte := [255]; let sub : BitVec 8 := 3; let index : BitVec 16 := 0x4800;
        decide (s.blk.writable hdr (index.toNat * 256 + sub.toNat) value.length = true) &&
        ((s.blk.entryOf ((index.toNat * 256 + sub.toNat) / 256) ((index.toNat * 256 + sub.toNat) % 256)).any fun d => decide (d.access = .rs ∧
        s.blk.shadowBusy = false ∧
        (s.blk.taken hdr).rsCode s.blk.sets.shd d (index.toNat * 256 + sub.toNat) (cleaned (index.toNat * 256 + sub.toNat) (natLE value)) ≠ 0))) = true ∧
    meets { bF with sets := { bF.sets with shd := { state := .verified, folio := fol } } }
      (fun s => let value : List Byte := [0, 1, 0, 0]; let sub : BitVec 8 := 4; let index : BitVec 16 := 0x4800;
        decide (s.blk.writable hdr (index.toNat * 256 + sub.toNat) value.length = true) &&
        ((s.blk.entryOf ((index.toNat * 256 + sub.toNat) / 256) ((index.toNat * 256 + sub.toNat) % 256)).any fun d => decide (d.access = .rs ∧
        s.blk.shadowBusy = false ∧
        (s.blk.taken hdr).rsCode s.blk.sets.shd d (index.toNat * 256 + sub.toNat) (cleaned (index.toNat * 256 + sub.toNat) (natLE value)) = 0))) = true ∧
    meets bF
      (fun s => let entry : BitVec 8 := 0; decide (s.blk.writable hdr (2752513 + 256 * entry.toNat + 0) 8 = true) &&
        ((s.blk.entryOf ((2752513 + 256 * entry.toNat + 0) / 256) ((2752513 + 256 * entry.toNat + 0) % 256)).any fun d => decide (d.access = .rs ∧
        s.blk.shadowBusy = true))) = true ∧
    meets { bF with sets := { bF.sets with shd := { state := .verified, folio := fol } } }
      (fun s => let entry : BitVec 8 := 0; decide (s.blk.writable hdr (2752513 + 256 * entry.toNat + 0) 8 = true) &&
        ((s.blk.entryOf ((2752513 + 256 * entry.toNat + 0) / 256) ((2752513 + 256 * entry.toNat + 0) % 256)).any fun d => decide (d.access = .rs ∧
        s.blk.shadowBusy = false) && (let value : Word64 := 0;
        decide ((s.blk.taken hdr).rsCode s.blk.sets.shd d (2752513 + 256 * entry.toNat + 0) (cleaned (2752513 + 256 * entry.toNat + 0) (BitVec.toNat value)) = 0)))) = true := by decide +kernel

/-- The premises of each clause of EntriesOpenAndClose are met. -/
theorem meets_EntriesOpenAndClose :
    meets { bF with
      chans := [(0, { bank0 := .taken 10240000 10242048, entries := [{ leadSlot := 200, leadPt := ⟨8, 0⟩, leadAt := 5000, bank := some 0 }], high := true })] }
      (fun s => decide (s.blk.edgesRun = true) && (let level : ℤ := 0xF4240; let c : Ch := 255; decide (ltMost s.blk c.val ≤ level ∧
        (s.blk.chan c.val).openEntry = none) && (let p : Point := { cycle := 0x00#5, phase := 0x00#6 }; decide ((∀ (l : ℕ),
        (s.blk.chan c.val).lastLead = some l → l + 512 ≤ s.blk.absAt p) ∧ s.blk.chMasked c.val = false)))) = true ∧
    meets { bF with chans := [(0, {})], chMask := 1 }
      (fun s => decide (s.blk.edgesRun = true) && (let level : ℤ := 0xF4240; let c : Ch := 0; decide (ltMost s.blk c.val ≤ level ∧
        (s.blk.chan c.val).openEntry = none) && (let p : Point := { cycle := 0x00#5, phase := 0x00#6 }; decide ((∀ (l : ℕ),
        (s.blk.chan c.val).lastLead = some l → l + 512 ≤ s.blk.absAt p) ∧ s.blk.chMasked c.val = true)))) = true ∧
    meets { bF with
      chans := [(0, { bank0 := .taken 10240000 10242048, entries := [{ leadSlot := 200, leadPt := ⟨8, 0⟩, leadAt := 5000, bank := some 0 }], high := true })] }
      (fun s => decide (s.blk.edgesRun = true) && (let level : ℤ := -1000000; let c : Ch := 0; decide (level < ltLeast s.blk c.val))) = true ∧
    meets { bF with
      chans := [(0, { bank0 := .taken 10240000 10242048, entries := [{ leadSlot := 200, leadPt := ⟨8, 0⟩, leadAt := 5000, bank := some 0 }], high := true })] }
      (fun s => decide (s.blk.edgesRun = true) && (let level : ℤ := 0xF4240; let c : Ch := 0; decide (ltMost s.blk c.val < level))) = true ∧
    meets { bF with
      chans := [(0, { bank0 := .taken 10240000 10242048, entries := [{ leadSlot := 200, leadPt := ⟨8, 0⟩, leadAt := 5000, bank := some 0 }], high := true })] }
      (fun s => decide (s.blk.edgesRun = true) && (let level : ℤ := -1000000; let c : Ch := 255; decide (level ≤ ltLeast s.blk c.val ∧
        (s.blk.chan c.val).openEntry = none))) = true ∧
    meets { bF with
      chans := [(0, { bank0 := .taken 10240000 10242048, entries := [{ leadSlot := 200, leadPt := ⟨8, 0⟩, leadAt := 5000, bank := some 0 }], high := true })] }
      (fun s => decide (s.blk.edgesRun = true) && (let c : Ch := 0; ((s.blk.chan c.val).openEntry).any fun e => let level : ℤ := -1000000;
        decide (level ≤ ltLeast s.blk c.val) && (let p : Point := { cycle := 0x08#5, phase := 0x00#6 }; decide (e.lead ≤ s.blk.absAt p ∧
        s.blk.absAt p < e.lead + 512)))) = true ∧
    meets { bF with
      chans := [(0, { bank0 := .taken 10240000 10242048, entries := [{ leadSlot := 200, leadPt := ⟨8, 0⟩, leadAt := 5000, bank := some 0 }], high := true })] }
      (fun s => decide (s.blk.edgesRun = true) && (let c : Ch := 0; ((s.blk.chan c.val).openEntry).any fun e => let level : ℤ := -1000000;
        decide (level ≤ ltLeast s.blk c.val) && (let p : Point := { cycle := 0x1f#5, phase := 0x3f#6 }; decide (e.lead + 512 ≤ s.blk.absAt p ∧
        s.blk.absAt p < e.lead + 8192)))) = true ∧
    meets { bF with
      chans := [(0, { bank0 := .taken 10240000 10242048, entries := [{ leadSlot := 200, leadPt := ⟨0, 0⟩, leadAt := 4996, bank := some 0 }], high := true })] }
      (fun s => decide (s.blk.edgesRun = true) && (let c : Ch := 0; ((s.blk.chan c.val).openEntry).any fun e => let level : ℤ := -1000000;
        decide (level ≤ ltLeast s.blk c.val) && (let p : Point := { cycle := 0x00#5, phase := 0x00#6 };
        decide (e.lead + 8192 ≤ s.blk.absAt p)))) = true ∧
    meets { bF with
      chans := [(0, { bank0 := .taken 10240000 10242048, entries := [{ leadSlot := 200, leadPt := ⟨0, 0⟩, leadAt := 5000, bank := some 0, fallAt := some 10240100 }], high := true })] }
      (fun s => decide (s.blk.edgesRun = true) && (let c : Ch := 0; ((s.blk.chan c.val).openEntry).any fun e => e.fallAt.any fun _ =>
        decide (e.lead + 512 < 2048 * (s.blk.time.now + 1)))) = true ∧
    meets { bF with
      chans := [(0, { bank0 := .taken 10240000 10242048, entries := [{ leadSlot := 200, leadPt := ⟨0, 0⟩, leadAt := 5000, bank := some 0, fallAt := some 10240100 }], high := true })] }
      (fun s => decide (s.blk.edgesRun = true) && (let c : Ch := 0; ((s.blk.chan c.val).openEntry).any fun e => let level : ℤ := 0xF4240;
        decide (ltMost s.blk c.val ≤ level) && (e.fallAt.any fun _ => let p : Point := { cycle := 0x00#5, phase := 0x00#6 };
        decide (s.blk.absAt p < e.lead + 512)))) = true ∧
    meets { bF with
      chans := [(0, { bank0 := .taken 10240000 10242048, entries := [{ leadSlot := 200, leadPt := ⟨0, 0⟩, leadAt := 4996, bank := some 0 }], high := true })] }
      (fun s => decide (s.blk.edgesRun = true) && (let c : Ch := 0; ((s.blk.chan c.val).openEntry).any fun e => decide (e.fallAt = none ∧
        e.lead + 8192 < 2048 * (s.blk.time.now + 1)))) = true := by decide +kernel

/-- The premises of each clause of ChannelsAreServed are met. -/
theorem meets_ChannelsAreServed :
    meets { bF with chans := [(0, { lastHt := some 10239489 })] }
      (fun s => decide (s.blk.edgesRun = true) && (let level : ℤ := -1000000; let c : Ch := 0; decide (level < htLeast s.blk c.val))) = true ∧
    meets { bF with chans := [(0, { lastHt := some 10239489 })] }
      (fun s => decide (s.blk.edgesRun = true) && (let c : Ch := 0; ((s.blk.chan c.val).lastHt).any fun h =>
        let p : Point := { cycle := 0x00#5, phase := 0x00#6 }; decide (s.blk.absAt p < h + 512))) = true ∧
    meets { bF with
      chans := [(0, { entries := [{ leadSlot := 200, leadPt := ⟨0, 0⟩, leadAt := 5000, bank := some 0 }], lastHt := some 10239488 })] }
      (fun s => decide (s.blk.edgesRun = true) && (let level : ℤ := 0xF4240; let c : Ch := 0; decide (htMost s.blk c.val ≤ level) &&
        (let p : Point := { cycle := 0x00#5, phase := 0x00#6 }; decide (((s.blk.chan c.val).lastHt).all fun h => h + 512 ≤ s.blk.absAt p) &&
        (((s.blk.chan c.val).openEntry).any fun e => decide (e.htDelta = none))))) = true ∧
    meets { bF with chans := [(0, { entries := [{ leadSlot := 200, leadPt := ⟨0, 0⟩, leadAt := 5000, bank := some 0, htDelta := some 5 }] })] }
      (fun s => decide (s.blk.edgesRun = true) && (let level : ℤ := 0xF4240; let c : Ch := 0; decide (htMost s.blk c.val ≤ level) &&
        (let p : Point := { cycle := 0x00#5, phase := 0x00#6 }; decide (((s.blk.chan c.val).lastHt).all fun h => h + 512 ≤ s.blk.absAt p) &&
        (((s.blk.chan c.val).openEntry).any fun e => decide (e.htDelta ≠ none))))) = true ∧
    meets { bF with chans := [(0, { lastHt := some 10239489 })] }
      (fun s => decide (s.blk.edgesRun = true) && (let level : ℤ := 0xF4240; let c : Ch := 0; decide (htMost s.blk c.val ≤ level) &&
        (let p : Point := { cycle := 0x07#5, phase := 0x3f#6 }; decide ((((s.blk.chan c.val).lastHt).all fun h => h + 512 ≤ s.blk.absAt p) ∧
        (s.blk.chan c.val).openEntry = none ∧ s.blk.chMasked c.val = false)))) = true ∧
    meets { bF with chans := [(0, { htPend := [10239999, 10242047] })] }
      (fun s => decide (s.blk.edgesRun = true) && (let c : Ch := 0; decide (List.filter (fun h =>
        decide (h + 2048 < 2048 * (s.blk.time.now + 1))) (s.blk.chan c.val).htPend ≠ []))) = true ∧
    meets { bF with chans := [(0, { bank1 := .taken 10238000 10242047 })] }
      (fun s => decide (s.blk.edgesRun = true) && (let n : Fin 2 := 1; let c : Ch := 0; takenThen ((s.blk.chan c.val).bank n.val) fun lead due =>
        decide (due < 2048 * (s.blk.time.now + 1)))) = true ∧
    meets { bF with chans := [(0, { bank1 := .taken 10238000 10242048 })] }
      (fun s => decide (s.blk.edgesRun = true) && (let n : Fin 2 := 1; let c : Ch := 0; takenThen ((s.blk.chan c.val).bank n.val) fun lead due =>
        decide (2048 * (s.blk.time.now + 1) ≤ due))) = true ∧
    meets { bF with chans := [(0, { lastHt := some 10239489 })] }
      (fun s => decide (s.blk.edgesRun = true) && (let n : Fin 2 := 0; let c : Ch := 0; !takenThen ((s.blk.chan c.val).bank n.val) fun _ _ =>
        true)) = true ∧
    meets { bF with chans := [(0, { settle := some 5000 })], chMask := 1 }
      (fun s => let c : Ch := 0; ((s.blk.chan c.val).settle).any fun t => decide (t ≤ s.blk.time.now)) = true ∧
    meets { bF with chans := [(0, { settle := some 5001 })], chMask := 1 }
      (fun s => let c : Ch := 0; ((s.blk.chan c.val).settle).any fun t => decide (s.blk.time.now < t)) = true ∧
    meets { bF with
      chans := [(0, { timer := 4000 })],
      sets := { act := some { folio := fol, entries := [(0x490001, 2147483648), (0x480004, 1000)] } } }
      (fun s => decide (s.blk.edgesRun = true) && (let c : Ch := 0; decide (s.blk.chMasked c.val = false ∧ s.blk.chWatched c.val = true ∧
        s.blk.timerFrom c.val + s.blk.rs 4718596 ≤ s.blk.time.now ∧ (s.blk.rs (4784129 + 256 * c.val)).testBit 30 = false))) = true ∧
    meets { bF with
      chans := [(0, { timer := 4000 })],
      sets := { act := some { folio := fol, entries := [(0x490001, 2147483648), (0x480004, 1000)] } } }
      (fun s => decide (s.blk.edgesRun = true) && (let c : Ch := 0; decide (s.blk.chMasked c.val = false ∧ s.blk.chWatched c.val = true ∧
        s.blk.timerFrom c.val + s.blk.rs 4718596 ≤ s.blk.time.now ∧ (s.blk.rs (4784129 + 256 * c.val)).testBit 30 = false ∧
        (s.blk.chan c.val).silent = false))) = true ∧
    meets { bF with
      chans := [(0, { timer := 4000, bank0 := .taken 10238000 10240100 })],
      sets := { act := some { folio := fol, entries := [(0x490001, 3221225472), (0x480004, 1000)] } } }
      (fun s => decide (s.blk.edgesRun = true) && (let c : Ch := 0; decide (s.blk.chMasked c.val = false ∧ s.blk.chWatched c.val = true ∧
        s.blk.timerFrom c.val + s.blk.rs 4718596 ≤ s.blk.time.now ∧ (s.blk.rs (4784129 + 256 * c.val)).testBit 30 = true) &&
        (((s.blk.chan c.val).freeBank).any fun _ => true))) = true := by decide +kernel

/-- The premises of each clause of EntriesAreClassified are met. -/
theorem meets_EntriesAreClassified :
    meets { bF with chans := [(0, { entries := [{ leadSlot := 200, leadPt := ⟨0, 0⟩, leadAt := 5000, bank := some 0 }] })] }
      (fun s => decide (s.blk.running = true ∧ s.blk.cRole = false) && (let c : Ch := 0; headThen ((s.blk.chan c.val).entries) fun e _ =>
        decide (e.ready s.blk.time.now = false))) = true ∧
    meets { bF with
      chans := [(0, { entries := [{ leadSlot := 200, leadPt := ⟨0, 0⟩, leadAt := 4000, bank := some 0, closed := some 4001, amp := .codes 100 200, tot := 40, settled := 4500 }] })],
      sets := { act := some { folio := fol, entries := [(0x480001, 500)] } } }
      (fun s => decide (s.blk.running = true ∧ s.blk.cRole = false) && (let c : Ch := 0; headThen ((s.blk.chan c.val).entries) fun e _ =>
        decide (e.ready s.blk.time.now = true) && ((s.blk.discardedBy c.val e).any fun _ => true))) = true ∧
    meets { bF with
      chans := [(0, { entries := [{ leadSlot := 200, leadPt := ⟨0, 0⟩, leadAt := 4000, bank := some 0, closed := some 4001, amp := .codes 100 200, tot := 40, settled := 4500 }] })] }
      (fun s => decide (s.blk.running = true ∧ s.blk.cRole = false) && (let c : Ch := 0; headThen ((s.blk.chan c.val).entries) fun e _ =>
        decide (e.ready s.blk.time.now = true ∧ s.blk.discardedBy c.val e = none))) = true := by decide +kernel

/-- The premises of each clause of BinCalibrationIterates are met. -/
theorem meets_BinCalibrationIterates :
    meets { bF with dict := { bF.dict with regs := [(0x400101, 1), (0x400102, 1)] }, bin := { since := 3 } }
      (fun s => let counts : List ℕ := List.replicate 64 4096; decide (counts.length = 64 ∧ s.blk.running = true ∧
        s.blk.time.everLocked = true)) = true ∧
    meets { bF with dict := { bF.dict with regs := [(0x400101, 2), (0x400102, 0)] }, bin := { since := 0 } }
      (fun s => let counts : List ℕ := List.replicate 64 4096; decide (counts.length = 64 ∧ s.blk.running = true ∧ s.blk.time.everLocked = true ∧
        s.blk.reg 4194562 ≠ 1)) = true ∧
    meets { bF with dict := { bF.dict with regs := [(0x400101, 1), (0x400102, 1)] }, bin := { since := 3 } }
      (fun s => let counts : List ℕ := List.replicate 64 4096; decide (counts.length = 64 ∧ s.blk.running = true ∧ s.blk.time.everLocked = true ∧
        s.blk.reg 4194562 = 1 ∧ s.blk.reg 4194561 ≠ 2 ∧ (worstBin counts).1 ≤ 1024)) = true ∧
    meets { bF with dict := { bF.dict with regs := [(0x400101, 1), (0x400102, 1)] }, bin := { since := 15 } }
      (fun s => let counts : List ℕ := [5121, 3071] ++ List.replicate 62 4096; decide (counts.length = 64 ∧ s.blk.running = true ∧
        s.blk.time.everLocked = true ∧ s.blk.reg 4194562 = 1 ∧ s.blk.reg 4194561 = 1 ∧ 1024 < (worstBin counts).1 ∧ 15 ≤ s.blk.bin.since)) = true ∧
    meets { bF with dict := { bF.dict with regs := [(0x400101, 2), (0x400102, 1)] }, bin := { since := 0 } }
      (fun s => let counts : List ℕ := [5325, 2867] ++ List.replicate 62 4096; decide (counts.length = 64 ∧ s.blk.running = true ∧
        s.blk.time.everLocked = true ∧ s.blk.reg 4194561 = 2 ∧ 3 * 4096 < 10 * (worstBin counts).1)) = true := by decide +kernel

/-- The premises of each clause of WindowsOpenAndShotsEnd are met. -/
theorem meets_WindowsOpenAndShotsEnd :
    meets { bF with dict := { bF.dict with regs := [(0x401002, 1)] }, iu := {} }
      (fun s => decide (s.blk.running = true ∧ s.blk.time.everLocked = true ∧ s.blk.reg 4198402 ≠ 0)) = true ∧
    meets { bF with dict := { bF.dict with regs := [(0x401002, 1)] }, iu := {} }
      (fun s => decide (s.blk.running = true ∧ s.blk.time.everLocked = true ∧ s.blk.reg 4198402 = 1 ∧ (s.blk.iu.window.all fun (q, a) =>
        s.blk.time.now < a + s.blk.windowLen q) = true ∧ ((s.blk.reg (progKey (s.blk.reg 4198401 % 16) 1)).testBit 31 = false ∨
        s.blk.reg 4198401 % 16 ∈ s.blk.iu.ended))) = true ∧
    meets { bF with dict := { bF.dict with regs := [(0x401002, 0), (progKey 0 1, 2149580800)] }, iu := {} }
      (fun s => decide (s.blk.running = true ∧ s.blk.time.everLocked = true ∧ s.blk.reg 4198402 = 0 ∧
        (s.blk.reg (progKey (s.blk.reg 4198401 % 16) 1)).testBit 31 = true ∧ s.blk.reg 4198401 % 16 ∉ s.blk.iu.ended ∧
        s.blk.iu.armsAt ≠ s.blk.time.now ∧ s.blk.iu.window = none ∧ (s.blk.iu.campaign = none ∨
        s.blk.iu.campaign = some (s.blk.reg 4198401 % 16)))) = true ∧
    meets { bF with
      dict := { bF.dict with regs := [(progKey 0 1, 2149581312), (progKey 0 2, 1), (progKey 0 3, 2)] },
      iu := { campaign := some 0, window := some (0, 4999) } }
      (fun s => decide (s.blk.running = true ∧ s.blk.time.everLocked = true ∧ s.blk.reg 4198402 = 0 ∧
        (s.blk.reg (progKey (s.blk.reg 4198401 % 16) 1)).testBit 31 = true ∧ s.blk.reg 4198401 % 16 ∉ s.blk.iu.ended ∧
        s.blk.iu.armsAt ≠ s.blk.time.now ∧ (s.blk.iu.window.all fun (q, a) => s.blk.time.now < a + s.blk.windowLen q) = true ∧
        s.blk.iu.window.isSome = true)) = true ∧
    meets { bF with
      dict := { bF.dict with regs := [(progKey 0 1, 2149581312), (progKey 0 2, 1), (progKey 0 3, 2)] },
      iu := { campaign := some 0, window := some (0, 4999) } }
      (fun s => s.blk.iu.window.any fun (n, a) => decide (s.blk.time.now < a + (bits (s.blk.reg (progKey n 1)) 18 9 + 1))) = true ∧
    meets { bF with
      dict := { bF.dict with regs := [(progKey 0 1, 2149580800), (progKey 0 2, 1), (progKey 0 3, 2)] },
      iu := { campaign := some 0, window := some (0, 4999) } }
      (fun s => s.blk.iu.window.any fun (n, a) => decide (a + (bits (s.blk.reg (progKey n 1)) 18 9 + 1) ≤ s.blk.time.now ∧
        s.blk.iu.firstEdge a (bits (s.blk.reg (progKey n 1)) 18 9 + 1) (s.blk.reg (progKey n 2)) = none)) = true ∧
    meets { bF with
      dict := { bF.dict with regs := [(progKey 0 1, 2149580800), (progKey 0 2, 1), (progKey 0 3, 2)] },
      iu := { campaign := some 0, window := some (0, 4999), edges := [(1, 4999, 10237957)] } }
      (fun s => s.blk.iu.window.any fun (n, a) => decide (a + (bits (s.blk.reg (progKey n 1)) 18 9 + 1) ≤ s.blk.time.now ∧
        s.blk.iu.firstEdge a (bits (s.blk.reg (progKey n 1)) 18 9 + 1) (s.blk.reg (progKey n 2)) ≠ none ∧
        s.blk.iu.shots + 1 < 2 ^ bits (s.blk.reg (progKey n 1)) 23 19)) = true ∧
    meets { bF with
      dict := { bF.dict with regs := [(progKey 0 1, 2149580800), (progKey 0 2, 1), (progKey 0 3, 2)] },
      iu := { campaign := some 0, window := some (0, 4999), edges := [(1, 4999, 10237957)], shots := 15 } }
      (fun s => s.blk.iu.window.any fun (n, a) => decide (a + (bits (s.blk.reg (progKey n 1)) 18 9 + 1) ≤ s.blk.time.now ∧
        s.blk.iu.firstEdge a (bits (s.blk.reg (progKey n 1)) 18 9 + 1) (s.blk.reg (progKey n 2)) ≠ none ∧
        2 ^ bits (s.blk.reg (progKey n 1)) 23 19 ≤ s.blk.iu.shots + 1)) = true := by decide +kernel

/-- The premises of each clause of PeriodsAndRuns are met. -/
theorem meets_PeriodsAndRuns :
    meets { bF with fuses := { slices := [⟨0, 65536, List.replicate 14 1000⟩] }, adc := { carrel := some 0, runDone := 65536 } }
      (fun s => let codes : List Conv := List.replicate 33 { code := 0x064#12, dev := 3, metastable := false }; decide (codes.length = 33 ∧
        s.blk.arrayRuns = true ∧ s.blk.adc.period < 2 * s.blk.time.now + 0)) = true ∧
    meets { bF with
      adc := {
          period := 9999,
          bound := [(3, 4, { ch := 0, bank := 0, elig := 10001 }, false)],
          pairs := [{ ch := 0, bank := 0, elig := 9998 }, { ch := 0, bank := 1, elig := 9999 }] } }
      (fun s => let codes : List Conv := List.replicate 33 { code := 0x064#12, dev := 3, metastable := false }; decide (codes.length = 33 ∧
        s.blk.arrayRuns = true ∧ s.blk.adc.period < 2 * s.blk.time.now + 0) && ((s.blk.adc.bound).any fun x => true)) = true ∧
    meets { bF with
      adc := {
          period := 9999,
          bound := [(3, 4, { ch := 0, bank := 0, elig := 10001 }, false)],
          pairs := [{ ch := 0, bank := 0, elig := 9998 }, { ch := 0, bank := 1, elig := 9999 }] } }
      (fun s => let codes : List Conv := List.replicate 33 { code := 0x064#12, dev := 3, metastable := false }; decide (codes.length = 33 ∧
        s.blk.arrayRuns = true ∧ s.blk.adc.period < 2 * s.blk.time.now + 0) &&
        (((after (Instr.slotPeriodStart false codes) s).adc.pairs).any fun p => true)) = true ∧
    meets { bF with
      adc := {
          period := 9999,
          due := true,
          carrel := some 0,
          newCoef := some ⟨0, 65536, List.replicate 14 1000⟩,
          slices := [(0, { rank := none, accepted := true }), (1, { rank := some 0, accepted := true }), (2, { rank := some 1, accepted := true })] } }
      (fun s => let codes : List Conv := List.replicate 33 { code := 0x064#12, dev := 3, metastable := false }; decide (codes.length = 33 ∧
        s.blk.arrayRuns = true ∧ s.blk.adc.period < 2 * s.blk.time.now + 0 ∧ s.blk.adc.jobs = [] ∧ s.blk.adc.joining = [] ∧ (∀ x ∈ s.blk.adc.slices,
        x.2.condemned = false) ∧ s.blk.adc.due = true) && (s.blk.adc.carrel.any fun c => s.blk.adc.newCoef.any fun _ =>
        (s.blk.nextSlice c).any fun o => decide (o ≠ c ∧ s.blk.boundTo o = false))) = true ∧
    meets { bF with
      adc := {
          period := 10000,
          bound := [(3, 4, { ch := 0, bank := 0, elig := 10001 }, false)],
          pairs := [{ ch := 0, bank := 0, elig := 9998 }, { ch := 0, bank := 1, elig := 9999 }] } }
      (fun s => let codes : List Conv := List.replicate 33 { code := 0x064#12, dev := 3, metastable := false }; decide (codes.length = 33 ∧
        s.blk.arrayRuns = true ∧ 2 * s.blk.time.now + 0 ≤ s.blk.adc.period)) = true ∧
    meets { bF with fuses := { slices := [⟨0, 65536, List.replicate 14 1000⟩] }, adc := { carrel := some 0, runDone := 65536 } }
      (fun s => let r : CalResult := { offset := 512, gain := 66846, weights := List.replicate 14 1040 }; decide (r.weights.length = 14) &&
        (s.blk.adc.carrel.any fun c => decide (s.blk.arrayRuns = true ∧ s.blk.adc.frozen = false ∧ s.blk.adc.due = false ∧
        s.blk.runLength ≤ s.blk.adc.runDone ∧ calCheck (s.blk.sliceFuse c) r = 0))) = true ∧
    meets { bF with fuses := { slices := [⟨0, 65536, List.replicate 14 1000⟩] }, adc := { carrel := some 0, runDone := 65536 } }
      (fun s => let r : CalResult := { offset := 513, gain := 65536, weights := List.replicate 14 1000 }; decide (r.weights.length = 14) &&
        (s.blk.adc.carrel.any fun c => decide (s.blk.arrayRuns = true ∧ s.blk.adc.frozen = false ∧ s.blk.adc.due = false ∧
        s.blk.runLength ≤ s.blk.adc.runDone ∧ calCheck (s.blk.sliceFuse c) r ≠ 0))) = true := by decide +kernel

/-- The premises of each clause of StacksTakeAndRelease are met. -/
theorem meets_StacksTakeAndRelease :
    meets { bF with
      stk := { formed := [{ region := 15, record := 7, cross := 4990, at_ := 4999 }, { region := 2, record := 8, cross := 4990, at_ := 5000 }] } }
      (fun s => decide (s.blk.running = true ∧ s.blk.cRole = false)) = true ∧
    meets { bF with
      stk := { formed := [{ region := 15, record := 7, cross := 4990, at_ := 4999 }, { region := 2, record := 8, cross := 4990, at_ := 5000 }] } }
      (fun s => decide (s.blk.running = true ∧ s.blk.cRole = false) && (let r : Fin 16 := 0; decide (1 ≠ r.val))) = true ∧
    meets { bF with stk := { formed := [{ region := 15, record := 7, cross := 4990, at_ := 4999 }], list := [(15, { wp := 2047, rp := 1 })] } }
      (fun s => decide (s.blk.running = true ∧ s.blk.cRole = false) && (oneThen s.blk.stk.formed fun f => let r : Fin 16 := 15;
        decide (s.blk.forStack r.val f = true ∧ (s.blk.stack r.val).occupancy < 2048))) = true ∧
    meets { bF with
      stk := { formed := [{ region := 15, record := 7, cross := 4990, at_ := 4999 }, { region := 2, record := 8, cross := 4990, at_ := 5000 }] } }
      (fun s => decide (s.blk.running = true ∧ s.blk.cRole = false)) = true ∧
    meets { bF with
      stk := {
          list := [(3, { wp := 2, rp := 0, entries := [{ addr := 0, record := 7, cross := 100, written := 101 }, { addr := 1, record := 7, cross := 4999, written := 5000 }] })] } }
      (fun s => decide (s.blk.running = true ∧ s.blk.cRole = false) && (headThen ((s.blk.stack 3).entries) fun e _ =>
        decide (e.cross + s.blk.holdSpan e.cross ≤ s.blk.time.now ∧ s.blk.pinned 3 e = false))) = true ∧
    meets { bF with
      stk := { accs := [{ cross := 4990, kind := 0, q := 0, p := 0, read := 5000, got := 4991, late := false, mark := none }] },
      sets := { bF.sets with act := some { folio := fol, entries := [(0x4A0007, 0)] } } }
      (fun s => decide (s.blk.running = true ∧ s.blk.cRole = false) && (oneThen s.blk.stk.accs fun a => decide (a.read ≤ s.blk.time.now ∧
        a.mark = none ∧ s.blk.stk.scans = [] ∧ ((List.range 16).all fun r => (s.blk.scanPart a r).todo.isEmpty &&
        (s.blk.scanPart a r).wds.isEmpty) = true ∧ s.blk.rsAt a.cross 4849671 ≠ 1 ∧ (s.blk.queue 0).waits = false ∧
        (s.blk.queue 0).room 1024 true = true ∧ (s.blk.queue 0).open_.length < 4))) = true := by decide +kernel

/-- The premises of each clause of QueuesTakeAndCloseWords are met. -/
theorem meets_QueuesTakeAndCloseWords :
    meets { bF with queues := [(0, { words := (List.replicate 1024 ⟨0, [], 0, false⟩) })] }
      (fun s => let q : BitVec 8 := 0; decide (queueIn s.blk.cRole q.toNat = true ∧ (s.blk.queue q.toNat).waits = false) && (let w : Word64 := 0;
        decide ({ word := w, cross := s.blk.time.now : QRec }.control = false ∧
        (s.blk.queue q.toNat).room (queueCapacity q.toNat) true = false))) = true ∧
    meets { bF with queues := [(0, { words := (List.replicate 1024 ⟨0, [], 0, false⟩) })] }
      (fun s => let q : BitVec 8 := 0; decide (queueIn s.blk.cRole q.toNat = true ∧ (s.blk.queue q.toNat).waits = false) && (let w : Word64 := 0;
        decide ({ word := w, cross := s.blk.time.now : QRec }.control = false ∧ (s.blk.queue q.toNat).room (queueCapacity q.toNat) true = false ∧
        1 ≠ q.toNat))) = true ∧
    meets { bF with queues := [(0, { words := (List.replicate 1024 ⟨0, [], 0, false⟩) })] }
      (fun s => let q : BitVec 8 := 1; decide (queueIn s.blk.cRole q.toNat = true ∧ (s.blk.queue q.toNat).waits = false) && (let w : Word64 := 0;
        decide ((s.blk.queue q.toNat).room (queueCapacity q.toNat) { word := w, cross := s.blk.time.now : QRec }.control = true ∧
        (s.blk.queue q.toNat).open_.length < 4))) = true ∧
    meets { bF with queues := [(0, { words := (List.replicate 1024 ⟨0, [], 0, false⟩) })] }
      (fun s => let q : BitVec 8 := 1; decide (queueIn s.blk.cRole q.toNat = true ∧ (s.blk.queue q.toNat).waits = false) && (let w : Word64 := 0;
        decide ((s.blk.queue q.toNat).room (queueCapacity q.toNat) { word := w, cross := s.blk.time.now : QRec }.control = true ∧
        (s.blk.queue q.toNat).open_.length < 4 ∧ 0 ≠ q.toNat))) = true ∧
    meets { bF with queues := [(2, { open_ := List.replicate 4 { word := 1 } })] }
      (fun s => let q : BitVec 8 := 2; decide (queueIn s.blk.cRole q.toNat = true ∧ (s.blk.queue q.toNat).waits = false) && (let w : Word64 := 0;
        decide ((s.blk.queue q.toNat).room (queueCapacity q.toNat) { word := w, cross := s.blk.time.now : QRec }.control = true ∧
        4 ≤ (s.blk.queue q.toNat).open_.length))) = true ∧
    meets { bF with queues := [(2, { open_ := List.replicate 4 { word := 1 } })] }
      (fun s => let q : BitVec 8 := 2; decide (queueIn s.blk.cRole q.toNat = true ∧ (s.blk.queue q.toNat).waits = false) && (let w : Word64 := 0;
        decide ((s.blk.queue q.toNat).room (queueCapacity q.toNat) { word := w, cross := s.blk.time.now : QRec }.control = true ∧
        4 ≤ (s.blk.queue q.toNat).open_.length ∧ 0 ≠ q.toNat))) = true ∧
    meets { bF with queues := [(2, { open_ := List.replicate 3 { word := 1 } })] }
      (fun s => let q : BitVec 8 := 2; decide (queueIn s.blk.cRole q.toNat = true ∧ s.blk.qStale q.toNat = true)) = true ∧
    meets { bF with queues := [(2, { open_ := List.replicate 3 { word := 1 } })] }
      (fun s => let q : BitVec 8 := 2; decide (queueIn s.blk.cRole q.toNat = true ∧ s.blk.qStale q.toNat = true ∧ 0 ≠ q.toNat)) = true ∧
    meets { bF with queues := [(0, { words := (List.replicate 1024 ⟨0, [], 0, false⟩) })] }
      (fun s => let q : BitVec 8 := 0; decide (queueIn s.blk.cRole q.toNat = true ∧ s.blk.qStale q.toNat = false)) = true ∧
    meets { bF with queues := [(0, { hold := [{ word := 1 }], open_ := [{ word := 1 }, { word := 1 }, { word := 1 }] })] }
      (fun s => let q : BitVec 8 := 0; decide (queueIn s.blk.cRole q.toNat = true) && (oneThen ((s.blk.queue q.toNat).hold) fun _ =>
        decide ((s.blk.queue q.toNat).refused = [] ∧ (s.blk.queue q.toNat).room (queueCapacity q.toNat) true = true ∧
        (s.blk.queue q.toNat).open_.length < 4))) = true ∧
    meets { bF with queues := [(0, { hold := [{ word := 1 }], open_ := [{ word := 1 }, { word := 1 }, { word := 1 }] })] }
      (fun s => let q : BitVec 8 := 0; decide (queueIn s.blk.cRole q.toNat = true) && (oneThen ((s.blk.queue q.toNat).hold) fun _ =>
        decide ((s.blk.queue q.toNat).refused = [] ∧ (s.blk.queue q.toNat).room (queueCapacity q.toNat) true = true ∧
        (s.blk.queue q.toNat).open_.length < 4 ∧ 1 ≠ q.toNat))) = true ∧
    meets { bF with queues := [(0, { words := (List.replicate 1024 ⟨0, [], 0, false⟩) })] }
      (fun s => let q : BitVec 8 := 0; decide (queueIn s.blk.cRole q.toNat = true ∧ (s.blk.queue q.toNat).hold = [] ∧
        (s.blk.queue q.toNat).refused = [])) = true := by decide +kernel

/-- The premises of each clause of CommandsActOrAreLate are met. -/
theorem meets_CommandsActOrAreLate :
    meets bF
      (fun s => decide (s.blk.obeys = true)) = true ∧
    meets bF
      (fun s => decide (s.blk.obeys = true) && (let count : BitVec 12 := 0; decide (s.blk.commandHeader + count.toNat ≤ s.blk.time.now))) = true ∧
    meets bF
      (fun s => decide (s.blk.obeys = true) && (let count : BitVec 12 := 3; decide (s.blk.time.now < s.blk.commandHeader + count.toNat ∧
        s.blk.cRole = false ∧ tabFind s.blk.boot.resetting 1 = none))) = true ∧
    meets { bF with boot := { bF.boot with resetting := [(1, 9000)] } }
      (fun s => decide (s.blk.obeys = true) && (let count : BitVec 12 := 3; decide (s.blk.time.now < s.blk.commandHeader + count.toNat ∧
        s.blk.cRole = false ∧ (tabFind s.blk.boot.resetting 1).isSome = true))) = true ∧
    meets bC
      (fun s => decide (s.blk.obeys = true) && (let count : BitVec 12 := 16; decide (s.blk.time.now < s.blk.commandHeader + count.toNat ∧
        s.blk.cRole = true))) = true ∧
    meets bF
      (fun s => decide (s.blk.obeys = true) && (let count : BitVec 12 := 0; decide (s.blk.commandHeader + count.toNat ≤ s.blk.time.now))) = true ∧
    meets bF
      (fun s => decide (s.blk.obeys = true) && (let count : BitVec 12 := 3; decide (s.blk.time.now < s.blk.commandHeader + count.toNat ∧
        tabFind s.blk.boot.resetting 2 = none))) = true := by decide +kernel

/-- The premises of each clause of AcceptsAreTaken are met. -/
theorem meets_AcceptsAreTaken :
    meets bF
      (fun s => decide (s.blk.obeys = true) && (let kind : BitVec 2 := 3; decide (kind.toNat = 3 ∨ (s.blk.cRole = true ∨ s.blk.topology = 2) ∧
        kind.toNat ≠ 0))) = true ∧
    meets bF
      (fun s => decide (s.blk.obeys = true) && (let kind : BitVec 2 := 0; decide (¬(kind.toNat = 3 ∨ (s.blk.cRole = true ∨ s.blk.topology = 2) ∧
        kind.toNat ≠ 0)) && (let slot : BitVec 14 := 0; let orbit : BitVec 2 := 0;
        decide (s.blk.acceptCross orbit.toNat slot.toNat = none)))) = true ∧
    meets { bC with boot := { bC.boot with released := true } }
      (fun s => decide (s.blk.obeys = true) && (let kind : BitVec 2 := 0; decide (¬(kind.toNat = 3 ∨ (s.blk.cRole = true ∨ s.blk.topology = 2) ∧
        kind.toNat ≠ 0)) && (let slot : BitVec 14 := 0; let orbit : BitVec 2 := 3; (s.blk.acceptCross orbit.toNat slot.toNat).any fun _ =>
        decide (s.blk.cRole = true ∧ s.blk.boot.released = true)))) = true ∧
    meets bC
      (fun s => decide (s.blk.obeys = true) && (let kind : BitVec 2 := 0; decide (¬(kind.toNat = 3 ∨ (s.blk.cRole = true ∨ s.blk.topology = 2) ∧
        kind.toNat ≠ 0)) && (let slot : BitVec 14 := 0; let orbit : BitVec 2 := 3; (s.blk.acceptCross orbit.toNat slot.toNat).any fun _ =>
        decide (s.blk.cRole = true ∧ s.blk.boot.released = false)))) = true ∧
    meets { bF with sets := { act := some { folio := { fol with topology := 2 } } } }
      (fun s => decide (s.blk.obeys = true) && (let kind : BitVec 2 := 0; decide (¬(kind.toNat = 3 ∨ (s.blk.cRole = true ∨ s.blk.topology = 2) ∧
        kind.toNat ≠ 0)) && (let slot : BitVec 14 := 0; let orbit : BitVec 2 := 3; (s.blk.acceptCross orbit.toNat slot.toNat).any fun _ =>
        decide (s.blk.cRole = false ∧ s.blk.topology = 2)))) = true ∧
    meets bF
      (fun s => decide (s.blk.obeys = true) && (let kind : BitVec 2 := 0; decide (¬(kind.toNat = 3 ∨ (s.blk.cRole = true ∨ s.blk.topology = 2) ∧
        kind.toNat ≠ 0)) && (let slot : BitVec 14 := 0; let orbit : BitVec 2 := 3; (s.blk.acceptCross orbit.toNat slot.toNat).any fun x =>
        decide (s.blk.cRole = false ∧ s.blk.topology ≠ 2 ∧ s.blk.streaming x = false)))) = true ∧
    meets bF
      (fun s => decide (s.blk.obeys = true) && (let kind : BitVec 2 := 0; decide (¬(kind.toNat = 3 ∨ (s.blk.cRole = true ∨ s.blk.topology = 2) ∧
        kind.toNat ≠ 0)) && (let slot : BitVec 14 := 0; let orbit : BitVec 2 := 3; (s.blk.acceptCross orbit.toNat slot.toNat).any fun x =>
        decide (s.blk.cRole = false ∧ s.blk.topology ≠ 2 ∧ s.blk.streaming x = false ∧
        decide (s.blk.readCrossing x ≤ s.blk.time.now) = true)))) = true ∧
    meets { bC with sets := { act := some { folio := fol, entries := [(0x483001, 1), (0x483002, 1000)] } }, acc := { lastFwd := 4000 } }
      (fun s => decide (s.blk.running = true ∧ s.blk.cRole = true ∧ s.blk.rs 4730881 = 1 ∧
        s.blk.acc.lastFwd + s.blk.rs 4730882 ≤ s.blk.time.now)) = true ∧
    meets bF
      (fun s => decide (s.blk.running = true ∧ s.blk.rs 4730881 ≠ 1)) = true ∧
    meets { bC with acc := { waiting := [⟨4980, 9, 4984⟩, ⟨4990, 1, 4995⟩] } }
      (fun s => decide (s.blk.running = true) && (headThen s.blk.acc.waiting fun q _ => decide (q.made + 16 ≤ s.blk.time.now))) = true ∧
    meets { bC with acc := { waiting := [⟨4980, 9, 4985⟩, ⟨4990, 1, 4995⟩] } }
      (fun s => decide (s.blk.running = true) && (headThen s.blk.acc.waiting fun q _ => decide (s.blk.time.now < q.made + 16))) = true := by decide +kernel

/-- The premises of each clause of ClaimsActAtTheirUnit are met. -/
theorem meets_ClaimsActAtTheirUnit :
    meets { bC with sets := { act := some { folio := { fol with topology := 1 } } } }
      (fun s => decide (s.blk.obeys = true ∧ s.blk.cRole = true ∧ s.blk.boot.unitB = false) && (let v : BitVec 8 := 1; decide (1 ≤ v.toNat ∧
        v.toNat ≤ 254 ∧ s.blk.topology ≠ 0))) = true ∧
    meets { bC with twin := { state := .active } }
      (fun s => decide (s.blk.obeys = true ∧ s.blk.cRole = true ∧ s.blk.boot.unitB = false) && (let v : BitVec 8 := 1; decide (1 ≤ v.toNat ∧
        v.toNat ≤ 254 ∧ s.blk.topology = 0 ∧ (s.blk.twin.w0At = 0 ∨ v.toNat ≠ bits (BitVec.toNat s.blk.twin.w0) 55 48)))) = true ∧
    meets { bC with sets := { act := some { folio := { fol with topology := 1 } } } }
      (fun s => decide (s.blk.obeys = true ∧ s.blk.cRole = true ∧ s.blk.boot.unitB = false) && (let v : BitVec 8 := 0; decide (v.toNat = 0 ∨
        v.toNat = 255 ∨ s.blk.topology = 0 ∧ s.blk.twin.w0At ≠ 0 ∧ v.toNat = bits (BitVec.toNat s.blk.twin.w0) 55 48))) = true ∧
    meets { bC with twin := { state := .active, w0At := 4999, w0 := BitVec.ofNat 64 (2 ^ 61) } }
      (fun s => decide (s.blk.obeys = true ∧ s.blk.cRole = true ∧ s.blk.boot.unitB = false ∧ s.blk.topology = 0 ∧ (s.blk.twin.state = .active ∨
        s.blk.twin.state = .standby) ∧ s.blk.partnerRuns = true)) = true ∧
    meets { bC with twin := { state := .active } }
      (fun s => decide (s.blk.obeys = true ∧ s.blk.cRole = true ∧ s.blk.boot.unitB = false ∧ s.blk.topology = 0 ∧ (s.blk.twin.state = .active ∨
        s.blk.twin.state = .standby) ∧ s.blk.partnerRuns = false)) = true ∧
    meets { bC with twin := { state := .held } }
      (fun s => decide (s.blk.obeys = true ∧ s.blk.cRole = true ∧ s.blk.boot.unitB = false ∧ s.blk.topology = 0 ∧ s.blk.twin.state = .held)) = true ∧
    meets { bC with sets := { act := some { folio := { fol with topology := 1 } } } }
      (fun s => decide (s.blk.obeys = true ∧ s.blk.cRole = true ∧ s.blk.boot.unitB = false ∧ s.blk.topology ≠ 0)) = true ∧
    meets { bC with sets := { act := some { folio := { fol with topology := 1 } } } }
      (fun s => decide (s.blk.obeys = true ∧ (s.blk.cRole = false ∨ s.blk.boot.unitB ≠ true))) = true ∧
    meets { bC with sets := { act := some { folio := { fol with topology := 1 } } } }
      (fun s => decide (s.blk.obeys = true ∧ (s.blk.cRole = false ∨ s.blk.boot.unitB ≠ true))) = true := by decide +kernel

/-- The premises of each clause of FastWritesAct are met. -/
theorem meets_FastWritesAct :
    meets bC
      (fun s => decide (s.blk.obeys = true) && (let path : BitVec 6 := 0; decide (s.blk.cRole = true ∧ path.toNat = 0 ∨ s.blk.cRole = false ∧
        (path.toNat = 63 ∨ path.toNat = s.blk.ownPort)) && (let v : BitVec 8 := 0; let sub : BitVec 8 := 1; let idx : BitVec 16 := 0x4010;
        decide (s.blk.fastOk (idx.toNat * 256 + sub.toNat) v.toNat = true ∧ tabFind s.blk.boot.resetting (blockOf idx.toNat) = none ∧
        valueEntry (idx.toNat * 256 + sub.toNat) = true)))) = true ∧
    meets bC
      (fun s => decide (s.blk.obeys = true) && (let path : BitVec 6 := 0; decide (s.blk.cRole = true ∧ path.toNat = 0 ∨ s.blk.cRole = false ∧
        (path.toNat = 63 ∨ path.toNat = s.blk.ownPort)) && (let v : BitVec 8 := 0; let sub : BitVec 8 := 1; let idx : BitVec 16 := 0x4010;
        decide (s.blk.fastOk (idx.toNat * 256 + sub.toNat) v.toNat = true ∧ tabFind s.blk.boot.resetting (blockOf idx.toNat) = none ∧
        valueEntry (idx.toNat * 256 + sub.toNat) = true ∧ 0 ≠ idx.toNat * 256 + sub.toNat)))) = true ∧
    meets { bF with boot := { bF.boot with resetting := [(2, 9000)] } }
      (fun s => decide (s.blk.obeys = true) && (let path : BitVec 6 := 0; decide (s.blk.cRole = true ∧ path.toNat = 0 ∨ s.blk.cRole = false ∧
        (path.toNat = 63 ∨ path.toNat = s.blk.ownPort)) && (let v : BitVec 8 := 0; let sub : BitVec 8 := 1; let idx : BitVec 16 := 0x4010;
        decide (s.blk.fastOk (idx.toNat * 256 + sub.toNat) v.toNat = true ∧
        (tabFind s.blk.boot.resetting (blockOf idx.toNat)).isSome = true)))) = true ∧
    meets bC
      (fun s => decide (s.blk.obeys = true) && (let path : BitVec 6 := 0; decide (s.blk.cRole = true ∧ path.toNat = 0 ∨ s.blk.cRole = false ∧
        (path.toNat = 63 ∨ path.toNat = s.blk.ownPort)) && (let v : BitVec 8 := 0; let sub : BitVec 8 := 0; let idx : BitVec 16 := 0;
        decide (s.blk.fastOk (idx.toNat * 256 + sub.toNat) v.toNat = false)))) = true ∧
    meets bC
      (fun s => decide (s.blk.obeys = true ∧ s.blk.cRole = true) && (let path : BitVec 6 := 1; decide (path.toNat ≠ 0))) = true ∧
    meets bF
      (fun s => decide (s.blk.obeys = true ∧ s.blk.cRole = false) && (let path : BitVec 6 := 1; decide (path.toNat ≠ 63 ∧
        path.toNat ≠ s.blk.ownPort))) = true := by decide +kernel

/-- The premises of each clause of TimetableActs are met. -/
theorem meets_TimetableActs :
    meets { bF with
      sets := { act := some { folio := fol, entries := [(0x2A0001, 9223372036854775808), (0x2A0002, 281474976710856)] } },
      boot := { bF.boot with released := true } }
      (fun s => decide (s.blk.running = true) && (let entry : BitVec 8 := 0; decide (s.blk.ttActs entry.toNat 0 = true))) = true ∧
    meets { bF with
      sets := {
          act := some { folio := fol, entries := [(0x2A0001, 9295429635187671008), (0x2A0002, 281474976710856), (0x310001, 2147484148), (0x310101, 500)] } },
      boot := { bF.boot with released := true },
      time := { bF.time with calDone := [(5000, 1, ⟨3, 3⟩)] } }
      (fun s => decide (s.blk.running = true) && (let entry : BitVec 8 := 0; decide (s.blk.ttActs entry.toNat 1 = true ∧
        tabFind s.blk.boot.resetting 1 = none))) = true ∧
    meets { bF with
      sets := {
          act := some { folio := fol, entries := [(0x2A0001, 9295429635187671008), (0x2A0002, 281474976710856), (0x310001, 2147484148), (0x310101, 500)] } },
      boot := { bF.boot with released := true },
      time := { bF.time with calDone := [(5000, 1, ⟨3, 3⟩)] } }
      (fun s => decide (s.blk.running = true) && (let entry : BitVec 8 := 0; decide (s.blk.ttActs entry.toNat 1 = true ∧
        tabFind s.blk.boot.resetting 1 = none) && (let c : Ch := 1;
        decide (s.blk.injects c.val (bits (s.blk.ttArg entry.toNat) 31 16) = false)))) = true ∧
    meets { bF with
      sets := {
          act := some { folio := fol, entries := [(0x2A0001, 9295429635187671008), (0x2A0002, 281474976710856), (0x310001, 2147484148), (0x310101, 500)] } },
      boot := { bF.boot with released := true },
      time := { bF.time with calDone := [(5000, 1, ⟨3, 3⟩)] } }
      (fun s => decide (s.blk.running = true) && (let entry : BitVec 8 := 0; decide (s.blk.ttActs entry.toNat 1 = true ∧
        tabFind s.blk.boot.resetting 1 = none) && (let c : Ch := 0;
        decide (s.blk.injects c.val (bits (s.blk.ttArg entry.toNat) 31 16) = true)))) = true ∧
    meets { bF with
      sets := { act := some { folio := fol, entries := [(0x2A0001, 9439544818968560639), (0x2A0002, 281474976710856)] } },
      boot := { bF.boot with released := true } }
      (fun s => decide (s.blk.running = true) && (let entry : BitVec 8 := 0; decide (s.blk.ttActs entry.toNat 3 = true ∧
        tabFind s.blk.boot.resetting 3 = none))) = true ∧
    meets { bF with
      sets := { act := some { folio := fol, entries := [(0x2A0001, 9511602413006487567), (0x2A0002, 281474976710856)] } },
      boot := { bF.boot with released := true },
      dict := { bF.dict with regs := [(progKey 15 1, 0x80000000)] } }
      (fun s => decide (s.blk.running = true) && (let entry : BitVec 8 := 0; decide (s.blk.ttActs entry.toNat 4 = true ∧
        tabFind s.blk.boot.resetting 2 = none ∧ (s.blk.reg (progKey (bits (s.blk.ttArg entry.toNat) 3 0) 1)).testBit 31 = true ∧
        bits (s.blk.ttArg entry.toNat) 3 0 ∉ s.blk.iu.ended ∧ s.blk.iu.window = none ∧ (s.blk.iu.campaign = none ∨
        s.blk.iu.campaign = some (bits (s.blk.ttArg entry.toNat) 3 0)) ∧ s.blk.iu.armsAt ≠ s.blk.time.now))) = true ∧
    meets { bC with
      sets := { act := some { folio := fol, entries := [(0x2A0001, 9583660007044481023), (0x2A0002, 281474976710856)] } },
      boot := { bC.boot with released := true } }
      (fun s => decide (s.blk.running = true) && (let entry : BitVec 8 := 0; decide (s.blk.ttActs entry.toNat 5 = true ∧
        s.blk.cRole = true))) = true ∧
    meets { bF with
      sets := { act := some { folio := fol, entries := [(0x2A0001, 9583660007044481023), (0x2A0002, 281474976710856)] } },
      boot := { bF.boot with released := true } }
      (fun s => decide (s.blk.running = true) && (let entry : BitVec 8 := 0; decide (s.blk.ttActs entry.toNat 5 = true ∧ s.blk.cRole = false ∧
        (s.blk.queue 0).waits = false ∧ (s.blk.queue 0).room 1024 true = true ∧ (s.blk.queue 0).open_.length < 4))) = true ∧
    meets { bC with
      sets := { act := some { folio := fol, entries := [(0x2A0001, 9655717601082343424), (0x2A0002, 281474976710856)] } },
      boot := { bC.boot with released := true } }
      (fun s => decide (s.blk.running = true) && (let entry : BitVec 8 := 0; decide (s.blk.ttActs entry.toNat 6 = true ∧
        s.blk.cRole = true))) = true ∧
    meets { bF with
      sets := { act := some { folio := fol, entries := [(0x2A0001, 9655717601082343424), (0x2A0002, 281474976710856)] } },
      boot := { bF.boot with released := true } }
      (fun s => decide (s.blk.running = true) && (let entry : BitVec 8 := 0; decide (s.blk.ttActs entry.toNat 6 = true ∧ s.blk.cRole = false ∧
        (s.blk.queue 0).waits = false ∧ (s.blk.queue 0).room 1024 true = true ∧ (s.blk.queue 0).open_ = []))) = true ∧
    meets { bC with
      sets := { act := some { folio := fol, entries := [(0x2A0001, 9727775195120271361), (0x2A0002, 281474976710856)] } },
      boot := { bC.boot with released := true },
      time := { bF.time with domB := { state := .qualified } } }
      (fun s => decide (s.blk.running = true) && (let entry : BitVec 8 := 0; decide (s.blk.ttActs entry.toNat 7 = true ∧
        (s.blk.dom (bits (s.blk.ttArg entry.toNat) 0 0)).state = .qualified))) = true ∧
    meets { bC with
      sets := { act := some { folio := fol, entries := [(0x2A0001, 9727775195120271360), (0x2A0002, 281474976710856)] } },
      boot := { bC.boot with released := true } }
      (fun s => decide (s.blk.running = true) && (let entry : BitVec 8 := 0; decide (s.blk.ttActs entry.toNat 7 = true ∧
        (s.blk.dom (bits (s.blk.ttArg entry.toNat) 0 0)).state ≠ .qualified))) = true ∧
    meets { bF with
      sets := {
          act := some { folio := fol, entries := [(0x2A0001, 9295429635187671008), (0x2A0002, 281474976710856), (0x310001, 2147484148), (0x310101, 500)] } },
      boot := { bF.boot with released := true },
      time := { bF.time with calDone := [(5000, 1, ⟨3, 3⟩)] } }
      (fun s => decide (s.blk.running = true) && (let entry : BitVec 8 := 1; ([Instr.none entry, Instr.calFire entry, Instr.regularStart entry,
        Instr.measure entry, Instr.timeMark entry, Instr.todMark entry, Instr.domainSwitch entry]).any fun i => (List.range 32).all fun a =>
        !s.blk.ttActs entry.toNat a)) = true := by decide +kernel

/-- The premises of each clause of LanesTrainAndDrop are met. -/
theorem meets_LanesTrainAndDrop :
    meets { bF with frm := { lanes := [(4, { rx := .training, step := 1 })] } }
      (fun s => decide (s.blk.running = true) && (let taps : List ℤ := [-128, 200, 0, 1, 2, 3]; decide (taps.length = 6) && (let l : Lane := 4;
        decide ((s.blk.lane l.val).prbs = 0 ∧ (s.blk.lane l.val).rx = .training ∧ (s.blk.lane l.val).step = 1 ∧ s.blk.env.freeze = false ∧
        (s.blk.reg (5832705 + 256 * l.val)).testBit 2 = false)))) = true ∧
    meets { bF with frm := { lanes := [(4, { rx := .training, step := 1 })] } }
      (fun s => decide (s.blk.running = true) && (let taps : List ℤ := [-128, 200, 0, 1, 2, 3]; decide (taps.length = 6) && (let l : Lane := 4;
        decide ((s.blk.lane l.val).prbs = 0 ∧ (s.blk.lane l.val).rx = .training ∧ (s.blk.lane l.val).step = 1 ∧ s.blk.env.freeze = false ∧
        (s.blk.reg (5832705 + 256 * l.val)).testBit 2 = false) && (decide (s.blk.cRole = false) && ((s.blk.linkOf l.val).any fun k =>
        decide (k.kind = .group ∧ k.first = l.val ∧ s.blk.time.selected = none ∧ s.blk.time.holdover = false)))))) = true ∧
    meets { bF with frm := { lanes := [(4, { rx := .training, step := 1 })] } }
      (fun s => decide (s.blk.running = true) && (let taps : List ℤ := [-128, 200, 0, 1, 2, 3]; decide (taps.length = 6) && (let l : Lane := 4;
        decide ((s.blk.lane l.val).prbs = 0 ∧ (s.blk.lane l.val).rx = .training ∧ (s.blk.lane l.val).step = 1 ∧ s.blk.env.freeze = false ∧
        (s.blk.reg (5832705 + 256 * l.val)).testBit 2 = false) && (decide (0 ≠ l.val))))) = true ∧
    meets { bF with frm := { lanes := [(0, { rx := .training, step := 1 })] }, env := { freeze := true } }
      (fun s => decide (s.blk.running = true) && (let taps : List ℤ := [-128, 200, 0, 1, 2, 3]; decide (taps.length = 6) && (let l : Lane := 0;
        decide ((s.blk.lane l.val).prbs = 0 ∧ ((s.blk.lane l.val).rx ≠ .training ∨ (s.blk.lane l.val).step ≠ 1 ∨ s.blk.env.freeze = true ∨
        (s.blk.reg (5832705 + 256 * l.val)).testBit 2 = true))))) = true ∧
    meets { bF with frm := { lanes := [(4, { rx := .training, step := 1 })] } }
      (fun s => decide (s.blk.running = true) && (let l : Lane := 4; (s.blk.linkOf l.val).any fun k => decide (k.rx = [l.val] ∧
        (s.blk.lane l.val).rx = .training ∧ (s.blk.lane l.val).prbs = 0 ∧ s.blk.rxFrozen l.val = false ∧ (s.blk.lane l.val).step1 = false))) = true ∧
    meets { bF with frm := { lanes := [(4, { rx := .training, step := 1 })] } }
      (fun s => decide (s.blk.running = true) && (let l : Lane := 4; (s.blk.linkOf l.val).any fun k => decide (k.rx = [l.val] ∧
        (s.blk.lane l.val).rx = .training ∧ (s.blk.lane l.val).prbs = 0 ∧ s.blk.rxFrozen l.val = false ∧ (s.blk.lane l.val).step1 = false ∧
        0 ≠ l.val))) = true ∧
    meets { bF with frm := { lanes := [(0, { rx := .training, step := 1 })] }, env := { freeze := true } }
      (fun s => decide (s.blk.running = true) && (let l : Lane := 0; (s.blk.linkOf l.val).any fun k => decide (k.rx = [l.val] ∧
        (s.blk.lane l.val).rx = .training ∧ (s.blk.lane l.val).prbs = 0 ∧ s.blk.rxFrozen l.val = true))) = true ∧
    meets { bF with frm := { lanes := [(0, { rx := .training, step := 1 })] }, env := { freeze := true } }
      (fun s => decide (s.blk.running = true) && (let l : Lane := 1; decide (s.blk.linkOf l.val = none))) = true ∧
    meets { bF with frm := { lanes := [(0, { rx := .training, step := 2, syncBad := [false], goodWords := 63 })] } }
      (fun s => decide (s.blk.running = true) && (let l : Lane := 0; (s.blk.linkOf l.val).any fun k => decide (k.kind ≠ .timing ∧
        (s.blk.lane l.val).prbs = 0) && (let x : LineFrame := onLine ⟨0x7E00000000000000, 0, 0, 0, 0, 0, 0, 0⟩;
        decide (frCode (s.blk.hear l.val x).1 = 126 ∧ (s.blk.lane l.val).rx = .training ∧ (s.blk.lane l.val).step = 2) &&
        ((syncPattern x.sync).any fun _ => true)))) = true ∧
    meets { bF with frm := { lanes := [(0, { rx := .training, step := 2, syncBad := [false], goodWords := 63 })] } }
      (fun s => decide (s.blk.running = true) && (let l : Lane := 0; (s.blk.linkOf l.val).any fun k => decide (k.kind ≠ .timing ∧
        (s.blk.lane l.val).prbs = 0) && (let x : LineFrame := onLine ⟨0x7E00000000000000, 0, 0, 0, 0, 0, 0, 0⟩;
        decide (frCode (s.blk.hear l.val x).1 = 126 ∧ (s.blk.lane l.val).rx = .training ∧ (s.blk.lane l.val).step = 2) &&
        ((syncPattern x.sync).any fun _ => decide (1 ≠ l.val))))) = true ∧
    meets { bF with frm := { lanes := [(0, { rx := .training, step := 1 })] }, env := { freeze := true } }
      (fun s => decide (s.blk.running = true) && (let l : Lane := 0; (s.blk.linkOf l.val).any fun k => decide (k.kind ≠ .timing ∧
        (s.blk.lane l.val).prbs = 0) && (let x : LineFrame := (lineOf 0 true ⟨0x7E00000000000000, 0, 0, 0, 0, 0, 0, 0⟩).1;
        decide (frCode (s.blk.hear l.val x).1 ≠ 126 ∧ (s.blk.lane l.val).rx = .training)))) = true ∧
    meets { bF with frm := { lanes := [(0, { rx := .training, step := 1 })] }, env := { freeze := true } }
      (fun s => decide (s.blk.running = true) && (let l : Lane := 0; (s.blk.linkOf l.val).any fun k => decide (k.kind ≠ .timing ∧
        (s.blk.lane l.val).prbs = 0) && (let x : LineFrame := (lineOf 0 true ⟨0x7E00000000000000, 0, 0, 0, 0, 0, 0, 0⟩).1;
        decide (frCode (s.blk.hear l.val x).1 ≠ 126 ∧ (s.blk.lane l.val).rx = .training) && (decide (1 ≠ l.val))))) = true ∧
    meets { bF with frm := { lanes := [(0, { rx := .training, step := 1 })] }, env := { freeze := true } }
      (fun s => decide (s.blk.running = true) && (let l : Lane := 4; (s.blk.linkOf l.val).any fun k => decide (k.kind ≠ .timing ∧
        (s.blk.lane l.val).prbs = 0 ∧ (s.blk.lane l.val).rx ≠ .training ∧ (s.blk.lane l.val).rx ≠ .active))) = true ∧
    meets { bF with frm := { lanes := [(39, { prbs := 2, chkRun := 1024 })] } }
      (fun s => decide (s.blk.running = true) && (let l : Lane := 39; decide (2 ≤ (s.blk.lane l.val).prbs ∧
        1024 ≤ (s.blk.lane l.val).chkRun))) = true ∧
    meets { bF with frm := { lanes := [(39, { prbs := 2, chkRun := 1024 })] } }
      (fun s => decide (s.blk.running = true) && (let l : Lane := 39; decide (2 ≤ (s.blk.lane l.val).prbs ∧ 1024 ≤ (s.blk.lane l.val).chkRun ∧
        0 ≠ l.val))) = true ∧
    meets { bF with frm := { lanes := [(0, { rx := .training, step := 1 })] }, env := { freeze := true } }
      (fun s => decide (s.blk.running = true) && (let l : Lane := 0; decide ((s.blk.lane l.val).prbs < 2 ∨
        (s.blk.lane l.val).chkRun < 1024))) = true ∧
    meets { bF with frm := { lanes := [(0, { rx := .active })] } }
      (fun s => decide (s.blk.running = true) && (let l : Lane := 0; (s.blk.linkOf l.val).any fun k => decide (k.rx = [l.val] ∧
        (s.blk.lane l.val).rx = .active ∧ (s.blk.lane l.val).last = none ∧ (s.blk.siteTransients (siteId 2 l.val)).length < 15))) = true ∧
    meets { bF with frm := { lanes := [(0, { rx := .active })] } }
      (fun s => decide (s.blk.running = true) && (let l : Lane := 0; (s.blk.linkOf l.val).any fun k => decide (k.rx = [l.val] ∧
        (s.blk.lane l.val).rx = .active ∧ (s.blk.lane l.val).last = none ∧ (s.blk.siteTransients (siteId 2 l.val)).length < 15))) = true ∧
    meets { bF with frm := { lanes := [(0, { rx := .training, step := 1 })] }, env := { freeze := true } }
      (fun s => decide (s.blk.running = true) && (let l : Lane := 0; decide ((s.blk.lane l.val).rx ≠ .active))) = true := by decide +kernel

/-- The premises of each clause of HalvesReturnToStepOne are met. -/
theorem meets_HalvesReturnToStepOne :
    meets { bF with frm := { lanes := [(0, { rx := .training, step := 2, goodWords := 4, attempts := 7 })] } }
      (fun s => decide (s.blk.running = true) && (let l : Lane := 0; decide ((s.blk.lane l.val).rx = .training ∧
        2 ≤ (s.blk.lane l.val).step))) = true ∧
    meets { bF with frm := { lanes := [(0, { rx := .training, step := 2, goodWords := 4, attempts := 7 })] } }
      (fun s => decide (s.blk.running = true) && (let l : Lane := 0; decide ((s.blk.lane l.val).rx = .training ∧ 2 ≤ (s.blk.lane l.val).step) &&
        (decide (1 ≠ l.val)))) = true ∧
    meets { bF with frm := { lanes := [(0, { rx := .training, step := 2, goodWords := 4, attempts := 7 })] } }
      (fun s => decide (s.blk.running = true) && (let l : Lane := 1; decide ((s.blk.lane l.val).rx ≠ .active ∧ ((s.blk.lane l.val).rx ≠ .training ∨
        (s.blk.lane l.val).step < 2)))) = true := by decide +kernel

/-- The premises of each clause of FramesArePresented are met. -/
theorem meets_FramesArePresented :
    meets bF
      (fun _ => true) = true ∧
    meets { bF with frm := { lanes := [(0, { prbs := 3, prbsLock := true, chk := 5 })] } }
      (fun s => decide (s.blk.running = true ∧ s.blk.time.everLocked = true) && (let l : Lane := 0; (s.blk.linkOf l.val).any fun k =>
        decide (k.kind ≠ .timing ∧ 2 ≤ (s.blk.lane l.val).prbs ∧ (s.blk.lane l.val).prbsLock = true))) = true ∧
    meets { bF with frm := { lanes := [(0, { prbs := 3, prbsLock := true, chk := 5 })] } }
      (fun s => decide (s.blk.running = true ∧ s.blk.time.everLocked = true) && (let l : Lane := 0; (s.blk.linkOf l.val).any fun k =>
        decide (k.kind ≠ .timing ∧ 2 ≤ (s.blk.lane l.val).prbs ∧ (s.blk.lane l.val).prbsLock = true) && (decide (77 ≠ l.val)))) = true ∧
    meets { bF with frm := { lanes := [(0, { rx := .dormant })] } }
      (fun s => decide (s.blk.running = true ∧ s.blk.time.everLocked = true) && (let l : Lane := 0; (s.blk.linkOf l.val).any fun k =>
        decide (k.kind ≠ .timing ∧ (s.blk.lane l.val).prbs = 0 ∧ (s.blk.lane l.val).rx ≠ .training ∧ (s.blk.lane l.val).rx ≠ .active))) = true ∧
    meets { bF with frm := { lanes := [(0, { rx := .active, placed := some 0, rank := 0 })] } }
      (fun s => decide (s.blk.running = true ∧ s.blk.time.everLocked = true) && (let l : Lane := 0; (s.blk.linkOf l.val).any fun k =>
        decide ((s.blk.lane l.val).prbs = 0 ∧ s.blk.cRole = false ∧ s.blk.sets.act.isSome = true ∧ k.kind = .group ∧
        (s.blk.lane l.val).rx = .active ∧ (s.blk.lane l.val).step ≠ 5) && (let x : LineFrame := onLine (mkFrame 0 0 200 198 3 0 9 []);
        decide (s.blk.syncGood l.val x = true ∧ List.count true (List.take 64 (false :: (s.blk.lane l.val).syncBad)) < 16 ∧ 0 ≤ 2048 ∧
        Option.map Prod.fst (s.blk.lane l.val).last ≠ some (s.blk.time.now - 2 - (s.blk.lane l.val).placed.getD 0)) &&
        ((copyA (s.blk.peerLane l.val) (s.blk.hear l.val x).1).any fun r => decide (copyB (s.blk.peerLane l.val) (s.blk.hear l.val x).1 = some r ∧
        s.blk.names (s.blk.hear l.val x).1 (s.blk.time.now - 2 - (s.blk.lane l.val).placed.getD 0) = true ∧
        codeOk RxLink.downlink (frCode (s.blk.hear l.val x).1) = true))))) = true ∧
    meets { bF with frm := { lanes := [(0, { rx := .active, placed := some 0, rank := 0 })] } }
      (fun s => decide (s.blk.running = true ∧ s.blk.time.everLocked = true) && (let l : Lane := 0; (s.blk.linkOf l.val).any fun k =>
        decide ((s.blk.lane l.val).prbs = 0 ∧ s.blk.cRole = false ∧ s.blk.sets.act.isSome = true ∧ k.kind = .group ∧
        (s.blk.lane l.val).rx = .active ∧ (s.blk.lane l.val).step ≠ 5) && (let x : LineFrame := onLine (mkFrame 0 0 200 198 3 0 9 []);
        decide (s.blk.syncGood l.val x = true ∧ List.count true (List.take 64 (false :: (s.blk.lane l.val).syncBad)) < 16 ∧ 0 ≤ 2048 ∧
        Option.map Prod.fst (s.blk.lane l.val).last ≠ some (s.blk.time.now - 2 - (s.blk.lane l.val).placed.getD 0)) &&
        ((copyA (s.blk.peerLane l.val) (s.blk.hear l.val x).1).any fun r => decide (copyB (s.blk.peerLane l.val) (s.blk.hear l.val x).1 = some r ∧
        s.blk.names (s.blk.hear l.val x).1 (s.blk.time.now - 2 - (s.blk.lane l.val).placed.getD 0) = true ∧
        codeOk RxLink.downlink (frCode (s.blk.hear l.val x).1) = true ∧ 77 ≠ l.val))))) = true ∧
    meets { bF with frm := { lanes := [(0, { rx := .active, placed := some 0, rank := 0 })] } }
      (fun s => decide (s.blk.running = true ∧ s.blk.time.everLocked = true) && (let l : Lane := 0; (s.blk.linkOf l.val).any fun k =>
        decide ((s.blk.lane l.val).prbs = 0 ∧ s.blk.cRole = false ∧ s.blk.sets.act.isSome = true ∧ k.kind = .group ∧
        (s.blk.lane l.val).rx = .active ∧ (s.blk.lane l.val).step ≠ 5) && (let x : LineFrame := onLine (mkFrame 0 0 200 198 3 0 9 []);
        decide (s.blk.syncGood l.val x = true ∧ List.count true (List.take 64 (false :: (s.blk.lane l.val).syncBad)) < 16 ∧ 2048 < 2049)))) = true ∧
    meets { bF with frm := { lanes := [(0, { rx := .active, placed := some 0, rank := 0 })] } }
      (fun s => decide (s.blk.running = true ∧ s.blk.time.everLocked = true) && (let l : Lane := 0; (s.blk.linkOf l.val).any fun k =>
        decide ((s.blk.lane l.val).prbs = 0 ∧ s.blk.cRole = false ∧ s.blk.sets.act.isSome = true ∧ k.kind = .group ∧
        (s.blk.lane l.val).rx = .active ∧ (s.blk.lane l.val).step ≠ 5) && (let x : LineFrame := onLine (mkFrame 0 0 200 198 3 0 9 []);
        decide (s.blk.syncGood l.val x = true ∧ List.count true (List.take 64 (false :: (s.blk.lane l.val).syncBad)) < 16 ∧ 2048 < 2049 ∧
        77 ≠ l.val)))) = true := by decide +kernel

/-- The premises of each clause of FramesAreActedOn are met. -/
theorem meets_FramesAreActedOn :
    meets bF
      (fun s => decide (s.blk.running = true ∧ s.blk.time.everLocked = true ∧ s.blk.actDue = none)) = true ∧
    meets { bF with
      frm := {
          frSet := true,
          side := none,
          lanes := [(0, { store := [(4998, mkFrame 0 0 5 198 3 0 9 [])] }), (4, { store := [(4998, mkFrame 0 0 9 198 3 0 9 [])] })] } }
      (fun s => decide (s.blk.running = true ∧ s.blk.time.everLocked = true) && (s.blk.actDue.any fun _ => true)) = true ∧
    meets { bF with
      frm := {
          frSet := true,
          side := none,
          lanes := [(0, { store := [(4998, mkFrame 0 0 9 198 3 0 9 [])] }), (4, { store := [(4998, mkFrame 0 0 5 198 3 0 9 [])] })] } }
      (fun s => decide (s.blk.running = true ∧ s.blk.time.everLocked = true) && (s.blk.actDue.any fun _ =>
        decide ((after Instr.frameAct s).frm.claimB < (after Instr.frameAct s).frm.claimA))) = true ∧
    meets { bF with
      frm := {
          frSet := true,
          side := none,
          lanes := [(0, { store := [(4998, mkFrame 0 0 5 198 3 0 9 [])] }), (4, { store := [(4998, mkFrame 0 0 9 198 3 0 9 [])] })] } }
      (fun s => decide (s.blk.running = true ∧ s.blk.time.everLocked = true) && (s.blk.actDue.any fun _ =>
        decide ((after Instr.frameAct s).frm.claimA < (after Instr.frameAct s).frm.claimB))) = true ∧
    meets { bF with
      frm := {
          frSet := true,
          side := none,
          lanes := [(0, { store := [(4998, mkFrame 0 0 9 198 3 0 9 [])] }), (4, { store := [(4998, mkFrame 0 0 9 198 3 0 9 [])] })] } }
      (fun s => decide (s.blk.running = true ∧ s.blk.time.everLocked = true) && (s.blk.actDue.any fun _ =>
        decide ((after Instr.frameAct s).frm.claimA = (after Instr.frameAct s).frm.claimB ∧ (after Instr.frameAct s).frm.claimA ≠ 0))) = true ∧
    meets { bF with
      frm := {
          frSet := true,
          side := none,
          lanes := [(0, { store := [(4998, mkFrame 0 0 0 198 3 0 9 [])] }), (4, { store := [(4998, mkFrame 0 0 0 198 3 0 9 [])] })] } }
      (fun s => decide (s.blk.running = true ∧ s.blk.time.everLocked = true) && (s.blk.actDue.any fun _ =>
        decide ((after Instr.frameAct s).frm.claimA = 0 ∧ (after Instr.frameAct s).frm.claimB = 0))) = true ∧
    meets { bF with frm := { frSet := true } }
      (fun s => decide (s.blk.running = true ∧ s.blk.time.everLocked = true) && (s.blk.actDue.any fun _ => decide (s.blk.frm.acted = none ∧
        (s.blk.lane 0).store = [] ∧ (s.blk.lane 4).store = []))) = true ∧
    meets { bF with frm := { frSet := true, side := none, lanes := [(0, { store := [(4998, mkFrame 0 0 1 198 3 0 9 [])] })] } }
      (fun s => decide (s.blk.running = true ∧ s.blk.time.everLocked = true) && (s.blk.actDue.any fun h => decide (s.blk.frm.acted = none) &&
        (oneThen ((s.blk.lane 0).store) fun (at_, f) => decide (at_ = h) && decide ((s.blk.lane 4).store = []) &&
        ((copyOf (s.blk.peerLane 0) f).any fun p => decide (bits (BitVec.toNat p) 47 44 = 0 ∧ 1 ≤ frClaim f ∧ frClaim f ≤ 254))))) = true := by decide +kernel

/-- The premises of each clause of TwinUnitsCompare are met. -/
theorem meets_TwinUnitsCompare :
    meets { bC with twin := { gotFrame := true } }
      (fun s => decide (s.blk.running = true ∧ s.blk.isTwin = true ∧ s.blk.twin.gotFrame = true)) = true ∧
    meets { bC with frm := { lanes := [(38, { rx := .active })] }, dict := { bC.dict with regs := [(0x5C2606, 38)] } }
      (fun s => decide (s.blk.running = true ∧ s.blk.isTwin = true ∧ s.blk.twin.gotFrame = false ∧ s.blk.rxActive 38 = true ∧
        (s.blk.lane 38).prbs = 0) && (let x : LineFrame := onLine (mkFrame 38 0 9 196 3 0 9 []); decide (s.blk.syncGood 38 x = true ∧
        List.count true (List.take 64 (false :: (s.blk.lane 38).syncBad)) < 16 ∧ (s.blk.lane 38).last = none ∧ (s.blk.lane 39).last = none) &&
        ((copyA (s.blk.peerLane 38) (s.blk.hear 38 x).1).any fun r => decide (copyB (s.blk.peerLane 38) (s.blk.hear 38 x).1 = some r ∧
        s.blk.names (s.blk.hear 38 x).1 (s.blk.time.now - 2 - s.blk.fK) = true ∧ codeOk RxLink.cross (frCode (s.blk.hear 38 x).1) = true ∧
        frClaim (s.blk.hear 38 x).1 ≠ 255 ∧ s.blk.ownDigest (s.blk.time.now - 3 - s.blk.fK) = none)))) = true ∧
    meets { bC with twin := { test := some 4985, sources := [3, 7], result := 3, failCheck := 4 } }
      (fun s => decide (s.blk.running = true ∧ s.blk.isTwin = true) && (s.blk.twin.test.any fun m => decide (m + 15 ≤ s.blk.time.now ∧
        s.blk.twin.testFail = 0 ∧ (∀ v ∈ s.blk.twin.verdicts, v.1 ≠ m + 15)))) = true ∧
    meets { bC with twin := { test := some 4985, sources := [3, 7], result := 3, failCheck := 4 } }
      (fun s => decide (s.blk.running = true ∧ s.blk.isTwin = true) && (s.blk.twin.test.any fun m => decide (m + 15 ≤ s.blk.time.now) &&
        (let other : BitVec 8 := 1; decide (other.toNat.testBit 0 = true)))) = true ∧
    meets { bC with twin := { test := some 4985, entered := true, state := .active } }
      (fun s => decide (s.blk.running = true ∧ s.blk.isTwin = true) && (s.blk.twin.test.any fun m => decide (m + 15 ≤ s.blk.time.now) &&
        (let other : BitVec 8 := 1; decide (other.toNat.testBit 0 = true ∧ s.blk.twin.entered = true ∧ s.blk.twin.state ≠ .released)))) = true ∧
    meets { bC with twin := { test := some 4986 } }
      (fun s => decide (s.blk.running = true ∧ s.blk.isTwin = true) && (s.blk.twin.test.any fun m => decide (s.blk.time.now < m + 15))) = true ∧
    meets { bC with twin := { verdicts := [(4999, 2, 2)], result := 2, claim := 5, pClaim := 6, state := .active } }
      (fun s => decide (s.blk.running = true ∧ s.blk.isTwin = true) && (headThen s.blk.twin.verdicts fun (at_, own, partner) _ =>
        decide (s.blk.time.now < at_ + s.blk.mirrorDelay))) = true ∧
    meets { bC with twin := { verdicts := [(4900, 2, 3)], result := 2, claim := 5, pClaim := 6, state := .active } }
      (fun s => decide (s.blk.running = true ∧ s.blk.isTwin = true) && (headThen s.blk.twin.verdicts fun (at_, own, partner) _ =>
        decide (at_ + s.blk.mirrorDelay ≤ s.blk.time.now ∧ (own ≠ 2 ∨ partner = 3)))) = true ∧
    meets { bC with twin := { verdicts := [(4900, 2, 2)], result := 2, claim := 5, pClaim := 6, state := .active } }
      (fun s => decide (s.blk.running = true ∧ s.blk.isTwin = true) && (headThen s.blk.twin.verdicts fun (at_, own, partner) _ =>
        decide (at_ + s.blk.mirrorDelay ≤ s.blk.time.now ∧ own = 2 ∧ partner ≠ 3 ∧ s.blk.sameUnit = false ∧ s.blk.claimLower = true))) = true ∧
    meets { bC with twin := { verdicts := [(4900, 2, 2)], result := 2, claim := 6, pClaim := 5, state := .active } }
      (fun s => decide (s.blk.running = true ∧ s.blk.isTwin = true) && (headThen s.blk.twin.verdicts fun (at_, own, partner) _ =>
        decide (at_ + s.blk.mirrorDelay ≤ s.blk.time.now ∧ own = 2 ∧ partner ≠ 3 ∧ s.blk.sameUnit = false ∧ s.blk.claimLower = false))) = true ∧
    meets { bC with frm := { lanes := [(38, { rx := .active })] }, dict := { bC.dict with regs := [(0x5C2606, 38)] } }
      (fun s => decide (s.blk.running = true ∧ s.blk.isTwin = true ∧ s.blk.twin.verdicts = [])) = true := by decide +kernel

/-- The premises of each clause of TwinUnitsPairAndResynchronise are met. -/
theorem meets_TwinUnitsPairAndResynchronise :
    meets { bC with twin := { missing := 16 } }
      (fun s => decide (s.blk.running = true ∧ s.blk.isTwin = true ∧ s.blk.twin.lost = false ∧ 16 ≤ s.blk.twin.missing)) = true ∧
    meets { readyC with sets := { act := some { folio := fol } } }
      (fun s => decide (s.blk.running = true ∧ s.blk.twin.missing < 16)) = true ∧
    meets { bC with twin := { goodRun := 16, lost := true, state := .active, claim := 5, pClaim := 6 } }
      (fun s => decide (s.blk.running = true ∧ s.blk.isTwin = true ∧ s.blk.twin.lost = true ∧ 16 ≤ s.blk.twin.goodRun)) = true ∧
    meets { bC with twin := { goodRun := 16, lost := true, state := .active, claim := 5, pClaim := 6 } }
      (fun s => decide (s.blk.running = true ∧ s.blk.isTwin = true ∧ s.blk.twin.lost = true ∧ 16 ≤ s.blk.twin.goodRun ∧
        (s.blk.twin.state = .active ∨ s.blk.twin.state = .standby ∨ s.blk.twin.state = .held) ∧ s.blk.sameUnit = false ∧
        s.blk.claimLower = true)) = true ∧
    meets { readyC with sets := { act := some { folio := fol } } }
      (fun s => decide (s.blk.running = true ∧ s.blk.twin.goodRun < 16)) = true ∧
    meets { readyC with sets := { act := some { folio := fol } } }
      (fun s => decide (s.blk.running = true ∧ s.blk.cRole = true ∧ s.blk.boot.unitReleased = false ∧ s.blk.allReady = true)) = true ∧
    meets { readyC with sets := { act := some { folio := fol } } }
      (fun s => decide (s.blk.running = true ∧ s.blk.cRole = true ∧ s.blk.boot.unitReleased = false ∧ s.blk.allReady = true ∧
        s.blk.topology = 0)) = true ∧
    meets { readyC with sets := { act := some { folio := fol } } }
      (fun s => decide (s.blk.running = true ∧ s.blk.cRole = true ∧ s.blk.boot.unitReleased = false ∧ s.blk.allReady = true ∧ s.blk.topology = 0 ∧
        s.blk.twin.sources = [] ∧ (bits (BitVec.toNat s.blk.twin.w0) 63 61 = 0 ∨ 3 < bits (BitVec.toNat s.blk.twin.w0) 63 61))) = true ∧
    meets readyC
      (fun s => decide (s.blk.running = true ∧ s.blk.cRole = true ∧ s.blk.boot.unitReleased = false ∧ s.blk.allReady = true ∧
        s.blk.topology ≠ 0)) = true ∧
    meets { bC with boot := { bC.boot with unitReleased := true } }
      (fun s => decide (s.blk.running = true ∧ s.blk.boot.unitReleased = true)) = true ∧
    meets { bC with twin := { state := .pairing, entered := true, pairAt := some 5000, w0 := BitVec.ofNat 64 (7 * 2 ^ 48), digests := [(1, 2)] } }
      (fun s => decide (s.blk.running = true ∧ s.blk.isTwin = true ∧ s.blk.twin.entered = true ∧ s.blk.twin.state = .pairing ∧
        s.blk.twin.pairAt = some s.blk.time.now)) = true ∧
    meets { bC with twin := { state := .pairing, entered := true, pairAt := some 5000, w0 := BitVec.ofNat 64 (7 * 2 ^ 48), digests := [(1, 2)] } }
      (fun s => decide (s.blk.running = true ∧ s.blk.isTwin = true ∧ s.blk.twin.entered = true ∧ s.blk.twin.state = .pairing ∧
        s.blk.twin.pairAt = some s.blk.time.now ∧ (33 ≤ 33 ∧ 33 ≤ 44 ∨ 65 ≤ 33 ∧ 33 ≤ 96))) = true ∧
    meets { bC with
      time := { bC.time with now := 500000000 },
      boot := { bC.boot with readySince := some 0 },
      twin := { state := .pairing, entered := true } }
      (fun s => decide (s.blk.running = true ∧ s.blk.isTwin = true ∧ s.blk.twin.entered = true ∧ s.blk.twin.state = .pairing ∧
        s.blk.rxActive 38 = false ∧ s.blk.rxActive 39 = false ∧
        s.blk.elapsed (s.blk.boot.readySince.getD s.blk.time.now) (s.blk.rs 1053700) = true)) = true ∧
    meets { bC with twin := { goodRun := 16, lost := true, state := .active, claim := 5, pClaim := 6 } }
      (fun s => decide (s.blk.running = true ∧ s.blk.twin.state ≠ .pairing)) = true ∧
    meets { bC with
      twin := { state := .resync, b0 := some 5000 },
      queues := [(0x20, { words := [⟨0, [], 0, false⟩] }), (0x21, { words := [⟨0, [], 0, false⟩] }), (0x60, { words := [⟨0, [], 0, false⟩] }),
        (0x81, { words := [⟨0, [], 0, false⟩] })] }
      (fun s => decide (s.blk.running = true ∧ s.blk.twin.state = .resync ∧ s.blk.twin.phase = .waiting ∧
        s.blk.twin.b0 = some s.blk.time.now)) = true ∧
    meets { bC with
      twin := { state := .resync, b0 := some 5000 },
      queues := [(0x20, { words := [⟨0, [], 0, false⟩] }), (0x21, { words := [⟨0, [], 0, false⟩] }), (0x60, { words := [⟨0, [], 0, false⟩] }),
        (0x81, { words := [⟨0, [], 0, false⟩] })] }
      (fun s => decide (s.blk.running = true ∧ s.blk.twin.state = .resync ∧ s.blk.twin.phase = .waiting ∧ s.blk.twin.b0 = some s.blk.time.now ∧
        (33 ≤ 33 ∧ 33 ≤ 44 ∨ 65 ≤ 33 ∧ 33 ≤ 96))) = true ∧
    meets { bC with
      twin := { state := .resync, b0 := some 5000 },
      queues := [(0x20, { words := [⟨0, [], 0, false⟩] }), (0x21, { words := [⟨0, [], 0, false⟩] }), (0x60, { words := [⟨0, [], 0, false⟩] }),
        (0x81, { words := [⟨0, [], 0, false⟩] })] }
      (fun s => decide (s.blk.running = true ∧ s.blk.twin.state = .resync ∧ s.blk.twin.phase = .waiting ∧ s.blk.twin.b0 = some s.blk.time.now ∧
        (¬(33 ≤ 0 ∧ 0 ≤ 44 ∨ 65 ≤ 0 ∧ 0 ≤ 96)))) = true ∧
    meets { bC with
      twin := {
          state := .resync,
          phase := .follow,
          z := some 5000,
          w0At := 4999,
          w2At := 4999,
          w2 := BitVec.ofNat 64 (4095 * 2 ^ 49 + 2 ^ 20),
          w0 := BitVec.ofNat 64 (2 ^ 20) } }
      (fun s => decide (s.blk.running = true ∧ s.blk.twin.state = .resync ∧ s.blk.twin.phase = .follow ∧ s.blk.twin.z = some s.blk.time.now)) = true ∧
    meets { bC with twin := { state := .resync, phase := .own } }
      (fun s => decide (s.blk.running = true ∧ s.blk.twin.state = .resync ∧ s.blk.twin.phase = .own)) = true ∧
    meets { bC with
      twin := { state := .resync, phase := .compare, spanTo := some 4900, lastCmp := 4900, pClaim := 100, wasHeld := false },
      sets := { act := some { folio := fol, entries := [(0x681001, 0)] } } }
      (fun s => decide (s.blk.running = true ∧ s.blk.twin.state = .resync) && (s.blk.twin.spanTo.any fun t => decide (s.blk.twin.lastCmp = t ∧
        s.blk.lastClaim ≠ 0))) = true ∧
    meets { bC with twin := { state := .resync, spanTo := some 4900, lastCmp := 4899 } }
      (fun s => decide (s.blk.running = true ∧ s.blk.twin.state = .resync) && (s.blk.twin.spanTo.any fun t => decide (s.blk.twin.lastCmp ≠ t ∨
        s.blk.lastClaim = 0))) = true := by decide +kernel

/-- The premises of each clause of PlansComeIntoForce are met. -/
theorem meets_PlansComeIntoForce :
    meets { bF with time := { bF.time with slot := 0 }, flt := { boundary := some 7, pendLanes := [1] } }
      (fun s => decide (s.blk.running = true ∧ s.blk.planDueNow = true)) = true ∧
    meets { bF with time := { bF.time with slot := 0 }, flt := { boundary := some 7, pendLanes := [1] } }
      (fun s => decide (s.blk.running = true ∧ s.blk.planDueNow = true ∧ s.blk.anyRetired = false ∧
        s.blk.writtenPlan s.blk.time.orbit = none)) = true ∧
    meets { bF with
      time := { bF.time with slot := 0 },
      flt := { boundary := some 7 },
      sets := { act := some { folio := { fol with plans := [({ (default : RetPlan) with number := 9, reduced := true } : RetPlan)] } } },
      dict := { bF.dict with regs := [(0x6C0004, 9 * 2 ^ 48 + 7)] } }
      (fun s => decide (s.blk.running = true ∧ s.blk.planDueNow = true ∧ s.blk.cRole = false) &&
        (let p : RetPlan := { (default : RetPlan) with number := 9, reduced := true }; decide (s.blk.writtenPlan s.blk.time.orbit = some p.number ∧
        p.number ≠ 0 ∧ s.blk.planOf p.number = some p))) = true ∧
    meets bF
      (fun s => decide (s.blk.planDueNow = false)) = true ∧
    meets { bF with flash := { present := true, capacity := 128, list := [1] }, flt := { list := [1, 2], unsaved := [2] } }
      (fun s => decide (s.blk.hasFlash = true ∧ s.blk.flt.unsaved ≠ [])) = true ∧
    meets { bF with time := { bF.time with slot := 0 }, flt := { boundary := some 7, pendLanes := [1] } }
      (fun s => decide (s.blk.flt.unsaved = [])) = true := by decide +kernel

/-- The premises of each clause of SitesAreRetiredAndRestored are met. -/
theorem meets_SitesAreRetiredAndRestored :
    meets { bF with
      flash := { present := true, capacity := 128, list := [BitVec.ofNat 64 (0x1003 * 2 ^ 48), 5] },
      flt := { list := [BitVec.ofNat 64 (0x1003 * 2 ^ 48), 5], sites := [(0x1003, { state := 2 }), (0x1004, { state := 2 })] } }
      (fun s => decide (s.blk.writable hdr 7081985 2 = true) && (let site : BitVec 16 := 0x1003; decide (site.toNat ≠ 65535 ∧
        site.toNat ∈ s.blk.retiredSites))) = true ∧
    meets { bF with
      flash := { present := true, capacity := 128, list := [BitVec.ofNat 64 (0x1003 * 2 ^ 48), 5] },
      flt := { list := [BitVec.ofNat 64 (0x1003 * 2 ^ 48), 5], sites := [(0x1003, { state := 2 }), (0x1004, { state := 2 })] } }
      (fun s => decide (s.blk.writable hdr 7081985 2 = true) && (let site : BitVec 16 := 0; decide (site.toNat ≠ 65535 ∧
        site.toNat ∉ s.blk.retiredSites))) = true ∧
    meets { bF with
      flash := { present := true, capacity := 128, list := [BitVec.ofNat 64 (0x1003 * 2 ^ 48), 5] },
      flt := { list := [BitVec.ofNat 64 (0x1003 * 2 ^ 48), 5], sites := [(0x1003, { state := 2 }), (0x1004, { state := 2 })] } }
      (fun s => decide (s.blk.writable hdr 7081985 2 = true) && (let site : BitVec 16 := 0xFFFF; decide (site.toNat = 65535))) = true ∧
    meets { bF with
      flash := { present := true, capacity := 128, list := [BitVec.ofNat 64 (0x1003 * 2 ^ 48), 5] },
      flt := { list := [BitVec.ofNat 64 (0x1003 * 2 ^ 48), 5], sites := [(0x1003, { state := 2 }), (0x1004, { state := 2 })] } }
      (fun s => decide (s.blk.writable hdr 7081985 2 = true) && (let site : BitVec 16 := 0xFFFF; decide (site.toNat = 65535) &&
        ((s.blk.retiredSites).any fun i => true))) = true ∧
    meets { bF with
      flash := { present := true, capacity := 128, list := [BitVec.ofNat 64 (0x1003 * 2 ^ 48), 5] },
      flt := { list := [BitVec.ofNat 64 (0x1003 * 2 ^ 48), 5], sites := [(0x1003, { state := 2 }), (0x1004, { state := 2 })] } }
      (fun s => decide (s.blk.writable hdr 7081986 2 = true) && (let site : BitVec 16 := 0; decide (s.blk.siteExists site.toNat = false))) = true ∧
    meets { bF with
      flash := { present := true, capacity := 128, list := [BitVec.ofNat 64 (0x1003 * 2 ^ 48), 5] },
      flt := { list := [BitVec.ofNat 64 (0x1003 * 2 ^ 48), 5], sites := [(0x1003, { state := 2 }), (0x1004, { state := 2 })] } }
      (fun s => decide (s.blk.writable hdr 7081986 2 = true) && (let site : BitVec 16 := 0x1003;
        decide (s.blk.siteExists site.toNat = true))) = true ∧
    meets { bF with
      flash := { present := true, capacity := 128, list := [BitVec.ofNat 64 (0x1003 * 2 ^ 48), 5] },
      flt := { list := [BitVec.ofNat 64 (0x1003 * 2 ^ 48), 5], sites := [(0x1003, { state := 2 }), (0x1004, { state := 2 })] } }
      (fun s => decide (s.blk.writable hdr 7081986 2 = true) && (let site : BitVec 16 := 0x1003; decide (s.blk.siteExists site.toNat = true ∧
        (s.blk.site site.toNat).state = 2))) = true ∧
    meets { bF with
      flash := { present := true, capacity := 128, list := [BitVec.ofNat 64 (0x1003 * 2 ^ 48), 5] },
      flt := { list := [BitVec.ofNat 64 (0x1003 * 2 ^ 48), 5], sites := [(0x1003, { state := 2 }), (0x1004, { state := 2 })] } }
      (fun s => decide (s.blk.writable hdr 7081987 1 = true) && (let v : BitVec 8 := 0; decide (v.toNat ≤ 1))) = true ∧
    meets { bF with
      flash := { present := true, capacity := 128, list := [BitVec.ofNat 64 (0x1003 * 2 ^ 48), 5] },
      flt := { list := [BitVec.ofNat 64 (0x1003 * 2 ^ 48), 5], sites := [(0x1003, { state := 2 }), (0x1004, { state := 2 })] } }
      (fun s => decide (s.blk.writable hdr 7081987 1 = true) && (let v : BitVec 8 := 2; decide (1 < v.toNat))) = true := by decide +kernel

/-- The premises of each clause of RequestsAreServed are met. -/
theorem meets_RequestsAreServed :
    meets bF
      (fun s => decide (s.blk.hears hdr = true ∧ hdr.path = 0) && (let sub : BitVec 8 := 1; let index : BitVec 16 := 0x1050;
        okThen ((s.blk.taken hdr).access hdr index.toNat sub.toNat false) fun d =>
        decide (((s.blk.taken hdr).valueBytes hdr d (index.toNat * 256 + sub.toNat)).length ≤ 56))) = true ∧
    meets bF
      (fun s => decide (s.blk.hears hdr = true ∧ hdr.path = 0) && (let sub : BitVec 8 := 3; let index : BitVec 16 := 0x7C20;
        okThen ((s.blk.taken hdr).access hdr index.toNat sub.toNat false) fun d =>
        decide (56 < ((s.blk.taken hdr).valueBytes hdr d (index.toNat * 256 + sub.toNat)).length ∧
        (s.blk.taken hdr).transferOn index.toNat sub.toNat = false ∧ (s.blk.taken hdr).dict.mute = false))) = true ∧
    meets bF
      (fun s => decide (s.blk.hears hdr = true ∧ hdr.path = 0) && (let sub : BitVec 8 := 0; let index : BitVec 16 := 0;
        errorThen ((s.blk.taken hdr).access hdr index.toNat sub.toNat false) fun _ => true)) = true ∧
    meets bF
      (fun s => decide (s.blk.hears { hdr with session := 9 } = true ∧ 0 = 0 ∧
        (s.blk.taken { hdr with session := 9 }).levelOf { hdr with session := 9 } = none)) = true ∧
    meets bF
      (fun s => decide (s.blk.hears hdr = true ∧ hdr.path = 0 ∧ (s.blk.taken hdr).levelOf hdr ≠ none) && (let sub : BitVec 8 := 0;
        let index : BitVec 16 := 0; decide ((s.blk.taken hdr).entryOf index.toNat sub.toNat = none))) = true ∧
    meets bF
      (fun s => decide (s.blk.hears hdr = true ∧ hdr.path = 0) && (((s.blk.taken hdr).levelOf hdr).any fun lvl => let sub : BitVec 8 := 1;
        let index : BitVec 16 := 0x1050; ((s.blk.taken hdr).entryOf index.toNat sub.toNat).any fun d => decide ((d.level = 4 → 4 ≤ lvl) ∧
        (s.blk.taken hdr).resetting index.toNat = false))) = true ∧
    meets bF
      (fun s => decide (s.blk.hears hdr = true ∧ hdr.path = 0)) = true ∧
    meets bF
      (fun s => decide (s.blk.hears hdr = true ∧ hdr.path = 0 ∧ hdr.pair = false) && (let sub : BitVec 8 := 0; let index : BitVec 16 := 0;
        errorThen ((s.blk.taken hdr).access hdr index.toNat sub.toNat true) fun _ => true)) = true ∧
    meets bF
      (fun s => decide (s.blk.hears hdr = true ∧ hdr.path = 0 ∧ hdr.pair = false) && (let sub : BitVec 8 := 1; let index : BitVec 16 := 0x1050;
        okThen ((s.blk.taken hdr).access hdr index.toNat sub.toNat true) fun d => let body : List Byte := [];
        decide (lengthCode d body.length ≠ 0))) = true ∧
    meets { bF with dict := { bF.dict with transfers := [⟨{ hdr with tag := 9 }, 0x1050, 5, false, 2, [], 0, 0, 0, 0⟩] } }
      (fun s => decide (s.blk.hears hdr = true ∧ hdr.path = 0 ∧ hdr.pair = false) && (let sub : BitVec 8 := 5; let index : BitVec 16 := 0x1050;
        okThen ((s.blk.taken hdr).access hdr index.toNat sub.toNat true) fun d => let body : List Byte := [100, 0];
        decide (lengthCode d body.length = 0 ∧ (s.blk.taken hdr).transferOn index.toNat sub.toNat = true))) = true ∧
    meets bF
      (fun s => decide (s.blk.hears hdr = true ∧ hdr.path = 0 ∧ hdr.pair = false) && (let sub : BitVec 8 := 5; let index : BitVec 16 := 0x1050;
        okThen ((s.blk.taken hdr).access hdr index.toNat sub.toNat true) fun d => let body : List Byte := [100, 0];
        decide (lengthCode d body.length = 0 ∧ (s.blk.taken hdr).transferOn index.toNat sub.toNat = false ∧ d.access = .rw ∧
        plainEntry (index.toNat * 256 + sub.toNat) = true ∧
        (s.blk.taken hdr).takesValue (index.toNat * 256 + sub.toNat) (cleaned (index.toNat * 256 + sub.toNat) (natLE body)) = true))) = true ∧
    meets bF
      (fun s => decide (s.blk.hears { hdr with path := 1 } = true ∧ 1 ≠ 0 ∧ s.blk.cRole = false)) = true ∧
    meets bC
      (fun s => decide (s.blk.hears { hdr with path := 1 } = true ∧ 1 ≠ 0 ∧ s.blk.cRole = true ∧
        (s.blk.taken { hdr with path := 1 }).proxyCode Origin.inband 1 ≠ 0)) = true := by decide +kernel

/-- The premises of each clause of TransfersRun are met. -/
theorem meets_TransfersRun :
    meets { bF with
      dict := { bF.dict with
          transfers := [⟨hdr, 0x2020, 1, false, 100, List.replicate 96 1, 8, 0, 12, 0⟩, ⟨{ hdr with tag := 9 }, 0x1050, 5, true, 0, [], 0, 0, 0, 0⟩] } }
      (fun s => decide (hdr.path = 0 ∧ s.blk.hears hdr = true) && (let sub : BitVec 8 := 1; let index : BitVec 16 := 0x2020;
        okThen ((s.blk.taken hdr).access hdr index.toNat sub.toNat true) fun d => let length : BitVec 32 := 1;
        decide (lengthCode d length.toNat = 0 ∧ length.toNat ≠ 0 ∧
        ((s.blk.taken hdr).downloadBusy (index.toNat * 256 + sub.toNat) || (s.blk.taken hdr).transferOn index.toNat sub.toNat) = false))) = true ∧
    meets { bF with
      dict := { bF.dict with
          transfers := [⟨hdr, 0x2020, 1, false, 100, List.replicate 96 1, 8, 0, 12, 0⟩, ⟨{ hdr with tag := 9 }, 0x1050, 5, true, 0, [], 0, 0, 0, 0⟩] } }
      (fun s => decide (hdr.path = 0 ∧ s.blk.hears hdr = true) && (let sub : BitVec 8 := 5; let index : BitVec 16 := 0x1050;
        okThen ((s.blk.taken hdr).access hdr index.toNat sub.toNat true) fun d => let length : BitVec 32 := 2;
        decide (lengthCode d length.toNat = 0 ∧ length.toNat ≠ 0 ∧
        ((s.blk.taken hdr).downloadBusy (index.toNat * 256 + sub.toNat) || (s.blk.taken hdr).transferOn index.toNat sub.toNat) = true))) = true ∧
    meets { bF with
      dict := { bF.dict with
          transfers := [⟨hdr, 0x2020, 1, false, 100, List.replicate 96 1, 8, 0, 12, 0⟩, ⟨{ hdr with tag := 9 }, 0x1050, 5, true, 0, [], 0, 0, 0, 0⟩] } }
      (fun s => let o : Origin := .inband; decide (s.blk.hears (shortHdr o 0) = true) && (let tag : BitVec 8 := 1;
        (s.blk.transferOf o tag.toNat false).any fun t => decide (t.data.length < t.total) && (let seq : BitVec 8 := 12;
        decide (seq.toNat = t.next % 256) && (let data : List Byte := [1, 2, 3]; decide (t.fits data = false))))) = true ∧
    meets { bF with dict := { bF.dict with transfers := [⟨hdr, 0x6400, 7, false, 100, [], 0, 0, 0, 0⟩] } }
      (fun s => let o : Origin := .inband; decide (s.blk.hears (shortHdr o 0) = true) && (let tag : BitVec 8 := 1;
        (s.blk.transferOf o tag.toNat false).any fun t => decide (t.data.length < t.total) && (let seq : BitVec 8 := 0;
        decide (seq.toNat = t.next % 256) && (let data : List Byte := List.replicate 8 7; decide (t.fits data = true ∧
        t.data.length + data.length < t.total))))) = true ∧
    meets { bF with dict := { bF.dict with transfers := [⟨hdr, 0x6400, 7, false, 100, [], 0, 0, 0, 0⟩] } }
      (fun s => let o : Origin := .inband; decide (s.blk.hears (shortHdr o 0) = true) && (let tag : BitVec 8 := 1;
        (s.blk.transferOf o tag.toNat false).any fun t => decide (t.data.length < t.total) && (let seq : BitVec 8 := 0;
        decide (seq.toNat = t.next % 256) && (let data : List Byte := List.replicate 8 7; decide (t.fits data = true ∧
        t.data.length + data.length < t.total ∧ t.unacked ≠ 15))))) = true ∧
    meets { bF with dict := { bF.dict with transfers := [⟨hdr, 0x6400, 7, false, 100, (List.replicate 80 1), 8, 0, 15, 15⟩] } }
      (fun s => let o : Origin := .inband; decide (s.blk.hears (shortHdr o 0) = true) && (let tag : BitVec 8 := 1;
        (s.blk.transferOf o tag.toNat false).any fun t => decide (t.data.length < t.total) && (let seq : BitVec 8 := 15;
        decide (seq.toNat = t.next % 256) && (let data : List Byte := List.replicate 8 7; decide (t.fits data = true ∧
        t.data.length + data.length < t.total ∧ t.unacked = 15))))) = true ∧
    meets { bF with
      dict := { bF.dict with
          transfers := [⟨hdr, 0x2020, 1, false, 100, List.replicate 96 1, 8, 0, 12, 0⟩, ⟨{ hdr with tag := 9 }, 0x1050, 5, true, 0, [], 0, 0, 0, 0⟩] } }
      (fun s => let o : Origin := .inband; decide (s.blk.hears (shortHdr o 0) = true) && (let tag : BitVec 8 := 1;
        (s.blk.transferOf o tag.toNat false).any fun t => decide (t.data.length < t.total) && (let seq : BitVec 8 := 12;
        decide (seq.toNat = t.next % 256) && (let data : List Byte := List.replicate 8 7; decide (t.fits data = true ∧
        t.total ≤ t.data.length + data.length ∧ t.index = 8224 ∧ t.sub = 1))))) = true ∧
    meets { bF with
      dict := { bF.dict with
          transfers := [⟨hdr, 0x2020, 1, false, 100, List.replicate 96 1, 8, 0, 12, 0⟩, ⟨{ hdr with tag := 9 }, 0x1050, 5, true, 0, [], 0, 0, 0, 0⟩] } }
      (fun s => let o : Origin := .inband; decide (s.blk.hears (shortHdr o 0) = true) && (let tag : BitVec 8 := 1;
        (s.blk.transferOf o tag.toNat false).any fun t => decide (t.data.length < t.total) && (let seq : BitVec 8 := 12;
        decide (seq.toNat = t.next % 256) && (let data : List Byte := List.replicate 8 7; decide (t.fits data = true ∧
        t.total ≤ t.data.length + data.length ∧ t.index = 8224 ∧ t.sub = 1) &&
        (((after (Instr.segment o tag seq data) s).dict.transfers).any fun x => true))))) = true ∧
    meets { bF with
      dict := { bF.dict with
          transfers := [⟨hdr, 0x2020, 1, false, 100, List.replicate 96 1, 8, 0, 12, 0⟩, ⟨{ hdr with tag := 9 }, 0x1050, 5, true, 0, [], 0, 0, 0, 0⟩] } }
      (fun s => let o : Origin := .inband; decide (s.blk.hears (shortHdr o 0) = true) && (let tag : BitVec 8 := 0;
        decide (s.blk.transferOf o tag.toNat false = none ∧ s.blk.proxyByTag o tag.toNat = none))) = true ∧
    meets { bF with dict := { bF.dict with transfers := [⟨hdr, 0x6400, 7, true, 100, (List.replicate 100 5), 8, 300, 0, 13⟩] } }
      (fun s => let o : Origin := .inband; decide (s.blk.hears (shortHdr o 0) = true) && (let tag : BitVec 8 := 1;
        (s.blk.transferOf o tag.toNat true).any fun t => let next : BitVec 8 := 0;
        decide (t.unacked < (next.toNat + 256 - t.base % 256) % 256))) = true ∧
    meets { bF with dict := { bF.dict with transfers := [⟨hdr, 0x6400, 7, true, 100, (List.replicate 100 5), 8, 300, 0, 13⟩] } }
      (fun s => let o : Origin := .inband; decide (s.blk.hears (shortHdr o 0) = true) && (let tag : BitVec 8 := 1;
        (s.blk.transferOf o tag.toNat true).any fun t => let next : BitVec 8 := 57; decide ((next.toNat + 256 - t.base % 256) % 256 ≤ t.unacked ∧
        t.data.length ≤ t.size * ((next.toNat + 256 - t.base % 256) % 256)))) = true ∧
    meets { bF with dict := { bF.dict with transfers := [⟨hdr, 0x6400, 7, true, 100, (List.replicate 100 5), 8, 300, 0, 13⟩] } }
      (fun s => let o : Origin := .inband; decide (s.blk.hears (shortHdr o 0) = true) && (let tag : BitVec 8 := 1;
        (s.blk.transferOf o tag.toNat true).any fun t => let next : BitVec 8 := 44; decide ((next.toNat + 256 - t.base % 256) % 256 ≤ t.unacked ∧
        t.size * ((next.toNat + 256 - t.base % 256) % 256) < t.data.length))) = true ∧
    meets { bF with
      dict := { bF.dict with
          transfers := [⟨hdr, 0x2020, 1, false, 100, List.replicate 96 1, 8, 0, 12, 0⟩, ⟨{ hdr with tag := 9 }, 0x1050, 5, true, 0, [], 0, 0, 0, 0⟩] } }
      (fun s => decide (s.blk.hears hdr = true ∧ s.blk.proxyByTag hdr.origin hdr.tag.toNat = none)) = true ∧
    meets { bF with
      dict := { bF.dict with
          transfers := [⟨hdr, 0x2020, 1, false, 100, List.replicate 96 1, 8, 0, 12, 0⟩, ⟨{ hdr with tag := 9 }, 0x1050, 5, true, 0, [], 0, 0, 0, 0⟩] } }
      (fun s => decide (s.blk.hears hdr = true ∧ s.blk.proxyByTag hdr.origin hdr.tag.toNat = none) && (let code : BitVec 32 := 0;
        ((after (Instr.abort hdr code) s).dict.transfers).any fun t => decide (t.hdr.origin = hdr.origin))) = true ∧
    meets { bF with
      dict := { bF.dict with
          transfers := [⟨hdr, 0x2020, 1, false, 100, List.replicate 96 1, 8, 0, 12, 0⟩, ⟨{ hdr with tag := 9 }, 0x1050, 5, true, 0, [], 0, 0, 0, 0⟩] } }
      (fun s => decide (s.blk.served = true) && (let tag : BitVec 8 := 0; let o : Origin := .inband; decide (List.filter (fun t =>
        t.hdr.path == 0 && decide (t.hdr.origin = o) && t.hdr.tag.toNat == tag.toNat) s.blk.dict.transfers = []))) = true ∧
    meets { bF with
      dict := { bF.dict with
          transfers := [⟨hdr, 0x2020, 1, false, 100, List.replicate 96 1, 8, 0, 12, 0⟩, ⟨{ hdr with tag := 9 }, 0x1050, 5, true, 0, [], 0, 0, 0, 0⟩] } }
      (fun s => decide (s.blk.served = true) && (let tag : BitVec 8 := 1; let o : Origin := .inband; oneThen (List.filter (fun t =>
        t.hdr.path == 0 && decide (t.hdr.origin = o) && t.hdr.tag.toNat == tag.toNat) s.blk.dict.transfers) fun t => decide (t.up = true ∨
        t.data.length < t.total))) = true := by decide +kernel

/-- The premises of each clause of SessionsOpenAndEnd are met. -/
theorem meets_SessionsOpenAndEnd :
    meets { bF with dict := { bF.dict with lockout := true } }
      (fun s => decide (hdr.path = 0 ∧ s.blk.hears hdr = true ∧ s.blk.dict.lockout = true)) = true ∧
    meets { bF with dict := { bF.dict with fails := [4, 5, 6, 7], regs := [(0x103002, 77)] } }
      (fun s => decide (hdr.path = 0 ∧ s.blk.hears hdr = true ∧ s.blk.dict.lockout = false ∧ (hdr.session = 0 ∨ 127 < hdr.session ∨
        ((s.blk.taken hdr).dict.sessions.any fun x => x.number == hdr.session && decide (x.origin = hdr.origin)) = true))) = true ∧
    meets { bF with dict := { bF.dict with fails := [4, 5, 6, 7], regs := [(0x103002, 77)] } }
      (fun s => decide (0 = 0 ∧ s.blk.hears { hdr with session := 127 } = true ∧ s.blk.dict.lockout = false) && (let level : BitVec 8 := 3;
        decide (1 ≤ 127 ∧ 127 ≤ 127 ∧ ((s.blk.taken { hdr with session := 127 }).dict.sessions.any fun x => x.number == 127 &&
        decide (x.origin = .inband)) = false ∧ 2 ≤ level.toNat ∧ level.toNat ≤ 4 ∧
        (s.blk.taken { hdr with session := 127 }).dict.sessions.length < 8) && (let v : Verdict := default; let cred : List Byte := [];
        decide (((s.blk.taken { hdr with session := 127 }).credentialOk { hdr with session := 127 } level.toNat cred v).1 = true)))) = true ∧
    meets { bF with dict := { bF.dict with fails := [4, 5, 6, 7], regs := [(0x103002, 77)] } }
      (fun s => decide (0 = 0 ∧ s.blk.hears { hdr with session := 127 } = true ∧ s.blk.dict.lockout = false) && (let level : BitVec 8 := 2;
        decide (1 ≤ 127 ∧ 127 ≤ 127 ∧ ((s.blk.taken { hdr with session := 127 }).dict.sessions.any fun x => x.number == 127 &&
        decide (x.origin = .inband)) = false ∧ 2 ≤ level.toNat ∧ level.toNat ≤ 4 ∧
        (s.blk.taken { hdr with session := 127 }).dict.sessions.length < 8) && (let v : Verdict := default; let cred : List Byte := [];
        decide (((s.blk.taken { hdr with session := 127 }).credentialOk { hdr with session := 127 } level.toNat cred v).1 = false)))) = true ∧
    meets { bF with dict := { bF.dict with fails := [4, 5, 6], regs := [(0x103002, 77)] } }
      (fun s => decide (0 = 0 ∧ s.blk.hears { hdr with session := 127 } = true ∧ s.blk.dict.lockout = false) && (let level : BitVec 8 := 2;
        decide (1 ≤ 127 ∧ 127 ≤ 127 ∧ ((s.blk.taken { hdr with session := 127 }).dict.sessions.any fun x => x.number == 127 &&
        decide (x.origin = .inband)) = false ∧ 2 ≤ level.toNat ∧ level.toNat ≤ 4 ∧
        (s.blk.taken { hdr with session := 127 }).dict.sessions.length < 8) && (let v : Verdict := default; let cred : List Byte := [];
        decide (((s.blk.taken { hdr with session := 127 }).credentialOk { hdr with session := 127 } level.toNat cred v).1 = false ∧
        s.blk.dict.fails.length < 4)))) = true ∧
    meets { bF with dict := { bF.dict with fails := [4, 5, 6, 7], regs := [(0x103002, 77)] } }
      (fun s => decide (0 = 0 ∧ s.blk.hears { hdr with session := 127 } = true ∧ s.blk.dict.lockout = false) && (let level : BitVec 8 := 2;
        decide (1 ≤ 127 ∧ 127 ≤ 127 ∧ ((s.blk.taken { hdr with session := 127 }).dict.sessions.any fun x => x.number == 127 &&
        decide (x.origin = .inband)) = false ∧ 2 ≤ level.toNat ∧ level.toNat ≤ 4 ∧
        (s.blk.taken { hdr with session := 127 }).dict.sessions.length < 8) && (let v : Verdict := default; let cred : List Byte := [];
        decide (((s.blk.taken { hdr with session := 127 }).credentialOk { hdr with session := 127 } level.toNat cred v).1 = false) &&
        (headThen s.blk.dict.fails fun x l => decide (l.length = 3 ∧ s.blk.lately x = true))))) = true ∧
    meets { bF with dict := { bF.dict with lockout := true } }
      (fun s => decide (s.blk.dict.lockout = true)) = true ∧
    meets { bF with dict := { bF.dict with fails := [4, 5, 6, 7], regs := [(0x103002, 77)] } }
      (fun s => decide (s.blk.dict.lockout = false)) = true ∧
    meets { bF with dict := { bF.dict with fails := [4, 5, 6, 7], regs := [(0x103002, 77)] } }
      (fun s => decide (hdr.path = 0 ∧ s.blk.hears hdr = true) && ((List.find? (fun x => x.number == hdr.session &&
        decide (x.origin = hdr.origin)) (s.blk.taken hdr).dict.sessions).any fun _ => true)) = true ∧
    meets { bF with
      cvus := [(3, { running := true, owner := some (.inband, 1), bytes := 5 }), (4, { running := true, owner := some (.inband, 2) })] }
      (fun s => decide (hdr.path = 0 ∧ s.blk.hears hdr = true) && ((List.find? (fun x => x.number == hdr.session &&
        decide (x.origin = hdr.origin)) (s.blk.taken hdr).dict.sessions).any fun _ => let u : Fin 16 := 3;
        decide ((s.blk.cvu u.val).running = true ∧ (s.blk.cvu u.val).owner = some (hdr.origin, hdr.session)))) = true ∧
    meets { bF with dict := { bF.dict with fails := [4, 5, 6, 7], regs := [(0x103002, 77)] } }
      (fun s => decide (hdr.path = 0 ∧ s.blk.hears hdr = true) && ((List.find? (fun x => x.number == hdr.session &&
        decide (x.origin = hdr.origin)) (s.blk.taken hdr).dict.sessions).any fun _ => let u : Fin 16 := 1;
        decide ((s.blk.cvu u.val).owner ≠ some (hdr.origin, hdr.session)))) = true ∧
    meets { bF with dict := { bF.dict with fails := [4, 5, 6, 7], regs := [(0x103002, 77)] } }
      (fun s => decide (0 = 0 ∧ s.blk.hears { hdr with session := 0 } = true ∧ List.find? (fun x => x.number == 0 &&
        decide (x.origin = .inband)) (s.blk.taken { hdr with session := 0 }).dict.sessions = none)) = true ∧
    meets { bF with dict := { bF.dict with fails := [4, 5, 6, 7], regs := [(0x103002, 77)] } }
      (fun s => decide (s.blk.served = true)) = true ∧
    meets { bC with
      mrg := {
          ports := [(32, { proxies := [{ tag := 5, hdr := hdr, index := 0x1000, sub := 7 }, { tag := 6, hdr := hdr, index := 1, sub := 1 }] })] } }
      (fun s => decide (s.blk.running = true ∧ s.blk.cRole = true) && (let tag : BitVec 8 := 1; let p : Port := 1; decide (List.filter (fun x =>
        x.tag == tag.toNat && !x.answered) (s.blk.port (p.val + 1)).proxies = []))) = true ∧
    meets { bC with
      mrg := {
          ports := [(32, { proxies := [{ tag := 5, hdr := hdr, index := 0x1000, sub := 7 }, { tag := 6, hdr := hdr, index := 1, sub := 1 }] })] } }
      (fun s => decide (s.blk.running = true ∧ s.blk.cRole = true) && (let tag : BitVec 8 := 5; let p : Port := 31; oneThen (List.filter (fun x =>
        x.tag == tag.toNat && !x.answered) (s.blk.port (p.val + 1)).proxies) fun x => decide (x.hdr.origin ≠ .proxiedUnit))) = true := by decide +kernel

/-- The premises of each clause of KeepsAndPairWrites are met. -/
theorem meets_KeepsAndPairWrites :
    meets bC
      (fun s => decide (0 = 0 ∧ true = true ∧ s.blk.hears { hdr with pair := true } = true) && (let body : List Byte := bytesLE 6 9 ++ [100, 0];
        decide (6 ≤ body.length) && (let sub : BitVec 8 := 5; let index : BitVec 16 := 0x1050;
        decide (refusedSince (s.blk.taken { hdr with pair := true }) ((s.blk.taken { hdr with pair := true }).writeEntry { hdr with pair := true } (index.toNat * 256 + sub.toNat) (List.drop 6 body)) = false ∧
        (s.blk.taken { hdr with pair := true }).accessIs Access.rs (index.toNat * 256 + sub.toNat) = false ∧
        (s.blk.taken { hdr with pair := true }).inTime (natLE (List.take 6 body)) = true ∧
        (s.blk.taken { hdr with pair := true }).dict.pairs.length < 8)))) = true ∧
    meets { bF with dict := { bF.dict with keeping := some (hdr, 3, [(9, 9)]) } }
      (fun s => decide (s.blk.running = true ∧ (∀ p ∈ s.blk.dict.pairs, s.blk.time.orbit < p.apply))) = true ∧
    meets { bF with dict := { bF.dict with keeping := some (hdr, 3, [(9, 9)]) } }
      (fun s => decide (s.blk.running = true)) = true ∧
    meets { bC with
      dict := { bC.dict with pairs := [⟨8, { hdr with pair := true }, 0x1050, 5, [100, 0]⟩, ⟨8, { hdr with pair := true }, 0x1050, 5, [200, 0]⟩] } }
      (fun s => decide (s.blk.running = true) && (((after Instr.pairWriteApply s).dict.pairs).any fun p => true)) = true ∧
    meets { bF with dict := { bF.dict with keeping := some (hdr, 3, [(9, 9)]) } }
      (fun s => decide (s.blk.writable hdr 1052673 4 = true) && (let key : BitVec 32 := 0; decide (key.toNat ≠ 1262830928))) = true ∧
    meets { bF with dict := { bF.dict with keeping := some (hdr, 3, [(9, 9)]) } }
      (fun s => decide (s.blk.writable hdr 1052673 4 = true) && (let key : BitVec 32 := 0x4B454550; decide (key.toNat = 1262830928 ∧
        ((s.blk.taken hdr).dict.keeping.isSome || (s.blk.taken hdr).downloading || (s.blk.taken hdr).flashWriting) = true))) = true ∧
    meets bC
      (fun s => decide (s.blk.writable hdr 1052673 4 = true) && (let key : BitVec 32 := 0x4B454550; decide (key.toNat = 1262830928 ∧
        ((s.blk.taken hdr).dict.keeping.isSome || (s.blk.taken hdr).downloading || (s.blk.taken hdr).flashWriting) = false ∧
        s.blk.hasFlash = false))) = true ∧
    meets { bF with flash := { present := true, capacity := 128, keep0 := some [(1, 2)], keep1 := some [], latest := 0 } }
      (fun s => decide (s.blk.writable hdr 1052673 4 = true) && (let key : BitVec 32 := 0x4B454550; decide (key.toNat = 1262830928 ∧
        ((s.blk.taken hdr).dict.keeping.isSome || (s.blk.taken hdr).downloading || (s.blk.taken hdr).flashWriting) = false ∧
        s.blk.hasFlash = true))) = true ∧
    meets { bF with dict := { bF.dict with keeping := some (hdr, 3, [(9, 9)]) } }
      (fun s => s.blk.dict.keeping.any fun (h, n, t) => decide (n = 0 ∨ n = 3)) = true ∧
    meets { bF with dict := { bF.dict with keeping := some (hdr, 1, [(9, 9)]), landings := [hdr] } }
      (fun s => s.blk.dict.keeping.any fun (h, n, t) => decide (n = 1 ∨ n = 2)) = true ∧
    meets { bF with
      flash := { present := true, capacity := 128, keep0 := some [(1, 2)], keep1 := some [], latest := 0 },
      dict := { bF.dict with keeping := some (hdr, 1, [(9, 9)]) } }
      (fun s => s.blk.dict.keeping.any fun (h, n, t) => decide ((n = 1 ∨ n = 2) ∧ n = 1 ∧ s.blk.dict.landings.contains h = false)) = true ∧
    meets { bF with dict := { bF.dict with keeping := some (hdr, 1, [(9, 9)]), landings := [hdr] } }
      (fun s => s.blk.dict.keeping.any fun (h, n, t) => decide ((n = 1 ∨ n = 2) ∧ n = 1 ∧ s.blk.dict.landings.contains h = true)) = true ∧
    meets { bF with
      flash := { present := true, capacity := 128, keep0 := some [(1, 2)], keep1 := some [], latest := 0 },
      dict := { bF.dict with keeping := some (hdr, 2, [(9, 9)]) } }
      (fun s => s.blk.dict.keeping.any fun (h, n, t) => decide ((n = 1 ∨ n = 2) ∧ n = 2)) = true ∧
    meets { bF with dict := { bF.dict with keeping := some (hdr, 1, [(9, 9)]), landings := [hdr] } }
      (fun s => s.blk.dict.keeping.any fun (h, n, t) => decide ((n = 1 ∨ n = 2) ∧ n = 1)) = true ∧
    meets { bF with dict := { bF.dict with keeping := some (hdr, 3, [(9, 9)]) } }
      (fun s => decide (s.blk.writable hdr 1052674 4 = true) && (let key : BitVec 32 := 0x44464C54; decide (key.toNat = 1145457748))) = true ∧
    meets { bF with dict := { bF.dict with keeping := some (hdr, 3, [(9, 9)]) } }
      (fun s => decide (s.blk.writable hdr 1052674 4 = true) && (let key : BitVec 32 := 0; decide (key.toNat ≠ 1145457748))) = true ∧
    meets { bF with dict := { bF.dict with keeping := some (hdr, 3, [(9, 9)]) } }
      (fun s => decide (s.blk.writable hdr 4194566 1 = true) && (let value : BitVec 8 := 1; decide (value.toNat = 1))) = true ∧
    meets { bF with dict := { bF.dict with keeping := some (hdr, 3, [(9, 9)]) } }
      (fun s => decide (s.blk.writable hdr 4194566 1 = true) && (let value : BitVec 8 := 1; decide (value.toNat = 1 ∧
        s.blk.time.everLocked = true))) = true ∧
    meets { bF with dict := { bF.dict with keeping := some (hdr, 3, [(9, 9)]) } }
      (fun s => decide (s.blk.writable hdr 4194566 1 = true) && (let value : BitVec 8 := 0; decide (value.toNat = 0))) = true ∧
    meets { bF with dict := { bF.dict with keeping := some (hdr, 3, [(9, 9)]) } }
      (fun s => decide (s.blk.writable hdr 4194566 1 = true) && (let value : BitVec 8 := 2; decide (1 < value.toNat))) = true ∧
    meets { bF with dict := { bF.dict with keeping := some (hdr, 3, [(9, 9)]) } }
      (fun s => decide (s.blk.writable hdr 4198408 1 = true) && (let value : BitVec 8 := 1; decide (value.toNat = 1))) = true ∧
    meets { bF with dict := { bF.dict with keeping := some (hdr, 3, [(9, 9)]) } }
      (fun s => decide (s.blk.writable hdr 4198408 1 = true) && (let value : BitVec 8 := 2; decide (1 < value.toNat))) = true ∧
    meets { bF with dict := { bF.dict with keeping := some (hdr, 3, [(9, 9)]) } }
      (fun s => decide (s.blk.writable hdr 7864323 1 = true) && (let value : BitVec 8 := 1; decide (value.toNat = 1))) = true ∧
    meets bC
      (fun s => decide (s.blk.writable hdr 7864323 1 = true) && (let value : BitVec 8 := 1; decide (value.toNat = 1 ∧ (onCan hdr.origin = true ∨
        s.blk.cRole = true)))) = true ∧
    meets { bF with dict := { bF.dict with keeping := some (hdr, 3, [(9, 9)]) } }
      (fun s => decide (s.blk.writable hdr 7864323 1 = true) && (let value : BitVec 8 := 2; decide (1 < value.toNat))) = true := by decide +kernel

/-- The premises of each clause of CanControllersRun are met. -/
theorem meets_CanControllersRun :
    meets { bF with
      dict := { bF.dict with
          canA := { state := 1, listen := false },
          canB := { state := 2, listen := false },
          transfers := [⟨{ hdr with origin := .canA 4 }, 1, 1, true, 0, [], 0, 0, 0, 0⟩,
            ⟨{ hdr with origin := .canB 4 }, 1, 1, true, 0, [], 0, 0, 0, 0⟩],
          regs := [(0x100101, 9)] },
      fuses := { identity := 77 } }
      (fun s => decide (s.blk.served = true ∧ (s.blk.can false).up = true)) = true ∧
    meets { bF with
      dict := { bF.dict with
          canA := { state := 1, listen := false },
          canB := { state := 2, listen := false },
          transfers := [⟨{ hdr with origin := .canA 4 }, 1, 1, true, 0, [], 0, 0, 0, 0⟩,
            ⟨{ hdr with origin := .canB 4 }, 1, 1, true, 0, [], 0, 0, 0, 0⟩],
          regs := [(0x100101, 9)] },
      fuses := { identity := 77 } }
      (fun s => decide (s.blk.served = true ∧ (s.blk.can false).up = true)) = true ∧
    meets { bF with
      dict := { bF.dict with
          canA := { state := 1, listen := false },
          canB := { state := 2, listen := false },
          transfers := [⟨{ hdr with origin := .canA 4 }, 1, 1, true, 0, [], 0, 0, 0, 0⟩,
            ⟨{ hdr with origin := .canB 4 }, 1, 1, true, 0, [], 0, 0, 0, 0⟩],
          regs := [(0x100101, 9)] },
      fuses := { identity := 77 } }
      (fun s => decide (s.blk.served = true ∧ (s.blk.can false).up = true) && (let identity : Word64 := 77;
        decide (identity = s.blk.fuses.identity) && (let node : BitVec 8 := 1; decide (1 ≤ node.toNat ∧ node.toNat ≤ 126)))) = true ∧
    meets { bF with
      dict := { bF.dict with
          canA := { state := 1, listen := false },
          canB := { state := 2, listen := false },
          transfers := [⟨{ hdr with origin := .canA 4 }, 1, 1, true, 0, [], 0, 0, 0, 0⟩,
            ⟨{ hdr with origin := .canB 4 }, 1, 1, true, 0, [], 0, 0, 0, 0⟩],
          regs := [(0x100101, 9)] },
      fuses := { identity := 77 } }
      (fun s => decide (s.blk.served = true ∧ (s.blk.can false).up = true) && (let identity : Word64 := 0;
        decide (identity ≠ s.blk.fuses.identity))) = true ∧
    meets { bF with
      dict := { bF.dict with
          canA := { state := 3 },
          canB := { state := 2, listen := false },
          transfers := [⟨{ hdr with origin := .canA 4 }, 1, 1, true, 0, [], 0, 0, 0, 0⟩,
            ⟨{ hdr with origin := .canB 4 }, 1, 1, true, 0, [], 0, 0, 0, 0⟩],
          regs := [(0x100101, 9)] },
      fuses := { identity := 77 } }
      (fun s => decide (s.blk.served = true ∧ (s.blk.can false).state = 3)) = true ∧
    meets { bF with
      dict := { bF.dict with
          canA := { state := 1, listen := false },
          canB := { state := 2, listen := false },
          transfers := [⟨{ hdr with origin := .canA 4 }, 1, 1, true, 0, [], 0, 0, 0, 0⟩,
            ⟨{ hdr with origin := .canB 4 }, 1, 1, true, 0, [], 0, 0, 0, 0⟩],
          regs := [(0x100101, 9)] },
      fuses := { identity := 77 } }
      (fun s => decide (s.blk.served = true ∧ (s.blk.can false).state ≠ 3)) = true ∧
    meets { bF with
      dict := { bF.dict with
          canA := { state := 1, listen := false },
          canB := { state := 2, listen := false },
          transfers := [⟨{ hdr with origin := .canA 4 }, 1, 1, true, 0, [], 0, 0, 0, 0⟩,
            ⟨{ hdr with origin := .canB 4 }, 1, 1, true, 0, [], 0, 0, 0, 0⟩],
          regs := [(0x100101, 9)] },
      fuses := { identity := 77 } }
      (fun s => decide (s.blk.served = true ∧ (s.blk.can false).state ≠ 0)) = true ∧
    meets { bF with
      dict := { bF.dict with
          canA := { state := 1, listen := false },
          canB := { state := 2, listen := false },
          transfers := [⟨{ hdr with origin := .canA 4 }, 1, 1, true, 0, [], 0, 0, 0, 0⟩,
            ⟨{ hdr with origin := .canB 4 }, 1, 1, true, 0, [], 0, 0, 0, 0⟩],
          regs := [(0x100101, 9)] },
      fuses := { identity := 77 } }
      (fun s => decide (s.blk.served = true ∧ s.blk.reg 1069061 ≠ 0)) = true ∧
    meets { bF with
      dict := { bF.dict with
          canA := { state := 1, listen := false },
          canB := { state := 2, listen := false },
          transfers := [⟨{ hdr with origin := .canA 4 }, 1, 1, true, 0, [], 0, 0, 0, 0⟩,
            ⟨{ hdr with origin := .canB 4 }, 1, 1, true, 0, [], 0, 0, 0, 0⟩],
          regs := [(0x100101, 9), (0x105005, 0)] },
      fuses := { identity := 77 } }
      (fun s => decide (s.blk.served = true ∧ s.blk.reg 1069061 = 0)) = true := by decide +kernel

/-- The premises of each clause of MessagesAreTaken are met. -/
theorem meets_MessagesAreTaken :
    meets bF
      (fun s => decide (s.blk.running = true ∧ 0 < 256 ∧ 0 < 256) && (let env : Word64 := 0;
        decide (s.blk.targeted (bits (BitVec.toNat env) 63 62) = true) && ((s.blk.originOf (bits (BitVec.toNat env) 61 60)).any fun _ =>
        true))) = true ∧
    meets bF
      (fun s => decide (s.blk.running = true ∧ 0 < 256 ∧ 0 < 256) && (let env : Word64 := 0;
        decide (s.blk.targeted (bits (BitVec.toNat env) 63 62) = true) && ((s.blk.originOf (bits (BitVec.toNat env) 61 60)).any fun _ =>
        let body : List Byte := [100, 0]; decide (body.length < 256)))) = true ∧
    meets bF
      (fun s => decide (s.blk.running = true ∧ 0 < 256 ∧ 0 < 256) && (let env : Word64 := 0;
        decide (s.blk.targeted (bits (BitVec.toNat env) 63 62) = true) && ((s.blk.originOf (bits (BitVec.toNat env) 61 60)).any fun _ =>
        true))) = true ∧
    meets bC
      (fun s => decide (s.blk.running = true ∧ 0 < 256 ∧ 0 < 256) && (let env : Word64 := 0x8000000000000000;
        decide (s.blk.targeted (bits (BitVec.toNat env) 63 62) = false))) = true ∧
    meets bC
      (fun s => decide (s.blk.running = true ∧ s.blk.cRole = true ∧ s.blk.topology = 0)) = true ∧
    meets { bC with sets := { act := some { folio := { fol with topology := 1 } } } }
      (fun s => decide (s.blk.running = true ∧ s.blk.cRole = true ∧ s.blk.topology ≠ 0)) = true ∧
    meets bF
      (fun s => decide (s.blk.running = true ∧ s.blk.cRole = false ∧ (s.blk.queue 1).waits = false) && (let record : Word64 := 0;
        decide ((s.blk.queue 1).room (queueCapacity 1) { word := record, cross := s.blk.time.now : QRec }.control = true ∧
        (s.blk.queue 1).open_.length < 4))) = true ∧
    meets bF
      (fun s => decide (s.blk.running = true ∧ s.blk.cRole = false ∧ (s.blk.queue 1).waits = false) && (let record : Word64 := 0;
        decide ((s.blk.queue 1).room (queueCapacity 1) { word := record, cross := s.blk.time.now : QRec }.control = true ∧
        (s.blk.queue 1).open_.length < 4 ∧ 0 ≠ 1))) = true ∧
    meets bC
      (fun s => decide (s.blk.running = true ∧ s.blk.cRole = true) && (let m : Word64 := 0x800100300000000; decide (sourceOf m = 8))) = true ∧
    meets bC
      (fun s => decide (s.blk.running = true ∧ s.blk.cRole = true) && (let m : Word64 := 0x800100300000000; decide (sourceOf m = 8) &&
        (decide (s.blk.boot.decided = none)))) = true ∧
    meets bC
      (fun s => decide (s.blk.running = true ∧ s.blk.cRole = true) && (let m : Word64 := 0xC200100300000000; decide (sourceOf m = 194) &&
        (let p : Port := 0; decide ((tabGet [] s.blk.flt.workers (p.val + 1)).length < 64)))) = true ∧
    meets bC
      (fun s => decide (s.blk.running = true ∧ s.blk.cRole = true) && (let m : Word64 := 0; decide (sourceOf m ≠ 8 ∧ sourceOf m ≠ 194 ∧
        s.blk.reg 1069062 ≠ 1))) = true := by decide +kernel

/-- The premises of each clause of CvuUnitsRun are met. -/
theorem meets_CvuUnitsRun :
    meets { bF with cvus := [(0, { bytes := 4 }), (15, {})], dict := { bF.dict with regs := [] } }
      (fun s => let u : Fin 16 := 0; decide (s.blk.writable hdr (cvuKey u.val 6) 1 = true ∧ s.blk.cvuForeign hdr u.val = false ∧
        s.blk.cvuFault u.val = 0)) = true ∧
    meets { bF with cvus := [(0, { bytes := 4 }), (15, {})], dict := { bF.dict with regs := [] } }
      (fun s => let u : Fin 16 := 0; decide (s.blk.writable hdr (cvuKey u.val 6) 1 = true ∧ s.blk.cvuForeign hdr u.val = false ∧
        s.blk.cvuFault u.val = 0 ∧ 1 ≠ u.val)) = true ∧
    meets { bF with cvus := [(0, { bytes := 4 }), (15, {})], dict := { bF.dict with regs := [(cvuKey 15 1, 0xF1F)] } }
      (fun s => let u : Fin 16 := 15; decide (s.blk.writable hdr (cvuKey u.val 6) 1 = true ∧ s.blk.cvuForeign hdr u.val = false ∧
        s.blk.cvuFault u.val ≠ 0)) = true ∧
    meets { bF with cvus := [(0, { bytes := 4 }), (15, {})], dict := { bF.dict with regs := [] } }
      (fun s => let u : Fin 16 := 0; decide (s.blk.writable hdr (cvuKey u.val 6) 1 = true ∧ s.blk.cvuForeign hdr u.val = false)) = true ∧
    meets { bF with cvus := [(0, { bytes := 4 }), (15, {})], dict := { bF.dict with regs := [] } }
      (fun s => let u : Fin 16 := 0; decide (s.blk.writable hdr (cvuKey u.val 6) 1 = true ∧ s.blk.cvuForeign hdr u.val = false ∧ 1 ≠ u.val)) = true ∧
    meets { bF with
      cvus := [(0, { bytes := 4 }), (15, { running := true, owner := some (.inband, 2), value := 3 })],
      dict := { bF.dict with regs := [] } }
      (fun s => let u : Fin 16 := 15; decide (s.blk.writable hdr (cvuKey u.val 6) 1 = true ∧ s.blk.cvuForeign hdr u.val = true)) = true ∧
    meets { bF with
      cvus := [(0, { bytes := 4 }), (15, { running := true, owner := some (.inband, 1), value := 3, bytes := 2 })],
      dict := { bF.dict with regs := [(cvuKey 15 1, 0x171F), (cvuKey 15 5, 0x0102)] } }
      (fun s => let data : List Byte := [0]; let u : Fin 16 := 15; decide (s.blk.writable hdr (cvuKey u.val 7) data.length = true ∧ data ≠ [] ∧
        (s.blk.cvu u.val).running = true ∧ s.blk.cvuForeign hdr u.val = false)) = true ∧
    meets { bF with
      cvus := [(0, { bytes := 4 }), (15, { running := true, owner := some (.inband, 1), value := 3, bytes := 2 })],
      dict := { bF.dict with regs := [(cvuKey 15 1, 0x171F), (cvuKey 15 5, 0x0102)] } }
      (fun s => let data : List Byte := [0]; let u : Fin 16 := 15; decide (s.blk.writable hdr (cvuKey u.val 7) data.length = true ∧ data ≠ [] ∧
        (s.blk.cvu u.val).running = true ∧ s.blk.cvuForeign hdr u.val = false ∧ 0 ≠ u.val)) = true ∧
    meets { bF with cvus := [(0, { bytes := 4 }), (15, {})], dict := { bF.dict with regs := [] } }
      (fun s => let data : List Byte := []; let u : Fin 16 := 0; decide (s.blk.writable hdr (cvuKey u.val 7) data.length = true ∧ data = [])) = true ∧
    meets { bF with cvus := [(0, { bytes := 4 }), (15, {})], dict := { bF.dict with regs := [] } }
      (fun s => let data : List Byte := [0]; let u : Fin 16 := 0; decide (s.blk.writable hdr (cvuKey u.val 7) data.length = true ∧ data ≠ [] ∧
        ((s.blk.cvu u.val).running = false ∨ s.blk.cvuForeign hdr u.val = true))) = true := by decide +kernel

/-- The premises of each clause of KeysAndFloorAreBurned are met. -/
theorem meets_KeysAndFloorAreBurned :
    meets { bF with sets := { act := some { folio := { fol with version := 3 } } }, fuses := { floor := 3 } }
      (fun s => decide (s.blk.writable hdr 8130562 4 = true) && (let key : BitVec 32 := 0; decide (key.toNat ≠ 1380928588 ∨
        s.blk.activeVersion ≤ s.blk.fuses.floor))) = true ∧
    meets { bF with
      sets := { act := some { folio := { fol with version := 3 } }, shd := { state := .verified, folio := { fol with version := 2 } } },
      fuses := { floor := 2 } }
      (fun s => decide (s.blk.writable hdr 8130562 4 = true) && (let key : BitVec 32 := 0x524F4C4C; decide (key.toNat = 1380928588 ∧
        s.blk.fuses.floor < s.blk.activeVersion ∧
        (s.blk.env.warn || (s.blk.taken hdr).downloading || (s.blk.taken hdr).flashWriting || s.blk.shadowBelow (min s.blk.activeVersion 256)) = true))) = true ∧
    meets { bF with sets := { act := some { folio := { fol with version := 3 } } }, fuses := { floor := 2 } }
      (fun s => decide (s.blk.writable hdr 8130562 4 = true) && (let key : BitVec 32 := 0x524F4C4C; decide (key.toNat = 1380928588 ∧
        s.blk.fuses.floor < s.blk.activeVersion ∧
        (s.blk.env.warn || (s.blk.taken hdr).downloading || (s.blk.taken hdr).flashWriting || s.blk.shadowBelow (min s.blk.activeVersion 256)) = false))) = true ∧
    meets { bF with sets := { act := some { folio := { fol with version := 3 } } }, fuses := { floor := 2 } }
      (fun s => decide (s.blk.writable hdr 8130562 4 = true) && (let key : BitVec 32 := 0x524F4C4C; decide (key.toNat = 1380928588 ∧
        s.blk.fuses.floor < min s.blk.activeVersion 256 ∧
        (s.blk.env.warn || (s.blk.taken hdr).downloading || (s.blk.taken hdr).flashWriting || s.blk.shadowBelow (min s.blk.activeVersion 256)) = false))) = true ∧
    meets { bF with fuses := { burned := 7 } }
      (fun s => let hash : List Byte := (List.replicate 48 9); decide (s.blk.writable hdr 8134661 hash.length = true ∧ s.blk.owned = true)) = true ∧
    meets { bF with env := { warn := true } }
      (fun s => let hash : List Byte := (List.replicate 48 9); decide (s.blk.writable hdr 8134661 hash.length = true ∧ s.blk.owned = false ∧
        s.blk.env.warn = true)) = true ∧
    meets { bF with sets := { act := some { folio := { fol with version := 3 } } }, fuses := { floor := 3 } }
      (fun s => let hash : List Byte := (List.replicate 48 9); decide (s.blk.writable hdr 8134661 hash.length = true ∧ s.blk.owned = false ∧
        s.blk.env.warn = false)) = true ∧
    meets { bF with sets := { act := some { folio := { fol with version := 3 } } }, fuses := { floor := 3 } }
      (fun s => let image : List Byte := updImage 1 3; decide (s.blk.writable hdr 8134660 image.length = true) && (let burns : List Bool := [];
        let i : Instr := .ownerKeyBurn hdr (updImage 1 3) folioVerdict []; let v : Verdict := folioVerdict;
        decide ((i = Instr.ownerKeyBurn hdr image v burns ∨ i = Instr.ownerKeyRevoke hdr image v burns ∨
        i = Instr.vendorKeyRevoke hdr image v burns) ∧ (¬(s.blk.imageCheck typeUpdate image v = 0 ∧ (imgPayload image).length = 52 ∧
        s.blk.updateOk (field (imgPayload image) 0 1) (field (imgPayload image) 1 1) (octets (imgPayload image) 4 48) = true))))) = true ∧
    meets { bF with fuses := { burned := 15, keyHashes := [[], [], [7]] }, env := { warn := true } }
      (fun s => let image : List Byte := updImage 1 3; decide (s.blk.writable hdr 8134660 image.length = true) && (let burns : List Bool := [];
        let i : Instr := .ownerKeyBurn hdr (updImage 1 3) folioVerdict []; let v : Verdict := folioVerdict;
        decide ((i = Instr.ownerKeyBurn hdr image v burns ∨ i = Instr.ownerKeyRevoke hdr image v burns ∨
        i = Instr.vendorKeyRevoke hdr image v burns) ∧ (s.blk.imageCheck typeUpdate image v = 0 ∧ (imgPayload image).length = 52 ∧
        s.blk.updateOk (field (imgPayload image) 0 1) (field (imgPayload image) 1 1) (octets (imgPayload image) 4 48) = true) ∧
        s.blk.env.warn = true))) = true ∧
    meets { bF with fuses := { burned := 15, keyHashes := [[], [], [7]] } }
      (fun s => let image : List Byte := updImage 1 3; decide (s.blk.writable hdr 8134660 image.length = true) && (let v : Verdict := folioVerdict;
        decide ((s.blk.imageCheck typeUpdate image v = 0 ∧ (imgPayload image).length = 52 ∧
        s.blk.updateOk (field (imgPayload image) 0 1) (field (imgPayload image) 1 1) (octets (imgPayload image) 4 48) = true) ∧
        s.blk.env.warn = false ∧ field (imgPayload image) 0 1 = 1))) = true ∧
    meets { bF with fuses := { burned := 15, keyHashes := [[], [], [7]] } }
      (fun s => let image : List Byte := updImage 2 1; decide (s.blk.writable hdr 8134660 image.length = true) && (let v : Verdict := folioVerdict;
        decide ((s.blk.imageCheck typeUpdate image v = 0 ∧ (imgPayload image).length = 52 ∧
        s.blk.updateOk (field (imgPayload image) 0 1) (field (imgPayload image) 1 1) (octets (imgPayload image) 4 48) = true) ∧
        s.blk.env.warn = false ∧ field (imgPayload image) 0 1 = 2))) = true ∧
    meets { bF with fuses := { burned := 15, keyHashes := [[], [], [7]] } }
      (fun s => let image : List Byte := updImage 3 1; decide (s.blk.writable hdr 8134660 image.length = true) && (let v : Verdict := folioVerdict;
        decide ((s.blk.imageCheck typeUpdate image v = 0 ∧ (imgPayload image).length = 52 ∧
        s.blk.updateOk (field (imgPayload image) 0 1) (field (imgPayload image) 1 1) (octets (imgPayload image) 4 48) = true) ∧
        s.blk.env.warn = false ∧ field (imgPayload image) 0 1 = 3))) = true := by decide +kernel

/-- The premises of each clause of TokensAndReports are met. -/
theorem meets_TokensAndReports :
    meets bF
      (fun s => let image : List Byte := [1, 2, 3, 4, 5]; decide (s.blk.writable hdr 8138753 image.length = true)) = true ∧
    meets bF
      (fun s => let nonce : List Byte := List.replicate 32 7; decide (s.blk.writable hdr 8146945 nonce.length = true ∧
        s.blk.reg 8146947 ≠ 1)) = true ∧
    meets { bF with sec := {}, fuses := {}, dict := { bF.dict with regs := [(0x7C5003, 1)] } }
      (fun s => let nonce : List Byte := List.replicate 32 7; decide (s.blk.writable hdr 8146945 nonce.length = true ∧
        s.blk.reg 8146947 = 1)) = true ∧
    meets bF
      (fun s => decide (s.blk.reg 8146947 ≠ 1)) = true ∧
    meets { bF with sec := { certBad := true, payload := List.replicate 100 1 }, fuses := {}, dict := { bF.dict with regs := [(0x7C5003, 1)] } }
      (fun s => decide (s.blk.served = true ∧ s.blk.reg 8146947 = 1 ∧ s.blk.sec.payload ≠ [] ∧ s.blk.sec.certBad = true)) = true ∧
    meets { bF with
      sec := { epoch := some 0, leaf := 1023, payload := List.replicate 100 1 },
      fuses := {},
      dict := { bF.dict with regs := [(0x7C5003, 1)] } }
      (fun s => decide (s.blk.served = true ∧ s.blk.reg 8146947 = 1 ∧ s.blk.sec.payload ≠ [] ∧ s.blk.sec.certBad = false) &&
        (s.blk.sec.epoch.any fun _ => decide (s.blk.sec.leaf < 1024))) = true ∧
    meets { bF with sec := { payload := List.replicate 100 1 }, fuses := {}, dict := { bF.dict with regs := [(0x7C5003, 1)] } }
      (fun s => decide (s.blk.served = true ∧ s.blk.reg 8146947 = 1 ∧ s.blk.sec.payload ≠ [] ∧ s.blk.sec.certBad = false ∧ (s.blk.sec.epoch = none ∨
        1024 ≤ s.blk.sec.leaf) ∧ s.blk.fuses.epochs < 1024 ∧ s.blk.env.warn = false)) = true ∧
    meets { bF with
      sec := { epoch := some 990, leaf := 1024, payload := List.replicate 100 1 },
      fuses := { epochs := 991 },
      dict := { bF.dict with regs := [(0x7C5003, 1)] } }
      (fun s => decide (s.blk.served = true ∧ s.blk.reg 8146947 = 1 ∧ s.blk.sec.payload ≠ [] ∧ s.blk.sec.certBad = false ∧ (s.blk.sec.epoch = none ∨
        1024 ≤ s.blk.sec.leaf) ∧ s.blk.fuses.epochs < 1024 ∧ s.blk.env.warn = false ∧ 990 < s.blk.fuses.epochs)) = true ∧
    meets { bF with sec := { payload := List.replicate 100 1 }, fuses := { epochs := 1024 }, dict := { bF.dict with regs := [(0x7C5003, 1)] } }
      (fun s => decide (s.blk.served = true ∧ s.blk.reg 8146947 = 1 ∧ s.blk.sec.payload ≠ [] ∧ s.blk.sec.certBad = false ∧ (s.blk.sec.epoch = none ∨
        1024 ≤ s.blk.sec.leaf) ∧ 1024 ≤ s.blk.fuses.epochs)) = true := by decide +kernel

/-- The premises of each clause of DevicesAreReleased are met. -/
theorem meets_DevicesAreReleased :
    meets (readyF 1)
      (fun s => decide (s.blk.running = true ∧ s.blk.cRole = false ∧ s.blk.boot.readySince = none ∧ s.blk.allReady = true)) = true ∧
    meets bF
      (fun s => decide (s.blk.running = true ∧ s.blk.cRole = false ∧ s.blk.allReady = false)) = true ∧
    meets { bF with boot := { bF.boot with lastReady := some 3976 } }
      (fun s => decide (s.blk.running = true ∧ s.blk.cRole = false) && (s.blk.boot.lastReady.any fun x => decide (s.blk.reg 1053699 = 0 ∧
        x + 1024 ≤ s.blk.time.now))) = true ∧
    meets { bF with boot := { bF.boot with lastReady := some 3976 }, dict := { bF.dict with regs := [(0x101403, 9)] } }
      (fun s => decide (s.blk.running = true ∧ s.blk.cRole = false ∧ s.blk.reg 1053699 ≠ 0)) = true ∧
    meets { bC with
      boot := { bC.boot with unitReleased := true, ready := [1], readySince := some 0 },
      sets := { act := some { folio := { fol with ports := [⟨1, 1, 0, 1, 1, 0⟩] } } },
      frm := { lanes := [(0, { rx := .active, tx := .active })] },
      mrg := { ports := [(1, { state := 0 })] } }
      (fun s => decide (s.blk.running = true ∧ s.blk.cRole = true ∧ s.blk.boot.unitReleased = true ∧ s.blk.boot.decided = none ∧
        s.blk.unready = [])) = true ∧
    meets { bC with
      boot := { bC.boot with unitReleased := true, readySince := some 0, countFrom := some 0 },
      time := { bC.time with now := 500000000 },
      sets := { act := some { folio := { fol with ports := [⟨1, 1, 0, 1, 1, 0⟩] } } } }
      (fun s => decide (s.blk.running = true ∧ s.blk.cRole = true ∧ s.blk.boot.unitReleased = true ∧ s.blk.boot.decided = none ∧
        s.blk.unready ≠ [])) = true ∧
    meets { bC with
      boot := { bC.boot with unitReleased := true, readySince := some 0, countFrom := some 0 },
      time := { bC.time with now := 500000000 },
      sets := { act := some { folio := { fol with ports := [⟨1, 1, 0, 1, 1, 0⟩] } } } }
      (fun s => decide (s.blk.running = true ∧ s.blk.cRole = true ∧ s.blk.boot.unitReleased = true ∧ s.blk.boot.decided = none) &&
        (s.blk.boot.countFrom.any fun x => decide (s.blk.elapsed x (s.blk.rs 1053700) = true))) = true ∧
    meets { bC with
      boot := { bC.boot with unitReleased := true, readySince := some 0, countFrom := some 0 },
      time := { bC.time with now := 500000000 },
      sets := { act := some { folio := { fol with ports := [⟨1, 1, 0, 1, 1, 0⟩] } } } }
      (fun s => decide (s.blk.running = true ∧ s.blk.cRole = true ∧ s.blk.boot.unitReleased = true ∧ s.blk.boot.decided = none) &&
        (s.blk.boot.countFrom.any fun x => decide (s.blk.elapsed x (s.blk.rs 1053700) = true ∧ s.blk.unready ≠ []))) = true ∧
    meets { bC with boot := { bC.boot with decided := some 4 } }
      (fun s => decide (s.blk.running = true) && (s.blk.boot.decided.any fun _ => true)) = true ∧
    meets { bC with boot := { bC.boot with decided := some 4 } }
      (fun s => decide (s.blk.running = true ∧ s.blk.sets.act.isSome = true ∧ s.blk.boot.released = false ∧ s.blk.nR ≠ 0 ∧
        s.blk.nR ≤ s.blk.time.orbit)) = true ∧
    meets { bF with dict := { bF.dict with regs := [(0x101403, 7)] }, boot := { bF.boot with decided := some 7 } }
      (fun s => decide (s.blk.running = true ∧ s.blk.sets.act.isSome = true ∧ s.blk.boot.released = false ∧ s.blk.nR ≠ 0 ∧
        s.blk.nR ≤ s.blk.time.orbit ∧ s.blk.cRole = false)) = true ∧
    meets { bC with
      boot := { bC.boot with unitReleased := true, readySince := some 0, countFrom := some 0 },
      time := { bC.time with now := 500000000 },
      sets := { act := some { folio := { fol with ports := [⟨1, 1, 0, 1, 1, 0⟩] } } } }
      (fun s => decide (s.blk.running = true ∧ (s.blk.nR = 0 ∨ s.blk.time.orbit < s.blk.nR))) = true := by decide +kernel

/-- The premises of each clause of BookplatesAreRead are met. -/
theorem meets_BookplatesAreRead :
    meets { bF with plate := { } }
      (fun s => decide (s.blk.running = true ∧ s.blk.cRole = false ∧ s.blk.plate.reading = true ∧ s.blk.plate.retried = s.blk.plate.tries) &&
        (let im : List Byte := tileImage; decide (tileCheck im = 0))) = true ∧
    meets { bF with plate := { } }
      (fun s => decide (s.blk.running = true ∧ s.blk.cRole = false ∧ s.blk.plate.reading = true ∧ s.blk.plate.retried = s.blk.plate.tries) &&
        (let im : List Byte := probeImage; decide (tileCheck im ≠ 0 ∧ s.blk.plate.tries < 2))) = true ∧
    meets { bF with plate := { tries := 2, retried := 2 } }
      (fun s => decide (s.blk.running = true ∧ s.blk.cRole = false ∧ s.blk.plate.reading = true ∧ s.blk.plate.retried = s.blk.plate.tries) &&
        (let im : List Byte := probeImage; decide (tileCheck im ≠ 0 ∧ 2 ≤ s.blk.plate.tries))) = true ∧
    meets { bF with plate := { } }
      (fun s => decide (s.blk.running = true ∧ s.blk.cRole = false ∧ s.blk.plate.reading = true ∧ s.blk.plate.retried = s.blk.plate.tries ∧
        s.blk.plate.tries < 2)) = true ∧
    meets { bF with plate := { tries := 2, retried := 2 } }
      (fun s => decide (s.blk.running = true ∧ s.blk.cRole = false ∧ s.blk.plate.reading = true ∧ s.blk.plate.retried = s.blk.plate.tries ∧
        2 ≤ s.blk.plate.tries ∧ s.blk.plate.answered = false)) = true ∧
    meets { bF with plate := { reading := false, tries := 1, state := 1, taken := true, serial := 77, answered := true } }
      (fun s => decide (s.blk.running = true ∧ s.blk.cRole = false ∧ s.blk.plate.reading = false)) = true ∧
    meets { bF with plate := { reading := false, tries := 1, state := 1, taken := true, serial := 77, answered := true } }
      (fun s => decide (s.blk.running = true ∧ s.blk.cRole = false ∧ s.blk.plate.reading = false ∧ s.blk.plate.state = 1) &&
        (let reads : List (Option Word64) := []; decide (List.filterMap id reads = []))) = true ∧
    meets { bF with plate := { reading := false, tries := 1, state := 5, taken := true, serial := 77, answered := true } }
      (fun s => decide (s.blk.running = true ∧ s.blk.cRole = false ∧ s.blk.plate.reading = false ∧ s.blk.plate.state = 5)) = true ∧
    meets { bF with plate := { reading := false, tries := 1, state := 1, taken := true, serial := 77, answered := true } }
      (fun s => decide (s.blk.running = true ∧ s.blk.cRole = false ∧ s.blk.plate.reading = false ∧ s.blk.plate.state = 1) && (let x : Word64 := 0;
        decide (x ≠ s.blk.plate.serial))) = true ∧
    meets { bF with plate := { } }
      (fun s => decide (s.blk.running = true) && (let e : EnvCh := 0; decide ((s.blk.envCh e.val).plate.reading = true ∧
        (s.blk.envCh e.val).plate.retried = (s.blk.envCh e.val).plate.tries) && (let im : List Byte := probeImage;
        decide (probeCheck im = 0)))) = true ∧
    meets { bF with plate := { } }
      (fun s => decide (s.blk.running = true) && (let e : EnvCh := 0; decide ((s.blk.envCh e.val).plate.reading = true ∧
        (s.blk.envCh e.val).plate.retried = (s.blk.envCh e.val).plate.tries) && (let im : List Byte := probeImage; decide (probeCheck im = 0 ∧
        11 ≠ e.val)))) = true ∧
    meets { bF with plate := { } }
      (fun s => decide (s.blk.running = true) && (let e : EnvCh := 0; decide ((s.blk.envCh e.val).plate.reading = true ∧
        (s.blk.envCh e.val).plate.retried = (s.blk.envCh e.val).plate.tries ∧ (s.blk.envCh e.val).plate.tries < 2))) = true ∧
    meets { bF with plate := { } }
      (fun s => decide (s.blk.running = true) && (let e : EnvCh := 0; decide ((s.blk.envCh e.val).plate.reading = true ∧
        (s.blk.envCh e.val).plate.retried = (s.blk.envCh e.val).plate.tries ∧ (s.blk.envCh e.val).plate.tries < 2 ∧ 11 ≠ e.val))) = true ∧
    meets { bF with env := { chans := [(11, { y := 4, plate := { tries := 2, retried := 2, answered := true } })] } }
      (fun s => decide (s.blk.running = true) && (let e : EnvCh := 11; decide ((s.blk.envCh e.val).plate.reading = true ∧
        (s.blk.envCh e.val).plate.retried = (s.blk.envCh e.val).plate.tries ∧ 2 ≤ (s.blk.envCh e.val).plate.tries))) = true ∧
    meets { bF with env := { chans := [(11, { y := 4, plate := { tries := 2, retried := 2, answered := true } })] } }
      (fun s => decide (s.blk.running = true) && (let e : EnvCh := 11; decide ((s.blk.envCh e.val).plate.reading = true ∧
        (s.blk.envCh e.val).plate.retried = (s.blk.envCh e.val).plate.tries ∧ 2 ≤ (s.blk.envCh e.val).plate.tries ∧ 0 ≠ e.val))) = true ∧
    meets { bF with
      env := { chans := [(11, { y := 4, plate := { reading := false, tries := 1, state := 1, taken := true, serial := 77, answered := true } })] } }
      (fun s => decide (s.blk.running = true) && (let e : EnvCh := 11; decide ((s.blk.envCh e.val).plate.reading = false ∧
        (s.blk.envCh e.val).plate.state = 1) && (let reads : List (Option Word64) := []; decide (List.filterMap id reads = [])))) = true ∧
    meets { bF with
      env := { chans := [(11, { y := 4, plate := { reading := false, tries := 1, state := 1, taken := true, serial := 77, answered := true } })] } }
      (fun s => decide (s.blk.running = true) && (let e : EnvCh := 11; decide ((s.blk.envCh e.val).plate.reading = false ∧
        (s.blk.envCh e.val).plate.state = 1) && (let reads : List (Option Word64) := []; decide (List.filterMap id reads = [] ∧ 0 ≠ e.val)))) = true ∧
    meets { bF with
      env := { chans := [(11, { y := 4, plate := { reading := false, tries := 1, state := 1, taken := true, serial := 77, answered := true } })] } }
      (fun s => decide (s.blk.running = true) && (let e : EnvCh := 11; decide ((s.blk.envCh e.val).plate.reading = false ∧
        (s.blk.envCh e.val).plate.state = 1) && (let x : Word64 := 0; decide (x ≠ (s.blk.envCh e.val).plate.serial)))) = true ∧
    meets { bF with
      env := { chans := [(11, { y := 4, plate := { reading := false, tries := 1, state := 1, taken := true, serial := 77, answered := true } })] } }
      (fun s => decide (s.blk.running = true) && (let e : EnvCh := 11; decide ((s.blk.envCh e.val).plate.reading = false ∧
        (s.blk.envCh e.val).plate.state = 1) && (let x : Word64 := 0; decide (x ≠ (s.blk.envCh e.val).plate.serial ∧ 0 ≠ e.val)))) = true ∧
    meets { bF with plate := { } }
      (fun s => decide (s.blk.running = true)) = true := by decide +kernel

/-- The premises of each clause of EnvironmentIsWatched are met. -/
theorem meets_EnvironmentIsWatched :
    meets { bF with env := { chans := [(0, { outside := true })] }, dict := { bF.dict with regs := [(envKey 4 1, 16384), (envKey 5 1, 16384)] } }
      (fun _ => true) = true ∧
    meets { bF with env := { chans := [(0, { outside := true })] }, dict := { bF.dict with regs := [(envKey 4 1, 16384), (envKey 5 1, 16384)] } }
      (fun _ => let e : EnvCh := 0; decide (3 ≠ e.val)) = true ∧
    meets { bF with env := { chans := [(0, { outside := true })] }, dict := { bF.dict with regs := [(envKey 4 1, 16384), (envKey 5 1, 16384)] } }
      (fun s => decide (s.blk.running = true) && (let e : EnvCh := 0; decide ((s.blk.envCh e.val).outside = true ∧
        (s.blk.envCh e.val).fault = false))) = true ∧
    meets { bF with env := { chans := [(0, { outside := true })] }, dict := { bF.dict with regs := [(envKey 4 1, 16384), (envKey 5 1, 16384)] } }
      (fun s => decide (s.blk.running = true) && (let e : EnvCh := 0; decide ((s.blk.envCh e.val).outside = true ∧
        (s.blk.envCh e.val).fault = false) && (let k : EnvCh := 4; decide (envSource (s.blk.envConfig k.val) = e.val + 2)))) = true ∧
    meets { bF with env := { chans := [(0, { outside := true })] }, dict := { bF.dict with regs := [(envKey 4 1, 16384), (envKey 5 1, 16384)] } }
      (fun s => let e : EnvCh := 3; decide ((s.blk.envCh e.val).outside = false)) = true ∧
    meets { bF with env := { chans := [(0, { fault := true, invalid := 2 })] } }
      (fun s => decide (s.blk.running = true) && (let e : EnvCh := 0; decide ((s.blk.envCh e.val).outside = false ∧
        (s.blk.envCh e.val).fault = true))) = true ∧
    meets { bF with env := { chans := [(0, { fault := true, invalid := 2 })] } }
      (fun s => decide (s.blk.running = true) && (let e : EnvCh := 0; decide ((s.blk.envCh e.val).outside = false ∧
        (s.blk.envCh e.val).fault = true ∧ 3 ≠ e.val))) = true ∧
    meets { bF with env := { chans := [(0, { outside := true })] }, dict := { bF.dict with regs := [(envKey 4 1, 16384), (envKey 5 1, 16384)] } }
      (fun s => let e : EnvCh := 0; decide ((s.blk.envCh e.val).outside = true)) = true ∧
    meets { bF with env := { chans := [(0, { outside := true })] }, dict := { bF.dict with regs := [(envKey 4 1, 16384), (envKey 5 1, 16384)] } }
      (fun s => let o : Fin 4 := 0; decide ((s.blk.reg (outKey o.val 1)).testBit 31 = false)) = true ∧
    meets { bF with env := { chans := [(3, {})], outs := [(3, { state := 2 })] }, dict := { bF.dict with regs := [(outKey 3 1, 2197815296)] } }
      (fun s => let o : Fin 4 := 3; decide ((s.blk.reg (outKey o.val 1)).testBit 31 = true ∧
        s.blk.outFault (bits (s.blk.reg (outKey o.val 1)) 27 24) = true)) = true ∧
    meets { bF with
      env := { chans := [(3, { valid := true, y := -5 })], outs := [(3, { state := 2 })] },
      dict := { bF.dict with
          regs := [(outKey 3 1, 2197815296), (outKey 3 2, 0), (outKey 3 3, 65536), (outKey 3 5, 100), (outKey 3 6, 1000), (envKey 3 1, 0x80000000)] } }
      (fun s => let o : Fin 4 := 3; decide ((s.blk.reg (outKey o.val 1)).testBit 31 = true ∧
        s.blk.outFault (bits (s.blk.reg (outKey o.val 1)) 27 24) = false ∧ 0 < (s.blk.outV o.val (bits (s.blk.reg (outKey o.val 1)) 27 24)).2 ∧
        (s.blk.reg (outKey o.val 1)).testBit 30 = false)) = true ∧
    meets { bF with
      env := { chans := [(3, { valid := true, y := -5 })], outs := [(3, { state := 2 })] },
      dict := { bF.dict with
          regs := [(outKey 3 1, 3271557120), (outKey 3 2, 0), (outKey 3 3, 65536), (outKey 3 5, 100), (outKey 3 6, 1000), (envKey 3 1, 0x80000000)] } }
      (fun s => let o : Fin 4 := 3; decide ((s.blk.reg (outKey o.val 1)).testBit 31 = true ∧
        s.blk.outFault (bits (s.blk.reg (outKey o.val 1)) 27 24) = false ∧ 0 < (s.blk.outV o.val (bits (s.blk.reg (outKey o.val 1)) 27 24)).2 ∧
        (s.blk.reg (outKey o.val 1)).testBit 30 = true)) = true ∧
    meets { bF with env := { chans := [(0, { outside := true })] }, dict := { bF.dict with regs := [(envKey 4 1, 16384), (envKey 5 1, 16384)] } }
      (fun s => decide (s.blk.running = true)) = true ∧
    meets { bF with env := { chans := [(0, { outside := true })] }, dict := { bF.dict with regs := [(envKey 4 1, 16384), (envKey 5 1, 16384)] } }
      (fun s => decide (s.blk.running = true) && (decide (s.blk.env.warn = false))) = true ∧
    meets { bF with env := { warn := true, warnEndDue := true, below := [4], lowest := [(4, 700)] } }
      (fun s => decide (s.blk.running = true ∧ s.blk.env.warn = true)) = true ∧
    meets { bF with env := { chans := [(0, { outside := true })] }, dict := { bF.dict with regs := [(envKey 4 1, 16384), (envKey 5 1, 16384)] } }
      (fun s => decide (s.blk.running = true ∧ s.blk.env.warn = false)) = true ∧
    meets { bF with env := { freeze := true, lowest := [(4, 700)] }, adc := { frozen := true }, twin := { warnRun := 9 } }
      (fun s => decide (s.blk.running = true ∧ s.blk.env.freeze = true ∧ s.blk.env.warn = false ∧ s.blk.elapsed s.blk.env.clearAt 1 = true)) = true ∧
    meets { bF with env := { freeze := true, clearAt := 5000 } }
      (fun s => decide (s.blk.running = true ∧ s.blk.elapsed s.blk.env.clearAt 1 = false)) = true ∧
    meets { bF with env := { chans := [(0, { outside := true })] }, dict := { bF.dict with regs := [(envKey 4 1, 16384), (envKey 5 1, 16384)] } }
      (fun s => decide (s.blk.running = true ∧ s.blk.env.freeze = false)) = true := by decide +kernel

/-- The premises of each clause of UpkeepIsDone are met. -/
theorem meets_UpkeepIsDone :
    meets { bF with time := { now := 5000 }, env := { measured := [List.replicate 9 400] } }
      (fun s => let readings : List ℤ := List.replicate 9 400; decide (readings.length = 9 ∧ s.blk.served = true)) = true ∧
    meets { bF with time := { now := 5000 }, env := { measured := [List.replicate 9 400] } }
      (fun s => decide (s.blk.running = true ∧ s.blk.time.everLocked = false) && (oneThen s.blk.env.measured fun _ => decide (s.blk.dict.pend = [] ∧
        s.blk.dict.swaps = [] ∧ s.blk.boot.restartDue = 0 ∧ s.blk.boot.resetDue = [] ∧ s.blk.sets.waiting = none))) = true ∧
    meets { bF with time := { now := 5000 }, env := { measured := [List.replicate 9 2399] } }
      (fun s => decide (s.blk.running = true ∧ s.blk.time.everLocked = false) && (oneThen s.blk.env.measured fun readings =>
        decide (s.blk.dict.pend = [] ∧ s.blk.dict.swaps = [] ∧ s.blk.boot.restartDue = 0 ∧ s.blk.boot.resetDue = [] ∧ s.blk.sets.waiting = none) &&
        (let i : CrossInput := { fx := 50000000, leakage := [], pulses := [], markers := [], badTables := [], voterFail := false, dissents := [], lms := [], upsets := [] };
        decide (s.blk.level16 3 ≤ (dieTemp readings (after (Instr.crossingBoundary i) s).env.voted).1)))) = true ∧
    meets { bF with time := { now := 5000 }, env := { measured := [List.replicate 9 400] } }
      (fun s => decide (s.blk.running = true ∧ s.blk.time.everLocked = false) && (oneThen s.blk.env.measured fun readings =>
        decide (s.blk.dict.pend = [] ∧ s.blk.dict.swaps = [] ∧ s.blk.boot.restartDue = 0 ∧ s.blk.boot.resetDue = [] ∧ s.blk.sets.waiting = none) &&
        (let i : CrossInput := { fx := 50000000, leakage := [], pulses := [], markers := [], badTables := [], voterFail := false, dissents := [], lms := [], upsets := [] };
        decide ((dieTemp readings (after (Instr.crossingBoundary i) s).env.voted).1 < s.blk.level16 3)))) = true ∧
    meets { bF with flt := { scrub := 0 } }
      (fun s => decide (s.blk.running = true ∧ s.blk.time.everLocked = true ∧ s.blk.flt.poisoned = []) &&
        (let found : List ScrubFind := [{ bank := 0x005#12, word := 0x0006#16, memory := .other, uncorrectable := false, byRead := true },
        { bank := 0x006#12, word := 0x0006#16, memory := .stack 3 0x004#11, uncorrectable := false, byRead := true }]; decide (∀ f ∈ found,
        f.uncorrectable = false ∧ s.blk.scrubbed f = true))) = true ∧
    meets { bF with flt := { scrub := 0 } }
      (fun s => decide (s.blk.running = true ∧ s.blk.time.everLocked = true ∧ s.blk.flt.poisoned = []) &&
        (let found : List ScrubFind := [{ bank := 0xfff#12, word := 0xffff#16, memory := .configSet, uncorrectable := true, byRead := true }];
        oneThen found fun f => decide (s.blk.scrubbed f = true ∧ f.uncorrectable = true ∧ f.memory = .configSet ∧
        (s.blk.siteTransients (siteId 6 f.bank.toNat)).length < 15))) = true ∧
    meets { bF with flt := { scrub := 0 } }
      (fun s => decide (s.blk.running = true ∧ s.blk.time.everLocked = true ∧ s.blk.flt.poisoned = []) &&
        (let found : List ScrubFind := [{ bank := 0x005#12, word := 0x0006#16, memory := .stack 3 0x004#11, uncorrectable := false, byRead := false }];
        decide (∀ f ∈ found, s.blk.scrubbed f = false))) = true ∧
    meets { bC with
      queues := [(rqOf 32, { words := [⟨0, [{ word := 1, cross := 4001, inC := false }, { word := 2, cross := 100, inC := true }], 4500, false⟩] })],
      sets := { act := some { folio := fol, entries := [(0x203002, 1000)] } } }
      (fun s => decide (s.blk.running = true ∧ s.blk.cRole = true) && (let p : Port := 0; decide (((s.blk.rqRecs (p.val + 1)).any fun r => !r.inC &&
        !r.own && (r.group || typeOf r.word != 132) && decide (r.arrived + s.blk.rs 2109442 ≤ s.blk.time.now)) = false))) = true ∧
    meets { bC with
      queues := [(rqOf 32, { words := [⟨0, [{ word := 1, cross := 4001, inC := false }, { word := 2, cross := 100, inC := true }], 4500, false⟩] })],
      sets := { act := some { folio := fol, entries := [(0x203002, 1000)] } } }
      (fun s => decide (s.blk.running = true ∧ s.blk.cRole = true) && (let p : Port := 31; decide (((s.blk.rqRecs (p.val + 1)).any fun r =>
        !r.inC && !r.own && (r.group || typeOf r.word != 132) && decide (r.arrived + s.blk.rs 2109442 ≤ s.blk.time.now)) = true))) = true := by decide +kernel

/-- The premises of each clause of JtagSelects are met. -/
theorem meets_JtagSelects :
    meets { bF with jtag := { ir := 9, boundary := [true], mode := .extest } }
      (fun s => decide (s.blk.boot.phase ≠ .powerReset)) = true ∧
    meets { bF with jtag := { ir := 9, boundary := [true], mode := .extest } }
      (fun s => decide (s.blk.boot.phase ≠ .powerReset)) = true ∧
    meets { bF with jtag := { ir := 9, boundary := [true], mode := .extest } }
      (fun s => decide (s.blk.boot.phase ≠ .powerReset) && (let code : BitVec 8 := 0; decide (code.toNat = 0 ∨ 5 < code.toNat))) = true ∧
    meets {}
      (fun s => decide (s.blk.boot.phase = .powerReset) && (([Instr.idcode, Instr.extest, Instr.clamp, Instr.highz]).any fun i => true)) = true := by decide +kernel

end Sys2Proof.Tests
end

section
/-! PROOFS. Fuse load (R3, R15, R432): the role table, the stop, and that a stopped device stays as it is until a reset. -/

namespace Sys2Proof.Machine

/-! ### The stop of R3 -/

theorem Block.sendOn_alert (b : Block) (path port : Nat) (m : Word64) : (b.sendOn path port m).1.ev.alert = b.ev.alert := by
  unfold Block.sendOn
  dsimp only
  split
  · rfl
  · split <;> rfl

theorem Block.send_alert (b : Block) (paths : List Nat) (port : Nat) (m : Word64) :
    (b.send paths port m).1.ev.alert = b.ev.alert := by
  unfold Block.send
  refine List.foldlRecOn (motive := fun r : Block × List Nat => r.1.ev.alert = b.ev.alert) paths _ rfl fun r hr p _ => ?_
  have hp : (r.1.sendOn p port m).1.ev.alert = b.ev.alert := (Block.sendOn_alert r.1 p port m).trans hr
  dsimp only
  split
  · rwa [Block.bump_ev]
  · exact hp

/-- A source that is raised does not judge ALERT_N: that is done at a boundary, or by the stop itself (R427). -/
@[simp] theorem Block.raise_alert (b : Block) (n : Nat) (l : List Fld) : (b.raise n l).ev.alert = b.ev.alert := by
  apply Block.raise_ind (P := fun x => x.ev.alert = b.ev.alert)
  · intro d; rw [Block.mark_ev]
  · intro x d hx; rwa [Block.mark_ev]
  · intro x m hx; exact hx
  · intro x k q m hx; rwa [Block.send_alert]

theorem tabFind_map {α β : Type} (t : Tab α) (f : α → β) (n : Nat) :
    tabFind (t.map fun p => (p.1, f p.2)) n = (tabFind t n).map f := by
  induction t with
  | nil => rfl
  | cons p t ih =>
    simp only [List.map_cons, tabFind]
    split
    · rfl
    · exact ih

/-- A lane with both halves Off. -/
def LaneSt.halvesOff (k : LaneSt) : LaneSt := { k with tx := .off, rx := .off, step := 0 }

theorem Block.everyLaneOff_find (b : Block) (l : Nat) :
    tabFind b.everyLaneOff.frm.lanes l = (tabFind b.frm.lanes l).map LaneSt.halvesOff := tabFind_map b.frm.lanes LaneSt.halvesOff l

/-- A lane that has no entry stands at its reset value, which is Off too. -/
theorem Block.everyLaneOff_lane (b : Block) (l : Nat) : (b.everyLaneOff.lane l).tx = .off ∧ (b.everyLaneOff.lane l).rx = .off := by
  unfold Block.lane tabGet
  rw [Block.everyLaneOff_find]
  cases tabFind b.frm.lanes l <;> exact ⟨rfl, rfl⟩

/-- What R3 says of a device whose fuse load has failed. -/
structure Block.HasStopped (b : Block) : Prop where
  phase : b.boot.phase = .stopped
  cause : b.boot.cause = 5
  alert : b.ev.alert = true
  lanes : ∀ l, (b.lane l).tx = .off ∧ (b.lane l).rx = .off

theorem Block.stop_hasStopped (b : Block) : b.stop.HasStopped where
  phase := rfl
  cause := rfl
  alert := rfl
  lanes := b.everyLaneOff_lane

theorem Block.HasStopped.raise {b : Block} (h : b.HasStopped) (n : Nat) (f : List Fld) : (b.raise n f).HasStopped where
  phase := by rw [Block.raise_boot, h.phase]
  cause := by rw [Block.raise_boot, h.cause]
  alert := by rw [Block.raise_alert, h.alert]
  lanes l := by
    have hl := h.lanes l
    unfold Block.lane at hl ⊢
    rwa [Block.raise_frm]

/-! ### The core runs -/

theorem Keeps.phase_eq {l : List Part} {a b : Block} (h : Keeps l a b) (hr : l.contains .role = false) (hb : l.contains .boot = false) :
    b.boot.phase = a.boot.phase := congrArg Boot.phase (h.boot_eq hr hb)

@[simp] theorem Block.bootTime_phase (b : Block) (i : Nat) : (b.bootTime i).boot.phase = b.boot.phase := rfl

@[simp] theorem Block.readFlash_phase (b : Block) : b.readFlash.boot.phase = b.boot.phase := by
  unfold Block.readFlash
  split
  · rfl
  · split
    · rfl
    · simp [Block.bootNoFolio]

/-- What runs at the end of fuse load sets the phase first, and nothing after it changes the phase. -/
theorem Block.bootRun_phase (b : Block) (r : FuseReport) : (b.bootRun r).boot.phase = .running := by
  refine (Block.readFlash_phase _).trans ?_
  refine (Keeps.phase_eq (l := [.flash, .sets, .chans, .chMask, .adc, .mrg, .frm, .twin, .flt, .regs, .dict, .ev, .sec, .free])
    (Block.wakeLinks_keeps (Block.engineTest_keeps (Block.remask_keeps (Block.applyList_keeps (Block.startCan_keeps
      (Block.newChallenge_keeps (Block.certCheck_keeps (Block.applyKept_keeps (Block.identifyFlash_keeps (.refl _ _)
      rfl) rfl) rfl) rfl) rfl) rfl) rfl) rfl) rfl) rfl rfl).trans ?_
  exact (Block.bootTime_phase _ _).trans ((Block.fuseValues_keeps (.refl [.bin, .adc, .frm] _) rfl).phase_eq rfl rfl)

theorem Block.fuseLoad_frame (b : Block) (r : FuseReport) : Keeps (footprint (.fuseLoad r)) b (b.fuseLoad r) :=
  Block.fuseLoad_keeps (.refl _ _) rfl

theorem exec_fuseLoad (r : FuseReport) (s : State) (h : s.blk.boot.phase = .fuseLoad) :
    exec (.fuseLoad r) s = .next { s with blk := s.blk.fuseLoad r } := by
  show execFuseLoad r s = _
  simp [execFuseLoad, State.run, Block.when, h]

theorem fuseLoad_does {r : FuseReport} {s : State} {P : Block → Prop} (h : s.blk.boot.phase = .fuseLoad) (hP : P (s.blk.fuseLoad r)) :
    Does (.fuseLoad r) s P :=
  ⟨_, exec_fuseLoad r s h, rfl, s.blk.fuseLoad_frame r, hP⟩

/-- The table of R15. -/
theorem roleOk_eq_table (fuse : Nat) (cRole : Bool) :
    roleOk fuse cRole = (match fuse with
      | 0 => true
      | 1 => !cRole
      | 2 => cRole
      | _ => false) := by
  match fuse with
  | 0 | 1 | 2 => cases cRole <;> rfl
  | n + 3 => simp [roleOk]

theorem Block.fuseLoad_noMajority (b : Block) {r : FuseReport} (h : r.noMajority.isSome = true) :
    (b.fuseLoad r).HasStopped ∧ (b.fuseLoad r).latched 0x02 = true := by
  obtain ⟨word, hw⟩ := Option.isSome_iff_exists.mp h
  have e : b.fuseLoad r = b.stop.raise 0x02 [.id 16 word] := by simp only [Block.fuseLoad, hw]
  rw [e]
  exact ⟨b.stop_hasStopped.raise _ _, Block.latched_raise_self _ (by decide) _⟩

theorem Block.fuseLoad_refused (b : Block) {r : FuseReport} (h : r.noMajority = none)
    (hrole : roleOk b.fuses.role.toNat b.boot.roleC = false) :
    (b.fuseLoad r).HasStopped ∧ (b.fuseLoad r).latched 0x01 = true := by
  simp only [Block.fuseLoad, h, Block.raise_fuses, Block.raise_boot, hrole, Bool.false_eq_true, if_false]
  exact ⟨(Block.stop_hasStopped _).raise _ _, Block.latched_raise_self _ (by decide) _⟩

theorem Block.fuseLoad_runs (b : Block) {r : FuseReport} (h : r.noMajority = none)
    (hrole : roleOk b.fuses.role.toNat b.boot.roleC = true) :
    (b.fuseLoad r).boot.phase = .running ∧ (b.fuseLoad r).boot.roleC = b.boot.roleC := by
  refine ⟨?_, (b.fuseLoad_frame r).role_eq rfl⟩
  simp only [Block.fuseLoad, h, Block.raise_fuses, Block.raise_boot, hrole, if_true]
  exact Block.bootRun_phase _ r

/-! ### A device that is not served is idle -/

section Unserved

variable {b : Block} (hs : b.served = false)

include hs

theorem Block.running_of_unserved : b.running = false := by
  simp only [Block.served, Bool.or_eq_false_iff] at hs
  exact hs.1

theorem Block.hears_of_unserved (h : Hdr) : b.hears h = false := by simp [Block.hears, hs]

theorem Block.receive_of_unserved (h : Hdr) (f : Block → Block) : b.receive h f = b := by
  simp [Block.receive, Block.hears_of_unserved hs, Block.running_of_unserved hs]

theorem Block.receiveShort_of_unserved (o : Origin) (f : Block → Block) : b.receiveShort o f = b := by
  simp [Block.receiveShort, Block.hears_of_unserved hs, Block.running_of_unserved hs]

theorem Block.writeTo_of_unserved (h : Hdr) (key len : Nat) (f : Block → Block) : b.writeTo h key len f = b := by
  unfold Block.writeTo Block.request
  split
  · exact Block.receive_of_unserved hs _ _
  · rfl

theorem Block.route_of_unserved (h : Hdr) (op idx sub arg : Nat) (body : List Byte) (own : Block → Block) :
    b.route h op idx sub arg body own = b := Block.receive_of_unserved hs _ _

theorem Block.writeMsg_of_unserved (h : Hdr) (idx sub : Nat) (body : List Byte) : b.writeMsg h idx sub body = b := by
  unfold Block.writeMsg
  split
  · exact Block.writeTo_of_unserved hs _ _ _ _
  · exact Block.route_of_unserved hs ..

theorem Block.abortMsg_of_unserved (h : Hdr) (code : Nat) : b.abortMsg h code = b := by
  simp [Block.abortMsg, Block.hears_of_unserved hs, Block.running_of_unserved hs]

theorem Block.boundaryCmd_of_unserved (i : CrossInput) (wrap : Bool) : b.boundaryCmd i wrap = b := by
  simp [Block.boundaryCmd, Block.when, hs, Block.running_of_unserved hs]

end Unserved

theorem Block.when_false {b : Block} {c : Bool} (hc : c = false) (f : Block → Block) : b.when c f = b := by simp [Block.when, hc]

/-! ### The boot phase under a command -/

theorem Block.endReset_phase (b : Block) (blk : Nat) : (b.endReset blk).boot.phase = b.boot.phase := by
  unfold Block.endReset
  split
  · split
    · rw [Block.raise_boot]; rfl
    · rfl
  · rfl

theorem Block.sealed_phase (b : Block) (ok : Bool) (h : Hdr) (slot : Nat) (silent : Bool) (image : List Byte) (serial : Nat) :
    (b.sealed ok h slot silent image serial).boot.phase = b.boot.phase := by
  cases ok <;> cases silent <;> simp [Block.sealed]

/-- Where a command completes, it leaves the boot phase as it was. -/
def KeepsPhase (i : Instr) (s : State) : Prop := ∀ t, exec i s = .next t → t.blk.boot.phase = s.blk.boot.phase

section

variable {i : Instr} {s : State} {b : Block}

theorem keepsPhase_of_next (hi : exec i s = .next { s with blk := b }) (hb : b.boot.phase = s.blk.boot.phase) : KeepsPhase i s := by
  intro t ht
  obtain rfl : { s with blk := b } = t := Host.Outcome.next.inj (hi.symm.trans ht)
  exact hb

/-- A command that leaves the block as it was keeps the phase. -/
theorem keepsPhase_of_idle (hi : exec i s = .next { s with blk := b }) (hb : b = s.blk) : KeepsPhase i s :=
  keepsPhase_of_next hi (by rw [hb])

/-- A command that waits for what does not hold keeps the phase. -/
theorem keepsPhase_of_guard {c : Bool} {f : Block → Block} (hi : exec i s = .next { s with blk := s.blk.when c f }) (hc : c = false) :
    KeepsPhase i s := keepsPhase_of_idle hi (by simp [Block.when, hc])

/-- A command that leaves the block as it was, where its operand is well formed. -/
theorem keepsPhase_of_idleIf {ok : Bool} {name : String} {f : Block → Block} (hi : exec i s = s.runIf ok name f)
    (hf : f s.blk = s.blk) : KeepsPhase i s := by
  cases ok
  · intro t ht; cases hi.symm.trans ht
  · exact keepsPhase_of_idle hi hf

/-- A command whose frame leaves out the boot state keeps the phase. -/
theorem keepsPhase_of_frame {l : List Part} (hi : exec i s = .next { s with blk := b }) (hb : Keeps l s.blk b)
    (h1 : l.contains .role = false) (h2 : l.contains .boot = false) : KeepsPhase i s := keepsPhase_of_next hi (hb.phase_eq h1 h2)

end

/-- A stopped device leaves its phase by no command but the two resets of R3: a request finds nobody who hears it, what the core does waits
for a core that runs, and what acts all the same has no part of the boot phase. -/
theorem keepsPhase_of_stopped {i : Instr} {s : State} (h : s.blk.boot.phase = .stopped) (hpin : i ≠ .pinReset)
    (hpower : ∀ r u, i ≠ .powerOnReset r u) : KeepsPhase i s := by
  have hs : s.blk.served = false := by simp [Block.served, Block.running, h]
  have hr : s.blk.running = false := Block.running_of_unserved hs
  cases i with
  | pinReset => exact absurd rfl hpin
  | powerOnReset r u => exact absurd rfl (hpower r u)
  -- what waits for another phase of the start
  | rstNRise | fuseLoad =>
    exact keepsPhase_of_guard rfl (by simp [h])
  -- what writes an entry
  | flashFolioWrite | preferredSlotWrite | deviceRestart | commRestart | subsystemReset | domainSwitchRequest | alignDelayWrite
  | timetableEntryWrite | binCalRestart | programmeEnable | campaignAbort | swapOrbitWrite | swapDisarm | rsEntryWrite | laneConfigWrite
  | prbsOff | prbsGenerate | prbsCheck | prbsBoth | baseClaimWrite | planWrite | restoreSite | retireSite | clearFaultLog | keep | forget
  | latchClear | historyClear | registerWrite | cvuStart | cvuStop | cvuData | cvuRunningValueWrite | releaseOrbitWrite | rollbackCommit
  | ownerFirstKey | ownerKeyBurn | ownerKeyRevoke | vendorKeyRevoke | unlockTokenWrite | attestNonceWrite =>
    refine keepsPhase_of_idle rfl ?_
    exact Block.writeTo_of_unserved hs _ _ _ _
  -- the other messages
  | read | download | catalogue | login | logout | opcodeNotListed =>
    refine keepsPhase_of_idle rfl ?_
    exact Block.route_of_unserved hs ..
  | write =>
    refine keepsPhase_of_idle rfl ?_
    exact Block.writeMsg_of_unserved hs _ _ _ _
  | segment | segmentAck =>
    refine keepsPhase_of_idle rfl ?_
    exact Block.receiveShort_of_unserved hs _ _
  | abort =>
    refine keepsPhase_of_idle rfl ?_
    exact Block.abortMsg_of_unserved hs _ _
  -- what a device that is served does
  | transferTimeout | sessionTimeout | identifyFrame | canNodeIdConflict | heartbeat | canBusOff | canBusRecovered | canSyncAcquired
  | canErrorPassive | canFrameIgnored | attestReportReady =>
    exact keepsPhase_of_guard rfl (by simp [hs])
  | tempMeasurement =>
    refine keepsPhase_of_idleIf rfl ?_
    exact Block.when_false hs _
  | crossingBoundary | orbitBoundary =>
    refine keepsPhase_of_idle rfl ?_
    exact Block.boundaryCmd_of_unserved hs _ _
  -- what a core that runs does
  | bootFolioReadDone | folioProcessed | bookplateRead | bookplateRetry | bookplateReread | probeBookplateRead | probeBookplateReread
  | corePllLock | corePllUnlock | timingWord | domainLost | resyncNeededTick | none | calFire | swap | regularStart | measure | timeMark
  | todMark | domainSwitch | armEdge | autoAcceptDue | stackWrite | windowRead | recordRelease | scrubCycle | setSwap | shadowHoldEnd
  | overContractAged | trainingAttempt | trainingFrame | signalLost | frameLate | framePresented | prbsCheckerLocked | accept | swapCommand
  | crosslinkFrame | crosslinkLost | crosslinkRestored | unitRelease | pairingBoundary | pairingTimeout | resyncFollowStart
  | resyncFollowEnd | planBoundary | event | inbandMessage | serviceRecord | proxyTimeout | pairWriteApply | readyTimeout | bootReady
  | releaseDecision | bootReleased | supplyWarningBegin | supplyWarningEnd | supplyFreezeEnd | envFaultEnter | envFaultClear =>
    exact keepsPhase_of_guard rfl (by simp [hr])
  | resync | nop | calFireCommand | measureCommand | claimSet | claimRelease | claimRestore | dictFast =>
    exact keepsPhase_of_guard rfl (by simp [Block.obeys, hr])
  | ltLeadingEdge | ltRiseMerged | ltTrailingEdge | deadTimeEnd | entrySaturated | htLeadingEdge | htOrphan | holdClose | channelTimeout =>
    exact keepsPhase_of_guard rfl (by simp [Block.edgesRun, hr])
  | binCalIterationEnd | slotPeriodStart | clockRecoveryLocked =>
    refine keepsPhase_of_idleIf rfl ?_
    simp [Block.when, Block.arrayRuns, hr]
  | calRunEnd =>
    refine keepsPhase_of_idleIf rfl ?_
    split
    · exact Block.when_false (by simp [Block.arrayRuns, hr]) _
    · rfl
  | classifyEntry | selfTriggerDropped | selftestEnd | mismatchDecision | resyncSynchronised | mergeResync | bootReadyRepeat | frameAct
  | domainSwitchExecute | roundTripCampaignEnd | resyncTakeEffect =>
    refine keepsPhase_of_idle rfl ?_
    dsimp only
    split
    · exact Block.when_false (by simp [hr]) _
    · rfl
  -- what acts in every phase, outside the boot state
  | channelSettled =>
    exact keepsPhase_of_frame (l := [.chans]) rfl (.when (.refl _ _) fun _ hk => Block.onChan_keeps hk rfl) rfl rfl
  | shotEnd => exact keepsPhase_of_frame rfl (Block.shotDone_keeps (.refl [.iu, .regs, .ev] _) rfl) rfl rfl
  | queueRecordWrite =>
    exact keepsPhase_of_frame (l := [.queues, .mrg, .regs, .ev]) rfl (.when (.refl _ _) fun _ hk => Block.qWrite_keeps hk rfl) rfl rfl
  | queueStaleClose =>
    exact keepsPhase_of_frame (l := [.queues, .regs, .ev]) rfl (.when (.refl _ _) fun _ hk => Block.qStaleClose_keeps hk rfl) rfl rfl
  | queueHoldDrain =>
    exact keepsPhase_of_frame (l := [.queues, .mrg, .regs, .ev]) rfl (.when (.refl _ _) fun _ hk => Block.qDrain_keeps hk rfl) rfl rfl
  | retirementListWrite | listWriteRetry =>
    exact keepsPhase_of_frame (l := [.flash, .flt, .regs, .ev]) rfl (.when (.refl _ _) fun _ hk => Block.listWritten_keeps hk rfl) rfl rfl
  | loginLockoutEnd =>
    exact keepsPhase_of_frame (l := [.dict]) rfl (.when (.refl _ _) fun _ hk => .onDictRest (fun _ => rfl) hk rfl) rfl rfl
  | keepComplete =>
    refine keepsPhase_of_frame (l := [.flash, .queues, .mrg, .twin, .regs, .dict, .ev, .free]) rfl ?_ rfl rfl
    dsimp only
    split
    · exact .when (.refl _ _) fun _ hk => Block.keepDone_keeps hk rfl
    · exact .refl _ _
  | sensorsDegradedTick =>
    exact keepsPhase_of_frame (l := [.regs, .ev]) rfl (.when (.refl _ _) fun _ hk => Block.raise_keeps hk rfl) rfl rfl
  | envWireExcursion | commonModeInsideWindow =>
    exact keepsPhase_of_frame rfl (Block.onEnvCh_keeps (.refl [.env] _) rfl) rfl rfl
  | envoutPeriod => exact keepsPhase_of_frame rfl (Block.outPeriod_keeps (.refl [.env] _) rfl) rfl rfl
  | idcode | extest | clamp | highz | bypass =>
    exact keepsPhase_of_frame (l := [.jtag]) rfl (.when (.refl _ _) fun _ hk => Block.jtagInstr_keeps hk rfl) rfl rfl
  | samplePreload =>
    exact keepsPhase_of_frame (l := [.jtag, .free]) rfl
      (.when (.refl _ _) fun _ hk => Block.sampleBalls_keeps (Block.jtagInstr_keeps hk rfl) rfl) rfl rfl
  | tapReset => exact keepsPhase_of_frame rfl (Block.jtagInstr_keeps (.refl [.jtag] _) rfl) rfl rfl
  -- what ends something of the boot state
  | subsystemResetEnd =>
    refine keepsPhase_of_next rfl ?_
    exact Block.endReset_phase _ _
  | bootRecordSealed =>
    refine keepsPhase_of_next rfl ?_
    dsimp only
    split
    · exact Block.sealed_phase ..
    · rfl

/-! ### The obligation -/

/-- Settles O10: fuse load ends in the stop of R3 where a word has no majority or the table of R15 forbids the strapped role, else in a core
that runs; and a stopped device stays stopped under every command but the two resets. -/
theorem fuseLoadRunsOrStops : Obligations.FuseLoadRunsOrStops := by
  unfold Obligations.FuseLoadRunsOrStops
  refine ⟨fun r s h => ?_, fun i s t h ht hpin hpower => (keepsPhase_of_stopped h hpin hpower t ht).trans h⟩
  refine ⟨fun hm => ?_, fun hm hp => ?_, fun hm hp => ?_⟩
  · obtain ⟨⟨hphase, hcause, halert, hlanes⟩, hlatch⟩ := s.blk.fuseLoad_noMajority hm
    exact fuseLoad_does h ⟨⟨hphase, hcause, halert, hlanes⟩, hlatch⟩
  · obtain ⟨⟨hphase, hcause, halert, hlanes⟩, hlatch⟩ := s.blk.fuseLoad_refused hm ((roleOk_eq_table _ _).trans hp)
    exact fuseLoad_does h ⟨⟨hphase, hcause, halert, hlanes⟩, hlatch⟩
  · exact fuseLoad_does h (s.blk.fuseLoad_runs hm ((roleOk_eq_table _ _).trans hp))

end Sys2Proof.Machine
end

section
/-! PROOFS. The frame of every command: what a command changes lies within its footprint. -/

namespace Sys2Proof.Machine

/-! ### Writes of an entry of one access code -/

/-- A write of an RW entry other than the first of a programme (4100 to 410F) leaves the interval unit as it was. -/
theorem Block.rwWrite_plain_keeps {ps : List Part} {a b : Block} {h : Hdr} {d : Desc} {key v : Nat}
    (hkey : ¬(0x4100 ≤ key / 256 ∧ key / 256 ≤ 0x410F ∧ key % 256 = 1)) (hb : Keeps ps a b)
    (hl : partsIn [.queues, .mrg, .twin, .regs, .dict, .ev] ps = true) : Keeps ps a (b.rwWrite h d key v) := by
  have refuses (n : Nat) : Keeps ps a (b.refuseKey h key n) := Block.refuseKey_keeps hb hl
  have hpend : Keeps ps a (b.pendWrite h key (cleaned key v)) := Block.pendWrite_keeps hb (partsIn_trans rfl hl)
  unfold Block.rwWrite
  dsimp only
  rw [if_neg hkey]
  exact .ite (refuses _) (.ite (refuses _) (.ite (Block.swapOrbit_keeps hb hl) (.ite (Block.laneConfigWrite_keeps hb hl)
    (.ite (Block.prbsWrite_keeps hb hl) (.ite (Block.cvuRestore_keeps hb hl) (.ite (refuses _) (.ite (refuses _) hpend)))))))

/-- A row that writes an entry of one access code changes what the write of such an entry changes, and what the request does. -/
theorem Block.writeOf_access_keeps {ps : List Part} {a b : Block} {h : Hdr} {acc : Access} {key : Nat} {l : List Byte}
    (hb : Keeps ps a b) (hl : partsIn [.boot, .sets, .queues, .mrg, .twin, .regs, .dict, .ev] ps = true)
    (hw : ∀ y d, d.access = acc → Keeps ps a y → Keeps ps a (y.entryWrite h d key l)) : Keeps ps a (b.writeOf h acc key l) := by
  refine Block.writeTo_keeps hb hl fun y hy => ?_
  split
  · split
    next d _ hd => exact hw y d hd hy
    next => exact hy
  · exact hy

theorem Block.writeOf_rw_keeps {ps : List Part} {a b : Block} {h : Hdr} {key : Nat} {l : List Byte}
    (hb : Keeps ps a b) (hl : partsIn [.boot, .sets, .queues, .mrg, .twin, .regs, .dict, .ev] ps = true)
    (hw : ∀ y d, Keeps ps a y → Keeps ps a (y.rwWrite h d key (natLE l))) : Keeps ps a (b.writeOf h .rw key l) := by
  refine Block.writeOf_access_keeps hb hl fun y d hd hy => ?_
  simpa only [Block.entryWrite, hd] using hw y d hy

theorem Block.writeOf_wo_keeps {ps : List Part} {a b : Block} {h : Hdr} {key : Nat} {l : List Byte}
    (hb : Keeps ps a b) (hl : partsIn [.boot, .sets, .queues, .mrg, .twin, .regs, .dict, .ev] ps = true)
    (hw : ∀ y, Keeps ps a y → Keeps ps a (y.woWrite h key l)) : Keeps ps a (b.writeOf h .wo key l) := by
  refine Block.writeOf_access_keeps hb hl fun y d hd hy => ?_
  simpa only [Block.entryWrite, hd] using hw y hy

/-! ### The frame of every command -/

/-- Where a command completes, nothing outside its footprint has changed. -/
def Framed (i : Instr) (s : State) : Prop := ∀ t, exec i s = .next t → Keeps (footprint i) s.blk t.blk

section

variable {i : Instr} {s : State} {b : Block}

theorem framed_of_next (hi : exec i s = .next { s with blk := b }) (hb : Keeps (footprint i) s.blk b) : Framed i s := by
  intro t ht
  obtain rfl : { s with blk := b } = t := Host.Outcome.next.inj (hi.symm.trans ht)
  exact hb

theorem framed_of_when {c : Bool} {f : Block → Block} (hi : exec i s = .next { s with blk := s.blk.when c f })
    (hf : ∀ x, Keeps (footprint i) s.blk x → Keeps (footprint i) s.blk (f x)) : Framed i s :=
  framed_of_next hi (.when (.refl _ _) hf)

theorem framed_of_writeTo {h : Hdr} {key len : Nat} {f : Block → Block}
    (hi : exec i s = .next { s with blk := s.blk.writeTo h key len f })
    (hl : partsIn [.boot, .sets, .queues, .mrg, .twin, .regs, .dict, .ev] (footprint i) = true)
    (hf : ∀ x, Keeps (footprint i) s.blk x → Keeps (footprint i) s.blk (f x)) : Framed i s :=
  framed_of_next hi (Block.writeTo_keeps (.refl _ _) hl hf)

theorem framed_of_runIf {ok : Bool} {name : String} {f : Block → Block} (hi : exec i s = s.runIf ok name f)
    (hf : Keeps (footprint i) s.blk (f s.blk)) : Framed i s := by
  cases ok
  · intro t ht; cases hi.symm.trans ht
  · exact framed_of_next hi hf

end

/-- A command is the operation of its row, under the condition of its row, and the operation has its frame. -/
theorem exec_framed (i : Instr) (s : State) : Framed i s := by
  cases i with
  -- what acts in every state
  | powerOnReset => exact framed_of_next rfl (Block.poweredOn_keeps (.refl _ _) rfl)
  | shotEnd => exact framed_of_next rfl (Block.shotDone_keeps (.refl _ _) rfl)
  | envWireExcursion | commonModeInsideWindow => exact framed_of_next rfl (Block.onEnvCh_keeps (.refl _ _) rfl)
  | envoutPeriod => exact framed_of_next rfl (Block.outPeriod_keeps (.refl _ _) rfl)
  | subsystemResetEnd => exact framed_of_next rfl (Block.endReset_keeps (.refl _ _) rfl)
  | tapReset => exact framed_of_next rfl (Block.jtagInstr_keeps (.refl _ _) rfl)
  | write => exact framed_of_next rfl (Block.writeMsg_keeps (.refl _ _) rfl)
  | segment => exact framed_of_next rfl (Block.segment_keeps (.refl _ _) rfl)
  | segmentAck => exact framed_of_next rfl (Block.segmentAck_keeps (.refl _ _) rfl)
  | abort => exact framed_of_next rfl (Block.abortMsg_keeps (.refl _ _) rfl)
  | rsEntryWrite | timetableEntryWrite => exact framed_of_next rfl (Block.rsRequest_keeps (.refl _ _) rfl)
  | crossingBoundary | orbitBoundary => exact framed_of_next rfl (Block.boundaryCmd_keeps (.refl _ _) rfl)
  -- what waits for a state in which it can act
  | queueRecordWrite => exact framed_of_when rfl fun _ h => Block.qWrite_keeps h rfl
  | queueStaleClose => exact framed_of_when rfl fun _ h => Block.qStaleClose_keeps h rfl
  | queueHoldDrain => exact framed_of_when rfl fun _ h => Block.qDrain_keeps h rfl
  | bookplateRead => exact framed_of_when rfl fun _ h => Block.plateReadTold_keeps h rfl
  | bookplateReread => exact framed_of_when rfl fun _ h => Block.plateReread_keeps h rfl
  | bookplateRetry => exact framed_of_when rfl fun _ h => Block.retryReads_keeps h rfl
  | probeBookplateRead => exact framed_of_when rfl fun _ h => Block.probeRead_keeps h rfl
  | probeBookplateReread => exact framed_of_when rfl fun _ h => Block.probeReread_keeps h rfl
  | channelSettled => exact framed_of_when rfl fun _ h => Block.onChan_keeps h rfl
  | ltLeadingEdge => exact framed_of_when rfl fun _ h => Block.ltLead_keeps h rfl
  | ltRiseMerged => exact framed_of_when rfl fun _ h => Block.mergeRise_keeps h rfl
  | ltTrailingEdge => exact framed_of_when rfl fun _ h => Block.ltTrail_keeps h rfl
  | deadTimeEnd => exact framed_of_when rfl fun _ h => Block.deadEnd_keeps h rfl
  | entrySaturated => exact framed_of_when rfl fun _ h => Block.saturated_keeps h rfl
  | htLeadingEdge => exact framed_of_when rfl fun _ h => Block.htLead_keeps h rfl
  | htOrphan => exact framed_of_when rfl fun _ h => Block.dropOrphans_keeps h rfl
  | holdClose => exact framed_of_when rfl fun _ h => Block.holdClose_keeps h rfl
  | channelTimeout => exact framed_of_when rfl fun _ h => Block.timeout_keeps h rfl
  | armEdge => exact framed_of_when rfl fun _ h => Block.armEdge_keeps h rfl
  | retirementListWrite | listWriteRetry => exact framed_of_when rfl fun _ h => Block.listWritten_keeps h rfl
  | stackWrite => exact framed_of_when rfl fun _ h => Block.stackWrite_keeps h rfl
  | windowRead => exact framed_of_when rfl fun _ h => Block.windowRead_keeps h rfl
  | recordRelease => exact framed_of_when rfl fun _ h => Block.release_keeps h rfl
  | accept => exact framed_of_when rfl fun _ h => Block.actAccept_keeps h rfl
  | autoAcceptDue => exact framed_of_when rfl fun _ h => Block.onAcc_keeps h rfl
  | envFaultEnter => exact framed_of_when rfl fun _ h => Block.envFaultIn_keeps h rfl
  | envFaultClear => exact framed_of_when rfl fun _ h => Block.envFaultOut_keeps h rfl
  | sensorsDegradedTick | canNodeIdConflict | resyncNeededTick => exact framed_of_when rfl fun _ h => Block.raise_keeps h rfl
  | supplyWarningBegin => exact framed_of_when rfl fun _ h => Block.supplyBegin_keeps h rfl
  | supplyWarningEnd => exact framed_of_when rfl fun _ h => Block.supplyEnd_keeps h rfl
  | supplyFreezeEnd => exact framed_of_when rfl fun _ h => Block.freezeEnd_keeps h rfl
  | signalLost => exact framed_of_when rfl fun _ h => Block.signalLost_keeps h rfl
  | frameLate => exact framed_of_when rfl fun _ h => Block.frameLate_keeps h rfl
  | prbsCheckerLocked => exact framed_of_when rfl fun _ h => Block.onLane_keeps h rfl
  | attestReportReady => exact framed_of_when rfl fun _ h => Block.attestReady_keeps h rfl
  | planBoundary => exact framed_of_when rfl fun _ h => Block.planBoundaryAt_keeps h rfl
  | setSwap => exact framed_of_when rfl fun _ h => Block.setSwap_keeps h rfl
  | shadowHoldEnd => exact framed_of_when rfl fun _ h => Block.holdEnd_keeps h rfl
  | swapCommand => exact framed_of_when rfl fun _ h => Block.swapCommand_keeps h rfl
  | nop => exact framed_of_when rfl fun _ h => Block.actCommand_keeps h rfl
  | resync => exact framed_of_when rfl fun _ h => Block.actResync_keeps h rfl
  | calFireCommand => exact framed_of_when rfl fun _ h => Block.actCalFire_keeps h rfl
  | measureCommand => exact framed_of_when rfl fun _ h => Block.actMeasure_keeps h rfl
  | claimSet | claimRelease | claimRestore => exact framed_of_when rfl fun _ h => Block.actClaim_keeps h rfl
  | dictFast => exact framed_of_when rfl fun _ h => Block.actFast_keeps h rfl
  | crosslinkFrame => exact framed_of_when rfl fun _ h => Block.crosslink_keeps h rfl
  | crosslinkLost => exact framed_of_when rfl fun _ h => Block.crosslinkLose_keeps h rfl
  | crosslinkRestored => exact framed_of_when rfl fun _ h => Block.crosslinkBack_keeps h rfl
  | unitRelease => exact framed_of_when rfl fun _ h => Block.unitReleased_keeps h rfl
  | pairingBoundary => exact framed_of_when rfl fun _ h => Block.pairNow_keeps h rfl
  | pairingTimeout => exact framed_of_when rfl fun _ h => Block.pairAlone_keeps h rfl
  | resyncFollowStart => exact framed_of_when rfl fun _ h => Block.followStart_keeps h rfl
  | resyncFollowEnd => exact framed_of_when rfl fun _ h => Block.followEnd_keeps h rfl
  | overContractAged => exact framed_of_when rfl fun _ h => Block.aged_keeps h rfl
  | transferTimeout => exact framed_of_when rfl fun _ h => Block.transferLate_keeps h rfl
  | sessionTimeout => exact framed_of_when rfl fun _ h => Block.sessionLate_keeps h rfl
  | proxyTimeout => exact framed_of_when rfl fun _ h => Block.proxyLate_keeps h rfl
  | pairWriteApply => exact framed_of_when rfl fun _ h => Block.pairApply_keeps h rfl
  | event => exact framed_of_when rfl fun _ h => Block.workerEvent_keeps h rfl
  | identifyFrame => exact framed_of_when rfl fun _ h => Block.identify_keeps h rfl
  | heartbeat => exact framed_of_when rfl fun _ h => Block.heartbeat_keeps h rfl
  | canBusOff => exact framed_of_when rfl fun _ h => Block.busOff_keeps h rfl
  | canSyncAcquired => exact framed_of_when rfl fun _ h => Block.onCan_keeps h rfl
  | canFrameIgnored => exact framed_of_when rfl fun _ h => Block.bump_keeps h rfl
  | inbandMessage => exact framed_of_when rfl fun _ h => Block.inbandMessage_keeps h rfl
  | fuseLoad => exact framed_of_when rfl fun _ h => Block.fuseLoad_keeps h rfl
  | bootFolioReadDone => exact framed_of_when rfl fun _ h => Block.flashRead_keeps h rfl
  | folioProcessed => exact framed_of_when rfl fun _ h => Block.folioProcessed_keeps h rfl
  | bootReady => exact framed_of_when rfl fun _ h => Block.becomeReady_keeps h rfl
  | releaseDecision | readyTimeout => exact framed_of_when rfl fun _ h => Block.decideRelease_keeps h rfl
  | bootReleased => exact framed_of_when rfl fun _ h => Block.releaseNow_keeps h rfl
  | corePllLock => exact framed_of_when rfl fun _ h => Block.coreLock_keeps h rfl
  | corePllUnlock => exact framed_of_when rfl fun _ h => Block.coreUnlock_keeps h rfl
  | timingWord => exact framed_of_when rfl fun _ h => Block.timingFrame_keeps h rfl
  | domainLost => exact framed_of_when rfl fun _ h => Block.domLost_keeps h rfl
  | scrubCycle => exact framed_of_when rfl fun _ h => Block.scrub_keeps h rfl
  | idcode | extest | clamp | highz | bypass => exact framed_of_when rfl fun _ h => Block.jtagInstr_keeps h rfl
  | pinReset => exact framed_of_when rfl fun _ h => Block.pinReset_keeps h rfl
  | rstNRise => exact framed_of_when rfl fun _ h => Block.onBoot_keeps h rfl
  | canBusRecovered => exact framed_of_when rfl fun _ h => Block.raise_keeps (Block.onCan_keeps h rfl) rfl
  | canErrorPassive =>
    exact framed_of_when rfl fun _ h => .ite (Block.raise_keeps (Block.onCan_keeps h rfl) rfl) (Block.onCan_keeps h rfl)
  | loginLockoutEnd => exact framed_of_when rfl fun _ h => .onDictRest (fun _ => rfl) h rfl
  | samplePreload => exact framed_of_when rfl fun _ h => Block.sampleBalls_keeps (Block.jtagInstr_keeps h rfl) rfl
  | swap => exact framed_of_when rfl fun _ h => Block.swapAction_keeps (Block.ttUsed_keeps h rfl) rfl
  | trainingAttempt =>
    refine framed_of_when rfl fun _ h => ?_
    split
    · exact Block.attempt_keeps h rfl
    · exact h
  | serviceRecord =>
    refine framed_of_when rfl fun _ h => ?_
    split
    · exact .ite (Block.serviceIn_keeps h rfl) h
    · exact .ite (Block.ownService_keeps h rfl) (Block.svcWrite_keeps h rfl)
  | trainingFrame =>
    refine framed_of_when rfl fun _ h => ?_
    split
    · exact .ite (Block.timingFrame_keeps h rfl) (Block.lineIn_keeps h rfl fun _ _ hy =>
        .ite (.when hy fun _ hz => Block.trainStep_keeps hz rfl) (.when hy fun _ hz => Block.present_keeps hz rfl))
    · exact Block.lineIn_keeps h rfl fun _ _ hy => hy
  | framePresented =>
    refine framed_of_when rfl fun _ h => ?_
    split
    · exact .ite (Block.timingFrame_keeps h rfl) (.when h fun _ hy => Block.lineIn_keeps hy rfl fun _ _ hz =>
        .ite hz (Block.present_keeps hz rfl))
    · exact Block.lineIn_keeps h rfl fun _ _ hy => hy
  -- what its list of operands must fit
  | binCalIterationEnd => exact framed_of_runIf rfl (.when (.refl _ _) fun _ h => Block.binIteration_keeps h rfl)
  | tempMeasurement => exact framed_of_runIf rfl (.when (.refl _ _) fun _ h => Block.onEnv_keeps h rfl)
  | clockRecoveryLocked => exact framed_of_runIf rfl (.when (.refl _ _) fun _ h => Block.clockLocked_keeps h rfl)
  | slotPeriodStart => exact framed_of_runIf rfl (.when (.refl _ _) fun _ h => Block.slotPeriod_keeps h rfl)
  | calRunEnd =>
    refine framed_of_runIf rfl ?_
    split
    exacts [.when (.refl _ _) fun _ h => Block.runEnd_keeps h rfl, .refl _ _]
  -- what takes the first of what waits
  | mismatchDecision =>
    refine framed_of_next rfl ?_
    dsimp only
    split
    exacts [.when (.refl _ _) fun _ h => Block.decideMismatch_keeps h rfl, .refl _ _]
  | keepComplete =>
    refine framed_of_next rfl ?_
    dsimp only
    split
    exacts [.when (.refl _ _) fun _ h => Block.keepDone_keeps h rfl, .refl _ _]
  | selftestEnd =>
    refine framed_of_next rfl ?_
    dsimp only
    split
    exacts [.when (.refl _ _) fun _ h => Block.testEnd_keeps h rfl, .refl _ _]
  | resyncSynchronised =>
    refine framed_of_next rfl ?_
    dsimp only
    split
    exacts [.when (.refl _ _) fun _ h => Block.returnTwin_keeps h rfl, .refl _ _]
  | frameAct =>
    refine framed_of_next rfl ?_
    dsimp only
    split
    exacts [.when (.refl _ _) fun _ h => Block.actOn_keeps h rfl, .refl _ _]
  | domainSwitchExecute =>
    refine framed_of_next rfl ?_
    dsimp only
    split
    exacts [.when (.refl _ _) fun _ h => Block.switchNow_keeps h rfl, .refl _ _]
  | roundTripCampaignEnd =>
    refine framed_of_next rfl ?_
    dsimp only
    split
    exacts [.when (.refl _ _) fun _ h => Block.tripEnd_keeps h rfl, .refl _ _]
  | resyncTakeEffect =>
    refine framed_of_next rfl ?_
    dsimp only
    split
    exacts [.when (.refl _ _) fun _ h => Block.resyncNow_keeps h rfl, .refl _ _]
  | mergeResync =>
    refine framed_of_next rfl ?_
    dsimp only
    split
    exacts [.when (.refl _ _) fun _ h => Block.resyncMerge_keeps (.onTimeRest (fun _ => rfl) h rfl) rfl, .refl _ _]
  | bootReadyRepeat =>
    refine framed_of_next rfl ?_
    dsimp only
    split
    exacts [.when (.refl _ _) fun _ h => Block.readyMessage_keeps (.onBootRest (fun _ => ⟨rfl, rfl⟩) h rfl) rfl, .refl _ _]
  | classifyEntry =>
    refine framed_of_next rfl ?_
    dsimp only
    split
    exacts [.when (.refl _ _) fun _ h => Block.classify_keeps (Block.onChan_keeps h rfl) rfl, .refl _ _]
  | selfTriggerDropped =>
    refine framed_of_next rfl ?_
    dsimp only
    split
    exacts [.when (.refl _ _) fun _ h => Block.raise_keeps (Block.bump_keeps (Block.onAcc_keeps h rfl) rfl) rfl, .refl _ _]
  | bootRecordSealed =>
    refine framed_of_next rfl ?_
    dsimp only
    split
    exacts [Block.sealed_keeps (.refl _ _) rfl, .refl _ _]
  -- what the timetable does
  | none => exact framed_of_next rfl (Block.ttDo_keeps (.refl _ _) rfl fun _ h => h)
  | timeMark => exact framed_of_next rfl (Block.ttDo_keeps (.refl _ _) rfl fun _ h => Block.timeMark_keeps h rfl)
  | todMark => exact framed_of_next rfl (Block.ttDo_keeps (.refl _ _) rfl fun _ h => Block.todMarkNow_keeps h rfl)
  | domainSwitch => exact framed_of_next rfl (Block.ttDo_keeps (.refl _ _) rfl fun _ h => Block.requestSwitch_keeps h rfl)
  | calFire =>
    exact framed_of_next rfl (Block.ttDo_keeps (.refl _ _) rfl fun _ h =>
      Block.unlessReset_keeps h rfl fun _ h => Block.timetableFire_keeps h rfl)
  | regularStart =>
    exact framed_of_next rfl (Block.ttDo_keeps (.refl _ _) rfl fun _ h =>
      Block.unlessReset_keeps h rfl fun _ h => Block.regularStart_keeps h rfl)
  | measure =>
    exact framed_of_next rfl (Block.ttDo_keeps (.refl _ _) rfl fun _ h =>
      Block.unlessReset_keeps h rfl fun _ h => Block.arm_keeps h rfl)
  -- messages of the object dictionary
  | read => exact framed_of_next rfl (Block.route_keeps (.refl _ _) rfl fun _ h => Block.readEntry_keeps h rfl)
  | download => exact framed_of_next rfl (Block.route_keeps (.refl _ _) rfl fun _ h => Block.startDownload_keeps h rfl)
  | catalogue => exact framed_of_next rfl (Block.route_keeps (.refl _ _) rfl fun _ h => Block.catalogueEntry_keeps h rfl)
  | login => exact framed_of_next rfl (Block.route_keeps (.refl _ _) rfl fun _ h => Block.loginHere_keeps h rfl)
  | logout => exact framed_of_next rfl (Block.route_keeps (.refl _ _) rfl fun _ h => Block.logoutHere_keeps h rfl)
  | opcodeNotListed => exact framed_of_next rfl (Block.route_keeps (.refl _ _) rfl fun _ h => Block.abort_keeps h rfl)
  -- writes of one entry
  | deviceRestart | commRestart => exact framed_of_writeTo rfl rfl fun _ h => Block.restartWrite_keeps h rfl
  | subsystemReset => exact framed_of_writeTo rfl rfl fun _ h => Block.subsystemWrite_keeps h rfl
  | cvuStart | cvuStop => exact framed_of_writeTo rfl rfl fun _ h => Block.cvuControl_keeps h rfl
  | cvuRunningValueWrite => exact framed_of_writeTo rfl rfl fun _ h => Block.cvuRestore_keeps h rfl
  | laneConfigWrite => exact framed_of_writeTo rfl rfl fun _ h => Block.laneConfigWrite_keeps h rfl
  | prbsOff | prbsGenerate | prbsCheck | prbsBoth => exact framed_of_writeTo rfl rfl fun _ h => Block.prbsWrite_keeps h rfl
  | rollbackCommit => exact framed_of_writeTo rfl rfl fun _ h => Block.commitRollback_keeps h rfl
  | ownerFirstKey => exact framed_of_writeTo rfl rfl fun _ h => Block.firstKey_keeps h rfl
  | ownerKeyBurn | ownerKeyRevoke | vendorKeyRevoke => exact framed_of_writeTo rfl rfl fun _ h => Block.ownerUpdate_keeps h rfl
  | unlockTokenWrite => exact framed_of_writeTo rfl rfl fun _ h => Block.keepToken_keeps h rfl
  | attestNonceWrite => exact framed_of_writeTo rfl rfl fun _ h => Block.attestRequest_keeps h rfl
  | planWrite => exact framed_of_writeTo rfl rfl fun _ h => Block.pendWrite_keeps h rfl
  | restoreSite => exact framed_of_writeTo rfl rfl fun _ h => Block.restoreWrite_keeps h rfl
  | retireSite => exact framed_of_writeTo rfl rfl fun _ h => Block.retireWrite_keeps h rfl
  | clearFaultLog => exact framed_of_writeTo rfl rfl fun _ h => Block.clearLog_keeps h rfl
  | swapOrbitWrite | swapDisarm => exact framed_of_writeTo rfl rfl fun _ h => Block.swapOrbit_keeps h rfl
  | keep => exact framed_of_writeTo rfl rfl fun _ h => Block.keepWrite_keeps h rfl
  | forget => exact framed_of_writeTo rfl rfl fun _ h => Block.forgetWrite_keeps h rfl
  | flashFolioWrite => exact framed_of_writeTo rfl rfl fun _ h => Block.folioWrite_keeps h rfl
  | cvuData =>
    exact framed_of_writeTo rfl rfl fun _ h => Block.cvuData_keeps h rfl fun _ h => Block.landed_keeps h rfl
  | baseClaimWrite =>
    refine framed_of_writeTo rfl rfl fun _ h => ?_
    split
    · exact Block.rwWrite_plain_keeps (by decide) h rfl
    · exact h
  | programmeEnable | registerWrite =>
    exact framed_of_next rfl (Block.writeOf_rw_keeps (.refl _ _) rfl fun _ _ h => Block.rwWrite_keeps h rfl)
  | preferredSlotWrite | releaseOrbitWrite =>
    exact framed_of_next rfl (Block.writeOf_rw_keeps (.refl _ _) rfl fun _ _ h => Block.rwWrite_plain_keeps (by decide) h rfl)
  | latchClear | alignDelayWrite =>
    exact framed_of_next rfl (Block.writeOf_rw_keeps (.refl _ _) rfl fun _ _ h => Block.rwWrite_plain_keeps (by omega) h rfl)
  | domainSwitchRequest =>
    exact framed_of_next rfl (Block.writeOf_wo_keeps (.refl _ _) rfl fun _ h => Block.switchWrite_keeps h rfl)
  | binCalRestart =>
    exact framed_of_next rfl (Block.writeOf_wo_keeps (.refl _ _) rfl fun _ h =>
      Block.flagWrite_keeps h rfl fun _ h => Block.binRestart_keeps h rfl)
  | campaignAbort =>
    exact framed_of_next rfl (Block.writeOf_wo_keeps (.refl _ _) rfl fun _ h =>
      Block.flagWrite_keeps h rfl fun _ h => Block.campaignAbort_keeps h rfl)
  | historyClear =>
    exact framed_of_next rfl (Block.writeOf_wo_keeps (.refl _ _) rfl fun _ h =>
      Block.flagWrite_keeps h rfl fun _ h => Block.onEv_keeps h rfl)

end Sys2Proof.Machine
end

section
/-! PROOFS. The straps and the resets (R14, R449, R452): which commands sample the straps, and what each reset leaves. -/

namespace Sys2Proof.Machine

/-! ### The straps (R14) -/

/-- The two commands that sample the straps are the only ones whose footprint names them. -/
theorem footprint_without_role {i : Instr} (hpower : ∀ r u, i ≠ .powerOnReset r u) (hrise : ∀ r u, i ≠ .rstNRise r u) :
    (footprint i).contains .role = false := by
  cases i with
  | powerOnReset r u => exact absurd rfl (hpower r u)
  | rstNRise r u => exact absurd rfl (hrise r u)
  | _ => rfl

theorem Keeps.straps_eq {l : List Part} {a b : Block} (h : Keeps l a b) (hl : l.contains .role = false) :
    b.boot.roleC = a.boot.roleC ∧ b.boot.unitB = a.boot.unitB := h.same .role (by simpa using hl)

/-! ### The resets -/

/-- A command that completes meets whatever holds of the block it leaves: its frame it has in any case. -/
theorem does_of_next {i : Instr} {s : State} {b : Block} {P : Block → Prop} (hi : exec i s = .next { s with blk := b }) (hP : P b) :
    Does i s P := ⟨_, hi, rfl, exec_framed i s _ hi, hP⟩

theorem powerOnReset_does {r u : Bool} {s : State} {P : Block → Prop} (hP : P (s.blk.poweredOn r u)) :
    Does (.powerOnReset r u) s P := does_of_next rfl hP

theorem exec_pinReset {s : State} (h : s.blk.boot.phase ≠ .powerReset) : exec .pinReset s = .next { s with blk := s.blk.pinReset } := by
  show execPinReset s = _
  simp [execPinReset, State.run, Block.when, h]

theorem exec_rstNRise (r u : Bool) {s : State} (h : s.blk.boot.phase = .pinReset) :
    exec (.rstNRise r u) s =
      .next { s with blk := s.blk.onBoot fun k => { k with phase := .fuseLoad, roleC := r, unitB := u } } := by
  show execRstNRise r u s = _
  simp [execRstNRise, State.run, Block.when, h]

theorem rstNRise_does {r u : Bool} {s : State} {P : Block → Prop} (h : s.blk.boot.phase = .pinReset)
    (hP : P (s.blk.onBoot fun k => { k with phase := .fuseLoad, roleC := r, unitB := u })) : Does (.rstNRise r u) s P :=
  does_of_next (exec_rstNRise r u h) hP

/-- The sessions that a reset ends have their owned check-value units released and say so, nothing more. -/
theorem Block.endSessions_frame (b : Block) : Keeps [.cvus, .regs, .dict, .ev] b b.endSessions := Block.endSessions_keeps (.refl _ _) rfl

/-- What a pin reset leaves, said of the block as it was before its sessions ended. -/
theorem Block.pinReset_leaves (b : Block) :
    b.pinReset.boot = { phase := .pinReset, roleC := b.boot.roleC, unitB := b.boot.unitB, cause := 2 } ∧
    b.pinReset.time = { now := b.time.now } ∧ b.pinReset.dict = {} ∧ b.pinReset.sets = {} ∧ b.pinReset.chans = [] ∧
    b.pinReset.queues = [] ∧ b.pinReset.frm = {} ∧ b.pinReset.flash = b.flash.unread ∧ b.pinReset.flt.log = b.flt.log ∧
    b.pinReset.flt.list = b.flt.list := by
  have hframe := b.endSessions_frame
  have hboot : b.endSessions.boot = b.boot := hframe.boot_eq rfl rfl
  have hnow : b.endSessions.time.now = b.time.now := hframe.now_eq rfl
  have hflash : b.endSessions.flash = b.flash := hframe.flash_eq rfl
  have hflt : b.endSessions.flt = b.flt := hframe.flt_eq rfl
  simp [Block.pinReset, Block.restarted, hboot, hnow, hflash, hflt]

/-! ### The obligations -/

/-- Settles O8: POWER_ON_RESET and RST_N_RISE put the straps as they are told, and no other command's footprint holds them. -/
theorem strapsAreSampledAtResetAlone : Obligations.StrapsAreSampledAtResetAlone := by
  unfold Obligations.StrapsAreSampledAtResetAlone
  refine ⟨fun r u s => ?_, fun r u s h => ?_, fun i s t ht hpower hrise => ?_⟩
  · exact powerOnReset_does ⟨rfl, rfl⟩
  · exact rstNRise_does h ⟨rfl, rfl⟩
  · exact (exec_framed i s t ht).straps_eq (footprint_without_role hpower hrise)

/-- Settles O9: a power-on reset leaves the reset values beside the fuses and the flash, a pin reset ends the sessions first, and the rise of
RST_N changes the boot state alone. -/
theorem resetsLeaveTheirState : Obligations.ResetsLeaveTheirState := by
  unfold Obligations.ResetsLeaveTheirState
  refine ⟨fun r u s => ?_, fun s h => ?_, fun r u s h => ?_⟩
  · exact powerOnReset_does rfl
  · exact does_of_next (exec_pinReset h) s.blk.pinReset_leaves
  · exact rstNRise_does h rfl

end Sys2Proof.Machine
end

section
/-! PROOFS. Clock and counters. -/

namespace Sys2Proof.Machine

/-! ### Commands that act where their condition holds -/

section

variable {i : Instr} {s : State} {c : Bool} {f : Block → Block}

theorem does_of_when {P : Block → Prop} (hi : exec i s = .next { s with blk := s.blk.when c f }) (hc : c = true) (hP : P (f s.blk)) :
    Does i s P := does_of_next hi (by simpa [Block.when, hc] using hP)

theorem exec_of_same {b : Block} (hi : exec i s = .next { s with blk := b }) (hb : b = s.blk) : exec i s = .next s := by rw [hi, hb]

theorem exec_of_not_when (hi : exec i s = .next { s with blk := s.blk.when c f }) (hc : c = false) : exec i s = .next s := by
  rw [hi, Block.when_false hc]

end

@[simp] theorem Block.wakeLinks_time (b : Block) : b.wakeLinks.time = b.time :=
  (Block.wakeLinks_keeps (.refl [.chans, .adc, .mrg, .frm, .twin, .flt, .regs, .ev, .free] b) rfl).time_eq rfl rfl

@[simp] theorem Block.sourceClear_time (b : Block) (src : Nat) : (b.sourceClear src).time = b.time := rfl

@[simp] theorem Block.sourceFail_time (b : Block) (src : Nat) : (b.sourceFail src).time = b.time :=
  (Block.sourceFail_keeps (.refl [.twin, .regs, .ev] b) rfl).time_eq rfl rfl

theorem Block.latched_ite {c : Prop} [Decidable c] {x y : Block} {n : Nat} (hx : x.latched n = true) (hy : y.latched n = true) :
    (if c then x else y).latched n = true := by split <;> assumption

theorem Block.latched_sourceFail (b : Block) (src : Nat) {n : Nat} (hn : n < 256) (h : b.latched n = true) :
    (b.sourceFail src).latched n = true := by
  have hs : (if b.twin.sources.contains src then b else b.onTwin fun t => { t with sources := t.sources ++ [src] }).latched n = true :=
    Block.latched_ite h h
  exact Block.latched_ite h (Block.latched_ite (Block.latched_raise _ _ _ hn hs) hs)

theorem Block.coreLock_time (b : Block) : b.coreLock.time = { b.time with locked := true, everLocked := true } := by
  unfold Block.coreLock Block.when
  cases b.time.everLocked
  · dsimp only; simp; split <;> rfl
  · rfl

theorem Block.coreUnlock_time (b : Block) : b.coreUnlock.time = { b.time with locked := false } := by
  simp [Block.coreUnlock]

theorem Block.coreUnlock_latched (b : Block) : b.coreUnlock.latched 0x8C = true :=
  Block.latched_sourceFail _ _ (by decide) (Block.latched_raise_self (b.onTime _) (by decide) _)

/-- Settles O13: the lock and its end set the two flags of timekeeping, and what follows them keeps timekeeping as it is. -/
theorem corePllLocksAndUnlocks : Obligations.CorePllLocksAndUnlocks := by
  unfold Obligations.CorePllLocksAndUnlocks
  refine ⟨fun s hrun hlock => ?_, fun s hrun hlock => ?_⟩
  · exact does_of_when rfl (by simp [hrun, hlock]) s.blk.coreLock_time
  · exact does_of_when rfl (by simp [hrun, hlock]) ⟨s.blk.coreUnlock_time, s.blk.coreUnlock_latched⟩

/-- Settles O16: each of the three commands is one raise under its condition. -/
theorem ticksRaiseTheirSource : Obligations.TicksRaiseTheirSource := by
  unfold Obligations.TicksRaiseTheirSource
  refine ⟨fun s hrun hhold hbad => ?_, fun busB s hserved hcan => ?_, fun s hvoted => ?_⟩
  · exact does_of_when rfl (by simp [hrun, hhold, hbad]) (Block.raise_raised _ (by decide) (by decide) _)
  · exact does_of_when rfl (by simp [hserved, hcan]) (Block.raise_raised _ (by decide) (by decide) _)
  · exact does_of_when rfl (by simp [hvoted]) (Block.raise_raised _ (by decide) (by decide) _)

/-! ### The crossing count (R35, R36, R38) -/

@[simp] theorem Block.finishCrossing_now (b : Block) : b.finishCrossing.time.now = b.time.now :=
  (Block.finishCrossing_keeps (.refl [.flash, .boot, .sets, .time, .chans, .iu, .adc, .acc, .stk, .queues, .mrg, .frm, .cvus, .twin,
    .flt, .regs, .dict, .ev, .env, .free] b) rfl).now_eq rfl

/-- What a crossing begins with moves every part but the straps, the TAP and the count of crossings. -/
@[simp] theorem Block.openCrossing_now (b : Block) (i : CrossInput) (wrap : Bool) (last len : Nat) :
    (b.openCrossing i wrap last len).time.now = b.time.now :=
  (Block.openCrossing_keeps (.refl [.fuses, .flash, .boot, .sets, .time, .chans, .chMask, .chSince, .leads, .plate, .bin, .iu, .adc, .acc,
    .stk, .queues, .mrg, .frm, .cvus, .twin, .flt, .regs, .dict, .ev, .sec, .env, .free] b) rfl).now_eq rfl

@[simp] theorem Block.idleBoundary_now (b : Block) (i : CrossInput) : (b.idleBoundary i).time.now = b.time.now :=
  (Block.idleBoundary_keeps (.refl [.flash, .boot, .sets, .time, .chans, .chMask, .chSince, .leads, .plate, .bin, .iu, .adc, .acc,
    .stk, .queues, .mrg, .frm, .cvus, .twin, .flt, .regs, .dict, .ev, .sec, .env, .free] b) rfl).now_eq rfl

@[simp] theorem Block.slewOnce_now (b : Block) : b.slewOnce.time.now = b.time.now :=
  (Block.slewOnce_keeps (.refl [.time] b) rfl).now_eq rfl

@[simp] theorem Block.todAdvance_now (b : Block) : b.todAdvance.time.now = b.time.now := rfl

@[simp] theorem Block.advance_now (b : Block) (wrap : Bool) : (b.advance wrap).time.now = b.time.now + 1 := by
  cases wrap <;> simp [Block.advance, Block.nextOrbit]

theorem Block.boundary_now (b : Block) (i : CrossInput) (wrap : Bool) : (b.boundary i wrap).time.now = b.time.now + 1 := by
  simp [Block.boundary]

section

variable {b : Block} (i : CrossInput) (wrap : Bool)

/-- The boundary that fits counts a crossing. -/
theorem Block.boundaryCmd_now (hrun : b.running = true) (hlock : b.time.everLocked = true) (hfits : b.lastSlot = wrap) :
    (b.boundaryCmd i wrap).time.now = b.time.now + 1 := by
  simp [Block.boundaryCmd, hrun, hlock, hfits, Block.boundary_now]

/-- The boundary that does not fit changes nothing, but for the one inside an orbit into a resync crossing. -/
theorem Block.boundaryCmd_misfit (hrun : b.running = true) (hlock : b.time.everLocked = true) (hfits : b.lastSlot ≠ wrap)
    (hresync : wrap = true ∨ b.resyncNext = false) : b.boundaryCmd i wrap = b := by
  have hidle : (b.resyncNext && !wrap) = false := by rcases hresync with h | h <;> simp [h]
  simp [Block.boundaryCmd, hrun, hlock, hfits, Block.when, hidle]

/-- Before the first lock a boundary counts no crossing. -/
theorem Block.boundaryCmd_idle (hidle : (b.running && b.time.everLocked) = false) :
    b.boundaryCmd i wrap = b.when (b.served && !wrap) fun b => b.idleBoundary i := by
  simp [Block.boundaryCmd, hidle]

end

/-- Settles O19: of the two boundaries the one that the slot counter fits counts, and the fallback oscillator counts none. -/
theorem boundariesCountCrossings : Obligations.BoundariesCountCrossings := by
  unfold Obligations.BoundariesCountCrossings
  refine fun i s => ⟨fun hrun hlock hslot => ⟨?_, ?_⟩, fun hrun hlock hslot => ⟨?_, fun hresync => ?_⟩, fun hserved hidle => ⟨?_, ?_⟩⟩
  · exact does_of_next rfl (Block.boundaryCmd_now i false hrun hlock hslot)
  · exact exec_of_same rfl (Block.boundaryCmd_misfit i true hrun hlock (by simp [hslot]) (.inl rfl))
  · exact does_of_next rfl (Block.boundaryCmd_now i true hrun hlock hslot)
  · exact exec_of_same rfl (Block.boundaryCmd_misfit i false hrun hlock (by simp [hslot]) (.inr hresync))
  · exact does_of_next rfl (by simp [Block.boundaryCmd_idle i false hidle, Block.when, hserved])
  · exact exec_of_same rfl (by simp [Block.boundaryCmd_idle i true hidle, Block.when])

end Sys2Proof.Machine
end

section
/-! PROOFS. Configuration swaps (R65, R139, R235, R236): the exchange of the sets and the hold of the shadow. -/

namespace Sys2Proof.Machine

/-! ### Halves that wake (R293) -/

/-- A half that is not Active has no region to check as it leaves its state. -/
theorem Block.lastLost_keeps_of_idle {ps : List Part} {a b : Block} {l : Nat} (h : Keeps ps a b) (hrx : (b.lane l).rx ≠ .active)
    (hl : partsIn [.frm] ps = true) : Keeps ps a (b.lastLost l) := by
  unfold Block.lastLost
  dsimp only
  split
  · rw [if_pos (.inl hrx)]
    exact Block.onLane_keeps h hl
  · exact Block.onLane_keeps h hl

theorem Block.trainRx_keeps_of_idle {ps : List Part} {a b : Block} {l : Nat} (h : Keeps ps a b) (hrx : (b.lane l).rx ≠ .active)
    (hl : partsIn [.frm, .regs, .ev] ps = true) : Keeps ps a (b.trainRx l) :=
  .ite h (Block.leftFor_keeps (Block.onLane_keeps (Block.lastLost_keeps_of_idle h hrx (partsIn_trans rfl hl)) (partsIn_trans rfl hl))
    (partsIn_trans rfl hl))

/-- The halves that wake are Off or Dormant: no region fails, and no site is charged with one. -/
theorem Block.wakeLink_keeps_idle {ps : List Part} {a b : Block} (h : Keeps ps a b) (k : Link)
    (hl : partsIn [.frm, .regs, .ev] ps = true) : Keeps ps a (b.wakeLink k) := by
  unfold Block.wakeLink
  refine .forEach (.forEach h fun l x hx => ?_) fun l x hx => .ite (Block.trainTx_keeps hx hl) hx
  split
  next hidle => exact Block.trainRx_keeps_of_idle hx (by intro hact; simp [hact] at hidle) hl
  next => exact hx

theorem Block.wakeLinks_keeps_idle {ps : List Part} {a b : Block} (h : Keeps ps a b) (hl : partsIn [.frm, .regs, .ev] ps = true) :
    Keeps ps a b.wakeLinks := Keeps.forEach h fun k _ hx => Block.wakeLink_keeps_idle hx k hl

/-! ### Plans in force (R384) -/

/-- Of the sets a plan in force changes its cuts and its list, and of the converters the mask. -/
structure PlanOnly (a b : Block) : Prop where
  sets : ∃ c l, b.sets = { a.sets with planCuts := c, planList := l }
  adc  : ∃ m, b.adc = { a.adc with maskCut := m }

theorem PlanOnly.refl (b : Block) : PlanOnly b b := ⟨⟨_, _, rfl⟩, ⟨_, rfl⟩⟩

theorem PlanOnly.keeps {a b c : Block} {l : List Part} (h : PlanOnly a b) (k : Keeps l b c) (hs : l.contains .sets = false)
    (ha : l.contains .adc = false) : PlanOnly a c where
  sets := by rw [k.sets_eq hs]; exact h.sets
  adc := by rw [k.adc_eq ha]; exact h.adc

theorem PlanOnly.ite {a x y : Block} {c : Prop} [Decidable c] (hx : PlanOnly a x) (hy : PlanOnly a y) :
    PlanOnly a (if c then x else y) := by split <;> assumption

/-- The plan itself and the raise and the waking that follow its change. -/
theorem PlanOnly.told {a b : Block} (h : PlanOnly a b) (n : Nat) (l : List Fld) : PlanOnly a (b.raise n l).wakeLinks :=
  h.keeps (Block.wakeLinks_keeps_idle (Block.raise_keeps (.refl [.frm, .regs, .ev] b) rfl) rfl) rfl rfl

theorem Block.putPlan_planOnly (b : Block) (p : Option RetPlan) : PlanOnly b (b.putPlan p) := by
  have told (x : Block) (c : Bool) (n : Nat) (l : List Fld) (h : PlanOnly b x) : PlanOnly b (if c then (x.raise n l).wakeLinks else x) :=
    .ite (h.told n l) h
  refine told _ _ _ _ ?_
  split
  · exact ⟨⟨_, _, rfl⟩, ⟨_, rfl⟩⟩
  · exact ⟨⟨_, _, rfl⟩, ⟨_, rfl⟩⟩

theorem Block.putKeyed_planOnly (b : Block) : PlanOnly b b.putKeyed := by
  unfold Block.putKeyed
  split
  · exact b.putPlan_planOnly none
  · split
    next p _ => exact b.putPlan_planOnly (some p)
    next =>
      refine PlanOnly.keeps (b := b.onSets fun s => { s with planCuts := none }) (l := [.flt, .regs, .ev, .free])
        ⟨⟨_, _, rfl⟩, ⟨_, rfl⟩⟩ ?_ rfl rfl
      exact Block.freeNext_keeps (Block.raise_keeps (Block.onFlt_keeps (.refl _ _) rfl) rfl) rfl

/-! ### The exchange (R65, R139, R235) -/

/-- What the exchange leaves of the sets: their places, the hold and the count of swaps. -/
def Sets.exchanged (s : Sets) (now : Nat) : Sets :=
  { s with act := some s.shd, shd := s.act.getD {}, armed := none, heldFrom := some now, swaps := s.swaps + 1 }

/-- The sets exchanged and named in the log. -/
def Block.swapped (b : Block) : Block := ((b.swapShadows b.active).exchangeSets).markSwap

theorem Block.swapped_sets (b : Block) : b.swapped.sets = b.sets.exchanged b.time.now := by
  have h : Keeps [.mrg] b (b.swapShadows b.active) := Block.swapShadows_keeps (.refl _ _) rfl
  show (b.swapShadows b.active).sets.exchanged (b.swapShadows b.active).time.now = _
  rw [h.sets_eq rfl, h.now_eq rfl]

theorem Block.swapped_now (b : Block) : b.swapped.time.now = b.time.now :=
  (Block.swapShadows_keeps (.refl [.mrg] b) rfl).now_eq rfl

/-- What the incoming set asks of the channels and their plate. -/
theorem Block.powered_keeps (b : Block) (n : Nat) (l : List Fld) (old : CfgSet) :
    Keeps [.chans, .chMask, .regs, .ev] b ((((b.raise n l).powerUp old).rewatch old).remask.plateChecks) :=
  Block.plateChecks_keeps (Block.remask_keeps (Block.rewatch_keeps (Block.powerUp_keeps (Block.raise_keeps (.refl _ _) rfl) rfl) rfl)
    rfl) rfl

/-- What follows the plan leaves the sets but for the crossing at which unused halves park, and the converters. -/
theorem Block.swapEnd_sets (b : Block) : ∃ p, b.wakeLinks.parkLater.ttActivate.ttConflicts.firesNow.sets = { b.sets with parkAt := p } := by
  have h : Keeps [.time, .chans, .iu, .regs, .ev] b.wakeLinks.parkLater b.wakeLinks.parkLater.ttActivate.ttConflicts.firesNow :=
    Block.firesNow_keeps (Block.ttConflicts_keeps (Block.ttActivate_keeps (.refl _ _) rfl) rfl) rfl
  have hwake : Keeps [.frm, .regs, .ev] b b.wakeLinks := Block.wakeLinks_keeps_idle (.refl _ _) rfl
  have hpark : b.wakeLinks.parkLater.sets = { b.wakeLinks.sets with parkAt := b.wakeLinks.parkLater.sets.parkAt } := rfl
  exact ⟨_, by rw [h.sets_eq rfl, hpark, hwake.sets_eq rfl]⟩

theorem Block.swapEnd_adc (b : Block) : b.wakeLinks.parkLater.ttActivate.ttConflicts.firesNow.adc = b.adc := by
  have h : Keeps [.sets, .frm, .time, .chans, .iu, .regs, .ev] b b.wakeLinks.parkLater.ttActivate.ttConflicts.firesNow :=
    Block.firesNow_keeps (Block.ttConflicts_keeps (Block.ttActivate_keeps (Block.parkLater_keeps
      (Block.wakeLinks_keeps_idle (.refl _ _) rfl) rfl) rfl) rfl) rfl
  exact h.adc_eq rfl

/-- A swap: the sets exchange, and the regular list restarts in the present crossing. -/
theorem Block.setSwap_leaves (b : Block) :
    (∃ c l p, b.setSwap.sets = { b.sets.exchanged b.time.now with planCuts := c, planList := l, parkAt := p }) ∧
    b.setSwap.adc.restart = some (0, b.time.now) := by
  have hframe := b.swapped.powered_keeps 0x12 [.id 32 b.swapped.activeSerial] b.active
  obtain ⟨x, hx⟩ : ∃ x, x = (((b.swapped.raise 0x12 [.id 32 b.swapped.activeSerial]).powerUp b.active).rewatch b.active).remask.plateChecks :=
    ⟨_, rfl⟩
  rw [← hx] at hframe
  let y := (x.onAdc fun a => { a with restart := some (0, x.time.now), maskCut := none }).onSets fun s => { s with planList := [] }
  let z := if y.planDueNow then y else y.putKeyed
  have hplan : PlanOnly y z := .ite (.refl _) y.putKeyed_planOnly
  have hz : b.setSwap = z.wakeLinks.parkLater.ttActivate.ttConflicts.firesNow := by subst hx; rfl
  have hnow : x.time.now = b.time.now := (hframe.now_eq rfl).trans b.swapped_now
  obtain ⟨⟨c, l, hsets⟩, ⟨m, hadc⟩⟩ := hplan
  obtain ⟨p, hp⟩ := z.swapEnd_sets
  refine ⟨⟨c, l, p, ?_⟩, ?_⟩
  · rw [hz, hp, hsets]
    show { x.sets with planCuts := c, planList := l, parkAt := p } = _
    rw [hframe.sets_eq rfl, b.swapped_sets]
  · rw [hz, z.swapEnd_adc, hadc]
    exact congrArg (fun n => some (0, n)) hnow

/-! ### The hold of the shadow (R236) -/

theorem Block.holdOver_iff {b : Block} {x : Nat} (hheld : b.sets.heldFrom = some x) (hslot : b.time.slot = 0) :
    b.holdOver = decide (x + 4096 ≤ b.time.now) := by simp [Block.holdOver, hheld, hslot]

theorem Block.toShadow_sets (b : Block) (c : CfgSet) :
    (b.toShadow c).sets = { b.sets with shd := c, waiting := none, staging := .idle, image := [] } := by
  unfold Block.toShadow
  refine (Keeps.sets_eq (l := [.boot, .queues, .mrg, .frm, .regs, .dict, .ev])
    (a := b.onSets fun s => { s with shd := c, waiting := none, staging := .idle, image := [] }) ?_ rfl).trans rfl
  exact Block.sendSlices_keeps (.when (.onBootRest (fun _ => ⟨rfl, rfl⟩) (.refl _ _) rfl) fun _ h => Block.parkLanes_keeps h rfl) rfl

/-- Settles O24: the swap is its exchange of the sets, which nothing after it touches but plan and parking; the hold waits for its
4096 crossings. -/
theorem swapsExchangeTheSets : Obligations.SwapsExchangeTheSets := by
  unfold Obligations.SwapsExchangeTheSets
  refine ⟨fun s hrun hdue => ?_, fun x s hrun hheld hslot => ?_⟩
  · obtain ⟨⟨c, l, p, hsets⟩, hadc⟩ := s.blk.setSwap_leaves
    exact does_of_when rfl (by simp [hrun, hdue]) (by rw [hsets]; exact ⟨rfl, rfl, rfl, rfl, rfl, rfl, rfl, rfl, hadc⟩)
  · have hover := Block.holdOver_iff hheld hslot
    refine ⟨fun hlong hnone => ?_, fun c hlong hwaits => ?_, fun hshort => ?_⟩
    · exact does_of_when rfl (by simp [hrun, hover, hlong]) (by simp [Block.holdEnd, hnone])
    · exact does_of_when rfl (by simp [hrun, hover, hlong]) (by simp [Block.holdEnd, hwaits, Block.toShadow_sets])
    · exact exec_of_not_when rfl (by simp [hover]; omega)

end Sys2Proof.Machine
end

section
/-! PROOFS. The orbit resync (R41, R178, R202, R260, R308): how RESYNC names its crossing, and what the crossing E does. -/

namespace Sys2Proof.Machine

/-! ### RESYNC (R41, R308) -/

section

variable {b : Block}

theorem Block.onCount_ahead {type target : Nat} {f : Block → Block} (h : b.time.now < target) : b.onCount type target f = f b := by
  simp [Block.onCount, Nat.not_le.mpr h]

theorem Block.onCount_late {type target : Nat} {f : Block → Block} (h : target ≤ b.time.now) :
    b.onCount type target f = b.commandLate type target := by
  simp [Block.onCount, h]

@[simp] theorem Block.commandLate_time (type target : Nat) : (b.commandLate type target).time = b.time := by simp [Block.commandLate]

@[simp] theorem Block.commandLate_acc (type target : Nat) : (b.commandLate type target).acc = b.acc := by simp [Block.commandLate]

theorem Block.commandLate_latched (type target : Nat) : (b.commandLate type target).latched 0xAC = true :=
  Block.latched_raise_self _ (by decide) _

theorem Block.commandLate_counts (type target : Nat) : (b.commandLate type target).reg 0x5B000A = b.reg 0x5B000A + 1 := by
  rw [Block.commandLate, Block.reg_raise_low _ _ _ (by decide), Block.reg_bump_same]

/-- An F-role that does not compute E itself takes it from COUNT. -/
theorem Block.actResync_counted {count h : Nat} (hrole : b.cRole = false) (hown : b.direct = true → count ≠ 0) :
    b.actResync count h =
      b.onCount 2 (h + count) fun b => b.onTime fun t => { t with resync := some ⟨h + count, none, h⟩ } := by
  have hnot : ¬(b.direct = true ∧ count = 0) := fun ⟨hdirect, hzero⟩ => hown hdirect hzero
  simp [Block.actResync, hrole, hnot]

theorem Block.actResync_direct {h : Nat} (hrole : b.cRole = false) (hdirect : b.direct = true) :
    b.actResync 0 h =
      b.onTime fun t => { t with resync := some ⟨(b.ownTarget (max (h + b.rs 0x280600) (b.time.now + 1))).1, none, h⟩ } := by
  simp [Block.actResync, hrole, hdirect]

/-- A C-role takes E from the selected domain, and its command passes on in the frame of the next crossing. -/
theorem Block.actResync_cRole {count h : Nat} (hrole : b.cRole = true) :
    let r := b.resyncTarget (max (h + b.rs 0x280600) (b.time.now + 2))
    b.actResync count h =
      (b.onTime fun t => { t with resync := some ⟨r.1, r.2, h⟩, markOut := some (b.markNumber r) }).onAcc fun a =>
        { a with command := some (command 2 ((r.1 - (b.time.now + 1)) % 2 ^ 17)) } := by
  have hrole' (t : Time → Time) : (b.onTime t).cRole = true := hrole
  simp only [Block.actResync, hrole, if_true, Block.forwardNext, hrole']
  rfl

/-- The target of a C-role in the form of the selected domain's announcement. -/
theorem Block.resyncTarget_cRole (least : Nat) (hrole : b.cRole = true) :
    b.resyncTarget least =
      match b.time.selected with
      | some d => match (b.dom d).annOrbit with
        | some n =>
          let k := orbitsTo (b.dom d).annAt (b.dom d).annLen least
          ((b.dom d).annAt + k * (b.dom d).annLen, some ((n + k) % 2 ^ 48))
        | none => b.ownTarget least
      | none => b.ownTarget least := by
  unfold Block.resyncTarget
  cases b.time.selected with
  | none => rfl
  | some d => simp only [Option.map_some, hrole, if_true] <;> cases (b.dom d).annOrbit <;> rfl

end

/-- Settles O17: RESYNC in each of its four forms sets the resync that is pending, or is late. -/
theorem resyncNamesItsCrossing : Obligations.ResyncNamesItsCrossing := by
  unfold Obligations.ResyncNamesItsCrossing
  intro count s hobeys h
  refine ⟨fun hrole hown hahead => ?_, fun hrole hown hlate => ?_, fun hrole hdirect hzero => ?_, fun hrole => ?_⟩
  · refine does_of_when rfl hobeys ?_
    rw [Block.actResync_counted hrole hown, Block.onCount_ahead hahead]
    exact ⟨rfl, rfl⟩
  · refine does_of_when rfl hobeys ?_
    rw [Block.actResync_counted hrole hown, Block.onCount_late hlate]
    exact ⟨Block.commandLate_time _ _, Block.commandLate_acc _ _, Block.commandLate_latched _ _, Block.commandLate_counts _ _⟩
  · refine does_of_when rfl hobeys ?_
    rw [hzero, Block.actResync_direct hrole hdirect]
    rfl
  · refine does_of_when rfl hobeys ?_
    rw [Block.actResync_cRole hrole, Block.resyncTarget_cRole _ hrole]
    exact ⟨rfl, rfl⟩

/-! ### Where the clock stands -/

/-- Slot, orbit number, the resync that is pending and the last E. -/
def Time.hand (t : Time) : Nat × Nat × Option Resync × Option Nat := (t.slot, t.orbit, t.resync, t.lastE)

/-- The clock of a block stands at h. -/
structure Stands (h : Nat × Nat × Option Resync × Option Nat) (b : Block) : Prop where
  hand : b.time.hand = h

section

variable {h : Nat × Nat × Option Resync × Option Nat} {a b x y : Block}

theorem Stands.keeps {l : List Part} (hb : Stands h a) (k : Keeps l a b) (h1 : l.contains .now = false) (h2 : l.contains .time = false) :
    Stands h b := ⟨by rw [k.time_eq h1 h2, hb.hand]⟩

theorem Stands.ite {c : Prop} [Decidable c] (hx : Stands h x) (hy : Stands h y) : Stands h (if c then x else y) := by
  split <;> assumption

theorem Stands.when {c : Bool} {f : Block → Block} (hb : Stands h b) (hf : ∀ x, Stands h x → Stands h (f x)) : Stands h (b.when c f) :=
  .ite (hf b hb) hb

theorem Stands.forEach {α : Type} {l : List α} {f : α → Block → Block} (hb : Stands h b) (hf : ∀ i x, Stands h x → Stands h (f i x)) :
    Stands h (forEach l b f) := List.foldlRecOn (motive := Stands h) l _ hb fun x hx i _ => hf i x hx

theorem Stands.onTime {f : Time → Time} (hb : Stands h b) (hf : ∀ t, (f t).hand = t.hand) : Stands h (b.onTime f) :=
  ⟨(hf b.time).trans hb.hand⟩

theorem Stands.setReg (hb : Stands h b) (k v : Nat) : Stands h (b.setReg k v) := ⟨hb.hand⟩

theorem Stands.raise (hb : Stands h b) (n : Nat) (l : List Fld) : Stands h (b.raise n l) :=
  hb.keeps (Block.raise_keeps (.refl [.regs, .ev] _) rfl) rfl rfl

theorem Stands.bump (hb : Stands h b) (k n : Nat) : Stands h (b.bump k n) := hb.keeps (Block.bump_keeps (.refl [.regs] _) rfl) rfl rfl

theorem Stands.onDom (hb : Stands h b) (d : Nat) (f : Tracker → Tracker) : Stands h (b.onDom d f) := by
  refine hb.onTime fun t => ?_
  split <;> rfl

/-! What a slot 0 begins leaves the clock where it stands. -/

theorem Stands.inc (hb : Stands h b) (base inc : Int) : Stands h (b.onTime fun t => { t with base := base, inc := inc }) :=
  hb.onTime fun _ => rfl

theorem Block.servo_stands (hb : Stands h b) (a : Tod) (n : Nat) : Stands h (b.servo a n) := by
  unfold Block.servo
  extract_lets e x base inc lim
  have hx : Stands h x := hb.setReg _ _
  refine .ite ?_ (.ite ?_ (hx.inc _ _))
  · refine .raise ?_ _ _
    exact hx.onTime fun _ => rfl
  · refine .raise ?_ _ _
    exact hx.inc _ _

theorem Block.slewBy_stands (hb : Stands h b) (r : Int) : Stands h (b.slewBy r) := hb.onTime fun _ => rfl

theorem Stands.increment (hb : Stands h b) (inc : Int) :
    Stands h (b.onTime fun t => { t with inc := inc, base := inc, incSet := true, todPrev := none }) := hb.onTime fun _ => rfl

theorem Block.todIncrement_stands (hb : Stands h b) (a : Tod) (len : Nat) : Stands h (b.todIncrement a len) := by
  unfold Block.todIncrement
  refine .ite hb ?_
  split
  · exact .ite hb (.increment hb _)
  · exact .onTime hb fun _ => rfl

theorem Block.todSlot0_stands (hb : Stands h b) (a : Option Tod) (len : Nat) : Stands h (b.todSlot0 a len) := by
  unfold Block.todSlot0
  split
  · exact hb.onTime fun _ => rfl
  next a =>
    have hrun (x : Block) (hx : Stands h x) : Stands h
        (if (x.todIncrement a len).reg 0x280205 = 1 ∧ (x.todIncrement a len).nO ≠ 0 then
          (x.todIncrement a len).servo a (32 * (x.todIncrement a len).nO) else x.todIncrement a len) :=
      have hi := Block.todIncrement_stands hx a len
      .ite (Block.servo_stands hi _ _) hi
    refine .ite (hb.onTime fun _ => rfl) (hrun _ ?_)
    split
    · exact hb.onTime fun _ => rfl
    · exact hb

theorem Block.domDelays_stands (hb : Stands h b) : Stands h b.domDelays := .ite hb ((hb.onDom _ _).onDom _ _)

theorem Block.qualifiedOrbits_stands (hb : Stands h b) : Stands h b.qualifiedOrbits := by
  unfold Block.qualifiedOrbits
  exact (hb.onDom _ _).onDom _ _

theorem Block.beginTrip_stands (hb : Stands h b) (p : Nat) (first : Bool) : Stands h (b.beginTrip p first) := hb.onTime fun _ => rfl

theorem Block.trips_stands (hb : Stands h b) : Stands h b.trips := by
  refine .ite hb (.forEach (hb.onTime fun _ => rfl) fun k x hx => ?_)
  have hport (f : PortSt → PortSt) : Stands h (x.onPort k.id f) := ⟨hx.hand⟩
  exact .ite (Block.beginTrip_stands (hport _) _ _) (.ite hx (hx.when fun y hy => Block.beginTrip_stands hy _ _))

theorem Block.applyAlign_stands (hb : Stands h b) (side d : Nat) : Stands h (b.applyAlign side d) := by
  unfold Block.applyAlign
  extract_lets old b1 b2 b3
  have hset : Stands h b2 := ((hb.setReg _ _).raise _ _).keeps (Block.onBoot_keeps (.refl [.role, .boot] _) rfl) rfl rfl
  have hplaced : Stands h b3 := hset.keeps (Block.onLane_keeps (.refl [.frm] _) rfl) rfl rfl
  exact .ite (.ite (Block.slewBy_stands hset _) hset) (hplaced.onTime fun _ => rfl)

theorem Block.applyAligns_stands (hb : Stands h b) : Stands h b.applyAligns :=
  .forEach (hb.onTime fun _ => rfl) fun _ _ hx => Block.applyAlign_stands hx _ _

theorem Block.ttUsed_stands (hb : Stands h b) (e : Nat) : Stands h (b.ttUsed e) := by
  unfold Block.ttUsed
  exact .onTime hb fun _ => rfl

theorem Block.ttConflicts_stands (hb : Stands h b) : Stands h b.ttConflicts := by
  refine hb.forEach fun e x hx => ?_
  dsimp only
  split
  · exact .ite (((Block.ttUsed_stands hx _).bump _ _).raise _ _) hx
  · exact hx

theorem Block.ttBeforeRelease_stands (hb : Stands h b) : Stands h b.ttBeforeRelease := .ite hb (hb.onTime fun _ => rfl)

theorem Block.firesNow_stands (hb : Stands h b) : Stands h b.firesNow :=
  hb.keeps (Block.firesNow_keeps (.refl [.chans, .iu] b) rfl) rfl rfl

end

/-- The work of a slot 0 leaves the clock where it stands, but for the orbit number that a worker takes from an announcement. -/
theorem Block.todOrbit_stands (b : Block) (len : Nat) :
    ∃ n, Stands (b.time.slot, n, b.time.resync, b.time.lastE) (b.todOrbit len) ∧ (b.cRole = true → n = b.time.orbit) := by
  cases hrole : b.cRole
  · have htaken : ∃ n, Stands (b.time.slot, n, b.time.resync, b.time.lastE) b.takeAnnounced := by
      unfold Block.takeAnnounced
      split
      · exact ⟨_, ⟨rfl⟩⟩
      · split <;> exact ⟨_, ⟨rfl⟩⟩
    obtain ⟨n, hn⟩ := htaken
    exact ⟨n, by simpa [Block.todOrbit, hrole] using Block.todSlot0_stands hn _ len, by simp⟩
  · exact ⟨_, by simpa [Block.todOrbit, hrole] using Block.todSlot0_stands (h := (_, _, _, _)) ⟨rfl⟩ _ len, fun _ => rfl⟩

theorem Block.openOrbit_stands (b : Block) (last len : Nat) (whole : Bool) :
    ∃ n, Stands (b.time.slot, n, b.time.resync, b.time.lastE) (b.openOrbit last len whole) ∧ (b.cRole = true → n = b.time.orbit) := by
  have hwrap : Keeps [.regs, .ev] b ((b.onEv fun e => { e with once := [] }).when (last == 2 ^ 48 - 1 && b.time.orbit == 0)
      fun b => b.raise 0x86 []) := .when (Block.onEv_keeps (.refl _ _) rfl) fun _ h => Block.raise_keeps h rfl
  obtain ⟨n, hn, hrole⟩ := Block.todOrbit_stands ((b.onEv fun e => { e with once := [] }).when
    (last == 2 ^ 48 - 1 && b.time.orbit == 0) fun b => b.raise 0x86 []) len
  rw [hwrap.time_eq rfl rfl] at hn hrole
  have hrest (x : Block) : Keeps [.chans, .adc, .twin, .regs, .ev] x ((x.channelsOrbit whole).onAdc fun a => { a with abandoned := 0 }).orbitTest :=
    Block.orbitTest_keeps (Block.onAdc_keeps (Block.channelsOrbit_keeps (.refl _ _) rfl) rfl) rfl
  refine ⟨n, ?_, fun h => hrole ((hwrap.role_eq rfl).trans h)⟩
  exact (Block.applyAligns_stands (Block.trips_stands (Block.qualifiedOrbits_stands (Block.domDelays_stands hn)))).keeps (hrest _) rfl rfl

/-! ### The crossing E (R41, R178, R202) -/

theorem Block.takeOrbit_stands (b : Block) (r : Resync) :
    Stands (0, (b.resyncOrbit r).1, none, some b.time.now) (b.takeOrbit r) := by
  have h : Stands (0, (b.resyncOrbit r).1, none, some b.time.now) ((b.logOrbit (b.resyncOrbit r).1).onTime fun t =>
      { t with resync := none, mark := none, markMissed := (b.resyncOrbit r).2, lastE := some t.now,
               mergeE := if (b.logOrbit (b.resyncOrbit r).1).cRole then some t.now else t.mergeE }) := ⟨rfl⟩
  exact .ite ((((h.onDom _ _).onDom _ _).bump _ _).raise _ _) h

/-- What E does between the orbit number and the campaigns. -/
def Block.resyncFirst (b : Block) : Block :=
  (((b.resyncSwap.resyncTwin).raise 0x8D [.id 48 b.time.orbit]).emptyStamps.restartRegular.clearPrimitives).campaignAbort

theorem Block.resyncFirst_keeps (b : Block) : Keeps [.sets, .chans, .leads, .iu, .adc, .frm, .twin, .regs, .ev] b b.resyncFirst :=
  Block.campaignAbort_keeps (Block.clearPrimitives_keeps (Block.restartRegular_keeps (Block.emptyStamps_keeps (Block.raise_keeps
    (Block.resyncTwin_keeps (Block.resyncSwap_keeps (.refl _ _) rfl) rfl) rfl) rfl) rfl) rfl) rfl

/-- E up to the sequence number of accepts. -/
def Block.resyncBody (b : Block) (r : Resync) : Block :=
  ((b.takeOrbit r).resyncFirst.onTime fun t => { t with campaigns := [] }).resyncStacks

theorem Block.resyncEffects_eq (b : Block) (r : Resync) :
    b.resyncEffects r =
      (if (b.resyncBody r).cRole then (b.resyncBody r).onAcc fun a => { a with seq := 0 } else b.resyncBody r).clearCounters
        resyncCounters := rfl

theorem Block.resyncBody_keeps (b : Block) (r : Resync) :
    Keeps [.sets, .time, .chans, .leads, .iu, .adc, .stk, .queues, .mrg, .frm, .twin, .regs, .ev] b (b.resyncBody r) :=
  Block.resyncStacks_keeps (.onTimeRest (fun _ => rfl) ((Block.takeOrbit_keeps (.refl _ _) rfl).comp (b.takeOrbit r).resyncFirst_keeps
    rfl) rfl) rfl

theorem Block.resyncBody_stands (b : Block) (r : Resync) :
    Stands (0, (b.resyncOrbit r).1, none, some b.time.now) (b.resyncBody r) := by
  have h := (b.takeOrbit_stands r).keeps (b.takeOrbit r).resyncFirst_keeps rfl rfl
  have hcampaigns := h.onTime (f := fun t => { t with campaigns := [] }) fun _ => rfl
  exact hcampaigns.keeps (Block.resyncStacks_keeps (.refl [.stk, .queues, .mrg, .regs, .ev] _) rfl) rfl rfl

theorem Block.resyncEffects_stands (b : Block) (r : Resync) :
    Stands (0, (b.resyncOrbit r).1, none, some b.time.now) (b.resyncEffects r) := by
  have hbody := b.resyncBody_stands r
  have hseq : Stands (0, (b.resyncOrbit r).1, none, some b.time.now)
      (if (b.resyncBody r).cRole then (b.resyncBody r).onAcc fun a => { a with seq := 0 } else b.resyncBody r) :=
    .ite (hbody.keeps (Block.onAcc_keeps (.refl [.acc] _) rfl) rfl rfl) hbody
  rw [Block.resyncEffects_eq]
  exact hseq.keeps (Block.clearCounters_keeps (.refl [.regs] _) rfl) rfl rfl

theorem Block.resyncEffects_role (b : Block) (r : Resync) : (b.resyncEffects r).cRole = b.cRole :=
  (Block.resyncEffects_keeps (.refl [.sets, .time, .chans, .leads, .iu, .adc, .acc, .stk, .queues, .mrg, .frm, .twin, .regs, .ev] b)
    rfl).role_eq rfl

theorem Block.resyncEffects_acc (b : Block) (r : Resync) (hrole : b.cRole = true) :
    (b.resyncEffects r).acc = { b.acc with seq := 0 } := by
  have hbody := b.resyncBody_keeps r
  have hrole' : (b.resyncBody r).cRole = true := (hbody.role_eq rfl).trans hrole
  rw [Block.resyncEffects_eq, (Block.clearCounters_keeps (.refl [.regs] _) rfl).acc_eq rfl, if_pos hrole']
  show { (b.resyncBody r).acc with seq := 0 } = _
  rw [hbody.acc_eq rfl]

/-! ### The command of the crossing E (R178, R310) -/

/-- With no accept that waits the command of a crossing takes no sequence number. -/
theorem Block.chooseCommand_seq {b : Block} (hext : b.acc.external = none) (hwait : b.acc.waiting = []) (hforced : b.acc.forcedDue = false) :
    b.chooseCommand.acc.seq = b.acc.seq := by
  unfold Block.chooseCommand
  dsimp only
  split
  · rfl
  · simp only [hext]
    unfold Block.chooseAfter
    split
    · rfl
    · simp [Block.chooseOwn, Block.chooseForced, Block.waitingAt, hwait, hforced]

theorem Block.commandNow_keeps' (b : Block) : Keeps [.acc, .regs, .ev] b b.commandNow := Block.commandNow_keeps (.refl _ _) rfl

theorem Block.commandNow_seq {b : Block} (hrole : b.cRole = true) (hresync : b.time.resync = none) (hext : b.acc.external = none)
    (hwait : b.acc.waiting = []) (hforced : b.acc.forcedDue = false) : b.commandNow.acc.seq = b.acc.seq := by
  have hdue : b.resyncDue = false := by simp [Block.resyncDue, hresync]
  simp [Block.commandNow, hrole, hdue, Block.chooseCommand_seq hext hwait hforced]

/-! ### RESYNC_TAKE_EFFECT -/

/-- The work of slot 0 at E. -/
def Block.resyncOpened (b : Block) (r : Resync) : Block :=
  ((b.resyncEffects r).commandNow).openOrbit b.time.orbit b.time.slot false

theorem Block.resyncOpened_acc (b : Block) (r : Resync) : (b.resyncOpened r).acc = (b.resyncEffects r).commandNow.acc :=
  (Block.openOrbit_keeps (.refl [.boot, .time, .chans, .adc, .mrg, .frm, .twin, .regs, .ev] _) rfl).acc_eq rfl

theorem Block.resyncNow_acc (b : Block) (r : Resync) : (b.resyncNow r).acc = (b.resyncEffects r).commandNow.acc := by
  have h : Keeps [.time, .chans, .iu, .regs, .ev] (b.resyncOpened r) (b.resyncNow r) :=
    .ite (.refl _ _) (Block.firesNow_keeps (Block.ttConflicts_keeps (Block.ttBeforeRelease_keeps (.refl _ _) rfl) rfl) rfl)
  rw [h.acc_eq rfl, b.resyncOpened_acc]

/-- At E the clock stands at slot 0 of the orbit taken, with nothing pending; a worker may take an announced number instead. -/
theorem Block.resyncNow_stands (b : Block) (r : Resync) :
    ∃ n, Stands (0, n, none, some b.time.now) (b.resyncNow r) ∧ (b.cRole = true → n = (b.resyncOrbit r).1) := by
  have heff := (b.resyncEffects_stands r).keeps (b.resyncEffects r).commandNow_keeps' rfl rfl
  obtain ⟨n, hn, hrole⟩ := (b.resyncEffects r).commandNow.openOrbit_stands b.time.orbit b.time.slot false
  have hhand := heff.hand
  simp only [Time.hand, Prod.mk.injEq] at hhand
  obtain ⟨hslot, horbit, hresync, hlast⟩ := hhand
  rw [hslot, hresync, hlast] at hn
  refine ⟨n, ?_, fun h => ?_⟩
  · exact .ite hn (Block.firesNow_stands (Block.ttConflicts_stands (Block.ttBeforeRelease_stands hn)))
  · rw [hrole (((b.resyncEffects r).commandNow_keeps'.role_eq rfl).trans ((b.resyncEffects_role r).trans h)), horbit]

theorem Block.resyncNow_seq {b : Block} (r : Resync) (hrole : b.cRole = true) (hext : b.acc.external = none) (hwait : b.acc.waiting = [])
    (hforced : b.acc.forcedDue = false) : (b.resyncNow r).acc.seq = 0 := by
  have hacc := b.resyncEffects_acc r hrole
  have hresync : (b.resyncEffects r).time.resync = none := by
    have hhand := (b.resyncEffects_stands r).hand
    simp only [Time.hand, Prod.mk.injEq] at hhand
    exact hhand.2.2.1
  rw [b.resyncNow_acc, Block.commandNow_seq ((b.resyncEffects_role r).trans hrole) hresync] <;> simp [hacc, hext, hwait, hforced]

theorem Block.resyncNow_now (b : Block) (r : Resync) : (b.resyncNow r).time.now = b.time.now :=
  (Block.resyncNow_keeps (.refl (footprint .resyncTakeEffect) b) rfl).now_eq rfl

/-- Settles O18: the effects of E set the clock, and the work of slot 0 leaves it there; the merge has its own step. -/
theorem resyncTakesEffect : Obligations.ResyncTakesEffect := by
  unfold Obligations.ResyncTakesEffect
  refine ⟨fun r s hrun hresync hdue => ?_, fun e s hrun hrole hmerge => ?_⟩
  · have hexec : exec .resyncTakeEffect s = .next { s with blk := s.blk.resyncNow r } := by
      show execResyncTakeEffect s = _
      simp [execResyncTakeEffect, State.run, Block.when, hresync, hrun, hdue]
    obtain ⟨n, hstands, horbit⟩ := s.blk.resyncNow_stands r
    have hhand := hstands.hand
    simp only [Time.hand, Prod.mk.injEq] at hhand
    obtain ⟨hslot, hnumber, hnone, hlast⟩ := hhand
    refine does_of_next hexec ⟨hslot, hnone, hlast, s.blk.resyncNow_now r, fun hrole => ⟨?_, Block.resyncNow_seq r hrole⟩⟩
    rw [hnumber, horbit hrole]
    simp [Block.resyncOrbit, hrole]
  · have hexec : exec .mergeResync s = .next
        { s with blk := (s.blk.when (s.blk.running && s.blk.cRole && decide (e + s.blk.fW ≤ s.blk.time.now)) fun b =>
            (b.onTime fun t => { t with mergeE := none }).resyncMerge e) } := by
      show execMergeResync s = _
      simp [execMergeResync, State.run, hmerge]
    refine ⟨fun hdue => does_of_when hexec (by simp [hrun, hrole, hdue]) ⟨rfl, rfl, rfl⟩, fun hearly => ?_⟩
    exact exec_of_not_when hexec (by simp; omega)

end Sys2Proof.Machine
end

section
/-! PROOFS. The timing domains (R49 to R54): a domain that is lost, a switch that is asked for, and one that is due. -/

namespace Sys2Proof.Machine

/-! ### A latch that is set stays set while a queue is written and an answer leaves (R425) -/

/-- The latch of source n is set. -/
structure Latches (n : Nat) (b : Block) : Prop where
  low : n < 256
  set : b.latched n = true

section

variable {n : Nat} {b x y : Block}

theorem Latches.same (hb : Latches n x) (hxy : y.latched n = x.latched n) : Latches n y := ⟨hb.low, hxy.trans hb.set⟩

theorem Latches.ite {c : Prop} [Decidable c] (hx : Latches n x) (hy : Latches n y) : Latches n (if c then x else y) := by
  split <;> assumption

theorem Latches.forEach {α : Type} {l : List α} {f : α → Block → Block} (hb : Latches n b) (hf : ∀ i x, Latches n x → Latches n (f i x)) :
    Latches n (forEach l b f) := List.foldlRecOn (motive := Latches n) l _ hb fun x hx i _ => hf i x hx

theorem Latches.setReg (hb : Latches n b) {k : Nat} (v : Nat) (hk : k < 0x780000) : Latches n (b.setReg k v) :=
  ⟨hb.low, by rw [Block.latched_setReg _ _ hk, hb.set]⟩

theorem Latches.bump (hb : Latches n b) {k : Nat} (v : Nat) (hk : k < 0x780000) : Latches n (b.bump k v) :=
  ⟨hb.low, by rw [Block.latched_bump _ _ hk, hb.set]⟩

theorem Latches.peak (hb : Latches n b) {k : Nat} (v : Nat) (hk : k < 0x780000) : Latches n (b.peak k v) :=
  .ite (hb.setReg v hk) hb

theorem Latches.raise (hb : Latches n b) (m : Nat) (l : List Fld) : Latches n (b.raise m l) :=
  ⟨hb.low, Block.latched_raise b m l hb.low hb.set⟩

theorem Latches.raiseOnce (hb : Latches n b) (m k : Nat) (l : List Fld) : Latches n (b.raiseOnce m k l) := by
  refine .ite ⟨hb.low, Block.latched_mark b m _ hb.low hb.set⟩ (.raise ?_ m l)
  exact hb.same rfl

theorem Latches.onQueue (hb : Latches n b) (q : Nat) (f : Queue → Queue) : Latches n (b.onQueue q f) := hb.same rfl

theorem queueKey_low {q e : Nat} (hq : q < 256) (he : e < 256) : queueKey q e < 0x780000 := by unfold queueKey; omega

theorem isUp_lt {q : Nat} (h : isUp q = true) : q < 0x2D := by
  simp only [isUp, Bool.and_eq_true, decide_eq_true_eq] at h
  omega

theorem Latches.countWithdrawal (hb : Latches n b) (c : Nat) (w : Word64) : Latches n (b.countWithdrawal c w) := by
  have hreason : bits w.toNat 55 52 < 2 ^ 4 := Nat.mod_lt _ (by decide)
  exact (hb.bump _ (by omega)).raiseOnce _ _ _

theorem Latches.numbered (hb : Latches n b) (q : Nat) (r : QRec) : Latches n (b.numbered q r) := by
  unfold Block.numbered
  split
  · exact hb
  · next hup =>
    have hq : q < 0x2D := isUp_lt (by simpa using hup)
    have haccount : Latches n (b.account (q - 0x20) r) := hb.same rfl
    refine .ite ?_ haccount
    refine Latches.raise ?_ _ _
    exact (((haccount.setReg _ (by omega)).setReg _ (by omega)).setReg _ (by omega)).setReg _ (by omega)

section

variable {q : Nat} (hq : q < 256)

include hq

theorem Latches.queueNotice (hb : Latches n b) : Latches n (b.queueNotice q) := by
  have hpeak := hb.peak (b.queue q).level (queueKey_low hq (e := 4) (by decide))
  unfold Block.queueNotice
  exact .ite (.ite ((hpeak.onQueue _ _).raise _ _) (hpeak.onQueue _ _)) (.ite (hpeak.onQueue _ _) hpeak)

theorem Latches.qPlace (hb : Latches n b) (r : QRec) : Latches n (b.qPlace q r) := by
  unfold Block.qPlace
  refine Latches.queueNotice hq (.numbered (.ite (.bump ?_ _ (queueKey_low hq (by decide))) ?_) _ _) <;> exact hb.onQueue _ _

theorem Latches.qClose (hb : Latches n b) : Latches n (b.qClose q) :=
  .ite hb ((hb.onQueue _ _).bump _ (queueKey_low hq (by decide)))

omit hq in
theorem Latches.qJoin (hb : Latches n b) (r : QRec) : Latches n (b.qJoin q r) := .ite (hb.same rfl) (hb.same rfl)

theorem Latches.qWithdraw (hb : Latches n b) (r : QRec) : Latches n (b.qWithdraw q r) :=
  .ite (hb.qJoin _) (.qPlace hq (hb.countWithdrawal _ _) _)

theorem Latches.qRefuse (hb : Latches n b) (r : QRec) : Latches n (b.qRefuse q r) := by
  unfold Block.qRefuse
  have hcount := (hb.bump 1 (queueKey_low hq (e := 8) (by decide))).raiseOnce 0x5E q [.id 8 q, b.nameFld r.cross, .cnt 16 (recCount r)]
  exact .ite (.forEach hcount fun _ _ hx => .qWithdraw hq hx _) (hcount.onQueue _ _)

theorem Latches.qDrain : ∀ (k : Nat) {b : Block}, Latches n b → Latches n (b.qDrain k q)
  | 0, _, hb => hb
  | k + 1, b, hb => by
    unfold Block.qDrain
    refine .ite hb ?_
    split
    · exact Latches.qDrain k (.qPlace hq (hb.onQueue _ _) _)
    · split
      · exact hb
      · exact Latches.qDrain k (.forEach (hb.onQueue _ _) fun _ _ hx => .qWithdraw hq hx _)

theorem Latches.qWrite (hb : Latches n b) (r : QRec) : Latches n (b.qWrite q r) := by
  have hdrain := Latches.qDrain hq (b.queue q).waiting hb
  have hplace := Latches.qPlace hq hdrain r
  have hrefuse := Latches.qRefuse hq hdrain r
  exact .ite (.ite hplace (.ite (hdrain.onQueue _ _) hrefuse)) (.ite hplace hrefuse)

theorem Latches.qBulk (hb : Latches n b) (c : Nat) (l : List Word64) : Latches n (b.qBulk q c l) := by
  have hclose := Latches.qClose hq (Latches.qDrain hq (b.queue q).waiting hb)
  unfold Block.qBulk
  exact .ite (.queueNotice hq ((hclose.onQueue _ _).bump _ (queueKey_low hq (by decide)))) (.forEach hclose fun _ _ hx => .qRefuse hq hx _)

end

theorem Latches.inbandSend (hb : Latches n b) (o : Nat) (m : List Byte) : Latches n (b.inbandSend o m) := by
  refine .ite (.ite (hb.same rfl) (hb.same rfl)) (.ite ?_ (.qBulk (by decide) hb _ _))
  exact .forEach hb fun _ _ hx => .qWrite (by decide) hx _

theorem Latches.reply (hb : Latches n b) (h : Hdr) (op idx sub arg : Nat) (body : List Byte) :
    Latches n (b.reply h op idx sub arg body) := by
  have hlist : Latches n (if b.dict.mute = true then b else b.onDict fun d =>
      { d with replies := d.replies ++ [mkReply h op idx sub arg body] }) := .ite hb (hb.same rfl)
  exact .ite hlist (hlist.inbandSend _ _)

theorem Latches.refuseKey (hb : Latches n b) (h : Hdr) (key code : Nat) : Latches n (b.refuseKey h key code) := by
  refine .ite hb (.reply ?_ _ _ _ _ _ _)
  exact (hb.raiseOnce _ _ _).same rfl

end

/-! ### A domain is lost (R49, R50, R52 to R54) -/

/-- What has been raised once stays so when the clock's own fields change, where it stands at the same crossing. -/
theorem Raised.retimed {a b : Block} {n : Nat} (h : Raised a b n) (u v : Time) (horbit : u.orbit = a.time.orbit)
    (hslot : u.slot = a.time.slot) : Raised { a with time := u } { b with time := v } n where
  count := h.count
  latch := h.latch
  other := h.other
  mask := h.mask
  ring := fun hmask => by
    obtain ⟨m, hm, hring⟩ := h.ring hmask
    exact ⟨m, hm, by rw [horbit, hslot]; exact hring⟩

/-- A tracker that goes LOST drops its words. -/
def Tracker.dropped (t : Tracker) : Tracker :=
  { t with state := .lost, words := [], bad := false, good := 0, incomplete := 0, qualRun := 0, assessed := true }

/-- A loss is declared. -/
def Block.lossDeclared (b : Block) (d : Nat) : Block := (b.onDom d Tracker.dropped).raise 0x80 [.id 1 d]

/-- The switch that stands planned once a domain has been left. -/
def Block.leavePlan (b : Block) (d at_ : Nat) : Option Switch :=
  let leave : Switch := ⟨if (b.dom (1 - d)).state = .qualified then 1 - d else 2, at_, false⟩
  match b.time.switchTo with
  | some w => if w.orbit = false ∧ w.target ≠ d ∧ w.from_ ≤ at_ then some w else some leave
  | none => some leave

section

variable {b : Block} {d : Nat}

theorem Block.leaveDomain_eq (b : Block) (d at_ : Nat) :
    b.leaveDomain d at_ = b.onTime fun t => { t with switchTo := b.leavePlan d at_ } := by
  unfold Block.leaveDomain Block.leavePlan
  cases hw : b.time.switchTo with
  | none => rfl
  | some w =>
    simp only [Bool.and_eq_true, Bool.not_eq_true', bne_iff_ne, decide_eq_true_eq, and_assoc]
    split
    · show b = { b with time := { b.time with switchTo := some w } }
      rw [← hw]
    · rfl

theorem Block.leavePlan_stays {w : Switch} {at_ : Nat} (hw : b.time.switchTo = some w) (horbit : w.orbit = false) (htarget : w.target ≠ d)
    (hfrom : w.from_ ≤ at_) : b.leavePlan d at_ = b.time.switchTo := by
  simp [Block.leavePlan, hw, horbit, htarget, hfrom]

theorem Block.leavePlan_leaves {at_ : Nat} (h : ∀ w, b.time.switchTo = some w → w.orbit = true ∨ w.target = d ∨ at_ < w.from_) :
    b.leavePlan d at_ = some ⟨if (b.dom (1 - d)).state = .qualified then 1 - d else 2, at_, false⟩ := by
  unfold Block.leavePlan
  cases hw : b.time.switchTo with
  | none => rfl
  | some w =>
    refine if_neg fun ⟨horbit, htarget, hfrom⟩ => ?_
    rcases h w hw with h | h | h
    · simp [horbit] at h
    · exact htarget h
    · omega

@[simp] theorem Block.dom_onDom_same (b : Block) (d : Nat) (f : Tracker → Tracker) : (b.onDom d f).dom d = f (b.dom d) := by
  unfold Block.onDom Block.dom
  split <;> simp [Block.onTime, *]

theorem Block.dom_onDom_ne (b : Block) (f : Tracker → Tracker) {d e : Nat} (h : d = 0 ↔ e ≠ 0) : (b.onDom d f).dom e = b.dom e := by
  unfold Block.onDom Block.dom
  by_cases hd : d = 0
  · simp [Block.onTime, hd, h.mp hd]
  · simp [Block.onTime, hd, not_not.mp (mt h.mpr hd)]

/-- The other of two domains. -/
theorem other_iff (d : Fin 2) : (d.val = 0 ↔ 1 - d.val ≠ 0) := by omega

theorem Block.dom_time {a b : Block} (h : b.time = a.time) (d : Nat) : b.dom d = a.dom d := by unfold Block.dom; rw [h]

theorem Block.lossDeclared_time (b : Block) (d : Nat) : (b.lossDeclared d).time = (b.onDom d Tracker.dropped).time := Block.raise_time ..

/-- Beside its tracker a domain's change leaves the clock as it was. -/
theorem Block.onDom_time (b : Block) (d : Nat) (f : Tracker → Tracker) :
    (b.onDom d f).time = { b.time with domA := (b.onDom d f).time.domA, domB := (b.onDom d f).time.domB } := by
  unfold Block.onDom
  split <;> rfl

theorem Block.lossDeclared_clock (b : Block) (d : Nat) :
    (b.lossDeclared d).time =
      { b.time with domA := (b.onDom d Tracker.dropped).time.domA, domB := (b.onDom d Tracker.dropped).time.domB } := by
  rw [Block.lossDeclared_time, Block.onDom_time]

/-- The declared loss beside the switch that it leaves planned: the message, the two trackers and the selection. -/
theorem Block.lossDeclared_raised (b : Block) (d : Nat) (w : Option Switch) :
    let c := (b.lossDeclared d).onTime fun t => { t with switchTo := w }
    Raised { b with time := c.time } c 0x80 := by
  have hraise : Raised (b.onDom d Tracker.dropped) (b.lossDeclared d) 0x80 := Block.raise_raised _ (by decide) (by decide) _
  refine hraise.retimed _ _ ?_ ?_
  · show (b.lossDeclared d).time.orbit = _
    rw [Block.lossDeclared_time]
  · show (b.lossDeclared d).time.slot = _
    rw [Block.lossDeclared_time]

theorem Block.lossDeclared_dom (b : Block) (d : Nat) : (b.lossDeclared d).dom d = (b.dom d).dropped := by
  rw [Block.dom_time (b.lossDeclared_time d), Block.dom_onDom_same]

theorem Block.lossDeclared_other (b : Block) {d e : Nat} (h : d = 0 ↔ e ≠ 0) : (b.lossDeclared d).dom e = b.dom e := by
  rw [Block.dom_time (b.lossDeclared_time d), Block.dom_onDom_ne _ _ h]

theorem Block.lossDeclared_keeps (b : Block) (d : Nat) : Keeps [.time, .regs, .ev] b (b.lossDeclared d) :=
  Block.raise_keeps (Block.onDom_keeps (.refl _ _) rfl) rfl

/-- The crossing at which a C-role leaves a domain is judged as the loss is declared. -/
theorem Block.lossDeclared_lossAt (b : Block) (d : Nat) (hrole : b.cRole = true) :
    (b.lossDeclared d).lossAt =
      if b.topology ≠ 0 then b.time.now + 1 else b.time.now + 2 + (if b.twin.lost then 0 else b.mirrorDelay) := by
  have hkeeps := b.lossDeclared_keeps d
  have hsets := hkeeps.sets_eq rfl
  have htop : (b.lossDeclared d).topology = b.topology := by unfold Block.topology; rw [hsets]
  unfold Block.lossAt
  rw [htop, hkeeps.now_eq rfl, hkeeps.twin_eq rfl, hsets]
  by_cases ht : b.topology = 0
  · simp [Block.mirrorDelay, Block.isTwin, hrole, ht]
  · simp [ht]

/-- The switch that stands planned after a loss: a C-role leaves a domain that it has selected. -/
def Block.lossPlan (b : Block) (d : Nat) : Option Switch :=
  if b.cRole = true ∧ b.time.selected.map Fin.val = some d then (b.lossDeclared d).leavePlan d (b.lossDeclared d).lossAt
  else b.time.switchTo

/-- What a loss does where no holdover is entered. -/
theorem Block.domLost_eq (hstate : (b.dom d).state ≠ .lost)
    (hheld : b.cRole = true ∨ ((b.lossDeclared d).dom (1 - d)).state ≠ .lost ∨ b.time.holdover = true) :
    b.domLost d =
      (b.lossDeclared d).onTime fun t => { t with switchTo := b.lossPlan d } := by
  have hrole : (b.lossDeclared d).cRole = b.cRole := (b.lossDeclared_keeps d).role_eq rfl
  have hsel : (b.lossDeclared d).time.selected = b.time.selected := by rw [Block.lossDeclared_clock]
  have hplan : (b.lossDeclared d).time.switchTo = b.time.switchTo := by rw [Block.lossDeclared_clock]
  have hhold : (b.lossDeclared d).time.holdover = b.time.holdover := by rw [Block.lossDeclared_clock]
  have hunfold : b.domLost d =
      let c := b.lossDeclared d
      if c.cRole then c.when (c.time.selected.map Fin.val == some d) fun b => b.leaveDomain d b.lossAt
      else if (c.dom (1 - d)).state = .lost ∧ !c.time.holdover then c.enterHoldover else c := if_neg hstate
  rw [hunfold]
  simp only [hrole, hsel, hhold]
  cases hc : b.cRole with
  | false =>
    have hnot : ¬(((b.lossDeclared d).dom (1 - d)).state = .lost ∧ (!b.time.holdover) = true) := by
      rintro ⟨hlost, hno⟩
      rcases hheld with h | h | h
      · simp [hc] at h
      · exact h hlost
      · simp [h] at hno
    rw [if_neg (by decide), if_neg hnot]
    simp [Block.onTime, Block.lossPlan, hc, ← hplan]
  | true =>
    by_cases hd : b.time.selected.map Fin.val = some d
    · simp [Block.when, hd, Block.leaveDomain_eq, Block.lossPlan, hc]
    · simp [Block.when, hd, Block.onTime, Block.lossPlan, ← hplan]

theorem Block.lossPlan_stays (h : b.cRole = false ∨ b.time.selected.map Fin.val ≠ some d) : b.lossPlan d = b.time.switchTo := by
  refine if_neg fun ⟨hrole, hsel⟩ => ?_
  rcases h with h | h
  · simp [hrole] at h
  · exact h hsel

theorem Block.lossPlan_leaves (hrole : b.cRole = true) (hsel : b.time.selected.map Fin.val = some d) :
    b.lossPlan d = (b.lossDeclared d).leavePlan d (b.lossDeclared d).lossAt := if_pos ⟨hrole, hsel⟩

theorem Block.lossDeclared_switchTo (b : Block) (d : Nat) : (b.lossDeclared d).time.switchTo = b.time.switchTo := by
  rw [Block.lossDeclared_clock]

theorem Block.domLost_lost (h : (b.dom d).state = .lost) : b.domLost d = b := if_pos h

/-- A worker that loses the second of its downlinks. -/
theorem Block.domLost_holdover (hstate : (b.dom d).state ≠ .lost) (hrole : b.cRole = false)
    (hother : ((b.lossDeclared d).dom (1 - d)).state = .lost) (hno : b.time.holdover = false) :
    b.domLost d = (b.lossDeclared d).enterHoldover := by
  have hrole' : (b.lossDeclared d).cRole = false := ((b.lossDeclared_keeps d).role_eq rfl).trans hrole
  have hno' : (b.lossDeclared d).time.holdover = false := by rw [Block.lossDeclared_clock, hno]
  have hunfold : b.domLost d =
      let c := b.lossDeclared d
      if c.cRole then c.when (c.time.selected.map Fin.val == some d) fun b => b.leaveDomain d b.lossAt
      else if (c.dom (1 - d)).state = .lost ∧ !c.time.holdover then c.enterHoldover else c := if_neg hstate
  rw [hunfold]
  simp [hrole', hother, hno']

theorem Block.enterHoldover_time (b : Block) :
    b.enterHoldover.time = { b.time with selected := none, holdover := true, switchTo := none } := Block.raise_time ..

/-! ### A switch that is due (R51, R52) -/

theorem Block.enterHoldover_raised (b : Block) : Raised { b with time := b.enterHoldover.time } b.enterHoldover 0x83 := by
  have hraise := Block.raise_raised (b.onTime fun t => { t with selected := none, holdover := true, switchTo := none }) (n := 0x83)
    (by decide) (by decide) [b.hereFld]
  exact hraise.retimed _ b.enterHoldover.time (by rw [Block.enterHoldover_time]; rfl) (by rw [Block.enterHoldover_time]; rfl)

/-- The clock of a core PLL that has taken a domain: the residual is slewed out. -/
def Time.took (t : Time) (d : Fin 2) (r : Int) : Time :=
  { t with selected := some d, holdover := false, switchTo := none, slew := 4096 * r,
           slewStep := if r.natAbs ≤ 4095 then r else if 0 ≤ r then 4095 else -4095 }

theorem Block.takeDomain_eq (b : Block) (d : Fin 2) :
    b.takeDomain d = (b.onTime fun t => t.took d (b.dom d).residual).raise 0x82 [.id 1 d, .id 1 0, .int 32 (b.dom d).residual] := rfl

theorem Block.takeDomain_time (b : Block) (d : Fin 2) : (b.takeDomain d).time = b.time.took d (b.dom d).residual := by
  rw [Block.takeDomain_eq, Block.raise_time]
  rfl

theorem Block.takeDomain_raised (b : Block) (d : Fin 2) : Raised { b with time := (b.takeDomain d).time } (b.takeDomain d) 0x82 := by
  have hraise := Block.raise_raised (b.onTime fun t => t.took d (b.dom d).residual) (n := 0x82) (by decide) (by decide)
    [.id 1 d, .id 1 0, .int 32 (b.dom d).residual]
  exact hraise.retimed _ (b.takeDomain d).time (by rw [Block.takeDomain_time]; rfl) (by rw [Block.takeDomain_time]; rfl)

theorem Block.switchDue_some {w : Switch} (hw : b.time.switchTo = some w)
    (hdue : w.from_ ≤ b.time.now ∧ (w.orbit = true → b.time.slot = 0)) : b.switchDue = some w.target := by
  have hslot : (!w.orbit) = true ∨ b.time.slot = 0 := by
    cases horbit : w.orbit with
    | false => exact .inl rfl
    | true => exact .inr (hdue.2 horbit)
  unfold Block.switchDue
  rw [hw]
  exact if_pos ⟨hdue.1, hslot⟩

theorem Block.switchDue_none {w : Switch} (hw : b.time.switchTo = some w)
    (hdue : ¬(w.from_ ≤ b.time.now ∧ (w.orbit = true → b.time.slot = 0))) : b.switchDue = none := by
  unfold Block.switchDue
  rw [hw]
  refine if_neg fun ⟨hfrom, hslot⟩ => hdue ⟨hfrom, fun horbit => ?_⟩
  simpa [horbit] using hslot

theorem Block.switchNow_domain (d : Fin 2) (hstate : (b.dom d).state = .qualified) : b.switchNow d = b.takeDomain d := by
  have hd : (if (d : Nat) = 0 then 0 else 1 : Fin 2) = d := by fin_cases d <;> rfl
  have hlt : ¬(2 ≤ (d : Nat)) := by omega
  unfold Block.switchNow
  rw [if_neg hlt, if_pos (.inl hstate), hd]

theorem Block.switchNow_holdover (h : ∀ d : Fin 2, b.time.selected = some d → (b.dom (1 - d)).state ≠ .qualified) :
    b.switchNow 2 = b.enterHoldover := by
  unfold Block.switchNow
  rw [if_pos (by decide)]
  cases hsel : b.time.selected with
  | none => rfl
  | some d => exact if_neg (h d hsel)

theorem exec_domainSwitchExecute {s : State} {target : Nat} (hrun : s.blk.running = true) (hdue : s.blk.switchDue = some target) :
    exec .domainSwitchExecute s = .next { s with blk := s.blk.switchNow target } := by
  show execDomainSwitchExecute s = _
  simp [execDomainSwitchExecute, State.run, hdue, Block.when, hrun]

theorem exec_domainSwitchExecute_waits {s : State} (hdue : s.blk.switchDue = none) : exec .domainSwitchExecute s = .next s := by
  show execDomainSwitchExecute s = _
  simp [execDomainSwitchExecute, State.run, hdue]

/-! ### A request for a switch (R50) -/

/-- Entry 2820.04, the domain to switch to, is written and never read. -/
theorem Block.switchEntry (b : Block) : ∃ d, b.entryOf 0x2820 0x04 = some d ∧ d.access = .wo := by
  have hrow : (descOf 0x2820 0x04).map Desc.access = some .wo := by decide
  obtain ⟨d, hd, haccess⟩ := Option.map_eq_some_iff.mp hrow
  exact ⟨d, hd, haccess⟩

/-- A write that its entry may take is the entry's own. -/
theorem Block.writeOf_writable {h : Hdr} {a : Access} {key : Nat} {l : List Byte} {d : Desc} (hw : b.writable h key l.length = true)
    (hentry : b.entryOf (key / 256) (key % 256) = some d) (haccess : d.access = a) :
    b.writeOf h a key l = (b.taken h).entryWrite h d key l := by
  unfold Block.writeOf
  rw [Block.writeTo_writable _ _ _ _ _ hw, Block.taken_entryOf, hentry]
  exact if_pos haccess

theorem natLE_one {v : Nat} (hv : v < 256) : natLE (bytesLE 1 v) = v := by
  simp [natLE, bytesLE, Nat.mod_eq_of_lt hv]

/-- A write that the entry may take is the request itself. -/
theorem exec_domainSwitchRequest {h : Hdr} {dom : BitVec 8} {s : State} (hw : s.blk.writable h 0x282004 1 = true) :
    exec (.domainSwitchRequest h dom) s = .next { s with blk := (s.blk.taken h).switchWrite h dom.toNat } := by
  obtain ⟨d, hentry, haccess⟩ := s.blk.switchEntry
  have hwrite : s.blk.writeOf h .wo 0x282004 (bytesLE 1 dom.toNat) = (s.blk.taken h).switchWrite h dom.toNat := by
    rw [Block.writeOf_writable hw hentry haccess, Block.entryWrite, haccess]
    show (s.blk.taken h).switchWrite h (natLE (bytesLE 1 dom.toNat)) = _
    rw [natLE_one dom.isLt]
  show execDomainSwitchRequest h dom s = _
  rw [execDomainSwitchRequest, State.run, hwrite]

theorem Block.switchWrite_outside (b : Block) (h : Hdr) {v : Nat} (hv : 2 ≤ v) : b.switchWrite h v = b.refuseKey h 0x282004 0x07 :=
  if_pos hv

theorem Block.switchWrite_granted (h : Hdr) {v : Nat} (hv : v < 2) (hstate : (b.dom v).state = .qualified) :
    b.switchWrite h v = (b.switchAtOrbit v 2).ack h 0x282004 := by
  rw [Block.switchWrite, if_neg (by omega), if_pos hstate, Block.requestSwitch, if_pos hstate]

theorem Block.switchWrite_refused (h : Hdr) {v : Nat} (hv : v < 2) (hstate : (b.dom v).state ≠ .qualified) :
    b.switchWrite h v = (b.raise 0x82 [.id 1 v, .id 1 1, .int 32 (b.dom v).residual]).refuseKey h 0x282004 0x07 := by
  rw [Block.switchWrite, if_neg (by omega), if_neg hstate, Block.requestSwitch, if_neg hstate]

end

/-- Settles O15: the plan that a loss leaves, the answer to a request, and what a switch that is due does. -/
theorem domainsAreLeftAndSwitched : Obligations.DomainsAreLeftAndSwitched := by
  unfold Obligations.DomainsAreLeftAndSwitched
  refine ⟨fun d s hrun => ?_, fun h dom s hw => ?_, fun w s hrun hw => ?_⟩
  · intro m
    refine ⟨fun hlost => ?_, fun hstate hheld => ?_, fun hstate hrole hother hno => ?_⟩
    · refine exec_of_same rfl ?_
      simp [Block.when, Block.domLost_lost hlost]
    · have hsame : (s.blk.lossDeclared d).dom m = s.blk.dom m := s.blk.lossDeclared_other (other_iff d)
      refine does_of_when rfl hrun ?_
      rw [Block.domLost_eq hstate (by rwa [hsame])]
      refine ⟨s.blk.lossDeclared_raised d _, hsame, by rw [Block.onTime_time, Block.lossDeclared_clock], s.blk.lossDeclared_dom d,
        fun hrole hsel => ?_, fun hno => ?_⟩
      · have hsel' : s.blk.time.selected.map Fin.val = some d.val := by rw [hsel]; rfl
        rw [Block.onTime_time, Block.lossPlan_leaves hrole hsel', Block.lossDeclared_lossAt _ _ hrole, ← s.blk.lossDeclared_switchTo d]
        refine ⟨fun hlater => ?_, fun w hw horbit htarget hfrom => ?_⟩
        · exact (Block.leavePlan_leaves hlater).trans (by rw [hsame])
        · exact Block.leavePlan_stays hw horbit htarget hfrom
      · refine Block.lossPlan_stays (hno.imp_right fun hsel hmap => hsel ?_)
        obtain ⟨e, he, hval⟩ := Option.map_eq_some_iff.mp hmap
        rw [he, Fin.ext hval]
    · have hsame : (s.blk.lossDeclared d).dom m = s.blk.dom m := s.blk.lossDeclared_other (other_iff d)
      have htime := (s.blk.lossDeclared d).enterHoldover_time
      have hdeclared : (s.blk.lossDeclared d).latched 0x80 = true := Block.latched_raise_self _ (by decide) _
      refine does_of_when rfl hrun ?_
      rw [Block.domLost_holdover hstate hrole (by rwa [hsame]) hno]
      have hdom (e : Nat) : (s.blk.lossDeclared d).enterHoldover.dom e = (s.blk.lossDeclared d).dom e := by
        unfold Block.dom
        rw [htime]
      refine ⟨Block.latched_raise _ _ _ (by decide) hdeclared, Block.latched_raise_self _ (by decide) _, (hdom m).trans hsame, ?_, ?_⟩
      · rw [hdom, Block.lossDeclared_dom]
        rfl
      · rw [htime]
        exact ⟨rfl, rfl, rfl⟩
  · intro f
    refine ⟨fun hlt hstate => ?_, fun hlt hstate => ?_, fun hge => ?_⟩
    · refine does_of_next (exec_domainSwitchRequest hw) ?_
      rw [Block.switchWrite_granted h hlt (by rwa [Block.dom_time (s.blk.taken_time h)]), Block.ack_time]
      have hacks := Block.ack_acks ((s.blk.taken h).switchAtOrbit dom.toNat 2) h 0x282004 (s.blk.taken_landings h)
      refine ⟨?_, hacks.congr rfl rfl⟩
      rw [Block.switchAtOrbit, Block.onTime_time, Block.taken_time]
    · refine does_of_next (exec_domainSwitchRequest hw) ?_
      rw [Block.switchWrite_refused h hlt (by rwa [Block.dom_time (s.blk.taken_time h)])]
      refine ⟨by rw [Block.refuseKey_time, Block.raise_time, Block.taken_time], ?_, ?_⟩
      · have hlatch : Latches 0x82 ((s.blk.taken h).raise 0x82 [.id 1 dom.toNat, .id 1 1, .int 32 ((s.blk.taken h).dom dom.toNat).residual]) :=
          ⟨by decide, Block.latched_raise_self _ (by decide) _⟩
        exact (hlatch.refuseKey _ _ _).set
      · exact (Block.refuseKey_refuses _ h _ _).congr (Block.raise_replies _ _ _).symm (Block.raise_mute _ _ _).symm
    · refine does_of_next (exec_domainSwitchRequest hw) ?_
      rw [Block.switchWrite_outside _ h hge]
      exact ⟨by rw [Block.refuseKey_time, Block.taken_time], Block.refuseKey_refuses _ _ _ _⟩
  · intro due
    refine ⟨fun d hdue htarget hstate => ?_, fun hdue htarget hnone => ?_, fun hwait => ?_⟩
    · refine does_of_next (exec_domainSwitchExecute hrun (Block.switchDue_some hw hdue)) ?_
      rw [htarget, Block.switchNow_domain d hstate]
      exact ⟨s.blk.takeDomain_raised d, s.blk.takeDomain_time d⟩
    · refine does_of_next (exec_domainSwitchExecute hrun (Block.switchDue_some hw hdue)) ?_
      rw [htarget, Block.switchNow_holdover hnone]
      exact ⟨s.blk.enterHoldover_raised, s.blk.enterHoldover_time⟩
    · exact exec_domainSwitchExecute_waits (Block.switchDue_none hw hwait)

end Sys2Proof.Machine
end

section
/-! PROOFS. The timetable's actions (R50, R61 to R63, R86, R87, R116, R139, R253, R257): what an entry that acts does, action by action. -/

namespace Sys2Proof.Machine

/-! ### A record enters a queue with room (R203, R206) -/

/-- A record whose type has bit 7 set and bit 6 clear is a control record. -/
theorem classOf_rec64 {v : Nat} {l : List (Nat × Nat)} (hwidth : (l.map Prod.fst).sum = 56) (hv : v < 256) :
    classOf (rec64 ((8, v) :: l)) = v / 64 := by
  have hlow : pack l < 2 ^ 56 := hwidth ▸ pack_lt l
  have hpack : pack ((8, v) :: l) = v * 2 ^ 56 + pack l := by
    rw [pack, hwidth, Nat.mod_eq_of_lt (show v < 2 ^ 8 from hv)]
  unfold classOf rec64 bits
  rw [BitVec.toNat_ofNat, hpack, Nat.mod_eq_of_lt (by omega), Nat.shiftRight_eq_div_pow]
  omega

theorem control_of_class {r : QRec} (hclass : classOf r.word = 2) (hgroup : r.group = false) : r.control = true := by
  simp [QRec.control, hclass, hgroup]

section

variable {b : Block} {q : Nat}

theorem Queue.waiting_zero {u : Queue} (h : u.waits = false) : u.waiting = 0 := by
  have hnil : u.hold = [] ∧ u.refused = [] := by simpa [Queue.waits, List.isEmpty_iff] using h
  simp [Queue.waiting, hnil.1, hnil.2]

/-- The notice of R205 changes what it says alone. -/
theorem Block.queueNotice_queue (b : Block) (q : Nat) : ∃ v, (b.queueNotice q).queue q = { b.queue q with noticed := v } := by
  have hpeak : (b.peak (queueKey q 4) (b.queue q).level).queue q = b.queue q := by unfold Block.peak; split <;> rfl
  have hraise (x : Block) (n : Nat) (l : List Fld) : (x.raise n l).queue q = x.queue q := by
    unfold Block.queue
    rw [Block.raise_queues]
  unfold Block.queueNotice
  dsimp only
  split
  · refine ⟨true, ?_⟩
    split
    · rw [hraise, Block.queue_onQueue_same, hpeak]
    · rw [Block.queue_onQueue_same, hpeak]
  · split
    · exact ⟨false, by rw [Block.queue_onQueue_same, hpeak]⟩
    · exact ⟨(b.queue q).noticed, by rw [hpeak]⟩

/-- A record enters the open word of a queue that is no UP queue. -/
theorem Block.qPlace_queue (r : QRec) (hup : isUp q = false) (hopen : (b.queue q).open_.length < 4) :
    ∃ n t, (b.qPlace q r).queue q = { b.queue q with open_ := (b.queue q).open_ ++ [r], noticed := n, openAt := t } := by
  have hlen : ¬5 ≤ ((b.queue q).open_ ++ [r]).length := by simp; omega
  have hsum : b.summed q r = r := by simp [Block.summed, hup]
  have hnum (x : Block) : x.numbered q r = x := by simp [Block.numbered, hup]
  unfold Block.qPlace
  simp only [hsum, if_neg hlen, if_pos (Nat.not_le.mp hlen), hnum]
  obtain ⟨v, hv⟩ := Block.queueNotice_queue (b.onQueue q fun u =>
    { u with open_ := (b.queue q).open_ ++ [r], openAt := if u.open_.isEmpty then b.time.now else u.openAt }) q
  rw [hv, Block.queue_onQueue_same]
  exact ⟨v, _, rfl⟩

/-- A control record is placed at once where nothing waits and there is room. -/
theorem Block.qWrite_places {r : QRec} (hcontrol : r.control = true) (hwaits : (b.queue q).waits = false)
    (hroom : (b.queue q).room (queueCapacity q) true = true) : b.qWrite q r = b.qPlace q r := by
  unfold Block.qWrite
  rw [Queue.waiting_zero hwaits]
  simp [Block.qDrain, hcontrol, hwaits, hroom]

/-- A queue that has taken a record into its open word has room for the rest of the word. -/
theorem Queue.room_openRest {u : Queue} {cap : Nat} {l : List QRec} (hroom : u.room cap true = true) (hl : l ≠ []) (n : Bool) (t : Nat) :
    ({ u with open_ := l, noticed := n, openAt := t } : Queue).room cap true = true := by
  cases l with
  | nil => exact absurd rfl hl
  | cons r l =>
    cases hopen : u.open_ with
    | nil => simpa [Queue.room, Queue.level, hopen] using hroom
    | cons s k => simpa [Queue.room, Queue.level, hopen] using hroom

/-- Control records that fit into the open word enter it in turn. -/
theorem Block.qWriteAll_open (hup : isUp q = false) (x : Nat) : ∀ (l : List Word64) {b : Block}, (∀ w ∈ l, classOf w = 2) →
    (b.queue q).waits = false → (b.queue q).room (queueCapacity q) true = true → (b.queue q).open_.length + l.length < 5 →
    ((b.qWriteAll q x l).queue q).open_ = (b.queue q).open_ ++ l.map fun w => { word := w, cross := x }
  | [], b, _, _, _, _ => by simp [Block.qWriteAll, Sys2Proof.Machine.forEach]
  | w :: l, b, hclass, hwaits, hroom, hlen => by
    have hcontrol : ({ word := w, cross := x } : QRec).control = true := control_of_class (hclass w (by simp)) rfl
    have hstep : b.qWriteAll q x (w :: l) = (b.qPlace q { word := w, cross := x }).qWriteAll q x l := by
      rw [← Block.qWrite_places hcontrol hwaits hroom]
      rfl
    simp only [List.length_cons] at hlen
    obtain ⟨n, t, hqueue⟩ := Block.qPlace_queue (b := b) { word := w, cross := x } hup (by omega)
    have hrest := Block.qWriteAll_open hup x l (b := b.qPlace q { word := w, cross := x }) (fun v hv => hclass v (by simp [hv]))
      (by rw [hqueue]; exact hwaits) (by rw [hqueue]; exact Queue.room_openRest hroom (by simp) n t)
      (by rw [hqueue]; simp only [List.length_append, List.length_singleton]; omega)
    rw [hstep, hrest, hqueue]
    simp

end

/-! ### Injection (R86, R87) -/

/-- A channel with its charges changed. -/
def Chan.onPulses (k : Chan) (g : List (Nat × Int × Bool) → List (Nat × Int × Bool)) : Chan := { k with pulses := g k.pulses }

/-- Between two blocks the charges of every channel are changed as g says, and beside them the counters and the interval unit alone. -/
structure PulsesBy (g : Nat → List (Nat × Int × Bool) → List (Nat × Int × Bool)) (a b : Block) : Prop where
  keeps : Keeps [.chans, .iu, .regs] a b
  chan  : ∀ c, b.chan c = (a.chan c).onPulses (g c)

theorem Keeps.rs_eq {l : List Part} {a b : Block} (h : Keeps l a b) (hrole : l.contains .role = false) (hsets : l.contains .sets = false)
    (hfuses : l.contains .fuses = false) (k : Nat) : b.rs k = a.rs k := by
  obtain ⟨hrole, hunit⟩ := h.straps_eq hrole
  have hactive : b.active = a.active := by unfold Block.active; rw [h.sets_eq hsets]
  unfold Block.rs Block.rsIn
  rw [hactive]
  split
  · rfl
  · simp only [Block.defaultOf, Block.profileM, Block.cRole, h.fuses_eq hfuses, hrole, hunit]
    rfl

theorem Keeps.reg_eq {l : List Part} {a b : Block} (h : Keeps l a b) (hregs : l.contains .regs = false) (hrole : l.contains .role = false)
    (hsets : l.contains .sets = false) (hfuses : l.contains .fuses = false) (k : Nat) : b.reg k = a.reg k := by
  obtain ⟨hrole, hunit⟩ := h.straps_eq hrole
  exact Block.reg_congr k (by rw [h.regs_eq hregs]) (h.fuses_eq hfuses) hrole hunit (by unfold Block.active; rw [h.sets_eq hsets])

section

variable {a b : Block} {g : Nat → List (Nat × Int × Bool) → List (Nat × Int × Bool)}

theorem PulsesBy.rs (h : PulsesBy g a b) (k : Nat) : b.rs k = a.rs k := h.keeps.rs_eq rfl rfl rfl k

theorem PulsesBy.poweredDown (h : PulsesBy g a b) (c : Nat) : b.poweredDown c = a.poweredDown c := by
  unfold Block.poweredDown Block.chRetired
  rw [h.rs, h.chan, h.keeps.now_eq rfl]
  rfl

theorem PulsesBy.injects (h : PulsesBy g a b) (c mask : Nat) : b.injects c mask = a.injects c mask := by
  have hsettling : b.settling c = a.settling c := by
    unfold Block.settling
    rw [h.chan, h.keeps.now_eq rfl]
    rfl
  unfold Block.injects Block.plateForbids
  rw [h.rs, h.poweredDown, hsettling, h.keeps.plate_eq rfl]

theorem PulsesBy.sign (h : PulsesBy g a b) : b.signalSign b.active = a.signalSign a.active := by
  show (if b.rs 0x300004 = 1 then (1 : Int) else -1) = if a.rs 0x300004 = 1 then 1 else -1
  rw [h.rs]

/-- The charges of one channel change. -/
theorem PulsesBy.onChan (h : PulsesBy g a b) (c : Nat) (f : List (Nat × Int × Bool) → List (Nat × Int × Bool)) :
    PulsesBy (fun d => if d = c then f ∘ g d else g d) a (b.onChan c fun k => k.onPulses f) where
  keeps := Block.onChan_keeps h.keeps rfl
  chan := fun d => by
    by_cases hd : d = c
    · subst hd
      simp [h.chan, Chan.onPulses]
    · rw [Block.chan_onChan_ne _ _ hd, h.chan, if_neg hd]

/-- Channels in turn, none of them twice. -/
theorem PulsesBy.forEach {f : Nat → Block → Block} {p : Nat → List (Nat × Int × Bool) → List (Nat × Int × Bool)} :
    ∀ (l : List Nat) {g : Nat → List (Nat × Int × Bool) → List (Nat × Int × Bool)} {b : Block}, l.Nodup → PulsesBy g a b →
      (∀ c ∈ l, ∀ g x, PulsesBy g a x → PulsesBy (fun d => if d = c then p d ∘ g d else g d) a (f c x)) →
      PulsesBy (fun d => if d ∈ l then p d ∘ g d else g d) a (forEach l b f)
  | [], g, b, _, hb, _ => by simpa [Sys2Proof.Machine.forEach] using hb
  | c :: l, g, b, hnodup, hb, hf => by
    obtain ⟨hc, hl⟩ := List.nodup_cons.mp hnodup
    have hrest := PulsesBy.forEach l hl (hf c (by simp) g b hb) fun d hd => hf d (by simp [hd])
    have hby : (fun d => if d ∈ c :: l then p d ∘ g d else g d) =
        fun d => if d ∈ l then p d ∘ (if d = c then p d ∘ g d else g d) else if d = c then p d ∘ g d else g d := by
      funext d
      by_cases hd : d = c
      · subst hd
        simp [hc]
      · simp [hd]
    rw [hby]
    exact hrest

/-- What one injection adds to a channel's charges. -/
def Block.charged (b : Block) (c t : Nat) (l : List (Nat × Int × Bool)) : List (Nat × Int × Bool) :=
  let q := b.signalSign b.active * (injCharge (b.rs (chConfigKey c)) : Int)
  l ++ if q = 0 then [] else [(t, q, false)]

theorem Block.signalSign_ne (b : Block) (s : CfgSet) : b.signalSign s ≠ 0 := by
  unfold Block.signalSign
  split <;> decide

theorem PulsesBy.inject (h : PulsesBy g a b) {c : Nat} (t : Nat) (hpower : a.poweredDown c = false) :
    PulsesBy (fun d => if d = c then a.charged d t ∘ g d else g d) a (b.inject c t false) := by
  unfold Block.inject
  rw [h.rs, h.sign]
  by_cases hq : injCharge (a.rs (chConfigKey c)) = 0
  · have hsame : (fun d => if d = c then a.charged d t ∘ g d else g d) = g := by
      funext d
      split
      · next hd => subst hd; funext l; simp [Block.charged, hq]
      · rfl
    rw [if_pos hq, hsame]
    exact h
  · have hne : a.signalSign a.active * (injCharge (a.rs (chConfigKey c)) : Int) ≠ 0 :=
      mul_ne_zero (a.signalSign_ne _) (Int.natCast_ne_zero.mpr hq)
    have hby : (fun d => if d = c then a.charged d t ∘ g d else g d) =
        fun d => if d = c then (· ++ [(t, a.signalSign a.active * (injCharge (a.rs (chConfigKey c)) : Int), false)]) ∘ g d else g d := by
      funext d
      split
      · next hd => subst hd; funext l; simp [Block.charged, hne]
      · rfl
    rw [if_neg hq, Block.deposit, if_neg (by simp [h.poweredDown, hpower]), hby]
    exact h.onChan c _

end

/-! ### CAL_FIRE (R62, R63, R87) -/

theorem testBit_orBits (l : List Nat) (i : Nat) : (orBits l).testBit i = decide (i ∈ l) := by
  have hfold : ∀ (l : List Nat) (n : Nat), (l.foldl (fun a i => a ||| 2 ^ i) n).testBit i = (n.testBit i || decide (i ∈ l)) := by
    intro l
    induction l with
    | nil => intro n; simp
    | cons j l ih =>
      intro n
      rw [List.foldl_cons, ih, testBit_or_pow, Bool.or_assoc]
      simp only [List.mem_cons, Bool.decide_or, eq_comm]
  simpa [orBits] using hfold l 0

/-- A command fires a channel's region in the present crossing. -/
def Block.firedBy (b : Block) (c : Nat) : Bool := b.time.calDone.any fun f => f.1 == b.time.now && f.2.1.testBit (c / 16)

/-- The channels that a timetable fire and a command's fire both name. -/
def Block.firedTwice (b : Block) (mask : Nat) : List Nat := (List.range 256).filter fun c => b.injects c mask && b.firedBy c

/-- What a timetable's injection leaves of a channel's charges of the same crossing. -/
def Block.givenWay (b : Block) (l : List (Nat × Int × Bool)) : List (Nat × Int × Bool) :=
  l.filter fun q => !(q.2.2 && q.1 / 2048 == b.time.now)

/-- The bank as the timetable's own fire begins. -/
def Block.superseded (b : Block) (mask : Nat) : Block :=
  forEach (b.firedTwice mask) (b.bump 0x290001 (b.firedTwice mask).length) fun c b => b.supersede c

section

variable {b : Block} {mask : Nat}

theorem Block.firedTwice_eq (b : Block) (mask : Nat) :
    ((List.range 256).filter fun c => b.injects c mask &&
      (orBits ((b.time.calDone.filter fun f => f.1 == b.time.now).flatMap fun f => bitsSet 16 f.2.1)).testBit (c / 16)) =
      b.firedTwice mask := by
  refine List.filter_congr fun c hc => ?_
  have hlt : c / 16 < 16 := by have := List.mem_range.mp hc; omega
  rw [testBit_orBits]
  congr 1
  rw [Block.firedBy, Bool.eq_iff_iff, decide_eq_true_iff, List.any_eq_true, List.mem_flatMap]
  simp [bitsSet, hlt, and_assoc]

theorem Block.timetableFire_eq (b : Block) (mask : Nat) (p : Point) : b.timetableFire mask p = (b.superseded mask).fire mask p false := by
  unfold Block.timetableFire
  dsimp only
  rw [Block.firedTwice_eq]
  rfl

theorem Block.superseded_by (b : Block) (mask : Nat) :
    PulsesBy (fun c => if c ∈ b.firedTwice mask then b.givenWay else id) b (b.superseded mask) := by
  have hbump : PulsesBy (fun _ => id) b (b.bump 0x290001 (b.firedTwice mask).length) := by
    refine ⟨Block.bump_keeps (.refl _ _) rfl, fun c => ?_⟩
    unfold Block.chan
    rw [Block.bump_chans]
    rfl
  refine PulsesBy.forEach (p := fun _ => b.givenWay) _ (List.nodup_range.filter _) hbump fun c _ g x hx => ?_
  have hstep := hx.onChan c b.givenWay
  have hsame : x.supersede c = x.onChan c fun k => k.onPulses b.givenWay := by
    unfold Block.supersede Block.givenWay
    rw [hx.keeps.now_eq rfl]
    rfl
  rw [hsame]
  exact hstep

theorem Block.superseded_keeps (b : Block) (mask : Nat) :
    Keeps [.chans] (b.bump 0x290001 (b.firedTwice mask).length) (b.superseded mask) :=
  .forEach (.refl _ _) fun _ _ hx => Block.supersede_keeps hx rfl

theorem PulsesBy.iuEdge {a : Block} {g : Nat → List (Nat × Int × Bool) → List (Nat × Int × Bool)} (h : PulsesBy g a b) (selector t : Nat) :
    PulsesBy g a (b.iuEdge selector t) := ⟨Block.iuEdge_keeps h.keeps rfl, h.chan⟩

/-- Every channel that takes part loses what a command has fired and gets the timetable's charge. -/
theorem Block.timetableFire_by (b : Block) (mask : Nat) (p : Point) :
    PulsesBy (fun c => if c ∈ (List.range 256).filter fun c => b.injects c mask then
        b.charged c (b.absAt p) ∘ (if c ∈ b.firedTwice mask then b.givenWay else id)
      else if c ∈ b.firedTwice mask then b.givenWay else id) b (b.timetableFire mask p) := by
  have hsuper := b.superseded_by mask
  have habs : (b.superseded mask).absAt p = b.absAt p := by unfold Block.absAt; rw [hsuper.keeps.now_eq rfl]
  rw [Block.timetableFire_eq, Block.fire, habs]
  simp only [hsuper.injects]
  refine PulsesBy.forEach _ (List.nodup_range.filter _) (hsuper.iuEdge 4 _) fun c hc g x hx => hx.inject _ ?_
  have hinjects : b.injects c mask = true := (List.mem_filter.mp hc).2
  simp only [Block.injects, Bool.and_eq_true, Bool.not_eq_true'] at hinjects
  exact hinjects.1.1.2

theorem Block.iuEdge_congr {x y : Block} (hiu : y.iu = x.iu) (hlen : ∀ p, y.windowLen p = x.windowLen p) (selector t : Nat) :
    (y.iuEdge selector t).iu = (x.iuEdge selector t).iu := by
  have hspan (n : Nat) : y.spanStart n = x.spanStart n := by
    unfold Block.spanStart
    rw [hiu]
    simp only [hlen]
  simp only [Block.iuEdge, Block.onIu, hspan, hiu]

theorem Block.timetableFire_iu (b : Block) (mask : Nat) (p : Point) : (b.timetableFire mask p).iu = (b.iuEdge 4 (b.absAt p)).iu := by
  have hkeeps := b.superseded_keeps mask
  have habs : (b.superseded mask).absAt p = b.absAt p := by unfold Block.absAt; rw [(b.superseded_by mask).keeps.now_eq rfl]
  have hfire : Keeps [.chans] ((b.superseded mask).iuEdge 4 (b.absAt p)) (b.timetableFire mask p) := by
    rw [Block.timetableFire_eq, Block.fire, habs]
    exact .forEach (.refl _ _) fun _ _ hx => Block.inject_keeps hx rfl
  rw [hfire.iu_eq rfl]
  refine Block.iuEdge_congr ((hkeeps.iu_eq rfl).trans (Block.bump_iu ..)) (fun k => ?_) _ _
  unfold Block.windowLen
  rw [hkeeps.reg_eq rfl rfl rfl rfl, Block.reg_bump_ne _ _ (by omega)]

theorem Block.timetableFire_counts (b : Block) (mask : Nat) (p : Point) :
    (b.timetableFire mask p).reg 0x290001 = b.reg 0x290001 + (b.firedTwice mask).length := by
  have hkeeps : Keeps [.chans, .iu] (b.bump 0x290001 (b.firedTwice mask).length) (b.timetableFire mask p) := by
    rw [Block.timetableFire_eq]
    exact Block.fire_keeps ((b.superseded_keeps mask).widen rfl) rfl
  rw [hkeeps.reg_eq rfl rfl rfl rfl, Block.reg_bump_same]

theorem Block.timetableFire_chan_out (p : Point) {c : Nat} (h : b.injects c mask = false) : (b.timetableFire mask p).chan c = b.chan c := by
  rw [(b.timetableFire_by mask p).chan]
  simp [Block.firedTwice, h, Chan.onPulses]

theorem Block.timetableFire_chan_in (p : Point) {c : Nat} (hc : c < 256) (h : b.injects c mask = true) :
    (b.timetableFire mask p).chan c = { b.chan c with
      pulses := b.charged c (b.absAt p) (if b.firedBy c then b.givenWay (b.chan c).pulses else (b.chan c).pulses) } := by
  rw [(b.timetableFire_by mask p).chan]
  simp only [List.mem_filter, List.mem_range, hc, h, and_self, if_true, Chan.onPulses, Function.comp, Block.firedTwice, Bool.true_and,
    true_and]
  split <;> rfl

/-- The instant that an argument of CAL_FIRE names in the present crossing. -/
theorem Block.absAt_ofNat (b : Block) {x y : Nat} (hx : x < 2 ^ 5) (hy : y < 2 ^ 6) :
    b.absAt ⟨BitVec.ofNat 5 x, BitVec.ofNat 6 y⟩ = 2048 * b.time.now + 64 * x + y := by
  simp only [Block.absAt, BitVec.toNat_ofNat, Nat.mod_eq_of_lt hx, Nat.mod_eq_of_lt hy]

theorem bits_lt (w hi lo : Nat) : bits w hi lo < 2 ^ (hi + 1 - lo) := Nat.mod_lt _ (Nat.two_pow_pos _)

/-! ### MEASURE (R116) -/

/-- An arm that nothing stands against opens the window. -/
theorem Block.arm_opens {p src : Nat} (henabled : (b.reg (progKey p 1)).testBit 31 = true) (hended : p ∉ b.iu.ended)
    (hwindow : b.iu.window = none) (hcampaign : b.iu.campaign = none ∨ b.iu.campaign = some p) (harms : b.iu.armsAt ≠ b.time.now) :
    b.arm p src = (b.onIu fun i => { i with armsAt := b.time.now, armed := [] }).openWindow p src := by
  have hdone : b.shotDone = b := by unfold Block.shotDone; rw [hwindow]
  unfold Block.arm
  rw [hdone]
  rcases hcampaign with h | h <;> simp [henabled, hended, harms, Block.onIu, hwindow, h]

theorem Block.openWindow_iu (p src : Nat) (hcampaign : b.iu.campaign = none ∨ b.iu.campaign = some p) :
    let i := (b.openWindow p src).iu
    i.window = some (p, b.time.now) ∧ i.campaign = some p ∧ i.armed = b.iu.armed ++ [src] := by
  rcases hcampaign with h | h <;> simp [Block.openWindow, Block.onIu, h]

/-! ### The actions -/

/-- The clock of an entry that has acted. -/
theorem Block.ttUsed_time (b : Block) (e : Nat) :
    (b.ttUsed e).time = { b.time with
      acted := b.time.acted ++ [e],
      fired := if bits (b.ttWord0 b.active e) 62 61 ≠ 0 then b.time.fired ++ [e] else b.time.fired } := by
  simp only [Block.ttUsed, Block.onTime, bne_iff_ne]

theorem Block.unlessReset_free {blk : Nat} {f : Block → Block} (h : tabFind b.boot.resetting blk = none) : b.unlessReset blk f = f b := by
  simp [Block.unlessReset, h]

theorem Block.qWriteAll_time (b : Block) (q x : Nat) (l : List Word64) : (b.qWriteAll q x l).time = b.time :=
  (Block.qWriteAll_keeps (.refl [.queues, .mrg, .regs, .ev] b) rfl).time_eq rfl rfl

theorem classOf_timeMark (orbit slot tag : Nat) : classOf (timeMarkRecord orbit slot tag) = 2 := classOf_rec64 rfl (by decide)

theorem classOf_todMark (kind orbit slot : Nat) (t : Tod) : ∀ w ∈ todMark kind orbit slot t, classOf w = 2 := by
  simp only [todMark, List.forall_mem_cons]
  refine ⟨?_, ?_, ?_, ?_, List.forall_mem_nil _⟩
  all_goals exact classOf_rec64 rfl (by decide)

/-- One control record enters the open word of OUT. -/
theorem Block.qWrite_out {w : Word64} (hclass : classOf w = 2) (hwaits : (b.queue 0).waits = false)
    (hroom : (b.queue 0).room 1024 true = true) (hopen : (b.queue 0).open_.length < 4) (x : Nat) :
    ((b.qWrite 0 { word := w, cross := x }).queue 0).open_ = (b.queue 0).open_ ++ [{ word := w, cross := x }] := by
  have hcontrol : ({ word := w, cross := x } : QRec).control = true := control_of_class hclass rfl
  obtain ⟨n, t, hqueue⟩ := Block.qPlace_queue (b := b) (q := 0) { word := w, cross := x } rfl hopen
  rw [Block.qWrite_places hcontrol hwaits hroom, hqueue]

/-- An F-role's time mark takes its place in the open word of OUT. -/
theorem Block.timeMark_out (tag : Nat) (hrole : b.cRole = false) (hwaits : (b.queue 0).waits = false)
    (hroom : (b.queue 0).room 1024 true = true) (hopen : (b.queue 0).open_.length < 4) :
    (b.timeMark tag).time = b.time ∧ ((b.timeMark tag).queue 0).open_ =
      (b.queue 0).open_ ++ [{ word := timeMarkRecord b.time.orbit b.time.slot tag, cross := b.time.now }] := by
  rw [Block.timeMark, hrole, if_neg (by decide)]
  exact ⟨(Block.qWrite_keeps (.refl [.queues, .mrg, .regs, .ev] b) rfl).time_eq rfl rfl,
    Block.qWrite_out (classOf_timeMark ..) hwaits hroom hopen _⟩

/-- An F-role's time-of-day mark fills the open word of OUT, which stands empty. -/
theorem Block.todMarkNow_out (hrole : b.cRole = false) (hwaits : (b.queue 0).waits = false)
    (hroom : (b.queue 0).room 1024 true = true) (hopen : (b.queue 0).open_ = []) :
    b.todMarkNow.time = b.time ∧ (b.todMarkNow.queue 0).open_ =
      (Sys2Proof.Machine.todMark 1 b.time.orbit b.time.slot b.time.tod).map fun w => { word := w, cross := b.time.now } := by
  have hall : b.todMarkNow = b.qWriteAll 0 b.time.now (Sys2Proof.Machine.todMark 1 b.time.orbit b.time.slot b.time.tod) := by
    rw [Block.todMarkNow, hrole, if_neg (by decide), Block.fourParts, hopen, if_neg (by decide)]
  have hplaced := Block.qWriteAll_open (q := 0) rfl b.time.now _ (classOf_todMark 1 b.time.orbit b.time.slot b.time.tod) hwaits hroom
    (by rw [hopen]; exact Nat.lt_succ_self 4)
  rw [hall, hplaced, hopen]
  exact ⟨Block.qWriteAll_time .., rfl⟩

end

section

variable {i : Instr} {s : State} {e action : Nat} {f : Block → Block}

/-- An entry that acts. -/
theorem does_of_ttActs {P : Block → Prop} (hi : exec i s = .next { s with blk := s.blk.ttDo e action f }) (hrun : s.blk.running = true)
    (hacts : s.blk.ttActs e action = true) (hP : P (f (s.blk.ttUsed e))) : Does i s P :=
  does_of_when hi (by rw [hrun, hacts]; rfl) hP

/-- An entry that acts on a part of the device that no reset holds. -/
theorem does_of_ttActs_free {blk : Nat} {P : Block → Prop}
    (hi : exec i s = .next { s with blk := s.blk.ttDo e action fun b => b.unlessReset blk f }) (hrun : s.blk.running = true)
    (hacts : s.blk.ttActs e action = true) (hfree : tabFind s.blk.boot.resetting blk = none) (hP : P (f (s.blk.ttUsed e))) : Does i s P := by
  refine does_of_ttActs hi hrun hacts ?_
  rwa [Block.unlessReset_free (b := s.blk.ttUsed e) hfree]

theorem exec_of_not_ttActs (hi : exec i s = .next { s with blk := s.blk.ttDo e action f }) (h : s.blk.ttActs e action = false) :
    exec i s = .next s := exec_of_not_when hi (by rw [h, Bool.and_false])

end

/-- Settles O38: every action is taken on the block whose entry has been used. -/
theorem timetableActs : Obligations.TimetableActs := by
  unfold Obligations.TimetableActs
  intro entry s hrun e oneShot used arg
  have htime : (s.blk.ttUsed e).time = used := s.blk.ttUsed_time e
  refine ⟨fun hacts => ?_, fun hacts hfree => ?_, fun hacts hfree => ?_, fun hacts hfree henabled hended hwindow hcampaign harms => ?_,
    fun hacts hrole => ?_, fun hacts hrole => ?_, fun hacts hrole => ?_, fun hacts hrole => ?_, fun hacts hstate => ?_,
    fun hacts hstate => ?_, fun i hi hacts => ?_⟩
  · exact does_of_ttActs rfl hrun hacts htime
  · refine does_of_ttActs_free rfl hrun hacts hfree ?_
    intro t part same charge
    have habs : (s.blk.ttUsed e).absAt ⟨BitVec.ofNat 5 (bits arg 15 11), BitVec.ofNat 6 (bits arg 10 5)⟩ = t :=
      Block.absAt_ofNat _ (bits_lt _ _ _) (bits_lt _ _ _)
    have hby := (s.blk.ttUsed e).timetableFire_by (bits arg 31 16) ⟨BitVec.ofNat 5 (bits arg 15 11), BitVec.ofNat 6 (bits arg 10 5)⟩
    refine ⟨(hby.keeps.time_eq rfl rfl).trans htime, ?_, Block.timetableFire_counts _ _ _, fun c => ⟨fun hout => ?_, fun hin => ?_⟩⟩
    · rw [Block.timetableFire_iu, habs]
      exact Block.iuEdge_congr rfl (fun _ => rfl) _ _
    · exact Block.timetableFire_chan_out _ hout
    · refine (Block.timetableFire_chan_in (b := s.blk.ttUsed e) _ c.isLt hin).trans ?_
      rw [habs]
      rfl
  · refine does_of_ttActs_free rfl hrun hacts hfree ?_
    exact ⟨htime, rfl⟩
  · refine does_of_ttActs_free rfl hrun hacts hfree ?_
    have harm : (s.blk.ttUsed e).arm (bits ((s.blk.ttUsed e).ttArg e) 3 0) 0 = _ :=
      Block.arm_opens (b := s.blk.ttUsed e) henabled hended hwindow hcampaign harms
    rw [harm]
    exact ⟨htime, Block.openWindow_iu _ _ hcampaign⟩
  · refine does_of_ttActs rfl hrun hacts ?_
    have hrole' : (s.blk.ttUsed e).cRole = true := hrole
    rw [Block.timeMark, if_pos hrole']
    exact ⟨by rw [Block.bump_time]; exact htime, by rw [Block.bump_mrg]; rfl, Block.reg_bump_same _ _ _⟩
  · intro u hwaits hroom hopen
    refine does_of_ttActs rfl hrun hacts ?_
    obtain ⟨hkept, hplaced⟩ := Block.timeMark_out (b := s.blk.ttUsed e) (bits arg 15 0) hrole hwaits hroom hopen
    exact ⟨hkept.trans htime, hplaced⟩
  · refine does_of_ttActs rfl hrun hacts ?_
    have hrole' : (s.blk.ttUsed e).cRole = true := hrole
    rw [Block.todMarkNow, if_pos hrole']
    exact ⟨htime, rfl⟩
  · intro u hwaits hroom hopen
    refine does_of_ttActs rfl hrun hacts ?_
    obtain ⟨hkept, hplaced⟩ := Block.todMarkNow_out (b := s.blk.ttUsed e) hrole hwaits hroom hopen
    exact ⟨hkept.trans htime, hplaced⟩
  · refine does_of_ttActs rfl hrun hacts ?_
    have hstate' : ((s.blk.ttUsed e).dom (bits ((s.blk.ttUsed e).ttArg e) 0 0)).state = .qualified := hstate
    rw [Block.requestSwitch, if_pos hstate', Block.switchAtOrbit, Block.onTime_time, htime]
    rfl
  · refine does_of_ttActs rfl hrun hacts ?_
    have hstate' : ((s.blk.ttUsed e).dom (bits ((s.blk.ttUsed e).ttArg e) 0 0)).state ≠ .qualified := hstate
    rw [Block.requestSwitch, if_neg hstate', Block.raise_time]
    exact ⟨htime, Block.latched_raise_self _ (by decide) _⟩
  · simp only [List.mem_cons, List.not_mem_nil, or_false] at hi
    rcases hi with rfl | rfl | rfl | rfl | rfl | rfl | rfl
    all_goals exact exec_of_not_ttActs rfl (hacts _)

end Sys2Proof.Machine
end

section
/-! PROOFS. The timing lanes (R46 to R49, R57, R122): what a frame of a timing lane does to its tracker, and the end of a round-trip
campaign. -/

namespace Sys2Proof.Machine

/-! ### What a transient of a site leaves (R378 to R383) -/

/-- Entry k, below those of the interval of 6000.00, reads v. -/
structure Reads (k v : Nat) (b : Block) : Prop where
  low : k < 0x600000
  reg : b.reg k = v

section

variable {k v : Nat} {b x y : Block}

theorem Reads.same (hx : Reads k v x) (h : y.reg k = x.reg k) : Reads k v y := ⟨hx.low, h.trans hx.reg⟩

theorem Reads.keeps {l : List Part} (hx : Reads k v x) (h : Keeps l x y) (hregs : l.contains .regs = false) (hrole : l.contains .role = false)
    (hsets : l.contains .sets = false) (hfuses : l.contains .fuses = false) : Reads k v y := hx.same (h.reg_eq hregs hrole hsets hfuses k)

theorem Reads.ite {c : Prop} [Decidable c] (hx : Reads k v x) (hy : Reads k v y) : Reads k v (if c then x else y) := by
  split <;> assumption

theorem Reads.setReg (hb : Reads k v b) {key : Nat} (n : Nat) (hk : k ≠ key) : Reads k v (b.setReg key n) :=
  hb.same (Block.reg_setReg_ne b n hk)

theorem Reads.bump (hb : Reads k v b) {key : Nat} (n : Nat) (hk : k ≠ key) : Reads k v (b.bump key n) :=
  hb.same (Block.reg_bump_ne b n hk)

theorem Reads.raise (hb : Reads k v b) (n : Nat) (l : List Fld) : Reads k v (b.raise n l) :=
  hb.same (Block.reg_raise_low b n l (by have := hb.low; omega))

theorem Reads.raiseOnce (hb : Reads k v b) (n i : Nat) (l : List Fld) : Reads k v (b.raiseOnce n i l) :=
  hb.same (Block.reg_raiseOnce_low b n i l (by have := hb.low; omega))

theorem Reads.retireEffect (hb : Reads k v b) (id : Nat) : Reads k v (b.retireEffect id) := by
  unfold Block.retireEffect
  dsimp only
  split
  · exact hb.same rfl
  · exact hb.keeps (Block.retireLane_keeps (.refl [.frm, .flt] b) rfl) rfl rfl rfl rfl
  · exact hb.same rfl
  · exact hb.same rfl
  · exact (hb.setReg 1 (by have := hb.low; omega)).raise _ _
  · exact hb

theorem Reads.listSite (hb : Reads k v b) (id cause : Nat) (adopted byCommand : Bool) : Reads k v (b.listSite id cause adopted byCommand) :=
  .ite (hb.raise _ _) (hb.same rfl)

theorem Reads.tellPartner (hb : Reads k v b) (id n : Nat) : Reads k v (b.tellPartner id n) :=
  hb.keeps (Block.tellPartner_keeps (.refl [.mrg, .twin] b) rfl) rfl rfl rfl rfl

theorem Reads.retiredMessage (hb : Reads k v b) (id : Nat) : Reads k v (b.retiredMessage id) := by
  unfold Block.retiredMessage
  split
  · exact (hb.raise _ _).tellPartner _ _
  · exact (hb.raise _ _).same rfl

theorem Reads.retireOne (hb : Reads k v b) (id cause : Nat) (adopted byCommand : Bool) : Reads k v (b.retireOne id cause adopted byCommand) := by
  refine (Reads.listSite (Reads.retireEffect ?_ id) _ _ _ _).retiredMessage _
  exact hb.same rfl

theorem Reads.retire (hb : Reads k v b) (id cause : Nat) (adopted byCommand : Bool) : Reads k v (b.retire id cause adopted byCommand) := by
  have hone := hb.retireOne id cause adopted byCommand
  unfold Block.retire
  dsimp only
  split
  · exact .ite hone (hone.retireOne _ _ _ _)
  · exact hone

theorem Reads.permanent (hb : Reads k v b) (id cause : Nat) : Reads k v (b.permanent id cause) := by
  have hsite : Reads k v (b.onSite id fun t => { t with state := 1 }) := hb.same rfl
  have htold := (hsite.bump (key := 0x6C0102) 1 (by have := hb.low; omega)).raise 0xC1 [.id 16 id, .id 8 cause]
  unfold Block.permanent
  refine .ite hb (.ite ?_ (htold.retire _ _ _ _))
  exact htold.same rfl

theorem Reads.transient (hb : Reads k v b) (id : Nat) : Reads k v (b.transient id) := by
  unfold Block.transient
  extract_lets times keep site told
  have hlow := hb.low
  have hsite : Reads k v site := by
    refine Reads.bump ?_ 1 (by omega)
    exact hb.same rfl
  exact .ite ((hsite.raiseOnce _ _ _).permanent _ _) (hsite.raiseOnce _ _ _)

end

/-- The receive half of lane l is not Active. -/
structure Idle (l : Nat) (b : Block) : Prop where
  rx : (b.lane l).rx ≠ .active

section

variable {l : Nat} {b x y : Block}

theorem Idle.keeps {ps : List Part} (hx : Idle l x) (h : Keeps ps x y) (hfrm : ps.contains .frm = false) : Idle l y :=
  ⟨by unfold Block.lane; rw [h.frm_eq hfrm]; exact hx.rx⟩

theorem Idle.ite {c : Prop} [Decidable c] (hx : Idle l x) (hy : Idle l y) : Idle l (if c then x else y) := by
  split <;> assumption

theorem Idle.onLane (hb : Idle l b) (m : Nat) {f : LaneSt → LaneSt} (hf : ∀ q, q.rx ≠ .active → (f q).rx ≠ .active) :
    Idle l (b.onLane m f) := by
  constructor
  by_cases hm : l = m
  · subst hm
    rw [Block.lane_onLane_same]
    exact hf _ hb.rx
  · rw [Block.lane_onLane_ne _ _ hm]
    exact hb.rx

theorem Idle.retireLane (hb : Idle l b) (m : Nat) : Idle l (b.retireLane m) := by
  unfold Block.retireLane
  have hdue (n : List Nat) : Idle l (b.onFlt fun t => { t with dueLanes := t.dueLanes ++ n }) := ⟨hb.rx⟩
  refine .ite ?_ (.ite (hdue _) (.ite (hdue _) ?_))
  · split
    · next p r =>
      have hretired : Idle l (b.laneRetired m) := hb.onLane m fun _ _ => nofun
      exact hretired.keeps (Block.planDue_keeps (.refl [.flt] _) rfl) rfl
    · exact hdue _
  · have htx : Idle l (b.onLane m fun q => { q with tx := .retired }) := hb.onLane m fun _ h => h
    exact htx.keeps (Block.planDue_keeps (.refl [.flt] _) rfl) rfl

theorem Idle.retireEffect (hb : Idle l b) (id : Nat) : Idle l (b.retireEffect id) := by
  unfold Block.retireEffect
  dsimp only
  split
  · exact ⟨hb.rx⟩
  · exact hb.retireLane _
  · exact ⟨hb.rx⟩
  · exact ⟨hb.rx⟩
  · exact hb.keeps (Block.raise_keeps (Block.setReg_keeps (.refl [.regs, .ev] b) rfl) rfl) rfl
  · exact hb

theorem Idle.retireOne (hb : Idle l b) (id cause : Nat) (adopted byCommand : Bool) : Idle l (b.retireOne id cause adopted byCommand) := by
  have hsite : Idle l (b.onSite id fun k => { k with state := 2 }) := ⟨hb.rx⟩
  refine (hsite.retireEffect id).keeps (ps := [.flt, .mrg, .twin, .regs, .ev, .free]) ?_ rfl
  exact Block.retiredMessage_keeps (Block.listSite_keeps (.refl _ _) rfl) rfl

theorem Idle.retire (hb : Idle l b) (id cause : Nat) (adopted byCommand : Bool) : Idle l (b.retire id cause adopted byCommand) := by
  have hone := hb.retireOne id cause adopted byCommand
  unfold Block.retire
  dsimp only
  split
  · exact .ite hone (hone.retireOne _ _ _ _)
  · exact hone

theorem Idle.permanent (hb : Idle l b) (id cause : Nat) : Idle l (b.permanent id cause) := by
  have htold : Idle l (((b.onSite id fun k => { k with state := 1 }).bump 0x6C0102 1).raise 0xC1 [.id 16 id, .id 8 cause]) :=
    hb.keeps (Block.raise_keeps (Block.bump_keeps (Block.onSite_keeps (.refl [.flt, .regs, .ev] b) rfl) rfl) rfl) rfl
  exact .ite hb (.ite ⟨htold.rx⟩ (htold.retire _ _ _ _))

theorem Idle.transient (hb : Idle l b) (id : Nat) : Idle l (b.transient id) := by
  unfold Block.transient
  extract_lets times keep site told
  have htold : Idle l told :=
    hb.keeps (Block.raiseOnce_keeps (Block.bump_keeps (Block.onSite_keeps (.refl [.flt, .regs, .ev] b) rfl) rfl) rfl) rfl
  exact .ite (htold.permanent _ _) htold

/-- A receive half that is told to train does not stay Active (R287). -/
theorem Block.trainRx_idle (b : Block) (l : Nat) : Idle l (b.trainRx l) := by
  unfold Block.trainRx
  dsimp only
  split
  · next h => exact ⟨by rcases h with h | h <;> rw [h] <;> decide⟩
  · have htraining : Idle l ((b.lastLost l).onLane l fun k => { startStep k with rx := .training, attempts := 1, placed := none }) :=
      ⟨by rw [Block.lane_onLane_same]; exact show Half.training ≠ .active by decide⟩
    exact htraining.keeps (Block.leftFor_keeps (.refl [.regs, .ev] _) rfl) rfl

theorem Idle.trainTx (hb : Idle l b) (m : Nat) : Idle l (b.trainTx m) := by
  have htx : Idle l (b.onLane m fun k => { k with tx := .training }) := hb.onLane m fun _ h => h
  unfold Block.trainTx
  exact .ite hb (.ite htx (htx.keeps (Block.leftFor_keeps (.refl [.regs, .ev] _) rfl) rfl))

end

/-! ### A timing lane that stays Active (R268, R287) -/

/-- Lane L36 or L37. -/
def timingLane (d : Fin 2) : Nat := 36 + d.val

section

variable {b : Block} {d : Fin 2}

theorem Block.linkOf_timing (hrole : b.cRole = true) (d : Fin 2) : b.linkOf (timingLane d) = some (laneLink .timing (timingLane d)) := by
  fin_cases d <;> simp [timingLane, Block.linkOf, Block.linksNow, Block.fixedLinks, hrole, laneLink]

/-- A timing lane that leaves Active for a bad signal does not stay Active. -/
theorem Block.dropLink_idle (hrole : b.cRole = true) (d : Fin 2) (cause : Nat) : Idle (timingLane d) (b.dropLink (timingLane d) cause) := by
  unfold Block.dropLink
  rw [Block.linkOf_timing hrole]
  have htrained : Idle (timingLane d) (b.retrain (laneLink .timing (timingLane d))) := (b.trainRx_idle _).trainTx _
  have hcounted : Idle (timingLane d) (((b.retrain (laneLink .timing (timingLane d))).bump (0x59000C + 256 * timingLane d) 1).raise 0x71
      [.id 6 (timingLane d), .id 8 cause]) :=
    htrained.keeps (Block.raise_keeps (Block.bump_keeps (.refl [.regs, .ev] _) rfl) rfl) rfl
  exact (hcounted.transient _).keeps (Block.domLost_keeps (.refl [.time, .regs, .ev] _) rfl) rfl

/-- A frame whose sync headers leave the lane Active counts them and nothing more. -/
theorem Block.syncFrame_active (hrole : b.cRole = true) (ok : Bool) (hactive : (b.syncFrame (timingLane d) ok).rxActive (timingLane d) = true) :
    Keeps [.frm, .regs] b (b.syncFrame (timingLane d) ok) ∧
      ∀ k, k ≠ 0x59000B + 256 * timingLane d → (b.syncFrame (timingLane d) ok).reg k = b.reg k := by
  let b1 := (if ok then b else b.bump (0x59000B + 256 * timingLane d) 1).onLane (timingLane d)
    fun q => { q with syncBad := ((!ok) :: q.syncBad).take 64 }
  have hsync : b.syncFrame (timingLane d) ok =
      if 16 ≤ ((b1.lane (timingLane d)).syncBad.filter fun x => x).length then b1.dropLink (timingLane d) 2 else b1 := rfl
  have hkeeps : Keeps [.frm, .regs] b b1 :=
    Block.onLane_keeps (.ite (.refl _ _) (Block.bump_keeps (.refl _ _) rfl)) rfl
  have hrole1 : b1.cRole = true := (hkeeps.role_eq rfl).trans hrole
  have hstays : b.syncFrame (timingLane d) ok = b1 := by
    rw [hsync]
    refine if_neg fun hbad => ?_
    rw [hsync, if_pos hbad] at hactive
    exact (b1.dropLink_idle hrole1 d 2).rx (by simpa [Block.rxActive] using hactive)
  rw [hstays]
  refine ⟨hkeeps, fun k hk => ?_⟩
  show (if ok then b else b.bump (0x59000B + 256 * timingLane d) 1).reg k = b.reg k
  split
  · rfl
  · exact Block.reg_bump_ne _ _ hk

theorem Block.hear_lane (b : Block) (l : Nat) (x : LineFrame) : (b.hear l x).2.lane l = { b.lane l with descr := ((b.hear l x).2.lane l).descr } := by
  simp [Block.hear]

/-- A frame at an Active timing lane goes to its domain once its sync headers are good enough. -/
theorem Block.timingFrame_active {x : LineFrame} (margin : Nat) (hprbs : (b.lane (timingLane d)).prbs = 0)
    (hrx : (b.lane (timingLane d)).rx = .active)
    (hactive : ((b.hear (timingLane d) x).2.syncFrame (timingLane d) (b.syncGood (timingLane d) x)).rxActive (timingLane d) = true) :
    b.timingFrame d x margin =
      ((b.hear (timingLane d) x).2.syncFrame (timingLane d) (b.syncGood (timingLane d) x)).domFrame d (b.hear (timingLane d) x).1 margin := by
  have hlane := b.hear_lane (timingLane d) x
  have hgood : (b.hear (timingLane d) x).2.syncGood (timingLane d) x = b.syncGood (timingLane d) x := by
    unfold Block.syncGood
    rw [hlane]
  have hrx' : ((b.hear (timingLane d) x).2.lane (timingLane d)).rx = .active := by rw [hlane]; exact hrx
  unfold Block.timingFrame Block.lineIn
  simp only [show 36 + d.val = timingLane d from rfl, hprbs, hrx, hrx', hgood, ne_eq, not_true_eq_false, if_false, or_true, if_true,
    Block.when, hactive]

end

/-! ### A frame of a domain (R302, R303, R311, R313) -/

section

variable {k v l : Nat} {b : Block}

/-- Copies that fail or disagree are counted in the lane's own counters. -/
theorem Reads.countCopies (hb : Reads k v b) (hk : ∀ e < 6, k ≠ laneCount l e) (f : CFrame) : Reads k v (b.countCopies l f) := by
  unfold Block.countCopies
  extract_lets p x y first second
  have hfirst : Reads k v first := .ite (hb.bump 1 (hk 1 (by decide))) hb
  have hsecond : Reads k v second := .ite (hfirst.bump 1 (hk 2 (by decide))) hfirst
  exact .ite ((hsecond.bump 1 (hk 3 (by decide))).raiseOnce _ _ _) hsecond

theorem Reads.regionFailed (hb : Reads k v b) (hk : ∀ e < 6, k ≠ laneCount l e) (h : Nat) : Reads k v (b.regionFailed l h).2 :=
  ((hb.bump 1 (hk 4 (by decide))).raiseOnce 0xAA 0 [.id 6 l, b.hereFld]).transient (siteId 2 l)

theorem Reads.domRegion (hb : Reads k v b) (hk : ∀ e < 6, k ≠ laneCount l e) (f : CFrame) : Reads k v (b.domRegion l f) := by
  unfold Block.domRegion
  split
  · exact .ite hb (hb.regionFailed hk _)
  · exact hb

theorem Reads.forEach {α : Type} {l : List α} {f : α → Block → Block} (hb : Reads k v b)
    (hf : ∀ i ∈ l, ∀ x, Reads k v x → Reads k v (f i x)) : Reads k v (forEach l b f) :=
  List.foldlRecOn (motive := Reads k v) l _ hb fun x hx i hi => hf i hi x hx

/-- A copy of another value is counted where its frame came. -/
theorem Reads.resolve (hb : Reads k v b) (frames : List (Nat × CFrame)) (hk : ∀ q ∈ frames, k ≠ laneCount q.1 3) :
    Reads k v (b.resolve frames).2 := by
  unfold Block.resolve
  split
  · exact hb
  · refine Reads.forEach hb fun q hq x hx => ?_
    have htold : Reads k v ((x.bump (laneCount q.1 3) 1).raiseOnce 0xA8 0 [.id 6 q.1, x.hereFld]) :=
      (hx.bump 1 (hk q hq)).raiseOnce _ _ _
    split
    · exact .ite htold hx
    · exact .ite htold hx
    · exact .ite htold hx
    · exact hx


end

section

variable {b : Block} {d : Fin 2} {f : CFrame} {w : Ref48}

theorem Block.resolve_fst (b : Block) (frames : List (Nat × CFrame)) :
    (b.resolve frames).1 = frames.findSome? fun q => copyOf (b.peerLane q.1) q.2 := by
  unfold Block.resolve
  split
  · next hnone => exact hnone.symm
  · next v hsome => exact hsome.symm

/-- The payload of one frame is its first copy that checks; of the block the counters of the copies change. -/
theorem Block.resolve_one {l : Nat} (hcopy : copyOf (b.peerLane l) f = some w) :
    ∃ x, b.resolve [(l, f)] = (some w, x) ∧ Keeps [.regs, .ev] b x ∧
      ∀ k v, k ≠ laneCount l 3 → Reads k v b → Reads k v x := by
  have hword : (b.resolve [(l, f)]).1 = some w := (b.resolve_fst _).trans (by simp [hcopy])
  have hkeeps : Keeps [.regs, .ev] b (b.resolve [(l, f)]).2 := Block.resolve_keeps (.refl _ _) rfl
  have hreads (k v : Nat) (hk : k ≠ laneCount l 3) (hb : Reads k v b) : Reads k v (b.resolve [(l, f)]).2 :=
    hb.resolve _ fun q hq => by rw [List.mem_singleton.mp hq]; exact hk
  generalize b.resolve [(l, f)] = p at hword hkeeps hreads ⊢
  obtain ⟨v, x⟩ := p
  exact ⟨x, congrArg (·, x) hword, hkeeps, hreads⟩

/-- What stands before the marker of a domain's frame is judged: copies, code and the region before it. -/
def Block.domJudged (b : Block) (d : Fin 2) (f : CFrame) : Block :=
  let x := ((b.countCopies (timingLane d) f).when (!codeOk .timing (frCode f)) fun b => b.bump (laneCount (timingLane d) 5) 1).domRegion
    (timingLane d) f
  x.setLast (timingLane d) x.time.now f

theorem Block.domJudged_keeps (b : Block) (d : Fin 2) (f : CFrame) :
    Keeps [.chans, .adc, .mrg, .frm, .twin, .flt, .regs, .ev, .free] b (b.domJudged d f) :=
  Block.setLast_keeps (Block.domRegion_keeps
    (.when (Block.countCopies_keeps (.refl _ _) rfl) fun _ hx => Block.bump_keeps hx rfl) rfl) rfl

theorem Reads.domJudged {k v : Nat} (hb : Reads k v b) (hk : ∀ e < 6, k ≠ laneCount (timingLane d) e) : Reads k v (b.domJudged d f) := by
  have hcopies := hb.countCopies hk f
  have hcode : Reads k v ((b.countCopies (timingLane d) f).when (!codeOk .timing (frCode f)) fun b =>
    b.bump (laneCount (timingLane d) 5) 1) := .ite (hcopies.bump 1 (hk 5 (by decide))) hcopies
  exact (hcode.domRegion hk f).same rfl

/-- A crossing frame with a copy that checks gives its domain the marker and the word; what comes before leaves the clock and the
other entries as they were. -/
theorem Block.domFrame_word (margin : Nat) (hcode : frCode f ≠ codeTraining) (hcopy : copyOf (b.peerLane (timingLane d)) f = some w) :
    ∃ x, Keeps [.chans, .adc, .mrg, .frm, .twin, .flt, .regs, .ev, .free] b x ∧
      (∀ k v, (∀ e < 6, k ≠ laneCount (timingLane d) e) → Reads k v b → Reads k v x) ∧
      b.domFrame d f margin = (x.domainMarker d (frSlot f) (x.markerAt margin)).domainWord d (frSlot f) (some w) := by
  have hpeer : (b.domJudged d f).peerLane (timingLane d) = b.peerLane (timingLane d) := by
    have hread : Reads (0x5C0006 + 256 * timingLane d) (b.peerLane (timingLane d)) b := ⟨by unfold timingLane; omega, rfl⟩
    exact (hread.domJudged fun e he => by unfold laneCount; omega).reg
  obtain ⟨x, hresolve, hkeeps, hreads⟩ := Block.resolve_one (b := b.domJudged d f) (l := timingLane d) (f := f) (w := w) (by rw [hpeer, hcopy])
  refine ⟨x, (b.domJudged_keeps d f).comp hkeeps rfl, fun k v hk hb => hreads k v (hk 3 (by decide)) (hb.domJudged hk), ?_⟩
  unfold Block.domFrame
  extract_lets l counted judged r resolved slot
  have hr : r = (some w, x) := hresolve
  have hresolved : resolved = x := by simp only [resolved, hr, Option.isSome_some, if_true]
  have hslot : slot = frSlot f := by simp only [slot, hr, Option.isSome_some, if_true]
  rw [if_neg hcode, hresolved, hslot, hr]

/-! ### The tracker (R46, R48, R49) -/

/-- The tracker of a domain once a marker has been taken. -/
def Block.marked (b : Block) (d : Fin 2) (slot : Nat) (arrival : Int) : Tracker :=
  let t := b.dom d
  let c := arrival - t.delay
  let h := b.slotCrossing (roundDiv c 2048 - 1) slot
  { t with
    state := if t.state = .lost then .acquiring else t.state, head := h, residual := c - 2048 * (h + 1),
    arrivals := (((slot + 1) % b.lenO, arrival) :: t.arrivals).take 1024 }

theorem Block.domainMarker_same (b : Block) (d : Fin 2) (slot : Nat) (arrival : Int) :
    (b.domainMarker d slot arrival).dom d = b.marked d slot arrival := Block.dom_onDom_same ..

theorem Block.domainMarker_other (b : Block) (d : Fin 2) (slot : Nat) (arrival : Int) :
    (b.domainMarker d slot arrival).dom (1 - d.val) = b.dom (1 - d.val) := Block.dom_onDom_ne _ _ (other_iff d)

/-- What a marker measures comes from the clock and the set in force. -/
theorem Block.marked_congr {x : Block} (htime : x.time = b.time) (hlen : x.nO = b.nO) (slot : Nat) (arrival : Int) :
    x.marked d slot arrival = b.marked d slot arrival := by
  have hlenO : x.lenO = b.lenO := by unfold Block.lenO; rw [hlen]
  have hslot (n : Int) (m : Nat) : x.slotCrossing n m = b.slotCrossing n m := by
    unfold Block.slotCrossing Block.slotNear Block.orbitAt
    rw [htime, hlenO]
  simp only [Block.marked, hslot, hlenO, Block.dom_time htime]

/-- A word of slots 1 to 6 is kept in the set of the orbit. -/
theorem Block.domainWord_kept {slot : Nat} (h1 : 1 ≤ slot) (h6 : slot ≤ 6) (hassessed : (b.dom d).assessed = false) :
    (b.domainWord d slot (some w)).time =
      (b.onDom d fun t => { t with words := tabSet t.words slot w, bad := t.bad || !wordFits slot w }).time := by
  have hset : b.domainWord d slot (some w) = b.setWord d slot (some w) := by
    rw [Block.domainWord, if_pos (by omega)]
    exact if_neg (by omega)
  have hno : ¬(slot = 0 ∨ (b.dom d).assessed = true) := by simp [hassessed]; omega
  rw [hset, Block.setWord, if_neg hno]
  exact (Keeps.when (.refl [.regs, .ev] _) fun x hx => Block.compareWord_keeps hx rfl).time_eq rfl rfl

/-- A word of a later slot is counted where it is a USER word. -/
theorem Block.domainWord_later {slot : Nat} (h8 : 8 ≤ slot) (hassessed : (b.dom d).assessed = true) :
    b.domainWord d slot (some w) = if wordType w = 15 then b.bump (domKey d 6) 1 else b := by
  rw [Block.domainWord, if_neg (by omega), if_pos hassessed]

end

section

variable {b : Block} {d : Fin 2} {w : Ref48}

/-- A frame of an Active timing lane with a copy that checks reaches its tracker with the clock, the set and the entries below the
lanes' as they were. -/
theorem Block.timingFrame_word {x : LineFrame} (margin : Nat) (hrole : b.cRole = true) (hprbs : (b.lane (timingLane d)).prbs = 0)
    (hrx : (b.lane (timingLane d)).rx = .active)
    (hactive : ((b.hear (timingLane d) x).2.syncFrame (timingLane d) (b.syncGood (timingLane d) x)).rxActive (timingLane d) = true)
    (hcode : frCode (b.hear (timingLane d) x).1 ≠ codeTraining)
    (hcopy : copyOf (b.peerLane (timingLane d)) (b.hear (timingLane d) x).1 = some w) :
    ∃ y : Block, y.time = b.time ∧ y.nO = b.nO ∧ (∀ k < 0x590000, y.reg k = b.reg k) ∧ b.timingFrame d x margin =
      (y.domainMarker d (frSlot (b.hear (timingLane d) x).1) (b.markerAt margin)).domainWord d (frSlot (b.hear (timingLane d) x).1)
        (some w) := by
  rw [Block.timingFrame_active margin hprbs hrx hactive]
  have hhear : Keeps [.frm] b (b.hear (timingLane d) x).2 := Block.hear_keeps (.refl _ _) rfl
  have hreg (k : Nat) : (b.hear (timingLane d) x).2.reg k = b.reg k := hhear.reg_eq rfl rfl rfl rfl k
  generalize (b.hear (timingLane d) x).2 = z at hhear hreg hactive ⊢
  generalize (b.hear (timingLane d) x).1 = f at hcode hcopy ⊢
  obtain ⟨hsync, hsyncReg⟩ := Block.syncFrame_active ((hhear.role_eq rfl).trans hrole) _ hactive
  generalize z.syncFrame (timingLane d) (b.syncGood (timingLane d) x) = u at hsync hsyncReg ⊢
  have hpeer : u.peerLane (timingLane d) = b.peerLane (timingLane d) := (hsyncReg _ (by omega)).trans (hreg _)
  obtain ⟨y, hkeeps, hreads, heq⟩ := Block.domFrame_word (b := u) margin hcode (by rw [hpeer, hcopy])
  have hall : Keeps [.chans, .adc, .mrg, .frm, .twin, .flt, .regs, .ev, .free] b y :=
    (hhear.widen rfl).trans ((hsync.widen rfl).trans hkeeps)
  have htime : y.time = b.time := hall.time_eq rfl rfl
  refine ⟨y, htime, hall.rs_eq rfl rfl rfl _, fun k hk => ?_, ?_⟩
  · have hread : Reads k (b.reg k) u := ⟨by omega, (hsyncReg k (by omega)).trans (hreg k)⟩
    exact (hreads k _ (fun e he => by unfold laneCount; omega) hread).reg
  · have hmarker : y.markerAt margin = b.markerAt margin := by unfold Block.markerAt Block.tRx; rw [htime]
    rw [heq, hmarker]

/-! ### The end of a round-trip campaign (R57, R122) -/

theorem Block.serviceShots_setReg (b : Block) (p n : Nat) : (b.setReg (0x430200 + p) n).serviceShots = b.serviceShots := by
  unfold Block.serviceShots
  rw [Block.reg_setReg_ne _ _ (by omega)]

theorem Block.newAlign_setReg (b : Block) (p n shots : Nat) (sum : Int) :
    (b.setReg (0x430200 + p) n).newAlign p shots sum = b.newAlign p shots sum := by
  unfold Block.newAlign
  rw [Block.reg_setReg_ne _ _ (by omega)]
  rfl

/-- The campaign of a port is over, its shots kept. -/
def Block.tripClosed (b : Block) (p : Nat) (c : PortCampaign) : Block :=
  (b.onTime fun t => { t with campaigns := tabDel t.campaigns p }).setReg (0x430200 + p) c.shots

theorem Block.tripEnd_eq (b : Block) (p : Nat) (c : PortCampaign) :
    b.tripEnd p c = if b.serviceShots ≤ c.shots then (b.tripClosed p c).tripDone p c
      else (b.tripClosed p c).raise 0x39 [.id 6 p, .cnt 16 c.shots] := by
  have hshots : (b.tripClosed p c).serviceShots = b.serviceShots := Block.serviceShots_setReg _ _ _
  rw [← hshots]
  rfl

theorem Block.tripEnd_few {p : Nat} {c : PortCampaign} (h : c.shots < b.serviceShots) :
    b.tripEnd p c = (b.tripClosed p c).raise 0x39 [.id 6 p, .cnt 16 c.shots] := by
  rw [Block.tripEnd_eq, if_neg (by omega)]

/-- A campaign with its shots whose alignment stands keeps the round trip alone. -/
theorem Block.tripEnd_stands {p : Nat} {c : PortCampaign} (h : b.serviceShots ≤ c.shots)
    (halign : b.newAlign p c.shots c.sum = ((b.port p).align : Int)) (hrange : (b.port p).align ≤ 1048575) (hfirst : c.first = false) :
    b.tripEnd p c = (b.tripClosed p c).setReg (0x284200 + p) (roundDiv c.sum c.shots).toNat := by
  have hnew : (b.tripClosed p c).newAlign p c.shots c.sum = ((b.port p).align : Int) := (Block.newAlign_setReg _ _ _ _ _).trans halign
  have hport : (((b.tripClosed p c).setReg (0x284200 + p) (roundDiv c.sum c.shots).toNat).port p).align = (b.port p).align := rfl
  rw [Block.tripEnd_eq, if_pos h, Block.tripDone, hnew, if_neg (by omega), hport, if_neg (by simp [hfirst])]

end

theorem exec_roundTripCampaignEnd {p : Port} {c : PortCampaign} {s : State} (hrun : s.blk.running = true) (hrole : s.blk.cRole = true)
    (hfind : tabFind s.blk.time.campaigns (p.val + 1) = some c) (hover : s.blk.tripOver c = true) :
    exec (.roundTripCampaignEnd p) s = .next { s with blk := s.blk.tripEnd (p.val + 1) c } := by
  show execRoundTripCampaignEnd p s = _
  simp [execRoundTripCampaignEnd, State.run, hfind, Block.when, hrun, hrole, hover]

/-- Settles O14: the frame's marker and word reach the tracker; the campaign ends in one of its two ways. -/
theorem timingIsTracked : Obligations.TimingIsTracked := by
  unfold Obligations.TimingIsTracked
  refine ⟨fun d x margin w s hrun hrole => ?_, fun p c s hrun hrole hfind => ⟨fun hfew hlong => ?_, fun hshots halign hrange hfirst => ?_⟩⟩
  · intro l f hprbs hrx hactive hcode hcopy t c h t'
    obtain ⟨y, htime, hlen, hregs, hword⟩ := Block.timingFrame_word margin hrole hprbs hrx hactive hcode hcopy
    have heq : s.blk.timingFrame d x margin =
      (y.domainMarker d (frSlot f) (s.blk.markerAt margin)).domainWord d (frSlot f) (some w) := hword
    have hsame : (y.domainMarker d (frSlot f) (s.blk.markerAt margin)).dom d = t' :=
      (y.domainMarker_same d _ _).trans (Block.marked_congr htime hlen _ _)
    have hother : (y.domainMarker d (frSlot f) (s.blk.markerAt margin)).dom (1 - d.val) = s.blk.dom (1 - d.val) :=
      (y.domainMarker_other d _ _).trans (Block.dom_time htime _)
    have hguard : (s.blk.running && s.blk.cRole) = true := by rw [hrun, hrole]; rfl
    refine ⟨fun h1 h6 hassessed => ?_, fun h8 hassessed => ?_⟩
    · refine does_of_when rfl hguard ?_
      rw [heq]
      have hword := Block.domainWord_kept (w := w) h1 h6 (by rw [hsame]; exact hassessed)
      refine ⟨(Block.dom_time hword _).trans ?_, (Block.dom_time hword _).trans ?_⟩
      · rw [Block.dom_onDom_same, hsame]
      · rw [Block.dom_onDom_ne _ _ (other_iff d), hother]
    · refine does_of_when rfl hguard ?_
      rw [heq, Block.domainWord_later h8 (by rw [hsame]; exact hassessed)]
      have hcount : (y.domainMarker d (frSlot f) (s.blk.markerAt margin)).reg (domKey d 6) = s.blk.reg (domKey d 6) :=
        hregs _ (by unfold domKey; omega)
      split
      · refine ⟨?_, ?_, ?_⟩
        · exact (Block.dom_time (Block.bump_time _ _ _) _).trans hsame
        · exact (Block.dom_time (Block.bump_time _ _ _) _).trans hother
        · rw [Block.reg_bump_same, hcount]
      · exact ⟨hsame, hother, hcount⟩
  · have hover : s.blk.tripOver c = true := by simp [Block.tripOver, hlong]
    refine does_of_next (exec_roundTripCampaignEnd hrun hrole hfind hover) ?_
    rw [Block.tripEnd_few hfew]
    refine ⟨Block.raise_time _ _ _, ?_, Block.latched_raise_self _ (by decide) _⟩
    rw [Block.reg_raise_low _ _ _ (by omega), Block.tripClosed, Block.reg_setReg_same]
  · have hover : s.blk.tripOver c = true := by simp [Block.tripOver, hshots]
    refine does_of_next (exec_roundTripCampaignEnd hrun hrole hfind hover) ?_
    rw [Block.tripEnd_stands hshots halign hrange hfirst]
    exact ⟨rfl, Block.reg_setReg_same _ _ _⟩

end Sys2Proof.Machine
end

section
/-! PROOFS. Frames at the balls (R49, R265, R269, R288, R296, R311): the scrambler and its inverse, a frame at an Active downlink half, and a
PRBS checker. -/

namespace Sys2Proof.Machine

/-! ### The scrambler (R269) -/

/-- A bit of a stream: the last 58 bits stand below what follows them. -/
theorem testBit_stream (x : Nat) (s : BitVec 58) (i : Nat) :
    (x <<< 58 ||| s.toNat).testBit i = if i < 58 then s.getLsbD i else x.testBit (i - 58) := by
  rw [Nat.testBit_or, Nat.testBit_shiftLeft, BitVec.testBit_toNat]
  by_cases h : i < 58
  · simp [h, Nat.not_le.mpr h]
  · simp [h, Nat.not_lt.mp h]

theorem testBit_scrambleLow (s : BitVec 58) (w : Word64) {i : Nat} (h : i < 39) :
    (scrambleLow s w).testBit i = ((w.getLsbD i ^^ s.getLsbD (19 + i)) ^^ s.getLsbD i) := by
  rw [scrambleLow, Nat.testBit_mod_two_pow, Nat.testBit_xor, Nat.testBit_xor, Nat.testBit_shiftRight, BitVec.testBit_toNat,
    BitVec.testBit_toNat, BitVec.testBit_toNat]
  simp only [h, decide_true, Bool.true_and]

theorem scrambleLow_lt (s : BitVec 58) (w : Word64) : scrambleLow s w < 2 ^ 39 := Nat.mod_lt _ (by decide)

/-- A bit sent: of the low 39 behind the bits sent before, of the others behind those of its own payload too. -/
theorem getLsbD_scramble (s : BitVec 58) (w : Word64) {i : Nat} (h : i < 64) :
    (scramble s w).getLsbD i =
      if i < 39 then (scrambleLow s w).testBit i
      else ((w.getLsbD i ^^ (scrambleLow s w).testBit (i - 39)) ^^
        if i < 58 then s.getLsbD i else (scrambleLow s w).testBit (i - 58)) := by
  unfold scramble
  dsimp only
  rw [BitVec.getLsbD_ofNat, Nat.testBit_or, Nat.testBit_shiftLeft]
  by_cases hlow : i < 39
  · simp [h, hlow, Nat.not_le.mpr hlow]
  · have hge : 39 ≤ i := Nat.not_lt.mp hlow
    have habove : (scrambleLow s w).testBit i = false :=
      Nat.testBit_lt_two_pow (lt_of_lt_of_le (scrambleLow_lt s w) (Nat.pow_le_pow_right (by decide) hge))
    have h25 : i - 39 < 25 := by omega
    have hstream : ¬58 + (i - 39) < 58 := by omega
    have hself : 39 + (i - 39) = i := by omega
    simp only [h, hlow, hge, habove, h25, decide_true, Bool.true_and, Bool.false_or, if_false, Nat.testBit_mod_two_pow, Nat.testBit_xor,
      Nat.testBit_shiftRight, testBit_stream, hstream, hself, BitVec.testBit_toNat, Nat.add_sub_cancel_left]

theorem xor_twice (x y z : Bool) : ((((x ^^ y) ^^ z) ^^ y) ^^ z) = x := by decide +revert

/-- What a scrambler sends a descrambler gives back. -/
theorem descramble_scramble (s : BitVec 58) (w : Word64) : descramble s (scramble s w) = w := by
  refine BitVec.eq_of_getLsbD_eq fun i hi => ?_
  have hself : 58 + i - 58 = i := by omega
  have hover : ¬58 + i < 58 := by omega
  unfold descramble
  dsimp only
  rw [BitVec.getLsbD_ofNat]
  simp only [hi, decide_true, Bool.true_and, Nat.testBit_xor, Nat.testBit_shiftRight, testBit_stream, hover, if_false, hself,
    BitVec.testBit_toNat]
  rw [getLsbD_scramble s w hi]
  by_cases hlow : i < 39
  · have h19 : 19 + i < 58 := by omega
    have h58 : i < 58 := by omega
    simp only [hlow, h19, h58, if_true, testBit_scrambleLow s w hlow]
    exact xor_twice ..
  · have h19 : ¬19 + i < 58 := by omega
    have hback : 19 + i - 58 = i - 39 := by omega
    have hfirst : (scramble s w).getLsbD (i - 39) = (scrambleLow s w).testBit (i - 39) := by
      rw [getLsbD_scramble s w (by omega), if_pos (by omega)]
    have hthird : (scramble s w).getLsbD (i - 58) = (scrambleLow s w).testBit (i - 58) := by
      rw [getLsbD_scramble s w (by omega), if_pos (by omega)]
    simp only [hlow, h19, if_false, hback, hfirst, hthird]
    exact xor_twice ..

/-! ### A PRBS checker (R296) -/

section

variable {b : Block} {l : Nat} {x : LineFrame}

theorem Block.prbsBits_locked (hlock : (b.lane l).prbsLock = true) :
    b.prbsBits l x = ((b.onLane l fun q => { q with chk := (prbsFrame (b.lane l).chk).2 }).bump (prbsKey l 2) 528).bump (prbsKey l 3)
      (popcount 528 (lineBits x ^^^ (prbsFrame (b.lane l).chk).1)) := by
  unfold Block.prbsBits
  exact if_pos hlock

theorem Block.lineIn_checker {take : CFrame → Block → Block} (hmode : 2 ≤ (b.lane l).prbs) : b.lineIn l x take = b.prbsBits l x := by
  have hne : (b.lane l).prbs ≠ 0 := by omega
  simp only [Block.lineIn, hne, ne_eq, not_false_eq_true, if_true, hmode]

theorem Block.lineIn_ignored {take : CFrame → Block → Block} (hmode : (b.lane l).prbs = 0) (htraining : (b.lane l).rx ≠ .training)
    (hactive : (b.lane l).rx ≠ .active) : b.lineIn l x take = b := by
  simp [Block.lineIn, hmode, htraining, hactive]

theorem Block.lineIn_heard {take : CFrame → Block → Block} (hmode : (b.lane l).prbs = 0) (hactive : (b.lane l).rx = .active) :
    b.lineIn l x take = take (b.hear l x).1 (b.hear l x).2 := by
  simp [Block.lineIn, hmode, hactive]

theorem Block.lane_bump (b : Block) (key n m : Nat) : (b.bump key n).lane m = b.lane m := by
  unfold Block.lane
  rw [Block.bump_frm]

/-! ### A frame at an Active downlink half (R49, R288, R311) -/

/-- A frame with good sync headers at a half that has seen few bad ones is noted in its pattern. -/
theorem Block.syncFrame_good (hfew : ((false :: (b.lane l).syncBad).take 64).count true < 16) :
    b.syncFrame l true = b.onLane l fun q => { q with syncBad := (false :: q.syncBad).take 64 } := by
  unfold Block.syncFrame
  dsimp only
  refine if_neg ?_
  rw [Block.lane_onLane_same]
  rw [List.count_eq_length_filter] at hfew
  simpa using hfew

/-- A frame whose copies agree and whose header names its crossing is taken as it is. -/
theorem Block.takeFrame_good {kind : RxLink} {h : Nat} {f : CFrame} {r : Ref48} (ha : copyA (b.peerLane l) f = some r)
    (hb : copyB (b.peerLane l) f = some r) (hnames : b.names f h = true) (hcode : codeOk kind (frCode f) = true) :
    b.takeFrame l kind h f = (some f, b) := by
  have hcopies : b.countCopies l f = b := by simp [Block.countCopies, ha, hb]
  unfold Block.takeFrame
  rw [hcopies]
  simp [hnames, hcode]

/-- The name of a crossing comes from the clock. -/
theorem Block.names_congr {y : Block} (htime : y.time = b.time) (f : CFrame) (h : Nat) : y.names f h = b.names f h := by
  unfold Block.names Block.slotOf Block.orbitOf Block.orbitAt
  rw [htime]

/-- The block of a frame that has been kept and measured. -/
def Block.keptFrame (b : Block) (l h : Nat) (f : CFrame) (margin : Nat) : Block :=
  (((b.onLane l fun q => { q with margin := margin }).setLast l h f).storeFrame l h (some f)).measureSide l h margin

theorem Block.keptFrame_lane (b : Block) (l h : Nat) (f : CFrame) (margin : Nat) :
    (b.keptFrame l h f margin).lane l =
      { b.lane l with margin := margin, last := some (h, f),
                      store := ((b.lane l).store.filter fun p => decide (h < p.1 + 128)) ++ [(h, f)] } := by
  show (((b.onLane l fun q => { q with margin := margin }).setLast l h f).storeFrame l h (some f)).lane l = _
  rw [Block.storeFrame, Block.lane_onLane_same, Block.setLast, Block.lane_onLane_same, Block.lane_onLane_same]
  rfl

theorem Block.keptFrame_other (b : Block) {l m : Nat} (h : Nat) (f : CFrame) (margin : Nat) (hm : m ≠ l) :
    (b.keptFrame l h f margin).lane m = b.lane m := by
  show (((b.onLane l fun q => { q with margin := margin }).setLast l h f).storeFrame l h (some f)).lane m = _
  rw [Block.storeFrame, Block.lane_onLane_ne _ _ hm, Block.setLast, Block.lane_onLane_ne _ _ hm, Block.lane_onLane_ne _ _ hm]

theorem Block.keptFrame_residual (b : Block) (l h : Nat) (f : CFrame) (margin : Nat) :
    ((b.keptFrame l h f margin).dom (l / 4)).residual =
      b.markerAt margin - (b.alignD (l / 4) : Int) - (2048 * (h + 1) : Nat) := by
  unfold Block.keptFrame Block.measureSide
  rw [Block.dom_onDom_same]
  rfl

/-- A frame that an F-role's Active half of a downlink presents is kept, and its marker measured. -/
theorem Block.presentFrame_kept {k : Link} {f : CFrame} {r : Ref48} {h : Nat} (margin : Nat) (hrole : b.cRole = false)
    (hact : b.sets.act.isSome = true) (hkind : k.kind = .group) (hh : h = b.time.now - 2 - (b.lane l).placed.getD 0)
    (hlast : (b.lane l).last.map Prod.fst ≠ some h) (ha : copyA (b.peerLane l) f = some r) (hb : copyB (b.peerLane l) f = some r)
    (hnames : b.names f h = true) (hcode : codeOk .downlink (frCode f) = true) :
    b.presentFrame k l f margin = b.keptFrame l h f margin := by
  have hset : ¬((b.onLane l fun q => { q with margin := margin }).sets.act.isNone = true ∧ k.kind = .group) := by
    rintro ⟨hnone, _⟩
    rw [Block.onLane_sets] at hnone
    simp [Option.isNone_iff_eq_none.mp hnone] at hact
  have hexpected : (b.onLane l fun q => { q with margin := margin }).expected k l = h := by
    rw [Block.expected, Block.depthOf, hkind, Block.lane_onLane_same, hh]
    rfl
  have htaken : (b.onLane l fun q => { q with margin := margin }).takeFrame l .downlink h f =
      (some f, b.onLane l fun q => { q with margin := margin }) := Block.takeFrame_good ha hb hnames hcode
  have hworker : (b.onLane l fun q => { q with margin := margin }).cRole = false := hrole
  have hnot : frCode f ≠ codeTraining := by
    intro htraining
    rw [htraining] at hcode
    exact absurd hcode (by decide)
  unfold Block.presentFrame
  dsimp only
  rw [if_neg hset, hexpected, Block.lane_onLane_same, if_neg hlast, show rxKind k = .downlink by rw [rxKind, hkind], htaken]
  simp [Block.invalidFault, Block.headerMismatch, Block.when, hkind, hworker, hnot, Block.marker, Block.keptFrame]

end

section

variable {b : Block} {l : Nat} {k : Link} {x : LineFrame} {f : CFrame} {margin : Nat}

/-- A half of a downlink that stays Active and is not being placed takes the frame, now or in its turn. -/
theorem Block.present_active (hkind : k.kind = .group) (hrx : (b.lane l).rx = .active) (hstep : (b.lane l).step ≠ 5)
    (hgood : b.syncGood l x = true) (hfew : ((false :: (b.lane l).syncBad).take 64).count true < 16) :
    b.present k l x f margin =
      (b.onLane l fun q => { q with syncBad := (false :: q.syncBad).take 64 }).takeOrWait k l f margin := by
  have halone : b.trainsAlone k l = false := by simp [Block.trainsAlone, hkind]
  have hactive : b.rxActive l = true := by simp [Block.rxActive, hrx]
  have hactive' : (b.onLane l fun q => { q with syncBad := (false :: q.syncBad).take 64 }).rxActive l = true := by
    simp [Block.rxActive, hrx]
  have hplaced : ¬(k.kind = .group ∧ ((b.onLane l fun q => { q with syncBad := (false :: q.syncBad).take 64 }).lane l).step = 5) := by
    rw [Block.lane_onLane_same]
    exact fun h => hstep h.2
  unfold Block.present
  rw [halone, hactive, hgood, if_neg (by decide), if_pos rfl, Block.syncFrame_good hfew]
  simp only [Block.when, hactive', if_true, if_neg hplaced]

theorem exec_framePresented {l : Lane} {s : State} (hrun : s.blk.running = true) (hlock : s.blk.time.everLocked = true)
    (hlink : s.blk.linkOf l.val = some k) (hkind : k.kind ≠ .timing) :
    exec (.framePresented l x margin) s =
      .next { s with blk := s.blk.lineIn l.val x fun f b => if k.kind = .cross then b else b.present k l.val x f margin } := by
  show execFramePresented l x margin s = _
  simp only [execFramePresented, State.run, Block.when, hrun, hlock, if_true, hlink, hkind, if_false]

end

/-- Settles O41: the scrambler's round trip, and what a frame does at a checker, at an idle half and at an Active half of a downlink. -/
theorem framesArePresented : Obligations.FramesArePresented := by
  unfold Obligations.FramesArePresented
  refine ⟨descramble_scramble, fun l x k margin s hrun hlock hlink => ?_⟩
  intro q f q' h
  refine ⟨fun hkind hmode hchecker => ?_, fun hkind hmode htraining hactive => ?_,
    fun r hmode hrole hact hkind hactive hstep hgood hfew => ?_⟩
  · refine does_of_next (exec_framePresented hrun hlock hlink hkind) ?_
    rw [Block.lineIn_checker hmode, Block.prbsBits_locked hchecker]
    have hkeys : prbsKey l.val 2 ≠ prbsKey l.val 3 := by unfold prbsKey; omega
    refine ⟨?_, ?_, ?_, fun m hm => ?_⟩
    · rw [Block.lane_bump, Block.lane_bump, Block.lane_onLane_same]
    · rw [Block.reg_bump_ne _ _ hkeys, Block.reg_bump_same, Block.onLane_reg]
    · rw [Block.reg_bump_same, Block.reg_bump_ne _ _ hkeys.symm, Block.onLane_reg]
    · rw [Block.lane_bump, Block.lane_bump, Block.lane_onLane_ne _ _ hm]
  · exact exec_of_same (exec_framePresented hrun hlock hlink hkind) (Block.lineIn_ignored hmode htraining hactive)
  · have hexec := exec_framePresented (x := x) (margin := margin) hrun hlock hlink (by rw [hkind]; decide)
    rw [Block.lineIn_heard hmode hactive, if_neg (by rw [hkind]; decide)] at hexec
    have hlane : q' = { q with descr := q'.descr } := s.blk.hear_lane l.val x
    have hother (m : Nat) (hm : m ≠ l.val) : (s.blk.hear l.val x).2.lane m = s.blk.lane m := Block.lane_onLane_ne _ _ hm
    have hpresent : (s.blk.hear l.val x).2.present k l.val x f margin =
        ((s.blk.hear l.val x).2.onLane l.val fun q => { q with syncBad := (false :: q.syncBad).take 64 }).takeOrWait k l.val f margin := by
      refine Block.present_active hkind ?_ ?_ ?_ ?_
      · show q'.rx = .active
        rw [hlane]; exact hactive
      · show q'.step ≠ 5
        rw [hlane]; exact hstep
      · show (syncPattern x.sync == some q'.inverted) = true
        rw [hlane]; exact hgood
      · show ((false :: q'.syncBad).take 64).count true < 16
        rw [hlane]; exact hfew
    refine ⟨fun hnow hlast ha hb hnames hcode => ?_, fun hlater => ?_⟩
    · refine does_of_next hexec ?_
      have hplaced : h = s.blk.time.now - 2 - q'.placed.getD 0 := by rw [hlane]
      have hfirst : q'.last.map Prod.fst ≠ some h := by rw [hlane]; exact hlast
      rw [hpresent, Block.takeOrWait, if_pos hnow]
      generalize hy : (s.blk.hear l.val x).2.onLane l.val (fun q => { q with syncBad := (false :: q.syncBad).take 64 }) = y
      have hframe : Keeps [.frm] s.blk y := hy ▸ Block.onLane_keeps (Block.hear_keeps (.refl _ _) rfl) rfl
      have hylane : y.lane l.val = { q' with syncBad := (false :: q'.syncBad).take 64 } := hy ▸ Block.lane_onLane_same ..
      have hyother (m : Nat) (hm : m ≠ l.val) : y.lane m = s.blk.lane m := hy ▸ (Block.lane_onLane_ne _ _ hm).trans (hother m hm)
      have hpeer : y.peerLane l.val = s.blk.peerLane l.val := hframe.reg_eq rfl rfl rfl rfl _
      have hkept := Block.presentFrame_kept (b := y) (h := h) margin ((hframe.role_eq rfl).trans hrole) (by rw [hframe.sets_eq rfl]; exact hact) hkind
        (by rw [hframe.now_eq rfl, hylane]; exact hplaced) (by rw [hylane]; exact hfirst) (by rw [hpeer]; exact ha) (by rw [hpeer]; exact hb)
        (by rw [Block.names_congr (hframe.time_eq rfl rfl)]; exact hnames) hcode
      rw [hkept]
      refine ⟨?_, fun m hm => (y.keptFrame_other _ _ _ hm).trans (hyother m hm), ?_⟩
      · rw [Block.keptFrame_lane, hylane]
        rw [hlane]
      · rw [Block.keptFrame_residual]
        have hmarker : y.markerAt margin = s.blk.markerAt margin := by unfold Block.markerAt Block.tRx; rw [hframe.time_eq rfl rfl]
        have halign : y.alignD (l.val / 4) = s.blk.alignD (l.val / 4) := hframe.reg_eq rfl rfl rfl rfl _
        rw [hmarker, halign]
    · refine does_of_next hexec ?_
      rw [hpresent, Block.takeOrWait, if_neg (Nat.not_le.mpr hlater)]
      refine ⟨?_, fun m hm => ?_⟩
      · rw [Block.waitFrame, Block.lane_onLane_same, Block.lane_onLane_same]
        show { q' with syncBad := (false :: q'.syncBad).take 64,
                       wait := (q'.wait ++ [(s.blk.time.now + (margin - 1) / 2048, f, margin)]).take 128 } = _
        rw [hlane]
      · rw [Block.waitFrame, Block.lane_onLane_ne _ _ hm, Block.lane_onLane_ne _ _ hm]
        exact hother m hm

end Sys2Proof.Machine
end

section
/-! PROOFS. The channel array (R68 to R85, R103 to R108, R131, R136, R162, R532): what becomes of the one channel that an edge, a hold or
a timeout touches. -/

namespace Sys2Proof.Machine

/-- A command that acts without a change leaves the state as it was, whether or not its condition holds. -/
theorem exec_of_when_same {i : Instr} {s : State} {c : Bool} {f : Block → Block} (hi : exec i s = .next { s with blk := s.blk.when c f })
    (hf : f s.blk = s.blk) : exec i s = .next s := exec_of_same hi (by unfold Block.when; rw [hf, ite_self])

/-! ### One channel changes -/

section

variable {a b x : Block} {c : Nat} {k : Chan}

theorem ChanIs.refl (b : Block) (c : Nat) : ChanIs b b c (b.chan c) := ⟨rfl, fun _ _ => rfl⟩

theorem ChanIs.step (h : ChanIs a b c k) (f : Chan → Chan) : ChanIs a (b.onChan c f) c (f k) where
  here := by rw [Block.chan_onChan_same, h.here]
  others := fun d hd => (Block.chan_onChan_ne b f hd).trans (h.others d hd)

/-- What leaves the channels alone leaves each of them as it has become. -/
theorem ChanIs.keeps {l : List Part} (h : ChanIs a b c k) (hx : Keeps l b x) (hl : l.contains .chans = false) : ChanIs a x c k := by
  have hchan (d : Nat) : x.chan d = b.chan d := by unfold Block.chan; rw [hx.chans_eq hl]
  exact ⟨(hchan c).trans h.here, fun d hd => (hchan d).trans (h.others d hd)⟩

theorem ChanIs.bump (h : ChanIs a b c k) (key n : Nat) : ChanIs a (b.bump key n) c k :=
  h.keeps (Block.bump_keeps (.refl [.regs] b) rfl) rfl

theorem ChanIs.raiseOnce (h : ChanIs a b c k) (n i : Nat) (l : List Fld) : ChanIs a (b.raiseOnce n i l) c k :=
  h.keeps (Block.raiseOnce_keeps (.refl [.regs, .ev] b) rfl) rfl

theorem ChanIs.iuEdge (h : ChanIs a b c k) (selector t : Nat) : ChanIs a (b.iuEdge selector t) c k :=
  h.keeps (Block.iuEdge_keeps (.refl [.iu] b) rfl) rfl

theorem ChanIs.orphans (h : ChanIs a b c k) (n : Nat) : ChanIs a (b.orphans c n) c k :=
  h.keeps (Block.orphans_keeps (.refl [.regs, .ev] b) rfl) rfl

theorem ChanIs.setSilent (h : ChanIs a b c k) (v : Bool) : ChanIs a (b.setSilent c v) c k :=
  h.keeps (Block.setSilent_keeps (.refl [.regs] b) rfl) rfl

theorem ChanIs.addPair (h : ChanIs a b c k) (p : Pair) : ChanIs a (b.addPair p) c k :=
  h.keeps (Block.addPair_keeps (.refl [.adc, .regs] b) rfl) rfl

theorem ChanIs.countLead (h : ChanIs a b c k) (t : Nat) :
    ChanIs a (b.countLead c t) c { k with ltCount := k.ltCount + 1, lastLead := some t, high := true } := h.step _

theorem ChanIs.heard (h : ChanIs a b c k) : ChanIs a (b.heard c) c { k with timer := b.time.now, silent := false } := by
  unfold Block.heard
  dsimp only
  split
  · exact (h.setSilent false).step _
  · exact h.step _

theorem ChanIs.holdBusy (h : ChanIs a b c k) : ChanIs a (b.holdBusy c) c { k with busyOrbit := k.busyOrbit + 1 } :=
  ((h.step _).bump _ _).raiseOnce _ _ _

theorem ChanIs.closeEntry (h : ChanIs a b c k) (e : Entry) (t : Nat) : ChanIs a (b.closeEntry c e t) c (k.setLast (e.closeAt t)) :=
  (h.step _).iuEdge _ _

end

section

variable {b : Block} {key v : Nat}

theorem Reads.orphans (hb : Reads key v b) (c n : Nat) (hk : key ≠ 0x400002) : Reads key v (b.orphans c n) := by
  unfold Block.orphans
  exact .ite hb ((hb.bump _ hk).raiseOnce _ _ _)

theorem Reads.heard (hb : Reads key v b) (c : Nat) (hk : key ≠ 0x481201 + c / 32) : Reads key v (b.heard c) :=
  (Reads.ite (hb.setReg _ hk) hb).keeps (Block.onChan_keeps (.refl [.chans] _) rfl) rfl rfl rfl rfl

end

/-! ### The edges that a TDC ignores (R103) -/

theorem blindTo_eq_false_iff {last : Option Nat} {t : Nat} : blindTo last t = false ↔ ∀ l, last = some l → l + 512 ≤ t := by
  cases last with
  | none => simp [blindTo]
  | some l => exact decide_eq_false_iff_not.trans (Nat.not_lt.trans (by simp [deadTime]))

/-! ### An entry opens (R74, R75, R104, R105) -/

/-- The channel with its lower free bank taken until the hit's holds are due. -/
def Block.takenBank (b : Block) (c t : Nat) : Chan :=
  match (b.chan c).freeBank with
  | some n => (b.chan c).setBank n.val (.taken t (t + b.holdDelay b.active c))
  | none => b.chan c

/-- The hit stands in its queue and the trigger has its lead; the interval unit, the orphans and the timeout have not heard of it. -/
def Block.entered (b : Block) (c t : Nat) (p : Point) : Block :=
  let e := b.newEntry c t p
  let x := (b.onChan c fun _ => { b.takenBank c t with entries := (b.takenBank c t).entries ++ [e], htPend := [] }).countLead c t
  { x with leads := x.leads ++ e.leadsOf c x.time.now }

section

variable (b : Block) (c t : Nat) (p : Point)

theorem Block.openAt_eq : ∃ lost,
    let x := (((b.entered c t p).iuEdge (0x100 + c) t).orphans c lost).heard c
    b.openAt c t p = if (b.chan c).freeBank.isNone then x.holdBusy c else x := ⟨_, rfl⟩

theorem Block.takenBank_kept : (b.takenBank c t).entries = (b.chan c).entries ∧ (b.takenBank c t).ltCount = (b.chan c).ltCount ∧
    (b.takenBank c t).busyOrbit = (b.chan c).busyOrbit := by
  unfold Block.takenBank Chan.setBank
  split
  · split <;> exact ⟨rfl, rfl, rfl⟩
  · exact ⟨rfl, rfl, rfl⟩

theorem Block.entered_keeps : Keeps [.chans, .leads] b (b.entered c t p) :=
  .leads (Block.countLead_keeps (Block.onChan_keeps (.refl _ _) rfl) rfl) rfl

theorem Block.entered_chan : ChanIs b (b.entered c t p) c { b.takenBank c t with
    entries := (b.chan c).entries ++ [b.newEntry c t p], htPend := [], ltCount := (b.chan c).ltCount + 1, lastLead := some t,
    high := true } := by
  obtain ⟨hentries, hcount, -⟩ := b.takenBank_kept c t
  rw [← hentries, ← hcount]
  exact (((ChanIs.refl b c).step _).countLead t).keeps (.leads (.refl [.leads] _) rfl) rfl

theorem Block.openAt_chan : ChanIs b (b.openAt c t p) c { b.takenBank c t with
    entries := (b.chan c).entries ++ [b.newEntry c t p], htPend := [], ltCount := (b.chan c).ltCount + 1, lastLead := some t,
    high := true, timer := b.time.now, silent := false,
    busyOrbit := (b.chan c).busyOrbit + (if (b.chan c).freeBank = none then 1 else 0) } := by
  obtain ⟨lost, heq⟩ := b.openAt_eq c t p
  obtain ⟨-, -, hbusy⟩ := b.takenBank_kept c t
  have hnow : (((b.entered c t p).iuEdge (0x100 + c) t).orphans c lost).time.now = b.time.now :=
    (Block.orphans_keeps (Block.iuEdge_keeps ((b.entered_keeps c t p).widen (m := [.chans, .leads, .iu, .regs, .ev]) rfl) rfl) rfl).now_eq rfl
  have hchan := (((b.entered_chan c t p).iuEdge (0x100 + c) t).orphans lost).heard
  rw [hnow] at hchan
  rw [heq, ← hbusy]
  cases (b.chan c).freeBank with
  | none => exact hchan.holdBusy
  | some n => exact hchan

theorem Block.openAt_leads : (b.openAt c t p).leads = b.leads ++ (b.newEntry c t p).leadsOf c b.time.now := by
  obtain ⟨lost, heq⟩ := b.openAt_eq c t p
  have hrest : Keeps [.chans, .iu, .regs, .ev] (b.entered c t p) (b.openAt c t p) := by
    have hheard : Keeps [.chans, .iu, .regs, .ev] (b.entered c t p) ((((b.entered c t p).iuEdge (0x100 + c) t).orphans c lost).heard c) :=
      Block.heard_keeps (Block.orphans_keeps (Block.iuEdge_keeps (.refl _ _) rfl) rfl) rfl
    rw [heq]
    exact .ite (Block.holdBusy_keeps hheard rfl) hheard
  rw [hrest.leads_eq rfl]
  rfl

/-- A hit that finds no bank free is counted at its channel (R75). -/
theorem Block.openAt_busy (hc : c < 256) : (b.openAt c t p).reg (0x310004 + 256 * c) =
    b.reg (0x310004 + 256 * c) + (if (b.chan c).freeBank = none then 1 else 0) := by
  obtain ⟨lost, heq⟩ := b.openAt_eq c t p
  have hbefore : Reads (0x310004 + 256 * c) (b.reg (0x310004 + 256 * c)) ((b.entered c t p).iuEdge (0x100 + c) t) :=
    ⟨by omega, (Block.iuEdge_keeps ((b.entered_keeps c t p).widen (m := [.chans, .leads, .iu]) rfl) rfl).reg_eq rfl rfl rfl rfl _⟩
  have hheard := (hbefore.orphans c lost (by omega)).heard c (by omega)
  rw [heq]
  cases (b.chan c).freeBank with
  | none => exact (Block.reg_raiseOnce_low _ _ _ _ (by omega)).trans ((Block.reg_bump_same ..).trans (by rw [← hheard.reg]; rfl))
  | some n => exact hheard.reg

end

/-- An LT leading edge outside every dead time, with no entry open, opens one on an unmasked channel alone (R81, R103). -/
theorem Block.ltLead_free {b : Block} {c t : Nat} {p : Point} (hopen : (b.chan c).openEntry = none)
    (hlast : ∀ l, (b.chan c).lastLead = some l → l + 512 ≤ t) :
    b.ltLead c t p = if b.chMasked c then b.countLead c t else b.openAt c t p := by
  have hrise : b.ltRise c t p = if b.chMasked c then b.countLead c t else b.openAt c t p := by simp [Block.ltRise, Block.deadEnd, hopen]
  unfold Block.ltLead
  split
  · next l h => exact (if_neg (Nat.not_lt.mpr (hlast l h))).trans hrise
  · exact hrise

/-! ### An entry closes (R103, R104, R108) -/

section

variable {b : Block} {c : Nat} {e : Entry}

theorem Block.stampTrail_chan (b : Block) (c t : Nat) : ChanIs b (b.stampTrail c t) c { b.chan c with
    high := false,
    lastTrail := if !blindTo (b.chan c).lastTrail t && (!b.chMasked c || (b.chan c).openEntry.isSome) then some t
      else (b.chan c).lastTrail } := (ChanIs.refl b c).step _

/-- The interval unit has the trailing edge that closes an entry. -/
theorem Block.closeEntry_iu {x : Block} (h : Keeps [.chans] b x) (e : Entry) (t : Nat) :
    (x.closeEntry c e t).iu = (b.iuEdge (0x300 + c) t).iu := by
  have hx : Keeps [.chans] b (x.onChan c fun k => k.setLast (e.closeAt t)) := Block.onChan_keeps h rfl
  refine Block.iuEdge_congr (hx.iu_eq rfl) (fun p => ?_) _ _
  unfold Block.windowLen
  rw [hx.reg_eq rfl rfl rfl rfl]

theorem Block.ltTrail_none (t : Nat) (hopen : (b.chan c).openEntry = none) : b.ltTrail c t = b.stampTrail c t := by
  have h : ((b.stampTrail c t).chan c).openEntry = none := by rw [(b.stampTrail_chan c t).here]; exact hopen
  simp [Block.ltTrail, h]

/-- The channel once its trailing edge TDC has looked at an edge at instant t, with an entry open. -/
def Chan.fallen (k : Chan) (t : Nat) : Chan := { k with high := false, lastTrail := if blindTo k.lastTrail t then k.lastTrail else some t }

theorem Block.stampTrail_open (t : Nat) (hopen : (b.chan c).openEntry = some e) :
    ChanIs b (b.stampTrail c t) c ((b.chan c).fallen t) := by
  have h := b.stampTrail_chan c t
  rw [hopen] at h
  unfold Chan.fallen
  cases hblind : blindTo (b.chan c).lastTrail t <;> simpa [hblind] using h

theorem Block.ltTrail_some (t : Nat) (hopen : (b.chan c).openEntry = some e) : b.ltTrail c t =
    if e.lead + 8192 ≤ t then (b.stampTrail c t).onChan c fun k => k.setLast e.saturate
    else if e.lead + 512 ≤ t then (b.stampTrail c t).closeEntry c e ((b.chan c).fallStamp t)
    else if e.lead ≤ t then (b.stampTrail c t).onChan c fun k => k.setLast { e with fallAt := some ((b.chan c).fallStamp t) }
    else b.stampTrail c t := by
  have h : ((b.stampTrail c t).chan c).openEntry = some e := by rw [(b.stampTrail_open t hopen).here]; exact hopen
  simp only [Block.ltTrail, h]
  rfl

theorem Block.deadEnd_closes {f : Nat} (hopen : (b.chan c).openEntry = some e) (hfall : e.fallAt = some f)
    (hpast : e.lead + 512 < 2048 * (b.time.now + 1)) : b.deadEnd c = b.closeEntry c e f := by
  simp [Block.deadEnd, hopen, hfall, Block.past, deadTime, hpast]

theorem Block.mergeRise_merges {f t : Nat} (hopen : (b.chan c).openEntry = some e) (hfall : e.fallAt = some f) (ht : t < e.lead + 512) :
    b.mergeRise c t =
      (b.onChan c fun k => { k.setLast { e with merged := true, fallAt := none } with high := true }).bump 0x400004 1 := by
  simp [Block.mergeRise, hopen, hfall, deadTime, ht]

theorem Block.saturated_closes (hopen : (b.chan c).openEntry = some e) (hfall : e.fallAt = none)
    (hpast : e.lead + 8192 < 2048 * (b.time.now + 1)) : b.saturated c = b.onChan c fun k => k.setLast e.saturate := by
  simp [Block.saturated, hopen, hfall, Block.past, hpast]

end

/-- Settles O26: each edge, the dead time's end and saturation as what becomes of the channel. -/
theorem entriesOpenAndClose : Obligations.EntriesOpenAndClose := by
  unfold Obligations.EntriesOpenAndClose
  refine ⟨fun c p level s hrun hlevel hopen => ?_, fun c p level s hrun => ⟨fun hlow => ⟨?_, ?_⟩, fun hhigh => ?_⟩,
    fun c p level s hrun hlevel hopen => ?_, fun c e s hrun hopen => ⟨fun p level hlevel => ?_, fun f hfall hpast => ?_,
    fun p level f hlevel hfall ht => ?_, fun hfall hpast => ?_⟩⟩
  · intro k t e hlast
    have hlead := Block.ltLead_free (b := s.blk) (c := c.val) (t := t) (p := p) hopen hlast
    refine ⟨fun hmask => ?_, fun hmask => ?_⟩
    · refine does_of_when rfl (by simp [hrun, hlevel]) ?_
      rw [hlead, if_neg (by simp [hmask])]
      exact ⟨s.blk.openAt_chan c.val t p, s.blk.openAt_leads c.val t p, s.blk.openAt_busy c.val t p c.isLt⟩
    · refine does_of_when rfl (by simp [hrun, hlevel]) ?_
      rw [hlead, if_pos hmask]
      exact ⟨(ChanIs.refl _ _).countLead t, rfl⟩
  · exact exec_of_not_when rfl (by simp [hlow])
  · exact exec_of_not_when rfl (by simp [hlow])
  · exact exec_of_not_when rfl (by simp [hhigh])
  · refine does_of_when rfl (by simp [hrun, hlevel]) ?_
    rw [Block.ltTrail_none _ hopen]
    have h := s.blk.stampTrail_chan c.val (s.blk.absAt p)
    rwa [hopen, Option.isSome_none, Bool.or_false] at h
  · have hdoes {P : Block → Prop} (hP : P (s.blk.ltTrail c.val (s.blk.absAt p))) : Does (.ltTrailingEdge c p level) s P :=
      does_of_when rfl (by simp [hrun, hlevel]) hP
    have hfallen := Block.stampTrail_open (s.blk.absAt p) hopen
    intro t f k
    rw [Block.ltTrail_some _ hopen] at hdoes
    refine ⟨fun hlead hdead => hdoes ?_, fun hdead hlong => hdoes ?_, fun hlong => hdoes ?_⟩
    · rw [if_neg (by omega), if_neg (by omega), if_pos hlead]
      exact hfallen.step _
    · rw [if_neg (by omega), if_pos hdead]
      exact ⟨hfallen.closeEntry e f, Block.closeEntry_iu (Block.stampTrail_keeps (.refl _ _) rfl) e f⟩
    · rw [if_pos hlong]
      exact hfallen.step _
  · refine does_of_when rfl hrun ?_
    rw [Block.deadEnd_closes hopen hfall hpast]
    have hclose : e.closeAt f = { e with tot := totOf e.lead f, closed := some (max f (e.lead + 512) / 2048) } := by
      unfold Entry.closeAt; rw [← hfall]; rfl
    exact ⟨hclose ▸ (ChanIs.refl _ _).closeEntry e f, Block.closeEntry_iu (.refl _ _) e f⟩
  · refine does_of_when rfl (by simp [hrun, hlevel]) ?_
    rw [Block.mergeRise_merges hopen hfall ht]
    exact ⟨((ChanIs.refl _ _).step _).bump _ _, (Block.reg_bump_same ..).trans rfl⟩
  · refine does_of_when rfl hrun ?_
    rw [Block.saturated_closes hopen hfall hpast]
    exact (ChanIs.refl _ _).step _

/-! ### HT edges (R78, R105) -/

section

variable {b : Block} {c t : Nat} {e : Entry}

theorem Block.htLead_blind (hblind : blindTo (b.chan c).lastHt t = true) : b.htLead c t = b := by simp [Block.htLead, hblind]

theorem Block.htLead_first (hblind : blindTo (b.chan c).lastHt t = false) (hopen : (b.chan c).openEntry = some e) (hht : e.htDelta = none) :
    ChanIs b (b.htLead c t) c { (b.chan c).setLast { e with htDelta := some ((t : Int) - e.lead) } with lastHt := some t } := by
  have h := ((ChanIs.refl b c).iuEdge (0x200 + c) t).step fun k =>
    { k.setLast { e with htDelta := some ((t : Int) - e.lead) } with lastHt := some t }
  simp only [Block.htLead, hblind, hopen, hht]
  exact h.keeps (.leads (.refl [.leads] _) rfl) rfl

theorem Block.htLead_again (hblind : blindTo (b.chan c).lastHt t = false) (hopen : (b.chan c).openEntry = some e) (hht : e.htDelta ≠ none) :
    ChanIs b (b.htLead c t) c { (b.chan c).setLast { e with htExtra := true } with lastHt := some t } ∧
      (b.htLead c t).reg 0x400003 = b.reg 0x400003 + 1 := by
  have h := ((ChanIs.refl b c).iuEdge (0x200 + c) t).step fun k => { k.setLast { e with htExtra := true } with lastHt := some t }
  have heq : b.htLead c t = ((b.iuEdge (0x200 + c) t).onChan c fun k =>
      { k.setLast { e with htExtra := true } with lastHt := some t }).bump 0x400003 1 := by simp [Block.htLead, hblind, hopen, hht]
  rw [heq]
  exact ⟨h.bump _ _, (Block.reg_bump_same ..).trans rfl⟩

theorem Block.htLead_waits (hblind : blindTo (b.chan c).lastHt t = false) (hopen : (b.chan c).openEntry = none)
    (hmask : b.chMasked c = false) :
    ChanIs b (b.htLead c t) c { b.chan c with htPend := (b.chan c).htPend ++ [t], lastHt := some t } := by
  simp only [Block.htLead, hblind, hopen, hmask]
  exact ((ChanIs.refl b c).step _).iuEdge _ _

theorem Block.orphans_told (b : Block) (c : Nat) {n : Nat} (hn : n ≠ 0) :
    (b.orphans c n).reg 0x400002 = b.reg 0x400002 + n ∧ (b.orphans c n).latched 0x34 = true := by
  rw [Block.orphans, if_neg hn]
  exact ⟨(Block.reg_raiseOnce_low _ _ _ _ (by decide)).trans (Block.reg_bump_same ..), Block.latched_raiseOnce_self _ (by decide) _ _⟩

end

/-! ### Hold pairs (R68, R73, R131, R136, R532) -/

theorem Block.addPair_adc (b : Block) (p : Pair) : (b.addPair p).adc = { b.adc with pairs := b.adc.pairs ++ [p] } := by
  simp [Block.addPair]

theorem Block.holdClose_due {b : Block} {c n lead due : Nat} (htaken : (b.chan c).bank n = .taken lead due)
    (hdue : due < 2048 * (b.time.now + 1)) :
    b.holdClose c n = (b.onChan c fun k => k.setBank n (b.heldBank (b.setOf (lead / 2048)) c due)).addPair
      { ch := c, bank := n, elig := due / 1024 + 2 } := by
  simp [Block.holdClose, htaken, Block.past, hdue, periodOf]

theorem Block.holdClose_early {b : Block} {c n lead due : Nat} (htaken : (b.chan c).bank n = .taken lead due)
    (hdue : 2048 * (b.time.now + 1) ≤ due) : b.holdClose c n = b := by
  simp [Block.holdClose, htaken, Block.past, Nat.not_lt.mpr hdue]

theorem Block.holdClose_idle {b : Block} {c n : Nat} (hfree : ∀ lead due, (b.chan c).bank n ≠ .taken lead due) : b.holdClose c n = b := by
  unfold Block.holdClose
  split
  · next lead due htaken => exact absurd htaken (hfree lead due)
  · rfl

/-- The parts that a channel's timeout changes before its capture. -/
abbrev timeoutParts : List Part := [.chans, .regs, .ev]

section

variable {b x : Block} (hx : Keeps timeoutParts b x) (s : CfgSet) (c : Nat)

include hx

theorem Keeps.rsIn_eq (key : Nat) : x.rsIn s key = b.rsIn s key := by
  obtain ⟨hrole, hunit⟩ := hx.straps_eq rfl
  unfold Block.rsIn
  split
  · rfl
  · simp only [Block.defaultOf, Block.profileM, Block.cRole, hx.fuses_eq rfl, hrole, hunit]
    rfl

theorem Keeps.tPeakIn_eq : x.tPeakIn s = b.tPeakIn s := by unfold Block.tPeakIn; rw [hx.rsIn_eq]

theorem Keeps.shaped_eq (hpulses : (x.chan c).pulses = (b.chan c).pulses) (t : Nat) : x.shaped s c t = b.shaped s c t := by
  have hsign : x.signalSign s = b.signalSign s := by unfold Block.signalSign; rw [hx.rsIn_eq]
  have hpeaks (d : Nat) : x.peaks s d = b.peaks s d := by unfold Block.peaks; rw [hx.tPeakIn_eq, hx.time_eq rfl rfl]
  simp only [Block.shaped, hpulses, hsign, hpeaks]

theorem Keeps.pedestal_eq (hexcess : (x.chan c).excess = (b.chan c).excess) (low : Bool) : x.pedestal s c low = b.pedestal s c low := by
  have htrims : x.plateTrims s = b.plateTrims s := by unfold Block.plateTrims; rw [hx.rsIn_eq, hx.plate_eq rfl]
  have hsum : x.pedSumIn s c low = b.pedSumIn s c low := by unfold Block.pedSumIn; rw [hx.rsIn_eq, htrims, hx.plate_eq rfl]
  unfold Block.pedestal
  rw [hexcess, hsum]

/-- The code of a gain follows the set, the bookplate and the channel's charges and leakage (R532). -/
theorem Keeps.gainCode_eq (hpulses : (x.chan c).pulses = (b.chan c).pulses) (hexcess : (x.chan c).excess = (b.chan c).excess) (t : Nat)
    (low : Bool) : x.gainCode s c t low = b.gainCode s c t low := by
  unfold Block.gainCode
  rw [hx.shaped_eq s c hpulses, hx.pedestal_eq s c hexcess]

theorem Keeps.active_eq : x.active = b.active := by unfold Block.active; rw [hx.sets_eq rfl]

theorem Keeps.pileup_eq (hhigh : (x.chan c).high = (b.chan c).high) (hlead : (x.chan c).lastLead = (b.chan c).lastLead) (t : Nat) :
    x.pileup c t = b.pileup c t := by
  simp only [Block.pileup, hhigh, hlead, hx.active_eq, hx.tPeakIn_eq, hx.time_eq rfl rfl]

end

/-! ### The timeout (R136, R162) -/

/-- A channel whose counter has reached T, before its capture. -/
def Block.silenced (b : Block) (c : Nat) : Block :=
  let x := b.onChan c fun k => { k with silent := true, timer := b.time.now }
  if (b.chan c).silent then x else (x.setSilent c true).raiseOnce 0x50 0 [.id 8 c, x.hereFld]

section

variable (b : Block) (c : Nat)

theorem Block.silenced_keeps : Keeps timeoutParts b (b.silenced c) := by
  have h : Keeps timeoutParts b (b.onChan c fun k => { k with silent := true, timer := b.time.now }) := Block.onChan_keeps (.refl _ _) rfl
  exact .ite h (Block.raiseOnce_keeps (Block.setSilent_keeps h rfl) rfl)

theorem Block.silenced_chan : ChanIs b (b.silenced c) c { b.chan c with silent := true, timer := b.time.now } := by
  have h := (ChanIs.refl b c).step fun k => { k with silent := true, timer := b.time.now }
  unfold Block.silenced
  dsimp only
  split
  · exact h
  · exact (h.setSilent true).raiseOnce _ _ _

theorem Block.silenced_told (hsilent : (b.chan c).silent = false) : (b.silenced c).latched 0x50 = true := by
  rw [Block.silenced, if_neg (by simp [hsilent])]
  exact Block.latched_raiseOnce_self _ (by decide) _ _

theorem Block.timeout_eq : b.timeout c =
    if (b.rs (0x490001 + 256 * c)).testBit 30 then (b.silenced c).capture c else b.silenced c := by
  show (if ((b.silenced c).rs _).testBit 30 then _ else _) = _
  rw [(b.silenced_keeps c).rs_eq rfl rfl rfl]
  rfl

/-- A capture holds the baseline that the channel stands at in a bank that is free. -/
theorem Block.capture_some {n : Fin 2} (hfree : (b.chan c).freeBank = some n) : b.capture c =
    (b.onChan c fun k => k.setBank n.val (b.heldBank b.active c (2048 * b.time.now))).addPair
      ⟨c, n.val, 2 * b.time.now + 2, true, b.pileup c (2048 * b.time.now), b.affected b.time.now, true⟩ := by
  have hperiod : periodOf (2048 * b.time.now) = 2 * b.time.now := by unfold periodOf; omega
  simp [Block.capture, hfree, hperiod]

/-- The capture of a timeout is that of the block before it: nothing that it reads has changed. -/
theorem Block.timeout_captures {n : Fin 2} (hcapture : (b.rs (0x490001 + 256 * c)).testBit 30 = true)
    (hfree : (b.chan c).freeBank = some n) : b.timeout c =
      ((b.silenced c).onChan c fun k => k.setBank n.val (b.heldBank b.active c (2048 * b.time.now))).addPair
        ⟨c, n.val, 2 * b.time.now + 2, true, b.pileup c (2048 * b.time.now), b.affected b.time.now, true⟩ := by
  have hkeeps := b.silenced_keeps c
  have hhere := (b.silenced_chan c).here
  have hcode (t : Nat) (low : Bool) : (b.silenced c).gainCode b.active c t low = b.gainCode b.active c t low :=
    hkeeps.gainCode_eq _ _ (by rw [hhere]) (by rw [hhere]) t low
  have hpileup := hkeeps.pileup_eq c (by rw [hhere]) (by rw [hhere])
  rw [Block.timeout_eq, if_pos hcapture, Block.capture_some _ _ (n := n) (by rw [hhere]; exact hfree)]
  simp only [Block.heldBank, Block.affected, hkeeps.active_eq, hkeeps.now_eq rfl, hkeeps.env_eq rfl, hcode, hpileup]

end

/-- Settles O27: each edge, hold and count that has come due as what becomes of the channel. -/
theorem channelsAreServed : Obligations.ChannelsAreServed := by
  unfold Obligations.ChannelsAreServed
  refine ⟨fun c s hrun => ⟨fun p level => ⟨fun hlow => ?_, fun h hlast hblind => ?_, fun hlevel hlast => ?_⟩, fun hgone => ?_⟩,
    fun c s => ⟨fun n hrun => ⟨fun lead due htaken hdue => ?_, fun lead due htaken hdue => ?_, fun hfree => ?_⟩,
      fun t hsettle hover => ?_, fun t hsettle hlater => ?_, fun hrun hmask hwatched hdue => ?_⟩⟩
  · exact exec_of_not_when rfl (by simp [hlow])
  · have hblind : blindTo (s.blk.chan c.val).lastHt (s.blk.absAt p) = true := by rw [hlast]; exact decide_eq_true hblind
    exact exec_of_when_same rfl (Block.htLead_blind hblind)
  · have hblind := blindTo_eq_false_iff.mpr hlast
    have hdoes {P : Block → Prop} (hP : P (s.blk.htLead c.val (s.blk.absAt p))) : Does (.htLeadingEdge c p level) s P :=
      does_of_when rfl (by simp [hrun, hlevel]) hP
    exact ⟨fun e hopen hht => hdoes (Block.htLead_first hblind hopen hht), fun e hopen hht => hdoes (Block.htLead_again hblind hopen hht),
      fun hopen hmask => hdoes (Block.htLead_waits hblind hopen hmask)⟩
  · exact does_of_when rfl hrun ⟨((ChanIs.refl _ _).step _).orphans _, Block.orphans_told _ _ fun h => hgone (List.length_eq_zero_iff.mp h)⟩
  · refine does_of_when rfl hrun ?_
    rw [Block.holdClose_due htaken hdue]
    exact ⟨((ChanIs.refl _ _).step _).addPair _, Block.addPair_adc ..⟩
  · exact exec_of_when_same rfl (Block.holdClose_early htaken hdue)
  · exact exec_of_when_same rfl (Block.holdClose_idle hfree)
  · exact does_of_when rfl (by simp [hsettle, Block.settling, Nat.not_lt.mpr hover]) ((ChanIs.refl _ _).step _)
  · exact exec_of_not_when rfl (by simp [hsettle, Block.settling, hlater])
  · have hdoes {P : Block → Prop} (hP : P (s.blk.timeout c.val)) : Does (.channelTimeout c) s P :=
      does_of_when rfl (by simp [hrun, hmask, hwatched, hdue]) hP
    refine ⟨fun hnone => hdoes ?_, fun n hcapture hfree => hdoes ?_⟩
    · rw [Block.timeout_eq, if_neg (by simp [hnone])]
      exact ⟨s.blk.silenced_chan c.val, (s.blk.silenced_keeps c.val).adc_eq rfl, s.blk.silenced_told c.val⟩
    · rw [Block.timeout_captures _ _ hcapture hfree]
      refine ⟨((s.blk.silenced_chan c.val).step _).addPair _, ?_⟩
      rw [Block.addPair_adc, Block.onChan_adc, (s.blk.silenced_keeps c.val).adc_eq rfl]

end Sys2Proof.Machine
end

section
/-! PROOFS. Bin calibration (R101, R110 to R112, R498): an iteration counted, its trims moved, its state judged. -/

namespace Sys2Proof.Machine

section

variable {k v : Nat} {b : Block}

theorem Reads.onBin (hb : Reads k v b) (f : BinCal → BinCal) : Reads k v (b.onBin f) := hb.same rfl

theorem Reads.moveTrims (hb : Reads k v b) (steps : List Int) : Reads k v (b.moveTrims steps) :=
  Reads.forEach (hb.onBin _) fun _ _ _ hx => hx.raise _ _

theorem Reads.binLinear (hb : Reads k v b) (worst : Nat × Nat) : Reads k v (b.binLinear worst) :=
  .ite ((hb.onBin _).raise _ _) (.ite ((hb.onBin _).raise _ _) hb)

theorem Reads.binConverge (hb : Reads k v b) (worst : Nat × Nat) (hk : k ≠ keyBinState) : Reads k v (b.binConverge worst) :=
  .ite ((((hb.onBin _).setReg _ hk).onBin _).raise _ _) (.ite (((hb.onBin _).setReg _ hk).raise _ _) (hb.onBin _))

end

section

variable (b : Block) (counts : List Nat)

/-- The trims after a step of every tap. -/
def Block.trimsBy (b : Block) (steps : List Int) : List Nat :=
  (b.trimBase.1.zip ((b.trimBase.2.zip steps).map fun q => q.1 + q.2)).map fun q => trimBy q.1 (clampI (-1) 1 q.2)

theorem Block.moveTrims_bin (steps : List Int) : ∃ base moved at_,
    (b.moveTrims steps).bin = { b.bin with trims := b.trimsBy steps, base := base, moved := moved, movedAt := at_ } :=
  ⟨_, _, _, (Keeps.forEach (.refl [.regs, .ev] _) fun _ _ hx => Block.raise_keeps hx rfl).bin_eq rfl⟩

theorem Block.binLinear_bin (worst : Nat × Nat) : ∃ high, (b.binLinear worst).bin = { b.bin with high := high } := by
  unfold Block.binLinear
  split
  · exact ⟨true, Block.raise_bin ..⟩
  · split
    · exact ⟨false, Block.raise_bin ..⟩
    · exact ⟨b.bin.high, rfl⟩

theorem Block.binConverge_bin (worst : Nat × Nat) : ∃ since high,
    (b.binConverge worst).bin = { b.bin with since := since, high := high } := by
  unfold Block.binConverge
  dsimp only
  split
  · exact ⟨_, false, Block.raise_bin ..⟩
  · split
    · exact ⟨_, b.bin.high, Block.raise_bin ..⟩
    · exact ⟨_, b.bin.high, rfl⟩

/-- The iteration counted, with its counts and its largest DNL. -/
def Block.binCounted : Block :=
  ((b.bump 0x400104 1).setReg 0x400103 (dnlMilli (worstBin counts).1)).onBin fun k => { k with counts := counts }

/-- The trims moved, where calibration is enabled. -/
def Block.binMoved : Block :=
  if b.reg 0x400102 = 1 then (b.binCounted counts).moveTrims (counts.map trimStep) else b.binCounted counts

/-- The state judged in CONVERGED, and outside it where calibration is enabled. -/
def Block.binJudged : Block :=
  if b.reg keyBinState = 2 then (b.binMoved counts).binLinear (worstBin counts)
  else if b.reg 0x400102 = 1 then (b.binMoved counts).binConverge (worstBin counts)
  else b.binMoved counts

theorem Block.binMoved_reads {k : Nat} (h : k < 0x600000) (hcount : k ≠ 0x400104) (hdnl : k ≠ 0x400103) :
    Reads k (b.reg k) (b.binMoved counts) := by
  have hcounted : Reads k (b.reg k) (b.binCounted counts) := (Reads.setReg (Reads.bump ⟨h, rfl⟩ _ hcount) _ hdnl).onBin _
  exact .ite (hcounted.moveTrims _) hcounted

theorem Block.binMoved_counters : Reads 0x400104 (b.reg 0x400104 + 1) (b.binMoved counts) ∧
    Reads 0x400103 (dnlMilli (worstBin counts).1) (b.binMoved counts) := by
  have hcount : Reads 0x400104 (b.reg 0x400104 + 1) (b.binCounted counts) :=
    (Reads.setReg ⟨by decide, Block.reg_bump_same ..⟩ _ (by decide)).onBin _
  have hdnl : Reads 0x400103 (dnlMilli (worstBin counts).1) (b.binCounted counts) := Reads.onBin ⟨by decide, Block.reg_setReg_same ..⟩ _
  exact ⟨.ite (hcount.moveTrims _) hcount, .ite (hdnl.moveTrims _) hdnl⟩

theorem Block.binMoved_bin : (b.binMoved counts).bin.counts = counts ∧ (b.binMoved counts).bin.since = b.bin.since ∧
    (b.binMoved counts).bin.trims = if b.reg 0x400102 = 1 then b.trimsBy (counts.map trimStep) else b.bin.trims := by
  have hbin : (b.binCounted counts).bin = { b.bin with counts := counts } := by
    show ({ ((b.bump 0x400104 1).setReg _ _).bin with counts := counts } : BinCal) = _
    rw [Block.setReg_bin, Block.bump_bin]
  have htime : (b.binCounted counts).time = b.time := Block.bump_time b _ _
  have hby (steps : List Int) : (b.binCounted counts).trimsBy steps = b.trimsBy steps := by
    unfold Block.trimsBy Block.trimBase
    rw [hbin, htime]
  unfold Block.binMoved
  split
  · obtain ⟨base, moved, at_, h⟩ := (b.binCounted counts).moveTrims_bin (counts.map trimStep)
    rw [h, hby, hbin]
    exact ⟨rfl, rfl, rfl⟩
  · rw [hbin]
    exact ⟨rfl, rfl, rfl⟩

theorem Block.binJudged_reads {k v : Nat} (h : Reads k v (b.binMoved counts)) (hstate : k ≠ keyBinState) :
    Reads k v (b.binJudged counts) := .ite (h.binLinear _) (.ite (h.binConverge _ hstate) h)

theorem Block.binJudged_bin : ∃ since high, (b.binJudged counts).bin = { (b.binMoved counts).bin with since := since, high := high } := by
  unfold Block.binJudged
  split
  · exact ⟨_, (b.binMoved counts).binLinear_bin _⟩
  · split
    · exact (b.binMoved counts).binConverge_bin _
    · exact ⟨_, _, rfl⟩

/-- An iteration is the judged block with LINEARITY_IN_SPEC. -/
theorem Block.binIteration_eq : b.binIteration counts = (b.binJudged counts).setReg keyLinear
    (flag ((b.binJudged counts).reg keyBinState == 2 && decide (10 * (worstBin counts).1 ≤ 3 * 4096))) := by
  have hstate : (b.binMoved counts).reg keyBinState = b.reg keyBinState := (b.binMoved_reads counts (by decide) (by decide) (by decide)).reg
  have hmoved : (b.binCounted counts).when (b.reg 0x400102 == 1) (fun b => b.moveTrims (counts.map trimStep)) = b.binMoved counts := by
    simp only [Block.when, Block.binMoved, beq_iff_eq]
  have hjudged : (if (b.binMoved counts).reg keyBinState = 2 then (b.binMoved counts).binLinear (worstBin counts)
      else (b.binMoved counts).when (b.reg 0x400102 == 1) fun b => b.binConverge (worstBin counts)) = b.binJudged counts := by
    simp only [hstate, Block.when, Block.binJudged, beq_iff_eq]
  rw [← hjudged, ← hmoved]
  rfl

end

section

variable {b : Block} {counts : List Nat}

/-- No state of calibration is judged anew while it is disabled (R112). -/
theorem Block.binJudged_disabled (hoff : b.reg 0x400102 ≠ 1) : (b.binJudged counts).reg keyBinState = b.reg keyBinState := by
  have h := b.binMoved_reads counts (k := keyBinState) (by decide) (by decide) (by decide)
  unfold Block.binJudged
  rw [if_neg hoff]
  exact (Reads.ite (h.binLinear _) h).reg

/-- Every bin within 0.25 LSB_phi: the state becomes CONVERGED. -/
theorem Block.binJudged_converges (hon : b.reg 0x400102 = 1) (hstate : b.reg keyBinState ≠ 2) (hworst : (worstBin counts).1 ≤ 1024) :
    (b.binJudged counts).reg keyBinState = 2 ∧ (b.binJudged counts).latched 0x30 = true := by
  rw [Block.binJudged, if_neg hstate, if_pos hon, Block.binConverge, if_pos hworst]
  exact ⟨(Block.reg_raise_low _ _ _ (by decide)).trans (Block.reg_setReg_same ..), Block.latched_raise_self _ (by decide) _⟩

/-- The sixteenth iteration of CONVERGING with a bin outside: the state becomes FAILED. -/
theorem Block.binJudged_fails (hon : b.reg 0x400102 = 1) (hstate : b.reg keyBinState = 1) (hworst : 1024 < (worstBin counts).1)
    (hsince : 15 ≤ b.bin.since) :
    (b.binJudged counts).reg keyBinState = 3 ∧ (b.binJudged counts).latched 0x31 = true := by
  have hreg : (b.binMoved counts).reg keyBinState = 1 := (b.binMoved_reads counts (by decide) (by decide) (by decide)).reg.trans hstate
  obtain ⟨-, hkept, -⟩ := b.binMoved_bin counts
  have hlong : 16 ≤ (b.binMoved counts).bin.since + 1 := by omega
  rw [Block.binJudged, if_neg (by omega), if_pos hon, Block.binConverge, if_neg (by omega),
    if_pos ⟨hreg, hlong⟩]
  exact ⟨(Block.reg_raise_low _ _ _ (by decide)).trans (Block.reg_setReg_same ..), Block.latched_raise_self _ (by decide) _⟩

/-- A bin outside 0.3 LSB_phi in CONVERGED is told, and the state stays (R111). -/
theorem Block.binJudged_high (hstate : b.reg keyBinState = 2) (hworst : 3 * 4096 < 10 * (worstBin counts).1) :
    (b.binJudged counts).reg keyBinState = 2 ∧ (b.binJudged counts).bin.high = true ∧ (b.binJudged counts).latched 0x32 = true := by
  have hreg := (b.binMoved_reads counts (k := keyBinState) (by decide) (by decide) (by decide)).binLinear (worstBin counts)
  rw [hstate] at hreg
  rw [Block.binJudged, if_pos hstate]
  refine ⟨hreg.reg, ?_⟩
  rw [Block.binLinear, if_pos hworst]
  exact ⟨by rw [Block.raise_bin]; rfl, Block.latched_raise_self _ (by decide) _⟩

theorem exec_binCalIterationEnd {s : State} (hlen : counts.length = 64) (hrun : s.blk.running = true) (hlock : s.blk.time.everLocked = true) :
    exec (.binCalIterationEnd counts) s = .next { s with blk := s.blk.binIteration counts } := by
  show execBinCalIterationEnd counts s = _
  simp [execBinCalIterationEnd, State.runIf, State.run, wellFormed, Block.when, hlen, hrun, hlock]

end

/-- Settles O29: an iteration counts, moves the trims, judges the state and names its linearity, in this order. -/
theorem binCalibrationIterates : Obligations.BinCalibrationIterates := by
  unfold Obligations.BinCalibrationIterates
  intro counts s hlen hrun hlock worst from_
  refine does_of_next (exec_binCalIterationEnd hlen hrun hlock) ?_
  obtain ⟨hcount, hdnl⟩ := s.blk.binMoved_counters counts
  obtain ⟨hcounts, -, htrims⟩ := s.blk.binMoved_bin counts
  obtain ⟨since, high, hbin⟩ := s.blk.binJudged_bin counts
  have hstate (x : Block) (n : Nat) : (x.setReg keyLinear n).reg 0x400101 = x.reg keyBinState := Block.reg_setReg_ne _ _ (by decide)
  have hlinear (x : Block) (n : Nat) : (x.setReg keyLinear n).reg 0x400107 = n := Block.reg_setReg_same _ _ _
  have hlatched (x : Block) (n m : Nat) : (x.setReg keyLinear n).latched m = x.latched m := Block.latched_setReg _ _ (by decide)
  rw [Block.binIteration_eq]
  refine ⟨?_, ?_, ?_, ?_, fun hoff => ?_, fun hon hout hsmall => ?_, fun hon hconv hlarge hlong => ?_, fun hin hlarge => ?_⟩
  · rw [Block.setReg_bin, hbin]; exact hcounts
  · exact ((s.blk.binJudged_reads counts hcount (by decide)).setReg _ (by decide)).reg
  · exact ((s.blk.binJudged_reads counts hdnl (by decide)).setReg _ (by decide)).reg
  · rw [Block.setReg_bin, hbin]; exact htrims
  · rw [hstate]; exact Block.binJudged_disabled hoff
  · obtain ⟨hnew, htold⟩ := Block.binJudged_converges hon hout hsmall
    rw [hstate, hlatched, hlinear, hnew, decide_eq_true (show 10 * (worstBin counts).1 ≤ 3 * 4096 by omega)]
    exact ⟨rfl, htold, rfl⟩
  · obtain ⟨hnew, htold⟩ := Block.binJudged_fails hon hconv hlarge hlong
    rw [hstate, hlatched, hlinear, hnew]
    exact ⟨rfl, htold, rfl⟩
  · obtain ⟨hnew, hhigh, htold⟩ := Block.binJudged_high hin hlarge
    rw [hstate, hlatched, hlinear, hnew, decide_eq_false (Nat.not_le.mpr hlarge)]
    exact ⟨rfl, hhigh, htold, rfl⟩

end Sys2Proof.Machine
end

section
/-! PROOFS. The interval unit (R103, R114, R116 to R119): an edge on ARM and the arm it makes, a shot and the campaign that it may end. -/

namespace Sys2Proof.Machine

/-! ### An arm (R103, R114, R116, R118) -/

/-- The window of the interval unit, if one is open, has not ended. -/
def Block.windowLasts (b : Block) : Prop := ∀ p a, b.iu.window = some (p, a) → b.time.now < a + b.windowLen p

section

variable {b : Block} {p src : Nat}

theorem Block.iuEdge_iu (b : Block) (selector t : Nat) : ∃ l, (b.iuEdge selector t).iu = { b.iu with edges := l } := by
  unfold Block.iuEdge
  simp only [Block.onIu_iu]
  split
  · split
    · exact ⟨b.iu.edges, rfl⟩
    · exact ⟨_, rfl⟩
  · exact ⟨_, rfl⟩

/-- The interval unit once the ARM ball's TDC has looked at an edge. -/
theorem Block.stampArm_iu (b : Block) (falling : Bool) (t : Nat) : (b.stampArm falling t).iu =
    if blindTo (if falling then b.iu.lastFall else b.iu.lastRise) t then b.iu
    else if falling then { (b.iuEdge 2 t).iu with lastFall := some t } else { (b.iuEdge 1 t).iu with lastRise := some t } := by
  cases falling <;> exact apply_ite Block.iu _ _ _

/-- An edge that is stamped changes the edges and their TDC alone. -/
theorem Block.stampArm_rest (b : Block) (falling : Bool) (t : Nat) : ∃ l rise fall,
    (b.stampArm falling t).iu = { b.iu with edges := l, lastRise := rise, lastFall := fall } := by
  obtain ⟨l, h⟩ := b.iuEdge_iu (if falling then 2 else 1) t
  unfold Block.stampArm
  by_cases hblind : blindTo (if falling then b.iu.lastFall else b.iu.lastRise) t = true
  · rw [if_pos hblind]
    exact ⟨_, _, _, rfl⟩
  · rw [if_neg hblind, Block.onIu_iu, h]
    cases falling <;> exact ⟨l, _, _, rfl⟩

theorem Block.stampArm_reg (b : Block) (falling : Bool) (t k : Nat) : (b.stampArm falling t).reg k = b.reg k :=
  (Block.stampArm_keeps (.refl [.iu] b) rfl).reg_eq rfl rfl rfl rfl k

theorem Block.stampArm_time (b : Block) (falling : Bool) (t : Nat) : (b.stampArm falling t).time = b.time :=
  (Block.stampArm_keeps (.refl [.iu] b) rfl).time_eq rfl rfl

theorem Block.stampArm_lasts (falling : Bool) (t : Nat) (h : b.windowLasts) : (b.stampArm falling t).windowLasts := by
  obtain ⟨l, rise, fall, hiu⟩ := b.stampArm_rest falling t
  intro p a hwindow
  rw [hiu] at hwindow
  have hlen : (b.stampArm falling t).windowLen p = b.windowLen p := by unfold Block.windowLen; rw [Block.stampArm_reg]
  rw [hlen, Block.stampArm_time]
  exact h p a hwindow

theorem Block.armEdge_other {falling : Bool} {t : Nat} (hpolarity : b.reg 0x401002 ≠ flag falling) :
    b.armEdge falling t = b.stampArm falling t := by
  rw [← b.stampArm_reg falling t] at hpolarity
  exact if_neg hpolarity

theorem Block.armEdge_arms {falling : Bool} {t : Nat} (hpolarity : b.reg 0x401002 = flag falling) :
    b.armEdge falling t = (b.stampArm falling t).arm (b.reg 0x401001 % 16) 2 := by
  rw [← b.stampArm_reg falling t 0x401002] at hpolarity
  rw [← b.stampArm_reg falling t 0x401001]
  exact if_pos hpolarity

theorem Block.shotDone_lasts (h : b.windowLasts) : b.shotDone = b := by
  unfold Block.shotDone
  split
  · next p a hwindow => exact if_neg (Nat.not_le.mpr (h p a hwindow))
  · rfl

/-- The arm of a programme that is disabled or whose campaign has ended is refused (R118). -/
theorem Block.arm_invalid (hlasts : b.windowLasts) (h : (b.reg (progKey p 1)).testBit 31 = false ∨ p ∈ b.iu.ended) :
    b.arm p src = b.armInvalid p src := by
  unfold Block.arm
  rw [Block.shotDone_lasts hlasts]
  exact if_pos (by simpa using h)

/-- An arm while a window is open gives way to it (R118). -/
theorem Block.arm_overlaps (hlasts : b.windowLasts) (henabled : (b.reg (progKey p 1)).testBit 31 = true) (hended : p ∉ b.iu.ended)
    (harms : b.iu.armsAt ≠ b.time.now) (hwindow : b.iu.window.isSome = true) :
    b.arm p src = (b.onIu fun i => { i with armsAt := b.time.now, armed := [] }).armOverlap p := by
  unfold Block.arm
  rw [Block.shotDone_lasts hlasts]
  simp [henabled, hended, harms, hwindow]

theorem Block.armOverlap_leaves (b : Block) (p : Nat) : (b.armOverlap p).iu = b.iu ∧
    (b.armOverlap p).reg 0x401005 = b.reg 0x401005 + 1 ∧ (b.armOverlap p).latched 0x36 = true :=
  ⟨(Block.armOverlap_keeps (.refl [.regs, .ev] b) rfl).iu_eq rfl,
    (Block.reg_raise_low _ _ _ (by decide)).trans (Block.reg_bump_same ..), Block.latched_raise_self _ (by decide) _⟩

/-- The interval unit with a shot's window opened in the present crossing, and a campaign begun where none runs (R116, R119). -/
theorem Block.arm_opens_iu (henabled : (b.reg (progKey p 1)).testBit 31 = true) (hended : p ∉ b.iu.ended) (hwindow : b.iu.window = none)
    (hcampaign : b.iu.campaign = none ∨ b.iu.campaign = some p) (harms : b.iu.armsAt ≠ b.time.now) :
    (b.arm p src).iu = { b.iu with
      campaign := some p, shots := if b.iu.campaign = none then 0 else b.iu.shots, acc := if b.iu.campaign = none then [] else b.iu.acc,
      fresh := b.iu.campaign.isNone, window := some (p, b.time.now), armsAt := b.time.now, armed := [src] } := by
  rw [Block.arm_opens henabled hended hwindow hcampaign harms]
  rcases hcampaign with h | h <;> simp [Block.openWindow, h]

end

/-! ### A shot (R117, R119) -/

/-- Between two blocks no more of the interval unit than the campaign's accumulators has changed, and no entry below 4200. -/
structure StopsOnly (a b : Block) : Prop where
  iu  : ∃ acc, b.iu = { a.iu with acc := acc }
  reg : ∀ k < 0x420000, b.reg k = a.reg k

section

variable {a b : Block}

theorem StopsOnly.refl (b : Block) : StopsOnly b b := ⟨⟨_, rfl⟩, fun _ _ => rfl⟩

theorem StopsOnly.setStop (h : StopsOnly a b) (s e v : Nat) : StopsOnly a (b.setReg (stopKey s e) v) where
  iu := h.iu
  reg := fun k hk => (Block.reg_setReg_ne b v (by unfold stopKey; omega)).trans (h.reg k hk)

theorem StopsOnly.onAcc (h : StopsOnly a b) (f : Interval → Tab StopAcc) : StopsOnly a (b.onIu fun i => { i with acc := f i }) where
  iu := by
    obtain ⟨acc, hacc⟩ := h.iu
    exact ⟨_, by rw [Block.onIu_iu, hacc]⟩
  reg := h.reg

theorem StopsOnly.shotStop (h : StopsOnly a b) (start : Option Nat) (exclude : Bool) (x w s selector : Nat) :
    StopsOnly a (b.shotStop start exclude x w s selector) := by
  unfold Block.shotStop
  split
  · exact ((h.setStop _ _ _).setStop _ _ _).onAcc _
  · exact (h.setStop _ _ _).onAcc _
  · exact h.setStop _ _ _
  · exact h.setStop _ _ _

theorem StopsOnly.latchStop (h : StopsOnly a b) (s : Nat) : StopsOnly a (b.latchStop s) :=
  (((((((h.setStop s 1 _).setStop s 2 _).setStop s 3 _).setStop s 4 _).setStop s 5 _).setStop s 6 _).setStop s 7 _).setStop s 8 _

theorem StopsOnly.forEach {α : Type} {l : List α} {f : α → Block → Block} (h : StopsOnly a b)
    (hf : ∀ i x, StopsOnly a x → StopsOnly a (f i x)) : StopsOnly a (forEach l b f) :=
  List.foldlRecOn (motive := StopsOnly a) l _ h fun x hx i _ => hf i x hx

end

/-- The first start edge of a shot of programme p armed in crossing a (R117). -/
def Block.shotStart (b : Block) (p a : Nat) : Option Nat := b.iu.firstEdge a (b.windowLen p) (b.reg (progKey p 2))

/-- The block with the stops of a shot taken. -/
def Block.stopsTaken (b : Block) (p a : Nat) : Block :=
  let cfg := b.reg (progKey p 1)
  forEach ((List.range (bits cfg 28 24 + 1)).map fun k => (k, b.reg (progKey p (3 + k)))) b fun q x =>
    x.shotStop (b.shotStart p a) (cfg.testBit 29) a (b.windowLen p) q.1 q.2

/-- The block with a shot's stops taken and its window closed. -/
def Block.shotClosed (b : Block) (p a : Nat) : Block :=
  (b.stopsTaken p a).onIu fun i => { i with window := none, edges := i.edges.filter fun e => decide ((b.stopsTaken p a).time.now ≤ e.2.1) }

section

variable (b : Block) (p a : Nat)

theorem Block.stopsTaken_only : StopsOnly b (b.stopsTaken p a) := .forEach (.refl b) fun _ _ hx => hx.shotStop _ _ _ _ _ _

theorem Block.shotClosed_iu : ∃ l acc, (b.shotClosed p a).iu = { b.iu with window := none, edges := l, acc := acc } := by
  obtain ⟨acc, h⟩ := (b.stopsTaken_only p a).iu
  exact ⟨_, acc, by rw [Block.shotClosed, Block.onIu_iu, h]⟩

theorem Block.shotClosed_reg {k : Nat} (hk : k < 0x420000) : (b.shotClosed p a).reg k = b.reg k := (b.stopsTaken_only p a).reg k hk

theorem Block.shotEnd_eq : b.shotEnd p a =
    if (b.shotStart p a).isNone then
      let x := (b.shotClosed p a).bump 0x401007 1
      x.raiseOnce 0x37 0 [.id 8 p, x.hereFld]
    else
      let x := (b.shotClosed p a).onIu fun i => { i with shots := i.shots + 1 }
      if 2 ^ bits (b.reg (progKey p 1)) 23 19 ≤ x.iu.shots then x.campaignEnd p (b.reg (progKey p 1)) else x := rfl

theorem Block.windowLen_eq : b.windowLen p = bits (b.reg (progKey p 1)) 18 9 + 1 := by
  have hkey : 0x410001 + 256 * p = progKey p 1 := by unfold progKey; omega
  unfold Block.windowLen
  rw [hkey]

theorem Block.campaignEnd_iu (cfg : Nat) : ∃ acc, (b.campaignEnd p cfg).iu = { b.iu with
    campaign := none, shots := 0, acc := acc, ended := if cfg.testBit 30 then b.iu.ended else b.iu.ended ++ [p] } := by
  have hstops : StopsOnly b (forEach (List.range (bits cfg 28 24 + 1)) b fun s b => b.latchStop s) :=
    .forEach (.refl b) fun s _ hx => hx.latchStop s
  obtain ⟨acc, hiu⟩ := hstops.iu
  exact ⟨[], by rw [Block.campaignEnd, Block.raise_iu, Block.onIu_iu, hiu]⟩

theorem Block.campaignEnd_told (cfg : Nat) : (b.campaignEnd p cfg).latched 0x35 = true := Block.latched_raise_self _ (by decide) _

end

section

variable {b : Block} {p a : Nat}

/-- A shot with no start edge in its window is void (R117). -/
theorem Block.shotEnd_void (hstart : b.shotStart p a = none) :
    (∃ l acc, (b.shotEnd p a).iu = { b.iu with window := none, edges := l, acc := acc }) ∧
    (b.shotEnd p a).reg 0x401007 = b.reg 0x401007 + 1 ∧ (b.shotEnd p a).latched 0x37 = true := by
  rw [Block.shotEnd_eq, if_pos (by rw [hstart]; rfl)]
  refine ⟨?_, ?_, Block.latched_raiseOnce_self _ (by decide) _ _⟩
  · rw [Block.raiseOnce_iu, Block.bump_iu]
    exact b.shotClosed_iu p a
  · rw [Block.reg_raiseOnce_low _ _ _ _ (by decide), Block.reg_bump_same, Block.shotClosed_reg _ _ _ (by decide)]

/-- A shot with a start edge that is not the campaign's last is counted (R119). -/
theorem Block.shotEnd_counts (hstart : b.shotStart p a ≠ none) (hfew : b.iu.shots + 1 < 2 ^ bits (b.reg (progKey p 1)) 23 19) :
    ∃ l acc, (b.shotEnd p a).iu = { b.iu with window := none, edges := l, acc := acc, shots := b.iu.shots + 1 } := by
  obtain ⟨l, acc, h⟩ := b.shotClosed_iu p a
  rw [Block.shotEnd_eq, if_neg (by simpa using hstart)]
  dsimp only
  rw [Block.onIu_iu, h, if_neg (Nat.not_le.mpr hfew), Block.onIu_iu, h]
  exact ⟨l, acc, rfl⟩

/-- The shot that makes N ends the campaign (R119). -/
theorem Block.shotEnd_last (hstart : b.shotStart p a ≠ none) (hall : 2 ^ bits (b.reg (progKey p 1)) 23 19 ≤ b.iu.shots + 1) :
    (∃ l acc, (b.shotEnd p a).iu = { b.iu with
      window := none, edges := l, acc := acc, shots := 0, campaign := none,
      ended := if (b.reg (progKey p 1)).testBit 30 then b.iu.ended else b.iu.ended ++ [p] }) ∧
    (b.shotEnd p a).latched 0x35 = true := by
  obtain ⟨l, acc, h⟩ := b.shotClosed_iu p a
  rw [Block.shotEnd_eq, if_neg (by simpa using hstart)]
  dsimp only
  rw [Block.onIu_iu, h, if_pos hall]
  obtain ⟨acc', hend⟩ := Block.campaignEnd_iu ((b.shotClosed p a).onIu fun i => { i with shots := i.shots + 1 }) p (b.reg (progKey p 1))
  rw [hend, Block.onIu_iu, h]
  exact ⟨⟨l, acc', rfl⟩, Block.campaignEnd_told _ _ _⟩

/-- A shot whose window has ended ends. -/
theorem Block.shotDone_due (hwindow : b.iu.window = some (p, a)) (hdue : a + b.windowLen p ≤ b.time.now) : b.shotDone = b.shotEnd p a := by
  unfold Block.shotDone
  rw [hwindow]
  exact if_pos hdue

end

/-- Settles O30: an edge is stamped, and the arm judged on the block with its stamp; a shot is its stops, its closing and its count. -/
theorem windowsOpenAndShotsEnd : Obligations.WindowsOpenAndShotsEnd := by
  unfold Obligations.WindowsOpenAndShotsEnd
  refine ⟨fun falling p s hrun hlock => ?_, fun n a s hwindow => ?_⟩
  · intro t n iu open_
    have hdoes {P : Block → Prop} (hP : P (s.blk.armEdge falling t)) : Does (.armEdge falling p) s P :=
      does_of_when rfl (by rw [hrun, hlock]; rfl) hP
    have hiu : (s.blk.stampArm falling t).iu = iu := s.blk.stampArm_iu falling t
    have hkey := s.blk.stampArm_reg falling t
    have htime := s.blk.stampArm_time falling t
    obtain ⟨l, rise, fall, hrest⟩ := s.blk.stampArm_rest falling t
    refine ⟨fun hother => hdoes ?_, fun hpolarity hopen hinvalid => hdoes ?_, fun hpolarity henabled hended harms =>
      ⟨fun hwindow hcampaign => hdoes ?_, fun hopen hwindow => hdoes ?_⟩⟩
    · rw [Block.armEdge_other hother, hiu]
    · rw [Block.armEdge_arms hpolarity, Block.arm_invalid (Block.stampArm_lasts falling t hopen) (by rw [hkey, hrest]; exact hinvalid)]
      exact ⟨(Block.raise_iu ..).trans hiu, Block.latched_raise_self _ (by decide) _⟩
    · rw [Block.armEdge_arms hpolarity, Block.arm_opens_iu (by rw [hkey]; exact henabled) (by rw [hrest]; exact hended)
        (by rw [hrest]; exact hwindow) (by rw [hrest]; exact hcampaign) (by rw [hrest, htime]; exact harms), ← hiu, hrest, htime]
    · rw [Block.armEdge_arms hpolarity, Block.arm_overlaps (Block.stampArm_lasts falling t hopen) (by rw [hkey]; exact henabled)
        (by rw [hrest]; exact hended) (by rw [hrest, htime]; exact harms) (by rw [hrest]; exact hwindow)]
      obtain ⟨hkept, hcount, htold⟩ := Block.armOverlap_leaves
        ((s.blk.stampArm falling t).onIu fun i => { i with armsAt := (s.blk.stampArm falling t).time.now, armed := [] }) n
      rw [hkept, hcount, Block.onIu_iu, hrest, Block.onIu_reg, hkey]
      exact ⟨rfl, rfl, rfl, rfl, htold⟩
  · intro cfg w start
    have hlen : s.blk.windowLen n = w := s.blk.windowLen_eq n
    have hstart : s.blk.shotStart n a = start := by unfold Block.shotStart; rw [hlen]
    have hdoes {P : Block → Prop} (hdue : a + w ≤ s.blk.time.now) (hP : P (s.blk.shotEnd n a)) : Does .shotEnd s P :=
      does_of_next rfl (by rwa [← Block.shotDone_due hwindow (by rwa [hlen])] at hP)
    refine ⟨fun hearly => ?_, fun hdue hnone => hdoes hdue ?_, fun hdue hsome hfew => hdoes hdue ?_, fun hdue hsome hall => hdoes hdue ?_⟩
    · refine exec_of_same rfl (Block.shotDone_lasts fun q c hq => ?_)
      obtain ⟨rfl, rfl⟩ := Prod.mk.inj (Option.some.inj (hwindow.symm.trans hq))
      rw [hlen]
      exact hearly
    · obtain ⟨⟨l, acc, hiu⟩, hcount, htold⟩ := Block.shotEnd_void (hstart.trans hnone)
      rw [hiu]
      exact ⟨rfl, rfl, rfl, hcount, htold⟩
    · obtain ⟨l, acc, hiu⟩ := Block.shotEnd_counts (by rw [hstart]; exact hsome) hfew
      rw [hiu]
      exact ⟨rfl, rfl, rfl⟩
    · obtain ⟨⟨l, acc, hiu⟩, htold⟩ := Block.shotEnd_last (by rw [hstart]; exact hsome) hall
      rw [hiu]
      exact ⟨rfl, rfl, rfl, htold, rfl⟩

end Sys2Proof.Machine
end

section
/-! PROOFS. Writes with a rule of their own (R115, R272, R296, R346, R446, R458): each row as its entry's rule on the block that has taken
the request. -/

namespace Sys2Proof.Machine

/-! ### A write that reaches its entry's rule (R390 to R396) -/

theorem natLE_bytesLE {n v : Nat} (hv : v < 256 ^ n) : natLE (bytesLE n v) = v := by
  induction n generalizing v with
  | zero => simp only [pow_zero, Nat.lt_one_iff] at hv; simp [bytesLE, natLE, hv]
  | succ n ih =>
    have hrest : v / 256 < 256 ^ n := Nat.div_lt_of_lt_mul (by rwa [pow_succ'] at hv)
    simp only [bytesLE, natLE, ih hrest, BitVec.toNat_ofNat]
    omega

section

variable {i : Instr} {s : State} {h : Hdr} {key : Nat} {P : Block → Prop}

theorem does_of_writeTo {len : Nat} {f : Block → Block} (hi : exec i s = .next { s with blk := s.blk.writeTo h key len f })
    (hw : s.blk.writable h key len = true) (hP : P (f (s.blk.taken h))) : Does i s P :=
  does_of_next hi (by rwa [Block.writeTo_writable _ _ _ _ _ hw])

theorem does_of_writeOf_rw {l : List Byte} {d : Desc} (hi : exec i s = .next { s with blk := s.blk.writeOf h .rw key l })
    (hw : s.blk.writable h key l.length = true) (hentry : s.blk.entryOf (key / 256) (key % 256) = some d) (haccess : d.access = .rw)
    (hP : P ((s.blk.taken h).rwWrite h d key (natLE l))) : Does i s P :=
  does_of_next hi (by rw [Block.writeOf_writable hw hentry haccess, Block.entryWrite, haccess]; exact hP)

end

section

variable (b : Block) (h : Hdr)

theorem Block.pendWrite_waits (key v : Nat) : Waits b (b.pendWrite h key v) h key v := ⟨rfl, rfl, Block.pendWrite_keeps (.refl _ _) rfl⟩

theorem Block.taken_lane (l : Nat) : (b.taken h).lane l = b.lane l := by unfold Block.lane; rw [Block.taken_frm]

/-! ### The rules (R115, R272, R296, R346, R446) -/

theorem Block.prbsWrite_trains {l v : Nat} (hrx : (b.lane l).rx ≠ .retired) (htx : (b.lane l).tx ≠ .retired) (hv : v ≤ 3) :
    b.prbsWrite h l v = b.pendWrite h (prbsKey l 1) v := by
  rw [Block.prbsWrite, if_neg (by simp [hrx, htx]), if_neg (by omega)]

theorem Block.prbsWrite_busy {l : Nat} (v : Nat) (hrx : (b.lane l).rx = .retired) : b.prbsWrite h l v = b.refuseKey h (prbsKey l 1) 0x08 :=
  if_pos (.inl hrx)

theorem Block.taken_pend : (b.taken h).dict.pend = hushed (fun k => decide (k.origin = h.origin) && k.tag == h.tag) b.dict.pend := by
  unfold Block.taken Block.sessionUsed; split <;> rfl

/-- Silencing the writes of a transaction that a request has ended leaves who owns a unit as it was. -/
theorem Block.taken_cvuForeign (u : Nat) : (b.taken h).cvuForeign h u = b.cvuForeign h u := by
  unfold Block.cvuForeign Block.cvu
  rw [Block.taken_pend, hushed, List.any_map, Block.taken_cvus]
  congr 2
  funext p
  simp only [Function.comp]
  split <;> rfl

theorem Block.cvuRestore_waits {u v : Nat} (hown : b.cvuForeign h u = false) (hfits : v < 2 ^ b.cvuWidth u) :
    b.cvuRestore h u v = b.pendWrite h (cvuKey u 8) v := by
  rw [Block.cvuRestore, if_neg (by simp [hown]), if_neg (by omega)]

theorem Block.progWrite_busy {p : Nat} (v : Nat) (hcampaign : b.iu.campaign = some p) :
    b.progWrite h p v = b.refuseKey h (progKey p 1) 0x08 := if_pos hcampaign

theorem Block.progWrite_waits {p v : Nat} (hcampaign : b.iu.campaign ≠ some p)
    (hvalid : (progConfig v).testBit 31 = true → b.progValid p (progConfig v) = true) :
    b.progWrite h p v = (b.onIu fun i => { i with ended := i.ended.filter (· != p) }).pendWrite h (progKey p 1) (progConfig v) := by
  unfold Block.progWrite
  dsimp only
  rw [if_neg hcampaign, if_neg (by simpa using hvalid)]

/-! ### The rows that go by the entry's access -/

/-- Index and sub-index of PROG_CONFIG. -/
theorem progKey_parts (p : Fin 16) : progKey p.val 1 / 256 = 0x4100 + p.val ∧ progKey p.val 1 % 256 = 1 := by
  unfold progKey
  omega

theorem Block.progEntry (p : Fin 16) : ∃ d, b.entryOf (progKey p.val 1 / 256) (progKey p.val 1 % 256) = some d ∧ d.access = .rw := by
  have hrow : ∀ p : Fin 16, (descOf (0x4100 + p.val) 0x01).map Desc.access = some .rw := by decide
  obtain ⟨d, hd, haccess⟩ := Option.map_eq_some_iff.mp (hrow p)
  obtain ⟨hindex, hsub⟩ := progKey_parts p
  refine ⟨d, ?_, haccess⟩
  rw [hindex, hsub, Block.entryOf, if_neg (by omega), hd]

theorem Block.rwWrite_programme (d : Desc) (p : Fin 16) (v : Nat) :
    b.rwWrite h d (progKey p.val 1) v = b.progWrite h p.val (cleaned (progKey p.val 1) v) := by
  have hp := p.isLt
  obtain ⟨hindex, hsub⟩ := progKey_parts p
  unfold Block.rwWrite
  dsimp only
  rw [if_neg (by omega), if_neg (by omega), if_neg (by omega), hindex, hsub, if_pos (by omega), Nat.add_sub_cancel_left]

theorem Block.releaseEntry : ∃ d, b.entryOf (0x101403 / 256) (0x101403 % 256) = some d ∧ d.access = .rw ∧ d.type = .u64 := by
  have hrow : (descOf 0x1014 0x03).map (fun d => (d.access, d.type)) = some (.rw, .u64) := by decide
  obtain ⟨d, hd, hfields⟩ := Option.map_eq_some_iff.mp hrow
  obtain ⟨haccess, htype⟩ := Prod.mk.inj hfields
  exact ⟨d, hd, haccess, htype⟩

/-- The release orbit has no reserved bits. -/
theorem cleaned_release (orbit : Word64) : cleaned 0x101403 orbit.toNat = orbit.toNat :=
  (Nat.and_two_pow_sub_one_eq_mod _ 64).trans (Nat.mod_eq_of_lt orbit.isLt)

theorem Block.releaseWrite_fits {d : Desc} {orbit : Word64} (htype : d.type = .u64) (hrole : b.cRole = false) (hfits : orbit.toNat < 2 ^ 48) :
    b.rwWrite h d 0x101403 orbit.toNat = b.pendWrite h 0x101403 orbit.toNat := by
  have hbusy : b.writeBusy 0x101403 = false := by
    unfold Block.writeBusy
    cases b.iu.campaign with
    | none => rfl
    | some p => exact (beq_false_of_ne (by omega) : (0x101403 / 256 == 0x4100 + p) = false)
  have hrange : b.rangeOk d 0x101403 orbit.toNat = true := by
    unfold Block.rangeOk
    rw [htype]
    simp [plainRange, rowRange]
  have hjoint : b.jointOk 0x101403 orbit.toNat = true := by simp [Block.jointOk]
  unfold Block.rwWrite
  rw [cleaned_release]
  dsimp only
  rw [if_neg (by simp [hrole]), if_neg (by omega)]
  simp [hbusy, hrange, hjoint]

theorem Block.releaseWrite_outside {d : Desc} {orbit : Word64} (hrole : b.cRole = false) (hlarge : 2 ^ 48 ≤ orbit.toNat) :
    b.rwWrite h d 0x101403 orbit.toNat = b.refuseKey h 0x101403 0x07 := by
  unfold Block.rwWrite
  rw [cleaned_release]
  dsimp only
  rw [if_neg (by simp [hrole]), if_pos ⟨rfl, hlarge⟩]

theorem Block.releaseWrite_readOnly {d : Desc} (v : Nat) (hrole : b.cRole = true) :
    b.rwWrite h d 0x101403 v = b.refuseKey h 0x101403 0x03 := if_pos ⟨rfl, hrole⟩

end

/-- Settles O21: each row is its entry's own rule on the block that has taken the request. -/
theorem ruledWritesWait : Obligations.RuledWritesWait := by
  unfold Obligations.RuledWritesWait
  refine ⟨fun h s => ⟨fun l value hw => ⟨fun hok => ?_, fun hbad => ?_⟩, fun l hw => ?_, fun p config hw => ?_,
    fun u value hw hown hfits => ?_⟩, fun h orbit s hw => ?_⟩
  · refine does_of_writeTo rfl hw ?_
    rw [Block.laneConfigWrite, if_pos hok]
    exact Block.pendWrite_waits ..
  · refine does_of_writeTo rfl hw ?_
    rw [Block.laneConfigWrite, if_neg (by simp [hbad])]
    exact Block.refuseKey_refuses ..
  · refine ⟨fun hrx htx => ?_, fun hrx => ?_⟩
    · have hwaits (v : Nat) (hv : v ≤ 3) : Waits (s.blk.taken h) ((s.blk.taken h).prbsWrite h l.val v) h (prbsKey l.val 1) v := by
        rw [Block.prbsWrite_trains _ _ (by rwa [Block.taken_lane]) (by rwa [Block.taken_lane]) hv]
        exact Block.pendWrite_waits ..
      exact ⟨does_of_writeTo rfl hw (hwaits 0 (by decide)), does_of_writeTo rfl hw (hwaits 1 (by decide)),
        does_of_writeTo rfl hw (hwaits 2 (by decide)), does_of_writeTo rfl hw (hwaits 3 (by decide))⟩
    · refine does_of_writeTo rfl hw ?_
      rw [Block.prbsWrite_busy _ _ _ (by rwa [Block.taken_lane])]
      exact Block.refuseKey_refuses ..
  · intro v
    obtain ⟨d, hentry, haccess⟩ := s.blk.progEntry p
    have hdoes {P : Block → Prop} (hP : P ((s.blk.taken h).progWrite h p.val v)) : Does (.programmeEnable h p config) s P := by
      refine does_of_writeOf_rw rfl hw hentry haccess ?_
      rw [natLE_bytesLE config.isLt, Block.rwWrite_programme]
      exact hP
    refine ⟨fun hcampaign hvalid => hdoes ?_, fun hcampaign => hdoes ?_⟩
    · rw [Block.progWrite_waits _ _ (by rwa [Block.taken_iu]) hvalid]
      exact ⟨rfl, Block.taken_replies .., by simp⟩
    · rw [Block.progWrite_busy _ _ _ (by rwa [Block.taken_iu])]
      refine ⟨?_, Block.refuseKey_refuses ..⟩
      rw [(Block.refuseKey_keeps (.refl [.queues, .mrg, .twin, .regs, .dict, .ev] _) rfl).iu_eq rfl, Block.taken_iu]
  · refine does_of_writeTo rfl hw ?_
    rw [Block.cvuRestore_waits _ _ (by rwa [Block.taken_cvuForeign]) (by unfold Block.cvuWidth; rwa [Block.taken_reg])]
    exact Block.pendWrite_waits ..
  · obtain ⟨d, hentry, haccess, htype⟩ := s.blk.releaseEntry
    have hdoes {P : Block → Prop} (hP : P ((s.blk.taken h).rwWrite h d 0x101403 orbit.toNat)) : Does (.releaseOrbitWrite h orbit) s P :=
      does_of_writeOf_rw rfl hw hentry haccess (by rwa [natLE_bytesLE orbit.isLt])
    refine ⟨fun hrole hfits => hdoes ?_, fun hrole hlarge => hdoes ?_, fun hrole => hdoes ?_⟩
    · rw [Block.releaseWrite_fits _ _ htype (by rwa [Block.taken_cRole]) hfits]
      exact Block.pendWrite_waits ..
    · rw [Block.releaseWrite_outside _ _ (by rwa [Block.taken_cRole]) hlarge]
      exact Block.refuseKey_refuses ..
    · rw [Block.releaseWrite_readOnly _ _ _ (by rwa [Block.taken_cRole])]
      exact Block.refuseKey_refuses ..

end Sys2Proof.Machine
end

section
/-! PROOFS. Every command ends in a state or names itself ill formed (R110, R127, R145, R281, R493). -/

namespace Sys2Proof.Machine

section

variable {s : State} {name : String} {f : Block → Block}

theorem runIf_fits {p : Prop} [Decidable p] (h : p) : s.runIf (decide p) name f = s.run f := by
  simp [State.runIf, h]

theorem runIf_misfit {p : Prop} [Decidable p] (h : ¬p) : s.runIf (decide p) name f = .fault (.illFormed name) := by
  simp [State.runIf, h]

end

/-- A command that is well formed moves the block alone; one that is not stops and names itself. -/
structure Settles (i : Instr) (s : State) : Prop where
  completes : wellFormed i = true → ∃ b, exec i s = .next { s with blk := b }
  faults    : wellFormed i = false → ∃ name, exec i s = .fault (.illFormed name)

section

variable {i : Instr} {s : State}

theorem settles_of_next {b : Block} (hfits : wellFormed i = true) (hi : exec i s = .next { s with blk := b }) : Settles i s where
  completes _ := ⟨b, hi⟩
  faults hmisfit := absurd (hfits.symm.trans hmisfit) (by decide)

theorem settles_of_runIf {p : Prop} [Decidable p] {name : String} {f : Block → Block} (hp : wellFormed i = decide p)
    (hi : exec i s = s.runIf (decide p) name f) : Settles i s where
  completes h := ⟨f s.blk, hi.trans (runIf_fits (of_decide_eq_true (hp.symm.trans h)))⟩
  faults h := ⟨name, hi.trans (runIf_misfit (of_decide_eq_false (hp.symm.trans h)))⟩

end

/-- Five rows check the length of an operand, and every other row acts in every state. -/
theorem exec_settles (i : Instr) (s : State) : Settles i s := by
  cases i with
  | slotPeriodStart | calRunEnd | binCalIterationEnd | clockRecoveryLocked | tempMeasurement => exact settles_of_runIf rfl rfl
  | _ => exact settles_of_next rfl rfl

/-- No command is refused: it is well formed and completes, or is not and faults. -/
theorem Settles.not_refused {i : Instr} {s : State} (h : Settles i s) (r : Refusal) : exec i s ≠ .refused r := by
  intro hr
  cases hfits : wellFormed i
  · obtain ⟨name, hi⟩ := h.faults hfits
    cases hi.symm.trans hr
  · obtain ⟨b, hi⟩ := h.completes hfits
    cases hi.symm.trans hr

/-- Settles O2: every row is an operation on the block alone, and the five with an operand of fixed length check it first. -/
theorem wellFormedCommandsComplete : Obligations.WellFormedCommandsComplete := by
  unfold Obligations.WellFormedCommandsComplete
  refine ⟨fun i s => ⟨fun hfits => ?_, (exec_settles i s).faults, (exec_settles i s).not_refused⟩, ?_, ?_, ?_, ?_, ?_⟩
  · obtain ⟨b, hi⟩ := (exec_settles i s).completes hfits
    exact ⟨_, hi, rfl⟩
  · exact fun _ _ _ hlen => runIf_misfit hlen
  · exact fun _ _ hlen => runIf_misfit hlen
  · exact fun _ _ hlen => runIf_misfit hlen
  · exact fun _ _ _ _ hlen => runIf_misfit hlen
  · exact fun _ _ hlen => runIf_misfit hlen

end Sys2Proof.Machine
end

section
/-! PROOFS. The converter array (R127 to R152): what a retirement leaves of it, the period that ends, the exchange of a rotation, the period
that begins, and the end of a calibration run. -/

namespace Sys2Proof.Machine

/-! ### Slices -/

theorem mem_of_tabFind {α : Type} {t : Tab α} {n : Nat} {v : α} (h : tabFind t n = some v) : (n, v) ∈ t := by
  induction t with
  | nil => cases h
  | cons p t ih =>
    obtain ⟨k, w⟩ := p
    simp only [tabFind] at h
    split at h
    · next hk => cases h; exact hk ▸ List.mem_cons_self
    · exact List.mem_cons_of_mem _ (ih h)

@[simp] theorem Block.onSlice_slice_same (b : Block) (n : Nat) (f : Slice → Slice) : (b.onSlice n f).slice n = f (b.slice n) :=
  tabGet_tabMod_same ..

theorem Block.onSlice_slice_ne (b : Block) {n m : Nat} (f : Slice → Slice) (h : m ≠ n) : (b.onSlice n f).slice m = b.slice m :=
  tabGet_tabMod_ne _ _ _ h

theorem Block.slice_congr {a b : Block} (h : b.adc.slices = a.adc.slices) (n : Nat) : b.slice n = a.slice n := by
  unfold Block.slice; rw [h]

/-- Which slice comes next in the circle depends on the role and on the slices retired (R146). -/
theorem Block.nextSlice_congr {a b : Block} (hrole : b.cRole = a.cRole) (h : ∀ k, (b.slice k).retired = (a.slice k).retired) (n : Nat) :
    b.nextSlice n = a.nextSlice n := by
  simp only [Block.nextSlice, hrole, h]

/-- No slice is condemned. -/
structure Uncondemned (b : Block) : Prop where
  slices : ∀ p ∈ b.adc.slices, p.2.condemned = false

theorem Uncondemned.slice {b : Block} (h : Uncondemned b) (n : Nat) : (b.slice n).condemned = false := by
  unfold Block.slice tabGet
  cases hfind : tabFind b.adc.slices n with
  | none => rfl
  | some k => exact h.slices _ (mem_of_tabFind hfind)

theorem Uncondemned.onSlice {b : Block} (h : Uncondemned b) (n : Nat) {f : Slice → Slice} (hf : ∀ k, (f k).condemned = k.condemned) :
    Uncondemned (b.onSlice n f) := by
  refine ⟨fun p hp => ?_⟩
  rcases mem_tabSet hp with hp | rfl
  · exact h.slices p hp
  · exact (hf _).trans (h.slice n)

/-- Where no slice is condemned, none is retired (R151). -/
theorem Uncondemned.retireSlices {b : Block} (h : Uncondemned b) : b.retireSlices = b := by
  have hnone : (b.adc.slices.filter fun p => p.2.condemned && !p.2.retired) = [] :=
    List.filter_eq_nil_iff.mpr fun p hp => by simp [h.slices p hp]
  simp [Block.retireSlices, hnone, forEach]

/-! ### What a permanent fault of a site leaves of the array (R381, R382) -/

/-- Nothing of the array has changed but that slices may be condemned. -/
structure CondemnsOnly (a b : Block) : Prop where
  rest  : { b.adc with slices := [] } = { a.adc with slices := [] }
  slice : ∀ n, { b.slice n with condemned := false } = { a.slice n with condemned := false }

section

variable {a b c : Block}

theorem CondemnsOnly.refl (b : Block) : CondemnsOnly b b := ⟨rfl, fun _ => rfl⟩

theorem CondemnsOnly.keeps {l : List Part} (h : CondemnsOnly a b) (k : Keeps l b c) (hadc : l.contains .adc = false) : CondemnsOnly a c := by
  have hsame := k.adc_eq hadc
  exact ⟨by rw [hsame, h.rest], fun n => by rw [Block.slice_congr (congrArg Adc.slices hsame), h.slice]⟩

theorem CondemnsOnly.ite {p : Prop} [Decidable p] (hb : CondemnsOnly a b) (hc : CondemnsOnly a c) : CondemnsOnly a (if p then b else c) := by
  split <;> assumption

theorem CondemnsOnly.condemn (h : CondemnsOnly a b) (n : Nat) : CondemnsOnly a (b.onSlice n fun k => { k with condemned := true }) := by
  refine ⟨h.rest, fun m => ?_⟩
  by_cases hm : m = n
  · subst hm
    rw [Block.onSlice_slice_same]
    exact h.slice m
  · rw [Block.onSlice_slice_ne _ _ hm, h.slice]

theorem CondemnsOnly.retireEffect (h : CondemnsOnly a b) (id : Nat) : CondemnsOnly a (b.retireEffect id) := by
  unfold Block.retireEffect
  dsimp only
  split
  · exact ⟨h.rest, h.slice⟩
  · exact h.keeps (Block.retireLane_keeps (.refl [.frm, .flt] b) rfl) rfl
  · exact h.condemn _
  · exact ⟨h.rest, h.slice⟩
  · exact h.keeps (Block.raise_keeps (Block.setReg_keeps (.refl [.regs, .ev] b) rfl) rfl) rfl
  · exact h

theorem CondemnsOnly.retireOne (h : CondemnsOnly a b) (id cause : Nat) (adopted byCommand : Bool) :
    CondemnsOnly a (b.retireOne id cause adopted byCommand) := by
  have hsite : CondemnsOnly a (b.onSite id fun k => { k with state := 2 }) := ⟨h.rest, h.slice⟩
  refine (hsite.retireEffect id).keeps (l := [.flt, .mrg, .twin, .regs, .ev, .free]) ?_ rfl
  exact Block.retiredMessage_keeps (Block.listSite_keeps (.refl _ _) rfl) rfl

theorem CondemnsOnly.retire (h : CondemnsOnly a b) (id cause : Nat) (adopted byCommand : Bool) :
    CondemnsOnly a (b.retire id cause adopted byCommand) := by
  have hone := h.retireOne id cause adopted byCommand
  unfold Block.retire
  dsimp only
  split
  · exact .ite hone (hone.retireOne _ _ _ _)
  · exact hone

theorem CondemnsOnly.permanent (h : CondemnsOnly a b) (id cause : Nat) : CondemnsOnly a (b.permanent id cause) := by
  have htold : CondemnsOnly a (((b.onSite id fun k => { k with state := 1 }).bump 0x6C0102 1).raise 0xC1 [.id 16 id, .id 8 cause]) :=
    h.keeps (Block.raise_keeps (Block.bump_keeps (Block.onSite_keeps (.refl [.flt, .regs, .ev] b) rfl) rfl) rfl) rfl
  exact .ite h (.ite ⟨htold.rest, htold.slice⟩ (htold.retire _ _ _ _))

theorem CondemnsOnly.transient (h : CondemnsOnly a b) (id : Nat) : CondemnsOnly a (b.transient id) := by
  unfold Block.transient
  extract_lets times keep site told
  have htold : CondemnsOnly a told :=
    h.keeps (Block.raiseOnce_keeps (Block.bump_keeps (Block.onSite_keeps (.refl [.flt, .regs, .ev] b) rfl) rfl) rfl) rfl
  exact .ite (htold.permanent _ _) htold

end

/-! ### The period that ends: the place of the period and what is bound to the next (R133) -/

/-- The array stands in period q, with l bound to the period that comes. -/
structure InPeriod (q : Nat) (l : List (Nat × Nat × Pair × Bool)) (b : Block) : Prop where
  period : b.adc.period = q
  bound  : b.adc.bound = l

section

variable {q : Nat} {l : List (Nat × Nat × Pair × Bool)} {a b x y : Block}

theorem InPeriod.keeps {ps : List Part} (hb : InPeriod q l a) (k : Keeps ps a b) (hadc : ps.contains .adc = false) : InPeriod q l b := by
  have hsame := k.adc_eq hadc
  exact ⟨by rw [hsame, hb.period], by rw [hsame, hb.bound]⟩

theorem InPeriod.condemns (hb : InPeriod q l a) (h : CondemnsOnly a b) : InPeriod q l b :=
  ⟨(congrArg Adc.period h.rest).trans hb.period, (congrArg Adc.bound h.rest).trans hb.bound⟩

theorem InPeriod.ite {p : Prop} [Decidable p] (hx : InPeriod q l x) (hy : InPeriod q l y) : InPeriod q l (if p then x else y) := by
  split <;> assumption

theorem InPeriod.forEach {α : Type} {k : List α} {f : α → Block → Block} (hb : InPeriod q l b)
    (hf : ∀ i x, InPeriod q l x → InPeriod q l (f i x)) : InPeriod q l (forEach k b f) :=
  List.foldlRecOn (motive := InPeriod q l) k _ hb fun x hx i _ => hf i x hx

theorem InPeriod.onAdc {f : Adc → Adc} (hb : InPeriod q l b) (hperiod : ∀ t, (f t).period = t.period) (hbound : ∀ t, (f t).bound = t.bound) :
    InPeriod q l (b.onAdc f) := ⟨(hperiod _).trans hb.period, (hbound _).trans hb.bound⟩

theorem InPeriod.onSlice (hb : InPeriod q l b) (n : Nat) (f : Slice → Slice) : InPeriod q l (b.onSlice n f) :=
  hb.onAdc (fun _ => rfl) fun _ => rfl

theorem InPeriod.raise (hb : InPeriod q l b) (n : Nat) (k : List Fld) : InPeriod q l (b.raise n k) :=
  hb.keeps (Block.raise_keeps (.refl [.regs, .ev] b) rfl) rfl

theorem InPeriod.sliceConv (hb : InPeriod q l b) (s : Nat) (v : Conv) : InPeriod q l (b.sliceConv s v) := by
  unfold Block.sliceConv
  extract_lets told failed
  have htold : InPeriod q l told := InPeriod.raise (hb.keeps (Block.bump_keeps (.refl [.regs] b) rfl) rfl) _ _
  have hfailed : InPeriod q l failed := (htold.onSlice _ _).condemns (.transient (.refl _) _)
  exact .ite (.ite (hfailed.condemns (.permanent (.refl _) _ _)) hfailed) (.ite hb (hb.onSlice _ _))

theorem InPeriod.sampled (hb : InPeriod q l b) (k : List (Nat × Bool × Nat)) :
    InPeriod q l (b.onAdc fun t => { t with samples := t.samples ++ k }) := hb.onAdc (fun _ => rfl) fun _ => rfl

theorem InPeriod.regularDone (hb : InPeriod q l b) (e w : Nat) (settling pileup fault supply : Bool) (range level : Nat) (v : Conv) :
    InPeriod q l (b.regularDone e w settling pileup fault supply range level v) := by
  unfold Block.regularDone
  refine .ite (hb.onAdc (fun _ => rfl) fun _ => rfl) ?_
  extract_lets src code off y
  have hy : InPeriod q l y := .ite hb (hb.onAdc (fun _ => rfl) fun _ => rfl)
  split
  · exact .ite hy (hy.sampled _)
  · exact .ite hy (hy.sampled _)
  · exact hy.keeps (Block.envSample_keeps (.refl [.regs, .dict, .ev, .env] y) rfl) rfl
  · exact hy.keeps (Block.monitorSample_keeps (.refl [.twin, .regs, .ev] y) rfl) rfl
  · exact hy

theorem InPeriod.pairDone (hb : InPeriod q l b) (p : Pair) (hg lg : BitVec 12) : InPeriod q l (b.pairDone p hg lg) := by
  have hfree : InPeriod q l (b.onChan p.ch fun k => k.setBank p.bank .free) := ⟨hb.period, hb.bound⟩
  exact .ite (.ite hfree (hfree.sampled _)) (.ite (hb.keeps (Block.settleAmp_keeps (.refl [.chans] b) rfl) rfl) hb)

theorem InPeriod.jobDone (hb : InPeriod q l b) (jobs : List (Nat × Nat × Job)) (codes : List Conv) (j : Nat × Nat × Job) :
    InPeriod q l (b.jobDone jobs codes j) := by
  have hconv (v : Conv) := hb.sliceConv j.2.1 v
  unfold Block.jobDone
  dsimp only
  split
  · exact hb
  · exact (hconv _).regularDone _ _ _ _ _ _ _ _ _
  · exact hconv _
  · exact hconv _
  · split
    · exact hconv _
    · exact .ite (.ite ((hconv _).onAdc (fun _ => rfl) fun _ => rfl) (hconv _)) ((hconv _).pairDone _ _ _)

theorem InPeriod.completePeriod (hb : InPeriod q l b) (codes : List Conv) : InPeriod q l (b.completePeriod codes) :=
  InPeriod.forEach (hb.onAdc (fun _ => rfl) fun _ => rfl) fun j _ hx => hx.jobDone _ codes j

theorem InPeriod.startRun (hb : InPeriod q l b) (s : Option Nat) : InPeriod q l (b.startRun s) := hb.onAdc (fun _ => rfl) fun _ => rfl

theorem InPeriod.adoptCoef (hb : InPeriod q l b) (c : Nat) : InPeriod q l (b.adoptCoef c) := by
  unfold Block.adoptCoef
  split
  · exact (hb.onSlice _ _).onAdc (fun _ => rfl) fun _ => rfl
  · exact hb

theorem InPeriod.exchange (hb : InPeriod q l b) (c : Nat) : InPeriod q l (b.exchange c) := by
  have hadopted := hb.adoptCoef c
  unfold Block.exchange
  dsimp only
  split
  · refine InPeriod.startRun (.onSlice (.onSlice ?_ _ _) _ _) _
    exact hadopted.onAdc (fun _ => rfl) fun _ => rfl
  · split
    · exact hadopted.startRun _
    · exact .ite (hadopted.startRun _) (((hadopted.onSlice _ _).onSlice _ _).startRun _)

theorem InPeriod.rotate (hb : InPeriod q l b) : InPeriod q l b.rotate := by
  unfold Block.rotate
  refine .ite hb ?_
  split
  · exact hb
  · split
    · exact hb.keeps (Block.raiseOnce_keeps (Block.bump_keeps (.refl [.regs, .ev] b) rfl) rfl) rfl
    · exact hb.exchange _

theorem InPeriod.exhausted (hb : InPeriod q l b) : InPeriod q l b.exhausted := hb.raise _ _

theorem InPeriod.planMask (hb : InPeriod q l b) : InPeriod q l b.planMask := by
  unfold Block.planMask
  split
  · next p _ =>
    have hplan : InPeriod q l ((b.onAdc fun t => { t with maskCut := some p.mask }).onSets fun t => { t with planList := p.list }) :=
      ⟨hb.period, hb.bound⟩
    exact .ite hplan.exhausted hplan
  · refine InPeriod.exhausted ?_
    exact hb.onAdc (fun _ => rfl) fun _ => rfl

theorem InPeriod.dropSlice (hb : InPeriod q l b) (s : Nat) : InPeriod q l (b.dropSlice s) := by
  unfold Block.dropSlice
  extract_lets dropped top moved
  have hdropped : InPeriod q l dropped := hb.onSlice _ _
  have hmoved : InPeriod q l moved := by
    unfold moved
    split
    · exact (hdropped.onSlice _ _).startRun _
    · exact hdropped
  exact (hmoved.raise _ _).planMask

theorem InPeriod.retireSlice (hb : InPeriod q l b) (s : Nat) : InPeriod q l (b.retireSlice s) := by
  unfold Block.retireSlice
  refine .ite hb ?_
  split
  · exact hb.dropSlice _
  · have hadopted := hb.adoptCoef ‹_›
    exact .ite ((hadopted.startRun _).dropSlice _) ((((hadopted.onSlice _ _).onSlice _ _).startRun _).dropSlice _)

theorem InPeriod.retireSlices (hb : InPeriod q l b) : InPeriod q l b.retireSlices := InPeriod.forEach hb fun s _ hx => hx.retireSlice s

end

/-- The block at the start of period q: the conversions of the period before are complete, the rotation and the retirements that were due have
been made. -/
def Block.periodEnded (b : Block) (q : Nat) (codes : List Conv) : Block :=
  ((b.completePeriod codes).onAdc fun t => { t with period := q }).rotate.retireSlices.countRun

theorem Block.slotPeriod_eq (b : Block) (q : Nat) (codes : List Conv) :
    b.slotPeriod q codes = (((b.periodEnded q codes).startPeriod q).assignNext q).abandonLate q := rfl

theorem Block.periodEnded_inPeriod (b : Block) (q : Nat) (codes : List Conv) : InPeriod q b.adc.bound (b.periodEnded q codes) := by
  have hcomplete := InPeriod.completePeriod (b := b) ⟨rfl, rfl⟩ codes
  have hperiod : InPeriod q b.adc.bound ((b.completePeriod codes).onAdc fun t => { t with period := q }) := ⟨rfl, hcomplete.bound⟩
  have hretired := hperiod.rotate.retireSlices
  exact ⟨hretired.period, hretired.bound⟩

/-! ### The exchange (R145, R146) -/

section

variable {b : Block} {c o : Nat} {r : CalResult}

theorem Block.setRank_slice_same (b : Block) (n : Nat) (k : Option Nat) : (b.setRank n k).slice n = { b.slice n with rank := k } :=
  Block.onSlice_slice_same ..

theorem Block.setRank_slice_ne (b : Block) {n m : Nat} (k : Option Nat) (h : m ≠ n) : (b.setRank n k).slice m = b.slice m :=
  Block.onSlice_slice_ne _ _ h

theorem Uncondemned.setRank (h : Uncondemned b) (n : Nat) (k : Option Nat) : Uncondemned (b.setRank n k) := h.onSlice n fun _ => rfl

/-- The coefficients that wait become those of the carrel slice, and wait no more. -/
structure Adopted (c : Nat) (r : CalResult) (a b : Block) : Prop where
  rest   : { b.adc with slices := [] } = { a.adc with slices := [], newCoef := none }
  role   : b.cRole = a.cRole
  coef   : b.slice c = { a.slice c with coef := r }
  others : ∀ n, n ≠ c → b.slice n = a.slice n

theorem Block.adoptCoef_eq (hnew : b.adc.newCoef = some r) :
    b.adoptCoef c = (b.onSlice c fun k => { k with coef := r }).onAdc fun t => { t with newCoef := none } := by
  simp [Block.adoptCoef, hnew]

theorem Block.adoptCoef_adopted (hnew : b.adc.newCoef = some r) : Adopted c r b (b.adoptCoef c) := by
  rw [Block.adoptCoef_eq hnew]
  exact ⟨rfl, rfl, b.onSlice_slice_same c fun k => { k with coef := r }, fun n hn => b.onSlice_slice_ne (fun k => { k with coef := r }) hn⟩

theorem Adopted.retired {a : Block} (h : Adopted c r a b) (n : Nat) : (b.slice n).retired = (a.slice n).retired := by
  by_cases hn : n = c
  · rw [hn, h.coef]
  · rw [h.others n hn]

theorem Uncondemned.adoptCoef (h : Uncondemned b) (hnew : b.adc.newCoef = some r) : Uncondemned (b.adoptCoef c) := by
  rw [Block.adoptCoef_eq hnew]
  exact ⟨(h.onSlice c (f := fun k => { k with coef := r }) fun _ => rfl).slices⟩

/-- The slices change places, and a run of the slice that has left its rank begins. -/
theorem Block.exchange_eq (hnew : b.adc.newCoef = some r) (hjoining : b.adc.joining = []) (hnext : b.nextSlice c = some o) (hne : o ≠ c) :
    b.exchange c = (((b.adoptCoef c).setRank c (b.slice o).rank).setRank o none).startRun (some o) := by
  have hadopted := Block.adoptCoef_adopted (c := c) hnew
  have hjoined : (b.adoptCoef c).adc.joining = [] := (congrArg Adc.joining hadopted.rest).trans hjoining
  have hafter : (b.adoptCoef c).nextSlice c = some o := (Block.nextSlice_congr hadopted.role hadopted.retired c).trans hnext
  simp only [Block.exchange, hjoined, hafter, hne, if_false, hadopted.others o hne]

/-- After the exchange the slice c has the coefficients and the rank, o has none and is the carrel slice, whose run begins. -/
structure Exchanged (c o : Nat) (r : CalResult) (a b : Block) : Prop where
  rest : { b.adc with slices := [] } = { a.adc with slices := [], newCoef := none, carrel := some o, runDone := 0, due := false }
  coef : b.slice c = { a.slice c with coef := r, rank := (a.slice o).rank }
  left : b.slice o = { a.slice o with rank := none }
  sound : Uncondemned b

theorem Block.exchange_exchanged (hnew : b.adc.newCoef = some r) (hjoining : b.adc.joining = []) (hnext : b.nextSlice c = some o) (hne : o ≠ c)
    (hnone : Uncondemned b) : Exchanged c o r b (b.exchange c) := by
  have hadopted := Block.adoptCoef_adopted (c := c) hnew
  have hranked : ((b.adoptCoef c).setRank c (b.slice o).rank).slice o = b.slice o :=
    (Block.setRank_slice_ne _ _ hne).trans (hadopted.others o hne)
  rw [Block.exchange_eq hnew hjoining hnext hne]
  refine ⟨congrArg (fun t : Adc => { t with carrel := some o, runDone := 0, due := false }) hadopted.rest, ?_, ?_, ?_⟩
  · refine (Block.setRank_slice_ne _ _ hne.symm).trans ((Block.setRank_slice_same ..).trans ?_)
    rw [hadopted.coef]
  · refine (Block.setRank_slice_same ..).trans ?_
    rw [hranked]
  · exact ⟨(((hnone.adoptCoef hnew).setRank c _).setRank o none).slices⟩

/-- The period after the exchange is the first of the run, unless calibration is frozen (R145, R148). -/
theorem Exchanged.countRun {a : Block} (h : Exchanged c o r a b) :
    b.countRun.adc = { a.adc with
      slices := b.adc.slices, newCoef := none, carrel := some o, runDone := if a.adc.frozen then 0 else 1, due := false } := by
  have hcarrel : b.adc.carrel = some o := congrArg Adc.carrel h.rest
  have hfrozen : b.adc.frozen = a.adc.frozen := (congrArg Adc.frozen h.rest :)
  have hdue : b.adc.due = false := congrArg Adc.due h.rest
  have hdone : b.adc.runDone = 0 := congrArg Adc.runDone h.rest
  have hcount : (if b.adc.carrel.isSome && !b.adc.frozen && !b.adc.due then b.adc.runDone + 1 else b.adc.runDone) =
      if a.adc.frozen then 0 else 1 := by
    rw [hcarrel, hfrozen, hdue, hdone]
    cases a.adc.frozen <;> rfl
  refine Eq.trans ?_ (congrArg (fun t : Adc => { t with slices := b.adc.slices, runDone := if a.adc.frozen then 0 else 1 }) h.rest)
  rw [← hcount]
  rfl

/-- A rotation that is due, with no assignment bound to the slice that would leave, is made (R146, R147). -/
theorem Block.rotate_eq (hdue : b.adc.due = true) (hcarrel : b.adc.carrel = some c) (hjoining : b.adc.joining = [])
    (hnext : b.nextSlice c = some o) (hfree : b.boundTo o = false) : b.rotate = b.exchange c := by
  simp [Block.rotate, Block.rotationWaits, hdue, hcarrel, hjoining, hnext, hfree]

/-- With no conversions in progress the start of a period completes none. -/
theorem Block.completePeriod_idle (codes : List Conv) (hjobs : b.adc.jobs = []) :
    b.completePeriod codes = b.onAdc fun t => { t with jobs := [] } := by
  simp [Block.completePeriod, hjobs, forEach]

/-- A period with no conversions in progress starts with the exchange that is due, and is the first of the run that the exchange begins. -/
theorem Block.periodEnded_exchanges (q : Nat) (codes : List Conv) (hjobs : b.adc.jobs = []) (hnew : b.adc.newCoef = some r)
    (hjoining : b.adc.joining = []) (hnone : ∀ x ∈ b.adc.slices, x.2.condemned = false) (hdue : b.adc.due = true)
    (hcarrel : b.adc.carrel = some c) (hnext : b.nextSlice c = some o) (hne : o ≠ c) (hfree : b.boundTo o = false) :
    ∃ x, Exchanged c o r (b.onAdc fun t => { t with jobs := [], period := q }) x ∧ b.periodEnded q codes = x.countRun := by
  have hexchanged := Block.exchange_exchanged (b := b.onAdc fun t => { t with jobs := [], period := q }) hnew hjoining hnext hne ⟨hnone⟩
  refine ⟨_, hexchanged, ?_⟩
  have hrotate := Block.rotate_eq (b := b.onAdc fun t => { t with jobs := [], period := q }) hdue hcarrel hjoining hnext hfree
  rw [Block.periodEnded, Block.completePeriod_idle codes hjobs]
  rw [show ((b.onAdc fun t => { t with jobs := [] }).onAdc fun t => { t with period := q }) =
    b.onAdc fun t => { t with jobs := [], period := q } from rfl, hrotate, hexchanged.sound.retireSlices]

end

/-! ### The period that begins (R132 to R134, R137) -/

/-- What the start of a period leaves as it was once the exchange is over: the place of the period, the slices and the run. -/
def Adc.run (t : Adc) : Nat × Tab Slice × Option Nat × Nat × Option CalResult × Bool :=
  (t.period, t.slices, t.carrel, t.runDone, t.newCoef, t.due)

/-- The array has its slices and run as in t, and conversions have been added to those of t. -/
structure Continues (t : Adc) (b : Block) : Prop where
  run  : b.adc.run = t.run
  jobs : t.jobs <+: b.adc.jobs

section

variable {t : Adc} {a b : Block}

theorem Continues.period (hb : Continues t b) : b.adc.period = t.period := congrArg Prod.fst hb.run

theorem Continues.slice (hb : Continues t b) (h : t.slices = a.adc.slices) (n : Nat) : b.slice n = a.slice n :=
  Block.slice_congr ((congrArg (fun u => u.2.1) hb.run).trans h) n

theorem Continues.keeps {ps : List Part} (hb : Continues t a) (k : Keeps ps a b) (hadc : ps.contains .adc = false) : Continues t b := by
  have hsame := k.adc_eq hadc
  exact ⟨by rw [hsame, hb.run], by rw [hsame]; exact hb.jobs⟩

theorem Continues.onAdc {f : Adc → Adc} (hb : Continues t b) (hrun : ∀ u, (f u).run = u.run) (hjobs : ∀ u, u.jobs <+: (f u).jobs) :
    Continues t (b.onAdc f) := ⟨(hrun _).trans hb.run, hb.jobs.trans (hjobs _)⟩

theorem Continues.forEach {α : Type} {k : List α} {f : α → Block → Block} (hb : Continues t b)
    (hf : ∀ i x, Continues t x → Continues t (f i x)) : Continues t (forEach k b f) :=
  List.foldlRecOn (motive := Continues t) k _ hb fun x hx i _ => hf i x hx

/-- A change of where the regular list stands, or of what waits for a conversion. -/
theorem Continues.aside {f : Adc → Adc} (hb : Continues t b) (hrun : ∀ u, (f u).run = u.run) (hjobs : ∀ u, (f u).jobs = u.jobs) :
    Continues t (b.onAdc f) := hb.onAdc hrun fun u => (hjobs u) ▸ List.prefix_rfl

theorem Continues.lap (hb : Continues t b) : Continues t b.lap :=
  (hb.keeps (Block.bump_keeps (.refl [.regs] b) rfl) rfl).aside (fun _ => rfl) fun _ => rfl

theorem Continues.regularJob (hb : Continues t b) (e w n : Nat) : Continues t (b.regularJob e w n).1 :=
  hb.keeps (Block.regularJob_keeps (.refl [.env] b) rfl) rfl

theorem Continues.ite {p : Prop} [Decidable p] (ha : Continues t a) (hb : Continues t b) : Continues t (if p then a else b) := by
  split <;> assumption

theorem Continues.nextRegular (hb : Continues t b) (n : Nat) : Continues t (b.nextRegular n).1 := by
  unfold Block.nextRegular
  split
  · refine Continues.regularJob ?_ _ _ _
    exact hb.aside (fun _ => rfl) fun _ => rfl
  · extract_lets len restarted lapped e w
    have hrestarted : Continues t restarted := by
      unfold restarted
      split
      · exact .ite (hb.aside (fun _ => rfl) fun _ => rfl) hb
      · exact hb
    have hlapped : Continues t lapped := .ite hrestarted.lap hrestarted
    split
    · exact hrestarted
    · split
      · exact hlapped.lap
      · refine Continues.regularJob (.ite ?_ hlapped.lap) _ _ _
        exact hlapped.aside (fun _ => rfl) fun _ => rfl

end

/-- The conversions of the assignments that are bound to the period that begins (R133). -/
def Block.holdJobs (b : Block) : List (Nat × Nat × Job) := b.adc.bound.map fun x => (x.1, x.2.1, .hold x.2.2.1 x.2.2.2)

section

variable (b : Block) (q : Nat)

theorem Block.startPeriod_continues : Continues { b.adc with jobs := b.holdJobs } (b.startPeriod q) := by
  refine Continues.forEach ⟨rfl, List.prefix_append _ _⟩ fun n x hx => ?_
  split
  · exact hx
  · exact (hx.nextRegular _).onAdc (fun _ => rfl) fun u => List.prefix_append _ _

theorem Block.pairAbandoned_adc (p : Pair) : (b.pairAbandoned p).adc = { b.adc with abandoned := b.adc.abandoned + 1 } := by
  unfold Block.pairAbandoned Block.settleAmp
  extract_lets counted told
  have htold : told.adc = { b.adc with abandoned := b.adc.abandoned + 1 } := by simp [told, counted]
  split <;> exact htold

/-- The period that begins takes what is bound to it, assigns the next and abandons what is late; the run goes on. -/
theorem Block.periodBegun_continues :
    Continues { b.adc with jobs := b.holdJobs } (((b.startPeriod q).assignNext q).abandonLate q) := by
  have hassigned : Continues { b.adc with jobs := b.holdJobs } ((b.startPeriod q).assignNext q) :=
    ⟨(b.startPeriod_continues q).run, (b.startPeriod_continues q).jobs⟩
  refine Continues.forEach (hassigned.aside (fun _ => rfl) fun _ => rfl) fun p x hx => ?_
  exact ⟨by rw [Block.pairAbandoned_adc]; exact hx.run, by rw [Block.pairAbandoned_adc]; exact hx.jobs⟩

/-- No pair waits past the start of its fourth eligible period (R134). -/
theorem Block.abandonLate_pairs : (b.abandonLate q).adc.pairs = b.adc.pairs.filter fun p => decide (q < p.elig + 3) := by
  unfold Block.abandonLate
  refine List.foldlRecOn (motive := fun x : Block => x.adc.pairs = b.adc.pairs.filter fun p => decide (q < p.elig + 3)) _ _ rfl ?_
  intro x hx p _
  rw [Block.pairAbandoned_adc]
  exact hx

end

/-! ### SLOT_PERIOD_START -/

section

variable {half : Bool} {codes : List Conv} {s : State}

theorem exec_slotPeriodStart (hlen : codes.length = 33) (hruns : s.blk.arrayRuns = true)
    (hq : s.blk.adc.period < 2 * s.blk.time.now + flag half) :
    exec (.slotPeriodStart half codes) s = .next { s with blk := s.blk.slotPeriod (2 * s.blk.time.now + flag half) codes } := by
  show execSlotPeriodStart half codes s = _
  simp [execSlotPeriodStart, State.runIf, State.run, Block.when, wellFormed, hlen, hruns, hq]

theorem exec_slotPeriodStart_again (hlen : codes.length = 33) (hq : 2 * s.blk.time.now + flag half ≤ s.blk.adc.period) :
    exec (.slotPeriodStart half codes) s = .next s := by
  show execSlotPeriodStart half codes s = _
  simp [execSlotPeriodStart, State.runIf, State.run, Block.when, wellFormed, hlen, Nat.not_lt.mpr hq]

/-- A period that starts is at its place, has the conversions that were bound to it, and keeps no pair that is late. -/
theorem Block.slotPeriod_starts (b : Block) (q : Nat) (codes : List Conv) :
    (b.slotPeriod q codes).adc.period = q ∧
    (∀ x ∈ b.adc.bound, (x.1, x.2.1, Job.hold x.2.2.1 x.2.2.2) ∈ (b.slotPeriod q codes).adc.jobs) ∧
    (∀ p ∈ (b.slotPeriod q codes).adc.pairs, q < p.elig + 3) := by
  have hplace := b.periodEnded_inPeriod q codes
  have hbegun := (b.periodEnded q codes).periodBegun_continues q
  rw [Block.slotPeriod_eq]
  refine ⟨hbegun.period.trans hplace.period, fun x hx => hbegun.jobs.subset ?_, fun p hp => ?_⟩
  · refine List.mem_map.mpr ⟨x, ?_, rfl⟩
    rw [hplace.bound]
    exact hx
  · rw [Block.abandonLate_pairs] at hp
    exact of_decide_eq_true (List.mem_filter.mp hp).2

/-- A period that starts with an exchange due makes it, and is the first period of the new run. -/
theorem Block.slotPeriod_exchanges {b : Block} {c o : Nat} {r : CalResult} (q : Nat) (codes : List Conv) (hjobs : b.adc.jobs = [])
    (hjoining : b.adc.joining = []) (hnone : ∀ x ∈ b.adc.slices, x.2.condemned = false) (hdue : b.adc.due = true)
    (hcarrel : b.adc.carrel = some c) (hnew : b.adc.newCoef = some r) (hnext : b.nextSlice c = some o) (hne : o ≠ c)
    (hfree : b.boundTo o = false) :
    (b.slotPeriod q codes).adc.carrel = some o ∧ (b.slotPeriod q codes).adc.due = false ∧ (b.slotPeriod q codes).adc.newCoef = none ∧
    (b.slotPeriod q codes).adc.runDone = (if b.adc.frozen then 0 else 1) ∧
    (b.slotPeriod q codes).slice c = { b.slice c with coef := r, rank := (b.slice o).rank } ∧
    (b.slotPeriod q codes).slice o = { b.slice o with rank := none } := by
  obtain ⟨x, hx, hended⟩ := Block.periodEnded_exchanges q codes hjobs hnew hjoining hnone hdue hcarrel hnext hne hfree
  have hbegun := x.countRun.periodBegun_continues q
  rw [← hended, ← Block.slotPeriod_eq, hended, hx.countRun] at hbegun
  have hrun := hbegun.run
  simp only [Adc.run, Prod.mk.injEq] at hrun
  obtain ⟨-, -, hnow, hdone, hwaits, hmade⟩ := hrun
  exact ⟨hnow, hmade, hwaits, hdone, (hbegun.slice rfl c).trans hx.coef, (hbegun.slice rfl o).trans hx.left⟩

end

/-! ### CAL_RUN_END (R145, R148) -/

section

variable {b : Block} {c : Nat} {r : CalResult}

/-- An accepted run: the slice's failures are forgotten, the coefficients wait, and the rotation is due. -/
theorem Block.runEnd_accepted (hcheck : calCheck (b.sliceFuse c) r = 0) :
    (b.runEnd c r).slice c = { b.slice c with accepted := true, fails := 0 } ∧ (b.runEnd c r).adc.due = true ∧
    (b.runEnd c r).adc.newCoef = some r ∧ (b.runEnd c r).reg 0x440005 = b.reg 0x440005 + 1 ∧
    (b.runEnd c r).reg (0x442006 + 256 * c) = b.reg (0x442006 + 256 * c) + 1 := by
  have heq : b.runEnd c r = ((((b.onSlice c fun k => { k with accepted := true, fails := 0 }).bump (0x442006 + 256 * c) 1).bump 0x440005
      1).retryOk (siteId 3 c)).onAdc fun t => { t with due := true, newCoef := some r } := if_pos hcheck
  generalize hy : ((b.onSlice c fun k => { k with accepted := true, fails := 0 }).bump (0x442006 + 256 * c) 1).bump 0x440005 1 = y at heq
  have hretry : Keeps [.flt] y (y.retryOk (siteId 3 c)) := Block.retryOk_keeps (.refl _ _) rfl
  have hreg (k : Nat) : (b.runEnd c r).reg k = y.reg k := by
    rw [heq]; exact hretry.reg_eq rfl rfl rfl rfl k
  have hslices : (b.runEnd c r).adc.slices = (b.onSlice c fun k => { k with accepted := true, fails := 0 }).adc.slices := by
    rw [heq, Block.onAdc_adc, hretry.adc_eq rfl, ← hy, Block.bump_adc, Block.bump_adc]
  refine ⟨(Block.slice_congr hslices c).trans (Block.onSlice_slice_same ..), by rw [heq]; rfl, by rw [heq]; rfl, ?_, ?_⟩
  · rw [hreg, ← hy, Block.reg_bump_same, Block.reg_bump_ne _ _ (by omega)]; rfl
  · rw [hreg, ← hy, Block.reg_bump_ne _ _ (by omega), Block.reg_bump_same]; rfl

/-- A failed run: the slice counts it and keeps its coefficients, and the run starts again. -/
theorem Block.runEnd_failed (hcheck : calCheck (b.sliceFuse c) r ≠ 0) (hc : c < 33) (hdue : b.adc.due = false) :
    ((b.runEnd c r).slice c).fails = (b.slice c).fails + 1 ∧ ((b.runEnd c r).slice c).coef = (b.slice c).coef ∧
    (b.runEnd c r).adc.runDone = 0 ∧ (b.runEnd c r).adc.due = false ∧
    (b.runEnd c r).reg (0x442007 + 256 * c) = b.reg (0x442007 + 256 * c) + 1 := by
  have heq : b.runEnd c r = _ := if_neg hcheck
  generalize hy : ((((b.onSlice c fun k => { k with fails := k.fails + 1 }).bump (0x442007 + 256 * c) 1).raise 0x40
    [.id 6 c, .id 8 (calCheck (b.sliceFuse c) r)]).onAdc fun t => { t with runDone := 0 }) = y at heq
  have hfails : y.slice c = { b.slice c with fails := (b.slice c).fails + 1 } := by
    rw [← hy]
    refine (Block.slice_congr ?_ c).trans (b.onSlice_slice_same c fun k => { k with fails := k.fails + 1 })
    rw [Block.onAdc_adc, Block.raise_adc, Block.bump_adc]
  have hrun : y.adc.runDone = 0 ∧ y.adc.due = false := by
    rw [← hy, Block.onAdc_adc, Block.raise_adc, Block.bump_adc]
    exact ⟨rfl, hdue⟩
  have hcount : Reads (0x442007 + 256 * c) (b.reg (0x442007 + 256 * c) + 1) y := by
    rw [← hy]
    exact ⟨by omega, (Block.reg_raise_low _ _ _ (by omega)).trans (Block.reg_bump_same ..)⟩
  have hleft : CondemnsOnly y (b.runEnd c r) := by
    rw [heq]
    exact .ite ((CondemnsOnly.transient (.refl y) _).permanent _ _) (.transient (.refl y) _)
  have hreads : Reads (0x442007 + 256 * c) (b.reg (0x442007 + 256 * c) + 1) (b.runEnd c r) := by
    rw [heq]
    exact .ite ((hcount.transient _).permanent _ _) (hcount.transient _)
  exact ⟨(congrArg Slice.fails (hleft.slice c)).trans (congrArg Slice.fails hfails),
    (congrArg Slice.coef (hleft.slice c)).trans (by rw [hfails]),
    (congrArg Adc.runDone hleft.rest).trans hrun.1, (congrArg Adc.due hleft.rest).trans hrun.2, hreads.reg⟩

theorem exec_calRunEnd {s : State} (hlen : r.weights.length = 14) (hcarrel : s.blk.adc.carrel = some c) (hruns : s.blk.arrayRuns = true)
    (hfrozen : s.blk.adc.frozen = false) (hdue : s.blk.adc.due = false) (hlong : s.blk.runLength ≤ s.blk.adc.runDone) :
    exec (.calRunEnd r) s = .next { s with blk := s.blk.runEnd c r } := by
  show execCalRunEnd r s = _
  simp [execCalRunEnd, State.runIf, State.run, wellFormed, Block.when, hlen, hcarrel, hruns, hfrozen, hdue, hlong]

end

/-! ### The obligation -/

/-- Settles O31: a period completes, rotates, begins, assigns and abandons in this order, and the end of a run is judged by its checks. -/
theorem periodsAndRuns : Obligations.PeriodsAndRuns := by
  unfold Obligations.PeriodsAndRuns
  refine ⟨fun half codes s hlen hruns => ?_, fun c r s hlen hcarrel hruns hfrozen hdue hlong => ?_⟩
  · refine ⟨fun hq => ?_, fun c o r hq hjobs hjoining hnone hdue hcarrel hnew hnext hne hfree => ?_, exec_slotPeriodStart_again hlen⟩
    · exact does_of_next (exec_slotPeriodStart hlen hruns hq) (s.blk.slotPeriod_starts _ codes)
    · exact does_of_next (exec_slotPeriodStart hlen hruns hq)
        (Block.slotPeriod_exchanges _ codes hjobs hjoining hnone hdue hcarrel hnew hnext hne hfree)
  · have hexec := exec_calRunEnd hlen hcarrel hruns hfrozen hdue hlong
    exact ⟨fun hcheck => does_of_next hexec (Block.runEnd_accepted hcheck),
      fun hcheck => does_of_next hexec (Block.runEnd_failed hcheck c.isLt hdue)⟩

end Sys2Proof.Machine
end

section
/-! PROOFS. Hit classification and accepts (R158 to R168, R176 to R180, R186, R199, R309, R447): an entry that is discarded or forms its record,
and what ACCEPT, AUTO_ACCEPT_DUE and SELF_TRIGGER_DROPPED do to the accepts. -/

namespace Sys2Proof.Machine

/-! ### An entry leaves its channel (R158, R160, R166, R168) -/

/-- The record of an entry stands among those formed, counted for all channels and for its own. -/
def Block.recorded (b : Block) (c : Nat) (e : Entry) : Block :=
  ((b.onStk fun k => { k with formed := k.formed ++ [⟨c / 16, b.recordOf c e, e.leadAt, b.time.now⟩] }).bump 0x481007 1).bump
    (0x490004 + 256 * c) 1

section

variable {b : Block} {c : Nat} {e : Entry}

theorem Block.discardedBy_entries (l : List Entry) : (b.onChan c fun k => { k with entries := l }).discardedBy c e = b.discardedBy c e := by
  have hsuppressed : (b.onChan c fun k => { k with entries := l }).suppressed c e = b.suppressed c e := by
    unfold Block.suppressed
    rw [Block.chan_onChan_same]
    rfl
  unfold Block.discardedBy
  rw [hsuppressed]
  rfl

theorem Block.discardedBy_le {n : Nat} (h : b.discardedBy c e = some n) : n ≤ 4 := by
  unfold Block.discardedBy at h
  dsimp only at h
  split_ifs at h <;> cases h <;> decide

theorem Block.classify_some {n : Nat} (h : b.discardedBy c e = some n) :
    b.classify c e = (b.bump (0x481000 + n) 1).bump (0x490005 + 256 * c) 1 := by simp only [Block.classify, h]

theorem Block.classify_none (h : b.discardedBy c e = none) : b.classify c e = b.formRecord c e := by simp only [Block.classify, h]

/-- Beside the record and its counts, what became of the amplitude: withdrawn, held, or never taken (R166, R167). -/
theorem Block.formRecord_cases : b.formRecord c e = (b.recorded c e).ampWithdrawn c e.leadAt ∨ b.formRecord c e = b.recorded c e ∨
    b.formRecord c e = (b.recorded c e).bump 0x481005 1 := by
  unfold Block.formRecord
  cases e.amp with
  | abandoned => exact .inl rfl
  | codes hg lg => exact .inr (.inl rfl)
  | _ => exact .inr (.inr rfl)

theorem Reads.formRecord {k v : Nat} (h : Reads k v (b.recorded c e)) (hnone : k ≠ 0x481005) (hamp : k ≠ 0x481006) (hwd : k ≠ 0x214008) :
    Reads k v (b.formRecord c e) := by
  obtain heq | heq | heq := b.formRecord_cases (c := c) (e := e) <;> rw [heq]
  · exact ((h.bump _ hamp).bump _ hwd).raiseOnce _ _ _
  · exact h
  · exact h.bump _ hnone

theorem ChanIs.formRecord {a : Block} {d : Nat} {k : Chan} (h : ChanIs a b d k) : ChanIs a (b.formRecord c e) d k :=
  h.keeps (Block.formRecord_keeps (.refl [.stk, .regs, .ev] b) rfl) rfl

theorem Block.formRecord_stk : (b.formRecord c e).stk =
    { b.stk with formed := b.stk.formed ++ [⟨c / 16, b.recordOf c e, e.leadAt, b.time.now⟩] } := by
  obtain heq | heq | heq := b.formRecord_cases (c := c) (e := e) <;> simp [heq, Block.recorded, Block.ampWithdrawn]

theorem Block.formRecord_counts (hc : c < 256) : (b.formRecord c e).reg 0x481007 = b.reg 0x481007 + 1 ∧
    (b.formRecord c e).reg (0x490004 + 256 * c) = b.reg (0x490004 + 256 * c) + 1 := by
  have hall : (b.recorded c e).reg 0x481007 = b.reg 0x481007 + 1 := by
    rw [Block.recorded, Block.reg_bump_ne _ _ (by omega), Block.reg_bump_same, Block.onStk_reg]
  have hown : (b.recorded c e).reg (0x490004 + 256 * c) = b.reg (0x490004 + 256 * c) + 1 := by
    rw [Block.recorded, Block.reg_bump_same, Block.reg_bump_ne _ _ (by omega), Block.onStk_reg]
  exact ⟨(Reads.formRecord ⟨by decide, hall⟩ (by decide) (by decide) (by decide)).reg,
    (Reads.formRecord ⟨by omega, hown⟩ (by omega) (by omega) (by omega)).reg⟩

end

theorem exec_classifyEntry {c : Ch} {e : Entry} {rest : List Entry} {s : State} (h : (s.blk.chan c.val).entries = e :: rest) :
    exec (.classifyEntry c) s = .next { s with blk := s.blk.when (s.blk.running && !s.blk.cRole && e.ready s.blk.time.now) fun b =>
      (b.onChan c.val fun k => { k with entries := rest }).classify c.val e } := by
  show execClassifyEntry c s = _
  simp only [execClassifyEntry, State.run, h]

/-- Settles O28: the entry leaves the channel, and its classifier's counts or its record are all that is left of it. -/
theorem entriesAreClassified : Obligations.EntriesAreClassified := by
  unfold Obligations.EntriesAreClassified
  intro c e rest s hrun hrole hentries k
  have hexec := exec_classifyEntry hentries
  have hleaves : ChanIs s.blk (s.blk.onChan c.val fun k => { k with entries := rest }) c.val { k with entries := rest } :=
    (ChanIs.refl _ _).step _
  refine ⟨fun hready => ?_, fun n hready hdiscard => ?_, fun hready hdiscard => ?_⟩
  · exact exec_of_not_when hexec (by simp [hready])
  · refine does_of_when hexec (by simp [hrun, hrole, hready]) ?_
    have hn := Block.discardedBy_le hdiscard
    rw [Block.classify_some ((Block.discardedBy_entries rest).trans hdiscard)]
    refine ⟨(hleaves.bump _ _).bump _ _, by simp, ?_, ?_⟩
    · rw [Block.reg_bump_ne _ _ (by omega), Block.reg_bump_same, Block.onChan_reg]
    · rw [Block.reg_bump_same, Block.reg_bump_ne _ _ (by omega), Block.onChan_reg]
  · refine does_of_when hexec (by simp [hrun, hrole, hready]) ?_
    rw [Block.classify_none ((Block.discardedBy_entries rest).trans hdiscard)]
    exact ⟨hleaves.formRecord, Block.formRecord_stk, Block.formRecord_counts c.isLt⟩

/-! ### ACCEPT (R176, R177, R180, R186, R199, R309, R447) -/

/-- An accept as an F-role registers it for its read crossing, or as late where that has begun. -/
def Block.registered (b : Block) (x kind : Nat) (mark : Option Word64) : RegAccept :=
  let t := b.readCrossing x
  let late := decide (t ≤ b.time.now)
  { cross := x, kind := kind, q := b.rsAt x 0x4A0003, p := b.rsAt x 0x4A0004, read := if late then b.time.now + 1 else t,
    got := b.time.now, late := late, mark := mark }

section

variable {b : Block} {kind orbit slot x : Nat}

theorem Block.commandInvalid_latched (type : Nat) : (b.commandInvalid type).latched 0xAB = true := Block.latched_raise_self _ (by decide) _

theorem Block.commandInvalid_counts (type : Nat) : (b.commandInvalid type).reg 0x5B0009 = b.reg 0x5B0009 + 1 := by
  rw [Block.commandInvalid, Block.reg_raise_low _ _ _ (by decide), Block.reg_bump_same]

theorem Block.actAccept_refused (hbad : kind = 3 ∨ ((b.cRole = true ∨ b.topology = 2) ∧ kind ≠ 0)) :
    b.actAccept kind orbit slot = b.commandInvalid 1 := if_pos hbad

theorem Block.actAccept_unnamed (hbad : ¬(kind = 3 ∨ ((b.cRole = true ∨ b.topology = 2) ∧ kind ≠ 0)))
    (hcross : b.acceptCross orbit slot = none) : b.actAccept kind orbit slot = b := by
  rw [Block.actAccept, if_neg hbad, hcross]

theorem Block.actAccept_named (hbad : ¬(kind = 3 ∨ ((b.cRole = true ∨ b.topology = 2) ∧ kind ≠ 0)))
    (hcross : b.acceptCross orbit slot = some x) : b.actAccept kind orbit slot =
      if b.cRole && !b.boot.released then b.bump 0x48300C 1
      else if b.cRole then b.onAcc fun a => { a with external := some (kind, x) }
      else if b.direct then (b.onAcc fun a => { a with external := some (kind, x) }).directAccept x kind 0
      else b.register x kind none := by
  rw [Block.actAccept, if_neg hbad, hcross]

/-- Taking its own accept, a direct-attached F-role leaves the one of the back-end kept. -/
theorem Block.directAccept_external (sum : Nat) : (b.directAccept x kind sum).acc.external = b.acc.external := by
  have hadmits : (b.admits x kind b.time.now).2.acc = b.acc := (Block.admits_keeps (.refl [.regs, .ev] b) rfl).acc_eq rfl
  unfold Block.directAccept
  dsimp only
  split
  · rw [(Block.register_keeps (.refl [.stk, .queues, .mrg, .regs, .ev] _) rfl).acc_eq rfl, Block.noteAccept, Block.onAcc_acc, Block.bump_acc,
      hadmits]
  · rw [hadmits]

theorem Block.register_window (mark : Option Word64) (hwindow : b.streaming x = false) :
    let r := (b.bump 0x4A2001 1).onStk fun k => { k with accs := k.accs ++ [b.registered x kind mark] }
    b.register x kind mark = if (b.registered x kind mark).late then
      (r.bump 0x4A2002 1).raise 0x58 [r.nameFld x, .cnt 16 (r.time.now - b.readCrossing x)] else r := by
  unfold Block.register
  rw [if_neg (by simp [hwindow])]
  rfl

theorem Block.register_registers (mark : Option Word64) (hwindow : b.streaming x = false) :
    (b.register x kind mark).stk = { b.stk with accs := b.stk.accs ++ [b.registered x kind mark] } ∧
    (b.register x kind mark).reg 0x4A2001 = b.reg 0x4A2001 + 1 ∧
    (b.register x kind mark).reg 0x4A2002 = b.reg 0x4A2002 + flag (b.registered x kind mark).late ∧
    ((b.registered x kind mark).late = true → (b.register x kind mark).latched 0x58 = true) := by
  rw [Block.register_window mark hwindow]
  cases (b.registered x kind mark).late with
  | true =>
    refine ⟨by simp, ?_, ?_, fun _ => Block.latched_raise_self _ (by decide) _⟩
    · rw [if_pos rfl, Block.reg_raise_low _ _ _ (by decide), Block.reg_bump_ne _ _ (by decide), Block.onStk_reg, Block.reg_bump_same]
    · rw [if_pos rfl, Block.reg_raise_low _ _ _ (by decide), Block.reg_bump_same, Block.onStk_reg, Block.reg_bump_ne _ _ (by decide)]
      rfl
  | false => exact ⟨by simp, Block.reg_bump_same .., Block.reg_bump_ne _ _ (by decide), nofun⟩

end

/-! ### Forced accepts and dropped self triggers (R178, R179) -/

/-- The oldest self trigger q is given up: the others wait on, and it is counted and told. -/
def Block.selfDropped (b : Block) (q : SelfTrig) (rest : List SelfTrig) : Block :=
  ((b.onAcc fun a => { a with waiting := rest }).bump 0x48300D 1).raise 0x54 [b.nameFld q.cross, .cnt 16 (b.time.now - q.made), .id 1 1]

theorem exec_selfTriggerDropped {q : SelfTrig} {rest : List SelfTrig} {s : State} (h : s.blk.acc.waiting = q :: rest) :
    exec .selfTriggerDropped s =
      .next { s with blk := s.blk.when (s.blk.running && decide (q.made + 16 ≤ s.blk.time.now)) fun b => b.selfDropped q rest } := by
  show execSelfTriggerDropped s = _
  simp only [execSelfTriggerDropped, State.run, h]
  rfl

theorem Block.selfDropped_drops (b : Block) (q : SelfTrig) (rest : List SelfTrig) :
    (b.selfDropped q rest).acc = { b.acc with waiting := rest } ∧ (b.selfDropped q rest).reg 0x48300D = b.reg 0x48300D + 1 ∧
    (b.selfDropped q rest).latched 0x54 = true := by
  refine ⟨by simp [Block.selfDropped], ?_, Block.latched_raise_self _ (by decide) _⟩
  rw [Block.selfDropped, Block.reg_raise_low _ _ _ (by decide), Block.reg_bump_same, Block.onAcc_reg]

/-- Settles O35: an accept is refused, names nothing, or is kept, counted as stale or registered as the role has it. -/
theorem acceptsAreTaken : Obligations.AcceptsAreTaken := by
  unfold Obligations.AcceptsAreTaken
  refine ⟨fun kind orbit slot s hobeys => ?_, fun s hrun => ⟨fun hrole hauto hdue => ?_, fun hmanual => ?_, fun q rest hwaiting hold => ?_,
    fun q rest hwaiting hyoung => ?_⟩⟩
  · intro bad
    refine ⟨fun hbad => does_of_when rfl hobeys ?_, fun hbad hcross => ?_, fun x hbad hcross => ?_⟩
    · rw [Block.actAccept_refused hbad]
      have hkeeps : Keeps [.regs, .ev] s.blk (s.blk.commandInvalid 1) := Block.commandInvalid_keeps (.refl _ _) rfl
      exact ⟨hkeeps.acc_eq rfl, hkeeps.stk_eq rfl, Block.commandInvalid_latched 1, Block.commandInvalid_counts 1⟩
    · exact exec_of_when_same rfl (Block.actAccept_unnamed hbad hcross)
    · have hdoes {P : Block → Prop} (hP : P (s.blk.actAccept kind.toNat orbit.toNat slot.toNat)) : Does (.accept kind orbit slot) s P :=
        does_of_when rfl hobeys hP
      rw [Block.actAccept_named hbad hcross] at hdoes
      refine ⟨fun hrole hreleased => hdoes ?_, fun hrole hreleased => hdoes ?_, fun hrole htopology => hdoes ?_,
        fun hrole htopology hwindow => ?_⟩
      · simp [hrole, hreleased]
      · simp [hrole, hreleased]
      · have hdirect : s.blk.direct = true := by simp [Block.direct, hrole, htopology]
        simp [hrole, hdirect, Block.directAccept_external]
      · have hdirect : s.blk.direct = false := by simp [Block.direct, htopology]
        refine hdoes ?_
        simp only [hrole, hdirect, Bool.false_and, Bool.false_eq_true, if_false]
        exact Block.register_registers none hwindow
  · exact does_of_when rfl (by simp [hrun, hrole, hauto, hdue]) rfl
  · exact exec_of_not_when rfl (by simp [hmanual])
  · exact does_of_when (exec_selfTriggerDropped hwaiting) (by simp [hrun, hold]) (s.blk.selfDropped_drops q rest)
  · exact exec_of_not_when (exec_selfTriggerDropped hwaiting) (by simp [hyoung])

end Sys2Proof.Machine
end

section
/-! PROOFS. Queues (R203 to R206, R255): what becomes of the one queue that a record, a stale word or a drain touches. -/

namespace Sys2Proof.Machine

/-! ### One queue changes -/

/-- Queue q of block b is u, and every other queue is that of block a. -/
structure QueueIs (a b : Block) (q : Nat) (u : Queue) : Prop where
  own : b.queue q = u
  rest : ∀ p, p ≠ q → b.queue p = a.queue p

section

variable {a b x y : Block} {q : Nat} {u : Queue}

theorem QueueIs.refl (b : Block) (q : Nat) : QueueIs b b q (b.queue q) := ⟨rfl, fun _ _ => rfl⟩

theorem QueueIs.same (h : QueueIs a x q u) (hxy : y.queues = x.queues) : QueueIs a y q u := by
  have hqueue (p : Nat) : y.queue p = x.queue p := by rw [Block.queue, hxy, Block.queue]
  exact ⟨(hqueue q).trans h.own, fun p hp => (hqueue p).trans (h.rest p hp)⟩

theorem QueueIs.ite {c : Prop} [Decidable c] (hx : QueueIs a x q u) (hy : QueueIs a y q u) : QueueIs a (if c then x else y) q u := by
  split <;> assumption

theorem QueueIs.onQueue (h : QueueIs a b q u) (f : Queue → Queue) : QueueIs a (b.onQueue q f) q (f u) :=
  ⟨by rw [Block.queue_onQueue_same, h.own], fun p hp => by rw [Block.queue_onQueue_ne _ _ hp, h.rest p hp]⟩

theorem QueueIs.bump (h : QueueIs a b q u) (k n : Nat) : QueueIs a (b.bump k n) q u := h.same (Block.bump_queues ..)

theorem QueueIs.raiseOnce (h : QueueIs a b q u) (n k : Nat) (l : List Fld) : QueueIs a (b.raiseOnce n k l) q u :=
  h.same (Block.raiseOnce_queues ..)

theorem QueueIs.numbered (h : QueueIs a b q u) (p : Nat) (r : QRec) : QueueIs a (b.numbered p r) q u :=
  h.same ((Block.numbered_keeps (.refl [.mrg, .regs, .ev] b) rfl).queues_eq rfl)

/-- Level, peak and notice change the re-arm of the notice alone (R205). -/
theorem QueueIs.queueNotice (h : QueueIs a b q u) : ∃ v, QueueIs a (b.queueNotice q) q { u with noticed := v } := by
  have hpeak := h.same (Block.peak_queues b (queueKey q 4) (b.queue q).level)
  unfold Block.queueNotice
  extract_lets u' cfg lim peaked noticed
  split
  · exact ⟨true, .ite ((hpeak.onQueue _).same (Block.raise_queues ..)) (hpeak.onQueue _)⟩
  · split
    · exact ⟨false, hpeak.onQueue _⟩
    · exact ⟨u.noticed, hpeak⟩

end

/-! ### A record takes its place (R203, R255) -/

/-- A queue whose open word has taken a record, the fifth of which closes it. -/
def Queue.placed (u : Queue) (r : QRec) (now : Nat) : Queue :=
  if (u.open_ ++ [r]).length < 5 then { u with open_ := u.open_ ++ [r], openAt := if u.open_.isEmpty then now else u.openAt }
  else { u with open_ := [], words := u.words ++ [⟨0, u.open_ ++ [r], now, false⟩] }

theorem Queue.placed_open {u : Queue} (h : u.open_.length < 4) (r : QRec) (now : Nat) :
    u.placed r now = { u with open_ := u.open_ ++ [r], openAt := if u.open_.isEmpty then now else u.openAt } :=
  if_pos (by rw [List.length_append, List.length_singleton]; omega)

theorem Queue.placed_full {u : Queue} (h : 4 ≤ u.open_.length) (r : QRec) (now : Nat) :
    u.placed r now = { u with open_ := [], words := u.words ++ [⟨0, u.open_ ++ [r], now, false⟩] } :=
  if_neg (by rw [List.length_append, List.length_singleton]; omega)

section

variable {a b : Block} {q k v : Nat} {u : Queue} {r : QRec}

theorem QueueIs.qPlace (h : QueueIs a b q u) (r : QRec) :
    ∃ n, QueueIs a (b.qPlace q r) q { u.placed (b.summed q r) b.time.now with noticed := n } := by
  obtain rfl := h.own
  have hplaced : QueueIs a (b.onQueue q fun u => u.placed (b.summed q r) b.time.now) q _ := h.onQueue _
  unfold Block.qPlace
  exact QueueIs.queueNotice ((QueueIs.ite (.bump (h.onQueue _) _ _) (h.onQueue _)).numbered _ _)

theorem Reads.peak (hb : Reads k v b) {key : Nat} (n : Nat) (hk : k ≠ key) : Reads k v (b.peak key n) := .ite (hb.setReg n hk) hb

/-- Of the entries below the event tables the level's peak alone changes. -/
theorem Reads.queueNotice (hb : Reads k v b) (hk : k ≠ queueKey q 4) : Reads k v (b.queueNotice q) := by
  have hpeak := hb.peak (b.queue q).level hk
  have hnoticed (n : Bool) : Reads k v ((b.peak (queueKey q 4) (b.queue q).level).onQueue q fun u => { u with noticed := n }) :=
    hpeak.same rfl
  unfold Block.queueNotice
  exact .ite (.ite ((hnoticed true).raise _ _) (hnoticed true)) (.ite (hnoticed false) hpeak)

/-- What a record's place in an UP queue does to its uplink changes entries 51uu alone (R255). -/
theorem Reads.numbered (hb : Reads k v b) (hk : 0x520000 ≤ k) (q : Nat) (r : QRec) : Reads k v (b.numbered q r) := by
  unfold Block.numbered
  split
  · exact hb
  · next hup =>
    have hq : q < 0x2D := isUp_lt (by simpa using hup)
    have haccount : Reads k v (b.account (q - 0x20) r) := hb.same rfl
    refine .ite (.raise ?_ _ _) haccount
    exact (((haccount.setReg _ (by omega)).setReg _ (by omega)).setReg _ (by omega)).setReg _ (by omega)

theorem Reads.qPlace (hb : Reads k v b) (hk : 0x520000 ≤ k) (hpeak : k ≠ queueKey q 4) (hclosed : k ≠ queueKey q 5) (r : QRec) :
    Reads k v (b.qPlace q r) := by
  unfold Block.qPlace
  extract_lets placed u recs entered
  have hentered : Reads k v entered := hb.same rfl
  exact (Reads.numbered (.ite (hentered.bump 1 hclosed) hentered) hk _ _).queueNotice hpeak

theorem queueKey_inj {q e d : Nat} : queueKey q e = queueKey q d ↔ e = d := by unfold queueKey; omega

/-- The fifth record closes its word, which is counted. -/
theorem Block.qPlace_counts (hq : q < 256) (hopen : 4 ≤ (b.queue q).open_.length) (r : QRec) :
    (b.qPlace q r).reg (queueKey q 5) = b.reg (queueKey q 5) + 1 := by
  have hfive : 5 ≤ ((b.queue q).open_ ++ [b.summed q r]).length := by rw [List.length_append, List.length_singleton]; omega
  unfold Block.qPlace
  extract_lets placed u recs entered closed
  have hclosed : Reads (queueKey q 5) (b.reg (queueKey q 5) + 1) closed :=
    ⟨by unfold queueKey; omega, by simp only [closed, recs, u, placed, if_pos hfive, Block.reg_bump_same]; rfl⟩
  have hlow : 0x520000 ≤ queueKey q 5 := by unfold queueKey; omega
  exact ((hclosed.numbered hlow _ _).queueNotice (by simp [queueKey_inj])).reg

end

/-! ### A record is written (R203, R206) -/

theorem Queue.waits_false {u : Queue} : u.waits = false ↔ u.hold = [] ∧ u.refused = [] := by
  simp [Queue.waits, List.isEmpty_iff]

section

variable {b : Block} {q : Nat} {r : QRec}

/-- A queue whose reserve is full has no room. -/
theorem Queue.room_false {u : Queue} {cap : Nat} (h : u.room cap true = false) : u.room cap false = false := by
  simp only [Queue.room, if_true, Bool.false_eq_true, if_false] at h ⊢
  split at h
  · next hopen => rw [if_pos hopen]; simp only [decide_eq_false_iff_not] at h ⊢; omega
  · next hopen => rw [if_neg hopen]; simp only [decide_eq_false_iff_not] at h ⊢; omega

/-- A record that finds room where nothing waits takes its place at once. -/
theorem Block.qWrite_of_room (hwaits : (b.queue q).waits = false) (hroom : (b.queue q).room (queueCapacity q) r.control = true) :
    b.qWrite q r = b.qPlace q r := by
  cases hcontrol : r.control with
  | true => exact Block.qWrite_places hcontrol hwaits (hcontrol ▸ hroom)
  | false =>
    rw [hcontrol] at hroom
    simp [Block.qWrite, Queue.waiting_zero hwaits, Block.qDrain, hcontrol, hwaits, hroom]

/-- No control record enters where the reserve is full. -/
theorem Block.qWrite_of_full (hcontrol : r.control = false) (hwaits : (b.queue q).waits = false)
    (hroom : (b.queue q).room (queueCapacity q) true = false) : b.qWrite q r = b.qRefuse q r := by
  simp [Block.qWrite, Queue.waiting_zero hwaits, Block.qDrain, hcontrol, Queue.room_false hroom]

/-- Where the reserve is full a refusal is counted and goes into the table. -/
theorem Block.qRefuse_of_full (hroom : (b.queue q).room (queueCapacity q) true = false) (r : QRec) :
    b.qRefuse q r = ((b.bump (queueKey q 8) 1).raiseOnce 0x5E q [.id 8 q, b.nameFld r.cross, .cnt 16 (recCount r)]).onQueue q fun u =>
      { u with refused := refuse u.refused r.cross (recCount r) (r.throttled || b.throttled) r.hdr } := by
  have hqueue (n : Nat) (l : List Fld) : ((b.bump (queueKey q 8) 1).raiseOnce n q l).queue q = b.queue q :=
    (((QueueIs.refl b q).bump _ _).raiseOnce _ _ _).own
  simp [Block.qRefuse, hqueue, hroom, Block.throttled]

/-- A record that is no control record stands for itself. -/
theorem recCount_of_not_control (hcontrol : r.control = false) (hgroup : r.group = false) : recCount r = 1 := by
  have hclass : typeOf r.word = 0x84 → classOf r.word = 2 := by
    simp only [typeOf, classOf, bits, Nat.shiftRight_eq_div_pow]
    omega
  have hnot : classOf r.word ≠ 2 := by simpa [QRec.control, hgroup] using hcontrol
  rw [recCount, if_neg fun h => hnot (hclass h.1)]

theorem refuse_nil (x : Nat) (throttled : Bool) : refuse [] x 1 throttled none = [(x, ⟨1, throttled, none⟩)] := by
  simp [refuse, tabGet, tabFind, tabSet, unknownCount]

theorem Block.qRefuse_queueIs (hcontrol : r.control = false) (hgroup : r.group = false) (hhdr : r.hdr = none)
    (hwaits : (b.queue q).waits = false) (hroom : (b.queue q).room (queueCapacity q) true = false) :
    QueueIs b (b.qRefuse q r) q { b.queue q with refused := [(r.cross, ⟨1, r.throttled || b.throttled, none⟩)] } := by
  have hnone : (b.queue q).refused = [] := (Queue.waits_false.mp hwaits).2
  rw [← refuse_nil, ← hnone, ← recCount_of_not_control hcontrol hgroup, ← hhdr, Block.qRefuse_of_full hroom]
  exact (((QueueIs.refl b q).bump _ _).raiseOnce _ _ _).onQueue _

theorem Block.qRefuse_counts (hq : q < 256) (hroom : (b.queue q).room (queueCapacity q) true = false) (r : QRec) :
    (b.qRefuse q r).reg (queueKey q 8) = b.reg (queueKey q 8) + 1 := by
  have hlow : queueKey q 8 < 0x780000 := queueKey_low hq (by decide)
  rw [Block.qRefuse_of_full hroom, Block.onQueue_reg, Block.reg_raiseOnce_low _ _ _ _ hlow, Block.reg_bump_same]

/-! ### A word goes stale (R204) -/

/-- A queue whose open word has closed before its fifth record. -/
def Queue.closedEarly (u : Queue) (now : Nat) : Queue := { u with open_ := [], words := u.words ++ [⟨0, u.open_, now, false⟩] }

theorem Block.qStale_open (hstale : b.qStale q = true) : (b.queue q).open_.isEmpty = false := by
  simp only [Block.qStale, Bool.and_eq_true, Bool.not_eq_true'] at hstale
  exact hstale.1.1

theorem Block.qClose_open (hopen : (b.queue q).open_.isEmpty = false) :
    b.qClose q = (b.onQueue q fun u => u.closedEarly b.time.now).bump (queueKey q 6) 1 := by
  rw [Block.qClose, hopen]
  simp [Block.onQueue, tabMod, Queue.closedEarly]

theorem Block.qStaleClose_queueIs (hstale : b.qStale q = true) :
    QueueIs b (b.qStaleClose q) q ((b.queue q).closedEarly b.time.now) := by
  rw [Block.qStaleClose, Block.qClose_open (Block.qStale_open hstale)]
  exact ((((QueueIs.refl b q).onQueue _).bump _ _).bump _ _).raiseOnce _ _ _

theorem Block.qStaleClose_counts (hq : q < 256) (hstale : b.qStale q = true) :
    (b.qStaleClose q).reg (queueKey q 7) = b.reg (queueKey q 7) + 1 := by
  have hlow : queueKey q 7 < 0x780000 := queueKey_low hq (by decide)
  rw [Block.qStaleClose, Block.reg_raiseOnce_low _ _ _ _ hlow, Block.reg_bump_same, Block.qClose_open (Block.qStale_open hstale),
    Block.reg_bump_ne _ _ (by simp [queueKey_inj]), Block.onQueue_reg]

/-! ### The hold drains (R206) -/

/-- A held record enters the queue as soon as it has room. -/
theorem Block.qDrain_held (hhold : (b.queue q).hold = [r]) (hroom : (b.queue q).room (queueCapacity q) true = true) :
    b.qDrain 1 q = (b.onQueue q fun u => { u with hold := [] }).qPlace q r := by
  simp [Block.qDrain, hroom, hhold]

theorem QueueIs.qDrain_held (hhold : (b.queue q).hold = [r]) (hroom : (b.queue q).room (queueCapacity q) true = true) :
    ∃ n, QueueIs b (b.qDrain 1 q) q { ({ b.queue q with hold := [] } : Queue).placed (b.summed q r) b.time.now with noticed := n } := by
  rw [Block.qDrain_held hhold hroom]
  exact ((QueueIs.refl b q).onQueue _).qPlace r

end

/-! ### The obligation -/

section

variable {s : State} {q : BitVec 8}

theorem does_queueRecordWrite {P : Block → Prop} {w : Word64} (hin : queueIn s.blk.cRole q.toNat = true)
    (hP : P (s.blk.qWrite q.toNat { word := w, cross := s.blk.time.now })) : Does (.queueRecordWrite q w) s P := does_of_when rfl hin hP

theorem does_queueHoldDrain {P : Block → Prop} (hin : queueIn s.blk.cRole q.toNat = true)
    (hP : P (s.blk.qDrain (s.blk.queue q.toNat).waiting q.toNat)) : Does (.queueHoldDrain q) s P := does_of_when rfl hin hP

end

/-- Settles O33: each command as what becomes of the one queue it names, and what it counts there. -/
theorem queuesTakeAndCloseWords : Obligations.QueuesTakeAndCloseWords := by
  unfold Obligations.QueuesTakeAndCloseWords
  refine ⟨fun q w s hin => ?_, fun q s hin => ?_⟩
  · intro u r placed hwaits
    refine ⟨fun hcontrol hroom => does_queueRecordWrite hin ?_, fun hroom hopen => does_queueRecordWrite hin ?_,
      fun hroom hopen => does_queueRecordWrite hin ?_⟩
    · have hrefused := Block.qRefuse_queueIs hcontrol rfl rfl hwaits hroom
      rw [Block.qWrite_of_full hcontrol hwaits hroom]
      exact ⟨hrefused.own, hrefused.rest, Block.qRefuse_counts q.isLt hroom r⟩
    · obtain ⟨n, hplaced⟩ := (QueueIs.refl s.blk q.toNat).qPlace r
      rw [Block.qWrite_of_room hwaits hroom, hplaced.own, Queue.placed_open hopen]
      exact ⟨rfl, rfl, hplaced.rest⟩
    · obtain ⟨n, hplaced⟩ := (QueueIs.refl s.blk q.toNat).qPlace r
      rw [Block.qWrite_of_room hwaits hroom, hplaced.own, Queue.placed_full hopen]
      exact ⟨rfl, rfl, hplaced.rest, Block.qPlace_counts q.isLt hopen r⟩
  · intro u
    refine ⟨fun hstale => ?_, fun hfresh => ?_, fun r hhold hrefused hroom hopen => does_queueHoldDrain hin ?_, fun hhold hrefused => ?_⟩
    · have hclosed := Block.qStaleClose_queueIs hstale
      exact does_of_when rfl (by rw [hin, hstale]; rfl) ⟨hclosed.own, hclosed.rest, Block.qStaleClose_counts q.isLt hstale⟩
    · exact exec_of_not_when rfl (by rw [hin, hfresh]; rfl)
    · have hone : u.waiting = 1 := by rw [Queue.waiting, hhold, hrefused]; rfl
      obtain ⟨n, hplaced⟩ := QueueIs.qDrain_held hhold hroom
      rw [hone, hplaced.own, Queue.placed_open (u := { u with hold := [] }) hopen]
      exact ⟨rfl, rfl, hplaced.rest⟩
    · have hnone : u.waiting = 0 := Queue.waiting_zero (Queue.waits_false.mpr ⟨hhold, hrefused⟩)
      exact exec_of_when_same rfl (by rw [hnone]; rfl)

end Sys2Proof.Machine
end

section
/-! PROOFS. Stacks (R187, R188, R190, R191): what a write and a release leave of a stack. -/

namespace Sys2Proof.Machine

/-! ### One stack changes -/

@[simp] theorem Block.stack_onStack_same (b : Block) (r : Nat) (f : Stack → Stack) : (b.onStack r f).stack r = f (b.stack r) := by
  simp [Block.onStack, Block.stack]

theorem Block.stack_onStack_ne (b : Block) {r n : Nat} (f : Stack → Stack) (h : n ≠ r) : (b.onStack r f).stack n = b.stack n := by
  simp [Block.onStack, Block.stack, tabGet_tabMod_ne _ _ _ h]

/-- Of all that concerns the stacks, stack r alone may differ between two blocks. -/
structure StackOnly (r : Nat) (a b : Block) : Prop where
  formed : b.stk.formed = a.stk.formed
  accs : b.stk.accs = a.stk.accs
  scans : b.stk.scans = a.stk.scans
  rest : ∀ n, n ≠ r → b.stack n = a.stack n

section

variable {r : Nat} {a x y : Block}

theorem StackOnly.refl (r : Nat) (a : Block) : StackOnly r a a := ⟨rfl, rfl, rfl, fun _ _ => rfl⟩

theorem Block.stack_congr (h : y.stk = x.stk) (n : Nat) : y.stack n = x.stack n := by rw [Block.stack, h, Block.stack]

theorem StackOnly.same (hx : StackOnly r a x) (h : y.stk = x.stk) : StackOnly r a y :=
  ⟨h ▸ hx.formed, h ▸ hx.accs, h ▸ hx.scans, fun n hn => (Block.stack_congr h n).trans (hx.rest n hn)⟩

theorem StackOnly.ite {c : Prop} [Decidable c] (hx : StackOnly r a x) (hy : StackOnly r a y) : StackOnly r a (if c then x else y) := by
  split <;> assumption

theorem StackOnly.onStack (hx : StackOnly r a x) (f : Stack → Stack) : StackOnly r a (x.onStack r f) :=
  ⟨hx.formed, hx.accs, hx.scans, fun n hn => (Block.stack_onStack_ne x f hn).trans (hx.rest n hn)⟩

theorem StackOnly.bump (hx : StackOnly r a x) (k n : Nat) : StackOnly r a (x.bump k n) := hx.same (Block.bump_stk ..)

theorem StackOnly.raiseOnce (hx : StackOnly r a x) (n k : Nat) (l : List Fld) : StackOnly r a (x.raiseOnce n k l) :=
  hx.same (Block.raiseOnce_stk ..)

theorem StackOnly.forEach {α : Type} {l : List α} {f : α → Block → Block} (hx : StackOnly r a x)
    (hf : ∀ i x, StackOnly r a x → StackOnly r a (f i x)) : StackOnly r a (forEach l x f) :=
  List.foldlRecOn (motive := StackOnly r a) l _ hx fun x hx i _ => hf i x hx

/-! ### Writing (R187, R188, R190, R193) -/

theorem StackOnly.place (hx : StackOnly r a x) (c : Nat) (w : Word64) : StackOnly r a (x.place r c w) :=
  ((hx.onStack _).bump _ _).same (Block.peak_stk ..)

theorem StackOnly.evict (hx : StackOnly r a x) : StackOnly r a (x.evict r) := by
  unfold Block.evict
  split
  · exact ((hx.onStack _).bump _ _).raiseOnce _ _ _
  · exact hx

theorem StackOnly.writeStack (hx : StackOnly r a x) (c : Nat) (w : Word64) : StackOnly r a (x.writeStack r c w) := by
  unfold Block.writeStack
  refine .ite (hx.place c w) ?_
  split
  · exact hx.place c w
  · exact .ite (((hx.onStack _).bump _ _).raiseOnce _ _ _) (hx.evict.place c w)

end

/-- The block without the formed records that are due to stack r. -/
def Block.formedTaken (b : Block) (r : Nat) : Block := b.onStk fun t => { t with formed := t.formed.filter fun f => !b.forStack r f }

theorem Block.stackWrite_only (b : Block) (r : Nat) : StackOnly r (b.formedTaken r) (b.stackWrite r) :=
  .forEach (.refl r _) fun f _ hx => hx.writeStack f.cross f.record

section

variable {b : Block} {r : Nat}

/-- One record that is due to a stack with room takes its place. -/
theorem Block.stackWrite_one {f : Formed} (hformed : b.stk.formed = [f]) (hdue : b.forStack r f = true)
    (hroom : (b.stack r).occupancy < 2048) : b.stackWrite r = (b.formedTaken r).place r f.cross f.record := by
  have hlist : (b.stk.formed.filter fun f => b.forStack r f) = [f] := by simp [hformed, hdue]
  have hwrite : (b.formedTaken r).writeStack r f.cross f.record = (b.formedTaken r).place r f.cross f.record := if_pos hroom
  unfold Block.stackWrite
  rw [hlist]
  exact hwrite

theorem Block.place_stack (b : Block) (r x : Nat) (w : Word64) : (b.place r x w).stack r =
    ({ b.stack r with
      entries := (b.stack r).entries ++ [{ addr := (b.stack r).wp % 2048, record := w, cross := x, written := b.time.now }]
      wp := ((b.stack r).wp + 1) % 4096 } : Stack).dirStep x 0 := by
  unfold Block.place
  rw [Block.stack_congr (Block.peak_stk ..), Block.stack_congr (Block.bump_stk ..), Block.stack_onStack_same]

theorem Block.place_counts (hr : r < 16) (x : Nat) (w : Word64) :
    (b.place r x w).reg (stackKey r 3) = b.reg (stackKey r 3) + 1 := by
  unfold Block.place
  extract_lets written counted
  have hcounted : Reads (stackKey r 3) (b.reg (stackKey r 3) + 1) counted :=
    ⟨by unfold stackKey; omega, Block.reg_bump_same written _ 1⟩
  exact (hcounted.peak _ (by unfold stackKey; omega)).reg

end

/-! ### The set of a crossing (R191, R200) -/

section

variable {l : List Part} {a b : Block} (h : Keeps l a b) (hrole : l.contains .role = false) (hsets : l.contains .sets = false)
  (hfuses : l.contains .fuses = false) (hnow : l.contains .now = false) (htime : l.contains .time = false)

include h hrole hfuses in
/-- What a set gives an entry depends beside the set on the fuses and the straps. -/
theorem Keeps.rsInSet_eq (c : CfgSet) (key : Nat) : b.rsIn c key = a.rsIn c key := by
  obtain ⟨hrole, hunit⟩ := h.straps_eq hrole
  unfold Block.rsIn
  split
  · rfl
  · simp only [Block.defaultOf, Block.profileM, Block.cRole, h.fuses_eq hfuses, hrole, hunit]
    rfl

include h hsets hnow htime in
theorem Keeps.setOf_eq (x : Nat) : b.setOf x = a.setOf x := by
  have hactive : b.active = a.active := by unfold Block.active; rw [h.sets_eq hsets]
  simp only [Block.setOf, Block.orbitAt, h.time_eq hnow htime, h.sets_eq hsets, hactive]

include h hrole hsets hfuses hnow htime

theorem Keeps.rsAt_eq (x key : Nat) : b.rsAt x key = a.rsAt x key := by
  unfold Block.rsAt
  rw [h.setOf_eq hsets hnow htime, h.rsInSet_eq hrole hfuses]

theorem Keeps.holdSpan_eq (x : Nat) : b.holdSpan x = a.holdSpan x := by
  have hahead (x : Nat) : b.setAhead x = a.setAhead x := by
    have hstart (n : Nat) : b.orbitStart n = a.orbitStart n := by
      unfold Block.orbitStart Block.nO
      rw [h.time_eq hnow htime, h.rs_eq hrole hsets hfuses]
    simp only [Block.setAhead, hstart, h.sets_eq hsets, h.setOf_eq hsets hnow htime]
  simp only [Block.holdSpan, Block.spanOf, hahead, h.rsInSet_eq hrole hfuses]

end

/-! ### Release (R191) -/

/-- An entry of stack r that a release at the end of crossing `last` frees. -/
def Block.dueFor (b : Block) (last r : Nat) (e : StackEntry) : Bool :=
  !e.freed && decide (e.cross + b.holdSpan e.cross ≤ last) && !b.pinned r e

/-- An entry is marked free where its address is that of one that is due. -/
def Stack.mark (k : Stack) (due : StackEntry → Bool) (e : StackEntry) : StackEntry :=
  if ((k.entries.filter due).map StackEntry.addr).contains e.addr then { e with freed := true } else e

/-- A stack whose due entries have been freed and whose release pointer has passed the free ones at its head. -/
def Stack.released (k : Stack) (due : StackEntry → Bool) : Stack := ({ k with entries := k.entries.map (k.mark due) } : Stack).advance

section

variable {k : Stack} {due : StackEntry → Bool} {e : StackEntry}

theorem Stack.mark_addr (k : Stack) (due : StackEntry → Bool) (e : StackEntry) : (k.mark due e).addr = e.addr := by
  unfold Stack.mark
  split <;> rfl

theorem Stack.mark_freed : (k.mark due e).freed = true ↔ e.freed = true ∨ ∃ f ∈ k.entries, f.addr = e.addr ∧ due f = true := by
  have hdue : ((k.entries.filter due).map StackEntry.addr).contains e.addr = true ↔ ∃ f ∈ k.entries, f.addr = e.addr ∧ due f = true := by
    simp only [List.contains_iff_mem, List.mem_map, List.mem_filter]
    exact exists_congr fun f => by tauto
  rw [Stack.mark, ← hdue]
  split
  · next h => exact ⟨fun _ => .inr h, fun _ => rfl⟩
  · next h => exact ⟨.inl, fun hfreed => hfreed.resolve_right h⟩

theorem Stack.mark_of_not_freed (k : Stack) (h : (k.mark due e).freed = false) : k.mark due e = e := by
  unfold Stack.mark at h ⊢
  split at h
  · cases h
  · next hnot => exact if_neg hnot

/-- How many entries the release pointer passes. -/
def Stack.passes (k : Stack) (due : StackEntry → Bool) : Nat := ((k.entries.map (k.mark due)).takeWhile fun e => e.freed).length

theorem Stack.released_entries (k : Stack) (due : StackEntry → Bool) :
    (k.released due).entries = (k.entries.map (k.mark due)).drop (k.passes due) := rfl

theorem Stack.released_rp (k : Stack) (due : StackEntry → Bool) : (k.released due).rp = (k.rp + k.passes due) % 4096 := rfl

/-- What stays begins with an entry that is not free. -/
theorem Stack.released_dropWhile (k : Stack) (due : StackEntry → Bool) :
    (k.released due).entries = (k.entries.map (k.mark due)).dropWhile fun e => e.freed := by
  conv_lhs => rw [Stack.released_entries, ← List.takeWhile_append_dropWhile (p := fun e => e.freed) (l := k.entries.map (k.mark due))]
  exact List.drop_left

theorem Stack.released_addrs (k : Stack) (due : StackEntry → Bool) :
    (k.released due).entries.map StackEntry.addr = (k.entries.drop (k.passes due)).map StackEntry.addr := by
  rw [Stack.released_entries, ← List.map_drop, List.map_map]
  exact List.map_congr_left fun e _ => k.mark_addr due e

theorem Stack.passes_le (k : Stack) (due : StackEntry → Bool) : k.passes due ≤ k.entries.length :=
  (List.takeWhile_prefix _).length_le.trans (List.length_map _).le

/-- What the release pointer passes was free, or shares the address of an entry that was due. -/
theorem Stack.passed_freed (he : e ∈ k.entries.take (k.passes due)) :
    e.freed = true ∨ ∃ f ∈ k.entries, f.addr = e.addr ∧ due f = true := by
  have hmem : k.mark due e ∈ (k.entries.map (k.mark due)).takeWhile fun e => e.freed := by
    rw [List.prefix_iff_eq_take.mp (List.takeWhile_prefix _), ← List.map_take]
    exact List.mem_map_of_mem he
  exact Stack.mark_freed.mp (List.mem_takeWhile_imp hmem)

/-- A free or due entry at the head is passed. -/
theorem Stack.released_shorter {rest : List StackEntry} (hhead : k.entries = e :: rest) (he : e.freed = true ∨ due e = true) :
    (k.released due).entries.length < k.entries.length := by
  have hfreed : (k.mark due e).freed = true := Stack.mark_freed.mpr (he.imp_right fun h => ⟨e, by simp [hhead], rfl, h⟩)
  have hpasses : 0 < k.passes due := by simp [Stack.passes, hhead, hfreed]
  rw [Stack.released_entries, List.length_drop, List.length_map]
  have hlen : 0 < k.entries.length := by simp [hhead]
  omega

/-- A second release finds nothing to do. -/
theorem Stack.released_released (hdue : ∀ e, e.freed = true → due e = false) : (k.released due).released due = k.released due := by
  have hall : ∀ e ∈ (k.released due).entries, due e = false := by
    intro e he
    obtain ⟨f, hf, rfl⟩ := List.mem_map.mp (List.mem_of_mem_drop he)
    cases hfreed : (k.mark due f).freed with
    | true => exact hdue _ hfreed
    | false =>
      have hnot : ¬due f = true := fun h => by
        rw [Stack.mark_freed.mpr (.inr ⟨f, hf, rfl, h⟩)] at hfreed
        cases hfreed
      rw [k.mark_of_not_freed hfreed]
      exact Bool.eq_false_iff.mpr hnot
  have hmark : (k.released due).entries.map ((k.released due).mark due) = (k.released due).entries := by
    have hnone : (k.released due).entries.filter due = [] := List.filter_eq_nil_iff.mpr fun e he => by simp [hall e he]
    exact (List.map_congr_left fun e _ => by simp [Stack.mark, hnone]).trans (List.map_id _)
  have hhead : (k.released due).passes due = 0 := by
    rw [Stack.passes, hmark, Stack.released_dropWhile, List.length_eq_zero_iff, List.takeWhile_eq_nil_iff]
    exact List.dropWhile_get_zero_not _ _
  calc (k.released due).released due
      = { k.released due with
          entries := ((k.released due).entries.map ((k.released due).mark due)).drop ((k.released due).passes due)
          rp := ((k.released due).rp + (k.released due).passes due) % 4096 } := rfl
    _ = { k.released due with rp := (k.released due).rp % 4096 } := by rw [hhead, hmark]; rfl
    _ = k.released due := by rw [k.released_rp, Nat.mod_mod]; rfl

theorem Stack.released_empty (due : StackEntry → Bool) : ({} : Stack).released due = {} := rfl

end

section

variable {b : Block} {last r n : Nat}

theorem Block.dueFor_over {e : StackEntry} (h : b.dueFor last r e = true) :
    e.cross + b.holdSpan e.cross ≤ last ∧ b.pinned r e = false := by
  simp only [Block.dueFor, Bool.and_eq_true, decide_eq_true_eq, Bool.not_eq_true'] at h
  exact ⟨h.1.2, h.2⟩

theorem Block.freed_or_dueFor {e : StackEntry} (hover : e.cross + b.holdSpan e.cross ≤ last) (hfree : b.pinned r e = false) :
    e.freed = true ∨ b.dueFor last r e = true := by
  cases hfreed : e.freed with
  | true => exact .inl rfl
  | false => exact .inr (by simp [Block.dueFor, hfreed, hover, hfree])

theorem Block.releaseStack_stack (b : Block) (last r : Nat) : (b.releaseStack last r).stack r = (b.stack r).released (b.dueFor last r) := by
  unfold Block.releaseStack
  extract_lets k due addrs counted
  rw [Block.stack_onStack_same, Block.stack_congr (Block.bump_stk ..)]
  rfl

theorem Block.releaseStack_only (b : Block) (last r : Nat) : StackOnly r b (b.releaseStack last r) :=
  ((StackOnly.refl r b).bump _ _).onStack _

theorem Block.releaseStack_dueFor (b : Block) (last r : Nat) : (b.releaseStack last r).dueFor last = b.dueFor last := by
  have honly := b.releaseStack_only last r
  funext n e
  have hspan : (b.releaseStack last r).holdSpan e.cross = b.holdSpan e.cross :=
    (Block.releaseStack_keeps (.refl [.stk, .regs] b) rfl).holdSpan_eq rfl rfl rfl rfl rfl e.cross
  simp only [Block.dueFor, Block.pinned, hspan, honly.accs, honly.scans]

/-- Every stack of a list of stacks releases what is due, once. -/
theorem Block.releaseStacks_stack (last n : Nat) : ∀ (l : List Nat) (b : Block),
    (forEach l b fun r b => b.releaseStack last r).stack n = if n ∈ l then (b.stack n).released (b.dueFor last n) else b.stack n
  | [], _ => rfl
  | r :: l, b => by
    have hrest := Block.releaseStacks_stack last n l (b.releaseStack last r)
    rw [Block.releaseStack_dueFor] at hrest
    refine hrest.trans ?_
    by_cases hn : n = r
    · subst hn
      rw [Block.releaseStack_stack, Stack.released_released fun e he => by simp [Block.dueFor, he], ite_self, if_pos (by simp)]
    · rw [(b.releaseStack_only last r).rest n hn]
      simp [hn]

theorem tabGet_of_not_mem {α : Type} (d : α) {n : Nat} : ∀ {t : Tab α}, n ∉ t.map Prod.fst → tabGet d t n = d
  | [], _ => rfl
  | p :: t, h => by
    have hne : p.1 ≠ n := fun he => h (by simp [he])
    have hrest : n ∉ t.map Prod.fst := fun hm => h (by simp [hm])
    have htail : tabGet d t n = d := tabGet_of_not_mem d hrest
    simpa [tabGet, tabFind, hne] using htail

/-- RECORD_RELEASE releases what is due of every stack. -/
theorem Block.release_stack (b : Block) (last n : Nat) : (b.release last).stack n = (b.stack n).released (b.dueFor last n) := by
  unfold Block.release
  rw [Block.releaseStacks_stack]
  split
  · rfl
  · next h => rw [show b.stack n = {} from tabGet_of_not_mem _ h, Stack.released_empty]

end

end Sys2Proof.Machine
end

section
/-! PROOFS. Reading windows (R196 to R198, R249): the accepts that leave at their read crossing, and the fragment of a window
that no record and no loss lies in; then the stacks' obligation. -/

namespace Sys2Proof.Machine

/-! ### What a scan leaves of the accepts -/

@[simp] theorem Block.bump_accs (b : Block) (k n : Nat) : (b.bump k n).stk.accs = b.stk.accs := by rw [Block.bump_stk]

@[simp] theorem Block.onStack_accs (b : Block) (r : Nat) (f : Stack → Stack) : (b.onStack r f).stk.accs = b.stk.accs := rfl

@[simp] theorem Block.onEntry_accs (b : Block) (r addr : Nat) (f : StackEntry → StackEntry) :
    (b.onEntry r addr f).stk.accs = b.stk.accs := rfl

section

variable (b : Block) (a : RegAccept)

theorem Block.passedOld_accs (r addr : Nat) (e : StackEntry) : (b.passedOld r addr e).stk.accs = b.stk.accs := by
  unfold Block.passedOld
  split
  · cases e.claimed <;> simp
  · rfl

theorem Block.passEntry_accs (r addr : Nat) (out : List Word64) : (b.passEntry a r addr out).1.stk.accs = b.stk.accs := by
  unfold Block.passEntry
  split
  · rfl
  · split
    · exact Block.passedOld_accs ..
    · split
      · exact (Block.passedOld_accs ..).trans (by simp)
      · exact Block.passedOld_accs ..

theorem Block.stepPart_accs (p : ScanPart) : (b.stepPart a p).1.stk.accs = b.stk.accs :=
  List.foldlRecOn (motive := fun q : Block × List Word64 => q.1.stk.accs = b.stk.accs) _ _ rfl
    fun q hq addr _ => (Block.passEntry_accs q.1 a p.stack addr q.2).trans hq

theorem Block.stepParts_accs : ∀ (b : Block) (l : List ScanPart), (b.stepParts a l).1.stk.accs = b.stk.accs
  | _, [] => rfl
  | b, p :: l => (Block.stepParts_accs (b.stepPart a p).1 l).trans (b.stepPart_accs a p)

/-- Of the stacks a scan changes what its entries change: its words go to OUT. -/
theorem Block.stepScan_stk (s : Scan) : (b.stepScan s).1.stk = (b.stepParts s.acc s.parts).1.stk := by
  have hkeeps : Keeps [.queues, .mrg, .regs, .ev] (b.stepParts s.acc s.parts).1 (b.stepScan s).1 := by
    unfold Block.stepScan
    extract_lets r x t done out n told fresh s' h headed unknown placed s'' c settled s'''
    have htold : Keeps [.queues, .mrg, .regs, .ev] x told :=
      .ite (Block.peak_keeps (.refl _ _) rfl) (Block.backlogNotice_keeps (.refl _ _) rfl)
    have hheaded : Keeps [.queues, .mrg, .regs, .ev] x headed := .ite (Block.placeHeader_keeps htold rfl) htold
    have hunknown : Keeps [.queues, .mrg, .regs, .ev] x unknown := .ite (Block.countUnknown_keeps hheaded rfl) hheaded
    have hplaced : Keeps [.queues, .mrg, .regs, .ev] x placed := .forEach hunknown fun _ _ hx => Block.placeOut_keeps hx rfl
    have hsettled : Keeps [.queues, .mrg, .regs, .ev] x settled := Block.settleCount_keeps hplaced rfl
    exact .iteFst (.ite (Block.qClose_keeps hsettled rfl) hsettled) hsettled
  exact hkeeps.stk_eq rfl

theorem Block.stepScans_accs : ∀ (n : Nat) (b : Block), (Block.stepScans n b).stk.accs = b.stk.accs
  | 0, _ => rfl
  | n + 1, b => by
    unfold Block.stepScans
    split
    · rfl
    · next s rest _ =>
      have hstep : (b.stepScan s).1.stk.accs = b.stk.accs := by rw [Block.stepScan_stk, Block.stepParts_accs]
      dsimp only
      split
      · exact hstep
      · exact (Block.stepScans_accs n _).trans hstep

theorem Block.waitingMarks_accs : b.waitingMarks.stk.accs = b.stk.accs := by
  have hmarks (l : List Scan) : (forEach l b fun s b => b.placeMark s.acc).stk = b.stk :=
    (Keeps.forEach (.refl [.queues, .mrg, .regs, .ev] b) fun s _ hx => Block.placeMark_keeps hx rfl).stk_eq rfl
  unfold Block.waitingMarks
  dsimp only
  split
  · rw [hmarks]
  · rw [Block.onStk_stk, hmarks]

end

/-- Between two blocks the stacks alone may differ, in neither the accepts that wait nor the scans. -/
structure Rewinds (a b : Block) : Prop where
  keeps : Keeps [.stk] a b
  accs : b.stk.accs = a.stk.accs
  scans : b.stk.scans = a.stk.scans

theorem Rewinds.rewind {a b : Block} (h : Rewinds a b) (r : Nat) : Rewinds a (b.rewind r) := by
  unfold Block.rewind
  dsimp only
  split
  · exact ⟨Block.onStack_keeps h.keeps rfl, h.accs, h.scans⟩
  · exact h

theorem Block.rewinds_rewinds (b : Block) : Rewinds b b.rewinds :=
  List.foldlRecOn (motive := Rewinds b) _ _ ⟨.refl _ _, rfl, rfl⟩ fun _ hx r _ => hx.rewind r

/-- Every accept whose read crossing has come leaves the accepts that wait (R198). -/
theorem Block.windowRead_accs (b : Block) : b.windowRead.stk.accs = b.stk.accs.filter fun a => !decide (a.read ≤ b.time.now) := by
  have hread : b.windowRead = (Block.stepScans b.openScans.stk.scans.length b.openScans).waitingMarks.rewinds := rfl
  have hopened : b.openScans.stk.accs = b.stk.accs.filter fun a => !decide (a.read ≤ b.time.now) := rfl
  rw [hread, (Block.rewinds_rewinds _).accs, Block.waitingMarks_accs, Block.stepScans_accs, hopened]

/-! ### A window that nothing lies in (R196, R249) -/

/-- A part of a scan that reads nothing and withdraws nothing. -/
structure ScanPart.Idle (p : ScanPart) : Prop where
  todo : p.todo = []
  passed : p.passed = []
  wds : p.wds = []

section

variable {b c : Block} {a : RegAccept} {l : List ScanPart}

theorem takeParts_idle (h : ∀ p ∈ l, p.Idle) : takeParts l = ([], []) := by
  induction l with
  | nil => rfl
  | cons p l ih =>
    have hp := h p (by simp)
    simp [takeParts, hp.todo, hp.passed, hp.wds, ih fun p hp => h p (by simp [hp])]

theorem Block.stepPart_idle {p : ScanPart} (hp : p.Idle) : b.stepPart a p = (b.spend p.stack 0, p) := by
  obtain ⟨r, todo, passed, wds⟩ := p
  obtain rfl : todo = [] := hp.todo
  simp [Block.stepPart]

/-- Beside what it has spent of its crossing a scan with nothing to read changes nothing. -/
theorem Block.stepParts_idle : ∀ {l : List ScanPart} {b : Block}, (∀ p ∈ l, p.Idle) →
    (b.stepParts a l).2 = l ∧ Keeps [.stk] b (b.stepParts a l).1
  | [], b, _ => ⟨rfl, .refl _ _⟩
  | p :: l, b, h => by
    obtain ⟨hparts, hkeeps⟩ := stepParts_idle (b := b.spend p.stack 0) fun q hq => h q (List.mem_cons_of_mem p hq)
    have hspend : Keeps [.stk] b (b.spend p.stack 0) := Block.spend_keeps (.refl _ _) rfl
    simp only [Block.stepParts, Block.stepPart_idle (h p List.mem_cons_self)]
    exact ⟨congrArg (p :: ·) hparts, hspend.trans hkeeps⟩

theorem Block.partHits_idle {p : ScanPart} (hp : p.Idle) : b.partHits a p = false := by
  simp [Block.partHits, hp.todo, hp.passed]

/-- Without words nothing is placed, and no group waits. -/
theorem Block.stepWords_nil {s : Scan} {done : Bool} (hcompact : s.compact = []) : b.stepWords s [] done = ([], []) := by
  simp [Block.stepWords, Block.compactWords, hcompact]

/-- A header whose COUNT does not stand open stays as it is. -/
theorem Block.settleCount_closed {s : Scan} {h : Word64} {done : Bool} (hheader : s.header = some h) (hopen : s.open_ = false) :
    b.settleCount s done = (b, false) := by simp [Block.settleCount, hheader, hopen]

/-- A fragment without words is its header, and its scan ends in the crossing in which it began. -/
theorem Block.stepScan_idle (hidle : ∀ p ∈ (c.newScan a).parts, p.Idle) (hflush : b.rsAt a.cross 0x4A0007 ≠ 1) :
    ∃ x, Keeps [.stk, .regs] b x ∧ (∀ k v, k ≠ 0x4A2003 → Reads k v b → Reads k v x) ∧
      b.stepScan (c.newScan a) = (x.placeHeader (c.newScan a) (x.scanHeader (c.newScan a) 0), none) := by
  obtain ⟨hparts, hkeeps⟩ := Block.stepParts_idle (a := a) (b := b) hidle
  unfold Block.stepScan
  extract_lets r y t done out n told fresh s' h headed unknown placed s'' settling settled
  have hr : r.2 = (c.newScan a).parts := hparts
  have ht : t = ([], []) := by simp only [t, hr, takeParts_idle hidle]
  have hdone : done = true := by simp only [done, ht, List.isEmpty_nil]
  have hout : out = ([], []) := by simp only [out, ht]; exact Block.stepWords_nil rfl
  have hn : n = 0 := by simp only [n, hout]; rfl
  have hs' : s' = c.newScan a := by
    have hgroups : (r.2.any fun p => told.partHits (c.newScan a).acc p) = false :=
      List.any_eq_false.mpr fun p hp => by simp [Block.partHits_idle (hidle p (hr ▸ hp))]
    simp only [s', hgroups, Bool.and_false]
    rfl
  have htold : told = y.peak 0x4A2003 (y.time.now - (c.newScan a).start) := if_pos hdone
  have hh : h = told.scanHeader (c.newScan a) 0 := by
    simp only [h, hs', hdone, hn, if_true, show countField 0 = 0 from rfl]
    rfl
  have hfresh : fresh = true := rfl
  have hheaded : headed = told.placeHeader s' h := if_pos hfresh
  have hunknown : unknown = headed := if_neg (by simp [hn])
  have hplaced : placed = told.placeHeader (c.newScan a) h := by
    simp only [placed, hout, forEach, List.foldl_nil, hunknown, hheaded, hs']
  have hopen : s''.open_ = false := by
    simp only [s'', hs', hdone, Bool.not_true, Bool.and_false, Bool.or_false]
    rfl
  have hsettled : settled = placed := congrArg Prod.fst (Block.settleCount_closed rfl hopen)
  have hpeaked : Keeps [.stk, .regs] b told := by
    rw [htold]
    exact Block.peak_keeps (hkeeps.widen rfl) rfl
  have hkept : Keeps [.stk, .queues, .mrg, .regs, .ev] b settled := by
    rw [hsettled, hplaced]
    exact Block.placeHeader_keeps (hpeaked.widen rfl) rfl
  have hstays : settled.rsAt s''.acc.cross 0x4A0007 ≠ 1 := by
    rw [hkept.rsAt_eq rfl rfl rfl rfl rfl, show s''.acc = a from congrArg Scan.acc hs']
    exact hflush
  refine ⟨told, hpeaked, fun k v hk hb => ?_, ?_⟩
  · rw [htold]
    exact (hb.keeps hkeeps rfl rfl rfl rfl).peak _ hk
  · rw [if_pos hdone, if_neg hstays, hsettled, hplaced, hh]

theorem Block.placeHeader_out {s : Scan} (hmark : s.acc.mark = none) {h : Word64} (hclass : classOf h = 2)
    (hwaits : (b.queue 0).waits = false) (hroom : (b.queue 0).room 1024 true = true) (hopen : (b.queue 0).open_.length < 4) :
    ((b.placeHeader s h).queue 0).open_ = (b.queue 0).open_ ++ [{ word := h, cross := s.acc.cross }] ∧
      (b.placeHeader s h).reg 0x530001 = b.reg 0x530001 + 1 := by
  have hplace : b.placeHeader s h = (b.qWrite 0 { word := h, cross := s.acc.cross }).bump 0x530001 1 := by
    simp [Block.placeHeader, Block.placeMark, hmark]
  have hwrite : b.qWrite 0 { word := h, cross := s.acc.cross } = b.qPlace 0 { word := h, cross := s.acc.cross } :=
    Block.qWrite_places (control_of_class hclass rfl) hwaits hroom
  have hread : Reads 0x530001 (b.reg 0x530001) b := ⟨by decide, rfl⟩
  rw [hplace]
  constructor
  · rw [((QueueIs.refl _ 0).bump _ _).own, Block.qWrite_out hclass hwaits hroom hopen]
  · rw [Block.reg_bump_same, hwrite, (hread.qPlace (q := 0) (by decide) (by decide) (by decide) _).reg]

theorem classOf_fragmentHeader (port cont abandoned kind late mc orbit slot orphan count groups : Nat) :
    classOf (fragmentHeader port cont abandoned kind late mc orbit slot orphan count groups) = 2 := classOf_rec64 rfl (by decide)

theorem Block.openScans_one (haccs : b.stk.accs = [a]) (hread : a.read ≤ b.time.now) (hscans : b.stk.scans = []) :
    b.openScans = b.onStk fun t => { t with accs := [], scans := [b.newScan a] } := by
  simp [Block.openScans, Block.onStk, haccs, hscans, hread, insertAcc]

/-- WINDOW_READ of one accept that nothing of a stack answers. -/
theorem Block.windowRead_idle (haccs : b.stk.accs = [a]) (hread : a.read ≤ b.time.now) (hscans : b.stk.scans = [])
    (hidle : ∀ p ∈ (b.newScan a).parts, p.Idle) (hflush : b.rsAt a.cross 0x4A0007 ≠ 1) :
    ∃ x, Keeps [.stk, .regs] b x ∧ x.reg 0x530001 = b.reg 0x530001 ∧ b.windowRead =
      ((x.placeHeader (b.newScan a) (x.scanHeader (b.newScan a) 0)).onStk fun t => { t with scans := [] }).rewinds := by
  have hflush' : b.openScans.rsAt a.cross 0x4A0007 ≠ 1 := hflush
  obtain ⟨x, hkeeps, hreads, hstep⟩ := Block.stepScan_idle (b := b.openScans) hidle hflush'
  have hopen : Keeps [.stk, .regs] b b.openScans := Block.openScans_keeps (.refl _ _) rfl
  have hone : b.openScans.stk.scans = [b.newScan a] := by rw [Block.openScans_one haccs hread hscans]; rfl
  refine ⟨x, hopen.trans hkeeps, (hreads 0x530001 _ (by decide) ⟨by decide, rfl⟩).reg, ?_⟩
  unfold Block.windowRead
  simp only [hone, List.length_singleton, Block.stepScans, hstep]
  rfl

end

/-! ### The obligation -/

section

variable {s : State} (hrun : s.blk.running = true) (hrole : s.blk.cRole = false)

include hrun hrole

theorem does_stackWrite {P : Block → Prop} {r : Fin 16} (hP : P (s.blk.stackWrite r.val)) : Does (.stackWrite r) s P :=
  does_of_when rfl (by rw [hrun, hrole]; rfl) hP

theorem does_recordRelease {P : Block → Prop} (hP : P (s.blk.release s.blk.time.now)) : Does .recordRelease s P :=
  does_of_when rfl (by rw [hrun, hrole]; rfl) hP

theorem does_windowRead {P : Block → Prop} (hP : P s.blk.windowRead) : Does .windowRead s P :=
  does_of_when rfl (by rw [hrun, hrole]; rfl) hP

end

/-- Settles O32: a write changes its own stack, a release is one release of every stack, and an idle scan is its header. -/
theorem stacksTakeAndRelease : Obligations.StacksTakeAndRelease := by
  unfold Obligations.StacksTakeAndRelease
  intro s hrun hrole
  refine ⟨fun r => does_stackWrite hrun hrole ?_, fun r f hformed hdue hroom => ?_,
    does_recordRelease hrun hrole fun n => ?_, does_windowRead hrun hrole s.blk.windowRead_accs,
    fun a haccs hread hmark hscans hidle hflush => ?_⟩
  · have honly := s.blk.stackWrite_only r.val
    exact ⟨honly.formed, honly.accs, honly.scans, honly.rest⟩
  · intro k
    refine does_stackWrite hrun hrole ?_
    rw [Block.stackWrite_one hformed hdue hroom, Block.place_stack, Block.place_counts r.isLt]
    exact ⟨rfl, rfl, rfl, rfl⟩
  · intro k
    rw [Block.release_stack]
    refine ⟨⟨k.passes (s.blk.dueFor s.blk.time.now n), k.passes_le _, rfl, ?_, k.released_addrs _, fun e he => ?_⟩,
      fun e rest hhead hover hfree => ?_⟩
    · rw [Stack.released_rp, Nat.mod_mod]
    · refine (Stack.passed_freed he).imp_right fun ⟨f, hf, haddr, hdue⟩ => ⟨f, hf, haddr, ?_⟩
      exact Block.dueFor_over hdue
    · exact Stack.released_shorter hhead (Block.freed_or_dueFor hover hfree)
  · intro u h hwaits hroom hopen
    refine does_windowRead hrun hrole ?_
    have hparts : ∀ p ∈ (s.blk.newScan a).parts, p.Idle := by
      intro p hp
      obtain ⟨r, _, rfl⟩ := List.mem_map.mp hp
      exact ⟨(hidle r).1, rfl, (hidle r).2⟩
    obtain ⟨x, hkeeps, hcount, hwindow⟩ := Block.windowRead_idle haccs hread hscans hparts hflush
    have hqueue : x.queue 0 = s.blk.queue 0 := by rw [Block.queue, hkeeps.queues_eq rfl, Block.queue]
    have hheader : x.scanHeader (s.blk.newScan a) 0 = h := by
      simp only [Block.scanHeader, Block.orbitOf, Block.slotOf, Block.orbitAt, hkeeps.time_eq rfl rfl]
      rfl
    obtain ⟨hopened, hcounted⟩ := Block.placeHeader_out (b := x) (s := s.blk.newScan a) (h := h) hmark (classOf_fragmentHeader ..)
      (hqueue ▸ hwaits) (hqueue ▸ hroom) (hqueue ▸ hopen)
    have hrewinds := Block.rewinds_rewinds ((x.placeHeader (s.blk.newScan a) h).onStk fun t => { t with scans := [] })
    rw [hwindow, hheader, hrewinds.scans, hrewinds.keeps.reg_eq rfl rfl rfl rfl, Block.queue, hrewinds.keeps.queues_eq rfl,
      Block.onStk_stk, Block.onStk_reg, Block.onStk_queues, hcounted, hcount, ← Block.queue, hopened, hqueue]
    exact ⟨rfl, rfl, rfl⟩

end Sys2Proof.Machine
end

section
/-! PROOFS. Writes of RS entries (R230, R234, R236): each as the set's own rule on the block that has taken the request. -/

namespace Sys2Proof.Machine

section

variable (b : Block) (h : Hdr)

/-- A request that is taken leaves where an orbit begins. -/
theorem Block.taken_ahead (n : Nat) : (b.taken h).ahead n = b.ahead n := by
  simp only [Block.ahead, Block.orbitStart, Block.nO, Block.taken_time, Block.taken_rs]

theorem Block.taken_shadowBusy : (b.taken h).shadowBusy = b.shadowBusy := by
  simp only [Block.shadowBusy, Block.taken_shd, Block.taken_heldFrom, Block.taken_armed, Block.taken_ahead]

/-! ### The rule of the set (R229, R230, R234) -/

/-- An edit of a set puts the value, and counts (R230). -/
def CfgSet.edit (c : CfgSet) (key v : Nat) : CfgSet := { putEntry c key v with state := .edited, edits := c.edits + 1 }

variable (d : Desc) (key v : Nat)

theorem Block.rsWrite_busy (hbusy : b.shadowBusy = true) : b.rsWrite h d key v = b.refuseKey h key 0x08 := if_pos hbusy

/-- A value that the set cannot take is refused with its code, told first where it lies outside the range proven for the folio. -/
theorem Block.rsWrite_refused (hfree : b.shadowBusy = false) (hcode : b.rsCode b.sets.shd d key (cleaned key v) ≠ 0) :
    ∃ x, (x = b ∨ x = b.raise 0x17 [.id 24 key]) ∧
      b.rsWrite h d key v = x.refuseKey h key (b.rsCode b.sets.shd d key (cleaned key v)) := by
  unfold Block.rsWrite
  dsimp only
  rw [hfree, if_neg (by decide), if_pos hcode]
  refine ⟨_, ?_, rfl⟩
  split
  · exact .inr rfl
  · exact .inl rfl

theorem Block.rsWrite_taken (hfree : b.shadowBusy = false) (hcode : b.rsCode b.sets.shd d key (cleaned key v) = 0) :
    b.rsWrite h d key v = (b.onSets fun s => { s with shd := b.sets.shd.edit key (cleaned key v) }).ack h key := by
  unfold Block.rsWrite
  dsimp only
  rw [hfree, if_neg (by decide), if_neg (by simp [hcode]), if_neg (by simp [hcode])]
  rfl

end

/-! ### The request -/

section

variable {i : Instr} {s : State} {h : Hdr} {key len v : Nat} {d : Desc} (hi : exec i s = .next { s with blk := s.blk.rsRequest h key len v })
  (hw : s.blk.writable h key len = true) (hentry : s.blk.entryOf (key / 256) (key % 256) = some d) (haccess : d.access = .rs)

include hi hw hentry haccess

theorem does_of_rsRequest {P : Block → Prop} (hP : P ((s.blk.taken h).rsWrite h d key v)) : Does i s P := by
  refine does_of_writeTo hi hw ?_
  simpa only [Block.taken_entryOf, hentry, if_pos haccess] using hP

theorem rsRequest_busy (hbusy : s.blk.shadowBusy = true) :
    Does i s fun b => b.sets = (s.blk.taken h).sets ∧ Refuses (s.blk.taken h) b h key 0x08 := by
  refine does_of_rsRequest hi hw hentry haccess ?_
  rw [Block.rsWrite_busy _ _ _ _ _ (by rwa [Block.taken_shadowBusy])]
  exact ⟨Block.refuseKey_sets .., Block.refuseKey_refuses ..⟩

theorem rsRequest_refused (hfree : s.blk.shadowBusy = false) (hcode : (s.blk.taken h).rsCode s.blk.sets.shd d key (cleaned key v) ≠ 0) :
    Does i s fun b => b.sets = (s.blk.taken h).sets ∧
      Refuses (s.blk.taken h) b h key ((s.blk.taken h).rsCode s.blk.sets.shd d key (cleaned key v)) := by
  refine does_of_rsRequest hi hw hentry haccess ?_
  obtain ⟨x, hx, hwrite⟩ := Block.rsWrite_refused (s.blk.taken h) h d key v (by rwa [Block.taken_shadowBusy]) (by rwa [Block.taken_shd])
  rw [hwrite, Block.taken_shd, Block.refuseKey_sets]
  have hrefuses := x.refuseKey_refuses h key ((s.blk.taken h).rsCode s.blk.sets.shd d key (cleaned key v))
  rcases hx with rfl | rfl
  · exact ⟨rfl, hrefuses⟩
  · exact ⟨Block.raise_sets .., hrefuses.congr (Block.raise_replies ..).symm (Block.raise_mute ..).symm⟩

theorem rsRequest_taken (hfree : s.blk.shadowBusy = false) (hcode : (s.blk.taken h).rsCode s.blk.sets.shd d key (cleaned key v) = 0) :
    Does i s fun b =>
      b.sets = { (s.blk.taken h).sets with shd := (s.blk.taken h).sets.shd.edit key (cleaned key v) } ∧ Acks (s.blk.taken h) b h key := by
  refine does_of_rsRequest hi hw hentry haccess ?_
  rw [Block.rsWrite_taken _ _ _ _ _ (by rwa [Block.taken_shadowBusy]) (by rwa [Block.taken_shd]), Block.ack_sets]
  exact ⟨rfl, Answers.congr (Block.ack_acks (Block.onSets _ _) h key (s.blk.taken_landings h)) rfl rfl⟩

end

/-- Settles O25: both rows are one request, refused while the shadow is busy or by the set's own code, else an edit of the shadow. -/
theorem rsWritesEditTheShadow : Obligations.RsWritesEditTheShadow := by
  unfold Obligations.RsWritesEditTheShadow
  refine ⟨fun h index sub value d s => ?_, fun h entry second value d s => ?_⟩
  · intro key v f hw hentry haccess
    exact ⟨rsRequest_busy rfl hw hentry haccess, rsRequest_refused rfl hw hentry haccess, rsRequest_taken rfl hw hentry haccess⟩
  · intro key v f hw hentry haccess
    exact ⟨rsRequest_busy rfl hw hentry haccess, rsRequest_taken rfl hw hentry haccess⟩

end Sys2Proof.Machine
end

section
/-! PROOFS. Requests for a swap (R62, R232, R233, R310): what a request comes to, by the dictionary, the downlink and the timetable. -/

namespace Sys2Proof.Machine

/-! ### What a request comes to (R232, R293, R310) -/

/-- The block with a swap armed: the sets note the orbit, and the links of the incoming set wake. -/
def Block.swapArmed (b : Block) (n : Nat) : Block := (b.onSets fun s => { s with armed := some n }).wakeLinks

section

variable (b : Block) (n : Nat)

theorem Block.swapArmed_keeps : Keeps [.frm, .regs, .ev] (b.onSets fun s => { s with armed := some n }) (b.swapArmed n) :=
  Block.wakeLinks_keeps_idle (.refl _ _) rfl

@[simp] theorem Block.swapArmed_sets : (b.swapArmed n).sets = { b.sets with armed := some n } := (b.swapArmed_keeps n).sets_eq rfl

@[simp] theorem Block.swapArmed_acc : (b.swapArmed n).acc = b.acc := (b.swapArmed_keeps n).acc_eq rfl

@[simp] theorem Block.swapArmed_time : (b.swapArmed n).time = b.time := (b.swapArmed_keeps n).time_eq rfl rfl

@[simp] theorem Block.swapArmed_cRole : (b.swapArmed n).cRole = b.cRole := (b.swapArmed_keeps n).role_eq rfl

end

section

variable {b : Block} {n m : Nat}

theorem Block.armSwap_armed (hnone : b.sets.armed = none) (hcause : (b.swapCause n).1 = 0) : b.armSwap n = (.armed, b.swapArmed n) := by
  simp [Block.armSwap, hnone, hcause, Block.swapArmed]

theorem Block.armSwap_refused (hnone : b.sets.armed = none) (hcause : (b.swapCause n).1 ≠ 0) :
    b.armSwap n = (.refused (b.swapCause n).1, b.raise 0x13 [.id 8 (b.swapCause n).1, .id 6 (b.swapCause n).2]) := by
  simp [Block.armSwap, hnone, hcause]

theorem Block.armSwap_merged (harmed : b.sets.armed = some n) : b.armSwap n = (.merged, b.bump 0x201305 1) := by
  simp [Block.armSwap, harmed]

theorem Block.armSwap_conflict (harmed : b.sets.armed = some m) (hother : m ≠ n) :
    b.armSwap n = (.conflict, b.raise 0x14 [.id 48 m, .id 48 n]) := by simp [Block.armSwap, harmed, hother]

/-! ### SWAP_COMMAND (R232, R310) -/

theorem Block.swapCommand_armed (hnone : b.sets.armed = none) (hcause : (b.swapCause n).1 = 0) :
    (b.swapCommand n).sets = { b.sets with armed := some n } ∧
      (b.swapCommand n).acc = (if b.cRole then { b.acc with command := some (command 5 n) } else b.acc) := by
  rw [Block.swapCommand, Block.armSwap_armed hnone hcause]
  cases b.cRole <;> simp

/-- A request that does not arm is not passed on. -/
theorem Block.swapCommand_unarmed {a : SwapAnswer} {x : Block} (hanswer : b.armSwap n = (a, x)) (ha : a ≠ .armed) : b.swapCommand n = x := by
  rw [Block.swapCommand, hanswer]
  exact if_neg fun h => ha h.1

/-! ### The SWAP action (R62, R237) -/

theorem Block.forwardSwap_sets (b : Block) (n : Nat) : (b.forwardSwap n).sets = b.sets :=
  (Block.forwardSwap_keeps (.refl [.acc] b) rfl).sets_eq rfl

theorem Block.forwardSwap_time (b : Block) (n : Nat) : (b.forwardSwap n).time = b.time :=
  (Block.forwardSwap_keeps (.refl [.acc] b) rfl).time_eq rfl rfl

theorem Block.forwardSwap_acc (b : Block) (n : Nat) :
    (b.forwardSwap n).acc = (if b.cRole then { b.acc with swapFwd := b.acc.swapFwd ++ [n] } else b.acc) := by
  unfold Block.forwardSwap
  split <;> rfl

theorem Block.swapAction_armed {e : Nat} (hnone : b.sets.armed = none) (hcause : (b.swapCause (b.swapTarget (b.ttArg e))).1 = 0) :
    b.swapAction e = (b.swapArmed (b.swapTarget (b.ttArg e))).forwardSwap (b.swapTarget (b.ttArg e)) := by
  rw [Block.swapAction, Block.armSwap_armed hnone hcause]

/-- A SWAP action that is refused raises SET_SWAP_REFUSED, and one whose boundary is too near counts as missed besides. -/
theorem Block.swapAction_refused {e : Nat} (hnone : b.sets.armed = none) (hcause : (b.swapCause (b.swapTarget (b.ttArg e))).1 ≠ 0) :
    Keeps [.regs, .ev] b (b.swapAction e) ∧ Latches 0x13 (b.swapAction e) := by
  obtain ⟨fields, hanswer⟩ : ∃ fields, b.armSwap (b.swapTarget (b.ttArg e)) =
      (.refused (b.swapCause (b.swapTarget (b.ttArg e))).1, b.raise 0x13 fields) := ⟨_, Block.armSwap_refused hnone hcause⟩
  have hkeeps : Keeps [.regs, .ev] b (b.raise 0x13 fields) := Block.raise_keeps (.refl _ _) rfl
  have hlatch : Latches 0x13 (b.raise 0x13 fields) := ⟨by decide, Block.latched_raise_self b (by decide) fields⟩
  rw [Block.swapAction, hanswer]
  dsimp only
  split
  next hc => cases hc
  next => exact ⟨Block.raise_keeps (Block.bump_keeps hkeeps rfl) rfl, (hlatch.bump _ (by decide)).raise _ _⟩
  next => exact ⟨hkeeps, hlatch⟩

end

/-! ### A write to 2012.00 (R232, R233) -/

section

variable (b : Block) (h : Hdr) {v : Nat}

/-- An orbit number waits behind the requests that wait already, and is not answered yet. -/
theorem Block.swapOrbit_waits (hfits : v < 2 ^ 48) :
    Keeps [.dict] b (b.swapOrbit h v) ∧ (b.swapOrbit h v).dict.replies = b.dict.replies ∧
      (b.swapOrbit h v).dict.swaps = b.dict.swaps ++ [⟨0x201200, v, h, b.dict.mute⟩] := by
  rw [Block.swapOrbit, if_neg (by omega)]
  exact ⟨.onDictRest (fun _ => rfl) (.refl _ _) rfl, rfl, rfl⟩

theorem Block.swapOrbit_outside (hlarge : 2 ^ 48 ≤ v) : b.swapOrbit h v = b.refuseKey h 0x201200 0x07 := if_pos hlarge

end

/-! ### The obligation -/

theorem does_swapCommand {P : Block → Prop} {orbit : BitVec 44} {s : State} (hobeys : s.blk.obeys = true)
    (hP : P (s.blk.swapCommand (s.blk.orbitMatching orbit.toNat))) : Does (.swapCommand orbit) s P := does_of_when rfl hobeys hP

theorem does_swap {P : Block → Prop} {entry : BitVec 8} {s : State} (hrun : s.blk.running = true)
    (hacts : s.blk.ttActs entry.toNat 2 = true) (hP : P ((s.blk.ttUsed entry.toNat).swapAction entry.toNat)) : Does (.swap entry) s P :=
  does_of_ttActs (f := fun b => b.swapAction entry.toNat) rfl hrun hacts hP

/-- Settles O23: a write waits with its crossing's requests, and a command or an action comes to what the request comes to. -/
theorem swapsAreArmedAndDisarmed : Obligations.SwapsAreArmedAndDisarmed := by
  unfold Obligations.SwapsAreArmedAndDisarmed
  refine ⟨fun h s hw => ⟨fun orbit hfits => ?_, fun orbit hlarge => ?_, ?_⟩, fun orbit s hobeys => ?_, fun entry s hrun hacts hnone => ?_⟩
  · exact does_of_writeTo rfl hw (Block.swapOrbit_waits _ h hfits)
  · refine does_of_writeTo rfl hw ?_
    rw [Block.swapOrbit_outside _ _ hlarge]
    exact ⟨Block.refuseKey_sets .., Block.refuseKey_swaps .., Block.refuseKey_refuses ..⟩
  · exact does_of_writeTo rfl hw (Block.swapOrbit_waits _ h (by decide))
  · intro n
    refine ⟨fun hnone hcause => does_swapCommand hobeys (Block.swapCommand_armed hnone hcause),
      fun hnone hcause => does_swapCommand hobeys ?_, fun harmed => does_swapCommand hobeys ?_,
      fun m harmed hother => does_swapCommand hobeys ?_⟩
    · rw [Block.swapCommand_unarmed (Block.armSwap_refused hnone hcause) (by simp)]
      exact ⟨Block.raise_sets .., Block.raise_acc .., Block.raise_raised _ (by decide) (by decide) _⟩
    · rw [Block.swapCommand_unarmed (Block.armSwap_merged harmed) (by simp)]
      exact ⟨Block.bump_sets .., Block.bump_acc .., Block.reg_bump_same ..⟩
    · rw [Block.swapCommand_unarmed (Block.armSwap_conflict harmed hother) (by simp)]
      exact ⟨Block.raise_sets .., Block.raise_acc .., Block.raise_raised _ (by decide) (by decide) _⟩
  · intro n
    have hacted : entry.toNat ∈ (s.blk.ttUsed entry.toNat).time.acted := by simp [Block.ttUsed_time]
    refine ⟨fun hcause => does_swap hrun hacts ?_, fun hcause => does_swap hrun hacts ?_⟩
    · rw [Block.swapAction_armed (b := s.blk.ttUsed entry.toNat) hnone hcause, Block.forwardSwap_sets, Block.forwardSwap_time,
        Block.forwardSwap_acc, Block.swapArmed_sets, Block.swapArmed_time, Block.swapArmed_cRole, Block.swapArmed_acc]
      exact ⟨rfl, hacted, rfl⟩
    · obtain ⟨hkeeps, hlatch⟩ := Block.swapAction_refused (b := s.blk.ttUsed entry.toNat) hnone hcause
      exact ⟨hkeeps.sets_eq rfl, hkeeps.acc_eq rfl, hkeeps.time_eq rfl rfl ▸ hacted, hlatch.set⟩

end Sys2Proof.Machine
end

section
/-! PROOFS. Serial lanes (R267, R273, R275, R281 to R289, R296, R379, R440): what becomes of the one lane that trains, and of the half that
leaves Active. -/

namespace Sys2Proof.Machine

/-! ### One lane changes -/

/-- A lane has become q, and every other is as it was. -/
structure LaneIs (a b : Block) (l : Nat) (q : LaneSt) : Prop where
  here   : b.lane l = q
  others : ∀ m, m ≠ l → b.lane m = a.lane m

theorem Keeps.lane_eq {ps : List Part} {a b : Block} (h : Keeps ps a b) (hfrm : ps.contains .frm = false) (l : Nat) :
    b.lane l = a.lane l := by
  unfold Block.lane
  rw [h.frm_eq hfrm]

section

variable {a b x : Block} {l : Nat} {q : LaneSt}

theorem LaneIs.refl (b : Block) (l : Nat) : LaneIs b b l (b.lane l) := ⟨rfl, fun _ _ => rfl⟩

theorem LaneIs.step (h : LaneIs a b l q) (f : LaneSt → LaneSt) : LaneIs a (b.onLane l f) l (f q) where
  here := by rw [Block.lane_onLane_same, h.here]
  others := fun m hm => (Block.lane_onLane_ne b f hm).trans (h.others m hm)

theorem LaneIs.ite {p : Prop} [Decidable p] (hb : LaneIs a b l q) (hx : LaneIs a x l q) : LaneIs a (if p then b else x) l q := by
  split <;> assumption

theorem LaneIs.keeps {ps : List Part} (h : LaneIs a b l q) (hx : Keeps ps b x) (hfrm : ps.contains .frm = false) : LaneIs a x l q :=
  ⟨(hx.lane_eq hfrm l).trans h.here, fun m hm => (hx.lane_eq hfrm m).trans (h.others m hm)⟩

theorem LaneIs.raise (h : LaneIs a b l q) (n : Nat) (f : List Fld) : LaneIs a (b.raise n f) l q :=
  h.keeps (Block.raise_keeps (.refl [.regs, .ev] b) rfl) rfl

end

theorem Latches.onLane {n : Nat} {b : Block} (hb : Latches n b) (l : Nat) (f : LaneSt → LaneSt) : Latches n (b.onLane l f) :=
  hb.same (Block.onLane_latched b l f n)

/-! ### The link of a lane (R18, R29) -/

/-- Links come from the sets, the role and the order in which ports hear their ranks. -/
theorem Block.linkOf_congr {a b : Block} (hsets : b.sets = a.sets) (hrole : b.boot.roleC = a.boot.roleC)
    (hreversed : ∀ m, (b.lane m).reversed = (a.lane m).reversed) (l : Nat) : b.linkOf l = a.linkOf l := by
  have hcRole : b.cRole = a.cRole := hrole
  have hactive : b.active = a.active := by unfold Block.active; rw [hsets]
  have hports : b.portsNow = a.portsNow := by unfold Block.portsNow; rw [hsets, hactive]
  have hport : b.portLinkNow = a.portLinkNow := by funext p; simp only [Block.portLinkNow, hreversed]
  have hlinks (c : CfgSet) (ports : List PortPlan) : b.linksOf c ports = a.linksOf c ports := by
    simp only [Block.linksOf, hcRole, hport]
  have hnow : b.linksNow = a.linksNow := by
    simp only [Block.linksNow, Block.fixedLinks, hcRole, hsets, hports, hlinks]
  have harmed : b.linksArmed = a.linksArmed := by simp only [Block.linksArmed, hsets, hlinks]
  unfold Block.linkOf
  rw [hnow, harmed]

theorem Block.reversed_onLane (b : Block) (l : Nat) {f : LaneSt → LaneSt} (hf : ∀ q, (f q).reversed = q.reversed) (m : Nat) :
    ((b.onLane l f).lane m).reversed = (b.lane m).reversed := by
  by_cases hm : m = l
  · rw [hm, Block.lane_onLane_same, hf]
  · rw [Block.lane_onLane_ne _ _ hm]

theorem Block.linkOf_onLane (b : Block) (l : Nat) {f : LaneSt → LaneSt} (hf : ∀ q, (f q).reversed = q.reversed) (m : Nat) :
    (b.onLane l f).linkOf m = b.linkOf m :=
  Block.linkOf_congr (b.onLane_sets l f) (by rw [Block.onLane_boot]) (b.reversed_onLane l hf) m

theorem Keeps.linkOf_eq {ps : List Part} {a b : Block} (h : Keeps ps a b) (hsets : ps.contains .sets = false)
    (hrole : ps.contains .role = false) (hfrm : ps.contains .frm = false) (l : Nat) : b.linkOf l = a.linkOf l :=
  Block.linkOf_congr (h.sets_eq hsets) (h.role_eq hrole) (fun m => by rw [h.lane_eq hfrm]) l

/-! ### Step 1 (R267, R273, R281, R440) -/

/-- A half that has completed step 1: its equaliser as it was found, or as LANE_CONFIG gives it. -/
def LaneSt.clocked (q : LaneSt) (cfg ctle : Nat) (taps : List Int) : LaneSt :=
  { q with step := 2, step1 := true, goodWords := 0, syncBad := [],
           ctle := if cfg.testBit 7 then bits cfg 6 3 else ctle, dfe := taps.map fun t => clampTap (4 * t) }

section

variable {b : Block} {l ctle : Nat} {taps : List Int}

/-- The first downlink gives an F-role the side of its lane. -/
theorem Block.firstDownlink_selects {k : Link} (hrole : b.cRole = false) (hlink : b.linkOf l = some k) (hkind : k.kind = .group)
    (hfirst : k.first = l) (hselected : b.time.selected = none) (hheld : b.time.holdover = false) :
    (b.firstDownlink l).time.selected = some (if l < 4 then 0 else 1) := by
  simp [Block.firstDownlink, hlink, hrole, hkind, hfirst, hselected, hheld, Block.onTime]

theorem Block.clockLocked_completes (hrx : (b.lane l).rx = .training) (hstep : (b.lane l).step = 1) (hfree : b.rxFrozen l = false) :
    b.clockLocked l ctle taps = (b.onLane l fun q => q.clocked (b.laneCfg l) ctle taps).firstDownlink l := by
  simp [Block.clockLocked, hrx, hstep, hfree, LaneSt.clocked]

theorem Block.clockLocked_stays (h : (b.lane l).rx ≠ .training ∨ (b.lane l).step ≠ 1 ∨ b.rxFrozen l = true) :
    b.clockLocked l ctle taps = b := if_pos h

theorem Block.clocked_lane (cfg : Nat) :
    LaneIs b ((b.onLane l fun q => q.clocked cfg ctle taps).firstDownlink l) l ((b.lane l).clocked cfg ctle taps) :=
  ((LaneIs.refl b l).step _).keeps (Block.firstDownlink_keeps (.refl [.time] _) rfl) rfl

theorem Block.clocked_linkOf (cfg m : Nat) : (b.onLane l fun q => q.clocked cfg ctle taps).linkOf m = b.linkOf m :=
  Block.linkOf_onLane b l (by intro; rfl) m

/-- Step 1 is complete (R273, R281): the half and the side that an F-role follows. -/
theorem Block.clockLocked_does {b : Block} {l ctle : Nat} {taps : List Int} (hrx : (b.lane l).rx = .training) (hstep : (b.lane l).step = 1)
    (hfree : b.rxFrozen l = false) :
    LaneIs b (b.clockLocked l ctle taps) l ((b.lane l).clocked (b.laneCfg l) ctle taps) ∧
      ∀ k, b.cRole = false → b.linkOf l = some k → k.kind = .group → k.first = l → b.time.selected = none → b.time.holdover = false →
        (b.clockLocked l ctle taps).time.selected = some (if l < 4 then 0 else 1) := by
  rw [Block.clockLocked_completes hrx hstep hfree]
  exact ⟨Block.clocked_lane _, fun k hrole hlink hkind hfirst hselected hheld =>
    Block.firstDownlink_selects hrole ((Block.clocked_linkOf ..).trans hlink) hkind hfirst hselected hheld⟩

end

theorem exec_clockRecoveryLocked {l : Lane} {ctle : BitVec 4} {taps : List Int} {s : State} (htaps : taps.length = 6)
    (hrun : s.blk.running = true) (hprbs : (s.blk.lane l.val).prbs = 0) :
    exec (.clockRecoveryLocked l ctle taps) s = .next { s with blk := s.blk.clockLocked l.val ctle.toNat taps } := by
  show execClockRecoveryLocked l ctle taps s = _
  simp [execClockRecoveryLocked, State.runIf, State.run, wellFormed, Block.when, htaps, hrun, hprbs]

/-! ### Attempts (R275, R282) -/

section

variable {b : Block} {k : Link} {l : Nat}

/-- A link of one receive half trains it at every width it hears. -/
theorem readyHalves_one (hk : k.rx = [l]) (w : Nat) : readyHalves k w = [l] := by
  unfold readyHalves
  split <;> simp [hk]

theorem Block.trialHalves_one (hk : k.rx = [l]) (hrx : (b.lane l).rx = .training) (hprbs : (b.lane l).prbs = 0)
    (hfree : b.rxFrozen l = false) : b.trialHalves k = [l] := by
  simp [Block.trialHalves, readyHalves_one hk, hrx, hprbs, hfree]

theorem Block.trialHalves_frozen (hk : k.rx = [l]) (hfrozen : b.rxFrozen l = true) : b.trialHalves k = [] := by
  simp [Block.trialHalves, readyHalves_one hk, hfrozen]

/-- A half whose attempt ended without step 1 has one more attempt of silence behind it, and is ABSENT after 64 of them. -/
def LaneSt.unanswered (q : LaneSt) : LaneSt :=
  { q with silentRun := q.silentRun + 1, absent := q.absent || decide (64 ≤ q.silentRun + 1) }

/-- What the end of an attempt tells before it judges its halves. -/
def Block.attemptTold (b : Block) (l : Nat) : Block :=
  (b.raise 0x72 [.id 6 l, .id 3 (max (b.lane l).top (b.lane l).step), .cnt 16 (b.lane l).attempts]).placeLate l

theorem Block.attemptTold_keeps (b : Block) (l : Nat) : Keeps [.regs, .ev] b (b.attemptTold l) :=
  Block.placeLate_keeps (Block.raise_keeps (.refl _ _) rfl) rfl

theorem Block.attemptTold_latches (b : Block) (l : Nat) : Latches 0x72 (b.attemptTold l) := by
  have hraised (f : List Fld) : Latches 0x72 (b.raise 0x72 f) := ⟨by decide, Block.latched_raise_self b (by decide) f⟩
  unfold Block.attemptTold Block.placeLate
  dsimp only
  split
  · exact .ite ((hraised _).raise _ _) (hraised _)
  · exact hraised _

/-- A half that has not completed step 1 has no retry to fail. -/
theorem Block.retryHalf_silent (h : (b.lane l).step1 = false) : b.retryHalf l = b := by
  simp [Block.retryHalf, h]

/-- The end of an attempt that no signal answered, at a link of one receive half. -/
theorem Block.attemptEnds_silent (h : (b.lane l).step1 = false) :
    b.attemptEnds k [l] =
      let x := (b.attemptTold l).onLane l fun q => { q with silentRun := q.silentRun + 1 }
      if 64 ≤ (x.lane l).silentRun ∧ !(x.lane l).absent then (x.onLane l fun q => { q with absent := true }).raise 0x73 [.id 6 l, .id 6 k.id]
      else x := by
  have hlane (f : List Fld) : (b.raise 0x72 f).lane l = b.lane l := (Block.raise_keeps (.refl [.regs, .ev] b) rfl).lane_eq rfl l
  have htold : ((b.attemptTold l).lane l).step1 = false := by rw [(b.attemptTold_keeps l).lane_eq rfl]; exact h
  have hretry := Block.retryHalf_silent htold
  unfold Block.attemptTold at hretry
  simp [Block.attemptEnds, forEach, hlane, h, hretry, Block.attemptTold]

theorem Block.attemptEnds_lane (h : (b.lane l).step1 = false) : LaneIs b (b.attemptEnds k [l]) l (b.lane l).unanswered := by
  have hx : LaneIs b ((b.attemptTold l).onLane l fun q => { q with silentRun := q.silentRun + 1 }) l
      { b.lane l with silentRun := (b.lane l).silentRun + 1 } :=
    ((LaneIs.refl b l).keeps (b.attemptTold_keeps l) rfl).step _
  rw [Block.attemptEnds_silent h]
  dsimp only
  rw [hx.here]
  split
  next hlong =>
    have habsent : { b.lane l with silentRun := (b.lane l).silentRun + 1, absent := true } = (b.lane l).unanswered := by
      simp [LaneSt.unanswered, hlong.1]
    exact habsent ▸ (hx.step fun q => { q with absent := true }).raise _ _
  next hshort =>
    have hpresent : { b.lane l with silentRun := (b.lane l).silentRun + 1 } = (b.lane l).unanswered := by
      have hflag : ((b.lane l).absent || decide (64 ≤ (b.lane l).silentRun + 1)) = (b.lane l).absent := by
        cases ha : (b.lane l).absent with
        | true => rfl
        | false => simpa [ha] using hshort
      simp only [LaneSt.unanswered, hflag]
    exact hpresent ▸ hx

theorem Block.attemptEnds_latches (h : (b.lane l).step1 = false) : Latches 0x72 (b.attemptEnds k [l]) := by
  have hx : Latches 0x72 ((b.attemptTold l).onLane l fun q => { q with silentRun := q.silentRun + 1 }) :=
    (b.attemptTold_latches l).onLane _ _
  have habsent : Latches 0x72 (((b.attemptTold l).onLane l fun q => { q with silentRun := q.silentRun + 1 }).onLane l
    fun q => { q with absent := true }) := hx.onLane _ _
  rw [Block.attemptEnds_silent h]
  exact .ite (habsent.raise _ _) hx

/-- The next attempt of a half that trains alone. -/
theorem Block.attempt_silent (hk : k.rx = [l]) (hrx : (b.lane l).rx = .training) (hprbs : (b.lane l).prbs = 0)
    (hfree : b.rxFrozen l = false) (hstep : (b.lane l).step1 = false) :
    b.attempt k = (b.attemptEnds k [l]).onLane l fun q => { startStep q with attempts := q.attempts + 1 } := by
  have hstill : ((b.attemptEnds k [l]).lane l).rx = .training := by rw [(Block.attemptEnds_lane hstep).here]; exact hrx
  unfold Block.attempt
  rw [Block.trialHalves_one hk hrx hprbs hfree]
  simp [forEach, hstill]

theorem Block.attempt_does (hk : k.rx = [l]) (hrx : (b.lane l).rx = .training) (hprbs : (b.lane l).prbs = 0)
    (hfree : b.rxFrozen l = false) (hstep : (b.lane l).step1 = false) :
    LaneIs b (b.attempt k) l { startStep (b.lane l).unanswered with attempts := (b.lane l).attempts + 1 } ∧
      (b.attempt k).latched 0x72 = true := by
  rw [Block.attempt_silent hk hrx hprbs hfree hstep]
  exact ⟨(Block.attemptEnds_lane hstep).step _, ((Block.attemptEnds_latches hstep).onLane _ _).set⟩

/-- A frozen half makes no attempt: its link, which trains, is not up either. -/
theorem Block.attempt_frozen (hk : k.rx = [l]) (hrx : (b.lane l).rx = .training) (hfrozen : b.rxFrozen l = true) : b.attempt k = b := by
  have hdown : b.linkUp k = false := by simp [Block.linkUp, Block.rxActive, hk, hrx]
  unfold Block.attempt
  rw [Block.trialHalves_frozen hk hfrozen]
  simp [hdown]

end

theorem exec_trainingAttempt {l : Lane} {k : Link} {s : State} (hrun : s.blk.running = true) (hlink : s.blk.linkOf l.val = some k) :
    exec (.trainingAttempt l) s = .next { s with blk := s.blk.attempt k } := by
  show execTrainingAttempt l s = _
  simp [execTrainingAttempt, State.run, Block.when, hrun, hlink]

theorem exec_trainingAttempt_unlinked {l : Lane} {s : State} (hlink : s.blk.linkOf l.val = none) :
    exec (.trainingAttempt l) s = .next s := by
  show execTrainingAttempt l s = _
  simp [execTrainingAttempt, State.run, Block.when, hlink]

/-! ### Training frames (R281) -/

section

variable {b : Block} {l : Nat}

/-- How many frames of a pattern a half at step 2 has heard in a row with one more. -/
def LaneSt.patternRun (q : LaneSt) (inv : Bool) : Nat := if q.syncBad = [inv] then q.goodWords + 1 else 1

/-- Step 2 with n frames of a pattern in a row: the 64th completes it. -/
def LaneSt.heardPattern (q : LaneSt) (inv : Bool) (n : Nat) : LaneSt :=
  if 64 ≤ n then { q with step := 3, goodWords := 0, inverted := inv, syncBad := [inv] } else { q with goodWords := n, syncBad := [inv] }

theorem Block.polarityFrame_lane (b : Block) (l : Nat) (inv : Bool) :
    LaneIs b (b.polarityFrame l (some inv)) l ((b.lane l).heardPattern inv ((b.lane l).patternRun inv)) := by
  have hrun : (if (b.lane l).syncBad == [inv] then (b.lane l).goodWords + 1 else 1) = (b.lane l).patternRun inv := by
    simp only [LaneSt.patternRun, beq_iff_eq]
  have hcount : LaneIs b
      (b.onLane l fun q => { q with goodWords := if (b.lane l).syncBad == [inv] then q.goodWords + 1 else 1, syncBad := [inv] }) l
      { b.lane l with goodWords := (b.lane l).patternRun inv, syncBad := [inv] } := by
    rw [← hrun]
    exact (LaneIs.refl b l).step _
  have hdone := hcount.step fun q => { q with step := 3, goodWords := 0, inverted := inv }
  unfold Block.polarityFrame LaneSt.heardPattern
  dsimp only
  rw [hcount.here]
  by_cases hlong : 64 ≤ (b.lane l).patternRun inv
  · rw [if_pos hlong, if_pos hlong]
    exact .ite (hdone.raise _ _) hdone
  · rw [if_neg hlong, if_neg hlong]
    exact hcount

theorem Block.lineIn_training {x : LineFrame} {take : CFrame → Block → Block} (hprbs : (b.lane l).prbs = 0)
    (hrx : (b.lane l).rx = .training) : b.lineIn l x take = take (b.hear l x).1 (b.hear l x).2 := by
  simp [Block.lineIn, hprbs, hrx]

theorem Block.hear_laneIs (b : Block) (l : Nat) (x : LineFrame) : LaneIs b (b.hear l x).2 l ((b.hear l x).2.lane l) :=
  ⟨rfl, fun _ hm => Block.lane_onLane_ne b _ hm⟩

theorem Block.trainStep_two {k : Link} {f : CFrame} {sync : Option Bool} {margin : Int} (h : (b.lane l).step = 2) :
    b.trainStep k l f sync margin = b.polarityFrame l sync := by
  simp only [Block.trainStep, h]

end

/-- What a frame of a link other than a timing lane's does to the half that has heard it. -/
def Block.trainingIn (b : Block) (k : Link) (l : Nat) (x : LineFrame) (margin : Int) (f : CFrame) : Block :=
  if (b.lane l).rx = .training then b.when (frCode f == codeTraining) fun b => b.trainStep k l f (syncPattern x.sync) margin
  else b.when ((b.lane l).last.isSome && k.kind != .cross) fun b => b.present k l x f margin.toNat

section

variable {b : Block} {l : Nat} {k : Link} {x : LineFrame} {f : CFrame} {margin : Int}

/-- A training frame at step 2 counts for its sync-header pattern. -/
theorem Block.trainingIn_pattern {inv : Bool} (hrx : (b.lane l).rx = .training) (hstep : (b.lane l).step = 2)
    (hcode : frCode f = codeTraining) (hsync : syncPattern x.sync = some inv) :
    b.trainingIn k l x margin f = b.polarityFrame l (some inv) := by
  rw [Block.trainingIn, if_pos hrx, Block.when, if_pos (beq_iff_eq.mpr hcode), Block.trainStep_two hstep, hsync]

theorem Block.trainingIn_other (hrx : (b.lane l).rx = .training) (hcode : frCode f ≠ codeTraining) : b.trainingIn k l x margin f = b := by
  rw [Block.trainingIn, if_pos hrx, Block.when_false (beq_eq_false_iff_ne.mpr hcode)]

end

theorem exec_trainingFrame {l : Lane} {k : Link} {x : LineFrame} {margin : Int} {s : State} (hrun : s.blk.running = true)
    (hlink : s.blk.linkOf l.val = some k) (hkind : k.kind ≠ .timing) :
    exec (.trainingFrame l x margin) s =
      .next { s with blk := s.blk.lineIn l.val x fun f b => b.trainingIn k l.val x margin f } := by
  show execTrainingFrame l x margin s = _
  simp only [execTrainingFrame, State.run, Block.when, hrun, if_true, hlink, hkind, if_false, Block.trainingIn]

/-! ### Leaving Active (R287, R289, R379) -/

/-- Every entry below those of 6000.00 reads as it did, and every latch that was set is. -/
structure Tells (a b : Block) : Prop where
  reg     : ∀ k < 0x600000, b.reg k = a.reg k
  latched : ∀ n < 256, a.latched n = true → b.latched n = true

section

variable {a b c : Block}

theorem Tells.refl (b : Block) : Tells b b := ⟨fun _ _ => rfl, fun _ _ h => h⟩

theorem Tells.trans (h : Tells a b) (h' : Tells b c) : Tells a c :=
  ⟨fun k hk => (h'.reg k hk).trans (h.reg k hk), fun n hn hset => h'.latched n hn (h.latched n hn hset)⟩

theorem Tells.keeps {ps : List Part} (h : Tells a b) (hc : Keeps ps b c) (hregs : ps.contains .regs = false)
    (hrole : ps.contains .role = false) (hsets : ps.contains .sets = false) (hfuses : ps.contains .fuses = false) : Tells a c :=
  have hsame := hc.reg_eq hregs hrole hsets hfuses
  h.trans ⟨fun k _ => hsame k, fun n _ hset => by unfold Block.latched; rw [hsame]; exact hset⟩

theorem Tells.ite {p : Prop} [Decidable p] (hb : Tells a b) (hc : Tells a c) : Tells a (if p then b else c) := by
  split <;> assumption

theorem Tells.raise (h : Tells a b) (n : Nat) (f : List Fld) : Tells a (b.raise n f) :=
  h.trans ⟨fun _ hk => Block.reg_raise_low b n f (by omega), fun _ hm hset => Block.latched_raise b n f hm hset⟩

theorem Tells.raiseOnce (h : Tells a b) (n i : Nat) (f : List Fld) : Tells a (b.raiseOnce n i f) :=
  h.trans ⟨fun _ hk => Block.reg_raiseOnce_low b n i f (by omega), fun _ hm hset => (Latches.raiseOnce ⟨hm, hset⟩ n i f).set⟩

/-- A counter between the lanes' entries and the latches. -/
theorem Tells.bump_high (h : Tells a b) {key : Nat} (n : Nat) (hlow : 0x600000 ≤ key) (hhigh : key < 0x780000) : Tells a (b.bump key n) :=
  h.trans ⟨fun _ hk => Block.reg_bump_ne b n (by omega), fun _ _ hset => by rw [Block.latched_bump _ _ hhigh]; exact hset⟩

/-- A count on both sides. -/
theorem Tells.bump (h : Tells a b) {key : Nat} (n : Nat) (hkey : key < 0x600000) : Tells (a.bump key n) (b.bump key n) where
  reg := fun k hk => by
    by_cases hsame : k = key
    · rw [hsame, Block.reg_bump_same, Block.reg_bump_same, h.reg key hkey]
    · rw [Block.reg_bump_ne _ _ hsame, Block.reg_bump_ne _ _ hsame, h.reg k hk]
  latched := fun m hm hset => by
    rw [Block.latched_bump _ _ (by omega)] at hset ⊢
    exact h.latched m hm hset

theorem Tells.leftFor (h : Tells a b) (l : Nat) (was : Half) : Tells a (b.leftFor l was) :=
  .ite ((h.raise _ _).raise _ _) (h.raise _ _)

theorem Tells.domLost (h : Tells a b) (d : Nat) : Tells a (b.domLost d) := by
  have hdeclared : Tells a (b.lossDeclared d) :=
    (h.keeps (Block.onDom_keeps (f := Tracker.dropped) (.refl [.time] b) rfl) rfl rfl rfl rfl).raise _ _
  refine .ite h ?_
  refine .ite (.ite ?_ hdeclared) (.ite ?_ hdeclared)
  · exact hdeclared.keeps (Block.leaveDomain_keeps (.refl [.time] _) rfl) rfl rfl rfl rfl
  · have hheld : Tells a ((b.lossDeclared d).onTime fun t => { t with selected := none, holdover := true, switchTo := none }) :=
      hdeclared.trans ⟨fun _ _ => rfl, fun _ _ hset => hset⟩
    exact hheld.raise _ _

/-- A transient of a site that stands below the permanent bound is counted and told. -/
theorem Block.transient_few {id : Nat} (h : (b.siteTransients id).length < 15) :
    Keeps [.flt, .regs, .ev] b (b.transient id) ∧ Tells b (b.transient id) := by
  unfold Block.transient
  extract_lets times keep site told
  have hkeep : ¬16 ≤ keep.length := by
    have htimes : times.length = (b.siteTransients id).length + 1 := List.length_append
    have hdrop : keep.length = times.length - (times.length - 16) := List.length_drop
    omega
  rw [if_neg hkeep]
  have hsite : Tells b (b.onSite id fun k => { k with times := keep }) :=
    (Tells.refl b).keeps (Block.onSite_keeps (.refl [.flt] b) rfl) rfl rfl rfl rfl
  exact ⟨Block.raiseOnce_keeps (Block.bump_keeps (Block.onSite_keeps (.refl _ b) rfl) rfl) rfl,
    (hsite.bump_high 1 (by decide) (by decide)).raiseOnce _ _ _⟩

/-- The transients of a site are kept with it, and counted from the present crossing. -/
theorem Keeps.siteTransients_eq {ps : List Part} (h : Keeps ps a b) (hflt : ps.contains .flt = false) (hnow : ps.contains .now = false)
    (id : Nat) : b.siteTransients id = a.siteTransients id := by
  unfold Block.siteTransients Block.site
  rw [h.flt_eq hflt, h.now_eq hnow]

end

/-- The receive half of lane l is in the first attempt of a new Training, at step 1. -/
structure FirstAttempt (l : Nat) (b : Block) : Prop where
  rx       : (b.lane l).rx = .training
  step     : (b.lane l).step = 1
  attempts : (b.lane l).attempts = 1

theorem FirstAttempt.keeps {ps : List Part} {l : Nat} {a b : Block} (h : FirstAttempt l a) (hb : Keeps ps a b)
    (hfrm : ps.contains .frm = false) : FirstAttempt l b :=
  have hlane := hb.lane_eq hfrm l
  ⟨by rw [hlane]; exact h.rx, by rw [hlane]; exact h.step, by rw [hlane]; exact h.attempts⟩

theorem FirstAttempt.ite {p : Prop} [Decidable p] {l : Nat} {a b : Block} (ha : FirstAttempt l a) (hb : FirstAttempt l b) :
    FirstAttempt l (if p then a else b) := by split <;> assumption

theorem FirstAttempt.onLane {l : Nat} {b : Block} (h : FirstAttempt l b) (m : Nat) (f : LaneSt → LaneSt)
    (hf : ∀ q, (f q).rx = q.rx ∧ (f q).step = q.step ∧ (f q).attempts = q.attempts) : FirstAttempt l (b.onLane m f) := by
  by_cases hm : l = m
  · subst hm
    obtain ⟨hrx, hstep, hattempts⟩ := hf (b.lane l)
    exact ⟨by rw [Block.lane_onLane_same, hrx, h.rx], by rw [Block.lane_onLane_same, hstep, h.step],
      by rw [Block.lane_onLane_same, hattempts, h.attempts]⟩
  · have hlane := Block.lane_onLane_ne b f hm
    exact ⟨by rw [hlane, h.rx], by rw [hlane, h.step], by rw [hlane, h.attempts]⟩

/-- The receive half of lane l has entered Training; what else has changed are lanes, and what is told. -/
structure Retrains (l : Nat) (a b : Block) : Prop where
  first : FirstAttempt l b
  keeps : Keeps [.frm, .regs, .ev] a b
  tells : Tells a b

section

variable {a b : Block} {l : Nat}

/-- A receive half that enters Training with no region to check. -/
def LaneSt.entered (q : LaneSt) : LaneSt :=
  { startStep { q with last := none, wait := [] } with rx := .training, attempts := 1, placed := none }

theorem Block.trainRx_active (hrx : (b.lane l).rx = .active) (hlast : (b.lane l).last = none) :
    ∃ x, Keeps [.frm] b x ∧ x.lane l = (b.lane l).entered ∧ b.trainRx l = x.leftFor l .active := by
  have hlost : b.lastLost l = b.onLane l fun k => { k with last := none, wait := [] } := by
    unfold Block.lastLost
    dsimp only
    rw [hlast]
  refine ⟨(b.lastLost l).onLane l fun k => { startStep k with rx := .training, attempts := 1, placed := none }, ?_, ?_, ?_⟩
  · rw [hlost]
    exact Block.onLane_keeps (Block.onLane_keeps (.refl _ _) rfl) rfl
  · rw [hlost, Block.lane_onLane_same, Block.lane_onLane_same]
    rfl
  · unfold Block.trainRx
    dsimp only
    rw [hrx, if_neg (by decide)]

/-- A half with no region to check that leaves Active is told so and starts its first attempt at once. -/
theorem Block.trainRx_retrains (hrx : (b.lane l).rx = .active) (hlast : (b.lane l).last = none) : Retrains l b (b.trainRx l) := by
  obtain ⟨x, hkeeps, hlane, htrain⟩ := Block.trainRx_active hrx hlast
  have hfirst : FirstAttempt l x := ⟨congrArg LaneSt.rx hlane, congrArg LaneSt.step hlane, congrArg LaneSt.attempts hlane⟩
  rw [htrain]
  exact ⟨hfirst.keeps (Block.leftFor_keeps (.refl [.regs, .ev] _) rfl) rfl, Block.leftFor_keeps (hkeeps.widen rfl) rfl,
    ((Tells.refl b).keeps hkeeps rfl rfl rfl rfl).leftFor _ _⟩

/-- Transmit halves that enter Training with it. -/
theorem Retrains.trainTx (h : Retrains l a b) (m : Nat) : Retrains l a (b.trainTx m) := by
  have htx : FirstAttempt l (b.onLane m fun k => { k with tx := .training }) := h.first.onLane m _ fun _ => ⟨rfl, rfl, rfl⟩
  have hfirst : FirstAttempt l (b.trainTx m) :=
    .ite h.first (.ite htx (htx.keeps (Block.leftFor_keeps (.refl [.regs, .ev] _) rfl) rfl))
  have htells : Tells a (b.onLane m fun k => { k with tx := .training }) :=
    h.tells.keeps (Block.onLane_keeps (.refl [.frm] b) rfl) rfl rfl rfl rfl
  exact ⟨hfirst, Block.trainTx_keeps h.keeps rfl, .ite h.tells (.ite htells (htells.leftFor _ _))⟩

theorem Retrains.forEach {ms : List Nat} {f : Nat → Block → Block} (h : Retrains l a b) (hf : ∀ m x, Retrains l a x → Retrains l a (f m x)) :
    Retrains l a (forEach ms b f) := List.foldlRecOn (motive := Retrains l a) ms _ h fun x hx m _ => hf m x hx

/-- A link of one receive half enters Training with it. -/
theorem Block.retrain_alone {k : Link} (hk : k.rx = [l]) (hrx : (b.lane l).rx = .active) (hlast : (b.lane l).last = none) :
    Retrains l b (b.retrain k) := by
  unfold Block.retrain
  rw [hk]
  exact (Block.trainRx_retrains hrx hlast).forEach fun m _ hx => hx.trainTx m

end

/-- Entry 59ll.0C, the drops of a lane. -/
def dropKey (l : Nat) : Nat := 0x59000C + 256 * l

/-- The receive half of lane l has left Active: the drop is counted and told, and the first attempt has begun. -/
structure Drops (l : Nat) (a b : Block) : Prop where
  first : FirstAttempt l b
  tells : Tells (a.bump (dropKey l) 1) b
  told  : b.latched 0x71 = true

section

variable {a b x : Block} {l : Nat}

theorem Drops.keeps {ps : List Part} (h : Drops l a b) (hx : Keeps ps b x) (hfrm : ps.contains .frm = false) (htells : Tells b x) :
    Drops l a x := ⟨h.first.keeps hx hfrm, h.tells.trans htells, htells.latched _ (by decide) h.told⟩

theorem Drops.ite {p : Prop} [Decidable p] (hb : Drops l a b) (hx : Drops l a x) : Drops l a (if p then b else x) := by
  split <;> assumption

theorem Drops.domLost (h : Drops l a b) (d : Nat) : Drops l a (b.domLost d) :=
  h.keeps (Block.domLost_keeps (.refl [.time, .regs, .ev] b) rfl) rfl ((Tells.refl b).domLost d)

/-- A half that has retrained is dropped: at a site below the permanent bound the transient changes no lane. -/
theorem Retrains.dropped (h : Retrains l a b) (hl : l < 40) (hfew : (a.siteTransients (siteId 2 l)).length < 15) (k : Link) (cause : Nat) :
    Drops l a (b.dropped k l cause) := by
  have hcount : Keeps [.regs, .ev] b ((b.bump (dropKey l) 1).raise 0x71 [.id 6 l, .id 8 cause]) :=
    Block.raise_keeps (Block.bump_keeps (.refl _ _) rfl) rfl
  have hcounted : Drops l a ((b.bump (dropKey l) 1).raise 0x71 [.id 6 l, .id 8 cause]) :=
    ⟨h.first.keeps hcount rfl, (h.tells.bump 1 (by unfold dropKey; omega)).raise _ _, Block.latched_raise_self _ (by decide) _⟩
  obtain ⟨hkeeps, htells⟩ := Block.transient_few (b := (b.bump (dropKey l) 1).raise 0x71 [.id 6 l, .id 8 cause]) (id := siteId 2 l)
    (by rw [hcount.siteTransients_eq rfl rfl, h.keeps.siteTransients_eq rfl rfl]; exact hfew)
  have hdropped := hcounted.keeps hkeeps rfl htells
  exact .ite (hdropped.domLost _) (.ite (hdropped.domLost _) hdropped)

/-- The drop of a link of one receive half. -/
theorem Block.dropLink_alone {k : Link} (hl : l < 40) (hlink : b.linkOf l = some k) (hk : k.rx = [l]) (hrx : (b.lane l).rx = .active)
    (hlast : (b.lane l).last = none) (hfew : (b.siteTransients (siteId 2 l)).length < 15) (cause : Nat) :
    Drops l b (b.dropLink l cause) := by
  have hwhole : ¬(k.kind = .port ∧ placeOf k l ≠ 0) := by simp [placeOf, hk]
  have hdrop : b.dropLink l cause = (b.retrain k).dropped k l cause := by
    simp only [Block.dropLink, hlink, hwhole, if_false]
  rw [hdrop]
  exact (Block.retrain_alone hk hrx hlast).dropped hl hfew k cause

/-- A frame that is late is counted and measured. -/
def Block.lateCounted (b : Block) (l : Nat) (margin : Int) : Block :=
  (b.bump (0x59000D + 256 * l) 1).onLane l fun q => { q with margin := twos 16 margin }

/-- It is told before its half leaves Active. -/
def Block.lateTold (b : Block) (l : Nat) (margin : Int) : Block :=
  (b.lateCounted l margin).raise 0x7A [.id 6 l, (b.lateCounted l margin).hereFld]

theorem Block.frameLate_eq (b : Block) (l : Nat) (margin : Int) : b.frameLate l margin = (b.lateTold l margin).dropLink l 3 := rfl

theorem Block.lateTold_keeps (b : Block) (l : Nat) (margin : Int) : Keeps [.frm, .regs, .ev] b (b.lateTold l margin) :=
  Block.raise_keeps (Block.onLane_keeps (Block.bump_keeps (.refl _ _) rfl) rfl) rfl

theorem Block.lateTold_lane (b : Block) (l : Nat) (margin : Int) :
    LaneIs b (b.lateTold l margin) l { b.lane l with margin := twos 16 margin } :=
  (((LaneIs.refl b l).keeps (Block.bump_keeps (.refl [.regs] b) rfl) rfl).step _).raise _ _

theorem Block.lateTold_linkOf (b : Block) (l : Nat) (margin : Int) (m : Nat) : (b.lateTold l margin).linkOf m = b.linkOf m :=
  calc (b.lateTold l margin).linkOf m
    _ = (b.lateCounted l margin).linkOf m := (Block.raise_keeps (.refl [.regs, .ev] _) rfl).linkOf_eq rfl rfl rfl m
    _ = (b.bump (0x59000D + 256 * l) 1).linkOf m := Block.linkOf_onLane _ l (by intro; rfl) m
    _ = b.linkOf m := (Block.bump_keeps (.refl [.regs] b) rfl).linkOf_eq rfl rfl rfl m

/-- The drop for a late frame, beside the count and the message of the frame itself. -/
theorem Block.frameLate_alone {k : Link} (hl : l < 40) (hlink : b.linkOf l = some k) (hk : k.rx = [l]) (hrx : (b.lane l).rx = .active)
    (hlast : (b.lane l).last = none) (hfew : (b.siteTransients (siteId 2 l)).length < 15) (margin : Int) :
    Drops l (b.lateTold l margin) (b.frameLate l margin) ∧ (b.frameLate l margin).latched 0x7A = true ∧
      (b.frameLate l margin).reg (0x59000D + 256 * l) = b.reg (0x59000D + 256 * l) + 1 := by
  have hlane := (b.lateTold_lane l margin).here
  have hdrop : Drops l (b.lateTold l margin) ((b.lateTold l margin).dropLink l 3) :=
    Block.dropLink_alone hl ((b.lateTold_linkOf l margin l).trans hlink) hk (by rw [hlane]; exact hrx) (by rw [hlane]; exact hlast)
      (by rw [(b.lateTold_keeps l margin).siteTransients_eq rfl rfl]; exact hfew) 3
  have htold : (b.lateTold l margin).latched 0x7A = true := Block.latched_raise_self _ (by decide) _
  have hcount : (b.lateTold l margin).reg (0x59000D + 256 * l) = b.reg (0x59000D + 256 * l) + 1 := by
    rw [Block.lateTold, Block.reg_raise_low _ _ _ (by omega), Block.lateCounted, Block.onLane_reg, Block.reg_bump_same]
  rw [Block.frameLate_eq]
  refine ⟨hdrop, hdrop.tells.latched _ (by decide) ?_, (hdrop.tells.reg _ (by omega)).trans ?_⟩
  · rw [Block.latched_bump _ _ (by unfold dropKey; omega)]; exact htold
  · rw [Block.reg_bump_ne _ _ (by unfold dropKey; omega)]; exact hcount

/-! ### A lost signal (R285, R287) -/

theorem Block.signalLost_active (hrx : (b.lane l).rx = .active) (cause : Nat) : b.signalLost l cause = b.dropLink l cause := by
  unfold Block.signalLost
  rw [hrx]

theorem Block.signalLost_training (hrx : (b.lane l).rx = .training) (hstep : 2 ≤ (b.lane l).step) (cause : Nat) :
    b.signalLost l cause = b.onLane l fallBack := by
  unfold Block.signalLost
  rw [hrx]
  exact if_pos hstep

theorem Block.signalLost_stays (hactive : (b.lane l).rx ≠ .active) (h : (b.lane l).rx ≠ .training ∨ (b.lane l).step < 2) (cause : Nat) :
    b.signalLost l cause = b := by
  unfold Block.signalLost
  split
  next htraining => exact if_neg (by simpa [htraining] using h)
  next hrx => exact absurd hrx hactive
  next => rfl

end

/-! ### The obligations -/

/-- Settles O40: a half in steps 2 to 6 falls back within its attempt, any other that is not Active stays. -/
theorem halvesReturnToStepOne : Obligations.HalvesReturnToStepOne := by
  unfold Obligations.HalvesReturnToStepOne
  refine fun l s hrun => ⟨fun cause hrx hstep => does_of_when rfl hrun ?_, fun cause hactive hstays => ?_⟩
  · rw [Block.signalLost_training hrx hstep]
    have hlane := (LaneIs.refl s.blk l.val).step fallBack
    exact ⟨hlane.here, hlane.others⟩
  · exact exec_of_when_same rfl (Block.signalLost_stays hactive hstays _)

/-- Settles O39: what step 1, an attempt, a training frame and a locked checker leave of the one lane, and how a half leaves Active. -/
theorem lanesTrainAndDrop : Obligations.LanesTrainAndDrop := by
  unfold Obligations.LanesTrainAndDrop
  refine ⟨fun l s hrun => ?_, fun l s hrun => ?_⟩
  · intro q
    refine ⟨fun ctle taps htaps hprbs => ?_, fun k hlink hk hrx hprbs => ⟨fun hfree hstep => ?_, fun hfrozen => ?_⟩,
      exec_trainingAttempt_unlinked, fun k x margin hlink hkind hprbs => ?_, fun hmode hlong => ?_, fun hshort => ?_⟩
    · intro cfg
      have hexec := exec_clockRecoveryLocked (ctle := ctle) htaps hrun hprbs
      refine ⟨fun hrx hstep hfreeze hhold => ?_, fun hstays => exec_of_same hexec (Block.clockLocked_stays ?_)⟩
      · have hfree : s.blk.rxFrozen l.val = false := Bool.or_eq_false_iff.mpr ⟨hfreeze, hhold⟩
        obtain ⟨hlane, hside⟩ := Block.clockLocked_does (ctle := ctle.toNat) (taps := taps) hrx hstep hfree
        exact does_of_next hexec ⟨hlane.here, hside, hlane.others⟩
      · simpa only [Block.rxFrozen, Bool.or_eq_true] using hstays
    · obtain ⟨hlane, htold⟩ := Block.attempt_does hk hrx hprbs hfree hstep
      exact does_of_next (exec_trainingAttempt hrun hlink) ⟨hlane.here, htold, hlane.others⟩
    · exact exec_of_same (exec_trainingAttempt hrun hlink) (Block.attempt_frozen hk hrx hfrozen)
    · intro f q'
      have hexec := exec_trainingFrame (x := x) (margin := margin) hrun hlink hkind
      have hheard := s.blk.hear_laneIs l.val x
      have hlane : q' = { q with descr := q'.descr } := s.blk.hear_lane l.val x
      have htrains (hrx : q.rx = .training) : q'.rx = .training := by rw [hlane]; exact hrx
      refine ⟨fun inv hcode hrx hstep hsync => ?_, fun hcode hrx => does_of_next hexec ?_, fun htraining hactive => ?_⟩
      · have hstep' : q'.step = 2 := by rw [hlane]; exact hstep
        have hrun' : q'.patternRun inv = q.patternRun inv := by rw [hlane]; rfl
        have hpattern := (s.blk.hear l.val x).2.polarityFrame_lane l.val inv
        refine does_of_next hexec ?_
        rw [Block.lineIn_training hprbs hrx, Block.trainingIn_pattern (htrains hrx) hstep' hcode hsync]
        refine ⟨hpattern.here.trans ?_, fun m hm => (hpattern.others m hm).trans (hheard.others m hm)⟩
        exact congrArg (q'.heardPattern inv) hrun'
      · rw [Block.lineIn_training hprbs hrx, Block.trainingIn_other (htrains hrx) hcode]
        exact ⟨rfl, hheard.others⟩
      · exact exec_of_same hexec (Block.lineIn_ignored hprbs htraining hactive)
    · have hlane := (LaneIs.refl s.blk l.val).step fun q => { q with prbsLock := true }
      refine does_of_when rfl ?_ ⟨hlane.here, hlane.others⟩
      rw [hrun, decide_eq_true hmode, decide_eq_true hlong]
      rfl
    · refine exec_of_not_when rfl ?_
      rw [hrun, Bool.true_and, Bool.and_eq_false_iff, decide_eq_false_iff_not, decide_eq_false_iff_not]
      exact hshort.imp Nat.not_le.mpr Nat.not_le.mpr
  · intro q
    refine ⟨fun k hlink hk hrx hlast hfew => ⟨fun cause => does_of_when rfl hrun ?_, fun margin => ?_⟩, fun margin hrx => ?_⟩
    · rw [Block.signalLost_active hrx]
      obtain ⟨hfirst, htells, htold⟩ := Block.dropLink_alone l.isLt hlink hk hrx hlast hfew cause.toNat
      refine ⟨hfirst.rx, hfirst.step, hfirst.attempts, htold, (htells.reg _ (by omega)).trans ?_⟩
      exact Block.reg_bump_same ..
    · have hactive : s.blk.rxActive l.val = true := beq_iff_eq.mpr hrx
      have hguard : (s.blk.running && s.blk.rxActive l.val) = true := by rw [hrun, hactive]; rfl
      obtain ⟨⟨hfirst, _, htold⟩, hlate, hcount⟩ := Block.frameLate_alone l.isLt hlink hk hrx hlast hfew margin
      exact does_of_when rfl hguard ⟨hfirst.rx, hfirst.step, hlate, htold, hcount⟩
    · have hidle : s.blk.rxActive l.val = false := beq_eq_false_iff_ne.mpr hrx
      exact exec_of_not_when rfl (by rw [hidle, Bool.and_false])

end Sys2Proof.Machine
end

section
/-! PROOFS. Downward commands (R307 to R309, R453): calibration fires, arms and fast writes, as they act, are late, are refused or are
passed on. -/

namespace Sys2Proof.Machine

section

variable {b : Block}

/-! ### Under reset, and passed on (R307, R453) -/

theorem Block.unlessReset_resetting {blk : Nat} {f : Block → Block} (h : (tabFind b.boot.resetting blk).isSome = true) :
    b.unlessReset blk f = b.bump 0x10140A 1 := if_pos h

theorem Block.forwardNext_cRole (h : b.cRole = true) (p : Ref48) :
    b.forwardNext p = b.onAcc fun a => { a with command := some p } := if_pos h

theorem Block.commandLate_iu (type target : Nat) : (b.commandLate type target).iu = b.iu := by simp [Block.commandLate]

/-! ### CAL_FIRE (R87, R307, R308) -/

/-- CAL_FIRE as a C-role passes it on. -/
def Block.firePayload (b : Block) (mask : Nat) (p : Point) (target : Nat) : Ref48 :=
  command 3 (pack [(16, mask), (5, p.cycle.toNat), (5, 0), (6, p.phase.toNat), (12, b.countFor target)])

section

variable {mask target : Nat} {p : Point}

theorem Block.actCalFire_late (h : target ≤ b.time.now) : b.actCalFire mask p target = b.commandLate 3 target := Block.onCount_late h

theorem Block.actCalFire_fRole (h : b.time.now < target) (hrole : b.cRole = false) :
    b.actCalFire mask p target = b.unlessReset 1 fun b => b.enterFire target mask p := by
  rw [Block.actCalFire, Block.onCount_ahead h, if_neg (by simp [hrole])]

theorem Block.actCalFire_cRole (h : b.time.now < target) (hrole : b.cRole = true) :
    b.actCalFire mask p target = b.onAcc fun a => { a with command := some (b.firePayload mask p target) } := by
  rw [Block.actCalFire, Block.onCount_ahead h, if_pos hrole, Block.forwardNext_cRole hrole]
  rfl

end

/-! ### MEASURE (R116, R307, R308) -/

/-- An arm waits for its crossing. -/
def Block.armWaits (b : Block) (prog scope target : Nat) : Block := b.onIu fun i => { i with pending := i.pending ++ [(target, prog, scope)] }

/-- A C-role passes an arm of scope 0 or 2 on. -/
def Block.armPassed (b : Block) (prog scope target : Nat) : Block :=
  if b.cRole ∧ (scope = 0 ∨ scope = 2) then
    b.onAcc fun a => { a with command := some (command 4 (pack [(4, prog), (2, scope), (26, 0), (12, b.countFor target)])) }
  else b

section

variable {prog scope target : Nat}

theorem Block.armWaits_iu : (b.armWaits prog scope target).iu = { b.iu with pending := b.iu.pending ++ [(target, prog, scope)] } := rfl

theorem Block.armWaits_acc : (b.armWaits prog scope target).acc = b.acc := rfl

theorem Block.armPassed_iu : (b.armPassed prog scope target).iu = b.iu := by unfold Block.armPassed; split <;> rfl

theorem Block.armPassed_boot : (b.armPassed prog scope target).boot = b.boot := by unfold Block.armPassed; split <;> rfl

theorem Block.armPassed_acc : (b.armPassed prog scope target).acc =
    if b.cRole ∧ (scope = 0 ∨ scope = 2) then
      { b.acc with command := some (command 4 (pack [(4, prog), (2, scope), (26, 0), (12, target - (b.time.now + 1))])) }
    else b.acc := by
  unfold Block.armPassed; split <;> rfl

theorem Block.actMeasure_late (h : target ≤ b.time.now) : b.actMeasure prog scope target = b.commandLate 4 target := Block.onCount_late h

/-- The scopes that name the device itself are 1 and 2 at a C-role, 0 and 2 at an F-role. -/
theorem Block.actMeasure_ahead (h : b.time.now < target) (hfree : tabFind b.boot.resetting 2 = none) :
    b.actMeasure prog scope target =
      if scope = 2 ∨ scope = (if b.cRole then 1 else 0) then (b.armPassed prog scope target).armWaits prog scope target
      else b.armPassed prog scope target := by
  have hpassed : (if b.cRole && (scope == 0 || scope == 2) then
      b.forwardNext (command 4 (pack [(4, prog), (2, scope), (26, 0), (12, b.countFor target)])) else b) = b.armPassed prog scope target := by
    unfold Block.armPassed
    cases hrole : b.cRole with
    | true => simp [Block.forwardNext_cRole hrole]
    | false => simp
  have hnames : (if b.cRole then scope == 1 || scope == 2 else scope == 0 || scope == 2) =
      decide (scope = 2 ∨ scope = (if b.cRole then 1 else 0)) := by
    cases b.cRole <;> simp [Bool.or_comm, Bool.beq_eq_decide_eq]
  rw [Block.actMeasure, Block.onCount_ahead h]
  simp only [hpassed, hnames, decide_eq_true_eq]
  rw [Block.unlessReset_free (by rw [Block.armPassed_boot]; exact hfree)]
  rfl

end

/-! ### DICT_FAST (R309) -/

section

variable {path idx sub v key : Nat}

theorem Block.takeWrite_valueEntry (hvalue : valueEntry key = true) (h : Hdr) : b.takeWrite h key v = b.setReg key v := by
  simp only [valueEntry, Bool.and_eq_true, bne_iff_ne, Bool.not_eq_true', Bool.and_eq_false_iff,
    decide_eq_false_iff_not, beq_eq_false_iff_ne] at hvalue
  unfold Block.takeWrite
  dsimp only
  repeat rw [if_neg (by omega)]

theorem Block.fastWrite_value (hok : b.fastOk key v = true) (hfree : tabFind b.boot.resetting (blockOf (key / 256)) = none)
    (hvalue : valueEntry key = true) : b.fastWrite key v = b.setReg key (cleaned key v) := by
  rw [Block.fastWrite, if_pos hok, Block.unlessReset_free hfree, Block.takeWrite_valueEntry hvalue]

theorem Block.fastWrite_resetting (hok : b.fastOk key v = true) (hreset : (tabFind b.boot.resetting (blockOf (key / 256))).isSome = true) :
    b.fastWrite key v = b.bump 0x10140A 1 := by
  rw [Block.fastWrite, if_pos hok, Block.unlessReset_resetting hreset]

theorem Block.fastWrite_refused (hok : b.fastOk key v = false) : b.fastWrite key v = b.commandInvalid 7 := by
  rw [Block.fastWrite, hok, if_neg (by decide)]

theorem Block.actFast_own (hown : (b.cRole = true ∧ path = 0) ∨ (b.cRole = false ∧ (path = 63 ∨ path = b.ownPort))) :
    b.actFast path idx sub v = b.fastWrite (idx * 256 + sub) v := by
  unfold Block.actFast
  obtain ⟨hrole, hpath⟩ | ⟨hrole, hpath⟩ := hown
  · rw [if_pos hrole, if_pos hpath]
  · rw [hrole, if_neg (by decide), if_pos hpath]

theorem Block.actFast_passed (hrole : b.cRole = true) (hpath : path ≠ 0) :
    b.actFast path idx sub v = b.onAcc fun a =>
      { a with command := some (command 7 (pack [(6, path), (16, idx), (8, sub), (8, v), (6, 0)])) } := by
  rw [Block.actFast, if_pos hrole, if_neg hpath, Block.forwardNext_cRole hrole]

theorem Block.actFast_other (hrole : b.cRole = false) (hpath : path ≠ 63) (hport : path ≠ b.ownPort) : b.actFast path idx sub v = b := by
  rw [Block.actFast, hrole, if_neg (by decide), if_neg (by simp [hpath, hport])]

end

end

/-! ### The obligations -/

/-- Settles O34: an arm and a fire are late, or come to what the role and the scope make of a crossing to come. -/
theorem commandsActOrAreLate : Obligations.CommandsActOrAreLate := by
  unfold Obligations.CommandsActOrAreLate
  intro s hobeys
  refine ⟨does_of_when rfl hobeys rfl, fun mask p count => ?_, fun prog scope count => ?_⟩
  · intro x
    have hdoes {P : Block → Prop} (hP : P (s.blk.actCalFire mask.toNat p x)) : Does (.calFireCommand mask p count) s P :=
      does_of_when rfl hobeys hP
    refine ⟨fun hlate => hdoes ?_, fun hahead hrole hfree => hdoes ?_, fun hahead hrole hreset => hdoes ?_,
      fun hahead hrole => hdoes ?_⟩
    · rw [Block.actCalFire_late hlate]
      exact ⟨Block.commandLate_time .., Block.commandLate_acc .., Block.commandLate_latched .., Block.commandLate_counts ..⟩
    · rw [Block.actCalFire_fRole hahead hrole, Block.unlessReset_free hfree]
      exact ⟨rfl, rfl⟩
    · rw [Block.actCalFire_fRole hahead hrole, Block.unlessReset_resetting hreset]
      exact ⟨Block.bump_time .., Block.reg_bump_same ..⟩
    · rw [Block.actCalFire_cRole hahead hrole]
      exact ⟨rfl, rfl⟩
  · intro x armed passed
    have hdoes {P : Block → Prop} (hP : P (s.blk.actMeasure prog.toNat scope.toNat x)) : Does (.measureCommand prog scope count) s P :=
      does_of_when rfl hobeys hP
    refine ⟨fun hlate => hdoes ?_, fun hahead hfree => hdoes ?_⟩
    · rw [Block.actMeasure_late hlate]
      exact ⟨Block.commandLate_iu .., Block.commandLate_acc .., Block.commandLate_latched .., Block.commandLate_counts ..⟩
    · rw [Block.actMeasure_ahead hahead hfree]
      constructor
      · rw [apply_ite Block.iu, Block.armWaits_iu, Block.armPassed_iu]
      · rw [apply_ite Block.acc, Block.armWaits_acc, ite_self, Block.armPassed_acc]

/-- Settles O37: a fast write is the device's own, passed on, or another's; its own is taken, counted under a reset, or refused. -/
theorem fastWritesAct : Obligations.FastWritesAct := by
  unfold Obligations.FastWritesAct
  intro path idx sub v s hobeys key
  have hidx : key / 256 = idx.toNat := by omega
  have hdoes {P : Block → Prop} (hP : P (s.blk.actFast path.toNat idx.toNat sub.toNat v.toNat)) : Does (.dictFast path idx sub v) s P :=
    does_of_when rfl hobeys hP
  refine ⟨fun hown => ?_, fun hrole hpath => hdoes ?_, fun hrole hpath hport => exec_of_when_same rfl (Block.actFast_other hrole hpath hport)⟩
  · rw [Block.actFast_own hown] at hdoes
    refine ⟨fun hok hfree hvalue => hdoes ?_, fun hok hreset => hdoes ?_, fun hok => hdoes ?_⟩
    · rw [Block.fastWrite_value hok (by rw [hidx]; exact hfree) hvalue]
      exact ⟨Block.reg_setReg_same .., fun k hk => Block.reg_setReg_ne _ _ hk, Block.setReg_keeps (.refl _ _) rfl⟩
    · rw [Block.fastWrite_resetting hok (by rw [hidx]; exact hreset)]
      exact ⟨Block.reg_bump_same .., Block.bump_keeps (.refl _ _) rfl⟩
    · rw [Block.fastWrite_refused hok]
      exact ⟨Block.commandInvalid_counts 7, Block.commandInvalid_latched 7, Block.commandInvalid_keeps (.refl _ _) rfl⟩
  · rw [Block.actFast_passed hrole hpath]
    exact ⟨rfl, Block.onAcc_keeps (.refl _ _) rfl⟩

end Sys2Proof.Machine
end

section
/-! PROOFS. Frames acted on (R312 to R316): what an F-role's action on a header crossing leaves of the decision between the sides, whatever
the region before it and the payload it obeys do to the lanes. -/

namespace Sys2Proof.Machine

/-! ### The frames aside from their lanes -/

/-- Aside from its lanes, the frames of a block are f. -/
structure LanesAside (f : Frames) (b : Block) : Prop where
  rest : ∃ l, b.frm = { f with lanes := l }

section

variable {f : Frames} {b x : Block}

theorem LanesAside.refl (b : Block) : LanesAside b.frm b := ⟨_, rfl⟩

theorem LanesAside.same (hb : LanesAside f b) (h : x.frm = b.frm) : LanesAside f x := ⟨by rw [h]; exact hb.rest⟩

theorem LanesAside.keeps {ps : List Part} (hb : LanesAside f b) (h : Keeps ps b x) (hfrm : ps.contains .frm = false) : LanesAside f x :=
  hb.same (h.frm_eq hfrm)

theorem LanesAside.ite {c : Prop} [Decidable c] (hb : LanesAside f b) (hx : LanesAside f x) : LanesAside f (if c then b else x) := by
  split <;> assumption

theorem LanesAside.when {c : Bool} {g : Block → Block} (hb : LanesAside f b) (hg : LanesAside f (g b)) : LanesAside f (b.when c g) :=
  .ite hg hb

theorem LanesAside.forEach {α : Type} {l : List α} {g : α → Block → Block} (hb : LanesAside f b)
    (hg : ∀ i x, LanesAside f x → LanesAside f (g i x)) : LanesAside f (forEach l b g) :=
  List.foldlRecOn (motive := LanesAside f) l _ hb fun x hx i _ => hg i x hx

theorem LanesAside.onFrm {g : Frames → Frames} (hb : LanesAside f b) (hg : ∀ t l, g { t with lanes := l } = { g t with lanes := l }) :
    LanesAside (g f) (b.onFrm g) := by
  obtain ⟨l, hl⟩ := hb.rest
  exact ⟨l, by rw [Block.onFrm_frm, hl, hg]⟩

theorem LanesAside.onLane (hb : LanesAside f b) (l : Nat) (g : LaneSt → LaneSt) : LanesAside f (b.onLane l g) := by
  obtain ⟨t, ht⟩ := hb.rest
  exact ⟨tabMod {} t l g, by rw [Block.onLane, Block.onFrm_frm, ht]⟩

theorem LanesAside.raise (hb : LanesAside f b) (n : Nat) (l : List Fld) : LanesAside f (b.raise n l) := hb.same (Block.raise_frm ..)

/-! ### A transient of a site (R378 to R383) -/

theorem LanesAside.retireLane (hb : LanesAside f b) (l : Nat) : LanesAside f (b.retireLane l) := by
  unfold Block.retireLane
  have hdue (n : List Nat) : LanesAside f (b.onFlt fun t => { t with dueLanes := t.dueLanes ++ n }) := hb.same rfl
  refine .ite ?_ (.ite (hdue _) (.ite (hdue _) ?_))
  · split
    · exact (hb.onLane l _).keeps (Block.planDue_keeps (.refl [.flt] _) rfl) rfl
    · exact hdue _
  · exact (hb.onLane l _).keeps (Block.planDue_keeps (.refl [.flt] _) rfl) rfl

theorem LanesAside.retireEffect (hb : LanesAside f b) (id : Nat) : LanesAside f (b.retireEffect id) := by
  unfold Block.retireEffect
  dsimp only
  split
  · exact hb.same rfl
  · exact hb.retireLane _
  · exact hb.same rfl
  · exact hb.same rfl
  · exact hb.keeps (Block.raise_keeps (Block.setReg_keeps (.refl [.regs, .ev] b) rfl) rfl) rfl
  · exact hb

theorem LanesAside.retireOne (hb : LanesAside f b) (id cause : Nat) (adopted byCommand : Bool) :
    LanesAside f (b.retireOne id cause adopted byCommand) := by
  have hsite : LanesAside f (b.onSite id fun k => { k with state := 2 }) := hb.same rfl
  refine (hsite.retireEffect id).keeps (ps := [.flt, .mrg, .twin, .regs, .ev, .free]) ?_ rfl
  exact Block.retiredMessage_keeps (Block.listSite_keeps (.refl _ _) rfl) rfl

theorem LanesAside.retire (hb : LanesAside f b) (id cause : Nat) (adopted byCommand : Bool) :
    LanesAside f (b.retire id cause adopted byCommand) := by
  have hone := hb.retireOne id cause adopted byCommand
  unfold Block.retire
  dsimp only
  split
  · exact .ite hone (hone.retireOne _ _ _ _)
  · exact hone

theorem LanesAside.permanent (hb : LanesAside f b) (id cause : Nat) : LanesAside f (b.permanent id cause) := by
  have htold : LanesAside f (((b.onSite id fun k => { k with state := 1 }).bump 0x6C0102 1).raise 0xC1 [.id 16 id, .id 8 cause]) :=
    hb.keeps (Block.raise_keeps (Block.bump_keeps (Block.onSite_keeps (.refl [.flt, .regs, .ev] b) rfl) rfl) rfl) rfl
  exact .ite hb (.ite (htold.same rfl) (htold.retire _ _ _ _))

theorem LanesAside.transient (hb : LanesAside f b) (id : Nat) : LanesAside f (b.transient id) := by
  unfold Block.transient
  extract_lets times keep site told
  have htold : LanesAside f told :=
    hb.keeps (Block.raiseOnce_keeps (Block.bump_keeps (Block.onSite_keeps (.refl [.flt, .regs, .ev] b) rfl) rfl) rfl) rfl
  exact .ite (htold.permanent _ _) htold

theorem LanesAside.regionFailed (hb : LanesAside f b) (l h : Nat) : LanesAside f (b.regionFailed l h).2 := by
  refine LanesAside.transient ?_ _
  exact hb.keeps (Block.raiseOnce_keeps (Block.bump_keeps (.refl [.regs, .ev] b) rfl) rfl) rfl

/-- The region of the header crossing acted on before comes to a queue, a mark or a transient of its lane. -/
theorem LanesAside.lastRegion (hb : LanesAside f b) : LanesAside f b.lastRegion := by
  have hgone (l h : Nat) : LanesAside f (b.regionGone l h) :=
    (hb.regionFailed l h).keeps (Block.qMake_keeps (.refl [.queues, .mrg, .regs, .ev] _) rfl) rfl
  unfold Block.lastRegion
  dsimp only
  split
  · split
    · exact .ite (hb.keeps (Block.downRegion_keeps (.refl [.time, .queues, .mrg, .regs, .ev] b) rfl) rfl) (hgone _ _)
    · exact hgone _ _
  · exact hb

/-! ### Halves that train (R265, R287, R292, R293) -/

theorem LanesAside.lastLost (hb : LanesAside f b) (l : Nat) : LanesAside f (b.lastLost l) := by
  unfold Block.lastLost
  dsimp only
  split
  · exact .ite (hb.onLane _ _) (LanesAside.onLane (.when (hb.regionFailed _ _) ((hb.regionFailed _ _).onLane _ _)) _ _)
  · exact hb.onLane _ _

theorem LanesAside.leftFor (hb : LanesAside f b) (l : Nat) (was : Half) : LanesAside f (b.leftFor l was) :=
  hb.keeps (Block.leftFor_keeps (.refl [.regs, .ev] b) rfl) rfl

theorem LanesAside.trainRx (hb : LanesAside f b) (l : Nat) : LanesAside f (b.trainRx l) :=
  .ite hb (((hb.lastLost l).onLane l _).leftFor l _)

theorem LanesAside.trainTx (hb : LanesAside f b) (l : Nat) : LanesAside f (b.trainTx l) :=
  .ite hb (.ite (hb.onLane l _) ((hb.onLane l _).leftFor l _))

theorem LanesAside.wakeLinks (hb : LanesAside f b) : LanesAside f b.wakeLinks := by
  refine hb.forEach fun k x hx => LanesAside.forEach ?_ fun l y hy => .ite (hy.trainTx l) hy
  exact hx.forEach fun l y hy => .ite (hy.trainRx l) hy

theorem LanesAside.retrain (hb : LanesAside f b) (k : Link) : LanesAside f (b.retrain k) :=
  (hb.forEach fun l _ hx => hx.trainRx l).forEach fun l _ hx => hx.trainTx l

theorem LanesAside.dropped (hb : LanesAside f b) (k : Link) (l cause : Nat) : LanesAside f (b.dropped k l cause) := by
  have htold : LanesAside f ((b.bump (0x59000C + 256 * l) 1).raise 0x71 [.id 6 l, .id 8 cause]) :=
    hb.keeps (Block.raise_keeps (Block.bump_keeps (.refl [.regs, .ev] b) rfl) rfl) rfl
  have hlost (d : Nat) := (htold.transient (siteId 2 l)).keeps (Block.domLost_keeps (d := d) (.refl [.time, .regs, .ev] _) rfl) rfl
  exact .ite (hlost _) (.ite (hlost _) (htold.transient _))

theorem LanesAside.dropLink (hb : LanesAside f b) (l cause : Nat) : LanesAside f (b.dropLink l cause) := by
  unfold Block.dropLink
  split
  · exact hb
  · exact LanesAside.dropped (.ite (hb.trainRx l) (hb.retrain _)) _ l cause

theorem LanesAside.parkLane (hb : LanesAside f b) (l : Nat) : LanesAside f (b.parkLane l) :=
  .ite hb (.ite hb (.ite ((hb.onLane l _).raise _ _) (.ite ((hb.onLane l _).raise _ _) (hb.onLane l _))))

theorem LanesAside.prbsApply (hb : LanesAside f b) (l v : Nat) : LanesAside f (b.prbsApply l v) := by
  unfold Block.prbsApply
  extract_lets left trained mode
  have hleft : LanesAside f left := .ite (hb.dropLink l 1) hb
  have hmode : LanesAside f mode := ((hleft.trainRx l).trainTx l).onLane l _
  have hchecks : LanesAside f ((mode.setReg (prbsKey l 2) 0).setReg (prbsKey l 3) 0) := hmode.same rfl
  refine .ite hb (LanesAside.raise (.ite (LanesAside.parkLane ?_ l) (.ite hchecks hmode)) _ _)
  exact hmode.same rfl

/-! ### Payloads (R307 to R310) -/

/-- Of the entries of one byte, LANE_CONFIG and PRBS_MODE change lanes as they are taken. -/
theorem LanesAside.takeWrite (hb : LanesAside f b) (h : Hdr) (key v : Nat) : LanesAside f (b.takeWrite h key v) := by
  have hset : LanesAside f (b.setReg key v) := hb.same rfl
  have hcvu := hb.keeps (Block.cvuSetValue_keeps (h := h) (u := key / 256 - 0x6400) (v := v) (.refl [.cvus, .dict, .ev, .regs] b) rfl) rfl
  have henv := hset.keeps (Block.envConfigSet_keeps (e := key / 256 - 0x7000) (old := b.reg key) (new := v) (.refl [.env] _) rfl) rfl
  refine .ite (hb.same rfl) (.ite (.ite (hset.onLane _ _) hset) (.ite (hset.same rfl) (.ite (hset.same rfl) (.ite (hb.same rfl) ?_))))
  refine .ite (hb.same rfl) (.ite (hb.same rfl) (.ite (hb.same rfl) (.ite (hb.same rfl) (.ite hcvu ?_))))
  exact .ite (hset.prbsApply _ _) (.ite henv hset)

theorem LanesAside.actFast (hb : LanesAside f b) (path idx sub v : Nat) : LanesAside f (b.actFast path idx sub v) := by
  have hcount : LanesAside f (b.bump 0x10140A 1) := hb.same (Block.bump_frm ..)
  have hrefused : LanesAside f (b.commandInvalid 7) := hb.keeps (Block.commandInvalid_keeps (.refl [.regs, .ev] b) rfl) rfl
  have hwrite (key : Nat) : LanesAside f (b.fastWrite key v) := .ite (.ite hcount (hb.takeWrite _ _ _)) hrefused
  exact .ite (.ite (hwrite _) (.ite (hb.same rfl) hb)) (.ite (hwrite _) hb)

theorem LanesAside.swapCommand (hb : LanesAside f b) (n : Nat) : LanesAside f (b.swapCommand n) := by
  have harm : LanesAside f (b.armSwap n).2 := by
    unfold Block.armSwap
    dsimp only
    split
    · split
      · exact hb.same (Block.bump_frm ..)
      · exact hb.raise _ _
    · split
      · exact LanesAside.wakeLinks (hb.same rfl)
      · exact hb.raise _ _
  exact .ite (harm.same rfl) harm

theorem LanesAside.actCommand (hb : LanesAside f b) (p : Ref48) (h : Nat) : LanesAside f (b.actCommand p h) := by
  unfold Block.actCommand
  dsimp only
  split
  · exact hb
  · exact hb.keeps (Block.actAccept_keeps (.refl [.acc, .stk, .queues, .mrg, .regs, .ev] b) rfl) rfl
  · exact hb.keeps (Block.actResync_keeps (.refl [.time, .acc, .regs, .ev] b) rfl) rfl
  · exact hb.keeps (Block.actCalFire_keeps (.refl [.time, .acc, .regs, .ev] b) rfl) rfl
  · exact hb.keeps (Block.actMeasure_keeps (.refl [.iu, .acc, .regs, .ev] b) rfl) rfl
  · exact hb.swapCommand _
  · exact hb.keeps (Block.actClaim_keeps (.refl [.twin, .regs, .ev] b) rfl) rfl
  · exact hb.actFast _ _ _ _
  · exact hb.keeps (Block.commandInvalid_keeps (.refl [.regs, .ev] b) rfl) rfl

end

/-! ### The action on a header crossing (R312, R314 to R316) -/

/-- c_A and c_B for a header crossing, and the block that has counted them. -/
def Block.sideClaims (b : Block) (h : Nat) : Nat × Nat × Block :=
  let a := b.sideClaim h 0
  let c := if b.twoSides then a.2.sideClaim h 1 else (0, a.2)
  (a.1, c.1, c.2)

/-- Frames that have entered a header crossing with its claims. -/
def Frames.entered (f : Frames) (h cA cB : Nat) : Frames := { f with acted := some h, claimA := cA, claimB := cB }

/-- Frames that have decided between the sides. -/
def Frames.decided (f : Frames) (side : Option (Fin 2)) (cA cB : Nat) : Frames :=
  match side with
  | some s => { f with side := some s, nowSide := some s, nowClaim := if s = 0 then cA else cB }
  | none => { f with nowSide := none, nowClaim := 0 }

/-- The claims of a header crossing are entered, and a side that it has lost is counted. -/
def Block.claimsEntered (b : Block) (h : Nat) : Block :=
  let r := b.sideClaims h
  let b := r.2.2.onFrm fun f => f.entered h r.1 r.2.1
  b.sideLost h (if b.frm.side = some 1 then r.1 else r.2.1)

/-- The side of the claims is obeyed, or none. -/
def Block.takeSide (b : Block) (h cA cB : Nat) : Block :=
  match sideObeyed cA cB b.frm.side with
  | some s => b.obey s cA cB h
  | none => b.noSide h

/-- The frames of the downlinks before a header crossing are forgotten. -/
def Block.forgetBefore (b : Block) (h : Nat) : Block :=
  forEach [0, 4] b fun l b => b.onLane l fun q => { q with store := q.store.filter fun p => decide (h ≤ p.1) }

section

variable {f : Frames} {b : Block} {h : Nat}

theorem Block.actOn_eq (b : Block) (h : Nat) : b.actOn h =
    ((b.lastRegion.claimsEntered h).takeSide h (b.lastRegion.sideClaims h).1 (b.lastRegion.sideClaims h).2.1).forgetBefore h := rfl

theorem Block.sideClaims_keeps (b : Block) (h : Nat) : Keeps [.regs] b (b.sideClaims h).2.2 := by
  have hfirst : Keeps [.regs] b (b.sideClaim h 0).2 := Block.sideClaim_keeps (.refl _ b) rfl
  unfold Block.sideClaims
  dsimp only
  split
  · exact Block.sideClaim_keeps hfirst rfl
  · exact hfirst

theorem LanesAside.claimsEntered (hb : LanesAside f b) (h : Nat) :
    LanesAside (f.entered h (b.sideClaims h).1 (b.sideClaims h).2.1) (b.claimsEntered h) := by
  have hclaims := hb.keeps (b.sideClaims_keeps h) rfl
  have hentered := hclaims.onFrm (g := fun f => f.entered h (b.sideClaims h).1 (b.sideClaims h).2.1) fun _ _ => rfl
  exact hentered.keeps (Block.sideLost_keeps (.refl [.regs, .ev] _) rfl) rfl

theorem LanesAside.obey (hb : LanesAside f b) (s : Fin 2) (cA cB h : Nat) : LanesAside (f.decided (some s) cA cB) (b.obey s cA cB h) := by
  have hside := hb.onFrm (g := fun f => f.decided (some s) cA cB) fun _ _ => rfl
  unfold Block.obey
  extract_lets was taken changed followed l r
  have hchanged : LanesAside (f.decided (some s) cA cB) changed :=
    .ite (hside.keeps (Block.sideChanged_keeps (.refl [.regs, .ev] _) rfl) rfl) hside
  have hfollowed : LanesAside (f.decided (some s) cA cB) followed := hchanged.keeps (Block.followSide_keeps (.refl [.time] _) rfl) rfl
  have hr : LanesAside (f.decided (some s) cA cB) r.2 := hfollowed.keeps (Block.resolve_keeps (.refl [.regs, .ev] _) rfl) rfl
  split
  · exact .when hr (hr.actCommand _ _)
  · exact hr

theorem LanesAside.noSide (hb : LanesAside f b) (cA cB h : Nat) : LanesAside (f.decided none cA cB) (b.noSide h) := by
  have hside := hb.onFrm (g := fun f => f.decided none cA cB) fun _ _ => rfl
  exact hside.keeps (Block.raiseOnce_keeps (Block.bump_keeps (.refl [.regs, .ev] _) rfl) rfl) rfl

theorem LanesAside.takeSide (hb : LanesAside f b) (h cA cB : Nat) :
    LanesAside (f.decided (sideObeyed cA cB f.side) cA cB) (b.takeSide h cA cB) := by
  obtain ⟨l, hl⟩ := hb.rest
  unfold Block.takeSide
  rw [show b.frm.side = f.side by rw [hl]]
  split
  · next s hs => rw [hs]; exact hb.obey s cA cB h
  · next hs => rw [hs]; exact hb.noSide cA cB h

/-- An action on a header crossing enters it with its claims and decides between the sides, and leaves all but the lanes beside. -/
theorem Block.actOn_decides (b : Block) (h : Nat) {cA cB : Nat} (hA : (b.lastRegion.sideClaims h).1 = cA)
    (hB : (b.lastRegion.sideClaims h).2.1 = cB) :
    LanesAside ((b.frm.entered h cA cB).decided (sideObeyed cA cB b.frm.side) cA cB) (b.actOn h) := by
  subst hA hB
  rw [Block.actOn_eq]
  exact (((LanesAside.refl b).lastRegion.claimsEntered h).takeSide h _ _).forEach fun l _ hx => hx.onLane l _

/-- Frames that have been acted on for header crossing h, with its claims, the side o that they decide for, and the side obeyed before. -/
structure Acted (h cA cB : Nat) (o last : Option (Fin 2)) (f : Frames) : Prop where
  acted    : f.acted = some h
  claimA   : f.claimA = cA
  claimB   : f.claimB = cB
  nowSide  : f.nowSide = o
  nowClaim : f.nowClaim = (o.map fun s => if s = 0 then cA else cB).getD 0
  side     : f.side = o.or last

theorem Block.actOn_acted (b : Block) (h : Nat) {cA cB : Nat} (hA : (b.lastRegion.sideClaims h).1 = cA)
    (hB : (b.lastRegion.sideClaims h).2.1 = cB) : Acted h cA cB (sideObeyed cA cB b.frm.side) b.frm.side (b.actOn h).frm := by
  obtain ⟨l, hl⟩ := (b.actOn_decides h hA hB).rest
  rw [hl]
  cases sideObeyed cA cB b.frm.side with
  | some s => exact ⟨rfl, rfl, rfl, rfl, rfl, rfl⟩
  | none => exact ⟨rfl, rfl, rfl, rfl, rfl, rfl⟩

/-! ### The side that is obeyed (R315) -/

theorem sideObeyed_A {cA cB : Nat} (h : cB < cA) (last : Option (Fin 2)) : sideObeyed cA cB last = some 0 := if_pos h

theorem sideObeyed_B {cA cB : Nat} (h : cA < cB) (last : Option (Fin 2)) : sideObeyed cA cB last = some 1 := by
  rw [sideObeyed, if_neg (by omega), if_pos h]

theorem sideObeyed_last {c : Nat} (h : c ≠ 0) (last : Option (Fin 2)) : sideObeyed c c last = some (last.getD 0) := by
  rw [sideObeyed, if_neg (by omega), if_neg (by omega), if_neg h]

theorem sideObeyed_none (last : Option (Fin 2)) : sideObeyed 0 0 last = none := rfl

/-! ### Frames of a header crossing (R312, R314) -/

theorem Block.actDue_some {x : Nat} (hdue : b.actDue = some x) : x = b.time.now - 2 - b.frm.fr := by
  unfold Block.actDue at hdue
  dsimp only at hdue
  split at hdue
  · exact (Option.some.inj hdue).symm
  · cases hdue

theorem Block.lastRegion_first (hfirst : b.frm.acted = none) : b.lastRegion = b := by rw [Block.lastRegion, hfirst]

theorem Block.sideFrame_none {s : Nat} (hstore : (b.lane (4 * s)).store = []) : b.sideFrame h s = none := by simp [Block.sideFrame, hstore]

theorem Block.sideFrame_one {s : Nat} {x : CFrame} {p : Ref48} (hstore : (b.lane (4 * s)).store = [(h, x)])
    (hcopy : copyOf (b.peerLane (4 * s)) x = some p) : b.sideFrame h s = some x := by simp [Block.sideFrame, hstore, hcopy]

theorem Block.sideClaim_none {s : Nat} (hframe : b.sideFrame h s = none) : b.sideClaim h s = (0, b) := by rw [Block.sideClaim, hframe]

theorem Block.sideClaim_some {s : Nat} {x : CFrame} (hframe : b.sideFrame h s = some x) (hclaim : frClaim x ≠ 255) :
    b.sideClaim h s = (frClaim x, b) := by
  rw [Block.sideClaim, hframe]
  exact if_neg hclaim

theorem Block.sideClaims_A {cA : Nat} (hA : b.sideClaim h 0 = (cA, b)) (hB : (b.lane 4).store = []) : b.sideClaims h = (cA, 0, b) := by
  have hnone : b.sideClaim h 1 = (0, b) := Block.sideClaim_none (Block.sideFrame_none hB)
  unfold Block.sideClaims
  rw [hA]
  dsimp only
  rw [hnone, ite_self]

/-- With no frame on either side the loss of the side obeyed last is counted (R312). -/
theorem Block.sideLost_silent (hA : (b.lane 0).store = []) (hB : (b.lane 4).store = []) :
    b.sideLost h 0 = b.unresolved (4 * (b.frm.side.getD 0).val) := by
  have hstore (s : Fin 2) : (b.lane (4 * s.val)).store = [] := by fin_cases s <;> assumption
  unfold Block.sideLost
  dsimp only
  rw [Block.sideFrame_none (hstore _), if_neg (by decide), if_neg (by decide)]

theorem Block.onFrm_lane {g : Frames → Frames} (hg : (g b.frm).lanes = b.frm.lanes) (l : Nat) : (b.onFrm g).lane l = b.lane l := by
  unfold Block.lane
  rw [Block.onFrm_frm, hg]

theorem Block.noSide_latched : (b.noSide h).latched 0xB9 = true := Block.latched_raiseOnce_self _ (by decide) _ _

theorem Block.noSide_counts : (b.noSide h).reg 0x5B0006 = b.reg 0x5B0006 + 1 := by
  rw [Block.noSide, Block.reg_raiseOnce_low _ _ _ _ (by decide), Block.reg_bump_same, Block.onFrm_reg]

theorem Block.noSide_reg_ne {k : Nat} (hlow : k < 0x780000) (hk : k ≠ 0x5B0006) : (b.noSide h).reg k = b.reg k := by
  rw [Block.noSide, Block.reg_raiseOnce_low _ _ _ _ hlow, Block.reg_bump_ne _ _ hk, Block.onFrm_reg]

theorem Block.unresolved_counts (l : Nat) : (b.unresolved l).reg 0x5B0008 = b.reg 0x5B0008 + 1 := by
  rw [Block.unresolved, Block.reg_raiseOnce_low _ _ _ _ (by decide), Block.reg_bump_same]

theorem Block.unresolved_reg_ne (l : Nat) {k : Nat} (hlow : k < 0x780000) (hk : k ≠ 0x5B0008) : (b.unresolved l).reg k = b.reg k := by
  rw [Block.unresolved, Block.reg_raiseOnce_low _ _ _ _ hlow, Block.reg_bump_ne _ _ hk]

theorem Block.forgetBefore_reg (b : Block) (h k : Nat) : (b.forgetBefore h).reg k = b.reg k := rfl

theorem Block.forgetBefore_latched (b : Block) (h n : Nat) : (b.forgetBefore h).latched n = b.latched n := rfl

/-- No frame of either side: the payload is unresolved, and no side is obeyed. -/
theorem Block.actOn_silent (hfirst : b.frm.acted = none) (hA : (b.lane 0).store = []) (hB : (b.lane 4).store = []) :
    b.actOn h = (((b.onFrm fun f => f.entered h 0 0).unresolved (4 * (b.frm.side.getD 0).val)).noSide h).forgetBefore h := by
  have hclaims : b.sideClaims h = (0, 0, b) := Block.sideClaims_A (Block.sideClaim_none (Block.sideFrame_none hA)) hB
  have hentered : b.claimsEntered h = (b.onFrm fun f => f.entered h 0 0).unresolved (4 * (b.frm.side.getD 0).val) := by
    unfold Block.claimsEntered
    rw [hclaims]
    dsimp only
    rw [ite_self, Block.sideLost_silent]
    · rfl
    · rw [Block.onFrm_lane rfl, hA]
    · rw [Block.onFrm_lane rfl, hB]
  rw [Block.actOn_eq, Block.lastRegion_first hfirst, hclaims, hentered]
  rfl

theorem Block.actOn_silent_tells (hfirst : b.frm.acted = none) (hA : (b.lane 0).store = []) (hB : (b.lane 4).store = []) :
    (b.actOn h).latched 0xB9 = true ∧ (b.actOn h).reg 0x5B0006 = b.reg 0x5B0006 + 1 ∧
    (b.actOn h).reg 0x5B0008 = b.reg 0x5B0008 + 1 := by
  rw [Block.actOn_silent hfirst hA hB]
  rw [Block.forgetBefore_latched, Block.forgetBefore_reg, Block.forgetBefore_reg]
  refine ⟨Block.noSide_latched, ?_, ?_⟩
  · rw [Block.noSide_counts, Block.unresolved_reg_ne _ (by decide) (by decide), Block.onFrm_reg]
  · rw [Block.noSide_reg_ne (by decide) (by decide), Block.unresolved_counts, Block.onFrm_reg]

end

/-! ### The obligation -/

theorem exec_frameAct_idle {s : State} (hnone : s.blk.actDue = none) : exec .frameAct s = .next s := by
  show execFrameAct s = _
  simp only [execFrameAct, State.run, hnone]

theorem exec_frameAct {h : Nat} {s : State} (hdue : s.blk.actDue = some h) :
    exec .frameAct s = .next { s with blk := s.blk.when (s.blk.running && s.blk.time.everLocked) fun b => b.actOn h } := by
  show execFrameAct s = _
  simp only [execFrameAct, State.run, hdue]

/-- Settles O42: the claims decide the side, whatever the action does to the lanes; no frames and side A's alone are two cases of claims. -/
theorem framesAreActedOn : Obligations.FramesAreActedOn := by
  unfold Obligations.FramesAreActedOn
  intro h s hrun hlock
  have hdoes {P : Block → Prop} (hdue : s.blk.actDue = some h) (hP : P (s.blk.actOn h)) : Does .frameAct s P :=
    does_of_when (exec_frameAct hdue) (by rw [hrun, hlock]; rfl) hP
  refine ⟨exec_frameAct_idle, fun hdue => hdoes hdue ?_, fun hdue hfirst hA hB => hdoes hdue ?_,
    fun x p hdue hfirst hA hB hcopy _ hleast hmost => hdoes hdue ?_⟩
  · have hact := s.blk.actOn_acted h rfl rfl
    rw [hact.claimA, hact.claimB, hact.nowClaim, hact.nowSide, hact.side]
    generalize (s.blk.lastRegion.sideClaims h).1 = cA
    generalize (s.blk.lastRegion.sideClaims h).2.1 = cB
    refine ⟨hact.acted, Block.actDue_some hdue, fun hless => ?_, fun hless => ?_, fun heq hclaim => ?_, fun hA hB => ?_⟩
    · rw [sideObeyed_A hless]
      exact ⟨rfl, rfl⟩
    · rw [sideObeyed_B hless]
      exact ⟨rfl, rfl⟩
    · rw [← heq, sideObeyed_last hclaim]
    · rw [hA, hB, sideObeyed_none]
      exact ⟨rfl, rfl⟩
  · have hclaims : s.blk.lastRegion.sideClaims h = (0, 0, s.blk) := by
      rw [Block.lastRegion_first hfirst]
      exact Block.sideClaims_A (Block.sideClaim_none (Block.sideFrame_none hA)) hB
    have hact := s.blk.actOn_acted h (congrArg Prod.fst hclaims) (congrArg (fun r => r.2.1) hclaims)
    exact ⟨hact.acted, hact.nowSide, hact.nowClaim, hact.side, Block.actOn_silent_tells hfirst hA hB⟩
  · have hclaims : s.blk.lastRegion.sideClaims h = (frClaim x, 0, s.blk) := by
      rw [Block.lastRegion_first hfirst]
      exact Block.sideClaims_A (Block.sideClaim_some (Block.sideFrame_one hA hcopy) (by omega)) hB
    have hact := s.blk.actOn_acted h (congrArg Prod.fst hclaims) (congrArg (fun r => r.2.1) hclaims)
    rw [sideObeyed_A (show 0 < frClaim x by omega)] at hact
    exact ⟨hact.acted, hact.nowSide, hact.side, hact.nowClaim, hact.claimA, hact.claimB⟩

end Sys2Proof.Machine
end

section
/-! PROOFS. The machine as a whole: the frame and the invariant of every step, and the runs of a queue. -/

namespace Sys2Proof.Machine

/-! ### The fuse counts (R466, R476) -/

/-- The counts of burned fuses stand within their rows of fuses. -/
structure FusesFit (b : Block) : Prop where
  floor  : b.fuses.floor ≤ 256
  epochs : b.fuses.epochs ≤ 1024

/-- Every part of the block but the fuses. -/
def besideFuses : List Part :=
  [.flash, .role, .boot, .sets, .now, .time, .chans, .chMask, .chSince, .leads, .plate, .bin, .iu, .adc, .acc, .stk, .queues, .mrg, .frm,
   .cvus, .twin, .flt, .regs, .dict, .ev, .sec, .env, .jtag, .free]

section

variable {b x : Block} {f : Block → Block}

theorem FusesFit.same (hb : FusesFit b) (h : x.fuses = b.fuses) : FusesFit x := ⟨h ▸ hb.floor, h ▸ hb.epochs⟩

theorem FusesFit.keeps (hb : FusesFit b) (h : Keeps besideFuses b x) : FusesFit x := hb.same (h.fuses_eq rfl)

theorem FusesFit.ite {c : Prop} [Decidable c] {y : Block} (hx : FusesFit x) (hy : FusesFit y) : FusesFit (if c then x else y) := by
  split <;> assumption

theorem FusesFit.when {c : Bool} (hb : FusesFit b) (hf : FusesFit (f b)) : FusesFit (b.when c f) := .ite hf hb

theorem FusesFit.forEach {α : Type} {l : List α} {g : α → Block → Block} (hb : FusesFit b) (hg : ∀ i y, FusesFit y → FusesFit (g i y)) :
    FusesFit (forEach l b g) :=
  List.foldlRecOn (motive := FusesFit) l _ hb fun y hy i _ => hg i y hy

/-! ### Burning (R466, R468, R469, R476) -/

theorem Block.burn_fuses (b : Block) (fld fuse : Nat) (reads : List Bool) : (b.burn fld fuse reads).2.2.fuses = b.fuses :=
  (Block.burn_keeps (.refl [.regs, .ev] b) rfl).fuses_eq rfl

/-- Burning n fuses of the floor raises it by n at most, and moves no other count. -/
theorem Block.burnFloor_counts (n : Nat) (reads : List Bool) (b : Block) :
    (Block.burnFloor n reads b).2.fuses.floor ≤ b.fuses.floor + n ∧ (Block.burnFloor n reads b).2.fuses.epochs = b.fuses.epochs := by
  induction n generalizing reads b with
  | zero => exact ⟨Nat.le_refl _, rfl⟩
  | succ n ih =>
    have hburn := b.burn_fuses 1 b.fuses.floor reads
    simp only [Block.burnFloor]
    split
    · obtain ⟨hfloor, hepochs⟩ := ih (b.burn 1 b.fuses.floor reads).2.1
        ((b.burn 1 b.fuses.floor reads).2.2.onFuses fun f => { f with floor := f.floor + 1 })
      simp only [Block.onFuses_fuses, hburn] at hfloor hepochs
      exact ⟨by omega, hepochs⟩
    · rw [hburn]
      exact ⟨by omega, rfl⟩

theorem FusesFit.commitRollback (hb : FusesFit b) (h : Hdr) (key : Nat) (burns : List Bool) : FusesFit (b.commitRollback h key burns) := by
  have refuses (n : Nat) : FusesFit (b.refuseKey h 0x7C1002 n) := hb.keeps (Block.refuseKey_keeps (.refl _ _) rfl)
  have hraised : FusesFit (Block.burnFloor (min b.activeVersion 256 - b.fuses.floor) burns b).2 := by
    obtain ⟨hfloor, hepochs⟩ := Block.burnFloor_counts (min b.activeVersion 256 - b.fuses.floor) burns b
    have hbase := hb.floor
    exact ⟨by omega, hepochs ▸ hb.epochs⟩
  unfold Block.commitRollback
  dsimp only
  exact .ite (refuses _) (.ite (refuses _) (.ite (hraised.keeps (Block.ack_keeps (Block.raise_keeps (.refl _ _) rfl) rfl))
    (hraised.keeps (Block.refuseKey_keeps (.refl _ _) rfl))))

theorem FusesFit.burnKey (hb : FusesFit b) (i : Nat) (hash : List Byte) : FusesFit (b.burnKey i hash) := ⟨hb.floor, hb.epochs⟩

theorem FusesFit.revokeKey (hb : FusesFit b) (i : Nat) : FusesFit (b.revokeKey i) := ⟨hb.floor, hb.epochs⟩

theorem FusesFit.keyChange {g : Block → Block} (hb : FusesFit b) (h : Hdr) (key action slot fld : Nat) (burns : List Bool)
    (hf : ∀ y, FusesFit y → FusesFit (f y)) (hg : ∀ y, FusesFit y → FusesFit (g y)) :
    FusesFit (b.keyChange h key action slot fld burns f g) := by
  have hburn : FusesFit (b.burn fld slot burns).2.2 := hb.same (Block.burn_fuses ..)
  unfold Block.keyChange
  dsimp only
  exact .ite (hb.keeps (Block.refuseKey_keeps (.refl _ _) rfl))
    (.ite (hg _ ((hf _ hburn).keeps (Block.raise_keeps (.refl _ _) rfl))) (hburn.keeps (Block.refuseKey_keeps (.refl _ _) rfl)))

theorem FusesFit.firstKey (hb : FusesFit b) (h : Hdr) (hash : List Byte) (burns : List Bool) : FusesFit (b.firstKey h hash burns) :=
  .ite (hb.keeps (Block.refuseKey_keeps (.refl _ _) rfl))
    (hb.keyChange h _ _ _ _ burns (fun _ hy => hy.burnKey 2 hash) fun _ hy => hy.keeps (Block.ack_keeps (.refl _ _) rfl))

theorem FusesFit.ownerUpdate (hb : FusesFit b) (h : Hdr) (image : List Byte) (v : Verdict) (burns : List Bool) :
    FusesFit (b.ownerUpdate h image v burns) := by
  have hverified : FusesFit (b.verifyImage typeUpdate image v).2 := hb.keeps (Block.verifyImage_keeps (.refl _ _) rfl)
  unfold Block.ownerUpdate
  dsimp only
  refine .ite (hverified.keeps (Block.refuseKey_keeps (.refl _ _) rfl)) (hverified.keyChange h _ _ _ _ burns (fun y hy => ?_) fun y hy => ?_)
  · exact .ite (hy.burnKey _ _) (.ite (hy.revokeKey _) (hy.revokeKey _))
  · exact hy.keeps (Block.landed_keeps (.refl _ _) rfl)

/-- A new epoch takes one fuse, while one is left. -/
theorem FusesFit.attestReady (hb : FusesFit b) (burns : List Bool) : FusesFit (b.attestReady burns) := by
  have hnew : FusesFit (b.attestNew burns) := by
    unfold Block.attestNew
    split
    · exact hb.keeps (Block.attestRefused_keeps (Block.raise_keeps (.refl _ _) rfl) rfl)
    · next hleft =>
      have hburn := b.burn_fuses 2 b.fuses.epochs burns
      have hopened : FusesFit ((b.burn 2 b.fuses.epochs burns).2.2.onFuses fun f => { f with epochs := b.fuses.epochs + 1 }) :=
        ⟨by rw [Block.onFuses_fuses, hburn]; exact hb.floor, by rw [Block.onFuses_fuses]; show b.fuses.epochs + 1 ≤ 1024; omega⟩
      dsimp only
      refine .ite (hb.keeps (Block.attestRefused_keeps (.refl _ _) rfl)) (.ite ((hb.same hburn).keeps (Block.attestRefused_keeps (.refl _ _) rfl)) ?_)
      refine hopened.keeps (Block.attestSign_keeps (Block.onSec_keeps (.ite ?_ ?_) rfl) rfl)
      · exact Block.raise_keeps (Block.raise_keeps (.refl _ _) rfl) rfl
      · exact Block.raise_keeps (.refl _ _) rfl
  unfold Block.attestReady
  refine .ite (hb.keeps (Block.attestRefused_keeps (.refl _ _) rfl)) ?_
  split
  · exact .ite (hb.keeps (Block.attestSign_keeps (.refl _ _) rfl)) hnew
  · exact hnew

/-! ### Requests (R401, R402, R416, R420) -/

theorem FusesFit.receive (hb : FusesFit b) (h : Hdr) (hf : ∀ y, FusesFit y → FusesFit (f y)) : FusesFit (b.receive h f) :=
  .ite (hf _ (hb.keeps (Block.taken_keeps (.refl _ _) rfl))) (.ite (hb.keeps (Block.bump_keeps (.refl _ _) rfl)) hb)

theorem FusesFit.writeTo (hb : FusesFit b) (h : Hdr) (key len : Nat) (hf : ∀ y, FusesFit y → FusesFit (f y)) :
    FusesFit (b.writeTo h key len f) := by
  refine .ite (hb.receive h fun y hy => ?_) hb
  have refuses (n : Nat) : FusesFit (y.refuseKey h key n) := hy.keeps (Block.refuseKey_keeps (.refl _ _) rfl)
  split
  · exact refuses _
  · exact .ite (refuses _) (.ite (refuses _) (hf y hy))

theorem FusesFit.route (hb : FusesFit b) (h : Hdr) (op idx sub arg : Nat) (body : List Byte) (hf : ∀ y, FusesFit y → FusesFit (f y)) :
    FusesFit (b.route h op idx sub arg body f) :=
  hb.receive h fun y hy => .ite (hf y hy)
    (.ite (hy.keeps (Block.proxyRequest_keeps (.refl _ _) rfl)) (hy.keeps (Block.abort_keeps (.refl _ _) rfl)))

/-- Of the write-only entries the floor, the first key and the update of keys alone burn fuses. -/
theorem FusesFit.woWrite (hb : FusesFit b) (h : Hdr) (key : Nat) (l : List Byte) : FusesFit (b.woWrite h key l) := by
  have hack : Keeps besideFuses b (b.ack h key) := Block.ack_keeps (.refl _ _) rfl
  unfold Block.woWrite
  dsimp only
  refine .ite (hb.keeps (Block.subsystemWrite_keeps (.refl _ _) rfl)) (.ite (hb.keeps (.ite (Block.cvuControl_keeps (.refl _ _) rfl)
    (Block.cvuData_keeps (.refl _ _) rfl fun _ hy => Block.ack_keeps hy rfl))) ?_)
  split
  · exact hb.keeps (Block.keepWrite_keeps (.refl _ _) rfl)
  · exact hb.keeps (Block.forgetWrite_keeps (.refl _ _) rfl)
  · exact hb.keeps (Block.restartWrite_keeps (.refl _ _) rfl)
  · exact hb.keeps (Block.restartWrite_keeps (.refl _ _) rfl)
  · exact hb.keeps (Block.folioWrite_keeps (.refl _ _) rfl)
  · exact hb.keeps (Block.ack_keeps (Block.setReg_keeps (.refl _ _) rfl) rfl)
  · exact hb.keeps (Block.ack_keeps (Block.setReg_keeps (.refl _ _) rfl) rfl)
  · exact hb.keeps (.ite (Block.refuseKey_keeps (.refl _ _) rfl) (Block.stage_keeps (.refl _ _) rfl))
  · exact hb.keeps (Block.switchWrite_keeps (.refl _ _) rfl)
  · exact hb.keeps (Block.flagWrite_keeps (.refl _ _) rfl fun _ hy => Block.binRestart_keeps hy rfl)
  · exact hb.keeps (Block.flagWrite_keeps (.refl _ _) rfl fun _ hy => Block.campaignAbort_keeps hy rfl)
  · exact hb.keeps (Block.restoreWrite_keeps (.refl _ _) rfl)
  · exact hb.keeps (Block.retireWrite_keeps (.refl _ _) rfl)
  · exact hb.keeps (Block.clearLog_keeps (.refl _ _) rfl)
  · exact hb.keeps (Block.flagWrite_keeps (.refl _ _) rfl fun _ hy => Block.onEv_keeps hy rfl)
  · exact hb.commitRollback ..
  · exact hb.ownerUpdate ..
  · exact hb.firstKey ..
  · exact hb.keeps (Block.keepToken_keeps (.refl _ _) rfl)
  · exact hb.keeps (Block.attestRequest_keeps (.refl _ _) rfl)
  · exact hb.keeps hack

theorem FusesFit.entryWrite (hb : FusesFit b) (h : Hdr) (d : Desc) (key : Nat) (l : List Byte) : FusesFit (b.entryWrite h d key l) := by
  unfold Block.entryWrite
  split
  · exact hb.keeps (Block.rsWrite_keeps (.refl _ _) rfl)
  · exact hb.keeps (Block.rwWrite_keeps (.refl _ _) rfl)
  · exact hb.woWrite ..

theorem FusesFit.writeEntry (hb : FusesFit b) (h : Hdr) (key : Nat) (l : List Byte) : FusesFit (b.writeEntry h key l) := by
  refine hb.writeTo h key _ fun y hy => ?_
  split
  · exact hy.entryWrite ..
  · exact hy

theorem FusesFit.pairWrite (hb : FusesFit b) (h : Hdr) (idx sub : Nat) (body : List Byte) : FusesFit (b.pairWrite h idx sub body) := by
  have aborts (n : Nat) : FusesFit (b.abort h idx sub n) := hb.keeps (Block.abort_keeps (.refl _ _) rfl)
  unfold Block.pairWrite
  dsimp only
  refine .ite (aborts _) (.ite (hb.writeEntry ..) (.ite (hb.keeps (Block.abort_keeps (Block.raise_keeps (.refl _ _) rfl) rfl))
    (.ite (aborts _) (hb.keeps (Block.ack_keeps ?_ rfl)))))
  exact Block.onDict_keeps (.refl _ _) rfl

theorem FusesFit.writeMsg (hb : FusesFit b) (h : Hdr) (idx sub : Nat) (body : List Byte) : FusesFit (b.writeMsg h idx sub body) :=
  .ite (hb.writeEntry ..) (hb.route h _ _ _ _ _ fun _ hy => hy.pairWrite ..)

theorem FusesFit.landDownload (hb : FusesFit b) (t : Transfer) : FusesFit (b.landDownload t) := by
  have hdrop : Keeps besideFuses b (b.dropTransfer t) := Block.dropTransfer_keeps (.refl _ _) rfl
  unfold Block.landDownload
  dsimp only
  refine .ite hb (.ite (hb.keeps (Block.stage_keeps hdrop rfl)) (.ite (hb.keeps (Block.keepToken_keeps hdrop rfl))
    (.ite (hb.keeps (Block.cvuData_keeps hdrop rfl fun _ hy => Block.landed_keeps hy rfl)) ?_)))
  split
  · exact (hb.keeps (Block.onDict_keeps hdrop rfl)).entryWrite ..
  · exact hb.keeps hdrop

theorem FusesFit.startDownload (hb : FusesFit b) (h : Hdr) (idx sub n : Nat) : FusesFit (b.startDownload h idx sub n) := by
  have aborts (n : Nat) : FusesFit (b.abort h idx sub n) := hb.keeps (Block.abort_keeps (.refl _ _) rfl)
  unfold Block.startDownload
  split
  · exact aborts _
  · have hopen {g : Dict → Dict} : FusesFit ((b.reply h 0x03 idx sub 0 []).onDict g) :=
      hb.keeps (Block.onDict_keeps (Block.reply_keeps (.refl _ _) rfl) rfl)
    exact .ite (aborts _) (.ite (aborts _) (.ite (hopen.landDownload _) hopen))

theorem FusesFit.takeSegment (hb : FusesFit b) (t : Transfer) (data : List Byte) : FusesFit (b.takeSegment t data) := by
  unfold Block.takeSegment
  refine .ite (hb.keeps (Block.abort_keeps (Block.dropTransfer_keeps (.refl _ _) rfl) rfl)) ?_
  dsimp only
  have hacked {c : Prop} [Decidable c] {u : Transfer} {n : Nat} : FusesFit (if c then
      (b.setTransfer t u).short t.hdr.origin 0x06 t.hdr.tag.toNat n [] else b.setTransfer t u) := by
    have hjoined : Keeps besideFuses b (b.setTransfer t u) := Block.setTransfer_keeps (.refl _ _) rfl
    exact hb.keeps (.ite (Block.short_keeps hjoined rfl) hjoined)
  exact .ite (hacked.landDownload _) hacked

theorem FusesFit.segment (hb : FusesFit b) (o : Origin) (tag : BitVec 8) (seq : Nat) (data : List Byte) :
    FusesFit (b.segment o tag seq data) := by
  refine .ite ?_ (.ite (hb.keeps (Block.bump_keeps (.refl _ _) rfl)) hb)
  split
  · next t _ =>
    have hset (u : Transfer) : Keeps besideFuses b (b.setTransfer t u) := Block.setTransfer_keeps (.refl _ _) rfl
    exact .ite (hb.keeps (Block.short_keeps (.refl _ _) rfl)) (.ite (hb.takeSegment ..)
      (.ite (hb.keeps (Block.short_keeps (hset _) rfl)) (hb.keeps (Block.abort_keeps (Block.dropTransfer_keeps (.refl _ _) rfl) rfl))))
  · split
    · exact hb.keeps (Block.relayShort_keeps (.refl _ _) rfl)
    · exact hb.keeps (Block.abort_keeps (.refl _ _) rfl)

/-! ### Messages in band and pair writes (R401, R413, R420) -/

theorem FusesFit.execMessage (hb : FusesFit b) (o : Origin) (pair : Bool) (m : List Byte) : FusesFit (b.execMessage o pair m) := by
  unfold Block.execMessage
  dsimp only
  split
  · exact hb.keeps (Block.route_keeps (.refl _ _) rfl fun _ hy => Block.readEntry_keeps hy rfl)
  · exact hb.writeMsg ..
  · exact hb.route _ _ _ _ _ _ fun _ hy => hy.startDownload ..
  · exact hb.segment ..
  · exact hb.keeps (Block.segmentAck_keeps (.refl _ _) rfl)
  · exact hb.keeps (Block.abortMsg_keeps (.refl _ _) rfl)
  · exact hb.keeps (Block.route_keeps (.refl _ _) rfl fun _ hy => Block.catalogueEntry_keeps hy rfl)
  · exact hb.keeps (Block.route_keeps (.refl _ _) rfl fun _ hy => Block.loginMsg_keeps hy rfl)
  · exact hb.keeps (Block.route_keeps (.refl _ _) rfl fun _ hy => Block.logoutHere_keeps hy rfl)
  · exact hb
  · exact hb.keeps (Block.route_keeps (.refl _ _) rfl fun _ hy => Block.abort_keeps hy rfl)

theorem FusesFit.inbandMessage (hb : FusesFit b) (env : Word64) (m : List Byte) : FusesFit (b.inbandMessage env m) := by
  refine .ite hb ?_
  split
  · exact hb.execMessage ..
  · exact hb

theorem FusesFit.bulkWordsIn (hb : FusesFit b) (l : List Word64) : FusesFit (b.bulkWordsIn l) := by
  refine hb.forEach fun w y hy => ?_
  have htaken {g : Dict → Dict} : FusesFit (y.onDict g) := hy.keeps (Block.onDict_keeps (.refl _ _) rfl)
  dsimp only
  split
  · exact htaken.inbandMessage ..
  · exact htaken

theorem FusesFit.inputsRead (hb : FusesFit b) : FusesFit b.inputsRead := by
  refine (hb.keeps (Block.qReadAll_keeps (.refl _ _) rfl)).forEach fun r y hy => ?_
  exact .ite (hy.bulkWordsIn _) (hy.keeps (.ite (Block.bulkLost_keeps (.refl _ _) rfl) (.refl _ _)))

theorem FusesFit.actMuted (hb : FusesFit b) (h : Hdr) (key : Nat) (l : List Byte) : FusesFit (b.actMuted h key l) := by
  have hwritten : FusesFit ((b.onDict fun d => { d with mute := true }).writeEntry h key l) :=
    (hb.keeps (Block.onDict_keeps (.refl _ _) rfl)).writeEntry ..
  unfold Block.actMuted
  refine hwritten.keeps (Block.onDict_keeps (Block.keepCapture_keeps (.forEach ?_ fun _ _ hy => Block.takeWrite_keeps hy rfl) rfl) rfl)
  exact Block.onDict_keeps (.refl _ _) rfl

theorem FusesFit.pairApply (hb : FusesFit b) : FusesFit b.pairApply := by
  have happlied {l : List PairWrite} {g : Dict → Dict} :
      FusesFit (Machine.forEach l (b.onDict g) fun p b => b.actMuted p.hdr (p.index * 256 + p.sub) p.body) :=
    (hb.keeps (Block.onDict_keeps (.refl _ _) rfl)).forEach fun _ _ hy => hy.actMuted ..
  exact .ite hb (happlied.keeps (Block.restartsNow_keeps (.refl _ _) rfl))

/-! ### Boundaries (R35 to R38) -/

/-- Of what a crossing begins with, reading the messages in band alone can burn fuses. -/
theorem FusesFit.openRunning (hb : FusesFit b) (i : CrossInput) : FusesFit (b.openRunning i) := by
  unfold Block.openRunning
  dsimp only
  generalize hread : Block.inputsRead _ = y
  have hy : FusesFit y := by
    rw [← hread]
    refine (hb.keeps ?_).inputsRead
    refine Block.streamNow_keeps (Block.release_keeps (Block.clearDirectory_keeps (Block.remask_keeps (Block.lanesDue_keeps ?_ rfl) rfl) rfl) rfl) rfl
    refine Block.reversion_keeps (Block.applySamples_keeps (Block.resyncWhenClear_keeps (Block.resyncWait_keeps (Block.claimNow_keeps ?_ rfl) rfl) rfl) rfl) rfl
    exact Block.joinPorts_keeps (Block.writeRelease_keeps (Block.bootSlices_keeps (Block.takeWaiting_keeps (.refl _ _) rfl) rfl) rfl) rfl
  refine hy.keeps ?_
  refine Block.drainPaths_keeps (Block.judgeAlert_keeps (Block.tellPlans_keeps ?_ rfl) rfl) rfl
  refine Block.scrubStep_keeps (Block.supplyBoundary_keeps (Block.leakageReport_keeps (Block.adapt_keeps ?_ rfl) rfl) rfl) rfl
  refine Block.watchdog_keeps (Block.votersNow_keeps (Block.timetableNow_keeps ?_ rfl) rfl) rfl
  refine Block.commandNow_keeps (Block.primitiveStep_keeps (Block.parkNow_keeps ?_ rfl) rfl) rfl
  refine Block.presentWaiting_keeps (Block.activateLinks_keeps (Block.armPending_keeps (Block.keepFires_keeps ?_ rfl) rfl) rfl) rfl
  exact Block.pulsesNow_keeps (Block.markerEdges_keeps (Block.trimEdges_keeps (.refl _ _) rfl) rfl) rfl

theorem FusesFit.openCrossing (hb : FusesFit b) (i : CrossInput) (wrap : Bool) (last lastLen : Nat) :
    FusesFit (b.openCrossing i wrap last lastLen) := by
  have hopened {y : Block} (hy : Keeps besideFuses b y) :
      FusesFit (((y.clockNow i.fx).measuresNow).writesNow) :=
    hb.keeps (Block.writesNow_keeps (Block.measuresNow_keeps (Block.clockNow_keeps hy rfl) rfl) rfl)
  have hwrites := hopened (.ite (c := wrap = true) (Block.openOrbit_keeps (last := last) (lastLen := lastLen) (whole := true) (.refl _ b) rfl) (.refl _ b))
  unfold Block.openCrossing
  exact .ite (hwrites.openRunning i) (hwrites.keeps (.when (.refl _ _) fun _ hy => Block.judgeAlert_keeps hy rfl))

theorem FusesFit.boundary (hb : FusesFit b) (i : CrossInput) (wrap : Bool) : FusesFit (b.boundary i wrap) := by
  unfold Block.boundary
  exact (hb.keeps (Block.advance_keeps (Block.finishCrossing_keeps (Block.onMrg_keeps (.refl _ _) rfl) rfl) rfl)).openCrossing ..

theorem FusesFit.boundaryCmd (hb : FusesFit b) (i : CrossInput) (wrap : Bool) : FusesFit (b.boundaryCmd i wrap) :=
  .ite (hb.keeps (.when (.refl _ _) fun _ hy => Block.idleBoundary_keeps hy rfl)) (.ite (hb.when (hb.boundary i false)) (hb.boundary ..))

end

/-! ### Every command keeps the invariant -/

section

variable {i : Instr} {s t : State}

theorem fusesFit_of_next {b : Block} (hi : exec i s = .next { s with blk := b }) (hb : FusesFit b) (ht : exec i s = .next t) :
    FusesFit t.blk := by
  obtain rfl : { s with blk := b } = t := Host.Outcome.next.inj (hi.symm.trans ht)
  exact hb

/-- The commands that can burn fuses keep the counts within their rows, and no other command touches a fuse. -/
theorem exec_fusesFit (hs : FusesFit s.blk) (ht : exec i s = .next t) : FusesFit t.blk := by
  have hframe := exec_framed i s t ht
  cases i with
  | attestReportReady burns => exact fusesFit_of_next rfl (hs.when (hs.attestReady burns)) ht
  | rollbackCommit h key burns => exact fusesFit_of_next rfl (hs.writeTo h _ _ fun _ hy => hy.commitRollback ..) ht
  | ownerFirstKey h hash burns => exact fusesFit_of_next rfl (hs.writeTo h _ _ fun _ hy => hy.firstKey ..) ht
  | ownerKeyBurn h image v burns | ownerKeyRevoke h image v burns | vendorKeyRevoke h image v burns =>
    exact fusesFit_of_next rfl (hs.writeTo h _ _ fun _ hy => hy.ownerUpdate ..) ht
  | write h index sub body => exact fusesFit_of_next rfl (hs.writeMsg ..) ht
  | download h index sub length => exact fusesFit_of_next rfl (hs.route _ _ _ _ _ _ fun _ hy => hy.startDownload ..) ht
  | segment o tag seq data => exact fusesFit_of_next rfl (hs.segment ..) ht
  | inbandMessage env message => exact fusesFit_of_next rfl (hs.when (hs.inbandMessage ..)) ht
  | pairWriteApply => exact fusesFit_of_next rfl (hs.when hs.pairApply) ht
  | crossingBoundary n => exact fusesFit_of_next rfl (hs.boundaryCmd n false) ht
  | orbitBoundary n => exact fusesFit_of_next rfl (hs.boundaryCmd n true) ht
  | _ => exact hs.same (hframe.fuses_eq rfl)

theorem jtag_legal_of_next {b : Block} (hi : exec i s = .next { s with blk := b }) (hb : b.jtag.legal = true) (ht : exec i s = .next t) :
    t.blk.jtag.legal = true := by
  obtain rfl : { s with blk := b } = t := Host.Outcome.next.inj (hi.symm.trans ht)
  exact hb

theorem Block.when_jtag_legal {b : Block} {c : Bool} {f : Block → Block} (hb : b.jtag.legal = true) (hf : (f b).jtag.legal = true) :
    (b.when c f).jtag.legal = true := by
  unfold Block.when
  split <;> assumption

/-- A code that R522 does not name selects BYPASS. -/
theorem bypass_legal {j : Jtag} (hir : ¬(1 ≤ j.ir.toNat ∧ j.ir.toNat ≤ 5)) (hselect : j.select = 0) (hmode : j.mode = .normal) :
    j.legal = true := by
  unfold Jtag.legal
  split
  case h_6 => simp [hselect, hmode]
  all_goals omega

/-- Each instruction of the TAP leaves it legal, a power-on reset too, and no other command touches it. -/
theorem exec_jtag_legal (hs : s.blk.jtag.legal = true) (ht : exec i s = .next t) : t.blk.jtag.legal = true := by
  have hframe := exec_framed i s t ht
  cases i with
  | powerOnReset r u => exact jtag_legal_of_next rfl rfl ht
  | idcode | extest | clamp | highz => exact jtag_legal_of_next rfl (Block.when_jtag_legal hs rfl) ht
  | samplePreload load => cases load <;> exact jtag_legal_of_next rfl (Block.when_jtag_legal hs rfl) ht
  | bypass code =>
    refine jtag_legal_of_next (b := s.blk.when (s.blk.tapRuns && !jtagNamed code.toNat) fun b => b.jtagInstr code 0 .normal) rfl ?_ ht
    cases hnamed : jtagNamed code.toNat
    · exact Block.when_jtag_legal hs (bypass_legal (by simpa [jtagNamed, Block.jtagInstr] using hnamed) rfl rfl)
    · rwa [Block.when_false (by simp)]
  | tapReset => exact jtag_legal_of_next rfl rfl ht
  | _ => rw [hframe.jtag_eq rfl]; exact hs

/-- A command leaves the queue as it was. -/
theorem exec_pending (ht : exec i s = .next t) : t.pending = s.pending := by
  cases hfits : wellFormed i
  · obtain ⟨name, hi⟩ := (exec_settles i s).faults hfits
    cases hi.symm.trans ht
  · obtain ⟨b, hi⟩ := (exec_settles i s).completes hfits
    obtain rfl : { s with blk := b } = t := Host.Outcome.next.inj (hi.symm.trans ht)
    rfl

end

/-! ### The obligations -/

/-- Settles O1: the step matches on the queue. -/
theorem stepRunsTheFrontCommand : Obligations.StepRunsTheFrontCommand := by
  unfold Obligations.StepRunsTheFrontCommand
  exact ⟨fun _ _ _ => rfl, fun _ => rfl⟩

/-- Settles O5: no fuse is burned at reset, the TAP selects IDCODE, and nothing waits. -/
theorem invariantHoldsAtReset : Obligations.InvariantHoldsAtReset := by
  unfold Obligations.InvariantHoldsAtReset
  exact ⟨by decide, by decide, rfl, rfl⟩

/-- Settles O3: the frame of the command's operation, and a queue that no command touches. -/
theorem everyCommandKeepsItsFrame : Obligations.EveryCommandKeepsItsFrame := by
  unfold Obligations.EveryCommandKeepsItsFrame
  exact fun i s t ht => ⟨exec_framed i s t ht, exec_pending ht⟩

/-- Settles O6: a step is the front command on the rest of the queue, and each command keeps the fuse counts and the TAP. -/
theorem everyStepKeepsTheInvariant : Obligations.EveryStepKeepsTheInvariant := by
  unfold Obligations.EveryStepKeepsTheInvariant
  rintro ⟨b, queue⟩ t ⟨hfloor, hepochs, hjtag, hqueue⟩ ht
  cases queue with
  | nil =>
    obtain rfl : State.mk b [] = t := Host.Outcome.next.inj ht
    exact ⟨hfloor, hepochs, hjtag, hqueue⟩
  | cons i rest =>
    have hfuses : FusesFit t.blk := exec_fusesFit (s := ⟨b, rest⟩) ⟨hfloor, hepochs⟩ ht
    refine ⟨hfuses.floor, hfuses.epochs, exec_jtag_legal (s := ⟨b, rest⟩) hjtag ht, ?_⟩
    rw [exec_pending ht]
    exact (Bool.and_eq_true_iff.mp hqueue).2

/-- A well-formed command at the front of the queue steps to the rest of the queue. -/
theorem step_wellFormed {b : Block} {i : Instr} {rest : List Instr} (hfits : wellFormed i = true) :
    ∃ b', step ⟨b, i :: rest⟩ = .next ⟨b', rest⟩ := (exec_settles i ⟨b, rest⟩).completes hfits

theorem run_wellFormed (queue : List Instr) (b : Block) (hqueue : queue.all wellFormed = true) :
    ∃ b', core.run queue.length (⟨b, queue⟩ : State) = .next (⟨b', []⟩ : State) := by
  induction queue generalizing b with
  | nil => exact ⟨b, rfl⟩
  | cons i rest ih =>
    obtain ⟨hfits, hrest⟩ := Bool.and_eq_true_iff.mp hqueue
    obtain ⟨b', hstep⟩ := step_wellFormed (b := b) (rest := rest) hfits
    obtain ⟨b'', hrun⟩ := ih b' hrest
    refine ⟨b'', ?_⟩
    simp only [List.length_cons, Host.Core.run, show core.step (⟨b, i :: rest⟩ : State) = .next (⟨b', rest⟩ : State) from hstep]
    exact hrun

/-- Settles O7, by induction on the queue: each step takes one well-formed command off it. -/
theorem wellFormedQueueRunsToItsEnd : Obligations.WellFormedQueueRunsToItsEnd := by
  unfold Obligations.WellFormedQueueRunsToItsEnd
  intro s hqueue
  obtain ⟨b, hrun⟩ := run_wellFormed s.pending s.blk hqueue
  exact ⟨_, hrun, rfl⟩

end Sys2Proof.Machine
end

section
/-! PROOFS. Check-value units (R340 to R347) and the CLAIM commands (R371), with what an answer is told of the block before it. -/

namespace Sys2Proof.Machine

/-! ### Answers told from an earlier block (R401) -/

section

variable {ps : List Part} {a b c : Block} {r : Reply}

/-- What answers a block answers any before it that differs in nothing the dictionary engine holds beside its entries. -/
theorem Answers.of_keeps (h : Answers b c r) (hab : Keeps ps a b) (hps : ps.contains .dict = false) : Answers a c r :=
  h.congr (hab.replies_eq hps).symm (hab.mute_eq hps).symm

theorem Answers.of_dict (h : Answers b c r) (hab : b.dict = a.dict) : Answers a c r := h.congr (by rw [hab]) (by rw [hab])

/-- What follows an answer without another leaves it the answer. -/
theorem Answers.then_keeps (h : Answers a b r) (hbc : Keeps ps b c) (hps : ps.contains .dict = false) : Answers a c r := by
  unfold Answers at *
  rw [hbc.replies_eq hps, h]

theorem Acks.of_dict {h : Hdr} {key : Nat} (hacks : Acks b c h key) (hab : b.dict = a.dict) : Acks a c h key := Answers.of_dict hacks hab

end

/-! ### A request's own block -/

section

variable (b : Block) (h : Hdr)

theorem Block.taken_cvu (u : Nat) : (b.taken h).cvu u = b.cvu u := by unfold Block.cvu; rw [Block.taken_cvus]

theorem Block.taken_cvuWidth (u : Nat) : (b.taken h).cvuWidth u = b.cvuWidth u := by unfold Block.cvuWidth; rw [Block.taken_reg]

theorem Block.taken_cvuMode (u : Nat) : (b.taken h).cvuMode u = b.cvuMode u := by unfold Block.cvuMode; rw [Block.taken_reg]

theorem Block.taken_cvuFault (u : Nat) : (b.taken h).cvuFault u = b.cvuFault u := by
  simp only [Block.cvuFault, Block.taken_cvuWidth, Block.taken_cvuMode, Block.taken_reg]

theorem Block.taken_cvuInit (u : Nat) : (b.taken h).cvuInit u = b.cvuInit u := by
  simp only [Block.cvuInit, Block.taken_cvuWidth, Block.taken_cvuMode, Block.taken_reg]

end

/-! ### One unit changes -/

/-- Unit u of block b is k, and every other unit is that of block a. -/
structure CvuIs (a b : Block) (u : Nat) (k : Cvu) : Prop where
  here   : b.cvu u = k
  others : ∀ v, v ≠ u → b.cvu v = a.cvu v

section

variable {a b c : Block} {h : Hdr} {u : Nat} {k : Cvu}

theorem Block.onCvu_cvuIs (b : Block) (u : Nat) (f : Cvu → Cvu) : CvuIs b (b.onCvu u f) u (f (b.cvu u)) where
  here := tabGet_tabMod_same ..
  others _ hv := tabGet_tabMod_ne _ _ _ hv

theorem CvuIs.same (hb : CvuIs a b u k) (h : c.cvus = b.cvus) : CvuIs a c u k where
  here := by rw [← hb.here, Block.cvu, h]; rfl
  others v hv := by rw [← hb.others v hv, Block.cvu, h]; rfl

theorem CvuIs.from_ (hb : CvuIs b c u k) (h : b.cvus = a.cvus) : CvuIs a c u k where
  here := hb.here
  others v hv := by rw [hb.others v hv, Block.cvu, h]; rfl

/-! ### START, STOP and DATA (R341, R345 to R347) -/

theorem Block.cvuControl_foreign (v : Nat) (hforeign : b.cvuForeign h u = true) :
    b.cvuControl h u v = b.refuseKey h (cvuKey u 6) 0x08 := if_pos hforeign

theorem Block.cvuControl_own (v : Nat) (hown : b.cvuForeign h u = false) :
    b.cvuControl h u v = if v = 1 then b.cvuStart h u else if v = 2 then b.cvuStop h u else b.refuseKey h (cvuKey u 6) 0x07 :=
  if_neg (by simp [hown])

theorem Block.cvuStart_fault (hfault : b.cvuFault u ≠ 0) :
    (b.cvuStart h u).cvus = b.cvus ∧ Refuses b (b.cvuStart h u) h (cvuKey u 6) 0x07 := by
  rw [Block.cvuStart, if_pos hfault]
  exact ⟨by simp, Answers.of_keeps (Block.refuseKey_refuses ..) (Block.raise_keeps (.refl [.regs, .ev] b) rfl) rfl⟩

/-- A unit that has changed and whose owner has been answered stands changed. -/
theorem Block.onCvu_acked (f : Cvu → Cvu) (key : Nat) (hl : b.dict.landings.contains h = false) :
    CvuIs b ((b.onCvu u f).ack h key) u (f (b.cvu u)) ∧ Acks b ((b.onCvu u f).ack h key) h key :=
  ⟨(b.onCvu_cvuIs u f).same (by simp), Acks.of_dict (Block.ack_acks (b.onCvu u f) h key hl) rfl⟩

theorem Block.cvuStart_runs (hfault : b.cvuFault u = 0) (hl : b.dict.landings.contains h = false) :
    CvuIs b (b.cvuStart h u) u { running := true, owner := some (h.origin, h.session), value := BitVec.ofNat 64 (b.cvuInit u), bytes := 0 } ∧
    Acks b (b.cvuStart h u) h (cvuKey u 6) := by
  rw [Block.cvuStart, if_neg (not_not_intro hfault)]
  exact Block.onCvu_acked _ _ hl

theorem Block.cvuData_none (done : Block → Block) : b.cvuData h u [] done = b.refuseKey h (cvuKey u 7) 0x06 := rfl

theorem Block.cvuData_busy {l : List Byte} (done : Block → Block) (hl : l ≠ [])
    (hbusy : (b.cvu u).running = false ∨ b.cvuForeign h u = true) : b.cvuData h u l done = b.refuseKey h (cvuKey u 7) 0x08 := by
  rw [Block.cvuData, if_neg hl, if_pos (by simpa using hbusy)]

/-- The value that DATA enters from: what the owner has written where that waits for the boundary. -/
def Block.cvuFrom (b : Block) (u : Nat) : Nat := ((b.dict.pend.filter (cvuPending u)).getLast?.map fun p => p.value).getD (b.cvu u).value.toNat

/-- The value of a unit once bytes have entered it. -/
def Block.cvuEntered (b : Block) (u : Nat) (l : List Byte) : Nat :=
  cvuBytes (b.cvuWidth u) (b.reg (cvuKey u 2)) ((b.reg (cvuKey u 1)).testBit 8) (b.cvuFrom u) l

theorem Block.cvuData_enters {l : List Byte} (hl : l ≠ []) (hrun : (b.cvu u).running = true) (hown : b.cvuForeign h u = false) :
    CvuIs b (b.cvuData h u l fun x => x.landed h (cvuKey u 7)) u
      { b.cvu u with value := BitVec.ofNat 64 (b.cvuEntered u l), bytes := (b.cvu u).bytes + l.length } ∧
    Answers b (b.cvuData h u l fun x => x.landed h (cvuKey u 7)) (mkReply h 0x03 (cvuKey u 7 / 256) (cvuKey u 7 % 256) 1 []) := by
  rw [Block.cvuData, if_neg hl, if_neg (by simp [hrun, hown])]
  dsimp only
  exact ⟨CvuIs.from_ (b := b.onDict _) ((Block.onCvu_cvuIs _ u _).same (Block.landed_cvus ..)) rfl,
    Answers.congr (Block.landed_answers ..) rfl rfl⟩

end

/-- Settles O53: each row is its unit's operation on the block that has taken the request. -/
theorem cvuUnitsRun : Obligations.CvuUnitsRun := by
  unfold Obligations.CvuUnitsRun
  intro h u s f
  have hlandings : f.dict.landings.contains h = false := Block.taken_landings ..
  have hcvu (v : Nat) : f.cvu v = s.blk.cvu v := Block.taken_cvu ..
  have hcvus : f.cvus = s.blk.cvus := Block.taken_cvus ..
  have hforeign : f.cvuForeign h u.val = s.blk.cvuForeign h u.val := Block.taken_cvuForeign ..
  refine ⟨fun hw => ⟨fun hown hfault => ?_, fun hown hfault => ?_, fun hown => ?_, fun hbusy => ?_⟩,
    fun data hw => ⟨fun hdata hrun hown => ?_, fun hdata => ?_, fun hdata hbusy => ?_⟩⟩
  · obtain ⟨hunit, hacks⟩ := Block.cvuStart_runs (h := h) (hfault ▸ Block.taken_cvuFault s.blk h u.val) hlandings
    refine does_of_writeTo rfl hw ?_
    rw [Block.cvuControl_own _ (hforeign.trans hown), if_pos rfl]
    rw [Block.taken_cvuInit] at hunit
    exact ⟨hunit.here, (hunit.from_ hcvus).others, hacks⟩
  · obtain ⟨hunits, hrefuses⟩ := Block.cvuStart_fault (h := h) (b := f) (u := u.val) (by rwa [Block.taken_cvuFault])
    refine does_of_writeTo rfl hw ?_
    rw [Block.cvuControl_own _ (hforeign.trans hown), if_pos rfl]
    exact ⟨hunits.trans hcvus, hrefuses⟩
  · obtain ⟨hunit, hacks⟩ := Block.onCvu_acked (h := h) (b := f) (u := u.val) (fun k => { k with running := false, owner := none })
      (cvuKey u.val 6) hlandings
    refine does_of_writeTo rfl hw ?_
    rw [Block.cvuControl_own _ (hforeign.trans hown), if_neg (by decide), if_pos rfl]
    rw [hcvu] at hunit
    exact ⟨hunit.here, (hunit.from_ hcvus).others, hacks⟩
  · have hrefused (v : Nat) : (f.cvuControl h u.val v).cvus = s.blk.cvus ∧ Refuses f (f.cvuControl h u.val v) h (cvuKey u.val 6) 0x08 := by
      rw [Block.cvuControl_foreign v (hforeign.trans hbusy)]
      exact ⟨(Block.refuseKey_cvus ..).trans hcvus, Block.refuseKey_refuses ..⟩
    exact ⟨does_of_writeTo rfl hw (hrefused 1), does_of_writeTo rfl hw (hrefused 2)⟩
  · obtain ⟨hunit, hanswers⟩ := Block.cvuData_enters (b := f) (h := h) hdata (by rwa [hcvu]) (hforeign.trans hown)
    refine does_of_writeTo rfl hw ⟨?_, (hunit.from_ hcvus).others, hanswers⟩
    rw [hunit.here, hcvu, Block.cvuEntered, Block.cvuFrom, hcvu, Block.taken_cvuWidth, Block.taken_reg, Block.taken_reg]
  · subst hdata
    refine does_of_writeTo rfl hw ?_
    rw [Block.cvuData_none]
    exact ⟨(Block.refuseKey_cvus ..).trans hcvus, Block.refuseKey_refuses ..⟩
  · refine does_of_writeTo rfl hw ?_
    rw [Block.cvuData_busy _ hdata (by rw [hcvu, hforeign]; exact hbusy)]
    exact ⟨(Block.refuseKey_cvus ..).trans hcvus, Block.refuseKey_refuses ..⟩

/-! ### CLAIM (R371) -/

section

variable {b : Block} {unitB : Bool}

theorem Block.claimEvent_latched (b : Block) (action v : Nat) (done unverified : Bool) :
    (b.claimEvent action v done unverified).latched 0xB7 = true := Block.latched_raise_self _ (by decide) _

@[simp] theorem Block.claimEvent_twin (b : Block) (action v : Nat) (done unverified : Bool) :
    (b.claimEvent action v done unverified).twin = b.twin := Block.raise_twin ..

theorem Block.claimEvent_reg (b : Block) (action v : Nat) (done unverified : Bool) :
    (b.claimEvent action v done unverified).reg 0x680002 = b.reg 0x680002 := Block.reg_raise_low _ _ _ (by decide)

theorem Block.actClaim_named (hrole : b.cRole = true) (hunit : b.boot.unitB = unitB) (v : Nat) :
    b.actClaim 1 unitB v = b.claimSet v ∧ b.actClaim 2 unitB v = b.claimRelease v ∧ b.actClaim 3 unitB v = b.claimRestore v := by
  have hnamed : ¬(!b.cRole ∨ b.boot.unitB ≠ unitB) := by simp [hrole, hunit]
  exact ⟨if_neg hnamed, if_neg hnamed, if_neg hnamed⟩

theorem Block.actClaim_other (hother : b.cRole = false ∨ b.boot.unitB ≠ unitB) (action v : Nat) : b.actClaim action unitB v = b :=
  if_pos (by simpa using hother)

/-- A claim that SET takes: of 1 to 254, and in twin topology not the partner's. -/
def Block.claimFree (b : Block) (v : Nat) : Bool :=
  decide (1 ≤ v) && decide (v ≤ 254) && (b.topology != 0 || v != bits b.twin.w0.toNat 55 48 || b.twin.w0At == 0)

/-- What SET makes of the twin state. -/
def Block.claimedTwin (b : Block) (v : Nat) : Twin :=
  if b.topology ≠ 0 then { b.twin with claimDue := some v }
  else if b.twin.state = .active ∨ b.twin.state = .standby then
    if b.twin.remain = true ∧ v ≤ 128 then { b.twin with state := .held, claimDue := some 0, remain := false }
    else { b.twin with claimDue := some (if b.twin.remain then v - 128 else v) }
  else b.twin

theorem Block.claimSet_free {v : Nat} (hfree : b.claimFree v = true) :
    (b.claimSet v).reg 0x680002 = v ∧ (b.claimSet v).twin = b.claimedTwin v ∧ (b.claimSet v).latched 0xB7 = true := by
  have hset : b.claimSet v = ((b.setReg 0x680002 v).onTwin fun _ => b.claimedTwin v).claimEvent 1 v true false := by
    unfold Block.claimSet Block.claimedTwin
    refine (if_neg ?_).trans ?_
    · simp only [Block.claimFree] at hfree
      rw [hfree]
      decide
    · refine congrArg (Block.claimEvent · 1 v true false) ?_
      change (if b.topology ≠ 0 then _ else if b.twin.state = TwinState.active ∨ b.twin.state = TwinState.standby then
        (if b.twin.remain = true ∧ v ≤ 128 then _ else _) else _) = _
      by_cases hsolo : b.topology ≠ 0
      · simp only [if_pos hsolo]; rfl
      · by_cases hruns : b.twin.state = .active ∨ b.twin.state = .standby
        · by_cases hheld : b.twin.remain = true ∧ v ≤ 128
          · simp only [if_neg hsolo, if_pos hruns, if_pos hheld]; rfl
          · simp only [if_neg hsolo, if_pos hruns, if_neg hheld]; rfl
        · simp only [if_neg hsolo, if_neg hruns]; rfl
  rw [hset]
  exact ⟨by rw [Block.claimEvent_reg]; exact Block.reg_setReg_same .., by simp, Block.claimEvent_latched ..⟩

theorem Block.claimSet_taken {v : Nat} (htaken : b.claimFree v = false) :
    (b.claimSet v).reg 0x680002 = b.reg 0x680002 ∧ (b.claimSet v).twin = b.twin ∧ (b.claimSet v).latched 0xB7 = true := by
  have hset : b.claimSet v = b.claimEvent 1 v false false := if_pos (by simp only [Block.claimFree] at htaken; rw [htaken]; rfl)
  rw [hset]
  exact ⟨Block.claimEvent_reg .., Block.claimEvent_twin .., Block.claimEvent_latched ..⟩

theorem Block.claimRelease_beside (htwin : b.topology = 0) (hruns : b.twin.state = .active ∨ b.twin.state = .standby)
    (hpartner : b.partnerRuns = true) (v : Nat) :
    (b.claimRelease v).twin = { b.twin with state := .held, claimDue := some 0, remain := false } := by
  rw [Block.claimRelease, if_pos ⟨htwin, hruns, hpartner⟩, Block.claimEvent_twin]
  rfl

theorem Block.claimRelease_alone (hpartner : b.partnerRuns = false) (v : Nat) : (b.claimRelease v).twin = b.twin := by
  rw [Block.claimRelease, if_neg (by simp [hpartner]), Block.claimEvent_twin]

theorem Block.claimRelease_latched (b : Block) (v : Nat) : (b.claimRelease v).latched 0xB7 = true :=
  Block.latched_ite (Block.claimEvent_latched ..) (Block.claimEvent_latched ..)

theorem Block.claimRestore_held (htwin : b.topology = 0) (hheld : b.twin.state = .held) (v : Nat) :
    b.claimRestore v = (b.takeClaim b.baseClaim).claimEvent 3 v true false := by
  unfold Block.claimRestore
  rw [if_neg (not_not_intro htwin), if_pos (.inl hheld)]

theorem Block.claimRestore_solo (hsolo : b.topology ≠ 0) (v : Nat) : b.claimRestore v = b.claimEvent 3 v false false := if_pos hsolo

end

/-- Settles O36: each command is its operation at the unit it names, and idle at the other. -/
theorem claimsActAtTheirUnit : Obligations.ClaimsActAtTheirUnit := by
  unfold Obligations.ClaimsActAtTheirUnit
  refine fun unitB s hobeys => ⟨fun hrole hunit => ?_, fun hother => ?_⟩
  · have hset {P : Block → Prop} (v : BitVec 8) (hP : P (s.blk.claimSet v.toNat)) : Does (.claimSet unitB v) s P :=
      does_of_when rfl hobeys (by rwa [(Block.actClaim_named hrole hunit _).1])
    have hrelease {P : Block → Prop} (hP : P (s.blk.claimRelease 0)) : Does (.claimRelease unitB) s P :=
      does_of_when rfl hobeys (by rwa [(Block.actClaim_named hrole hunit _).2.1])
    have hrestore {P : Block → Prop} (hP : P (s.blk.claimRestore 0)) : Does (.claimRestore unitB) s P :=
      does_of_when rfl hobeys (by rwa [(Block.actClaim_named hrole hunit _).2.2])
    refine ⟨fun v hleast hmost hsolo => hset v ?_, fun v hleast hmost htwin hfree => hset v ?_, fun v hbad => hset v ?_,
      fun htwin hruns => ⟨fun hpartner => hrelease ?_, fun hpartner => hrelease ?_⟩, fun htwin hheld => hrestore ?_, fun hsolo => hrestore ?_⟩
    · obtain ⟨hreg, htwin, htold⟩ := Block.claimSet_free (b := s.blk) (v := v.toNat) (by simp [Block.claimFree, hsolo]; omega)
      exact ⟨hreg, by rw [htwin, Block.claimedTwin, if_pos hsolo], htold⟩
    · obtain ⟨hreg, hclaimed, htold⟩ := Block.claimSet_free (b := s.blk) (v := v.toNat) (by
        simp only [Block.claimFree, Bool.and_eq_true, Bool.or_eq_true, decide_eq_true_eq, bne_iff_ne, beq_iff_eq]
        tauto)
      exact ⟨hreg, htold, by rw [hclaimed, Block.claimedTwin, if_neg (not_not_intro htwin)]⟩
    · have htaken : s.blk.claimFree v.toNat = false := by
        have hlt := v.isLt
        rw [← Bool.not_eq_true]
        simp only [Block.claimFree, Bool.and_eq_true, Bool.or_eq_true, decide_eq_true_eq, bne_iff_ne, beq_iff_eq]
        rintro ⟨⟨hleast, hmost⟩, hfree⟩
        rcases hbad with hzero | hlast | ⟨htwin, hheard, hsame⟩
        · omega
        · omega
        · tauto
      exact Block.claimSet_taken htaken
    · exact ⟨Block.claimRelease_beside htwin hruns hpartner _, Block.claimRelease_latched ..⟩
    · exact ⟨Block.claimRelease_alone hpartner _, Block.claimRelease_latched ..⟩
    · rw [Block.claimRestore_held htwin hheld]
      exact ⟨Block.claimEvent_twin .., Block.claimEvent_latched ..⟩
    · rw [Block.claimRestore_solo hsolo]
      exact ⟨Block.claimEvent_twin .., Block.claimEvent_latched ..⟩
  · exact ⟨fun v => exec_of_when_same rfl (Block.actClaim_other hother ..), exec_of_when_same rfl (Block.actClaim_other hother ..),
      exec_of_when_same rfl (Block.actClaim_other hother ..)⟩

end Sys2Proof.Machine
end

section
/-! PROOFS. The rows that name an entry, and the RW entries without a rule of their own (R392, R396, R401, R404). -/

namespace Sys2Proof.Machine

section

variable {b : Block} {h : Hdr} {key : Nat} {l : List Byte} {d : Desc}

/-! ### Rows as WRITE of their entry (R392, R401) -/

theorem Block.access_entry {i n : Nat} {write : Bool} (hok : b.access h i n write = .ok d) : b.entryOf i n = some d := by
  unfold Block.access at hok
  repeat' split at hok
  all_goals simp_all

/-- A row of the table of entries says the access of the entry. -/
theorem Block.entry_access {i n : Nat} {a : Access} (hrow : (descOf i n).map Desc.access = some a) (hentry : b.entryOf i n = some d) :
    d.access = a := by
  unfold Block.entryOf at hentry
  split at hentry
  · cases hentry
  · simpa [hentry] using hrow

/-- Two rules that agree on the block that has taken the request, wherever the entry is there, write the same. -/
theorem Block.writeTo_congr {len : Nat} {f g : Block → Block}
    (hrule : ∀ d, (b.taken h).entryOf (key / 256) (key % 256) = some d → f (b.taken h) = g (b.taken h)) :
    b.writeTo h key len f = b.writeTo h key len g := by
  unfold Block.writeTo Block.request Block.receive
  dsimp only
  cases haccess : (b.taken h).access h (key / 256) (key % 256) true with
  | error c => rfl
  | ok d => simp only [hrule d (Block.access_entry haccess)]

/-- A rule that is the entry's own is the write of the entry. -/
theorem Block.writeEntry_of_rule {len : Nat} {f : Block → Block} (hlen : len = l.length)
    (hrule : ∀ (y : Block) d, y.entryOf (key / 256) (key % 256) = some d → f y = y.entryWrite h d key l) :
    b.writeTo h key len f = b.writeEntry h key l := by
  subst hlen
  refine Block.writeTo_congr fun d hentry => ?_
  rw [hrule _ d hentry, hentry]

theorem Block.writeEntry_of_access {a : Access} (hrow : ∀ d, b.entryOf (key / 256) (key % 256) = some d → d.access = a) :
    b.writeOf h a key l = b.writeEntry h key l := by
  refine Block.writeTo_congr fun d hentry => ?_
  rw [hentry]
  exact if_pos (hrow d (by rwa [Block.taken_entryOf] at hentry))

theorem Block.entryWrite_wo (haccess : d.access = .wo) : b.entryWrite h d key l = b.woWrite h key l := by
  rw [Block.entryWrite, haccess]

theorem exec_write_own {index : BitVec 16} {sub : BitVec 8} {s : State} (hpath : h.path = 0) (hpair : h.pair = false) :
    exec (.write h index sub l) s = .next { s with blk := s.blk.writeEntry h (index.toNat * 256 + sub.toNat) l } := by
  show execWrite h index sub l s = _
  rw [execWrite, State.run, Block.writeMsg, if_pos ⟨hpath, by simp [hpair]⟩]

theorem length_bytesLE (n v : Nat) : (bytesLE n v).length = n := by
  induction n generalizing v with
  | zero => rfl
  | succ n ih => simp [bytesLE, ih]

section

variable {i : Instr} {s : State} {index : BitVec 16} {sub : BitVec 8} (hkey : index.toNat * 256 + sub.toNat = key) (hpath : h.path = 0)
  (hpair : h.pair = false)

include hkey in
theorem key_parts : key / 256 = index.toNat ∧ key % 256 = sub.toNat := by
  have hsub := sub.isLt
  omega

include hkey hpath hpair

/-- A row that writes a WO entry by the rule of that entry. -/
theorem exec_eq_write_wo {n v : Nat} {f : Block → Nat → Block} (hi : exec i s = .next { s with blk := s.blk.writeTo h key n (f · v) })
    (hv : v < 256 ^ n) (hwo : ∀ (y : Block) d, y.entryOf index.toNat sub.toNat = some d → d.access = .wo)
    (hrule : ∀ (y : Block) (l : List Byte), y.woWrite h key l = f y (natLE l)) : exec i s = exec (.write h index sub (bytesLE n v)) s := by
  obtain ⟨hindex, hsub⟩ := key_parts hkey
  rw [exec_write_own hpath hpair, hi, hkey, Block.writeEntry_of_rule (length_bytesLE n v).symm]
  intro y d hentry
  rw [hindex, hsub] at hentry
  rw [Block.entryWrite_wo (hwo y d hentry), hrule, natLE_bytesLE hv]

/-- A row that writes an entry by its access. -/
theorem exec_eq_write_access {a : Access} (hi : exec i s = .next { s with blk := s.blk.writeOf h a key l })
    (hrow : (descOf index.toNat sub.toNat).map Desc.access = some a) : exec i s = exec (.write h index sub l) s := by
  obtain ⟨hindex, hsub⟩ := key_parts hkey
  rw [exec_write_own hpath hpair, hi, hkey, Block.writeEntry_of_access]
  intro d hentry
  rw [hindex, hsub] at hentry
  exact Block.entry_access hrow hentry

end

/-- The entries of the subsystem resets are written and never read. -/
theorem Block.resetEntry_access {n : Nat} (hentry : b.entryOf 0x1012 n = some d) : d.access = .wo := by
  have hrow : ∀ d ∈ rowsIdentity, d.idxLo ≤ 0x1012 → 0x1012 ≤ d.idxHi → d.access = .wo := by decide
  unfold Block.entryOf at hentry
  rw [if_neg (by omega)] at hentry
  unfold descOf at hentry
  have hhere := List.find?_some hentry
  simp only [Bool.and_eq_true, decide_eq_true_eq] at hhere
  obtain ⟨⟨⟨hlow, hhigh⟩, _⟩, _⟩ := hhere
  exact hrow d (List.mem_of_find?_eq_some hentry) hlow hhigh

theorem Block.woWrite_subsystem {sub : Nat} (hsub : sub < 256) (y : Block) (l : List Byte) :
    y.woWrite h (0x101200 + sub) l = y.subsystemWrite h sub (natLE l) := by
  have hindex : (0x101200 + sub) / 256 = 0x1012 := by omega
  have hrest : (0x101200 + sub) % 256 = sub := by omega
  simp only [Block.woWrite, hindex, hrest, if_pos]

end

/-- Settles O22: a row writes by its entry's access, or by the rule that WRITE finds at the entry. -/
theorem rowsAreWritesOfTheirEntries : Obligations.RowsAreWritesOfTheirEntries := by
  unfold Obligations.RowsAreWritesOfTheirEntries
  intro h s hpath hpair
  have hwo {index : BitVec 16} {sub : BitVec 8} (hrow : (descOf index.toNat sub.toNat).map Desc.access = some .wo) :
      ∀ (y : Block) d, y.entryOf index.toNat sub.toNat = some d → d.access = .wo := fun _ _ => Block.entry_access hrow
  refine ⟨fun index sub value haccess => ?_,
    fun key => exec_eq_write_wo (f := fun y v => y.restartWrite h 1 v) rfl hpath hpair rfl key.isLt (hwo (by decide)) (by simp [Block.woWrite]),
    fun key => exec_eq_write_wo (f := fun y v => y.restartWrite h 2 v) rfl hpath hpair rfl key.isLt (hwo (by decide)) (by simp [Block.woWrite]),
    fun key => exec_eq_write_wo (f := fun y v => y.keepWrite h v) rfl hpath hpair rfl key.isLt (hwo (by decide)) (by simp [Block.woWrite]),
    fun key => exec_eq_write_wo (f := fun y v => y.forgetWrite h v) rfl hpath hpair rfl key.isLt (hwo (by decide)) (by simp [Block.woWrite]),
    fun sub value => ?_,
    fun slot => exec_eq_write_access rfl hpath hpair rfl (by decide), fun orbit => exec_eq_write_access rfl hpath hpair rfl (by decide),
    fun dom => exec_eq_write_access rfl hpath hpair rfl (by decide), fun side d => ?_,
    fun value => exec_eq_write_access rfl hpath hpair rfl (by decide), fun value => exec_eq_write_access rfl hpath hpair rfl (by decide),
    fun p config => ?_, fun word bits => ?_, fun value => exec_eq_write_access rfl hpath hpair rfl (by decide),
    fun site => exec_eq_write_wo (f := fun y v => y.restoreWrite h v) rfl hpath hpair rfl site.isLt (hwo (by decide)) (by simp [Block.woWrite]),
    fun site => exec_eq_write_wo (f := fun y v => y.retireWrite h v) rfl hpath hpair rfl site.isLt (hwo (by decide)) (by simp [Block.woWrite]),
    fun value => exec_eq_write_wo (f := fun y v => y.clearLog h v) rfl hpath hpair rfl value.isLt (hwo (by decide)) (by simp [Block.woWrite])⟩
  · rw [exec_write_own hpath hpair, ← Block.writeEntry_of_access (a := .rw)]
    · rfl
    · intro d hentry
      unfold Block.accessIs at haccess
      rw [hentry] at haccess
      exact of_decide_eq_true haccess
  · exact exec_eq_write_wo (f := fun y v => y.subsystemWrite h sub.toNat v) rfl hpath hpair rfl value.isLt
      (fun _ _ => Block.resetEntry_access) fun y l => Block.woWrite_subsystem sub.isLt y l
  · refine exec_eq_write_access ?_ hpath hpair rfl ?_
    · fin_cases side <;> rfl
    · fin_cases side <;> decide
  · have hindex : (BitVec.ofNat 16 (0x4100 + p.val)).toNat = 0x4100 + p.val := Nat.mod_eq_of_lt (by omega)
    refine exec_eq_write_access (a := .rw) ?_ hpath hpair rfl ?_
    · rw [hindex, progKey]
      show _ * 256 + 1 = _
      omega
    · rw [hindex]
      revert p
      decide
  · have hsub : (BitVec.ofNat 8 (1 + word.val)).toNat = 1 + word.val := Nat.mod_eq_of_lt (by omega)
    refine exec_eq_write_access (a := .rw) ?_ hpath hpair rfl ?_
    · rw [hsub, ← Nat.add_assoc]
      rfl
    · rw [hsub]
      revert word
      decide

/-! ### Writes while a campaign runs (R115, R396) -/

/-- A device that runs whose running campaign bears a number that is no programme's: the model holds the number as any natural number, and locks
the index 0x4100 above it, here that of the latches. -/
def strayCampaign : State := { blk := { Tests.bF with iu := { campaign := some 0x3701 } }, pending := [] }

set_option maxRecDepth 100000 in
theorem strayCampaign_writable : strayCampaign.blk.writable Tests.hdr 0x780101 4 = true := by decide

set_option maxRecDepth 100000 in
/-- The latches are taken for an entry in use, and nothing waits. -/
theorem strayCampaign_pend : ∃ b, exec (.latchClear Tests.hdr 0 0) strayCampaign = .next { strayCampaign with blk := b } ∧ b.dict.pend = [] :=
  ⟨_, rfl, by decide⟩

/-- Refutes O20: a LATCH_CLEAR is refused with BUSY where the number of the running campaign stands past the 16 programmes. -/
theorem not_acceptedWritesWait : ¬ Obligations.AcceptedWritesWait := by
  unfold Obligations.AcceptedWritesWait
  intro hall
  obtain ⟨_, _, _, hlatch, _⟩ := hall Tests.hdr strayCampaign
  obtain ⟨t, hnext, _, _, hwaits⟩ := hlatch 0 0 strayCampaign_writable
  obtain ⟨b, hexec, hpend⟩ := strayCampaign_pend
  obtain rfl := Host.Outcome.next.inj (hnext.symm.trans hexec)
  have hpends := hwaits.pend
  rw [hpend] at hpends
  simp at hpends

end Sys2Proof.Machine
end

section
/-! PROOFS. The JTAG port, and restarts and subsystem resets as they are asked for (R423, R453, R522). -/

namespace Sys2Proof.Machine

/-! ### JTAG (R522) -/

theorem Block.tapRuns_of {b : Block} (hphase : b.boot.phase ≠ .powerReset) : b.tapRuns = true := decide_eq_true hphase

theorem jtagNamed_other {code : Nat} (hcode : code = 0 ∨ 5 < code) : jtagNamed code = false := by
  unfold jtagNamed
  rw [Bool.and_eq_false_iff, decide_eq_false_iff_not, decide_eq_false_iff_not]
  omega

/-- Settles O60: each instruction is what it selects and drives; the levels sampled are one for each boundary cell. -/
theorem jtagSelects : Obligations.JtagSelects := by
  unfold Obligations.JtagSelects
  refine fun s => ⟨fun hphase => ?_, does_of_next rfl rfl, fun hphase i hi => ?_⟩
  · have hruns := Block.tapRuns_of hphase
    exact ⟨does_of_when rfl hruns rfl, fun l => does_of_when rfl hruns rfl,
      does_of_when rfl hruns ⟨rfl, (List.length_map _).trans List.length_range⟩, does_of_when rfl hruns rfl, does_of_when rfl hruns rfl,
      does_of_when rfl hruns rfl,
      fun code hcode => does_of_when rfl (by rw [hruns, jtagNamed_other hcode]; rfl) rfl⟩
  · have hstops : s.blk.tapRuns = false := decide_eq_false (not_not_intro hphase)
    simp only [List.mem_cons, List.not_mem_nil, or_false] at hi
    obtain rfl | rfl | rfl | rfl := hi <;> exact exec_of_not_when rfl hstops

/-! ### Restarts and subsystem resets (R423, R453) -/

@[simp] theorem Block.taken_restartDue (b : Block) (h : Hdr) : (b.taken h).boot.restartDue = b.boot.restartDue := by
  unfold Block.taken Block.sessionUsed; split <;> rfl

@[simp] theorem Block.taken_resetDue (b : Block) (h : Hdr) : (b.taken h).boot.resetDue = b.boot.resetDue := by
  unfold Block.taken Block.sessionUsed; split <;> rfl

@[simp] theorem Block.taken_resetting (b : Block) (h : Hdr) : (b.taken h).boot.resetting = b.boot.resetting := by
  unfold Block.taken Block.sessionUsed; split <;> rfl

/-- A restart key is answered, and the restart falls due. -/
theorem Block.restartWrite_key {b : Block} {h : Hdr} {sub v : Nat} (hkey : v = if sub = 1 then 0x424F4F54 else 0x434F4D4D) :
    b.restartWrite h sub v =
      (b.ack h (0x101100 + sub)).onBoot fun k => { k with restartDue := max k.restartDue (if sub = 1 then 2 else 1) } :=
  if_neg (not_not_intro hkey)

theorem Block.restartWrite_acks {b : Block} {h : Hdr} {sub v : Nat} (hkey : v = if sub = 1 then 0x424F4F54 else 0x434F4D4D)
    (hlandings : b.dict.landings.contains h = false) :
    (b.restartWrite h sub v).boot.restartDue = max b.boot.restartDue (if sub = 1 then 2 else 1) ∧
      Acks b (b.restartWrite h sub v) h (0x101100 + sub) := by
  rw [Block.restartWrite_key hkey]
  exact ⟨by rw [Block.onBoot, Block.ack_boot], Block.ack_acks b h _ hlandings⟩

theorem Block.subsystemWrite_acks {b : Block} {h : Hdr} {blk : Nat} (hrole : gated b.cRole blk = false)
    (hidle : tabFind b.boot.resetting blk = none) (hdue : blk ∉ b.boot.resetDue) (hlandings : b.dict.landings.contains h = false) :
    (b.subsystemWrite h blk 1).boot.resetDue = b.boot.resetDue ++ [blk] ∧ Acks b (b.subsystemWrite h blk 1) h (0x101200 + blk) := by
  have htakes : b.subsystemWrite h blk 1 = (b.ack h (0x101200 + blk)).onBoot fun k => { k with resetDue := k.resetDue ++ [blk] } := by
    unfold Block.subsystemWrite
    dsimp only
    rw [if_neg (by simp [hrole]), if_neg (by simp), if_neg (by simp [hidle, hdue])]
  rw [htakes]
  exact ⟨by rw [Block.onBoot, Block.ack_boot], Block.ack_acks b h _ hlandings⟩

/-- A reset whose crossings have passed, or that no lock has begun to count, ends and is told. -/
theorem Block.endReset_due {b : Block} {blk x : Nat} (hresets : tabFind b.boot.resetting blk = some x)
    (hover : x ≤ b.time.now ∨ b.time.everLocked = false) :
    b.endReset blk = (b.onBoot fun k => { k with resetting := tabDel k.resetting blk, discards := tabDel k.discards blk }).raise 0x0E
      [.id 4 blk, .id 1 0, .cnt 16 (tabGet 0 b.boot.discards blk)] := by
  unfold Block.endReset
  rw [hresets]
  exact if_pos (by simpa using hover)

theorem Block.endReset_early {b : Block} {blk x : Nat} (hresets : tabFind b.boot.resetting blk = some x) (hearly : b.time.now < x)
    (hlocked : b.time.everLocked = true) : b.endReset blk = b := by
  unfold Block.endReset
  rw [hresets]
  exact if_neg (by simp [hlocked, hearly])

/-- Settles O12: the write is answered and what it asks for falls due, and the end is the one that R453 counts to. -/
theorem restartsFallDueAtTheCrossingsEnd : Obligations.RestartsFallDueAtTheCrossingsEnd := by
  unfold Obligations.RestartsFallDueAtTheCrossingsEnd
  refine ⟨fun h s hw => does_of_writeTo rfl hw ?_, fun h s hw => does_of_writeTo rfl hw ?_,
    fun h sub s hw hrole hidle hdue => does_of_writeTo rfl hw ?_, fun k x s hresets hover => does_of_next rfl ?_,
    fun k x s hresets hearly hlocked => exec_of_same rfl (Block.endReset_early hresets hearly hlocked)⟩
  · obtain ⟨hrestart, hacks⟩ := Block.restartWrite_acks (b := s.blk.taken h) (h := h) (sub := 1) (v := 0x424F4F54) rfl (Block.taken_landings ..)
    exact ⟨hrestart.trans (by rw [Block.taken_restartDue]; rfl), hacks⟩
  · obtain ⟨hrestart, hacks⟩ := Block.restartWrite_acks (b := s.blk.taken h) (h := h) (sub := 2) (v := 0x434F4D4D) rfl (Block.taken_landings ..)
    exact ⟨hrestart.trans (by rw [Block.taken_restartDue]; rfl), hacks⟩
  · have hsub := sub.isLt
    obtain ⟨hreset, hacks⟩ := Block.subsystemWrite_acks (b := s.blk.taken h) (h := h) (by rwa [Block.taken_cRole])
      (by rwa [Block.taken_resetting]) (by rwa [Block.taken_resetDue]) (Block.taken_landings ..)
    unfold Acks at hacks
    rw [show (0x101200 + sub.toNat) / 256 = 0x1012 by omega, show (0x101200 + sub.toNat) % 256 = sub.toNat by omega] at hacks
    exact ⟨by rw [← Block.taken_resetDue s.blk h]; exact hreset, hacks⟩
  · beta_reduce
    rw [Block.endReset_due hresets hover]
    exact ⟨by rw [Block.raise_boot]; rfl, Block.latched_raise_self _ (by decide) _⟩

end Sys2Proof.Machine
end

section
/-! PROOFS. Entries that answers leave as they are, unlock tokens and attestation reports (R473 to R477). -/

namespace Sys2Proof.Machine

/-! ### An entry stays while events are told and answers leave (R401, R412, R425) -/

/-- An entry outside the tables of the withdrawals, the uplinks, the queues and the event sources. -/
def plainKey (k : Nat) : Bool :=
  !(decide (0x214000 ≤ k) && decide (k < 0x214010)) && !(decide (0x510000 ≤ k) && decide (k < 0x550000)) &&
    !(decide (0x780000 ≤ k) && decide (k < 0x7A0000))

/-- A plain entry k reads v. -/
structure EntryIs (k v : Nat) (b : Block) : Prop where
  plain : plainKey k = true
  reg : b.reg k = v

section

variable {k v n : Nat} {b x y : Block}

theorem plainKey_ranges (h : plainKey k = true) :
    (k < 0x214000 ∨ 0x214010 ≤ k) ∧ (k < 0x510000 ∨ 0x550000 ≤ k) ∧ (k < 0x780000 ∨ 0x7A0000 ≤ k) := by
  simp only [plainKey, Bool.and_eq_true, Bool.not_eq_true', Bool.and_eq_false_iff, decide_eq_false_iff_not] at h
  omega

theorem EntryIs.same (hx : EntryIs k v x) (h : y.reg k = x.reg k) : EntryIs k v y := ⟨hx.plain, h.trans hx.reg⟩

theorem EntryIs.ite {c : Prop} [Decidable c] (hx : EntryIs k v x) (hy : EntryIs k v y) : EntryIs k v (if c then x else y) := by
  split <;> assumption

theorem EntryIs.forEach {α : Type} {l : List α} {f : α → Block → Block} (hb : EntryIs k v b)
    (hf : ∀ i x, EntryIs k v x → EntryIs k v (f i x)) : EntryIs k v (forEach l b f) :=
  List.foldlRecOn (motive := EntryIs k v) l _ hb fun x hx i _ => hf i x hx

theorem EntryIs.setReg (hb : EntryIs k v b) {key : Nat} (m : Nat) (hk : k ≠ key) : EntryIs k v (b.setReg key m) :=
  hb.same (Block.reg_setReg_ne b m hk)

theorem EntryIs.bump (hb : EntryIs k v b) {key : Nat} (m : Nat) (hk : k ≠ key) : EntryIs k v (b.bump key m) :=
  hb.same (Block.reg_bump_ne b m hk)

theorem EntryIs.mark (hb : EntryIs k v b) (hn : n < 256) (d : Nat) : EntryIs k v (b.mark n d) := by
  obtain ⟨_, _, hevents⟩ := plainKey_ranges hb.plain
  refine hb.same ?_
  unfold Block.mark
  dsimp only
  rw [Block.reg_setReg_ne _ _ (by unfold sourceKey; omega), Block.reg_setReg_ne _ _ (by unfold latchKey; omega),
    Block.reg_bumpSat_ne _ _ _ (by unfold sourceKey; omega)]

theorem EntryIs.raise (hb : EntryIs k v b) (hn : n < 256) (l : List Fld) : EntryIs k v (b.raise n l) := by
  obtain ⟨_, _, hevents⟩ := plainKey_ranges hb.plain
  exact Block.raise_ind b n l (fun d => hb.mark hn d) (fun _ d hx => hx.mark (by decide) d) (fun _ _ hx => hx.same rfl)
    fun x paths port m hx => hx.same (Block.reg_send x paths port m (by omega))

theorem EntryIs.raiseOnce (hb : EntryIs k v b) (hn : n < 256) (i : Nat) (l : List Fld) : EntryIs k v (b.raiseOnce n i l) := by
  refine .ite (hb.mark hn _) (.raise ?_ hn l)
  exact hb.same rfl

theorem EntryIs.numbered (hb : EntryIs k v b) (q : Nat) (r : QRec) : EntryIs k v (b.numbered q r) := by
  obtain ⟨_, huplinks, _⟩ := plainKey_ranges hb.plain
  unfold Block.numbered
  split
  · exact hb
  · next hup =>
    have hq : q < 0x2D := isUp_lt (by simpa using hup)
    have haccount : EntryIs k v (b.account (q - 0x20) r) := hb.same rfl
    refine .ite (EntryIs.raise ?_ (by decide) _) haccount
    exact (((haccount.setReg _ (by omega)).setReg _ (by omega)).setReg _ (by omega)).setReg _ (by omega)

theorem EntryIs.countWithdrawal (hb : EntryIs k v b) (c : Nat) (w : Word64) : EntryIs k v (b.countWithdrawal c w) := by
  have hreason : bits w.toNat 55 52 < 2 ^ 4 := Nat.mod_lt _ (by decide)
  obtain ⟨hwithdrawals, _, _⟩ := plainKey_ranges hb.plain
  exact (hb.bump _ (by omega)).raiseOnce (by decide) _ _

section

variable {q : Nat} (hq : q < 256)

include hq

theorem EntryIs.bumpQueue (hb : EntryIs k v b) {e : Nat} (he : e < 256) (m : Nat) : EntryIs k v (b.bump (queueKey q e) m) := by
  obtain ⟨_, hqueues, _⟩ := plainKey_ranges hb.plain
  exact hb.bump _ (by unfold queueKey; omega)

theorem EntryIs.queueNotice (hb : EntryIs k v b) : EntryIs k v (b.queueNotice q) := by
  obtain ⟨_, hqueues, _⟩ := plainKey_ranges hb.plain
  have hpeak : EntryIs k v (b.peak (queueKey q 4) (b.queue q).level) := .ite (hb.setReg _ (by unfold queueKey; omega)) hb
  have hnoticed (m : Bool) : EntryIs k v ((b.peak (queueKey q 4) (b.queue q).level).onQueue q fun u => { u with noticed := m }) :=
    hpeak.same rfl
  unfold Block.queueNotice
  exact .ite (.ite ((hnoticed _).raise (by decide) _) (hnoticed _)) (.ite (hnoticed _) hpeak)

theorem EntryIs.qPlace (hb : EntryIs k v b) (r : QRec) : EntryIs k v (b.qPlace q r) := by
  unfold Block.qPlace
  refine EntryIs.queueNotice hq (.numbered (.ite (.bumpQueue hq ?_ (by decide) _) ?_) _ _) <;> exact hb.same rfl

theorem EntryIs.qClose (hb : EntryIs k v b) : EntryIs k v (b.qClose q) := by
  refine .ite hb (.bumpQueue hq ?_ (by decide) _)
  exact hb.same rfl

theorem EntryIs.qWithdraw (hb : EntryIs k v b) (r : QRec) : EntryIs k v (b.qWithdraw q r) := by
  have hjoined : EntryIs k v (b.qJoin q r) := .ite (hb.same rfl) (hb.same rfl)
  exact .ite hjoined (.qPlace hq (hb.countWithdrawal _ _) _)

theorem EntryIs.qRefuse (hb : EntryIs k v b) (r : QRec) : EntryIs k v (b.qRefuse q r) := by
  unfold Block.qRefuse
  have hcount := (hb.bumpQueue hq (e := 8) (by decide) 1).raiseOnce (n := 0x5E) (by decide) q [.id 8 q, b.nameFld r.cross, .cnt 16 (recCount r)]
  exact .ite (.forEach hcount fun _ _ hx => .qWithdraw hq hx _) (hcount.same rfl)

theorem EntryIs.qDrain : ∀ (m : Nat) {b : Block}, EntryIs k v b → EntryIs k v (b.qDrain m q)
  | 0, _, hb => hb
  | m + 1, b, hb => by
    have hchanged (f : Queue → Queue) : EntryIs k v (b.onQueue q f) := hb.same rfl
    unfold Block.qDrain
    refine .ite hb ?_
    split
    · exact EntryIs.qDrain m (.qPlace hq (hchanged _) _)
    · split
      · exact hb
      · exact EntryIs.qDrain m (.forEach (hchanged _) fun _ _ hx => .qWithdraw hq hx _)

theorem EntryIs.qWrite (hb : EntryIs k v b) (r : QRec) : EntryIs k v (b.qWrite q r) := by
  have hdrain := EntryIs.qDrain hq (b.queue q).waiting hb
  have hplace := EntryIs.qPlace hq hdrain r
  have hrefuse := EntryIs.qRefuse hq hdrain r
  exact .ite (.ite hplace (.ite (hdrain.same rfl) hrefuse)) (.ite hplace hrefuse)

theorem EntryIs.qBulk (hb : EntryIs k v b) (c : Nat) (l : List Word64) : EntryIs k v (b.qBulk q c l) := by
  have hclose := EntryIs.qClose hq (EntryIs.qDrain hq (b.queue q).waiting hb)
  unfold Block.qBulk
  refine .ite (.queueNotice hq (.bumpQueue hq ?_ (by decide) _)) (.forEach hclose fun _ _ hx => .qRefuse hq hx _)
  exact hclose.same rfl

end

theorem EntryIs.inbandSend (hb : EntryIs k v b) (o : Nat) (m : List Byte) : EntryIs k v (b.inbandSend o m) := by
  refine .ite (.ite (hb.same rfl) (hb.same rfl)) (.ite ?_ (.qBulk (by decide) hb _ _))
  exact .forEach hb fun _ _ hx => .qWrite (by decide) hx _

theorem EntryIs.sendReply (hb : EntryIs k v b) (r : Reply) : EntryIs k v (b.sendReply r) := by
  have hlist : EntryIs k v (if b.dict.mute = true then b else b.onDict fun d => { d with replies := d.replies ++ [r] }) :=
    .ite hb (hb.same rfl)
  exact .ite hlist (hlist.inbandSend _ _)

theorem EntryIs.landed (hb : EntryIs k v b) (h : Hdr) (key : Nat) : EntryIs k v (b.landed h key) := by
  refine EntryIs.sendReply ?_ _
  exact hb.same rfl

theorem EntryIs.ack (hb : EntryIs k v b) (h : Hdr) (key : Nat) : EntryIs k v (b.ack h key) := .ite (hb.landed h key) (hb.sendReply _)

theorem EntryIs.abort (hb : EntryIs k v b) (h : Hdr) (idx sub code : Nat) : EntryIs k v (b.abort h idx sub code) := by
  refine .ite hb (EntryIs.sendReply ?_ _)
  exact (hb.raiseOnce (by decide) _ _).same rfl

theorem EntryIs.refuseKey (hb : EntryIs k v b) (h : Hdr) (key code : Nat) : EntryIs k v (b.refuseKey h key code) := hb.abort ..

end

section

variable {k v : Nat} (b : Block) (hk : plainKey k = true)

include hk

theorem EntryIs.set (v : Nat) : EntryIs k v (b.setReg k v) := ⟨hk, Block.reg_setReg_same ..⟩

theorem EntryIs.bumped (n : Nat) : EntryIs k (b.reg k + n) (b.bump k n) := ⟨hk, Block.reg_bump_same ..⟩

end

/-! ### Unlock tokens and nonces (R473, R474) -/

section

variable {b : Block} {h : Hdr} {n : Nat}

theorem plainKey_attest : plainKey keyAttest = true := by decide

/-- A latch stands in an entry of the event tables. -/
theorem Block.latched_setReg_plain {k : Nat} (hn : n < 256) (hk : plainKey k = true) (v : Nat) : (b.setReg k v).latched n = b.latched n := by
  obtain ⟨_, _, hevents⟩ := plainKey_ranges hk
  unfold Block.latched
  rw [Block.reg_setReg_ne _ _ (by unfold latchKey; omega)]

theorem Block.latched_bump_plain {k : Nat} (hn : n < 256) (hk : plainKey k = true) (v : Nat) : (b.bump k v).latched n = b.latched n := by
  obtain ⟨_, _, hevents⟩ := plainKey_ranges hk
  unfold Block.latched
  rw [Block.reg_bump_ne _ _ (by unfold latchKey; omega)]

theorem Block.attestRequest_acks {nonce : List Byte} (hidle : b.reg keyAttest ≠ 1) (hlandings : b.dict.landings.contains h = false) :
    (b.attestRequest h nonce).sec = { b.sec with nonce := nonce, payload := [] } ∧ (b.attestRequest h nonce).reg keyAttest = 1 ∧
      Acks b (b.attestRequest h nonce) h 0x7C5001 := by
  rw [Block.attestRequest, if_neg hidle]
  refine ⟨by rw [Block.ack_sec]; rfl, ((EntryIs.set _ plainKey_attest 1).ack _ _).reg, ?_⟩
  exact Answers.congr (Block.ack_acks _ _ _ hlandings) rfl rfl

/-! ### Reports (R475 to R477) -/

theorem Block.attestRefused_sec (b : Block) (cause : Nat) : (b.attestRefused cause).sec = { b.sec with payload := [] } := by
  rw [Block.attestRefused, Block.raise_sec]
  rfl

theorem Block.attestRefused_fuses (b : Block) (cause : Nat) : (b.attestRefused cause).fuses = b.fuses := by
  rw [Block.attestRefused, Block.raise_fuses]
  rfl

theorem Block.attestRefused_state (b : Block) (cause : Nat) : (b.attestRefused cause).reg keyAttest = 3 :=
  ((EntryIs.set _ plainKey_attest 3).raise (by decide) _).reg

theorem Block.attestRefused_told (b : Block) (cause : Nat) : (b.attestRefused cause).latched 0xEB = true :=
  Block.latched_raise_self _ (by decide) _

theorem Block.attestRefused_latched (hn : n < 256) (cause : Nat) (hset : b.latched n = true) : (b.attestRefused cause).latched n = true := by
  refine Block.latched_raise _ _ _ hn ?_
  rw [Block.latched_setReg_plain hn plainKey_attest]
  exact hset

theorem Block.attestSign_sec (b : Block) (e : Nat) : (b.attestSign e).sec =
    { b.sec with payload := signedState b.sec.payload e b.sec.leaf, epoch := some e, leaf := b.sec.leaf + 1 } := by
  rw [Block.attestSign, Block.raise_sec, Block.bump_sec]
  rfl

theorem Block.attestSign_fuses (b : Block) (e : Nat) : (b.attestSign e).fuses = b.fuses := by
  rw [Block.attestSign, Block.raise_fuses, Block.bump_fuses]
  rfl

theorem Block.attestSign_state (b : Block) (e : Nat) : (b.attestSign e).reg keyAttest = 2 :=
  (((EntryIs.set _ plainKey_attest 2).bump 1 (by decide)).raise (by decide) _).reg

theorem Block.attestSign_count (b : Block) (e : Nat) : (b.attestSign e).reg 0x7C5006 = b.reg 0x7C5006 + 1 := by
  rw [Block.attestSign]
  refine ((EntryIs.bumped _ (by decide) 1).raise (by decide) _).reg.trans ?_
  rw [Block.reg_setReg_ne _ _ (by decide)]
  rfl

theorem Block.attestSign_told (b : Block) (e : Nat) : (b.attestSign e).latched 0xE6 = true := Block.latched_raise_self _ (by decide) _

theorem Block.attestSign_latched (hn : n < 256) (e : Nat) (hset : b.latched n = true) : (b.attestSign e).latched n = true := by
  refine Block.latched_raise _ _ _ hn ?_
  rw [Block.latched_bump_plain hn (by decide), Block.latched_setReg_plain hn plainKey_attest]
  exact hset

/-- The block in which the next epoch is open, its fuse burned and told, and the warning of the last ones with it. -/
def Block.epochOpen (b : Block) : Block :=
  let e := b.fuses.epochs
  let b := (b.onFuses fun f => { f with epochs := e + 1 }).raise 0xE7 [.id 10 e, .id 11 (1023 - e)]
  let b := if 1023 - e ≤ 32 then b.raise 0xE8 [.id 11 (1023 - e)] else b
  b.onSec fun s => { s with leaf := 0 }

theorem Block.attestNew_opens (hleft : b.fuses.epochs < 1024) (hwarn : b.env.warn = false) :
    b.attestNew [] = b.epochOpen.attestSign b.fuses.epochs := by
  rw [Block.attestNew, if_neg (by omega), if_neg (by simp [hwarn])]
  rfl

theorem Block.epochOpen_sec (b : Block) : b.epochOpen.sec = { b.sec with leaf := 0 } := by
  simp only [Block.epochOpen, Block.onSec_sec]
  split <;> simp

theorem Block.epochOpen_fuses (b : Block) : b.epochOpen.fuses = { b.fuses with epochs := b.fuses.epochs + 1 } := by
  simp only [Block.epochOpen, Block.onSec_fuses]
  split <;> simp

theorem Block.epochOpen_told (b : Block) : b.epochOpen.latched 0xE7 = true := by
  have hopened : ((b.onFuses fun f => { f with epochs := b.fuses.epochs + 1 }).raise 0xE7
      [.id 10 b.fuses.epochs, .id 11 (1023 - b.fuses.epochs)]).latched 0xE7 = true := Block.latched_raise_self _ (by decide) _
  exact Block.latched_ite (Block.latched_raise _ _ _ (by decide) hopened) hopened

theorem Block.epochOpen_warns (hlast : 990 < b.fuses.epochs) : b.epochOpen.latched 0xE8 = true := by
  unfold Block.epochOpen
  dsimp only
  rw [if_pos (by omega)]
  exact Block.latched_raise_self _ (by decide) _

theorem Block.attestNew_spent (hspent : 1024 ≤ b.fuses.epochs) (burns : List Bool) : b.attestNew burns = (b.raise 0xE9 []).attestRefused 1 :=
  if_pos hspent

theorem Block.attestReady_bad (hbad : b.sec.certBad = true) (burns : List Bool) : b.attestReady burns = b.attestRefused 2 := if_pos hbad

theorem Block.attestReady_open {e : Nat} (hgood : b.sec.certBad = false) (hepoch : b.sec.epoch = some e) (hleaf : b.sec.leaf < 1024)
    (burns : List Bool) : b.attestReady burns = b.attestSign e := by
  unfold Block.attestReady
  rw [if_neg (by simp [hgood]), hepoch]
  exact if_pos hleaf

theorem Block.attestReady_new (hgood : b.sec.certBad = false) (hdone : b.sec.epoch = none ∨ 1024 ≤ b.sec.leaf) (burns : List Bool) :
    b.attestReady burns = b.attestNew burns := by
  unfold Block.attestReady
  rw [if_neg (by simp [hgood])]
  cases hepoch : b.sec.epoch with
  | none => rfl
  | some e =>
    rw [hepoch] at hdone
    exact if_neg (by have := hdone.resolve_left nofun; omega)

end

/-- Settles O55: the token and the nonce are kept and answered, and a report is the next leaf's, the next epoch's, or refused. -/
theorem tokensAndReports : Obligations.TokensAndReports := by
  unfold Obligations.TokensAndReports
  refine ⟨fun h image s hw => does_of_writeTo rfl hw ⟨?_, Block.landed_answers ..⟩, fun h nonce s hw => ⟨fun hidle => ?_, fun hbusy => ?_⟩,
    fun s => ⟨fun hidle burns => exec_of_not_when rfl ?_, fun hserved hasked hpayload => ?_⟩⟩
  · rw [Block.keepToken, Block.landed_sec, Block.onSec_sec, Block.taken_sec]
  · refine does_of_writeTo rfl hw ?_
    obtain ⟨hsec, hstate, hacks⟩ := Block.attestRequest_acks (b := s.blk.taken h) (h := h) (nonce := nonce) (by rwa [Block.taken_reg])
      (Block.taken_landings ..)
    exact ⟨by rw [hsec, Block.taken_sec], hstate, hacks⟩
  · refine does_of_writeTo rfl hw ?_
    rw [Block.attestRequest, if_pos (by rwa [Block.taken_reg])]
    exact ⟨by rw [Block.refuseKey_sec, Block.taken_sec], Block.refuseKey_refuses ..⟩
  · simp [keyAttest, hidle]
  · have hready {P : Block → Prop} (burns : List Bool) (hP : P (s.blk.attestReady burns)) : Does (.attestReportReady burns) s P :=
      does_of_when rfl (by simp [keyAttest, hserved, hasked, hpayload]) hP
    refine ⟨fun burns hbad => hready burns ?_, fun burns e hgood hepoch hleaf => hready burns ?_, fun hgood hdone hleft hwarn => hready [] ?_,
      fun burns hgood hdone hspent => hready burns ?_⟩
    · rw [Block.attestReady_bad hbad]
      exact ⟨Block.attestRefused_sec .., Block.attestRefused_fuses .., Block.attestRefused_state .., Block.attestRefused_told ..⟩
    · rw [Block.attestReady_open hgood hepoch hleaf]
      refine ⟨?_, Block.attestSign_fuses .., Block.attestSign_state .., Block.attestSign_count .., Block.attestSign_told ..⟩
      rw [Block.attestSign_sec, ← hepoch]
    · rw [Block.attestReady_new hgood hdone, Block.attestNew_opens hleft hwarn]
      refine ⟨by rw [Block.attestSign_sec, Block.epochOpen_sec], by rw [Block.attestSign_fuses, Block.epochOpen_fuses],
        Block.attestSign_state .., Block.attestSign_latched (by decide) _ (Block.epochOpen_told _), Block.attestSign_told .., fun hlast => ?_⟩
      exact Block.attestSign_latched (by decide) _ (Block.epochOpen_warns hlast)
    · rw [Block.attestReady_new hgood hdone, Block.attestNew_spent hspent]
      refine ⟨by rw [Block.attestRefused_sec, Block.raise_sec], by rw [Block.attestRefused_fuses, Block.raise_fuses],
        Block.attestRefused_state .., ?_, Block.attestRefused_told ..⟩
      exact Block.attestRefused_latched (by decide) _ (Block.latched_raise_self _ (by decide) _)

end Sys2Proof.Machine
end

section
/-! PROOFS. Rollback, owner keys and their fuses (R466 to R469), and the CAN controllers (R408 to R411, R519). -/

namespace Sys2Proof.Machine

section

variable {a b x : Block} {h : Hdr} {key code : Nat} {ps : List Part}

/-! ### An answer after other parts have changed (R401) -/

theorem Refuses.after (hab : Keeps ps a b) (hps : ps.contains .dict = false) : Refuses a (b.refuseKey h key code) h key code :=
  (Block.refuseKey_refuses b h key code).of_keeps hab hps

theorem Acks.after (hab : Keeps ps a b) (hps : ps.contains .dict = false) (hlandings : a.dict.landings.contains h = false) :
    Acks a (b.ack h key) h key :=
  Answers.of_keeps (Block.ack_acks b h key (by rwa [hab.landings_eq hps])) hab hps

/-! ### Burning (R466, R468) -/

/-- Fuses that all read back raise the floor by as many. -/
theorem Block.burnFloor_all (n : Nat) (b : Block) :
    Block.burnFloor n [] b = (true, b.onFuses fun f => { f with floor := f.floor + n }) := by
  induction n generalizing b with
  | zero => rfl
  | succ n ih =>
    show Block.burnFloor n [] (b.onFuses fun f => { f with floor := f.floor + 1 }) = _
    rw [ih]
    simp [Block.onFuses, Nat.add_assoc, Nat.add_comm 1 n]

/-- A fuse that does not read back twice ends the rise at once. -/
theorem Block.burnFloor_none {n : Nat} (hn : n ≠ 0) (b : Block) :
    (Block.burnFloor n [false, false] b).1 = false ∧ (Block.burnFloor n [false, false] b).2 = (b.burn 1 b.fuses.floor [false, false]).2.2 := by
  obtain ⟨n, rfl⟩ := Nat.exists_eq_succ_of_ne_zero hn
  exact ⟨rfl, rfl⟩

theorem Block.taken_activeVersion (b : Block) (h : Hdr) : (b.taken h).activeVersion = b.activeVersion := by
  unfold Block.activeVersion
  rw [Block.taken_act]

theorem Block.taken_shadowBelow (b : Block) (h : Hdr) (v : Nat) : (b.taken h).shadowBelow v = b.shadowBelow v := by
  unfold Block.shadowBelow
  rw [Block.taken_shd]

theorem Block.taken_owned (b : Block) (h : Hdr) : (b.taken h).owned = b.owned := by
  unfold Block.owned
  rw [Block.taken_fuses]

/-! ### The rollback commit (R466) -/

theorem Block.commitRollback_outside (hbad : key ≠ 0x524F4C4C ∨ b.activeVersion ≤ b.fuses.floor) (burns : List Bool) :
    b.commitRollback h key burns = b.refuseKey h 0x7C1002 0x07 := if_pos hbad

theorem Block.commitRollback_busy (hkey : key = 0x524F4C4C) (hbelow : b.fuses.floor < b.activeVersion)
    (hbusy : (b.env.warn || b.downloading || b.flashWriting || b.shadowBelow (min b.activeVersion 256)) = true) (burns : List Bool) :
    b.commitRollback h key burns = b.refuseKey h 0x7C1002 0x08 := by
  rw [Block.commitRollback, if_neg (by omega), if_pos (by simpa [or_assoc] using hbusy)]

/-- What is left of the commit where nothing stands against it. -/
theorem Block.commitRollback_burns (hkey : key = 0x524F4C4C) (hbelow : b.fuses.floor < b.activeVersion)
    (hfree : (b.env.warn || b.downloading || b.flashWriting || b.shadowBelow (min b.activeVersion 256)) = false) (burns : List Bool) :
    b.commitRollback h key burns =
      let r := Block.burnFloor (min b.activeVersion 256 - b.fuses.floor) burns b
      if r.1 then (r.2.raise 0xE2 [.id 16 r.2.fuses.floor]).ack h 0x7C1002 else r.2.refuseKey h 0x7C1002 0x1A := by
  rw [Block.commitRollback, if_neg (by omega), if_neg (by simpa [or_assoc, and_assoc] using hfree)]

/-! ### Owner keys (R469) -/

theorem Block.keyChange_warned (hwarn : b.env.warn = true) {action slot fld : Nat} {burns : List Bool} {f done : Block → Block} :
    b.keyChange h key action slot fld burns f done = b.refuseKey h key 0x08 := if_pos hwarn

theorem Block.keyChange_burns (hwarn : b.env.warn = false) {action slot fld : Nat} {f done : Block → Block} :
    b.keyChange h key action slot fld [] f done = done ((f b).raise 0xE3 [.id 8 action, .id 2 slot]) := if_neg (by simp [hwarn])

/-- What an image meets depends on the device's fuses alone. -/
theorem Block.imageCheck_congr (hfuses : b.fuses = a.fuses) (type : Nat) (image : List Byte) (v : Verdict) :
    b.imageCheck type image v = a.imageCheck type image v := by
  unfold Block.imageCheck Block.targetOk Block.classOk Block.owned Block.keyOk Block.slotBurned Block.slotRevoked
  rw [hfuses]

theorem Block.updateOk_congr (hfuses : b.fuses = a.fuses) (action slot : Nat) (hash : List Byte) :
    b.updateOk action slot hash = a.updateOk action slot hash := by
  unfold Block.updateOk Block.slotBurned Block.slotRevoked
  rw [hfuses]

/-- An image that verifies and names one of R469's actions that its slot admits. -/
def Block.updateSound (b : Block) (image : List Byte) (v : Verdict) : Prop :=
  b.imageCheck typeUpdate image v = 0 ∧ (imgPayload image).length = 52 ∧
    b.updateOk (field (imgPayload image) 0 1) (field (imgPayload image) 1 1) (octets (imgPayload image) 4 48) = true

theorem Block.updateSound_congr (hfuses : b.fuses = a.fuses) (image : List Byte) (v : Verdict) : b.updateSound image v ↔ a.updateSound image v := by
  unfold Block.updateSound
  rw [Block.imageCheck_congr hfuses, Block.updateOk_congr hfuses]

/-- The block once the image's result is told. -/
def Block.updateTold (b : Block) (image : List Byte) (v : Verdict) : Block := b.imageResult image (b.imageCheck typeUpdate image v)

theorem Block.updateTold_keeps (b : Block) (image : List Byte) (v : Verdict) : Keeps [.regs, .ev, .free] b (b.updateTold image v) :=
  Block.imageResult_keeps (.refl _ _) rfl

/-- The fuse that a sound update burns: action 1 burns an owner's slot, 2 revokes one, 3 revokes a vendor's. -/
def Block.updateMade (b : Block) (image : List Byte) : Block :=
  let p := imgPayload image
  let slot := field p 1 1
  if field p 0 1 = 1 then b.burnKey (2 + slot) (octets p 4 48) else if field p 0 1 = 2 then b.revokeKey (2 + slot) else b.revokeKey slot

theorem Block.updateMade_keeps (hb : Keeps ps a b) (hps : partsIn [.fuses] ps = true) (image : List Byte) : Keeps ps a (b.updateMade image) := by
  unfold Block.updateMade
  exact .ite (Block.burnKey_keeps hb hps) (.ite (Block.revokeKey_keeps hb hps) (Block.revokeKey_keeps hb hps))

theorem Block.updateMade_fuses (hfuses : b.fuses = a.fuses) (image : List Byte) : (b.updateMade image).fuses = (a.updateMade image).fuses := by
  unfold Block.updateMade
  dsimp only
  split
  · simp only [Block.burnKey, Block.onFuses, hfuses]
  · split <;> simp only [Block.revokeKey, Block.onFuses, hfuses]

theorem Block.updateTold_fuses (b : Block) (image : List Byte) (v : Verdict) : (b.updateTold image v).fuses = b.fuses :=
  (b.updateTold_keeps image v).fuses_eq rfl

/-- An update that is not sound is refused; a sound one changes the key that it names. -/
theorem Block.ownerUpdate_eq (b : Block) (h : Hdr) (image : List Byte) (v : Verdict) (burns : List Bool) [Decidable (b.updateSound image v)] :
    b.ownerUpdate h image v burns =
      let p := imgPayload image
      let action := field p 0 1
      if b.updateSound image v then
        (b.updateTold image v).keyChange h 0x7C2004 action (field p 1 1) (if action = 1 then 3 else 4) burns (fun b => b.updateMade image)
          fun b => b.landed h 0x7C2004
      else (b.updateTold image v).refuseKey h 0x7C2004 0x07 := by
  have hsound : ((!(b.imageCheck typeUpdate image v == 0)) = true ∨ (imgPayload image).length ≠ 52 ∨
      (!(b.updateTold image v).updateOk (field (imgPayload image) 0 1) (field (imgPayload image) 1 1) (octets (imgPayload image) 4 48)) = true) ↔
      ¬ b.updateSound image v := by
    rw [Block.updateOk_congr (Block.updateTold_fuses ..), Block.updateSound]
    simp only [Bool.not_eq_true', beq_eq_false_iff_ne]
    simp only [← Bool.not_eq_true]
    tauto
  by_cases hok : b.updateSound image v
  · exact (if_neg fun hbad => hsound.mp hbad hok).trans (if_pos hok).symm
  · exact (if_pos (hsound.mpr hok)).trans (if_neg hok).symm

theorem Block.ownerUpdate_unsound {image : List Byte} {v : Verdict} (hbad : ¬ b.updateSound image v) (burns : List Bool) :
    b.ownerUpdate h image v burns = (b.updateTold image v).refuseKey h 0x7C2004 0x07 := by
  classical
  rw [Block.ownerUpdate_eq]
  exact if_neg hbad

section

variable {image : List Byte} {v : Verdict} (hsound : b.updateSound image v)

include hsound

theorem Block.ownerUpdate_warned (hwarn : b.env.warn = true) (burns : List Bool) :
    b.ownerUpdate h image v burns = (b.updateTold image v).refuseKey h 0x7C2004 0x08 := by
  classical
  rw [Block.ownerUpdate_eq]
  refine (if_pos hsound).trans (Block.keyChange_warned ?_)
  rw [(b.updateTold_keeps image v).env_eq rfl, hwarn]

/-- A sound update makes its change, and is acknowledged as the last segment of its download. -/
theorem Block.ownerUpdate_changes (hwarn : b.env.warn = false) :
    (b.ownerUpdate h image v []).fuses = (b.updateMade image).fuses ∧
      Answers b (b.ownerUpdate h image v []) (mkReply h 0x03 0x7C20 4 1 []) := by
  classical
  have htold := b.updateTold_keeps image v
  rw [Block.ownerUpdate_eq]
  dsimp only
  rw [if_pos hsound, Block.keyChange_burns (by rw [htold.env_eq rfl, hwarn])]
  refine ⟨?_, (Block.landed_answers _ h 0x7C2004).of_keeps (ps := [.fuses, .regs, .ev, .free]) ?_ rfl⟩
  · rw [Block.landed_fuses, Block.raise_fuses, Block.updateMade_fuses (Block.updateTold_fuses ..)]
  · exact Block.raise_keeps (Block.updateMade_keeps (Block.imageResult_keeps (.refl _ _) rfl) rfl _) rfl

end

/-- What an update that takes its slot's fuse says of the three rows, each of which carries one. -/
theorem does_of_ownerUpdate {s : State} {image : List Byte} {v : Verdict} {burns : List Bool} {i : Instr} {P : Block → Prop}
    (hi : i = .ownerKeyBurn h image v burns ∨ i = .ownerKeyRevoke h image v burns ∨ i = .vendorKeyRevoke h image v burns)
    (hw : s.blk.writable h 0x7C2004 image.length = true) (hP : P ((s.blk.taken h).ownerUpdate h image v burns)) : Does i s P := by
  obtain rfl | rfl | rfl := hi <;> exact does_of_writeTo rfl hw hP

end

/-- Settles O54: what the commit, the first key and the update come to, as they are refused, wait for the supply, or burn. -/
theorem keysAndFloorAreBurned : Obligations.KeysAndFloorAreBurned := by
  unfold Obligations.KeysAndFloorAreBurned
  refine ⟨fun h key s hw => ?_, fun h hash s hw => ⟨fun howned burns => ?_, fun hfree hwarn burns => ?_, fun hfree hwarn => ?_⟩,
    fun h image v s hw => ?_⟩
  · intro f v busy
    have hdoes {P : Block → Prop} (burns : List Bool) (hP : P (f.commitRollback h key.toNat burns)) : Does (.rollbackCommit h key burns) s P :=
      does_of_writeTo rfl hw hP
    have hversion : f.activeVersion = s.blk.activeVersion := Block.taken_activeVersion ..
    have hfuses : f.fuses = s.blk.fuses := Block.taken_fuses ..
    have hbusy : (f.env.warn || f.downloading || f.flashWriting || f.shadowBelow (min f.activeVersion 256)) = busy := by
      rw [hversion, Block.taken_shadowBelow, Block.taken_env]
    refine ⟨fun burns hbad => hdoes burns ?_, fun burns hkey hbelow hwaits => hdoes burns ?_, fun hkey hbelow hfree => hdoes [] ?_,
      fun hkey hbelow hfree => hdoes [false, false] ?_⟩
    · rw [Block.commitRollback_outside (by rwa [hversion, hfuses])]
      exact ⟨by rw [Block.refuseKey_fuses, hfuses], Block.refuseKey_refuses ..⟩
    · rw [Block.commitRollback_busy hkey (by rwa [hversion, hfuses]) (hbusy.trans hwaits)]
      exact ⟨by rw [Block.refuseKey_fuses, hfuses], Block.refuseKey_refuses ..⟩
    · rw [Block.commitRollback_burns hkey (by rwa [hversion, hfuses]) (hbusy.trans hfree), Block.burnFloor_all]
      dsimp only
      rw [if_pos rfl]
      refine ⟨?_, Acks.after (Block.raise_keeps (Block.onFuses_keeps (.refl [.fuses, .regs, .ev] _) rfl) rfl) rfl (Block.taken_landings ..)⟩
      rw [Block.ack_fuses, Block.raise_fuses, Block.onFuses_fuses, hfuses, hversion]
      congr 1
      omega
    · have hmost : v ≤ s.blk.activeVersion := Nat.min_le_left ..
      rw [Block.commitRollback_burns hkey (by rw [hversion, hfuses]; omega) (hbusy.trans hfree)]
      obtain ⟨hfails, hburnt⟩ := Block.burnFloor_none (n := min f.activeVersion 256 - f.fuses.floor) (by rw [hversion, hfuses]; omega) f
      dsimp only
      rw [if_neg (by simp [hfails]), hburnt]
      exact ⟨by rw [Block.refuseKey_fuses, Block.burn_fuses, hfuses], Refuses.after (Block.burn_keeps (.refl [.regs, .ev] _) rfl) rfl⟩
  · refine does_of_writeTo rfl hw ?_
    rw [Block.firstKey, if_pos (by rwa [Block.taken_owned])]
    exact ⟨by rw [Block.refuseKey_fuses, Block.taken_fuses], Block.refuseKey_refuses ..⟩
  · refine does_of_writeTo rfl hw ?_
    rw [Block.firstKey, if_neg (by simp [Block.taken_owned, hfree]), Block.keyChange_warned (by rwa [Block.taken_env])]
    exact ⟨by rw [Block.refuseKey_fuses, Block.taken_fuses], Block.refuseKey_refuses ..⟩
  · refine does_of_writeTo rfl hw ?_
    rw [Block.firstKey, if_neg (by simp [Block.taken_owned, hfree]), Block.keyChange_burns (by rwa [Block.taken_env])]
    refine ⟨?_, Acks.after (Block.raise_keeps (Block.burnKey_keeps (.refl [.fuses, .regs, .ev] _) rfl) rfl) rfl (Block.taken_landings ..)⟩
    rw [Block.ack_fuses, Block.raise_fuses, Block.burnKey, Block.onFuses_fuses, Block.taken_fuses]
    rfl
  · intro f p slot hash sound landed
    have hsound : sound ↔ f.updateSound image v := (Block.updateSound_congr (Block.taken_fuses ..) ..).symm
    have hfuses (b : Block) (hb : Keeps [.regs, .ev, .free] f b) (code : Nat) : (b.refuseKey h 0x7C2004 code).fuses = s.blk.fuses := by
      rw [Block.refuseKey_fuses, hb.fuses_eq rfl, Block.taken_fuses]
    refine ⟨fun i burns hi => ⟨fun hbad => does_of_ownerUpdate hi hw ?_, fun hok hwarn => does_of_ownerUpdate hi hw ?_⟩, fun hok hwarn => ?_⟩
    · rw [Block.ownerUpdate_unsound (mt hsound.mpr hbad)]
      exact ⟨hfuses _ (Block.updateTold_keeps ..) _, Refuses.after (Block.updateTold_keeps ..) rfl⟩
    · rw [Block.ownerUpdate_warned (hsound.mp hok) (by rwa [Block.taken_env])]
      exact ⟨hfuses _ (Block.updateTold_keeps ..) _, Refuses.after (Block.updateTold_keeps ..) rfl⟩
    · obtain ⟨hburnt, hanswers⟩ := Block.ownerUpdate_changes (h := h) (hsound.mp hok) (by rwa [Block.taken_env])
      rw [Block.updateMade_fuses (Block.taken_fuses ..)] at hburnt
      refine ⟨fun haction => does_of_ownerUpdate (.inl rfl) hw ⟨?_, hanswers⟩, fun haction => does_of_ownerUpdate (.inr (.inl rfl)) hw ⟨?_, hanswers⟩,
        fun haction => does_of_ownerUpdate (.inr (.inr rfl)) hw ⟨?_, hanswers⟩⟩
      · rw [hburnt, Block.updateMade, if_pos haction]
        rfl
      · rw [hburnt, Block.updateMade, if_neg (ne_of_eq_of_ne haction (by decide)), if_pos haction]
        rfl
      · rw [hburnt, Block.updateMade, if_neg (ne_of_eq_of_ne haction (by decide)), if_neg (ne_of_eq_of_ne haction (by decide))]
        rfl

/-! ### Controllers (R408, R519) -/

section

variable {a b x y : Block} {busB : Bool} {c : CanCtl} {ps : List Part}

/-- One controller has become c, and the other is as it was. -/
structure CanIs (a b : Block) (busB : Bool) (c : CanCtl) : Prop where
  here : b.can busB = c
  other : b.can (!busB) = a.can (!busB)

theorem CanIs.onCan (b : Block) (busB : Bool) (f : CanCtl → CanCtl) : CanIs b (b.onCan busB f) busB (f (b.can busB)) := by
  cases busB <;> exact ⟨rfl, rfl⟩

theorem CanIs.then (hx : CanIs a x busB c) (hA : y.dict.canA = x.dict.canA) (hB : y.dict.canB = x.dict.canB) : CanIs a y busB c := by
  have hcan (bus : Bool) : y.can bus = x.can bus := by unfold Block.can; rw [hA, hB]
  exact ⟨(hcan _).trans hx.here, (hcan _).trans hx.other⟩

theorem CanIs.keeps (hx : CanIs a x busB c) (hxy : Keeps ps x y) (hps : ps.contains .dict = false) : CanIs a y busB c :=
  hx.then (hxy.canA_eq hps) (hxy.canB_eq hps)

theorem CanIs.busOff (b : Block) (busB : Bool) : CanIs b (b.busOff busB) busB { b.can busB with state := 3 } := by
  have hstate := (CanIs.onCan b busB fun c => { c with state := 3 }).keeps (Block.bump_keeps (key := 0x105103 + flag busB) (n := 1) (.refl [.regs] _) rfl) rfl
  refine CanIs.keeps (ps := [.regs, .ev]) ?_ (Block.raise_keeps (.refl _ _) rfl) rfl
  exact hstate.then rfl rfl

theorem Block.onCan_dict (b : Block) (busB : Bool) (f : CanCtl → CanCtl) :
    (b.onCan busB f).dict = { b.dict with canA := (b.onCan busB f).dict.canA, canB := (b.onCan busB f).dict.canB } := by
  cases busB <;> rfl

theorem Block.onCan_reg (b : Block) (busB : Bool) (f : CanCtl → CanCtl) (k : Nat) : (b.onCan busB f).reg k = b.reg k :=
  Block.reg_congr k (by rw [Block.onCan_dict]) rfl rfl rfl rfl

theorem Block.busOff_sessions (b : Block) (busB : Bool) : (b.busOff busB).dict.sessions = b.dict.sessions := by
  rw [Block.busOff, Block.raise_sessions, Block.onDict, Block.bump_sessions, Block.onCan_dict]

theorem Block.busOff_transfers (b : Block) (busB : Bool) :
    (b.busOff busB).dict.transfers = b.dict.transfers.filter fun t => !onBus busB t.hdr.origin := by
  rw [Block.busOff, Block.raise_transfers, Block.onDict, Block.bump_transfers, Block.onCan_dict]

theorem Block.busOff_count (b : Block) (busB : Bool) : (b.busOff busB).reg (0x105103 + flag busB) = b.reg (0x105103 + flag busB) + 1 := by
  have hkey : 0x105103 + flag busB < 0x780000 := by cases busB <;> decide
  rw [Block.busOff, Block.reg_raise_low _ _ _ hkey]
  exact (Block.reg_bump_same ..).trans (by rw [Block.onCan_reg])

/-! ### Frames of the device's own (R410, R411) -/

/-- Frames sent in turn, each the same but for its bus. -/
theorem Block.canSend_each (l : List Nat) (b : Block) (body : List Byte) :
    (forEach l b fun bus b => b.canSend bus (canId 5 0 (b.reg 0x100101) 0) body).dict.canOut =
        b.dict.canOut ++ l.map (fun bus => ⟨bus, canId 5 0 (b.reg 0x100101) 0, body⟩) ∧
      (forEach l b fun bus b => b.canSend bus (canId 5 0 (b.reg 0x100101) 0) body).dict.regs = b.dict.regs := by
  induction l generalizing b with
  | nil => exact ⟨(List.append_nil _).symm, rfl⟩
  | cons bus l ih =>
    obtain ⟨hout, hregs⟩ := ih (b.canSend bus (canId 5 0 (b.reg 0x100101) 0) body)
    refine ⟨?_, hregs⟩
    rw [List.map_cons, List.append_cons]
    exact hout

theorem Block.identify_named (b : Block) (busB : Bool) (src : Nat) {node : Nat} (hleast : 1 ≤ node) (hmost : node ≤ 126) :
    b.identify busB src b.fuses.identity.toNat node =
      (b.setReg 0x100101 node).canSend (flag busB) (canId 6 src node 0) (bytesLE 8 b.fuses.identity.toNat ++ bytesLE 1 node) :=
  if_pos ⟨rfl, hleast, hmost⟩

theorem Block.identify_other (b : Block) (busB : Bool) (src : Nat) {identity node : Nat} (hother : identity ≠ b.fuses.identity.toNat) :
    b.identify busB src identity node = b := if_neg fun h => hother h.1

end

/-- Settles O51: each command changes the one controller, or sends the one frame, that it names. -/
theorem canControllersRun : Obligations.CanControllersRun := by
  unfold Obligations.CanControllersRun
  intro busB s hserved
  refine ⟨fun hup => ⟨?_, fun counters => ?_, fun counters => ?_, fun src identity node => ⟨fun hidentity hleast hmost => ?_, fun hother => ?_⟩⟩,
    fun hoff => ?_, fun hon => ?_, fun henabled => ⟨?_, ?_⟩, fun hperiod => ?_, fun hperiod => ?_⟩
  · refine does_of_when rfl (by simp [hserved, hup]) ?_
    have hcan := CanIs.busOff s.blk busB
    exact ⟨hcan.here, hcan.other, Block.busOff_sessions .., Block.busOff_transfers .., Block.busOff_count ..,
      Block.latched_raise_self _ (by decide) _⟩
  · refine does_of_when rfl (by simp [hserved, hup]) ?_
    have hcan := (CanIs.onCan s.blk busB fun c => { c with state := 2 }).keeps
      (Block.raise_keeps (n := 0xDC) (l := [.id 8 (flag busB), .id 16 counters.toNat]) (.refl [.regs, .ev] _) rfl) rfl
    exact ⟨hcan.here, hcan.other, Block.latched_raise_self _ (by decide) _⟩
  · refine does_of_when rfl (by simp [hserved, hup]) ?_
    have hcan := CanIs.onCan s.blk busB fun c => { c with state := 1 }
    exact ⟨hcan.here, hcan.other, rfl⟩
  · refine does_of_when rfl (by simp [hserved, hup]) ?_
    subst hidentity
    rw [Block.identify_named _ _ _ hleast hmost]
    exact ⟨Block.reg_setReg_same .., rfl⟩
  · exact exec_of_when_same rfl (Block.identify_other _ _ _ fun h => hother (BitVec.eq_of_toNat_eq h))
  · refine does_of_when rfl (by simp [hserved, hoff]) ?_
    have hcan := (CanIs.onCan s.blk busB fun c => { c with state := 1 }).keeps
      (Block.raise_keeps (n := 0xDB) (l := [.id 8 (flag busB)]) (.refl [.regs, .ev] _) rfl) rfl
    exact ⟨hcan.here, hcan.other, Block.latched_raise_self _ (by decide) _⟩
  · exact exec_of_not_when rfl (by simp [hon])
  · exact does_of_when rfl (by simp [hserved, henabled]) (Block.reg_bump_same ..)
  · refine does_of_when rfl (by simp [hserved, henabled]) ?_
    have hcan := CanIs.onCan s.blk busB fun c => { c with listen := false }
    exact ⟨hcan.here, hcan.other, by rw [Block.onCan_dict]⟩
  · refine does_of_when rfl (by simp [hserved, hperiod]) ?_
    obtain ⟨hout, hregs⟩ := Block.canSend_each ((List.range 2).filter s.blk.busRuns) s.blk _
    exact ⟨hregs, hout⟩
  · exact exec_of_not_when rfl (by simp [hperiod])

end Sys2Proof.Machine
end

section
/-! PROOFS. Folios by the staging store and the flash (R231, R436, R437), and retirement (R381 to R387). -/

namespace Sys2Proof.Machine

/-! ### The staging store (R231, R436, R437) -/

section

variable {b : Block} {h : Hdr} {c : CfgSet} {n : Nat} {image : List Byte} {v : Verdict}

theorem Block.flashRead_staged (b : Block) (image : List Byte) :
    (b.flashRead image).sets.staging = .verifying ∧ (b.flashRead image).sets.image = image ∧ (b.flashRead image).boot.fromFlash = true :=
  ⟨rfl, rfl, rfl⟩

/-- The block in which the image of the staging store has been processed, before what becomes of it. -/
def Block.processed (b : Block) (v : Verdict) : Block := ((b.bootTime 2).folioVerify b.sets.image v).2

theorem Block.processed_keeps (b : Block) (v : Verdict) : Keeps [.boot, .regs, .ev, .free] b (b.processed v) :=
  Block.folioVerify_keeps (Block.bootTime_keeps (.refl _ _) rfl) rfl

theorem Block.folioProcessed_accepted (hby : b.sets.by_ = some (h, false))
    (hok : ((b.bootTime 2).folioVerify b.sets.image v).1 = .ok c) (hactive : b.sets.act.isSome = true) :
    b.folioProcessed v =
      ((b.processed v).onSets fun s => { s with waiting := some c, staging := .waiting, by_ := none }).landed h 0x202001 := by
  have hact : (b.processed v).sets.act.isNone ≠ true := by
    rw [(b.processed_keeps v).sets_eq rfl]
    simpa [Option.isSome_iff_ne_none] using hactive
  simp only [Block.folioProcessed, hby, hok]
  rw [← Block.processed, Block.downloadAccepted, if_neg hact]
  exact if_neg (by decide)

theorem Block.folioProcessed_refused (hby : b.sets.by_ = some (h, false))
    (herror : ((b.bootTime 2).folioVerify b.sets.image v).1 = .error n) :
    b.folioProcessed v =
      ((b.processed v).onSets fun s => { s with staging := .idle, image := [], by_ := none }).refuseKey h 0x202001 0x1B := by
  simp only [Block.folioProcessed, hby, herror]
  exact if_neg (by decide)

/-- The staging store is no entry, and no event. -/
theorem Block.restage_entry {k m : Nat} {f : Sets → Sets} (hb : EntryIs k m b) (hf : (b.onSets f).active = b.active) :
    EntryIs k m (b.onSets f) := hb.same (Block.reg_congr k rfl rfl rfl rfl hf)

theorem Block.restage_latched {m : Nat} {f : Sets → Sets} (hb : Latches m b) (hf : (b.onSets f).active = b.active) : Latches m (b.onSets f) :=
  hb.same (by unfold Block.latched; rw [Block.reg_congr (b := b.onSets f) (a := b) _ rfl rfl rfl rfl hf])

/-- A folio that fails leaves its code in 2020.02, and is told. -/
theorem Block.folioVerify_told (herror : (b.folioVerify image v).1 = .error n) :
    EntryIs 0x202002 n (b.folioVerify image v).2 ∧ Latches 0x16 (b.folioVerify image v).2 := by
  unfold Block.folioVerify at *
  dsimp only at *
  cases hcheck : (b.folioChecks image v).1 with
  | ok c => simp [hcheck] at herror
  | error m =>
    simp only [hcheck, Except.error.injEq] at herror ⊢
    subst herror
    exact ⟨(EntryIs.set _ (by decide) _).raise (by decide) _, by decide, Block.latched_raise_self _ (by decide) _⟩

/-! ### The flash (R436) -/

theorem Block.folioWrite_taken (hidle : b.downloadBusy 0x101505 = false) (hflash : b.hasFlash = true)
    (hok : (b.folioVerify image v).1 = .ok c) :
    b.folioWrite h image v = (b.folioVerify image v).2.onBoot fun k =>
      { k with bootWriteSlot := some (image, c.folio.serial), bootWriteBy := some (h, 1 - b.flash.preferred, false) } := by
  rw [Block.folioWrite, if_neg (by simp [hidle]), if_neg (by simp [hflash])]
  dsimp only
  rw [hok]

theorem Block.sealed_keeps_answer (b : Block) (h : Hdr) (slot serial : Nat) (silent : Bool) (image : List Byte) :
    (b.sealed true h slot silent image serial).flash = b.flash.putSlot slot image serial ∧
      (b.sealed true h slot silent image serial).boot.bootWriteSlot = none ∧
      (silent = false → Answers b (b.sealed true h slot silent image serial) (mkReply h 0x03 0x1015 5 1 [])) := by
  rw [Block.sealed, if_pos rfl]
  dsimp only
  cases silent with
  | true => exact ⟨rfl, rfl, nofun⟩
  | false =>
    rw [if_neg (by decide)]
    exact ⟨Block.landed_flash .., by rw [Block.landed_boot]; rfl, fun _ => Answers.of_dict (Block.landed_answers ..) rfl⟩

end

/-- Settles O11: the image stands in the staging store, its folio waits or is refused, and the flash takes it by its slot. -/
theorem foliosComeInByTheStagingStore : Obligations.FoliosComeInByTheStagingStore := by
  unfold Obligations.FoliosComeInByTheStagingStore
  refine ⟨fun image s hrun hflash hact hnone hfrom hby hstaging => ?_, fun v h s hrun hstaging hby hmute => ⟨fun c hok hactive => ?_, fun n herror => ?_⟩,
    fun h image v c s hw hidle hflash hok => ?_, fun image serial h slot silent s hwrite hby => ?_⟩
  · refine does_of_when rfl ?_ (Block.flashRead_staged ..)
    have hplace : (s.blk.sets.staging == .receiving || (!s.blk.cRole && s.blk.sets.staging == .idle)) = true := by
      rcases hstaging with hreceives | ⟨hrole, hidle⟩
      · simp [hreceives]
      · simp [Block.cRole, hrole, hidle]
    rw [hrun, hflash, hact, hnone, hfrom, hby, hplace]
    rfl
  · refine does_of_when rfl (by simp [hrun, hstaging]) ?_
    rw [Block.folioProcessed_accepted hby hok hactive]
    have hkeeps := s.blk.processed_keeps v
    refine ⟨by rw [Block.landed_sets]; rfl, by rw [Block.landed_sets]; rfl, by rw [Block.landed_sets]; rfl, ?_⟩
    exact Answers.of_keeps (b := s.blk.processed v) (Answers.of_dict (Block.landed_answers _ h 0x202001) rfl) hkeeps rfl
  · refine does_of_when rfl (by simp [hrun, hstaging]) ?_
    rw [Block.folioProcessed_refused hby herror]
    have hkeeps := s.blk.processed_keeps v
    obtain ⟨hcode, htold⟩ := Block.folioVerify_told herror
    refine ⟨by rw [Block.refuseKey_sets]; rfl, by rw [Block.refuseKey_sets]; rfl, by rw [Block.refuseKey_sets]; rfl,
      by rw [Block.refuseKey_sets, ← hkeeps.sets_eq rfl]; rfl, ((Block.restage_entry hcode rfl).refuseKey _ _ _).reg,
      ((Block.restage_latched htold rfl).refuseKey _ _ _).set, ?_⟩
    exact Answers.of_keeps (b := s.blk.processed v) (Answers.of_dict (Block.refuseKey_refuses _ h 0x202001 0x1B) rfl) hkeeps rfl
  · refine does_of_writeTo rfl hw ?_
    rw [Block.folioWrite_taken hidle (by unfold Block.hasFlash; rw [Block.taken_flash]; exact hflash) hok]
    exact ⟨rfl, by rw [Block.onBoot, Block.taken_flash]⟩
  · refine does_of_next (b := s.blk.sealed true h slot silent image serial) ?_ (Block.sealed_keeps_answer ..)
    show execBootRecordSealed true s = _
    rw [execBootRecordSealed, State.run, hwrite, hby]

end Sys2Proof.Machine
end

section
/-! PROOFS. Retirement: the plan boundary, the flash copy of the list, and sites restored and retired by command (R381 to R387). -/

namespace Sys2Proof.Machine

/-! ### Halves that wake tell of it and write no other entry (R293) -/

section

variable {k v : Nat} {b : Block}

theorem EntryIs.trainRx_of_idle (hb : EntryIs k v b) {l : Nat} (hrx : (b.lane l).rx ≠ .active) : EntryIs k v (b.trainRx l) := by
  have hlost : EntryIs k v (b.lastLost l) := by
    have hkept : Keeps [.frm] b (b.lastLost l) := Block.lastLost_keeps_of_idle (.refl _ _) hrx rfl
    exact hb.same (hkept.reg_eq rfl rfl rfl rfl k)
  have hstarted := hlost.same (y := (b.lastLost l).onLane l fun q => { startStep q with rx := .training, attempts := 1, placed := none }) rfl
  exact .ite hb (.ite ((hstarted.raise (by decide) _).raise (by decide) _) (hstarted.raise (by decide) _))

theorem EntryIs.trainTx (hb : EntryIs k v b) (l : Nat) : EntryIs k v (b.trainTx l) := by
  have hstarted := hb.same (y := b.onLane l fun q => { q with tx := .training }) rfl
  exact .ite hb (.ite hstarted (.ite ((hstarted.raise (by decide) _).raise (by decide) _) (hstarted.raise (by decide) _)))

theorem EntryIs.wakeLinks (hb : EntryIs k v b) : EntryIs k v b.wakeLinks := by
  refine .forEach hb fun link x hx => .forEach (.forEach hx fun l y hy => ?_) fun l y hy => .ite (hy.trainTx l) hy
  split
  next hidle => exact hy.trainRx_of_idle (by intro hact; simp [hact] at hidle)
  next => exact hy

/-- An entry that stands among those written does not go by its default. -/
theorem EntryIs.of_written (hk : plainKey k = true) (hfind : tabFind b.dict.regs k = some v) : EntryIs k v b :=
  ⟨hk, by rw [Block.reg, hfind]⟩

end

/-! ### The plan boundary (R383, R384) -/

section

variable {a b x y : Block} {ps : List Part}

/-- What a plan leaves of the set in force's own state, before it is told. -/
def Block.planHeld (b : Block) (p : Option RetPlan) : Block :=
  let b := b.onSets fun s => { s with planCuts := p, planList := (p.map RetPlan.list).getD [] }
  let b := b.onFlt fun f => { f with plan := planNumber p, reduced := (p.map RetPlan.reduced).getD false }
  if b.cRole then b else b.onAdc fun a => { a with maskCut := p.map RetPlan.mask }

theorem Block.putPlan_held (b : Block) (p : Option RetPlan) : Keeps [.frm, .regs, .ev] (b.planHeld p) (b.putPlan p) := by
  unfold Block.putPlan
  exact .ite (Block.wakeLinks_keeps_idle (Block.raise_keeps (.refl _ _) rfl) rfl) (.refl _ _)

theorem Block.planHeld_flt (b : Block) (p : Option RetPlan) :
    (b.planHeld p).flt = { b.flt with plan := planNumber p, reduced := (p.map RetPlan.reduced).getD false } := by
  unfold Block.planHeld
  dsimp only
  split <;> rfl

theorem Block.planHeld_cuts (b : Block) (p : Option RetPlan) : (b.planHeld p).sets.planCuts = p := by
  unfold Block.planHeld
  dsimp only
  split <;> rfl

theorem Block.planHeld_regs (b : Block) (p : Option RetPlan) : (b.planHeld p).dict.regs = b.dict.regs := by
  unfold Block.planHeld
  dsimp only
  split <;> rfl

theorem Block.putPlan_flt (b : Block) (p : Option RetPlan) :
    (b.putPlan p).flt = { b.flt with plan := planNumber p, reduced := (p.map RetPlan.reduced).getD false } :=
  ((b.putPlan_held p).flt_eq rfl).trans (b.planHeld_flt p)

theorem Block.putPlan_cuts (b : Block) (p : Option RetPlan) : (b.putPlan p).sets.planCuts = p := by
  rw [(b.putPlan_held p).sets_eq rfl, Block.planHeld_cuts]

theorem EntryIs.putPlan_written {k v : Nat} (hk : plainKey k = true) (hfind : tabFind b.dict.regs k = some v) (p : Option RetPlan) :
    EntryIs k v (b.putPlan p) := by
  have hheld : EntryIs k v (b.planHeld p) := .of_written hk (by rwa [Block.planHeld_regs])
  exact .ite (hheld.raise (by decide) _).wakeLinks hheld

/-- Whatever plan comes into force, of the fault state it changes the plan and no more. -/
theorem Block.putKeyed_flt (b : Block) : ∃ n r, b.putKeyed.flt = { b.flt with plan := n, reduced := r } := by
  unfold Block.putKeyed
  split
  · exact ⟨_, _, b.putPlan_flt none⟩
  · split
    · next p _ => exact ⟨_, _, b.putPlan_flt (some p)⟩
    · exact ⟨0, false, by rw [(Block.freeNext_keeps (.refl [.free] _) rfl).flt_eq rfl, Block.raise_flt]; rfl⟩

/-! No port counts as excluded. -/

/-- No port is excluded from the release. -/
structure NoneOut (b : Block) : Prop where
  ports : ∀ p ∈ b.mrg.ports, p.2.excluded = false

theorem NoneOut.port (hb : NoneOut b) (p : Nat) : (b.port p).excluded = false := by
  have hfound : ∀ t : Tab PortSt, (∀ q ∈ t, q.2.excluded = false) → (tabGet {} t p).excluded = false := by
    intro t ht
    induction t with
    | nil => rfl
    | cons q t ih =>
      obtain ⟨hq, ht⟩ := List.forall_mem_cons.mp ht
      simp only [tabGet, tabFind] at ih ⊢
      split
      · exact hq
      · exact ih ht
  exact hfound _ hb.ports

theorem NoneOut.onPort (hb : NoneOut b) (p : Nat) {f : PortSt → PortSt} (hf : ∀ q, (f q).excluded = q.excluded) : NoneOut (b.onPort p f) := by
  refine ⟨fun q hq => ?_⟩
  obtain hq | rfl := mem_tabSet hq
  · exact hb.ports q hq
  · exact (hf _).trans (hb.port p)

theorem NoneOut.keeps (hx : NoneOut x) (hxy : Keeps ps x y) (hps : ps.contains .mrg = false) : NoneOut y :=
  ⟨by rw [hxy.mrg_eq hps]; exact hx.ports⟩

theorem NoneOut.forEach {α : Type} {l : List α} {f : α → Block → Block} (hb : NoneOut b) (hf : ∀ i x, NoneOut x → NoneOut (f i x)) :
    NoneOut (forEach l b f) := List.foldlRecOn (motive := NoneOut) l _ hb fun x hx i _ => hf i x hx

theorem NoneOut.onLane (hb : NoneOut b) (l : Nat) (f : LaneSt → LaneSt) : NoneOut (b.onLane l f) :=
  hb.keeps (Block.onLane_keeps (.refl [.frm] b) rfl) rfl

theorem NoneOut.settlePorts (hb : NoneOut b) (gone : List Nat) : NoneOut (b.settlePorts gone) := by
  refine .forEach (.forEach hb fun p x hx => ?_) fun p x hx => ?_
  · exact NoneOut.onPort (.forEach hx fun l z hz => hz.onLane l _) p fun _ => rfl
  · exact NoneOut.onPort (.forEach hx fun l z hz => hz.onLane l _) p fun _ => rfl

/-- Nothing is retired where no slice, no lane, no port is, and no port is excluded. -/
theorem Block.anyRetired_false (b : Block) :
    b.anyRetired = false ↔ b.retiredSlices = 0 ∧ b.retiredOf 2 = [] ∧ b.retiredOf 4 = [] ∧ NoneOut b := by
  have hports : b.retiredPorts = [] ↔ b.retiredOf 4 = [] ∧ NoneOut b := by
    unfold Block.retiredPorts
    dsimp only
    rw [List.append_eq_nil_iff]
    refine and_congr_right fun hnone => ?_
    rw [hnone]
    simp only [List.contains_nil, Bool.not_false, List.filter_true, List.map_eq_nil_iff, List.filter_eq_nil_iff, Bool.not_eq_true]
    exact ⟨fun h => ⟨h⟩, fun h => h.ports⟩
  unfold Block.anyRetired
  simp only [Bool.or_eq_false_iff, bne_eq_false_iff_eq, Bool.not_eq_false', List.isEmpty_iff, hports]
  tauto

/-- The block at the boundary, before its plan: the pending retirements have taken effect. -/
def Block.boundarySettled (b : Block) : Block :=
  (b.onFlt fun f => { f with boundary := none, pendLanes := [], pendPorts := [] }).settlePorts b.flt.pendPorts

theorem Block.boundarySettled_keeps (b : Block) :
    Keeps [.mrg, .frm] (b.onFlt fun f => { f with boundary := none, pendLanes := [], pendPorts := [] }) b.boundarySettled :=
  Block.settlePorts_keeps (.refl _ _) rfl

theorem Block.boundarySettled_flt (b : Block) : b.boundarySettled.flt = { b.flt with boundary := none, pendLanes := [], pendPorts := [] } :=
  b.boundarySettled_keeps.flt_eq rfl

theorem Block.boundarySettled_active (b : Block) : b.boundarySettled.active = b.active := by
  unfold Block.active
  rw [b.boundarySettled_keeps.sets_eq rfl]
  rfl

theorem Block.boundarySettled_anyRetired (hnone : b.anyRetired = false) : b.boundarySettled.anyRetired = false := by
  obtain ⟨hslices, hlanes, hports, hout⟩ := b.anyRetired_false.mp hnone
  have hsites (kind : Nat) : b.boundarySettled.retiredOf kind = b.retiredOf kind := by
    unfold Block.retiredOf Block.retiredSites
    rw [Block.boundarySettled_flt]
  refine (Block.anyRetired_false _).mpr ⟨?_, by rw [hsites, hlanes], by rw [hsites, hports], (hout.keeps (Block.onFlt_keeps (.refl [.flt] _) rfl) rfl).settlePorts _⟩
  unfold Block.retiredSlices at *
  rw [b.boundarySettled_keeps.adc_eq rfl]
  exact hslices

/-- The plan of the boundary: the one that has been written, else that of what is retired. -/
def Block.boundaryPlanned (b : Block) (orbit : Nat) : Block :=
  match (if b.cRole then none else b.writtenPlan orbit) with
  | some n => (b.boundarySettled.setReg 0x6C0004 0).putPlan (if n = 0 then none else b.boundarySettled.setReg 0x6C0004 0 |>.planOf n)
  | none => b.boundarySettled.putKeyed

theorem Block.planBoundaryAt_eq (b : Block) (orbit : Nat) : b.planBoundaryAt orbit = (b.boundaryPlanned orbit).wakeLinks.parkLater := rfl

theorem Block.planBoundaryAt_flt (b : Block) (orbit : Nat) : (b.planBoundaryAt orbit).flt = (b.boundaryPlanned orbit).flt := by
  rw [Block.planBoundaryAt_eq]
  exact (Block.wakeLinks_keeps_idle (.refl [.frm, .regs, .ev] _) rfl).flt_eq rfl

theorem Block.planBoundaryAt_cuts (b : Block) (orbit : Nat) : (b.planBoundaryAt orbit).sets.planCuts = (b.boundaryPlanned orbit).sets.planCuts := by
  rw [Block.planBoundaryAt_eq, Block.parkLater, Block.onSets, (Block.wakeLinks_keeps_idle (.refl [.frm, .regs, .ev] _) rfl).sets_eq rfl]

/-- Nothing is pending after the boundary. -/
theorem Block.boundaryPlanned_done (b : Block) (orbit : Nat) : (b.boundaryPlanned orbit).flt.boundary = none ∧
    (b.boundaryPlanned orbit).flt.pendLanes = [] ∧ (b.boundaryPlanned orbit).flt.pendPorts = [] := by
  unfold Block.boundaryPlanned
  split
  · rw [Block.putPlan_flt, Block.setReg, Block.onDict_flt, Block.boundarySettled_flt]
    exact ⟨rfl, rfl, rfl⟩
  · obtain ⟨n, r, hflt⟩ := b.boundarySettled.putKeyed_flt
    rw [hflt, Block.boundarySettled_flt]
    exact ⟨rfl, rfl, rfl⟩

theorem Block.boundaryPlanned_base {orbit : Nat} (hnone : b.anyRetired = false) (hwritten : b.writtenPlan orbit = none) :
    b.boundaryPlanned orbit = b.boundarySettled.putPlan none := by
  rw [Block.boundaryPlanned, hwritten, ite_self]
  exact if_pos (by rw [Block.boundarySettled_anyRetired hnone]; rfl)

theorem Block.boundaryPlanned_written {orbit : Nat} {p : RetPlan} (hrole : b.cRole = false) (hwritten : b.writtenPlan orbit = some p.number)
    (hnumber : p.number ≠ 0) (hplan : b.planOf p.number = some p) :
    b.boundaryPlanned orbit = (b.boundarySettled.setReg 0x6C0004 0).putPlan (some p) := by
  have hfound : (b.boundarySettled.setReg 0x6C0004 0).planOf p.number = some p := by
    unfold Block.planOf at *
    rw [← hplan, ← Block.boundarySettled_active b]
    rfl
  rw [Block.boundaryPlanned, hrole, if_neg (by decide), hwritten]
  show Block.putPlan _ (if p.number = 0 then none else _) = _
  rw [if_neg hnumber, hfound]

/-! ### The flash copy of the list (R386) -/

theorem Block.listWritten_ok (hunsaved : b.flt.unsaved ≠ []) :
    b.listWritten true = (b.onFlash fun f => { f with list := b.flt.list }).onFlt fun t => { t with unsaved := [] } := by
  unfold Block.listWritten
  split
  · contradiction
  · rfl

theorem Block.listWritten_failed (hunsaved : b.flt.unsaved ≠ []) :
    (b.listWritten false).flash = b.flash ∧ (b.listWritten false).flt = b.flt ∧ (b.listWritten false).latched 0xC5 = true := by
  unfold Block.listWritten
  split
  · contradiction
  · exact ⟨Block.raise_flash .., Block.raise_flt .., Block.latched_raise_self _ (by decide) _⟩

theorem Block.listWritten_idle (hunsaved : b.flt.unsaved = []) (ok : Bool) : b.listWritten ok = b := by
  rw [Block.listWritten, hunsaved]

end

/-- Settles O45: the boundary is settled and planned, and the list is copied, or its failure told. -/
theorem plansComeIntoForce : Obligations.PlansComeIntoForce := by
  unfold Obligations.PlansComeIntoForce
  refine fun s => ⟨fun hrun hdue => does_of_when rfl (by rw [hrun, hdue]; rfl) ?_, fun hdue => exec_of_not_when rfl (by rw [hdue, Bool.and_false]),
    fun hflash hunsaved => ?_, fun ok hunsaved => ?_⟩
  · rw [Block.planBoundaryAt_flt, Block.planBoundaryAt_cuts]
    obtain ⟨hboundary, hlanes, hports⟩ := s.blk.boundaryPlanned_done s.blk.time.orbit
    refine ⟨hboundary, hlanes, hports, rfl, fun hnone hwritten => ?_, fun p hrole hwritten hnumber hplan => ?_⟩
    · rw [Block.boundaryPlanned_base hnone hwritten, Block.putPlan_flt, Block.putPlan_cuts]
      exact ⟨rfl, rfl, rfl⟩
    · have hplanned := Block.boundaryPlanned_written hrole hwritten hnumber hplan
      have hspent : EntryIs 0x6C0004 0 (s.blk.boundaryPlanned s.blk.time.orbit) := by
        rw [hplanned]
        exact EntryIs.putPlan_written (by decide) (tabFind_tabSet_same ..) _
      refine ⟨?_, ?_, ?_, (Block.restage_entry hspent.wakeLinks rfl).reg⟩
      · rw [hplanned, Block.putPlan_flt]
        rfl
      · rw [hplanned, Block.putPlan_flt]
        rfl
      · rw [hplanned, Block.putPlan_cuts]
  · have hok : s.blk.listWritten true = _ := Block.listWritten_ok hunsaved
    exact ⟨does_of_when rfl hflash (by rw [hok]; exact ⟨rfl, rfl⟩), does_of_when rfl hflash (Block.listWritten_failed hunsaved),
      does_of_when rfl hflash (by rw [hok]; exact ⟨rfl, rfl⟩), does_of_when rfl hflash (Block.listWritten_failed hunsaved)⟩
  · exact ⟨exec_of_when_same rfl (Block.listWritten_idle hunsaved ok), exec_of_when_same rfl (Block.listWritten_idle hunsaved ok)⟩

/-! ### Sites restored (R387) -/

section

variable {a b x y : Block} {ps : List Part} {h : Hdr} {id : Nat}

/-- The retirement list and the histories of the sites are those of another block. -/
structure ListIs (a b : Block) : Prop where
  list : b.flt.list = a.flt.list
  sites : b.flt.sites = a.flt.sites

theorem ListIs.keeps (hx : ListIs a x) (hxy : Keeps ps x y) (hps : ps.contains .flt = false) : ListIs a y := by
  exact ⟨by rw [hxy.flt_eq hps, hx.list], by rw [hxy.flt_eq hps, hx.sites]⟩

theorem ListIs.planDue (hb : ListIs a b) (lanes ports tell : List Nat) : ListIs a (b.planDue lanes ports tell) := ⟨hb.list, hb.sites⟩

theorem ListIs.restoreEffect (b : Block) (id : Nat) : ListIs b (b.restoreEffect id) := by
  have hrefl : ListIs b b := ⟨rfl, rfl⟩
  unfold Block.restoreEffect
  dsimp only
  split
  · exact hrefl.keeps (Block.settleFrom_keeps (Block.onChan_keeps (.refl [.chans] _) rfl) rfl) rfl
  · have hlane := hrefl.keeps (Block.onLane_keeps (l := id % 4096) (f := fun k =>
      { k with tx := if k.tx = .retired then .off else k.tx, rx := if k.rx = .retired then .off else k.rx }) (.refl [.frm] _) rfl) rfl
    split
    · exact hlane.planDue _ _ _
    · exact hlane
  · split <;> exact ⟨rfl, rfl⟩
  · exact hrefl.planDue _ _ _
  · exact hrefl.keeps (Block.onUplink_keeps (Block.setReg_keeps (.refl [.regs, .mrg] _) rfl) rfl) rfl
  · exact hrefl

theorem Block.restoreOne_sites (b : Block) (id : Nat) : (b.restoreOne id).flt.sites = tabDel b.flt.sites id := by
  rw [Block.restoreOne, Block.raise_flt, (ListIs.restoreEffect _ id).sites]
  rfl

theorem Block.restoreOne_list (b : Block) (id : Nat) :
    (b.restoreOne id).flt.list = b.flt.list.filter fun w => bits w.toNat 63 48 != id := by
  rw [Block.restoreOne, Block.raise_flt, (ListIs.restoreEffect _ id).list]
  rfl

theorem Block.restoreOne_flash (b : Block) (id : Nat) :
    (b.restoreOne id).flash.list = b.flash.list.filter fun w => bits w.toNat 63 48 != id := by
  rw [Block.restoreOne, Block.raise_flash, (Block.restoreEffect_keeps (.refl [.chans, .adc, .mrg, .frm, .flt, .regs] _) rfl).flash_eq rfl]
  rfl

theorem Block.restoreAll_site (l : List Nat) {b : Block} (hi : id ∈ l ∨ tabFind b.flt.sites id = none) :
    tabFind (forEach l b fun i b => b.restoreOne i).flt.sites id = none := by
  induction l generalizing b with
  | nil => exact hi.resolve_left (List.not_mem_nil)
  | cons i l ih =>
    refine ih (b := b.restoreOne i) ?_
    rw [Block.restoreOne_sites]
    by_cases hid : id = i
    · exact .inr (hid ▸ tabFind_tabDel_same ..)
    · rw [tabFind_tabDel_ne _ hid]
      exact hi.imp_left fun hmem => (List.mem_cons.mp hmem).resolve_left hid

theorem Block.taken_retiredSites (b : Block) (h : Hdr) : (b.taken h).retiredSites = b.retiredSites := by
  unfold Block.retiredSites
  rw [Block.taken_flt]

/-- What restoring leaves of the dictionary's answers. -/
theorem Block.restoreOne_rest (b : Block) (id : Nat) : Keeps [.flash, .chans, .adc, .mrg, .frm, .flt, .regs, .ev] b (b.restoreOne id) :=
  Block.restoreOne_keeps (.refl _ _) rfl

/-! ### Sites retired (R387) -/

/-- Site id is retired. -/
structure SiteGone (id : Nat) (b : Block) : Prop where
  state : (b.site id).state = 2

theorem SiteGone.same (hx : SiteGone id x) (hxy : y.flt.sites = x.flt.sites) : SiteGone id y :=
  ⟨by rw [Block.site, hxy]; exact hx.state⟩

theorem SiteGone.keeps (hx : SiteGone id x) (hxy : Keeps ps x y) (hps : ps.contains .flt = false) : SiteGone id y :=
  hx.same (by rw [hxy.flt_eq hps])

theorem SiteGone.onSite (n : Nat) (hb : id = n ∨ SiteGone id b) : SiteGone id (b.onSite n fun k => { k with state := 2 }) := by
  constructor
  by_cases hid : id = n
  · subst hid
    rw [Block.site, Block.onSite, Block.onFlt, tabGet_tabMod_same]
  · rw [Block.site, Block.onSite, Block.onFlt, tabGet_tabMod_ne _ _ _ hid]
    exact (hb.resolve_left hid).state

theorem Block.retireLane_sites (b : Block) (l : Nat) : (b.retireLane l).flt.sites = b.flt.sites := by
  unfold Block.retireLane
  split
  · split <;> rfl
  · split
    · rfl
    · split <;> rfl

theorem Block.retireEffect_sites (b : Block) (n : Nat) : (b.retireEffect n).flt.sites = b.flt.sites := by
  unfold Block.retireEffect
  dsimp only
  split
  · rfl
  · exact Block.retireLane_sites ..
  · rfl
  · rfl
  · rw [Block.raise_flt]
    rfl
  · rfl

theorem Block.listSite_sites (b : Block) (n cause : Nat) (adopted byCommand : Bool) :
    (b.listSite n cause adopted byCommand).flt.sites = b.flt.sites := by
  unfold Block.listSite
  split
  · rw [Block.raise_flt]
  · rfl

theorem SiteGone.retireOne (n : Nat) (hb : id = n ∨ SiteGone id b) (cause : Nat) (adopted byCommand : Bool) :
    SiteGone id (b.retireOne n cause adopted byCommand) := by
  refine SiteGone.keeps (ps := [.mrg, .twin, .regs, .ev, .free]) ?_ (Block.retiredMessage_keeps (.refl _ _) rfl) rfl
  exact (SiteGone.onSite n hb).same (by rw [Block.listSite_sites, Block.retireEffect_sites])

theorem SiteGone.retire (id : Nat) (b : Block) (cause : Nat) (adopted byCommand : Bool) : SiteGone id (b.retire id cause adopted byCommand) := by
  have hone : SiteGone id (b.retireOne id cause adopted byCommand) := .retireOne id (.inl rfl) _ _ _
  unfold Block.retire
  dsimp only
  split
  · split
    · exact hone
    · exact .retireOne _ (.inr hone) _ _ _
  · exact hone

theorem Block.siteExists_congr (hrole : b.cRole = a.cRole) (id : Nat) : b.siteExists id = a.siteExists id := by
  unfold Block.siteExists
  rw [hrole]

theorem Block.taken_site (b : Block) (h : Hdr) (id : Nat) : (b.taken h).site id = b.site id := by
  unfold Block.site
  rw [Block.taken_flt]

/-- A site that the device has is retired by the write, once, and the write is acknowledged. -/
theorem Block.retireWrite_acks (hexists : b.siteExists id = true) (hlandings : b.dict.landings.contains h = false) :
    ((b.retireWrite h id).site id).state = 2 ∧ Acks b (b.retireWrite h id) h 0x6C1002 ∧
      ((b.site id).state = 2 → (b.retireWrite h id).flt = b.flt) := by
  rw [Block.retireWrite, if_neg (by simp [hexists])]
  by_cases hgone : (b.site id).state = 2
  · rw [if_pos hgone]
    exact ⟨(SiteGone.same ⟨hgone⟩ (by rw [Block.ack_flt])).state, Block.ack_acks b h _ hlandings, fun _ => Block.ack_flt ..⟩
  · rw [if_neg hgone]
    refine ⟨((SiteGone.retire id b 4 false true).same (by rw [Block.ack_flt])).state, ?_, fun h => absurd h hgone⟩
    exact Acks.after (ps := [.chans, .adc, .mrg, .frm, .twin, .flt, .regs, .ev, .free]) (Block.retire_keeps (.refl _ _) rfl) rfl hlandings

theorem Block.clearLog_acks {v : Nat} (hv : v ≤ 1) (hlandings : b.dict.landings.contains h = false) :
    (b.clearLog h v).flt = (if v = 1 then { b.flt with log := [] } else b.flt) ∧ Acks b (b.clearLog h v) h 0x6C1003 := by
  rw [Block.clearLog, if_neg (by omega), Block.ack_flt]
  refine ⟨by split <;> rfl, Acks.after (ps := [.flt]) (.ite (Block.onFlt_keeps (.refl _ _) rfl) (.refl _ _)) rfl hlandings⟩

end

/-- Settles O46: the write's answer goes with what it has done to the one site, to every one, or to the log. -/
theorem sitesAreRetiredAndRestored : Obligations.SitesAreRetiredAndRestored := by
  unfold Obligations.SitesAreRetiredAndRestored
  refine fun h s => ⟨fun site hw => ?_, fun site hw => ?_, fun v hw => ?_⟩
  · intro f
    have hlandings : f.dict.landings.contains h = false := Block.taken_landings ..
    refine ⟨fun hone hgone => does_of_writeTo rfl hw ?_, fun hone hstays => does_of_writeTo rfl hw ?_, fun hall => does_of_writeTo rfl hw ?_⟩
    · rw [Block.restoreWrite, if_neg hone, if_pos (by rw [Block.taken_retiredSites]; simpa using hgone), Block.ack_flt, Block.ack_flash,
        Block.restoreOne_list, Block.restoreOne_flash, Block.restoreOne_sites, Block.taken_flt, Block.taken_flash]
      exact ⟨rfl, rfl, tabFind_tabDel_same .., Acks.after (Block.restoreOne_rest ..) rfl hlandings⟩
    · rw [Block.restoreWrite, if_neg hone, if_neg (by rw [Block.taken_retiredSites]; simpa using hstays)]
      exact ⟨by rw [Block.refuseKey_flt, Block.taken_flt], Block.refuseKey_refuses ..⟩
    · rw [Block.restoreWrite, if_pos hall]
      refine ⟨fun i hi => ?_, Acks.after (Keeps.forEach (.refl _ _) fun i x hx => Block.restoreOne_keeps hx rfl)
        (ps := [.flash, .chans, .adc, .mrg, .frm, .flt, .regs, .ev]) rfl hlandings⟩
      rw [Block.ack_flt]
      exact Block.restoreAll_site _ (.inl (by rwa [Block.taken_retiredSites]))
  · intro f
    have hexists : f.siteExists site.toNat = s.blk.siteExists site.toNat := Block.siteExists_congr (Block.taken_cRole ..) _
    refine ⟨fun hnone => does_of_writeTo rfl hw ?_, fun hhere => does_of_writeTo rfl hw ?_⟩
    · rw [Block.retireWrite, if_pos (by rw [hexists, hnone]; rfl)]
      exact ⟨by rw [Block.refuseKey_flt, Block.taken_flt], Block.refuseKey_refuses ..⟩
    · obtain ⟨hgone, hacks, hkept⟩ := Block.retireWrite_acks (h := h) (hexists.trans hhere) (Block.taken_landings ..)
      exact ⟨hgone, hacks, fun hstate => (hkept (by rwa [Block.taken_site])).trans (Block.taken_flt ..)⟩
  · intro f
    refine ⟨fun hv => does_of_writeTo rfl hw ?_, fun hv => does_of_writeTo rfl hw ?_⟩
    · obtain ⟨hlog, hacks⟩ := Block.clearLog_acks (h := h) hv (Block.taken_landings s.blk h)
      exact ⟨by rw [hlog, Block.taken_flt], hacks⟩
    · rw [Block.clearLog, if_pos hv]
      exact ⟨by rw [Block.refuseKey_flt, Block.taken_flt], Block.refuseKey_refuses ..⟩

end Sys2Proof.Machine
end

section
/-! PROOFS. Environmental faults, ENVOUT outputs, supply warnings and the freeze (R489 to R491, R500 to R502). -/

namespace Sys2Proof.Machine

/-! ### Environmental channels (R489) -/

section

variable (b : Block) (e : Nat)

@[simp] theorem Block.envCh_onEnvCh_same (f : EnvSt → EnvSt) : (b.onEnvCh e f).envCh e = f (b.envCh e) := tabGet_tabMod_same ..

theorem Block.envCh_onEnvCh_ne {k : Nat} (f : EnvSt → EnvSt) (h : k ≠ e) : (b.onEnvCh e f).envCh k = b.envCh k :=
  tabGet_tabMod_ne _ _ _ h

@[simp] theorem Block.envCh_raise (n : Nat) (l : List Fld) : (b.raise n l).envCh e = b.envCh e := by
  unfold Block.envCh
  rw [Block.raise_env]

theorem Block.envConfig_raise {e : Nat} (he : e < 16) (n : Nat) (l : List Fld) : (b.raise n l).envConfig e = b.envConfig e :=
  Block.reg_raise_low _ _ _ (by unfold envKey; omega)

theorem Block.mem_envUsers {e k : Nat} : k ∈ b.envUsers e ↔ k < 16 ∧ envSource (b.envConfig k) = e + 2 := by
  simp [Block.envUsers]

/-- Channels whose temperature is no longer valid: those of the list, and nothing else about a channel changes. -/
theorem Block.envCh_tempInvalid (l : List Nat) (k : Nat) :
    (forEach l b fun j b => b.onEnvCh j fun c => { c with tempInvalid := true }).envCh k =
      if k ∈ l then { b.envCh k with tempInvalid := true } else b.envCh k := by
  induction l generalizing b with
  | nil => rfl
  | cons j l ih =>
    refine (ih (b.onEnvCh j fun c => { c with tempInvalid := true })).trans ?_
    by_cases hkj : k = j
    · subst hkj
      simp
    · rw [Block.envCh_onEnvCh_ne _ _ _ hkj]
      simp [hkj]

theorem Block.latched_tempInvalid (l : List Nat) (n : Nat) :
    (forEach l b fun j b => b.onEnvCh j fun c => { c with tempInvalid := true }).latched n = b.latched n := by
  induction l generalizing b with
  | nil => rfl
  | cons j l ih => exact ih (b.onEnvCh j fun c => { c with tempInvalid := true })

theorem Block.envFaultIn_fault : ((b.envFaultIn e).envCh e).fault = true := by
  unfold Block.envFaultIn
  rw [Block.envCh_tempInvalid, Block.envCh_raise, Block.envCh_onEnvCh_same]
  split <;> rfl

theorem Block.envFaultIn_latched : (b.envFaultIn e).latched 0xF0 = true :=
  (Block.latched_tempInvalid ..).trans (Block.latched_raise_self _ (by decide) _)

theorem Block.envFaultIn_users {k : Nat} (hk : k < 16) (huses : envSource (b.envConfig k) = e + 2) :
    ((b.envFaultIn e).envCh k).tempInvalid = true := by
  unfold Block.envFaultIn
  rw [Block.envCh_tempInvalid, if_pos ((Block.mem_envUsers _).mpr ⟨hk, by rw [Block.envConfig_raise _ hk]; exact huses⟩)]

theorem Block.envFaultOut_same : (b.envFaultOut e).envCh e = { b.envCh e with fault := false, invalid := max (b.envCh e).invalid 3 } := by
  rw [Block.envFaultOut, Block.envCh_raise, Block.envInvalidate, Block.envCh_onEnvCh_same, Block.envCh_onEnvCh_same]

theorem Block.envFaultOut_ne {k : Nat} (h : k ≠ e) : (b.envFaultOut e).envCh k = b.envCh k := by
  rw [Block.envFaultOut, Block.envCh_raise, Block.envInvalidate, Block.envCh_onEnvCh_ne _ _ _ h, Block.envCh_onEnvCh_ne _ _ _ h]

end

/-! ### ENVOUT (R490, R491) -/

section

variable {b : Block} {o : Nat}

/-- What an output shows, put into the table of the outputs. -/
def Block.showOut (b : Block) (o : Nat) (v : OutSt) : Block := b.onEnv fun x => { x with outs := tabSet x.outs o v }

@[simp] theorem Block.showOut_same (b : Block) (o : Nat) (v : OutSt) : tabGet {} (b.showOut o v).env.outs o = v := tabGet_tabSet_same ..

theorem Block.outPeriod_off (hoff : (b.reg (outKey o 1)).testBit 31 = false) : b.outPeriod o = b.showOut o {} :=
  if_pos (by rw [hoff]; rfl)

theorem Block.outPeriod_fault (hon : (b.reg (outKey o 1)).testBit 31 = true)
    (hfault : b.outFault (bits (b.reg (outKey o 1)) 27 24) = true) : b.outPeriod o = b.showOut o { state := 2 } :=
  (if_neg (by simp [hon])).trans (if_pos hfault)

theorem Block.outPeriod_sound (hon : (b.reg (outKey o 1)).testBit 31 = true)
    (hsound : b.outFault (bits (b.reg (outKey o 1)) 27 24) = false) (hspan : 0 < (b.outV o (bits (b.reg (outKey o 1)) 27 24)).2) :
    b.outPeriod o =
      let num := (b.outV o (bits (b.reg (outKey o 1)) 27 24)).1
      let den := (b.outV o (bits (b.reg (outKey o 1)) 27 24)).2
      if (b.reg (outKey o 1)).testBit 30 then
        let lo : Int := b.reg (outKey o 5)
        let hi : Int := b.reg (outKey o 6)
        b.showOut o { state := 1, freq := (roundDiv (1000 * (lo * den + (hi - lo) * num)) den.toNat).toNat }
      else b.showOut o { state := 1, high := (roundDiv (1024 * (den + 8 * num)) (10 * den.toNat)).toNat } := by
  unfold Block.outPeriod
  dsimp only
  rw [if_neg (by simp [hon]), if_neg (by simp [hsound]), if_neg (by omega)]
  rfl

end

/-! ### Supply warnings and the freeze (R500 to R502) -/

section

variable (b : Block) (rail mv : Nat)

/-- The lowest readings of the dip that a rail's warning belongs to: none before its first warning. -/
def Block.dipReadings : Tab Nat := if b.env.warn then b.env.lowest else []

/-- The lowest reading of a rail in the dip. -/
def Block.dipLow : Nat :=
  match tabFind b.dipReadings rail with
  | some v => min v mv
  | none => mv

/-- A rail is below its warning level: the environment's own account of it. -/
def Block.belowEnv : Env :=
  { b.env with
    warn := true, warnEndDue := false, lowest := tabSet b.dipReadings rail (b.dipLow rail mv),
    below := if b.env.below.contains rail then b.env.below else b.env.below ++ [rail],
    affected := if b.env.affected.contains b.time.now then b.env.affected else b.env.affected ++ [b.time.now] }

/-- A rail is below its warning level: the account, with its count and its lowest reading as entries. -/
def Block.railBelow : Block :=
  ((b.onEnv fun _ => b.belowEnv rail mv).bump (0x748104 + 256 * rail) 1).setReg (0x748105 + 256 * rail) (b.dipLow rail mv)

/-- The first warning of a dip starts the freeze and is told. -/
theorem Block.supplyBegin_eq :
    b.supplyBegin rail mv =
      if b.env.warn then b.railBelow rail mv
      else (((b.railBelow rail mv).onEnv fun v => { v with freezeDue := true }).bump 0x748002 1).raise 0xFB
        [.id 4 (rail + 1), .id 1 1, .cnt 16 (b.dipLow rail mv)] := by
  have hcount : 0x748101 + 256 * rail + 3 = 0x748104 + 256 * rail := by omega
  have hlow : 0x748101 + 256 * rail + 4 = 0x748105 + 256 * rail := by omega
  unfold Block.supplyBegin Block.railBelow Block.belowEnv Block.dipLow Block.dipReadings
  dsimp only
  rw [hcount, hlow]
  cases b.env.warn <;> rfl

theorem Block.railBelow_env : (b.railBelow rail mv).env = b.belowEnv rail mv := by
  unfold Block.railBelow
  rw [Block.setReg_env, Block.bump_env]
  rfl

theorem Block.supplyBegin_env :
    (b.supplyBegin rail mv).env = if b.env.warn then b.belowEnv rail mv else { b.belowEnv rail mv with freezeDue := true } := by
  rw [Block.supplyBegin_eq]
  split
  · exact b.railBelow_env rail mv
  · rw [Block.raise_env, Block.bump_env, Block.onEnv, Block.railBelow_env]

/-- An entry that the account writes stands while the warning is told. -/
theorem EntryIs.supplyBegin {b : Block} {rail mv k v : Nat} (hk : k ≠ 0x748002) (hb : EntryIs k v (b.railBelow rail mv)) :
    EntryIs k v (b.supplyBegin rail mv) := by
  rw [Block.supplyBegin_eq]
  refine .ite hb (EntryIs.raise (.bump ?_ 1 hk) (by decide) _)
  exact hb.same rfl

theorem plainKey_rail {k : Nat} (hleast : 0x740000 ≤ k) (hmost : k < 0x780000) : plainKey k = true := by
  simp [plainKey, show ¬ k < 0x214010 by omega, show ¬ k < 0x550000 by omega, show ¬ 0x780000 ≤ k by omega]

variable {rail}

theorem Block.supplyBegin_count (hrail : rail < 5) :
    (b.supplyBegin rail mv).reg (0x748104 + 256 * rail) = b.reg (0x748104 + 256 * rail) + 1 := by
  have hplain : plainKey (0x748104 + 256 * rail) = true := plainKey_rail (by omega) (by omega)
  exact (EntryIs.supplyBegin (by omega) (.setReg (.bumped (b.onEnv fun _ => b.belowEnv rail mv) hplain 1) _ (by omega))).reg

theorem Block.supplyBegin_low (hrail : rail < 5) : (b.supplyBegin rail mv).reg (0x748105 + 256 * rail) = b.dipLow rail mv :=
  (EntryIs.supplyBegin (by omega) (.set _ (plainKey_rail (by omega) (by omega)) _)).reg

theorem Block.supplyBegin_first (rail : Nat) (hfirst : b.env.warn = false) : (b.supplyBegin rail mv).latched 0xFB = true := by
  rw [Block.supplyBegin_eq, if_neg (by simp [hfirst])]
  exact Block.latched_raise_self _ (by decide) _

theorem mem_ite_append (l : List Nat) (x : Nat) : x ∈ if l.contains x then l else l ++ [x] := by
  split
  next h => simpa using h
  next => simp

/-- The freeze has ended and is told. -/
def Block.thawed (b : Block) : Block :=
  ((b.onEnv fun v => { v with freeze := false }).onAdc fun a => { a with frozen := false }).freezeEvents false

theorem Block.thawed_told : Keeps [.regs, .ev] ((b.onEnv fun v => { v with freeze := false }).onAdc fun a => { a with frozen := false }) b.thawed :=
  Block.raise_keeps (Block.raise_keeps (Block.raise_keeps (.refl _ _) rfl) rfl) rfl

theorem Block.thawed_latched : b.thawed.latched 0xFC = true ∧ b.thawed.latched 0x45 = true ∧ b.thawed.latched 0x7D = true :=
  ⟨Block.latched_raise _ _ _ (by decide) (Block.latched_raise _ _ _ (by decide) (Block.latched_raise_self _ (by decide) _)),
    Block.latched_raise _ _ _ (by decide) (Block.latched_raise_self _ (by decide) _), Block.latched_raise_self _ (by decide) _⟩

/-- Of the block that has thawed, the end of the freeze changes the twin state alone. -/
theorem Block.freezeEnd_thawed : Keeps [.twin] b.thawed b.freezeEnd ∧ b.freezeEnd.twin.warnRun = 0 := by
  have hcleared : Keeps [.twin] b.thawed (b.thawed.onTwin fun t => { t with warnRun := 0 }) := Block.onTwin_keeps (.refl _ _) rfl
  unfold Block.freezeEnd
  exact ⟨.ite (Block.sourceClear_keeps hcleared rfl) hcleared, by dsimp only; split <;> rfl⟩

end

/-- Settles O58: a fault changes its channel and those that use it, an output shows what its channel gives, and a rail's warning is an account
of its own that begins the freeze. -/
theorem environmentIsWatched : Obligations.EnvironmentIsWatched := by
  unfold Obligations.EnvironmentIsWatched
  refine ⟨fun e s => ?_, fun o s => ?_, fun s hruns => ?_⟩
  · intro c others
    refine ⟨does_of_next rfl ⟨Block.envCh_onEnvCh_same .., fun k => Block.envCh_onEnvCh_ne _ _ _⟩,
      does_of_next rfl ⟨Block.envCh_onEnvCh_same .., fun k => Block.envCh_onEnvCh_ne _ _ _⟩, fun hruns hout hfault => ?_, fun hin => ?_,
      fun hruns hin hfault => ?_, fun hout => ?_⟩
    · refine does_of_when rfl (by simp_all [c]) ?_
      exact ⟨Block.envFaultIn_fault .., Block.envFaultIn_latched .., fun k huses => Block.envFaultIn_users _ _ k.isLt huses⟩
    · exact exec_of_not_when rfl (by simp_all [c])
    · refine does_of_when rfl (by simp_all [c]) ?_
      exact ⟨Block.envFaultOut_same .., fun k => Block.envFaultOut_ne _ _, Block.latched_raise_self _ (by decide) _⟩
    · exact exec_of_not_when rfl (by simp_all [c])
  · intro cfg e num den
    refine ⟨fun hoff => does_of_next rfl ?_, fun hon hfault => does_of_next rfl ?_, fun hon hsound hspan hduty => does_of_next rfl ?_,
      fun hon hsound hspan hfreq => does_of_next rfl ?_⟩
    · beta_reduce
      rw [Block.outPeriod_off hoff, Block.showOut_same]
    · beta_reduce
      rw [Block.outPeriod_fault hon hfault, Block.showOut_same]
    · beta_reduce
      rw [Block.outPeriod_sound hon hsound hspan]
      dsimp only
      rw [if_neg (by simp_all [cfg]), Block.showOut_same]
    · beta_reduce
      rw [Block.outPeriod_sound hon hsound hspan]
      dsimp only
      rw [if_pos hfreq, Block.showOut_same]
  · refine ⟨fun rail mv => does_of_when rfl hruns ?_, fun hwarn => does_of_when rfl (by simp [hruns, hwarn]) rfl,
      fun hquiet => exec_of_not_when rfl (by simp [hquiet]), fun hfreeze hquiet hpassed => ?_,
      fun hearly => exec_of_not_when rfl (by simp [hearly]), fun hnone => exec_of_not_when rfl (by simp [hnone])⟩
    · intro dips
      have hbelow : rail.val ∈ (s.blk.belowEnv rail.val mv).below := mem_ite_append ..
      have haffected : s.blk.time.now ∈ (s.blk.belowEnv rail.val mv).affected := mem_ite_append ..
      have henv := s.blk.supplyBegin_env rail.val mv
      refine ⟨?_, ?_, ?_, ?_, Block.supplyBegin_count _ _ rail.isLt, Block.supplyBegin_low _ _ rail.isLt,
        fun hfirst => ⟨?_, Block.supplyBegin_first _ _ _ hfirst⟩⟩
      · rw [henv]; split <;> rfl
      · rw [henv]; split <;> rfl
      · rw [henv]; split <;> exact hbelow
      · rw [henv]; split <;> exact haffected
      · rw [henv, if_neg (by simp [hfirst])]
    · refine does_of_when rfl (by simp [*]) ?_
      obtain ⟨hthawed, hrun⟩ := s.blk.freezeEnd_thawed
      obtain ⟨hfreezes, hsamples, hlinks⟩ := s.blk.thawed_latched
      have hlatched (n : Nat) : s.blk.freezeEnd.latched n = s.blk.thawed.latched n := by
        unfold Block.latched
        rw [hthawed.reg_eq rfl rfl rfl rfl]
      refine ⟨(hthawed.env_eq rfl).trans (s.blk.thawed_told.env_eq rfl), (hthawed.adc_eq rfl).trans (s.blk.thawed_told.adc_eq rfl), hrun, ?_, ?_, ?_⟩
      · rw [hlatched, hfreezes]
      · rw [hlatched, hsamples]
      · rw [hlatched, hlinks]

end Sys2Proof.Machine
end

section
/-! PROOFS. Temperature measurements and the shutdown level, scrub cycles, and over-contract records that age (R220, R376, R377, R450,
R492 to R495). -/

namespace Sys2Proof.Machine

/-! ### What telling of a fault leaves alone -/

section

variable {k v n : Nat} {b x y : Block} {ps : List Part}

/-- Parts that an entry does not depend on change nothing about it. -/
theorem EntryIs.keeps (hx : EntryIs k v x) (hxy : Keeps ps x y)
    (hps : (ps.contains .regs || ps.contains .role || ps.contains .sets || ps.contains .fuses) = false) : EntryIs k v y := by
  simp only [Bool.or_eq_false_iff] at hps
  obtain ⟨⟨⟨hregs, hrole⟩, hsets⟩, hfuses⟩ := hps
  exact hx.same (hxy.reg_eq hregs hrole hsets hfuses k)

theorem Latches.keeps (hx : Latches n x) (hxy : Keeps ps x y)
    (hps : (ps.contains .regs || ps.contains .role || ps.contains .sets || ps.contains .fuses) = false) : Latches n y := by
  simp only [Bool.or_eq_false_iff] at hps
  obtain ⟨⟨⟨hregs, hrole⟩, hsets⟩, hfuses⟩ := hps
  exact hx.same (by unfold Block.latched; rw [hxy.reg_eq hregs hrole hsets hfuses])

theorem EntryIs.when {c : Bool} {f : Block → Block} (hb : EntryIs k v b) (hf : ∀ x, EntryIs k v x → EntryIs k v (f x)) :
    EntryIs k v (b.when c f) := .ite (hf b hb) hb

theorem Latches.when {c : Bool} {f : Block → Block} (hb : Latches n b) (hf : ∀ x, Latches n x → Latches n (f x)) :
    Latches n (b.when c f) := .ite (hf b hb) hb

theorem EntryIs.sourceFail (hb : EntryIs k v b) (src : Nat) : EntryIs k v (b.sourceFail src) := by
  have hlisted : EntryIs k v (if b.twin.sources.contains src then b else b.onTwin fun t => { t with sources := t.sources ++ [src] }) :=
    .ite hb (hb.same rfl)
  refine .ite hb (.ite (EntryIs.raise ?_ (by decide) _) hlisted)
  exact hlisted.same rfl

theorem Latches.sourceFail (hb : Latches n b) (src : Nat) : Latches n (b.sourceFail src) := ⟨hb.low, Block.latched_sourceFail _ _ hb.low hb.set⟩

/-- Messages that leave their paths change no entry but the counts of the queues that they take. -/
theorem Block.drainBus_keeps_dict (b : Block) (bus : Nat) : Keeps [.dict, .ev] b (b.drainBus bus) := by
  unfold Block.drainBus
  dsimp only
  split
  · exact .refl _ _
  · exact .ite (.refl _ _) (Block.canSend_keeps (Block.onEv_keeps (.refl _ _) rfl) rfl)

theorem EntryIs.drainInband (hb : EntryIs k v b) : EntryIs k v b.drainInband := by
  unfold Block.drainInband
  split
  · exact hb
  · refine .ite hb (EntryIs.inbandSend ?_ _ _)
    exact hb.same rfl

theorem Latches.drainInband (hb : Latches n b) : Latches n b.drainInband := by
  unfold Block.drainInband
  split
  · exact hb
  · refine .ite hb (Latches.inbandSend ?_ _ _)
    exact hb.same rfl

theorem EntryIs.drainPaths (hb : EntryIs k v b) : EntryIs k v b.drainPaths :=
  ((hb.keeps (b.drainBus_keeps_dict 0) rfl).keeps (Block.drainBus_keeps_dict _ 1) rfl).drainInband

theorem Latches.drainPaths (hb : Latches n b) : Latches n b.drainPaths :=
  ((hb.keeps (b.drainBus_keeps_dict 0) rfl).keeps (Block.drainBus_keeps_dict _ 1) rfl).drainInband

end

/-! ### One measurement (R492 to R495) -/

section

variable (b : Block) (readings : List Int)

/-- The sensors that a measurement votes out. -/
def Block.votedOut (readings : List Int) : List Nat :=
  (List.range 9).filter fun k => (voteSensor readings b.env.voted b.env.inRun k).1

theorem votedOut_eq (old : List Nat) (runs : Tab Nat) :
    ((((List.range 9).map fun k => (k, voteSensor readings old runs k)).filter fun r => r.2.1).map Prod.fst) =
      (List.range 9).filter fun k => (voteSensor readings old runs k).1 := by
  simp only [List.filter_map, List.map_map]
  exact List.map_id _

/-- How long each sensor that is still out has agreed again. -/
def Block.inAgain (b : Block) (readings : List Int) : Tab Nat :=
  ((((List.range 9).map fun k => (k, voteSensor readings b.env.voted b.env.inRun k)).filter fun r => r.2.1 && r.2.2 != 0)).map fun r => (r.1, r.2.2)

theorem Block.voteSensors_env :
    (b.voteSensors readings).env = { b.env with readings := readings, voted := b.votedOut readings, inRun := b.inAgain readings } := by
  unfold Block.voteSensors
  dsimp only
  refine (Keeps.env_eq (l := [.regs, .ev]) (.forEach (Block.setReg_keeps (.forEach (.refl _ _) fun _ _ hx => Block.setReg_keeps hx rfl) rfl)
    fun _ _ hx => Block.raise_keeps hx rfl) rfl).trans ?_
  rw [votedOut_eq]
  rfl

/-- An entry that takes a value from a measurement: a reading, the sensors that are out, the die temperature, its peak, the interval. -/
def measuredKey (k : Nat) : Bool :=
  (decide (0x740101 ≤ k) && decide (k ≤ 0x74010A)) || k == 0x740001 || k == 0x740002 || k == 0x740303

theorem measuredKey_ranges {k : Nat} (hk : measuredKey k = false) :
    (k < 0x740101 ∨ 0x74010A < k) ∧ k ≠ 0x740001 ∧ k ≠ 0x740002 ∧ k ≠ 0x740303 := by
  simp only [measuredKey, Bool.or_eq_false_iff, Bool.and_eq_false_iff, decide_eq_false_iff_not, beq_eq_false_iff_ne] at hk
  omega

variable {k v : Nat} {b}

theorem EntryIs.voteSensors (hb : EntryIs k v b) (hk : k < 0x740101 ∨ 0x74010A < k) : EntryIs k v (b.voteSensors readings) := by
  unfold Block.voteSensors
  dsimp only
  refine .forEach (.setReg (List.foldlRecOn (motive := EntryIs k v) _ _ ?_ fun x hx i hi => ?_) _ (by omega)) fun _ _ hx => hx.raise (by decide) _
  · exact hb.same rfl
  · have hsensor : i < 9 := List.mem_range.mp hi
    exact hx.setReg _ (by omega)

theorem EntryIs.compensate (hb : EntryIs k v b) (change : Int) : EntryIs k v (b.compensate change) := by
  refine .forEach ?_ fun _ _ hx => hx.raise (by decide) _
  exact hb.same rfl

variable (b)

/-- What a measurement brings before its temperature is held against the levels. -/
def Block.tempTaken (b : Block) (readings : List Int) : Block :=
  let last := b.env.readings
  let b := b.voteSensors readings
  let t := (dieTemp readings b.env.voted).1
  let b := b.onEnv fun v => { v with tDie := t, tPeak := if last.isEmpty then t else max v.tPeak t }
  let b := (b.setReg 0x740001 (twos 32 (4096 * t))).setReg 0x740002 (twos 32 (4096 * b.env.tPeak))
  let b := b.setReg 0x740303 (if b.level16 2 - 160 ≤ t then 100 else 1000)
  let ref := fun (l : List Int) => if b.env.voted.contains 4 then t else l.getD 4 0
  if last.isEmpty then b else b.compensate (ref readings - (if b.env.voted.contains 4 then t else last.getD 4 0))

/-- The die temperature of a measurement: the highest of the sensors left in. -/
def Block.takenTemp (b : Block) (readings : List Int) : Int := (dieTemp readings (b.votedOut readings)).1

theorem Block.measureTemp_taken :
    b.measureTemp readings = ((b.tempTaken readings).warnLevel (b.takenTemp readings)).throttleLevel (b.takenTemp readings) := by
  have hvoted : b.votedOut readings = (b.voteSensors readings).env.voted := by rw [b.voteSensors_env]
  unfold Block.takenTemp
  rw [hvoted]
  rfl

theorem Block.tempTaken_env :
    ∃ peak, (b.tempTaken readings).env = { b.env with
      readings := readings, voted := b.votedOut readings, inRun := b.inAgain readings, tDie := b.takenTemp readings, tPeak := peak } := by
  have hvoted : (b.voteSensors readings).env.voted = b.votedOut readings := by rw [b.voteSensors_env]
  refine ⟨if b.env.readings.isEmpty then b.takenTemp readings else max b.env.tPeak (b.takenTemp readings), ?_⟩
  unfold Block.tempTaken
  dsimp only
  refine (Keeps.env_eq (l := [.bin, .regs, .ev]) (.ite (.refl _ _) (Block.compensate_keeps (.refl _ _) rfl)) rfl).trans ?_
  rw [Block.setReg_env, Block.setReg_env, Block.setReg_env, Block.onEnv_env, b.voteSensors_env]
  rfl

variable {b}

theorem EntryIs.tempTaken (hb : EntryIs k v b) (hk : measuredKey k = false) : EntryIs k v (b.tempTaken readings) := by
  obtain ⟨hsensors, hdie, hpeak, hinterval⟩ := measuredKey_ranges hk
  have hsensed (f : Env → Env) : EntryIs k v ((b.voteSensors readings).onEnv f) := (hb.voteSensors readings hsensors).same rfl
  have hstored (f : Env → Env) (die top rate : Nat) := (((hsensed f).setReg die hdie).setReg top hpeak).setReg rate hinterval
  exact .ite (hstored ..) (.compensate (hstored ..) _)

/-- The die temperature as its entry has it. -/
theorem Block.tempTaken_die : EntryIs 0x740001 (twos 32 (4096 * b.takenTemp readings)) (b.tempTaken readings) := by
  have hvoted : (b.voteSensors readings).env.voted = b.votedOut readings := by rw [b.voteSensors_env]
  have hstored (x : Block) (top rate : Nat) : EntryIs 0x740001 (twos 32 (4096 * b.takenTemp readings))
      (((x.setReg 0x740001 (twos 32 (4096 * b.takenTemp readings))).setReg 0x740002 top).setReg 0x740303 rate) :=
    ((EntryIs.set x (by decide) _).setReg _ (by decide)).setReg _ (by decide)
  unfold Block.tempTaken
  dsimp only
  rw [hvoted]
  exact .ite (hstored ..) (.compensate (hstored ..) _)

end

/-! ### The levels (R450, R495) -/

section

variable {b : Block} {k v : Nat} {t : Int}

theorem Block.warnLevel_env (b : Block) (t : Int) :
    (b.warnLevel t).env = { b.env with warning := b.levelState b.env.warning 1 t } := by
  unfold Block.warnLevel
  dsimp only
  split
  next hsame => rw [hsame]
  next => rw [Block.raise_env]; rfl

theorem EntryIs.warnLevel (hb : EntryIs k v b) (t : Int) : EntryIs k v (b.warnLevel t) := by
  refine .ite hb (EntryIs.raise ?_ (by decide) _)
  exact hb.same rfl

theorem Block.throttleLevel_env (b : Block) (t : Int) :
    ∃ on share, (b.throttleLevel t).env = { b.env with throttle := on, allow := share } := by
  unfold Block.throttleLevel
  dsimp only
  generalize b.levelState b.env.throttle 2 t = on
  generalize (if on then b.allowance t else 1600) = share
  refine ⟨on, share, ?_⟩
  split
  next hsame => rw [show on = b.env.throttle from hsame]; rfl
  next =>
    cases on
    case false => exact (Block.sourceClear_keeps (ps := [.twin, .regs, .ev]) (Block.raise_keeps (.refl _ _) rfl) rfl).env_eq rfl
    case true => exact (Block.sourceFail_keeps (ps := [.twin, .regs, .ev]) (Block.raise_keeps (.refl _ _) rfl) rfl).env_eq rfl

theorem EntryIs.onEnv (hb : EntryIs k v b) (f : Env → Env) : EntryIs k v (b.onEnv f) := hb.same rfl

theorem EntryIs.throttleLevel (hb : EntryIs k v b) (t : Int) : EntryIs k v (b.throttleLevel t) := by
  unfold Block.throttleLevel
  dsimp only
  generalize b.levelState b.env.throttle 2 t = on
  have htold (f g : Env → Env) (l : List Fld) : EntryIs k v (((b.onEnv f).onEnv g).raise 0xF7 l) := ((hb.onEnv f).onEnv g).raise (by decide) l
  exact .ite (hb.onEnv _) (.ite ((htold ..).sourceFail 5) ((htold ..).same rfl))

/-- The levels and their hysteresis as a block gives them: what the measured temperature is held against. -/
structure SameLevels (a b : Block) : Prop where
  warn : b.level16 1 = a.level16 1
  shut : b.level16 3 = a.level16 3
  hyst : b.hyst16 = a.hyst16

theorem SameLevels.of_entries {a b : Block} (h : ∀ k ∈ [0x740201, 0x740203, 0x740204], EntryIs k (a.reg k) b) : SameLevels a b := by
  refine ⟨?_, ?_, ?_⟩
  · exact congrArg (fun v => 16 * signedOf 16 v) (h 0x740201 (by decide)).reg
  · exact congrArg (fun v => 16 * signedOf 16 v) (h 0x740203 (by decide)).reg
  · exact congrArg (fun v : Nat => 16 * (v : Int)) (h 0x740204 (by decide)).reg

theorem SameLevels.levelState {a b : Block} (h : SameLevels a b) (was : Bool) (t : Int) : b.levelState was 1 t = a.levelState was 1 t := by
  unfold Block.levelState
  rw [h.warn, h.hyst]

end

/-! ### A measurement at its boundary (R450, R492) -/

section

variable {b : Block} {readings : List Int} {k v : Nat}

theorem EntryIs.measureTemp (hb : EntryIs k v b) (hk : measuredKey k = false) (readings : List Int) : EntryIs k v (b.measureTemp readings) := by
  rw [Block.measureTemp_taken]
  exact ((hb.tempTaken readings hk).warnLevel _).throttleLevel _

theorem Block.measureTemp_die (b : Block) (readings : List Int) :
    EntryIs 0x740001 (twos 32 (4096 * b.takenTemp readings)) (b.measureTemp readings) := by
  rw [Block.measureTemp_taken]
  exact ((Block.tempTaken_die readings).warnLevel _).throttleLevel _

/-- An entry of the levels stands through a measurement. -/
theorem Block.measureTemp_levels (b : Block) (readings : List Int) : SameLevels b (b.measureTemp readings) :=
  .of_entries fun k hk => by
    simp only [List.mem_cons, List.not_mem_nil, or_false] at hk
    obtain rfl | rfl | rfl := hk
    all_goals exact EntryIs.measureTemp ⟨by decide, rfl⟩ (by decide) readings

theorem Block.measureTemp_env (b : Block) (readings : List Int) :
    ∃ peak on share, (b.measureTemp readings).env = { b.env with
      readings := readings, voted := b.votedOut readings, inRun := b.inAgain readings, tDie := b.takenTemp readings, tPeak := peak
      warning := b.levelState b.env.warning 1 (b.takenTemp readings), throttle := on, allow := share } := by
  obtain ⟨peak, htaken⟩ := b.tempTaken_env readings
  obtain ⟨on, share, hthrottle⟩ := ((b.tempTaken readings).warnLevel (b.takenTemp readings)).throttleLevel_env (b.takenTemp readings)
  have hlevels : SameLevels b (b.tempTaken readings) := .of_entries fun k hk => by
    simp only [List.mem_cons, List.not_mem_nil, or_false] at hk
    obtain rfl | rfl | rfl := hk
    all_goals exact EntryIs.tempTaken readings ⟨by decide, rfl⟩ (by decide)
  refine ⟨peak, on, share, ?_⟩
  rw [Block.measureTemp_taken, hthrottle, Block.warnLevel_env, hlevels.levelState, htaken]

/-- At the shutdown level a device that runs is to shut down, and tells it. -/
theorem Block.shutdownLevel_hot {sensor : Nat} (hruns : b.boot.phase = .running) (hdue : b.boot.restartDue ≠ 3)
    (hhot : b.level16 3 ≤ b.env.tDie) :
    b.shutdownLevel sensor =
      (b.raise 0xF8 [.int 16 b.env.tDie, .id 4 sensor]).onBoot fun k => { k with restartDue := 3 } := by
  unfold Block.shutdownLevel
  dsimp only
  rw [if_neg (by rw [hruns]; decide), if_pos ⟨hhot, hdue⟩]

theorem Block.shutdownLevel_cool {sensor : Nat} (hruns : b.boot.phase = .running) (hcool : b.env.tDie < b.level16 3) :
    b.shutdownLevel sensor = b := by
  unfold Block.shutdownLevel
  dsimp only
  rw [if_neg (by rw [hruns]; decide), if_neg (by omega)]

/-! ### The boundary of a device on its fallback oscillator (R36, R450) -/

/-- Resets that are due, writes and keeps, and restarts, where nothing is due and nothing waits. -/
theorem Block.resetsDue_none (hresets : b.boot.resetDue = []) (hrestart : b.boot.restartDue ≠ 1) : b.resetsDue = b := by
  unfold Block.resetsDue
  dsimp only
  rw [hresets, if_neg hrestart]
  show (b.onBoot fun k => { k with resetDue := [], restartDue := if b.boot.restartDue = 1 then 0 else b.boot.restartDue }) = b
  rw [if_neg hrestart, ← hresets]
  rfl

theorem Block.takeWrites_none (hpend : b.dict.pend = []) : b.takeWrites = b := by
  unfold Block.takeWrites
  rw [hpend]
  show (b.onDict fun d => { d with pend := [] }) = b
  rw [← hpend]
  rfl

/-- With nothing due but a shutdown, a boundary keeps and captures, and then shuts the device down where that is due. -/
theorem Block.writesNow_idle (hresets : b.boot.resetDue = []) (hpend : b.dict.pend = []) (hrestart : b.boot.restartDue = 0 ∨ b.boot.restartDue = 3) :
    ∃ x, Keeps [.dict, .sec] b x ∧
      b.writesNow = if b.boot.restartDue = 3 then (x.onBoot fun k => { k with restartDue := 0 }).shutDown else x := by
  have hkept : Keeps [.dict, .sec] b (b.keepCapture false).attestCapture := Block.attestCapture_keeps (Block.keepCapture_keeps (.refl _ _) rfl) rfl
  have hboot := hkept.boot_eq rfl rfl
  refine ⟨_, hkept, ?_⟩
  unfold Block.writesNow Block.restartsNow
  rw [Block.resetsDue_none hresets (by omega), Block.takeWrites_none hpend]
  generalize (b.keepCapture false).attestCapture = x at hboot
  dsimp only
  rw [Block.resetsDue_none (by rw [hboot, hresets]) (by rw [hboot]; omega), if_neg (by rw [hboot]; omega)]
  unfold Block.thermalNow
  rw [hboot]
  split
  · rfl
  · rw [if_neg (by omega)]

theorem Block.swapsTaken_none (hswaps : b.dict.swaps = []) : b.swapsTaken = b := by
  unfold Block.swapsTaken
  rw [hswaps]
  show (b.onDict fun d => { d with swaps := [] }) = b
  rw [← hswaps]
  rfl

theorem EntryIs.clockNow (hb : EntryIs k v b) (fx : Nat) : EntryIs k v (b.clockNow fx) := by
  refine EntryIs.same (.when ?_ fun x hx => hx.raise (by decide) _) rfl
  exact hb.same rfl

theorem EntryIs.repliesOut (hb : EntryIs k v b) : EntryIs k v b.repliesOut := hb.keeps (Block.repliesOut_keeps (.refl [.dict] _) rfl) rfl

/-- A block has taken a measurement that waited in another. -/
structure Taken (b : Block) (readings : List Int) (x : Block) : Prop where
  measured : x.env.measured = []
  read : x.env.readings = readings
  voted : x.env.voted = b.votedOut readings
  tDie : x.env.tDie = b.takenTemp readings
  warning : x.env.warning = b.levelState b.env.warning 1 (b.takenTemp readings)
  die : EntryIs 0x740001 (twos 32 (4096 * b.takenTemp readings)) x

theorem Taken.keeps {x y : Block} {ps : List Part} (hx : Taken b readings x) (hxy : Keeps ps x y) (hps : ps.contains .env = false)
    (hdie : EntryIs 0x740001 (twos 32 (4096 * b.takenTemp readings)) y) : Taken b readings y := by
  have henv := hxy.env_eq hps
  exact ⟨by rw [henv, hx.measured], by rw [henv, hx.read], by rw [henv, hx.voted], by rw [henv, hx.tDie], by rw [henv, hx.warning], hdie⟩

theorem Taken.shutDown {x : Block} (hx : Taken b readings x) : Taken b readings x.shutDown :=
  ⟨hx.measured, hx.read, hx.voted, hx.tDie, hx.warning, hx.die.keeps (Block.shutDown_keeps (.refl [.boot, .time, .frm, .env] _) rfl) rfl⟩

/-- The block with no measurement that waits any longer. -/
def Block.noneMeasured (b : Block) : Block := b.onEnv fun v => { v with measured := [] }

/-- What two blocks measure alike: the sensors that were out before, and the levels. -/
theorem Taken.measureTemp {x : Block} (hvoted : x.env.voted = b.env.voted) (hrun : x.env.inRun = b.env.inRun)
    (hwarning : x.env.warning = b.env.warning) (hlevels : SameLevels b x) (readings : List Int) :
    Taken b readings (x.noneMeasured.measureTemp readings) := by
  have hout : x.noneMeasured.votedOut readings = b.votedOut readings := by
    unfold Block.votedOut
    rw [← hvoted, ← hrun]
    rfl
  have htemp : x.noneMeasured.takenTemp readings = b.takenTemp readings := by unfold Block.takenTemp; rw [hout]
  have hstate : x.noneMeasured.levelState x.noneMeasured.env.warning 1 (b.takenTemp readings) =
      b.levelState b.env.warning 1 (b.takenTemp readings) := by
    rw [← hlevels.levelState, ← hwarning]
    rfl
  have hdie := x.noneMeasured.measureTemp_die readings
  obtain ⟨peak, on, share, henv⟩ := x.noneMeasured.measureTemp_env readings
  rw [htemp] at henv hdie
  rw [hout, hstate] at henv
  exact ⟨by rw [henv]; rfl, by rw [henv], by rw [henv], by rw [henv], by rw [henv], hdie⟩

/-- Where one measurement waits, a boundary takes that one. -/
theorem Block.measuresNow_one (hone : b.env.measured = [readings]) :
    b.measuresNow = (b.noneMeasured.tempMeasured readings).when (b.noneMeasured.tempMeasured readings).env.throttle fun b => b.bump 0x740304 1 := by
  unfold Block.measuresNow
  rw [hone]
  rfl

/-- A device on its fallback oscillator in which one measurement and nothing else waits. -/
structure WaitsForTemp (b : Block) (readings : List Int) : Prop where
  runs : b.boot.phase = .running
  one : b.env.measured = [readings]
  pend : b.dict.pend = []
  restart : b.boot.restartDue = 0
  resets : b.boot.resetDue = []

/-- The shutdown of a boundary, where the measured temperature reaches its level, or the boundary of a device that runs on. -/
structure TempJudged (b : Block) (readings : List Int) (x : Block) : Prop where
  sets : x.sets = b.sets
  taken : Taken b readings x
  hot : b.level16 3 ≤ b.takenTemp readings → x.boot.phase = .shutdown ∧ x.time.locked = false ∧ Latches 0xF8 x
  cool : b.takenTemp readings < b.level16 3 → x.boot.phase = .running

/-- A crossing under throttle is counted, and no more. -/
theorem Block.throttleCounted (hb : EntryIs 0x740001 v b) :
    Keeps [.regs] b (b.when b.env.throttle fun b => b.bump 0x740304 1) ∧
      EntryIs 0x740001 v (b.when b.env.throttle fun b => b.bump 0x740304 1) :=
  ⟨.when (.refl _ _) fun _ hx => Block.bump_keeps hx rfl, hb.when fun _ hx => hx.bump 1 (by decide)⟩

theorem TempJudged.measuresNow {x : Block} (hx : WaitsForTemp x readings) (hvoted : x.env.voted = b.env.voted)
    (hrun : x.env.inRun = b.env.inRun) (hwarning : x.env.warning = b.env.warning) (hlevels : SameLevels b x) (hsets : x.sets = b.sets) :
    TempJudged b readings x.measuresNow.writesNow := by
  have htaken := Taken.measureTemp hvoted hrun hwarning hlevels readings
  have hkept : Keeps [.bin, .twin, .regs, .ev, .env] x (x.noneMeasured.measureTemp readings) :=
    Block.measureTemp_keeps (Block.onEnv_keeps (.refl _ _) rfl) rfl
  have hlevel : (x.noneMeasured.measureTemp readings).level16 3 = b.level16 3 :=
    (x.noneMeasured.measureTemp_levels readings).shut.trans hlevels.shut
  rw [Block.measuresNow_one hx.one, Block.tempMeasured]
  generalize x.noneMeasured.measureTemp readings = m at htaken hkept hlevel
  have hboot := hkept.boot_eq rfl rfl
  have hpend := (hkept.pend_eq rfl).trans hx.pend
  have hmsets := (hkept.sets_eq rfl).trans hsets
  have hruns : m.boot.phase = .running := by rw [hboot, hx.runs]
  by_cases hhot : b.level16 3 ≤ b.takenTemp readings
  · have htold : Keeps [.boot, .regs, .ev] m (m.shutdownLevel (dieTemp readings m.env.voted).2) := Block.shutdownLevel_keeps (.refl _ _) rfl
    rw [Block.shutdownLevel_hot hruns (by rw [hboot, hx.restart]; decide) (by rw [hlevel, htaken.tDie]; exact hhot)] at htold ⊢
    generalize hy : ((m.raise 0xF8 [.int 16 m.env.tDie, .id 4 (dieTemp readings m.env.voted).2]).onBoot fun k => { k with restartDue := 3 }) = y at htold ⊢
    have hyboot : y.boot = { m.boot with restartDue := 3 } := by rw [← hy, Block.onBoot, Block.raise_boot]
    have hydie : EntryIs 0x740001 (twos 32 (4096 * b.takenTemp readings)) y := hy ▸ (htaken.die.raise (by decide) _).same rfl
    have hylatched : Latches 0xF8 y := hy ▸ Latches.same ⟨by decide, Block.latched_raise_self _ (by decide) _⟩ rfl
    obtain ⟨hzkept, hzdie⟩ := Block.throttleCounted hydie
    have hzlatched : Latches 0xF8 (y.when y.env.throttle fun b => b.bump 0x740304 1) := hylatched.when fun _ hx => hx.bump 1 (by decide)
    generalize y.when y.env.throttle (fun b => b.bump 0x740304 1) = z at hzkept hzdie hzlatched ⊢
    have hzboot := (hzkept.boot_eq rfl rfl).trans hyboot
    obtain ⟨w, hw, hwrites⟩ := Block.writesNow_idle (b := z) (by rw [hzboot]; exact (congrArg _ hboot).trans hx.resets)
      (by rw [hzkept.pend_eq rfl, htold.pend_eq rfl, hpend]) (.inr (by rw [hzboot]))
    rw [hwrites, if_pos (by rw [hzboot])]
    have hwtaken := ((htaken.keeps htold rfl hydie).keeps hzkept rfl hzdie).keeps hw rfl (hzdie.keeps hw rfl)
    have hwlatched := hzlatched.keeps hw rfl
    have hwsets : w.sets = b.sets := (hw.sets_eq rfl).trans ((hzkept.sets_eq rfl).trans ((htold.sets_eq rfl).trans hmsets))
    refine ⟨hwsets, Taken.shutDown ⟨hwtaken.measured, hwtaken.read, hwtaken.voted, hwtaken.tDie, hwtaken.warning, hwtaken.die.same rfl⟩,
      fun _ => ⟨rfl, rfl, ?_⟩, fun h => absurd hhot (by omega)⟩
    exact (hwlatched.same (y := w.onBoot fun k => { k with restartDue := 0 }) rfl).keeps
      (Block.shutDown_keeps (.refl [.boot, .time, .frm, .env] _) rfl) rfl
  · rw [Block.shutdownLevel_cool hruns (by rw [hlevel, htaken.tDie]; omega)]
    obtain ⟨hcounted, hdie⟩ := Block.throttleCounted htaken.die
    generalize m.when m.env.throttle (fun b => b.bump 0x740304 1) = z at hcounted hdie ⊢
    have hzboot := (hcounted.boot_eq rfl rfl).trans hboot
    obtain ⟨w, hw, hwrites⟩ := Block.writesNow_idle (b := z) (by rw [hzboot, hx.resets]) (by rw [hcounted.pend_eq rfl, hpend])
      (.inl (by rw [hzboot, hx.restart]))
    rw [hwrites, if_neg (by rw [hzboot, hx.restart]; decide)]
    exact ⟨(hw.sets_eq rfl).trans ((hcounted.sets_eq rfl).trans hmsets), (htaken.keeps hcounted rfl hdie).keeps hw rfl (hdie.keeps hw rfl), fun h => absurd h hhot,
      fun _ => by rw [hw.boot_eq rfl rfl, hzboot, hx.runs]⟩

theorem Block.takeWaiting_none (hnone : b.sets.waiting = none) : b.takeWaiting = b := by
  unfold Block.takeWaiting
  rw [hnone]

/-- What a boundary ends with tells of the alert and lets messages leave. -/
theorem TempJudged.told {x : Block} (hx : TempJudged b readings x) : TempJudged b readings x.judgeAlert.drainPaths := by
  have hkept : Keeps [.queues, .mrg, .twin, .regs, .dict, .ev] x x.judgeAlert.drainPaths :=
    Block.drainPaths_keeps (Block.judgeAlert_keeps (.refl _ _) rfl) rfl
  have hjudged : Keeps [.ev] x x.judgeAlert := Block.judgeAlert_keeps (.refl _ _) rfl
  have hboot := hkept.boot_eq rfl rfl
  refine ⟨(hkept.sets_eq rfl).trans hx.sets, hx.taken.keeps hkept rfl (hx.taken.die.keeps hjudged rfl).drainPaths, fun h => ?_, fun h => ?_⟩
  · obtain ⟨hphase, hlock, hlatched⟩ := hx.hot h
    exact ⟨by rw [hboot, hphase], by rw [hkept.time_eq rfl rfl, hlock], (hlatched.keeps hjudged rfl).drainPaths⟩
  · rw [hboot, hx.cool h]

/-- The clock of a boundary and the replies that leave at it change nothing that a measurement rests on. -/
theorem Block.idleBoundary_judged (hb : WaitsForTemp b readings) (hswaps : b.dict.swaps = []) (hwaiting : b.sets.waiting = none)
    (i : CrossInput) : TempJudged b readings (b.idleBoundary i) := by
  have hkept : Keeps [.time, .regs, .dict, .ev] b (b.repliesOut.clockNow i.fx) := Block.clockNow_keeps (Block.repliesOut_keeps (.refl _ _) rfl) rfl
  have hpend : (b.repliesOut.clockNow i.fx).dict.pend = b.dict.pend :=
    (Block.clockNow_keeps (ps := [.time, .regs, .ev]) (.refl _ _) rfl).pend_eq rfl
  have hlevels : SameLevels b (b.repliesOut.clockNow i.fx) := .of_entries fun k hk => by
    simp only [List.mem_cons, List.not_mem_nil, or_false] at hk
    obtain rfl | rfl | rfl := hk
    all_goals exact EntryIs.clockNow (EntryIs.repliesOut ⟨by decide, rfl⟩) i.fx
  unfold Block.idleBoundary
  dsimp only
  rw [Block.swapsTaken_none hswaps]
  generalize b.repliesOut.clockNow i.fx = x at hkept hpend hlevels
  have henv := hkept.env_eq rfl
  have hboot := hkept.boot_eq rfl rfl
  have hsets := hkept.sets_eq rfl
  have hjudged : TempJudged b readings x.measuresNow.writesNow :=
    .measuresNow ⟨by rw [hboot, hb.runs], by rw [henv, hb.one], by rw [hpend, hb.pend], by rw [hboot, hb.restart], by rw [hboot, hb.resets]⟩
      (by rw [henv]) (by rw [henv]) (by rw [henv]) hlevels hsets
  unfold Block.when
  split
  · beta_reduce
    rw [Block.takeWaiting_none (by rw [hjudged.sets, hwaiting])]
    exact hjudged.told
  · exact hjudged

end

/-! ### Scrub cycles (R376, R377) -/

section

variable {a b : Block} {f : ScrubFind} {found : List ScrubFind} {k v : Nat}

/-- What the scrub reads depends on its place and on the plan of the set in force. -/
theorem Block.scrubbed_congr (hflt : b.flt = a.flt) (hsets : b.sets = a.sets) (f : ScrubFind) : b.scrubbed f = a.scrubbed f := by
  unfold Block.scrubbed Block.scrubAddr Block.scrubBy Block.active
  rw [hflt, hsets]

theorem Block.scrubAged_fresh (hfresh : b.flt.poisoned.filter (fun p => decide (p.at_ + p.pass < b.time.now)) = []) : b.scrubAged = b := by
  unfold Block.scrubAged
  dsimp only
  rw [hfresh]
  rfl

theorem Block.corrected_keeps_regs (b : Block) (f : ScrubFind) : Keeps [.regs] b (b.corrected f) := by
  unfold Block.corrected
  have hcounted : Keeps [.regs] b (b.bump 0x6C0103 1) := Block.bump_keeps (.refl _ _) rfl
  dsimp only
  split
  · exact Block.bump_keeps hcounted rfl
  · exact Block.bump_keeps hcounted rfl
  · exact hcounted

theorem stackKey_low (r : Fin 16) : stackKey r.val 8 < 0x6C0000 := by unfold stackKey; omega

/-- A correction counts in its total, and in an entry of its stack. -/
theorem EntryIs.countedIn (hb : EntryIs k v (b.bump 0x6C0103 1)) (hk : 0x6C0000 ≤ k) (f : ScrubFind) : EntryIs k v (b.corrected f) := by
  have hstack (r : Fin 16) : k ≠ stackKey r.val 8 := by have := stackKey_low r; omega
  unfold Block.corrected
  dsimp only
  split
  · exact hb.bump 1 (hstack _)
  · exact hb.bump 1 (hstack _)
  · exact hb

/-- A scrub cycle that corrects everything it finds: the total grows by one for each, and of the rest only the stacks' counts change. -/
theorem Block.scrub_corrects (hall : ∀ f ∈ found, f.uncorrectable = false ∧ b.scrubbed f = true) :
    Keeps [.regs] b (forEach found b fun f b => b.scrubFind f) ∧
      EntryIs 0x6C0103 (b.reg 0x6C0103 + found.length) (forEach found b fun f b => b.scrubFind f) ∧
      EntryIs 0x6C0104 (b.reg 0x6C0104) (forEach found b fun f b => b.scrubFind f) := by
  induction found generalizing b with
  | nil => exact ⟨.refl _ _, ⟨by decide, rfl⟩, ⟨by decide, rfl⟩⟩
  | cons f found ih =>
    obtain ⟨⟨hcorrectable, hread⟩, hrest⟩ := List.forall_mem_cons.mp hall
    have hfind : b.scrubFind f = b.corrected f := by
      unfold Block.scrubFind
      rw [hread, hcorrectable]
      rfl
    have hkept := b.corrected_keeps_regs f
    have htotal : EntryIs 0x6C0103 (b.reg 0x6C0103 + 1) (b.corrected f) := (EntryIs.bumped b (by decide) 1).countedIn (by decide) f
    have hother : EntryIs 0x6C0104 (b.reg 0x6C0104) (b.corrected f) :=
      EntryIs.countedIn (.bump ⟨by decide, rfl⟩ 1 (by decide)) (by decide) f
    obtain ⟨hkeeps, hcount, hsame⟩ := ih (b := b.corrected f) fun g hg =>
      ⟨(hrest g hg).1, (Block.scrubbed_congr (hkept.flt_eq rfl) (hkept.sets_eq rfl) g).trans (hrest g hg).2⟩
    have hunfold : (forEach (f :: found) b fun f b => b.scrubFind f) = forEach found (b.corrected f) fun f b => b.scrubFind f := by
      rw [← hfind]
      rfl
    rw [hunfold]
    refine ⟨hkept.trans hkeeps, ⟨hcount.plain, hcount.reg.trans ?_⟩, ⟨hsame.plain, hsame.reg.trans hother.reg⟩⟩
    rw [htotal.reg, List.length_cons]
    omega

/-- Findings in words that the scrub does not read, and that nothing reads, are none. -/
theorem Block.scrub_unread (hall : ∀ f ∈ found, b.scrubbed f = false) : (forEach found b fun f b => b.scrubFind f) = b := by
  induction found with
  | nil => rfl
  | cons f found ih =>
    obtain ⟨hunread, hrest⟩ := List.forall_mem_cons.mp hall
    have hfind : b.scrubFind f = b := by
      unfold Block.scrubFind
      rw [hunread]
      rfl
    exact (congrArg (fun x => forEach found x fun f b => b.scrubFind f) hfind).trans (ih hrest)

/-! An uncorrectable error of the configuration set's memory. -/

/-- One more transient of a site that has had few: its site's account, its count and its telling. -/
theorem Block.transient_of_few {id : Nat} (hfew : (b.siteTransients id).length < 15) :
    ∃ (times : List Nat) (l : List Fld), b.transient id = ((b.onSite id fun k => { k with times := times }).bump 0x6C0101 1).raiseOnce 0xC0 0 l := by
  refine ⟨_, _, if_neg ?_⟩
  simp only [List.length_drop, List.length_append, List.length_singleton]
  omega

/-- The poisoned word of a configuration set, as it is kept. -/
def Block.setPoison (b : Block) (f : ScrubFind) : Poison :=
  { bank := f.bank.toNat, word := f.word.toNat, at_ := b.time.now, pass := 16384, unit := true }

/-- An error of the configuration set's memory that cannot be corrected: counted, told, and its word poisoned. -/
structure SetPoisoned (a : Block) (f : ScrubFind) (b : Block) : Prop where
  corrected : EntryIs 0x6C0103 (a.reg 0x6C0103) b
  uncorrected : EntryIs 0x6C0104 (a.reg 0x6C0104 + 1) b
  bank : EntryIs 0x6C0106 f.bank.toNat b
  told : Latches 0xC7 b
  now : b.time.now = a.time.now

theorem SetPoisoned.of {x y : Block} (hx : SetPoisoned a f x) (hentry : ∀ k v, 0x6C0102 < k → k ≠ 0x6C0105 → EntryIs k v x → EntryIs k v y)
    (hlatch : Latches 0xC7 x → Latches 0xC7 y) (hnow : y.time.now = x.time.now) : SetPoisoned a f y :=
  ⟨hentry _ _ (by decide) (by decide) hx.corrected, hentry _ _ (by decide) (by decide) hx.uncorrected,
    hentry _ _ (by decide) (by decide) hx.bank, hlatch hx.told, hnow.trans hx.now⟩

theorem SetPoisoned.counted (a : Block) (f : ScrubFind) (l : List Fld) :
    SetPoisoned a f (((a.bump 0x6C0104 1).setReg 0x6C0106 f.bank.toNat).raiseOnce 0xC7 0 l) :=
  ⟨(((EntryIs.bump ⟨by decide, rfl⟩ 1 (by decide)).setReg _ (by decide)).raiseOnce (by decide) _ _),
    ((EntryIs.bumped a (by decide) 1).setReg _ (by decide)).raiseOnce (by decide) _ _, (EntryIs.set _ (by decide) _).raiseOnce (by decide) _ _,
    ⟨by decide, Block.latched_raiseOnce_self _ (by decide) _ _⟩,
    (Block.raiseOnce_keeps (ps := [.regs, .ev]) (Block.setReg_keeps (Block.bump_keeps (.refl _ _) rfl) rfl) rfl).now_eq rfl⟩

theorem SetPoisoned.transient {x : Block} (hx : SetPoisoned a f x) {id : Nat} (hfew : (x.siteTransients id).length < 15) :
    SetPoisoned a f (x.transient id) ∧ (x.transient id).flt.poisoned = x.flt.poisoned := by
  obtain ⟨times, l, heq⟩ := Block.transient_of_few hfew
  rw [heq]
  refine ⟨hx.of (fun k v hk _ he => .raiseOnce (.bump ?_ 1 (by omega)) (by decide) _ _) (fun h => .raiseOnce (.bump ?_ 1 (by decide)) _ _ _) ?_, ?_⟩
  · exact he.same rfl
  · exact h.same rfl
  · rw [(Block.raiseOnce_keeps (ps := [.regs, .ev]) (Block.bump_keeps (.refl _ _) rfl) rfl).now_eq rfl]
    rfl
  · rw [(Block.raiseOnce_keeps (ps := [.regs, .ev]) (Block.bump_keeps (.refl _ _) rfl) rfl).flt_eq rfl]
    rfl

theorem Block.poisonWord_set (hmemory : f.memory = .configSet) : b.poisonWord f = b.bump 0x6C0105 1 := by
  unfold Block.poisonWord
  rw [hmemory]

theorem Block.uncorrectable_set (hmemory : f.memory = .configSet) (hfresh : b.flt.poisoned = [])
    (hfew : (b.siteTransients (siteId 6 f.bank.toNat)).length < 15) :
    SetPoisoned b f (b.uncorrectable f) ∧ (b.uncorrectable f).flt.poisoned = [b.setPoison f] := by
  unfold Block.uncorrectable
  dsimp only
  have hcounted := SetPoisoned.counted b f [.id 16 f.bank.toNat, .id 16 f.word.toNat]
  have hkept : Keeps [.regs, .ev] b (((b.bump 0x6C0104 1).setReg 0x6C0106 f.bank.toNat).raiseOnce 0xC7 0 [.id 16 f.bank.toNat, .id 16 f.word.toNat]) :=
    Block.raiseOnce_keeps (Block.setReg_keeps (Block.bump_keeps (.refl _ _) rfl) rfl) rfl
  generalize ((b.bump 0x6C0104 1).setReg 0x6C0106 f.bank.toNat).raiseOnce 0xC7 0 [.id 16 f.bank.toNat, .id 16 f.word.toNat] = x at hcounted hkept
  have hpoisoned : x.flt.poisoned = [] := by rw [hkept.flt_eq rfl, hfresh]
  have hretry : x.poisonRetry f = x := by
    unfold Block.poisonRetry
    rw [hpoisoned]
    rfl
  rw [hretry]
  obtain ⟨htransient, hstill⟩ := hcounted.transient (id := siteId 6 f.bank.toNat) (by rwa [hkept.siteTransients_eq rfl rfl])
  generalize x.transient (siteId 6 f.bank.toNat) = y at htransient hstill
  have hpoison : ({ bank := f.bank.toNat, word := f.word.toNat, at_ := y.time.now, pass := scrubPass f.memory, unit := unitMemory f.memory } : Poison) =
      b.setPoison f := by
    rw [htransient.now, hmemory]
    rfl
  rw [if_neg (by rw [hmemory]; decide)]
  generalize hz : y.onFlt _ = z
  have hlisted : z.flt.poisoned = [b.setPoison f] := by
    rw [← hz, Block.onFlt, hstill, hpoisoned, hpoison]
    rfl
  have hz' : SetPoisoned b f z := hz ▸ htransient.of (fun k v _ _ he => he.same rfl) (fun h => h.same rfl) rfl
  rw [Block.poisonWord_set hmemory]
  have hbumped : SetPoisoned b f (z.bump 0x6C0105 1) :=
    hz'.of (fun k v _ hk he => he.bump 1 hk) (fun h => h.bump 1 (by decide)) ((Block.bump_keeps (.refl [.regs] _) rfl).now_eq rfl)
  have hkeeps : Keeps [.twin, .regs, .ev] z (((z.bump 0x6C0105 1).testFails 4).sourceFail 2) :=
    Block.sourceFail_keeps (Block.testFails_keeps (Block.bump_keeps (.refl _ _) rfl) rfl) rfl
  have hfails : SetPoisoned b f (((z.bump 0x6C0105 1).testFails 4).sourceFail 2) := by
    refine hbumped.of (fun k v _ _ he => .sourceFail ?_ 2) (fun h => .sourceFail ?_ 2) (hkeeps.now_eq rfl |>.trans ?_)
    · exact he.keeps (Block.testFails_keeps (.refl [.twin] _) rfl) rfl
    · exact h.keeps (Block.testFails_keeps (.refl [.twin] _) rfl) rfl
    · exact ((Block.bump_keeps (.refl [.regs] _) rfl).now_eq rfl).symm
  generalize ((z.bump 0x6C0105 1).testFails 4).sourceFail 2 = w at hkeeps hfails
  have hclaim (c : Bool) : Keeps [.twin] w (w.when c fun b => b.onTwin fun t => { t with claim := 0 }) :=
    .when (.refl _ _) fun _ hx => Block.onTwin_keeps hx rfl
  exact ⟨hfails.of (fun k v _ _ he => he.keeps (hclaim _) rfl) (fun h => h.keeps (hclaim _) rfl) ((hclaim _).now_eq rfl),
    by rw [(hclaim _).flt_eq rfl, hkeeps.flt_eq rfl, hlisted]⟩

/-- A word that has been poisoned in this crossing ages with no pass. -/
theorem Block.scrubAged_poisoned {p : Poison} (hlist : b.flt.poisoned = [p]) (hnow : b.time.now ≤ p.at_ + p.pass) : b.scrubAged = b :=
  Block.scrubAged_fresh (by rw [hlist]; simpa using hnow)

end

/-! ### Over-contract records that age (R220) -/

section

variable {b : Block} {sel : QRec → Bool} {mark : QRec → QRec}

/-- All the records that a test selects leave, and as many more as are asked for stay to be taken. -/
theorem takeSel_all (l : List QRec) (n : Nat) :
    takeSel sel mark ((l.filter sel).length + n) l = (n, l.filter fun r => !sel r) := by
  induction l with
  | nil => simp [takeSel]
  | cons r l ih =>
    cases hr : sel r
    · simp [takeSel, hr, ih]
    · simp only [List.filter_cons, hr, if_true, List.length_cons, Bool.not_true]
      rw [show (l.filter sel).length + 1 + n = (l.filter sel).length + n + 1 by omega, takeSel]
      simp [hr, ih]

theorem takeSelWords_all (l : List QWord) (n : Nat) :
    takeSelWords sel mark (((l.flatMap QWord.recs).filter sel).length + n) l =
      (n, l.map fun w => { w with recs := w.recs.filter fun r => !sel r }) := by
  induction l with
  | nil => simp [takeSelWords]
  | cons w l ih =>
    rw [List.flatMap_cons, List.filter_append, List.length_append, takeSelWords, Nat.add_assoc, takeSel_all]
    dsimp only
    rw [ih, List.map_cons]

theorem flatMap_recs_filter (l : List QWord) :
    (((l.map fun w => { w with recs := w.recs.filter fun r => !sel r }).filter fun w => !w.recs.isEmpty).flatMap QWord.recs) =
      (l.flatMap QWord.recs).filter fun r => !sel r := by
  induction l with
  | nil => rfl
  | cons w l ih =>
    rw [List.map_cons, List.filter_cons, List.flatMap_cons, List.filter_append, ← ih]
    split
    · rfl
    next hempty =>
      have hnone : (w.recs.filter fun r => !sel r) = [] := by simpa using hempty
      rw [hnone, List.nil_append]

/-- The records that a test selects leave RQ. -/
theorem Block.rqUpdate_all (b : Block) (p : Nat) :
    (b.rqUpdate p sel ((b.rqRecs p).filter sel).length mark).rqRecs p = (b.rqRecs p).filter fun r => !sel r := by
  unfold Block.rqUpdate
  obtain ⟨notice, hqueue⟩ := Block.queueNotice_queue (b.onQueue (rqOf p) fun u =>
    let s := takeSelWords sel mark ((b.rqRecs p).filter sel).length u.words
    { u with words := s.2.filter fun w => !w.recs.isEmpty, open_ := (takeSel sel mark s.1 u.open_).2 }) (rqOf p)
  have hlength : ((b.rqRecs p).filter sel).length =
      (((b.queue (rqOf p)).words.flatMap QWord.recs).filter sel).length + (((b.queue (rqOf p)).open_.filter sel).length + 0) := by
    rw [Block.rqRecs, List.filter_append, List.length_append, Nat.add_zero]
  conv_lhs => rw [Block.rqRecs, hqueue, Block.queue_onQueue_same]
  dsimp only
  rw [hlength, takeSelWords_all, takeSel_all, flatMap_recs_filter, ← List.filter_append]
  rfl

theorem mapLast_ne_nil {α : Type} (f : α → α) {l : List α} (h : l ≠ []) : mapLast f l ≠ [] := by
  unfold mapLast
  split <;> simp_all

/-- A port that holds a withdrawal holds one still when more come. -/
theorem Block.portWithdraw_wds (b : Block) (p : Nat) (r : QRec) : ((b.portWithdraw p r).port p).wds ≠ [] := by
  unfold Block.portWithdraw
  split
  next hjoins =>
    rw [Block.port_onPort_same]
    refine mapLast_ne_nil _ fun hnil => ?_
    rw [hnil] at hjoins
    simp at hjoins
  next =>
    rw [Block.port_onPort_same]
    simp

/-- One withdrawal of one record. -/
theorem Block.portWithdrawals_one (b : Block) (p reason kind site x : Nat) (hdr : Option Word64) :
    ∃ w, b.portWithdrawals p reason kind site x 1 hdr = b.portWithdraw p { word := w, cross := x, hdr := hdr, own := true } :=
  ⟨_, rfl⟩

/-- A withdrawal for each record of a list that is not empty. -/
theorem Block.withdrawEach_wds {l : List QRec} (hl : l ≠ []) (b : Block) (p kind site : Nat) (reason : QRec → Nat) :
    ((forEach l b fun q b => b.portWithdrawals p (reason q) kind site q.cross 1 q.hdr).port p).wds ≠ [] := by
  obtain ⟨init, q, rfl⟩ := (List.eq_nil_or_concat' l).resolve_left hl
  unfold forEach
  rw [List.foldl_append, List.foldl_cons, List.foldl_nil]
  obtain ⟨w, hone⟩ := Block.portWithdrawals_one (init.foldl (fun b q => b.portWithdrawals p (reason q) kind site q.cross 1 q.hdr) b) p (reason q)
    kind site q.cross q.hdr
  beta_reduce
  rw [hone]
  exact Block.portWithdraw_wds _ _ _

theorem EntryIs.portWithdraw {k v : Nat} (hb : EntryIs k v b) (p : Nat) (r : QRec) : EntryIs k v (b.portWithdraw p r) :=
  .ite (hb.same rfl) ((hb.countWithdrawal _ _).same rfl)

/-- The entry that counts a port's aged records is plain. -/
theorem plainKey_port (p : Port) : plainKey (0x210005 + 256 * (p.val + 1)) = true := by
  have hp := p.isLt
  simp only [plainKey, Bool.and_eq_true, Bool.not_eq_true', Bool.and_eq_false_iff, decide_eq_false_iff_not]
  omega

end

/-- Settles O59: a measurement is taken and judged at its boundary, a scrub cycle counts what it finds, and aged records leave as withdrawals. -/
theorem upkeepIsDone : Obligations.UpkeepIsDone := by
  unfold Obligations.UpkeepIsDone
  refine ⟨fun readings s hlength hserved => ?_, fun readings i s hruns hlock hone hpend hswaps hrestart hresets hwaiting => ?_,
    fun found s hruns hlock hfresh => ⟨fun hall => ?_, fun f hfound hread huncorrectable hmemory hfew => ?_, fun hall => ?_⟩,
    fun p s hruns hrole => ?_⟩
  · refine does_of_when (if_pos (decide_eq_true hlength)) hserved rfl
  · have hrunning : s.blk.boot.phase = .running := of_decide_eq_true hruns
    have hjudged := Block.idleBoundary_judged ⟨hrunning, hone, hpend, hrestart, hresets⟩ hswaps hwaiting i
    have hidle : s.blk.boundaryCmd i false = s.blk.idleBoundary i := by
      rw [Block.boundaryCmd_idle _ _ (by rw [hlock, Bool.and_false]), Block.when, if_pos (by simp [Block.served, hruns])]
    refine does_of_next rfl ?_
    beta_reduce
    rw [hidle]
    obtain ⟨_, ⟨hmeasured, hread, hvoted, hdie, hwarning, hentry⟩, hhot, hcool⟩ := hjudged
    intro t
    have ht : t = s.blk.takenTemp readings := congrArg (fun l => (dieTemp readings l).1) hvoted
    rw [ht]
    refine ⟨hmeasured, hread, hvoted, hdie, hentry.reg, hwarning, fun h => ?_, hcool⟩
    obtain ⟨hphase, hunlocked, hlatched⟩ := hhot h
    exact ⟨hphase, hunlocked, hlatched.set⟩
  · refine does_of_when rfl (by rw [hruns, hlock]; rfl) ?_
    obtain ⟨hkept, htotal, huncorrected⟩ := Block.scrub_corrects hall
    have haged : s.blk.scrub found = forEach found s.blk fun f b => b.scrubFind f :=
      Block.scrubAged_fresh (by rw [hkept.flt_eq rfl, hfresh]; rfl)
    rw [haged]
    exact ⟨htotal.reg, huncorrected.reg, hkept.flt_eq rfl⟩
  · refine does_of_when rfl (by rw [hruns, hlock]; rfl) ?_
    obtain ⟨hpoisoned, hlist⟩ := Block.uncorrectable_set hmemory hfresh hfew
    have hfind : s.blk.scrub found = (s.blk.uncorrectable f).scrubAged := by
      unfold Block.scrub
      rw [hfound]
      show (s.blk.scrubFind f).scrubAged = _
      rw [Block.scrubFind, hread, huncorrectable]
      rfl
    rw [hfind, Block.scrubAged_poisoned hlist (by rw [hpoisoned.now]; exact Nat.le_add_right ..)]
    exact ⟨hpoisoned.corrected.reg, hpoisoned.uncorrected.reg, hpoisoned.bank.reg, hpoisoned.told.set, hlist⟩
  · refine exec_of_when_same rfl ?_
    unfold Block.scrub
    rw [Block.scrub_unread hall, Block.scrubAged_fresh (by rw [hfresh]; rfl)]
  · intro old recs
    refine ⟨fun hnone => exec_of_when_same rfl ?_, fun hsome => does_of_when rfl (by rw [hruns, hrole]; rfl) ?_⟩
    · have hnone' : recs.filter old = [] := by simpa [List.filter_eq_nil_iff] using hnone
      exact if_pos (List.isEmpty_iff.mpr hnone')
    · have hold : recs.filter old ≠ [] := by
        obtain ⟨r, hr, hold⟩ := List.any_eq_true.mp hsome
        exact List.ne_nil_of_mem (List.mem_filter.mpr ⟨hr, hold⟩)
      generalize hx : (s.blk.rqUpdate (p.val + 1) old (recs.filter old).length id).bump (0x210005 + 256 * (p.val + 1)) (recs.filter old).length = x
      have haged : s.blk.aged (p.val + 1) = forEach (recs.filter old) x fun q b =>
          b.portWithdrawals (p.val + 1) (if q.throttled then 4 else 1) sitePort (p.val + 1) q.cross 1 q.hdr := by
        rw [← hx]
        exact if_neg (mt List.isEmpty_iff.mp hold)
      rw [haged]
      refine ⟨?_, ?_, Block.withdrawEach_wds hold _ _ _ _ fun q => if q.throttled then 4 else 1⟩
      · have hrecs : x.rqRecs (p.val + 1) = recs.filter fun r => !old r := by
          rw [← hx, ← Block.rqUpdate_all (mark := id) s.blk (p.val + 1)]
          unfold Block.rqRecs Block.queue
          rw [Block.bump_queues]
          rfl
        unfold Block.rqRecs Block.queue at hrecs ⊢
        rw [(Keeps.forEach (l := [.mrg, .regs, .ev]) (.refl _ x) fun _ _ hy => Block.portWithdrawals_keeps hy rfl).queues_eq rfl]
        exact hrecs
      · have hplain : plainKey (0x210005 + 256 * (p.val + 1)) = true := plainKey_port p
        have hcount : EntryIs (0x210005 + 256 * (p.val + 1)) (s.blk.reg (0x210005 + 256 * (p.val + 1)) + (recs.filter old).length) x := by
          rw [← hx]
          have hstays : EntryIs (0x210005 + 256 * (p.val + 1)) (s.blk.reg (0x210005 + 256 * (p.val + 1)))
              (s.blk.rqUpdate (p.val + 1) old (recs.filter old).length id) :=
            EntryIs.queueNotice (by unfold rqOf; omega) (.same ⟨hplain, rfl⟩ rfl)
          rw [← hstays.reg]
          exact .bumped _ hplain _
        exact (EntryIs.forEach hcount fun _ _ hy => hy.portWithdraw _ _).reg

end Sys2Proof.Machine
end

section
/-! PROOFS. Twin units: cross-link frames, self-tests and the decision after a mismatch (R352, R361, R362). -/

namespace Sys2Proof.Machine

/-! ### What claims are compared by (R351, R362) -/

section

variable {a b x y : Block} {ps : List Part}

theorem Keeps.sameUnit_eq (h : Keeps ps a b) (hfrm : ps.contains .frm = false) (hrole : ps.contains .role = false) : b.sameUnit = a.sameUnit := by
  obtain ⟨_, hunit⟩ := h.straps_eq hrole
  unfold Block.sameUnit Block.rxActive Block.lane
  rw [h.frm_eq hfrm, hunit]

theorem Keeps.claimLower_eq (h : Keeps ps a b) (hfrm : ps.contains .frm = false) (hrole : ps.contains .role = false)
    (htwin : ps.contains .twin = false) : b.claimLower = a.claimLower := by
  obtain ⟨_, hunit⟩ := h.straps_eq hrole
  unfold Block.claimLower Block.lastClaim
  rw [h.sameUnit_eq hfrm hrole, h.twin_eq htwin, hunit]

theorem Keeps.isTwin_eq (h : Keeps ps a b) (hrole : ps.contains .role = false) (hsets : ps.contains .sets = false) : b.isTwin = a.isTwin := by
  obtain ⟨hcore, _⟩ := h.straps_eq hrole
  unfold Block.isTwin Block.cRole Block.topology
  rw [hcore, h.sets_eq hsets]

/-- Comparing claims changes the unit's state and no more of the twin pair. -/
theorem Block.judgeClaims_twin (b : Block) : ∃ st, b.judgeClaims.twin = { b.twin with state := st } := by
  unfold Block.judgeClaims
  dsimp only
  split
  · refine ⟨b.stateBeside b.twin.claim b.partnerClaim, ?_⟩
    split
    · rw [Block.raise_twin, Block.bump_twin]
      rfl
    · rfl
  · exact ⟨b.twin.state, rfl⟩

end

/-! ### Self-tests (R361) -/

section

variable {b : Block} {m : Nat}

/-- A test that finds nothing: no check of the logic fails, and it follows no mismatch. -/
theorem Block.testEnd_passes (hclean : b.twin.testFail = 0) (hfree : ∀ v ∈ b.twin.verdicts, v.1 ≠ m + 15) :
    (b.testEnd m 0).twin = { b.twin with test := none, failCheck := 0, result := 2, sources := b.twin.sources.filter (· != 7) } ∧
      (b.testEnd m 0).latched 0xB3 = true := by
  have hdecides : b.testDecides m = false := by
    unfold Block.testDecides
    rw [List.any_eq_false]
    exact fun v hv => by simpa using hfree v hv
  have hcheck : b.testCheck m 0 = 0 := by
    unfold Block.testCheck
    rw [hclean, hdecides]
    rfl
  have hverdicts : (b.twin.verdicts.map fun v => if v.1 = m + 15 then (v.1, 2, v.2.2) else v) = b.twin.verdicts := by
    conv_rhs => rw [← List.map_id b.twin.verdicts]
    exact List.map_congr_left fun v hv => if_neg (hfree v hv)
  unfold Block.testEnd
  dsimp only
  rw [hcheck, hdecides]
  refine ⟨(Block.raise_twin ..).trans ?_, Block.latched_raise_self _ (by decide) _⟩
  show ({ b.twin with test := none, failCheck := 0, result := 2, sources := b.twin.sources.filter (· != 7)
                      verdicts := b.twin.verdicts.map fun v => if v.1 = m + 15 then (v.1, 2, v.2.2) else v } : Twin) = _
  rw [hverdicts]

/-- Of a unit's test and its sources: the source stands, and a unit that runs is released. -/
structure Released (a b : Block) (src : Nat) : Prop where
  stands : src ∈ b.twin.sources
  released : a.twin.entered = true → a.twin.state ≠ .released → b.twin.state = .released ∧ b.twin.claimDue = some 0
  test : b.twin.test = a.twin.test
  check : b.twin.failCheck = a.twin.failCheck
  result : b.twin.result = a.twin.result

/-- A source of self-diagnosis that fails in a twin unit stands, and a unit that runs is released with it. -/
theorem Block.sourceFail_released (htwin : b.isTwin = true) (src : Nat) : Released b (b.sourceFail src) src := by
  have hlisted (x : Block) (hstands : src ∈ x.twin.sources) (hentered : x.twin.entered = b.twin.entered) (hstate : x.twin.state = b.twin.state)
      (htest : x.twin.test = b.twin.test) (hcheck : x.twin.failCheck = b.twin.failCheck) (hresult : x.twin.result = b.twin.result) :
      Released b (if x.twin.entered && x.twin.state != .released then x.releaseClaim src else x) src := by
    split
    next => exact ⟨by rwa [Block.releaseClaim, Block.raise_twin], fun _ _ => by rw [Block.releaseClaim, Block.raise_twin]; exact ⟨rfl, rfl⟩,
      by rwa [Block.releaseClaim, Block.raise_twin], by rwa [Block.releaseClaim, Block.raise_twin], by rwa [Block.releaseClaim, Block.raise_twin]⟩
    next hstays =>
      exact ⟨hstands, fun henter hrun => absurd (by rw [hentered, hstate, henter]; simpa using hrun) hstays, htest, hcheck, hresult⟩
  unfold Block.sourceFail
  rw [htwin, if_neg (by decide)]
  by_cases hnew : b.twin.sources.contains src = true
  · rw [if_pos hnew]
    exact hlisted b (by simpa using hnew) rfl rfl rfl rfl rfl
  · rw [if_neg hnew]
    exact hlisted _ (List.mem_append_right _ (List.mem_singleton.mpr rfl)) rfl rfl rfl rfl rfl

/-- A test that has failed, before its source stands: counted and told. -/
def Block.testFailed (b : Block) (m : Nat) : Block :=
  ((b.onTwin fun t => { t with
    test := none, failCheck := 1, result := 3,
    verdicts := t.verdicts.map fun v => if v.1 = m + 15 then (v.1, 3, v.2.2) else v }).bump 0x682004 1).testEvent 3 0

theorem Block.testEnd_fails {other : Nat} (hfails : other.testBit 0 = true) : b.testEnd m other = (b.testFailed m).sourceFail 7 := by
  have hcheck : b.testCheck m other = 1 := if_pos hfails
  unfold Block.testEnd
  rw [hcheck]
  rfl

theorem Block.testFailed_twin (b : Block) (m : Nat) : ∃ v, (b.testFailed m).twin = { b.twin with test := none, failCheck := 1, result := 3, verdicts := v } := by
  refine ⟨b.twin.verdicts.map fun v => if v.1 = m + 15 then (v.1, 3, v.2.2) else v, ?_⟩
  rw [Block.testFailed, Block.testEvent, Block.raise_twin, Block.bump_twin]
  rfl

theorem Block.testFailed_count (b : Block) (m : Nat) : EntryIs 0x682004 (b.reg 0x682004 + 1) (b.testFailed m) :=
  (EntryIs.bumped (b.onTwin _) (by decide) 1).raise (by decide) _

theorem Block.testFailed_isTwin (b : Block) (m : Nat) : (b.testFailed m).isTwin = b.isTwin :=
  (Block.raise_keeps (ps := [.twin, .regs, .ev]) (Block.bump_keeps (Block.onTwin_keeps (.refl _ b) rfl) rfl) rfl).isTwin_eq rfl rfl

theorem exec_selftestEnd {s : State} {other : BitVec 8} (htest : s.blk.twin.test = some m) :
    exec (.selftestEnd other) s = .next { s with
      blk := s.blk.when (s.blk.running && s.blk.isTwin && decide (m + 15 ≤ s.blk.time.now)) fun b => b.testEnd m other.toNat } := by
  show execSelftestEnd other s = _
  simp only [execSelftestEnd, State.run, htest]

end

/-! ### The decision after a mismatch (R362) -/

section

variable {b : Block} {at_ own partner : Nat} {rest : List (Nat × Nat × Nat)}

theorem exec_mismatchDecision {s : State} (hfirst : s.blk.twin.verdicts = (at_, own, partner) :: rest) :
    exec .mismatchDecision s = .next { s with
      blk := s.blk.when (s.blk.running && s.blk.isTwin && decide (at_ + s.blk.mirrorDelay ≤ s.blk.time.now)) fun b =>
        b.decideMismatch (at_, own, partner) } := by
  show execMismatchDecision s = _
  simp only [execMismatchDecision, State.run, hfirst]

/-- A decision has been told and its verdict is gone. -/
def Block.mismatchTold (b : Block) (v : Nat × Nat × Nat) : Block :=
  (b.onTwin fun t => { t with verdicts := t.verdicts.filter fun x => x.1 != v.1 }).testEvent v.2.1 v.2.2

theorem Block.mismatchTold_twin (hfirst : b.twin.verdicts = (at_, own, partner) :: rest) :
    (b.mismatchTold (at_, own, partner)).twin = { b.twin with verdicts := rest.filter fun v => v.1 != at_ } := by
  have hgone : b.twin.verdicts.filter (fun x => x.1 != at_) = rest.filter fun v => v.1 != at_ := by simp [hfirst]
  rw [← hgone]
  exact Block.raise_twin ..

theorem Block.mismatchTold_latched (b : Block) (v : Nat × Nat × Nat) : (b.mismatchTold v).latched 0xB3 = true :=
  Block.latched_raise_self _ (by decide) _

theorem Block.mismatchTold_told (b : Block) (v : Nat × Nat × Nat) :
    Keeps [.regs, .ev] (b.onTwin fun t => { t with verdicts := t.verdicts.filter fun x => x.1 != v.1 }) (b.mismatchTold v) :=
  Block.raise_keeps (.refl _ _) rfl

/-- Unless both units passed, a decision changes nothing more. -/
theorem Block.decideMismatch_stays (h : own ≠ 2 ∨ partner = 3) :
    b.decideMismatch (at_, own, partner) = b.mismatchTold (at_, own, partner) :=
  if_pos (h.elim .inl fun hp => .inr (.inl hp))

/-- Where both have passed, the claims decide. -/
theorem Block.decideMismatch_claims (hown : own = 2) (hpartner : partner ≠ 3) (hunits : b.sameUnit = false) :
    b.decideMismatch (at_, own, partner) =
      if b.claimLower then (b.mismatchTold (at_, own, partner)).enterResync else b.mismatchTold (at_, own, partner) := by
  have htold := b.mismatchTold_told (at_, own, partner)
  have hsame : (b.mismatchTold (at_, own, partner)).sameUnit = false := (htold.sameUnit_eq rfl rfl).trans hunits
  have hlower : (b.mismatchTold (at_, own, partner)).claimLower = b.claimLower := htold.claimLower_eq rfl rfl rfl
  refine (if_neg ?_).trans ?_
  · rintro (h | h | ⟨h, _⟩)
    · exact h hown
    · exact hpartner h
    · exact absurd (hsame.symm.trans h) (by decide)
  · rw [← hlower]
    rfl

theorem Block.enterResync_twin (b : Block) :
    b.enterResync.twin.state = .resync ∧ b.enterResync.twin.claimDue = some 0 ∧ b.enterResync.twin.phase = .waiting ∧
      b.enterResync.twin.verdicts = [] := by
  rw [Block.enterResync, Block.raise_twin]
  exact ⟨rfl, rfl, rfl, rfl⟩

theorem Block.enterResync_latched (b : Block) : b.enterResync.latched 0xB4 = true := Block.latched_raise_self _ (by decide) _

end

/-! ### A cross-link frame (R352) -/

section

variable {b : Block} {x : LineFrame} {f : CFrame} {r : Ref48}

/-- The other end's lane is an entry. -/
theorem Keeps.peerLane_eq {a y : Block} {ps : List Part} (h : Keeps ps a y)
    (hps : (ps.contains .regs || ps.contains .role || ps.contains .sets || ps.contains .fuses) = false) (l : Nat) : y.peerLane l = a.peerLane l := by
  simp only [Bool.or_eq_false_iff] at hps
  obtain ⟨⟨⟨hregs, hrole⟩, hsets⟩, hfuses⟩ := hps
  exact h.reg_eq hregs hrole hsets hfuses _

/-- One cross-link lane brings nothing and has kept no frame: nothing of it changes but that it has none. -/
theorem Block.crossLane_none {l : Nat} (hlast : (b.lane l).last = none) :
    b.crossLane l none = (none, none, b.onLane l fun k => { k with last := none }) := by
  unfold Block.crossLane Block.crossRegion
  dsimp only
  rw [hlast]

/-- A good frame at an Active half of the cross-link, with no frame before it, is taken. -/
theorem Block.crossLane_taken {l : Nat} (hmode : (b.lane l).prbs = 0) (hactive : b.rxActive l = true) (hsync : b.syncGood l x = true)
    (hfew : ((false :: (b.lane l).syncBad).take 64).count true < 16) (hlast : (b.lane l).last = none)
    (ha : copyA (b.peerLane l) (b.hear l x).1 = some r) (hb : copyB (b.peerLane l) (b.hear l x).1 = some r)
    (hnames : b.names (b.hear l x).1 (b.time.now - 2 - b.fK) = true) (hcode : codeOk .cross (frCode (b.hear l x).1) = true) :
    ∃ y, b.crossLane l (some x) = (some (b.hear l x).1, none, y) ∧ Keeps [.frm] b y ∧ (y.lane l).last = some (b.time.now, (b.hear l x).1) ∧
      ∀ m, m ≠ l → y.lane m = b.lane m := by
  generalize hf : (b.hear l x).1 = f at ha hb hnames hcode
  have hheard : (b.hear l x).2.lane l = { b.lane l with descr := ((b.hear l x).2.lane l).descr } := b.hear_lane l x
  have hkeeps : Keeps [.frm] b (b.hear l x).2 := Block.hear_keeps (.refl _ _) rfl
  have hothers : ∀ m, m ≠ l → (b.hear l x).2.lane m = b.lane m := (b.hear_laneIs l x).others
  unfold Block.crossLane
  dsimp only
  rw [if_neg (by rw [hmode, hactive]; decide), hf, hsync]
  generalize (b.hear l x).2 = h at hheard hkeeps hothers
  rw [Block.syncFrame_good (by rw [hheard]; exact hfew)]
  have hykeeps : Keeps [.frm] b (h.onLane l fun q => { q with syncBad := (false :: q.syncBad).take 64 }) := Block.onLane_keeps hkeeps rfl
  have hylane := Block.lane_onLane_same h l fun q => { q with syncBad := (false :: q.syncBad).take 64 }
  have hyothers (m : Nat) (hm : m ≠ l) := Block.lane_onLane_ne h (fun q => { q with syncBad := (false :: q.syncBad).take 64 }) hm
  generalize (h.onLane l fun q => { q with syncBad := (false :: q.syncBad).take 64 }) = y at hykeeps hylane hyothers
  rw [hheard] at hylane
  have hyactive : y.rxActive l = true := by
    unfold Block.rxActive at hactive ⊢
    rw [hylane]
    exact hactive
  have hpeer : y.peerLane l = b.peerLane l := hykeeps.peerLane_eq rfl l
  have htime := hykeeps.time_eq rfl rfl
  have hdepth : y.fK = b.fK := by
    unfold Block.fK
    rw [hykeeps.sets_eq rfl]
  have htake : y.takeFrame l .cross (y.time.now - 2 - y.fK) f = (some f, y) := by
    rw [htime, hdepth]
    exact Block.takeFrame_good ((congrArg (copyA · f) hpeer).trans ha) ((congrArg (copyB · f) hpeer).trans hb) ((Block.names_congr htime ..).trans hnames) hcode
  have hregion : y.crossRegion l (some f) = (none, y) := by
    unfold Block.crossRegion
    rw [hylane]
    dsimp only
    rw [hlast]
  have hplain : frCode f ≠ codeTraining := fun h => by rw [h] at hcode; exact absurd hcode (by decide)
  rw [if_pos hyactive, Block.crossTake, htake]
  dsimp only
  rw [hregion, if_neg hplain]
  refine ⟨_, rfl, Block.onLane_keeps hykeeps rfl, ?_, fun m hm => ?_⟩
  · rw [Block.lane_onLane_same, htime]
    rfl
  · rw [Block.lane_onLane_ne _ _ hm, hyothers m hm, hothers m hm]

theorem Block.resolve_peerLane {l : Nat} (hl : l < 40) (hcopy : copyOf (b.peerLane l) f = some r) :
    ∃ y, b.resolve [(l, f)] = (some r, y) ∧ Keeps [.regs, .ev] b y ∧ y.peerLane l = b.peerLane l := by
  obtain ⟨y, hresolve, hkeeps, hreads⟩ := Block.resolve_one hcopy
  exact ⟨y, hresolve, hkeeps, (hreads (0x5C0006 + 256 * l) _ (by unfold laneCount; omega) ⟨by omega, rfl⟩).reg⟩

/-- The first copy that checks is the payload. -/
theorem copyOf_of_first {p : Nat} (ha : copyA p f = some r) : copyOf p f = some r := by
  unfold copyOf
  rw [ha, Option.orElse_some]

/-- The frame whose payload is taken gives the partner's claim. -/
theorem Block.crossClaim_found {l : List (Nat × CFrame)} {q : Nat × CFrame}
    (hfound : l.find? (fun q => (copyOf (b.peerLane q.1) q.2).isSome) = some q) (hclaim : frClaim q.2 ≠ 255) :
    b.crossClaim l = b.onTwin fun t => { t with
      pClaim := frClaim q.2, gotFrame := true, pLog := ((b.time.now - 2 - b.fK, frClaim q.2) :: t.pLog).take 8
      pairedAt := t.pairedAt.filter fun p => decide (b.time.now - 2 - b.fK < p) } := by
  have hclaimed : b.claimOf q.2 = (frClaim q.2, b) := by
    unfold Block.claimOf
    rw [if_neg hclaim]
  unfold Block.crossClaim
  rw [hfound]
  dsimp only
  rw [hclaimed]

theorem Block.compareDigest_none {t : Nat} {got : Ref48} (hnone : b.ownDigest t = none) : b.compareDigest t got = b := by
  unfold Block.compareDigest
  rw [hnone]

/-- A crossing whose payload is there and which checks no region: its claim is taken, its digest compared, and the claims with it. -/
theorem Block.crosslink_heard {x38 x39 : Option LineFrame} {f38 f39 : Option CFrame} {y z u : Block} {l : List (Nat × CFrame)}
    (h38 : b.crossLane 38 x38 = (f38, none, y)) (h39 : y.crossLane 39 x39 = (f39, none, z))
    (hframes : (f38.map fun f => (38, f)).toList ++ (f39.map fun f => (39, f)).toList = l) (hresolve : z.resolve l = (some r, u)) :
    b.crosslink x38 x39 = ((u.crossClaim l).compareDigest ((u.crossClaim l).time.now - 3 - (u.crossClaim l).fK) r).judgeClaims := by
  subst hframes
  unfold Block.crosslink
  dsimp only
  rw [h38]
  dsimp only
  rw [h39]
  dsimp only
  rw [hresolve]
  rfl

/-- A cross-link frame of one lane, with no region to check and no digest to compare, gives the partner's claim. -/
theorem Block.crosslink_taken (hmode : (b.lane 38).prbs = 0) (hactive : b.rxActive 38 = true) (hsync : b.syncGood 38 x = true)
    (hfew : ((false :: (b.lane 38).syncBad).take 64).count true < 16) (hlast : (b.lane 38).last = none) (hlast' : (b.lane 39).last = none)
    (ha : copyA (b.peerLane 38) (b.hear 38 x).1 = some r) (hb : copyB (b.peerLane 38) (b.hear 38 x).1 = some r)
    (hnames : b.names (b.hear 38 x).1 (b.time.now - 2 - b.fK) = true) (hcode : codeOk .cross (frCode (b.hear 38 x).1) = true)
    (hclaim : frClaim (b.hear 38 x).1 ≠ 255) (hdigest : b.ownDigest (b.time.now - 3 - b.fK) = none) :
    (b.crosslink (some x) none).twin.gotFrame = true ∧ (b.crosslink (some x) none).twin.pClaim = frClaim (b.hear 38 x).1 ∧
      ((b.crosslink (some x) none).lane 38).last = some (b.time.now, (b.hear 38 x).1) ∧ ((b.crosslink (some x) none).lane 39).last = none := by
  obtain ⟨y, hlane, hykeeps, hylast, hyothers⟩ := Block.crossLane_taken hmode hactive hsync hfew hlast ha hb hnames hcode
  generalize (b.hear 38 x).1 = f at ha hb hnames hcode hclaim hlane hylast ⊢
  have hlane' := Block.crossLane_none (b := y) (l := 39) (by rw [hyothers 39 (by decide)]; exact hlast')
  have hzkeeps : Keeps [.frm] b (y.onLane 39 fun k => { k with last := none }) := Block.onLane_keeps hykeeps rfl
  have hzlast : ((y.onLane 39 fun k => { k with last := none }).lane 38).last = some (b.time.now, f) := by
    rw [Block.lane_onLane_ne _ _ (by decide), hylast]
  have hzlast' : ((y.onLane 39 fun k => { k with last := none }).lane 39).last = none := by rw [Block.lane_onLane_same]
  generalize hz : (y.onLane 39 fun k => { k with last := none }) = z at hzkeeps hzlast hzlast' hlane'
  have hpeer : z.peerLane 38 = b.peerLane 38 := hzkeeps.peerLane_eq rfl 38
  have hcopy : copyOf (z.peerLane 38) f = some r := (congrArg (copyOf · f) hpeer).trans (copyOf_of_first ha)
  obtain ⟨u, hresolve, hukeeps, hupeer⟩ := Block.resolve_peerLane (by decide) hcopy
  obtain ⟨frames, hframes⟩ : ∃ frames, frames = [(38, f)] := ⟨_, rfl⟩
  rw [← hframes] at hresolve
  have hkept : Keeps [.frm, .regs, .ev] b u := (hzkeeps.widen rfl).trans (hukeeps.widen rfl)
  have hulane (l : Nat) : u.lane l = z.lane l := hukeeps.lane_eq rfl l
  have hfound : frames.find? (fun q => (copyOf (u.peerLane q.1) q.2).isSome) = some (38, f) := hframes ▸
    List.find?_cons_of_pos (Option.isSome_iff_exists.mpr ⟨r, (congrArg (copyOf · f) hupeer).trans hcopy⟩)
  have hclaimed := Block.crossClaim_found hfound hclaim
  generalize hw : u.crossClaim frames = w at hclaimed
  have htwin : w.twin.pClaim = frClaim f ∧ w.twin.gotFrame = true ∧ w.twin.digests = b.twin.digests := by
    rw [hclaimed, ← hkept.twin_eq rfl]
    exact ⟨rfl, rfl, rfl⟩
  have hwkeeps : Keeps [.twin] u w := hclaimed ▸ Block.onTwin_keeps (.refl _ _) rfl
  obtain ⟨hpartner, hgot, hdigests⟩ := htwin
  have hdigest' : w.ownDigest (w.time.now - 3 - w.fK) = none := by
    have hdepth : w.fK = b.fK := by
      unfold Block.fK
      rw [hwkeeps.sets_eq rfl, hkept.sets_eq rfl]
    rw [hdepth, hwkeeps.now_eq rfl, hkept.now_eq rfl, ← hdigest]
    unfold Block.ownDigest
    rw [hdigests]
  rw [Block.crosslink_heard hlane hlane' hframes.symm hresolve, hw, Block.compareDigest_none hdigest']
  obtain ⟨st, hjudged⟩ := w.judgeClaims_twin
  have hjkeeps : Keeps [.twin, .regs, .ev] w w.judgeClaims := Block.judgeClaims_keeps (.refl _ _) rfl
  have hlanes (l : Nat) : w.judgeClaims.lane l = z.lane l := by rw [hjkeeps.lane_eq rfl, hwkeeps.lane_eq rfl, hulane]
  rw [hjudged, hlanes, hlanes]
  exact ⟨hgot, hpartner, hzlast, hzlast'⟩

end

/-- Settles O43: a frame of one lane gives its claim, a test ends by its checks, and a decision by its verdict and the claims. -/
theorem twinUnitsCompare : Obligations.TwinUnitsCompare := by
  unfold Obligations.TwinUnitsCompare
  refine fun s hruns htwin => ⟨fun x y hgot => exec_of_not_when rfl (by rw [hgot]; simp), fun x r => ?_, fun m htest hdue => ⟨fun hclean hfree => ?_, fun other hother => ?_⟩,
    fun m other htest hearly => ?_, fun at_ own partner rest hfirst => ⟨fun hearly => ?_, fun hdue hverdict => ?_, fun hdue hown hpartner hunits => ⟨fun hlower => ?_, fun hlower => ?_⟩⟩,
    fun hnone => ?_⟩
  · intro f hgot hactive hmode hsync hfew hlast hlast' ha hb hnames hcode hclaim hdigest
    refine does_of_when rfl (by rw [hruns, htwin, hgot]; rfl) ?_
    exact Block.crosslink_taken hmode hactive hsync hfew hlast hlast' ha hb hnames hcode hclaim hdigest
  · exact does_of_when (exec_selftestEnd htest) (by simp [hruns, htwin, hdue]) (Block.testEnd_passes hclean hfree)
  · refine does_of_when (exec_selftestEnd htest) (by simp [hruns, htwin, hdue]) ?_
    rw [Block.testEnd_fails hother]
    obtain ⟨v, hfailed⟩ := s.blk.testFailed_twin m
    obtain ⟨hstands, hreleased, htest, hcheck, hresult⟩ := Block.sourceFail_released ((s.blk.testFailed_isTwin m).trans htwin) 7
    rw [hfailed] at hreleased htest hcheck hresult
    exact ⟨htest, hcheck, hresult, hstands, Block.latched_sourceFail _ _ (by decide) (Block.latched_raise_self _ (by decide) _),
      ((s.blk.testFailed_count m).sourceFail 7).reg, hreleased⟩
  · exact exec_of_not_when (exec_selftestEnd htest) (by simp [Nat.not_le.mpr hearly])
  · exact exec_of_not_when (exec_mismatchDecision hfirst) (by simp [Nat.not_le.mpr hearly])
  · refine does_of_when (exec_mismatchDecision hfirst) (by simp [hruns, htwin, hdue]) ?_
    rw [Block.decideMismatch_stays hverdict]
    exact ⟨Block.mismatchTold_twin hfirst, Block.mismatchTold_latched ..⟩
  · refine does_of_when (exec_mismatchDecision hfirst) (by simp [hruns, htwin, hdue]) ?_
    rw [Block.decideMismatch_claims hown hpartner hunits, if_pos hlower]
    obtain ⟨hstate, hclaim, hphase, hverdicts⟩ := (s.blk.mismatchTold (at_, own, partner)).enterResync_twin
    exact ⟨hstate, hclaim, hphase, hverdicts, Block.latched_raise _ _ _ (by decide) (Block.mismatchTold_latched ..), Block.enterResync_latched _⟩
  · refine does_of_when (exec_mismatchDecision hfirst) (by simp [hruns, htwin, hdue]) ?_
    rw [Block.decideMismatch_claims hown hpartner hunits, if_neg (by simp [hlower])]
    exact ⟨Block.mismatchTold_twin hfirst, Block.mismatchTold_latched ..⟩
  · show execMismatchDecision s = _
    simp only [execMismatchDecision, State.run, hnone]

end Sys2Proof.Machine
end

section
/-! PROOFS. Twin units: loss and restoration of the cross-link, release, pairing, and resynchronisation (R364 to R370, R443). -/

namespace Sys2Proof.Machine

section

variable {a b x : Block} {ps : List Part}

/-! ### What a claim gives beside the partner's (R351) -/

theorem Keeps.stateBeside_eq (h : Keeps ps a b) (hfrm : ps.contains .frm = false) (hrole : ps.contains .role = false) (own partner : Nat) :
    b.stateBeside own partner = a.stateBeside own partner := by
  obtain ⟨_, hunit⟩ := h.straps_eq hrole
  unfold Block.stateBeside
  rw [h.sameUnit_eq hfrm hrole, hunit]

theorem Keeps.partnerClaim_eq (h : Keeps ps a b) (htwin : ps.contains .twin = false) : b.partnerClaim = a.partnerClaim := by
  unfold Block.partnerClaim Block.lastClaim
  rw [h.twin_eq htwin]

theorem Latches.judgeClaims {n : Nat} (hb : Latches n b) : Latches n b.judgeClaims := by
  have hjudged (st : TwinState) : Latches n (b.onTwin fun t => { t with state := st }) := hb.same rfl
  unfold Block.judgeClaims
  exact .ite (.ite (((hjudged _).bump 1 (by decide)).raise _ _) (hjudged _)) hb

theorem Latches.enterResync {n : Nat} (hb : Latches n b) : Latches n b.enterResync := by
  refine Latches.raise ?_ _ _
  exact hb.same rfl

theorem Latches.releaseClaim {n : Nat} (hb : Latches n b) (cause : Nat) : Latches n (b.releaseClaim cause) := by
  refine Latches.raise ?_ _ _
  exact hb.same rfl

/-! ### Loss and restoration (R364) -/

/-- The cross-link is told lost or back, before the claims are compared again. -/
def Block.linkTold (b : Block) (lost : Bool) (l : List Fld) : Block := (b.onTwin fun t => { t with lost := lost }).raise 0xB6 l

theorem Block.linkTold_twin (b : Block) (lost : Bool) (l : List Fld) : (b.linkTold lost l).twin = { b.twin with lost := lost } := Block.raise_twin ..

theorem Block.linkTold_latches (b : Block) (lost : Bool) (l : List Fld) : Latches 0xB6 (b.linkTold lost l) :=
  ⟨by decide, Block.latched_raise_self _ (by decide) _⟩

theorem Block.judgeClaims_lost (b : Block) : b.judgeClaims.twin.lost = b.twin.lost := by
  obtain ⟨st, hjudged⟩ := b.judgeClaims_twin
  rw [hjudged]

theorem Block.enterResync_lost (b : Block) : b.enterResync.twin.lost = b.twin.lost := by
  rw [Block.enterResync, Block.raise_twin]
  rfl

theorem Block.crosslinkLose_does (b : Block) : b.crosslinkLose.twin.lost = true ∧ b.crosslinkLose.latched 0xB6 = true := by
  show (b.linkTold true _).judgeClaims.twin.lost = true ∧ (b.linkTold true _).judgeClaims.latched 0xB6 = true
  exact ⟨by rw [Block.judgeClaims_lost, Block.linkTold_twin], (b.linkTold_latches true _).judgeClaims.set⟩

theorem Block.crosslinkBack_does (b : Block) :
    b.crosslinkBack.twin.lost = false ∧ b.crosslinkBack.latched 0xB6 = true ∧
      ((b.twin.state = .active ∨ b.twin.state = .standby ∨ b.twin.state = .held) → b.sameUnit = false → b.claimLower = true →
        b.crosslinkBack.twin.state = .resync ∧ b.crosslinkBack.twin.claimDue = some 0) := by
  have hlower : (b.linkTold false [.id 1 0, .id 1 (flag b.sameUnit)]).claimLower = b.claimLower :=
    (Block.raise_keeps (ps := [.regs, .ev]) (.refl _ _) rfl).claimLower_eq rfl rfl rfl
  have hsame : (b.linkTold false [.id 1 0, .id 1 (flag b.sameUnit)]).sameUnit = b.sameUnit :=
    (Block.raise_keeps (ps := [.regs, .ev]) (.refl _ _) rfl).sameUnit_eq rfl rfl
  have htwin := b.linkTold_twin false [.id 1 0, .id 1 (flag b.sameUnit)]
  have htold := b.linkTold_latches false [.id 1 0, .id 1 (flag b.sameUnit)]
  have hback : b.crosslinkBack =
      let x := b.linkTold false [.id 1 0, .id 1 (flag b.sameUnit)]
      if (x.twin.state = .active ∨ x.twin.state = .standby ∨ x.twin.state = .held) ∧ !x.sameUnit ∧ x.claimLower then x.enterResync
      else x.judgeClaims := rfl
  rw [hback]
  generalize b.linkTold false [.id 1 0, .id 1 (flag b.sameUnit)] = x at hlower hsame htwin htold
  refine ⟨?_, ?_, fun hstate hunits hclaims => ?_⟩
  · dsimp only
    split
    · rw [Block.enterResync_lost, htwin]
    · rw [Block.judgeClaims_lost, htwin]
  · dsimp only
    split
    · exact htold.enterResync.set
    · exact htold.judgeClaims.set
  · dsimp only
    rw [if_pos ⟨by rwa [htwin], by rw [hsame, hunits]; rfl, by rwa [hlower]⟩]
    exact ⟨x.enterResync_twin.1, x.enterResync_twin.2.1⟩

/-! ### Release of the unit (R443) -/

/-- The unit has been released, and tells so. -/
def Block.releaseTold (b : Block) : Block :=
  (b.onBoot fun k => { k with unitReleased := true, readySince := some b.time.now }).raise 0x09 [b.hereFld]

theorem Block.releaseTold_boot (b : Block) : b.releaseTold.boot = { b.boot with unitReleased := true, readySince := some b.time.now } :=
  Block.raise_boot ..

theorem Block.releaseTold_twin (b : Block) : b.releaseTold.twin = b.twin := Block.raise_twin ..

theorem Block.releaseTold_latches (b : Block) : Latches 0x09 b.releaseTold := ⟨by decide, Block.latched_raise_self _ (by decide) _⟩

theorem Block.releaseTold_topology (b : Block) : b.releaseTold.topology = b.topology := by
  unfold Block.topology Block.releaseTold
  rw [Block.raise_sets]
  rfl

/-- A unit of a pair that has been released to pair. -/
def Block.pairing (b : Block) : Block := b.releaseTold.onTwin fun t => { t with entered := true, state := .pairing, claimDue := some 0 }

theorem Block.releaseClaim_twin (b : Block) (cause : Nat) : (b.releaseClaim cause).twin.entered = b.twin.entered := by
  rw [Block.releaseClaim, Block.raise_twin]
  rfl

/-- What a released unit does with the partner's state leaves it entered, and a partner that does not run leaves it pairing. -/
theorem Block.pairWith_twin (b : Block) (w0 : Nat) :
    (b.pairWith w0).twin.entered = b.twin.entered ∧
      (bits w0 63 61 = 0 ∨ 3 < bits w0 63 61 → (b.pairWith w0).twin.state = b.twin.state ∧ (b.pairWith w0).twin.claimDue = b.twin.claimDue) := by
  unfold Block.pairWith
  dsimp only
  split
  · exact ⟨rfl, fun _ => ⟨rfl, rfl⟩⟩
  · split
    next hruns => exact ⟨by rw [Block.enterResync, Block.raise_twin]; rfl, fun hidle => by omega⟩
    next =>
      split
      · exact ⟨rfl, fun _ => ⟨rfl, rfl⟩⟩
      · exact ⟨rfl, fun _ => ⟨rfl, rfl⟩⟩

theorem Latches.pairWith {n : Nat} (hb : Latches n b) (w0 : Nat) : Latches n (b.pairWith w0) :=
  .ite hb (.ite hb.enterResync (.ite (hb.same rfl) hb))

theorem Block.unitReleased_pair (htopology : b.topology = 0) :
    b.unitReleased = match b.twin.sources with
      | s :: _ => b.pairing.releaseClaim s
      | [] => b.pairing.pairWith b.twin.w0.toNat := by
  have hsources : b.pairing.twin.sources = b.twin.sources :=
    (rfl : _ = b.releaseTold.twin.sources).trans (congrArg Twin.sources b.releaseTold_twin)
  have hword : b.pairing.twin.w0 = b.twin.w0 := (rfl : _ = b.releaseTold.twin.w0).trans (congrArg Twin.w0 b.releaseTold_twin)
  rw [← hsources, ← hword]
  exact if_pos (b.releaseTold_topology.trans htopology)

theorem Block.unitReleased_solo (htopology : b.topology ≠ 0) :
    b.unitReleased = (b.releaseTold.onBoot fun k => { k with countFrom := some b.releaseTold.time.now }).onTwin fun t => { t with
      entered := true, state := .active, claimDue := some b.releaseTold.baseClaim } :=
  if_neg fun h => htopology (b.releaseTold_topology.symm.trans h)

theorem Block.unitReleased_paired (htopology : b.topology = 0) :
    b.unitReleased.latched 0x09 = true ∧ b.unitReleased.twin.entered = true ∧
      b.unitReleased.boot = { b.boot with unitReleased := true, readySince := some b.time.now } ∧
      (b.twin.sources = [] → (bits b.twin.w0.toNat 63 61 = 0 ∨ 3 < bits b.twin.w0.toNat 63 61) →
        b.unitReleased.twin.state = .pairing ∧ b.unitReleased.twin.claimDue = some 0) := by
  have hlatches : Latches 0x09 b.pairing := b.releaseTold_latches.same rfl
  have hboot : b.pairing.boot = { b.boot with unitReleased := true, readySince := some b.time.now } := b.releaseTold_boot
  rw [Block.unitReleased_pair htopology]
  obtain ⟨hentered, hidle⟩ := b.pairing.pairWith_twin b.twin.w0.toNat
  split
  next s rest hsources =>
    refine ⟨(hlatches.releaseClaim s).set, Block.releaseClaim_twin .., ?_, fun hnone => ?_⟩
    · rw [(Block.releaseClaim_keeps (.refl [.twin, .regs, .ev] _) rfl).boot_eq rfl rfl, hboot]
    · exact absurd (hnone.symm.trans hsources) (by simp)
  next =>
    refine ⟨(hlatches.pairWith _).set, hentered, ?_, fun _ hpartner => hidle hpartner⟩
    rw [(Block.pairWith_keeps (.refl [.twin, .regs, .ev] _) rfl).boot_eq rfl rfl, hboot]

theorem Block.unitReleased_alone (htopology : b.topology ≠ 0) :
    b.unitReleased.latched 0x09 = true ∧ b.unitReleased.twin.entered = true ∧
      b.unitReleased.boot = { b.boot with unitReleased := true, readySince := some b.time.now, countFrom := some b.time.now } ∧
      b.unitReleased.twin.state = .active ∧ b.unitReleased.twin.claimDue = some (b.reg 0x680002) := by
  have hclaim : EntryIs 0x680002 (b.reg 0x680002) b.releaseTold := by
    have hentry : EntryIs 0x680002 (b.reg 0x680002) b := ⟨by decide, rfl⟩
    exact (hentry.same (y := b.onBoot fun k => { k with unitReleased := true, readySince := some b.time.now }) rfl).raise (by decide) _
  have hnow : b.releaseTold.time.now = b.time.now := (Block.raise_keeps (ps := [.regs, .ev]) (.refl _ _) rfl).now_eq rfl
  rw [Block.unitReleased_solo htopology]
  refine ⟨(b.releaseTold_latches.same rfl).set, rfl, ?_, rfl, congrArg some hclaim.reg⟩
  show ({ b.releaseTold.boot with countFrom := some b.releaseTold.time.now } : Boot) = _
  rw [b.releaseTold_boot, hnow]

theorem Keeps.queue_eq (h : Keeps ps a b) (hqueues : ps.contains .queues = false) (q : Nat) : b.queue q = a.queue q := by
  unfold Block.queue
  rw [h.queues_eq hqueues]

/-! ### An emptied merge (R365, R366) -/

/-- A queue that the merge empties: RQ and UP. -/
def mergeQueue (q : Nat) : Prop := (0x21 ≤ q ∧ q ≤ 0x2C) ∨ (0x41 ≤ q ∧ q ≤ 0x60)

theorem tabFind_filter {α : Type} (keep : Nat → Bool) (t : Tab α) (n : Nat) :
    tabFind (t.filter fun p => keep p.1) n = if keep n then tabFind t n else none := by
  induction t with
  | nil => simp [tabFind]
  | cons p t ih =>
    obtain ⟨k, v⟩ := p
    rw [List.filter_cons]
    dsimp only
    by_cases hkn : k = n
    · subst hkn
      cases hk : keep k <;> simp [tabFind, ih, hk]
    · cases hk : keep k <;> simp [tabFind, ih, hkn]

theorem Block.emptyMerge_queue (b : Block) (q : Nat) :
    b.emptyMerge.queue q = if !(decide (0x21 ≤ q) && decide (q ≤ 0x2C)) && !(decide (0x41 ≤ q) && decide (q ≤ 0x60)) then b.queue q else {} := by
  show tabGet {} (b.queues.filter fun p => !(decide (0x21 ≤ p.1) && decide (p.1 ≤ 0x2C)) && !(decide (0x41 ≤ p.1) && decide (p.1 ≤ 0x60))) q = _
  unfold tabGet
  rw [tabFind_filter fun k => !(decide (0x21 ≤ k) && decide (k ≤ 0x2C)) && !(decide (0x41 ≤ k) && decide (k ≤ 0x60))]
  split <;> rfl

theorem Block.emptyMerge_empty {q : Nat} (hq : mergeQueue q) : b.emptyMerge.queue q = {} := by
  rw [Block.emptyMerge_queue, if_neg]
  unfold mergeQueue at hq
  simp only [Bool.and_eq_true, Bool.not_eq_true', Bool.and_eq_false_iff, decide_eq_false_iff_not]
  omega

theorem Block.emptyMerge_other {q : Nat} (hq : ¬mergeQueue q) : b.emptyMerge.queue q = b.queue q := by
  rw [Block.emptyMerge_queue, if_pos]
  unfold mergeQueue at hq
  simp only [Bool.and_eq_true, Bool.not_eq_true', Bool.and_eq_false_iff, decide_eq_false_iff_not]
  omega

/-! ### Pairing (R365) -/

/-- What the pairing boundary leaves, before a unit of the same number is told. -/
def Block.paired (b : Block) : Block :=
  (b.mergeAfresh.onBoot fun k => { k with countFrom := some b.time.now }).onTwin fun t => { t with
    claim := b.baseClaim, claimDue := none, pairedAt := some b.time.now, pairAt := none, digests := [],
    state := b.stateBeside b.baseClaim (bits b.twin.w0.toNat 55 48) }

theorem Block.pairNow_keeps_paired (b : Block) : Keeps [.regs, .ev] b.paired b.pairNow := by
  have hsame : b.pairNow = if b.paired.sameUnit then b.paired.raise 0xB6 [.id 1 0, .id 1 1] else b.paired := by
    unfold Block.pairNow Block.mergeAfresh
    rfl
  rw [hsame]
  exact .ite (Block.raise_keeps (.refl _ _) rfl) (.refl _ _)

theorem Block.paired_queue {q : Nat} (hq : mergeQueue q) : b.paired.queue q = {} := (rfl : _ = b.emptyMerge.queue q).trans (Block.emptyMerge_empty hq)

theorem Block.pairAlone_does (b : Block) :
    b.pairAlone.twin = { b.twin with claimDue := some (b.reg 0x680002), state := .active, lost := true, pairAt := none } ∧
      b.pairAlone.latched 0xB6 = true :=
  ⟨Block.raise_twin .., Block.latched_raise_self _ (by decide) _⟩

/-! ### Resynchronisation (R366 to R370) -/

/-- A boundary ahead depends on the clock and on what the sets give. -/
theorem Keeps.boundaryAhead_eq (h : Keeps ps a b) (hsets : ps.contains .sets = false) (hfuses : ps.contains .fuses = false)
    (hrole : ps.contains .role = false) (hnow : ps.contains .now = false) (htime : ps.contains .time = false) (n : Nat) :
    b.boundaryAhead n = a.boundaryAhead n := by
  have hlen : b.nO = a.nO := h.rs_eq hrole hsets hfuses _
  unfold Block.boundaryAhead Block.lengthOf
  rw [hlen, h.time_eq hnow htime, h.sets_eq hsets]
  have hset (c : CfgSet) (key : Nat) : b.rsIn c key = a.rsIn c key := by
    obtain ⟨hcore, hunit⟩ := h.straps_eq hrole
    unfold Block.rsIn Block.defaultOf Block.profileM Block.cRole
    rw [h.fuses_eq hfuses, hcore, hunit]
  simp only [hset]

theorem Block.followStart_does (b : Block) :
    b.followStart.twin = { b.twin with phase := .follow, z := some (b.boundaryAhead (max 2048 (b.rs 0x203002 + 1040))) } ∧
      ∀ q, b.followStart.queue q = b.emptyMerge.queue q := by
  have hkeeps : Keeps [.boot, .queues, .mrg, .regs] b b.emptyMerge.joinRelease :=
    Block.joinRelease_keeps (Block.emptyMerge_keeps (.refl _ _) rfl) rfl
  refine ⟨?_, (Block.joinRelease_keeps (.refl [.boot, .regs] b.emptyMerge) rfl).queue_eq rfl⟩
  rw [← hkeeps.boundaryAhead_eq rfl rfl rfl rfl rfl, ← hkeeps.rs_eq rfl rfl rfl, ← hkeeps.twin_eq rfl]
  rfl

/-- A synchronised unit, before its return is told. -/
def Block.resynced (b : Block) : Block := (b.bump 0x682006 1).raise 0xB4 [.id 8 3]

/-- What a return makes of the twin state, in a block beside the one that returns. -/
def Block.returned (b x : Block) (t : Twin) : Twin :=
  { t with
    claimDue := some b.returnClaim, phase := .waiting, b0 := none, z := none, fails := 0, wasHeld := false,
    remain := b.rs 0x681001 == 1 && b.returnClaim != 0,
    state := if b.returnClaim = 0 then .held else if b.rs 0x681001 = 1 then .standby else x.stateBeside b.returnClaim x.partnerClaim }

theorem Block.returnTwin_does (b : Block) :
    b.returnTwin.twin.claimDue = some b.returnClaim ∧ b.returnTwin.twin.phase = .waiting ∧ b.returnTwin.twin.fails = 0 ∧
      b.returnTwin.latched 0xB4 = true ∧ b.returnTwin.latched 0xB5 = true ∧ b.returnTwin.reg 0x682006 = b.reg 0x682006 + 1 ∧
      b.returnTwin.twin.state = (if b.returnClaim = 0 then .held else if b.rs 0x681001 = 1 then .standby
                                 else b.stateBeside b.returnClaim b.partnerClaim) := by
  have hkeeps : Keeps [.regs, .ev] b b.resynced := Block.raise_keeps (Block.bump_keeps (.refl _ _) rfl) rfl
  have hcount : EntryIs 0x682006 (b.reg 0x682006 + 1) b.resynced := (EntryIs.bumped b (by decide) 1).raise (by decide) _
  have htold : Latches 0xB4 b.resynced := ⟨by decide, Block.latched_raise_self _ (by decide) _⟩
  rw [← hkeeps.stateBeside_eq rfl rfl, ← hkeeps.partnerClaim_eq rfl]
  have hreturn : b.returnTwin = (b.resynced.onTwin (b.returned b.resynced)).raise 0xB5 [.id 8 b.returnClaim, .id 8 (b.rs 0x681001)] := rfl
  rw [hreturn]
  have hlatches : Latches 0xB4 (b.resynced.onTwin (b.returned b.resynced)) := htold.same rfl
  have hentry : EntryIs 0x682006 (b.reg 0x682006 + 1) (b.resynced.onTwin (b.returned b.resynced)) := hcount.same rfl
  rw [Block.raise_twin]
  exact ⟨rfl, rfl, rfl, (hlatches.raise _ _).set, Block.latched_raise_self _ (by decide) _, (hentry.raise (by decide) _).reg, rfl⟩

theorem exec_resyncSynchronised {s : State} {t : Nat} (hspan : s.blk.twin.spanTo = some t) :
    exec .resyncSynchronised s = .next { s with
      blk := s.blk.when (s.blk.running && s.blk.twin.state == .resync && s.blk.twin.lastCmp == t && s.blk.lastClaim != 0) fun b => b.returnTwin } := by
  show execResyncSynchronised s = _
  simp only [execResyncSynchronised, State.run, hspan]

end

/-- Settles O44: each command's guard, and what its function of the twin state leaves. -/
theorem twinUnitsPairAndResynchronise : Obligations.TwinUnitsPairAndResynchronise := by
  unfold Obligations.TwinUnitsPairAndResynchronise
  refine ⟨fun s hruns => ⟨fun htwin hup hlong => ?_, fun hshort => ?_, fun htwin hlost hlong => ?_, fun hshort => ?_, fun hcore hnot hready => ?_, fun hdone => ?_,
    fun htwin hentered hpairing hdue => ?_, fun htwin hentered hpairing h38 h39 helapsed => ?_, fun hstate => ⟨?_, ?_⟩⟩,
    fun s hruns hresync => ⟨fun hphase hdue => ?_, fun hphase hdue => ?_, fun hphase => ⟨?_, ?_⟩, fun t hspan hlast hclaim => ?_, fun t hspan hnot => ?_⟩⟩
  · exact does_of_when rfl (by simp [*]) (Block.crosslinkLose_does _)
  · exact exec_of_not_when rfl (by simp [Nat.not_le.mpr hshort])
  · exact does_of_when rfl (by simp [*]) (Block.crosslinkBack_does _)
  · exact exec_of_not_when rfl (by simp [Nat.not_le.mpr hshort])
  · refine does_of_when rfl (by simp [*]) ?_
    by_cases htopology : s.blk.topology = 0
    · obtain ⟨hlatched, hentered, hboot, hpairing⟩ := Block.unitReleased_paired htopology
      exact ⟨hlatched, hentered, fun _ => ⟨hboot, hpairing⟩, fun h => absurd htopology h⟩
    · obtain ⟨hlatched, hentered, hboot, hclaims⟩ := Block.unitReleased_alone htopology
      exact ⟨hlatched, hentered, fun h => absurd h htopology, fun _ => ⟨hboot, hclaims⟩⟩
  · exact exec_of_not_when rfl (by simp [hdone])
  · refine does_of_when rfl (by simp [*]) ?_
    have hkeeps := s.blk.pairNow_keeps_paired
    refine ⟨hkeeps.twin_eq rfl, congrArg Accepts.seq (hkeeps.acc_eq rfl), congrArg Accepts.waiting (hkeeps.acc_eq rfl), hkeeps.boot_eq rfl rfl, fun q hq => ?_⟩
    exact (hkeeps.queue_eq rfl q).trans (Block.paired_queue hq)
  · exact does_of_when rfl (by simp [*]) (Block.pairAlone_does _)
  · exact exec_of_not_when rfl (by simp [hstate])
  · exact exec_of_not_when rfl (by simp [hstate])
  · refine does_of_when rfl (by simp [*]) ?_
    obtain ⟨htwin, hqueues⟩ := s.blk.followStart_does
    exact ⟨htwin, fun q hq => (hqueues q).trans (Block.emptyMerge_empty hq), fun q hq => (hqueues q).trans (Block.emptyMerge_other hq)⟩
  · exact does_of_when rfl (by simp [*]) ⟨rfl, rfl⟩
  · exact exec_of_not_when rfl (by rw [hphase]; simp)
  · exact exec_of_not_when rfl (by rw [hphase]; simp)
  · exact does_of_when (exec_resyncSynchronised hspan) (by simp [*]) (Block.returnTwin_does _)
  · exact exec_of_not_when (exec_resyncSynchronised hspan) (by simp; tauto)

end Sys2Proof.Machine
end

section
/-! PROOFS. Requests for the device itself: reads, writes, the catalogue, and requests with a PATH (R392 to R403, R416, R417). -/

namespace Sys2Proof.Machine

section

variable {b : Block} {h : Hdr}

/-! ### Who answers a request (R401, R416) -/

theorem Block.route_own {op idx sub arg : Nat} {body : List Byte} {own : Block → Block} (hpath : h.path = 0) (hhears : b.hears h = true) :
    b.route h op idx sub arg body own = own (b.taken h) := by
  rw [Block.route, Block.receive, if_pos hhears, if_pos hpath]

theorem Block.route_proxy {op idx sub arg : Nat} {body : List Byte} {own : Block → Block} (hpath : h.path ≠ 0) (hhears : b.hears h = true)
    (hrole : b.cRole = true) : b.route h op idx sub arg body own = (b.taken h).proxyRequest h op idx sub arg body := by
  rw [Block.route, Block.receive, if_pos hhears, if_neg hpath, Block.taken_cRole, if_pos hrole]

theorem Block.route_nobody {op idx sub arg : Nat} {body : List Byte} {own : Block → Block} (hpath : h.path ≠ 0) (hhears : b.hears h = true)
    (hrole : b.cRole = false) : b.route h op idx sub arg body own = (b.taken h).abort h idx sub 0x14 := by
  rw [Block.route, Block.receive, if_pos hhears, if_neg hpath, Block.taken_cRole, if_neg (by simp [hrole])]

/-- An abort answers the request with its code. -/
theorem Block.abort_answers (b : Block) (h : Hdr) (idx sub code : Nat) :
    Answers b (b.abort h idx sub code) (mkReply h 0x07 idx sub 0 (bytesLE 4 code)) := by
  unfold Block.abort
  split
  next hmute => simp [Answers, hmute]
  next => exact (Block.reply_answers ..).congr (Block.raiseOnce_replies ..).symm (Block.raiseOnce_mute ..).symm

/-- An abort that names an entry by its index and sub-index refuses its key. -/
theorem Block.abort_refuses (b : Block) (h : Hdr) (index : BitVec 16) (sub : BitVec 8) (code : Nat) :
    Refuses b (b.abort h index.toNat sub.toNat code) h (index.toNat * 256 + sub.toNat) code := by
  obtain ⟨hindex, hsub⟩ := key_parts (index := index) (sub := sub) rfl
  rw [Refuses, hindex, hsub]
  exact Block.abort_answers ..

/-- An abort of the proxy's answers its requester and is counted. -/
theorem Block.proxyAbort_refuses (b : Block) (h : Hdr) (index : BitVec 16) (sub : BitVec 8) (code : Nat) :
    Refuses b (b.proxyAbort h index.toNat sub.toNat code) h (index.toNat * 256 + sub.toNat) code :=
  Answers.of_keeps (Block.abort_refuses (b.bump 0x104003 1) h index sub code) (Block.bump_keeps (.refl [.regs] b) rfl) rfl

theorem Block.proxyAbort_counted (b : Block) (h : Hdr) (idx sub code : Nat) : (b.proxyAbort h idx sub code).reg 0x104003 = b.reg 0x104003 + 1 :=
  ((EntryIs.bumped b (by decide) 1).abort h idx sub code).reg

/-! ### Replies that only join the others -/

theorem Block.sendReply_mem {r x : Reply} (hx : x ∈ b.dict.replies) : x ∈ (b.sendReply r).dict.replies := by
  rw [Block.sendReply_answers]
  exact List.mem_append_left _ hx

theorem Block.sendUpload_mem {t : Transfer} {x : Reply} (hx : x ∈ b.dict.replies) : x ∈ (b.sendUpload t).dict.replies := by
  unfold Block.sendUpload Block.setTransfer
  dsimp only [Block.onDict]
  generalize List.range _ = segments
  induction segments generalizing b with
  | nil => exact hx
  | cons k segments ih => exact ih (Block.sendReply_mem hx)

/-- What goes out while segments are sent leaves the transfers as they were. -/
theorem Block.shorts_transfers {α : Type} (l : List α) (o : Origin) (op tag : Nat) (n : α → Nat) (body : α → List Byte) :
    (forEach l b fun k b => b.short o op tag (n k) (body k)).dict.transfers = b.dict.transfers := by
  induction l generalizing b with
  | nil => rfl
  | cons k l ih => exact (ih (b := b.short ..)).trans (Block.sendReply_transfers ..)

theorem Block.sendUpload_transfers (b : Block) (t : Transfer) : (b.sendUpload t).dict.transfers =
    b.dict.transfers.map fun x => if x = t then { t with unacked := min 16 ((t.data.length + t.size - 1) / t.size) } else x := by
  unfold Block.sendUpload Block.setTransfer
  dsimp only [Block.onDict]
  rw [Block.shorts_transfers]

/-! ### Reads and the catalogue (R393, R401 to R403) -/

theorem Block.readEntry_refused {i n c : Nat} (haccess : b.access h i n false = .error c) : b.readEntry h i n = b.abort h i n c := by
  rw [Block.readEntry, haccess]

theorem Block.readEntry_short {i n : Nat} {d : Desc} (haccess : b.access h i n false = .ok d)
    (hshort : (b.valueBytes h d (i * 256 + n)).length ≤ 56) :
    b.readEntry h i n = b.reply h 0x01 i n (b.valueBytes h d (i * 256 + n)).length (b.valueBytes h d (i * 256 + n)) := by
  rw [Block.readEntry, haccess]
  exact if_pos hshort

theorem Block.readEntry_long {i n : Nat} {d : Desc} (haccess : b.access h i n false = .ok d)
    (hlong : 56 < (b.valueBytes h d (i * 256 + n)).length) : b.readEntry h i n = b.startUpload h i n (b.valueBytes h d (i * 256 + n)) := by
  rw [Block.readEntry, haccess]
  exact if_neg (by omega)

/-- An upload is announced, and stands among the transfers with its first segments on their way. -/
theorem Block.startUpload_runs {i n : Nat} {v : List Byte} (hfree : b.transferOn i n = false) (hmute : b.dict.mute = false) :
    mkReply h 0x05 i n 0 (bytesLE 4 v.length) ∈ (b.startUpload h i n v).dict.replies ∧
    ∃ t ∈ (b.startUpload h i n v).dict.transfers, t.hdr = h ∧ t.index = i ∧ t.sub = n ∧ t.up = true ∧ t.data = v := by
  rw [Block.startUpload, if_neg (by simp [hfree])]
  refine ⟨Block.sendUpload_mem ?_, ?_⟩
  · show _ ∈ (b.reply h ..).dict.replies
    rw [Block.reply_answers, if_neg (by simp [hmute])]
    exact List.mem_append_right _ (List.mem_singleton_self _)
  · rw [Block.sendUpload_transfers]
    exact ⟨_, List.mem_map.mpr ⟨_, List.mem_append_right _ (List.mem_singleton_self _), if_pos rfl⟩, rfl, rfl, rfl, rfl, rfl⟩

theorem Block.catalogueEntry_unleveled {i n : Nat} (hlevel : b.levelOf h = none) : b.catalogueEntry h i n = b.abort h i n 0x0E := by
  rw [Block.catalogueEntry, hlevel]

theorem Block.catalogueEntry_absent {i n : Nat} (hlevel : b.levelOf h ≠ none) (hentry : b.entryOf i n = none) :
    b.catalogueEntry h i n = b.abort h i n 0x01 := by
  obtain ⟨lvl, hlvl⟩ := Option.ne_none_iff_exists'.mp hlevel
  rw [Block.catalogueEntry, hlvl, hentry]

theorem Block.catalogueEntry_described {i n lvl : Nat} {d : Desc} (hlevel : b.levelOf h = some lvl) (hentry : b.entryOf i n = some d)
    (hfour : d.level = 4 → 4 ≤ lvl) (hreset : b.resetting i = false) :
    b.catalogueEntry h i n = b.reply h 0x08 i n 16 (b.descriptor h d i n) := by
  rw [Block.catalogueEntry, hlevel, hentry]
  dsimp only
  rw [if_neg (by omega), if_neg (by simp [hreset])]

/-! ### Writes (R392, R396, R399) -/

/-- A write is refused by the access of its entry. -/
theorem Block.writeEntry_refused {key c : Nat} {l : List Byte} (hpath : h.path = 0) (hhears : b.hears h = true)
    (haccess : (b.taken h).access h (key / 256) (key % 256) true = .error c) : b.writeEntry h key l = (b.taken h).refuseKey h key c := by
  rw [Block.writeEntry, Block.writeTo, Block.request, if_pos hpath, Block.receive, if_pos hhears, haccess]

/-- A write that its entry allows is refused by its length, then by a transfer on the entry, and else is the entry's. -/
theorem Block.writeEntry_allowed {key : Nat} {l : List Byte} {d : Desc} (hpath : h.path = 0) (hhears : b.hears h = true)
    (haccess : (b.taken h).access h (key / 256) (key % 256) true = .ok d) : b.writeEntry h key l =
      if lengthCode d l.length ≠ 0 then (b.taken h).refuseKey h key (lengthCode d l.length)
      else if (b.taken h).transferOn (key / 256) (key % 256) then (b.taken h).refuseKey h key 0x08
      else (b.taken h).entryWrite h d key l := by
  rw [Block.writeEntry, Block.writeTo, Block.request, if_pos hpath, Block.receive, if_pos hhears, haccess]
  simp only [Block.access_entry haccess]

/-- A value that an RW entry takes waits for the crossing boundary. -/
theorem Block.rwWrite_plain {key v : Nat} {d : Desc} (hplain : plainEntry key = true) (hentry : b.entryOf (key / 256) (key % 256) = some d)
    (htakes : b.takesValue key (cleaned key v) = true) : b.rwWrite h d key v = b.pendWrite h key (cleaned key v) := by
  simp only [Block.takesValue, hentry, Option.any_some, Bool.and_eq_true, Bool.not_eq_true'] at htakes
  obtain ⟨⟨⟨_, hrange⟩, hjoint⟩, hidle⟩ := htakes
  simp only [plainEntry, Bool.and_eq_true, bne_iff_ne, ne_eq, Bool.not_eq_true', Bool.and_eq_false_iff, decide_eq_false_iff_not,
    beq_eq_false_iff_ne] at hplain
  obtain ⟨⟨⟨⟨⟨hclock, horbit⟩, hprog⟩, hlane⟩, hprbs⟩, hunit⟩ := hplain
  unfold Block.rwWrite
  dsimp only
  rw [if_neg (by tauto), if_neg (by tauto), if_neg horbit, if_neg (by omega), if_neg (by omega), if_neg (by omega), if_neg (by omega),
    if_neg (by simp [hidle]), if_neg (by simp [hrange, hjoint])]

end

section

variable {h : Hdr} {index : BitVec 16} {sub : BitVec 8} {s : State}

/-- A READ of the device's own entry brings its bytes, or begins an upload of them. -/
theorem read_served (hpath : h.path = 0) (hhears : s.blk.hears h = true) {d : Desc}
    (haccess : (s.blk.taken h).access h index.toNat sub.toNat false = .ok d) :
    let f := s.blk.taken h
    let v := f.valueBytes h d (index.toNat * 256 + sub.toNat)
    (v.length ≤ 56 → Does (.read h index sub) s fun b => Answers f b (mkReply h 0x01 index.toNat sub.toNat v.length v)) ∧
    (56 < v.length → f.transferOn index.toNat sub.toNat = false → f.dict.mute = false → Does (.read h index sub) s fun b =>
      mkReply h 0x05 index.toNat sub.toNat 0 (bytesLE 4 v.length) ∈ b.dict.replies ∧
      ∃ t ∈ b.dict.transfers, t.hdr = h ∧ t.index = index.toNat ∧ t.sub = sub.toNat ∧ t.up = true ∧ t.data = v) := by
  refine ⟨fun hshort => does_of_next rfl ?_, fun hlong hfree hmute => does_of_next rfl ?_⟩ <;> beta_reduce <;> rw [Block.route_own hpath hhears]
  · rw [Block.readEntry_short haccess hshort]
    exact Block.reply_answers ..
  · rw [Block.readEntry_long haccess hlong]
    exact Block.startUpload_runs hfree hmute

/-- A WRITE that its entry allows: its length, a transfer on the entry, and an RW entry that takes the value. -/
theorem write_allowed {body : List Byte} (hpath : h.path = 0) (hpair : h.pair = false) (hhears : s.blk.hears h = true) {d : Desc}
    (haccess : (s.blk.taken h).access h index.toNat sub.toNat true = .ok d) :
    let f := s.blk.taken h
    let key := index.toNat * 256 + sub.toNat
    (lengthCode d body.length ≠ 0 → Does (.write h index sub body) s fun b => Refuses f b h key (lengthCode d body.length)) ∧
    (lengthCode d body.length = 0 → f.transferOn index.toNat sub.toNat = true → Does (.write h index sub body) s fun b => Refuses f b h key 0x08) ∧
    (lengthCode d body.length = 0 → f.transferOn index.toNat sub.toNat = false → d.access = .rw → plainEntry key = true →
      f.takesValue key (cleaned key (natLE body)) = true →
      Does (.write h index sub body) s fun b => Waits f b h key (cleaned key (natLE body))) := by
  obtain ⟨hindex, hsub⟩ := key_parts (index := index) (sub := sub) rfl
  have hhere : (s.blk.taken h).access h ((index.toNat * 256 + sub.toNat) / 256) ((index.toNat * 256 + sub.toNat) % 256) true = .ok d := by
    rwa [hindex, hsub]
  have hentry := Block.access_entry hhere
  have hwrite := Block.writeEntry_allowed (l := body) hpath hhears hhere
  refine ⟨fun hlength => does_of_next (exec_write_own hpath hpair) ?_, fun hlength hbusy => does_of_next (exec_write_own hpath hpair) ?_,
    fun hlength hfree hrw hplain htakes => does_of_next (exec_write_own hpath hpair) ?_⟩ <;> rw [hwrite]
  · rw [if_pos hlength]
    exact Block.refuseKey_refuses ..
  · rw [if_neg (by simp [hlength]), if_pos (by rwa [hindex, hsub])]
    exact Block.refuseKey_refuses ..
  · rw [if_neg (by simp [hlength]), if_neg (by simp [hindex, hsub, hfree]), Block.entryWrite, hrw]
    dsimp only
    rw [Block.rwWrite_plain hplain hentry htakes]
    exact Block.pendWrite_waits ..

/-- A READ with a PATH: nobody takes it at an F-role, and at a C-role the port's state may refuse it. -/
theorem read_beyond (hpath : h.path ≠ 0) (hhears : s.blk.hears h = true) :
    let f := s.blk.taken h
    let key := index.toNat * 256 + sub.toNat
    (s.blk.cRole = false → Does (.read h index sub) s fun b => Refuses f b h key 0x14) ∧
    (s.blk.cRole = true → f.proxyCode h.origin h.path ≠ 0 → Does (.read h index sub) s fun b =>
      Refuses f b h key (f.proxyCode h.origin h.path) ∧ b.reg 0x104003 = s.blk.reg 0x104003 + 1) := by
  refine ⟨fun hrole => does_of_next rfl ?_, fun hrole hcode => does_of_next rfl ?_⟩ <;> beta_reduce
  · rw [Block.route_nobody hpath hhears hrole]
    exact Block.abort_refuses ..
  · rw [Block.route_proxy hpath hhears hrole, Block.proxyRequest, if_pos hcode, ← Block.taken_reg s.blk h]
    exact ⟨Block.proxyAbort_refuses .., Block.proxyAbort_counted ..⟩

end

/-- Settles O47: each request goes to the entry's row as the block that has taken it finds the row. -/
theorem requestsAreServed : Obligations.RequestsAreServed := by
  unfold Obligations.RequestsAreServed
  intro h index sub s hhears
  obtain ⟨hindex, hsub⟩ := key_parts (index := index) (sub := sub) rfl
  refine ⟨fun hpath => ⟨fun d haccess => read_served hpath hhears haccess, fun c haccess => does_of_next rfl ?_, fun hlevel => does_of_next rfl ?_,
    fun hlevel hentry => does_of_next rfl ?_, fun lvl d hlevel hentry hfour hreset => does_of_next rfl ?_, fun op => does_of_next rfl ?_⟩,
    fun hpath hpair body => ⟨fun c haccess => does_of_next (exec_write_own hpath hpair) ?_,
      fun d haccess => write_allowed hpath hpair hhears haccess⟩,
    fun hpath => read_beyond hpath hhears⟩
  · beta_reduce
    rw [Block.route_own hpath hhears, Block.readEntry_refused haccess]
    exact Block.abort_refuses ..
  · beta_reduce
    rw [Block.route_own hpath hhears, Block.catalogueEntry_unleveled hlevel]
    exact Block.abort_refuses ..
  · beta_reduce
    rw [Block.route_own hpath hhears, Block.catalogueEntry_absent hlevel hentry]
    exact Block.abort_refuses ..
  · beta_reduce
    rw [Block.route_own hpath hhears, Block.catalogueEntry_described hlevel hentry hfour hreset]
    exact Block.reply_answers ..
  · beta_reduce
    rw [Block.route_own hpath hhears]
    exact Block.abort_refuses ..
  · rw [Block.writeEntry_refused hpath hhears (by rwa [hindex, hsub])]
    exact Block.refuseKey_refuses ..

end Sys2Proof.Machine
end

section
/-! PROOFS. Segmented transfers open, move on, land and end (R231, R401, R402). -/

namespace Sys2Proof.Machine

section

variable {b : Block} {h : Hdr}

/-! ### Downloads open (R401) -/

theorem Block.startDownload_opens {i n length : Nat} {d : Desc} (haccess : b.access h i n true = .ok d) (hlength : lengthCode d length = 0)
    (hsome : length ≠ 0) (hfree : (b.downloadBusy (i * 256 + n) || b.transferOn i n) = false) :
    b.startDownload h i n length =
      (b.reply h 0x03 i n 0 []).onDict fun d => { d with transfers := d.transfers ++ [⟨h, i, n, false, length, [], 0, 0, 0, 0⟩] } := by
  rw [Block.startDownload, haccess]
  dsimp only
  rw [if_neg (by simp [hlength]), if_neg (by simpa using hfree), if_neg hsome]

theorem Block.startDownload_busy {i n length : Nat} {d : Desc} (haccess : b.access h i n true = .ok d) (hlength : lengthCode d length = 0)
    (hbusy : (b.downloadBusy (i * 256 + n) || b.transferOn i n) = true) : b.startDownload h i n length = b.abort h i n 0x08 := by
  rw [Block.startDownload, haccess]
  dsimp only
  rw [if_neg (by simp [hlength]), if_pos (by simpa using hbusy)]

theorem download_served {index : BitVec 16} {sub : BitVec 8} {length : BitVec 32} {d : Desc} {s : State} (hpath : h.path = 0)
    (hhears : s.blk.hears h = true) (haccess : (s.blk.taken h).access h index.toNat sub.toNat true = .ok d)
    (hlength : lengthCode d length.toNat = 0) (hsome : length.toNat ≠ 0) :
    let f := s.blk.taken h
    let busy := f.downloadBusy (index.toNat * 256 + sub.toNat) || f.transferOn index.toNat sub.toNat
    (busy = false → Does (.download h index sub length) s fun b =>
      b.dict.transfers = f.dict.transfers ++ [⟨h, index.toNat, sub.toNat, false, length.toNat, [], 0, 0, 0, 0⟩] ∧
      Answers f b (mkReply h 0x03 index.toNat sub.toNat 0 [])) ∧
    (busy = true → Does (.download h index sub length) s fun b =>
      b.dict.transfers = f.dict.transfers ∧ Refuses f b h (index.toNat * 256 + sub.toNat) 0x08) := by
  refine ⟨fun hfree => does_of_next rfl ?_, fun hbusy => does_of_next rfl ?_⟩ <;> beta_reduce <;> rw [Block.route_own hpath hhears]
  · rw [Block.startDownload_opens haccess hlength hsome hfree]
    exact ⟨congrArg (· ++ _) (Block.reply_transfers ..), Block.reply_answers ..⟩
  · rw [Block.startDownload_busy haccess hlength hbusy]
    exact ⟨Block.abort_transfers .., Block.abort_refuses ..⟩

/-! ### Transfers that change and end -/

theorem Block.receiveShort_heard {o : Origin} {f : Block → Block} (hhears : b.hears (shortHdr o 0) = true) : b.receiveShort o f = f b :=
  if_pos hhears

/-- What the search for a transfer finds runs at the device, for the origin and the tag. -/
theorem Block.transferOf_some {o : Origin} {tag : Nat} {up : Bool} {t : Transfer} (hof : b.transferOf o tag up = some t) :
    t ∈ b.dict.transfers ∧ t.hdr.path = 0 ∧ t.hdr.origin = o ∧ t.hdr.tag.toNat = tag ∧ t.up = up := by
  have hfound := List.find?_some hof
  simp only [Bool.and_eq_true, beq_iff_eq, decide_eq_true_eq] at hfound
  obtain ⟨⟨⟨hpath, horigin⟩, htag⟩, hup⟩ := hfound
  exact ⟨List.mem_of_find?_eq_some hof, hpath, horigin, htag, hup⟩

/-- A transfer that ends with a code leaves the others, and its requester is told. -/
theorem Block.dropTransfer_aborted (b : Block) (t : Transfer) (code : Nat) :
    ((b.dropTransfer t).abort t.hdr t.index t.sub code).dict.transfers = b.dict.transfers.filter (fun x => decide (x ≠ t)) ∧
    Answers b ((b.dropTransfer t).abort t.hdr t.index t.sub code) (mkReply t.hdr 0x07 t.index t.sub 0 (bytesLE 4 code)) :=
  ⟨Block.abort_transfers .., (Block.abort_answers ..).congr rfl rfl⟩

/-- Of transfers of which one has changed, those that are not the changed one were there before. -/
theorem mem_changed_dropped {l : List Transfer} {t u x : Transfer}
    (hx : x ∈ (l.map fun y => if y = t then u else y).filter fun y => decide (y ≠ u)) : x ∈ l ∧ x ≠ t := by
  obtain ⟨hmem, hother⟩ := List.mem_filter.mp hx
  obtain ⟨y, hy, rfl⟩ := List.mem_map.mp hmem
  split at hother
  next => simp at hother
  next hne =>
    rw [if_neg hne]
    exact ⟨hy, hne⟩

/-! ### Segments (R402) -/

theorem Block.segmentOwn_expected {t : Transfer} {seq : Nat} {data : List Byte} (hopen : t.data.length < t.total) (hseq : seq = t.next % 256) :
    b.segmentOwn t seq data = b.takeSegment t data := by
  rw [Block.segmentOwn, if_neg (by omega), if_pos (by omega)]

/-- A transfer that a segment short of the last has joined. -/
def Transfer.joined (t : Transfer) (data : List Byte) : Transfer :=
  { t with
    data := t.data ++ data, size := if t.next = 0 ∧ t.data.isEmpty then data.length else t.size, next := t.next + 1,
    unacked := if t.unacked = 15 then 0 else t.unacked + 1 }

/-- A transfer that its last segment has joined. -/
def Transfer.whole (t : Transfer) (data : List Byte) : Transfer :=
  { t with
    data := t.data ++ data.take (t.total - t.data.length), size := if t.next = 0 ∧ t.data.isEmpty then data.length else t.size,
    next := t.next + 1, unacked := 0 }

theorem Block.takeSegment_short {t : Transfer} {data : List Byte} (hfits : t.fits data = false) :
    b.takeSegment t data = (b.dropTransfer t).abort t.hdr t.index t.sub 0x06 := if_pos (by simp [hfits])

theorem Block.takeSegment_joins {t : Transfer} {data : List Byte} (hfits : t.fits data = true) (hopen : t.data.length + data.length < t.total) :
    b.takeSegment t data = if t.unacked = 15 then (b.setTransfer t (t.joined data)).short t.hdr.origin 0x06 t.hdr.tag.toNat ((t.next + 1) % 256) []
      else b.setTransfer t (t.joined data) := by
  have hall : data.take (t.total - t.data.length) = data := List.take_of_length_le (by omega)
  have hundone : decide (t.total ≤ (t.data ++ data).length) = false := by simpa using hopen
  rw [Block.takeSegment, if_neg (by simp [hfits])]
  simp only [hall, hundone, Bool.false_eq_true, or_false, if_false, Transfer.joined]

theorem Block.takeSegment_lands {t : Transfer} {data : List Byte} (hfits : t.fits data = true) (hopen : t.data.length < t.total)
    (hlast : t.total ≤ t.data.length + data.length) :
    b.takeSegment t data =
      ((b.setTransfer t (t.whole data)).short t.hdr.origin 0x06 t.hdr.tag.toNat ((t.next + 1) % 256) []).landDownload (t.whole data) := by
  have hdone : decide (t.total ≤ (t.data ++ data.take (t.total - t.data.length)).length) = true := by
    simp only [List.length_append, List.length_take, decide_eq_true_eq]
    omega
  rw [Block.takeSegment, if_neg (by simp [hfits])]
  simp only [hdone, or_true, if_true, Transfer.whole]

/-- A folio that has landed is staged, and its transfer is over. -/
theorem Block.landDownload_folio {t : Transfer} (hindex : t.index = 0x2020) (hsub : t.sub = 1) :
    b.landDownload t = (b.dropTransfer t).stage t.hdr t.data := by
  rw [Block.landDownload, hindex, hsub]
  exact (if_neg (by decide)).trans (if_pos rfl)

end

section

variable {o : Origin} {tag seq : BitVec 8} {data : List Byte} {s : State} {t : Transfer}

theorem Block.segment_own {b : Block} {n : Nat} (hhears : b.hears (shortHdr o 0) = true) (hof : b.transferOf o tag.toNat false = some t)
    (hopen : t.data.length < t.total) (hseq : n = t.next % 256) : b.segment o tag n data = b.takeSegment t data := by
  rw [Block.segment, Block.receiveShort_heard hhears, hof]
  exact Block.segmentOwn_expected hopen hseq

theorem Block.segment_stray {b : Block} {n : Nat} (hhears : b.hears (shortHdr o 0) = true) (hof : b.transferOf o tag.toNat false = none)
    (hproxy : b.proxyByTag o tag.toNat = none) : b.segment o tag n data = b.abort (shortHdr o tag) 0 0 0x0C := by
  rw [Block.segment, Block.receiveShort_heard hhears, hof, hproxy]

theorem Block.takeSegment_joined {b : Block} (hof : b.transferOf o tag.toNat false = some t) (hfits : t.fits data = true)
    (hopen : t.data.length + data.length < t.total) :
    (b.takeSegment t data).dict.transfers = b.dict.transfers.map (fun x => if x = t then t.joined data else x) ∧
    (t.unacked ≠ 15 → (b.takeSegment t data).dict.replies = b.dict.replies) ∧
    (t.unacked = 15 → Answers b (b.takeSegment t data) ⟨o, 0x06, 0, tag.toNat, 0, (t.next + 1) % 256, 0, 0, []⟩) := by
  obtain ⟨_, _, rfl, htag, _⟩ := Block.transferOf_some hof
  rw [Block.takeSegment_joins hfits hopen]
  refine ⟨?_, fun hmid => by rw [if_neg hmid]; rfl, fun hlast => ?_⟩
  · split
    · exact Block.sendReply_transfers ..
    · rfl
  · rw [if_pos hlast, htag]
    exact (Block.sendReply_answers ..).congr rfl rfl

theorem Block.takeSegment_staged {b : Block} (hfits : t.fits data = true) (hopen : t.data.length < t.total)
    (hlast : t.total ≤ t.data.length + data.length) (hindex : t.index = 0x2020) (hsub : t.sub = 1) :
    (b.takeSegment t data).sets.staging = .verifying ∧ (b.takeSegment t data).sets.image = t.data ++ data.take (t.total - t.data.length) ∧
    (b.takeSegment t data).sets.by_ = some (t.hdr, false) ∧
    ∀ x ∈ (b.takeSegment t data).dict.transfers, x ∈ b.dict.transfers ∧ x ≠ t := by
  rw [Block.takeSegment_lands hfits hopen hlast, Block.landDownload_folio (t := t.whole data) hindex hsub]
  refine ⟨rfl, rfl, rfl, fun x hx => mem_changed_dropped (u := t.whole data) ?_⟩
  have hkept : ((b.setTransfer t (t.whole data)).short t.hdr.origin 0x06 t.hdr.tag.toNat ((t.next + 1) % 256) []).dict.transfers =
      b.dict.transfers.map fun y => if y = t then t.whole data else y := Block.sendReply_transfers ..
  rw [← hkept]
  exact hx

theorem segment_served (hhears : s.blk.hears (shortHdr o 0) = true) (hof : s.blk.transferOf o tag.toNat false = some t)
    (hopen : t.data.length < t.total) (hseq : seq.toNat = t.next % 256) :
    (t.fits data = false → Does (.segment o tag seq data) s fun b =>
      b.dict.transfers = s.blk.dict.transfers.filter (fun x => decide (x ≠ t)) ∧
      Answers s.blk b (mkReply t.hdr 0x07 t.index t.sub 0 (bytesLE 4 0x06))) ∧
    (t.fits data = true → t.data.length + data.length < t.total → Does (.segment o tag seq data) s fun b =>
      b.dict.transfers = s.blk.dict.transfers.map (fun x => if x = t then t.joined data else x) ∧
      (t.unacked ≠ 15 → b.dict.replies = s.blk.dict.replies) ∧
      (t.unacked = 15 → Answers s.blk b ⟨o, 0x06, 0, tag.toNat, 0, (t.next + 1) % 256, 0, 0, []⟩)) ∧
    (t.fits data = true → t.total ≤ t.data.length + data.length → t.index = 0x2020 → t.sub = 1 → Does (.segment o tag seq data) s fun b =>
      b.sets.staging = .verifying ∧ b.sets.image = t.data ++ data.take (t.total - t.data.length) ∧ b.sets.by_ = some (t.hdr, false) ∧
      (∀ x ∈ b.dict.transfers, x ∈ s.blk.dict.transfers ∧ x ≠ t)) := by
  have hown := Block.segment_own (data := data) hhears hof hopen hseq
  refine ⟨fun hfits => does_of_next rfl ?_, fun hfits hmore => does_of_next rfl ?_, fun hfits hlast hindex hsub => does_of_next rfl ?_⟩ <;>
    beta_reduce <;> rw [hown]
  · rw [Block.takeSegment_short hfits]
    exact Block.dropTransfer_aborted ..
  · exact Block.takeSegment_joined hof hfits hmore
  · exact Block.takeSegment_staged hfits hopen hlast hindex hsub

end

/-! ### Acknowledgements of an upload (R402) -/

/-- An upload of which the first n segments have been acknowledged. -/
def Transfer.past (t : Transfer) (n : Nat) : Transfer := { t with data := t.data.drop (t.size * n), base := t.base + n, next := t.base + n }

section

variable {b : Block} {o : Origin} {tag next : BitVec 8} {t : Transfer} {s : State}

theorem Block.segmentAck_own {n : Nat} (hhears : b.hears (shortHdr o 0) = true) (hof : b.transferOf o tag.toNat true = some t) :
    b.segmentAck o tag n =
      if t.unacked < (n + 256 - t.base % 256) % 256 then (b.dropTransfer t).abort t.hdr t.index t.sub 0x0C
      else if (t.past ((n + 256 - t.base % 256) % 256)).data.isEmpty then b.dropTransfer t
      else (b.setTransfer t (t.past ((n + 256 - t.base % 256) % 256))).sendUpload (t.past ((n + 256 - t.base % 256) % 256)) := by
  rw [Block.segmentAck, Block.receiveShort_heard hhears, hof]
  rfl

/-- An upload that moves on stands among the transfers with its next segments on their way. -/
theorem Block.sendUpload_past (hmem : t ∈ b.dict.transfers) (n : Nat) :
    ∃ u ∈ ((b.setTransfer t (t.past n)).sendUpload (t.past n)).dict.transfers, u.hdr = t.hdr ∧ u.data = t.data.drop (t.size * n) ∧
      u.base = t.base + n ∧ u.unacked = min 16 ((u.data.length + t.size - 1) / t.size) := by
  rw [Block.sendUpload_transfers]
  exact ⟨_, List.mem_map.mpr ⟨t.past n, List.mem_map.mpr ⟨t, hmem, if_pos rfl⟩, if_pos rfl⟩, rfl, rfl, rfl, rfl⟩

theorem segmentAck_served (hhears : s.blk.hears (shortHdr o 0) = true) (hof : s.blk.transferOf o tag.toNat true = some t) :
    let k := (next.toNat + 256 - t.base % 256) % 256
    (t.unacked < k → Does (.segmentAck o tag next) s fun b =>
      b.dict.transfers = s.blk.dict.transfers.filter (fun x => decide (x ≠ t)) ∧
      Answers s.blk b (mkReply t.hdr 0x07 t.index t.sub 0 (bytesLE 4 0x0C))) ∧
    (k ≤ t.unacked → t.data.length ≤ t.size * k → Does (.segmentAck o tag next) s fun b =>
      b.dict.transfers = s.blk.dict.transfers.filter (fun x => decide (x ≠ t)) ∧ b.dict.replies = s.blk.dict.replies) ∧
    (k ≤ t.unacked → t.size * k < t.data.length → Does (.segmentAck o tag next) s fun b =>
      ∃ u ∈ b.dict.transfers, u.hdr = t.hdr ∧ u.data = t.data.drop (t.size * k) ∧ u.base = t.base + k ∧
        u.unacked = min 16 ((u.data.length + t.size - 1) / t.size)) := by
  intro k
  have hown := Block.segmentAck_own (n := next.toNat) hhears hof
  obtain ⟨hmem, _⟩ := Block.transferOf_some hof
  refine ⟨fun hunsent => does_of_next rfl ?_, fun hsent hend => does_of_next rfl ?_, fun hsent hmore => does_of_next rfl ?_⟩ <;>
    beta_reduce <;> rw [hown]
  · rw [if_pos hunsent]
    exact Block.dropTransfer_aborted ..
  · rw [if_neg (by omega), if_pos (by simpa [Transfer.past] using hend)]
    exact ⟨rfl, rfl⟩
  · rw [if_neg (by omega), if_neg (by simpa [Transfer.past] using hmore)]
    exact Block.sendUpload_past hmem k

end

/-! ### ABORT and the wait of 1 s (R401, R402) -/

section

variable {b : Block} {h : Hdr}

theorem Block.abortMsg_fresh (hhears : b.hears h = true) (hproxy : b.proxyByTag h.origin h.tag.toNat = none) (code : Nat) :
    b.abortMsg h code = b.freshTag h := by
  rw [Block.abortMsg, if_neg (by simp [hhears]), hproxy]

/-- A tag that is fresh belongs to no transfer of its origin. -/
theorem Block.freshTag_unused {t : Transfer} (ht : t ∈ (b.freshTag h).dict.transfers) (horigin : t.hdr.origin = h.origin) : t.hdr.tag ≠ h.tag := by
  have hothers := (List.mem_filter.mp ht).2
  simpa [horigin] using hothers

theorem Block.transferLate_ends {o : Origin} {tag : Nat} {t : Transfer}
    (hlate : (b.dict.transfers.filter fun t => t.hdr.path == 0 && decide (t.hdr.origin = o) && t.hdr.tag.toNat == tag) = [t])
    (hruns : t.up = true ∨ t.data.length < t.total) : b.transferLate o tag = (b.dropTransfer t).abort t.hdr t.index t.sub 0x0B := by
  rw [Block.transferLate, hlate]
  exact if_neg (by rintro ⟨hdown, hwhole⟩; rcases hruns with hup | hopen <;> [simp [hup] at hdown; omega])

end

/-- Settles O48: each message of a transfer by what stands among the transfers for its origin and tag. -/
theorem transfersRun : Obligations.TransfersRun := by
  unfold Obligations.TransfersRun
  refine ⟨fun h index sub length d s hpath hhears haccess hlength hsome => download_served hpath hhears haccess hlength hsome,
    fun o tag seq data s hhears => ⟨fun t hof hopen hseq => segment_served hhears hof hopen hseq, fun hof hproxy => does_of_next rfl ?_⟩,
    fun o tag next t s hhears hof => segmentAck_served hhears hof, fun h code s hhears hproxy => does_of_next rfl ?_,
    fun o tag s hserved => ⟨fun hlate => ?_, fun t hlate hruns => does_of_when rfl hserved ?_⟩⟩
  · beta_reduce
    rw [Block.segment_stray hhears hof hproxy]
    exact ⟨Block.abort_transfers .., Block.abort_answers ..⟩
  · beta_reduce
    rw [Block.abortMsg_fresh hhears hproxy]
    exact ⟨rfl, fun t ht horigin => Block.freshTag_unused ht horigin⟩
  · refine exec_of_when_same rfl ?_
    rw [Block.transferLate, hlate]
    rfl
  · rw [Block.transferLate_ends hlate hruns]
    exact Block.dropTransfer_aborted ..

end Sys2Proof.Machine
end

section
/-! PROOFS. Sessions open, are locked out, end and time out; a proxy request without an answer (R346, R405, R406, R418). -/

namespace Sys2Proof.Machine

section

variable {b : Block} {h : Hdr} {level : Nat} {cred : List Byte} {v : Verdict}

/-! ### Credentials (R405, R473) -/

theorem Keeps.dict_but_regs {a b : Block} {ps : List Part} (hab : Keeps ps a b) (hps : ps.contains .dict = false) :
    ∃ regs, b.dict = { a.dict with regs := regs } :=
  ⟨b.dict.regs, congrArg (fun d : Dict => { d with regs := b.dict.regs }) (hab.dict_eq hps)⟩

/-- A credential changes nothing of the dictionary but its entries and the challenge. -/
theorem Block.credentialOk_dict (b : Block) (h : Hdr) (level : Nat) (cred : List Byte) (v : Verdict) :
    ∃ c regs, (b.credentialOk h level cred v).2.dict = { b.dict with challenge := c, regs := regs } := by
  have hunlock : Keeps [.regs, .ev, .sec, .free] b (b.unlockWith h.origin cred v).2 := Block.unlockWith_keeps (.refl _ _) rfl
  unfold Block.credentialOk
  split
  · obtain ⟨regs, hdict⟩ := hunlock.dict_but_regs rfl
    refine ⟨(b.unlockWith h.origin cred v).2.freeBytes 16, regs, ?_⟩
    exact congrArg (fun d : Dict => { d with challenge := (b.unlockWith h.origin cred v).2.freeBytes 16 }) hdict
  · exact ⟨b.dict.challenge, b.dict.regs, rfl⟩

theorem EntryIs.verified {k w : Nat} (hb : EntryIs k w b) (hk : k < 0x7C0001 ∨ 0x7C0005 < k) (type version sub : Nat) :
    EntryIs k w (b.verified type version sub) := by
  have hset : EntryIs k w (((b.setReg 0x7C0001 sub).setReg 0x7C0002 type).setReg 0x7C0003 (b.freeVal.toNat % 2 ^ 32)).freeNext :=
    ((((hb.setReg _ (by omega)).setReg _ (by omega)).setReg _ (by omega))).same rfl
  exact .ite ((hset.bump 1 (by omega)).raise (by decide) _) ((hset.bump 1 (by omega)).raise (by decide) _)

/-- The count of failed logins does not move with what a credential's token says of itself. -/
theorem EntryIs.unlockWith {w : Nat} (hb : EntryIs 0x103005 w b) (o : Origin) : EntryIs 0x103005 w (b.unlockWith o cred v).2 := by
  have hcleared : EntryIs 0x103005 w (b.onSec fun s => { s with token := none }) := hb.same rfl
  unfold Block.unlockWith
  cases b.sec.token with
  | none => exact hb.raise (by decide) _
  | some token =>
    have hverified : EntryIs 0x103005 w ((b.onSec fun s => { s with token := none }).verifyImage typeToken token.2 v).2 :=
      hcleared.verified (by decide) _ _ _
    dsimp only
    split
    · exact hcleared.raise (by decide) _
    · split
      · exact hverified.raise (by decide) _
      · split
        · exact hverified.raise (by decide) _
        · exact hverified

theorem EntryIs.credentialOk {w : Nat} (hb : EntryIs 0x103005 w b) (h : Hdr) (level : Nat) :
    EntryIs 0x103005 w (b.credentialOk h level cred v).2 := by
  unfold Block.credentialOk
  split
  · exact (hb.unlockWith h.origin (cred := cred) (v := v)).same rfl
  · exact hb

/-! ### Failed logins (R406) -/

/-- A failed login is counted and told. -/
def Block.failTold (b : Block) (h : Hdr) (level : Nat) : Block := (b.bump 0x103005 1).raise 0xD1 [.id 3 level, .id 8 (originField h.origin)]

/-- The failures that the lockout looks at: the last five. -/
def Block.lastFails (b : Block) : List Nat := (b.dict.fails ++ [b.time.now]).drop (b.dict.fails.length - 4)

/-- Five failures stand within 60 s. -/
def Block.locksOut (b : Block) : Bool := decide (5 ≤ b.lastFails.length) && b.lately (b.lastFails.headD 0)

/-- The block after a failed login, before the answer. -/
def Block.failed (b : Block) (h : Hdr) (level : Nat) : Block :=
  ((b.failTold h level).onDict fun d => { d with fails := b.lastFails }).when b.locksOut fun b =>
    (b.onDict fun d => { d with lockout := true, fails := [] }).raise 0xD2 [.id 8 (originField h.origin)]

theorem Block.failTold_keeps (b : Block) (h : Hdr) (level : Nat) : Keeps [.regs, .ev] b (b.failTold h level) :=
  Block.raise_keeps (Block.bump_keeps (.refl _ _) rfl) rfl

theorem Block.loginFailed_eq (b : Block) (h : Hdr) (level : Nat) : b.loginFailed h level = (b.failed h level).abort h 0 0 0x0F := by
  have hlately : (((b.failTold h level).onDict fun d => { d with fails := b.lastFails }).lately (b.lastFails.headD 0)) =
      b.lately (b.lastFails.headD 0) := by
    have htime : (b.failTold h level).time = b.time := (b.failTold_keeps h level).time_eq rfl rfl
    unfold Block.lately Block.minute
    rw [Block.onDict_time, htime]
  unfold Block.failed Block.locksOut
  rw [← hlately]
  rfl

theorem Block.failed_replies (b : Block) (h : Hdr) (level : Nat) :
    (b.failed h level).dict.replies = b.dict.replies ∧ (b.failed h level).dict.mute = b.dict.mute ∧
    (b.failed h level).dict.sessions = b.dict.sessions := by
  obtain ⟨regs, hrest⟩ := (b.failTold_keeps h level).dict_but_regs rfl
  unfold Block.failed Block.when
  split <;> simp [Block.onDict, hrest]

theorem Block.failed_counted (b : Block) (h : Hdr) (level : Nat) : EntryIs 0x103005 (b.reg 0x103005 + 1) (b.failed h level) := by
  have htold : EntryIs 0x103005 (b.reg 0x103005 + 1) (b.failTold h level) := (EntryIs.bumped b (by decide) 1).raise (by decide) _
  refine EntryIs.when ?_ fun x hx => ?_
  · exact htold.same rfl
  · refine EntryIs.raise ?_ (by decide) _
    exact hx.same rfl

theorem Block.failed_open (hfew : b.dict.fails.length < 4) :
    (b.failed h level).dict.lockout = b.dict.lockout ∧ (b.failed h level).dict.fails = b.dict.fails ++ [b.time.now] := by
  obtain ⟨regs, hrest⟩ := (b.failTold_keeps h level).dict_but_regs rfl
  have hlast : b.lastFails = b.dict.fails ++ [b.time.now] := by rw [Block.lastFails, Nat.sub_eq_zero_of_le (by omega), List.drop_zero]
  have hstays : b.locksOut = false := by simp [Block.locksOut, hlast]; omega
  unfold Block.failed
  rw [hstays]
  simp [Block.when, Block.onDict, hrest, hlast]

theorem Block.failed_locks {x : Nat} {l : List Nat} (hfails : b.dict.fails = x :: l) (hlength : l.length = 3) (hlately : b.lately x = true) :
    (b.failed h level).dict.lockout = true ∧ (b.failed h level).dict.fails = [] := by
  have hlast : b.lastFails = x :: l ++ [b.time.now] := by simp [Block.lastFails, hfails, hlength]
  have hlocks : b.locksOut = true := by simp [Block.locksOut, hlast, hlength, hlately]
  unfold Block.failed
  rw [hlocks]
  simp [Block.when, Block.onDict]

/-! ### LOGIN (R405, R406) -/

theorem Block.loginHere_locked (hlocked : b.dict.lockout = true) : b.loginHere h level cred v = b.abort h 0 0 0x10 := if_pos hlocked

theorem Block.loginHere_taken (hfree : b.dict.lockout = false)
    (htaken : h.session = 0 ∨ 127 < h.session ∨ (b.dict.sessions.any fun x => x.number == h.session && decide (x.origin = h.origin)) = true) :
    b.loginHere h level cred v = b.abort h 0 0 0x0E := by
  rw [Block.loginHere, if_neg (by simp [hfree]), if_pos htaken]

/-- A session that may open does so, or not, by the credential. -/
theorem Block.loginHere_judged (hfree : b.dict.lockout = false) (hone : 1 ≤ h.session) (hmax : h.session ≤ 127)
    (hnew : (b.dict.sessions.any fun x => x.number == h.session && decide (x.origin = h.origin)) = false) (hlow : 2 ≤ level) (hhigh : level ≤ 4)
    (hroom : b.dict.sessions.length < 8) : b.loginHere h level cred v =
      let r := b.credentialOk h level cred v
      if !r.1 then r.2.loginFailed h level
      else ((r.2.onDict fun d => { d with sessions := d.sessions ++ [⟨h.session, h.origin, level, b.time.now⟩], fails := [] }).raise 0xD0
        [.id 7 h.session, .id 3 level, .id 8 (originField h.origin)]).reply h 0x10 0 0 0 [] := by
  rw [Block.loginHere, if_neg (by simp [hfree]), if_neg (by simp [hnew]; omega), if_neg (by omega), if_neg (by omega)]

theorem Block.taken_lately (b : Block) (h : Hdr) : (b.taken h).lately = b.lately := by
  funext x
  unfold Block.lately Block.minute
  rw [Block.taken_time]

/-- A credential that is right opens the session and clears the failures. -/
theorem Block.loginHere_opens (hfree : b.dict.lockout = false) (hone : 1 ≤ h.session) (hmax : h.session ≤ 127)
    (hnew : (b.dict.sessions.any fun x => x.number == h.session && decide (x.origin = h.origin)) = false) (hlow : 2 ≤ level) (hhigh : level ≤ 4)
    (hroom : b.dict.sessions.length < 8) (hright : (b.credentialOk h level cred v).1 = true) :
    (b.loginHere h level cred v).dict.sessions = b.dict.sessions ++ [⟨h.session, h.origin, level, b.time.now⟩] ∧
    (b.loginHere h level cred v).dict.fails = [] ∧ Answers b (b.loginHere h level cred v) (mkReply h 0x10 0 0 0 []) := by
  obtain ⟨c, regs, hdict⟩ := b.credentialOk_dict h level cred v
  rw [Block.loginHere_judged hfree hone hmax hnew hlow hhigh hroom]
  dsimp only
  rw [if_neg (by simp [hright])]
  refine ⟨?_, ?_, (Block.reply_answers ..).congr ?_ ?_⟩ <;> simp [Block.reply, Block.onDict, hdict]

/-- A wrong one counts, and may lock every login out. -/
theorem Block.loginHere_fails (hfree : b.dict.lockout = false) (hone : 1 ≤ h.session) (hmax : h.session ≤ 127)
    (hnew : (b.dict.sessions.any fun x => x.number == h.session && decide (x.origin = h.origin)) = false) (hlow : 2 ≤ level) (hhigh : level ≤ 4)
    (hroom : b.dict.sessions.length < 8) (hwrong : (b.credentialOk h level cred v).1 = false) :
    let y := b.loginHere h level cred v
    y.dict.sessions = b.dict.sessions ∧ y.reg 0x103005 = b.reg 0x103005 + 1 ∧ Refuses b y h 0 0x0F ∧
    (b.dict.fails.length < 4 → y.dict.lockout = false ∧ y.dict.fails = b.dict.fails ++ [b.time.now]) ∧
    (∀ x l, b.dict.fails = x :: l → l.length = 3 → b.lately x = true → y.dict.lockout = true ∧ y.dict.fails = []) := by
  obtain ⟨c, regs, hdict⟩ := b.credentialOk_dict h level cred v
  have htime : (b.credentialOk h level cred v).2.time = b.time :=
    (Block.credentialOk_keeps (.refl [.regs, .dict, .ev, .sec, .free] b) rfl).time_eq rfl rfl
  have hcount : EntryIs 0x103005 (b.reg 0x103005) (b.credentialOk h level cred v).2 := .credentialOk ⟨by decide, rfl⟩ h level
  have hlogin : b.loginHere h level cred v = ((b.credentialOk h level cred v).2.failed h level).abort h 0 0 0x0F := by
    rw [Block.loginHere_judged hfree hone hmax hnew hlow hhigh hroom]
    dsimp only
    rw [if_pos (by simp [hwrong]), Block.loginFailed_eq]
  generalize (b.credentialOk h level cred v).2 = r at *
  have hcounted := r.failed_counted h level
  obtain ⟨hreplies, hmute, hsessions⟩ := r.failed_replies h level
  rw [hcount.reg] at hcounted
  dsimp only
  rw [hlogin]
  refine ⟨?_, (hcounted.abort h 0 0 0x0F).reg, ?_, fun hfew => ?_, fun x l hfails hlength hlately => ?_⟩
  · rw [Block.abort_sessions, hsessions, hdict]
  · exact (Block.abort_answers ..).congr (by rw [hreplies, hdict]) (by rw [hmute, hdict])
  · obtain ⟨hlockout, hlist⟩ := Block.failed_open (b := r) (h := h) (level := level) (by rw [hdict]; exact hfew)
    rw [Block.abort_lockout, Block.abort_fails, hlockout, hlist, hdict, htime]
    exact ⟨hfree, rfl⟩
  · rw [Block.abort_lockout, Block.abort_fails]
    refine Block.failed_locks (x := x) (by rw [hdict]; exact hfails) hlength ?_
    rwa [Block.lately, Block.minute, htime]

end

/-! ### Sessions that end (R346, R405) -/

/-- A unit that its session has run is free. -/
def Cvu.releasedBy (k : Cvu) (who : Origin × Nat) : Cvu :=
  if k.running && decide (k.owner = some who) then { k with running := false, owner := none } else k

section

variable {b : Block} {h : Hdr} {o : Origin} {session : Nat} {x : Session}

theorem Cvu.releasedBy_twice (k : Cvu) (who : Origin × Nat) : (k.releasedBy who).releasedBy who = k.releasedBy who := by
  unfold Cvu.releasedBy
  split <;> simp [*]

/-- The units that a session runs are released one by one. -/
theorem Block.cvusReleased (units : List Nat) (u : Nat) :
    (forEach units b fun u b =>
      if (b.cvu u).running && decide ((b.cvu u).owner = some (o, session)) then
        (b.onCvu u fun k => { k with running := false, owner := none }).raise 0xA1 [.id 4 u, .id 7 session]
      else b).cvu u = if u ∈ units then (b.cvu u).releasedBy (o, session) else b.cvu u := by
  induction units generalizing b with
  | nil => rfl
  | cons w units ih =>
    refine (ih (b := _)).trans ?_
    have hhere (u : Nat) : (if (b.cvu w).running && decide ((b.cvu w).owner = some (o, session)) then
        (b.onCvu w fun k => { k with running := false, owner := none }).raise 0xA1 [.id 4 w, .id 7 session]
      else b).cvu u = if u = w then (b.cvu u).releasedBy (o, session) else b.cvu u := by
      split
      next hruns =>
        have hcvu := (b.onCvu_cvuIs w fun k => { k with running := false, owner := none }).same
          (Block.raise_cvus _ 0xA1 [.id 4 w, .id 7 session])
        split
        next heq =>
          subst heq
          rw [hcvu.here, Cvu.releasedBy, if_pos hruns]
        next hne => exact hcvu.others u hne
      next hidle =>
        split
        next heq => rw [heq, Cvu.releasedBy, if_neg hidle]
        next => rfl
    rw [hhere u]
    by_cases hmem : u ∈ units <;> by_cases heq : u = w <;> simp [hmem, heq, Cvu.releasedBy_twice]

theorem Block.endSession_keeps_rest (b : Block) (x : Session) (cause : Nat) :
    Keeps [.cvus, .regs, .ev] (b.onDict fun d => { d with
      sessions := d.sessions.filter fun y => decide (y ≠ x),
      transfers := d.transfers.filter fun t => !(decide (t.hdr.origin = x.origin) && t.hdr.session == x.number) }) (b.endSession x cause) :=
  Block.raise_keeps (Block.cvuSessionEnd_keeps (.refl _ _) rfl) rfl

theorem Block.endSession_sessions (b : Block) (x : Session) (cause : Nat) :
    (b.endSession x cause).dict.sessions = b.dict.sessions.filter fun y => decide (y ≠ x) := (b.endSession_keeps_rest x cause).sessions_eq rfl

theorem Block.endSession_cvu (cause : Nat) {u : Nat} (hunit : u < 16) :
    (b.endSession x cause).cvu u = (b.cvu u).releasedBy (x.origin, x.number) := by
  have hreleased := (Block.cvusReleased (b := b.onDict fun d => { d with
      sessions := d.sessions.filter fun y => decide (y ≠ x),
      transfers := d.transfers.filter fun t => !(decide (t.hdr.origin = x.origin) && t.hdr.session == x.number) })
    (o := x.origin) (session := x.number) (List.range 16) u).trans (if_pos (List.mem_range.mpr hunit))
  rw [Block.endSession, Block.cvu, Block.raise_cvus]
  exact hreleased

/-- LOGOUT of a session that is open. -/
theorem Block.logoutHere_ends (hopen : (b.dict.sessions.find? fun x => x.number == h.session && decide (x.origin = h.origin)) = some x) :
    (b.logoutHere h).dict.sessions = b.dict.sessions.filter (fun y => decide (y ≠ x)) ∧
    (∀ u : Fin 16, (b.cvu u.val).running = true → (b.cvu u.val).owner = some (h.origin, h.session) →
      (b.logoutHere h).cvu u.val = { b.cvu u.val with running := false, owner := none }) ∧
    (∀ u : Fin 16, (b.cvu u.val).owner ≠ some (h.origin, h.session) → (b.logoutHere h).cvu u.val = b.cvu u.val) ∧
    Answers b (b.logoutHere h) (mkReply h 0x11 0 0 0 []) := by
  have hnamed := List.find?_some hopen
  simp only [Bool.and_eq_true, beq_iff_eq, decide_eq_true_eq] at hnamed
  obtain ⟨hnumber, horigin⟩ := hnamed
  have hkeeps := b.endSession_keeps_rest x 1
  have hcvu (u : Fin 16) : ((b.endSession x 1).reply h 0x11 0 0 0 []).cvu u.val = (b.cvu u.val).releasedBy (h.origin, h.session) := by
    rw [← hnumber, ← horigin, ← Block.endSession_cvu 1 u.isLt, Block.cvu, Block.reply, Block.sendReply_cvus]
    rfl
  rw [Block.logoutHere, hopen]
  refine ⟨(Block.sendReply_sessions ..).trans (b.endSession_sessions x 1), fun u hruns howner => ?_, fun u hother => ?_,
    (Block.reply_answers ..).congr (hkeeps.replies_eq rfl).symm (hkeeps.mute_eq rfl).symm⟩
  · rw [hcvu, Cvu.releasedBy, if_pos (by simp [hruns, howner])]
  · rw [hcvu, Cvu.releasedBy, if_neg (by simp [hother])]

theorem Block.logoutHere_unknown (hnone : (b.dict.sessions.find? fun x => x.number == h.session && decide (x.origin = h.origin)) = none) :
    b.logoutHere h = b.abort h 0 0 0x0E := by
  rw [Block.logoutHere, hnone]

/-- Sessions that end in turn leave those that none of them is. -/
theorem Block.sessionsEnded (l : List Session) (cause : Nat) :
    (forEach l b fun x b => b.endSession x cause).dict.sessions = b.dict.sessions.filter fun y => decide (y ∉ l) := by
  induction l generalizing b with
  | nil => simp [forEach]
  | cons x l ih =>
    refine (ih (b := b.endSession x cause)).trans ?_
    rw [Block.endSession_sessions, List.filter_filter]
    refine List.filter_congr fun y _ => ?_
    by_cases heq : y = x <;> simp [heq]

theorem Block.sessionLate_sessions (n : Nat) : (b.sessionLate n).dict.sessions =
    b.dict.sessions.filter fun x => !(x.number == n && b.elapsed x.used (1000 * b.reg 0x103004)) := by
  rw [Block.sessionLate, Block.sessionsEnded]
  refine List.filter_congr fun y hy => ?_
  cases hlate : (y.number == n && b.elapsed y.used (1000 * b.reg 0x103004)) <;> simp [List.mem_filter, hy, hlate]

end

/-! ### Proxy requests without an answer (R418) -/

section

variable {b : Block} {p tag : Nat} {x : Proxy}

/-- What a C-role sends of its own waits for its partner or the merge, and no port takes part. -/
theorem Block.inbandSend_ports (hrole : b.cRole = true) (o : Nat) (m : List Byte) : (b.inbandSend o m).mrg.ports = b.mrg.ports := by
  rw [Block.inbandSend, if_pos hrole, Block.ownService]
  split <;> rfl

theorem Block.sendReply_ports (hrole : b.cRole = true) (r : Reply) : (b.sendReply r).mrg.ports = b.mrg.ports := by
  unfold Block.sendReply
  dsimp only
  cases b.dict.mute with
  | true => rfl
  | false =>
    simp only [Bool.false_eq_true, if_false, Bool.false_or]
    split
    · rfl
    · exact Block.inbandSend_ports (b := b.onDict fun d => { d with replies := d.replies ++ [r] }) hrole _ _

theorem Block.abort_ports (hrole : b.cRole = true) (h : Hdr) (idx sub code : Nat) : (b.abort h idx sub code).mrg.ports = b.mrg.ports := by
  unfold Block.abort
  split
  next => rfl
  next =>
    have hraised : Keeps [.regs, .ev] b (b.raiseOnce 0xD4 0 [.id 8 code, .id 24 (idx * 256 + sub)]) := Block.raiseOnce_keeps (.refl _ _) rfl
    exact (Block.sendReply_ports (b := (b.raiseOnce 0xD4 0 [.id 8 code, .id 24 (idx * 256 + sub)]).landingOver h)
      ((hraised.role_eq rfl).trans hrole) _).trans (congrArg Merge.ports (hraised.mrg_eq rfl))

/-- The transfers that a proxy request has opened end with it. -/
def Block.transfersDropped (b : Block) (x : Proxy) : Block :=
  b.onDict fun d => { d with transfers := d.transfers.filter fun t => !(decide (t.hdr = x.hdr) && t.hdr.path != 0) }

/-- The request that has waited leaves the port's, is counted, and is answered with 0x15. -/
theorem Block.proxyLate_fails (hrole : b.cRole = true) (hlate : ((b.port p).proxies.filter fun x => x.tag == tag && !x.answered) = [x])
    (horigin : x.hdr.origin ≠ .proxiedUnit) :
    ((b.proxyLate p tag).port p).proxies = (b.port p).proxies.filter (fun y => decide (y ≠ x)) ∧
    (b.proxyLate p tag).reg 0x104003 = b.reg 0x104003 + 1 ∧
    Answers b (b.proxyLate p tag) (mkReply x.hdr 0x07 x.index x.sub 0 (bytesLE 4 0x15)) := by
  have hends : b.proxyLate p tag = (((b.proxyDrop p x).transfersDropped x).proxyAbort x.hdr x.index x.sub 0x15).raise 0xD5 [.id 6 p, .id 8 tag] := by
    rw [Block.proxyLate, hlate]
    exact congrArg (Block.raise · 0xD5 [.id 6 p, .id 8 tag]) (if_neg horigin)
  have hcount : EntryIs 0x104003 (b.reg 0x104003 + 1) (((b.proxyDrop p x).transfersDropped x).bump 0x104003 1) :=
    EntryIs.bumped (k := 0x104003) ((b.proxyDrop p x).transfersDropped x) (by decide) 1
  rw [hends]
  refine ⟨?_, ((hcount.abort ..).raise (by decide) _).reg, ?_⟩
  · have hports := Block.abort_ports (b := ((b.proxyDrop p x).transfersDropped x).bump 0x104003 1) hrole x.hdr x.index x.sub 0x15
    rw [Block.port, Block.raise_mrg, Block.proxyAbort, hports]
    exact congrArg PortSt.proxies (Block.port_onPort_same ..)
  · refine Answers.then_keeps (b := ((b.proxyDrop p x).transfersDropped x).proxyAbort x.hdr x.index x.sub 0x15) ?_
      (Block.raise_keeps (.refl [.regs, .ev] _) rfl) rfl
    exact (Block.abort_answers (((b.proxyDrop p x).transfersDropped x).bump 0x104003 1) x.hdr x.index x.sub 0x15).congr
      (Block.bump_replies ((b.proxyDrop p x).transfersDropped x) 0x104003 1).symm
      (Block.bump_mute ((b.proxyDrop p x).transfersDropped x) 0x104003 1).symm

end

/-- Settles O49: LOGIN by what stands in its way and by the credential, the ends of sessions by the sessions that they leave. -/
theorem sessionsOpenAndEnd : Obligations.SessionsOpenAndEnd := by
  unfold Obligations.SessionsOpenAndEnd
  refine ⟨fun h level cred v s hpath hhears => ⟨fun hlocked => does_of_next rfl ?_, fun hfree htaken => does_of_next rfl ?_,
      fun hfree hmay hright => does_of_next rfl ?_, fun hfree hmay hwrong => does_of_next rfl ?_⟩,
    fun s => ⟨fun hlocked => does_of_when rfl hlocked rfl, fun hfree => exec_of_not_when rfl hfree⟩,
    fun h s hpath hhears => ⟨fun x hopen => does_of_next rfl ?_, fun hnone => does_of_next rfl ?_⟩,
    fun n s hserved => does_of_when rfl hserved (Block.sessionLate_sessions _),
    fun p tag s hrunning hrole => ⟨fun hlate => ?_, fun x hlate horigin => does_of_when rfl (by simp [hrunning, hrole])
      (Block.proxyLate_fails hrole hlate horigin)⟩⟩
  · beta_reduce
    rw [Block.route_own hpath hhears, Block.loginHere_locked (by rwa [Block.taken_lockout])]
    exact ⟨Block.abort_sessions .., Block.abort_answers ..⟩
  · beta_reduce
    rw [Block.route_own hpath hhears, Block.loginHere_taken (by rwa [Block.taken_lockout]) htaken]
    exact ⟨Block.abort_sessions .., Block.abort_answers ..⟩
  · obtain ⟨hone, hmax, hnew, hlow, hhigh, hroom⟩ := hmay
    beta_reduce
    rw [Block.route_own hpath hhears]
    have hopens := Block.loginHere_opens (by rwa [Block.taken_lockout]) hone hmax hnew hlow hhigh hroom hright
    rwa [Block.taken_time] at hopens
  · obtain ⟨hone, hmax, hnew, hlow, hhigh, hroom⟩ := hmay
    beta_reduce
    rw [Block.route_own hpath hhears]
    have hfails := Block.loginHere_fails (by rwa [Block.taken_lockout]) hone hmax hnew hlow hhigh hroom hwrong
    dsimp only at hfails
    rwa [Block.taken_reg, Block.taken_fails, Block.taken_lately, Block.taken_time] at hfails
  · beta_reduce
    rw [Block.route_own hpath hhears]
    have hends := Block.logoutHere_ends hopen
    simpa only [Block.taken_cvu] using hends
  · beta_reduce
    rw [Block.route_own hpath hhears, Block.logoutHere_unknown hnone]
    exact ⟨Block.abort_sessions .., (Block.abort_cvus ..).trans (Block.taken_cvus ..), Block.abort_answers ..⟩
  · refine exec_of_when_same rfl ?_
    rw [Block.proxyLate, hlate]
    rfl

end Sys2Proof.Machine
end

section
/-! PROOFS. Pair writes, keeps, forgets and the write-only acts (R112, R118, R420, R422, R429). -/

namespace Sys2Proof.Machine

/-- The pair writes that wait are among a list. -/
def PairsIn (l : List PairWrite) (b : Block) : Prop := b.dict.pairs ⊆ l

section

variable {l : List PairWrite} {b x y : Block} {ps : List Part}

/-! ### What adds no pair write: rules for any operation -/

theorem PairsIn.same (hx : PairsIn l x) (hxy : y.dict.pairs = x.dict.pairs) : PairsIn l y := by
  unfold PairsIn
  rw [hxy]
  exact hx

theorem PairsIn.keeps (hx : PairsIn l x) (hxy : Keeps ps x y) (hps : ps.contains .dict = false) : PairsIn l y := hx.same (hxy.pairs_eq hps)

theorem PairsIn.ite {c : Prop} [Decidable c] (hx : PairsIn l x) (hy : PairsIn l y) : PairsIn l (if c then x else y) := by split <;> assumption

theorem PairsIn.forEach {α : Type} {list : List α} {f : α → Block → Block} (hb : PairsIn l b) (hf : ∀ i x, PairsIn l x → PairsIn l (f i x)) :
    PairsIn l (forEach list b f) :=
  List.foldlRecOn (motive := PairsIn l) list _ hb fun x hx i _ => hf i x hx

theorem PairsIn.ack (hb : PairsIn l b) (h : Hdr) (key : Nat) : PairsIn l (b.ack h key) := hb.same (Block.ack_pairs ..)

theorem PairsIn.landed (hb : PairsIn l b) (h : Hdr) (key : Nat) : PairsIn l (b.landed h key) := hb.same (Block.landed_pairs ..)

theorem PairsIn.refuseKey (hb : PairsIn l b) (h : Hdr) (key code : Nat) : PairsIn l (b.refuseKey h key code) := hb.same (Block.refuseKey_pairs ..)

theorem PairsIn.abort (hb : PairsIn l b) (h : Hdr) (idx sub code : Nat) : PairsIn l (b.abort h idx sub code) := hb.same (Block.abort_pairs ..)

theorem PairsIn.raise (hb : PairsIn l b) (n : Nat) (flds : List Fld) : PairsIn l (b.raise n flds) := hb.same (Block.raise_pairs ..)

theorem PairsIn.pendWrite (hb : PairsIn l b) (h : Hdr) (key v : Nat) : PairsIn l (b.pendWrite h key v) := hb.same rfl

/-! ### Writes of RS and RW entries (R230, R396) -/

theorem PairsIn.rsWrite (hb : PairsIn l b) (h : Hdr) (d : Desc) (key v : Nat) : PairsIn l (b.rsWrite h d key v) := by
  unfold Block.rsWrite
  dsimp only
  have hproven {c : Prop} [Decidable c] : PairsIn l (if c then b.raise 0x17 [.id 24 key] else b) := .ite (hb.raise _ _) hb
  refine .ite (hb.refuseKey ..) (.ite (hproven.refuseKey ..) (PairsIn.ack ?_ h key))
  exact hproven.same rfl

theorem PairsIn.rwWrite (hb : PairsIn l b) (h : Hdr) (d : Desc) (key v : Nat) : PairsIn l (b.rwWrite h d key v) := by
  have hswap (v : Nat) : PairsIn l (b.swapOrbit h v) := by
    refine .ite (hb.refuseKey ..) ?_
    exact hb.same rfl
  have hprog (p v : Nat) : PairsIn l (b.progWrite h p v) := by
    refine .ite (hb.refuseKey ..) (.ite ((hb.raise _ _).refuseKey ..) ?_)
    exact hb.same rfl
  have hlane (n v : Nat) : PairsIn l (b.laneConfigWrite h n v) := .ite (hb.pendWrite ..) (hb.refuseKey ..)
  have hprbs (n v : Nat) : PairsIn l (b.prbsWrite h n v) := .ite (hb.refuseKey ..) (.ite (hb.refuseKey ..) (hb.pendWrite ..))
  have hunit (u v : Nat) : PairsIn l (b.cvuRestore h u v) := .ite (hb.refuseKey ..) (.ite ((hb.raise _ _).refuseKey ..) (hb.pendWrite ..))
  exact .ite (hb.refuseKey ..) (.ite (hb.refuseKey ..) (.ite (hswap _) (.ite (hprog _ _) (.ite (hlane _ _) (.ite (hprbs _ _) (.ite (hunit _ _)
    (.ite (hb.refuseKey ..) (.ite (hb.refuseKey ..) (hb.pendWrite ..)))))))))

/-! ### Writes of WO entries -/

theorem PairsIn.cvuControl (hb : PairsIn l b) (h : Hdr) (u v : Nat) : PairsIn l (b.cvuControl h u v) := by
  have hstart : PairsIn l (b.cvuStart h u) := by
    refine .ite ((hb.raise _ _).refuseKey ..) (PairsIn.ack ?_ h _)
    exact hb.same rfl
  have hstop : PairsIn l (b.cvuStop h u) := by
    refine PairsIn.ack ?_ h _
    exact hb.same rfl
  exact .ite (hb.refuseKey ..) (.ite hstart (.ite hstop (hb.refuseKey ..)))

theorem PairsIn.cvuData (hb : PairsIn l b) (h : Hdr) (u key : Nat) (data : List Byte) :
    PairsIn l (b.cvuData h u data fun b => b.ack h key) := by
  refine .ite (hb.refuseKey ..) (.ite (hb.refuseKey ..) (PairsIn.ack ?_ h key))
  exact hb.same rfl

theorem PairsIn.keepWrite (hb : PairsIn l b) (h : Hdr) (v : Nat) : PairsIn l (b.keepWrite h v) := by
  refine .ite (hb.refuseKey ..) (.ite (hb.refuseKey ..) (.ite (hb.refuseKey ..) ?_))
  exact hb.same rfl

theorem PairsIn.forgetWrite (hb : PairsIn l b) (h : Hdr) (v : Nat) : PairsIn l (b.forgetWrite h v) := by
  refine .ite (hb.refuseKey ..) (PairsIn.ack ?_ h _)
  exact hb.same rfl

theorem PairsIn.restartWrite (hb : PairsIn l b) (h : Hdr) (sub v : Nat) : PairsIn l (b.restartWrite h sub v) :=
  .ite (hb.refuseKey ..) ((hb.ack h (0x101100 + sub)).same rfl)

theorem PairsIn.subsystemWrite (hb : PairsIn l b) (h : Hdr) (blk v : Nat) : PairsIn l (b.subsystemWrite h blk v) :=
  .ite (hb.refuseKey ..) (.ite (hb.refuseKey ..) (.ite (hb.refuseKey ..) ((hb.ack h (0x101200 + blk)).same rfl)))

theorem PairsIn.folioWrite (hb : PairsIn l b) (h : Hdr) (image : List Byte) (v : Verdict) : PairsIn l (b.folioWrite h image v) := by
  have hverified : PairsIn l (b.folioVerify image v).2 := hb.keeps (Block.folioVerify_keeps (.refl [.regs, .ev, .free] _) rfl) rfl
  refine .ite (hb.refuseKey ..) (.ite (hb.refuseKey ..) ?_)
  dsimp only
  split
  · exact hverified.refuseKey ..
  · exact hverified.same rfl

theorem PairsIn.flagWrite {f : Block → Block} (hb : PairsIn l b) (h : Hdr) (key v : Nat) (hf : PairsIn l (f b)) :
    PairsIn l (b.flagWrite h key v f) := .ite (hb.refuseKey ..) (PairsIn.ack (.ite hf hb) h key)

theorem PairsIn.switchWrite (hb : PairsIn l b) (h : Hdr) (v : Nat) : PairsIn l (b.switchWrite h v) := by
  have hrequest : PairsIn l (b.requestSwitch v) := hb.keeps (Block.requestSwitch_keeps (.refl [.time, .regs, .ev] _) rfl) rfl
  exact .ite (hb.refuseKey ..) (.ite (hrequest.ack ..) (hrequest.refuseKey ..))

theorem PairsIn.restoreOne (hb : PairsIn l b) (id : Nat) : PairsIn l (b.restoreOne id) :=
  hb.keeps (Block.restoreOne_keeps (.refl [.flash, .chans, .adc, .mrg, .frm, .flt, .regs, .ev] _) rfl) rfl

theorem PairsIn.restoreWrite (hb : PairsIn l b) (h : Hdr) (id : Nat) : PairsIn l (b.restoreWrite h id) :=
  .ite ((hb.forEach fun i _ hx => hx.restoreOne i).ack ..) (.ite ((hb.restoreOne id).ack ..) (hb.refuseKey ..))

theorem PairsIn.retireWrite (hb : PairsIn l b) (h : Hdr) (id : Nat) : PairsIn l (b.retireWrite h id) := by
  have hretired : PairsIn l (b.retire id 4 false true) :=
    hb.keeps (Block.retire_keeps (.refl [.chans, .adc, .mrg, .frm, .twin, .flt, .regs, .ev, .free] _) rfl) rfl
  exact .ite (hb.refuseKey ..) (.ite (hb.ack ..) (hretired.ack ..))

theorem PairsIn.clearLog (hb : PairsIn l b) (h : Hdr) (v : Nat) : PairsIn l (b.clearLog h v) := by
  refine .ite (hb.refuseKey ..) (PairsIn.ack (.ite ?_ hb) h _)
  exact hb.same rfl

theorem PairsIn.commitRollback (hb : PairsIn l b) (h : Hdr) (v : Nat) (burns : List Bool) : PairsIn l (b.commitRollback h v burns) := by
  have hraised : PairsIn l (Block.burnFloor (min b.activeVersion 256 - b.fuses.floor) burns b).2 :=
    hb.keeps (Block.burnFloor_keeps (.refl [.fuses, .regs, .ev] _) rfl) rfl
  exact .ite (hb.refuseKey ..) (.ite (hb.refuseKey ..) (.ite ((hraised.raise _ _).ack ..) (hraised.refuseKey ..)))

theorem PairsIn.keyChange {f g : Block → Block} (hb : PairsIn l b) (h : Hdr) (key action slot fld : Nat) (burns : List Bool)
    (hf : ∀ y, PairsIn l y → PairsIn l (f y)) (hg : ∀ y, PairsIn l y → PairsIn l (g y)) :
    PairsIn l (b.keyChange h key action slot fld burns f g) := by
  have hburn : PairsIn l (b.burn fld slot burns).2.2 := hb.keeps (Block.burn_keeps (.refl [.regs, .ev] _) rfl) rfl
  exact .ite (hb.refuseKey ..) (.ite (hg _ ((hf _ hburn).raise _ _)) (hburn.refuseKey ..))

theorem PairsIn.firstKey (hb : PairsIn l b) (h : Hdr) (hash : List Byte) (burns : List Bool) : PairsIn l (b.firstKey h hash burns) :=
  .ite (hb.refuseKey ..) (hb.keyChange h _ _ _ _ burns (fun _ hy => hy.same rfl) fun _ hy => hy.ack ..)

theorem PairsIn.ownerUpdate (hb : PairsIn l b) (h : Hdr) (image : List Byte) (v : Verdict) (burns : List Bool) :
    PairsIn l (b.ownerUpdate h image v burns) := by
  have hverified : PairsIn l (b.verifyImage typeUpdate image v).2 := hb.keeps (Block.verifyImage_keeps (.refl [.regs, .ev, .free] _) rfl) rfl
  refine .ite (hverified.refuseKey ..) (hverified.keyChange h _ _ _ _ burns (fun y hy => ?_) fun y hy => hy.landed ..)
  exact .ite (hy.same rfl) (.ite (hy.same rfl) (hy.same rfl))

theorem PairsIn.keepToken (hb : PairsIn l b) (h : Hdr) (image : List Byte) : PairsIn l (b.keepToken h image) := by
  refine PairsIn.landed ?_ h _
  exact hb.same rfl

theorem PairsIn.attestRequest (hb : PairsIn l b) (h : Hdr) (nonce : List Byte) : PairsIn l (b.attestRequest h nonce) := by
  refine .ite (hb.refuseKey ..) (PairsIn.ack ?_ h _)
  exact hb.same rfl

theorem PairsIn.woWrite (hb : PairsIn l b) (h : Hdr) (key : Nat) (data : List Byte) : PairsIn l (b.woWrite h key data) := by
  have hset {k : Nat} : PairsIn l (b.setReg k (natLE data)) := hb.same rfl
  refine .ite (hb.subsystemWrite ..) (.ite (.ite (hb.cvuControl ..) (hb.cvuData ..)) ?_)
  split
  · exact hb.keepWrite ..
  · exact hb.forgetWrite ..
  · exact hb.restartWrite ..
  · exact hb.restartWrite ..
  · exact hb.folioWrite ..
  · exact hset.ack h _
  · exact hset.ack h _
  · exact .ite (hb.refuseKey ..) (hb.same rfl)
  · exact hb.switchWrite ..
  · exact hb.flagWrite _ _ _ (hb.keeps (Block.binRestart_keeps (.refl [.bin, .regs] _) rfl) rfl)
  · exact hb.flagWrite _ _ _ (hb.same rfl)
  · exact hb.restoreWrite ..
  · exact hb.retireWrite ..
  · exact hb.clearLog ..
  · exact hb.flagWrite _ _ _ (hb.same rfl)
  · exact hb.commitRollback ..
  · exact hb.ownerUpdate ..
  · exact hb.firstKey ..
  · exact hb.keepToken ..
  · exact hb.attestRequest ..
  · exact hb.ack ..

theorem PairsIn.entryWrite (hb : PairsIn l b) (h : Hdr) (d : Desc) (key : Nat) (data : List Byte) : PairsIn l (b.entryWrite h d key data) := by
  unfold Block.entryWrite
  split
  · exact hb.rsWrite ..
  · exact hb.rwWrite ..
  · exact hb.woWrite ..

theorem PairsIn.writeEntry (hb : PairsIn l b) (h : Hdr) (key : Nat) (data : List Byte) : PairsIn l (b.writeEntry h key data) := by
  have htaken : PairsIn l (b.taken h) := hb.same (Block.taken_pairs ..)
  refine .ite (.ite ?_ (.ite (hb.same (Block.bump_pairs ..)) hb)) hb
  beta_reduce
  split
  · exact htaken.refuseKey ..
  · refine .ite (htaken.refuseKey ..) (.ite (htaken.refuseKey ..) ?_)
    split
    · exact htaken.entryWrite ..
    · exact htaken

/-! ### The orbit boundary (R396, R420, R423, R453) -/

/-- What a write does at the boundary touches the dictionary at the controllers alone. -/
theorem PairsIn.takeWrite (hb : PairsIn l b) (h : Hdr) (key v : Nat) : PairsIn l (b.takeWrite h key v) := by
  have hset (v : Nat) : PairsIn l (b.setReg key v) := hb.same rfl
  have hplan : PairsIn l (b.planTake v) := hb.same rfl
  have hhold : PairsIn l ((b.setReg key v).holdSet (key / 256 - 0x5900) (b.reg key) v) :=
    (hset v).keeps (Block.holdSet_keeps (.refl [.frm] _) rfl) rfl
  have hprbs : PairsIn l ((b.setReg key v).prbsApply (key / 256 - 0x5A00) v) :=
    (hset v).keeps (Block.prbsApply_keeps (.refl [.time, .chans, .adc, .mrg, .frm, .twin, .flt, .regs, .ev, .free] _) rfl) rfl
  have henv : PairsIn l ((b.setReg key v).envConfigSet (key / 256 - 0x7000) (b.reg key) v) :=
    (hset v).keeps (Block.envConfigSet_keeps (.refl [.env] _) rfl) rfl
  exact .ite hplan (.ite hhold (.ite ((hset v).same rfl) (.ite ((hset v).same rfl) (.ite (hb.same rfl) (.ite (hb.same rfl) (.ite (hb.same rfl)
    (.ite (hb.same rfl) (.ite (hset _) (.ite (hb.same rfl) (.ite hprbs (.ite henv (hset v))))))))))))

theorem PairsIn.keepCapture (hb : PairsIn l b) (silent : Bool) : PairsIn l (b.keepCapture silent) := by
  unfold Block.keepCapture
  split
  · exact hb.same rfl
  · exact hb.same rfl
  · exact hb

theorem PairsIn.actMuted (hb : PairsIn l b) (h : Hdr) (key : Nat) (data : List Byte) : PairsIn l (b.actMuted h key data) := by
  have hmuted : PairsIn l (b.onDict fun d => { d with mute := true }) := hb.same rfl
  have hwritten := hmuted.writeEntry h key data
  unfold Block.actMuted
  dsimp only
  generalize (b.onDict fun d => { d with mute := true }).writeEntry h key data = w at hwritten ⊢
  have hcut : PairsIn l (w.onDict fun d => { d with pend := d.pend.take b.dict.pend.length }) := hwritten.same rfl
  exact ((hcut.forEach fun p _ hx => hx.takeWrite p.hdr p.key p.value).keepCapture true).same rfl

theorem PairsIn.resetAborts (hb : PairsIn l b) (blk : Nat) : PairsIn l (b.resetAborts blk) := by
  have hfiltered : PairsIn l (b.onDict fun d => { d with
      pend := d.pend.filter fun p => blockOf (p.key / 256) != blk, pairs := d.pairs.filter fun p => blockOf p.index != blk,
      transfers := d.transfers.filter fun t => !(t.hdr.path == 0 && blockOf t.index == blk) }) :=
    List.Subset.trans (List.filter_subset_self _) hb
  exact ((hfiltered.forEach fun _ _ hx => .ite hx (hx.refuseKey ..)).forEach fun _ _ hx => hx.abort ..).forEach fun _ _ hx => hx.abort ..

theorem PairsIn.beginReset (hb : PairsIn l b) (blk : Nat) : PairsIn l (b.beginReset blk) := by
  unfold Block.beginReset
  dsimp only
  refine PairsIn.raise (PairsIn.keeps ?_ (Block.resetEffect_keeps (.refl [.time, .chans, .chMask, .iu, .adc, .acc, .stk, .queues, .mrg, .frm,
    .cvus, .twin, .flt, .regs, .ev, .env, .free] _) rfl) rfl) _ _
  exact ((hb.resetAborts blk).same (Block.bump_pairs _ 0x101408 (b.resetDiscards blk))).same rfl

theorem PairsIn.none (hb : b.dict.pairs = []) : PairsIn l b := by
  unfold PairsIn
  rw [hb]
  exact List.nil_subset l

theorem PairsIn.resetsDue (hb : PairsIn l b) : PairsIn l b.resetsDue := by
  refine .ite (PairsIn.none rfl) (PairsIn.forEach ?_ fun blk _ hx => hx.beginReset blk)
  exact hb.same rfl

theorem PairsIn.restartsNow (hb : PairsIn l b) : PairsIn l b.restartsNow := .ite (PairsIn.none rfl) hb.resetsDue

/-- Of the pair writes none that is due waits any longer. -/
theorem Block.pairApply_pairs {p : PairWrite} (hp : p ∈ b.pairApply.dict.pairs) : p ∈ b.dict.pairs ∧ b.time.orbit < p.apply := by
  have hleft : PairsIn (b.dict.pairs.filter fun p => decide (b.time.orbit < p.apply)) b.pairApply := by
    unfold Block.pairApply
    dsimp only
    split
    next hnone =>
      intro p hp
      refine List.mem_filter.mpr ⟨hp, ?_⟩
      simpa using List.filter_eq_nil_iff.mp (List.isEmpty_iff.mp hnone) p hp
    next =>
      refine PairsIn.restartsNow (PairsIn.forEach ?_ fun p _ hx => hx.actMuted ..)
      intro p hp
      obtain ⟨hmem, hlater⟩ := List.mem_filter.mp hp
      exact List.mem_filter.mpr ⟨hmem, by simpa using hlater⟩
  obtain ⟨hmem, hlater⟩ := List.mem_filter.mp (hleft hp)
  exact ⟨hmem, of_decide_eq_true hlater⟩

end

/-! ### Writes to the pair address (R420) -/

/-- A pair write that would be taken is acknowledged and waits. -/
theorem Block.pairWrite_waits {b : Block} {h : Hdr} {index : BitVec 16} {sub : BitVec 8} {body : List Byte} (hlength : 6 ≤ body.length)
    (htaken : refusedSince b (b.writeEntry h (index.toNat * 256 + sub.toNat) (body.drop 6)) = false)
    (hother : b.accessIs .rs (index.toNat * 256 + sub.toNat) = false) (htime : b.inTime (natLE (body.take 6)) = true)
    (hroom : b.dict.pairs.length < 8) : b.pairWrite h index.toNat sub.toNat body =
      (b.onDict fun d => { d with pairs := d.pairs ++ [⟨natLE (body.take 6), h, index.toNat, sub.toNat, body.drop 6⟩] }).ack h
        (index.toNat * 256 + sub.toNat) := by
  obtain ⟨hindex, hsub⟩ := key_parts (index := index) (sub := sub) rfl
  rw [Block.accessIs, hindex, hsub] at hother
  unfold Block.pairWrite
  dsimp only
  rw [if_neg (by omega), if_neg (by simp [htaken, hother]), if_neg (by simp [htime]), if_neg (by omega)]

theorem exec_write_pair {h : Hdr} {index : BitVec 16} {sub : BitVec 8} {body : List Byte} {s : State} (hpath : h.path = 0) (hpair : h.pair = true)
    (hhears : s.blk.hears h = true) :
    exec (.write h index sub body) s = .next { s with blk := (s.blk.taken h).pairWrite h index.toNat sub.toNat body } := by
  show execWrite h index sub body s = _
  rw [execWrite, State.run, Block.writeMsg, if_neg (by simp [hpair]), Block.route_own hpath hhears]

/-! ### Keeps and forgets (R422) -/

section

variable {b : Block} {h : Hdr} {n : Nat} {t : Tab Nat}

theorem Block.keepWrite_wrong {v : Nat} (hkey : v ≠ 0x4B454550) : b.keepWrite h v = b.refuseKey h 0x101001 0x07 := if_pos hkey

theorem Block.keepWrite_busy (hbusy : (b.dict.keeping.isSome || b.downloading || b.flashWriting) = true) :
    b.keepWrite h 0x4B454550 = b.refuseKey h 0x101001 0x08 := by
  rw [Block.keepWrite, if_neg (by simp), if_pos (by simpa [or_assoc] using hbusy)]

theorem Block.keepWrite_idle (hidle : (b.dict.keeping.isSome || b.downloading || b.flashWriting) = false) :
    b.keepWrite h 0x4B454550 = if !b.hasFlash then b.refuseKey h 0x101001 0x19
      else (b.setReg 0x101003 1).onDict fun d => { d with keeping := some (h, 0, []) } := by
  rw [Block.keepWrite, if_neg (by simp), if_neg (by simpa [or_assoc, and_assoc] using hidle)]

/-- The block when the flash has sealed a copy, before the answer. -/
def Block.keepSealed (b : Block) (t : Tab Nat) : Block :=
  let x := (((b.onDict fun d => { d with keeping := none }).onFlash fun f => f.keep t).bump 0x101004 1).setReg 0x101003 2
  x.raise 0xD6 [.cnt 32 (x.reg 0x101004)]

/-- The block when the flash has failed to seal a copy, before the answer. -/
def Block.keepFailed (b : Block) : Block :=
  let x := b.onDict fun d => { d with keeping := none }
  ((x.setReg 0x101003 3).raise 0xD7 [.id 8 x.freeVal.toNat]).freeNext

theorem Block.keepDone_sealed (silent : Bool) :
    b.keepDone h silent t true = if silent then b.keepSealed t else (b.keepSealed t).ack h 0x101001 := by
  rw [Block.keepDone]
  dsimp only
  rw [if_pos rfl]
  rfl

theorem Block.keepDone_failed (silent : Bool) :
    b.keepDone h silent t false = if silent then b.keepFailed else b.keepFailed.refuseKey h 0x101001 0x1A := by
  rw [Block.keepDone]
  dsimp only
  rw [if_neg Bool.false_ne_true]
  rfl

/-- What a sealed copy leaves as it was. -/
theorem Block.keepSealed_keeps (b : Block) (t : Tab Nat) :
    Keeps [.flash, .regs, .ev] (b.onDict fun d => { d with keeping := none }) (b.keepSealed t) :=
  Block.raise_keeps (Block.setReg_keeps (Block.bump_keeps (Block.onFlash_keeps (.refl _ _) rfl) rfl) rfl) rfl

theorem Block.keepSealed_flash (b : Block) (t : Tab Nat) : (b.keepSealed t).flash = b.flash.keep t := by simp [Block.keepSealed]

theorem Block.keepSealed_state (b : Block) (t : Tab Nat) : EntryIs 0x101003 2 (b.keepSealed t) :=
  (EntryIs.set _ (by decide) 2).raise (by decide) _

theorem Block.keepSealed_count (b : Block) (t : Tab Nat) : EntryIs 0x101004 (b.reg 0x101004 + 1) (b.keepSealed t) := by
  have hbumped := EntryIs.bumped (k := 0x101004) ((b.onDict fun d => { d with keeping := none }).onFlash fun f => f.keep t) (by decide) 1
  exact (hbumped.setReg (key := 0x101003) 2 (by decide)).raise (by decide) _

theorem Block.keepFailed_keeps (b : Block) : Keeps [.regs, .ev, .free] (b.onDict fun d => { d with keeping := none }) b.keepFailed :=
  Block.freeNext_keeps (Block.raise_keeps (Block.setReg_keeps (.refl _ _) rfl) rfl) rfl

theorem Block.keepFailed_state (b : Block) : EntryIs 0x101003 3 b.keepFailed :=
  ((EntryIs.set _ (by decide) 3).raise (by decide) _).same rfl

theorem Block.keepFailed_count (b : Block) : EntryIs 0x101004 (b.reg 0x101004) b.keepFailed := by
  have hbase : EntryIs 0x101004 (b.reg 0x101004) (b.onDict fun d => { d with keeping := none }) := ⟨by decide, rfl⟩
  exact ((hbase.setReg (key := 0x101003) 3 (by decide)).raise (by decide) _).same rfl

/-- The answer to a keep whose copy has been sealed. -/
theorem Block.keepSealed_answer (b : Block) (h : Hdr) (t : Tab Nat) :
    (b.dict.landings.contains h = false → Acks b ((b.keepSealed t).ack h 0x101001) h 0x101001) ∧
    (b.dict.landings.contains h = true → Answers b ((b.keepSealed t).ack h 0x101001) (mkReply h 0x03 0x1010 1 1 [])) := by
  have hkeeps := b.keepSealed_keeps t
  have hlandings : (b.keepSealed t).dict.landings = b.dict.landings := hkeeps.landings_eq rfl
  refine ⟨fun hwrite => ?_, fun hdownload => ?_⟩
  · exact (Block.ack_acks _ h 0x101001 (by rw [hlandings, hwrite])).congr (hkeeps.replies_eq rfl).symm (hkeeps.mute_eq rfl).symm
  · rw [Block.ack, if_pos (by rw [hlandings, hdownload])]
    exact (Block.landed_answers ..).congr (hkeeps.replies_eq rfl).symm (hkeeps.mute_eq rfl).symm

end

theorem keep_served {h : Hdr} {key : BitVec 32} {s : State} (hw : s.blk.writable h 0x101001 4 = true) :
    let f := s.blk.taken h
    let busy := f.dict.keeping.isSome || f.downloading || f.flashWriting
    (key.toNat ≠ 0x4B454550 → Does (.keep h key) s fun b => b.dict.keeping = f.dict.keeping ∧ Refuses f b h 0x101001 0x07) ∧
    (key.toNat = 0x4B454550 → busy = true → Does (.keep h key) s fun b =>
      b.dict.keeping = f.dict.keeping ∧ Refuses f b h 0x101001 0x08) ∧
    (key.toNat = 0x4B454550 → busy = false → s.blk.hasFlash = false → Does (.keep h key) s fun b =>
      b.dict.keeping = f.dict.keeping ∧ Refuses f b h 0x101001 0x19) ∧
    (key.toNat = 0x4B454550 → busy = false → s.blk.hasFlash = true → Does (.keep h key) s fun b =>
      b.dict.keeping = some (h, 0, []) ∧ b.reg 0x101003 = 1 ∧ b.dict.replies = f.dict.replies) := by
  have hflash : (s.blk.taken h).hasFlash = s.blk.hasFlash := by rw [Block.hasFlash, Block.taken_flash]; rfl
  refine ⟨fun hkey => does_of_writeTo rfl hw ?_, fun hkey hbusy => does_of_writeTo rfl hw ?_, fun hkey hidle hnone => does_of_writeTo rfl hw ?_,
    fun hkey hidle hsome => does_of_writeTo rfl hw ?_⟩
  · rw [Block.keepWrite_wrong hkey]
    exact ⟨Block.refuseKey_keeping .., Block.refuseKey_refuses ..⟩
  · rw [hkey, Block.keepWrite_busy hbusy]
    exact ⟨Block.refuseKey_keeping .., Block.refuseKey_refuses ..⟩
  · rw [hkey, Block.keepWrite_idle hidle, if_pos (by simp [hflash, hnone])]
    exact ⟨Block.refuseKey_keeping .., Block.refuseKey_refuses ..⟩
  · rw [hkey, Block.keepWrite_idle hidle, if_neg (by simp [hflash, hsome])]
    exact ⟨rfl, Block.reg_setReg_same .., rfl⟩

theorem keepComplete_idle {h : Hdr} {n : Nat} {t : Tab Nat} {s : State} (hkeeping : s.blk.dict.keeping = some (h, n, t)) (hidle : n = 0 ∨ n = 3)
    (ok : Bool) : exec (.keepComplete ok) s = .next s := by
  show execKeepComplete ok s = _
  simp only [execKeepComplete, State.run, hkeeping]
  rcases hidle with rfl | rfl <;> rfl

theorem exec_keepComplete {h : Hdr} {n : Nat} {t : Tab Nat} {s : State} (hkeeping : s.blk.dict.keeping = some (h, n, t)) (hruns : n = 1 ∨ n = 2)
    (ok : Bool) : exec (.keepComplete ok) s = .next { s with blk := s.blk.keepDone h (n == 2) t ok } := by
  show execKeepComplete ok s = _
  simp only [execKeepComplete, State.run, hkeeping, Block.when]
  rw [if_pos (by simpa using hruns)]

theorem keepComplete_sealed {h : Hdr} {n : Nat} {t : Tab Nat} {s : State} (hkeeping : s.blk.dict.keeping = some (h, n, t)) (hruns : n = 1 ∨ n = 2) :
    Does (.keepComplete true) s fun b =>
      b.flash = s.blk.flash.keep t ∧ b.dict.keeping = none ∧ b.reg 0x101003 = 2 ∧ b.reg 0x101004 = s.blk.reg 0x101004 + 1 ∧
      (n = 1 → s.blk.dict.landings.contains h = false → Acks s.blk b h 0x101001) ∧
      (n = 1 → s.blk.dict.landings.contains h = true → Answers s.blk b (mkReply h 0x03 0x1010 1 1 [])) ∧
      (n = 2 → b.dict.replies = s.blk.dict.replies) := by
  refine does_of_next (exec_keepComplete hkeeping hruns true) ?_
  rw [Block.keepDone_sealed]
  have hkeeps := s.blk.keepSealed_keeps t
  have hflash := s.blk.keepSealed_flash t
  have hstate := s.blk.keepSealed_state t
  have hcount := s.blk.keepSealed_count t
  have hanswer := s.blk.keepSealed_answer h t
  have hkept : (s.blk.keepSealed t).dict.keeping = none := hkeeps.keeping_eq rfl
  have hreplies : (s.blk.keepSealed t).dict.replies = s.blk.dict.replies := hkeeps.replies_eq rfl
  generalize s.blk.keepSealed t = y at *
  rcases hruns with rfl | rfl
  · rw [if_neg (by decide)]
    exact ⟨(Block.ack_flash ..).trans hflash, (Block.ack_keeping ..).trans hkept, (hstate.ack ..).reg, (hcount.ack ..).reg,
      fun _ => hanswer.1, fun _ => hanswer.2, nofun⟩
  · rw [if_pos (by decide)]
    exact ⟨hflash, hkept, hstate.reg, hcount.reg, nofun, nofun, fun _ => hreplies⟩

theorem keepComplete_failed {h : Hdr} {n : Nat} {t : Tab Nat} {s : State} (hkeeping : s.blk.dict.keeping = some (h, n, t)) (hruns : n = 1 ∨ n = 2) :
    Does (.keepComplete false) s fun b =>
      b.flash = s.blk.flash ∧ b.dict.keeping = none ∧ b.reg 0x101003 = 3 ∧ b.reg 0x101004 = s.blk.reg 0x101004 ∧
      (n = 1 → Refuses s.blk b h 0x101001 0x1A) ∧ (n = 2 → b.dict.replies = s.blk.dict.replies) := by
  refine does_of_next (exec_keepComplete hkeeping hruns false) ?_
  rw [Block.keepDone_failed]
  have hkeeps := s.blk.keepFailed_keeps
  have hflash : s.blk.keepFailed.flash = s.blk.flash := hkeeps.flash_eq rfl
  have hkept : s.blk.keepFailed.dict.keeping = none := hkeeps.keeping_eq rfl
  have hreplies : s.blk.keepFailed.dict.replies = s.blk.dict.replies := hkeeps.replies_eq rfl
  have hmute : s.blk.keepFailed.dict.mute = s.blk.dict.mute := hkeeps.mute_eq rfl
  have hstate := s.blk.keepFailed_state
  have hcount := s.blk.keepFailed_count
  generalize s.blk.keepFailed = y at *
  rcases hruns with rfl | rfl
  · rw [if_neg (by decide)]
    exact ⟨(Block.refuseKey_flash ..).trans hflash, (Block.refuseKey_keeping ..).trans hkept, (hstate.refuseKey ..).reg, (hcount.refuseKey ..).reg,
      fun _ => (Block.refuseKey_refuses ..).congr hreplies.symm hmute.symm, nofun⟩
  · rw [if_pos (by decide)]
    exact ⟨hflash, hkept, hstate.reg, hcount.reg, nofun, fun _ => hreplies⟩

theorem forget_served {h : Hdr} {key : BitVec 32} {s : State} (hw : s.blk.writable h 0x101002 4 = true) :
    let f := s.blk.taken h
    (key.toNat = 0x44464C54 → Does (.forget h key) s fun b =>
      b.flash = { s.blk.flash with keep0 := none, keep1 := none } ∧ Acks f b h 0x101002) ∧
    (key.toNat ≠ 0x44464C54 → Does (.forget h key) s fun b => b.flash = s.blk.flash ∧ Refuses f b h 0x101002 0x07) := by
  refine ⟨fun hkey => does_of_writeTo rfl hw ?_, fun hkey => does_of_writeTo rfl hw ?_⟩
  · rw [Block.forgetWrite, if_neg (by simp [hkey])]
    refine ⟨(Block.ack_flash ..).trans ?_, Acks.of_dict (Block.ack_acks _ h _ (Block.taken_landings ..)) rfl⟩
    rw [Block.onFlash_flash, Block.taken_flash]
  · rw [Block.forgetWrite, if_pos hkey]
    exact ⟨(Block.refuseKey_flash ..).trans (Block.taken_flash ..), Block.refuseKey_refuses ..⟩

/-! ### Flags of WO entries (R112, R118, R429) -/

section

variable {b : Block} {h : Hdr} {key v : Nat} {f : Block → Block} {i : Instr} {s : State} {P : Block → Prop}

theorem does_of_writeOf_wo {l : List Byte} (hi : exec i s = .next { s with blk := s.blk.writeOf h .wo key l })
    (hw : s.blk.writable h key l.length = true) (hrow : (descOf (key / 256) (key % 256)).map Desc.access = some .wo)
    (hqueue : key / 256 < 0x5400 ∨ 0x54FF < key / 256) (hP : P ((s.blk.taken h).woWrite h key l)) : Does i s P := by
  obtain ⟨d, hd, haccess⟩ := Option.map_eq_some_iff.mp hrow
  have hentry : s.blk.entryOf (key / 256) (key % 256) = some d := by rw [Block.entryOf, if_neg (by omega), hd]
  exact does_of_next hi (by rwa [Block.writeOf_writable hw hentry haccess, Block.entryWrite_wo haccess])

theorem Block.flagWrite_one : b.flagWrite h key 1 f = (f b).ack h key := by
  rw [Block.flagWrite, if_neg (by omega), if_pos rfl]

theorem Block.flagWrite_zero : b.flagWrite h key 0 f = b.ack h key := by
  rw [Block.flagWrite, if_neg (by omega), if_neg (by omega)]

theorem Block.flagWrite_more (hmore : 1 < v) : b.flagWrite h key v f = b.refuseKey h key 0x07 := if_pos hmore

/-- What calibrates again starts from the fused trims, and measures once the first lock has been. -/
theorem Block.binRestart_bin (b : Block) : b.binRestart.bin = { trims := b.fuses.binTrims } := by
  unfold Block.binRestart
  dsimp only
  split <;> rfl

theorem Block.binRestart_state (hlocked : b.time.everLocked = true) : EntryIs 0x400101 1 b.binRestart := by
  unfold Block.binRestart
  dsimp only
  rw [if_pos (by exact hlocked)]
  exact (EntryIs.set _ (by decide) 1).setReg _ (by decide)

/-- A row of a flag is the flag's write. -/
theorem does_of_flag {value : BitVec 8} (hi : exec i s = .next { s with blk := s.blk.writeOf h .wo key (bytesLE 1 value.toNat) })
    (hw : s.blk.writable h key 1 = true) (hrow : (descOf (key / 256) (key % 256)).map Desc.access = some .wo)
    (hqueue : key / 256 < 0x5400 ∨ 0x54FF < key / 256) (hwo : ∀ (y : Block) (l : List Byte), y.woWrite h key l = y.flagWrite h key (natLE l) f)
    (hP : P ((s.blk.taken h).flagWrite h key value.toNat f)) : Does i s P :=
  does_of_writeOf_wo hi hw hrow hqueue (by rwa [hwo, natLE_one value.isLt])

theorem does_of_binCalRestart {value : BitVec 8} (hw : s.blk.writable h 0x400106 1 = true)
    (hP : P ((s.blk.taken h).flagWrite h 0x400106 value.toNat fun b => b.binRestart)) : Does (.binCalRestart h value) s P :=
  does_of_flag rfl hw (by decide) (by decide) (fun _ _ => by simp [Block.woWrite]) hP

theorem does_of_campaignAbort {value : BitVec 8} (hw : s.blk.writable h 0x401008 1 = true)
    (hP : P ((s.blk.taken h).flagWrite h 0x401008 value.toNat fun b => b.campaignAbort)) : Does (.campaignAbort h value) s P :=
  does_of_flag rfl hw (by decide) (by decide) (fun _ _ => by simp [Block.woWrite]) hP

theorem does_of_historyClear {value : BitVec 8} (hw : s.blk.writable h 0x780003 1 = true)
    (hP : P ((s.blk.taken h).flagWrite h 0x780003 value.toNat fun b => b.onEv fun e => { e with ring := [] })) : Does (.historyClear h value) s P :=
  does_of_flag rfl hw (by decide) (by decide) (fun _ _ => by simp [Block.woWrite]) hP

theorem binCalRestart_served {value : BitVec 8} (hw : s.blk.writable h 0x400106 1 = true) : let f := s.blk.taken h
    (value.toNat = 1 → Does (.binCalRestart h value) s fun b =>
      b.bin = { trims := s.blk.fuses.binTrims } ∧ (s.blk.time.everLocked = true → b.reg 0x400101 = 1) ∧ Acks f b h 0x400106) ∧
    (value.toNat = 0 → Does (.binCalRestart h value) s fun b => b.bin = s.blk.bin ∧ Acks f b h 0x400106) ∧
    (1 < value.toNat → Does (.binCalRestart h value) s fun b => b.bin = s.blk.bin ∧ Refuses f b h 0x400106 0x07) := by
  refine ⟨fun hone => does_of_binCalRestart hw ?_, fun hzero => does_of_binCalRestart hw ?_, fun hmore => does_of_binCalRestart hw ?_⟩
  · rw [hone, Block.flagWrite_one]
    have hkeeps : Keeps [.bin, .regs] (s.blk.taken h) (s.blk.taken h).binRestart := Block.binRestart_keeps (.refl _ _) rfl
    refine ⟨?_, fun hlocked => ((Block.binRestart_state (by rwa [Block.taken_time])).ack ..).reg, Acks.after hkeeps rfl (Block.taken_landings ..)⟩
    rw [Block.ack_bin, Block.binRestart_bin, Block.taken_fuses]
  · rw [hzero, Block.flagWrite_zero]
    exact ⟨(Block.ack_bin ..).trans (Block.taken_bin ..), Block.ack_acks _ h _ (Block.taken_landings ..)⟩
  · rw [Block.flagWrite_more hmore]
    exact ⟨(Block.refuseKey_bin ..).trans (Block.taken_bin ..), Block.refuseKey_refuses ..⟩

theorem campaignAbort_served {value : BitVec 8} (hw : s.blk.writable h 0x401008 1 = true) : let f := s.blk.taken h
    (value.toNat = 1 → Does (.campaignAbort h value) s fun b =>
      b.iu = { s.blk.iu with campaign := none, window := none, shots := 0, acc := [] } ∧ Acks f b h 0x401008) ∧
    (1 < value.toNat → Does (.campaignAbort h value) s fun b => b.iu = s.blk.iu ∧ Refuses f b h 0x401008 0x07) := by
  refine ⟨fun hone => does_of_campaignAbort hw ?_, fun hmore => does_of_campaignAbort hw ?_⟩
  · rw [hone, Block.flagWrite_one]
    refine ⟨(Block.ack_iu ..).trans ?_, Acks.of_dict (Block.ack_acks _ h _ (Block.taken_landings ..)) rfl⟩
    rw [Block.campaignAbort, Block.onIu_iu, Block.taken_iu]
  · rw [Block.flagWrite_more hmore]
    exact ⟨(Block.refuseKey_iu ..).trans (Block.taken_iu ..), Block.refuseKey_refuses ..⟩

theorem Block.inbandSend_quiet (hrole : b.cRole = true) (o : Nat) (m : List Byte) : (b.inbandSend o m).ev = b.ev := by
  rw [Block.inbandSend, if_pos hrole, Block.ownService]
  split <;> rfl

/-- An answer raises nothing where it leaves over CAN, or waits for the partner or the merge. -/
theorem sendReply_quiet {r : Reply} (hpath : onCan r.origin = true ∨ b.cRole = true) : (b.sendReply r).ev = b.ev := by
  unfold Block.sendReply
  dsimp only
  cases b.dict.mute with
  | true => rfl
  | false =>
    simp only [Bool.false_eq_true, if_false, Bool.false_or]
    split
    next => rfl
    next hinband =>
      exact Block.inbandSend_quiet (b := b.onDict fun d => { d with replies := d.replies ++ [r] }) (hpath.resolve_left hinband) _ _

theorem historyClear_served {value : BitVec 8} (hw : s.blk.writable h 0x780003 1 = true) : let f := s.blk.taken h
    (value.toNat = 1 → Does (.historyClear h value) s fun b =>
      ((onCan h.origin = true ∨ s.blk.cRole = true) → b.ev.ring = []) ∧ Acks f b h 0x780003) ∧
    (1 < value.toNat → Does (.historyClear h value) s fun b => Refuses f b h 0x780003 0x07) := by
  refine ⟨fun hone => does_of_historyClear hw ?_, fun hmore => does_of_historyClear hw ?_⟩
  · rw [hone, Block.flagWrite_one]
    refine ⟨fun hpath => ?_, Acks.of_dict (Block.ack_acks _ h _ (Block.taken_landings ..)) rfl⟩
    have hrole : ((s.blk.taken h).onEv fun e => { e with ring := [] }).cRole = s.blk.cRole := Block.taken_cRole ..
    have hwrite : ¬((s.blk.taken h).onEv fun e => { e with ring := [] }).dict.landings.contains h = true :=
      Bool.not_eq_true _ ▸ Block.taken_landings s.blk h
    rw [Block.ack, if_neg hwrite, Block.reply, sendReply_quiet (by rwa [hrole])]
    rfl
  · rw [Block.flagWrite_more hmore]
    exact Block.refuseKey_refuses ..

end

/-- Settles O50: pair writes by what a write of their entry would meet and by the pair writes that stay, keeps by their state, flags by their
value. -/
theorem keepsAndPairWrites : Obligations.KeepsAndPairWrites := by
  unfold Obligations.KeepsAndPairWrites
  refine ⟨fun h index sub body s hpath hpair hhears hlength htaken hother htime hroom => does_of_next (exec_write_pair hpath hpair hhears) ?_,
    fun s hrunning => ⟨fun hlater => ?_, does_of_when rfl hrunning fun p hp => Block.pairApply_pairs hp⟩, fun h key s hw => keep_served hw,
    fun h n t s hkeeping => ⟨keepComplete_idle hkeeping, keepComplete_sealed hkeeping, keepComplete_failed hkeeping⟩,
    fun h key s hw => forget_served hw,
    fun h value s => ⟨binCalRestart_served, campaignAbort_served, historyClear_served⟩⟩
  · rw [Block.pairWrite_waits hlength htaken hother htime hroom]
    refine ⟨Block.ack_pairs .., Answers.congr (Block.ack_acks _ h _ ?_) rfl rfl⟩
    exact Block.taken_landings ..
  · refine exec_of_when_same rfl ?_
    exact if_pos (List.isEmpty_iff.mpr (List.filter_eq_nil_iff.mpr fun p hp => by simpa using hlater p hp))

end Sys2Proof.Machine
end

section
/-! PROOFS. Messages in band, service records and workers' events (R356, R386, R400, R401, R412, R413, R428, R446). -/

namespace Sys2Proof.Machine

/-! ### Messages as their bytes spell them (R400, R401) -/

section

variable {env : Word64} {o : Origin} {tag sub : BitVec 8} {path session op arg : Nat} {index : BitVec 16} {body : List Byte} {s : State}

/-- The bytes of a message of the long form. -/
def requestBytes (op path : Nat) (tag : BitVec 8) (session : Nat) (index : BitVec 16) (sub arg : BitVec 8) (body : List Byte) : List Byte :=
  BitVec.ofNat 8 op :: BitVec.ofNat 8 path :: tag :: BitVec.ofNat 8 session :: BitVec.ofNat 8 index.toNat ::
    BitVec.ofNat 8 (index.toNat / 256) :: sub :: arg :: body

theorem parseMsg_requestBytes (hop : op < 256) (hlong : shortForm op = false) (hpath : path < 256) (hsession : session < 256)
    (arg : BitVec 8) : parseMsg (requestBytes op path tag session index sub arg body) =
      ⟨op, path, tag.toNat, session, index.toNat, sub.toNat, arg.toNat, body⟩ := by
  have hbyte {n : Nat} (hn : n < 256) : (BitVec.ofNat 8 n).toNat = n := Nat.mod_eq_of_lt hn
  have hhead : byteAt (requestBytes op path tag session index sub arg body) 0 = op := hbyte hop
  have hindex : natLE (octets (requestBytes op path tag session index sub arg body) 4 2) = index.toNat :=
    natLE_bytesLE (n := 2) index.isLt
  unfold parseMsg
  dsimp only
  rw [hhead, hindex, if_neg (by simp [hlong])]
  simp [requestBytes, byteAt, Nat.mod_eq_of_lt hpath, Nat.mod_eq_of_lt hsession]

/-- A message that is complete and for this device is executed with the header that its bytes give. -/
theorem exec_inbandMessage {m : List Byte} (hrunning : s.blk.running = true) (htarget : s.blk.targeted (bits env.toNat 63 62) = true)
    (horigin : s.blk.originOf (bits env.toNat 61 60) = some o) : exec (.inbandMessage env m) s =
      .next { s with
        blk := s.blk.execMessage o (s.blk.cRole && s.blk.topology == 0 && bits env.toNat 63 62 == 3) m } := by
  show execInbandMessage env m s = _
  rw [execInbandMessage, State.run, Block.when, if_pos hrunning, Block.inbandMessage]
  rw [if_neg (by simp [htarget]), horigin]

theorem exec_inbandMessage_elsewhere {m : List Byte} (htarget : s.blk.targeted (bits env.toNat 63 62) = false) :
    exec (.inbandMessage env m) s = .next s :=
  exec_of_when_same rfl (if_pos (by simp [htarget]))

variable {pair : Bool} {b : Block} (hpath : path < 256) (hsession : session < 256)

include hpath hsession

theorem Block.execMessage_read : b.execMessage o pair (requestBytes 0x01 path tag session index sub 0 []) =
    b.route ⟨o, pair, path, tag, session⟩ 0x01 index.toNat sub.toNat 0 [] fun b =>
      b.readEntry ⟨o, pair, path, tag, session⟩ index.toNat sub.toNat := by
  rw [Block.execMessage, parseMsg_requestBytes (by decide) rfl hpath hsession]
  dsimp only
  rw [BitVec.ofNat_toNat, BitVec.setWidth_eq]
  rfl

theorem Block.execMessage_write (hlength : body.length < 256) :
    b.execMessage o pair (requestBytes 0x02 path tag session index sub (BitVec.ofNat 8 body.length) body) =
      b.writeMsg ⟨o, pair, path, tag, session⟩ index.toNat sub.toNat body := by
  have harg : body.take (BitVec.ofNat 8 body.length).toNat = body := by
    rw [BitVec.toNat_ofNat, Nat.mod_eq_of_lt hlength, List.take_length]
  rw [Block.execMessage, parseMsg_requestBytes (by decide) rfl hpath hsession]
  dsimp only
  rw [BitVec.ofNat_toNat, BitVec.setWidth_eq, harg]
  rfl

theorem Block.execMessage_abort (code : BitVec 32) :
    b.execMessage o pair (requestBytes 0x07 path tag session index sub 0 (bytesLE 4 code.toNat)) =
      b.abortMsg ⟨o, pair, path, tag, session⟩ code.toNat := by
  have hcode : natLE ((bytesLE 4 code.toNat).take 4) = code.toNat := natLE_bytesLE (n := 4) code.isLt
  rw [Block.execMessage, parseMsg_requestBytes (by decide) rfl hpath hsession]
  dsimp only
  rw [BitVec.ofNat_toNat, BitVec.setWidth_eq, hcode]
  rfl

end

/-! ### Service records (R356, R412) -/

/-- A record that finds room in SVC takes its place there. -/
theorem Block.svcWrite_places {b : Block} {w : Word64} (hwaits : (b.queue 1).waits = false)
    (hroom : (b.queue 1).room (queueCapacity 1) (QRec.control { word := w, cross := b.time.now }) = true) (hopen : (b.queue 1).open_.length < 4) :
    ((b.svcWrite [w]).queue 1).open_ = (b.queue 1).open_ ++ [{ word := w, cross := b.time.now }] ∧
    ((b.svcWrite [w]).queue 1).words = (b.queue 1).words ∧ ∀ p, p ≠ 1 → (b.svcWrite [w]).queue p = b.queue p := by
  have hplaced : b.svcWrite [w] = b.qPlace 1 { word := w, cross := b.time.now } := Block.qWrite_of_room hwaits hroom
  obtain ⟨n, hqueue⟩ := (QueueIs.refl b 1).qPlace { word := w, cross := b.time.now }
  rw [hplaced]
  refine ⟨?_, ?_, hqueue.rest⟩
  · rw [hqueue.own, Queue.placed_open hopen]
    rfl
  · rw [hqueue.own, Queue.placed_open hopen]

/-! ### Workers' events (R386, R428, R446) -/

section

variable {b : Block} {p : Nat} {w : Word64}

theorem Block.relayEvent_frame (b : Block) (p : Nat) (w : Word64) : Keeps [.regs, .ev] b (b.relayEvent p w) :=
  Block.relayEvent_keeps (.refl _ _) rfl

/-- A port that a worker's BOOT_READY names is ready. -/
def Block.portReady (b : Block) (p : Nat) : Block := b.onBoot fun k => if k.ready.contains p then k else { k with ready := k.ready ++ [p] }

theorem Block.portReady_ready (b : Block) (p : Nat) : p ∈ (b.portReady p).boot.ready := by
  rw [Block.portReady, Block.onBoot_boot]
  split
  next hthere => exact List.contains_iff_mem.mp hthere
  next => exact List.mem_append_right _ (List.mem_singleton_self p)

theorem Block.workerReady_ready (b : Block) (p : Nat) : p ∈ (b.workerReady p).boot.ready := by
  have hwrite (x : Block) (key : Nat) (body : List Byte) : (x.ownWrite p key body true).boot = x.boot :=
    (Block.ownWrite_keeps (.refl [.queues, .mrg, .regs, .dict, .ev] x) rfl).boot_eq rfl rfl
  unfold Block.workerReady
  dsimp only
  split
  · rw [hwrite]
    exact b.portReady_ready p
  · exact b.portReady_ready p

/-- Before the release is decided nobody joins. -/
theorem Block.workerReady_joining (hopen : b.boot.decided = none) : (b.workerReady p).boot.joining = b.boot.joining := by
  have hdecided : (b.portReady p).boot.decided = none := by
    rw [Block.portReady, Block.onBoot_boot]
    split <;> exact hopen
  have hjoining : (b.portReady p).boot.joining = b.boot.joining := by
    rw [Block.portReady, Block.onBoot_boot]
    split <;> rfl
  have hends : b.workerReady p = b.portReady p := if_neg (by
    show ¬(((b.portReady p).boot.decided.isSome && _ && _) = true)
    simp [hdecided])
  rw [hends, hjoining]

/-- The site stands at the head of an entry of the list. -/
theorem listEntry_site (id cause : Nat) (adopted byCommand : Bool) (orbit : Nat) (hid : id < 2 ^ 16) :
    bits (listEntry id cause adopted byCommand orbit).toNat 63 48 = id := by
  have hlow := pack_lt [(8, cause), (6, 0), (1, flag adopted), (1, flag byCommand), (32, orbit)]
  unfold listEntry rec64 bits
  rw [pack, Nat.mod_eq_of_lt hid, BitVec.toNat_ofNat, Nat.shiftRight_eq_div_pow]
  simp only [List.map_cons, List.map_nil, List.sum_cons, List.sum_nil] at hlow ⊢
  omega

/-- A worker's retirement joins those of its port while fewer than 64 are kept. -/
theorem Block.workerRetired_kept (hfew : (tabGet [] b.flt.workers p).length < 64) :
    ∃ e : Word64, bits e.toNat 63 48 = bits w.toNat 47 32 ∧
      tabGet [] (b.workerRetired p w).flt.workers p = tabGet [] b.flt.workers p ++ [e] := by
  refine ⟨_, listEntry_site (bits w.toNat 47 32) (b.freeVal.toNat % 256) (b.freeVal.toNat.testBit 8) (b.freeVal.toNat.testBit 9) b.time.orbit
    (bits_lt ..), ?_⟩
  rw [Block.workerRetired, if_neg (by omega)]
  exact tabGet_tabSet_same ..

end

/-- Settles O52: messages by what their bytes spell, records by the role and the topology, events by their source. -/
theorem messagesAreTaken : Obligations.MessagesAreTaken := by
  unfold Obligations.MessagesAreTaken
  refine ⟨fun env o tag sub path session index s hrunning hpath hsession => ⟨fun htarget horigin => ?_, fun htarget m => ?_⟩,
    fun record s hrunning => ⟨fun hrole htwin => does_of_when rfl hrunning ?_, fun hrole hsolo => does_of_when rfl hrunning ?_,
      fun hrole hwaits hroom hopen => does_of_when rfl hrunning ?_⟩,
    fun p m s hrunning hrole => ⟨fun hready => does_of_when rfl (by simp [hrunning, hrole]) ?_,
      fun hretired hfew => does_of_when rfl (by simp [hrunning, hrole]) ?_, fun hready hretired hquiet => exec_of_when_same rfl ?_⟩⟩
  · have hexec {m : List Byte} := exec_inbandMessage (m := m) hrunning htarget horigin
    refine ⟨does_of_next hexec ?_, fun body hlength => does_of_next hexec ?_, fun code => does_of_next hexec ?_⟩
    · exact congrArg (fun b => Host.Outcome.next { s with blk := b }) (Block.execMessage_read hpath hsession).symm
    · exact congrArg (fun b => Host.Outcome.next { s with blk := b }) (Block.execMessage_write hpath hsession hlength).symm
    · exact congrArg (fun b => Host.Outcome.next { s with blk := b }) (Block.execMessage_abort hpath hsession code).symm
  · exact exec_inbandMessage_elsewhere htarget
  · rw [if_pos hrole, Block.ownService, if_pos htwin]
    exact ⟨rfl, rfl⟩
  · rw [if_pos hrole, Block.ownService, if_neg hsolo]
    exact ⟨rfl, rfl⟩
  · rw [if_neg (by simp [hrole])]
    exact Block.svcWrite_places hwaits hroom hopen
  · have hframe := s.blk.relayEvent_frame (p.val + 1) m
    have hboot : (s.blk.relayEvent (p.val + 1) m).boot = s.blk.boot := hframe.boot_eq rfl rfl
    rw [Block.workerEvent, if_pos hready, ← hboot]
    exact ⟨Block.workerReady_ready .., fun hopen => Block.workerReady_joining hopen⟩
  · have hframe := s.blk.relayEvent_frame (p.val + 1) m
    have hflt : (s.blk.relayEvent (p.val + 1) m).flt = s.blk.flt := hframe.flt_eq rfl
    rw [← hflt] at hfew
    rw [Block.workerEvent, if_neg (by simp [hretired]), if_pos hretired, ← hflt]
    exact Block.workerRetired_kept hfew
  · rw [Block.workerEvent, if_neg hready, if_neg hretired, Block.relayEvent, if_pos hquiet]

end Sys2Proof.Machine
end
